-- ==== Sys2Proof/Word.lean ====
section
/-! DEFINITION. The word types of the block: a set-up register is a 32-bit word (R6), memory is bytes. -/

namespace Sys2Proof

/-- One set-up register (R6). -/
abbrev Word := BitVec 32

/-- One byte of memory. -/
abbrev Byte := BitVec 8

/-- A host function number F0 to F7. -/
abbrev FnId := Fin 8
/-- A ring of a function: 0 to 3 command, 4 completion, 5 event. -/
abbrev RingId := Fin 6
/-- An engine ME0 to ME63. -/
abbrev EngId := Fin 64
/-- An axis AX0 to AX47. -/
abbrev AxId := Fin 48
/-- A power bank PB0 to PB5. -/
abbrev BankId := Fin 6
/-- A CAN controller. -/
abbrev CanId := Fin 4
/-- A field I/O channel DIO0 to DIO47. -/
abbrev DioId := Fin 48
/-- A pulse repeater. -/
abbrev PoId := Fin 6
/-- A fan channel. -/
abbrev FanId := Fin 2
/-- A line port. -/
abbrev PortId := Fin 2
/-- An internal transmit queue. -/
abbrev TxqId := Fin 16
/-- A safety group. -/
abbrev GrpId := Fin 8
/-- A safe-input pair. -/
abbrev PairId := Fin 4

/-- The power bank of an axis: AXn belongs to PB(n div 8) (R15). -/
def AxId.bank (n : AxId) : BankId := ⟨n.val / 8, by omega⟩

/-- Axes 0 and 1 of each bank are premium, the others standard (R491: AX_INFO.KIND). -/
def AxId.premium (n : AxId) : Bool := n.val % 8 < 2

end Sys2Proof
end

