-- ==== Sys2Proof/Syntax.lean ====
section
/-! DEFINITION. The commands of the block: one constructor of `Instr` for each row of spec/opcode_table.json, in the
table's order, and the operand types they carry. The first rows are the engine instructions of 03_engine_instructions.md,
each with the engine that issues it; the others are events of the outside world, deliveries of admitted host commands and
writes of set-up registers. -/

namespace Sys2Proof

/-! ## Operands of the engine instructions (03_engine_instructions.md, R98 to R101) -/

/-- An H register of the bank in use. -/
abbrev HReg := Fin 16
/-- An F register of the bank in use. -/
abbrev FReg := Fin 16
/-- An accumulator of the bank in use. -/
abbrev AReg := Fin 4
/-- A pointer of the bank in use. -/
abbrev PReg := Fin 8

/-- The amount of SHL, ASR and LSR: an immediate of 0 to 15, or an H register (Table 5). -/
inductive ShiftAmt where
  | imm (n : Fin 16)
  | reg (b : HReg)
  deriving DecidableEq, Repr

/-- A memory operand of format M: pointer, post-modify bit and signed offset (R116). -/
structure MemArg where
  ptr : PReg
  post : Bool
  off : BitVec 13
  deriving DecidableEq, Repr

/-- The kinds of event, coded as EV_CAUSE (Table 3 and Table 6 of 02_engines.md). -/
inductive EvKind where
  | sample | fault | host | release
  deriving DecidableEq, Repr

/-- The code of a kind in EV_CAUSE[1:0] and ENG_STAT.FAULT_EV. -/
def EvKind.code : EvKind → Nat
  | .sample => 0 | .fault => 1 | .host => 2 | .release => 3

/-! ## Who sent a command, and the host commands (10_descriptors.md, Tables 2 and 3) -/

/-- A host command as the rings name it: function, command ring and sequence number (R296). -/
structure CmdSrc where
  fn : FnId
  ring : Fin 4
  seq : BitVec 32
  deriving DecidableEq, Repr

/-- The stop categories of R147. -/
inductive StopCat where
  | off | ramp | rampHold
  deriving DecidableEq, Repr

/-- A binary32 parameter (R312). -/
abbrev F32 := BitVec 32

/-- A host command with the parameters of Table 3 of 10_descriptors.md. -/
inductive HostCmd where
  | axisEnable (n : AxId) (on : Bool)
  | axisHold (n : AxId)
  | wcClear (n : AxId)
  | setCoef (n : AxId) (id : BitVec 8) (value : BitVec 32)
  | posPreload (n : AxId) (pos : Int)
  | groupStop (mask : BitVec 48) (cat : StopCat)
  | moveAbs (n : AxId) (t : Int) (v a d j : F32)
  | moveVel (n : AxId) (vel a j : F32)
  | moveLim (n : AxId) (v a d j : F32)
  | gear (n : AxId) (src : BitVec 8) (master : BitVec 8) (num : Int) (den e : Nat) (ph : Int)
  | cam (n : AxId) (src : BitVec 8) (master : BitVec 8) (cam : BitVec 8) (mp : Nat) (mo : Int) (scale rise : F32)
  | home (n : AxId) (reverse : Bool) (iHome : BitVec 16) (vHome : F32) (homePos : Int) (backoff maxDist : Nat)
  | stepCfg (n : AxId) (stallN : BitVec 8) (iRun iHold : BitVec 16) (holdMs : BitVec 16) (stallTh : BitVec 16) (stallVmin : F32)
  | latchArm (n : AxId) (unit : Fin 2) (dio : BitVec 8) (edge : BitVec 8) (mode : BitVec 8) (target : BitVec 8)
  | snapshot
  | dioSet (mask value : BitVec 48)
  | poSet (k : BitVec 8) (n m : BitVec 16)
  | canTx (c : BitVec 8) (fmt : BitVec 8) (dlc : BitVec 8) (id : BitVec 32) (data : List Byte)
  | canMode (c : BitVec 8) (mode : BitVec 8)
  | canRecover (c : BitVec 8)
  | netTx (q : BitVec 8) (frame : List Byte)
  | timeAccept
  | engLoad (m : BitVec 8) (image : List Byte)
  | engStart (m : BitVec 8)
  | monCfg (n : AxId) (enable : BitVec 8) (monEng bandset nlog : BitVec 8) (rinj : BitVec 16) (lq rRef tRef : F32)
  | monBaseline (n : AxId)
  | profileLoad (p : BitVec 8)
  | safeConfirm (check : BitVec 32)
  deriving DecidableEq, Repr

/-! ## Operands of the events -/

/-- Codes of one offset conversion of an axis: channels U, V, W and the DC link (R132). -/
structure OfsCodes where
  u : BitVec 12
  v : BitVec 12
  w : BitVec 12
  dc : BitVec 12
  deriving DecidableEq, Repr

/-- A frame boundary falls for a bank, unshifted, or for one axis at its own offset (R153, R154). An axis boundary carries
the codes that a conversion triggered there delivers, for an axis that measures its offsets (R132). -/
inductive FrameAt where
  | bank (b : BankId)
  | axis (n : AxId) (codes : OfsCodes)
  deriving DecidableEq, Repr

/-- What the VBAK charger finds (R460, R461), with VBAK in mV: charging has reached the constant voltage; the current in µA at that voltage, or
while a supercapacitor floats; VBAK before and after the 1 ms of the test load; 10 s have passed with no element present. -/
inductive VbakEvent where
  | cv (mv : Nat)
  | load (mv ua : Nat)
  | result (before after : Nat)
  | retry
  deriving DecidableEq, Repr

/-- How far the run of a handler of a vendor axis image gets before something stops its engine (R39, R426): not to its commit; to the commit
and not to the Cast; into the half of the Cast, whose MARK it does not reach; or to its end. -/
inductive RunReach where
  | entry | commit | torn | whole
  deriving DecidableEq, Repr

/-- One analog result set of an axis for a frame (R127): conversion codes of the channels U, V, W, of the DC link at the
first and at the second trigger, the bank temperature inputs and the VM sample, as the analog front end delivers them. -/
structure AdcSet where
  u : BitVec 12
  v : BitVec 12
  w : BitVec 12
  dc1 : BitVec 12
  dc2 : BitVec 12
  tb0 : BitVec 16
  tb1 : BitVec 16
  vms : BitVec 12
  deriving DecidableEq, Repr

/-- A bridge leg. -/
inductive Leg where
  | u | v | w
  deriving DecidableEq, Repr

def Leg.idx : Leg → Fin 3
  | .u => 0 | .v => 1 | .w => 2

/-- An Ethernet frame as the switch sees it: addresses, VLAN tag, EtherType and payload (R345, R352). The first octet of an
address is its bits 7:0, as in NET_MAC. -/
structure EthFrame where
  da : BitVec 48
  sa : BitVec 48
  tagged : Bool
  vid : BitVec 12
  pcp : BitVec 3
  etype : BitVec 16
  payload : List Byte
  fcsOk : Bool
  deriving DecidableEq, Repr

/-- A CAN frame (R364, R366). -/
structure CanFrame where
  id : BitVec 29
  xtd : Bool
  fdf : Bool
  brs : Bool
  rtr : Bool
  esi : Bool
  dlc : BitVec 4
  data : List Byte
  deriving DecidableEq, Repr

/-- The kinds of resource that have an owner (R285). -/
inductive Res where
  | axis (n : AxId) | dio (d : DioId) | can (c : CanId) | txq (q : TxqId)
  deriving DecidableEq, Repr

/-- A safety PDU on the wire (R412). -/
abbrev Pdu := List Byte

/-- The commands. The order is that of spec/opcode_table.json. -/
inductive Instr where
  -- engine instructions
  | nop (e : EngId)
  | br (e : EngId) (cond : Fin 16) (target : BitVec 12)
  | jal (e : EngId) (d : PReg) (target : BitVec 12)
  | jr (e : EngId) (a : PReg)
  | bdec (e : EngId) (a : PReg) (target : BitVec 12)
  | rpt (e : EngId) (count : BitVec 8)
  | rete (e : EngId)
  | wait (e : EngId)
  | mfsw (e : EngId) (d : HReg)
  | mtsw (e : EngId) (a : HReg)
  | satm (e : EngId) (b : Bool)
  | mfs (e : EngId) (d : PReg) (sr : BitVec 5)
  | mts (e : EngId) (sr : BitVec 5) (a : PReg)
  | add (e : EngId) (d a b : HReg)
  | sub (e : EngId) (d a b : HReg)
  | min (e : EngId) (d a b : HReg)
  | max (e : EngId) (d a b : HReg)
  | and (e : EngId) (d a b : HReg)
  | or (e : EngId) (d a b : HReg)
  | xor (e : EngId) (d a b : HReg)
  | andn (e : EngId) (d a b : HReg)
  | mov (e : EngId) (d a : HReg)
  | neg (e : EngId) (d a : HReg)
  | abs (e : EngId) (d a : HReg)
  | not (e : EngId) (d a : HReg)
  | addi (e : EngId) (d a : HReg) (imm : BitVec 14)
  | lih (e : EngId) (d : HReg) (imm : BitVec 16)
  | shl (e : EngId) (d a : HReg) (n : ShiftAmt)
  | asr (e : EngId) (d a : HReg) (n : ShiftAmt)
  | lsr (e : EngId) (d a : HReg) (n : ShiftAmt)
  | cmp (e : EngId) (a b : HReg)
  | cmpi (e : EngId) (a : HReg) (imm : BitVec 14)
  | norm (e : EngId) (d a : HReg)
  | norma (e : EngId) (d : HReg) (a : AReg)
  | mpy (e : EngId) (d a b : HReg)
  | mac (e : EngId) (d : AReg) (a b : HReg)
  | msu (e : EngId) (d : AReg) (a b : HReg)
  | mpya (e : EngId) (d : AReg) (a b : HReg)
  | macm (e : EngId) (d : AReg) (a b : PReg) (pair : Bool)
  | msum (e : EngId) (d : AReg) (a b : PReg) (pair : Bool)
  | adda (e : EngId) (d a b : AReg)
  | suba (e : EngId) (d a b : AReg)
  | mova (e : EngId) (d a : AReg)
  | ldah (e : EngId) (d : AReg) (a : HReg)
  | clra (e : EngId) (d : AReg)
  | nega (e : EngId) (d a : AReg)
  | absa (e : EngId) (d a : AReg)
  | sha (e : EngId) (d a : AReg) (s : BitVec 6)
  | exth (e : EngId) (d : HReg) (a : AReg) (s : BitVec 5)
  | cmpa (e : EngId) (a b : AReg)
  | movph (e : EngId) (d : PReg) (a : HReg)
  | movhp (e : EngId) (d : HReg) (a : PReg)
  | padd (e : EngId) (d a : PReg) (circ : Bool) (off : BitVec 13)
  | pli (e : EngId) (d : PReg) (imm : BitVec 16)
  | cmpp (e : EngId) (a b : PReg)
  | fadd (e : EngId) (d a b : FReg)
  | fsub (e : EngId) (d a b : FReg)
  | fmul (e : EngId) (d a b : FReg)
  | fmac (e : EngId) (d a b : FReg)
  | fmsu (e : EngId) (d a b : FReg)
  | fmov (e : EngId) (d a : FReg)
  | fneg (e : EngId) (d a : FReg)
  | fabs (e : EngId) (d a : FReg)
  | fmin (e : EngId) (d a b : FReg)
  | fmax (e : EngId) (d a b : FReg)
  | fscl (e : EngId) (d a : FReg) (b : HReg)
  | frcp (e : EngId) (d a : FReg)
  | frsq (e : EngId) (d a : FReg)
  | exp (e : EngId) (d : HReg) (a : FReg)
  /-- `d` and `a` name the registers of the lanes that the form selects; `form` is M[3:0]. -/
  | cvt (e : EngId) (d a : Fin 16) (form : BitVec 4)
  | fcmp (e : EngId) (a b : FReg)
  | fli (e : EngId) (d : FReg) (imm : BitVec 22)
  | ldh (e : EngId) (d : HReg) (m : MemArg)
  | ldp (e : EngId) (d : PReg) (m : MemArg)
  | ldf (e : EngId) (d : FReg) (m : MemArg)
  | lda (e : EngId) (d : AReg) (m : MemArg)
  | sth (e : EngId) (b : HReg) (m : MemArg)
  | stp (e : EngId) (b : PReg) (m : MemArg)
  | stf (e : EngId) (b : FReg) (m : MemArg)
  | sta (e : EngId) (b : AReg) (m : MemArg)
  -- engine events
  | resultLanding (e : EngId)
  /-- `wait`: issue steps that the access has spent waiting for its grant. -/
  | longAccessGrant (e : EngId) (wait : Nat)
  | stepLimit (e : EngId)
  | eventRaise (e : EngId) (k : EvKind) (src : BitVec 16)
  | handlerEntry (e : EngId) (reach : RunReach)
  | paceMeasure (e : EngId) (count : Nat)
  -- frames and release
  | frameBoundary (at_ : FrameAt)
  | sampleTrigger (n : AxId)
  | sampleComplete (n : AxId) (adc : AdcSet)
  | releaseInstant (n : AxId)
  | failoverWindowEnd (n : AxId)
  | engineFailDeclared (e : EngId)
  | takeoverStart (n : AxId)
  | engineSelftestDone (e : EngId) (pass : Bool)
  | zeroingDone (e : EngId)
  | imageCopyDone (e : EngId) (crcOk : Bool)
  | allocApply (fn : FnId)
  -- carrier and power stage
  | carrierStartRequest (b : BankId) (fn : FnId) (value : Word)
  | carrierStart (b : BankId)
  | carrierStopRequest (b : BankId) (fn : FnId) (value : Word)
  | carrierStop (b : BankId)
  | fbWriteStopped (b : BankId)
  /-- `since`: the tick from which the inputs have stood at this code. -/
  | hallChange (n : AxId) (code : BitVec 3) (since : Nat)
  /-- `premium`: the transition is on the premium inputs, where `z` has no meaning; else on FA_n, FB_n and FC_n. -/
  | quadTransition (n : AxId) (premium a b z : Bool)
  | indexEvent (n : AxId)
  /-- The pair in Q1.15 of the converter full scale. -/
  | sincosPair (n : AxId) (sin cos : BitVec 16)
  | ssiTransferStart (n : AxId)
  | ssiTransferEnd (n : AxId) (bits : BitVec 64) (frameOk : Bool)
  | fltCut (b : BankId) (level : Bool)
  /-- `mag`: the sensed current in 1/65,536 of I_FS, here and in HOC. -/
  | cbcTrip (n : AxId) (mag : Nat)
  /-- `vds`: the voltage in mV over the conducting switch; `since`: the tick from which it has lain on this side of its level. -/
  | desat (n : AxId) (vds since : Nat)
  | hoc (n : AxId) (mag : Nat)
  /-- `vgd`: VGD_b in 10 mV. -/
  | vgdUv (b : BankId) (vgd : BitVec 11)
  | vmL1 (b : BankId) (vm : BitVec 12)
  | vmL2 (b : BankId) (vm : BitVec 12)
  | vmLow (b : BankId) (vm : BitVec 12)
  | brakeTimeout (b : BankId)
  /-- `node`: the switching node in units of the VM sample; `held`: diode-held beyond the rail of the switch that turned off (R168). -/
  | switchNodeCrossing (n : AxId) (leg : Leg) (node : Int) (held : Bool)
  | deadTimeTimeout (n : AxId) (leg : Leg)
  | slopeTimeout (n : AxId) (leg : Leg)
  -- motion
  | stepTimerExpiry (n : AxId)
  | dioInputEdge (d : DioId)
  | latchRecord (n : AxId) (unit : Fin 2)
  | poOutputCount (k : PoId)
  | shaftPublish
  | shaftSampleRx (payload : List Byte)
  /-- `dtk`: the DT of the sample that has not arrived. -/
  | shaftSampleMiss (dtk : Nat)
  | motorLoss (n : AxId) (byHall : Bool)
  | plugRetryExpiry (n : AxId)
  /-- The current at the centre of the last on-interval of each vector, its magnitude in 1/65,536 of I_FS. -/
  | identificationDone (n : AxId) (u v w : Nat)
  -- descriptors and deliveries
  /-- A descriptor and the buffer it names; `err`: the read ended in a PCIe error or returned poisoned data. -/
  | descriptorFetch (fn : FnId) (ring : Fin 4) (desc : List Byte) (buf : List Byte) (err : Bool)
  | axisEnable (src : CmdSrc) (n : AxId) (on : Bool)
  | axisHold (src : CmdSrc) (n : AxId)
  | wcClear (src : CmdSrc) (n : AxId)
  | setCoef (src : CmdSrc) (n : AxId) (id : BitVec 8) (value : BitVec 32)
  | posPreload (src : CmdSrc) (n : AxId) (pos : Int)
  | groupStop (src : CmdSrc) (mask : BitVec 48) (cat : StopCat)
  | moveAbs (src : CmdSrc) (n : AxId) (t : Int) (v a d j : F32)
  | moveVel (src : CmdSrc) (n : AxId) (vel a j : F32)
  | moveLim (src : CmdSrc) (n : AxId) (v a d j : F32)
  | gear (src : CmdSrc) (n : AxId) (gsrc : BitVec 8) (master : BitVec 8) (num : Int) (den ramp : Nat) (ph : Int)
  | cam (src : CmdSrc) (n : AxId) (csrc : BitVec 8) (master : BitVec 8) (cam : BitVec 8) (mp : Nat) (mo : Int) (scale rise : F32)
  | home (src : CmdSrc) (n : AxId) (reverse : Bool) (iHome : BitVec 16) (vHome : F32) (homePos : Int) (backoff maxDist : Nat)
  | stepCfg (src : CmdSrc) (n : AxId) (stallN : BitVec 8) (iRun iHold : BitVec 16) (holdMs : BitVec 16) (stallTh : BitVec 16) (stallVmin : F32)
  | latchArm (src : CmdSrc) (n : AxId) (unit : Fin 2) (dio : BitVec 8) (edge : BitVec 8) (mode : BitVec 8) (target : BitVec 8)
  | snapshot (src : CmdSrc)
  | dioSet (src : CmdSrc) (mask value : BitVec 48)
  | poSet (src : CmdSrc) (k : BitVec 8) (n m : BitVec 16)
  | canTx (src : CmdSrc) (c : BitVec 8) (fmt : BitVec 8) (dlc : BitVec 8) (id : BitVec 32) (data : List Byte)
  | canMode (src : CmdSrc) (c : BitVec 8) (mode : BitVec 8)
  | canRecover (src : CmdSrc) (c : BitVec 8)
  | netTx (src : CmdSrc) (q : BitVec 8) (frame : List Byte)
  | timeAccept (src : CmdSrc)
  | engLoad (src : CmdSrc) (m : BitVec 8) (image : List Byte)
  | engStart (src : CmdSrc) (m : BitVec 8)
  | monCfg (src : CmdSrc) (n : AxId) (enable : BitVec 8) (monEng bandset nlog : BitVec 8) (rinj : BitVec 16) (lq rRef tRef : F32)
  | monBaseline (src : CmdSrc) (n : AxId)
  | profileLoad (src : CmdSrc) (p : BitVec 8)
  | safeConfirm (src : CmdSrc) (check : BitVec 32)
  -- rings, functions, ownership
  | doorbell (fn : FnId) (ring : RingId) (value : Word)
  /-- `bme`: Bus Master Enable as the function's configuration space holds it at that write. -/
  | ringEnable (fn : FnId) (ring : RingId) (value : Word) (bme : Bool)
  | ringDisable (fn : FnId) (ring : RingId) (value : Word)
  /-- `sent`: the PCIe fabric took the write, here and in the next row. -/
  | completionWrite (fn : FnId) (sent : Bool)
  | eventRecordWrite (fn : FnId) (sent : Bool)
  | msixMessage (fn : FnId) (vec : Fin 16)
  /-- A write of `value` to HIF_FCTL of function `fn` by function `by_`. -/
  | functionReset (by_ fn : FnId) (value : Word)
  | functionLevelReset (fn : FnId)
  | vfEnableClear
  | functionResetEnd (fn : FnId)
  | ownApply (fn : FnId)
  | ownershipZeroingDone (res : Res)
  -- reads with a side effect, and writes with an action of their own
  | posLoRead (fn : FnId) (n : AxId)
  | zposLoRead (fn : FnId) (n : AxId)
  | dtLoRead (fn : FnId)
  | posldArm (fn : FnId) (n : AxId) (value : Word)
  | poEnable (fn : FnId) (k : PoId) (value : Word)
  | dtSet (fn : FnId) (value : Word)
  -- time and network
  /-- `p`: the domain's slave port; `asCap`: it is asCapable (R332). -/
  | syncSample (domain : Fin 2) (theta : Int) (p : PortId) (asCap : Bool)
  | domainLost (domain : Fin 2)
  | timeBoundUpdate
  | tpoPulse
  | link (p : PortId) (up : Bool) (speedOk : Bool)
  /-- `full`: the class's buffer share at the egress line port is full (R346). -/
  | frameRx (p : PortId) (f : EthFrame) (full : Bool)
  | gclCommit (fn : FnId) (p : PortId) (value : Word)
  | gclChange (p : PortId)
  | launchTime (q : TxqId)
  /-- `sfd`: the DT at which the frame's SFD left, where it is not a launch-time frame sent at E. -/
  | frameTxDone (q : TxqId) (sfd : Nat)
  -- CAN
  /-- `sof`: the tick of the start-of-frame edge on CANRX, here and below. -/
  | canFrameRx (c : CanId) (f : CanFrame) (sof : Nat)
  | canRxWrite (c : CanId)
  /-- `loopDly`: the measured loop delay in clock periods, of an FD frame (R360). -/
  | canTxDone (c : CanId) (sof loopDly : Nat)
  | canArbitrationLost (c : CanId) (sof : Nat)
  /-- `kind` as CAN_STAT.ERRC; `extra`: further steps of 8 that ISO 11898-1 adds for dominant bits after an error flag. -/
  | canBusError (c : CanId) (kind : Fin 8) (transmitting : Bool) (sof extra : Nat)
  | canModeReached (c : CanId)
  | canRecoveryDone (c : CanId)
  -- field I/O
  | dioChannelTsd (d : DioId)
  /-- `total`: the sum of the output currents in mA; `limited`: the channels whose current limit acts (R382). -/
  | dioCurrentUpdate (total : Nat) (limited : BitVec 48)
  | dioOpenLoad (d : DioId) (open_ : Bool)
  | dioWireBreak (d : DioId) (broken : Bool)
  | dioLinkRefresh
  | dioLinkTimeout
  | dioCmdTimeout (d : DioId)
  | dioUv (active : Bool)
  | dioCfgWrite (fn : FnId) (d : DioId) (value : Word)
  | dioTotalClear (fn : FnId)
  -- safety
  /-- `fault`: a channel fault found in this cycle, by channel (0 SCA, 1 SCB) and code (Table 2 of 14_safety.md). -/
  | safetyCycle (fault : Option (Fin 2 × Fin 9))
  | safeInputChange (p : PairId) (sideB : Bool) (level : Bool)
  /-- `fails`: the inputs, by pair and side (true: B), that have not seen the pulse low. -/
  | testPulse (k : Fin 4) (fails : List (PairId × Bool))
  | pairDiscrepancy (p : PairId)
  | safetyWatchdogExpiry
  | ss1Timeout (g : GrpId)
  | safetyStore (fn : FnId)
  /-- `failed`: the copy in flash whose write failed. -/
  | safetyStoreDone (failed : Option (Fin 2))
  | shmemWindowWrite (fn : FnId) (addr : BitVec 32) (data : List Byte)
  -- power, reset, boot, non-volatile memory
  /-- Release of power-on reset: PSEL[1:0], the time in ns that the Plinth counted since the commit, whether the Plinth had
  lost both supplies, and a safety channel whose demand-path test fails. -/
  | powerOnReset (psel : Fin 4) (elapsed : Nat) (cold : Bool) (pathFault : Option (Fin 2))
  /-- `low`: ticks for which RESET_N has been low. -/
  | resetNReset (low : Nat)
  | pwrRstKey (fn : FnId) (value : Word)
  | hkWatchdogReset
  /-- VAUX in mV, and the ticks for which it has been at that level or above. -/
  | powerFailRestart (mv held : Nat)
  | endpointReset
  | bootComplete
  /-- `vcore`: on VCORE, else on VAUX; the level in mV, and the ticks for which it has been below the threshold. -/
  | powerFail (vcore : Bool) (mv held : Nat)
  | plinthCommitDone
  /-- `mv`: VAUX in mV, here and below. -/
  | vauxHandover (mv : Nat)
  | vauxReturn (mv : Nat)
  | vbakTest (e : VbakEvent)
  | profileRewriteDone
  | flogCopy
  | nvmBegin (fn : FnId) (value : Word)
  | nvmWrite (fn : FnId) (value : Word)
  | nvmFinish (fn : FnId) (value : Word)
  | lockver (fn : FnId) (value : Word)
  /-- For a FINISH: the KEY and the SIG checks of R454 pass. -/
  | nvmOpDone (keyOk sigOk : Bool)
  | pwrLostDiscard (fn : FnId)
  -- thermal and fans
  /-- The readings of sensors 0 to 7 in 0.1 °C. -/
  | thermalEvaluation (readings : List Int)
  | deratingDwell
  | fanEnable (fn : FnId) (f : FanId) (value : Word)
  /-- `ma`: the switch current measured in mA, here and below. -/
  | fanTachPulse (f : FanId) (ma : Nat)
  | fanTachSilent (f : FanId) (ma : Nat)
  | fanKickExpiry (f : FanId) (ma : Nat)
  | fanRetry (f : FanId)
  /-- `held`: ticks for which the current has been zero. -/
  | fanOpen (f : FanId) (held : Nat)
  -- the rest
  | registerWrite (fn : FnId) (addr : BitVec 32) (value : Word)
  | pwmEdge (n : AxId) (leg : Leg) (on bootLow : Bool)
  | gateStateChange (p : PortId)
  | addressAgeing (mac : BitVec 48)
  | syncInterval (domain : Fin 2)
  | confirmRecordWritten
  | powerOnResetAssert
  | warmResetEnd (pathFault : Option (Fin 2))
  | dioComparatorTransition (d : DioId) (level : Bool)
  | fanCurrentRestored (f : FanId) (ma : Nat)
  /-- `mv`: VBAK in mV. -/
  | vbakRecharge (mv : Nat)
  /-- `num`: NumVFs. -/
  | vfEnableSet (num : Fin 8)
  deriving DecidableEq, Repr

end Sys2Proof
end

