-- ==== Sys2Proof/Decode.lean ====
section
/-! DEFINITION. Decoding. The opcode table gives its rows no bits, so `decodeTableWord` spells no command. The engine
instruction word (R98 to R101) is decoded here in full: the loader reads it to refuse an image (R83, R79), and `EngWord.instr`
gives the command that a fetched word stands for. -/

namespace Sys2Proof

/-- No row of spec/opcode_table.json carries bits: no word spells a command. -/
def decodeTableWord (_nbits _w : Nat) : Option Instr := none

/-- The fields of an instruction word (Table 1 of 03_engine_instructions.md). -/
structure EngWord where
  op : Nat
  d : Fin 16
  a : Fin 16
  b : Fin 16
  m : BitVec 14
  deriving DecidableEq, Repr

def EngWord.of (w : BitVec 32) : EngWord :=
  { op := (w.extractLsb' 26 6).toNat
    d := (w.extractLsb' 22 4).toFin
    a := (w.extractLsb' 18 4).toFin
    b := (w.extractLsb' 14 4).toFin
    m := w.extractLsb' 0 14 }

/-- The low 22 bits: the immediate of format L. -/
def EngWord.imm22 (x : EngWord) : BitVec 22 :=
  (BitVec.ofFin (w := 4) x.a) ++ (BitVec.ofFin (w := 4) x.b) ++ x.m

/-- A pointer field (R99): bit 3 is zero. -/
def preg? (i : Fin 16) : Option PReg := if h : i.val < 8 then some ⟨i.val, h⟩ else none
/-- An accumulator field (R99): bits 3:2 are zero. -/
def areg? (i : Fin 16) : Option AReg := if h : i.val < 4 then some ⟨i.val, h⟩ else none

/-- The memory operand of formats M. -/
def EngWord.mem? (x : EngWord) : Option MemArg :=
  (preg? x.a).map fun p => { ptr := p, post := x.m.getLsbD 13, off := x.m.extractLsb' 0 13 }

/-- The command that a word stands for on engine `e`, or none for an undefined word (R98, R100, Table 3). -/
def EngWord.instr (e : EngId) (x : EngWord) : Option Instr :=
  let m := x.m.toNat
  let d := x.d; let a := x.a; let b := x.b
  let z (l : List (Fin 16)) : Bool := l.all fun i => i == 0
  let target : BitVec 12 := x.m.extractLsb' 0 12
  let imm16 : BitVec 16 := x.imm22.extractLsb' 0 16
  let top6 : Bool := x.imm22.extractLsb' 16 6 == 0
  match x.op with
  | 0x00 => if z [d, a, b] && m == 0 then some (.nop e) else none
  | 0x01 => if z [a, b] && decide (m < 4096) && decide (d.val < 15) then some (.br e d target) else none
  | 0x02 => if z [a, b] && decide (m < 4096) then (preg? d).map fun p => .jal e p target else none
  | 0x03 => if z [d, b] && m == 0 then (preg? a).map fun p => .jr e p else none
  | 0x04 => if z [d, b] && decide (m < 4096) then (preg? a).map fun p => .bdec e p target else none
  | 0x05 => if z [d, a, b] && decide (m < 256) then some (.rpt e (BitVec.ofNat 8 m)) else none
  | 0x06 => if z [d, a, b] && m == 0 then some (.rete e) else none
  | 0x07 => if z [d, a, b] && m == 0 then some (.wait e) else none
  | 0x08 => if z [a, b] && m == 0 then some (.mfsw e d) else none
  | 0x09 => if z [d, b] && m == 0 then some (.mtsw e a) else none
  | 0x0A => if z [d, a, b] && decide (m < 2) then some (.satm e (m == 1)) else none
  | 0x0B => if z [a, b] && decide (m < 18) then (preg? d).map fun p => .mfs e p (BitVec.ofNat 5 m) else none
  | 0x0C => if z [d, b] && decide (m < 18) then (preg? a).map fun p => .mts e (BitVec.ofNat 5 m) p else none
  | 0x10 => match m with
    | 0 => some (.add e d a b)
    | 1 => some (.sub e d a b)
    | 2 => some (.min e d a b)
    | 3 => some (.max e d a b)
    | 4 => some (.and e d a b)
    | 5 => some (.or e d a b)
    | 6 => some (.xor e d a b)
    | 7 => some (.andn e d a b)
    | _ => none
  | 0x11 => if !z [b] then none else match m with
    | 0 => some (.mov e d a)
    | 1 => some (.neg e d a)
    | 2 => some (.abs e d a)
    | 3 => some (.not e d a)
    | _ => none
  | 0x12 => if z [b] then some (.addi e d a x.m) else none
  | 0x13 => if top6 then some (.lih e d imm16) else none
  | 0x14 => if !z [b] then none else
    let n : ShiftAmt := .imm (x.m.extractLsb' 0 4).toFin
    match m / 16 with
    | 0 => some (.shl e d a n)
    | 1 => some (.asr e d a n)
    | 2 => some (.lsr e d a n)
    | _ => none
  | 0x15 => if m % 16 ≠ 0 then none else
    match m / 16 with
    | 0 => some (.shl e d a (.reg b))
    | 1 => some (.asr e d a (.reg b))
    | 2 => some (.lsr e d a (.reg b))
    | _ => none
  | 0x16 => if z [d] && m == 0 then some (.cmp e a b) else none
  | 0x17 => if z [d, b] then some (.cmpi e a x.m) else none
  | 0x18 => if z [b] && m == 0 && d.val % 2 == 0 then some (.norm e d a) else none
  | 0x19 => if z [b] && m == 0 then (areg? a).map fun i => .norma e d i else none
  | 0x1A => if m == 0 then some (.mpy e d a b) else none
  | 0x1B => (areg? d).bind fun i => match m with
    | 0 => some (.mac e i a b)
    | 1 => some (.msu e i a b)
    | 2 => some (.mpya e i a b)
    | _ => none
  | 0x1C => (areg? d).bind fun i => (preg? a).bind fun p => (preg? b).bind fun q => match m with
    | 0 => some (.macm e i p q false)
    | 1 => some (.msum e i p q false)
    | 2 => some (.macm e i p q true)
    | _ => none
  | 0x1D => (areg? d).bind fun i => match m with
    | 0 => (areg? a).bind fun j => (areg? b).map fun k => .adda e i j k
    | 1 => (areg? a).bind fun j => (areg? b).map fun k => .suba e i j k
    | 2 => if z [b] then (areg? a).map fun j => .mova e i j else none
    | 3 => if z [b] then some (.ldah e i a) else none
    | 4 => if z [a, b] then some (.clra e i) else none
    | 5 => if z [b] then (areg? a).map fun j => .nega e i j else none
    | 6 => if z [b] then (areg? a).map fun j => .absa e i j else none
    | _ => none
  | 0x1E => if z [b] && decide (m < 64) then
      (areg? d).bind fun i => (areg? a).map fun j => .sha e i j (BitVec.ofNat 6 m) else none
  | 0x1F => if z [b] && decide (m < 32) then (areg? a).map fun j => .exth e d j (BitVec.ofNat 5 m) else none
  | 0x20 => if z [d] && m == 0 then (areg? a).bind fun j => (areg? b).map fun k => .cmpa e j k else none
  | 0x21 => if z [b] && m == 0 then (preg? d).map fun p => .movph e p a else none
  | 0x22 => if z [b] && m == 0 then (preg? a).map fun p => .movhp e d p else none
  | 0x23 => if z [b] then (preg? d).bind fun p => (preg? a).map fun q =>
      .padd e p q (x.m.getLsbD 13) (x.m.extractLsb' 0 13) else none
  | 0x24 => if top6 then (preg? d).map fun p => .pli e p imm16 else none
  | 0x25 => if z [d] && m == 0 then (preg? a).bind fun p => (preg? b).map fun q => .cmpp e p q else none
  | 0x28 => if m == 0 then some (.fadd e d a b) else none
  | 0x29 => if m == 0 then some (.fsub e d a b) else none
  | 0x2A => if m == 0 then some (.fmul e d a b) else none
  | 0x2B => match m with
    | 0 => some (.fmac e d a b)
    | 1 => some (.fmsu e d a b)
    | _ => none
  | 0x2C => if !z [b] then none else match m with
    | 0 => some (.fmov e d a)
    | 1 => some (.fneg e d a)
    | 2 => some (.fabs e d a)
    | _ => none
  | 0x2D => match m with
    | 0 => some (.fmin e d a b)
    | 1 => some (.fmax e d a b)
    | _ => none
  | 0x2E => if m == 0 then some (.fscl e d a b) else none
  | 0x2F => if z [b] && m == 0 then some (.frcp e d a) else none
  | 0x30 => if z [b] && m == 0 then some (.frsq e d a) else none
  | 0x31 => if z [b] && m == 0 then some (.exp e d a) else none
  | 0x32 => if !(z [b] && decide (m < 8)) then none
    else if m = 2 ∧ a.val ≥ 4 then none
    else if m = 3 ∧ d.val ≥ 4 then none
    else some (.cvt e d a (BitVec.ofNat 4 m))
  | 0x33 => if z [d] && m == 0 then some (.fcmp e a b) else none
  | 0x34 => some (.fli e d x.imm22)
  | 0x38 => if z [b] then x.mem?.map fun g => .ldh e d g else none
  | 0x39 => if z [b] then (preg? d).bind fun p => x.mem?.map fun g => .ldp e p g else none
  | 0x3A => if z [b] then x.mem?.map fun g => .ldf e d g else none
  | 0x3B => if z [b] then (areg? d).bind fun i => x.mem?.map fun g => .lda e i g else none
  | 0x3C => if z [d] then x.mem?.map fun g => .sth e b g else none
  | 0x3D => if z [d] then (preg? b).bind fun p => x.mem?.map fun g => .stp e p g else none
  | 0x3E => if z [d] then x.mem?.map fun g => .stf e b g else none
  | 0x3F => if z [d] then (areg? b).bind fun i => x.mem?.map fun g => .sta e i g else none
  | _ => none

/-- The instruction a word stands for. -/
def decodeEngWord (e : EngId) (w : BitVec 32) : Option Instr := EngWord.instr e (EngWord.of w)

/-- A word is undefined (R98). -/
def engWordUndefined (w : BitVec 32) : Bool := (decodeEngWord 0 w).isNone

/-- The repeat count of an RPT word, or none (R120). -/
def engWordRpt (w : BitVec 32) : Option Nat :=
  match decodeEngWord 0 w with
  | some (.rpt _ c) => some (c.toNat + 1)
  | _ => none

/-- A word that may be an RPT body as far as the loader can tell (R79): no branch, RPT, RETE or WAIT. -/
def engWordBody (w : BitVec 32) : Bool :=
  match decodeEngWord 0 w with
  | some (.br _ _ _) => false
  | some (.jal _ _ _) => false
  | some (.jr _ _) => false
  | some (.bdec _ _ _) => false
  | some (.rpt _ _) => false
  | some (.rete _) => false
  | some (.wait _) => false
  | some _ => true
  | none => false

end Sys2Proof
end

