-- ==== Sys2Proof/Machine/Float.lean ====
section
/-! DEFINITION. The F lane: binary32 arithmetic exactly as R65, R66 and R109 to R113 state it. A finite number is a dyadic
`(-1)^neg * m * 2^e`; every operation is exact on dyadics and rounds once. -/

namespace Sys2Proof.Machine

/-- Sticky flags of SW[13:8], as bits QV AV FV FU FI FZ from bit 0 (Table 4 of 02_engines.md). -/
abbrev Sticky := BitVec 6
def Sticky.none : Sticky := 0
def Sticky.qv : Sticky := 1
def Sticky.av : Sticky := 2
def Sticky.fv : Sticky := 4
def Sticky.fu : Sticky := 8
def Sticky.fi : Sticky := 16
def Sticky.fz : Sticky := 32

/-- A finite value `(-1)^neg * m * 2^e`. -/
structure Dyadic' where
  neg : Bool
  m : Nat
  e : Int
  deriving DecidableEq, Repr

/-- What a word of the F lane stands for; a subnormal is a zero of its sign (R66). -/
inductive FVal where
  | zero (neg : Bool)
  | fin (d : Dyadic')
  | inf (neg : Bool)
  | nan
  deriving DecidableEq, Repr

def fSign (w : BitVec 32) : Bool := w.getLsbD 31
def fExp (w : BitVec 32) : Nat := (w.extractLsb' 23 8).toNat
def fFrac (w : BitVec 32) : Nat := (w.extractLsb' 0 23).toNat

def FVal.of (w : BitVec 32) : FVal :=
  if fExp w = 255 then (if fFrac w = 0 then .inf (fSign w) else .nan)
  else if fExp w = 0 then .zero (fSign w)
  else .fin ⟨fSign w, 2 ^ 23 + fFrac w, (fExp w : Int) - 150⟩

def fPack (neg : Bool) (ex fr : Nat) : BitVec 32 :=
  BitVec.ofNat 32 ((if neg then 2 ^ 31 else 0) + ex * 2 ^ 23 + fr)

def fZero (neg : Bool) : BitVec 32 := fPack neg 0 0
/-- The quiet NaN of R65. -/
def fQNaN : BitVec 32 := 0x7FC00000

/-- A float overflow (R65): the largest finite value under SAT, infinity without. -/
def fOverflow (sat neg : Bool) : BitVec 32 := if sat then fPack neg 254 0x7FFFFF else fPack neg 255 0

/-- An invalid operation (R65): +0.0 under SAT, the quiet NaN without. -/
def fInvalid (sat : Bool) : BitVec 32 × Sticky := (if sat then fZero false else fQNaN, Sticky.fi)

/-- Shift right by `k` bits, rounding to nearest, ties to even. -/
def rneShift (m k : Nat) : Nat :=
  let q := m / 2 ^ k
  let r := m % 2 ^ k
  if k = 0 then m
  else if r * 2 > 2 ^ k then q + 1
  else if r * 2 = 2 ^ k then q + q % 2
  else q

/-- Round a dyadic to `bits` significant bits and pack it (R66): overflow as R65, flush below 2^-126 with FU. -/
def fRound (sat : Bool) (bits : Nat) (d : Dyadic') : BitVec 32 × Sticky :=
  if d.m = 0 then (fZero d.neg, Sticky.none) else
  let len := d.m.log2 + 1
  let q := if len ≤ bits then d.m * 2 ^ (bits - len) else rneShift d.m (len - bits)
  let e := d.e + (len : Int) - bits
  let (q, e) := if q = 2 ^ bits then (2 ^ (bits - 1), e + 1) else (q, e)
  let ex := e + ((bits : Int) - 1) + 127
  if ex ≥ 255 then (fOverflow sat d.neg, Sticky.fv)
  else if ex ≤ 0 then (fZero d.neg, Sticky.fu)
  else (fPack d.neg ex.toNat ((q - 2 ^ (bits - 1)) * 2 ^ (24 - bits)), Sticky.none)

def Dyadic'.toInt (d : Dyadic') (e : Int) : Int :=
  let v : Int := (d.m : Int) * 2 ^ (d.e - e).toNat
  if d.neg then -v else v

/-- Exact sum of two dyadics; an exact zero sum of opposite signs is +0 under round to nearest. -/
def Dyadic'.add (x y : Dyadic') : Dyadic' :=
  let e := if x.e ≤ y.e then x.e else y.e
  let v := x.toInt e + y.toInt e
  if v = 0 then ⟨x.neg && y.neg, 0, e⟩ else ⟨decide (v < 0), v.natAbs, e⟩

def Dyadic'.mul (x y : Dyadic') : Dyadic' := ⟨x.neg != y.neg, x.m * y.m, x.e + y.e⟩

def FVal.neg : FVal → FVal
  | .zero n => .zero !n
  | .fin d => .fin { d with neg := !d.neg }
  | .inf n => .inf !n
  | .nan => .nan

/-- Sum of two values before rounding; none where the operation is invalid (R109). -/
def FVal.add : FVal → FVal → Option FVal
  | .nan, _ => none
  | _, .nan => none
  | .inf a, .inf b => if a = b then some (.inf a) else none
  | .inf a, _ => some (.inf a)
  | _, .inf b => some (.inf b)
  | .zero a, .zero b => some (.zero (a && b))
  | .zero _, .fin d => some (.fin d)
  | .fin d, .zero _ => some (.fin d)
  | .fin x, .fin y => let d := x.add y; some (if d.m = 0 then .zero d.neg else .fin d)

/-- Product of two values before rounding; none where the operation is invalid (R109). -/
def FVal.mul : FVal → FVal → Option FVal
  | .nan, _ => none
  | _, .nan => none
  | .inf _, .zero _ => none
  | .zero _, .inf _ => none
  | .inf a, .inf b => some (.inf (a != b))
  | .inf a, .fin d => some (.inf (a != d.neg))
  | .fin d, .inf b => some (.inf (d.neg != b))
  | .zero a, .zero b => some (.zero (a != b))
  | .zero a, .fin d => some (.zero (a != d.neg))
  | .fin d, .zero b => some (.zero (d.neg != b))
  | .fin x, .fin y => some (.fin (x.mul y))

/-- Round a value into the F lane. -/
def FVal.pack (sat : Bool) : Option FVal → BitVec 32 × Sticky
  | none => fInvalid sat
  | some .nan => fInvalid sat
  | some (.zero n) => (fZero n, Sticky.none)
  | some (.inf n) => (fPack n 255 0, Sticky.none)
  | some (.fin d) => fRound sat 24 d

def fAdd (sat : Bool) (a b : BitVec 32) : BitVec 32 × Sticky := FVal.pack sat ((FVal.of a).add (FVal.of b))
def fSub (sat : Bool) (a b : BitVec 32) : BitVec 32 × Sticky := FVal.pack sat ((FVal.of a).add (FVal.of b).neg)
def fMul (sat : Bool) (a b : BitVec 32) : BitVec 32 × Sticky := FVal.pack sat ((FVal.of a).mul (FVal.of b))

/-- FMAC: `d + a * b`, rounded once (R109). -/
def fMac (sat : Bool) (d a b : BitVec 32) : BitVec 32 × Sticky :=
  FVal.pack sat (((FVal.of a).mul (FVal.of b)).bind fun p => (FVal.of d).add p)

/-- FMSU: `d - a * b`, rounded once (R109). -/
def fMsu (sat : Bool) (d a b : BitVec 32) : BitVec 32 × Sticky :=
  FVal.pack sat (((FVal.of a).mul (FVal.of b)).bind fun p => (FVal.of d).add p.neg)

/-- Order key of a non-NaN word: sign and magnitude, a subnormal counting as a zero of its sign (R66), −0 below +0. -/
def fKey (w : BitVec 32) : Int :=
  let mag : Int := if fExp w = 0 then 0 else (w.extractLsb' 0 31).toNat
  if fSign w then -mag - 1 else mag

def fIsNaN (w : BitVec 32) : Bool := fExp w == 255 && fFrac w != 0

/-- A word as an operand of an F operation: a subnormal is a zero of its sign (R66). -/
def fOperand (w : BitVec 32) : BitVec 32 := if fExp w = 0 then fZero (fSign w) else w

/-- FMIN (R109): a NaN operand yields the other one, two NaN operands are invalid. -/
def fMin (sat : Bool) (a b : BitVec 32) : BitVec 32 × Sticky :=
  if fIsNaN a && fIsNaN b then fInvalid sat
  else if fIsNaN a then (fOperand b, Sticky.none)
  else if fIsNaN b then (fOperand a, Sticky.none)
  else (if fKey a ≤ fKey b then fOperand a else fOperand b, Sticky.none)

def fMax (sat : Bool) (a b : BitVec 32) : BitVec 32 × Sticky :=
  if fIsNaN a && fIsNaN b then fInvalid sat
  else if fIsNaN a then (fOperand b, Sticky.none)
  else if fIsNaN b then (fOperand a, Sticky.none)
  else (if fKey a ≤ fKey b then fOperand b else fOperand a, Sticky.none)

/-- FSCL: `a * 2^h`, h limited to −255 to 255 (R111). -/
def fScl (sat : Bool) (a : BitVec 32) (h : BitVec 16) : BitVec 32 × Sticky :=
  let k : Int := if h.toInt < -255 then -255 else if h.toInt > 255 then 255 else h.toInt
  match FVal.of a with
  | .fin d => fRound sat 24 { d with e := d.e + k }
  | v => FVal.pack sat (some v)

/-- The 12-bit reciprocal seed (R110). -/
def fRcp (sat : Bool) (a : BitVec 32) : BitVec 32 × Sticky :=
  match FVal.of a with
  | .nan => fInvalid sat
  | .zero n => (fOverflow sat n, Sticky.fz)
  | .inf n => (fZero n, Sticky.none)
  | .fin d =>
    -- 2^60 / m, with a sticky bit below so that the rounding sees the exact quotient
    let q := 2 ^ 60 / d.m
    let r := if 2 ^ 60 % d.m = 0 then 0 else 1
    fRound sat 12 ⟨d.neg, 2 * q + r, -d.e - 61⟩

/-- Integer square root by bits: the largest q below 2^n with q * q * m ≤ t. -/
def rootBits (t m : Nat) : Nat → Nat → Nat
  | 0, q => q
  | n + 1, q =>
    let q' := q + 2 ^ n
    if q' * q' * m ≤ t then rootBits t m n q' else rootBits t m n q

/-- The 12-bit reciprocal square-root seed (R110). -/
def fRsq (sat : Bool) (a : BitVec 32) : BitVec 32 × Sticky :=
  match FVal.of a with
  | .nan => fInvalid sat
  | .zero n => (fOverflow sat n, Sticky.fz)
  | .inf n => if n then fInvalid sat else (fZero false, Sticky.none)
  | .fin d =>
    if d.neg then fInvalid sat else
    let odd := d.e % 2 ≠ 0
    let m := if odd then 2 * d.m else d.m
    let e := if odd then d.e - 1 else d.e
    -- floor(2^60 / sqrt m) and whether it is exact
    let q := rootBits (2 ^ 120) m 50 0
    let r := if q * q * m = 2 ^ 120 then 0 else 1
    fRound sat 12 ⟨false, 2 * q + r, -(e / 2) - 61⟩

/-- EXP (R111): the unbiased exponent. -/
def fExpo (a : BitVec 32) : BitVec 16 :=
  if fExp a = 0 then BitVec.ofInt 16 (-127) else BitVec.ofInt 16 ((fExp a : Int) - 127)

/-- Round a dyadic to an integer multiple of 2^-frac, to nearest with ties to even (R113). -/
def dyToFixed (frac : Nat) (d : Dyadic') : Int :=
  let e := d.e + frac
  let v : Nat := if e ≥ 0 then d.m * 2 ^ e.toNat else rneShift d.m (-e).toNat
  if d.neg then -(v : Int) else (v : Int)

/-- Float to a fixed or integer destination of `bits` bits with `frac` fraction bits (R113). The first flag is raised out
of range, FI for a NaN. -/
def fToFixed (sat : Bool) (bits frac : Nat) (oor : Sticky) (a : BitVec 32) : Int × Sticky :=
  let lo : Int := -(2 ^ (bits - 1))
  let hi : Int := 2 ^ (bits - 1) - 1
  match FVal.of a with
  | .nan => (if sat then 0 else lo, Sticky.fi)
  | .zero _ => (0, Sticky.none)
  | .inf n => (if sat then (if n then lo else hi) else lo, oor)
  | .fin d =>
    let v := dyToFixed frac d
    if v < lo then (lo, oor)
    else if v > hi then (if sat then hi else lo, oor)
    else (v, Sticky.none)

/-- A fixed-point integer with `frac` fraction bits as a float, rounded (R113). -/
def fixedToF (sat : Bool) (frac : Nat) (v : Int) : BitVec 32 :=
  (fRound sat 24 ⟨decide (v < 0), v.natAbs, -(frac : Int)⟩).1

/-- FCMP (R114): condition flags Z N C V from bit 0, and FI when unordered. -/
def fCmp (a b : BitVec 32) : BitVec 4 × Sticky :=
  if fIsNaN a || fIsNaN b then (8, Sticky.fi)
  else
    let z (w : BitVec 32) : Int := if fExp w = 0 then 0 else (if fSign w then fKey w + 1 else fKey w)
    if z a < z b then (2, Sticky.none)
    else if z a = z b then (5, Sticky.none)
    else (4, Sticky.none)

end Sys2Proof.Machine
end

