-- ==== Sys2Proof/Machine/Flags.lean ====
section
/-! DEFINITION. The Q lane and the accumulators: results, condition flags and sticky flags of R104 to R107. Condition flags
are Z N C V from bit 0, as SW[7:4] holds them. -/

namespace Sys2Proof.Machine

/-- Condition flags from their parts. -/
def cond (z n c v : Bool) : BitVec 4 :=
  (if z then 1 else 0) ||| (if n then 2 else 0) ||| (if c then 4 else 0) ||| (if v then 8 else 0)

/-- A signed result narrowed to 16 bits: clamped under SAT, wrapped without (R65). -/
def satQ (sat : Bool) (v : Int) : BitVec 16 :=
  if sat && decide (v < -32768) then 0x8000
  else if sat && decide (v > 32767) then 0x7FFF
  else BitVec.ofInt 16 v

/-- The signed value leaves the 16-bit range. -/
def ovfQ (v : Int) : Bool := decide (v < -32768) || decide (v > 32767)

/-- Likewise for 40 bits. -/
def satA (sat : Bool) (v : Int) : BitVec 40 :=
  if sat && decide (v < -(2 ^ 39)) then BitVec.ofInt 40 (-(2 ^ 39))
  else if sat && decide (v > 2 ^ 39 - 1) then BitVec.ofInt 40 (2 ^ 39 - 1)
  else BitVec.ofInt 40 v

def ovfA (v : Int) : Bool := decide (v < -(2 ^ 39)) || decide (v > 2 ^ 39 - 1)

/-- A result with its flags: value, condition flags, sticky flags. -/
structure QRes where
  val : BitVec 16
  flags : BitVec 4
  sticky : Sticky
  deriving DecidableEq, Repr

/-- ADD and ADDI (R104, R105). -/
def qAdd (sat : Bool) (a b : BitVec 16) : QRes :=
  let v := a.toInt + b.toInt
  let r := satQ sat v
  ⟨r, cond (r == 0) r.msb (decide (a.toNat + b.toNat ≥ 2 ^ 16)) (ovfQ v), if ovfQ v then Sticky.qv else Sticky.none⟩

/-- SUB; NEG is the subtraction from 0 (R104). -/
def qSub (sat : Bool) (a b : BitVec 16) : QRes :=
  let v := a.toInt - b.toInt
  let r := satQ sat v
  ⟨r, cond (r == 0) r.msb (decide (b.toNat ≤ a.toNat)) (ovfQ v), if ovfQ v then Sticky.qv else Sticky.none⟩

def qAbs (sat : Bool) (a : BitVec 16) : QRes :=
  let v : Int := a.toInt.natAbs
  let r := satQ sat v
  ⟨r, cond (r == 0) r.msb false (a == 0x8000), if ovfQ v then Sticky.qv else Sticky.none⟩

/-- The flags of a compare: those of the wrapped difference (R104). -/
def cmpFlags (a b : BitVec 16) : BitVec 4 :=
  let d := a - b
  cond (d == 0) d.msb (decide (b.toNat ≤ a.toNat)) (ovfQ (a.toInt - b.toInt))

/-- CMPA: the same scheme on 40 bits (R104). -/
def cmpaFlags (a b : BitVec 40) : BitVec 4 :=
  let d := a - b
  cond (d == 0) d.msb (decide (b.toNat ≤ a.toNat)) (ovfA (a.toInt - b.toInt))

/-- CMPP: 16-bit unsigned pointers, V = 0 (R104). -/
def cmppFlags (a b : BitVec 16) : BitVec 4 :=
  let d := a - b
  cond (d == 0) d.msb (decide (b.toNat ≤ a.toNat)) false

/-- Flags of a logical result: C and V are 0 (R104). -/
def logicFlags (r : BitVec 16) : BitVec 4 := cond (r == 0) r.msb false false

/-- SHL by `n` (R105): overflow when a bit that differs from the result's sign bit is shifted out or the sign changes,
that is, when the exact product leaves 16 bits; the clamp has the sign of the operand. C is the last bit shifted out. -/
def qShl (sat : Bool) (a : BitVec 16) (n : Nat) : QRes :=
  let v : Int := a.toInt * 2 ^ n
  let o := ovfQ v
  let r := if o then (if sat then (if a.msb then 0x8000 else 0x7FFF) else a <<< n) else a <<< n
  let c := if n = 0 then false else if n ≤ 16 then a.getLsbD (16 - n) else false
  ⟨r, cond (r == 0) r.msb c o, if o then Sticky.qv else Sticky.none⟩

def qAsr (a : BitVec 16) (n : Nat) : QRes :=
  let r := a.sshiftRight n
  let c := if n = 0 then false else if n ≤ 16 then a.getLsbD (n - 1) else a.msb
  ⟨r, cond (r == 0) r.msb c false, Sticky.none⟩

def qLsr (a : BitVec 16) (n : Nat) : QRes :=
  let r := a >>> n
  let c := if n = 0 then false else if n ≤ 16 then a.getLsbD (n - 1) else false
  ⟨r, cond (r == 0) r.msb c false, Sticky.none⟩

/-- The redundant sign bits of a value: how far it can shift left without losing its sign (R107). -/
def redundantSign {w : Nat} (a : BitVec w) : Nat :=
  ((List.range (w - 1)).takeWhile fun i => a.getLsbD (w - 2 - i) == a.msb).length

/-- NORM (R107): value and count; 0 gives 0 with 15 by the count itself. -/
def qNorm (a : BitVec 16) : BitVec 16 × BitVec 16 :=
  let k := redundantSign a
  (a <<< k, BitVec.ofNat 16 k)

/-- MPY (R105). -/
def qMpy (sat : Bool) (a b : BitVec 16) : BitVec 16 × Sticky :=
  let v : Int := (a.toInt * b.toInt + 2 ^ 14) / 2 ^ 15
  (satQ sat v, if ovfQ v then Sticky.qv else Sticky.none)

/-- A product in Q2.30, the raw form Q10.30 takes (R106). -/
def prodA (a b : BitVec 16) : Int := a.toInt * b.toInt

/-- An accumulator result: value and AV (R106). -/
def aRes (sat : Bool) (v : Int) : BitVec 40 × Sticky :=
  (satA sat v, if ovfA v then Sticky.av else Sticky.none)

/-- SHA (R106): positive amounts shift left, negative ones right arithmetically; AV on left overflow. -/
def aSha (sat : Bool) (a : BitVec 40) (s : BitVec 6) : BitVec 40 × Sticky :=
  if s.toInt ≥ 0 then aRes sat (a.toInt * 2 ^ s.toInt.toNat)
  else (a.sshiftRight (-s.toInt).toNat, Sticky.none)

/-- EXTH (R106): round((a * 2^s) / 2^15), adding half and truncating towards minus infinity. -/
def aExth (sat : Bool) (a : BitVec 40) (s : BitVec 5) : BitVec 16 × Sticky :=
  let k := (15 - s.toInt).toNat
  let v : Int := if k = 0 then a.toInt else (a.toInt + 2 ^ (k - 1)) / 2 ^ k
  (satQ sat v, if ovfQ v then Sticky.qv else Sticky.none)

/-- Table 4: whether a condition code holds; 15 is reserved. -/
def condHolds (code : Nat) (f : BitVec 4) : Bool :=
  let z := f.getLsbD 0; let n := f.getLsbD 1; let c := f.getLsbD 2; let v := f.getLsbD 3
  match code with
  | 0 => true
  | 1 => z
  | 2 => !z
  | 3 => n != v
  | 4 => n == v
  | 5 => !z && n == v
  | 6 => z || n != v
  | 7 => n
  | 8 => !n
  | 9 => v
  | 10 => !v
  | 11 => c
  | 12 => !c
  | 13 => c && !z
  | 14 => !c || z
  | _ => false

end Sys2Proof.Machine
end

