-- ==== Sys2Proof/Machine/Operands.lean ====
section
/-! DEFINITION. Effective addresses and access classes of the engines: circular addressing (R68, R69), the data address map
(R55) and alignment (R59). -/

namespace Sys2Proof.Machine

/-- Circular modify of R68: `cb + mod(p + d - cb, cl)`, the inner difference exact, the sum mod 2^16 (R69). -/
def circ (p cb cl : BitVec 16) (d : Int) : BitVec 16 :=
  if cl = 0 then BitVec.ofInt 16 (p.toNat + d)
  else BitVec.ofInt 16 (cb.toNat + ((p.toNat : Int) + d - cb.toNat) % cl.toNat)

/-- Effective address and new pointer of a memory operand (R68, R116). -/
def effAddr (m : MemArg) (p cb cl : BitVec 16) : BitVec 16 × Option (BitVec 16) :=
  if m.post then (p, some (circ p cb cl m.off.toInt)) else (circ p cb cl m.off.toInt, none)

/-- The ranges of Table 2 of 02_engines.md. -/
inductive AddrRange where
  | localMem | window | port | unassigned | shared
  deriving DecidableEq, Repr

def addrRange (a : Nat) : AddrRange :=
  if a < 0x2000 then .localMem
  else if a < 0x3000 then .window
  else if a < 0x3100 then .port
  else if a < 0x8000 then .unassigned
  else .shared

/-- First address past the range that holds `a`. -/
def rangeEnd (a : Nat) : Nat :=
  match addrRange a with
  | .localMem => 0x2000
  | .window => 0x3000
  | .port => 0x3100
  | .unassigned => 0x8000
  | .shared => 0x10000

/-- Engine fault codes (Table 8 of 02_engines.md). -/
inductive EngFault where
  | limit | align | addr | opcode | iparity | dparity | heartbeat
  deriving DecidableEq, Repr

def EngFault.code : EngFault → Nat
  | .limit => 1 | .align => 2 | .addr => 3 | .opcode => 4 | .iparity => 5 | .dparity => 6 | .heartbeat => 7

/-- The fault of an access of `w` bytes at `a`, if any (R55, R59): ADDR wins over ALIGN. -/
def accessFault (a w : Nat) : Option EngFault :=
  if addrRange a = .unassigned then some .addr
  else if a + w > rangeEnd a then some .addr
  else if a % w ≠ 0 then some .align
  else none

end Sys2Proof.Machine
end

