-- ==== Sys2Proof/Config.lean ====
section
/-! DEFINITION. What the spec leaves open: free values. Each is a constant with no body, applied to a plain counter of State
(`State.free`), so no proof can see what it is and a statement about it holds for every value. -/

namespace Sys2Proof

/-- R26: whether a commit that completed at least 2 and less than 3 ticks before a release instant is applied there. -/
opaque Config.freeBool : Nat → Bool

/-- A number the spec bounds but does not fix; the rule that uses it reduces it to the stated range. -/
opaque Config.freeNat : Nat → Nat

/-- A 32-bit word whose value the spec does not state. -/
opaque Config.freeWord : Nat → Word

/-- VFS of an axis as binary32, in counts per second: it stands in the image of the axis, at a place the spec does not give
(06_feedback.md R213, 07_motion.md). -/
opaque Config.fullSpeed : List Byte → Word

/-- AFS, the full-scale acceleration of an axis as binary32 in counts/s²: it stands in its image, as VFS does (07_motion.md). -/
opaque Config.fullAccel : List Byte → Word

/-- W of an axis image: the speed estimate spans 2 to this power, modulo 4, velocity-loop runs (06_feedback.md R213). -/
opaque Config.speedWindow : List Byte → Nat

/-- Whether a quotient that is no whole number is rounded up, where the spec states no rounding. -/
opaque Config.roundsUp : Int → Nat → Bool

/-- What the vendor images compute where the manual names a quantity and gives no formula for it, or no rounding: sin and cos,
space-vector modulation, the observer of R141, the coil references and voltages of a stepper axis, the load angle of R257, the filter
coefficients of R262, the units of the cross term of R264 and of the figures of R270, and the logarithm of BEARING_DB. -/
inductive Config.ImageFn where
  | sin | cos | compareU | compareV | compareW | obSpeed | obLoad | coilA | coilB | coilSpan | loadAngle | filter | cross | ohms
  | decibel | root | expRe | expIm
  deriving DecidableEq, Repr

opaque Config.image : Config.ImageFn → List Int → Int

end Sys2Proof
end

