-- ==== Sys2Proof/Machine/RegMap.lean ====
section
/-! DEFINITION. The set-up register map: every register of 18_register_map.md (R483, R487, Tables 2 to 9), its place in
BAR0 of F0, its reset word and its fields with their access codes (R7). The list was transcribed from the register
tables of spec/ (the field tables of every chapter and the index of chapter 18); each reset word is the one the index
gives. -/

namespace Sys2Proof.Machine

/-- The access codes of R7. `rwsClear` is a retained flag whose meaning says "Write 1 to clear"; `rwsHw` is a retained
field whose meaning says that writes are ignored. -/
inductive Access where
  | rw | ro | wo | w1c | rws | rwsClear | rwsHw | fb
  deriving DecidableEq, Repr

/-- The set-up registers by name (R487). A register that the map repeats is one name with indices. -/
inductive Reg where
  | GLB_ID
  | GLB_ROMVER
  | GLB_SERIAL_LO
  | GLB_SERIAL_HI
  | GLB_SCRATCH
  | GLB_STAT
  | GLB_ENV
  | GLB_PACE_CFG
  | GLB_PACE_STAT
  | GLB_ALLOC
  | GLB_SMWIN
  | GLB_POk_CFG
  | GLB_POk_RATIO
  | GLB_POk_STAT
  | GLB_SHAFT_CFG
  | GLB_SHAFT_ID
  | GLB_SHAFT_STAT
  | GLB_CAM_BUSY
  | GLB_MON_CFG
  | GLB_MON_STAT
  | GLB_MON_ENG_LO
  | GLB_MON_ENG_HI
  | GLB_FO_CFG
  | GLB_FO_STAT
  | GLB_PROF_STAT
  | PWR_STAT
  | PWR_RSTC
  | PWR_RST
  | PWR_PF
  | PWR_BAK
  | PWR_BAKSTAT
  | PWR_PLINTH
  | PWR_BOOT
  | PWR_LOST
  | PWR_BOOT_VER
  | PWR_LOG
  | THM_STAT
  | THM_CFG
  | THM_FANf_CFG
  | THM_FANf_STAT
  | THM_FANf_TACH
  | TB_DT_LO
  | TB_DT_HI
  | TB_SET_LO
  | TB_SET_HI
  | TB_CFG
  | TB_SERVO
  | TB_RATE
  | TB_QUAL
  | TB_ERR
  | TB_HO
  | TB_TPO
  | TB_DOMd_OFS
  | TB_DOMd_RR
  | NET_PORTp_CFG
  | NET_PORTp_VLAN
  | NET_PORTp_CNT
  | NET_PTP
  | NET_FDB
  | NET_MAC_LO
  | NET_MAC_HI
  | NET_SHAFT
  | NET_SHAFT_DA_LO
  | NET_SHAFT_DA_HI
  | NET_RXB_BASE_LO
  | NET_RXB_BASE_HI
  | NET_RXB_CFG
  | NET_RXB_WR
  | NET_RXB_RD
  | NET_RXB_DROP
  | NET_TXQq_CFG
  | NET_TXQq_STAT
  | NET_GCLp_ENT
  | NET_GCLp_BASE_LO
  | NET_GCLp_BASE_HI
  | NET_GCLp_CYC
  | NET_GCLp_CTL
  | CAN_CFG
  | CAN_NTIM
  | CAN_DTIM
  | CAN_STAT
  | CAN_ECNT
  | CAN_CNT
  | CAN_RXB_BASE_LO
  | CAN_RXB_BASE_HI
  | CAN_RXB_CFG
  | CAN_RXB_WR
  | CAN_FLTe_W0
  | CAN_FLTe_W1
  | DIO_CHn_CFG
  | DIO_CHn_STAT
  | DIO_IN_LO
  | DIO_IN_HI
  | DIO_OUT_LO
  | DIO_OUT_HI
  | DIO_WDG
  | DIO_GSTAT
  | SAF_STAT
  | SAF_CHECK_A
  | SAF_CHECK_B
  | SAF_CONF_VAL
  | SAF_PCTL
  | SAF_GRP
  | SAF_PAIR
  | SAF_COMM
  | SAF_COMM_CNT
  | SAF_AXF_LO
  | SAF_AXF_HI
  | SAF_HOLD_LO
  | SAF_HOLD_HI
  | SAF_PARAM
  | NVM_SLOT_CTL
  | NVM_SLOT_SRC
  | NVM_SLOT_STAT
  | NVM_MINVER
  | NVM_FLOG_IDX
  | NVM_FLOG_Dj
  | ENG_ROLE
  | ENG_STAT
  | ENG_EVSTAT
  | ENG_EVCFG
  | ENG_PACE
  | ENG_HWM_SF
  | ENG_HWM_HR
  | ENG_FO
  | BNK_CARRIER
  | BNK_DT
  | BNK_BOOT
  | BNK_PROT
  | BNK_VM1
  | BNK_VM2
  | BNK_BRK
  | BNK_WCACT
  | BNK_RELEASE
  | BNK_FLT
  | BNK_PSTAT
  | BNK_FRAME
  | BNK_MEAS
  | BNK_PNOW
  | AX_CFG
  | AX_STATE
  | AX_SENSE
  | AX_IOFS_A
  | AX_IOFS_B
  | AX_STOPCFG
  | AX_LFAULT
  | AX_LIMCFG
  | AX_PWM
  | AX_GDPROF
  | AX_OC
  | AX_HALL
  | AX_PSTAT
  | AX_WC
  | AX_INFO
  | AX_DLMISS
  | AX_FBCFG
  | AX_QCFG
  | AX_ANGCFG
  | AX_ANGOFS
  | AX_SCCFG
  | AX_SSICFG
  | AX_FBFLT
  | AX_FBCNT
  | AX_POS_LO
  | AX_POS_HI
  | AX_POSLD_LO
  | AX_POSLD_HI
  | AX_ZPOS_LO
  | AX_ZPOS_HI
  | AX_FBSAFE
  | AX_MOTCFG
  | AX_STEPCFG
  | AX_MSTAT
  | AX_STEPCNT
  | AX_MONSTAT
  | AX_FOSTAT
  | AX_PLUG
  | AX_PLUGSTAT
  | HIF_DB
  | HIF_RING_BASE_LO
  | HIF_RING_BASE_HI
  | HIF_RING_CFG
  | HIF_RING_STAT
  | HIF_RING_IDX
  | HIF_RING_SEQ
  | HIF_MSIX_TAB
  | HIF_MSIX_PBA
  | HIF_FCTL
  | HIF_FSTAT
  | HIF_RLOG_CNT
  | HIF_QOS0
  | HIF_QOS1
  | HIF_VMOD_v
  | HIF_RLOG_SEQ
  | HIF_RLOG_RING
  | HIF_OWN_AXi
  | HIF_OWN_DIOi
  | HIF_OWN_CAN
  | HIF_OWN_NETQi
  | HIF_OWN_CTL
  | HIF_OWNF_AXi
  | HIF_OWNF_DIOi
  | HIF_OWNF_CAN
  | HIF_OWNF_NETQi
  deriving DecidableEq, Repr

/-- Place of a register: base offset in BAR0 of F0, outer count and stride, inner count and stride. -/
structure RegSpec where
  base : Nat
  n1 : Nat
  s1 : Nat
  n2 : Nat
  s2 : Nat
  reset : Nat
  deriving DecidableEq, Repr

/-- The register index of R487: place and reset word (index-dependent reset words in `Reg.resetWord`). -/
def Reg.spec : Reg → RegSpec
  | .GLB_ID => ⟨0x0, 1, 0x0, 1, 0x0, 0x10014864⟩
  | .GLB_ROMVER => ⟨0x4, 1, 0x0, 1, 0x0, 0x10000⟩
  | .GLB_SERIAL_LO => ⟨0x8, 1, 0x0, 1, 0x0, 0x0⟩
  | .GLB_SERIAL_HI => ⟨0xC, 1, 0x0, 1, 0x0, 0x0⟩
  | .GLB_SCRATCH => ⟨0x10, 1, 0x0, 1, 0x0, 0x0⟩
  | .GLB_STAT => ⟨0x20, 1, 0x0, 1, 0x0, 0x0⟩
  | .GLB_ENV => ⟨0x40, 1, 0x0, 1, 0x0, 0x40⟩
  | .GLB_PACE_CFG => ⟨0x44, 1, 0x0, 1, 0x0, 0x60E⟩
  | .GLB_PACE_STAT => ⟨0x48, 1, 0x0, 1, 0x0, 0x0⟩
  | .GLB_ALLOC => ⟨0x50, 1, 0x0, 1, 0x0, 0x0⟩
  | .GLB_SMWIN => ⟨0x60, 1, 0x0, 1, 0x0, 0x0⟩
  | .GLB_POk_CFG => ⟨0x100, 6, 0x10, 1, 0x0, 0xA0000⟩
  | .GLB_POk_RATIO => ⟨0x104, 6, 0x10, 1, 0x0, 0x10001⟩
  | .GLB_POk_STAT => ⟨0x108, 6, 0x10, 1, 0x0, 0x0⟩
  | .GLB_SHAFT_CFG => ⟨0x180, 1, 0x0, 1, 0x0, 0x19080100⟩
  | .GLB_SHAFT_ID => ⟨0x184, 1, 0x0, 1, 0x0, 0x0⟩
  | .GLB_SHAFT_STAT => ⟨0x188, 1, 0x0, 1, 0x0, 0x0⟩
  | .GLB_CAM_BUSY => ⟨0x190, 1, 0x0, 1, 0x0, 0x0⟩
  | .GLB_MON_CFG => ⟨0x1A0, 1, 0x0, 1, 0x0, 0x0⟩
  | .GLB_MON_STAT => ⟨0x1A4, 1, 0x0, 1, 0x0, 0x3⟩
  | .GLB_MON_ENG_LO => ⟨0x1A8, 1, 0x0, 1, 0x0, 0x0⟩
  | .GLB_MON_ENG_HI => ⟨0x1AC, 1, 0x0, 1, 0x0, 0x0⟩
  | .GLB_FO_CFG => ⟨0x1C0, 1, 0x0, 1, 0x0, 0x5⟩
  | .GLB_FO_STAT => ⟨0x1C4, 1, 0x0, 1, 0x0, 0x0⟩
  | .GLB_PROF_STAT => ⟨0x1C8, 1, 0x0, 1, 0x0, 0x0⟩
  | .PWR_STAT => ⟨0x1000, 1, 0x0, 1, 0x0, 0x0⟩
  | .PWR_RSTC => ⟨0x1004, 1, 0x0, 1, 0x0, 0x0⟩
  | .PWR_RST => ⟨0x1008, 1, 0x0, 1, 0x0, 0x0⟩
  | .PWR_PF => ⟨0x100C, 1, 0x0, 1, 0x0, 0x0⟩
  | .PWR_BAK => ⟨0x1010, 1, 0x0, 1, 0x0, 0xA0000⟩
  | .PWR_BAKSTAT => ⟨0x1014, 1, 0x0, 1, 0x0, 0x0⟩
  | .PWR_PLINTH => ⟨0x1018, 1, 0x0, 1, 0x0, 0x0⟩
  | .PWR_BOOT => ⟨0x101C, 1, 0x0, 1, 0x0, 0x0⟩
  | .PWR_LOST => ⟨0x1020, 1, 0x0, 1, 0x0, 0x0⟩
  | .PWR_BOOT_VER => ⟨0x1024, 1, 0x0, 1, 0x0, 0x0⟩
  | .PWR_LOG => ⟨0x1400, 64, 0x10, 4, 0x4, 0x0⟩
  | .THM_STAT => ⟨0x1800, 1, 0x0, 1, 0x0, 0x0⟩
  | .THM_CFG => ⟨0x1804, 1, 0x0, 1, 0x0, 0x1E0A0A⟩
  | .THM_FANf_CFG => ⟨0x1840, 2, 0x10, 1, 0x0, 0x503C8006⟩
  | .THM_FANf_STAT => ⟨0x1844, 2, 0x10, 1, 0x0, 0x0⟩
  | .THM_FANf_TACH => ⟨0x1848, 2, 0x10, 1, 0x0, 0x0⟩
  | .TB_DT_LO => ⟨0x2000, 1, 0x0, 1, 0x0, 0x0⟩
  | .TB_DT_HI => ⟨0x2004, 1, 0x0, 1, 0x0, 0x0⟩
  | .TB_SET_LO => ⟨0x2008, 1, 0x0, 1, 0x0, 0x0⟩
  | .TB_SET_HI => ⟨0x200C, 1, 0x0, 1, 0x0, 0x0⟩
  | .TB_CFG => ⟨0x2010, 1, 0x0, 1, 0x0, 0x6403E80C⟩
  | .TB_SERVO => ⟨0x2014, 1, 0x0, 1, 0x0, 0x10008⟩
  | .TB_RATE => ⟨0x2018, 1, 0x0, 1, 0x0, 0x0⟩
  | .TB_QUAL => ⟨0x201C, 1, 0x0, 1, 0x0, 0x0⟩
  | .TB_ERR => ⟨0x2020, 1, 0x0, 1, 0x0, 0xFFFFFFFF⟩
  | .TB_HO => ⟨0x2024, 1, 0x0, 1, 0x0, 0x640032⟩
  | .TB_TPO => ⟨0x2028, 1, 0x0, 1, 0x0, 0x186A0FA0⟩
  | .TB_DOMd_OFS => ⟨0x2030, 2, 0x8, 1, 0x0, 0x0⟩
  | .TB_DOMd_RR => ⟨0x2034, 2, 0x8, 1, 0x0, 0x0⟩
  | .NET_PORTp_CFG => ⟨0x4000, 2, 0x40, 1, 0x0, 0x0⟩
  | .NET_PORTp_VLAN => ⟨0x4004, 2, 0x40, 1, 0x0, 0x1⟩
  | .NET_PORTp_CNT => ⟨0x4008, 2, 0x40, 1, 0x0, 0x0⟩
  | .NET_PTP => ⟨0x4100, 1, 0x0, 1, 0x0, 0xF80D0100⟩
  | .NET_FDB => ⟨0x4104, 1, 0x0, 1, 0x0, 0x12C⟩
  | .NET_MAC_LO => ⟨0x4110, 1, 0x0, 1, 0x0, 0x0⟩
  | .NET_MAC_HI => ⟨0x4114, 1, 0x0, 1, 0x0, 0x0⟩
  | .NET_SHAFT => ⟨0x4120, 1, 0x0, 1, 0x0, 0x788B5⟩
  | .NET_SHAFT_DA_LO => ⟨0x4124, 1, 0x0, 1, 0x0, 0x3⟩
  | .NET_SHAFT_DA_HI => ⟨0x4128, 1, 0x0, 1, 0x0, 0x100⟩
  | .NET_RXB_BASE_LO => ⟨0x4130, 1, 0x0, 1, 0x0, 0x0⟩
  | .NET_RXB_BASE_HI => ⟨0x4134, 1, 0x0, 1, 0x0, 0x0⟩
  | .NET_RXB_CFG => ⟨0x4138, 1, 0x0, 1, 0x0, 0x600⟩
  | .NET_RXB_WR => ⟨0x413C, 1, 0x0, 1, 0x0, 0x0⟩
  | .NET_RXB_RD => ⟨0x4140, 1, 0x0, 1, 0x0, 0x0⟩
  | .NET_RXB_DROP => ⟨0x4144, 1, 0x0, 1, 0x0, 0x0⟩
  | .NET_TXQq_CFG => ⟨0x4200, 16, 0x4, 1, 0x0, 0x0⟩
  | .NET_TXQq_STAT => ⟨0x4240, 16, 0x4, 1, 0x0, 0x0⟩
  | .NET_GCLp_ENT => ⟨0x5000, 2, 0x1000, 128, 0x4, 0xFF⟩
  | .NET_GCLp_BASE_LO => ⟨0x5800, 2, 0x1000, 1, 0x0, 0x0⟩
  | .NET_GCLp_BASE_HI => ⟨0x5804, 2, 0x1000, 1, 0x0, 0x0⟩
  | .NET_GCLp_CYC => ⟨0x5808, 2, 0x1000, 1, 0x0, 0xF4240⟩
  | .NET_GCLp_CTL => ⟨0x580C, 2, 0x1000, 1, 0x0, 0x0⟩
  | .CAN_CFG => ⟨0x8000, 4, 0x1000, 1, 0x0, 0x3⟩
  | .CAN_NTIM => ⟨0x8004, 4, 0x1000, 1, 0x0, 0x10F3E0F⟩
  | .CAN_DTIM => ⟨0x8008, 4, 0x1000, 1, 0x0, 0xF000D44⟩
  | .CAN_STAT => ⟨0x800C, 4, 0x1000, 1, 0x0, 0x0⟩
  | .CAN_ECNT => ⟨0x8010, 4, 0x1000, 1, 0x0, 0x0⟩
  | .CAN_CNT => ⟨0x8014, 4, 0x1000, 1, 0x0, 0x0⟩
  | .CAN_RXB_BASE_LO => ⟨0x8020, 4, 0x1000, 1, 0x0, 0x0⟩
  | .CAN_RXB_BASE_HI => ⟨0x8024, 4, 0x1000, 1, 0x0, 0x0⟩
  | .CAN_RXB_CFG => ⟨0x8028, 4, 0x1000, 1, 0x0, 0x600⟩
  | .CAN_RXB_WR => ⟨0x802C, 4, 0x1000, 1, 0x0, 0x0⟩
  | .CAN_FLTe_W0 => ⟨0x8100, 4, 0x1000, 128, 0x8, 0x0⟩
  | .CAN_FLTe_W1 => ⟨0x8104, 4, 0x1000, 128, 0x8, 0x0⟩
  | .DIO_CHn_CFG => ⟨0xC000, 48, 0x4, 1, 0x0, 0x50000⟩
  | .DIO_CHn_STAT => ⟨0xC100, 48, 0x4, 1, 0x0, 0x0⟩
  | .DIO_IN_LO => ⟨0xC200, 1, 0x0, 1, 0x0, 0x0⟩
  | .DIO_IN_HI => ⟨0xC204, 1, 0x0, 1, 0x0, 0x0⟩
  | .DIO_OUT_LO => ⟨0xC208, 1, 0x0, 1, 0x0, 0x0⟩
  | .DIO_OUT_HI => ⟨0xC20C, 1, 0x0, 1, 0x0, 0x0⟩
  | .DIO_WDG => ⟨0xC210, 1, 0x0, 1, 0x0, 0x64⟩
  | .DIO_GSTAT => ⟨0xC214, 1, 0x0, 1, 0x0, 0x0⟩
  | .SAF_STAT => ⟨0xD000, 1, 0x0, 1, 0x0, 0x2⟩
  | .SAF_CHECK_A => ⟨0xD004, 1, 0x0, 1, 0x0, 0x0⟩
  | .SAF_CHECK_B => ⟨0xD008, 1, 0x0, 1, 0x0, 0x0⟩
  | .SAF_CONF_VAL => ⟨0xD00C, 1, 0x0, 1, 0x0, 0x0⟩
  | .SAF_PCTL => ⟨0xD010, 1, 0x0, 1, 0x0, 0x0⟩
  | .SAF_GRP => ⟨0xD020, 1, 0x0, 1, 0x0, 0x22222222⟩
  | .SAF_PAIR => ⟨0xD024, 1, 0x0, 1, 0x0, 0x0⟩
  | .SAF_COMM => ⟨0xD028, 1, 0x0, 1, 0x0, 0x0⟩
  | .SAF_COMM_CNT => ⟨0xD02C, 1, 0x0, 1, 0x0, 0x0⟩
  | .SAF_AXF_LO => ⟨0xD030, 1, 0x0, 1, 0x0, 0x0⟩
  | .SAF_AXF_HI => ⟨0xD034, 1, 0x0, 1, 0x0, 0x0⟩
  | .SAF_HOLD_LO => ⟨0xD038, 1, 0x0, 1, 0x0, 0xFFFFFFFF⟩
  | .SAF_HOLD_HI => ⟨0xD03C, 1, 0x0, 1, 0x0, 0xFFFF⟩
  | .SAF_PARAM => ⟨0xD400, 264, 0x4, 1, 0x0, 0x0⟩
  | .NVM_SLOT_CTL => ⟨0xE000, 1, 0x0, 1, 0x0, 0x0⟩
  | .NVM_SLOT_SRC => ⟨0xE004, 1, 0x0, 1, 0x0, 0x0⟩
  | .NVM_SLOT_STAT => ⟨0xE008, 1, 0x0, 1, 0x0, 0x0⟩
  | .NVM_MINVER => ⟨0xE00C, 1, 0x0, 1, 0x0, 0x0⟩
  | .NVM_FLOG_IDX => ⟨0xE010, 1, 0x0, 1, 0x0, 0x0⟩
  | .NVM_FLOG_Dj => ⟨0xE014, 4, 0x4, 1, 0x0, 0x0⟩
  | .ENG_ROLE => ⟨0x10000, 64, 0x400, 1, 0x0, 0x0⟩
  | .ENG_STAT => ⟨0x10004, 64, 0x400, 1, 0x0, 0x0⟩
  | .ENG_EVSTAT => ⟨0x10008, 64, 0x400, 1, 0x0, 0x0⟩
  | .ENG_EVCFG => ⟨0x1000C, 64, 0x400, 1, 0x0, 0x0⟩
  | .ENG_PACE => ⟨0x10010, 64, 0x400, 1, 0x0, 0x0⟩
  | .ENG_HWM_SF => ⟨0x10014, 64, 0x400, 1, 0x0, 0x0⟩
  | .ENG_HWM_HR => ⟨0x10018, 64, 0x400, 1, 0x0, 0x0⟩
  | .ENG_FO => ⟨0x1001C, 64, 0x400, 1, 0x0, 0x0⟩
  | .BNK_CARRIER => ⟨0x20000, 6, 0x1000, 1, 0x0, 0x230D4⟩
  | .BNK_DT => ⟨0x20004, 6, 0x1000, 1, 0x0, 0x401078⟩
  | .BNK_BOOT => ⟨0x20008, 6, 0x1000, 1, 0x0, 0x9C48320⟩
  | .BNK_PROT => ⟨0x2000C, 6, 0x1000, 1, 0x0, 0x832⟩
  | .BNK_VM1 => ⟨0x20010, 6, 0x1000, 1, 0x0, 0x0⟩
  | .BNK_VM2 => ⟨0x20014, 6, 0x1000, 1, 0x0, 0x0⟩
  | .BNK_BRK => ⟨0x20018, 6, 0x1000, 1, 0x0, 0x0⟩
  | .BNK_WCACT => ⟨0x2001C, 6, 0x1000, 1, 0x0, 0x5⟩
  | .BNK_RELEASE => ⟨0x20020, 6, 0x1000, 1, 0x0, 0x0⟩
  | .BNK_FLT => ⟨0x20024, 6, 0x1000, 1, 0x0, 0x0⟩
  | .BNK_PSTAT => ⟨0x20028, 6, 0x1000, 1, 0x0, 0x0⟩
  | .BNK_FRAME => ⟨0x2002C, 6, 0x1000, 1, 0x0, 0x0⟩
  | .BNK_MEAS => ⟨0x20030, 6, 0x1000, 1, 0x0, 0x0⟩
  | .BNK_PNOW => ⟨0x20034, 6, 0x1000, 1, 0x0, 0x0⟩
  | .AX_CFG => ⟨0x40000, 48, 0x1000, 1, 0x0, 0x400⟩
  | .AX_STATE => ⟨0x40004, 48, 0x1000, 1, 0x0, 0x0⟩
  | .AX_SENSE => ⟨0x40008, 48, 0x1000, 1, 0x0, 0xFA012C⟩
  | .AX_IOFS_A => ⟨0x4000C, 48, 0x1000, 1, 0x0, 0x8000800⟩
  | .AX_IOFS_B => ⟨0x40010, 48, 0x1000, 1, 0x0, 0x8000800⟩
  | .AX_STOPCFG => ⟨0x40014, 48, 0x1000, 1, 0x0, 0x1F40005⟩
  | .AX_LFAULT => ⟨0x40018, 48, 0x1000, 1, 0x0, 0x0⟩
  | .AX_LIMCFG => ⟨0x4001C, 48, 0x1000, 1, 0x0, 0x40202⟩
  | .AX_PWM => ⟨0x40020, 48, 0x1000, 1, 0x0, 0x20⟩
  | .AX_GDPROF => ⟨0x40024, 48, 0x1000, 1, 0x0, 0x319⟩
  | .AX_OC => ⟨0x40028, 48, 0x1000, 1, 0x0, 0xF0C0⟩
  | .AX_HALL => ⟨0x4002C, 48, 0x1000, 1, 0x0, 0x19⟩
  | .AX_PSTAT => ⟨0x40030, 48, 0x1000, 1, 0x0, 0x0⟩
  | .AX_WC => ⟨0x40034, 48, 0x1000, 1, 0x0, 0x10000⟩
  | .AX_INFO => ⟨0x40038, 48, 0x1000, 1, 0x0, 0x0⟩
  | .AX_DLMISS => ⟨0x40040, 48, 0x1000, 1, 0x0, 0x0⟩
  | .AX_FBCFG => ⟨0x40080, 48, 0x1000, 1, 0x0, 0x0⟩
  | .AX_QCFG => ⟨0x40084, 48, 0x1000, 1, 0x0, 0x200008⟩
  | .AX_ANGCFG => ⟨0x40088, 48, 0x1000, 1, 0x0, 0x1000⟩
  | .AX_ANGOFS => ⟨0x4008C, 48, 0x1000, 1, 0x0, 0x40000000⟩
  | .AX_SCCFG => ⟨0x40090, 48, 0x1000, 1, 0x0, 0x4E0100A⟩
  | .AX_SSICFG => ⟨0x40094, 48, 0x1000, 1, 0x0, 0x32002B59⟩
  | .AX_FBFLT => ⟨0x40098, 48, 0x1000, 1, 0x0, 0x0⟩
  | .AX_FBCNT => ⟨0x4009C, 48, 0x1000, 1, 0x0, 0x0⟩
  | .AX_POS_LO => ⟨0x400A0, 48, 0x1000, 1, 0x0, 0x0⟩
  | .AX_POS_HI => ⟨0x400A4, 48, 0x1000, 1, 0x0, 0x0⟩
  | .AX_POSLD_LO => ⟨0x400A8, 48, 0x1000, 1, 0x0, 0x0⟩
  | .AX_POSLD_HI => ⟨0x400AC, 48, 0x1000, 1, 0x0, 0x0⟩
  | .AX_ZPOS_LO => ⟨0x400B0, 48, 0x1000, 1, 0x0, 0x0⟩
  | .AX_ZPOS_HI => ⟨0x400B4, 48, 0x1000, 1, 0x0, 0x0⟩
  | .AX_FBSAFE => ⟨0x400B8, 48, 0x1000, 1, 0x0, 0x0⟩
  | .AX_MOTCFG => ⟨0x400C0, 48, 0x1000, 1, 0x0, 0x1F40030⟩
  | .AX_STEPCFG => ⟨0x400C4, 48, 0x1000, 1, 0x0, 0x28⟩
  | .AX_MSTAT => ⟨0x400C8, 48, 0x1000, 1, 0x0, 0x200⟩
  | .AX_STEPCNT => ⟨0x400CC, 48, 0x1000, 1, 0x0, 0x0⟩
  | .AX_MONSTAT => ⟨0x400E0, 48, 0x1000, 1, 0x0, 0x0⟩
  | .AX_FOSTAT => ⟨0x400F0, 48, 0x1000, 1, 0x0, 0x0⟩
  | .AX_PLUG => ⟨0x400F8, 48, 0x1000, 1, 0x0, 0x4148040D⟩
  | .AX_PLUGSTAT => ⟨0x400FC, 48, 0x1000, 1, 0x0, 0x0⟩
  | .HIF_DB => ⟨0x100000, 8, 0x10000, 6, 0x8, 0x0⟩
  | .HIF_RING_BASE_LO => ⟨0x101000, 8, 0x10000, 6, 0x20, 0x0⟩
  | .HIF_RING_BASE_HI => ⟨0x101004, 8, 0x10000, 6, 0x20, 0x0⟩
  | .HIF_RING_CFG => ⟨0x101008, 8, 0x10000, 6, 0x20, 0x400⟩
  | .HIF_RING_STAT => ⟨0x10100C, 8, 0x10000, 6, 0x20, 0x0⟩
  | .HIF_RING_IDX => ⟨0x101010, 8, 0x10000, 6, 0x20, 0x0⟩
  | .HIF_RING_SEQ => ⟨0x101014, 8, 0x10000, 6, 0x20, 0x0⟩
  | .HIF_MSIX_TAB => ⟨0x102000, 8, 0x10000, 64, 0x4, 0x0⟩
  | .HIF_MSIX_PBA => ⟨0x103000, 8, 0x10000, 2, 0x4, 0x0⟩
  | .HIF_FCTL => ⟨0x104000, 8, 0x10000, 1, 0x0, 0x0⟩
  | .HIF_FSTAT => ⟨0x104004, 8, 0x10000, 1, 0x0, 0x0⟩
  | .HIF_RLOG_CNT => ⟨0x104008, 8, 0x10000, 1, 0x0, 0x0⟩
  | .HIF_QOS0 => ⟨0x104020, 8, 0x10000, 1, 0x0, 0x3F00000⟩
  | .HIF_QOS1 => ⟨0x104024, 8, 0x10000, 1, 0x0, 0xFFF⟩
  | .HIF_VMOD_v => ⟨0x104100, 8, 0x10000, 16, 0x4, 0x1⟩
  | .HIF_RLOG_SEQ => ⟨0x104400, 8, 0x10000, 128, 0x8, 0x0⟩
  | .HIF_RLOG_RING => ⟨0x104404, 8, 0x10000, 128, 0x8, 0x0⟩
  | .HIF_OWN_AXi => ⟨0x10F000, 6, 0x4, 1, 0x0, 0x0⟩
  | .HIF_OWN_DIOi => ⟨0x10F020, 6, 0x4, 1, 0x0, 0x0⟩
  | .HIF_OWN_CAN => ⟨0x10F040, 1, 0x0, 1, 0x0, 0x0⟩
  | .HIF_OWN_NETQi => ⟨0x10F044, 2, 0x4, 1, 0x0, 0x0⟩
  | .HIF_OWN_CTL => ⟨0x10F050, 1, 0x0, 1, 0x0, 0x0⟩
  | .HIF_OWNF_AXi => ⟨0x10F100, 6, 0x4, 1, 0x0, 0x0⟩
  | .HIF_OWNF_DIOi => ⟨0x10F120, 6, 0x4, 1, 0x0, 0x0⟩
  | .HIF_OWNF_CAN => ⟨0x10F140, 1, 0x0, 1, 0x0, 0x0⟩
  | .HIF_OWNF_NETQi => ⟨0x10F144, 2, 0x4, 1, 0x0, 0x0⟩

/-- Every register name, in rising order of base offset. -/
def Reg.all : List Reg := [
  .GLB_ID, .GLB_ROMVER, .GLB_SERIAL_LO, .GLB_SERIAL_HI, .GLB_SCRATCH, .GLB_STAT,
  .GLB_ENV, .GLB_PACE_CFG, .GLB_PACE_STAT, .GLB_ALLOC, .GLB_SMWIN, .GLB_POk_CFG,
  .GLB_POk_RATIO, .GLB_POk_STAT, .GLB_SHAFT_CFG, .GLB_SHAFT_ID, .GLB_SHAFT_STAT, .GLB_CAM_BUSY,
  .GLB_MON_CFG, .GLB_MON_STAT, .GLB_MON_ENG_LO, .GLB_MON_ENG_HI, .GLB_FO_CFG, .GLB_FO_STAT,
  .GLB_PROF_STAT, .PWR_STAT, .PWR_RSTC, .PWR_RST, .PWR_PF, .PWR_BAK,
  .PWR_BAKSTAT, .PWR_PLINTH, .PWR_BOOT, .PWR_LOST, .PWR_BOOT_VER, .PWR_LOG,
  .THM_STAT, .THM_CFG, .THM_FANf_CFG, .THM_FANf_STAT, .THM_FANf_TACH, .TB_DT_LO,
  .TB_DT_HI, .TB_SET_LO, .TB_SET_HI, .TB_CFG, .TB_SERVO, .TB_RATE,
  .TB_QUAL, .TB_ERR, .TB_HO, .TB_TPO, .TB_DOMd_OFS, .TB_DOMd_RR,
  .NET_PORTp_CFG, .NET_PORTp_VLAN, .NET_PORTp_CNT, .NET_PTP, .NET_FDB, .NET_MAC_LO,
  .NET_MAC_HI, .NET_SHAFT, .NET_SHAFT_DA_LO, .NET_SHAFT_DA_HI, .NET_RXB_BASE_LO, .NET_RXB_BASE_HI,
  .NET_RXB_CFG, .NET_RXB_WR, .NET_RXB_RD, .NET_RXB_DROP, .NET_TXQq_CFG, .NET_TXQq_STAT,
  .NET_GCLp_ENT, .NET_GCLp_BASE_LO, .NET_GCLp_BASE_HI, .NET_GCLp_CYC, .NET_GCLp_CTL, .CAN_CFG,
  .CAN_NTIM, .CAN_DTIM, .CAN_STAT, .CAN_ECNT, .CAN_CNT, .CAN_RXB_BASE_LO,
  .CAN_RXB_BASE_HI, .CAN_RXB_CFG, .CAN_RXB_WR, .CAN_FLTe_W0, .CAN_FLTe_W1, .DIO_CHn_CFG,
  .DIO_CHn_STAT, .DIO_IN_LO, .DIO_IN_HI, .DIO_OUT_LO, .DIO_OUT_HI, .DIO_WDG,
  .DIO_GSTAT, .SAF_STAT, .SAF_CHECK_A, .SAF_CHECK_B, .SAF_CONF_VAL, .SAF_PCTL,
  .SAF_GRP, .SAF_PAIR, .SAF_COMM, .SAF_COMM_CNT, .SAF_AXF_LO, .SAF_AXF_HI,
  .SAF_HOLD_LO, .SAF_HOLD_HI, .SAF_PARAM, .NVM_SLOT_CTL, .NVM_SLOT_SRC, .NVM_SLOT_STAT,
  .NVM_MINVER, .NVM_FLOG_IDX, .NVM_FLOG_Dj, .ENG_ROLE, .ENG_STAT, .ENG_EVSTAT,
  .ENG_EVCFG, .ENG_PACE, .ENG_HWM_SF, .ENG_HWM_HR, .ENG_FO, .BNK_CARRIER,
  .BNK_DT, .BNK_BOOT, .BNK_PROT, .BNK_VM1, .BNK_VM2, .BNK_BRK,
  .BNK_WCACT, .BNK_RELEASE, .BNK_FLT, .BNK_PSTAT, .BNK_FRAME, .BNK_MEAS,
  .BNK_PNOW, .AX_CFG, .AX_STATE, .AX_SENSE, .AX_IOFS_A, .AX_IOFS_B,
  .AX_STOPCFG, .AX_LFAULT, .AX_LIMCFG, .AX_PWM, .AX_GDPROF, .AX_OC,
  .AX_HALL, .AX_PSTAT, .AX_WC, .AX_INFO, .AX_DLMISS, .AX_FBCFG,
  .AX_QCFG, .AX_ANGCFG, .AX_ANGOFS, .AX_SCCFG, .AX_SSICFG, .AX_FBFLT,
  .AX_FBCNT, .AX_POS_LO, .AX_POS_HI, .AX_POSLD_LO, .AX_POSLD_HI, .AX_ZPOS_LO,
  .AX_ZPOS_HI, .AX_FBSAFE, .AX_MOTCFG, .AX_STEPCFG, .AX_MSTAT, .AX_STEPCNT,
  .AX_MONSTAT, .AX_FOSTAT, .AX_PLUG, .AX_PLUGSTAT, .HIF_DB, .HIF_RING_BASE_LO,
  .HIF_RING_BASE_HI, .HIF_RING_CFG, .HIF_RING_STAT, .HIF_RING_IDX, .HIF_RING_SEQ, .HIF_MSIX_TAB,
  .HIF_MSIX_PBA, .HIF_FCTL, .HIF_FSTAT, .HIF_RLOG_CNT, .HIF_QOS0, .HIF_QOS1,
  .HIF_VMOD_v, .HIF_RLOG_SEQ, .HIF_RLOG_RING, .HIF_OWN_AXi, .HIF_OWN_DIOi, .HIF_OWN_CAN,
  .HIF_OWN_NETQi, .HIF_OWN_CTL, .HIF_OWNF_AXi, .HIF_OWNF_DIOi, .HIF_OWNF_CAN, .HIF_OWNF_NETQi]

/-- Address in BAR0 of F0 of the instance `i`, `j` of a register (R483). -/
def Reg.addr (r : Reg) (i : Nat := 0) (j : Nat := 0) : Nat :=
  r.spec.base + r.spec.s1 * i + r.spec.s2 * j

/-- Reset word of an instance (R487). "Plan" is the default plan of Mbokan engines; AX_INFO is R491. Words the index marks
"Plinth" or "Device" start at 0 here and are loaded when the Plinth's values take effect (R457). -/
def Reg.resetWord (r : Reg) (i : Nat) (j : Nat) : Word :=
  match r with
  | .ENG_ROLE => if i < 48 then BitVec.ofNat 32 (0x01000001 + 0x100 * i) else if i < 60 then 0x01000002 else 0x01000003
  | .ENG_STAT => if i < 48 then 0x08 else if i < 60 then 0x10 else 0x18
  | .AX_MOTCFG => BitVec.ofNat 32 (0x01F40030 + i / 4)
  | .AX_INFO => BitVec.ofNat 32 ((if i % 8 < 2 then 1 else 0) + 0x10 * (i / 8) + 0x100 * i)
  | .HIF_FSTAT => if i = 0 then 1 else 0
  | .HIF_QOS0 => if i = 0 then 0x03F00028 else 0x03F00000
  | .HIF_MSIX_TAB => if j % 4 = 3 then 1 else 0
  | _ => BitVec.ofNat 32 r.spec.reset

/-- A field of a register: R3 numbers its bits. -/
structure Fld where
  reg : Reg
  lsb : Nat
  width : Nat
  acc : Access
  deriving DecidableEq, Repr

/-! GLB_ID: 18_register_map.md, Table 10. -/
def Fld.GLB_ID_PART : Fld := ⟨.GLB_ID, 0, 16, .ro⟩
def Fld.GLB_ID_FAMILY : Fld := ⟨.GLB_ID, 16, 8, .ro⟩
def Fld.GLB_ID_STEPPING : Fld := ⟨.GLB_ID, 24, 8, .ro⟩
/-! GLB_ROMVER: 18_register_map.md, Table 10. -/
def Fld.GLB_ROMVER_MINOR : Fld := ⟨.GLB_ROMVER, 0, 16, .ro⟩
def Fld.GLB_ROMVER_MAJOR : Fld := ⟨.GLB_ROMVER, 16, 16, .ro⟩
/-! GLB_SERIAL_LO: 18_register_map.md, Table 10. -/
def Fld.GLB_SERIAL_LO_SERIAL : Fld := ⟨.GLB_SERIAL_LO, 0, 32, .ro⟩
/-! GLB_SERIAL_HI: 18_register_map.md, Table 10. -/
def Fld.GLB_SERIAL_HI_SERIAL : Fld := ⟨.GLB_SERIAL_HI, 0, 32, .ro⟩
/-! GLB_SCRATCH: 18_register_map.md, Table 10. -/
def Fld.GLB_SCRATCH_DATA : Fld := ⟨.GLB_SCRATCH, 0, 32, .rw⟩
/-! GLB_STAT: 18_register_map.md, Table 11. -/
def Fld.GLB_STAT_READY : Fld := ⟨.GLB_STAT, 0, 1, .ro⟩
def Fld.GLB_STAT_LOADING : Fld := ⟨.GLB_STAT, 1, 1, .ro⟩
def Fld.GLB_STAT_WR_REJ : Fld := ⟨.GLB_STAT, 2, 1, .w1c⟩
/-! GLB_ENV: 01_frames_and_release.md, Table 6. -/
def Fld.GLB_ENV_ENV : Fld := ⟨.GLB_ENV, 0, 2, .ro⟩
def Fld.GLB_ENV_SPLIT : Fld := ⟨.GLB_ENV, 2, 1, .ro⟩
def Fld.GLB_ENV_SPARES : Fld := ⟨.GLB_ENV, 4, 4, .ro⟩
def Fld.GLB_ENV_VIOL : Fld := ⟨.GLB_ENV, 16, 1, .w1c⟩
/-! GLB_PACE_CFG: 01_frames_and_release.md, Table 3. -/
def Fld.GLB_PACE_CFG_WARN_PS : Fld := ⟨.GLB_PACE_CFG, 0, 16, .rw⟩
/-! GLB_PACE_STAT: 01_frames_and_release.md, Table 3. -/
def Fld.GLB_PACE_STAT_MAX_PS : Fld := ⟨.GLB_PACE_STAT, 0, 16, .ro⟩
def Fld.GLB_PACE_STAT_MAX_ENG : Fld := ⟨.GLB_PACE_STAT, 16, 6, .ro⟩
def Fld.GLB_PACE_STAT_WARN : Fld := ⟨.GLB_PACE_STAT, 24, 1, .ro⟩
def Fld.GLB_PACE_STAT_LIMIT : Fld := ⟨.GLB_PACE_STAT, 25, 1, .ro⟩
def Fld.GLB_PACE_STAT_WARN_SEEN : Fld := ⟨.GLB_PACE_STAT, 26, 1, .w1c⟩
def Fld.GLB_PACE_STAT_LIMIT_SEEN : Fld := ⟨.GLB_PACE_STAT, 27, 1, .rwsClear⟩
/-! GLB_ALLOC: 02_engines.md, Table 10. -/
def Fld.GLB_ALLOC_APPLY : Fld := ⟨.GLB_ALLOC, 0, 1, .wo⟩
def Fld.GLB_ALLOC_BUSY : Fld := ⟨.GLB_ALLOC, 1, 1, .ro⟩
def Fld.GLB_ALLOC_DONE : Fld := ⟨.GLB_ALLOC, 2, 1, .w1c⟩
def Fld.GLB_ALLOC_REJ : Fld := ⟨.GLB_ALLOC, 3, 1, .w1c⟩
def Fld.GLB_ALLOC_REJ_WHY : Fld := ⟨.GLB_ALLOC, 4, 4, .ro⟩
/-! GLB_SMWIN: 18_register_map.md, Table 11. -/
def Fld.GLB_SMWIN_PAGE : Fld := ⟨.GLB_SMWIN, 0, 1, .rw⟩
/-! GLB_POk_CFG: 06_feedback.md, Table 11. -/
def Fld.GLB_POk_CFG_EN : Fld := ⟨.GLB_POk_CFG, 0, 1, .rw⟩
def Fld.GLB_POk_CFG_FMT : Fld := ⟨.GLB_POk_CFG, 1, 1, .rw⟩
def Fld.GLB_POk_CFG_INV : Fld := ⟨.GLB_POk_CFG, 2, 1, .rw⟩
def Fld.GLB_POk_CFG_SRC : Fld := ⟨.GLB_POk_CFG, 8, 6, .rw⟩
def Fld.GLB_POk_CFG_MINSP : Fld := ⟨.GLB_POk_CFG, 16, 8, .rw⟩
/-! GLB_POk_RATIO: 06_feedback.md, Table 11. -/
def Fld.GLB_POk_RATIO_N : Fld := ⟨.GLB_POk_RATIO, 0, 16, .rw⟩
def Fld.GLB_POk_RATIO_M : Fld := ⟨.GLB_POk_RATIO, 16, 16, .rw⟩
/-! GLB_POk_STAT: 06_feedback.md, Table 11. -/
def Fld.GLB_POk_STAT_BACKLOG : Fld := ⟨.GLB_POk_STAT, 0, 16, .ro⟩
def Fld.GLB_POk_STAT_BDIR : Fld := ⟨.GLB_POk_STAT, 16, 1, .ro⟩
def Fld.GLB_POk_STAT_OVF : Fld := ⟨.GLB_POk_STAT, 17, 1, .w1c⟩
def Fld.GLB_POk_STAT_CFG_REJ : Fld := ⟨.GLB_POk_STAT, 18, 1, .w1c⟩
/-! GLB_SHAFT_CFG: 07_motion.md, Table 9. -/
def Fld.GLB_SHAFT_CFG_ROLE : Fld := ⟨.GLB_SHAFT_CFG, 0, 2, .rw⟩
def Fld.GLB_SHAFT_CFG_SRC_AX : Fld := ⟨.GLB_SHAFT_CFG, 2, 6, .rw⟩
def Fld.GLB_SHAFT_CFG_DOM_CHK : Fld := ⟨.GLB_SHAFT_CFG, 8, 1, .rw⟩
def Fld.GLB_SHAFT_CFG_LOSS_N : Fld := ⟨.GLB_SHAFT_CFG, 16, 8, .rw⟩
def Fld.GLB_SHAFT_CFG_AGE : Fld := ⟨.GLB_SHAFT_CFG, 24, 8, .rw⟩
/-! GLB_SHAFT_ID: 07_motion.md, Table 9. -/
def Fld.GLB_SHAFT_ID_ID : Fld := ⟨.GLB_SHAFT_ID, 0, 16, .rw⟩
/-! GLB_SHAFT_STAT: 07_motion.md, Table 10. -/
def Fld.GLB_SHAFT_STAT_LOST : Fld := ⟨.GLB_SHAFT_STAT, 0, 1, .ro⟩
def Fld.GLB_SHAFT_STAT_LOSS_SEEN : Fld := ⟨.GLB_SHAFT_STAT, 1, 1, .w1c⟩
def Fld.GLB_SHAFT_STAT_CFG_REJ : Fld := ⟨.GLB_SHAFT_STAT, 2, 1, .w1c⟩
def Fld.GLB_SHAFT_STAT_MISS : Fld := ⟨.GLB_SHAFT_STAT, 8, 8, .ro⟩
def Fld.GLB_SHAFT_STAT_STALE : Fld := ⟨.GLB_SHAFT_STAT, 16, 16, .ro⟩
/-! GLB_CAM_BUSY: 07_motion.md, Table 10. -/
def Fld.GLB_CAM_BUSY_BUSY : Fld := ⟨.GLB_CAM_BUSY, 0, 16, .ro⟩
/-! GLB_MON_CFG: 08_condition.md, Table 5. -/
def Fld.GLB_MON_CFG_EN : Fld := ⟨.GLB_MON_CFG, 0, 1, .rw⟩
def Fld.GLB_MON_CFG_HLEVEL : Fld := ⟨.GLB_MON_CFG, 4, 2, .rw⟩
/-! GLB_MON_STAT: 08_condition.md, Table 6. -/
def Fld.GLB_MON_STAT_LEVEL : Fld := ⟨.GLB_MON_STAT, 0, 2, .ro⟩
def Fld.GLB_MON_STAT_TLEVEL : Fld := ⟨.GLB_MON_STAT, 2, 2, .ro⟩
def Fld.GLB_MON_STAT_ENV_OFF : Fld := ⟨.GLB_MON_STAT, 4, 1, .ro⟩
def Fld.GLB_MON_STAT_ENG_LOST : Fld := ⟨.GLB_MON_STAT, 5, 1, .w1c⟩
/-! GLB_MON_ENG_LO: 08_condition.md, Table 7. -/
def Fld.GLB_MON_ENG_LO_ENG : Fld := ⟨.GLB_MON_ENG_LO, 0, 32, .ro⟩
/-! GLB_MON_ENG_HI: 08_condition.md, Table 7. -/
def Fld.GLB_MON_ENG_HI_ENG : Fld := ⟨.GLB_MON_ENG_HI, 0, 32, .ro⟩
/-! GLB_FO_CFG: 15_failover.md, Table 10. -/
def Fld.GLB_FO_CFG_REPAIR : Fld := ⟨.GLB_FO_CFG, 0, 1, .rw⟩
def Fld.GLB_FO_CFG_HB_N : Fld := ⟨.GLB_FO_CFG, 1, 1, .rw⟩
def Fld.GLB_FO_CFG_SHARE_EN : Fld := ⟨.GLB_FO_CFG, 2, 1, .rw⟩
/-! GLB_FO_STAT: 15_failover.md, Table 11. -/
def Fld.GLB_FO_STAT_SPARES_LEFT : Fld := ⟨.GLB_FO_STAT, 0, 4, .ro⟩
def Fld.GLB_FO_STAT_STANDBY : Fld := ⟨.GLB_FO_STAT, 4, 4, .ro⟩
def Fld.GLB_FO_STAT_LAST_FAIL : Fld := ⟨.GLB_FO_STAT, 8, 6, .ro⟩
def Fld.GLB_FO_STAT_EXHAUSTED : Fld := ⟨.GLB_FO_STAT, 14, 1, .ro⟩
def Fld.GLB_FO_STAT_EXH_SEEN : Fld := ⟨.GLB_FO_STAT, 15, 1, .w1c⟩
def Fld.GLB_FO_STAT_TAKEOVERS : Fld := ⟨.GLB_FO_STAT, 16, 16, .ro⟩
/-! GLB_PROF_STAT: 15_failover.md, Table 11. -/
def Fld.GLB_PROF_STAT_ACTIVE : Fld := ⟨.GLB_PROF_STAT, 0, 2, .ro⟩
def Fld.GLB_PROF_STAT_LOADED : Fld := ⟨.GLB_PROF_STAT, 2, 1, .ro⟩
def Fld.GLB_PROF_STAT_RESULT : Fld := ⟨.GLB_PROF_STAT, 3, 3, .ro⟩
def Fld.GLB_PROF_STAT_INTACT : Fld := ⟨.GLB_PROF_STAT, 6, 3, .ro⟩
def Fld.GLB_PROF_STAT_REWRITE : Fld := ⟨.GLB_PROF_STAT, 9, 1, .ro⟩
def Fld.GLB_PROF_STAT_GEN : Fld := ⟨.GLB_PROF_STAT, 16, 16, .ro⟩
/-! PWR_STAT: 16_power_reset.md, Table 8. -/
def Fld.PWR_STAT_VAUX_OK : Fld := ⟨.PWR_STAT, 0, 1, .ro⟩
def Fld.PWR_STAT_PFAIL : Fld := ⟨.PWR_STAT, 1, 1, .ro⟩
def Fld.PWR_STAT_PL_VBAK : Fld := ⟨.PWR_STAT, 2, 1, .ro⟩
def Fld.PWR_STAT_DEBOUNCE : Fld := ⟨.PWR_STAT, 3, 1, .ro⟩
def Fld.PWR_STAT_BOOT_FAIL : Fld := ⟨.PWR_STAT, 4, 1, .ro⟩
/-! PWR_RSTC: 16_power_reset.md, Table 8. -/
def Fld.PWR_RSTC_CAUSE : Fld := ⟨.PWR_RSTC, 0, 3, .ro⟩
def Fld.PWR_RSTC_EP_CNT : Fld := ⟨.PWR_RSTC, 8, 8, .ro⟩
def Fld.PWR_RSTC_WARM_CNT : Fld := ⟨.PWR_RSTC, 16, 16, .ro⟩
/-! PWR_RST: 16_power_reset.md, Table 8. -/
def Fld.PWR_RST_KEY : Fld := ⟨.PWR_RST, 0, 16, .wo⟩
/-! PWR_PF: 16_power_reset.md, Table 8. -/
def Fld.PWR_PF_VAUX_TH : Fld := ⟨.PWR_PF, 0, 7, .rws⟩
/-! PWR_BAK: 16_power_reset.md, Table 8. -/
def Fld.PWR_BAK_PROF : Fld := ⟨.PWR_BAK, 0, 2, .rw⟩
def Fld.PWR_BAK_ICHG : Fld := ⟨.PWR_BAK, 16, 10, .rw⟩
/-! PWR_BAKSTAT: 16_power_reset.md, Table 8. -/
def Fld.PWR_BAKSTAT_CHG : Fld := ⟨.PWR_BAKSTAT, 0, 3, .ro⟩
def Fld.PWR_BAKSTAT_VBAK_ABSENT : Fld := ⟨.PWR_BAKSTAT, 3, 1, .ro⟩
def Fld.PWR_BAKSTAT_VBAK_MV : Fld := ⟨.PWR_BAKSTAT, 16, 16, .ro⟩
/-! PWR_PLINTH: 16_power_reset.md, Table 8. -/
def Fld.PWR_PLINTH_COMMIT_OK : Fld := ⟨.PWR_PLINTH, 0, 1, .ro⟩
def Fld.PWR_PLINTH_COLD : Fld := ⟨.PWR_PLINTH, 1, 1, .ro⟩
/-! PWR_BOOT: 16_power_reset.md, Table 8. -/
def Fld.PWR_BOOT_SLOT : Fld := ⟨.PWR_BOOT, 0, 1, .ro⟩
def Fld.PWR_BOOT_A_VALID : Fld := ⟨.PWR_BOOT, 1, 1, .ro⟩
def Fld.PWR_BOOT_B_VALID : Fld := ⟨.PWR_BOOT, 2, 1, .ro⟩
def Fld.PWR_BOOT_PSEL : Fld := ⟨.PWR_BOOT, 3, 2, .ro⟩
/-! PWR_LOST: 16_power_reset.md, Table 8. -/
def Fld.PWR_LOST_OWED : Fld := ⟨.PWR_LOST, 0, 14, .ro⟩
def Fld.PWR_LOST_OVF : Fld := ⟨.PWR_LOST, 14, 1, .w1c⟩
def Fld.PWR_LOST_DISCARD : Fld := ⟨.PWR_LOST, 15, 1, .wo⟩
/-! PWR_BOOT_VER: 16_power_reset.md, Table 8. -/
def Fld.PWR_BOOT_VER_VERSION : Fld := ⟨.PWR_BOOT_VER, 0, 32, .ro⟩
/-! PWR_LOG: 16_power_reset.md, Table 8. -/
def Fld.PWR_LOG_ENTRY : Fld := ⟨.PWR_LOG, 0, 32, .ro⟩
/-! THM_STAT: 17_thermal.md, Table 6. -/
def Fld.THM_STAT_TJ : Fld := ⟨.THM_STAT, 0, 12, .ro⟩
def Fld.THM_STAT_LEVEL : Fld := ⟨.THM_STAT, 12, 3, .rwsHw⟩
def Fld.THM_STAT_WARN : Fld := ⟨.THM_STAT, 15, 1, .ro⟩
def Fld.THM_STAT_SHUT : Fld := ⟨.THM_STAT, 16, 1, .ro⟩
def Fld.THM_STAT_TIGHT : Fld := ⟨.THM_STAT, 17, 1, .ro⟩
def Fld.THM_STAT_WARN_SEEN : Fld := ⟨.THM_STAT, 18, 1, .w1c⟩
def Fld.THM_STAT_SHUT_SEEN : Fld := ⟨.THM_STAT, 19, 1, .rwsClear⟩
def Fld.THM_STAT_MAXSRC : Fld := ⟨.THM_STAT, 20, 3, .ro⟩
/-! THM_CFG: 17_thermal.md, Table 6. -/
def Fld.THM_CFG_TIGHT : Fld := ⟨.THM_CFG, 0, 8, .rw⟩
def Fld.THM_CFG_DWELL_S : Fld := ⟨.THM_CFG, 8, 8, .rw⟩
def Fld.THM_CFG_REL_S : Fld := ⟨.THM_CFG, 16, 8, .rw⟩
/-! THM_FANf_CFG: 17_thermal.md, Table 6. -/
def Fld.THM_FANf_CFG_EN : Fld := ⟨.THM_FANf_CFG, 0, 1, .rws⟩
def Fld.THM_FANf_CFG_AUTO : Fld := ⟨.THM_FANf_CFG, 1, 1, .rws⟩
def Fld.THM_FANf_CFG_PPR : Fld := ⟨.THM_FANf_CFG, 2, 2, .rws⟩
def Fld.THM_FANf_CFG_DUTY : Fld := ⟨.THM_FANf_CFG, 8, 8, .rws⟩
def Fld.THM_FANf_CFG_T_LO : Fld := ⟨.THM_FANf_CFG, 16, 8, .rws⟩
def Fld.THM_FANf_CFG_HIGH : Fld := ⟨.THM_FANf_CFG, 24, 8, .rws⟩
/-! THM_FANf_STAT: 17_thermal.md, Table 6. -/
def Fld.THM_FANf_STAT_STATE : Fld := ⟨.THM_FANf_STAT, 0, 3, .ro⟩
def Fld.THM_FANf_STAT_KICKS : Fld := ⟨.THM_FANf_STAT, 3, 2, .ro⟩
def Fld.THM_FANf_STAT_CUR : Fld := ⟨.THM_FANf_STAT, 16, 8, .ro⟩
/-! THM_FANf_TACH: 17_thermal.md, Table 6. -/
def Fld.THM_FANf_TACH_RPM : Fld := ⟨.THM_FANf_TACH, 0, 16, .ro⟩
/-! TB_DT_LO: 11_time_network.md, Table 6. -/
def Fld.TB_DT_LO_DT : Fld := ⟨.TB_DT_LO, 0, 32, .ro⟩
/-! TB_DT_HI: 11_time_network.md, Table 6. -/
def Fld.TB_DT_HI_DT : Fld := ⟨.TB_DT_HI, 0, 32, .ro⟩
/-! TB_SET_LO: 11_time_network.md, Table 6. -/
def Fld.TB_SET_LO_VAL : Fld := ⟨.TB_SET_LO, 0, 32, .rw⟩
/-! TB_SET_HI: 11_time_network.md, Table 6. -/
def Fld.TB_SET_HI_VAL : Fld := ⟨.TB_SET_HI, 0, 32, .rw⟩
/-! TB_CFG: 11_time_network.md, Table 6. -/
def Fld.TB_CFG_MODE : Fld := ⟨.TB_CFG, 0, 1, .rw⟩
def Fld.TB_CFG_SEL : Fld := ⟨.TB_CFG, 1, 1, .rw⟩
def Fld.TB_CFG_AUTO : Fld := ⟨.TB_CFG, 2, 1, .rw⟩
def Fld.TB_CFG_STEP_EN : Fld := ⟨.TB_CFG, 3, 1, .rw⟩
def Fld.TB_CFG_STEP_TH : Fld := ⟨.TB_CFG, 8, 16, .rw⟩
def Fld.TB_CFG_SLEW_PPM : Fld := ⟨.TB_CFG, 24, 7, .rw⟩
/-! TB_SERVO: 11_time_network.md, Table 6. -/
def Fld.TB_SERVO_KP : Fld := ⟨.TB_SERVO, 0, 16, .rw⟩
def Fld.TB_SERVO_KI : Fld := ⟨.TB_SERVO, 16, 16, .rw⟩
/-! TB_RATE: 11_time_network.md, Table 6. -/
def Fld.TB_RATE_RATE : Fld := ⟨.TB_RATE, 0, 32, .ro⟩
/-! TB_QUAL: 11_time_network.md, Table 6. -/
def Fld.TB_QUAL_STATE : Fld := ⟨.TB_QUAL, 0, 3, .ro⟩
def Fld.TB_QUAL_DOMAIN : Fld := ⟨.TB_QUAL, 3, 1, .ro⟩
def Fld.TB_QUAL_VALID0 : Fld := ⟨.TB_QUAL, 4, 1, .ro⟩
def Fld.TB_QUAL_VALID1 : Fld := ⟨.TB_QUAL, 5, 1, .ro⟩
def Fld.TB_QUAL_JUMP_PEND : Fld := ⟨.TB_QUAL, 6, 1, .ro⟩
def Fld.TB_QUAL_SET_REJ : Fld := ⟨.TB_QUAL, 7, 1, .w1c⟩
def Fld.TB_QUAL_STEPPED : Fld := ⟨.TB_QUAL, 8, 1, .w1c⟩
def Fld.TB_QUAL_REFUSED : Fld := ⟨.TB_QUAL, 16, 16, .ro⟩
/-! TB_ERR: 11_time_network.md, Table 6. -/
def Fld.TB_ERR_BOUND : Fld := ⟨.TB_ERR, 0, 32, .ro⟩
/-! TB_HO: 11_time_network.md, Table 6. -/
def Fld.TB_HO_HO_PPB : Fld := ⟨.TB_HO, 0, 16, .rw⟩
def Fld.TB_HO_HO_AGE : Fld := ⟨.TB_HO, 16, 16, .rw⟩
/-! TB_TPO: 11_time_network.md, Table 6. -/
def Fld.TB_TPO_EN : Fld := ⟨.TB_TPO, 0, 1, .rw⟩
def Fld.TB_TPO_FREE_RUN : Fld := ⟨.TB_TPO, 1, 1, .rw⟩
def Fld.TB_TPO_PERIOD_MS : Fld := ⟨.TB_TPO, 2, 10, .rw⟩
def Fld.TB_TPO_WIDTH_US : Fld := ⟨.TB_TPO, 12, 20, .rw⟩
/-! TB_DOMd_OFS: 11_time_network.md, Table 6. -/
def Fld.TB_DOMd_OFS_OFS : Fld := ⟨.TB_DOMd_OFS, 0, 32, .ro⟩
/-! TB_DOMd_RR: 11_time_network.md, Table 6. -/
def Fld.TB_DOMd_RR_RR : Fld := ⟨.TB_DOMd_RR, 0, 32, .ro⟩
/-! NET_PORTp_CFG: 11_time_network.md, Table 7. -/
def Fld.NET_PORTp_CFG_EN : Fld := ⟨.NET_PORTp_CFG, 0, 1, .rw⟩
def Fld.NET_PORTp_CFG_LINK : Fld := ⟨.NET_PORTp_CFG, 1, 1, .ro⟩
def Fld.NET_PORTp_CFG_SPEED_BAD : Fld := ⟨.NET_PORTp_CFG, 2, 1, .ro⟩
def Fld.NET_PORTp_CFG_AS_CAP : Fld := ⟨.NET_PORTp_CFG, 3, 1, .ro⟩
def Fld.NET_PORTp_CFG_TX_LAT : Fld := ⟨.NET_PORTp_CFG, 8, 10, .rw⟩
def Fld.NET_PORTp_CFG_RX_LAT : Fld := ⟨.NET_PORTp_CFG, 18, 10, .rw⟩
/-! NET_PORTp_VLAN: 11_time_network.md, Table 7. -/
def Fld.NET_PORTp_VLAN_PVID : Fld := ⟨.NET_PORTp_VLAN, 0, 12, .rw⟩
/-! NET_PORTp_CNT: 11_time_network.md, Table 7. -/
def Fld.NET_PORTp_CNT_STOMP : Fld := ⟨.NET_PORTp_CNT, 0, 16, .ro⟩
def Fld.NET_PORTp_CNT_DROP : Fld := ⟨.NET_PORTp_CNT, 16, 16, .ro⟩
/-! NET_PTP: 11_time_network.md, Table 7. -/
def Fld.NET_PTP_DOM0 : Fld := ⟨.NET_PTP, 0, 8, .rw⟩
def Fld.NET_PTP_DOM1 : Fld := ⟨.NET_PTP, 8, 8, .rw⟩
def Fld.NET_PTP_LOG_SYNC : Fld := ⟨.NET_PTP, 16, 4, .rw⟩
def Fld.NET_PTP_GM0 : Fld := ⟨.NET_PTP, 20, 1, .rw⟩
def Fld.NET_PTP_GM1 : Fld := ⟨.NET_PTP, 21, 1, .rw⟩
def Fld.NET_PTP_EXTCFG : Fld := ⟨.NET_PTP, 22, 1, .rw⟩
def Fld.NET_PTP_PRIO1 : Fld := ⟨.NET_PTP, 24, 8, .rw⟩
/-! NET_FDB: 11_time_network.md, Table 7. -/
def Fld.NET_FDB_AGE_S : Fld := ⟨.NET_FDB, 0, 16, .rw⟩
/-! NET_MAC_LO: 11_time_network.md, Table 7. -/
def Fld.NET_MAC_LO_MAC : Fld := ⟨.NET_MAC_LO, 0, 32, .rw⟩
/-! NET_MAC_HI: 11_time_network.md, Table 7. -/
def Fld.NET_MAC_HI_MAC : Fld := ⟨.NET_MAC_HI, 0, 16, .rw⟩
/-! NET_SHAFT: 11_time_network.md, Table 7. -/
def Fld.NET_SHAFT_ETYPE : Fld := ⟨.NET_SHAFT, 0, 16, .rw⟩
def Fld.NET_SHAFT_PCP : Fld := ⟨.NET_SHAFT, 16, 3, .rw⟩
def Fld.NET_SHAFT_VID : Fld := ⟨.NET_SHAFT, 20, 12, .rw⟩
/-! NET_SHAFT_DA_LO: 11_time_network.md, Table 7. -/
def Fld.NET_SHAFT_DA_LO_DA : Fld := ⟨.NET_SHAFT_DA_LO, 0, 32, .rw⟩
/-! NET_SHAFT_DA_HI: 11_time_network.md, Table 7. -/
def Fld.NET_SHAFT_DA_HI_DA : Fld := ⟨.NET_SHAFT_DA_HI, 0, 16, .rw⟩
/-! NET_RXB_BASE_LO: 11_time_network.md, Table 8. -/
def Fld.NET_RXB_BASE_LO_BASE : Fld := ⟨.NET_RXB_BASE_LO, 12, 20, .rw⟩
/-! NET_RXB_BASE_HI: 11_time_network.md, Table 8. -/
def Fld.NET_RXB_BASE_HI_BASE : Fld := ⟨.NET_RXB_BASE_HI, 0, 32, .rw⟩
/-! NET_RXB_CFG: 11_time_network.md, Table 8. -/
def Fld.NET_RXB_CFG_EN : Fld := ⟨.NET_RXB_CFG, 0, 1, .rw⟩
def Fld.NET_RXB_CFG_NOTE : Fld := ⟨.NET_RXB_CFG, 1, 1, .rw⟩
def Fld.NET_RXB_CFG_LOG2KB : Fld := ⟨.NET_RXB_CFG, 8, 4, .rw⟩
/-! NET_RXB_WR: 11_time_network.md, Table 8. -/
def Fld.NET_RXB_WR_WR : Fld := ⟨.NET_RXB_WR, 0, 32, .ro⟩
/-! NET_RXB_RD: 11_time_network.md, Table 8. -/
def Fld.NET_RXB_RD_RD : Fld := ⟨.NET_RXB_RD, 0, 32, .rw⟩
/-! NET_RXB_DROP: 11_time_network.md, Table 8. -/
def Fld.NET_RXB_DROP_DROP : Fld := ⟨.NET_RXB_DROP, 0, 32, .ro⟩
/-! NET_TXQq_CFG: 11_time_network.md, Table 8. -/
def Fld.NET_TXQq_CFG_PORTS : Fld := ⟨.NET_TXQq_CFG, 0, 2, .rw⟩
def Fld.NET_TXQq_CFG_PCP : Fld := ⟨.NET_TXQq_CFG, 2, 3, .rw⟩
def Fld.NET_TXQq_CFG_TAG : Fld := ⟨.NET_TXQq_CFG, 5, 1, .rw⟩
def Fld.NET_TXQq_CFG_LT_EN : Fld := ⟨.NET_TXQq_CFG, 6, 1, .rw⟩
def Fld.NET_TXQq_CFG_LATE_POL : Fld := ⟨.NET_TXQq_CFG, 7, 1, .rw⟩
def Fld.NET_TXQq_CFG_VID : Fld := ⟨.NET_TXQq_CFG, 8, 12, .rw⟩
/-! NET_TXQq_STAT: 11_time_network.md, Table 8. -/
def Fld.NET_TXQq_STAT_DEPTH : Fld := ⟨.NET_TXQq_STAT, 0, 6, .ro⟩
def Fld.NET_TXQq_STAT_CFG_REJ : Fld := ⟨.NET_TXQq_STAT, 6, 1, .w1c⟩
def Fld.NET_TXQq_STAT_LATE : Fld := ⟨.NET_TXQq_STAT, 16, 8, .ro⟩
def Fld.NET_TXQq_STAT_DROP : Fld := ⟨.NET_TXQq_STAT, 24, 8, .ro⟩
/-! NET_GCLp_ENT: 11_time_network.md, Table 8. -/
def Fld.NET_GCLp_ENT_GATES : Fld := ⟨.NET_GCLp_ENT, 0, 8, .rw⟩
def Fld.NET_GCLp_ENT_INTERVAL : Fld := ⟨.NET_GCLp_ENT, 8, 24, .rw⟩
/-! NET_GCLp_BASE_LO: 11_time_network.md, Table 8. -/
def Fld.NET_GCLp_BASE_LO_BASE : Fld := ⟨.NET_GCLp_BASE_LO, 0, 32, .rw⟩
/-! NET_GCLp_BASE_HI: 11_time_network.md, Table 8. -/
def Fld.NET_GCLp_BASE_HI_BASE : Fld := ⟨.NET_GCLp_BASE_HI, 0, 32, .rw⟩
/-! NET_GCLp_CYC: 11_time_network.md, Table 8. -/
def Fld.NET_GCLp_CYC_CYC : Fld := ⟨.NET_GCLp_CYC, 0, 32, .rw⟩
/-! NET_GCLp_CTL: 11_time_network.md, Table 8. -/
def Fld.NET_GCLp_CTL_EN : Fld := ⟨.NET_GCLp_CTL, 0, 1, .rw⟩
def Fld.NET_GCLp_CTL_LEN : Fld := ⟨.NET_GCLp_CTL, 1, 6, .rw⟩
def Fld.NET_GCLp_CTL_OPER_EN : Fld := ⟨.NET_GCLp_CTL, 7, 1, .ro⟩
def Fld.NET_GCLp_CTL_COMMIT : Fld := ⟨.NET_GCLp_CTL, 8, 1, .wo⟩
def Fld.NET_GCLp_CTL_PEND : Fld := ⟨.NET_GCLp_CTL, 9, 1, .ro⟩
def Fld.NET_GCLp_CTL_OPER_BANK : Fld := ⟨.NET_GCLp_CTL, 10, 1, .ro⟩
def Fld.NET_GCLp_CTL_ERR : Fld := ⟨.NET_GCLp_CTL, 11, 1, .w1c⟩
/-! CAN_CFG: 12_can.md, Table 6. -/
def Fld.CAN_CFG_FD_EN : Fld := ⟨.CAN_CFG, 0, 1, .rw⟩
def Fld.CAN_CFG_SSP_EN : Fld := ⟨.CAN_CFG, 1, 1, .rw⟩
def Fld.CAN_CFG_RETRY : Fld := ⟨.CAN_CFG, 4, 4, .rw⟩
def Fld.CAN_CFG_NM_STD : Fld := ⟨.CAN_CFG, 8, 1, .rw⟩
def Fld.CAN_CFG_NM_XTD : Fld := ⟨.CAN_CFG, 9, 1, .rw⟩
def Fld.CAN_CFG_REJ_RTR : Fld := ⟨.CAN_CFG, 10, 1, .rw⟩
def Fld.CAN_CFG_RXNOTE : Fld := ⟨.CAN_CFG, 11, 1, .rw⟩
/-! CAN_NTIM: 12_can.md, Table 6. -/
def Fld.CAN_NTIM_SEG2 : Fld := ⟨.CAN_NTIM, 0, 7, .rw⟩
def Fld.CAN_NTIM_SEG1 : Fld := ⟨.CAN_NTIM, 8, 8, .rw⟩
def Fld.CAN_NTIM_RJW : Fld := ⟨.CAN_NTIM, 16, 7, .rw⟩
def Fld.CAN_NTIM_PRE : Fld := ⟨.CAN_NTIM, 24, 8, .rw⟩
/-! CAN_DTIM: 12_can.md, Table 6. -/
def Fld.CAN_DTIM_SEG2 : Fld := ⟨.CAN_DTIM, 0, 4, .rw⟩
def Fld.CAN_DTIM_RJW : Fld := ⟨.CAN_DTIM, 4, 4, .rw⟩
def Fld.CAN_DTIM_SEG1 : Fld := ⟨.CAN_DTIM, 8, 5, .rw⟩
def Fld.CAN_DTIM_PRE : Fld := ⟨.CAN_DTIM, 16, 5, .rw⟩
def Fld.CAN_DTIM_SSP : Fld := ⟨.CAN_DTIM, 24, 7, .rw⟩
/-! CAN_STAT: 12_can.md, Table 6. -/
def Fld.CAN_STAT_MODE : Fld := ⟨.CAN_STAT, 0, 3, .ro⟩
def Fld.CAN_STAT_ESTATE : Fld := ⟨.CAN_STAT, 3, 2, .ro⟩
def Fld.CAN_STAT_EW : Fld := ⟨.CAN_STAT, 5, 1, .ro⟩
def Fld.CAN_STAT_ERRC : Fld := ⟨.CAN_STAT, 6, 3, .ro⟩
def Fld.CAN_STAT_CFG_REJ : Fld := ⟨.CAN_STAT, 9, 1, .w1c⟩
def Fld.CAN_STAT_LOOPDLY : Fld := ⟨.CAN_STAT, 16, 7, .ro⟩
/-! CAN_ECNT: 12_can.md, Table 6. -/
def Fld.CAN_ECNT_TEC : Fld := ⟨.CAN_ECNT, 0, 9, .ro⟩
def Fld.CAN_ECNT_REC : Fld := ⟨.CAN_ECNT, 16, 8, .ro⟩
/-! CAN_CNT: 12_can.md, Table 6. -/
def Fld.CAN_CNT_RXDROP : Fld := ⟨.CAN_CNT, 0, 16, .ro⟩
def Fld.CAN_CNT_TXABORT : Fld := ⟨.CAN_CNT, 16, 16, .ro⟩
/-! CAN_RXB_BASE_LO: 12_can.md, Table 6. -/
def Fld.CAN_RXB_BASE_LO_BASE : Fld := ⟨.CAN_RXB_BASE_LO, 12, 20, .rw⟩
/-! CAN_RXB_BASE_HI: 12_can.md, Table 6. -/
def Fld.CAN_RXB_BASE_HI_BASE : Fld := ⟨.CAN_RXB_BASE_HI, 0, 32, .rw⟩
/-! CAN_RXB_CFG: 12_can.md, Table 6. -/
def Fld.CAN_RXB_CFG_EN : Fld := ⟨.CAN_RXB_CFG, 0, 1, .rw⟩
def Fld.CAN_RXB_CFG_LOG2 : Fld := ⟨.CAN_RXB_CFG, 8, 4, .rw⟩
/-! CAN_RXB_WR: 12_can.md, Table 6. -/
def Fld.CAN_RXB_WR_WR : Fld := ⟨.CAN_RXB_WR, 0, 32, .ro⟩
/-! CAN_FLTe_W0: 12_can.md, Table 7. -/
def Fld.CAN_FLTe_W0_ID1 : Fld := ⟨.CAN_FLTe_W0, 0, 29, .rw⟩
def Fld.CAN_FLTe_W0_TYPE : Fld := ⟨.CAN_FLTe_W0, 29, 2, .rw⟩
def Fld.CAN_FLTe_W0_XTD : Fld := ⟨.CAN_FLTe_W0, 31, 1, .rw⟩
/-! CAN_FLTe_W1: 12_can.md, Table 7. -/
def Fld.CAN_FLTe_W1_ID2 : Fld := ⟨.CAN_FLTe_W1, 0, 29, .rw⟩
def Fld.CAN_FLTe_W1_ACT : Fld := ⟨.CAN_FLTe_W1, 29, 1, .rw⟩
/-! DIO_CHn_CFG: 13_dio.md, Table 2. -/
def Fld.DIO_CHn_CFG_MODE : Fld := ⟨.DIO_CHn_CFG, 0, 2, .rws⟩
def Fld.DIO_CHn_CFG_GANG : Fld := ⟨.DIO_CHn_CFG, 2, 2, .rws⟩
def Fld.DIO_CHn_CFG_SAFE : Fld := ⟨.DIO_CHn_CFG, 4, 2, .rws⟩
def Fld.DIO_CHn_CFG_WD_CMD : Fld := ⟨.DIO_CHn_CFG, 6, 1, .rws⟩
def Fld.DIO_CHn_CFG_WB_EN : Fld := ⟨.DIO_CHn_CFG, 7, 1, .rws⟩
def Fld.DIO_CHn_CFG_NOTE : Fld := ⟨.DIO_CHn_CFG, 8, 1, .rws⟩
def Fld.DIO_CHn_CFG_SHED : Fld := ⟨.DIO_CHn_CFG, 9, 1, .rws⟩
def Fld.DIO_CHn_CFG_FILT : Fld := ⟨.DIO_CHn_CFG, 16, 8, .rws⟩
/-! DIO_CHn_STAT: 13_dio.md, Table 3. -/
def Fld.DIO_CHn_STAT_LEVEL : Fld := ⟨.DIO_CHn_STAT, 0, 1, .ro⟩
def Fld.DIO_CHn_STAT_BREAK : Fld := ⟨.DIO_CHn_STAT, 1, 1, .ro⟩
def Fld.DIO_CHn_STAT_OPEN : Fld := ⟨.DIO_CHn_STAT, 2, 1, .ro⟩
def Fld.DIO_CHn_STAT_ILIM : Fld := ⟨.DIO_CHn_STAT, 3, 1, .ro⟩
def Fld.DIO_CHn_STAT_TSD : Fld := ⟨.DIO_CHn_STAT, 4, 1, .ro⟩
def Fld.DIO_CHn_STAT_SAFE_ACT : Fld := ⟨.DIO_CHn_STAT, 5, 1, .ro⟩
def Fld.DIO_CHn_STAT_TS_OVF : Fld := ⟨.DIO_CHn_STAT, 6, 1, .rwsClear⟩
def Fld.DIO_CHn_STAT_CFG_REJ : Fld := ⟨.DIO_CHn_STAT, 7, 1, .rwsClear⟩
def Fld.DIO_CHn_STAT_EDGES : Fld := ⟨.DIO_CHn_STAT, 16, 16, .ro⟩
/-! DIO_IN_LO: 13_dio.md, Table 4. -/
def Fld.DIO_IN_LO_LEVEL : Fld := ⟨.DIO_IN_LO, 0, 32, .ro⟩
/-! DIO_IN_HI: 13_dio.md, Table 4. -/
def Fld.DIO_IN_HI_LEVEL : Fld := ⟨.DIO_IN_HI, 0, 16, .ro⟩
/-! DIO_OUT_LO: 13_dio.md, Table 4. -/
def Fld.DIO_OUT_LO_IMAGE : Fld := ⟨.DIO_OUT_LO, 0, 32, .ro⟩
/-! DIO_OUT_HI: 13_dio.md, Table 4. -/
def Fld.DIO_OUT_HI_IMAGE : Fld := ⟨.DIO_OUT_HI, 0, 16, .ro⟩
/-! DIO_WDG: 13_dio.md, Table 4. -/
def Fld.DIO_WDG_TMO_MS : Fld := ⟨.DIO_WDG, 0, 10, .rws⟩
/-! DIO_GSTAT: 13_dio.md, Table 4. -/
def Fld.DIO_GSTAT_UV : Fld := ⟨.DIO_GSTAT, 0, 1, .ro⟩
def Fld.DIO_GSTAT_TOTAL : Fld := ⟨.DIO_GSTAT, 1, 1, .rwsClear⟩
def Fld.DIO_GSTAT_LINK_TO : Fld := ⟨.DIO_GSTAT, 2, 1, .rwsClear⟩
def Fld.DIO_GSTAT_I_TOTAL : Fld := ⟨.DIO_GSTAT, 16, 16, .ro⟩
/-! SAF_STAT: 14_safety.md, Table 9. -/
def Fld.SAF_STAT_CONF : Fld := ⟨.SAF_STAT, 0, 1, .ro⟩
def Fld.SAF_STAT_HOLD_ALL : Fld := ⟨.SAF_STAT, 1, 1, .ro⟩
def Fld.SAF_STAT_CH_FAULT : Fld := ⟨.SAF_STAT, 2, 1, .ro⟩
def Fld.SAF_STAT_PARAM_BAD : Fld := ⟨.SAF_STAT, 3, 1, .ro⟩
def Fld.SAF_STAT_PLINTH_MIS : Fld := ⟨.SAF_STAT, 4, 1, .ro⟩
def Fld.SAF_STAT_FCODE : Fld := ⟨.SAF_STAT, 16, 4, .ro⟩
def Fld.SAF_STAT_FCH : Fld := ⟨.SAF_STAT, 20, 1, .ro⟩
/-! SAF_CHECK_A: 14_safety.md, Table 9. -/
def Fld.SAF_CHECK_A_CHECK : Fld := ⟨.SAF_CHECK_A, 0, 32, .ro⟩
/-! SAF_CHECK_B: 14_safety.md, Table 9. -/
def Fld.SAF_CHECK_B_CHECK : Fld := ⟨.SAF_CHECK_B, 0, 32, .ro⟩
/-! SAF_CONF_VAL: 14_safety.md, Table 9. -/
def Fld.SAF_CONF_VAL_CHECK : Fld := ⟨.SAF_CONF_VAL, 0, 32, .ro⟩
/-! SAF_PCTL: 14_safety.md, Table 9. -/
def Fld.SAF_PCTL_STORE : Fld := ⟨.SAF_PCTL, 0, 1, .wo⟩
def Fld.SAF_PCTL_BUSY : Fld := ⟨.SAF_PCTL, 1, 1, .ro⟩
def Fld.SAF_PCTL_DONE : Fld := ⟨.SAF_PCTL, 2, 1, .w1c⟩
def Fld.SAF_PCTL_REJ : Fld := ⟨.SAF_PCTL, 3, 1, .w1c⟩
def Fld.SAF_PCTL_REJ_WHY : Fld := ⟨.SAF_PCTL, 4, 4, .ro⟩
def Fld.SAF_PCTL_GEN : Fld := ⟨.SAF_PCTL, 16, 16, .ro⟩
/-! SAF_GRP: 14_safety.md, Table 9. -/
def Fld.SAF_GRP_GRP : Fld := ⟨.SAF_GRP, 0, 32, .ro⟩
/-! SAF_PAIR: 14_safety.md, Table 9. -/
def Fld.SAF_PAIR_PAIR : Fld := ⟨.SAF_PAIR, 0, 32, .ro⟩
/-! SAF_COMM: 14_safety.md, Table 9. -/
def Fld.SAF_COMM_UP : Fld := ⟨.SAF_COMM, 0, 1, .ro⟩
def Fld.SAF_COMM_DOWN_SEEN : Fld := ⟨.SAF_COMM, 1, 1, .w1c⟩
def Fld.SAF_COMM_LAST : Fld := ⟨.SAF_COMM, 16, 16, .ro⟩
/-! SAF_COMM_CNT: 14_safety.md, Table 9. -/
def Fld.SAF_COMM_CNT_CRC_ERR : Fld := ⟨.SAF_COMM_CNT, 0, 16, .ro⟩
def Fld.SAF_COMM_CNT_SEQ_ERR : Fld := ⟨.SAF_COMM_CNT, 16, 16, .ro⟩
/-! SAF_AXF_LO: 14_safety.md, Table 9. -/
def Fld.SAF_AXF_LO_AXF : Fld := ⟨.SAF_AXF_LO, 0, 32, .ro⟩
/-! SAF_AXF_HI: 14_safety.md, Table 9. -/
def Fld.SAF_AXF_HI_AXF : Fld := ⟨.SAF_AXF_HI, 0, 16, .ro⟩
/-! SAF_HOLD_LO: 14_safety.md, Table 9. -/
def Fld.SAF_HOLD_LO_HOLD : Fld := ⟨.SAF_HOLD_LO, 0, 32, .ro⟩
/-! SAF_HOLD_HI: 14_safety.md, Table 9. -/
def Fld.SAF_HOLD_HI_HOLD : Fld := ⟨.SAF_HOLD_HI, 0, 16, .ro⟩
/-! SAF_PARAM: 14_safety.md, Table 9. -/
def Fld.SAF_PARAM_SET : Fld := ⟨.SAF_PARAM, 0, 32, .rw⟩
/-! NVM_SLOT_CTL: 16_power_reset.md, Table 9. -/
def Fld.NVM_SLOT_CTL_WRITE : Fld := ⟨.NVM_SLOT_CTL, 0, 1, .wo⟩
def Fld.NVM_SLOT_CTL_SLOT : Fld := ⟨.NVM_SLOT_CTL, 1, 1, .wo⟩
def Fld.NVM_SLOT_CTL_LOCKVER : Fld := ⟨.NVM_SLOT_CTL, 2, 1, .wo⟩
def Fld.NVM_SLOT_CTL_BEGIN : Fld := ⟨.NVM_SLOT_CTL, 3, 1, .wo⟩
def Fld.NVM_SLOT_CTL_FINISH : Fld := ⟨.NVM_SLOT_CTL, 4, 1, .wo⟩
/-! NVM_SLOT_SRC: 16_power_reset.md, Table 9. -/
def Fld.NVM_SLOT_SRC_CHUNK : Fld := ⟨.NVM_SLOT_SRC, 0, 5, .rw⟩
/-! NVM_SLOT_STAT: 16_power_reset.md, Table 9. -/
def Fld.NVM_SLOT_STAT_BUSY : Fld := ⟨.NVM_SLOT_STAT, 0, 1, .ro⟩
def Fld.NVM_SLOT_STAT_DONE : Fld := ⟨.NVM_SLOT_STAT, 1, 1, .w1c⟩
def Fld.NVM_SLOT_STAT_REJ : Fld := ⟨.NVM_SLOT_STAT, 2, 1, .w1c⟩
/-! NVM_MINVER: 16_power_reset.md, Table 9. -/
def Fld.NVM_MINVER_MINVER : Fld := ⟨.NVM_MINVER, 0, 32, .ro⟩
/-! NVM_FLOG_IDX: 16_power_reset.md, Table 9. -/
def Fld.NVM_FLOG_IDX_IDX : Fld := ⟨.NVM_FLOG_IDX, 0, 12, .rw⟩
/-! NVM_FLOG_Dj: 16_power_reset.md, Table 9. -/
def Fld.NVM_FLOG_Dj_DATA : Fld := ⟨.NVM_FLOG_Dj, 0, 32, .ro⟩
/-! ENG_ROLE: 02_engines.md, Table 9. -/
def Fld.ENG_ROLE_ROLE : Fld := ⟨.ENG_ROLE, 0, 2, .rw⟩
def Fld.ENG_ROLE_AXIS : Fld := ⟨.ENG_ROLE, 8, 6, .rw⟩
def Fld.ENG_ROLE_OWNER : Fld := ⟨.ENG_ROLE, 16, 3, .rw⟩
def Fld.ENG_ROLE_GRP_BANK : Fld := ⟨.ENG_ROLE, 20, 3, .rw⟩
def Fld.ENG_ROLE_GRP_DIV : Fld := ⟨.ENG_ROLE, 24, 8, .rw⟩
/-! ENG_STAT: 02_engines.md, Table 11a. -/
def Fld.ENG_STAT_STATE : Fld := ⟨.ENG_STAT, 0, 3, .ro⟩
def Fld.ENG_STAT_ROLE : Fld := ⟨.ENG_STAT, 3, 2, .ro⟩
def Fld.ENG_STAT_BK : Fld := ⟨.ENG_STAT, 5, 1, .ro⟩
def Fld.ENG_STAT_WREJ : Fld := ⟨.ENG_STAT, 6, 1, .w1c⟩
def Fld.ENG_STAT_FAULT : Fld := ⟨.ENG_STAT, 8, 4, .ro⟩
def Fld.ENG_STAT_FAULT_EV : Fld := ⟨.ENG_STAT, 12, 2, .ro⟩
def Fld.ENG_STAT_FAULT_BG : Fld := ⟨.ENG_STAT, 14, 1, .ro⟩
def Fld.ENG_STAT_FAULT_PC : Fld := ⟨.ENG_STAT, 16, 12, .ro⟩
/-! ENG_EVSTAT: 02_engines.md, Table 11b. -/
def Fld.ENG_EVSTAT_MERGE_S : Fld := ⟨.ENG_EVSTAT, 0, 8, .ro⟩
def Fld.ENG_EVSTAT_MERGE_F : Fld := ⟨.ENG_EVSTAT, 8, 8, .ro⟩
def Fld.ENG_EVSTAT_MERGE_H : Fld := ⟨.ENG_EVSTAT, 16, 8, .ro⟩
def Fld.ENG_EVSTAT_MERGE_R : Fld := ⟨.ENG_EVSTAT, 24, 8, .ro⟩
/-! ENG_EVCFG: 02_engines.md, Table 11c. -/
def Fld.ENG_EVCFG_AX_WC : Fld := ⟨.ENG_EVCFG, 0, 1, .rw⟩
def Fld.ENG_EVCFG_AX_FB : Fld := ⟨.ENG_EVCFG, 1, 1, .rw⟩
def Fld.ENG_EVCFG_AX_DL : Fld := ⟨.ENG_EVCFG, 2, 1, .rw⟩
def Fld.ENG_EVCFG_SHAFT : Fld := ⟨.ENG_EVCFG, 3, 1, .rw⟩
def Fld.ENG_EVCFG_FRESET : Fld := ⟨.ENG_EVCFG, 4, 1, .rw⟩
/-! ENG_PACE: 01_frames_and_release.md, Table 3. -/
def Fld.ENG_PACE_PACE_PS : Fld := ⟨.ENG_PACE, 0, 16, .ro⟩
def Fld.ENG_PACE_VALID : Fld := ⟨.ENG_PACE, 16, 1, .ro⟩
/-! ENG_HWM_SF: 02_engines.md, Table 11d. -/
def Fld.ENG_HWM_SF_SAMPLE : Fld := ⟨.ENG_HWM_SF, 0, 16, .ro⟩
def Fld.ENG_HWM_SF_FAULT : Fld := ⟨.ENG_HWM_SF, 16, 16, .ro⟩
/-! ENG_HWM_HR: 02_engines.md, Table 11d. -/
def Fld.ENG_HWM_HR_HOST : Fld := ⟨.ENG_HWM_HR, 0, 16, .ro⟩
def Fld.ENG_HWM_HR_RELEASE : Fld := ⟨.ENG_HWM_HR, 16, 16, .ro⟩
/-! ENG_FO: 15_failover.md, Table 13. -/
def Fld.ENG_FO_CLAIM : Fld := ⟨.ENG_FO, 0, 8, .ro⟩
def Fld.ENG_FO_AXIS : Fld := ⟨.ENG_FO, 8, 6, .ro⟩
def Fld.ENG_FO_SHARED : Fld := ⟨.ENG_FO, 14, 1, .ro⟩
def Fld.ENG_FO_RETIRED : Fld := ⟨.ENG_FO, 15, 1, .ro⟩
def Fld.ENG_FO_SELFTEST : Fld := ⟨.ENG_FO, 16, 1, .ro⟩
/-! BNK_CARRIER: 05_power_stage.md, Table 5. -/
def Fld.BNK_CARRIER_PERIOD : Fld := ⟨.BNK_CARRIER, 0, 16, .rw⟩
def Fld.BNK_CARRIER_ALIGN : Fld := ⟨.BNK_CARRIER, 16, 1, .rw⟩
def Fld.BNK_CARRIER_ILV : Fld := ⟨.BNK_CARRIER, 17, 2, .rw⟩
def Fld.BNK_CARRIER_RUNNING : Fld := ⟨.BNK_CARRIER, 30, 1, .ro⟩
def Fld.BNK_CARRIER_RUN : Fld := ⟨.BNK_CARRIER, 31, 1, .rw⟩
/-! BNK_DT: 05_power_stage.md, Table 6. -/
def Fld.BNK_DT_FLOOR : Fld := ⟨.BNK_DT, 0, 11, .fb⟩
def Fld.BNK_DT_TH : Fld := ⟨.BNK_DT, 12, 2, .fb⟩
def Fld.BNK_DT_DTTO_N : Fld := ⟨.BNK_DT, 16, 8, .fb⟩
/-! BNK_BOOT: 05_power_stage.md, Table 7. -/
def Fld.BNK_BOOT_PUMP : Fld := ⟨.BNK_BOOT, 0, 1, .fb⟩
def Fld.BNK_BOOT_MINLO : Fld := ⟨.BNK_BOOT, 4, 8, .fb⟩
def Fld.BNK_BOOT_REFN : Fld := ⟨.BNK_BOOT, 12, 4, .fb⟩
def Fld.BNK_BOOT_CHG_T : Fld := ⟨.BNK_BOOT, 16, 16, .fb⟩
/-! BNK_PROT: 05_power_stage.md, Table 8. -/
def Fld.BNK_PROT_LEN : Fld := ⟨.BNK_PROT, 0, 8, .fb⟩
def Fld.BNK_PROT_DESAT : Fld := ⟨.BNK_PROT, 8, 4, .fb⟩
/-! BNK_VM1: 05_power_stage.md, Table 9. -/
def Fld.BNK_VM1_L1_ON : Fld := ⟨.BNK_VM1, 0, 12, .rw⟩
def Fld.BNK_VM1_L1_OFF : Fld := ⟨.BNK_VM1, 16, 12, .rw⟩
/-! BNK_VM2: 05_power_stage.md, Table 9. -/
def Fld.BNK_VM2_L2 : Fld := ⟨.BNK_VM2, 0, 12, .rw⟩
def Fld.BNK_VM2_UV : Fld := ⟨.BNK_VM2, 16, 12, .rw⟩
/-! BNK_BRK: 05_power_stage.md, Table 10. -/
def Fld.BNK_BRK_EN : Fld := ⟨.BNK_BRK, 0, 1, .rw⟩
def Fld.BNK_BRK_TMAX_MS : Fld := ⟨.BNK_BRK, 16, 16, .rw⟩
/-! BNK_WCACT: 05_power_stage.md, Table 11. -/
def Fld.BNK_WCACT_DESAT : Fld := ⟨.BNK_WCACT, 0, 2, .rw⟩
def Fld.BNK_WCACT_HOC : Fld := ⟨.BNK_WCACT, 2, 2, .rw⟩
def Fld.BNK_WCACT_VM_L2 : Fld := ⟨.BNK_WCACT, 4, 2, .rw⟩
def Fld.BNK_WCACT_DLMISS : Fld := ⟨.BNK_WCACT, 6, 2, .rw⟩
def Fld.BNK_WCACT_ENG_LOSS : Fld := ⟨.BNK_WCACT, 8, 2, .rw⟩
def Fld.BNK_WCACT_THERM : Fld := ⟨.BNK_WCACT, 10, 2, .rw⟩
/-! BNK_RELEASE: 01_frames_and_release.md, Table 4b. -/
def Fld.BNK_RELEASE_LAT : Fld := ⟨.BNK_RELEASE, 0, 1, .rw⟩
/-! BNK_FLT: 05_power_stage.md, Table 12. -/
def Fld.BNK_FLT_EN : Fld := ⟨.BNK_FLT, 0, 1, .rw⟩
def Fld.BNK_FLT_POL : Fld := ⟨.BNK_FLT, 1, 1, .rw⟩
def Fld.BNK_FLT_CUT_CNT : Fld := ⟨.BNK_FLT, 16, 16, .ro⟩
/-! BNK_PSTAT: 05_power_stage.md, Table 13. -/
def Fld.BNK_PSTAT_VGD_OK : Fld := ⟨.BNK_PSTAT, 0, 1, .ro⟩
def Fld.BNK_PSTAT_VGD_UV_SEEN : Fld := ⟨.BNK_PSTAT, 1, 1, .w1c⟩
def Fld.BNK_PSTAT_L1 : Fld := ⟨.BNK_PSTAT, 2, 1, .ro⟩
def Fld.BNK_PSTAT_L2_SEEN : Fld := ⟨.BNK_PSTAT, 3, 1, .w1c⟩
def Fld.BNK_PSTAT_UV : Fld := ⟨.BNK_PSTAT, 4, 1, .ro⟩
def Fld.BNK_PSTAT_BRK_OVL : Fld := ⟨.BNK_PSTAT, 5, 1, .w1c⟩
/-! BNK_FRAME: 18_register_map.md, Table 12. -/
def Fld.BNK_FRAME_FRAME : Fld := ⟨.BNK_FRAME, 0, 32, .ro⟩
/-! BNK_MEAS: 18_register_map.md, Table 12. -/
def Fld.BNK_MEAS_VM : Fld := ⟨.BNK_MEAS, 0, 12, .ro⟩
def Fld.BNK_MEAS_VGD : Fld := ⟨.BNK_MEAS, 16, 11, .ro⟩
/-! BNK_PNOW: 18_register_map.md, Table 12. -/
def Fld.BNK_PNOW_PERIOD : Fld := ⟨.BNK_PNOW, 0, 16, .ro⟩
def Fld.BNK_PNOW_PSTEP : Fld := ⟨.BNK_PNOW, 16, 2, .ro⟩
/-! AX_CFG: 04_axis_control.md, Table 9. -/
def Fld.AX_CFG_MODE : Fld := ⟨.AX_CFG, 0, 2, .rw⟩
def Fld.AX_CFG_SENSE : Fld := ⟨.AX_CFG, 2, 1, .rw⟩
def Fld.AX_CFG_SHAREABLE : Fld := ⟨.AX_CFG, 3, 1, .rw⟩
def Fld.AX_CFG_ANG_SRC : Fld := ⟨.AX_CFG, 4, 2, .rw⟩
def Fld.AX_CFG_POLES : Fld := ⟨.AX_CFG, 8, 6, .rw⟩
/-! AX_STATE: 04_axis_control.md, Table 10. -/
def Fld.AX_STATE_STATE : Fld := ⟨.AX_STATE, 0, 3, .ro⟩
def Fld.AX_STATE_LEG : Fld := ⟨.AX_STATE, 3, 2, .ro⟩
def Fld.AX_STATE_IOFS_BAD : Fld := ⟨.AX_STATE, 5, 1, .ro⟩
def Fld.AX_STATE_CFG_REJ : Fld := ⟨.AX_STATE, 6, 1, .w1c⟩
def Fld.AX_STATE_WC_ACTIVE : Fld := ⟨.AX_STATE, 7, 1, .ro⟩
def Fld.AX_STATE_COEF_PEND : Fld := ⟨.AX_STATE, 8, 1, .ro⟩
def Fld.AX_STATE_IOFS_RDY : Fld := ⟨.AX_STATE, 9, 1, .ro⟩
/-! AX_SENSE: 04_axis_control.md, Table 11. -/
def Fld.AX_SENSE_TSET : Fld := ⟨.AX_SENSE, 0, 10, .fb⟩
def Fld.AX_SENSE_TLOW : Fld := ⟨.AX_SENSE, 16, 10, .fb⟩
/-! AX_IOFS_A: 04_axis_control.md, Table 12. -/
def Fld.AX_IOFS_A_OFS_U : Fld := ⟨.AX_IOFS_A, 0, 12, .ro⟩
def Fld.AX_IOFS_A_OFS_V : Fld := ⟨.AX_IOFS_A, 16, 12, .ro⟩
/-! AX_IOFS_B: 04_axis_control.md, Table 12. -/
def Fld.AX_IOFS_B_OFS_W : Fld := ⟨.AX_IOFS_B, 0, 12, .ro⟩
def Fld.AX_IOFS_B_OFS_DC : Fld := ⟨.AX_IOFS_B, 16, 12, .ro⟩
/-! AX_STOPCFG: 04_axis_control.md, Table 13. -/
def Fld.AX_STOPCFG_FRESET_CAT : Fld := ⟨.AX_STOPCFG, 0, 2, .rw⟩
def Fld.AX_STOPCFG_FE_CAT : Fld := ⟨.AX_STOPCFG, 2, 2, .rw⟩
def Fld.AX_STOPCFG_FAULT_ACT : Fld := ⟨.AX_STOPCFG, 4, 1, .rw⟩
def Fld.AX_STOPCFG_DECEL_MS : Fld := ⟨.AX_STOPCFG, 16, 16, .rw⟩
/-! AX_LFAULT: 04_axis_control.md, Table 14. -/
def Fld.AX_LFAULT_CODE : Fld := ⟨.AX_LFAULT, 0, 8, .ro⟩
def Fld.AX_LFAULT_COUNT : Fld := ⟨.AX_LFAULT, 8, 8, .ro⟩
def Fld.AX_LFAULT_SEEN : Fld := ⟨.AX_LFAULT, 16, 1, .w1c⟩
/-! AX_LIMCFG: 04_axis_control.md, Table 14. -/
def Fld.AX_LIMCFG_OC_N : Fld := ⟨.AX_LIMCFG, 0, 8, .rw⟩
def Fld.AX_LIMCFG_SAT_N : Fld := ⟨.AX_LIMCFG, 8, 8, .rw⟩
def Fld.AX_LIMCFG_INV_N : Fld := ⟨.AX_LIMCFG, 16, 8, .rw⟩
/-! AX_PWM: 05_power_stage.md, Table 14. -/
def Fld.AX_PWM_CDIV : Fld := ⟨.AX_PWM, 0, 2, .rw⟩
def Fld.AX_PWM_PROFILE : Fld := ⟨.AX_PWM, 4, 1, .rw⟩
def Fld.AX_PWM_COAST : Fld := ⟨.AX_PWM, 5, 1, .rw⟩
/-! AX_GDPROF: 05_power_stage.md, Table 15. -/
def Fld.AX_GDPROF_PRE_T : Fld := ⟨.AX_GDPROF, 0, 7, .fb⟩
def Fld.AX_GDPROF_SLOPE_I : Fld := ⟨.AX_GDPROF, 8, 4, .fb⟩
/-! AX_OC: 05_power_stage.md, Table 16. -/
def Fld.AX_OC_CBC_LVL : Fld := ⟨.AX_OC, 0, 8, .fb⟩
def Fld.AX_OC_HOC_LVL : Fld := ⟨.AX_OC, 8, 8, .fb⟩
def Fld.AX_OC_CBC_EN : Fld := ⟨.AX_OC, 16, 1, .fb⟩
/-! AX_HALL: 05_power_stage.md, Table 17. -/
def Fld.AX_HALL_FLT : Fld := ⟨.AX_HALL, 0, 8, .fb⟩
def Fld.AX_HALL_OFS : Fld := ⟨.AX_HALL, 8, 3, .fb⟩
/-! AX_PSTAT: 05_power_stage.md, Table 18. -/
def Fld.AX_PSTAT_CBC_CNT : Fld := ⟨.AX_PSTAT, 0, 16, .ro⟩
def Fld.AX_PSTAT_BOOT_UV : Fld := ⟨.AX_PSTAT, 16, 3, .ro⟩
def Fld.AX_PSTAT_LEGF : Fld := ⟨.AX_PSTAT, 19, 1, .w1c⟩
def Fld.AX_PSTAT_PROF_TO : Fld := ⟨.AX_PSTAT, 20, 1, .w1c⟩
def Fld.AX_PSTAT_MODE_BAD : Fld := ⟨.AX_PSTAT, 21, 1, .w1c⟩
def Fld.AX_PSTAT_HALL_BAD : Fld := ⟨.AX_PSTAT, 22, 1, .w1c⟩
def Fld.AX_PSTAT_COAST : Fld := ⟨.AX_PSTAT, 23, 1, .ro⟩
/-! AX_WC: 05_power_stage.md, Table 19. -/
def Fld.AX_WC_SRC : Fld := ⟨.AX_WC, 0, 8, .ro⟩
def Fld.AX_WC_LATCH : Fld := ⟨.AX_WC, 8, 8, .ro⟩
def Fld.AX_WC_ACT : Fld := ⟨.AX_WC, 16, 2, .ro⟩
/-! AX_INFO: 18_register_map.md, Table 13. -/
def Fld.AX_INFO_PREMIUM : Fld := ⟨.AX_INFO, 0, 1, .ro⟩
def Fld.AX_INFO_BANK : Fld := ⟨.AX_INFO, 4, 3, .ro⟩
def Fld.AX_INFO_AXIS : Fld := ⟨.AX_INFO, 8, 6, .ro⟩
/-! AX_DLMISS: 01_frames_and_release.md, Table 4a. -/
def Fld.AX_DLMISS_MISS_CNT : Fld := ⟨.AX_DLMISS, 0, 16, .ro⟩
def Fld.AX_DLMISS_LATE_DISCARD : Fld := ⟨.AX_DLMISS, 16, 8, .ro⟩
def Fld.AX_DLMISS_MISS_SEEN : Fld := ⟨.AX_DLMISS, 24, 1, .w1c⟩
def Fld.AX_DLMISS_DOUBLE : Fld := ⟨.AX_DLMISS, 25, 1, .w1c⟩
/-! AX_FBCFG: 06_feedback.md, Table 4. -/
def Fld.AX_FBCFG_FMODE : Fld := ⟨.AX_FBCFG, 0, 1, .rw⟩
def Fld.AX_FBCFG_PMODE : Fld := ⟨.AX_FBCFG, 1, 2, .rw⟩
def Fld.AX_FBCFG_INV : Fld := ⟨.AX_FBCFG, 3, 1, .rw⟩
def Fld.AX_FBCFG_BRIDGE : Fld := ⟨.AX_FBCFG, 4, 1, .rw⟩
def Fld.AX_FBCFG_ZGATE : Fld := ⟨.AX_FBCFG, 5, 1, .rw⟩
def Fld.AX_FBCFG_ZCHK : Fld := ⟨.AX_FBCFG, 6, 1, .rw⟩
def Fld.AX_FBCFG_EOFS : Fld := ⟨.AX_FBCFG, 16, 16, .rw⟩
/-! AX_QCFG: 06_feedback.md, Table 5. -/
def Fld.AX_QCFG_MEI : Fld := ⟨.AX_QCFG, 0, 10, .rw⟩
def Fld.AX_QCFG_ERR_LIM : Fld := ⟨.AX_QCFG, 16, 8, .rw⟩
/-! AX_ANGCFG: 06_feedback.md, Table 5. -/
def Fld.AX_ANGCFG_CPR : Fld := ⟨.AX_ANGCFG, 0, 24, .rw⟩
/-! AX_ANGOFS: 06_feedback.md, Table 6. -/
def Fld.AX_ANGOFS_OFS : Fld := ⟨.AX_ANGOFS, 0, 24, .rw⟩
def Fld.AX_ANGOFS_HW_ALIGN : Fld := ⟨.AX_ANGOFS, 30, 1, .rw⟩
def Fld.AX_ANGOFS_ALIGNED : Fld := ⟨.AX_ANGOFS, 31, 1, .ro⟩
/-! AX_SCCFG: 06_feedback.md, Table 7. -/
def Fld.AX_SCCFG_IPB : Fld := ⟨.AX_SCCFG, 0, 4, .rw⟩
def Fld.AX_SCCFG_AMP_LO : Fld := ⟨.AX_SCCFG, 8, 8, .rw⟩
def Fld.AX_SCCFG_AMP_HI : Fld := ⟨.AX_SCCFG, 16, 8, .rw⟩
def Fld.AX_SCCFG_AMP_N : Fld := ⟨.AX_SCCFG, 24, 8, .rw⟩
/-! AX_SSICFG: 06_feedback.md, Table 8. -/
def Fld.AX_SSICFG_BITS : Fld := ⟨.AX_SSICFG, 0, 6, .rw⟩
def Fld.AX_SSICFG_ST : Fld := ⟨.AX_SSICFG, 6, 5, .rw⟩
def Fld.AX_SSICFG_GRAY : Fld := ⟨.AX_SSICFG, 11, 1, .rw⟩
def Fld.AX_SSICFG_EBIT : Fld := ⟨.AX_SSICFG, 12, 1, .rw⟩
def Fld.AX_SSICFG_CLKDIV : Fld := ⟨.AX_SSICFG, 13, 3, .rw⟩
def Fld.AX_SSICFG_DLY : Fld := ⟨.AX_SSICFG, 16, 8, .rw⟩
def Fld.AX_SSICFG_ERR_N : Fld := ⟨.AX_SSICFG, 24, 4, .rw⟩
def Fld.AX_SSICFG_JUMP : Fld := ⟨.AX_SSICFG, 28, 4, .rw⟩
/-! AX_FBFLT: 06_feedback.md, Table 9. -/
def Fld.AX_FBFLT_FAULT : Fld := ⟨.AX_FBFLT, 0, 6, .w1c⟩
def Fld.AX_FBFLT_CFG_BAD : Fld := ⟨.AX_FBFLT, 6, 1, .ro⟩
def Fld.AX_FBFLT_WRAP : Fld := ⟨.AX_FBFLT, 7, 1, .rwsClear⟩
def Fld.AX_FBFLT_Z_SEEN : Fld := ⟨.AX_FBFLT, 8, 1, .w1c⟩
def Fld.AX_FBFLT_BUCKET : Fld := ⟨.AX_FBFLT, 16, 8, .ro⟩
/-! AX_FBCNT: 06_feedback.md, Table 9. -/
def Fld.AX_FBCNT_ILL : Fld := ⟨.AX_FBCNT, 0, 16, .ro⟩
def Fld.AX_FBCNT_EDGE : Fld := ⟨.AX_FBCNT, 16, 16, .ro⟩
/-! AX_POS_LO: 06_feedback.md, Table 10. -/
def Fld.AX_POS_LO_POS : Fld := ⟨.AX_POS_LO, 0, 32, .ro⟩
/-! AX_POS_HI: 06_feedback.md, Table 10. -/
def Fld.AX_POS_HI_POS : Fld := ⟨.AX_POS_HI, 0, 16, .ro⟩
def Fld.AX_POS_HI_ANGLE : Fld := ⟨.AX_POS_HI, 16, 16, .ro⟩
/-! AX_POSLD_LO: 06_feedback.md, Table 10. -/
def Fld.AX_POSLD_LO_VAL : Fld := ⟨.AX_POSLD_LO, 0, 32, .rw⟩
/-! AX_POSLD_HI: 06_feedback.md, Table 10. -/
def Fld.AX_POSLD_HI_VAL : Fld := ⟨.AX_POSLD_HI, 0, 16, .fb⟩
/-! AX_ZPOS_LO: 06_feedback.md, Table 10. -/
def Fld.AX_ZPOS_LO_ZPOS : Fld := ⟨.AX_ZPOS_LO, 0, 32, .ro⟩
/-! AX_ZPOS_HI: 06_feedback.md, Table 10. -/
def Fld.AX_ZPOS_HI_ZPOS : Fld := ⟨.AX_ZPOS_HI, 0, 16, .ro⟩
/-! AX_FBSAFE: 06_feedback.md, Table 10. -/
def Fld.AX_FBSAFE_SCA : Fld := ⟨.AX_FBSAFE, 0, 16, .ro⟩
def Fld.AX_FBSAFE_SCB : Fld := ⟨.AX_FBSAFE, 16, 16, .ro⟩
/-! AX_MOTCFG: 07_motion.md, Table 5. -/
def Fld.AX_MOTCFG_TRAJ_ENG : Fld := ⟨.AX_MOTCFG, 0, 6, .rw⟩
def Fld.AX_MOTCFG_VIRT : Fld := ⟨.AX_MOTCFG, 6, 1, .rw⟩
def Fld.AX_MOTCFG_SH_DECEL_MS : Fld := ⟨.AX_MOTCFG, 16, 16, .rw⟩
/-! AX_STEPCFG: 07_motion.md, Table 6. -/
def Fld.AX_STEPCFG_PSRC : Fld := ⟨.AX_STEPCFG, 0, 1, .rw⟩
def Fld.AX_STEPCFG_USTEP : Fld := ⟨.AX_STEPCFG, 1, 4, .rw⟩
def Fld.AX_STEPCFG_KEEP : Fld := ⟨.AX_STEPCFG, 5, 1, .rw⟩
def Fld.AX_STEPCFG_GRP_INT : Fld := ⟨.AX_STEPCFG, 6, 1, .rw⟩
/-! AX_MSTAT: 07_motion.md, Table 7. -/
def Fld.AX_MSTAT_QDEPTH : Fld := ⟨.AX_MSTAT, 0, 4, .ro⟩
def Fld.AX_MSTAT_HEAD : Fld := ⟨.AX_MSTAT, 4, 3, .ro⟩
def Fld.AX_MSTAT_POS_UNK : Fld := ⟨.AX_MSTAT, 7, 1, .ro⟩
def Fld.AX_MSTAT_LATCH_OVF : Fld := ⟨.AX_MSTAT, 8, 1, .w1c⟩
def Fld.AX_MSTAT_HALTED : Fld := ⟨.AX_MSTAT, 9, 1, .ro⟩
def Fld.AX_MSTAT_UNDR : Fld := ⟨.AX_MSTAT, 16, 16, .ro⟩
/-! AX_STEPCNT: 07_motion.md, Table 8. -/
def Fld.AX_STEPCNT_COUNT : Fld := ⟨.AX_STEPCNT, 0, 32, .ro⟩
/-! AX_MONSTAT: 08_condition.md, Table 8. -/
def Fld.AX_MONSTAT_ACTIVE : Fld := ⟨.AX_MONSTAT, 0, 1, .ro⟩
def Fld.AX_MONSTAT_CAPT : Fld := ⟨.AX_MONSTAT, 1, 1, .ro⟩
def Fld.AX_MONSTAT_MON_ENG : Fld := ⟨.AX_MONSTAT, 2, 6, .ro⟩
def Fld.AX_MONSTAT_RECS : Fld := ⟨.AX_MONSTAT, 16, 16, .ro⟩
/-! AX_FOSTAT: 15_failover.md, Table 12. -/
def Fld.AX_FOSTAT_CLAIM : Fld := ⟨.AX_FOSTAT, 0, 8, .ro⟩
def Fld.AX_FOSTAT_ENG : Fld := ⟨.AX_FOSTAT, 8, 6, .ro⟩
def Fld.AX_FOSTAT_SERVICE : Fld := ⟨.AX_FOSTAT, 14, 2, .ro⟩
def Fld.AX_FOSTAT_TAKES : Fld := ⟨.AX_FOSTAT, 16, 8, .ro⟩
def Fld.AX_FOSTAT_DISCARD : Fld := ⟨.AX_FOSTAT, 24, 8, .ro⟩
/-! AX_PLUG: 16_power_reset.md, Table 10. -/
def Fld.AX_PLUG_VMIN : Fld := ⟨.AX_PLUG, 0, 8, .rw⟩
def Fld.AX_PLUG_IMIN : Fld := ⟨.AX_PLUG, 8, 8, .rw⟩
def Fld.AX_PLUG_N : Fld := ⟨.AX_PLUG, 16, 4, .rw⟩
def Fld.AX_PLUG_RETRY : Fld := ⟨.AX_PLUG, 20, 10, .rw⟩
def Fld.AX_PLUG_HALL : Fld := ⟨.AX_PLUG, 30, 1, .rw⟩
def Fld.AX_PLUG_EN : Fld := ⟨.AX_PLUG, 31, 1, .rw⟩
/-! AX_PLUGSTAT: 16_power_reset.md, Table 10. -/
def Fld.AX_PLUGSTAT_TIMER : Fld := ⟨.AX_PLUGSTAT, 0, 10, .ro⟩
def Fld.AX_PLUGSTAT_IDENT : Fld := ⟨.AX_PLUGSTAT, 10, 1, .ro⟩
def Fld.AX_PLUGSTAT_ID_FAIL : Fld := ⟨.AX_PLUGSTAT, 16, 16, .ro⟩
/-! HIF_DB: 09_host_rings.md, Table 9. -/
def Fld.HIF_DB_IDX : Fld := ⟨.HIF_DB, 0, 32, .wo⟩
/-! HIF_RING_BASE_LO: 09_host_rings.md, Table 9. -/
def Fld.HIF_RING_BASE_LO_BASE : Fld := ⟨.HIF_RING_BASE_LO, 12, 20, .rw⟩
/-! HIF_RING_BASE_HI: 09_host_rings.md, Table 9. -/
def Fld.HIF_RING_BASE_HI_BASE : Fld := ⟨.HIF_RING_BASE_HI, 0, 32, .rw⟩
/-! HIF_RING_CFG: 09_host_rings.md, Table 9. -/
def Fld.HIF_RING_CFG_EN : Fld := ⟨.HIF_RING_CFG, 0, 1, .rw⟩
def Fld.HIF_RING_CFG_LOG2 : Fld := ⟨.HIF_RING_CFG, 8, 5, .rw⟩
def Fld.HIF_RING_CFG_VEC : Fld := ⟨.HIF_RING_CFG, 16, 4, .rw⟩
/-! HIF_RING_STAT: 09_host_rings.md, Table 9. -/
def Fld.HIF_RING_STAT_STATE : Fld := ⟨.HIF_RING_STAT, 0, 2, .ro⟩
def Fld.HIF_RING_STAT_ERR : Fld := ⟨.HIF_RING_STAT, 4, 3, .ro⟩
def Fld.HIF_RING_STAT_RESV : Fld := ⟨.HIF_RING_STAT, 8, 16, .ro⟩
/-! HIF_RING_IDX: 09_host_rings.md, Table 9. -/
def Fld.HIF_RING_IDX_IDX : Fld := ⟨.HIF_RING_IDX, 0, 32, .ro⟩
/-! HIF_RING_SEQ: 09_host_rings.md, Table 9. -/
def Fld.HIF_RING_SEQ_LAST : Fld := ⟨.HIF_RING_SEQ, 0, 32, .rw⟩
/-! HIF_MSIX_TAB: 18_register_map.md, Table 9. -/
def Fld.HIF_MSIX_TAB_W : Fld := ⟨.HIF_MSIX_TAB, 0, 32, .rw⟩
/-! HIF_MSIX_PBA: 18_register_map.md, Table 9. -/
def Fld.HIF_MSIX_PBA_W : Fld := ⟨.HIF_MSIX_PBA, 0, 32, .ro⟩
/-! HIF_FCTL: 09_host_rings.md, Table 9. -/
def Fld.HIF_FCTL_FRST : Fld := ⟨.HIF_FCTL, 0, 1, .wo⟩
def Fld.HIF_FCTL_ERR_VEC : Fld := ⟨.HIF_FCTL, 8, 4, .rw⟩
/-! HIF_FSTAT: 09_host_rings.md, Table 9. -/
def Fld.HIF_FSTAT_FSTATE : Fld := ⟨.HIF_FSTAT, 0, 2, .ro⟩
def Fld.HIF_FSTAT_RST_DONE : Fld := ⟨.HIF_FSTAT, 2, 1, .w1c⟩
def Fld.HIF_FSTAT_RING_ERR : Fld := ⟨.HIF_FSTAT, 3, 1, .w1c⟩
def Fld.HIF_FSTAT_QOS_REJ : Fld := ⟨.HIF_FSTAT, 4, 1, .w1c⟩
def Fld.HIF_FSTAT_EVT_DROP : Fld := ⟨.HIF_FSTAT, 16, 16, .ro⟩
/-! HIF_RLOG_CNT: 09_host_rings.md, Table 9. -/
def Fld.HIF_RLOG_CNT_CNT : Fld := ⟨.HIF_RLOG_CNT, 0, 16, .ro⟩
def Fld.HIF_RLOG_CNT_OVF : Fld := ⟨.HIF_RLOG_CNT, 16, 1, .ro⟩
/-! HIF_QOS0: 09_host_rings.md, Table 9. -/
def Fld.HIF_QOS0_RATE : Fld := ⟨.HIF_QOS0, 0, 8, .rw⟩
def Fld.HIF_QOS0_IRQ_MIN : Fld := ⟨.HIF_QOS0, 8, 8, .rw⟩
def Fld.HIF_QOS0_ENG_SHARE : Fld := ⟨.HIF_QOS0, 16, 10, .rw⟩
/-! HIF_QOS1: 09_host_rings.md, Table 9. -/
def Fld.HIF_QOS1_PEND : Fld := ⟨.HIF_QOS1, 0, 12, .rw⟩
/-! HIF_VMOD_v: 09_host_rings.md, Table 9. -/
def Fld.HIF_VMOD_v_CNT : Fld := ⟨.HIF_VMOD_v, 0, 8, .rw⟩
def Fld.HIF_VMOD_v_TIMER : Fld := ⟨.HIF_VMOD_v, 8, 10, .rw⟩
/-! HIF_RLOG_SEQ: 09_host_rings.md, Table 9. -/
def Fld.HIF_RLOG_SEQ_SEQ : Fld := ⟨.HIF_RLOG_SEQ, 0, 32, .ro⟩
/-! HIF_RLOG_RING: 09_host_rings.md, Table 9. -/
def Fld.HIF_RLOG_RING_RING : Fld := ⟨.HIF_RLOG_RING, 0, 2, .ro⟩
def Fld.HIF_RLOG_RING_VALID : Fld := ⟨.HIF_RLOG_RING, 31, 1, .ro⟩
/-! HIF_OWN_AXi: 09_host_rings.md, Table 10. -/
def Fld.HIF_OWN_AXi_OWN : Fld := ⟨.HIF_OWN_AXi, 0, 32, .rw⟩
/-! HIF_OWN_DIOi: 09_host_rings.md, Table 10. -/
def Fld.HIF_OWN_DIOi_OWN : Fld := ⟨.HIF_OWN_DIOi, 0, 32, .rw⟩
/-! HIF_OWN_CAN: 09_host_rings.md, Table 10. -/
def Fld.HIF_OWN_CAN_OWN : Fld := ⟨.HIF_OWN_CAN, 0, 16, .rw⟩
/-! HIF_OWN_NETQi: 09_host_rings.md, Table 10. -/
def Fld.HIF_OWN_NETQi_OWN : Fld := ⟨.HIF_OWN_NETQi, 0, 32, .rw⟩
/-! HIF_OWN_CTL: 09_host_rings.md, Table 10. -/
def Fld.HIF_OWN_CTL_APPLY : Fld := ⟨.HIF_OWN_CTL, 0, 1, .wo⟩
def Fld.HIF_OWN_CTL_BUSY : Fld := ⟨.HIF_OWN_CTL, 1, 1, .ro⟩
def Fld.HIF_OWN_CTL_DONE : Fld := ⟨.HIF_OWN_CTL, 2, 1, .w1c⟩
def Fld.HIF_OWN_CTL_REJ : Fld := ⟨.HIF_OWN_CTL, 3, 1, .w1c⟩
def Fld.HIF_OWN_CTL_REJ_WHY : Fld := ⟨.HIF_OWN_CTL, 4, 3, .ro⟩
/-! HIF_OWNF_AXi: 09_host_rings.md, Table 10. -/
def Fld.HIF_OWNF_AXi_OWN : Fld := ⟨.HIF_OWNF_AXi, 0, 32, .ro⟩
/-! HIF_OWNF_DIOi: 09_host_rings.md, Table 10. -/
def Fld.HIF_OWNF_DIOi_OWN : Fld := ⟨.HIF_OWNF_DIOi, 0, 32, .ro⟩
/-! HIF_OWNF_CAN: 09_host_rings.md, Table 10. -/
def Fld.HIF_OWNF_CAN_OWN : Fld := ⟨.HIF_OWNF_CAN, 0, 32, .ro⟩
/-! HIF_OWNF_NETQi: 09_host_rings.md, Table 10. -/
def Fld.HIF_OWNF_NETQi_OWN : Fld := ⟨.HIF_OWNF_NETQi, 0, 32, .ro⟩

/-- The fields of a register in rising order of their bits as its owning chapter lists them. -/
def Reg.fields : Reg → List Fld
  | .GLB_ID => [Fld.GLB_ID_PART, Fld.GLB_ID_FAMILY, Fld.GLB_ID_STEPPING]
  | .GLB_ROMVER => [Fld.GLB_ROMVER_MINOR, Fld.GLB_ROMVER_MAJOR]
  | .GLB_SERIAL_LO => [Fld.GLB_SERIAL_LO_SERIAL]
  | .GLB_SERIAL_HI => [Fld.GLB_SERIAL_HI_SERIAL]
  | .GLB_SCRATCH => [Fld.GLB_SCRATCH_DATA]
  | .GLB_STAT => [Fld.GLB_STAT_READY, Fld.GLB_STAT_LOADING, Fld.GLB_STAT_WR_REJ]
  | .GLB_ENV => [Fld.GLB_ENV_ENV, Fld.GLB_ENV_SPLIT, Fld.GLB_ENV_SPARES, Fld.GLB_ENV_VIOL]
  | .GLB_PACE_CFG => [Fld.GLB_PACE_CFG_WARN_PS]
  | .GLB_PACE_STAT => [Fld.GLB_PACE_STAT_MAX_PS, Fld.GLB_PACE_STAT_MAX_ENG, Fld.GLB_PACE_STAT_WARN, Fld.GLB_PACE_STAT_LIMIT, Fld.GLB_PACE_STAT_WARN_SEEN, Fld.GLB_PACE_STAT_LIMIT_SEEN]
  | .GLB_ALLOC => [Fld.GLB_ALLOC_APPLY, Fld.GLB_ALLOC_BUSY, Fld.GLB_ALLOC_DONE, Fld.GLB_ALLOC_REJ, Fld.GLB_ALLOC_REJ_WHY]
  | .GLB_SMWIN => [Fld.GLB_SMWIN_PAGE]
  | .GLB_POk_CFG => [Fld.GLB_POk_CFG_EN, Fld.GLB_POk_CFG_FMT, Fld.GLB_POk_CFG_INV, Fld.GLB_POk_CFG_SRC, Fld.GLB_POk_CFG_MINSP]
  | .GLB_POk_RATIO => [Fld.GLB_POk_RATIO_N, Fld.GLB_POk_RATIO_M]
  | .GLB_POk_STAT => [Fld.GLB_POk_STAT_BACKLOG, Fld.GLB_POk_STAT_BDIR, Fld.GLB_POk_STAT_OVF, Fld.GLB_POk_STAT_CFG_REJ]
  | .GLB_SHAFT_CFG => [Fld.GLB_SHAFT_CFG_ROLE, Fld.GLB_SHAFT_CFG_SRC_AX, Fld.GLB_SHAFT_CFG_DOM_CHK, Fld.GLB_SHAFT_CFG_LOSS_N, Fld.GLB_SHAFT_CFG_AGE]
  | .GLB_SHAFT_ID => [Fld.GLB_SHAFT_ID_ID]
  | .GLB_SHAFT_STAT => [Fld.GLB_SHAFT_STAT_LOST, Fld.GLB_SHAFT_STAT_LOSS_SEEN, Fld.GLB_SHAFT_STAT_CFG_REJ, Fld.GLB_SHAFT_STAT_MISS, Fld.GLB_SHAFT_STAT_STALE]
  | .GLB_CAM_BUSY => [Fld.GLB_CAM_BUSY_BUSY]
  | .GLB_MON_CFG => [Fld.GLB_MON_CFG_EN, Fld.GLB_MON_CFG_HLEVEL]
  | .GLB_MON_STAT => [Fld.GLB_MON_STAT_LEVEL, Fld.GLB_MON_STAT_TLEVEL, Fld.GLB_MON_STAT_ENV_OFF, Fld.GLB_MON_STAT_ENG_LOST]
  | .GLB_MON_ENG_LO => [Fld.GLB_MON_ENG_LO_ENG]
  | .GLB_MON_ENG_HI => [Fld.GLB_MON_ENG_HI_ENG]
  | .GLB_FO_CFG => [Fld.GLB_FO_CFG_REPAIR, Fld.GLB_FO_CFG_HB_N, Fld.GLB_FO_CFG_SHARE_EN]
  | .GLB_FO_STAT => [Fld.GLB_FO_STAT_SPARES_LEFT, Fld.GLB_FO_STAT_STANDBY, Fld.GLB_FO_STAT_LAST_FAIL, Fld.GLB_FO_STAT_EXHAUSTED, Fld.GLB_FO_STAT_EXH_SEEN, Fld.GLB_FO_STAT_TAKEOVERS]
  | .GLB_PROF_STAT => [Fld.GLB_PROF_STAT_ACTIVE, Fld.GLB_PROF_STAT_LOADED, Fld.GLB_PROF_STAT_RESULT, Fld.GLB_PROF_STAT_INTACT, Fld.GLB_PROF_STAT_REWRITE, Fld.GLB_PROF_STAT_GEN]
  | .PWR_STAT => [Fld.PWR_STAT_VAUX_OK, Fld.PWR_STAT_PFAIL, Fld.PWR_STAT_PL_VBAK, Fld.PWR_STAT_DEBOUNCE, Fld.PWR_STAT_BOOT_FAIL]
  | .PWR_RSTC => [Fld.PWR_RSTC_CAUSE, Fld.PWR_RSTC_EP_CNT, Fld.PWR_RSTC_WARM_CNT]
  | .PWR_RST => [Fld.PWR_RST_KEY]
  | .PWR_PF => [Fld.PWR_PF_VAUX_TH]
  | .PWR_BAK => [Fld.PWR_BAK_PROF, Fld.PWR_BAK_ICHG]
  | .PWR_BAKSTAT => [Fld.PWR_BAKSTAT_CHG, Fld.PWR_BAKSTAT_VBAK_ABSENT, Fld.PWR_BAKSTAT_VBAK_MV]
  | .PWR_PLINTH => [Fld.PWR_PLINTH_COMMIT_OK, Fld.PWR_PLINTH_COLD]
  | .PWR_BOOT => [Fld.PWR_BOOT_SLOT, Fld.PWR_BOOT_A_VALID, Fld.PWR_BOOT_B_VALID, Fld.PWR_BOOT_PSEL]
  | .PWR_LOST => [Fld.PWR_LOST_OWED, Fld.PWR_LOST_OVF, Fld.PWR_LOST_DISCARD]
  | .PWR_BOOT_VER => [Fld.PWR_BOOT_VER_VERSION]
  | .PWR_LOG => [Fld.PWR_LOG_ENTRY]
  | .THM_STAT => [Fld.THM_STAT_TJ, Fld.THM_STAT_LEVEL, Fld.THM_STAT_WARN, Fld.THM_STAT_SHUT, Fld.THM_STAT_TIGHT, Fld.THM_STAT_WARN_SEEN, Fld.THM_STAT_SHUT_SEEN, Fld.THM_STAT_MAXSRC]
  | .THM_CFG => [Fld.THM_CFG_TIGHT, Fld.THM_CFG_DWELL_S, Fld.THM_CFG_REL_S]
  | .THM_FANf_CFG => [Fld.THM_FANf_CFG_EN, Fld.THM_FANf_CFG_AUTO, Fld.THM_FANf_CFG_PPR, Fld.THM_FANf_CFG_DUTY, Fld.THM_FANf_CFG_T_LO, Fld.THM_FANf_CFG_HIGH]
  | .THM_FANf_STAT => [Fld.THM_FANf_STAT_STATE, Fld.THM_FANf_STAT_KICKS, Fld.THM_FANf_STAT_CUR]
  | .THM_FANf_TACH => [Fld.THM_FANf_TACH_RPM]
  | .TB_DT_LO => [Fld.TB_DT_LO_DT]
  | .TB_DT_HI => [Fld.TB_DT_HI_DT]
  | .TB_SET_LO => [Fld.TB_SET_LO_VAL]
  | .TB_SET_HI => [Fld.TB_SET_HI_VAL]
  | .TB_CFG => [Fld.TB_CFG_MODE, Fld.TB_CFG_SEL, Fld.TB_CFG_AUTO, Fld.TB_CFG_STEP_EN, Fld.TB_CFG_STEP_TH, Fld.TB_CFG_SLEW_PPM]
  | .TB_SERVO => [Fld.TB_SERVO_KP, Fld.TB_SERVO_KI]
  | .TB_RATE => [Fld.TB_RATE_RATE]
  | .TB_QUAL => [Fld.TB_QUAL_STATE, Fld.TB_QUAL_DOMAIN, Fld.TB_QUAL_VALID0, Fld.TB_QUAL_VALID1, Fld.TB_QUAL_JUMP_PEND, Fld.TB_QUAL_SET_REJ, Fld.TB_QUAL_STEPPED, Fld.TB_QUAL_REFUSED]
  | .TB_ERR => [Fld.TB_ERR_BOUND]
  | .TB_HO => [Fld.TB_HO_HO_PPB, Fld.TB_HO_HO_AGE]
  | .TB_TPO => [Fld.TB_TPO_EN, Fld.TB_TPO_FREE_RUN, Fld.TB_TPO_PERIOD_MS, Fld.TB_TPO_WIDTH_US]
  | .TB_DOMd_OFS => [Fld.TB_DOMd_OFS_OFS]
  | .TB_DOMd_RR => [Fld.TB_DOMd_RR_RR]
  | .NET_PORTp_CFG => [Fld.NET_PORTp_CFG_EN, Fld.NET_PORTp_CFG_LINK, Fld.NET_PORTp_CFG_SPEED_BAD, Fld.NET_PORTp_CFG_AS_CAP, Fld.NET_PORTp_CFG_TX_LAT, Fld.NET_PORTp_CFG_RX_LAT]
  | .NET_PORTp_VLAN => [Fld.NET_PORTp_VLAN_PVID]
  | .NET_PORTp_CNT => [Fld.NET_PORTp_CNT_STOMP, Fld.NET_PORTp_CNT_DROP]
  | .NET_PTP => [Fld.NET_PTP_DOM0, Fld.NET_PTP_DOM1, Fld.NET_PTP_LOG_SYNC, Fld.NET_PTP_GM0, Fld.NET_PTP_GM1, Fld.NET_PTP_EXTCFG, Fld.NET_PTP_PRIO1]
  | .NET_FDB => [Fld.NET_FDB_AGE_S]
  | .NET_MAC_LO => [Fld.NET_MAC_LO_MAC]
  | .NET_MAC_HI => [Fld.NET_MAC_HI_MAC]
  | .NET_SHAFT => [Fld.NET_SHAFT_ETYPE, Fld.NET_SHAFT_PCP, Fld.NET_SHAFT_VID]
  | .NET_SHAFT_DA_LO => [Fld.NET_SHAFT_DA_LO_DA]
  | .NET_SHAFT_DA_HI => [Fld.NET_SHAFT_DA_HI_DA]
  | .NET_RXB_BASE_LO => [Fld.NET_RXB_BASE_LO_BASE]
  | .NET_RXB_BASE_HI => [Fld.NET_RXB_BASE_HI_BASE]
  | .NET_RXB_CFG => [Fld.NET_RXB_CFG_EN, Fld.NET_RXB_CFG_NOTE, Fld.NET_RXB_CFG_LOG2KB]
  | .NET_RXB_WR => [Fld.NET_RXB_WR_WR]
  | .NET_RXB_RD => [Fld.NET_RXB_RD_RD]
  | .NET_RXB_DROP => [Fld.NET_RXB_DROP_DROP]
  | .NET_TXQq_CFG => [Fld.NET_TXQq_CFG_PORTS, Fld.NET_TXQq_CFG_PCP, Fld.NET_TXQq_CFG_TAG, Fld.NET_TXQq_CFG_LT_EN, Fld.NET_TXQq_CFG_LATE_POL, Fld.NET_TXQq_CFG_VID]
  | .NET_TXQq_STAT => [Fld.NET_TXQq_STAT_DEPTH, Fld.NET_TXQq_STAT_CFG_REJ, Fld.NET_TXQq_STAT_LATE, Fld.NET_TXQq_STAT_DROP]
  | .NET_GCLp_ENT => [Fld.NET_GCLp_ENT_GATES, Fld.NET_GCLp_ENT_INTERVAL]
  | .NET_GCLp_BASE_LO => [Fld.NET_GCLp_BASE_LO_BASE]
  | .NET_GCLp_BASE_HI => [Fld.NET_GCLp_BASE_HI_BASE]
  | .NET_GCLp_CYC => [Fld.NET_GCLp_CYC_CYC]
  | .NET_GCLp_CTL => [Fld.NET_GCLp_CTL_EN, Fld.NET_GCLp_CTL_LEN, Fld.NET_GCLp_CTL_OPER_EN, Fld.NET_GCLp_CTL_COMMIT, Fld.NET_GCLp_CTL_PEND, Fld.NET_GCLp_CTL_OPER_BANK, Fld.NET_GCLp_CTL_ERR]
  | .CAN_CFG => [Fld.CAN_CFG_FD_EN, Fld.CAN_CFG_SSP_EN, Fld.CAN_CFG_RETRY, Fld.CAN_CFG_NM_STD, Fld.CAN_CFG_NM_XTD, Fld.CAN_CFG_REJ_RTR, Fld.CAN_CFG_RXNOTE]
  | .CAN_NTIM => [Fld.CAN_NTIM_SEG2, Fld.CAN_NTIM_SEG1, Fld.CAN_NTIM_RJW, Fld.CAN_NTIM_PRE]
  | .CAN_DTIM => [Fld.CAN_DTIM_SEG2, Fld.CAN_DTIM_RJW, Fld.CAN_DTIM_SEG1, Fld.CAN_DTIM_PRE, Fld.CAN_DTIM_SSP]
  | .CAN_STAT => [Fld.CAN_STAT_MODE, Fld.CAN_STAT_ESTATE, Fld.CAN_STAT_EW, Fld.CAN_STAT_ERRC, Fld.CAN_STAT_CFG_REJ, Fld.CAN_STAT_LOOPDLY]
  | .CAN_ECNT => [Fld.CAN_ECNT_TEC, Fld.CAN_ECNT_REC]
  | .CAN_CNT => [Fld.CAN_CNT_RXDROP, Fld.CAN_CNT_TXABORT]
  | .CAN_RXB_BASE_LO => [Fld.CAN_RXB_BASE_LO_BASE]
  | .CAN_RXB_BASE_HI => [Fld.CAN_RXB_BASE_HI_BASE]
  | .CAN_RXB_CFG => [Fld.CAN_RXB_CFG_EN, Fld.CAN_RXB_CFG_LOG2]
  | .CAN_RXB_WR => [Fld.CAN_RXB_WR_WR]
  | .CAN_FLTe_W0 => [Fld.CAN_FLTe_W0_ID1, Fld.CAN_FLTe_W0_TYPE, Fld.CAN_FLTe_W0_XTD]
  | .CAN_FLTe_W1 => [Fld.CAN_FLTe_W1_ID2, Fld.CAN_FLTe_W1_ACT]
  | .DIO_CHn_CFG => [Fld.DIO_CHn_CFG_MODE, Fld.DIO_CHn_CFG_GANG, Fld.DIO_CHn_CFG_SAFE, Fld.DIO_CHn_CFG_WD_CMD, Fld.DIO_CHn_CFG_WB_EN, Fld.DIO_CHn_CFG_NOTE, Fld.DIO_CHn_CFG_SHED, Fld.DIO_CHn_CFG_FILT]
  | .DIO_CHn_STAT => [Fld.DIO_CHn_STAT_LEVEL, Fld.DIO_CHn_STAT_BREAK, Fld.DIO_CHn_STAT_OPEN, Fld.DIO_CHn_STAT_ILIM, Fld.DIO_CHn_STAT_TSD, Fld.DIO_CHn_STAT_SAFE_ACT, Fld.DIO_CHn_STAT_TS_OVF, Fld.DIO_CHn_STAT_CFG_REJ, Fld.DIO_CHn_STAT_EDGES]
  | .DIO_IN_LO => [Fld.DIO_IN_LO_LEVEL]
  | .DIO_IN_HI => [Fld.DIO_IN_HI_LEVEL]
  | .DIO_OUT_LO => [Fld.DIO_OUT_LO_IMAGE]
  | .DIO_OUT_HI => [Fld.DIO_OUT_HI_IMAGE]
  | .DIO_WDG => [Fld.DIO_WDG_TMO_MS]
  | .DIO_GSTAT => [Fld.DIO_GSTAT_UV, Fld.DIO_GSTAT_TOTAL, Fld.DIO_GSTAT_LINK_TO, Fld.DIO_GSTAT_I_TOTAL]
  | .SAF_STAT => [Fld.SAF_STAT_CONF, Fld.SAF_STAT_HOLD_ALL, Fld.SAF_STAT_CH_FAULT, Fld.SAF_STAT_PARAM_BAD, Fld.SAF_STAT_PLINTH_MIS, Fld.SAF_STAT_FCODE, Fld.SAF_STAT_FCH]
  | .SAF_CHECK_A => [Fld.SAF_CHECK_A_CHECK]
  | .SAF_CHECK_B => [Fld.SAF_CHECK_B_CHECK]
  | .SAF_CONF_VAL => [Fld.SAF_CONF_VAL_CHECK]
  | .SAF_PCTL => [Fld.SAF_PCTL_STORE, Fld.SAF_PCTL_BUSY, Fld.SAF_PCTL_DONE, Fld.SAF_PCTL_REJ, Fld.SAF_PCTL_REJ_WHY, Fld.SAF_PCTL_GEN]
  | .SAF_GRP => [Fld.SAF_GRP_GRP]
  | .SAF_PAIR => [Fld.SAF_PAIR_PAIR]
  | .SAF_COMM => [Fld.SAF_COMM_UP, Fld.SAF_COMM_DOWN_SEEN, Fld.SAF_COMM_LAST]
  | .SAF_COMM_CNT => [Fld.SAF_COMM_CNT_CRC_ERR, Fld.SAF_COMM_CNT_SEQ_ERR]
  | .SAF_AXF_LO => [Fld.SAF_AXF_LO_AXF]
  | .SAF_AXF_HI => [Fld.SAF_AXF_HI_AXF]
  | .SAF_HOLD_LO => [Fld.SAF_HOLD_LO_HOLD]
  | .SAF_HOLD_HI => [Fld.SAF_HOLD_HI_HOLD]
  | .SAF_PARAM => [Fld.SAF_PARAM_SET]
  | .NVM_SLOT_CTL => [Fld.NVM_SLOT_CTL_WRITE, Fld.NVM_SLOT_CTL_SLOT, Fld.NVM_SLOT_CTL_LOCKVER, Fld.NVM_SLOT_CTL_BEGIN, Fld.NVM_SLOT_CTL_FINISH]
  | .NVM_SLOT_SRC => [Fld.NVM_SLOT_SRC_CHUNK]
  | .NVM_SLOT_STAT => [Fld.NVM_SLOT_STAT_BUSY, Fld.NVM_SLOT_STAT_DONE, Fld.NVM_SLOT_STAT_REJ]
  | .NVM_MINVER => [Fld.NVM_MINVER_MINVER]
  | .NVM_FLOG_IDX => [Fld.NVM_FLOG_IDX_IDX]
  | .NVM_FLOG_Dj => [Fld.NVM_FLOG_Dj_DATA]
  | .ENG_ROLE => [Fld.ENG_ROLE_ROLE, Fld.ENG_ROLE_AXIS, Fld.ENG_ROLE_OWNER, Fld.ENG_ROLE_GRP_BANK, Fld.ENG_ROLE_GRP_DIV]
  | .ENG_STAT => [Fld.ENG_STAT_STATE, Fld.ENG_STAT_ROLE, Fld.ENG_STAT_BK, Fld.ENG_STAT_WREJ, Fld.ENG_STAT_FAULT, Fld.ENG_STAT_FAULT_EV, Fld.ENG_STAT_FAULT_BG, Fld.ENG_STAT_FAULT_PC]
  | .ENG_EVSTAT => [Fld.ENG_EVSTAT_MERGE_S, Fld.ENG_EVSTAT_MERGE_F, Fld.ENG_EVSTAT_MERGE_H, Fld.ENG_EVSTAT_MERGE_R]
  | .ENG_EVCFG => [Fld.ENG_EVCFG_AX_WC, Fld.ENG_EVCFG_AX_FB, Fld.ENG_EVCFG_AX_DL, Fld.ENG_EVCFG_SHAFT, Fld.ENG_EVCFG_FRESET]
  | .ENG_PACE => [Fld.ENG_PACE_PACE_PS, Fld.ENG_PACE_VALID]
  | .ENG_HWM_SF => [Fld.ENG_HWM_SF_SAMPLE, Fld.ENG_HWM_SF_FAULT]
  | .ENG_HWM_HR => [Fld.ENG_HWM_HR_HOST, Fld.ENG_HWM_HR_RELEASE]
  | .ENG_FO => [Fld.ENG_FO_CLAIM, Fld.ENG_FO_AXIS, Fld.ENG_FO_SHARED, Fld.ENG_FO_RETIRED, Fld.ENG_FO_SELFTEST]
  | .BNK_CARRIER => [Fld.BNK_CARRIER_PERIOD, Fld.BNK_CARRIER_ALIGN, Fld.BNK_CARRIER_ILV, Fld.BNK_CARRIER_RUNNING, Fld.BNK_CARRIER_RUN]
  | .BNK_DT => [Fld.BNK_DT_FLOOR, Fld.BNK_DT_TH, Fld.BNK_DT_DTTO_N]
  | .BNK_BOOT => [Fld.BNK_BOOT_PUMP, Fld.BNK_BOOT_MINLO, Fld.BNK_BOOT_REFN, Fld.BNK_BOOT_CHG_T]
  | .BNK_PROT => [Fld.BNK_PROT_LEN, Fld.BNK_PROT_DESAT]
  | .BNK_VM1 => [Fld.BNK_VM1_L1_ON, Fld.BNK_VM1_L1_OFF]
  | .BNK_VM2 => [Fld.BNK_VM2_L2, Fld.BNK_VM2_UV]
  | .BNK_BRK => [Fld.BNK_BRK_EN, Fld.BNK_BRK_TMAX_MS]
  | .BNK_WCACT => [Fld.BNK_WCACT_DESAT, Fld.BNK_WCACT_HOC, Fld.BNK_WCACT_VM_L2, Fld.BNK_WCACT_DLMISS, Fld.BNK_WCACT_ENG_LOSS, Fld.BNK_WCACT_THERM]
  | .BNK_RELEASE => [Fld.BNK_RELEASE_LAT]
  | .BNK_FLT => [Fld.BNK_FLT_EN, Fld.BNK_FLT_POL, Fld.BNK_FLT_CUT_CNT]
  | .BNK_PSTAT => [Fld.BNK_PSTAT_VGD_OK, Fld.BNK_PSTAT_VGD_UV_SEEN, Fld.BNK_PSTAT_L1, Fld.BNK_PSTAT_L2_SEEN, Fld.BNK_PSTAT_UV, Fld.BNK_PSTAT_BRK_OVL]
  | .BNK_FRAME => [Fld.BNK_FRAME_FRAME]
  | .BNK_MEAS => [Fld.BNK_MEAS_VM, Fld.BNK_MEAS_VGD]
  | .BNK_PNOW => [Fld.BNK_PNOW_PERIOD, Fld.BNK_PNOW_PSTEP]
  | .AX_CFG => [Fld.AX_CFG_MODE, Fld.AX_CFG_SENSE, Fld.AX_CFG_SHAREABLE, Fld.AX_CFG_ANG_SRC, Fld.AX_CFG_POLES]
  | .AX_STATE => [Fld.AX_STATE_STATE, Fld.AX_STATE_LEG, Fld.AX_STATE_IOFS_BAD, Fld.AX_STATE_CFG_REJ, Fld.AX_STATE_WC_ACTIVE, Fld.AX_STATE_COEF_PEND, Fld.AX_STATE_IOFS_RDY]
  | .AX_SENSE => [Fld.AX_SENSE_TSET, Fld.AX_SENSE_TLOW]
  | .AX_IOFS_A => [Fld.AX_IOFS_A_OFS_U, Fld.AX_IOFS_A_OFS_V]
  | .AX_IOFS_B => [Fld.AX_IOFS_B_OFS_W, Fld.AX_IOFS_B_OFS_DC]
  | .AX_STOPCFG => [Fld.AX_STOPCFG_FRESET_CAT, Fld.AX_STOPCFG_FE_CAT, Fld.AX_STOPCFG_FAULT_ACT, Fld.AX_STOPCFG_DECEL_MS]
  | .AX_LFAULT => [Fld.AX_LFAULT_CODE, Fld.AX_LFAULT_COUNT, Fld.AX_LFAULT_SEEN]
  | .AX_LIMCFG => [Fld.AX_LIMCFG_OC_N, Fld.AX_LIMCFG_SAT_N, Fld.AX_LIMCFG_INV_N]
  | .AX_PWM => [Fld.AX_PWM_CDIV, Fld.AX_PWM_PROFILE, Fld.AX_PWM_COAST]
  | .AX_GDPROF => [Fld.AX_GDPROF_PRE_T, Fld.AX_GDPROF_SLOPE_I]
  | .AX_OC => [Fld.AX_OC_CBC_LVL, Fld.AX_OC_HOC_LVL, Fld.AX_OC_CBC_EN]
  | .AX_HALL => [Fld.AX_HALL_FLT, Fld.AX_HALL_OFS]
  | .AX_PSTAT => [Fld.AX_PSTAT_CBC_CNT, Fld.AX_PSTAT_BOOT_UV, Fld.AX_PSTAT_LEGF, Fld.AX_PSTAT_PROF_TO, Fld.AX_PSTAT_MODE_BAD, Fld.AX_PSTAT_HALL_BAD, Fld.AX_PSTAT_COAST]
  | .AX_WC => [Fld.AX_WC_SRC, Fld.AX_WC_LATCH, Fld.AX_WC_ACT]
  | .AX_INFO => [Fld.AX_INFO_PREMIUM, Fld.AX_INFO_BANK, Fld.AX_INFO_AXIS]
  | .AX_DLMISS => [Fld.AX_DLMISS_MISS_CNT, Fld.AX_DLMISS_LATE_DISCARD, Fld.AX_DLMISS_MISS_SEEN, Fld.AX_DLMISS_DOUBLE]
  | .AX_FBCFG => [Fld.AX_FBCFG_FMODE, Fld.AX_FBCFG_PMODE, Fld.AX_FBCFG_INV, Fld.AX_FBCFG_BRIDGE, Fld.AX_FBCFG_ZGATE, Fld.AX_FBCFG_ZCHK, Fld.AX_FBCFG_EOFS]
  | .AX_QCFG => [Fld.AX_QCFG_MEI, Fld.AX_QCFG_ERR_LIM]
  | .AX_ANGCFG => [Fld.AX_ANGCFG_CPR]
  | .AX_ANGOFS => [Fld.AX_ANGOFS_OFS, Fld.AX_ANGOFS_HW_ALIGN, Fld.AX_ANGOFS_ALIGNED]
  | .AX_SCCFG => [Fld.AX_SCCFG_IPB, Fld.AX_SCCFG_AMP_LO, Fld.AX_SCCFG_AMP_HI, Fld.AX_SCCFG_AMP_N]
  | .AX_SSICFG => [Fld.AX_SSICFG_BITS, Fld.AX_SSICFG_ST, Fld.AX_SSICFG_GRAY, Fld.AX_SSICFG_EBIT, Fld.AX_SSICFG_CLKDIV, Fld.AX_SSICFG_DLY, Fld.AX_SSICFG_ERR_N, Fld.AX_SSICFG_JUMP]
  | .AX_FBFLT => [Fld.AX_FBFLT_FAULT, Fld.AX_FBFLT_CFG_BAD, Fld.AX_FBFLT_WRAP, Fld.AX_FBFLT_Z_SEEN, Fld.AX_FBFLT_BUCKET]
  | .AX_FBCNT => [Fld.AX_FBCNT_ILL, Fld.AX_FBCNT_EDGE]
  | .AX_POS_LO => [Fld.AX_POS_LO_POS]
  | .AX_POS_HI => [Fld.AX_POS_HI_POS, Fld.AX_POS_HI_ANGLE]
  | .AX_POSLD_LO => [Fld.AX_POSLD_LO_VAL]
  | .AX_POSLD_HI => [Fld.AX_POSLD_HI_VAL]
  | .AX_ZPOS_LO => [Fld.AX_ZPOS_LO_ZPOS]
  | .AX_ZPOS_HI => [Fld.AX_ZPOS_HI_ZPOS]
  | .AX_FBSAFE => [Fld.AX_FBSAFE_SCA, Fld.AX_FBSAFE_SCB]
  | .AX_MOTCFG => [Fld.AX_MOTCFG_TRAJ_ENG, Fld.AX_MOTCFG_VIRT, Fld.AX_MOTCFG_SH_DECEL_MS]
  | .AX_STEPCFG => [Fld.AX_STEPCFG_PSRC, Fld.AX_STEPCFG_USTEP, Fld.AX_STEPCFG_KEEP, Fld.AX_STEPCFG_GRP_INT]
  | .AX_MSTAT => [Fld.AX_MSTAT_QDEPTH, Fld.AX_MSTAT_HEAD, Fld.AX_MSTAT_POS_UNK, Fld.AX_MSTAT_LATCH_OVF, Fld.AX_MSTAT_HALTED, Fld.AX_MSTAT_UNDR]
  | .AX_STEPCNT => [Fld.AX_STEPCNT_COUNT]
  | .AX_MONSTAT => [Fld.AX_MONSTAT_ACTIVE, Fld.AX_MONSTAT_CAPT, Fld.AX_MONSTAT_MON_ENG, Fld.AX_MONSTAT_RECS]
  | .AX_FOSTAT => [Fld.AX_FOSTAT_CLAIM, Fld.AX_FOSTAT_ENG, Fld.AX_FOSTAT_SERVICE, Fld.AX_FOSTAT_TAKES, Fld.AX_FOSTAT_DISCARD]
  | .AX_PLUG => [Fld.AX_PLUG_VMIN, Fld.AX_PLUG_IMIN, Fld.AX_PLUG_N, Fld.AX_PLUG_RETRY, Fld.AX_PLUG_HALL, Fld.AX_PLUG_EN]
  | .AX_PLUGSTAT => [Fld.AX_PLUGSTAT_TIMER, Fld.AX_PLUGSTAT_IDENT, Fld.AX_PLUGSTAT_ID_FAIL]
  | .HIF_DB => [Fld.HIF_DB_IDX]
  | .HIF_RING_BASE_LO => [Fld.HIF_RING_BASE_LO_BASE]
  | .HIF_RING_BASE_HI => [Fld.HIF_RING_BASE_HI_BASE]
  | .HIF_RING_CFG => [Fld.HIF_RING_CFG_EN, Fld.HIF_RING_CFG_LOG2, Fld.HIF_RING_CFG_VEC]
  | .HIF_RING_STAT => [Fld.HIF_RING_STAT_STATE, Fld.HIF_RING_STAT_ERR, Fld.HIF_RING_STAT_RESV]
  | .HIF_RING_IDX => [Fld.HIF_RING_IDX_IDX]
  | .HIF_RING_SEQ => [Fld.HIF_RING_SEQ_LAST]
  | .HIF_MSIX_TAB => [Fld.HIF_MSIX_TAB_W]
  | .HIF_MSIX_PBA => [Fld.HIF_MSIX_PBA_W]
  | .HIF_FCTL => [Fld.HIF_FCTL_FRST, Fld.HIF_FCTL_ERR_VEC]
  | .HIF_FSTAT => [Fld.HIF_FSTAT_FSTATE, Fld.HIF_FSTAT_RST_DONE, Fld.HIF_FSTAT_RING_ERR, Fld.HIF_FSTAT_QOS_REJ, Fld.HIF_FSTAT_EVT_DROP]
  | .HIF_RLOG_CNT => [Fld.HIF_RLOG_CNT_CNT, Fld.HIF_RLOG_CNT_OVF]
  | .HIF_QOS0 => [Fld.HIF_QOS0_RATE, Fld.HIF_QOS0_IRQ_MIN, Fld.HIF_QOS0_ENG_SHARE]
  | .HIF_QOS1 => [Fld.HIF_QOS1_PEND]
  | .HIF_VMOD_v => [Fld.HIF_VMOD_v_CNT, Fld.HIF_VMOD_v_TIMER]
  | .HIF_RLOG_SEQ => [Fld.HIF_RLOG_SEQ_SEQ]
  | .HIF_RLOG_RING => [Fld.HIF_RLOG_RING_RING, Fld.HIF_RLOG_RING_VALID]
  | .HIF_OWN_AXi => [Fld.HIF_OWN_AXi_OWN]
  | .HIF_OWN_DIOi => [Fld.HIF_OWN_DIOi_OWN]
  | .HIF_OWN_CAN => [Fld.HIF_OWN_CAN_OWN]
  | .HIF_OWN_NETQi => [Fld.HIF_OWN_NETQi_OWN]
  | .HIF_OWN_CTL => [Fld.HIF_OWN_CTL_APPLY, Fld.HIF_OWN_CTL_BUSY, Fld.HIF_OWN_CTL_DONE, Fld.HIF_OWN_CTL_REJ, Fld.HIF_OWN_CTL_REJ_WHY]
  | .HIF_OWNF_AXi => [Fld.HIF_OWNF_AXi_OWN]
  | .HIF_OWNF_DIOi => [Fld.HIF_OWNF_DIOi_OWN]
  | .HIF_OWNF_CAN => [Fld.HIF_OWNF_CAN_OWN]
  | .HIF_OWNF_NETQi => [Fld.HIF_OWNF_NETQi_OWN]

/-- The instance of `r` that lies at `addr`, if any. -/
def Reg.instanceAt (r : Reg) (addr : Nat) : Option (Nat × Nat) :=
  let sp := r.spec
  if addr < sp.base then none else
  let d := addr - sp.base
  let i := if sp.n1 ≤ 1 then 0 else d / sp.s1
  let d' := d - sp.s1 * i
  let j := if sp.n2 ≤ 1 then 0 else d' / sp.s2
  if i < sp.n1 ∧ j < sp.n2 ∧ d' = sp.s2 * j then some (i, j) else none

/-- The register and instance at an offset of BAR0 of F0, or none where the offset is unassigned (R11, R483). Registers
whose inner stride is larger than the outer one do not occur, so the first match is the only one. -/
def Reg.find (addr : Nat) : Option (Reg × Nat × Nat) :=
  Reg.all.findSome? fun r => (r.instanceAt addr).map fun (i, j) => (r, i, j)

/-- Reset word of the register at an offset, or 0 for an unassigned one. -/
def Reg.resetAt (addr : Nat) : Word :=
  match Reg.find addr with
  | some (r, i, j) => r.resetWord i j
  | none => 0

end Sys2Proof.Machine
end

