-- ==== Sys2Proof/Machine/Sparse.lean ====
section
/-! DEFINITION. Sparse maps from addresses to values in one canonical form: keys strictly rising, and no entry equal to
what an unlisted key reads as. Registers, shared memory, axis windows and engine memories are held so; equal contents are
then equal data. -/

namespace Sys2Proof.Machine

/-- A sparse map over natural-number keys. -/
abbrev Sparse (α : Type) := List (Nat × α)

/-- The value at `k`; `d k` is what an unlisted key reads as. -/
def Sparse.get {α : Type} (d : Nat → α) : Sparse α → Nat → α
  | [], k => d k
  | (k', v) :: t, k => if k = k' then v else Sparse.get d t k

/-- Write `v` at `k`, keeping the canonical form. -/
def Sparse.put {α : Type} [DecidableEq α] (d : Nat → α) : Sparse α → Nat → α → Sparse α
  | [], k, v => if v = d k then [] else [(k, v)]
  | (k', v') :: t, k, v =>
    if k < k' then (if v = d k then (k', v') :: t else (k, v) :: (k', v') :: t)
    else if k = k' then (if v = d k then t else (k, v) :: t)
    else (k', v') :: Sparse.put d t k v

/-- Every key of the map is above `lo` and the form is canonical from there. -/
def Sparse.wfFrom {α : Type} [DecidableEq α] (d : Nat → α) (lo : Nat) : Sparse α → Bool
  | [] => true
  | (k, v) :: t => decide (lo ≤ k) && !decide (v = d k) && Sparse.wfFrom d (k + 1) t

/-- The canonical form of a map. -/
def Sparse.wf {α : Type} [DecidableEq α] (d : Nat → α) (m : Sparse α) : Bool := Sparse.wfFrom d 0 m

/-- Drop every key in `lo ≤ k < hi`: those keys read as the default again. -/
def Sparse.clearRange {α : Type} (lo hi : Nat) : Sparse α → Sparse α
  | [] => []
  | (k, v) :: t => if lo ≤ k ∧ k < hi then Sparse.clearRange lo hi t else (k, v) :: Sparse.clearRange lo hi t

/-- A byte memory: shared memory, an axis window, local data memory. Its unlisted bytes read 0. -/
abbrev Mem := Sparse Byte

def Mem.zero : Nat → Byte := fun _ => 0

/-- One byte. -/
def Mem.byte (m : Mem) (a : Nat) : Byte := Sparse.get Mem.zero m a

/-- Store one byte. -/
def Mem.putByte (m : Mem) (a : Nat) (b : Byte) : Mem := Sparse.put Mem.zero m a b

/-- `n` bytes from `a` as a little-endian number (R312). -/
def Mem.load (m : Mem) (a : Nat) : Nat → Nat
  | 0 => 0
  | n + 1 => (Mem.byte m a).toNat + 256 * Mem.load m (a + 1) n

/-- Store the low `n` bytes of `v` little-endian from `a`. -/
def Mem.store (m : Mem) (a : Nat) : Nat → Nat → Mem
  | 0, _ => m
  | n + 1, v => Mem.store (Mem.putByte m a (BitVec.ofNat 8 v)) (a + 1) n (v / 256)

/-- Store a list of bytes from `a`. -/
def Mem.storeBytes (m : Mem) (a : Nat) : List Byte → Mem
  | [] => m
  | b :: t => Mem.storeBytes (Mem.putByte m a b) (a + 1) t

/-- The list of `n` bytes from `a`. -/
def Mem.bytes (m : Mem) (a : Nat) : Nat → List Byte
  | 0 => []
  | n + 1 => Mem.byte m a :: Mem.bytes m (a + 1) n

/-- Canonical form of a byte memory. -/
abbrev Mem.wf (m : Mem) : Bool := Sparse.wf Mem.zero m

end Sys2Proof.Machine
end

