-- ==== Sys2Proof/Machine/State.lean ====
section
/-! DEFINITION. The machine's state as plain data: everything the spec gives the block. Every register that software can
read has its one home in `State.regs`, keyed by its address in the map of F0 (R483); the structures hold what no register
shows. -/

namespace Sys2Proof.Machine

/-! ## Engines (02_engines.md) -/

/-- One bank of the banked engine registers (R53, Table 1). `sw` holds SW without BK, which names the bank itself. -/
structure EngBank where
  h : Vector (BitVec 16) 16
  a : Vector (BitVec 40) 4
  f : Vector (BitVec 32) 16
  p : Vector (BitVec 16) 8
  sw : BitVec 16
  deriving DecidableEq, Repr

/-- Where a result lands. -/
inductive EngDest where
  | h (i : HReg) (v : BitVec 16)
  | a (i : AReg) (v : BitVec 40)
  | f (i : FReg) (v : BitVec 32)
  | p (i : PReg) (v : BitVec 16)
  | cb (i : PReg) (v : BitVec 16)
  | cl (i : PReg) (v : BitVec 16)
  | smpg (v : BitVec 6)
  | axsel (v : BitVec 6)
  | sw (v : BitVec 16)
  | sat (b : Bool)
  | flagsOnly
  deriving DecidableEq, Repr

/-- A result in flight (R70): what it writes, the condition flags ZNCV if it writes them, the sticky flags QV AV FV FU FI
FZ that it sets, the bank that issued it and the step at whose end it lands. -/
structure Flight where
  due : Nat
  bank1 : Bool
  dest : EngDest
  cond : Option (BitVec 4)
  sticky : BitVec 6
  deriving DecidableEq, Repr

/-- The repeat in force: executions of the body left, and the number of the next one counted from 1 (R120). -/
structure Repeat where
  left : Nat
  index : Nat
  deriving DecidableEq, Repr

/-- Where a long access goes: shared memory, or the window of an axis (R56, R58). -/
inductive LongTarget where
  | shared (a : Nat)
  | window (n : AxId) (a : Nat)
  deriving DecidableEq, Repr

/-- What a long access does at its grant: a load into a register, or a store of `width` bytes. -/
inductive LongKind where
  | ldh (d : HReg) | ldp (d : PReg) | ldf (d : FReg) | lda (d : AReg)
  | store (v : Nat)
  deriving DecidableEq, Repr

/-- A long access that waits for its grant (R63). `ptr` is the post-modified pointer, if any; `waited` counts the issue steps it has
spent waiting. -/
structure LongAcc where
  target : LongTarget
  width : Nat
  kind : LongKind
  ptr : Option (PReg × BitVec 16)
  waited : Nat
  deriving DecidableEq, Repr

/-- The Armature port block as the engine reads it (Table 3 of 02_engines.md, R60). -/
structure PortBlock where
  evKind : EvKind
  evSrc : BitVec 16
  seq : BitVec 16
  frame : BitVec 32
  dt : BitVec 64
  adc : Vector (BitVec 16) 16
  pos : BitVec 48
  /-- ANGLE at the sample instant: POS_HI[31:16] (R207). -/
  angle : BitVec 16
  vms : BitVec 16
  deriving DecidableEq, Repr

/-- The fields of an image header (R81, Table 7). -/
structure ImageHdr where
  group : Bool
  halfRate : Bool
  codeWords : Nat
  dataBytes : Nat
  entryBg : Nat
  entrySample : Nat
  entryFault : Nat
  entryHost : Nat
  entryRelease : Nat
  maxRpt : Nat
  stepsSample : Nat
  stepsFault : Nat
  stepsHost : Nat
  stepsRelease : Nat
  libVersion : Nat
  deriving DecidableEq, Repr

/-- What is being done to an engine that is not running (R94, R97, R433 to R437). -/
inductive EngPrep where
  | zeroing
  /-- Copy of the image that serves the command, if any. -/
  | copying (src : Option CmdSrc)
  /-- Self-test of a repaired engine (R436). -/
  | selftest
  deriving DecidableEq, Repr

/-- A set of latch words: staged or released (R519, R158, R163). -/
structure LatchVals where
  cu : BitVec 32
  cv : BitVec 32
  cw : BitVec 32
  mode : BitVec 32
  deriving DecidableEq, Repr

/-- A Mbokan engine. Its state, role in force, fault fields, merge counts and high-water marks are register fields. -/
structure Engine where
  bank0 : EngBank
  bank1 : EngBank
  cb : Vector (BitVec 16) 8
  cl : Vector (BitVec 16) 8
  smpg : BitVec 6
  axsel : BitVec 6
  pc : BitVec 12
  retPc : BitVec 12
  imem : Sparse (BitVec 32)
  dmem : Mem
  /-- Word addresses of instruction memory, and byte addresses of data memory, whose parity is bad. -/
  badI : List Nat
  badD : List Nat
  step : Nat
  flights : List Flight
  rpt : Option Repeat
  long : Option LongAcc
  handler : Option EvKind
  used : Nat
  pend : List EvKind
  faultSrc : BitVec 16
  port : PortBlock
  image : Option ImageHdr
  /-- The plan in force: axis served (or followed), owner, pacing bank and divisor (R92, R93). -/
  axis : AxId
  owner : FnId
  grpBank : BankId
  grpDiv : Nat
  prep : Option EngPrep
  /-- Tick at which the preparation in progress may end. -/
  prepDue : Nat
  /-- The image being copied, and a start to make once the copy has ended (R83, R84). -/
  copyImg : List Byte
  wantStart : Option (Option CmdSrc)
  /-- Start tick of the present window of the step meter, if the meter runs (R32). -/
  meterFrom : Option Nat
  /-- Staging half of the release latch of the axis (R519). -/
  staged : LatchVals
  /-- Claim arbiter: instant of the last heartbeat, missed heartbeats in a row, declared failed, tick of the engine fault
  (R428, R429). -/
  lastPass : Option Nat
  missedHb : Nat
  declared : Bool
  faultTick : Nat
  /-- SEQ of the latest sample handler that completed RETE: the heartbeat (R429). -/
  hbSeq : Option (BitVec 16)
  /-- The same for the guest axis (R438), and for a group engine: its release handler of this period has not completed. -/
  hbGuest : Option (BitVec 16)
  relOpen : Bool
  /-- A command addressed to a group engine has been delivered: host event at its next period (Table 6). -/
  hostDue : Bool
  /-- Claim held before the latest declaration (R431); the guest axis of a shared engine (R438) with its claim, whether its event is being
  handled, and the kinds of event that are pending for it. -/
  oldClaim : Nat
  guest : Option AxId
  guestClaim : Nat
  onGuest : Bool
  pendGuest : List EvKind
  /-- The handler was entered by a chain at RETE (R75, R76), and its HANDLER_ENTRY has not come yet. -/
  chained : Bool
  /-- Zeroing that GLB_ALLOC.APPLY started, or that a repair started (R94, R436). -/
  byApply : Bool
  repairing : Bool
  /-- Steps of the background instruction in the issue slot that have not passed yet: the second step of a taken branch, or the rest
  of a WAIT, whose PC stands in `waitPc` (R76, R122). -/
  held : Nat
  waitPc : Option (BitVec 12)
  /-- Kinds of event raised in the present engine period, and the sources of a fault event that waits for the next one (R74). -/
  raised : List EvKind
  heldSrc : Option (BitVec 16)
  /-- First tick at which a started engine executes (Table 12 of 02_engines.md). -/
  runFrom : Nat
  /-- Axis taken over and not yet run: the first sample run for it loads the Cast in place of a coefficient record (R427). -/
  castRun : Option AxId
  deriving DecidableEq, Repr

/-! ## Axes (01, 04, 05) -/

/-- Leg state in force, coded as AX_STATE.LEG. -/
inductive LegState where
  | off | pwm | short | sixStep
  deriving DecidableEq, Repr

/-- A commit that waits for its release instant: values, tag, engine and the tick at which its handshake completed. -/
structure Commit where
  vals : LatchVals
  tag : BitVec 16
  eng : EngId
  at_ : Nat
  deriving DecidableEq, Repr

/-- A sample whose result is due (R43): its sequence number, the axis frame in which it was taken, and its release instant
where that is M_n; none: the next B_n. -/
structure DueSample where
  seq : BitVec 16
  frame : BitVec 32
  at_ : Option Nat
  /-- The engine that took the sample event: the one whose heartbeat is judged (R429, R433). -/
  eng : Option EngId
  deriving DecidableEq, Repr

/-- A sample under way (R125, R129, R130): frame number and B_n of its frame, tick of the first trigger, tick of
completion, whether it is a valid single-shunt pattern and its leg order (Table 3 of 04_axis_control.md). -/
structure SampleRun where
  frame : BitVec 32
  bTick : Nat
  t : Nat
  done : Nat
  pattern : Bool
  order : Nat
  /-- Position counter and ANGLE captured at the first trigger (R207). -/
  pos : BitVec 48
  angle : BitVec 16
  deriving DecidableEq, Repr

/-- A stop in progress (R147): where it ends, the speed reference it started from and the boundary at which it ends. -/
structure StopRun where
  hold : Bool
  v0 : Int
  start : Nat
  endTick : Nat
  deriving DecidableEq, Repr

/-- A coefficient or other record in the mailbox of an axis (R57, R142). -/
structure MailRec where
  src : CmdSrc
  cmd : HostCmd
  /-- Tick of its delivery. -/
  at_ : Nat
  deriving DecidableEq, Repr

/-- A leg of an axis: gate states, and what the gate-drive block keeps of it. -/
structure LegHw where
  high : Bool
  low : Bool
  /-- Turn-off commanded at this tick, complement not yet on; true: the high side turned off (R168). -/
  dead : Option (Nat × Bool)
  dtTimeouts : Nat
  chargeUntil : Nat
  /-- Bootstrap voltage below its threshold (R176). -/
  bootUv : Bool
  /-- Consecutive frames without a low interval (R174, REFN). -/
  highFrames : Nat
  /-- Start of the low interval in progress. -/
  lowSince : Nat
  /-- Start of the slope phase in progress (R173). -/
  slopeSince : Option Nat
  /-- By how much the pulse in progress ends earlier, in eighths of a tick (R174), and B_n of the frame whose turn-on was dropped
  (R162, R175, R176). -/
  shorten : Nat
  dropped : Option Nat
  deriving DecidableEq, Repr

/-- The active Wingcase demands on one axis that are not of the whole bank or device. -/
structure Demands where
  desat : Bool
  desatLive : Bool
  hoc : Bool
  hocLive : Bool
  safety : Bool
  dlmiss : Bool
  engLoss : Bool
  deriving DecidableEq, Repr

/-- The Wingcase actions (R182). -/
inductive WcAction where
  | short | off | brake
  deriving DecidableEq, Repr

/-- One axis: frames, sampling, release latch, states and the power stage. -/
structure Axis where
  /-- Tick of the latest B_n and its bank frame number (R153, R154). -/
  frameTick : Nat
  frameNo : BitVec 32
  /-- The axis carrier runs (its first B_n has fallen). -/
  framed : Bool
  /-- The next B_n whose bank boundary has fallen: tick and frame number (R153). -/
  nextB : Option (Nat × BitVec 32)
  /-- Sequence number of the latest sample; the sample taken and not yet complete. -/
  seq : BitVec 16
  sample : Option SampleRun
  /-- B_n of the axis frame whose sample was triggered last. -/
  sampledAt : Option Nat
  /-- Tick of the latest sample instant: its first trigger (R125). -/
  sampleTick : Nat
  due : List DueSample
  commits : List Commit
  released : LatchVals
  /-- Values released before, and the release instant of the present ones (R28, R161). -/
  prevReleased : LatchVals
  relTick : Nat
  misses : Nat
  /-- Release instants in a row without a heartbeat (R429). -/
  hbMiss : Nat
  stop : Option StopRun
  speedRef : Int
  integZero : Bool
  /-- Tick of the boundary at which the present state was entered. -/
  entryTick : Nat
  /-- Offset conversions of the present stay in IDLE: count, and the latest 256 codes of U, V, W and the DC link. -/
  ofsCount : Nat
  ofsCodes : List OfsCodes
  /-- The conversion triggered at the latest B_n, which has not finished yet. -/
  ofsPend : Option OfsCodes
  idleFrames : Nat
  /-- Coefficients active and pending, by ID (Table 4 of 04_axis_control.md). -/
  coef : Sparse (BitVec 32)
  coefPend : List (Nat × BitVec 32)
  mail : List MailRec
  /-- Records placed in the mailbox so far: the next one goes to slot `mailIdx` mod 8 (R57). -/
  mailIdx : Nat
  /-- Instants at which the records other than coefficients that have been delivered leave the mailbox model of admission (R303). -/
  mailOther : List Nat
  /-- Causes that wait for the next B_n (R145): of SAFE, with the cause code of R326; of ABSENT; of a stop, with its
  category and cause code (0: a command of the owner). -/
  safeReq : Option Nat
  absentReq : Bool
  stopReq : Option (StopCat × Nat)
  /-- First tick at which a boundary may start the stop that waits (R308, R403). -/
  stopFrom : Nat
  demands : Demands
  /-- Last Wingcase action of the present stay in SAFE (R186, R188). -/
  lastAct : Option WcAction
  /-- The release instant from which the state imposes its legs has passed (R188). -/
  imposed : Bool
  /-- RUN was entered from IDLE and its first release instant has not fallen yet (R145, Table 6). -/
  startOff : Bool
  fltCut : Bool
  cbcCut : Bool
  legs : Vector LegHw 3
  /-- Legs have left OFF since reset. -/
  armed : Bool
  blankUntil : Nat
  /-- Filtered Hall code, the sector s of the latest valid one and validity (R177), and the tick since which the code has read so. -/
  hallCode : BitVec 3
  hallAt : Nat
  hallSector : Nat
  hallValid : Bool
  /-- Axis shared memory, 4 KiB: Cast, mailbox and free part (R57). -/
  win : Mem
  deriving DecidableEq, Repr

/-! ## Banks (05) -/

/-- A bank carrier (R155, R156). -/
inductive Carrier where
  | stopped
  /-- Start requested, a condition not met yet. -/
  | pending
  /-- Conditions met: the first boundary falls at this tick. -/
  | starting (first : Nat)
  | running
  /-- A stop takes effect at the next unshifted boundary. -/
  | stopping (restart : Bool)
  deriving DecidableEq, Repr

/-- A bank: carrier, settings in force and motor supply. -/
structure Bank where
  carrier : Carrier
  /-- Tick of the first boundary since the start, and of the latest unshifted boundary; frame counter. -/
  firstTick : Nat
  frameTick : Nat
  frameNo : BitVec 32
  /-- Settings in force (R157, R44): period, edge alignment, interleave, HALF latency. -/
  period : Nat
  edge : Bool
  ilv : Nat
  half : Bool
  everStarted : Bool
  vgdUv : Bool
  /-- VGD_b in 10 mV and VM, as they stand (R490). -/
  vgd : BitVec 11
  vm : BitVec 12
  l1 : Bool
  brk : Bool
  brkSince : Nat
  brkLock : Bool
  vmL2 : Bool
  fltActive : Bool
  fltFrame : Bool
  /-- PWM steps in force, and whether the present frame is the transitional one of a return (R475). -/
  steps : Nat
  transit : Bool
  deriving DecidableEq, Repr

/-- A write to an FB register that is pending (R10): address, word, the tick at which it was accepted, and whether it was accepted
while the carrier counted as stopped: it then waits for 2 ticks and for no boundary. -/
structure FbWrite where
  addr : Nat
  value : Word
  at_ : Nat
  direct : Bool
  deriving DecidableEq, Repr

/-! ## Feedback (06_feedback.md) -/

/-- An armed position preload (R210): the value, its acceptance tick, the net counts taken since, and whether it waits for no boundary, as an
FB write accepted while the carrier counted as stopped. -/
structure Preload where
  val : BitVec 48
  at_ : Nat
  net : Int
  direct : Bool
  deriving DecidableEq, Repr

/-- Position and speed feedback of one axis. The 48-bit counter and ZPOS are two's complement (R206, R198). -/
structure AxFb where
  pos : BitVec 48
  zpos : BitVec 48
  prevIndex : Option (BitVec 48)
  /-- Levels of FC_n, FB_n and FA_n (bits 2, 1, 0) as last sampled, and of the premium A and B inputs: digital quadrature
  or the comparators of R201. -/
  pins : BitVec 3
  pa : Bool
  pb : Bool
  /-- Tick of the latest transition of each input set (R195), and the direction of its latest single-line count (R197);
  true: up. -/
  lastEdge : Option Nat
  lastEdgeP : Option Nat
  dir : Option Bool
  dirP : Option Bool
  /-- Sine/cosine (R200 to R202): quadrant count, its changes of the latest 250 ticks (tick, value before), counter minus
  X, violations in a row, and the sample-instant pair with its conformity. -/
  quadCount : Int
  qcHist : List (Nat × Int)
  scOfs : Int
  ampBad : Nat
  trackBad : Nat
  scOk : Bool
  sin : BitVec 16
  cos : BitVec 16
  /-- SSI (R203 to R205): latest valid value, its difference from the one before, counts extrapolated since, errors in a
  row, start of a transfer in progress. -/
  ssiLast : Option Int
  ssiDelta : Int
  ssiExtra : Int
  ssiErr : Nat
  ssiBusy : Option Nat
  /-- Gains of the error bucket in this frame (R214). -/
  gained : Nat
  preload : Option Preload
  /-- Counters of the safety channels, their illegal-transition counts and the last valid Hall sector that SCB saw (R217). -/
  sca : BitVec 32
  scb : BitVec 32
  scaIll : Nat
  scbIll : Nat
  scSector : Option Nat
  /-- Tick of the latest change of `pins`; the levels behind SCA's glitch filter, and the last valid Hall sector that SCA saw (R217). -/
  pinSince : Nat
  scaPins : BitVec 3
  scaSector : Option Nat
  /-- Start of the latest sine/cosine conversion (R200). -/
  scLast : Option Nat
  deriving DecidableEq, Repr

/-- A pulse repeater (R219 to R222): accumulator, signed backlog, quadrature phase on the outputs, direction line, the tick of the latest
output count; the ticks at which the backlog ceased to be empty, and at which the direction line changed. -/
structure PulseRep where
  acc : Int
  backlog : Int
  phase : BitVec 2
  dirRev : Bool
  lastOut : Option Nat
  since : Nat
  dirAt : Option Nat
  deriving DecidableEq, Repr

/-! ## Motion (07_motion.md) -/

/-- A move in the queue of an axis, with the command it came from (R229). `ended`: it has completed, with the flags of its
DONE and, for HOME, the reference count. -/
structure QMove where
  src : CmdSrc
  cmd : HostCmd
  started : Bool
  ended : Option (BitVec 8 × Int)
  deriving DecidableEq, Repr

/-- A setting of a latch unit (R249): MODE 0 OFF, 1 ONCE, 2 CONT; EDGE 1 rising, 2 falling, 3 both; its issuer and the
number of its next record (R324). -/
structure LatchSet where
  mode : BitVec 8
  dio : BitVec 8
  edge : BitVec 8
  shaft : Bool
  src : Option CmdSrc
  lseq : BitVec 16
  deriving DecidableEq, Repr

/-- An edge taken on an armed unit, whose record is not formed yet: its time stamp, edge, target, issuer and number. -/
structure LatchEdge where
  te : Nat
  falling : Bool
  dio : BitVec 8
  shaft : Bool
  src : CmdSrc
  lseq : BitVec 16
  deriving DecidableEq, Repr

/-- A position latch unit: its setting, the one before it, the DT from which the present one applies, and edges taken. -/
structure LatchUnit where
  cur : LatchSet
  old : LatchSet
  since : Nat
  edges : List LatchEdge
  deriving DecidableEq, Repr

/-- A reference point as the axis image holds it (R225, R226): B_n of the frame it serves, position, velocity in Q1.15 of VFS and
acceleration in Q1.15 of AFS. -/
structure RefPoint where
  tick : Nat
  pos : Int
  vel : Int
  acc : Int
  deriving DecidableEq, Repr

/-- Exact fractions, with a denominator above 0. -/
abbrev Frac := Int × Nat

/-- Position, velocity and acceleration of a reference, in counts and seconds. -/
structure Kin where
  pos : Frac
  vel : Frac
  acc : Frac
  deriving DecidableEq, Repr

/-- A segment of constant jerk (R233): its duration in seconds, the acceleration it starts with, and the jerk. -/
structure Seg where
  dur : Frac
  acc : Frac
  jerk : Frac
  deriving DecidableEq, Repr

/-- The profile that a reference follows (R233 to R236, R247): its origin as a whole position (R234), velocity and acceleration at its
start, the DT of the start, its segments; whether it stops beyond the target and returns, and whether the point that carries END has
been computed. -/
structure Plan where
  origin : Int
  vel : Frac
  acc : Frac
  t0 : Nat
  segs : List Seg
  /-- The target of a move that ends at rest there, and the velocity after the last segment. -/
  target : Option Int
  last : Frac
  overshoot : Bool
  ended : Bool
  deriving DecidableEq, Repr

/-- A reference point that has been computed (R225): the axis frame it serves, its position, velocity and acceleration. -/
structure RefMark where
  frame : BitVec 32
  pos : Int
  vel : Frac
  acc : Frac
  deriving DecidableEq, Repr

/-- State of the low-pass of a captured current (R262): its two words, and the outputs of the latest run and of the one before. -/
structure FiltMem where
  s1 : Int
  s2 : Int
  y1 : Int
  y2 : Int
  deriving DecidableEq, Repr

/-- State of a notch filter (R140): inputs and poles of the two runs before. -/
structure NotchMem where
  x1 : Int
  x2 : Int
  w1 : Int
  w2 : Int
  deriving DecidableEq, Repr

/-- A statistics block of an axis (R264): the record it serves, the sums, the grid instants of resistance injection in it, and
whether its interval began at a change of LEVEL. -/
structure StatBlock where
  record : Option Nat
  count : Nat
  iq : Int
  iqSq : Int
  cmd : Int
  meas : Int
  inj : Int
  idSq : Int
  injCount : Nat
  deriving DecidableEq, Repr

/-- A GEAR or CAM in progress (R238, R241): master and slave position at its start boundary, the master in 1/256 count; the
ratio in force before it; the sign of the first motion of the master. -/
structure GearRun where
  m0 : Int
  s0 : Int
  num0 : Int
  den0 : Nat
  dir : Int
  deriving DecidableEq, Repr

/-- What the vendor axis image of an axis keeps between its runs (R131 to R148, R213, R226, R256 to R259, R262 to R264). Currents,
voltages and speeds are in Q1.15, the integrators in Q10.30. -/
structure Loops where
  /-- DT of the sample instants of the latest run and of the one before, and the latest grid instant captured (R262). -/
  runDt : Option Nat
  prevDt : Option Nat
  gridDone : Nat
  /-- Consecutive runs with the conditions of loop faults 1, 2 and 3 (R148). -/
  ocRuns : Nat
  satRuns : Nat
  invRuns : Nat
  /-- The latest reference point, the entry position of a stay in HOLD, and the ramp after two trajectory misses: its start
  velocity and tick (R226). -/
  point : RefPoint
  held : Option Int
  ramp : Option (Int × Nat)
  posErr : Int
  posOut : Int
  /-- POS of the velocity-loop runs, newest first, and the speed estimate (R213). -/
  hist : List (BitVec 48)
  speed : Int
  velInt : Int
  iqRef : Int
  notches : Vector NotchMem 2
  /-- Load-torque observer: in use, its speed and its load estimate (R141). -/
  obOn : Bool
  obSpeed : Int
  obLoad : Int
  dInt : Int
  qInt : Int
  /-- The α/β currents and the electrical angle of the latest run (R136). -/
  alpha : Int
  beta : Int
  elec : Nat
  id : Int
  iq : Int
  vd : Int
  vq : Int
  /-- What the run commits (lib_commit). -/
  out : LatchVals
  /-- Coil currents: tick since which the trajectory velocity has been 0 (R256). -/
  stillFrom : Option Nat
  /-- Stall streak: steps and reference count; the step count of the latest run and the steps since the run before (R257). -/
  streak : Nat
  streakRef : Option Int
  lastStep : BitVec 32
  stepsRun : Nat
  /-- Homing: count at the start of the approach, and the reference count of its stall (R259). -/
  homeFrom : Option Int
  homeStall : Option Int
  /-- HALTED as captured with STEPCAP; the ring takes no entries since a stall (R255, R257). -/
  haltCap : Bool
  stallHold : Bool
  stats : Vector StatBlock 2
  gear : Option GearRun
  /-- The filters of i_d and i_q, the run they have taken last, and the speed estimates of the latest grid instants, newest first
  (R262, R267). -/
  filtD : FiltMem
  filtQ : FiltMem
  filtAt : Option Nat
  speeds : List (Nat × Int)
  deriving DecidableEq, Repr

/-- Motion state of one axis. -/
structure AxMot where
  queue : List QMove
  /-- Reference of the trajectory image: position and velocity (R231, R243). -/
  refPos : Int
  refVel : F32
  /-- The profile that the reference follows, and the distance travelled on it as a two-word float sum (R234); the points computed
  last, newest first; a GEAR or CAM that the loss of the shaft has ended, until its ramp starts (R247). -/
  plan : Option Plan
  dist : F32 × F32
  refs : List RefMark
  losing : Option HostCmd
  /-- A MOVE_LIM and a STEP_CFG that wait in the mailbox (R235, R256), and the limits and settings applied last. -/
  limPend : List MailRec
  lim : Option HostCmd
  stepCfgPend : List MailRec
  stepCfg : Option HostCmd
  trajMiss : Nat
  /-- Step timer (R252, R253): next step instant (none: halted), last entry's interval and fraction, fraction
  accumulator, direction (true: reverse) and RDIDX. -/
  stepNext : Option Nat
  stepInt : Nat
  stepFrac : Nat
  fracAcc : Nat
  stepRev : Bool
  rdIdx : Nat
  latches : Vector LatchUnit 2
  /-- The latest boundary captures, newest first: DT and counter (BDT and BPOS, R250). -/
  caps : List (Nat × BitVec 48)
  loops : Loops
  deriving DecidableEq, Repr

/-- A shaft sample held in the table (R244). -/
structure ShaftSample where
  seq : BitVec 16
  dt : Nat
  pos : Int
  vel : F32
  deriving DecidableEq, Repr

/-- The line shaft (R243 to R247): the newest samples, newest first; samples stored in all, and in a row since a miss; the
DT of the latest sample judged, and the sequence number of the master's next sample. -/
structure Shaft where
  table : List ShaftSample
  stored : Nat
  inRow : Nat
  judged : Nat
  txSeq : BitVec 16
  deriving DecidableEq, Repr

/-! ## Condition monitoring (08_condition.md) -/

/-- Monitoring of one axis (R272, R274): the MON_CFG in force and its issuer, the 8 bearing sums whose mean is BASE, and
the MON_BASELINE commands in progress, each with the sums it has so far. -/
structure AxMon where
  cfg : Option HostCmd
  issuer : Option CmdSrc
  base : List F32
  baselines : List (CmdSrc × List F32)
  /-- DT of the latest change of LEVEL, and of the latest MON_CFG: windows that began before either are abandoned (R266, R272). -/
  levelDt : Nat
  cfgDt : Nat
  /-- Record instant of the latest record (R265). -/
  lastRec : Option Nat
  deriving DecidableEq, Repr

/-! ## Host interface (09_host_rings.md, 10_descriptors.md) -/

/-- A completion entry that waits for its ring (Table 5 of 10_descriptors.md). -/
structure Comp where
  src : CmdSrc
  code : BitVec 8
  reason : BitVec 8
  flags : BitVec 8
  dt : Nat
  data : List Byte
  /-- The entry was reserved at acceptance (R298). -/
  reserved : Bool
  deriving DecidableEq, Repr

/-- An event record that waits for the event ring: type and payload (R325). -/
structure EvRec where
  type : BitVec 16
  payload : List Byte
  deriving DecidableEq, Repr

/-- Device state of one ring (R292 to R297). -/
structure Ring where
  /-- Command rings: the producer index the host rang, the consumer index. Completion and event rings: the consumer
  index the host rang, the device's write index. -/
  hostIdx : BitVec 32
  devIdx : BitVec 32
  phase : Bool
  deriving DecidableEq, Repr

/-- Interrupt state of one MSI-X vector (R306, R307). -/
structure VecState where
  pendingEntries : Nat
  since : Nat
  lastMsg : Option Nat
  deriving DecidableEq, Repr

/-- One host function. -/
structure Func where
  busMaster : Bool
  rings : Vector Ring 6
  comps : List Comp
  evq : List EvRec
  evDropped : Nat
  vecs : Vector VecState 16
  /-- Commands of the function whose final completion is owed (R298). -/
  owed : List CmdSrc
  /-- End of the latest reset: zeroing of staging may end from this tick. -/
  zeroDue : Nat
  /-- Ticks of the descriptor fetches of the latest 10 µs (R302). -/
  fetched : List Nat
  /-- Shadow registers of the function (R211, R330): ANGLE over POS bits 47:32, ZPOS bits 47:32, and DT_HI. -/
  posShadow : BitVec 32
  zposShadow : BitVec 32
  /-- The axis whose LO read filled the first, and the second. -/
  posFrom : Option AxId
  zposFrom : Option AxId
  dtShadow : BitVec 32
  setShadow : BitVec 32
  /-- The completion ring could be written when the latest reset began (R309, R310); a VF that vanishes when it ends. -/
  canWrite : Bool
  vanish : Bool
  deriving DecidableEq, Repr

/-- An accepted command that is not yet delivered (R303): D, and the order of admission. -/
structure Accepted where
  src : CmdSrc
  cmd : HostCmd
  d : Nat
  deriving DecidableEq, Repr

/-- A write that the device makes to host memory: a completion, an event entry, a received frame, an interrupt. -/
inductive HostWrite where
  | completion (fn : FnId) (idx : BitVec 32) (bytes : List Byte)
  | event (fn : FnId) (idx : BitVec 32) (bytes : List Byte)
  | canFrame (fn : FnId) (addr : BitVec 64) (bytes : List Byte)
  | netFrame (fn : FnId) (addr : BitVec 64) (bytes : List Byte)
  | msix (fn : FnId) (vec : Fin 16)
  deriving DecidableEq, Repr

/-- A change of owner whose zeroing is in progress (R289). -/
structure OwnChange where
  res : Res
  to_ : BitVec 4
  due : Nat
  deriving DecidableEq, Repr

/-! ## Time and network (11_time_network.md) -/

/-- A time domain (R332): latest θ in ns, the latest 16 valid samples newest first (DT and θ), consecutive valid samples,
tick of the latest valid one, lost, and whether the device is grandmaster. VALID is in TB_QUAL. -/
structure TimeDom where
  theta : Int
  samples : List (Nat × Int)
  validRun : Nat
  lastTick : Nat
  lost : Bool
  gm : Bool
  deriving DecidableEq, Repr

/-- The time base: integrator of the servo (R334), consecutive samples within STEP_TH (R337), consecutive refusals (R340), the
latest selection was automatic (R336), bound and tick at entry of HOLDOVER (R342), DT at which the TPO pulse falls (R343), and
the value that DT takes in the next tick (R331). State, domain and RATE are in the TB_ registers. -/
structure TimeBase where
  integ : Int
  lockRun : Nat
  refusals : Nat
  selAuto : Bool
  e0 : Nat
  holdSince : Nat
  tpoHigh : Option Nat
  dtSetPend : Option (BitVec 64)
  deriving DecidableEq, Repr

/-- An entry of the address table: address, line port, tick of the latest renewal (R345). -/
structure FdbEntry where
  mac : BitVec 48
  port : PortId
  seen : Nat
  deriving DecidableEq, Repr

/-- An entry of a gate control list: gates and interval in ns (R347). -/
structure GclEntry where
  gates : BitVec 8
  interval : Nat
  deriving DecidableEq, Repr

/-- A gate list in force or committed: enable, entry count, base time and cycle (R347). -/
structure GclSet where
  on : Bool
  len : Nat
  base : Nat
  cycle : Nat
  deriving DecidableEq, Repr

/-- A frame that waits for a line port (R346, R349): its class; the queue and the command that it comes from, none for a forwarded frame;
whether it is a launch-time frame that is late there. -/
structure WaitFrame where
  cls : Nat
  frame : EthFrame
  src : Option (TxqId × CmdSrc)
  late : Bool
  deriving DecidableEq, Repr

/-- A line port: list in force with its entries, the committed set with its change time, and the gates open now with the DT
at which the present entry ends; the tick at which the transmission in progress ends with its inter-frame gap, the tick before which the
latest launch-time frame lets no other SFD follow, and the frames that wait, oldest first. -/
structure LinePort where
  oper : List GclEntry
  operSet : GclSet
  change : Option (Nat × GclSet)
  gates : BitVec 8
  curEnd : Nat
  busy : Nat
  slot : Nat
  wait : List WaitFrame
  deriving DecidableEq, Repr

/-- A port that has sent a frame of a queue: the tick at which the transmission ends, and whether the frame was late there (R350). -/
structure TxSent where
  port : PortId
  ends : Nat
  late : Bool
  deriving DecidableEq, Repr

/-- A frame held by a transmit queue: its command, bytes without FCS and delivery instant D; whether it has joined its class, or has been
handled at its E; the ports it still waits for, and those that have sent it. -/
structure TxFrame where
  src : CmdSrc
  bytes : List Byte
  d : Nat
  joined : Bool
  todo : List PortId
  sent : List TxSent
  deriving DecidableEq, Repr

/-- A transmit queue (R348): frames held, oldest first. -/
structure TxQueue where
  frames : List TxFrame
  deriving DecidableEq, Repr

/-- The receive path to F0 (R353): number of the next frame, and frames dropped since the last one written. -/
structure RxPath where
  seq : BitVec 32
  drops : Nat
  deriving DecidableEq, Repr

/-! ## CAN (12_can.md) -/

/-- A frame in the transmit buffer of a controller: its command, the attempts made, and the tick at which it entered. -/
structure CanTxEnt where
  src : CmdSrc
  frame : CanFrame
  attempts : Nat
  at_ : Nat
  deriving DecidableEq, Repr

/-- A frame in the receive FIFO: DT of its start of frame, index of the deciding filter element, and LOOP (R366 to R368). -/
structure CanRxEnt where
  frame : CanFrame
  dt : Nat
  filt : Nat
  loop : Bool
  deriving DecidableEq, Repr

/-- A CAN controller: mode changes that wait, oldest first (R361); recovery commands in progress and the mode before bus-off
(R370); transmit buffer; a frame that may have been in transmission when its owner was reset (R372), with the tick of the
reset; receive FIFO and drops since the last frame written (R367). -/
structure Can where
  wants : List (CmdSrc × Nat)
  recover : List CmdSrc
  preBusOff : Nat
  txBuf : List CanTxEnt
  orphan : Option (CanFrame × Nat)
  rxFifo : List CanRxEnt
  rxDrops : Nat
  deriving DecidableEq, Repr

/-! ## Field I/O (13_dio.md) -/

/-- A field channel: output image, driven state, accepted input level, comparator level; start of the filter run in
progress and the stamp of the first transition towards the new level (R387, R388); edges in the time-stamp queue with the
tick at which they entered; the driven state at entry into the safe state (R386); the tick at which the command watchdog
expires (R385). -/
structure Dio where
  image : Bool
  driven : Bool
  level : Bool
  comp : Bool
  runFrom : Option Nat
  stamp : Option Nat
  stamps : List (Nat × Bool)
  hold : Bool
  cmdDue : Option Nat
  deriving DecidableEq, Repr

/-- What the field I/O die holds for all channels: link timeout in force and tick of the latest refresh (R385, R386), the
sum of the output currents in mA and the tick since which it has been above 12 A (R383), UV and shedding (R390). -/
structure FieldIo where
  linkTo : Bool
  lastRefresh : Nat
  total : Nat
  overSince : Option Nat
  uv : Bool
  shed : Bool
  deriving DecidableEq, Repr

/-! ## Safety (14_safety.md) -/

/-- A safe input pair (R397 to R399, R406): filtered levels of SIkA and SIkB; start of a discrepancy; the pair fault with its
cause, and whether both channels have seen the demand state since; for a reset button, the tick since which both channels
have seen it pressed, and a reset recognised for the next cycle. -/
structure SafeIn where
  a : Bool
  b : Bool
  discSince : Option Nat
  fault : Bool
  cause : Nat
  sawDemand : Bool
  press : Option Nat
  resetEv : Bool
  deriving DecidableEq, Repr

/-- State of a safety group, coded as SAF_GRP.STATE (R400). -/
inductive SafState where
  | none | ss1 | ssh | sshWait
  deriving DecidableEq, Repr

/-- A safety group: state; tick of SLS activation and latched violation (R405); decision tick of SS1 and the speeds of each axis
then, SCA's before SCB's, as counts and window in ns (R403); tick since which all axes have stood still; the judgements of the latest cycle, which
the next one acts on (R404): axes above SLS_LIM, axes above v_lim, and standstill of all axes. -/
structure SafGroup where
  st : SafState
  slsSince : Option Nat
  slsViol : Bool
  ss1From : Nat
  v0 : List (AxId × Nat × Nat)
  standSince : Option Nat
  overSls : BitVec 48
  overRamp : BitVec 48
  still : Bool
  deriving DecidableEq, Repr

/-- The safety subsystem: pairs, groups; inbound connection with LAST, its watchdog, an expiry not judged yet, the PDU last
read, a candidate of the DOWN state with the tick at which it was read, PERMIT, SLS and ACK of the latest accepted PDU and the
rising ACK bits of this cycle (R412 to R415); next outbound PDU (R416); active and staged parameter set, the copies in flash,
the confirmation record and the Plinth's value (R419, R420), the SAFE_CONFIRM commands whose record is to be written, with their
values; the latest samples of both counters of every axis, newest first with their tick, and the cycles for which a Hall code has been invalid (R404); tick of the next
cycle. -/
structure Safety where
  ins : Vector SafeIn 4
  groups : Vector SafGroup 8
  connUp : Bool
  lastSeq : BitVec 16
  wdDue : Nat
  wdHit : Bool
  inbound : Pdu
  downCand : Option (BitVec 16 × Nat)
  lastCmd : List Byte
  ackEdge : BitVec 8
  outSeq : BitVec 16
  nextOut : Nat
  params : List Byte
  staged : List Byte
  copies : Vector (Option (List Byte)) 2
  confStored : Option (BitVec 32)
  confPlinth : Option (BitVec 32)
  confWrite : List (CmdSrc × BitVec 32)
  hist : List (Nat × List (BitVec 32 × BitVec 32))
  badHall : List Nat
  cycleNext : Nat
  /-- The demand lines SAF_A and SAF_B of every axis (R394), and the ticks at which the latest test pulses of TP0 to TP3 began (R398). -/
  lineA : BitVec 48
  lineB : BitVec 48
  tpFrom : Vector (Option Nat) 4
  deriving DecidableEq, Repr

/-! ## Fail-over and profiles (15_failover.md) -/

structure AxFo where
  /-- Highest claim the axis has had since it left OFF (R431). -/
  topClaim : Nat
  /-- Tick of the declaration whose take-over is in progress, the failed engine, and the candidate with its order and the
  tick from which it may start (R432, Table 5). -/
  failedAt : Option Nat
  failedEng : Option EngId
  candidate : Option (EngId × Nat)
  candDue : Nat
  /-- The new engine serves; its first commit has not been applied yet: order of Table 4, or 6. -/
  incomplete : Option Nat
  /-- Decision tick of the latest take-over (R434). -/
  lastTakeover : Option Nat
  /-- End tick of the window of R42, and whether a miss after it raises the demand. -/
  winEnd : Option Nat
  /-- Arbiter stop: duty at its start, start tick (R439). -/
  arbStop : Option (Nat × Nat)
  /-- Engineless: ENG_LOSS raised, waiting for an engine (R440). -/
  engineless : Bool
  /-- Coast-through runs (R179). -/
  coast : Bool
  deriving DecidableEq, Repr

/-- What an intact profile copy holds (R442, Table 7): GEN and the body. -/
structure ProfCopy where
  gen : Nat
  body : List Byte
  deriving DecidableEq, Repr

/-- What a profile load waits for before its next record (R456). -/
inductive LoadWait where
  | carriersStop | nothing | alloc | carrier (b : BankId)
  deriving DecidableEq, Repr

/-- A profile load in progress (R456): its command (none: at boot), the profile, the records left with their indices, and
what the next one waits for. -/
structure Load where
  src : Option CmdSrc
  p : Fin 4
  recs : List (Nat × Nat × List Byte)
  wait : LoadWait
  deriving DecidableEq, Repr

/-- A profile store in progress (R443): the profile, what is written, and the number of the copy being written. -/
structure Store where
  p : Fin 4
  new : ProfCopy
  copy : Nat
  deriving DecidableEq, Repr

/-- The profiles in flash, three copies of 32 + LEN bytes each (R442), the profile last loaded, a rewrite in progress (R444), a store in progress (R443) and
a load in progress. -/
structure Profiles where
  copies : Vector (Vector (List Byte) 3) 4
  loaded : Option (Fin 4)
  rewrite : Option (Fin 4 × ProfCopy)
  storing : Option Store
  loading : Option Load
  /-- Loads delivered while one is in progress, oldest first. -/
  queued : List (CmdSrc × Fin 4)
  deriving DecidableEq, Repr

/-! ## Power, reset, boot and the Plinth (16_power_reset.md) -/

/-- What the device as a whole does: power-on reset asserted, a warm reset, booting, BOOT_FAIL, running, POWER_DOWN. -/
inductive RunPhase where
  | porHeld | warmReset | booting | bootFail | ready | powerDown
  deriving DecidableEq, Repr

/-- An entry of the fault log (R467). -/
structure FlogEnt where
  code : Nat
  src : Nat
  dt : Nat
  data : Nat
  deriving DecidableEq, Repr

/-- An entry of the owed list (R465): the command, whether its delivery instant had passed, DT of the commit, reset cause;
its POWER_LOST completion waits for the ring. -/
structure OwedEnt where
  src : CmdSrc
  delivered : Bool
  dt : Nat
  cause : Nat
  queued : Bool
  deriving DecidableEq, Repr

/-- An image slot of the flash (R454, R455): its bytes, its write has finished, and what the KEY and SIG checks find. -/
structure Slot where
  img : Mem
  whole : Bool
  keyOk : Bool
  sigOk : Bool
  deriving DecidableEq, Repr

/-- What the NVM logic is busy with, for a slot. -/
inductive NvmOp where
  | erase (slot : Fin 2)
  | program (slot : Fin 2) (chunk : Nat)
  | check (slot : Fin 2)
  deriving DecidableEq, Repr

/-- Supplies, Plinth and flash: phase and the tick at which it began; the commit image (R462): valid, finished, positions,
stepper axes with AX_STEPCNT and POS_UNK, and DT; accepted commands whose final completion has not been sent, in order of
acceptance, and the owed list (R465); the fault log of the Plinth and of the flash, newest first, and the entries that wait to
be copied, oldest first; the two image slots, the NVM operation in progress and the slot last begun; the slot booted; VAUX in mV as last told, and the tick
since which it has held at 8.0 V while the Plinth runs from VBAK (R459); the tick of the latest VBAK test. The profile last loaded is in `State.prof`, the charger profile in PWR_BAK. -/
structure Power where
  phase : RunPhase
  since : Nat
  commitOk : Bool
  commitDone : Bool
  comPos : List (BitVec 48)
  comSteps : List (AxId × Word × Bool)
  comDt : Nat
  order : List CmdSrc
  owed : List OwedEnt
  flogPlinth : List FlogEnt
  flogFlash : List FlogEnt
  flogWait : List FlogEnt
  slots : Vector Slot 2
  nvmOp : Option NvmOp
  nvmBegun : Option (Fin 2)
  bootSlot : Option (Fin 2)
  /-- Power-fail was detected on VCORE. -/
  pfVcore : Bool
  vaux : Nat
  vauxFrom : Option Nat
  vbakAt : Nat
  deriving DecidableEq, Repr

/-- Motor hot-plug of an axis (R468, R469): end of the retry timer; identification waits for WC_ACTIVE, or runs since a tick;
it has passed and the axis enters IDLE at its next B_n. -/
structure Plug where
  retryDue : Option Nat
  waiting : Bool
  identFrom : Option Nat
  passed : Bool
  /-- Current-loop frames in a row that looked like a lost motor (R468). -/
  lowRuns : Nat
  deriving DecidableEq, Repr

/-! ## Thermal and fans (17_thermal.md) -/

/-- A fan channel: end of the present phase of a start, or of the pause before a retry (R479); ticks of the latest tach pulse;
switch current in mA as last measured. State, KICKS and RPM are in the THM_FANf registers. -/
structure Fan where
  due : Nat
  lastPulse : Nat
  cur : Nat
  /-- Tick since which the switch is on at a duty above 0 (R478). -/
  dutyFrom : Option Nat
  deriving DecidableEq, Repr

/-- Thermal supervision (R472 to R476): the readings of the eight sensors and Tj in 0.1 °C, the tick of the next evaluation,
the derating condition (set at D_TH, cleared 5 °C below) with the ticks since which Tj has been at or above D_TH, and at or
below D_TH − 5 °C, and the shutdown. LEVEL is in THM_STAT. -/
structure Thermal where
  readings : List Int
  tj : Int
  evalNext : Nat
  derate : Bool
  upSince : Option Nat
  downSince : Option Nat
  shutdown : Bool
  fans : Vector Fan 2
  deriving DecidableEq, Repr

/-! ## The block -/

/-- The image store: the admitted image of an axis, and of a group engine (R433). -/
structure ImageStore where
  axis : List (Nat × List Byte)
  group : List (Nat × List Byte)
  deriving DecidableEq, Repr

structure State where
  pending : List Instr
  /-- Ticks since power-on (R18), device time in ns, and the model's counter of free values (DESIGN CHOICE). -/
  tick : Nat
  dt : BitVec 64
  free : Nat
  regs : Sparse Word
  /-- Write-1-to-clear flags that hardware has set in the present tick: address and bits (R9). -/
  hwSet : List (Nat × Word)
  /-- Registers that a host write has reached in the present tick and hardware may update (R494). -/
  hostSet : List Nat
  /-- FB registers: the word in force where it differs from the word written (R10), and the writes pending. -/
  force : Sparse Word
  fbPend : List FbWrite
  /-- Words returned by the last coherent read (R211, R330). -/
  lastRead : List Word
  shmem : Mem
  /-- The arbiter of shared memory (R21): the engine granted last, and the host's window writes that wait behind the engines. -/
  arbLast : EngId
  hostWin : List (Nat × List Byte)
  engines : Vector Engine 64
  axes : Vector Axis 48
  banks : Vector Bank 6
  fb : Vector AxFb 48
  po : Vector PulseRep 6
  mot : Vector AxMot 48
  shaft : Shaft
  mon : Vector AxMon 48
  funcs : Vector Func 8
  accepted : List Accepted
  hostOut : List HostWrite
  /-- The function served last by the descriptor fetch (R302). -/
  fetchLast : FnId
  ownChanges : List OwnChange
  doms : Vector TimeDom 2
  time : TimeBase
  fdb : List FdbEntry
  ports : Vector LinePort 2
  txqs : Vector TxQueue 16
  rx : RxPath
  wireOut : List (PortId × EthFrame)
  cans : Vector Can 4
  dios : Vector Dio 48
  dio : FieldIo
  saf : Safety
  fo : Vector AxFo 48
  prof : Profiles
  store : ImageStore
  pwr : Power
  plugs : Vector Plug 48
  thm : Thermal
  deriving DecidableEq, Repr

/-! ## Outcomes -/

/-- Why the block stops with a fault. -/
inductive Fault where
  /-- Raised by a command whose operand is no value that the outside world can send: a descriptor that is not 64 bytes,
  an Ethernet frame outside its size limits. Safe: nothing that hardware does is left out. -/
  | malformed
  deriving DecidableEq, Repr

/-- Why a command has no outcome. -/
inductive Refusal where
  /-- Raised by an arm of `exec` whose command has no meaning in the model. Safe. -/
  | notModelled (mnemonic : String)
  deriving DecidableEq, Repr

/-! ## Reset (R84, R437, R487 and the reset columns) -/

def EngBank.zero : EngBank :=
  { h := Vector.replicate 16 0, a := Vector.replicate 4 0, f := Vector.replicate 16 0, p := Vector.replicate 8 0, sw := 0 }

def PortBlock.zero : PortBlock :=
  { evKind := .sample, evSrc := 0, seq := 0, frame := 0, dt := 0, adc := Vector.replicate 16 0, pos := 0, angle := 0, vms := 0 }

/-- The latch as if leg mode OFF had been released (R39). -/
def LatchVals.off : LatchVals := { cu := 0, cv := 0, cw := 0, mode := 0x600 }
def LatchVals.zero : LatchVals := { cu := 0, cv := 0, cw := 0, mode := 0 }

/-- A zeroed engine with the default plan's axis, owner and pace (R84, 02_engines.md "Allocation and plans"). -/
def Engine.zeroed (axis : AxId) (owner : FnId) (grpBank : BankId) (grpDiv : Nat) : Engine :=
  { bank0 := .zero, bank1 := .zero, cb := Vector.replicate 8 0, cl := Vector.replicate 8 0, smpg := 0, axsel := 0,
    pc := 0, retPc := 0, imem := [], dmem := [], badI := [], badD := [], step := 0, flights := [], rpt := none,
    long := none, handler := none, used := 0, pend := [], faultSrc := 0, port := .zero, image := none, axis := axis,
    owner := owner, grpBank := grpBank, grpDiv := grpDiv, prep := none, prepDue := 0, copyImg := [],
    wantStart := none, meterFrom := none, staged := .zero, lastPass := none, missedHb := 0, declared := false,
    faultTick := 0, hbSeq := none, hbGuest := none, relOpen := false, hostDue := false, oldClaim := 0, guest := none, guestClaim := 0, onGuest := false, pendGuest := [], chained := false, byApply := false, repairing := false, held := 0, waitPc := none,
    raised := [], heldSrc := none, runFrom := 0, castRun := none }

def LegHw.reset : LegHw :=
  { high := false, low := false, dead := none, dtTimeouts := 0, chargeUntil := 0, bootUv := false, highFrames := 0,
    lowSince := 0, slopeSince := none, shorten := 0, dropped := none }

def Demands.none : Demands :=
  { desat := false, desatLive := false, hoc := false, hocLive := false, safety := false, dlmiss := false,
    engLoss := false }

def Axis.reset : Axis :=
  { frameTick := 0, frameNo := 0, framed := false, nextB := none, seq := 0, sample := none, sampledAt := none, sampleTick := 0, due := [], commits := [],
    released := .off, prevReleased := .off, relTick := 0, misses := 0, hbMiss := 0, stop := none, speedRef := 0, integZero := true, entryTick := 0, ofsCount := 0, ofsCodes := [], ofsPend := none,
    idleFrames := 0, coef := [], coefPend := [], mail := [], mailIdx := 0, mailOther := [], safeReq := none, absentReq := false, stopReq := none, stopFrom := 0, demands := .none,
    lastAct := none, imposed := false, startOff := false, fltCut := false, cbcCut := false, legs := Vector.replicate 3 .reset,
    armed := false, blankUntil := 0, hallCode := 0, hallAt := 0, hallSector := 0, hallValid := false, win := [(0xF46, 0x10)] }

def Bank.reset : Bank :=
  { carrier := .stopped, firstTick := 0, frameTick := 0, frameNo := 0, period := 12500, edge := false, ilv := 1, half := false,
    everStarted := false, vgdUv := false, vgd := 1200, vm := 0, l1 := false, brk := false, brkSince := 0, brkLock := false,
    vmL2 := false, fltActive := false, fltFrame := false, steps := 0, transit := false }

def AxFb.reset : AxFb :=
  { pos := 0, zpos := 0, prevIndex := none, pins := 0, pa := false, pb := false, lastEdge := none, lastEdgeP := none,
    dir := none, dirP := none, quadCount := 0, qcHist := [], scOfs := 0, ampBad := 0, trackBad := 0, scOk := false,
    sin := 0, cos := 0, ssiLast := none, ssiDelta := 0, ssiExtra := 0, ssiErr := 0, ssiBusy := none, gained := 0,
    preload := none, sca := 0, scb := 0, scaIll := 0, scbIll := 0, scSector := none, pinSince := 0,
    scaPins := 0, scaSector := none, scLast := none }

def PulseRep.reset : PulseRep := { acc := 0, backlog := 0, phase := 0, dirRev := false, lastOut := none, since := 0, dirAt := none }

def LatchSet.off : LatchSet := { mode := 0, dio := 0, edge := 0, shaft := false, src := none, lseq := 0 }
def LatchUnit.reset : LatchUnit := { cur := .off, old := .off, since := 0, edges := [] }

def FiltMem.zero : FiltMem := { s1 := 0, s2 := 0, y1 := 0, y2 := 0 }
def NotchMem.zero : NotchMem := { x1 := 0, x2 := 0, w1 := 0, w2 := 0 }
def StatBlock.zero : StatBlock :=
  { record := none, count := 0, iq := 0, iqSq := 0, cmd := 0, meas := 0, inj := 0, idSq := 0, injCount := 0 }

/-- A fresh start of the vendor axis image (R427): everything at zero. -/
def Loops.zero : Loops :=
  { runDt := none, prevDt := none, gridDone := 0, ocRuns := 0, satRuns := 0, invRuns := 0,
    point := { tick := 0, pos := 0, vel := 0, acc := 0 }, held := none, ramp := none, posErr := 0, posOut := 0, hist := [],
    speed := 0, velInt := 0, iqRef := 0, notches := Vector.replicate 2 .zero, obOn := false, obSpeed := 0, obLoad := 0,
    dInt := 0, qInt := 0, alpha := 0, beta := 0, elec := 0, id := 0, iq := 0, vd := 0, vq := 0, out := .zero,
    stillFrom := none, streak := 0, streakRef := none, lastStep := 0, stepsRun := 0, homeFrom := none, homeStall := none,
    haltCap := true, stallHold := false, stats := Vector.replicate 2 .zero, gear := none, filtD := .zero, filtQ := .zero,
    filtAt := none, speeds := [] }

def AxMot.reset : AxMot :=
  { queue := [], refPos := 0, refVel := 0, plan := none, dist := (0, 0), refs := [], losing := none, limPend := [], lim := none, stepCfgPend := [], stepCfg := none,
    trajMiss := 0, stepNext := none, stepInt := 25, stepFrac := 0, fracAcc := 0, stepRev := false, rdIdx := 0,
    latches := Vector.replicate 2 .reset, caps := [], loops := .zero }

def AxMon.reset : AxMon := { cfg := none, issuer := none, base := [], baselines := [], levelDt := 0, cfgDt := 0, lastRec := none }

def Ring.reset : Ring := { hostIdx := 0, devIdx := 0, phase := true }
def VecState.reset : VecState := { pendingEntries := 0, since := 0, lastMsg := none }

def Func.reset : Func :=
  { busMaster := false, rings := Vector.replicate 6 .reset, comps := [], evq := [], evDropped := 0,
    vecs := Vector.replicate 16 .reset, owed := [], zeroDue := 0, fetched := [], posShadow := 0,
    zposShadow := 0, posFrom := none, zposFrom := none, dtShadow := 0, setShadow := 0, canWrite := false, vanish := false }

def TimeDom.reset : TimeDom :=
  { theta := 0, samples := [], validRun := 0, lastTick := 0, lost := false, gm := false }
def TimeBase.reset : TimeBase :=
  { integ := 0, lockRun := 0, refusals := 0, selAuto := false, e0 := 0, holdSince := 0, tpoHigh := none,
    dtSetPend := none }
def GclSet.off : GclSet := { on := false, len := 1, base := 0, cycle := 1000000 }
def LinePort.reset : LinePort :=
  { oper := [], operSet := .off, change := none, gates := 0xFF, curEnd := 0, busy := 0, slot := 0, wait := [] }
def TxQueue.reset : TxQueue := { frames := [] }
def RxPath.reset : RxPath := { seq := 0, drops := 0 }
def Can.reset : Can :=
  { wants := [], recover := [], preBusOff := 0, txBuf := [], orphan := none, rxFifo := [], rxDrops := 0 }
def Dio.reset : Dio :=
  { image := false, driven := false, level := false, comp := false, runFrom := none, stamp := none, stamps := [],
    hold := false, cmdDue := none }
def FieldIo.reset : FieldIo :=
  { linkTo := false, lastRefresh := 0, total := 0, overSince := none, uv := false, shed := false }
def SafeIn.reset : SafeIn :=
  { a := false, b := false, discSince := none, fault := false, cause := 0, sawDemand := false, press := none,
    resetEv := false }
def SafGroup.reset : SafGroup :=
  { st := .ssh, slsSince := none, slsViol := false, ss1From := 0, v0 := [], standSince := none, overSls := 0, overRamp := 0,
    still := false }
def Safety.reset : Safety :=
  { ins := Vector.replicate 4 .reset, groups := Vector.replicate 8 .reset, connUp := false, lastSeq := 0, wdDue := 0,
    wdHit := false, inbound := [], downCand := none, lastCmd := [], ackEdge := 0, outSeq := 0, nextOut := 0, params := [],
    staged := [], copies := Vector.replicate 2 none, confStored := none, confPlinth := none, confWrite := [],
    hist := [], badHall := [], cycleNext := 0,
    lineA := 0, lineB := 0, tpFrom := Vector.replicate 4 none }
def AxFo.reset : AxFo :=
  { topClaim := 0, failedAt := none, failedEng := none, candidate := none, candDue := 0, incomplete := none,
    lastTakeover := none, winEnd := none, arbStop := none, engineless := false, coast := false }
def Profiles.reset : Profiles :=
  { copies := Vector.replicate 4 (Vector.replicate 3 []), loaded := none, rewrite := none, storing := none, loading := none, queued := [] }
/-- An erased slot, and the slot that State.reset holds: a valid image of version 0 (DESIGN CHOICE: the flash contents are no
reset value of the spec). -/
def Slot.empty : Slot := { img := [], whole := false, keyOk := false, sigOk := false }
def Slot.factory : Slot :=
  { img := [(0, 0x41), (1, 0x51), (2, 0x42), (3, 0x49), (8, 1)], whole := true, keyOk := true, sigOk := true }
def Power.reset : Power :=
  { phase := .booting, since := 0, commitOk := false, commitDone := false, comPos := [], comSteps := [], comDt := 0,
    order := [], owed := [], flogPlinth := [], flogFlash := [], flogWait := [], slots := #v[.factory, .empty],
    nvmOp := none, nvmBegun := none, bootSlot := none, pfVcore := false, vaux := 24000, vauxFrom := none, vbakAt := 0 }
def Plug.reset : Plug := { retryDue := none, waiting := false, identFrom := none, passed := false, lowRuns := 0 }
def Fan.reset : Fan := { due := 0, lastPulse := 0, cur := 0, dutyFrom := none }
def Thermal.reset : Thermal :=
  { readings := [], tj := 0, evalNext := 0, derate := false, upSince := none, downSince := none, shutdown := false,
    fans := Vector.replicate 2 .reset }

/-- The block right after power-on reset has been released: every register at its reset word, the default engine plan,
nothing in flight, an empty command queue. -/
def State.reset : State :=
  { pending := [], tick := 0, dt := 0, free := 0, regs := [], hwSet := [], hostSet := [], force := [], fbPend := [], lastRead := [], shmem := [], arbLast := 63, hostWin := [],
    engines := Vector.ofFn fun m : EngId => Engine.zeroed (if h : m.val < 48 then ⟨m.val, h⟩ else 0) 0 0 1,
    axes := Vector.replicate 48 .reset, banks := Vector.replicate 6 .reset, fb := Vector.replicate 48 .reset,
    po := Vector.replicate 6 .reset, mot := Vector.replicate 48 .reset,
    shaft := { table := [], stored := 0, inRow := 0, judged := 0, txSeq := 0 }, mon := Vector.replicate 48 .reset,
    funcs := Vector.replicate 8 .reset, accepted := [], hostOut := [], fetchLast := 7, ownChanges := [],
    doms := Vector.replicate 2 .reset, time := .reset, fdb := [], ports := Vector.replicate 2 .reset,
    txqs := Vector.replicate 16 .reset, rx := .reset, wireOut := [], cans := Vector.replicate 4 .reset,
    dios := Vector.replicate 48 .reset, dio := .reset, saf := .reset, fo := Vector.replicate 48 .reset,
    prof := .reset, store := { axis := [], group := [] }, pwr := .reset, plugs := Vector.replicate 48 .reset,
    thm := .reset }

end Sys2Proof.Machine
end

