-- ==== Sys2Proof/Machine/Ops.lean ====
section
/-! DEFINITION. The named operations over State: registers and their fields, engines, axes and banks, memory, completions
and event records. Every read or write of a register goes through here. -/

namespace Sys2Proof.Machine

/-- The outcome type of every meaning. -/
abbrev Out := Host.Outcome State Fault Refusal

/-! ## Registers -/

/-- The word of a register as software last wrote it or hardware set it (R487). -/
def State.word (s : State) (r : Reg) (i : Nat := 0) (j : Nat := 0) : Word :=
  Sparse.get Reg.resetAt s.regs (r.addr i j)

def State.setWord (s : State) (r : Reg) (i j : Nat) (w : Word) : State :=
  { s with regs := Sparse.put Reg.resetAt s.regs (r.addr i j) w }

/-- The bits of a field in a word (R3). -/
def Fld.get (f : Fld) (w : Word) : Nat := (w.extractLsb' f.lsb f.width).toNat

/-- A word with one field replaced by the low bits of `v`. -/
def Fld.ins (f : Fld) (w : Word) (v : Nat) : Word :=
  let mask : Word := (BitVec.allOnes f.width).setWidth 32 <<< f.lsb
  (w &&& ~~~mask) ||| ((BitVec.ofNat f.width v).setWidth 32 <<< f.lsb)

/-- A field of instance `i`, `j` of its register. -/
def State.fld (s : State) (f : Fld) (i : Nat := 0) (j : Nat := 0) : Nat := f.get (s.word f.reg i j)

def State.setFld (s : State) (f : Fld) (i : Nat) (v : Nat) (j : Nat := 0) : State :=
  s.setWord f.reg i j (f.ins (s.word f.reg i j) v)

/-- A one-bit field as a Bool. -/
def State.bit (s : State) (f : Fld) (i : Nat := 0) (j : Nat := 0) : Bool := s.fld f i j == 1

/-- All bits of a field. -/
def Fld.mask (f : Fld) : Word := f.ins 0 (2 ^ f.width - 1)

/-- The field is a flag that software clears by writing 1 to it (R7). -/
def Fld.isFlag (f : Fld) : Bool := f.acc == .w1c || f.acc == .rwsClear

/-- Set or clear a one-bit field. A flag that hardware sets is noted for the rest of the tick (R9). -/
def State.setBit (s : State) (f : Fld) (i : Nat) (b : Bool) : State :=
  { s.setFld f i (if b then 1 else 0) with
    hwSet := if b && f.isFlag then (f.reg.addr i, f.mask) :: s.hwSet else s.hwSet }

/-- The flags of the register at an address that hardware has set in the present tick. -/
def State.hwBits (s : State) (a : Nat) : Word := s.hwSet.foldl (fun m e => if e.1 = a then m ||| e.2 else m) 0

/-- Hardware updates an RW field: a host write that has reached the register in the same tick stands (R494). -/
def State.hwPut (s : State) (f : Fld) (i v : Nat) : State :=
  if s.hostSet.contains (f.reg.addr i) then s else s.setFld f i v

/-- Count one up in a field, saturating at its largest value. -/
def State.countSat (s : State) (f : Fld) (i : Nat) : State :=
  s.setFld f i (Nat.min (s.fld f i + 1) (2 ^ f.width - 1))

/-- The value in force of an FB field (R10). -/
def State.inForce (s : State) (f : Fld) (i : Nat := 0) : Nat :=
  f.get (Sparse.get Reg.resetAt s.force (f.reg.addr i))

/-! ## Who may write set-up registers (R483, R486, R489) -/

/-- Every leg is held OFF, and no register outside the PWR_ and NVM_ blocks responds: in a reset, in POWER_DOWN and in BOOT_FAIL
(R452, R454, R462). -/
def State.legsHeld (s : State) : Bool :=
  match s.pwr.phase with
  | .booting => false
  | .ready => false
  | _ => true

/-- The device runs or boots: a warm reset may be requested, and the PWR_ and NVM_ registers respond. -/
def State.awake (s : State) : Bool :=
  match s.pwr.phase with
  | .booting => true
  | .bootFail => true
  | .ready => true
  | _ => false

/-- A command of the host interface that reaches the device only while its registers respond. -/
def State.whenUp (s : State) (f : State → State) : State := if s.legsHeld then s else f s

/-- A write to a set-up register outside the PWR_, NVM_ and function blocks: nothing outside its function block is visible
to a VF (R486); while READY is 0 or LOADING is 1, an F0 write is ignored and sets WR_REJ (R489). -/
def State.setupGate (s : State) (fn : FnId) (f : State → State) : State :=
  if fn ≠ 0 ∨ s.legsHeld then s
  else if !s.bit Fld.GLB_STAT_READY || s.bit Fld.GLB_STAT_LOADING then s.setBit Fld.GLB_STAT_WR_REJ 0 true
  else f s

/-! ## Parts of State -/

def State.eng (s : State) (e : EngId) : Engine := s.engines[e]
def State.setEng (s : State) (e : EngId) (x : Engine) : State := { s with engines := s.engines.set e.val x e.isLt }
def State.ax (s : State) (n : AxId) : Axis := s.axes[n]
def State.setAx (s : State) (n : AxId) (x : Axis) : State := { s with axes := s.axes.set n.val x n.isLt }
def State.bnk (s : State) (b : BankId) : Bank := s.banks[b]
def State.setBnk (s : State) (b : BankId) (x : Bank) : State := { s with banks := s.banks.set b.val x b.isLt }
def State.fn (s : State) (f : FnId) : Func := s.funcs[f]
def State.setFn (s : State) (f : FnId) (x : Func) : State := { s with funcs := s.funcs.set f.val x f.isLt }
def State.fbk (s : State) (n : AxId) : AxFb := s.fb[n]
def State.setFbk (s : State) (n : AxId) (x : AxFb) : State := { s with fb := s.fb.set n.val x n.isLt }
def State.motion (s : State) (n : AxId) : AxMot := s.mot[n]
def State.setMotion (s : State) (n : AxId) (x : AxMot) : State := { s with mot := s.mot.set n.val x n.isLt }
def State.moni (s : State) (n : AxId) : AxMon := s.mon[n]
def State.setMoni (s : State) (n : AxId) (x : AxMon) : State := { s with mon := s.mon.set n.val x n.isLt }
def State.failover (s : State) (n : AxId) : AxFo := s.fo[n]
def State.setFailover (s : State) (n : AxId) (x : AxFo) : State := { s with fo := s.fo.set n.val x n.isLt }
def State.plug (s : State) (n : AxId) : Plug := s.plugs[n]
def State.setPlug (s : State) (n : AxId) (x : Plug) : State := { s with plugs := s.plugs.set n.val x n.isLt }
def State.rep (s : State) (k : PoId) : PulseRep := s.po[k]
def State.setRep (s : State) (k : PoId) (x : PulseRep) : State := { s with po := s.po.set k.val x k.isLt }
def State.can (s : State) (c : CanId) : Can := s.cans[c]
def State.setCan (s : State) (c : CanId) (x : Can) : State := { s with cans := s.cans.set c.val x c.isLt }
def State.chan (s : State) (d : DioId) : Dio := s.dios[d]
def State.setChan (s : State) (d : DioId) (x : Dio) : State := { s with dios := s.dios.set d.val x d.isLt }
def State.port (s : State) (p : PortId) : LinePort := s.ports[p]
def State.setPort (s : State) (p : PortId) (x : LinePort) : State := { s with ports := s.ports.set p.val x p.isLt }
def State.txq (s : State) (q : TxqId) : TxQueue := s.txqs[q]
def State.setTxq (s : State) (q : TxqId) (x : TxQueue) : State := { s with txqs := s.txqs.set q.val x q.isLt }
def State.dom (s : State) (d : Fin 2) : TimeDom := s.doms[d]
def State.setDom (s : State) (d : Fin 2) (x : TimeDom) : State := { s with doms := s.doms.set d.val x d.isLt }

/-- All indices 0 to n − 1, in rising order. -/
def allFin (n : Nat) : List (Fin n) := List.finRange n

/-- Run an operation over a list of indices, in order. -/
def forAll {α : Type} (l : List α) (f : State → α → State) (s : State) : State := l.foldl f s

/-! ## Axis states (04_axis_control.md) -/

/-- AX_STATE.STATE (Table 10). -/
inductive AxState where
  | off | idle | hold | run | stopping | safe | absent
  deriving DecidableEq, Repr

def AxState.code : AxState → Nat
  | .off => 0 | .idle => 1 | .hold => 2 | .run => 3 | .stopping => 4 | .safe => 5 | .absent => 6

def AxState.ofCode : Nat → AxState
  | 0 => .off | 1 => .idle | 2 => .hold | 3 => .run | 4 => .stopping | 5 => .safe | _ => .absent

def State.axState (s : State) (n : AxId) : AxState := AxState.ofCode (s.fld Fld.AX_STATE_STATE n.val)

/-- The time of day of a record: DT as a number. -/
def State.now (s : State) : Nat := s.dt.toNat

/-- A tick with its DT from which later ones count: this tick, or the next one where a set taken in this tick governs it
(R331). -/
def State.dtBase (s : State) : Nat × Nat :=
  match s.time.dtSetPend with
  | some v => (s.tick + 1, v.toNat)
  | none => (s.tick, s.now)

/-- DT at a tick that has passed. -/
def State.dtAt (s : State) (t : Nat) : Nat := s.now - 4 * (s.tick - t)

/-! ## Bytes -/

/-- The low `n` bytes of `v`, little-endian (R312). -/
def leBytes : Nat → Nat → List Byte
  | 0, _ => []
  | n + 1, v => BitVec.ofNat 8 v :: leBytes n (v / 256)

/-- The number that a little-endian list of bytes spells. -/
def leNat : List Byte → Nat
  | [] => 0
  | b :: t => b.toNat + 256 * leNat t

/-- `n` bytes of a list from offset `o`, zero past its end. -/
def slice (l : List Byte) (o n : Nat) : List Byte := (List.range n).map fun i => l.getD (o + i) 0

/-- The number in `n` bytes from offset `o`. -/
def leAt (l : List Byte) (o n : Nat) : Nat := leNat (slice l o n)

/-- Pad with zeros, or cut, to `n` bytes. -/
def padTo (n : Nat) (l : List Byte) : List Byte := slice l 0 n

/-- The bytes of a signed value in two's complement. -/
def leInt (n : Nat) (v : Int) : List Byte := leBytes n (v % (2 ^ (8 * n) : Int)).toNat

/-! ## Fault log (16_power_reset.md R467) -/

/-- Word `j` of a log entry: u64 DT, u16 CODE, u16 SRC, u32 DETAIL. -/
def FlogEnt.words (e : FlogEnt) : List Word :=
  [BitVec.ofNat 32 e.dt, BitVec.ofNat 32 (e.dt / 2 ^ 32), BitVec.ofNat 32 (e.code % 65536 + e.src % 65536 * 65536),
   BitVec.ofNat 32 e.data]

/-- PWR_LOG shows the Plinth log, newest first. -/
def State.showLog (s : State) : State :=
  (s.pwr.flogPlinth.take 64).zipIdx.foldl (fun (s : State) (e, i) =>
    e.words.zipIdx.foldl (fun (s : State) (w, j) => s.setWord .PWR_LOG i j w) s) s

/-- One entry of the Plinth log, a ring of the last 64 (Table 6 of 16_power_reset.md). -/
def State.logFault (s : State) (code src detail : Nat) : State :=
  let e : FlogEnt := { code := code, src := src, dt := s.now, data := detail }
  ({ s with pwr := { s.pwr with flogPlinth := (e :: s.pwr.flogPlinth).take 64, flogWait := s.pwr.flogWait ++ [e] } }).showLog

/-! ## What takes effect at frame boundaries (R10) -/

/-- The carrier of the bank counts as stopped for an FB write that is accepted now: stopped, or a start pending whose first boundary lies
at least 2 ticks ahead (R10). -/
def State.countsStopped (s : State) (b : BankId) : Bool :=
  match (s.bnk b).carrier with
  | .stopped => true
  | .pending => true
  | .starting t => decide (s.tick + 2 ≤ t)
  | _ => false

/-- Arm a preload; a second one replaces the first (R210). -/
def State.armPreload (s : State) (n : AxId) (v : BitVec 48) : State :=
  s.setFbk n { s.fbk n with preload := some { val := v, at_ := s.tick, net := 0, direct := s.countsStopped n.bank } }

/-! ## Ownership in force (R285 to R290) -/

/-- Nibble `i` of a register array of owners, in force. -/
def State.ownNibble (s : State) (r : Reg) (i : Nat) : FnId :=
  ⟨((s.word r (i / 8)).toNat / 2 ^ (4 * (i % 8))) % 8, Nat.mod_lt _ (by omega)⟩

def State.axisOwner (s : State) (n : AxId) : FnId := s.ownNibble .HIF_OWNF_AXi n.val
def State.dioOwner (s : State) (d : DioId) : FnId := s.ownNibble .HIF_OWNF_DIOi d.val
def State.canOwner (s : State) (c : CanId) : FnId := s.ownNibble .HIF_OWNF_CAN c.val
def State.txqOwner (s : State) (q : TxqId) : FnId := s.ownNibble .HIF_OWNF_NETQi q.val

/-! ## Event records and completions (R299, R320, R325) -/

/-- Entries that an event record spans (R325). -/
def EvRec.parts (r : EvRec) : Nat := Nat.max 1 ((r.payload.length + 27) / 28)

/-- Entries of the event queue in use. -/
def Func.evEntries (f : Func) : Nat := (f.evq.map EvRec.parts).foldl (· + ·) 0

/-- One more entry signalled by a vector of a function (R306, R307). -/
def State.signalVec (s : State) (fn : FnId) (v : Fin 16) : State :=
  let f := s.fn fn
  let x := f.vecs[v]
  let y := { x with pendingEntries := x.pendingEntries + 1, since := if x.pendingEntries = 0 then s.tick else x.since }
  s.setFn fn { f with vecs := f.vecs.set v.val y v.isLt }

/-- HIF_FSTAT has changed: HIF_FCTL.ERR_VEC signals it (R306). -/
def State.fstatChanged (s : State) (fn : FnId) : State :=
  s.signalVec fn ⟨s.fld Fld.HIF_FCTL_ERR_VEC fn.val % 16, Nat.mod_lt _ (by omega)⟩

/-- Queue a record for the event ring of a function. The queue holds 64 entries; a record that does not fit is dropped and
counted in HIF_FSTAT.EVT_DROP (R299). -/
def State.queueEvent (s : State) (fn : FnId) (r : EvRec) : State :=
  let f := s.fn fn
  if f.evEntries + r.parts ≤ 64 then s.setFn fn { f with evq := f.evq ++ [r] }
  else ((s.setFn fn { f with evDropped := f.evDropped + 1 }).countSat Fld.HIF_FSTAT_EVT_DROP fn.val).fstatChanged fn

/-- A single-part record (R325): DT of the cause, SRC, DETAIL and 16 bytes of DATA. -/
def State.event (s : State) (fn : FnId) (type src detail : Nat) (data : List Byte := []) : State :=
  s.queueEvent fn ⟨BitVec.ofNat 16 type, leBytes 8 s.now ++ leBytes 2 src ++ leBytes 2 detail ++ padTo 16 data⟩

/-- Completion codes of Table 5 of 10_descriptors.md. -/
inductive CompCode where
  | accepted | refused | done | cancelled | fault | latch
  deriving DecidableEq, Repr

def CompCode.code : CompCode → BitVec 8
  | .accepted => 1 | .refused => 2 | .done => 3 | .cancelled => 4 | .fault => 5 | .latch => 6

/-- The code ends a command: it frees the entry reserved at acceptance (R298). -/
def CompCode.final : CompCode → Bool
  | .done => true | .cancelled => true | .fault => true | _ => false

/-- Queue a completion entry (Table 5 of 10_descriptors.md). A final one takes the command off the list of those owed. -/
def State.complete (s : State) (src : CmdSrc) (c : CompCode) (reason : Nat := 0) (flags : Nat := 0)
    (data : List Byte := []) (dt : Nat := s.now) : State :=
  let f := s.fn src.fn
  s.setFn src.fn { f with
    comps := f.comps ++ [⟨src, c.code, BitVec.ofNat 8 reason, BitVec.ofNat 8 flags, dt, padTo 15 data, c.final⟩],
    owed := if c.final then f.owed.filter (fun o => decide (o ≠ src)) else f.owed }

/-- DONE flag NO_CHANGE and the others of Table 8. -/
def flOvershoot : Nat := 1
def flClipped : Nat := 2
def flNoMove : Nat := 4
def flPending : Nat := 8
def flNoChange : Nat := 16
def flLateSent : Nat := 32

/-! ## Bank and axis frames (R152 to R157, R126) -/

/-- Carrier divider of an axis: AX_PWM.CDIV (Table 14 of 05_power_stage.md). -/
def State.cdiv (s : State) (n : AxId) : Nat :=
  match s.fld Fld.AX_PWM_CDIV n.val with
  | 1 => 2
  | 2 => 4
  | _ => 1

/-- P_n: the period of the axis carrier in ticks (R153). -/
def State.axPeriod (s : State) (n : AxId) : Nat := (s.bnk n.bank).period * s.cdiv n

/-- O_n: the offset of the axis carrier in ticks (R153). -/
def State.axOffset (s : State) (n : AxId) : Nat :=
  match (s.bnk n.bank).ilv with
  | 1 => (n.val % 8) * s.axPeriod n / 8
  | 2 => (n.val % 4) * s.axPeriod n / 4
  | _ => 0

/-- The envelope in force (Table 6 of 01_frames_and_release.md). -/
inductive Env where
  | balanced | agile | quiet | resilient
  deriving DecidableEq, Repr

def State.env (s : State) : Env :=
  match s.fld Fld.GLB_ENV_ENV with
  | 0 => .balanced | 1 => .agile | 2 => .quiet | _ => .resilient

/-- Loop divisors of the envelope (Table 5 of 01_frames_and_release.md). -/
def State.divI (s : State) : Nat := if s.env = .quiet then 2 else 1
def State.divV (s : State) : Nat := if s.env = .quiet then 4 else 2
def State.divP (s : State) : Nat := if s.env = .quiet then 8 else 4

/-- The axis frame with bank frame number `f` is one in which the current loop runs (R126, R154). Where two axes share an
engine, the host's own axis runs in frames whose number divided by D_I is even and the guest's in odd ones (R438). -/
def State.currentLoopFrame (s : State) (n : AxId) (f : BitVec 32) : Bool :=
  let k := f.toNat / s.cdiv n
  let guest := s.fld Fld.AX_FOSTAT_SERVICE n.val == 1
  let host := s.engines.toList.any fun x => x.guest.isSome && x.axis == n
  k % s.divI == 0 && (if guest then (k / s.divI) % 2 == 1 else if host then (k / s.divI) % 2 == 0 else true)

/-- Two axes share the engine of the axis: its loops run at half their rate (R438). -/
def State.sharedLoop (s : State) (n : AxId) : Bool :=
  s.fld Fld.AX_FOSTAT_SERVICE n.val == 1 || s.engines.toList.any fun x => x.guest.isSome && x.axis == n

/-- By how many axis frames the loop runs of a guest come later than those of an axis with an engine of its own (R438). -/
def State.guestShift (s : State) (n : AxId) : Nat := if s.fld Fld.AX_FOSTAT_SERVICE n.val = 1 then s.divI else 0

/-- A loop with divisor `d` runs in axis frame `f`: its divisor doubles where the engine is shared, and the guest's runs are D_I frames
later (R126, R438). -/
def State.loopFrame (s : State) (d : Nat) (n : AxId) (f : BitVec 32) : Bool :=
  (f.toNat / s.cdiv n) % (if s.sharedLoop n then 2 * d else d) == s.guestShift n

def State.positionLoopFrame (s : State) (n : AxId) (f : BitVec 32) : Bool := s.loopFrame s.divP n f
def State.velocityLoopFrame (s : State) (n : AxId) (f : BitVec 32) : Bool := s.loopFrame s.divV n f

/-- Round to the nearest integer, halves up (`den` > 0). -/
def roundDiv (num : Int) (den : Nat) : Int := (2 * num + den) / (2 * den)

/-- A quotient; where it is no whole number, one of its two neighbours, and which one the spec leaves open. -/
def nearQ (num : Int) (den : Nat) : Int :=
  num / den + (if num % den ≠ 0 ∧ Config.roundsUp num den = true then 1 else 0)

/-- The carrier of the bank runs (a stop that is pending included). -/
def Bank.runs (b : Bank) : Bool :=
  match b.carrier with
  | .running => true
  | .stopping _ => true
  | _ => false

/-- The axis is in FOC, six-step or stepper mode (AX_CFG.MODE). -/
def State.axMode (s : State) (n : AxId) : Nat := s.fld Fld.AX_CFG_MODE n.val

/-! ## Wingcase and leg state (R182 to R188) -/

/-- BNK_WCACT coding: 0b11 is taken as SHORT. -/
def WcAction.ofCode : Nat → WcAction
  | 1 => .off
  | 2 => .brake
  | _ => .short

/-- The active demands of an axis in the order of AX_WC.SRC (Table 19 of 05_power_stage.md). -/
def State.demandSrc (s : State) (n : AxId) : BitVec 8 :=
  let d := (s.ax n).demands
  let b := s.bnk n.bank
  let put (c : Bool) (i : Nat) : BitVec 8 := if c then BitVec.ofNat 8 (2 ^ i) else 0
  put d.desat 0 ||| put d.hoc 1 ||| put b.vmL2 2 ||| put b.vgdUv 3 ||| put d.safety 4 ||| put d.dlmiss 5 |||
    put d.engLoss 6 ||| put s.thm.shutdown 7

/-- The action configured for each demand (Table 4 of 05_power_stage.md). -/
def State.demandAction (s : State) (n : AxId) (i : Nat) : WcAction :=
  let b := n.bank.val
  match i with
  | 0 => WcAction.ofCode (s.fld Fld.BNK_WCACT_DESAT b)
  | 1 => WcAction.ofCode (s.fld Fld.BNK_WCACT_HOC b)
  | 2 => WcAction.ofCode (s.fld Fld.BNK_WCACT_VM_L2 b)
  | 3 => .off
  | 4 => .short
  | 5 => WcAction.ofCode (s.fld Fld.BNK_WCACT_DLMISS b)
  | 6 => WcAction.ofCode (s.fld Fld.BNK_WCACT_ENG_LOSS b)
  | _ => WcAction.ofCode (s.fld Fld.BNK_WCACT_THERM b)

/-- The Wingcase action in force on an axis (R183). -/
def State.wcAction (s : State) (n : AxId) : Option WcAction :=
  let src := s.demandSrc n
  if src = 0 then none
  else if src.getLsbD 3 then some .off
  else
    let acts := ((List.range 8).filter fun i => src.getLsbD i).map (s.demandAction n)
    if acts.contains .short then some .short
    else if acts.contains .brake then some .brake
    else some .off

/-- The axes of a bank. -/
def bankAxes (b : BankId) : List AxId := (allFin 48).filter fun n => decide (n.bank = b)

end Sys2Proof.Machine
end

