-- ==== Sys2Proof/Machine/Legs.lean ====
section
/-! DEFINITION. The legs of an axis: the leg state in force (R187, R188), the pulse of a frame (R158 to R164, R174), and what each
change does to the gates (R162 to R176, R185). Every gate edge passes `State.putLeg`. -/

namespace Sys2Proof.Machine

/-! ## Hall sector (R177, R178) -/

/-- Sector of a Hall code (Table 3 of 05_power_stage.md); none for 0b000 and 0b111. -/
def hallSectorOf (h : BitVec 3) : Option Nat :=
  match h.toNat with
  | 1 => some 0
  | 3 => some 1
  | 2 => some 2
  | 6 => some 3
  | 4 => some 4
  | 5 => some 5
  | _ => none

/-- Used sector: (s + OFS) mod 6, OFS values 6 and 7 taken as 0 (R177). -/
def State.usedSector (s : State) (n : AxId) (sec : Nat) : Nat :=
  let o := s.inForce Fld.AX_HALL_OFS n.val
  (sec + (if o < 6 then o else 0)) % 6

/-- The used sector of the latest valid code, by the offset in force now. -/
def State.sectorNow (s : State) (n : AxId) : Nat := s.usedSector n (s.ax n).hallSector

/-! ## The leg state in force (R187, R188) -/

/-- The released leg mode, as AX_STATE.LEG shows it (R163). -/
def LatchVals.leg (v : LatchVals) : LegState :=
  if v.mode.extractLsb' 15 17 ≠ 0 then .off else
  match (v.mode.extractLsb' 9 2).toNat with
  | 0 => .pwm
  | 1 => .sixStep
  | 2 => .short
  | _ => .off

def WcAction.leg : WcAction → LegState
  | .short => .short
  | _ => .off

/-- The leg state in force (R187, R188). Until the carrier of the bank first starts every leg is OFF, and again while it is stopped,
but for a Wingcase action (R156; log entry 122). -/
def State.legNow (s : State) (n : AxId) : LegState :=
  if s.legsHeld || !(s.bnk n.bank).everStarted then .off else
  let x := s.ax n
  let released := if (s.failover n).coast && x.hallValid then LegState.sixStep else x.released.leg
  match s.wcAction n with
  | some a => a.leg
  | none =>
    if x.fltCut || !(s.bnk n.bank).runs then .off else
    match s.axState n with
    | .off => .off
    | .idle => if x.imposed then .off else released
    | .absent => if (s.plug n).identFrom.isSome then .pwm else .short
    | .safe =>
      if !x.imposed then released else
      match x.lastAct with
      | some a => a.leg
      | none => if s.bit Fld.AX_STOPCFG_FAULT_ACT n.val then .off else .short
    | _ => if x.startOff then .off else released

def LegState.code : LegState → Nat
  | .off => 0 | .pwm => 1 | .short => 2 | .sixStep => 3

/-- How one leg is driven now: off, complementary PWM, low side on, high side on (R163, R178). -/
inductive LegDrive where
  | off | pwm | low | high
  deriving DecidableEq, Repr

/-- The leg code of the released leg-mode word for a leg (Table 2). -/
def LatchVals.legCode (v : LatchVals) (l : Leg) : Nat := (v.mode.extractLsb' (3 * l.idx.val) 3).toNat

/-- Commutation table (Table 3): PWM leg and low leg of a sector, by direction. -/
def commutation (sector : Nat) (reverse : Bool) : Leg × Leg :=
  let fwd : Leg × Leg := match sector with
    | 0 => (.u, .v)
    | 1 => (.u, .w)
    | 2 => (.v, .w)
    | 3 => (.v, .u)
    | 4 => (.w, .u)
    | _ => (.w, .v)
  if reverse then (fwd.2, fwd.1) else fwd

/-- The mode of one leg, a cycle-by-cycle cut left aside. -/
def State.legMode (s : State) (n : AxId) (l : Leg) : LegDrive :=
  let v := (s.ax n).released
  match s.legNow n with
  | .off => .off
  | .short => .low
  | .pwm =>
    match (s.plug n).identFrom with
    | some t => if (s.tick - t) / (16 * Nat.max 1 (s.axPeriod n)) = l.idx.val then .pwm else .low
    | none =>
    match v.legCode l with
    | 1 => .pwm
    | 2 => .low
    | 3 => .high
    | _ => .off
  | .sixStep =>
    if !(s.ax n).hallValid then .off else
    let c := commutation (s.sectorNow n) (v.mode.getLsbD 11)
    if c.1 = l then .pwm else if c.2 = l then .low else .off

/-- How a leg is driven: under a cycle-by-cycle cut the high side of a PWM or HIGH leg is off and its low side on (R166, R187). -/
def State.legDrive (s : State) (n : AxId) (l : Leg) : LegDrive :=
  match s.legMode n l with
  | .pwm => if (s.ax n).cbcCut then .low else .pwm
  | .high => if (s.ax n).cbcCut then .low else .high
  | d => d

/-! ## The pulse of a frame (R158 to R164, R174, R179) -/

/-- A compare word: X limited to 4 × P_n, and SHIFT with its sign from the leg-mode word (R158, Table 1). -/
def LatchVals.word (v : LatchVals) (l : Leg) : BitVec 32 :=
  match l with
  | .u => v.cu
  | .v => v.cv
  | .w => v.cw

def LatchVals.x (v : LatchVals) (l : Leg) (p : Nat) : Nat := Nat.min (4 * p) ((v.word l).extractLsb' 0 20).toNat

def LatchVals.shift (v : LatchVals) (l : Leg) : Int :=
  ((v.mode.extractLsb' (12 + l.idx.val) 1) ++ ((v.word l).extractLsb' 20 12)).toInt

/-- Span of the compare set: the coast-through duty in units of 1/(4 × P_n) (R179). -/
def LatchVals.span (v : LatchVals) (p : Nat) : Nat :=
  Nat.max (v.x .u p) (Nat.max (v.x .v p) (v.x .w p)) - Nat.min (v.x .u p) (Nat.min (v.x .v p) (v.x .w p))

/-- Values in force at tick `t`: the ones released last, or, up to the tick of their release, those before them (R28). -/
def Axis.valsAt (x : Axis) (t : Nat) : LatchVals := if x.relTick < t then x.released else x.prevReleased

/-- Turn-on of a PWM leg in eighths of a tick from B_n under centre alignment, within the up half (R159). -/
def LatchVals.onAt (v : LatchVals) (l : Leg) (p : Nat) : Nat :=
  let m : Int := 8 * (p / 2 : Nat)
  let t : Int := m - v.x l p + 8 * v.shift l
  (if t < 0 then 0 else if t > m then m else t).toNat

/-- Turn-off in eighths of a tick from B_n of the same frame, within the down half (R159). -/
def LatchVals.offAt (v : LatchVals) (l : Leg) (p : Nat) : Nat :=
  let m : Int := 8 * (p / 2 : Nat)
  let e : Int := 8 * p
  let t : Int := m + v.x l p + 8 * v.shift l
  (if t < m then m else if t > e then e else t).toNat

/-- The edge of a half that starts at `h` eighths, by the values before and after a release at that instant: an edge in the very tick of
the release stays with the values before it, and the new values place none there (R28, R161). -/
def edgeIn (h old new : Nat) : Nat := if old < h + 8 then old else Nat.max new (h + 8)

/-- The duty of the switching leg in six-step mode (R164), or the span under coast-through (R179). -/
def State.sixDuty (s : State) (n : AxId) (v : LatchVals) : Nat :=
  let p := s.axPeriod n
  if (s.ax n).released.leg = .sixStep then v.x .u p else v.span p

/-- Turn-on and turn-off by compare values `v`, as the mode of the leg places them: always high; the vectors of identification
(16_power_reset.md R469); the centred pulse of six-step mode (R164); edge alignment (R160) or centre alignment (R159). -/
def State.edgesOf (s : State) (n : AxId) (l : Leg) (v : LatchVals) : Nat × Nat :=
  let p := s.axPeriod n
  let h := 8 * (p / 2)
  if s.legMode n l = .high then (0, 8 * p)
  else if (s.plug n).identFrom.isSome then
    let d := 4 * p * s.fld Fld.AX_PLUG_VMIN n.val / 256
    (h - d, h + d)
  else if s.legNow n = .sixStep then (h - s.sixDuty n v, h + s.sixDuty n v)
  else if (s.bnk n.bank).edge then (8, 8 + 2 * v.x l p)
  else (v.onAt l p, v.offAt l p)

/-- The pulse of the present frame by the compare values, in eighths of a tick from B_n (R28, R161). -/
def State.comparePulse (s : State) (n : AxId) (l : Leg) : Nat × Nat :=
  let x := s.ax n
  let h := s.axPeriod n / 2
  let at_ := fun t => s.edgesOf n l (x.valsAt (x.frameTick + t))
  if (s.bnk n.bank).edge && s.legNow n != .sixStep then at_ 1
  else (edgeIn 0 (at_ 0).1 (at_ 1).1, edgeIn (8 * h) (at_ h).2 (at_ (h + 1)).2)

/-- MINLO in ticks: 0 under the trickle pump (R174). -/
def State.minlo (s : State) (b : BankId) : Nat :=
  if s.inForce Fld.BNK_BOOT_PUMP b.val = 1 then 0 else Nat.max 25 (s.inForce Fld.BNK_BOOT_MINLO b.val)

/-- Dead-time floor in 0.5 ns units (R171). -/
def State.dtFloor (s : State) (b : BankId) : Nat :=
  let f := s.inForce Fld.BNK_DT_FLOOR b.val
  let f := Nat.min 2000 (Nat.max 40 f)
  if s.env = .quiet then Nat.max 200 f else f

def State.setLeg (s : State) (n : AxId) (l : Leg) (x : LegHw) : State :=
  s.setAx n { s.ax n with legs := (s.ax n).legs.set l.idx.val x l.idx.isLt }

def State.leg (s : State) (n : AxId) (l : Leg) : LegHw := (s.ax n).legs[l.idx]

/-- A forced low interval around the next B_n is due: the leg has stayed high through REFN − 1 boundaries, in the bootstrap mode
(R174). -/
def State.refreshDue (s : State) (n : AxId) (l : Leg) : Bool :=
  s.inForce Fld.BNK_BOOT_PUMP n.bank.val != 1 &&
    decide (Nat.max 1 (s.inForce Fld.BNK_BOOT_REFN n.bank.val) ≤ (s.leg n l).highFrames + 1)

/-- A pulse with the low intervals that R174 asks for: one that fills its frame yields to a forced low interval of MINLO ticks centred
on B_n, at its start (`first`) or at its end (`last`); any other is shortened symmetrically, so that the rest of the frame lasts MINLO
ticks. -/
def State.keepMinlo (s : State) (n : AxId) (pl : Nat × Nat) (first last : Bool) : Nat × Nat :=
  let m := 8 * s.minlo n.bank
  let e := 8 * s.axPeriod n
  if m = 0 then pl
  else if e ≤ pl.2 - pl.1 then (if first then m / 2 else pl.1, if last then e - m / 2 else pl.2)
  else
    let cut := ((pl.2 - pl.1) + m - e + 1) / 2
    (pl.1 + cut, pl.2 - cut)

/-- Turn-on and turn-off of a switching leg in the present axis frame, in eighths of a tick from B_n. -/
def State.pulse (s : State) (n : AxId) (l : Leg) : Nat × Nat :=
  s.keepMinlo n (s.comparePulse n l) (decide ((s.leg n l).highFrames = 0)) (s.refreshDue n l)

/-- Turn-on in the next frame, by the values released last, in eighths from its B_n. -/
def State.nextOn (s : State) (n : AxId) (l : Leg) : Nat :=
  (s.keepMinlo n (s.edgesOf n l (s.ax n).released) (s.refreshDue n l) false).1

/-! ## Gate edges -/

/-- Put a leg. Every gate edge starts blanking (R167) and, on a premium leg with PROFILE, the pre-charge phase, after which the slope
phase runs (R173). -/
def State.putLeg (s : State) (n : AxId) (l : Leg) (y : LegHw) : State :=
  let x := s.leg n l
  if x.high == y.high && x.low == y.low then s.setLeg n l y else
  let pre := Nat.min 125 (Nat.max 5 (s.inForce Fld.AX_GDPROF_PRE_T n.val))
  let slope := if n.premium && s.bit Fld.AX_PWM_PROFILE n.val then some (s.tick + pre) else none
  let s := s.setLeg n l { y with slopeSince := slope }
  s.setAx n { s.ax n with blankUntil := s.tick + s.inForce Fld.BNK_PROT_LEN n.bank.val }

/-- Earliest turn-on that leaves the low interval in progress its MINLO ticks (R174) and the dead-time floor (R162), in eighths from
B_n. -/
def State.lowUntil (s : State) (n : AxId) (l : Leg) : Nat :=
  let x := s.leg n l
  if x.low then 8 * x.lowSince + Nat.max (8 * s.minlo n.bank) (s.dtFloor n.bank) - 8 * (s.ax n).frameTick else 0

/-- The high side of a switching leg is commanded on, where its turn-on has come and its turn-off has not: the low side goes off, and
dead time runs. The turn-on is dropped for this frame in the charge time (R175), below the bootstrap threshold (R176), and where the
pulse left is shorter than the dead-time floor (R162). A turn-on that waits for the low interval ends its pulse earlier by as much
(R174). -/
def State.turnOn (s : State) (n : AxId) (l : Leg) : State :=
  let x := s.leg n l
  let now := 8 * (s.tick - (s.ax n).frameTick)
  let pl := s.pulse n l
  let on := Nat.max pl.1 (s.lowUntil n l)
  let full := decide (8 * s.axPeriod n ≤ (s.comparePulse n l).2 - (s.comparePulse n l).1)
  let off := if full then pl.2 else pl.2 - (on - pl.1)
  if x.high || x.dead.isSome || decide (now + 7 < on) || decide (off < now) || x.dropped == some (s.ax n).frameTick then s
  else if decide (off < on + s.dtFloor n.bank) || decide (s.tick < x.chargeUntil) || x.bootUv then
    s.setLeg n l { x with dropped := some (s.ax n).frameTick }
  else s.putLeg n l { x with low := false, dead := some (s.tick, false), shorten := pl.2 - off }

/-- The high side of a switching leg is commanded off, where its turn-off has come, or its turn-on in this frame has not. A low interval
shorter than the dead-time floor is not produced: the leg stays high across it (R162). -/
def State.turnOff (s : State) (n : AxId) (l : Leg) : State :=
  let x := s.leg n l
  let now := 8 * (s.tick - (s.ax n).frameTick)
  let pl := s.pulse n l
  let off := pl.2 - x.shorten
  let ended := decide (off ≤ now + 7) && decide (off + s.dtFloor n.bank ≤ 8 * s.axPeriod n + s.nextOn n l)
  let early := decide (now + 7 < pl.1) && decide (now + s.dtFloor n.bank ≤ pl.1)
  if !(ended || early) then s
  else if x.high then
    s.putLeg n l { x with high := false, dead := some (s.tick, true), highFrames := 0, shorten := 0 }
  else match x.dead with
    | some (_, false) => s.putLeg n l { x with low := true, lowSince := s.tick, dead := none, shorten := 0 }
    | _ => s

/-- The gates follow a change of the drive at tick `now` (R163, R182, R185): both off in OFF; the low side on, after dead time where the
high side was on; a leg that leaves OFF has its low side held on for the charge time, but under a Wingcase action (R175); a HIGH leg
turns on. A PWM leg moves at its own edges. -/
def State.driveLeg (now : Nat) (n : AxId) (s : State) (l : Leg) : State :=
  let x := s.leg n l
  let left := !x.high && !x.low && x.dead.isNone
  let charged := if left && (s.wcAction n).isNone
    then { x with chargeUntil := now + Nat.max 1 (s.inForce Fld.BNK_BOOT_CHG_T n.bank.val) } else x
  let lowOn := s.putLeg n l { charged with low := true, lowSince := now, dead := none, shorten := 0 }
  match s.legDrive n l with
  | .off => s.putLeg n l { x with high := false, low := false, dead := none, highFrames := 0, shorten := 0 }
  | .low =>
    if x.high then s.putLeg n l { x with high := false, dead := some (now, true), highFrames := 0, shorten := 0 }
    else match x.dead with
      | some (_, true) => s
      | some (_, false) => lowOn
      | none => if x.low then s else lowOn
  | .pwm => if left then lowOn else s
  | .high => if left then lowOn else s.turnOn n l

/-- All legs of an axis. -/
def State.driveLegs (s : State) (n : AxId) (now : Nat) : State := forAll [Leg.u, .v, .w] (State.driveLeg now n) s

/-- The coils of a stepper axis with KEEP = 0 are energised again: the step count moves to the nearest multiple of
4 × 2^USTEP, ties downwards, and the position is unknown (R258). -/
def State.dropStep (s : State) (n : AxId) : State :=
  if s.axMode n ≠ 3 ∨ s.bit Fld.AX_STEPCFG_KEEP n.val then s else
  let m : Int := 4 * 2 ^ Nat.min 8 (s.fld Fld.AX_STEPCFG_USTEP n.val)
  let c := (s.word .AX_STEPCNT n.val).toInt
  let s := s.setWord .AX_STEPCNT n.val 0 (BitVec.ofInt 32 ((c + m / 2 - 1) / m * m))
  s.setBit Fld.AX_MSTAT_POS_UNK n.val true

/-- Bring the register view of an axis's Wingcase and legs up to date (AX_WC, AX_STATE.LEG and WC_ACTIVE), and note that
legs have left OFF since reset: until then ACT reads OFF (Table 19 of 05_power_stage.md). The gates follow. -/
def State.refreshAxis (s : State) (n : AxId) : State :=
  let src := s.demandSrc n
  let act := s.wcAction n
  let d := (s.ax n).demands
  let put (c : Bool) (i : Nat) : Nat := if c then 2 ^ i else 0
  let latch := put d.desat 0 + put d.hoc 1 + put (d.safety && src.getLsbD 4) 4 + put d.dlmiss 5 + put d.engLoss 6
  let leg := s.legNow n
  let armed := (s.ax n).armed || leg != .off
  let s := s.driveLegs n s.tick
  let s := s.setAx n { s.ax n with armed := armed }
  let actCode := if !armed then 1 else match act with
    | some .short => 0
    | some .off => 1
    | some .brake => 2
    | none => 3
  let s := s.setFld Fld.AX_WC_SRC n.val src.toNat
  let s := s.setFld Fld.AX_WC_LATCH n.val latch
  let s := s.setFld Fld.AX_WC_ACT n.val actCode
  let s := s.setBit Fld.AX_STATE_WC_ACTIVE n.val (src != 0)
  let s := if leg = .pwm ∧ s.fld Fld.AX_STATE_LEG n.val ≠ 1 then s.dropStep n else s
  s.setFld Fld.AX_STATE_LEG n.val leg.code

end Sys2Proof.Machine
end

