-- ==== Sys2Proof/Machine/EngineOps.lean ====
section
/-! DEFINITION. Shared operations of the Mbokan engines: state and role in force, landing of results (R70 to R72), the step
limiter (R85), engine faults (R91), events (R74, R75), the data address space (R55 to R63) and the issue of an instruction. -/

namespace Sys2Proof.Machine

/-- ENG_STAT.STATE (Table 11a of 02_engines.md). -/
inductive EngState where
  | off | clearing | idle | loaded | running | standby | faulted
  deriving DecidableEq, Repr

def EngState.code : EngState → Nat
  | .off => 0 | .clearing => 1 | .idle => 2 | .loaded => 3 | .running => 4 | .standby => 5 | .faulted => 6

def EngState.ofCode : Nat → EngState
  | 0 => .off | 1 => .clearing | 2 => .idle | 3 => .loaded | 4 => .running | 5 => .standby | _ => .faulted

def State.engState (s : State) (e : EngId) : EngState := EngState.ofCode (s.fld Fld.ENG_STAT_STATE e.val)
def State.setEngState (s : State) (e : EngId) (x : EngState) : State := s.setFld Fld.ENG_STAT_STATE e.val x.code

/-- The role in force (ENG_STAT.ROLE, coded as ENG_ROLE.ROLE). -/
def State.engRole (s : State) (e : EngId) : Nat := s.fld Fld.ENG_STAT_ROLE e.val

/-- The engine executes instructions: RUNNING or STANDBY (R74, R436). -/
def State.engRuns (s : State) (e : EngId) : Bool :=
  s.engState e == .running || s.engState e == .standby

/-- The engine sees the port block and window of its axis: an axis engine, or a STANDBY engine (R56, R60). -/
def State.axisLike (s : State) (e : EngId) : Bool := s.engRole e == 1 || s.engState e == .standby

/-! ## Banks, landing and the step limiter -/

def Engine.cur (x : Engine) : EngBank := if x.handler.isSome then x.bank1 else x.bank0

/-- Write one result into a bank or a shared register (R70). SW keeps its reserved bits at 0 (Table 4). -/
def Engine.write (x : Engine) (b1 : Bool) (d : EngDest) : Engine :=
  let onBank (f : EngBank → EngBank) : Engine :=
    if b1 then { x with bank1 := f x.bank1 } else { x with bank0 := f x.bank0 }
  match d with
  | .h i v => onBank fun b => { b with h := b.h.set i.val v i.isLt }
  | .a i v => onBank fun b => { b with a := b.a.set i.val v i.isLt }
  | .f i v => onBank fun b => { b with f := b.f.set i.val v i.isLt }
  | .p i v => onBank fun b => { b with p := b.p.set i.val v i.isLt }
  | .cb i v => { x with cb := x.cb.set i.val v i.isLt }
  | .cl i v => { x with cl := x.cl.set i.val v i.isLt }
  | .smpg v => { x with smpg := v }
  | .axsel v => { x with axsel := v }
  | .sw v => onBank fun b => { b with sw := v &&& 0x3FF1 }
  | .sat b' => onBank fun b => { b with sw := (b.sw &&& 0xFFFE) ||| (if b' then 1 else 0) }
  | .flagsOnly => x

/-- Write condition flags ZNCV to SW[7:4] of a bank. -/
def Engine.writeCond (x : Engine) (b1 : Bool) (c : BitVec 4) : Engine :=
  let f (b : EngBank) : EngBank := { b with sw := (b.sw &&& 0xFF0F) ||| (c.setWidth 16 <<< 4) }
  if b1 then { x with bank1 := f x.bank1 } else { x with bank0 := f x.bank0 }

/-- Set sticky flags in SW[13:8] of a bank (R64). -/
def Engine.setSticky (x : Engine) (b1 : Bool) (t : Sticky) : Engine :=
  let f (b : EngBank) : EngBank := { b with sw := b.sw ||| (t.setWidth 16 <<< 8) }
  if b1 then { x with bank1 := f x.bank1 } else { x with bank0 := f x.bank0 }

/-- Land every result due by the end of step `x.step`, in order of issue: values first, then condition flags, then sticky
flags, so that R71 and R103 hold. -/
def Engine.land (x : Engine) : Engine :=
  let due := x.flights.filter fun f => decide (f.due ≤ x.step)
  let x := { x with flights := x.flights.filter fun f => !decide (f.due ≤ x.step) }
  let x := due.foldl (fun x f => x.write f.bank1 f.dest) x
  let x := due.foldl (fun x f => match f.cond with | some c => x.writeCond f.bank1 c | none => x) x
  due.foldl (fun x f => x.setSticky f.bank1 f.sticky) x

/-- Declared step count of a kind (R82). -/
def ImageHdr.steps (h : ImageHdr) : EvKind → Nat
  | .sample => h.stepsSample | .fault => h.stepsFault | .host => h.stepsHost | .release => h.stepsRelease

def ImageHdr.entry (h : ImageHdr) : EvKind → Nat
  | .sample => h.entrySample | .fault => h.entryFault | .host => h.entryHost | .release => h.entryRelease

def Engine.declared_ (x : Engine) (k : EvKind) : Nat :=
  match x.image with
  | some h => h.steps k
  | none => 0

/-- Stop an engine with a fault (R91): results in flight are discarded, ENG_STAT records code, kind and the PC of the
faulting instruction. The step count of the handler does not enter ENG_HWM (log entry 110). -/
def State.engineFault (s : State) (e : EngId) (c : EngFault) (pc : BitVec 12) : State :=
  let x := s.eng e
  let s := s.setFld Fld.ENG_STAT_FAULT e.val c.code
  let s := s.setFld Fld.ENG_STAT_FAULT_EV e.val (match x.handler with | some k => k.code | none => 0)
  let s := s.setBit Fld.ENG_STAT_FAULT_BG e.val x.handler.isNone
  let s := s.setFld Fld.ENG_STAT_FAULT_PC e.val pc.toNat
  let s := s.setBit Fld.ENG_STAT_BK e.val false
  let s := s.setEngState e .faulted
  s.setEng e { x with flights := [], long := none, rpt := none, handler := none, pend := [], faultSrc := 0, held := 0, waitPc := none,
                      raised := [], heldSrc := none, faultTick := s.tick }

/-- Whether the limiter stops the engine in the step that now ends (R85). -/
def Engine.limited (x : Engine) : Bool :=
  match x.handler with
  | some k => decide (x.declared_ k ≤ x.used + 1)
  | none => false

/-- One step passes without a limiter: results due land, a handler's count rises, a long access that has no grant yet has waited one
step more, and one step fewer of the instruction in the slot is left. -/
def Engine.pass (x : Engine) : Engine :=
  let y := x.land
  { y with step := y.step + 1, used := if y.handler.isSome then y.used + 1 else y.used,
           long := y.long.map fun a => { a with waited := a.waited + 1 },
           held := y.held - 1, waitPc := if y.held ≤ 1 then none else y.waitPc }

/-- One step of the instruction at `pc` ends (R70, R85). -/
def State.endStep (s : State) (e : EngId) (pc : BitVec 12) : State :=
  if (s.eng e).limited then s.engineFault e .limit pc else s.setEng e (s.eng e).pass

/-- `n` steps of the instruction at `pc` end, unless the limiter stops the engine in one of them. -/
def State.steps (s : State) (e : EngId) (pc : BitVec 12) : Nat → State
  | 0 => s
  | n + 1 =>
    let s' := s.endStep e pc
    if s'.engRuns e then s'.steps e pc n else s'

/-! ## The event that the engine takes next (R75, R88, R89) -/

/-- The axis whose window and port block an engine sees: the guest's while it handles the guest's event (R438). -/
def Engine.curAxis (x : Engine) : AxId := if x.onGuest then x.guest.getD x.axis else x.axis

/-- The hold bound H of an image (R80). -/
def ImageHdr.hold (h : ImageHdr) : Nat := Nat.max h.maxRpt 4

/-- Cost of an enabled kind in ps (R88). -/
def ImageHdr.cost (h : ImageHdr) (k : EvKind) : Nat := 4000 + (2 + h.hold + h.steps k) * 1600

/-- Ticks from B_n to the sample-complete instant that the sample guard takes (Table 1a of 01_frames_and_release.md). -/
def State.guardOffset (s : State) (n : AxId) : Nat :=
  if s.axMode n = 2 then s.axPeriod n / 2 + 52
  else if s.bit Fld.AX_CFG_SENSE n.val then 52 else 102

/-- The next sample-complete instant of an axis for the sample guard, if samples are taken (R89, R520). -/
def State.nextSample (s : State) (n : AxId) : Option Nat :=
  let x := s.ax n
  if s.axState n = .off || !(s.bnk n.bank).runs then none else
  let p := s.axPeriod n
  (List.range 4).findSome? fun i =>
    let f := x.frameNo + BitVec.ofNat 32 (i * s.cdiv n)
    let t := x.frameTick + i * p + s.guardOffset n
    if s.currentLoopFrame n f && decide (s.tick < t) then some t else none

/-- The sample guard (R89), for each axis that the engine serves, allows a pending event of kind `k` on engine `e`. -/
def State.guardAllows (s : State) (e : EngId) (k : EvKind) : Bool :=
  match k, (s.eng e).image with
  | .sample, _ => true
  | _, none => true
  | _, some h =>
    if !s.axisLike e then true else
    ((s.eng e).axis :: (s.eng e).guest.toList).all fun n => match s.nextSample n with
      | none => true
      | some t => decide (h.cost k ≤ (t - s.tick) * 4000)

/-- The event the engine takes next: the highest-priority pending one that the guard allows (R75, Table 6). -/
def State.nextEvent (s : State) (e : EngId) : Option EvKind :=
  [EvKind.sample, .fault, .host, .release].find? fun k => (s.eng e).pend.contains k && s.guardAllows e k

/-! ## Issue of an instruction -/

/-- A result of an instruction before its landing step is known: latency, destination, flags. -/
structure Res_ where
  lat : Nat
  dest : EngDest
  cond : Option (BitVec 4) := none
  sticky : Sticky := Sticky.none

/-- What an instruction does in its issue step: it faults, is no instruction that can come here, starts a long access, or
issues with its results, the state after its stores, the number of steps and the next PC (none: the next word). -/
inductive Issue where
  | fault (c : EngFault)
  | impossible
  | long (a : LongAcc)
  | done (s : State) (rs : List Res_) (steps : Nat := 1) (next : Option (BitVec 12) := none)

/-- Executions of the body after this one remain (R120). -/
def repeats (r : Option Repeat) : Bool :=
  match r with
  | some r => decide (1 < r.left)
  | none => false

/-- The repeat after a body execution. -/
def Repeat.next (r : Option Repeat) : Option Repeat :=
  if repeats r then r.map fun r => { left := r.left - 1, index := r.index + 1 } else none

/-- The PC and the repeat after a body execution or a plain instruction (R54, R120). -/
def Engine.advance (x : Engine) : Engine :=
  { x with rpt := Repeat.next x.rpt, pc := if repeats x.rpt then x.pc else x.pc + 1 }

def Engine.launch (x : Engine) (rs : List Res_) : Engine :=
  { x with flights := x.flights ++ rs.map fun r =>
      { due := x.step + r.lat - 1, bank1 := x.handler.isSome, dest := r.dest, cond := r.cond, sticky := r.sticky } }

/-- The switch to a handler has begun: in background code, outside an RPT body, an event pends that the guard allows (R76, R80). -/
def State.switching (s : State) (e : EngId) : Bool :=
  (s.eng e).handler.isNone && (s.eng e).rpt.isNone && (s.nextEvent e).isSome

/-- The issue slot is free: the engine runs, the ticks of its start have passed (Table 12 of 02_engines.md), no long access holds the
slot (R62), and no switch to a handler has begun (R76). -/
def State.canIssue (s : State) (e : EngId) : Bool :=
  s.engRuns e && decide ((s.eng e).runFrom ≤ s.tick) && (s.eng e).long.isNone && !s.switching e

/-- The steps that the instruction in the slot still holds pass before another one issues. -/
def State.finishSlot (s : State) (e : EngId) : State := s.steps e (s.eng e).pc (s.eng e).held

/-- The steps of an instruction that has issued pass. In background code only the first one does: an event may still find the second
step of a taken branch, or a WAIT, in the slot (R76, R122). `wait` is the PC of a WAIT. -/
def State.passSteps (s : State) (e : EngId) (pc : BitVec 12) (n : Nat) (wait : Option (BitVec 12)) : State :=
  if (s.eng e).handler.isNone && decide (1 < n) then
    (s.setEng e { s.eng e with held := n, waitPc := wait }).steps e pc 1
  else s.steps e pc n

/-- Issue one instruction on an engine: parity of the word (IPARITY), the instruction, the landing of what is due. An
engine that does not run, waits on a long access or switches to a handler issues nothing. -/
def State.issue (s : State) (e : EngId) (f : State → Engine → Issue) : State :=
  if !s.canIssue e then s else
  let s := s.finishSlot e
  let x := s.eng e
  if x.badI.contains x.pc.toNat then s.engineFault e .iparity x.pc else
  match f s x with
  | .impossible => s
  | .fault c => s.engineFault e c x.pc
  | .long a =>
    if x.rpt.isSome then s.engineFault e .addr x.pc else s.setEng e { x with long := some a }
  | .done s' rs n next =>
    if x.limited then s.engineFault e .limit x.pc else
    let y := (s'.eng e).launch rs
    let y := match next with
      | some pc => { y with pc := pc }
      | none => y.advance
    (s'.setEng e y).passSteps e x.pc n (if next.isNone then some x.pc else none)

/-- An instruction that only writes results. -/
def State.issueRes (s : State) (e : EngId) (f : EngBank → Bool → List Res_) : State :=
  s.issue e fun s x => .done s (f x.cur (x.cur.sw.getLsbD 0))

/-! ## Data address space -/

/-- One 16-bit word of the port block at even offset `o` from 0x3000 (Table 3, R60, R118, R207). -/
def PortBlock.half (p : PortBlock) (axisLike : Bool) (o : Nat) : BitVec 16 :=
  if o = 0x20 then BitVec.ofNat 16 p.evKind.code
  else if o = 0x22 then p.evSrc
  else if o = 0x28 then p.frame.extractLsb' 0 16
  else if o = 0x2A then p.frame.extractLsb' 16 16
  else if o = 0x2C then p.dt.extractLsb' 0 16
  else if o = 0x2E then p.dt.extractLsb' 16 16
  else if o = 0x30 then p.dt.extractLsb' 32 16
  else if o = 0x32 then p.dt.extractLsb' 48 16
  else if !axisLike then 0
  else if o = 0x24 then p.seq
  else if 0x40 ≤ o ∧ o < 0x60 then p.adc.toList.getD ((o - 0x40) / 2) 0
  else if o = 0x60 then p.pos.extractLsb' 0 16
  else if o = 0x62 then p.pos.extractLsb' 16 16
  else if o = 0x64 then p.pos.extractLsb' 32 16
  else if o = 0x66 then p.angle
  else if o = 0x68 then p.vms
  else 0

/-- `n` bytes of the port block from offset `o`, little-endian. -/
def PortBlock.load (p : PortBlock) (axisLike : Bool) (o : Nat) : Nat → Nat
  | 0 => 0
  | n + 1 =>
    let h := (p.half axisLike (o - o % 2)).toNat
    (if o % 2 = 0 then h % 256 else h / 256) + 256 * p.load axisLike (o + 1) n

/-- Replace one byte of a staged word set: offset 0 to 15 (R519). -/
def LatchVals.putByte (v : LatchVals) (o : Nat) (b : Byte) : LatchVals :=
  let ins (w : BitVec 32) : BitVec 32 :=
    let sh := 8 * (o % 4)
    (w &&& ~~~((0xFF : BitVec 32) <<< sh)) ||| (b.setWidth 32 <<< sh)
  match o / 4 with
  | 0 => { v with cu := ins v.cu }
  | 1 => { v with cv := ins v.cv }
  | 2 => { v with cw := ins v.cw }
  | 3 => { v with mode := ins v.mode }
  | _ => v

/-- Store `n` bytes into the staging words from offset `o`; offsets of 16 and above stage nothing (R519). -/
def LatchVals.stage (v : LatchVals) (o : Nat) : Nat → Nat → LatchVals
  | 0, _ => v
  | n + 1, w => (v.putByte o (BitVec.ofNat 8 w)).stage (o + 1) n (w / 256)

/-- The address lies in a range whose class is local for the engine (Table 2 of 02_engines.md). -/
def State.isLocal (s : State) (e : EngId) (a : Nat) : Bool :=
  match addrRange a with
  | .localMem => true
  | .window => s.axisLike e
  | .port => true
  | _ => false

/-- A group engine's access to the axis window while AXSEL is 48 or more: an ADDR fault, whatever its alignment (R115). -/
def State.noWindow (s : State) (e : EngId) (a : Nat) : Bool :=
  addrRange a == .window && !s.axisLike e && decide (48 ≤ (s.eng e).axsel.toNat)

/-- The class and target of an access of an engine (Table 2 of 02_engines.md, R56, R115). -/
inductive AccessTo where
  | dmem (a : Nat)
  | window (n : AxId) (a : Nat)
  | port (o : Nat)
  | long (t : LongTarget)
  | fault (c : EngFault)

def State.access (s : State) (e : EngId) (a w : Nat) : AccessTo :=
  if s.noWindow e a then .fault .addr else
  match accessFault a w with
  | some c => .fault c
  | none =>
    let x := s.eng e
    match addrRange a with
    | .localMem => if (List.range w).any fun i => x.badD.contains (a + i) then .fault .dparity else .dmem a
    | .window =>
      if s.axisLike e then .window x.curAxis (a - 0x2000)
      else if h : x.axsel.toNat < 48 then .long (.window ⟨x.axsel.toNat, h⟩ (a - 0x2000))
      else .fault .addr
    | .port => .port (a - 0x3000)
    | .unassigned => .fault .addr
    | .shared => .long (.shared (x.smpg.toNat * 0x8000 + (a - 0x8000)))

/-- An access that must be local: any other address is an ADDR fault, before its alignment is looked at (R79, R108). -/
def State.localAccess (s : State) (e : EngId) (a w : Nat) : AccessTo :=
  if s.isLocal e a then s.access e a w else .fault .addr

/-- A local load of `w` bytes; a store to local data memory with bad parity is not a read (R116: a load may raise
DPARITY). -/
def State.localLoad (s : State) (e : EngId) (t : AccessTo) (w : Nat) : Nat :=
  match t with
  | .dmem a => Mem.load (s.eng e).dmem a w
  | .window n a => Mem.load (s.ax n).win a w
  | .port o => (s.eng e).port.load (s.axisLike e) o w
  | _ => 0

/-- The output gate of the claim arbiter (R430): only the highest live claim of the axis commits. A claim is live while its
engine runs; AX_FOSTAT.CLAIM is the highest. -/
def State.gateOpen (s : State) (e : EngId) (n : AxId) : Bool :=
  let c := if (s.eng e).onGuest then (s.eng e).guestClaim else s.fld Fld.ENG_FO_CLAIM e.val
  s.engState e == .running && s.fld Fld.AX_FOSTAT_CLAIM n.val != 0 && c == s.fld Fld.AX_FOSTAT_CLAIM n.val

/-- A commit to the release latch (R26, R27, R430, R519). In OFF no result is due, and the commit is discarded at once. -/
def State.commit (s : State) (e : EngId) (tag : BitVec 16) : State :=
  let n := (s.eng e).curAxis
  if s.gateOpen e n && s.axState n == .off then s.countSat Fld.AX_DLMISS_LATE_DISCARD n.val
  else if s.gateOpen e n then
    s.setAx n { s.ax n with
      commits := (s.ax n).commits ++ [{ vals := (s.eng e).staged, tag := tag, eng := e, at_ := s.tick }] }
  else s.countSat Fld.AX_FOSTAT_DISCARD n.val

/-- A store of `w` bytes to the port block at offset `o` (R519, R60): group engines store nothing there. -/
def State.portStore (s : State) (e : EngId) (o w v : Nat) : State :=
  if !s.axisLike e then s
  else if o < 0x10 then s.setEng e { s.eng e with staged := (s.eng e).staged.stage o w v }
  else if o = 0x10 then s.commit e (BitVec.ofNat 16 v)
  else s

/-- An engine store of `w` bytes to the window of an axis (offset from 0x2000). Bytes of the words that the Armature writes
(STEPCAP, STEPSTAT, BPOS, BDT) are discarded (R227, Table 2 of 07_motion.md). A store that covers and sets PLD bit 63 arms
a preload (R228). -/
def State.windowStore (s : State) (n : AxId) (a w v : Nat) : State :=
  let m := (leBytes w v).zipIdx.foldl (fun m bi =>
    let o := a + bi.2
    if 0xF40 ≤ o ∧ o < 0xF58 then m else Mem.putByte m o bi.1) (s.ax n).win
  let s := s.setAx n { s.ax n with win := m }
  if a ≤ 0xF5F ∧ 0xF5F < a + w ∧ (Mem.byte m 0xF5F).getLsbD 7 then
    s.armPreload n (BitVec.ofNat 48 (Mem.load m 0xF58 6))
  else s

/-- A local store of `w` bytes. Writing a byte of data memory writes its parity. A STANDBY engine's stores to the window
are discarded with WREJ (R436). -/
def State.localStore (s : State) (e : EngId) (t : AccessTo) (w v : Nat) : State :=
  match t with
  | .dmem a =>
    let x := s.eng e
    s.setEng e { x with dmem := Mem.store x.dmem a w v,
                        badD := x.badD.filter fun b => !decide (a ≤ b ∧ b < a + w) }
  | .window n a =>
    if s.engState e = .standby then s.setBit Fld.ENG_STAT_WREJ e.val true
    else s.windowStore n a w v
  | .port o => s.portStore e o w v
  | _ => s

/-- The parity of local data memory is checked by a load only (R116). -/
def AccessTo.forStore (s : State) (e : EngId) (a w : Nat) : AccessTo :=
  match s.access e a w with
  | .fault .dparity => .dmem a
  | t => t

/-- A long load reads shared memory or the window of an axis at its grant (R63). -/
def State.longLoad (s : State) (t : LongTarget) (w : Nat) : Nat :=
  match t with
  | .shared a => Mem.load s.shmem a w
  | .window n a => Mem.load (s.ax n).win a w

/-- A long store. A group engine writes only the window of an axis of its owner; any other is discarded with WREJ (R56). -/
def State.longStore (s : State) (e : EngId) (t : LongTarget) (w v : Nat) : State :=
  match t with
  | .shared a => { s with shmem := Mem.store s.shmem a w v }
  | .window n a =>
    if s.axisOwner n = (s.eng e).owner then s.windowStore n a w v
    else s.setBit Fld.ENG_STAT_WREJ e.val true

/-! ## Events -/

/-- ENG_EVSTAT field that counts the merges of a kind. -/
def evMergeFld : EvKind → Fld
  | .sample => Fld.ENG_EVSTAT_MERGE_S
  | .fault => Fld.ENG_EVSTAT_MERGE_F
  | .host => Fld.ENG_EVSTAT_MERGE_H
  | .release => Fld.ENG_EVSTAT_MERGE_R

/-- ENG_HWM field of a kind. -/
def evHwmFld : EvKind → Fld
  | .sample => Fld.ENG_HWM_SF_SAMPLE
  | .fault => Fld.ENG_HWM_SF_FAULT
  | .host => Fld.ENG_HWM_HR_HOST
  | .release => Fld.ENG_HWM_HR_RELEASE

/-- Whether a raise of a kind counts: the engine runs and its image enables the kind (R74). -/
def State.takesEvent (s : State) (e : EngId) (k : EvKind) : Bool :=
  s.engRuns e && decide ((s.eng e).declared_ k ≠ 0)

/-- Raise an event (R74): discarded, pending, or merged and counted. `src` holds the source bits of a fault event, and
`upd` the port-block values of the raise (R60). A fault source that asserts after the fault event of the present engine period has
been taken waits for the next period (log entry 111). -/
def State.raiseEvent (s : State) (e : EngId) (k : EvKind) (src : BitVec 16) (upd : PortBlock → PortBlock) : State :=
  if !s.takesEvent e k then s else
  let x := s.eng e
  if k = .fault ∧ x.raised.contains k ∧ ¬ x.pend.contains k then
    s.setEng e { x with heldSrc := some (x.heldSrc.getD 0 ||| src) } else
  let s := if x.pend.contains k then s.countSat (evMergeFld k) e.val else s
  s.setEng e { x with pend := if x.pend.contains k then x.pend else x.pend ++ [k],
                      faultSrc := if k = .fault then x.faultSrc ||| src else x.faultSrc,
                      raised := if x.raised.contains k then x.raised else x.raised ++ [k],
                      port := upd x.port }

/-- An event of axis `n` for engine `e`: where two axes share the engine, it is that axis's event that is handled (R438). -/
def State.raiseFor (s : State) (n : AxId) (e : EngId) (k : EvKind) (src : BitVec 16) (upd : PortBlock → PortBlock) : State :=
  let x := s.eng e
  let mine := if x.guest = some n then [k] else []
  let s := if x.guest.isSome then s.setEng e { x with pendGuest := x.pendGuest.filter (· != k) ++ mine } else s
  s.raiseEvent e k src upd

/-- A new period of an engine starts (R74, R87): every kind may be raised again, and a fault event that waited is raised. -/
def State.newPeriod (s : State) (e : EngId) : State :=
  let x := s.eng e
  let s := s.setEng e { x with raised := [], heldSrc := none }
  match x.heldSrc with
  | some src => s.raiseEvent e .fault src id
  | none => s

/-- Start the handler of a kind: PC, EV_CAUSE, and the event is no longer pending (R76, R74). -/
def Engine.enter (x : Engine) (k : EvKind) : Engine :=
  let entry := match x.image with | some h => h.entry k | none => 0
  { x with handler := some k, used := 0, pc := BitVec.ofNat 12 entry, pend := x.pend.filter (fun j => decide (j ≠ k)),
           port := { x.port with evKind := k, evSrc := if k = .fault then x.faultSrc else 0 },
           faultSrc := if k = .fault then 0 else x.faultSrc,
           onGuest := x.pendGuest.contains k && x.guest.isSome }

end Sys2Proof.Machine
end

