-- ==== Sys2Proof/Machine/EngineIsa.lean ====
section
/-! DEFINITION. The engine instructions of 03_engine_instructions.md: one meaning per row, over the shared operations. Each
issues on the engine that the command names, if that engine runs and its issue slot is free. -/

namespace Sys2Proof.Machine

/-- A Q result into an H register with its flags, latency 1. -/
def resQ (d : HReg) (r : QRes) : List Res_ := [{ lat := 1, dest := .h d r.val, cond := some r.flags, sticky := r.sticky }]
/-- A logical result, latency 1 (R104). -/
def resLogic (d : HReg) (v : BitVec 16) : List Res_ := [{ lat := 1, dest := .h d v, cond := some (logicFlags v) }]
def resH (d : HReg) (v : BitVec 16) : List Res_ := [{ lat := 1, dest := .h d v }]
def resP (d : PReg) (v : BitVec 16) : List Res_ := [{ lat := 1, dest := .p d v }]
/-- An accumulator result, latency 2 (R106). -/
def resA (d : AReg) (r : BitVec 40 × Sticky) : List Res_ := [{ lat := 2, dest := .a d r.1, sticky := r.2 }]
/-- An F-lane result, latency 4 (Table 7). -/
def resF (d : FReg) (r : BitVec 32 × Sticky) : List Res_ := [{ lat := 4, dest := .f d r.1, sticky := r.2 }]
def resCond (c : BitVec 4) (t : Sticky := Sticky.none) : List Res_ :=
  [{ lat := 1, dest := .flagsOnly, cond := some c, sticky := t }]

/-- An instruction that cannot be an RPT body (R79): a branch, RPT, RETE or WAIT. -/
def State.issueCtl (s : State) (e : EngId) (f : State → Engine → Issue) : State :=
  s.issue e fun s x => if x.rpt.isSome then .impossible else f s x

/-! ## Control flow (R119 to R122) -/

/-- NOP (R100). -/
def execNop (e : EngId) (s : State) : Out := .next (s.issueRes e fun _ _ => [])

/-- BR (R119): two steps when taken, one when not; condition 15 is an undefined word (Table 4). -/
def execBr (e : EngId) (c : Fin 16) (target : BitVec 12) (s : State) : Out :=
  .next (s.issueCtl e fun s x =>
    if c.val = 15 then .fault .opcode
    else if condHolds c.val (x.cur.sw.extractLsb' 4 4) then .done s [] 2 (some target)
    else .done s [])

/-- JAL (R119): the link lands with latency 1. -/
def execJal (e : EngId) (d : PReg) (target : BitVec 12) (s : State) : Out :=
  .next (s.issueCtl e fun s x => .done s (resP d ((x.pc + 1).setWidth 16)) 2 (some target))

/-- JR (R119): Pa[15:12] is ignored. -/
def execJr (e : EngId) (a : PReg) (s : State) : Out :=
  .next (s.issueCtl e fun s x => .done s [] 2 (some (x.cur.p[a].setWidth 12)))

/-- BDEC (R119). -/
def execBdec (e : EngId) (a : PReg) (target : BitVec 12) (s : State) : Out :=
  .next (s.issueCtl e fun s x =>
    let v := x.cur.p[a] - 1
    if v ≠ 0 then .done s (resP a v) 2 (some target) else .done s (resP a v))

/-- RPT (R120): `count` is n − 1; the next word is the body. -/
def execRpt (e : EngId) (count : BitVec 8) (s : State) : Out :=
  .next (s.issueCtl e fun s x =>
    .done (s.setEng e { x with rpt := some { left := count.toNat + 1, index := 1 } }) [] 1 (some (x.pc + 1)))

/-- The step count of a handler at the end of its RETE goes to ENG_HWM (R86). -/
def State.noteHwm (s : State) (e : EngId) (k : EvKind) (n : Nat) : State :=
  s.setFld (evHwmFld k) e.val (Nat.max (s.fld (evHwmFld k) e.val) (Nat.min n 65535))

/-- After RETE (R75, R78): chain to the next event the guard allows, or return to background code. -/
def State.afterRete (s : State) (e : EngId) : State :=
  match s.nextEvent e with
  | some k => s.setEng e { (s.eng e).enter k with chained := true }
  | none =>
    let x := s.eng e
    (s.setEng e { x with handler := none, used := 0, pc := x.retPc, onGuest := false, chained := false }).setBit Fld.ENG_STAT_BK e.val false

/-- RETE (R121): two steps; the end of a sample handler is the heartbeat (R429); in bank 0 it does nothing in one step. -/
def execRete (e : EngId) (s : State) : Out :=
  .next (
    if !s.canIssue e then s else
    let x := s.eng e
    if x.rpt.isSome then s
    else if x.badI.contains x.pc.toNat then s.engineFault e .iparity x.pc
    else match x.handler with
    | none => s.issueRes e fun _ _ => []
    | some k =>
      let s1 := s.endStep e x.pc
      if !s1.engRuns e then s1 else
      let y := (s1.eng e).pass
      let y := match k with
        | .sample => if x.onGuest then { y with hbGuest := some y.port.seq } else { y with hbSeq := some y.port.seq }
        | .release => { y with relOpen := false }
        | _ => y
      let s2 := (s1.setEng e y).noteHwm e k (x.used + 2)
      s2.afterRete e)

/-- WAIT (R122): holds the slot until the last result in flight has landed. In background code its steps after the first one pass with
the next command of the engine, unless an event takes them. -/
def execWait (e : EngId) (s : State) : Out :=
  .next (s.issueCtl e fun s x =>
    let last := (x.flights.map Flight.due).foldl Nat.max x.step
    .done s [] (last - x.step + 1))

/-! ## Status word and special registers (R64, R103, R115) -/

/-- MFSW: SW of the current bank, BK included (Table 4). -/
def execMfsw (e : EngId) (d : HReg) (s : State) : Out :=
  .next (s.issue e fun s x =>
    .done s (resH d (x.cur.sw ||| (if x.handler.isSome then 0x8000 else 0))))

/-- MTSW: bits 15 and 3:1 are ignored. -/
def execMtsw (e : EngId) (a : HReg) (s : State) : Out :=
  .next (s.issueRes e fun b _ => [{ lat := 1, dest := .sw b.h[a] }])

/-- SATM (R67). -/
def execSatm (e : EngId) (b : Bool) (s : State) : Out :=
  .next (s.issueRes e fun _ _ => [{ lat := 1, dest := .sat b }])

/-- MFS (R115): AXSEL reads 0 on an axis or STANDBY engine; other numbers are undefined words. -/
def execMfs (e : EngId) (d : PReg) (sr : BitVec 5) (s : State) : Out :=
  .next (s.issue e fun s x =>
    let n := sr.toNat
    if h : n < 8 then .done s (resP d x.cb[n])
    else if h : n < 16 then .done s (resP d x.cl[n - 8])
    else if n = 16 then .done s (resP d (x.smpg.setWidth 16))
    else if n = 17 then .done s (resP d (if s.axisLike e then 0 else x.axsel.setWidth 16))
    else .fault .opcode)

/-- MTS (R115): AXSEL is not written on an axis or STANDBY engine. -/
def execMts (e : EngId) (sr : BitVec 5) (a : PReg) (s : State) : Out :=
  .next (s.issue e fun s x =>
    let n := sr.toNat
    let v := x.cur.p[a]
    if h : n < 8 then .done s [{ lat := 1, dest := .cb ⟨n, h⟩ v }]
    else if h : n < 16 then .done s [{ lat := 1, dest := .cl ⟨n - 8, by omega⟩ v }]
    else if n = 16 then .done s [{ lat := 1, dest := .smpg (v.setWidth 6) }]
    else if n = 17 then .done s (if s.axisLike e then [] else [{ lat := 1, dest := .axsel (v.setWidth 6) }])
    else .fault .opcode)

/-! ## Q lane (R104, R105, R107) -/

def execAdd (e : EngId) (d a b : HReg) (s : State) : Out :=
  .next (s.issueRes e fun k sat => resQ d (qAdd sat k.h[a] k.h[b]))

def execSub (e : EngId) (d a b : HReg) (s : State) : Out :=
  .next (s.issueRes e fun k sat => resQ d (qSub sat k.h[a] k.h[b]))

def execMin (e : EngId) (d a b : HReg) (s : State) : Out :=
  .next (s.issueRes e fun k _ => resLogic d (if k.h[a].toInt ≤ k.h[b].toInt then k.h[a] else k.h[b]))

def execMax (e : EngId) (d a b : HReg) (s : State) : Out :=
  .next (s.issueRes e fun k _ => resLogic d (if k.h[a].toInt ≤ k.h[b].toInt then k.h[b] else k.h[a]))

def execAnd (e : EngId) (d a b : HReg) (s : State) : Out :=
  .next (s.issueRes e fun k _ => resLogic d (k.h[a] &&& k.h[b]))

def execOr (e : EngId) (d a b : HReg) (s : State) : Out :=
  .next (s.issueRes e fun k _ => resLogic d (k.h[a] ||| k.h[b]))

def execXor (e : EngId) (d a b : HReg) (s : State) : Out :=
  .next (s.issueRes e fun k _ => resLogic d (k.h[a] ^^^ k.h[b]))

def execAndn (e : EngId) (d a b : HReg) (s : State) : Out :=
  .next (s.issueRes e fun k _ => resLogic d (k.h[a] &&& ~~~k.h[b]))

def execMov (e : EngId) (d a : HReg) (s : State) : Out :=
  .next (s.issueRes e fun k _ => resH d k.h[a])

/-- NEG: the subtraction 0 − Ha (R104). -/
def execNeg (e : EngId) (d a : HReg) (s : State) : Out :=
  .next (s.issueRes e fun k sat => resQ d (qSub sat 0 k.h[a]))

def execAbs (e : EngId) (d a : HReg) (s : State) : Out :=
  .next (s.issueRes e fun k sat => resQ d (qAbs sat k.h[a]))

def execNot (e : EngId) (d a : HReg) (s : State) : Out :=
  .next (s.issueRes e fun k _ => resLogic d (~~~k.h[a]))

def execAddi (e : EngId) (d a : HReg) (imm : BitVec 14) (s : State) : Out :=
  .next (s.issueRes e fun k sat => resQ d (qAdd sat k.h[a] (imm.signExtend 16)))

def execLih (e : EngId) (d : HReg) (imm : BitVec 16) (s : State) : Out :=
  .next (s.issueRes e fun _ _ => resH d imm)

/-- The amount of a shift: an immediate, or Hb[4:0] (R105). -/
def ShiftAmt.val (n : ShiftAmt) (k : EngBank) : Nat :=
  match n with
  | .imm i => i.val
  | .reg b => (k.h[b].extractLsb' 0 5).toNat

def execShl (e : EngId) (d a : HReg) (n : ShiftAmt) (s : State) : Out :=
  .next (s.issueRes e fun k sat => resQ d (qShl sat k.h[a] (ShiftAmt.val n k)))

def execAsr (e : EngId) (d a : HReg) (n : ShiftAmt) (s : State) : Out :=
  .next (s.issueRes e fun k _ => resQ d (qAsr k.h[a] (ShiftAmt.val n k)))

def execLsr (e : EngId) (d a : HReg) (n : ShiftAmt) (s : State) : Out :=
  .next (s.issueRes e fun k _ => resQ d (qLsr k.h[a] (ShiftAmt.val n k)))

def execCmp (e : EngId) (a b : HReg) (s : State) : Out :=
  .next (s.issueRes e fun k _ => resCond (cmpFlags k.h[a] k.h[b]))

def execCmpi (e : EngId) (a : HReg) (imm : BitVec 14) (s : State) : Out :=
  .next (s.issueRes e fun k _ => resCond (cmpFlags k.h[a] (imm.signExtend 16)))

/-- NORM (R107): an odd D is an undefined word. -/
def execNorm (e : EngId) (d a : HReg) (s : State) : Out :=
  .next (s.issue e fun s x =>
    if d.val % 2 = 1 then .fault .opcode else
    let r := qNorm x.cur.h[a]
    .done s (resH d r.1 ++ resH (d + 1) r.2))

def execNorma (e : EngId) (d : HReg) (a : AReg) (s : State) : Out :=
  .next (s.issueRes e fun k _ => resH d (BitVec.ofNat 16 (redundantSign k.a[a])))

/-- MPY: latency 2 (Table 5). -/
def execMpy (e : EngId) (d a b : HReg) (s : State) : Out :=
  .next (s.issueRes e fun k sat =>
    let r := qMpy sat k.h[a] k.h[b]
    [{ lat := 2, dest := .h d r.1, sticky := r.2 }])

/-! ## Accumulators (R106, R108) -/

def execMac (e : EngId) (d : AReg) (a b : HReg) (s : State) : Out :=
  .next (s.issueRes e fun k sat => resA d (aRes sat (k.a[d].toInt + prodA k.h[a] k.h[b])))

def execMsu (e : EngId) (d : AReg) (a b : HReg) (s : State) : Out :=
  .next (s.issueRes e fun k sat => resA d (aRes sat (k.a[d].toInt - prodA k.h[a] k.h[b])))

def execMpya (e : EngId) (d : AReg) (a b : HReg) (s : State) : Out :=
  .next (s.issueRes e fun k sat => resA d (aRes sat (prodA k.h[a] k.h[b])))

/-- MACM and MSUM (R108): two local words by pointer, both pointers advanced by 2 with latency 1; under PAIR as an RPT body
execution k goes to A(d XOR ((k − 1) mod 2)). An address outside the local ranges is an ADDR fault whatever its alignment; where both
accesses fault, Pa's fault is taken (log entry 112). -/
def memMac (sub : Bool) (e : EngId) (d : AReg) (a b : PReg) (pair : Bool) (s : State) : State :=
  s.issue e fun s x =>
    let k := x.cur
    let sat := k.sw.getLsbD 0
    let pa := k.p[a]
    let pb := k.p[b]
    match s.localAccess e pa.toNat 2, s.localAccess e pb.toNat 2 with
    | .fault c, _ => .fault c
    | _, .fault c => .fault c
    | ta, tb =>
      let va := BitVec.ofNat 16 (s.localLoad e ta 2)
      let vb := BitVec.ofNat 16 (s.localLoad e tb 2)
      let odd := match x.rpt with
        | some r => pair && (r.index - 1) % 2 == 1
        | none => false
      let d' : AReg := if odd then ⟨d.val ^^^ 1, Nat.xor_lt_two_pow (n := 2) d.isLt (by decide)⟩ else d
      let v := if sub then k.a[d'].toInt - prodA va vb else k.a[d'].toInt + prodA va vb
      let pu := resP a (circ pa x.cb[a] x.cl[a] 2) ++ (if a = b then [] else resP b (circ pb x.cb[b] x.cl[b] 2))
      .done s (pu ++ resA d' (aRes sat v))

def execMacm (e : EngId) (d : AReg) (a b : PReg) (pair : Bool) (s : State) : Out :=
  .next (memMac false e d a b pair s)

/-- MSUM has no PAIR: a word with M[1] set is undefined (R98, R100). -/
def execMsum (e : EngId) (d : AReg) (a b : PReg) (pair : Bool) (s : State) : Out :=
  .next (if pair then s.issue e fun _ _ => .fault .opcode else memMac true e d a b false s)

def execAdda (e : EngId) (d a b : AReg) (s : State) : Out :=
  .next (s.issueRes e fun k sat => resA d (aRes sat (k.a[a].toInt + k.a[b].toInt)))

def execSuba (e : EngId) (d a b : AReg) (s : State) : Out :=
  .next (s.issueRes e fun k sat => resA d (aRes sat (k.a[a].toInt - k.a[b].toInt)))

def execMova (e : EngId) (d a : AReg) (s : State) : Out :=
  .next (s.issueRes e fun k _ => resA d (k.a[a], Sticky.none))

/-- LDAH (R106): the raw value shifted left by 15, without loss. -/
def execLdah (e : EngId) (d : AReg) (a : HReg) (s : State) : Out :=
  .next (s.issueRes e fun k _ => resA d (BitVec.ofInt 40 (k.h[a].toInt * 2 ^ 15), Sticky.none))

def execClra (e : EngId) (d : AReg) (s : State) : Out :=
  .next (s.issueRes e fun _ _ => resA d (0, Sticky.none))

def execNega (e : EngId) (d a : AReg) (s : State) : Out :=
  .next (s.issueRes e fun k sat => resA d (aRes sat (-k.a[a].toInt)))

def execAbsa (e : EngId) (d a : AReg) (s : State) : Out :=
  .next (s.issueRes e fun k sat => resA d (aRes sat k.a[a].toInt.natAbs))

def execSha (e : EngId) (d a : AReg) (sh : BitVec 6) (s : State) : Out :=
  .next (s.issueRes e fun k sat => resA d (aSha sat k.a[a] sh))

def execExth (e : EngId) (d : HReg) (a : AReg) (sh : BitVec 5) (s : State) : Out :=
  .next (s.issueRes e fun k sat =>
    let r := aExth sat k.a[a] sh
    [{ lat := 2, dest := .h d r.1, sticky := r.2 }])

def execCmpa (e : EngId) (a b : AReg) (s : State) : Out :=
  .next (s.issueRes e fun k _ => resCond (cmpaFlags k.a[a] k.a[b]))

/-! ## Pointers (Table 9) -/

def execMovph (e : EngId) (d : PReg) (a : HReg) (s : State) : Out :=
  .next (s.issueRes e fun k _ => resP d k.h[a])

def execMovhp (e : EngId) (d : HReg) (a : PReg) (s : State) : Out :=
  .next (s.issueRes e fun k _ => resH d k.p[a])

/-- PADD: linear mod 2^16, or circular by CLa and CBa (R68). -/
def execPadd (e : EngId) (d a : PReg) (c : Bool) (off : BitVec 13) (s : State) : Out :=
  .next (s.issue e fun s x =>
    let p := x.cur.p[a]
    .done s (resP d (if c then circ p x.cb[a] x.cl[a] off.toInt else p + off.signExtend 16)))

def execPli (e : EngId) (d : PReg) (imm : BitVec 16) (s : State) : Out :=
  .next (s.issueRes e fun _ _ => resP d imm)

def execCmpp (e : EngId) (a b : PReg) (s : State) : Out :=
  .next (s.issueRes e fun k _ => resCond (cmppFlags k.p[a] k.p[b]))

/-! ## F lane (R109 to R114) -/

def execFadd (e : EngId) (d a b : FReg) (s : State) : Out :=
  .next (s.issueRes e fun k sat => resF d (fAdd sat k.f[a] k.f[b]))

def execFsub (e : EngId) (d a b : FReg) (s : State) : Out :=
  .next (s.issueRes e fun k sat => resF d (fSub sat k.f[a] k.f[b]))

def execFmul (e : EngId) (d a b : FReg) (s : State) : Out :=
  .next (s.issueRes e fun k sat => resF d (fMul sat k.f[a] k.f[b]))

def execFmac (e : EngId) (d a b : FReg) (s : State) : Out :=
  .next (s.issueRes e fun k sat => resF d (fMac sat k.f[d] k.f[a] k.f[b]))

def execFmsu (e : EngId) (d a b : FReg) (s : State) : Out :=
  .next (s.issueRes e fun k sat => resF d (fMsu sat k.f[d] k.f[a] k.f[b]))

def execFmov (e : EngId) (d a : FReg) (s : State) : Out :=
  .next (s.issueRes e fun k _ => [{ lat := 1, dest := .f d k.f[a] }])

def execFneg (e : EngId) (d a : FReg) (s : State) : Out :=
  .next (s.issueRes e fun k _ => [{ lat := 1, dest := .f d (k.f[a] ^^^ 0x80000000) }])

def execFabs (e : EngId) (d a : FReg) (s : State) : Out :=
  .next (s.issueRes e fun k _ => [{ lat := 1, dest := .f d (k.f[a] &&& 0x7FFFFFFF) }])

def execFmin (e : EngId) (d a b : FReg) (s : State) : Out :=
  .next (s.issueRes e fun k sat => resF d (fMin sat k.f[a] k.f[b]))

def execFmax (e : EngId) (d a b : FReg) (s : State) : Out :=
  .next (s.issueRes e fun k sat => resF d (fMax sat k.f[a] k.f[b]))

def execFscl (e : EngId) (d a : FReg) (b : HReg) (s : State) : Out :=
  .next (s.issueRes e fun k sat => resF d (fScl sat k.f[a] k.h[b]))

def execFrcp (e : EngId) (d a : FReg) (s : State) : Out :=
  .next (s.issueRes e fun k sat => resF d (fRcp sat k.f[a]))

def execFrsq (e : EngId) (d a : FReg) (s : State) : Out :=
  .next (s.issueRes e fun k sat => resF d (fRsq sat k.f[a]))

def execExp (e : EngId) (d : HReg) (a : FReg) (s : State) : Out :=
  .next (s.issueRes e fun k _ => resH d (fExpo k.f[a]))


/-- CVT (R113, Table 8): forms 8 to 15, and an accumulator that does not exist, are undefined words. FA has the latency 4 of Table 7,
though R106 gives latency 2 to instructions that write an accumulator (log entry 113). -/
def execCvt (e : EngId) (d a : Fin 16) (form : BitVec 4) (s : State) : Out :=
  .next (s.issue e fun s x =>
    let k := x.cur
    let sat := k.sw.getLsbD 0
    let toH (bits frac : Nat) (o : Sticky) : Issue :=
      let r := fToFixed sat bits frac o k.f[a]
      .done s [{ lat := 4, dest := .h d (BitVec.ofInt 16 r.1), sticky := r.2 }]
    let ofV (frac : Nat) (v : Int) : Issue := .done s [{ lat := 4, dest := .f d (fixedToF sat frac v) }]
    match form.toNat with
    | 0 => ofV 15 k.h[a].toInt
    | 1 => toH 16 15 Sticky.qv
    | 2 => match areg? a with
      | some i => ofV 30 k.a[i].toInt
      | none => .fault .opcode
    | 3 => match areg? d with
      | some i =>
        let r := fToFixed sat 40 30 Sticky.av k.f[a]
        .done s [{ lat := 4, dest := .a i (BitVec.ofInt 40 r.1), sticky := r.2 }]
      | none => .fault .opcode
    | 4 => ofV 0 k.f[a].toInt
    | 5 =>
      let r := fToFixed sat 32 0 Sticky.fi k.f[a]
      .done s [{ lat := 4, dest := .f d (BitVec.ofInt 32 r.1), sticky := r.2 }]
    | 6 => ofV 0 k.h[a].toInt
    | 7 => toH 16 0 Sticky.fi
    | _ => .fault .opcode)

def execFcmp (e : EngId) (a b : FReg) (s : State) : Out :=
  .next (s.issueRes e fun k _ => let r := fCmp k.f[a] k.f[b]; resCond r.1 r.2)

/-- FLI (R112): the immediate times 2^10. -/
def execFli (e : EngId) (d : FReg) (imm : BitVec 22) (s : State) : Out :=
  .next (s.issueRes e fun _ _ => [{ lat := 1, dest := .f d (imm.setWidth 32 <<< 10) }])

/-! ## Loads and stores (R116, R117) -/

/-- The pointer update of a post-modify form. -/
def ptrRes (m : MemArg) (p : Option (BitVec 16)) : List Res_ :=
  match p with
  | some v => resP m.ptr v
  | none => []

/-- A load of `w` bytes: local, the pointer lands with latency 1 and the data with latency 2; long, it waits (R62). -/
def State.loadIns (s : State) (e : EngId) (m : MemArg) (w : Nat) (k : LongKind) (mk : Nat → EngDest) : State :=
  s.issue e fun s x =>
    let (ea, p) := effAddr m x.cur.p[m.ptr] x.cb[m.ptr] x.cl[m.ptr]
    match (if x.rpt.isSome then s.localAccess e ea.toNat w else s.access e ea.toNat w) with
    | .fault c => .fault c
    | .long t => .long { target := t, width := w, kind := k, ptr := p.map fun v => (m.ptr, v), waited := 0 }
    | t => .done s (ptrRes m p ++ [{ lat := 2, dest := mk (s.localLoad e t w) }])

/-- A store of the low `w` bytes of `v` of the bank in use (R116). -/
def State.storeIns (s : State) (e : EngId) (m : MemArg) (w : Nat) (v : EngBank → Nat) : State :=
  s.issue e fun s x =>
    let (ea, p) := effAddr m x.cur.p[m.ptr] x.cb[m.ptr] x.cl[m.ptr]
    match (if x.rpt.isSome ∧ !s.isLocal e ea.toNat then .fault .addr else AccessTo.forStore s e ea.toNat w) with
    | .fault c => .fault c
    | .long t => .long { target := t, width := w, kind := .store (v x.cur), ptr := p.map fun v => (m.ptr, v), waited := 0 }
    | t => .done (s.localStore e t w (v x.cur)) (ptrRes m p)

def execLdh (e : EngId) (d : HReg) (m : MemArg) (s : State) : Out :=
  .next (s.loadIns e m 2 (.ldh d) fun v => .h d (BitVec.ofNat 16 v))

def execLdp (e : EngId) (d : PReg) (m : MemArg) (s : State) : Out :=
  .next (s.loadIns e m 2 (.ldp d) fun v => .p d (BitVec.ofNat 16 v))

def execLdf (e : EngId) (d : FReg) (m : MemArg) (s : State) : Out :=
  .next (s.loadIns e m 4 (.ldf d) fun v => .f d (BitVec.ofNat 32 v))

/-- LDA: 64 bits move, bits 39:0 are loaded (Table 10). -/
def execLda (e : EngId) (d : AReg) (m : MemArg) (s : State) : Out :=
  .next (s.loadIns e m 8 (.lda d) fun v => .a d (BitVec.ofNat 40 v))

def execSth (e : EngId) (b : HReg) (m : MemArg) (s : State) : Out :=
  .next (s.storeIns e m 2 fun k => k.h[b].toNat)

def execStp (e : EngId) (b : PReg) (m : MemArg) (s : State) : Out :=
  .next (s.storeIns e m 2 fun k => k.p[b].toNat)

def execStf (e : EngId) (b : FReg) (m : MemArg) (s : State) : Out :=
  .next (s.storeIns e m 4 fun k => k.f[b].toNat)

/-- STA: the accumulator sign-extended to 64 bits. -/
def execSta (e : EngId) (b : AReg) (m : MemArg) (s : State) : Out :=
  .next (s.storeIns e m 8 fun k => (k.a[b].signExtend 64).toNat)

end Sys2Proof.Machine
end

