-- ==== Sys2Proof/Machine/Profile.lean ====
section
/-! DEFINITION. Motion profiles (07_motion.md R233 to R236, R247, R259): exact fractions, segments of constant jerk, the ramp from one
velocity to another, the profile of a move to rest at a target, and the smallest limits that still stop there. -/

namespace Sys2Proof.Machine

/-! ## Exact fractions -/

def Frac.norm (x : Frac) : Frac :=
  let g := Nat.max 1 (Nat.gcd x.1.natAbs x.2)
  (x.1 / g, x.2 / g)

def Frac.add (x y : Frac) : Frac := Frac.norm (x.1 * y.2 + y.1 * x.2, x.2 * y.2)
def Frac.mul (x y : Frac) : Frac := Frac.norm (x.1 * y.1, x.2 * y.2)
def Frac.neg (x : Frac) : Frac := (-x.1, x.2)
def Frac.sub (x y : Frac) : Frac := x.add y.neg
def Frac.ofInt (v : Int) : Frac := (v, 1)
def Frac.inv (x : Frac) : Frac := (x.1.sign * x.2, Nat.max 1 x.1.natAbs)
def Frac.div (x y : Frac) : Frac := x.mul y.inv
def Frac.abs (x : Frac) : Frac := (x.1.natAbs, x.2)
def Frac.isLt (x y : Frac) : Bool := decide (x.1 * y.2 < y.1 * x.2)
def Frac.isLe (x y : Frac) : Bool := decide (x.1 * y.2 ≤ y.1 * x.2)
def Frac.min (x y : Frac) : Frac := if x.isLe y then x else y
def Frac.half (x : Frac) : Frac := x.mul (1, 2)

/-- The square root, to 60 binary places. -/
def Frac.sqrt (x : Frac) : Frac :=
  let v := x.1.toNat * x.2 * 2 ^ 120
  (rootBits v 1 (v.log2 / 2 + 1) 0, x.2 * 2 ^ 60)

/-- To the nearest whole number; a tie goes to one of its neighbours. -/
def Frac.whole (x : Frac) : Int := nearQ x.1 x.2

/-- A finite binary32 value as a fraction; none for an infinity or a NaN. -/
def fRat (w : F32) : Option Frac :=
  match FVal.of w with
  | .fin d =>
    let v : Int := if d.neg then -(d.m : Int) else d.m
    some (if d.e ≥ 0 then (v * 2 ^ d.e.toNat, 1) else (v, 2 ^ (-d.e).toNat))
  | .zero _ => some (0, 1)
  | _ => none

/-- The nearest binary32 value of a fraction. -/
def Frac.toF32 (x : Frac) : F32 :=
  let n := x.1.natAbs * 2 ^ 200
  (fRound false 24 ⟨decide (x.1 < 0), 2 * (n / x.2) + (if n % x.2 = 0 then 0 else 1), -201⟩).1

/-- A fraction as a two-word float sum (R234). -/
def Frac.twoWord (x : Frac) : F32 × F32 :=
  let h := x.toF32
  (h, (x.sub ((fRat h).getD (0, 1))).toF32)

def twoWordSum (d : F32 × F32) : Frac := ((fRat d.1).getD (0, 1)).add ((fRat d.2).getD (0, 1))

/-! ## Segments of constant jerk -/

/-- The state `t` seconds into a segment that starts from `k`. -/
def Kin.into (k : Kin) (g : Seg) (t : Frac) : Kin :=
  let t2 := (t.mul t).half
  let t3 := (t2.mul t).mul (1, 3)
  { pos := ((k.pos.add (k.vel.mul t)).add (g.acc.mul t2)).add (g.jerk.mul t3),
    vel := (k.vel.add (g.acc.mul t)).add (g.jerk.mul t2), acc := g.acc.add (g.jerk.mul t) }

/-- The state `t` seconds after `k`; past the last segment the velocity stays. -/
def Kin.along (k : Kin) (t : Frac) : List Seg → Kin
  | [] => { k with pos := k.pos.add (k.vel.mul t), acc := (0, 1) }
  | g :: rest => if t.isLt g.dur then k.into g t else (k.into g g.dur).along (t.sub g.dur) rest

def totalDur (l : List Seg) : Frac := l.foldl (fun t g => t.add g.dur) (0, 1)

/-- Distance travelled over the whole of some segments. -/
def travelOf (v a : Frac) (l : List Seg) : Frac := (Kin.along ⟨(0, 1), v, a⟩ (totalDur l) l).pos

def mirrorSegs (l : List Seg) : List Seg := l.map fun g => { g with acc := g.acc.neg, jerk := g.jerk.neg }

/-- The quickest change of a velocity by `d`, from acceleration `a` to none, upwards: acceleration at most `lim`, jerk `j`. -/
def rampUp (d a lim j : Frac) : List Seg :=
  let half := ((a.mul a).half).div j
  let peak := ((j.mul d).add ((a.mul a).half)).sqrt
  if peak.isLe lim then
    let peak := if peak.isLt a then a else peak
    [{ dur := (peak.sub a).div j, acc := a, jerk := j }, { dur := peak.div j, acc := peak, jerk := j.neg }]
  else
    let up := a.isLe lim
    let first : Seg := if up then { dur := (lim.sub a).div j, acc := a, jerk := j } else { dur := (a.sub lim).div j, acc := a, jerk := j.neg }
    let full := (lim.mul lim).div j
    let flat := if up then (d.add half).sub full else d.sub half
    [first, { dur := flat.div lim, acc := lim, jerk := (0, 1) }, { dur := lim.div j, acc := lim, jerk := j.neg }]

/-- Limits of a profile; no jerk limit: the acceleration may step. -/
structure Limits where
  v : Frac
  a : Frac
  d : Frac
  j : Option Frac
  deriving DecidableEq, Repr

/-- The quickest ramp from velocity `v` with acceleration `a` to velocity `w` with none, under `lim` and the jerk `j`. -/
def rampTo (v a w lim : Frac) (j : Option Frac) : List Seg :=
  let d := w.sub v
  match j with
  | none =>
    let acc := if d.1 < 0 then lim.neg else lim
    [{ dur := d.abs.div lim, acc := acc, jerk := (0, 1) }]
  | some j =>
    let back := ((a.mul a.abs).half).div j
    if back.isLe d then rampUp d a lim j else mirrorSegs (rampUp d.neg a.neg lim j)

/-- The velocity that is reached when the acceleration is taken back to none. -/
def restVel (v a : Frac) (j : Option Frac) : Frac :=
  match j with
  | none => v
  | some j => v.add (((a.mul a.abs).half).div j)

/-- The bisection of [lo, hi]: the largest of the points tried at which `f` still holds, `lo` if none. -/
def bisect (f : Frac → Bool) : Nat → Frac → Frac → Frac
  | 0, lo, _ => lo
  | k + 1, lo, hi =>
    let m := (lo.add hi).half
    if f m then bisect f k m hi else bisect f k lo m

/-- First ramp, cruise and last ramp with peak velocity `w` > 0, over a distance `x` where the cruise is long enough. -/
def throughPeak (v a x w : Frac) (l : Limits) : List Seg × Frac :=
  let lim := if v.1 < 0 then l.a.min l.d else if (restVel v a l.j).isLe w then l.a else l.d
  let r1 := rampTo v a w lim l.j
  let r2 := rampTo w (0, 1) (0, 1) l.d l.j
  let left := x.sub ((travelOf v a r1).add (travelOf w (0, 1) r2))
  (r1 ++ [{ dur := if left.1 < 0 then (0, 1) else left.div w, acc := (0, 1), jerk := (0, 1) }] ++ r2, left)

/-- The stop from a velocity and an acceleration. -/
def stopSegs (v a : Frac) (l : Limits) : List Seg := rampTo v a (0, 1) l.d l.j

/-- The profile of a move over a distance `x` to rest (R233): a first ramp, a cruise and a last ramp, with the highest peak velocity
that ends at `x`; and whether it stops beyond the target and returns. -/
def moveSegs (v a x : Frac) (l : Limits) : List Seg × Bool :=
  let stop := stopSegs v a l
  let ds := travelOf v a stop
  if ds.sub x = (0, 1) then (stop, false) else
  let up := ds.isLt x
  let sg (y : Frac) : Frac := if up then y else y.neg
  let v' := sg v
  let a' := sg a
  let x' := sg x
  let fits (w : Frac) : Bool := decide (0 ≤ (throughPeak v' a' x' w l).2.1)
  let w := if fits l.v then l.v else bisect fits 60 (0, 1) l.v
  let segs := if w.1 = 0 then rampTo v' a' (0, 1) l.d l.j else (throughPeak v' a' x' w l).1
  (if up then segs else mirrorSegs segs, decide (0 < v.1 * x.1) && (up != decide (0 < x.1)))

/-- The limits with which a move over `x` still stops at its target, and whether deceleration and jerk had to be raised for it: by the
smallest common factor (R235). -/
def clipLimits (v a x : Frac) (l : Limits) : Limits × Bool :=
  let with_ (q : Frac) : Limits := { l with d := l.d.mul q, j := l.j.map fun j => j.mul q }
  let past (q : Frac) : Bool := x.abs.isLt (travelOf v a (stopSegs v a (with_ q))).abs
  if decide (v.1 * x.1 ≤ 0) || !past (1, 1) then (l, false) else
  let most : Frac := (2 ^ 40, 1)
  if past most then (l, false) else
  let lo := bisect past 80 (1, 1) most
  (with_ (lo.add (1, 2 ^ 30)), true)

end Sys2Proof.Machine
end

