-- ==== Sys2Proof/Machine/AxisOps.lean ====
section
/-! DEFINITION. Shared operations of the axes: state changes (R145, R326), stops (R147), coefficients (R142 to R144),
Wingcase demands (R182 to R188), loop faults (R148) and the engines that serve an axis. -/

namespace Sys2Proof.Machine

/-- The engine that serves an axis: the one in the axis role for it, or the host engine of a shared guest (R438). -/
def State.axisEngine (s : State) (n : AxId) : Option EngId :=
  match (allFin 64).find? fun e => s.engRole e == 1 && (s.eng e).axis == n with
  | some e => some e
  | none => (allFin 64).find? fun e => (s.eng e).guest == some n

/-- The engines that see the port block of an axis: the one in service and the STANDBY engines that follow it (R60). -/
def State.axisViewers (s : State) (n : AxId) : List EngId :=
  (allFin 64).filter fun e =>
    (s.engRole e == 1 || s.engState e == .standby) && (s.eng e).axis == n || (s.eng e).guest == some n

/-- A fault event to every engine of an axis whose ENG_EVCFG enables the source at `bit` (Table 11c, R74). -/
def State.faultEvent (s : State) (n : AxId) (bit : Nat) : State :=
  forAll (s.axisViewers n) (fun s e =>
    if (s.word .ENG_EVCFG e.val).getLsbD bit
    then s.raiseFor n e .fault (BitVec.ofNat 16 (2 ^ bit)) id else s) s

/-- DATA of a final completion of an axis command: the state found (Table 9 of 10_descriptors.md). -/
def AxState.data (st : AxState) : List Byte := [BitVec.ofNat 8 st.code]

/-! ## Delivery (R303 to R305) -/

/-- Deliver an accepted command: it is in the pending table, its D has come, and no command with the same D that was
admitted before it still waits (R304, R305). Otherwise nothing is delivered. -/
def State.deliver (s : State) (src : CmdSrc) (cmd : HostCmd) (f : State → Nat → State) : State :=
  match s.accepted.find? fun a => a.src == src && a.cmd == cmd with
  | none => s
  | some a =>
    let first := (s.accepted.takeWhile fun b => b != a).all fun b => b.d != a.d
    if a.d ≤ s.now && first then
      f { s with accepted := s.accepted.filter fun b => b != a } a.d
    else s

/-- DONE at D of an axis command, with the state found and flags (Table 9 of 10_descriptors.md). -/
def State.doneAxis (s : State) (src : CmdSrc) (n : AxId) (d : Nat) (flags : Nat := 0) : State :=
  s.complete src .done 0 flags (s.axState n).data d

/-- CANCELLED at D of an axis command, with the state found. -/
def State.cancelAxis (s : State) (src : CmdSrc) (n : AxId) (d : Nat) : State :=
  s.complete src .cancelled 0 0 (s.axState n).data d

/-! ## Records and state changes -/

/-- A STATE_CHANGE record to the owner (R326); cause 0 is a command of the owner and sends none. -/
def State.stateRecord (s : State) (n : AxId) (st : AxState) (cause : Nat) : State :=
  if cause = 0 then s else s.event (s.axisOwner n) 0x000E n.val st.code [BitVec.ofNat 8 cause]

/-- Set AX_STATE.STATE and note the boundary of entry. -/
def State.putAxState (s : State) (n : AxId) (st : AxState) (cause : Nat) : State :=
  let s := s.setFld Fld.AX_STATE_STATE n.val st.code
  let s := s.setAx n { s.ax n with entryTick := s.tick, imposed := false, startOff := false, stop := none }
  (s.stateRecord n st cause).refreshAxis n

/-- AX_MSTAT.HEAD of a command (Table 7 of 07_motion.md). -/
def headCode : HostCmd → Nat
  | .moveAbs .. => 1
  | .moveVel .. => 2
  | .gear .. => 3
  | .cam .. => 4
  | .home .. => 5
  | _ => 0

/-- The active command of an axis: the head of its queue, once started. -/
def AxMot.head (m : AxMot) : Option QMove :=
  match m.queue with
  | q :: _ => if q.started then some q else none
  | [] => none

/-- GLB_CAM_BUSY (R240). -/
def State.refreshCams (s : State) : State :=
  let busy := (allFin 48).foldl (fun (acc : Nat) n =>
    match (s.motion n).head with
    | some q => match q.cmd with
      | .cam _ _ _ c _ _ _ _ => acc ||| 2 ^ (c.toNat % 16)
      | _ => acc
    | none => acc) 0
  s.setFld Fld.GLB_CAM_BUSY_BUSY 0 busy

/-- QDEPTH, HEAD and GLB_CAM_BUSY after a change of a queue. -/
def State.setQueue (s : State) (n : AxId) (q : List QMove) : State :=
  let s := s.setMotion n { s.motion n with queue := q }
  let s := s.setFld Fld.AX_MSTAT_QDEPTH n.val q.length
  let s := s.setFld Fld.AX_MSTAT_HEAD n.val (match (s.motion n).head with | some q => headCode q.cmd | none => 0)
  s.refreshCams

/-- Empty the move queue; its commands complete with the code given (R147, R439). -/
def State.emptyQueue (s : State) (n : AxId) (c : CompCode) (reason : Nat) : State :=
  let q := (s.motion n).queue
  let st := s.axState n
  if q.isEmpty then s else
  forAll q (fun s q => s.complete q.src c reason 0 st.data) (s.setQueue n [])

/-- Coefficient records still in the mailbox of an axis that enters OFF are discarded and complete CANCELLED (R323). -/
def State.dropMail (s : State) (n : AxId) : State :=
  let x := s.ax n
  let s := s.setAx n { x with mail := [] }
  let s := forAll x.mail (fun s r => s.complete r.src .cancelled 0 0 (s.axState n).data) s
  let m := s.motion n
  let s := s.setMotion n { m with limPend := [], stepCfgPend := [] }
  forAll (m.limPend ++ m.stepCfgPend) (fun s r => s.complete r.src .cancelled 0 0 (s.axState n).data) s

/-- The latch as at reset and the staging words cleared (R39); commits that still wait are discarded (R27). -/
def State.latchOff (s : State) (n : AxId) : State :=
  let k := (s.ax n).commits.length
  let s := s.setFld Fld.AX_DLMISS_LATE_DISCARD n.val (Nat.min 255 (s.fld Fld.AX_DLMISS_LATE_DISCARD n.val + k))
  let s := s.setAx n { s.ax n with released := .off, commits := [], due := [], misses := 0, sample := none }
  forAll (s.axisViewers n) (fun s e => s.setEng e { s.eng e with staged := .zero }) s

/-- An axis enters OFF (R39, R323). -/
def State.enterOff (s : State) (n : AxId) (cause : Nat) : State :=
  ((s.dropMail n).latchOff n).putAxState n .off cause

/-- An axis enters IDLE: the offset count restarts (R132). A Wingcase action that is in force there moves it to SAFE at its next B_n (R188). -/
def State.enterIdle (s : State) (n : AxId) (cause : Nat) : State :=
  let s := s.putAxState n .idle cause
  let s := s.setBit Fld.AX_STATE_IOFS_RDY n.val false
  let act := s.wcAction n
  let x := s.ax n
  s.setAx n { x with ofsCount := 0, ofsCodes := [], idleFrames := 0, speedRef := 0, lastAct := act,
                     safeReq := if act.isSome then some (x.safeReq.getD 1) else x.safeReq }

/-- Reset value of a coefficient (Table 4 of 04_axis_control.md). -/
def coefReset (id : Nat) : BitVec 32 :=
  if id = 0x06 then 0x7FFF
  else if id = 0x07 then 0x7333
  else if id = 0x12 then 0x7FFFFFFF
  else if id = 0x18 ∨ id = 0x1C then 0x7FFF
  else 0

/-- Listed coefficient IDs with their ranges (Table 4). -/
def coefRange (id : Nat) : Option (Int × Int) :=
  if id = 0x00 ∨ id = 0x01 ∨ id = 0x02 ∨ id = 0x03 ∨ id = 0x05 ∨ id = 0x06 ∨ id = 0x07 ∨ id = 0x08 ∨ id = 0x09 ∨
     id = 0x0D ∨ id = 0x10 ∨ id = 0x19 ∨ id = 0x1A ∨ id = 0x1D ∨ id = 0x1E ∨ id = 0x21 ∨ id = 0x22 ∨ id = 0x23
  then some (0, 0x7FFF)
  else if id = 0x04 ∨ id = 0x0A then some (0, 8)
  else if id = 0x0B ∨ id = 0x0C ∨ id = 0x18 ∨ id = 0x1C then some (-0x8000, 0x7FFF)
  else if id = 0x11 then some (0, 24)
  else if id = 0x12 then some (1, 2 ^ 31 - 1)
  else if id = 0x20 then some (0, 1)
  else none

/-- Group C coefficients (R143): the shifts. -/
def coefGroupC (id : Nat) : Bool := id == 0x04 || id == 0x0A || id == 0x11

/-- The active value of a coefficient. -/
def Axis.coefVal (x : Axis) (id : Nat) : BitVec 32 := Sparse.get coefReset x.coef id

/-- A shift coefficient in force. -/
def Axis.coefShift (x : Axis) (id : Nat) : Nat := (x.coefVal id).toNat

/-- An integrator rescaled from one shift of its output to another, so that the output is continuous (R144). -/
def rescale (v : Int) (old new : Nat) : Int := (satA true (nearQ (v * 2 ^ old) (2 ^ new))).toInt

/-- The whole pending set becomes active, and each integrator is rescaled by the change in its shift (R144). Its entries are kept
raw, whatever their value. -/
def State.takePending (s : State) (n : AxId) : State :=
  let x := s.ax n
  let y := { x with coef := x.coefPend.foldl (fun c kv => Sparse.put coefReset c kv.1 kv.2) x.coef, coefPend := [] }
  let s := s.setAx n y
  let m := s.motion n
  let l := m.loops
  let i := fun v => rescale v (x.coefShift 0x04) (y.coefShift 0x04)
  let s := s.setMotion n { m with loops := { l with
    dInt := i l.dInt, qInt := i l.qInt, velInt := rescale l.velInt (x.coefShift 0x0A) (y.coefShift 0x0A) } }
  s.setBit Fld.AX_STATE_COEF_PEND n.val false

/-- Put a record into the pending set (R143, R144): the last record of a coefficient stands. -/
def Axis.addPending (x : Axis) (id : Nat) (v : BitVec 32) : Axis :=
  { x with coefPend := x.coefPend.filter (fun kv => decide (kv.1 ≠ id)) ++ [(id, v)] }

/-- An axis enters RUN from IDLE or HOLD (Table 6 of 04_axis_control.md, R144). Its reference is POS, or the position that HOLD has
held. -/
def State.enterRun (s : State) (n : AxId) : State :=
  let fromIdle := s.axState n == .idle
  let s := s.takePending n
  let s := s.putAxState n .run 0
  let s := s.setAx n { s.ax n with startOff := fromIdle, integZero := fromIdle }
  let m := s.motion n
  let at_ := if fromIdle then (s.fbk n).pos.toInt else m.loops.held.getD (s.fbk n).pos.toInt
  let m := { m with trajMiss := 0, loops := { m.loops with point := { tick := s.tick, pos := at_, vel := 0, acc := 0 }, ramp := none } }
  let s := s.setMotion n { m with refPos := at_, refVel := 0, plan := none, losing := none, refs := [] }
  s.refreshAxis n

/-- An axis enters SAFE. The move queue is emptied as at the start of a stop (R147). The legs take the last Wingcase action where
one caused the entry, by a demand (cause 1) or a double miss (cause 2), though it may have ended since: then from the first release
instant, else they stay in it when it ends (R186, R188). -/
def State.enterSafe (s : State) (n : AxId) (cause : Nat) : State :=
  let s := s.emptyQueue n .cancelled 0
  let act := match s.wcAction n with
    | some a => some a
    | none => if cause = 1 ∨ cause = 2 then (s.ax n).lastAct else none
  let s := (s.setAx n { s.ax n with lastAct := act }).putAxState n .safe cause
  s.setAx n { s.ax n with imposed := (s.wcAction n).isSome }

/-! ## Stops (R147) -/

/-- Duration of a ramp from speed `v` (of 32,768 = VFS) in whole axis frames. -/
def State.rampFrames (s : State) (n : AxId) (v : Nat) : Nat :=
  let ms := Nat.max 1 (s.fld Fld.AX_STOPCFG_DECEL_MS n.val)
  let p := Nat.max 1 (s.axPeriod n)
  let num := v * ms * 250000
  let den := 32768 * p
  (num + den - 1) / den

/-- Start a stop at the boundary at which this is called, from RUN or HOLD. `cause` 0 is a command of the owner. -/
def State.startStop (s : State) (n : AxId) (cat : StopCat) (cause : Nat) : State :=
  let st := s.axState n
  if st ≠ .run ∧ st ≠ .hold then s else
  let s := s.emptyQueue n .cancelled 0
  let v := (s.ax n).speedRef.natAbs
  match cat with
  | .off => s.enterIdle n cause
  | _ =>
    let hold := decide (cat = .rampHold)
    if v = 0 then
      if hold then (if st = .hold then s else s.putAxState n .hold cause) else s.enterIdle n cause
    else
      let t := s.tick
      let s := (s.setMotion n { s.motion n with plan := none }).putAxState n .stopping cause
      s.setAx n { s.ax n with stop := some { hold := hold, v0 := v, start := t,
                                             endTick := t + s.rampFrames n v * s.axPeriod n } }

/-- Code of a stop category in AX_STOPCFG; 0b11 is taken as STOP_RAMP (Table 13). -/
def StopCat.ofCode : Nat → StopCat
  | 0 => .off
  | 2 => .rampHold
  | _ => .ramp

/-- A stop that waits for the first boundary at or after a tick. One that waits already stands, at the earlier tick. -/
def State.requestStop (s : State) (n : AxId) (cat : StopCat) (cause at_ : Nat) : State :=
  let x := s.ax n
  match x.stopReq with
  | some _ => s.setAx n { x with stopFrom := Nat.min x.stopFrom at_ }
  | none => s.setAx n { x with stopReq := some (cat, cause), stopFrom := at_ }

/-! ## Motor supply thresholds and the brake chopper (R180, R181) -/

/-- The thresholds of BNK_VM1 and BNK_VM2 are valid. -/
def State.vmValid (s : State) (b : BankId) : Bool :=
  let on := s.fld Fld.BNK_VM1_L1_ON b.val
  let off := s.fld Fld.BNK_VM1_L1_OFF b.val
  decide (0 < off) && decide (off < on) && decide (on < s.fld Fld.BNK_VM2_L2 b.val)

/-- A BRAKE action is in force on an axis of the bank. -/
def State.braking (s : State) (b : BankId) : Bool := (bankAxes b).any fun n => s.wcAction n == some .brake

/-- Switch BRK_b to what L1, BNK_BRK.EN, the BRAKE action and the lock of R181 call for. -/
def State.refreshBrake (s : State) (b : BankId) : State :=
  let x := s.bnk b
  let on := !s.legsHeld && x.l1 && s.vmValid b && !x.brkLock && x.everStarted && (s.bit Fld.BNK_BRK_EN b.val || s.braking b)
  let s := s.setBnk b { x with brk := on, brkSince := if on && !x.brk then s.tick else x.brkSince }
  s.setBit Fld.BNK_PSTAT_L1 b.val on

/-! ## Motor hot-plug (16_power_reset.md R468, R469) -/

/-- AX_PLUGSTAT.TIMER, in 100 ms, and IDENT. -/
def State.refreshPlug (s : State) (n : AxId) : State :=
  let x := s.plug n
  let left := match x.retryDue with
    | some t => (t - s.tick + 24999999) / 25000000
    | none => 0
  (s.setFld Fld.AX_PLUGSTAT_TIMER n.val left).setBit Fld.AX_PLUGSTAT_IDENT n.val x.identFrom.isSome

/-- The retry timer starts at RETRY × 100 ms, from 0.5 s to 60 s. -/
def State.startRetry (s : State) (n : AxId) : State :=
  let t := s.tick + Nat.min 600 (Nat.max 5 (s.fld Fld.AX_PLUG_RETRY n.val)) * 25000000
  (s.setPlug n { retryDue := some t, waiting := false, identFrom := none, passed := false, lowRuns := 0 }).refreshPlug n

/-- Identification starts where it waits and WC_ACTIVE is 0. -/
def State.tryIdent (s : State) (n : AxId) : State :=
  let x := s.plug n
  if x.waiting && s.axState n == .absent && s.demandSrc n == 0 then
    ((s.setPlug n { x with waiting := false, identFrom := some s.tick }).refreshPlug n).refreshAxis n
  else s

/-- Identification fails: the legs return to SHORT, ID_FAIL counts, a PLUG record, and the timer restarts. -/
def State.failIdent (s : State) (n : AxId) : State :=
  let s := (s.startRetry n).countSat Fld.AX_PLUGSTAT_ID_FAIL n.val
  (s.event (s.axisOwner n) 0x0057 n.val 1 (leBytes 2 (s.fld Fld.AX_PLUGSTAT_ID_FAIL n.val))).refreshAxis n

/-- After a change of a demand: a HOC demand ends an identification as a failure; one that waits may start. -/
def State.plugDemand (s : State) (n : AxId) : State :=
  if (s.plug n).identFrom.isSome && (s.ax n).demands.hocLive then s.failIdent n else s.tryIdent n

/-- The axis enters ABSENT (R468): the queue is emptied and the retry timer starts; a stepper axis applies R258. -/
def State.enterAbsent (s : State) (n : AxId) : State :=
  (((s.emptyQueue n .cancelled 0).putAxState n .absent 5).startRetry n).dropStep n

/-! ## Wingcase demands -/

/-- After any change of the demands, active `before` as AX_WC.SRC lists them: an action moves an axis in IDLE, RUN, HOLD or
STOPPING to SAFE at its next B_n, except where demands only ended, and is the last action of a stay in SAFE (R186, R188); a fault
event follows a new action (AX_WC). -/
def State.demandsChanged (s : State) (n : AxId) (before : BitVec 8) (cause : Nat) : State :=
  let src := s.demandSrc n
  let ended := src != before && src &&& ~~~before == 0
  let s := match s.wcAction n with
    | none => s
    | some a =>
      let x := s.ax n
      match s.axState n with
      | .safe => s.setAx n { x with lastAct := some a, imposed := true }
      | .off => s
      | .absent => s
      | _ => s.setAx n { x with safeReq := if ended then x.safeReq else some (x.safeReq.getD cause), lastAct := some a }
  let s := if src != 0 && before == 0 then (s.faultEvent n 0).logFault 3 n.val (s.demandSrc n).toNat else s
  ((s.refreshAxis n).refreshBrake n.bank).plugDemand n

/-- Change the demands of one axis. -/
def State.withDemands (s : State) (n : AxId) (cause : Nat) (f : Demands → Demands) : State :=
  let before := s.demandSrc n
  (s.setAx n { s.ax n with demands := f (s.ax n).demands }).demandsChanged n before cause

/-- Change something that bears on the demands of several axes: a bank or the device. -/
def State.withDemandsOf (s : State) (ns : List AxId) (cause : Nat) (f : State → State) : State :=
  let before := ns.map s.demandSrc
  forAll (ns.zip before) (fun s nb => s.demandsChanged nb.1 nb.2 cause) (f s)

/-! ## Loop faults (R148) -/

def State.loopFault (s : State) (n : AxId) (code : Nat) : State :=
  let s := s.setFld Fld.AX_LFAULT_CODE n.val code
  let s := s.countSat Fld.AX_LFAULT_COUNT n.val
  let s := s.setBit Fld.AX_LFAULT_SEEN n.val true
  let s := s.event (s.axisOwner n) 0x0002 n.val code
  let x := s.ax n
  if code ≤ 3 then s.setAx n { x with safeReq := match x.safeReq with | some c => some c | none => some 3 }
  else s.requestStop n (StopCat.ofCode (s.fld Fld.AX_STOPCFG_FE_CAT n.val)) 3 s.tick

/-- DT of the sample instant of the run under way, which a DONE written in that run carries (Table 9 of
10_descriptors.md): the tick of the first trigger (R125). -/
def State.sampleDt (s : State) (n : AxId) : Nat :=
  let x := s.ax n
  s.dtAt (if x.sampledAt.isSome then x.sampleTick else s.tick)

/-! ## Coefficient and other records in the mailbox (R142 to R144) -/

/-- The sample handler takes the oldest coefficient record: applied, or placed in the pending set; DONE either way, with
PENDING in the second case (R323). -/
def State.applyCoef (s : State) (n : AxId) : State :=
  let x := s.ax n
  match x.mail with
  | [] => s
  | r :: rest =>
    match r.cmd with
    | .setCoef _ id v =>
      let pend := s.axState n == .hold || coefGroupC id.toNat
      let x := { x with mail := rest }
      let x := if pend then x.addPending id.toNat v else { x with coef := Sparse.put coefReset x.coef id.toNat v }
      let s := s.setAx n x
      let s := if pend then s.setBit Fld.AX_STATE_COEF_PEND n.val true else s
      s.complete r.src .done 0 (if pend then flPending else 0) (s.axState n).data (s.sampleDt n)
    | _ => s

end Sys2Proof.Machine
end

