-- ==== Sys2Proof/Machine/Image.lean ====
section
/-! DEFINITION. Program images: CRC-32C, the header of R81, the loader checks of R83 and R79, the budget of R30 and R88, and
loading an engine from an image (R84). -/

namespace Sys2Proof.Machine

/-- One bit of CRC-32C, reflected (R413). -/
def crcBit (c : BitVec 32) : BitVec 32 := if c.getLsbD 0 then (c >>> 1) ^^^ 0x82F63B78 else c >>> 1

def crcByte (c : BitVec 32) (b : Byte) : BitVec 32 :=
  let c := c ^^^ b.setWidth 32
  crcBit (crcBit (crcBit (crcBit (crcBit (crcBit (crcBit (crcBit c)))))))

/-- CRC-32C of a list of bytes: initial value and final XOR all ones (R413). -/
def crc32c (l : List Byte) : BitVec 32 := (l.foldl crcByte 0xFFFFFFFF) ^^^ 0xFFFFFFFF

/-- The header of an image (R81, Table 7), whatever its checks say. -/
def ImageHdr.parse (l : List Byte) : ImageHdr :=
  { group := leAt l 6 1 == 1, halfRate := leAt l 7 1 % 2 == 1, codeWords := leAt l 8 2, dataBytes := leAt l 10 2,
    entryBg := leAt l 12 2, entrySample := leAt l 14 2, entryFault := leAt l 16 2, entryHost := leAt l 18 2,
    entryRelease := leAt l 20 2, maxRpt := leAt l 22 2, stepsSample := leAt l 24 2, stepsFault := leAt l 26 2,
    stepsHost := leAt l 28 2, stepsRelease := leAt l 30 2, libVersion := leAt l 32 4 }

/-- IMAGE_CRC of an image. -/
def imageCrc (l : List Byte) : Nat := leAt l 0x2C 4

/-- Word `i` of the code of an image; words past the code are zero (R84). -/
def imageWord (l : List Byte) (h : ImageHdr) (i : Nat) : BitVec 32 :=
  if i < h.codeWords then BitVec.ofNat 32 (leAt l (64 + 4 * i) 4) else 0

/-- The header part of R83: MAGIC, FORMAT, KIND, FLAGS, reserved bytes, sizes, entries, MAX_RPT. -/
def ImageHdr.ok (h : ImageHdr) (l : List Byte) (wantGroup : Bool) : Bool :=
  leAt l 0 4 == 0x314B424D && leAt l 4 2 == 1 && leAt l 6 1 == (if wantGroup then 1 else 0) && decide (leAt l 7 1 < 2) &&
  decide (1 ≤ h.codeWords) && decide (h.codeWords ≤ 4096) && decide (h.dataBytes ≤ 8192) && h.dataBytes % 8 == 0 &&
  decide (h.entryBg < h.codeWords) && decide (h.entrySample < h.codeWords) && decide (h.entryFault < h.codeWords) &&
  decide (h.entryHost < h.codeWords) && decide (h.entryRelease < h.codeWords) && decide (h.maxRpt ≤ 256) &&
  !(h.group && h.stepsSample != 0) && leAt l 0x24 8 == 0 && leAt l 0x30 16 == 0 &&
  l.length == 64 + 4 * h.codeWords + h.dataBytes

/-- The code part of R83: no undefined word, no RPT above MAX_RPT, every RPT body allowed (R79). -/
def imageCodeOk (l : List Byte) (h : ImageHdr) : Bool :=
  (List.range h.codeWords).all fun i =>
    let w := imageWord l h i
    !engWordUndefined w &&
    (match engWordRpt w with
     | some n => decide (n ≤ h.maxRpt) && engWordBody (imageWord l h ((i + 1) % 4096))
     | none => true)

/-- IMAGE_CRC is that of the whole image with its own field taken as 0 (Table 7). -/
def imageCrcOk (l : List Byte) : Bool :=
  crc32c (l.take 0x2C ++ [0, 0, 0, 0] ++ l.drop 0x30) == BitVec.ofNat 32 (imageCrc l)

/-- The loader accepts an image for an axis or group engine as far as BAD_PARAM goes (R83). -/
def imageOk (l : List Byte) (wantGroup : Bool) : Bool :=
  let h := ImageHdr.parse l
  h.ok l wantGroup && imageCodeOk l h && imageCrcOk l

/-- The period T of an engine in ticks (R87). -/
def State.engPeriod (s : State) (e : EngId) : Nat :=
  let x := s.eng e
  if s.engRole e == 2 then Nat.max 1 x.grpDiv * (s.bnk x.grpBank).period
  else s.axPeriod x.axis * s.divI

/-- Sum of the costs of the enabled kinds, in ps (R88). -/
def ImageHdr.totalCost (h : ImageHdr) : Nat :=
  ([EvKind.sample, .fault, .host, .release].map fun k => if h.steps k = 0 then 0 else h.cost k).foldl (· + ·) 0

/-- The window of the sample handler in ticks (R29, R30, R520), from the sample-complete instant that admission takes. -/
def State.sampleWindow (s : State) (n : AxId) (half : Bool) : Nat :=
  let p := s.axPeriod n
  let base := s.guardOffset n
  let inst := if s.axMode n = 2 then p / 2 else 0
  let sc := if n.premium && s.fld Fld.AX_FBCFG_PMODE n.val == 1 then Nat.max base (inst + 202) else base
  let r := if half && decide (sc < p / 2) then p / 2 else p
  r - 3 - sc

/-- R30 for the sample handler of an axis image, in ps. -/
def State.sampleFits (s : State) (n : AxId) (half : Bool) (h : ImageHdr) : Bool :=
  h.stepsSample == 0 || decide (4000 + (2 + h.hold + h.stepsSample) * 1600 ≤ s.sampleWindow n half * 4000)

/-- The per-engine budget of R30 and R88 for an image on an engine. -/
def State.budgetOk (s : State) (e : EngId) (h : ImageHdr) : Bool :=
  decide (h.totalCost ≤ s.engPeriod e * 4000) &&
    (s.engRole e == 2 || s.sampleFits (s.eng e).axis (s.bnk (s.eng e).axis.bank).half h)

/-- Instruction memory from an image, words beyond the code zero (R84). -/
def imageImem (l : List Byte) (h : ImageHdr) : Sparse (BitVec 32) :=
  (List.range h.codeWords).foldl (fun m i => Sparse.put (fun _ => 0) m i (imageWord l h i)) []

/-- An engine loaded from an image (R84): memories written, all registers zero. The step count, the plan, the port block and
what the arbiter keeps stay. -/
def Engine.load (x : Engine) (l : List Byte) : Engine :=
  let h := ImageHdr.parse l
  { x with bank0 := .zero, bank1 := .zero, cb := Vector.replicate 8 0, cl := Vector.replicate 8 0, smpg := 0, axsel := 0,
           pc := BitVec.ofNat 12 h.entryBg, retPc := 0, imem := imageImem l h,
           dmem := Mem.storeBytes [] 0 ((l.drop (64 + 4 * h.codeWords)).take h.dataBytes), badI := [], badD := [],
           flights := [], rpt := none, long := none, handler := none, used := 0, pend := [], faultSrc := 0,
           image := some h, onGuest := false, hbSeq := none, hbGuest := none, relOpen := false, missedHb := 0, declared := false, held := 0, waitPc := none, raised := [], heldSrc := none, runFrom := 0, castRun := none }

/-- An engine zeroed (R94, Table 12): as loaded, with empty memories and no image. -/
def Engine.zero (x : Engine) : Engine :=
  { x with bank0 := .zero, bank1 := .zero, cb := Vector.replicate 8 0, cl := Vector.replicate 8 0, smpg := 0, axsel := 0,
           pc := 0, retPc := 0, imem := [], dmem := [], badI := [], badD := [], flights := [], rpt := none, long := none,
           handler := none, used := 0, pend := [], faultSrc := 0, image := none, onGuest := false, hbSeq := none, hbGuest := none, relOpen := false,
           held := 0, waitPc := none, raised := [], heldSrc := none, runFrom := 0, staged := .zero }

/-- Registers that a load clears: FAULT, merge counts, high-water marks (Tables 11a to 11d). -/
def State.loadRegs (s : State) (e : EngId) : State :=
  let s := s.setFld Fld.ENG_STAT_FAULT e.val 0
  let s := s.setFld Fld.ENG_STAT_FAULT_EV e.val 0
  let s := s.setBit Fld.ENG_STAT_FAULT_BG e.val false
  let s := s.setFld Fld.ENG_STAT_FAULT_PC e.val 0
  let s := s.setBit Fld.ENG_STAT_BK e.val false
  let s := s.setWord .ENG_EVSTAT e.val 0 0
  let s := s.setWord .ENG_HWM_SF e.val 0 0
  s.setWord .ENG_HWM_HR e.val 0 0

/-- Load an engine with an image and put it in a state. -/
def State.loadEngine (s : State) (e : EngId) (l : List Byte) (st : EngState) : State :=
  ((s.setEng e ((s.eng e).load l)).loadRegs e).setEngState e st

/-- The image store (R433): the admitted image of the engine that serves an axis, or of a group engine. -/
def ImageStore.axisImage (t : ImageStore) (n : AxId) : Option (List Byte) :=
  (t.axis.find? fun kv => kv.1 == n.val).map (·.2)

def ImageStore.putAxis (t : ImageStore) (n : AxId) (l : List Byte) : ImageStore :=
  { t with axis := t.axis.filter (fun kv => decide (kv.1 ≠ n.val)) ++ [(n.val, l)] }

def ImageStore.putGroup (t : ImageStore) (e : EngId) (l : List Byte) : ImageStore :=
  { t with group := t.group.filter (fun kv => decide (kv.1 ≠ e.val)) ++ [(e.val, l)] }

end Sys2Proof.Machine
end

