-- ==== Sys2Proof/Machine/EngineEvents.lean ====
section
/-! DEFINITION. Engine events: landing of results, grants of long accesses, the step limiter, raises of events and the step
meter (02_engines.md R63, R70 to R78, R85; 01_frames_and_release.md R32 to R34). -/

namespace Sys2Proof.Machine

/-- The earliest step at whose end a result in flight lands. -/
def Engine.nextDue (x : Engine) : Option Nat :=
  match x.flights.map Flight.due with
  | [] => none
  | d :: ds => some (ds.foldl Nat.min d)

/-- RESULT_LANDING: steps pass up to the end of the step in which the earliest result in flight lands (R70, R72). -/
def execResultLanding (e : EngId) (s : State) : Out :=
  .next (
    if !s.engRuns e then s else
    match (s.eng e).nextDue with
    | none => s
    | some d => s.steps e (s.eng e).pc (d - (s.eng e).step + 1))

/-- Steps that a long access holds the issue slot after its grant step (R63). -/
def LongAcc.holdSteps (a : LongAcc) : Nat :=
  match a.kind with
  | .store _ => if a.width = 8 then 2 else 1
  | _ => if a.width = 8 then 3 else 2

/-- The data result of a granted load, landing at the end of the last issue step (R117). -/
def LongAcc.dest (a : LongAcc) (v : Nat) : Option EngDest :=
  match a.kind with
  | .ldh d => some (.h d (BitVec.ofNat 16 v))
  | .ldp d => some (.p d (BitVec.ofNat 16 v))
  | .ldf d => some (.f d (BitVec.ofNat 32 v))
  | .lda d => some (.a d (BitVec.ofNat 40 v))
  | .store _ => none

/-- Steps that a long access may wait for its grant: the worst case of Table 11 of 03_engine_instructions.md less the minimum. -/
def LongAcc.maxWait (a : LongAcc) : Nat :=
  match a.kind with
  | .store _ => if a.width = 8 then 37 else 34
  | _ => if a.width = 8 then 40 else 37

/-- The engine has an access before the arbiter of shared memory: one that a switch abandons is none (R63). -/
def State.waitsShared (s : State) (e : EngId) : Bool :=
  s.engRuns e && !s.switching e &&
    (match (s.eng e).long with
     | some a => (match a.target with
       | .shared _ => true
       | .window _ _ => false)
     | none => false)

/-- Places from the engine granted last to this one, in the round of the arbiter (R21). -/
def State.arbRank (s : State) (e : EngId) : Nat := (e.val + 63 - s.arbLast.val) % 64

/-- It is the engine's turn: no engine that waits for shared memory comes before it in the round (R21). -/
def State.arbTurn (s : State) (e : EngId) : Bool :=
  !s.waitsShared e || (allFin 64).all fun k => !s.waitsShared k || decide (s.arbRank e ≤ s.arbRank k)

/-- The host's window writes are performed once no engine waits for shared memory: the host has the lowest priority (R21). -/
def State.hostTurn (s : State) : State :=
  if s.hostWin.isEmpty || (allFin 64).any s.waitsShared then s else
  { s with shmem := s.hostWin.foldl (fun m w => Mem.storeBytes m w.1 w.2) s.shmem, hostWin := [] }

/-- LONG_ACCESS_GRANT: `wait` issue steps pass before the grant, within the bound of Table 11; then the access is performed; the grant step and k further steps pass; pointer and data land at the end
of the last one, the data kept where both name one pointer (R63, R116, R117). The arbiter of shared memory goes round the engines
(R21). A background access that an event has found without a grant is abandoned, not granted (R63). A store is performed at its grant
though the limiter stops the engine in the grant step or a later one (log entry 114). -/
def execLongAccessGrant (e : EngId) (wait : Nat) (s : State) : Out :=
  .next (
    if !s.engRuns e || s.switching e || !s.arbTurn e then s else
    match (s.eng e).long with
    | none => s
    | some a =>
      let s := s.steps e (s.eng e).pc (Nat.min wait (a.maxWait - a.waited))
      if !s.engRuns e then s else
      let x := s.eng e
      let k := a.holdSteps
      let v := s.longLoad a.target a.width
      let s' := match a.kind with
        | .store w => s.longStore e a.target a.width w
        | _ => s
      let y := s'.eng e
      let ptr : List Res_ := match a.ptr with
        | some (p, w) => [{ lat := k + 1, dest := .p p w }]
        | none => []
      let data : List Res_ := match a.dest v with
        | some d => [{ lat := k + 1, dest := d }]
        | none => []
      let y := ({ y with long := none }).launch (ptr ++ data)
      let s' : State := match a.target with
        | .shared _ => { s' with arbLast := e }
        | .window _ _ => s'
      ((s'.setEng e { y with pc := y.pc + 1 }).steps e x.pc (k + 1)).hostTurn)

/-- STEP_LIMIT: the steps left to a running handler pass without its RETE, and the limiter stops the engine (R85). -/
def execStepLimit (e : EngId) (s : State) : Out :=
  .next (
    if !s.engRuns e then s else
    let x := s.eng e
    match x.handler with
    | none => s
    | some k => s.steps e x.pc (x.declared_ k - x.used))

/-- The bank whose frames pace an engine: that of its axis, or GRP_BANK (R87). -/
def State.engBank (s : State) (e : EngId) : BankId :=
  if s.axisLike e then (s.eng e).axis.bank else (s.eng e).grpBank

/-- The frame number that FRAME shows on an engine (Table 3 of 02_engines.md). -/
def State.engFrame (s : State) (e : EngId) : BitVec 32 :=
  if s.axisLike e then (s.ax (s.eng e).curAxis).frameNo else (s.bnk (s.eng e).grpBank).frameNo

/-- Port-block values of a raise: FRAME and DT change with a sample or release event (R60). -/
def State.portUpd (s : State) (e : EngId) (k : EvKind) (p : PortBlock) : PortBlock :=
  match k with
  | .sample => { p with frame := s.engFrame e, dt := s.dt }
  | .release => { p with frame := s.engFrame e, dt := s.dt }
  | _ => p

/-- A command addressed to a group engine has been delivered: host event at the start of its next period. -/
def State.tellGroup (s : State) (m : Nat) : State :=
  if h : m < 64 then
    let e : EngId := ⟨m, h⟩
    if s.engRole e = 2 then s.setEng e { s.eng e with hostDue := true } else s
  else s

/-- EVENT_RAISE (R74). The Armature raises each kind once in a period: a kind that has been raised in it and taken is not raised
again. -/
def execEventRaise (e : EngId) (k : EvKind) (src : BitVec 16) (s : State) : Out :=
  .next (
    let x := s.eng e
    if k ≠ .fault ∧ x.raised.contains k ∧ ¬ x.pend.contains k then s else s.raiseEvent e k src (s.portUpd e k))

/-- The pace of a window with `count` cycles, in ps, rounded up (R32). A count of 0 gives no pace the spec
states. ENG_PACE keeps its low 16 bits where it is larger (log entry 115). -/
def pacePs (count free : Nat) : Nat := if count = 0 then Config.freeNat free else (8192000 + count - 1) / count

/-- GLB_PACE_CFG.WARN_PS, limited to 1,400 to 1,600 (Table 3). -/
def State.warnPs (s : State) : Nat := Nat.min 1600 (Nat.max 1400 (s.fld Fld.GLB_PACE_CFG_WARN_PS))

/-- Bring GLB_PACE_STAT up to date, with PACE_WARN and PACE_LIMIT on rising edges (R33, R34). -/
def State.refreshPace (s : State) : State :=
  let valid := (allFin 64).filter fun e => s.bit Fld.ENG_PACE_VALID e.val
  let best := valid.foldl (fun (acc : Nat × Nat) e =>
    let p := s.fld Fld.ENG_PACE_PACE_PS e.val
    if p > acc.1 then (p, e.val) else acc) (0, 0)
  let warn := decide (best.1 > s.warnPs)
  let lim := decide (best.1 > 1600)
  let warn0 := s.bit Fld.GLB_PACE_STAT_WARN
  let lim0 := s.bit Fld.GLB_PACE_STAT_LIMIT
  let s := s.setFld Fld.GLB_PACE_STAT_MAX_PS 0 best.1
  let s := s.setFld Fld.GLB_PACE_STAT_MAX_ENG 0 best.2
  let s := s.setBit Fld.GLB_PACE_STAT_WARN 0 warn
  let s := s.setBit Fld.GLB_PACE_STAT_LIMIT 0 lim
  let s := if warn then s.setBit Fld.GLB_PACE_STAT_WARN_SEEN 0 true else s
  let s := if lim then s.setBit Fld.GLB_PACE_STAT_LIMIT_SEEN 0 true else s
  let s := if warn && !warn0 then s.event 0 0x000C best.2 best.1 else s
  if lim && !lim0 then s.event 0 0x000D best.2 best.1 else s

/-- PACE_MEASURE: a window of 2,048 ticks of the engine's step meter ends with `count` cycles (R32). It is no event before
the window has run its length. -/
def execPaceMeasure (e : EngId) (count : Nat) (s : State) : Out :=
  .next (
    match (s.eng e).meterFrom with
    | none => s
    | some t =>
      if s.tick < t + 2048 then s else
      let s1 := s.setEng e { s.eng e with meterFrom := some (t + 2048) }
      let s1 := { s1 with free := s1.free + (if count = 0 then 1 else 0) }
      let s1 := s1.setFld Fld.ENG_PACE_PACE_PS e.val (pacePs count s.free)
      (s1.setBit Fld.ENG_PACE_VALID e.val true).refreshPace)

end Sys2Proof.Machine
end

