-- ==== Sys2Proof/Machine/Monitor.lean ====
section
/-! DEFINITION. Condition monitoring (08_condition.md R261 to R280): levels, capture entries, health records, MON_CFG and
MON_BASELINE, and the loss of a monitoring engine. -/

namespace Sys2Proof.Machine

/-- The monitoring control word at 0x1E0800 is published (R266). The spec does not give its layout, so that its value is free. -/
def State.publishMon (s : State) : State :=
  { s with shmem := Mem.store s.shmem 0x1E0800 4 (Config.freeWord s.free).toNat, free := s.free + 1 }

/-- GLB_MON_STAT.LEVEL: the largest of HLEVEL, TLEVEL and 3 while EN is 0 (R275). A change is published, and the statistics of every axis
start anew; windows that began before it are abandoned (R266). -/
def State.refreshLevel (s : State) : State :=
  let l := Nat.max (Nat.max (s.fld Fld.GLB_MON_CFG_HLEVEL) (s.fld Fld.GLB_MON_STAT_TLEVEL))
    (if s.bit Fld.GLB_MON_CFG_EN then 0 else 3)
  let s := s.setBit Fld.GLB_MON_STAT_ENV_OFF 0 (decide (s.env = .resilient))
  if l = s.fld Fld.GLB_MON_STAT_LEVEL then s else
  let s := s.setFld Fld.GLB_MON_STAT_LEVEL 0 l
  let s := forAll (allFin 48) (fun s n =>
    let m := s.motion n
    (s.setMoni n { s.moni n with levelDt := s.now }).setMotion n { m with loops := { m.loops with stats := Vector.replicate 2 .zero } }) s
  s.publishMon

/-- Ticks of a current-loop period of an axis at the nominal bank period (R475 takes f_I at the nominal P). -/
def State.loopTicks (s : State) (n : AxId) : Nat := s.fld Fld.BNK_CARRIER_PERIOD n.bank.val * s.cdiv n * s.divI

/-- The axis has a capture grid (R261): a controlled axis whose current loop runs at 8 kHz or more. -/
def State.hasGrid (s : State) (n : AxId) : Bool :=
  s.axMode n != 0 && decide (0 < s.loopTicks n) && decide (s.loopTicks n ≤ 31250)

/-- Grid period G in ns (R261). -/
def State.gridNs (s : State) (n : AxId) : Nat := if s.loopTicks n ≤ 15625 then 125000 else 250000

/-- AX_MONSTAT.CAPT of every axis. -/
def State.refreshCapt (s : State) : State :=
  forAll (allFin 48) (fun s n => s.setBit Fld.AX_MONSTAT_CAPT n.val (s.hasGrid n)) s

/-- A capture value limited to −0x7FFF to 0x7FFF (R263). -/
def capLimit (v : BitVec 16) : BitVec 16 := if v = 0x8000 then 0x8001 else v

/-- One capture entry (R262, R263): ID, and IQ with its lap bit, at index (g / G) mod 4,096; a gap in IDLE, SAFE and
ABSENT. -/
def State.writeCapture (s : State) (n : AxId) (g : Nat) (id iq : BitVec 16) : State :=
  if !s.bit Fld.AX_MONSTAT_CAPT n.val then s else
  let k := g / s.gridNs n
  let st := s.axState n
  let id := if st = .idle ∨ st = .safe ∨ st = .absent then 0x8000 else capLimit id
  let iq := (capLimit iq &&& 0xFFFE) ||| BitVec.ofNat 16 ((k / 4096) % 2)
  { s with shmem := Mem.store s.shmem (0x100000 + 0x4000 * n.val + 4 * (k % 4096)) 4 (id.toNat + iq.toNat * 65536) }

/-- A record whose bearing bands are all valid completes every MON_BASELINE that then has its 8 sums: BASE is their mean (R274; log
entry 132). -/
def State.feedBaseline (s : State) (n : AxId) (sum : F32) : State :=
  let m := s.moni n
  let all := m.baselines.map fun b => (b.1, b.2 ++ [sum])
  let full := all.filter fun b => decide (8 ≤ b.2.length)
  let m := { m with baselines := all.filter (fun b => !decide (8 ≤ b.2.length)),
                    base := match full with | b :: _ => b.2 | [] => m.base }
  forAll full (fun s b => s.doneAxis b.1 n s.now) (s.setMoni n m)

/-! ## Windows and records (R265 to R271, R278) -/

/-- The record interval in force in ns: none at LEVEL 3 and under RESILIENT (R265). -/
def State.recInterval (s : State) : Option Nat :=
  let l := s.fld Fld.GLB_MON_STAT_LEVEL
  if l = 3 ∨ s.env = .resilient then none
  else some ((if s.env = .agile then 10000000000 else 2000000000) * 2 ^ l)

/-- N, the transform length of an axis (Table 4), and its band set. -/
def AxMon.shape (m : AxMon) : Nat × Nat :=
  match m.cfg with
  | some (.monCfg _ _ _ b l _ _ _ _) => (2 ^ l.toNat, b.toNat)
  | _ => (256, 0)

/-- Record `j` of an axis and its instant, the latest at or before `t` (R265). -/
def recordBefore (n : AxId) (i t : Nat) : Option (Nat × Nat) :=
  let base := n.val * i / 64
  if t < base then none else
  let j := (t - base) / i
  some (j, base + j * i)

/-- DT between the first grid instant of a window and its record instant (R266). -/
def State.windowSpan (s : State) (n : AxId) : Nat := ((s.moni n).shape.1 + 2047) * s.gridNs n

/-- The entry of grid instant `g` in the capture buffer is a gap: marked, or left over from another lap (R263). -/
def State.gapAt (s : State) (n : AxId) (g : Nat) : Bool :=
  let k := g / s.gridNs n
  let a := 0x100000 + 0x4000 * n.val + 4 * (k % 4096)
  Mem.load s.shmem a 2 == 0x8000 || Mem.load s.shmem (a + 2) 1 % 2 != (k / 4096) % 2

/-- A frame number is later than another (R13). -/
def laterFrame (a b : BitVec 32) : Bool := decide (0 < (a - b).toInt)

/-- FRAME of a half of the Cast, where the half is valid for an image at axis frame `cur` (15_failover.md R426). -/
def Axis.castFrame (x : Axis) (h : Nat) (img : Nat) (cur : BitVec 32) : Option (BitVec 32) :=
  let f := BitVec.ofNat 32 (Mem.load x.win (0x80 * h) 4)
  let o := 0x80 * h
  if Mem.load x.win (o + 0x7C) 4 = (f ^^^ 0xA5A5A5A5).toNat ∧ Mem.load x.win (o + 0x78) 4 = img ∧ laterFrame f cur = false
  then some f else none

/-- The Cast of an axis: its valid half with the later FRAME (R426). -/
def State.castOf (s : State) (n : AxId) : Option Nat :=
  let x := s.ax n
  let img := match s.store.axisImage n with | some l => imageCrc l | none => 0
  match x.castFrame 0 img x.frameNo, x.castFrame 1 img x.frameNo with
  | some f, some g => some (if laterFrame g f then 1 else 0)
  | some _, none => some 0
  | none, some _ => some 1
  | none, none => none

/-- The Cast of an axis is more than 1 ms old, or empty: the whole window is a gap (R278). -/
def State.castOld (s : State) (n : AxId) (t : Nat) : Bool :=
  match s.castOf n with
  | some h => decide (Mem.load (s.ax n).win (0x80 * h + 8) 8 + 1000000 < t)
  | none => true

/-- Gaps of a window that starts at `ws`: whether it holds one, and how many of the 2,048 averaging positions have one among their
last N inputs (R268). -/
def State.windowGaps (s : State) (n : AxId) (ws t : Nat) : Bool × Nat :=
  let len := (s.moni n).shape.1
  let old := s.castOld n t
  let r := (List.range (len + 2048)).foldl (fun (acc : Bool × Nat × Nat) i =>
    let gap := old || s.gapAt n (ws + i * s.gridNs n)
    let run := if gap then 0 else acc.2.1 + 1
    (acc.1 || gap, run, if len ≤ i ∧ run < len then acc.2.2 + 1 else acc.2.2)) (false, 0, 0)
  (r.1, r.2.2)

/-- The statistics block of record `j` (R264). -/
def AxMot.block (m : AxMot) (j : Nat) : StatBlock :=
  let b := if j % 2 = 0 then m.loops.stats[0] else m.loops.stats[1]
  if b.record = some j then b else { StatBlock.zero with record := some j }

/-- abs(IQ_MEAN) is at least 1/64 (Table 2). -/
def StatBlock.loaded (b : StatBlock) : Bool := decide (0 < b.count) && decide (512 * b.count ≤ b.iq.natAbs)

/-- The record that a health period at `t` may send: its number, its instant, the start of its window and the record interval. It is the
record whose instant is the latest that lies 1 ms before the period, whose whole window falls after the latest change of LEVEL and
after MON_CFG, and that has not been sent (R265, R266, R272, R279). -/
def State.recordDue (s : State) (n : AxId) (t : Nat) : Option (Nat × Nat × Nat × Nat) :=
  let m := s.moni n
  match s.recInterval with
  | none => none
  | some i =>
    match recordBefore n i (t - 1000000) with
    | none => none
    | some (j, r) =>
      let span := s.windowSpan n
      let ws := r - span
      if !s.bit Fld.AX_MONSTAT_ACTIVE n.val || decide (r < span) || decide (ws ≤ m.levelDt) || decide (ws < m.cfgDt) ||
         (match m.lastRec with | some p => decide (r ≤ p) | none => false) then none else some (j, r, ws, i)

/-- Resistance injection (R270): +RINJ in the first 32 and −RINJ in the last 32 of the 64 grid instants before each window. -/
def State.injection (s : State) (n : AxId) (t : Nat) : Int :=
  let m := s.moni n
  match m.cfg, s.recInterval with
  | some (.monCfg _ _ _ _ _ rinj _ _ _), some i =>
    if !s.bit Fld.AX_MONSTAT_ACTIVE n.val then 0 else
    let base := n.val * i / 64
    let x := t + s.windowSpan n
    let r := if x < base then base else base + ((x - base) / i + 1) * i
    let left := r - x
    if left ≤ 32 * s.gridNs n then -rinj.toInt else if left ≤ 64 * s.gridNs n then rinj.toInt else 0
  | _, _ => 0

/-- GLB_MON_ENG: the engines that some monitored axis names (R273). -/
def State.refreshMonEng (s : State) : State :=
  let m := (allFin 48).foldl (fun (acc : Nat) n =>
    if s.bit Fld.AX_MONSTAT_ACTIVE n.val then acc ||| 2 ^ s.fld Fld.AX_MONSTAT_MON_ENG n.val else acc) 0
  let s := s.setFld Fld.GLB_MON_ENG_LO_ENG 0 (m % 2 ^ 32)
  s.setFld Fld.GLB_MON_ENG_HI_ENG 0 (m / 2 ^ 32)

/-- The engine is a monitoring engine (R276). -/
def State.isMonEngine (s : State) (e : EngId) : Bool :=
  if e.val < 32 then (s.word .GLB_MON_ENG_LO).getLsbD e.val else (s.word .GLB_MON_ENG_HI).getLsbD (e.val - 32)

/-- Monitoring of an axis ends because its engine or its owner changes (R277, R289): MON_LOST to the owning function. -/
def State.loseMonitor (s : State) (n : AxId) : State :=
  if !s.bit Fld.AX_MONSTAT_ACTIVE n.val then s else
  let e := s.fld Fld.AX_MONSTAT_MON_ENG n.val
  let s := s.setBit Fld.AX_MONSTAT_ACTIVE n.val false
  let s := s.setMoni n { s.moni n with issuer := none }
  let s := s.setBit Fld.GLB_MON_STAT_ENG_LOST 0 true
  (s.event (s.axisOwner n) 0x000B n.val e).refreshMonEng

/-- A monitoring engine leaves its role (R277). -/
def State.loseMonEngine (s : State) (e : EngId) : State :=
  forAll ((allFin 48).filter fun n => s.bit Fld.AX_MONSTAT_ACTIVE n.val && s.fld Fld.AX_MONSTAT_MON_ENG n.val == e.val)
    State.loseMonitor s

/-- Band set and NLOG of a MON_CFG. -/
def monShape : Option HostCmd → Option (BitVec 8 × BitVec 8)
  | some (.monCfg _ _ _ b l _ _ _ _) => some (b, l)
  | _ => none

/-- MON_CFG at its delivery boundary (R272, R274). -/
def execMonCfg (src : CmdSrc) (n : AxId) (enable monEng bandset nlog : BitVec 8) (rinj : BitVec 16) (lq rRef tRef : F32)
    (s : State) : Out :=
  let cmd : HostCmd := .monCfg n enable monEng bandset nlog rinj lq rRef tRef
  .next (s.deliver src cmd fun s d =>
    let m := s.moni n
    let keep := monShape m.cfg = none ∨ monShape m.cfg = some (bandset, nlog)
    let m := { m with cfg := some cmd, issuer := some src, base := if keep then m.base else [], cfgDt := d }
    let s := s.setMoni n m
    let s := s.setBit Fld.AX_MONSTAT_ACTIVE n.val (decide (enable = 1))
    let s := if enable = 1 then s.setFld Fld.AX_MONSTAT_MON_ENG n.val (monEng.toNat % 64) else s
    (s.refreshMonEng.tellGroup monEng.toNat).doneAxis src n d)

/-- MON_BASELINE: the next 8 records with a bearing sum set BASE; DONE then (R274). -/
def execMonBaseline (src : CmdSrc) (n : AxId) (s : State) : Out :=
  .next (s.deliver src (.monBaseline n) fun s _ =>
    let m := s.moni n
    (s.setMoni n { m with baselines := m.baselines ++ [(src, [])] }).tellGroup (s.fld Fld.AX_MONSTAT_MON_ENG n.val))

end Sys2Proof.Machine
end

