-- ==== Sys2Proof/Machine/Failover.lean ====
section
/-! DEFINITION. The claim arbiter and the engine plan: declarations (R428, R429), take-over (R432 to R435), repair (R436,
R437), sharing (R438), engineless axes (R439, R440), zeroing and copies (R94, R97) and GLB_ALLOC.APPLY (R92, R93). -/

namespace Sys2Proof.Machine

/-- Seconds in ticks. -/
def secTicks : Nat := 250000000

/-- Count the spare and STANDBY engines into GLB_FO_STAT, and EXHAUSTED (Table 11 of 15_failover.md). -/
def State.refreshFo (s : State) : State :=
  let idle := ((allFin 64).filter fun e => s.engRole e == 3 && s.engState e == .idle).length
  let stby := ((allFin 64).filter fun e => s.engState e == .standby).length
  let exh := (allFin 48).any fun n => s.fld Fld.AX_FOSTAT_SERVICE n.val != 0
  let s := s.setFld Fld.GLB_FO_STAT_SPARES_LEFT 0 idle
  let s := s.setFld Fld.GLB_FO_STAT_STANDBY 0 stby
  let s := s.setBit Fld.GLB_FO_STAT_EXHAUSTED 0 exh
  if exh then s.setBit Fld.GLB_FO_STAT_EXH_SEEN 0 true else s

/-- Records of Table 9 that name an axis go to F0 and to the owner of the axis (R446). -/
def State.foRecord (s : State) (n : AxId) (type src detail : Nat) (data : List Byte) : State :=
  let s := s.event 0 type src detail data
  if s.axisOwner n = 0 then s else s.event (s.axisOwner n) type src detail data

/-- Give an engine the highest claim of an axis plus 1, in AX_FOSTAT and ENG_FO (R431). -/
def State.raiseClaim (s : State) (n : AxId) (e : EngId) : State :=
  let c := (s.failover n).topClaim + 1
  let s := s.setFailover n { s.failover n with topClaim := c }
  let s := s.setFld Fld.AX_FOSTAT_CLAIM n.val c
  let s := s.setFld Fld.AX_FOSTAT_ENG n.val e.val
  let s := s.setFld Fld.ENG_FO_CLAIM e.val c
  s.setFld Fld.ENG_FO_AXIS e.val n.val

/-- An axis leaves OFF: both MARK words of its Cast are cleared (R426). -/
def State.clearMarks (s : State) (n : AxId) : State :=
  let x := s.ax n
  s.setAx n { x with win := Mem.store (Mem.store x.win 0x7C 4 0) 0xFC 4 0 }

/-- The axis leaves OFF: its engine takes claim 1 (R431). -/
def State.firstClaim (s : State) (n : AxId) (e : EngId) : State :=
  let s := s.setFailover n { s.failover n with topClaim := 0 }
  (s.raiseClaim n e).setFld Fld.AX_FOSTAT_SERVICE n.val 0

/-- Hall code of the axis valid, and a commutated mode in which coast-through or an arbiter stop can drive (R179, R439). -/
def State.canCoast (s : State) (n : AxId) : Bool :=
  (s.axMode n == 1 && s.bit Fld.AX_PWM_COAST n.val) && (s.ax n).hallValid

/-- The duty with which coast-through or an arbiter stop starts: the span of an FOC axis, the released duty of a six-step
one. -/
def State.coastDuty (s : State) (n : AxId) : Nat :=
  let v := (s.ax n).released
  if s.axMode n = 2 then Nat.min (4 * s.axPeriod n) (v.cu.extractLsb' 0 20).toNat else v.span (s.axPeriod n)

def State.setCoast (s : State) (n : AxId) (b : Bool) : State :=
  let s := s.setFailover n { s.failover n with coast := b }
  (s.setBit Fld.AX_PSTAT_COAST n.val b).refreshAxis n

/-- Coast-through runs from the declaration until R42 ends it, while the axis can be driven so (R179). -/
def State.refreshCoast (s : State) (n : AxId) : State :=
  let f := s.failover n
  let on := f.winEnd.isSome && !f.engineless && s.canCoast n && s.axState n != .off
  if on = f.coast then s else s.setCoast n on

/-- ENG_LOSS for an axis (R439 step 3). The preparation of an engine that waits for the axis begins (R440). -/
def State.raiseEngLoss (s : State) (n : AxId) : State :=
  let s := s.setFailover n { s.failover n with arbStop := none, engineless := true, coast := false }
  let s := match (s.failover n).candidate with
    | some (e, _) => (s.setFailover n { s.failover n with candDue := s.tick + 806 }).setEngState e .clearing
    | none => s
  let s := s.setBit Fld.AX_PSTAT_COAST n.val false
  let s := s.setFld Fld.AX_FOSTAT_SERVICE n.val 3
  let s := s.setFld Fld.AX_FOSTAT_CLAIM n.val 0
  s.withDemands n 1 fun d => { d with engLoss := true }

/-- The Hall code becomes invalid during an arbiter stop: ENG_LOSS at once (R439 step 3). -/
def State.hallLost (s : State) (n : AxId) : State :=
  if (s.failover n).arbStop.isSome && !(s.ax n).hallValid then (s.raiseEngLoss n).refreshFo else s

/-- The axis that a host command names as its own, if it is an axis command (R439 step 1). -/
def cmdAxis : HostCmd → Option AxId
  | .axisEnable n _ => some n
  | .axisHold n => some n
  | .wcClear n => some n
  | .setCoef n _ _ => some n
  | .posPreload n _ => some n
  | .moveAbs n _ _ _ _ _ => some n
  | .moveVel n _ _ _ => some n
  | .moveLim n _ _ _ _ => some n
  | .gear n _ _ _ _ _ _ => some n
  | .cam n _ _ _ _ _ _ _ => some n
  | .home n _ _ _ _ _ _ => some n
  | .stepCfg n _ _ _ _ _ _ => some n
  | .latchArm n _ _ _ _ _ => some n
  | .monCfg n _ _ _ _ _ _ _ _ => some n
  | .monBaseline n => some n
  | _ => none

/-- The axis becomes engineless (R439): queue and undelivered commands end with FAULT, ENG_LOSS; an arbiter stop where the
Halls can drive the axis, else the ENG_LOSS demand at once. `why` is the cause of the AXIS_ENGINELESS record. -/
def State.engineless (s : State) (n : AxId) (why : Nat) : State :=
  let s := s.emptyQueue n .fault 4
  let lost := s.accepted.filter fun a => cmdAxis a.cmd == some n
  let s := { s with accepted := s.accepted.filter fun a => !(cmdAxis a.cmd == some n) }
  let s := forAll lost (fun s a => s.complete a.src .fault 4 0 (s.axState n).data) s
  let drive := (s.canCoast n || s.axMode n == 2 && (s.ax n).hallValid) && s.axState n != .off
  let s := s.foRecord n 0x0052 n.val (if drive then 1 else 2) [BitVec.ofNat 8 why]
  if drive then
    let s := s.setFailover n { s.failover n with arbStop := some (s.coastDuty n, s.tick), candidate := none, incomplete := none,
                                                 failedAt := none }
    let s := s.setFld Fld.AX_FOSTAT_SERVICE n.val 2
    (s.setFld Fld.AX_FOSTAT_CLAIM n.val 255).refreshFo
  else
    ((s.setFailover n { s.failover n with candidate := none, incomplete := none, failedAt := none }).raiseEngLoss n).refreshFo

/-- Ticks of preparation from the declaration, by order of Table 4 (Table 5), and 6: of a neighbour (R438). -/
def orderTicks : Nat → Nat
  | 1 => 2
  | 2 => 806
  | 3 => 1206
  | 6 => 2
  | _ => 1210

/-- The engine is already taken as the candidate of some axis. -/
def State.taken (s : State) (e : EngId) : Bool :=
  (allFin 48).any fun n => match (s.failover n).candidate with
    | some (c, _) => c == e
    | none => false

/-- The first qualifying candidate of Table 4 for an axis. -/
def State.candidateFor (s : State) (n : AxId) : Option (EngId × Nat) :=
  let free := (allFin 64).filter fun e => !s.taken e
  match free.find? fun e => s.engState e == .standby && (s.eng e).axis == n with
  | some e => some (e, 1)
  | none =>
    match free.find? fun e => s.engRole e == 3 && s.engState e == .idle with
    | some e => some (e, 2)
    | none =>
      match free.find? fun e => s.engState e == .standby with
      | some e => some (e, 3)
      | none =>
        match free.find? fun e => s.engRole e == 2 && s.isMonEngine e && s.engState e == .running with
        | some e => some (e, 4)
        | none => none

/-- Roles after a take-over (R435): the new engine takes the axis, the failed one becomes a spare. Its first run loads the Cast
(R427). -/
def State.swapRoles (s : State) (n : AxId) (newE : EngId) (old : Option EngId) : State :=
  let s := match old with
    | some o => if o = newE then s else
      (s.hwPut Fld.ENG_ROLE_ROLE o.val 3).setFld Fld.ENG_STAT_ROLE o.val 3
    | none => s
  let s := s.hwPut Fld.ENG_ROLE_ROLE newE.val 1
  let s := s.hwPut Fld.ENG_ROLE_AXIS newE.val n.val
  let s := s.setFld Fld.ENG_STAT_ROLE newE.val 1
  s.setEng newE { s.eng newE with axis := n, castRun := some n }

/-- The new engine holds the claim and serves the axis (R433); an engineless axis loses its ENG_LOSS demand (R186, R440). -/
def State.assign (s : State) (n : AxId) (e : EngId) (order : Nat) : State :=
  let old := (s.failover n).failedEng
  let s := s.swapRoles n e old
  let s := s.raiseClaim n e
  let s := s.setFld Fld.AX_FOSTAT_SERVICE n.val 0
  let s := s.setFailover n { s.failover n with candidate := none, incomplete := some order, engineless := false,
                                               arbStop := none }
  (s.withDemands n 1 fun d => { d with engLoss := false }).refreshFo

/-- The neighbours of an axis in the order of R438. -/
def neighbours (n : AxId) : List AxId :=
  let first : List AxId := (allFin 48).filter fun m => m.val == n.val ^^^ 1
  let rest := (List.range 8).flatMap fun d => (allFin 48).filter fun m =>
    decide (m.bank = n.bank) && m != n && m.val != n.val ^^^ 1 && (m.val + d + 1 == n.val || m.val == n.val + d + 1)
  first ++ rest

/-- A neighbour engine that may serve both axes at half rate (R438). -/
def State.shareHost (s : State) (n : AxId) : Option (AxId × EngId) :=
  if !((s.env == .balanced || s.env == .resilient) && s.bit Fld.GLB_FO_CFG_SHARE_EN &&
       s.bit Fld.AX_CFG_SHAREABLE n.val) then none else
  (neighbours n).findSome? fun m =>
    match s.axisEngine m with
    | none => none
    | some e =>
      let x := s.eng e
      let ok := x.guest.isNone && !s.taken e && x.axis == m && s.engState e == .running && s.bit Fld.AX_CFG_SHAREABLE m.val &&
        (match x.image, s.store.axisImage n, s.store.axisImage m with
         | some h, some a, some b => h.halfRate && imageCrc a == imageCrc b &&
             decide (h.totalCost + h.cost .sample ≤ 2 * s.engPeriod e * 4000)
         | _, _, _ => false)
      if ok then some (m, e) else none

/-- The engine serves both axes (R438); the guest's claim is kept beside its own. -/
def State.share (s : State) (n : AxId) (e : EngId) : State :=
  let c := (s.failover n).topClaim + 1
  let s := match (s.failover n).failedEng with
    | some o => (s.hwPut Fld.ENG_ROLE_ROLE o.val 3).setFld Fld.ENG_STAT_ROLE o.val 3
    | none => s
  let s := s.setEng e { s.eng e with guest := some n, guestClaim := c, castRun := some n }
  let s := s.setFailover n { s.failover n with topClaim := c, incomplete := some 6, candidate := none }
  let s := s.setFld Fld.AX_FOSTAT_CLAIM n.val c
  let s := s.setFld Fld.AX_FOSTAT_ENG n.val e.val
  let s := s.setFld Fld.AX_FOSTAT_SERVICE n.val 1
  let s := s.setBit Fld.ENG_FO_SHARED e.val true
  (s.setFld Fld.ENG_FO_AXIS e.val n.val).refreshFo

/-- The decision for an axis whose engine was declared failed (R432, R434, R438, R439). Zeroing of an APPLY in progress ends
before the preparation starts (R441). -/
def State.takeOver (s : State) (n : AxId) (programFault : Bool) : State :=
  let f := s.failover n
  let recent := match f.lastTakeover with
    | some t => decide (s.tick < t + secTicks)
    | none => false
  if programFault && recent then s.engineless n 2
  else if f.topClaim ≥ 254 then s.engineless n 3
  else match s.candidateFor n with
    | some (e, o) =>
      let s := s.setFailover n { s.failover n with lastTakeover := if programFault then some s.tick else f.lastTakeover }
      if o = 1 then s.setEngState e .running |>.assign n e 1
      else
        let t := ((allFin 64).map fun e => if (s.eng e).byApply then (s.eng e).prepDue else 0).foldl Nat.max s.tick
        let s := s.setFailover n { s.failover n with candidate := some (e, o), candDue := t + orderTicks o }
        let s := if o = 4 then s.loseMonEngine e else s
        let s := if o = 2 then s else
          (s.setEng e ((s.eng e).zero)).setFld Fld.ENG_FO_CLAIM e.val 0
        s.setEngState e .clearing |>.refreshFo
    | none =>
      match s.shareHost n with
      | some (_, e) => s.setFailover n { s.failover n with candidate := some (e, 6), candDue := s.tick + orderTicks 6,
                                                           lastTakeover := if programFault then some s.tick else f.lastTakeover }
      | none => s.engineless n 1

/-- A neighbour that has been chosen serves both axes from the first bank frame boundary at least 2 ticks after the decision; where it
has stopped since, the decision is made again (R438). -/
def State.shareDue (s : State) (t : Nat) (n : AxId) : State :=
  match (s.failover n).candidate with
  | some (e, o) =>
    if o ≠ 6 ∨ t < (s.failover n).candDue then s
    else if s.engState e == .running then s.share n e
    else (s.setFailover n { s.failover n with candidate := none }).takeOver n false
  | none => s

/-- The window of R42 and coast-through of R179 start at a declaration; a window in progress keeps running (R441). -/
def State.startWindow (s : State) (n : AxId) (e : EngId) : State :=
  let f := s.failover n
  let s := s.setFailover n { f with
    failedAt := some (f.failedAt.getD s.tick), failedEng := some e,
    winEnd := some (f.winEnd.getD (s.tick + 3 * s.divI * s.axPeriod n)) }
  s.refreshCoast n

/-- Order byte of the ENG_FAIL record: the order the decision took (Table 9). -/
def State.orderByte (s : State) (n : AxId) : Nat :=
  match (s.failover n).candidate with
  | some (_, o) => Nat.min 5 o
  | none => match (s.failover n).incomplete with
    | some 1 => 1
    | _ => 5

/-- A declared engine is repaired (R436), or retired where it fails again within 10 s of a passed self-test (R437). -/
def State.startRepair (s : State) (e : EngId) : State :=
  let x := s.eng e
  let again := match x.lastPass with
    | some t => decide (s.tick < t + 10 * secTicks)
    | none => false
  if again then
    let s := s.setBit Fld.ENG_FO_RETIRED e.val true
    let s := s.setBit Fld.ENG_PACE_VALID e.val false
    let s := s.setEng e { s.eng e with meterFrom := none }
    (s.foRecord x.axis 0x0053 e.val 0 [BitVec.ofNat 8 x.axis.val]).refreshPace
  else if s.bit Fld.GLB_FO_CFG_REPAIR then
    let s := s.setEng e { s.eng e with prep := some .zeroing, prepDue := s.tick + 400, repairing := true }
    s.setEngState e .clearing
  else s

/-- Declare an engine failed (R428, R429): stopped, FAULTED, claim dead, ENG_FAIL; then the take-over of each axis it
served, and its own repair. -/
def State.declare (s : State) (e : EngId) : State :=
  let x := s.eng e
  let role := s.engRole e
  let wasStandby := role != 1 && role != 2
  let code := s.fld Fld.ENG_STAT_FAULT e.val
  let prog := decide (1 ≤ code) && decide (code ≤ 4)
  let s := s.setEng e { x with declared := true, oldClaim := s.fld Fld.ENG_FO_CLAIM e.val, flights := [], long := none,
                               rpt := none, handler := none, pend := [], guest := none, onGuest := false }
  let s := s.setEngState e .faulted
  let s := s.setFld Fld.ENG_FO_CLAIM e.val 0
  let s := s.setBit Fld.ENG_FO_SHARED e.val false
  let s := (s.setFld Fld.GLB_FO_STAT_LAST_FAIL 0 e.val).logFault 4 e.val code
  if role = 2 then
    let s := s.loseMonEngine e
    s.event 0 0x0050 e.val code [0xFF, 0]
  else if wasStandby then
    (s.foRecord x.axis 0x0050 e.val code [BitVec.ofNat 8 x.axis.val, 0]).startRepair e |>.refreshFo
  else
    let axes := (allFin 48).filter fun n => n == x.axis || x.guest == some n
    let s := forAll axes (fun s n =>
      let s := s.setFld Fld.AX_FOSTAT_CLAIM n.val 0
      let s := s.startWindow n e
      let s := s.takeOver n prog
      s.foRecord n 0x0050 e.val code [BitVec.ofNat 8 n.val, BitVec.ofNat 8 (s.orderByte n)]) s
    -- Axes that were to be shared with it take another way.
    let s := forAll ((allFin 48).filter fun n => (s.failover n).candidate == some (e, 6)) (fun s n =>
      (s.setFailover n { s.failover n with candidate := none }).takeOver n prog) s
    (s.startRepair e).refreshFo

/-- ENGINE_FAIL_DECLARED: the arbiter declares an engine that a fault of codes 1 to 6 has stopped (R428, Table 3). -/
def execEngineFailDeclared (e : EngId) (s : State) : Out :=
  .next (
    let c := s.fld Fld.ENG_STAT_FAULT e.val
    if s.engState e == .faulted && !(s.eng e).declared && decide (1 ≤ c) && decide (c ≤ 6) then s.declare e else s)

/-- FAILOVER_WINDOW_END: the 3 current-loop periods of R42 have passed; a later miss raises the demand at once, and coast-through ends
(R179). -/
def execFailoverWindowEnd (n : AxId) (s : State) : Out :=
  .next (
    match (s.failover n).winEnd with
    | some t => if s.tick < t then s else (s.setFailover n { s.failover n with winEnd := none }).refreshCoast n
    | none => s)

/-- A chosen candidate that is not started is a spare again, zeroed and IDLE, or, where it was a group engine, OFF and powered down
(R95). -/
def State.backToSpare (s : State) (e : EngId) : State :=
  if s.engRole e = 2 then
    let s := s.setEng e { s.eng e with meterFrom := none }
    ((s.setBit Fld.ENG_PACE_VALID e.val false).refreshPace).setEngState e .off
  else s.setEngState e .idle

/-- TAKEOVER_START: a prepared candidate of order 2 to 4 starts at ENTRY_BG in RUNNING with a raised claim, and takes sample events from
1 tick later on (R433). -/
def execTakeoverStart (n : AxId) (s : State) : Out :=
  .next (
    match (s.failover n).candidate with
    | none => s
    | some (e, o) =>
      if s.tick < (s.failover n).candDue || (s.failover n).arbStop.isSome || o == 6 then s else
      match s.store.axisImage n with
      | none => ((s.backToSpare e).engineless n 1)
      | some img =>
        let rep := (s.failover n).engineless
        let s := s.loadEngine e img .running
        let s := s.setEng e { s.eng e with runFrom := s.tick + 1 }
        let s := s.assign n e o
        if rep then s.foRecord n 0x0053 e.val 2 [BitVec.ofNat 8 n.val] else s)

/-- The axis is engineless under R439, or in its arbiter stop, and no engine waits for it (R440). -/
def State.wantsEngine (s : State) (n : AxId) : Bool :=
  ((s.failover n).engineless || (s.failover n).arbStop.isSome) && (s.failover n).candidate.isNone

/-- An engine enters IDLE in spare role: the lowest-numbered engineless axis takes it; during the arbiter stop of the axis it waits in
IDLE until ENG_LOSS is raised (R440). -/
def State.enterIdleSpare (s : State) (e : EngId) : State :=
  let s := s.setEngState e .idle
  match (allFin 48).find? s.wantsEngine with
  | some n =>
    let s := s.setFailover n { s.failover n with candidate := some (e, 2), candDue := s.tick + 806, failedEng := none }
    (if (s.failover n).arbStop.isSome then s else s.setEngState e .clearing).refreshFo
  | none => s.refreshFo

/-- ENGINE_SELFTEST_DONE: passed with a valid pace at or below WARN_PS, the engine follows its former axis as STANDBY;
failed, it is retired (R436, R437). -/
def execEngineSelftestDone (e : EngId) (pass : Bool) (s : State) : Out :=
  .next (
    let x := s.eng e
    if x.prep ≠ some .selftest then s else
    let s := s.setBit Fld.ENG_FO_SELFTEST e.val false
    let s := s.setEng e { s.eng e with prep := none, repairing := false }
    let ok := pass && s.bit Fld.ENG_PACE_VALID e.val && decide (s.fld Fld.ENG_PACE_PACE_PS e.val ≤ s.warnPs)
    if ok then
      let s := s.setEng e { s.eng e with lastPass := some s.tick }
      let engl := (allFin 48).any s.wantsEngine
      match s.store.axisImage x.axis with
      | some img =>
        if engl then s.enterIdleSpare e else
        let s := s.loadEngine e img .standby
        let s := s.setFld Fld.ENG_FO_CLAIM e.val x.oldClaim
        let s := s.setFld Fld.ENG_FO_AXIS e.val x.axis.val
        (s.foRecord x.axis 0x0053 e.val 1 [BitVec.ofNat 8 x.axis.val]).refreshFo
      | none => s.enterIdleSpare e
    else
      let s := s.setEngState e .faulted
      let s := s.setBit Fld.ENG_FO_RETIRED e.val true
      let s := s.setBit Fld.ENG_PACE_VALID e.val false
      let s := s.setEng e { s.eng e with meterFrom := none }
      (s.foRecord x.axis 0x0053 e.val 0 [BitVec.ofNat 8 x.axis.val]).refreshPace)

/-- Zeroing of an engine for a plan change has ended for all: BUSY ends and DONE is set (R94, Table 10). -/
def State.applyFinished (s : State) : State :=
  if (allFin 64).any fun e => (s.eng e).byApply then s
  else if s.bit Fld.GLB_ALLOC_BUSY then (s.setBit Fld.GLB_ALLOC_BUSY 0 false).setBit Fld.GLB_ALLOC_DONE 0 true
  else s

/-- ZEROING_DONE: zeroing takes 400 ticks (Table 12). A repair goes on to its self-test; a spare becomes IDLE, its meter
running; any other engine is OFF and powered down (R95). Where an ENG_LOAD has taken the engine of an APPLY, the zeroing that BUSY
shows has ended and the copy goes on. -/
def execZeroingDone (e : EngId) (s : State) : Out :=
  .next (
    let x := s.eng e
    let copies := match x.prep with
      | some (.copying _) => true
      | _ => false
    if x.byApply && copies && decide (x.prepDue ≤ s.tick + 800) then (s.setEng e { x with byApply := false }).applyFinished else
    if x.prep ≠ some .zeroing || decide (s.tick < x.prepDue) then s else
    let s := s.setEng e { x.zero with prep := none, byApply := false }
    if x.repairing then
      let s := s.setEng e { s.eng e with prep := some .selftest, prepDue := s.tick + 62500 }
      s.setBit Fld.ENG_FO_SELFTEST e.val true
    else
      let s := if s.engRole e = 3 then
          let y := s.eng e
          (s.setEng e { y with meterFrom := some (y.meterFrom.getD s.tick) }).enterIdleSpare e
        else
          let s := s.setEng e { s.eng e with meterFrom := none }
          let s := (s.setBit Fld.ENG_PACE_VALID e.val false).refreshPace
          s.setEngState e .off
      if x.byApply then s.applyFinished else s)

/-- A LOADED engine starts: bank 0 at ENTRY_BG, DONE at its first background instruction 4 ticks later (R84, Table 12). -/
def State.startEngine (s : State) (e : EngId) (src : Option CmdSrc) : State :=
  let s := s.setEngState e .running
  let x := s.eng e
  let s := s.setEng e { x with wantStart := none, runFrom := s.tick + 4,
                               pc := match x.image with | some h => BitVec.ofNat 12 h.entryBg | none => 0 }
  match src with
  | some c => s.complete c .done 0 0 [] (s.now + 16)
  | none => s

/-- IMAGE_COPY_DONE: the copy of an image ends with its CRC check; the engine is LOADED, or the command ends with FAULT,
IMAGE_CRC (R84, R97; Table 7 of 10_descriptors.md). A start that waits for the copy is then made. -/
def execImageCopyDone (e : EngId) (crcOk : Bool) (s : State) : Out :=
  .next (
    let x := s.eng e
    match x.prep with
    | some (.copying src) =>
      if s.tick < x.prepDue then s else
      let s := if x.byApply then (s.setEng e { s.eng e with byApply := false }).applyFinished else s
      if crcOk then
        let s := s.loadEngine e x.copyImg .loaded
        let s := s.setEng e { s.eng e with prep := none, copyImg := [] }
        let s := { s with store := if s.engRole e = 2 then s.store.putGroup e x.copyImg
                                   else s.store.putAxis x.axis x.copyImg }
        let s := match src with
          | some c => s.complete c .done
          | none => s
        match x.wantStart with
        | some c => s.startEngine e c
        | none => s
      else
        let s := s.setEng e { (s.eng e).zero with prep := none, copyImg := [], wantStart := none, meterFrom := none }
        let s := (s.setBit Fld.ENG_PACE_VALID e.val false).refreshPace
        let s := s.setEngState e .off
        let s := match src with
          | some c => s.complete c .fault 5
          | none => s
        match x.wantStart with
        | some (some c) => s.complete c .cancelled
        | _ => s
    | _ => s)

/-! ## GLB_ALLOC.APPLY (R92, R93, R96) -/

/-- Staged plan of an engine. -/
def State.stagedRole (s : State) (e : EngId) : Nat := s.fld Fld.ENG_ROLE_ROLE e.val
def State.stagedAxis (s : State) (e : EngId) : Nat := s.fld Fld.ENG_ROLE_AXIS e.val

/-- The engine's role, axis or owner changes under the staged plan (R94). -/
def State.planChanges (s : State) (e : EngId) : Bool :=
  let r := s.stagedRole e
  r != s.engRole e || (r == 1 && s.stagedAxis e != (s.eng e).axis.val) ||
    (r == 2 && s.fld Fld.ENG_ROLE_OWNER e.val != (s.eng e).owner.val)

/-- The admitted image of an engine: the loaded one, or the one that is being copied (R92). -/
def Engine.admitted (x : Engine) : Option ImageHdr :=
  match x.prep with
  | some (.copying _) => some (ImageHdr.parse x.copyImg)
  | _ => x.image

/-- The image that an engine keeps under the staged plan meets its budget there: R88, and for an axis image R30 (R92). -/
def State.planFits (s : State) (e : EngId) (h : ImageHdr) : Bool :=
  if s.stagedRole e == 2 then
    let b := s.fld Fld.ENG_ROLE_GRP_BANK e.val
    let p := if hb : b < 6 then (s.bnk ⟨b, hb⟩).period else 0
    decide (h.totalCost ≤ Nat.max 1 (s.fld Fld.ENG_ROLE_GRP_DIV e.val) * p * 4000)
  else if s.stagedRole e == 1 then
    let n := (s.eng e).axis
    decide (h.totalCost ≤ s.axPeriod n * s.divI * 4000) && s.sampleFits n (s.bnk n.bank).half h
  else true

/-- The first failing check of the staged plan, as REJ_WHY codes it (Table 10): 4, 1, 2, 3, 5. An axis that is not configured
(AX_CFG.MODE 0) may have one axis engine or none; two are refused with 2 (log entry 117). -/
def State.planCheck (s : State) : Option Nat :=
  let es := allFin 64
  let bad4 := es.any fun e =>
    let r := s.stagedRole e
    r == 0 || (r == 1 && decide (s.stagedAxis e ≥ 48)) || (r == 2 && decide (s.fld Fld.ENG_ROLE_GRP_BANK e.val ≥ 6)) ||
      (s.bit Fld.ENG_FO_RETIRED e.val && r != 3)
  let spares := (es.filter fun e => s.stagedRole e == 3).length
  let engines (n : AxId) : Nat := (es.filter fun e => s.stagedRole e == 1 && s.stagedAxis e == n.val).length
  let bad2 := (allFin 48).any fun n => decide (engines n > 1) || (s.axMode n != 0 && engines n != 1)
  let bad3 := (allFin 48).any fun n => s.axState n != .off &&
    (es.any fun e => s.planChanges e && ((s.engRole e == 1 && (s.eng e).axis == n) ||
      (s.stagedRole e == 1 && s.stagedAxis e == n.val)))
  let bad5 := es.any fun e =>
    match (s.eng e).admitted with
    | none => false
    | some h => !s.planChanges e && !s.planFits e h
  if bad4 then some 4
  else if spares ≠ s.fld Fld.GLB_ENV_SPARES then some 1
  else if bad2 then some 2
  else if bad3 then some 3
  else if bad5 then some 5
  else none

/-- Put the staged plan of one engine in force; a changed engine is zeroed (R94), and its repair, if any, ends. An OFF engine that
is powered for the spare role starts its step meter here (R32, R97). An engine that takes an axis ends its ENG_LOSS demand (R186). -/
def State.applyPlanOf (s : State) (e : EngId) : State :=
  let ch := s.planChanges e
  let r := s.stagedRole e
  let x := s.eng e
  let ax : AxId := if h : s.stagedAxis e < 48 then ⟨s.stagedAxis e, h⟩ else x.axis
  let gb : BankId := if h : s.fld Fld.ENG_ROLE_GRP_BANK e.val < 6 then ⟨s.fld Fld.ENG_ROLE_GRP_BANK e.val, h⟩ else x.grpBank
  let ow : FnId := ⟨s.fld Fld.ENG_ROLE_OWNER e.val % 8, Nat.mod_lt _ (by omega)⟩
  let x := { x with axis := if r = 1 then ax else x.axis, owner := if r = 2 then ow else x.owner, grpBank := gb,
                    grpDiv := Nat.max 1 (s.fld Fld.ENG_ROLE_GRP_DIV e.val) }
  let s := s.setFld Fld.ENG_STAT_ROLE e.val r
  if ch then
    let s := s.loseMonEngine e
    let s := s.setEng e { x.zero with prep := some .zeroing, prepDue := s.tick + 400, byApply := true, guest := none,
                                      repairing := false, meterFrom := if r = 3 then some (x.meterFrom.getD s.tick) else x.meterFrom }
    let s := s.setBit Fld.ENG_FO_SELFTEST e.val false
    let s := s.setBit Fld.ENG_STAT_BK e.val false
    let s := s.setFld Fld.ENG_FO_CLAIM e.val 0
    let s := s.setEngState e .clearing
    if r = 1 then
      let s := s.setFailover ax { s.failover ax with engineless := false }
      let s := s.setFld Fld.AX_FOSTAT_SERVICE ax.val 0
      s.withDemands ax 1 fun d => { d with engLoss := false }
    else s
  else s.setEng e x

/-- A plan that is put in force ends every sharing of an engine (R438). -/
def State.endShares (s : State) : State :=
  forAll (allFin 64) (fun s e => match (s.eng e).guest with
    | some n =>
      let s := s.setEng e { s.eng e with guest := none, onGuest := false, pendGuest := [] }
      (s.setBit Fld.ENG_FO_SHARED e.val false).setFld Fld.AX_FOSTAT_SERVICE n.val 0
    | none => s) s

/-- Check and apply the staged plan (R93). DONE, REJ and REJ_WHY of an earlier APPLY stay until F0 clears them (log entry 118). -/
def State.runApply (s : State) : State :=
  match s.planCheck with
  | some why =>
    let s := s.setBit Fld.GLB_ALLOC_BUSY 0 false
    let s := s.setBit Fld.GLB_ALLOC_REJ 0 true
    s.setFld Fld.GLB_ALLOC_REJ_WHY 0 why
  | none =>
    let s := s.setBit Fld.GLB_ALLOC_BUSY 0 true
    let s := forAll (allFin 64) State.applyPlanOf s.endShares
    (s.refreshFo).applyFinished

/-- A take-over is in progress (R441). -/
def State.takingOver (s : State) : Bool :=
  (allFin 48).any fun n => (s.failover n).candidate.isSome || (s.failover n).incomplete.isSome

/-- ALLOC_APPLY: a write of GLB_ALLOC.APPLY, accepted from F0 only and ignored while BUSY (R93, R96); during a take-over
the APPLY stays BUSY until it is complete (R441). -/
def State.requestApply (s : State) : State :=
  if s.bit Fld.GLB_ALLOC_BUSY then s
  else if s.takingOver then s.setBit Fld.GLB_ALLOC_BUSY 0 true
  else s.runApply

/-- An APPLY that waited for a take-over is checked when none is in progress any more (R441). -/
def State.resumeApply (s : State) : State :=
  if s.bit Fld.GLB_ALLOC_BUSY && !s.takingOver && !((allFin 64).any fun e => (s.eng e).byApply) then s.runApply else s

def execAllocApply (fn : FnId) (s : State) : Out := .next (s.setupGate fn State.requestApply)

/-- A commit of engine `e` has been applied. Where it is the first of the engine that took the axis over, the take-over is complete
(R433), coast-through and the window end (R42), and an APPLY that waited is checked (R441). -/
def State.takeoverDone (s : State) (n : AxId) (e : EngId) (frame : BitVec 32) : State :=
  let f := s.failover n
  match f.incomplete with
  | none => s
  | some order =>
    if s.fld Fld.AX_FOSTAT_ENG n.val ≠ e.val then s else
    let old := match f.failedEng with | some o => o.val | none => e.val
    let s := s.setFailover n { f with incomplete := none, failedAt := none, failedEng := none, winEnd := none,
                                      lastTakeover := f.lastTakeover }
    let s := s.setCoast n false
    let s := s.countSat Fld.AX_FOSTAT_TAKES n.val
    let s := s.countSat Fld.GLB_FO_STAT_TAKEOVERS 0
    let s := s.foRecord n 0x0051 n.val e.val
      ([BitVec.ofNat 8 old, BitVec.ofNat 8 (s.fld Fld.AX_FOSTAT_CLAIM n.val), BitVec.ofNat 8 order, 0] ++
        leBytes 4 frame.toNat)
    s.resumeApply

end Sys2Proof.Machine
end

