-- ==== Sys2Proof/Machine/Feedback.lean ====
section
/-! DEFINITION. Position and speed feedback (06_feedback.md R190 to R222): the position counter, its sources, feedback faults,
preload, the safety counters and the pulse repeaters. -/

namespace Sys2Proof.Machine

/-! ## Configuration -/

/-- CPR, 0 taken as 1 (R208). -/
def State.cpr (s : State) (n : AxId) : Nat := Nat.max 1 (s.fld Fld.AX_ANGCFG_CPR n.val)
def State.poles (s : State) (n : AxId) : Nat := Nat.max 1 (s.fld Fld.AX_CFG_POLES n.val)
def State.pmode (s : State) (n : AxId) : Nat := s.fld Fld.AX_FBCFG_PMODE n.val
def State.fmode (s : State) (n : AxId) : Nat := s.fld Fld.AX_FBCFG_FMODE n.val

/-- Ticks by which an SSI transfer starts before its sample instant (R203 step 3). -/
def State.ssiLead (s : State) (n : AxId) : Nat :=
  let bits := s.fld Fld.AX_SSICFG_BITS n.val
  let c := 2 ^ Nat.min 4 (s.fld Fld.AX_SSICFG_CLKDIV n.val)
  ((bits + 1) * 125 * c + 1) / 2 + s.fld Fld.AX_SSICFG_DLY n.val + 2

/-- The interval between latch instants: D_I × P_n ticks (R204). -/
def State.ssiInterval (s : State) (n : AxId) : Nat := s.divI * s.axPeriod n

/-- The check of R192 and of R204's last sentence. -/
def State.fbCfgBad (s : State) (n : AxId) : Bool :=
  let f := s.fmode n
  let p := s.pmode n
  let src := match s.fld Fld.AX_CFG_ANG_SRC n.val with
    | 0 => f == 0
    | 1 => n.premium && f == 0 && p == 3
    | 2 => n.premium && p == 1
    | _ => n.premium && p == 2
  !src || (s.axMode n == 2 && f == 1) || (p == 2 && decide (s.ssiInterval n < s.ssiLead n + 6250))

/-- The check runs whenever AX_CFG or AX_FBCFG changes (R192). -/
def State.refreshFbCfg (s : State) (n : AxId) : State := s.setBit Fld.AX_FBFLT_CFG_BAD n.val (s.fbCfgBad n)

/-! ## Feedback faults (R214 to R216) -/

/-- Reaction of Table 3. -/
inductive FbReaction where
  | none | safe | stop
  deriving DecidableEq, Repr

def State.fbReaction (s : State) (n : AxId) (bit : Nat) : FbReaction :=
  let src := s.fld Fld.AX_CFG_ANG_SRC n.val
  if s.axMode n = 3 then .stop else
  match bit with
  | 0 => if src != 0 || s.pmode n == 0 then .safe else .stop
  | 1 => if src == 0 || !s.bit Fld.AX_ANGOFS_ALIGNED n.val then .safe else .none
  | 2 => .stop
  | 3 => if src == 2 then .safe else .stop
  | 4 => if src == 2 then .safe else .stop
  | _ => if src == 3 then .safe else .stop

/-- Raise a feedback fault (R215): its bit, the FEEDBACK_FAULT record, and where ENG_EVCFG.AX_FB is 1 on the engine in
service the fault event whose handler commits the reaction of Table 3 for the next B_n. A bit that is set raises nothing
(R216). -/
def State.raiseFbFault (s : State) (n : AxId) (bit : Nat) : State :=
  let w := s.fld Fld.AX_FBFLT_FAULT n.val
  if w.testBit bit then s else
  let s := s.setFld Fld.AX_FBFLT_FAULT n.val (w + 2 ^ bit)
  let s := s.event (s.axisOwner n) 0x0003 n.val bit
  let handled := match s.axisEngine n with
    | some e => s.bit Fld.ENG_EVCFG_AX_FB e.val && s.takesEvent e .fault
    | none => false
  let s := s.faultEvent n 1
  if !handled then s else
  let x := s.ax n
  match s.fbReaction n bit with
  | .none => s
  | .safe => s.setAx n { x with safeReq := some (x.safeReq.getD 4) }
  | .stop =>
    let cat := StopCat.ofCode (s.fld Fld.AX_STOPCFG_FE_CAT n.val)
    s.requestStop n cat 4 s.tick

/-- The error bucket gains 1, at most 16 in a frame; at ERR_LIM it raises ENC_ERR and restarts (R214). -/
def State.gainBucket (s : State) (n : AxId) : State :=
  let x := s.fbk n
  if x.gained ≥ 16 then s else
  let s := (s.setFbk n { x with gained := x.gained + 1 }).countSat Fld.AX_FBFLT_BUCKET n.val
  let lim := s.fld Fld.AX_QCFG_ERR_LIM n.val
  if lim ≠ 0 ∧ lim ≤ s.fld Fld.AX_FBFLT_BUCKET n.val
  then (s.setFld Fld.AX_FBFLT_BUCKET n.val 0).raiseFbFault n 0 else s

/-- The bucket loses 1 in a frame without a gain (R214). -/
def State.drainBucket (s : State) (n : AxId) : State :=
  let x := s.fbk n
  let s := s.setFbk n { x with gained := 0 }
  if x.gained = 0 then s.setFld Fld.AX_FBFLT_BUCKET n.val (s.fld Fld.AX_FBFLT_BUCKET n.val - 1) else s

/-- An illegal transition: ILL and the bucket (R197, R199). -/
def State.illegal (s : State) (n : AxId) : State := (s.countSat Fld.AX_FBCNT_ILL n.val).gainBucket n

/-- MEI limited to 2 to 500 (R195). -/
def State.mei (s : State) (n : AxId) : Nat := Nat.min 500 (Nat.max 2 (s.fld Fld.AX_QCFG_MEI n.val))

/-- An edge fault where a transition follows the one at `last` by less than MEI ticks (R195). -/
def State.edgeCheck (s : State) (n : AxId) (last : Option Nat) : State :=
  match last with
  | some t => if s.tick < t + s.mei n then (s.countSat Fld.AX_FBCNT_EDGE n.val).gainBucket n else s
  | none => s

/-! ## Pulse repeaters (R219 to R222) -/

def State.refreshPo (s : State) (k : PoId) : State :=
  let b := (s.rep k).backlog
  let s := s.setFld Fld.GLB_POk_STAT_BACKLOG k.val b.natAbs
  s.setBit Fld.GLB_POk_STAT_BDIR k.val (decide (b < 0))

/-- `d` counts of the source drive the accumulator; output counts join the backlog, whose direction the direction line takes (R219, R220). -/
def State.driveRep (s : State) (k : PoId) (d : Int) : State :=
  let x := s.rep k
  let n : Int := s.fld Fld.GLB_POk_RATIO_N k.val
  let m : Int := Nat.max 1 (s.fld Fld.GLB_POk_RATIO_M k.val)
  let t := x.acc + n * d
  let out := t / m
  let out := if s.bit Fld.GLB_POk_CFG_INV k.val then -out else out
  let b := x.backlog + out
  let c := if b > 65535 then 65535 else if b < -65535 then -65535 else b
  let turns := c != 0 && decide (c < 0) != x.dirRev
  let s := (s.setRep k { x with acc := t % m, backlog := c, since := if x.backlog = 0 then s.tick else x.since,
                                dirRev := if turns then !x.dirRev else x.dirRev,
                                dirAt := if turns then some s.tick else x.dirAt }).refreshPo k
  if b = c then s else s.setBit Fld.GLB_POk_STAT_OVF k.val true

/-- Output spacing: MINSP, at least 5 (Table 11). In step/direction form a pulse takes MINSP high and MINSP low (R220). -/
def State.poSpacing (s : State) (k : PoId) : Nat :=
  let m := Nat.max 5 (s.fld Fld.GLB_POk_CFG_MINSP k.val)
  if s.bit Fld.GLB_POk_CFG_FMT k.val then 2 * m else m

/-- The output pair of a repeater (R220): A and B, or the step and the direction line. The step line is high for MINSP ticks; a disabled
repeater holds both low. -/
def State.poLines (s : State) (k : PoId) : Bool × Bool :=
  let x := s.rep k
  if !s.bit Fld.GLB_POk_CFG_EN k.val then (false, false)
  else if s.bit Fld.GLB_POk_CFG_FMT k.val then
    (x.lastOut.any fun t => decide (s.tick < t + Nat.max 5 (s.fld Fld.GLB_POk_CFG_MINSP k.val)), x.dirRev)
  else match x.phase.toNat with
    | 0 => (false, false)
    | 1 => (true, false)
    | 2 => (true, true)
    | _ => (false, true)

/-- No count may leave the backlog yet: less than the output spacing after the latest one, less than 2 ticks after the counter change
that ended an empty backlog, or, in step/direction form, less than MINSP ticks after a change of direction (R220). -/
def State.poEarly (s : State) (k : PoId) : Bool :=
  let x := s.rep k
  let lead := Nat.max 5 (s.fld Fld.GLB_POk_CFG_MINSP k.val)
  (x.lastOut.any fun t => decide (s.tick < t + s.poSpacing k)) || decide (s.tick < x.since + 2) ||
    (s.bit Fld.GLB_POk_CFG_FMT k.val && x.dirAt.any fun t => decide (s.tick < t + lead))

/-- PO_OUTPUT_COUNT: one count leaves the backlog as a quadrature transition in the sequence of R196, or as a step pulse under the
direction line set for it (R220). -/
def execPoOutputCount (k : PoId) (s : State) : Out :=
  .next (
    let x := s.rep k
    if !s.bit Fld.GLB_POk_CFG_EN k.val || x.backlog == 0 || s.poEarly k then s else
    let rev := decide (x.backlog < 0)
    let x := { x with backlog := if rev then x.backlog + 1 else x.backlog - 1, lastOut := some s.tick }
    let x := if s.bit Fld.GLB_POk_CFG_FMT k.val then x
      else { x with phase := if rev then x.phase - 1 else x.phase + 1 }
    (s.setRep k x).refreshPo k)

/-- The repeater stops: backlog discarded, both outputs low (R221). -/
def State.stopRep (s : State) (k : PoId) : State :=
  (s.setRep k { s.rep k with backlog := 0, phase := 0, dirRev := false, lastOut := none, dirAt := none }).refreshPo k

/-- A write of GLB_POk_CFG by F0 (R219, R221, Table 11). -/
def State.writePoCfg (s : State) (k : PoId) (w : Word) : State :=
  let en := Fld.GLB_POk_CFG_EN.get w == 1
  let src := Fld.GLB_POk_CFG_SRC.get w
  let was := s.bit Fld.GLB_POk_CFG_EN k.val
  let same := Fld.GLB_POk_CFG_FMT.get w == s.fld Fld.GLB_POk_CFG_FMT k.val &&
    src == s.fld Fld.GLB_POk_CFG_SRC k.val && Fld.GLB_POk_CFG_MINSP.get w == s.fld Fld.GLB_POk_CFG_MINSP k.val
  let n := s.fld Fld.GLB_POk_RATIO_N k.val
  let m := s.fld Fld.GLB_POk_RATIO_M k.val
  let rej := s.setBit Fld.GLB_POk_STAT_CFG_REJ k.val true
  if src ≥ 48 then rej
  else if was && en && !same then rej
  else if en && !(decide (1 ≤ m) && decide (n ≤ m)) then rej
  else
    let s := s.setFld Fld.GLB_POk_CFG_INV k.val (Fld.GLB_POk_CFG_INV.get w)
    let s := s.setFld Fld.GLB_POk_CFG_FMT k.val (Fld.GLB_POk_CFG_FMT.get w)
    let s := s.setFld Fld.GLB_POk_CFG_SRC k.val src
    let s := s.setFld Fld.GLB_POk_CFG_MINSP k.val (Fld.GLB_POk_CFG_MINSP.get w)
    let s := s.setBit Fld.GLB_POk_CFG_EN k.val en
    if was && !en then s.stopRep k
    else if !was && en then s.setRep k { s.rep k with acc := 0, backlog := 0, phase := 0, dirRev := false, lastOut := none, dirAt := none }
    else s

/-- PO_ENABLE: a write of GLB_POk_CFG, accepted from F0 only (R222). -/
def execPoEnable (fn : FnId) (k : PoId) (w : Word) (s : State) : Out :=
  .next (s.setupGate fn fun s => s.writePoCfg k w)

/-- A write of GLB_POk_RATIO: only while EN is 0, and only a ratio that R219 allows (R222). -/
def State.writePoRatio (s : State) (k : PoId) (w : Word) : State :=
  let n := Fld.GLB_POk_RATIO_N.get w
  let m := Fld.GLB_POk_RATIO_M.get w
  if s.bit Fld.GLB_POk_CFG_EN k.val || !(decide (1 ≤ m) && decide (n ≤ m))
  then s.setBit Fld.GLB_POk_STAT_CFG_REJ k.val true
  else s.setWord .GLB_POk_RATIO k.val 0 w

/-- PO_SET takes effect: a becomes ⌊a × M_new / M_old⌋, the backlog is kept (R221). -/
def State.applyPoSet (s : State) (k : PoId) (n m : Nat) : State :=
  let old := Nat.max 1 (s.fld Fld.GLB_POk_RATIO_M k.val)
  let x := s.rep k
  let s := s.setRep k { x with acc := x.acc * m / old }
  (s.setFld Fld.GLB_POk_RATIO_N k.val n).setFld Fld.GLB_POk_RATIO_M k.val m

/-! ## The position counter (R206, R210) -/

def pos47 : Int := 140737488355328

/-- The counter moves by `d` counts: it wraps with WRAP, an armed preload counts them, repeaters replay them (R206, R210,
R219). -/
def State.moveCounter (s : State) (n : AxId) (d : Int) : State :=
  if d = 0 then s else
  let x := s.fbk n
  let t := x.pos.toInt + d
  let s := s.setFbk n { x with
    pos := BitVec.ofInt 48 t,
    preload := match x.preload with
      | some p => some (if p.at_ < s.tick then { p with net := p.net + d } else p)
      | none => none }
  let s := if t < -pos47 ∨ pos47 ≤ t then s.setBit Fld.AX_FBFLT_WRAP n.val true else s
  forAll (allFin 6) (fun s k =>
    if s.bit Fld.GLB_POk_CFG_EN k.val && s.fld Fld.GLB_POk_CFG_SRC k.val == n.val then s.driveRep k d else s) s

/-- The counter moves by `d` counts of its feedback source: on a stepper axis with PSRC = 0 it counts steps alone (R254). -/
def State.countMove (s : State) (n : AxId) (d : Int) : State :=
  if s.axMode n = 3 && !s.bit Fld.AX_STEPCFG_PSRC n.val then s else s.moveCounter n d

/-- INV reverses the sign of every count (R196, R199). -/
def State.signed (s : State) (n : AxId) (d : Int) : Int := if s.bit Fld.AX_FBCFG_INV n.val then -d else d

/-- The counter takes a preload: OFS moves with it, so ANGLE does not jump (R210); PLD bit 63 and POS_UNK clear (R228,
R258); the boundary captures move to the new scale (R250), and BPOS with them where the boundary falls in that tick `t`. -/
def State.setPosition (s : State) (t : Nat) (n : AxId) (new : BitVec 48) : State :=
  let x := s.fbk n
  let d := new.toInt - x.pos.toInt
  let cpr := s.cpr n
  let s := s.setFbk n { x with pos := new, preload := none, scOfs := x.scOfs + d }
  let m := s.motion n
  let s := s.setMotion n { m with caps := m.caps.map fun c => (c.1, c.2 + BitVec.ofInt 48 d) }
  let a := s.ax n
  let w := Mem.putByte a.win 0xF5F (Mem.byte a.win 0xF5F &&& 0x7F)
  let here := decide (t = (s.bnk n.bank).frameTick) && !m.caps.isEmpty
  let s := s.setAx n { a with win := if here then Mem.store w 0xF48 8 (new.toInt % 2 ^ 64).toNat else w }
  let s := s.setBit Fld.AX_MSTAT_POS_UNK n.val false
  s.hwPut Fld.AX_ANGOFS_OFS n.val (((s.fld Fld.AX_ANGOFS_OFS n.val : Int) + d) % cpr).toNat

/-- An armed preload takes effect at tick `t` if it was accepted at least 2 ticks before (R210). -/
def State.takePreload (s : State) (t : Nat) (n : AxId) : State :=
  match (s.fbk n).preload with
  | some p => if p.at_ + 2 ≤ t then s.setPosition t n (p.val + BitVec.ofInt 48 p.net) else s
  | none => s

/-- POSLD_ARM: acceptance of a write to AX_POSLD_HI (R210, R495). -/
def State.writePosldHi (s : State) (n : AxId) (w : Word) : State :=
  let hi := Fld.AX_POSLD_HI_VAL.get w
  let s := s.setFld Fld.AX_POSLD_HI_VAL n.val hi
  s.armPreload n (BitVec.ofNat 48 (hi * 2 ^ 32 + s.fld Fld.AX_POSLD_LO_VAL n.val))

def execPosldArm (fn : FnId) (n : AxId) (w : Word) (s : State) : Out :=
  .next (s.setupGate fn fun s => s.writePosldHi n w)

/-- ANGLE for a value of the counter: the mechanical angle (R208). -/
def State.angleAt (s : State) (n : AxId) (pos : BitVec 48) : Nat :=
  let src := s.fld Fld.AX_CFG_ANG_SRC n.val
  if src = 0 ∨ ((src = 1 ∨ src = 2) ∧ ¬ s.bit Fld.AX_ANGOFS_ALIGNED n.val) then
    let e := (s.fld Fld.AX_FBCFG_EOFS n.val + (2 * s.sectorNow n + 1) * 65536 / 12) % 65536
    e / s.poles n
  else
    let cpr := s.cpr n
    (((pos.toInt - s.fld Fld.AX_ANGOFS_OFS n.val) % cpr) * 65536 / cpr).toNat

/-- ANGLE now. -/
def State.angle (s : State) (n : AxId) : Nat := s.angleAt n (s.fbk n).pos

/-! ## Safety counters (R217) -/

/-- Position of (A, B) in the counting sequence 00, 10, 11, 01 of R196. -/
def quadPhase (a b : Bool) : Nat :=
  match a, b with
  | false, false => 0
  | true, false => 1
  | true, true => 2
  | false, true => 3

/-- FB of an axis in the active safety parameter set (Table 6 of 14_safety.md): 0 none, 1 Hall, 2 quadrature. -/
def State.safetyFb (s : State) (n : AxId) : Nat := leAt s.saf.params (0x100 + 16 * n.val) 1

/-- What a safety channel makes of a change of FA_n to FC_n from `old` to `new` (R217), decoded as `fb` says: counts, illegal transitions,
which move nothing, and the last valid Hall sector. -/
def safetyMove (fb : Nat) (old new : BitVec 3) (sec : Option Nat) : Int × Nat × Option Nat :=
  match fb with
  | 1 =>
    match hallSectorOf new, sec with
    | some t, some p =>
      match (t + 6 - p) % 6 with
      | 0 => (0, 0, some t)
      | 1 => (1, 0, some t)
      | 5 => (-1, 0, some t)
      | _ => (0, 1, some t)
    | some t, none => (0, 0, some t)
    | none, _ => (0, 0, none)
  | 2 =>
    match (quadPhase (new.getLsbD 0) (new.getLsbD 1) + 4 - quadPhase (old.getLsbD 0) (old.getLsbD 1)) % 4 with
    | 0 => (0, 0, sec)
    | 1 => (1, 0, sec)
    | 3 => (-1, 0, sec)
    | _ => (0, 1, sec)
  | _ => (0, 0, sec)

/-- AX_FBSAFE (R218). -/
def State.refreshFbSafe (s : State) (n : AxId) : State :=
  let x := s.fbk n
  (s.setFld Fld.AX_FBSAFE_SCA n.val (x.sca.toNat % 65536)).setFld Fld.AX_FBSAFE_SCB n.val (x.scb.toNat % 65536)

/-- SCA takes the levels that have stood for 20 ns behind its glitch filter (R217). -/
def State.settleSca (s : State) (n : AxId) : State :=
  let x := s.fbk n
  if x.scaPins = x.pins ∨ s.tick < x.pinSince + 5 then s else
  let m := safetyMove (s.safetyFb n) x.scaPins x.pins x.scaSector
  (s.setFbk n { x with scaPins := x.pins, sca := x.sca + BitVec.ofInt 32 m.1, scaIll := x.scaIll + m.2.1,
                       scaSector := m.2.2 }).refreshFbSafe n

/-- The sampled levels of FA_n to FC_n become `code`, at tick `t`: SCB, which samples in every tick, sees them at once, and SCA once they
have stood for 20 ns. No configuration of the feedback block has a part in it (R194, R217). -/
def State.samplePins (s : State) (n : AxId) (code : BitVec 3) (t : Nat) : State :=
  let s := s.settleSca n
  let x := s.fbk n
  if x.pins = code then s else
  let m := safetyMove (s.safetyFb n) x.pins code x.scSector
  ((s.setFbk n { x with pins := code, pinSince := t, scb := x.scb + BitVec.ofInt 32 m.1, scbIll := x.scbIll + m.2.1,
                        scSector := m.2.2 }).refreshFbSafe n).settleSca n

/-! ## Hall inputs (R177 to R179, R193, R195, R199, R209) -/

/-- The filtered code reads `code` from now on, where it read another before (R468). -/
def State.hallRead (s : State) (n : AxId) (code : BitVec 3) : State :=
  if (s.ax n).hallCode = code then s else s.setAx n { s.ax n with hallCode := code, hallAt := s.tick }

/-- The filter takes the code at the balls as its initial code: no count, no fault (R177). -/
def State.initialHall (s : State) (n : AxId) : State :=
  let code := (s.fbk n).pins
  let s := s.hallRead n code
  let s := match hallSectorOf code with
    | some sec => s.setAx n { s.ax n with hallSector := sec, hallValid := true }
    | none => s.setAx n { s.ax n with hallValid := false }
  (s.refreshCoast n).refreshAxis n

/-- FMODE = 1: the gate-drive block takes the code 0b000 without HALL_BAD (R193). -/
def State.noHall (s : State) (n : AxId) : State :=
  let s := s.hallRead n 0
  ((s.setAx n { s.ax n with hallValid := false }).refreshCoast n).refreshAxis n

/-- Hardware alignment at the first Hall change between adjacent used sectors (R209). -/
def State.hallAlign (s : State) (n : AxId) (a b : Nat) : State :=
  if s.bit Fld.AX_ANGOFS_HW_ALIGN n.val && !s.bit Fld.AX_ANGOFS_ALIGNED n.val && s.axState n != .off then
    let sb := if (a = 5 ∧ b = 0) ∨ (a = 0 ∧ b = 5) then 0 else Nat.max a b
    let e := (s.fld Fld.AX_FBCFG_EOFS n.val + sb * 65536 / 6) % 65536
    let cpr := s.cpr n
    let ofs := ((s.fbk n).pos.toInt - roundDiv (cpr * e) (65536 * s.poles n)) % cpr
    (s.hwPut Fld.AX_ANGOFS_OFS n.val ofs.toNat).setBit Fld.AX_ANGOFS_ALIGNED n.val true
  else s

/-- HALL_CHANGE: the inputs have stood at `code` since a tick, and a changed code that has been stable for FLT ticks passes the filter
(R177). Commutation follows the new sector (R178); an invalid code turns the legs OFF with HALL_BAD and raises HALL_CODE; counting
follows R199, edge faults R195, alignment R209. -/
def execHallChange (n : AxId) (code : BitVec 3) (since : Nat) (s : State) : Out :=
  .next (
    let s := s.samplePins n code since
    if s.fmode n ≠ 0 ∨ code = (s.ax n).hallCode ∨ s.tick < since + s.inForce Fld.AX_HALL_FLT n.val then s else
    let s := s.edgeCheck n (s.fbk n).lastEdge
    let s := s.setFbk n { s.fbk n with lastEdge := some s.tick }
    let x := s.ax n
    let s := s.hallRead n code
    match hallSectorOf code with
    | none =>
      let s := s.setAx n { s.ax n with hallValid := false }
      let s := s.setBit Fld.AX_PSTAT_HALL_BAD n.val true
      (((s.raiseFbFault n 1).refreshCoast n).refreshAxis n).hallLost n
    | some sec =>
      let u := s.usedSector n sec
      let old := s.sectorNow n
      let s := s.setAx n { s.ax n with hallSector := sec, hallValid := true }
      let s :=
        if !x.hallValid then s else
        match (u + 6 - old) % 6 with
        | 0 => s
        | 1 => (if s.pmode n = 0 then s.countMove n (s.signed n 1) else s).hallAlign n old u
        | 5 => (if s.pmode n = 0 then s.countMove n (s.signed n (-1)) else s).hallAlign n old u
        | _ => s.illegal n
      (s.refreshCoast n).refreshAxis n)

/-! ## Quadrature and index (R194 to R198) -/

/-- The source that a premium quadrature moves: the counter, or under sine/cosine the quadrant count (R190, R201). -/
def State.quadMove (s : State) (n : AxId) (premium : Bool) (d : Int) : State :=
  if premium then
    if s.pmode n = 1 then
      let x := s.fbk n
      s.setFbk n { x with quadCount := x.quadCount + d,
                          qcHist := x.qcHist.filter (fun h => decide (s.tick < h.1 + 250)) ++ [(s.tick, x.quadCount)] }
    else s.countMove n d
  else if s.pmode n = 0 then s.countMove n d
  else s

/-- QUAD_TRANSITION: the sampled levels of an input set change (R194), which pass on to the safety channels in any mode. Where the set
carries quadrature, the single-line sequence counts ±1; a change of
both is illegal and, with BRIDGE, counts 2 in the latest single-line direction (R196, R197). -/
def execQuadTransition (n : AxId) (premium a b z : Bool) (s : State) : Out :=
  .next (
    let x := s.fbk n
    let oa := if premium then x.pa else x.pins.getLsbD 0
    let ob := if premium then x.pb else x.pins.getLsbD 1
    let code : BitVec 3 := (if z then 4 else 0) ||| (if b then 2 else 0) ||| (if a then 1 else 0)
    let s := if premium then s.setFbk n { x with pa := a, pb := b } else s.samplePins n code s.tick
    let decoded := if premium then decide (s.pmode n = 3 ∨ s.pmode n = 1) else s.fmode n == 1
    let step := (quadPhase a b + 4 - quadPhase oa ob) % 4
    if !decoded ∨ step = 0 then s else
    let s := s.edgeCheck n (if premium then x.lastEdgeP else x.lastEdge)
    let y := s.fbk n
    let s := s.setFbk n (if premium then { y with lastEdgeP := some s.tick } else { y with lastEdge := some s.tick })
    if step = 2 then
      let s := s.illegal n
      if s.bit Fld.AX_FBCFG_BRIDGE n.val then
        match (if premium then x.dirP else x.dir) with
        | some up => s.quadMove n premium (s.signed n (if up then 2 else -2))
        | none => s
      else s
    else
      let up := step == 1
      let y := s.fbk n
      let s := s.setFbk n (if premium then { y with dirP := some up } else { y with dir := some up })
      s.quadMove n premium (s.signed n (if up then 1 else -1)))

/-- INDEX_EVENT: Z has risen, or Z, A and B are all 1 with ZGATE (R198): ZPOS captures the counter, Z_SEEN sets, and with
ZCHK the change since the previous index event must be ±CPR or 0. -/
def execIndexEvent (n : AxId) (s : State) : Out :=
  .next (
    let x := s.fbk n
    if s.fmode n ≠ 1 || (s.bit Fld.AX_FBCFG_ZGATE n.val && !(x.pins.getLsbD 0 && x.pins.getLsbD 1)) then s else
    let s := s.samplePins n (x.pins ||| 4) s.tick
    let s := s.setFbk n { s.fbk n with zpos := x.pos, prevIndex := some x.pos }
    let s := s.setBit Fld.AX_FBFLT_Z_SEEN n.val true
    let ok := match x.prevIndex with
      | none => true
      | some p =>
        let d := (x.pos - p).toInt
        d == 0 || d.natAbs == s.cpr n
    if s.bit Fld.AX_FBCFG_ZCHK n.val && !ok then s.raiseFbFault n 2 else s)

/-! ## Sine and cosine (R200 to R202) -/

/-- IPB limited to 4 to 12 (Table 7). -/
def State.ipb (s : State) (n : AxId) : Nat := Nat.min 12 (Nat.max 4 (s.fld Fld.AX_SCCFG_IPB n.val))

/-- The norms 1 / (2 cos(45° / 2^i)) in units of 2⁻⁴⁸, that bring the sum of two unit vectors 90° / 2^i apart back to unit
length. -/
def halfNorms : List Int :=
  [199032864766430, 152333159684549, 143494698755539, 141418456878796, 140907217269536, 140779888625733,
   140748086427380, 140740137748648, 140738150695865, 140737653939975]

/-- Bits of the angle of (x, y), in the first quadrant with `y` < the axis bound `v`, by bisecting the sector between the
unit vectors `u` and `v`. -/
def angleBits (x y : Int) : List Int → (Int × Int) → (Int × Int) → Nat → Nat
  | [], _, _, acc => acc
  | h :: hs, u, v, acc =>
    let w : Int × Int := ((u.1 + v.1) * h / 2 ^ 48, (u.2 + v.2) * h / 2 ^ 48)
    if 0 ≤ w.1 * y - w.2 * x then angleBits x y hs w v (2 * acc + 1) else angleBits x y hs u w (2 * acc)

/-- ⌊atan2(s, c) in counts of 2^ipb per period⌋ (R201). -/
def fineFloor (sn cs : Int) (ipb : Nat) : Nat :=
  let q : Nat × Int × Int :=
    if 0 ≤ sn ∧ 0 < cs then (0, cs, sn)
    else if 0 < sn ∧ cs ≤ 0 then (1, sn, -cs)
    else if sn ≤ 0 ∧ cs < 0 then (2, -cs, -sn)
    else if sn < 0 then (3, -sn, cs)
    else (0, 1, 0)
  q.1 * 2 ^ (ipb - 2) + angleBits q.2.1 q.2.2 (halfNorms.take (ipb - 2)) (2 ^ 48, 0) (0, 2 ^ 48) 0

/-- The quadrant count at a tick of the latest 250. -/
def AxFb.qcAt (x : AxFb) (t : Nat) : Int :=
  match x.qcHist.find? fun h => decide (t < h.1) with
  | some h => h.2
  | none => x.quadCount

/-- A conversion pair starts at tick `t` (R200): at the sample instant of the axis, or a whole number of 250-tick intervals after the latest
start, the sequence restarting from the sample instant. The first start of all is free. -/
def State.pairStarts (s : State) (n : AxId) (t : Nat) : Bool :=
  let x := s.ax n
  match (s.fbk n).scLast with
  | none => true
  | some l =>
    let sampled := x.sampledAt.isSome && decide (l < x.sampleTick) && decide (x.sampleTick ≤ t)
    let base := if sampled then x.sampleTick else l
    (sampled && t == base) || (decide (base + 250 ≤ t) && (t - base) % 250 == 0)

/-- SINCOS_PAIR: a pair triggered 200 ticks ago is finished (R200): interpolation, tracking and amplitude checks, the
counter, and SIN, COS where it is the pair of the sample instant (R201, R202). The rounding of the fine angle to a whole
count is free, and so is the angle of a pair (0, 0). -/
def execSincosPair (n : AxId) (sn cs : BitVec 16) (s : State) : Out :=
  .next (
    let t := s.tick - 200
    if s.pmode n ≠ 1 || !s.pairStarts n t then s else
    let ipb := s.ipb n
    let qc := (s.fbk n).qcAt t
    let axial := sn == 0 || cs == 0
    let zero := sn == 0 && cs == 0
    let up := !axial && Config.freeBool s.free
    let phi : Int := ((if zero then Config.freeNat s.free
      else fineFloor sn.toInt cs.toInt ipb + if up then 1 else 0) % 2 ^ ipb : Nat)
    let s := { s with free := if axial && !zero then s.free else s.free + 1 }
    let centre := qc * 2 ^ (ipb - 2) + 2 ^ (ipb - 3)
    let k := roundDiv (centre - phi) (2 ^ ipb)
    let x := phi + k * 2 ^ ipb
    let track := decide ((x - centre).natAbs > 2 ^ (ipb - 2))
    let r2 := (sn.toInt * sn.toInt + cs.toInt * cs.toInt).toNat * 256
    let amp := decide (r2 < s.fld Fld.AX_SCCFG_AMP_LO n.val * 2 ^ 30) ||
      decide (r2 > s.fld Fld.AX_SCCFG_AMP_HI n.val * 2 ^ 30)
    let f := s.fbk n
    let f := { f with scLast := some t, ampBad := if amp then f.ampBad + 1 else 0, trackBad := if track then f.trackBad + 1 else 0 }
    let f := if (s.ax n).sample.any (fun r => r.t + 200 == s.tick) then { f with sin := sn, cos := cs, scOk := !amp && !track }
      else f
    let s := s.setFbk n f
    let target := (if amp || track then centre else x) + f.scOfs
    let s := s.countMove n (BitVec.ofInt 48 (target - f.pos.toInt)).toInt
    let lim := Nat.max 1 (s.fld Fld.AX_SCCFG_AMP_N n.val)
    let s := if f.ampBad ≥ lim then s.raiseFbFault n 3 else s
    if f.trackBad ≥ lim then s.raiseFbFault n 4 else s)

/-! ## SSI (R203 to R205) -/

/-- The level of the SSI clock output (R203): at rest high, it falls at the start of a transfer, and its half period is 31.25 ticks ×
2^CLKDIV, for BITS + 1 periods. -/
def State.ssiClock (s : State) (n : AxId) : Bool :=
  match (s.fbk n).ssiBusy with
  | none => true
  | some t =>
    let k := (s.tick - t) * 4 / (125 * 2 ^ Nat.min 4 (s.fld Fld.AX_SSICFG_CLKDIV n.val))
    k % 2 == 1 || decide (2 * (s.fld Fld.AX_SSICFG_BITS n.val + 1) ≤ k)

/-- A transfer starts in this tick: a sample instant of a current-loop frame lies L ticks ahead (R203). Under single-shunt sensing the
instant follows from the compare values of its frame (R130), and any tick that can meet it is one (log entry 125). -/
def State.ssiDue (s : State) (n : AxId) : Bool :=
  let x := s.ax n
  let p := s.axPeriod n
  let at_ := s.tick + s.ssiLead n
  x.framed && (s.bnk n.bank).runs && s.axState n != .off && (List.range 8).any fun i =>
    let b := x.frameTick + i * p
    s.currentLoopFrame n (x.frameNo + BitVec.ofNat 32 (i * s.cdiv n)) &&
      (if s.axMode n = 2 then at_ == b + p / 2
       else if s.bit Fld.AX_CFG_SENSE n.val then at_ == b
       else decide (b ≤ at_) && decide (at_ ≤ b + p / 2 + 1000))

/-- SSI_TRANSFER_START (R203). -/
def execSsiTransferStart (n : AxId) (s : State) : Out :=
  .next (
    let x := s.fbk n
    if s.pmode n = 2 && x.ssiBusy.isNone && s.ssiDue n then s.setFbk n { x with ssiBusy := some s.tick } else s)

/-- Gray to binary over `n` bits. -/
def grayDecode (v : Nat) (n : Nat) : Nat := (List.range n).foldl (fun acc i => acc ^^^ (v >>> i)) 0

/-- Value as a signed difference modulo 2^w. -/
def signedMod (d : Int) (w : Nat) : Int :=
  let m : Int := 2 ^ w
  let r := d % m
  if 2 * r < m then r else r - m

/-- SSI_TRANSFER_END, BITS + 1 clock periods and the sampling delay after the start: the bits clocked in, and whether the data line was high before and low after them (R203, R205). A
valid transfer loads the counter the first time and advances it afterwards; one in error is extrapolated (R204, R205). -/
def execSsiTransferEnd (n : AxId) (bits : BitVec 64) (frameOk : Bool) (s : State) : Out :=
  .next (
    let x := s.fbk n
    if s.pmode n ≠ 2 || !x.ssiBusy.any (fun t => decide (t + s.ssiLead n ≤ s.tick + 2)) then s else
    let w := s.fld Fld.AX_SSICFG_BITS n.val
    let ebit := s.bit Fld.AX_SSICFG_EBIT n.val
    let pw := if ebit then w - 1 else w
    let raw := bits.toNat % 2 ^ w
    let v := if ebit then raw / 2 else raw
    let v : Int := if s.bit Fld.AX_SSICFG_GRAY n.val then grayDecode v pw else v
    let x := { x with ssiBusy := none }
    let jump := s.fld Fld.AX_SSICFG_JUMP n.val
    let moved := match x.ssiLast with
      | none => false
      | some p => jump != 0 && decide ((signedMod (v - p) pw).natAbs * 2 ^ jump > s.cpr n)
    if !frameOk || (ebit && raw % 2 == 1) || moved then
      let s := s.setFbk n { x with ssiErr := x.ssiErr + 1, ssiExtra := x.ssiExtra + x.ssiDelta }
      let s := s.countMove n x.ssiDelta
      if x.ssiErr + 1 ≥ Nat.max 1 (s.fld Fld.AX_SSICFG_ERR_N n.val) then s.raiseFbFault n 5 else s
    else
      match x.ssiLast with
      | none =>
        let s := s.setFbk n { x with ssiLast := some v, ssiDelta := 0, ssiExtra := 0, ssiErr := 0 }
        s.countMove n (v - x.pos.toInt)
      | some p =>
        let d := signedMod (v - p) pw
        let s := s.setFbk n { x with ssiLast := some v, ssiDelta := d, ssiExtra := 0, ssiErr := 0 }
        s.countMove n (d - x.ssiExtra))

/-- The position delivered for a sample instant: the counter, advanced under SSI by the motion during the transfer (R204,
R207). -/
def State.samplePos (s : State) (n : AxId) : BitVec 48 :=
  let x := s.fbk n
  if s.pmode n = 2 then
    x.pos + BitVec.ofInt 48 (roundDiv (x.ssiDelta * s.ssiLead n) (Nat.max 1 (s.ssiInterval n)))
  else x.pos

/-- The quadrant of the fine angle that the comparators of R201 show. -/
def scQuadrant (a b : Bool) : Int :=
  match a, b with
  | true, true => 0
  | true, false => 1
  | false, false => 2
  | false, true => 3

/-- The feedback block is configured anew: what it keeps of earlier single-line counts and transfers is gone (R197, R204), and the quadrant
count starts in the quadrant that the comparators show (log entry 31). -/
def State.resetFeedback (s : State) (n : AxId) : State :=
  let x := s.fbk n
  s.setFbk n { x with dir := none, dirP := none, ampBad := 0, trackBad := 0, scOk := false, ssiLast := none, ssiDelta := 0,
                      ssiExtra := 0, ssiErr := 0, ssiBusy := none, scLast := none, quadCount := scQuadrant x.pa x.pb, qcHist := [] }

/-! ## Coherent reads (R211, R284) -/

/-- What a read of AX_POS_HI, or of AX_ZPOS_HI, of any axis returns to a function: its shadow (R211). -/
def State.readPosHi (s : State) (fn : FnId) : BitVec 32 := (s.fn fn).posShadow
def State.readZposHi (s : State) (fn : FnId) : BitVec 32 := (s.fn fn).zposShadow

/-- POS_LO_READ: the counter and ANGLE go to the shadow of the reading function; bits 31:0 are returned. A function other
than F0 sees the axes it owns only, through its status views. -/
def execPosLoRead (fn : FnId) (n : AxId) (s : State) : Out :=
  .next (
    if fn ≠ 0 ∧ s.axisOwner n ≠ fn then { s with lastRead := [0] } else
    let p := (s.fbk n).pos
    let hi : BitVec 32 := BitVec.ofNat 32 (s.angle n * 65536 + p.toNat / 2 ^ 32)
    let s := s.setFn fn { s.fn fn with posShadow := hi, posFrom := some n }
    { s with lastRead := [p.setWidth 32, s.readPosHi fn] })

/-- ZPOS_LO_READ: likewise for AX_ZPOS. -/
def execZposLoRead (fn : FnId) (n : AxId) (s : State) : Out :=
  .next (
    if fn ≠ 0 ∧ s.axisOwner n ≠ fn then { s with lastRead := [0] } else
    let p := (s.fbk n).zpos
    let hi : BitVec 32 := BitVec.ofNat 32 (p.toNat / 2 ^ 32)
    let s := s.setFn fn { s.fn fn with zposShadow := hi, zposFrom := some n }
    { s with lastRead := [p.setWidth 32, s.readZposHi fn] })

end Sys2Proof.Machine
end

