-- ==== Sys2Proof/Machine/Motion.lean ====
section
/-! DEFINITION. Motion (07_motion.md R223 to R260): delivery of accepted commands, the move queue, MOVE_LIM, STEP_CFG,
position latches, the step timer, stalls, and the line shaft. -/

namespace Sys2Proof.Machine

/-! ## The masters of gears and cams (R237 to R245) -/

/-- The predicted shaft at `t` (R245): position, velocity and acceleration. None where no sample serves `t` or the payload's velocity is
no finite number: the spec states no value there. -/
def Shaft.kinAt (h : Shaft) (t : Nat) : Option Kin :=
  match h.table.dropWhile fun k => decide (t < k.dt) with
  | [] => none
  | k :: rest =>
    match fRat k.vel with
    | none => none
    | some v =>
      let tau : Frac := (t - k.dt, 1000000000)
      let at_ (a : Frac) : Kin :=
        { pos := ((Frac.ofInt k.pos).add (v.mul tau)).add ((a.mul (tau.mul tau)).half), vel := v.add (a.mul tau), acc := a }
      match rest with
      | [] => some (at_ (0, 1))
      | j :: _ =>
        let dd := k.dt - j.dt
        if dd = 0 ∨ dd > 500000 then some (at_ (0, 1)) else
        match fRat j.vel with
        | none => none
        | some w => some (at_ ((v.sub w).mul (1000000000, dd)))

/-- A position in counts × 256, to the nearest. -/
def Kin.pos256 (k : Kin) : Int := roundDiv (256 * k.pos.1) k.pos.2

/-- The predicted shaft position p(t) in counts × 256 (R245, R250). -/
def Shaft.at256 (h : Shaft) (t : Nat) : Option Int := (h.kinAt t).map Kin.pos256

/-- The counter of an axis at DT `t` by its two latest boundary captures (R239). -/
def extrapolate (t : Nat) : List (Nat × BitVec 48) → Option Kin
  | (t1, p1) :: (t0, p0) :: _ =>
    if t0 < t1 then
      let v : Frac := Frac.norm ((p1 - p0).toInt * 1000000000, t1 - t0)
      some { pos := (Frac.ofInt p1.toInt).add (v.mul ((t : Int) - t1, 1000000000)), vel := v, acc := (0, 1) }
    else none
  | _ => none

/-- The reference of an axis for axis frame `f`: the point that serves it, else the position at which it rests. -/
def AxMot.refAt (m : AxMot) (f : BitVec 32) : RefMark :=
  match m.refs.find? fun r => r.frame == f with
  | some r => r
  | none => { frame := f, pos := m.refPos, vel := (0, 1), acc := (0, 1) }

/-- A master for axis frame `f`, at DT `t`: the reference of axis m, its counter, or the shaft (R237). -/
def State.master (s : State) (src m : BitVec 8) (f : BitVec 32) (t : Nat) : Option Kin :=
  if src = 2 then s.shaft.kinAt t
  else if h : m.toNat < 48 then
    let k : AxId := ⟨m.toNat, h⟩
    if src = 0 then
      let r := (s.motion k).refAt f
      some { pos := Frac.ofInt r.pos, vel := r.vel, acc := r.acc }
    else extrapolate t (s.motion k).caps
  else none

/-- Source and master of a GEAR or CAM. -/
def masterOf : HostCmd → Option (BitVec 8 × BitVec 8)
  | .gear _ src m .. => some (src, m)
  | .cam _ src m .. => some (src, m)
  | _ => none

/-- The slave reference of a GEAR, with `u` the master travel in 1/256 count (R238). -/
def gearPos (g : GearRun) (num : Int) (den e : Nat) (ph : Int) (u256 : Int) : Frac :=
  let u : Frac := (u256, 256)
  let r : Frac := (num, Nat.max 1 den)
  let r0 : Frac := (g.num0, g.den0)
  let s0 := Frac.ofInt g.s0
  if e ≠ 0 ∧ u256 * g.dir < 256 * e then
    let en : Frac := (1, e)
    s0.add ((r0.mul u).add (((((r.sub r0).mul (u.mul u)).mul en).mul (1, 2)).add (((Frac.ofInt ph).mul u).mul en)))
  else
    let ef := Frac.ofInt e
    s0.add ((r0.mul ef).add ((((r.sub r0).mul ef).mul (1, 2)).add ((Frac.ofInt ph).add (r.mul (u.sub ef)))))

/-- First and second derivative of the slave reference of a GEAR by the master travel. -/
def gearSlope (g : GearRun) (num : Int) (den e : Nat) (ph : Int) (u256 : Int) : Frac × Frac :=
  let r : Frac := (num, Nat.max 1 den)
  let r0 : Frac := (g.num0, g.den0)
  if e ≠ 0 ∧ u256 * g.dir < 256 * e then
    let c := (r.sub r0).mul (1, e)
    (r0.add ((c.mul (u256, 256)).add (ph, e)), c)
  else (r, (0, 1))

/-- Point `i` of cam table `c`, for any index: RISE is added or removed once per cycle (R240, R241). None: not finite. -/
def State.camPoint (s : State) (c : Nat) (rise : Frac) (i : Int) : Option Frac :=
  let k := (i % 1024).toNat
  match fRat (BitVec.ofNat 32 (Mem.load s.shmem (0x1F0000 + 0x1000 * c + 4 * k) 4)) with
  | some y => some (Frac.add y (Frac.mul rise (i / 1024, 1)))
  | none => none

/-- Cubic Hermite interpolation at `t` of an interval from `y` to `z` with slopes `m0` and `m1`: value, and derivatives by `t`. -/
def hermite (y z m0 m1 t : Frac) : Frac × Frac × Frac :=
  let sum (h01 h10 h11 one : Frac) : Frac :=
    (((one.sub h01).mul y).add (h10.mul m0)).add ((h01.mul z).add (h11.mul m1))
  let k (n : Int) : Frac := (n, 1)
  let t2 := t.mul t
  let t3 := t2.mul t
  (sum (((k 3).mul t2).sub ((k 2).mul t3)) ((t3.sub ((k 2).mul t2)).add t) (t3.sub t2) (k 1),
   sum (((k 6).mul t).sub ((k 6).mul t2)) ((((k 3).mul t2).sub ((k 4).mul t)).add (k 1)) (((k 3).mul t2).sub ((k 2).mul t)) (k 0),
   sum ((k 6).sub ((k 12).mul t)) (((k 6).mul t).sub (k 4)) (((k 6).mul t).sub (k 2)) (k 0))

/-- y(v) and its derivatives by v, at v = `num` / `den` (R241). -/
def State.camAt (s : State) (c : Nat) (rise : Frac) (num : Int) (den : Nat) : Option (Frac × Frac × Frac) :=
  let i := num / den
  match s.camPoint c rise (i - 1), s.camPoint c rise i, s.camPoint c rise (i + 1), s.camPoint c rise (i + 2) with
  | some a, some y, some z, some b => some (hermite y z ((z.sub a).half) ((b.sub y).half) (num % den, den))
  | _, _, _, _ => none

/-- The slave reference of a CAM, with `u` the master travel in 1/256 count (R241), and its derivatives by that travel. -/
def State.camPos (s : State) (g : GearRun) (c mp : Nat) (mo : Int) (scale rise : F32) (u256 : Int) : Option (Frac × Frac × Frac) :=
  match fRat scale, fRat rise with
  | some sc, some ri =>
    let p := 256 * Nat.max 1 mp
    let w := u256 + 256 * mo
    let w0 := 256 * mo
    match s.camAt c ri (1024 * (w % p)) p, s.camAt c ri (1024 * (w0 % p)) p with
    | some y, some y0 =>
      let cn := w / p - w0 / p
      let step : Frac := (1024, Nat.max 1 mp)
      some ((Frac.ofInt g.s0).add (Frac.mul sc ((y.1.sub y0.1).add (Frac.mul ri (cn, 1)))),
            Frac.mul sc (y.2.1.mul step), Frac.mul sc (y.2.2.mul (step.mul step)))
    | _, _ => none
  | _, _ => none

/-- The reference of a GEAR or CAM for axis frame `f` at DT `t`, to 1 count (R238, R241); none where the manual states no value. -/
def State.gearedKin (s : State) (n : AxId) (cmd : HostCmd) (f : BitVec 32) (t : Nat) : Option Kin :=
  match masterOf cmd, (s.motion n).loops.gear with
  | some (src, k), some g =>
    match s.master src k f t with
    | none => none
    | some x =>
      let u := x.pos256 - g.m0
      let on (y slope curve : Frac) : Kin :=
        { pos := Frac.ofInt y.whole, vel := slope.mul x.vel, acc := (curve.mul (x.vel.mul x.vel)).add (slope.mul x.acc) }
      match cmd with
      | .gear _ _ _ num den e ph =>
        let d := gearSlope g num den e ph u
        some (on (gearPos g num den e ph u) d.1 d.2)
      | .cam _ _ _ c mp mo scale rise => (s.camPos g c.toNat mp mo scale rise u).map fun y => on y.1 y.2.1 y.2.2
      | _ => none
  | _, _ => none

/-- The ratio in force of the active command, at axis frame `f` and DT `t` (R238): 0 unless it is a GEAR or CAM; that of a CAM is its
slope. -/
def State.ratioNow (s : State) (n : AxId) (f : BitVec 32) (t : Nat) : Frac :=
  let m := s.motion n
  match m.head, m.loops.gear with
  | some q, some g =>
    let u : Int := match masterOf q.cmd with
      | some (src, k) => (match s.master src k f t with | some x => x.pos256 - g.m0 | none => 0)
      | none => 0
    match q.cmd with
    | .gear _ _ _ num den e _ =>
      let r : Frac := (num, Nat.max 1 den)
      let r0 : Frac := (g.num0, g.den0)
      if 256 * e ≤ u.natAbs then r else r0.add ((r.sub r0).mul (u.natAbs, 256 * e))
    | .cam _ _ _ c mp mo scale rise =>
      match s.camPos g c.toNat mp mo scale rise u with
      | some y => y.2.1
      | none => (0, 1)
    | _ => (0, 1)
  | _, _ => (0, 1)

/-! ## Full scales and limits -/

def State.axisImg (s : State) (n : AxId) : List Byte := (s.store.axisImage n).getD []

/-- VFS of an axis in counts per second. -/
def State.vfs (s : State) (n : AxId) : Frac := (fRat (Config.fullSpeed (s.axisImg n))).getD (0, 1)

/-- AFS of an axis in counts/s². -/
def State.afs (s : State) (n : AxId) : Frac := (fRat (Config.fullAccel (s.axisImg n))).getD (0, 1)

/-- A limit of a move: one that is no finite number limits nothing. -/
def limitOf (w : F32) : Frac :=
  match fRat w with
  | some q => if 0 < q.1 then q else (2 ^ 128, 1)
  | none => (2 ^ 128, 1)

/-- VFS per so many milliseconds, in counts/s². -/
def State.fullDecel (s : State) (n : AxId) (ms : Nat) : Frac := (s.vfs n).mul (1000, Nat.max 1 ms)

/-- The limits of a command, where `lim` is a MOVE_LIM that replaces them (R235). HOME has those of the last MOVE_LIM, or else VFS per
DECEL_MS (R259). -/
def State.limitsOf (s : State) (n : AxId) (cmd : HostCmd) (lim : Option HostCmd) : Limits :=
  let base : Limits := match cmd with
    | .moveAbs _ _ v a d j => { v := limitOf v, a := limitOf a, d := limitOf d, j := some (limitOf j) }
    | .moveVel _ _ a j => { v := (2 ^ 128, 1), a := limitOf a, d := limitOf a, j := some (limitOf j) }
    | _ =>
      let q := s.fullDecel n (s.fld Fld.AX_STOPCFG_DECEL_MS n.val)
      { v := (2 ^ 128, 1), a := q, d := q, j := none }
  match lim with
  | some (.moveLim _ v a d j) => { v := limitOf v, a := limitOf a, d := limitOf d, j := some (limitOf j) }
  | _ => base

/-! ## Profiles of moves (R233 to R236, R259) -/

/-- A profile that ends at rest at `t` (R233, R234). -/
def planTo (r : RefMark) (t : Int) (l : Limits) (t0 : Nat) : Plan :=
  let p := moveSegs r.vel r.acc (Frac.ofInt (t - r.pos)) l
  { origin := r.pos, vel := r.vel, acc := r.acc, t0 := t0, segs := p.1, target := some t, last := (0, 1), overshoot := p.2, ended := false }

/-- A profile that ends at a velocity, and holds it (R236). -/
def planVel (r : RefMark) (v lim : Frac) (j : Option Frac) (t0 : Nat) : Plan :=
  { origin := r.pos, vel := r.vel, acc := r.acc, t0 := t0, segs := rampTo r.vel r.acc v lim j, target := none, last := v, overshoot := false,
    ended := false }

/-- The profile of a command from a reference in force at DT `t0`, where `l` are its limits: the approach, of a HOME (R259). None for a
GEAR or CAM. -/
def planOf (cmd : HostCmd) (r : RefMark) (l : Limits) (t0 : Nat) : Option Plan :=
  match cmd with
  | .moveAbs _ t _ _ _ _ => some (planTo r t l t0)
  | .moveVel _ v _ _ => some (planVel r ((fRat v).getD (0, 1)) l.a l.j t0)
  | .home _ rev _ vHome _ _ _ =>
    let v := (fRat vHome).getD (0, 1)
    some (planVel r (if rev then v.neg else v) l.a l.j t0)
  | _ => none

/-- Where a profile is at DT `t`: the distance travelled from its origin, velocity and acceleration. -/
def Plan.at (p : Plan) (t : Nat) : Kin :=
  let e : Frac := Frac.norm ((t : Int) - p.t0, 1000000000)
  let d := totalDur p.segs
  let k : Kin := ⟨(0, 1), p.vel, p.acc⟩
  if e.isLt d then k.along e p.segs
  else { pos := (k.along d p.segs).pos.add (p.last.mul (e.sub d)), vel := p.last, acc := (0, 1) }

/-- The profile has ended at DT `t`. -/
def Plan.spent (p : Plan) (t : Nat) : Bool := (totalDur p.segs).isLe (Frac.norm ((t : Int) - p.t0, 1000000000))

/-- The active command starts at B_n of axis frame `f`, DT `t`, from the reference in force there (R231): its profile, or the positions of
master and slave (R238, R241). -/
def State.startHead (s : State) (n : AxId) (f : BitVec 32) (t : Nat) (ratio : Frac) : State :=
  let m := s.motion n
  let r := m.refAt f
  match m.head with
  | none => s.setMotion n { m with plan := none, loops := { m.loops with gear := none } }
  | some q =>
    let lim := match q.cmd with | .home .. => m.lim | _ => none
    let g : Option GearRun := (masterOf q.cmd).map fun k =>
      { m0 := ((s.master k.1 k.2 f t).map Kin.pos256).getD 0, s0 := r.pos, num0 := ratio.1, den0 := ratio.2, dir := 0 }
    s.setMotion n { m with plan := planOf q.cmd r (s.limitsOf n q.cmd lim) t, loops := { m.loops with gear := g } }

/-- A HOME whose stall has been found, and which waits for its preload (R259). -/
def State.homeWaits (s : State) (n : AxId) (q : QMove) : Bool :=
  match q.cmd, q.ended with
  | .home .., none => (s.motion n).loops.homeStall.isSome
  | .home .., some _ => (s.fbk n).preload.isSome
  | _, _ => false

/-- The reference in force on an axis for axis frame `f`, whose B_n is at DT `t` and whose sample instant at `ts`: along the profile, or
with the master (R233 to R245); and whether this point ends its move. Outside RUN the reference is the position at which the axis
rests; of a virtual axis that stops, it follows its ramp (R242). Where the manual states no value for a master the reference stays. -/
def State.reference (s : State) (n : AxId) (f : BitVec 32) (t ts : Nat) : Kin × Bool :=
  let m := s.motion n
  let rest (p : Int) : Kin × Bool := (⟨Frac.ofInt p, (0, 1), (0, 1)⟩, false)
  let along (p : Plan) : Kin × Bool :=
    let k := p.at t
    match p.target with
    | some x => if p.ended then rest x
      else if p.spent t then (⟨Frac.ofInt x, (0, 1), (0, 1)⟩, true)
      else ({ k with pos := (Frac.ofInt p.origin).add (twoWordSum k.pos.twoWord) }, false)
    | none => ({ k with pos := (Frac.ofInt p.origin).add (twoWordSum k.pos.twoWord) }, false)
  let moving := match s.axState n with
    | .run => true
    | .stopping => s.bit Fld.AX_MOTCFG_VIRT n.val
    | _ => false
  if !moving then
    rest (if s.axState n ≠ .hold then (s.fbk n).pos.toInt
      else if s.bit Fld.AX_MOTCFG_VIRT n.val then m.refPos else m.loops.held.getD m.refPos)
  else
  match m.plan, m.head with
  | some p, some q => if s.homeWaits n q then rest (s.fbk n).pos.toInt else along p
  | some p, none => along p
  | none, some q => match s.gearedKin n q.cmd f ts with | some k => (k, false) | none => rest m.refPos
  | none, none => rest m.refPos

/-- The reference stands still where the axis is. -/
def State.standStill (s : State) (n : AxId) : State :=
  let m := s.motion n
  s.setMotion n { m with plan := none, losing := none, refs := [], refPos := (s.fbk n).pos.toInt, loops := { m.loops with gear := none } }

/-! ## The move queue (R229 to R235) -/

/-- Number of the trajectory slot that serves axis frame `f` (R225; the number that R126 divides by D_P). -/
def State.trajSlot (s : State) (n : AxId) (f : BitVec 32) : Nat := (f.toNat / s.cdiv n / s.divP) % 4

/-- The point of frame `f` is VALID and ends the active move (Table 1, R234). -/
def State.endPoint (s : State) (n : AxId) (f : BitVec 32) : Bool :=
  let o := 0x200 + 0x20 * s.trajSlot n f
  let w := (s.ax n).win
  Mem.load w o 4 == f.toNat && Mem.load w (o + 4) 4 % 4 == 3

/-- The head has completed at this position-loop boundary (R231): a HOME with the END point of its last move (R259). -/
def State.headDone (s : State) (n : AxId) (q : QMove) (waiting : Bool) : Bool :=
  match q.cmd with
  | .moveAbs .. => s.endPoint n (s.ax n).frameNo
  | .home .. => q.ended.isSome && s.endPoint n (s.ax n).frameNo
  | _ => waiting

/-- DATA of the DONE of a queued command (Table 9 of 10_descriptors.md): HOME reports REF and HOME_POS. -/
def State.moveData (s : State) (n : AxId) (q : QMove) : List Byte :=
  match q.cmd, q.ended with
  | .home _ _ _ _ homePos _ _, some (_, ref) => (s.axState n).data ++ [0] ++ leInt 6 ref ++ leInt 6 homePos
  | _, _ => (s.axState n).data

/-- The first entry becomes the head and starts. -/
def startFirst : List QMove → List QMove
  | [] => []
  | q :: t => { q with started := true } :: t

/-- The queue advances at a position-loop boundary (R231): a completed head reports DONE with the DT of the boundary, and
the next entry starts. -/
def State.advanceQueue (s : State) (n : AxId) : State :=
  match (s.motion n).queue with
  | [] => s
  | q :: rest =>
    let f := (s.ax n).frameNo
    let t := s.dtAt (s.ax n).frameTick
    let ratio := s.ratioNow n f t
    if !q.started then (s.setQueue n (startFirst (q :: rest))).startHead n f t ratio
    else if s.headDone n q (!rest.isEmpty) then
      let flags := match q.ended with | some (f, _) => f.toNat | none => 0
      let s := s.complete q.src .done 0 flags (s.moveData n q) t
      (s.setQueue n (startFirst rest)).startHead n f t ratio
    else s

/-- A queued command is delivered: it enters the tail of the queue in RUN, and is cancelled in any other state (R229, R232),
as is a MOVE_ABS while the position is unknown (R258). At a position-loop boundary the queue then advances. -/
def State.queueMove (s : State) (src : CmdSrc) (n : AxId) (cmd : HostCmd) (d : Nat) : State :=
  let unknown := match cmd with
    | .moveAbs .. => s.axMode n == 3 && s.bit Fld.AX_MSTAT_POS_UNK n.val
    | _ => false
  if s.axState n ≠ .run || unknown then s.cancelAxis src n d
  else
    let s := s.setQueue n ((s.motion n).queue ++ [{ src := src, cmd := cmd, started := false, ended := none }])
    let s := s.tellGroup (s.fld Fld.AX_MOTCFG_TRAJ_ENG n.val)
    let x := s.ax n
    if x.framed && x.frameTick == s.tick && s.positionLoopFrame n x.frameNo then s.advanceQueue n else s

def execMoveAbs (src : CmdSrc) (n : AxId) (t : Int) (v a d j : F32) (s : State) : Out :=
  .next (s.deliver src (.moveAbs n t v a d j) fun s dt => s.queueMove src n (.moveAbs n t v a d j) dt)

def execMoveVel (src : CmdSrc) (n : AxId) (vel a j : F32) (s : State) : Out :=
  .next (s.deliver src (.moveVel n vel a j) fun s dt => s.queueMove src n (.moveVel n vel a j) dt)

def execGear (src : CmdSrc) (n : AxId) (gsrc master : BitVec 8) (num : Int) (den ramp : Nat) (ph : Int) (s : State) : Out :=
  .next (s.deliver src (.gear n gsrc master num den ramp ph) fun s dt =>
    s.queueMove src n (.gear n gsrc master num den ramp ph) dt)

def execCam (src : CmdSrc) (n : AxId) (csrc master cam : BitVec 8) (mp : Nat) (mo : Int) (scale rise : F32) (s : State) : Out :=
  .next (s.deliver src (.cam n csrc master cam mp mo scale rise) fun s dt =>
    s.queueMove src n (.cam n csrc master cam mp mo scale rise) dt)

def execHome (src : CmdSrc) (n : AxId) (reverse : Bool) (iHome : BitVec 16) (vHome : F32) (homePos : Int)
    (backoff maxDist : Nat) (s : State) : Out :=
  .next (s.deliver src (.home n reverse iHome vHome homePos backoff maxDist) fun s dt =>
    s.queueMove src n (.home n reverse iHome vHome homePos backoff maxDist) dt)

/-- MOVE_LIM applies to an active MOVE_ABS or MOVE_VEL (R235). -/
def AxMot.limApplies (m : AxMot) : Bool :=
  match m.head with
  | some q => match q.cmd with
    | .moveAbs .. => true
    | .moveVel .. => true
    | _ => false
  | none => false

/-! ## What the images report (R226, R235, R256, R257, R259) -/

/-- A MOVE_LIM is applied in the run of a period that begins with axis frame `f` at DT `t` (R235): the active move is planned anew from
its reference there; CLIPPED where deceleration and jerk had to be raised so that it still stops at T, NO_MOVE where no move is active
any more (R322). -/
def State.applyLim (s : State) (n : AxId) (f : BitVec 32) (t : Nat) (r : MailRec) : State :=
  let m := s.motion n
  match m.head with
  | some q =>
    if !m.limApplies then s.doneAxis r.src n t flNoMove else
    let x := m.refAt f
    let l := s.limitsOf n q.cmd (some r.cmd)
    let c : Limits × Bool := match q.cmd with
      | .moveAbs _ tgt _ _ _ _ => clipLimits x.vel x.acc (Frac.ofInt (tgt - x.pos)) l
      | _ => (l, false)
    let s := s.setMotion n { m with lim := some r.cmd, plan := planOf q.cmd x c.1 t }
    s.doneAxis r.src n t (if c.2 then flClipped else 0)
  | none => s.doneAxis r.src n t flNoMove

/-- The MOVE_LIMs that were delivered before the period began at tick `b` are applied in order. -/
def State.applyLims (s : State) (n : AxId) (f : BitVec 32) (t b : Nat) : State :=
  let m := s.motion n
  let due := m.limPend.filter fun r => decide (r.at_ < b)
  forAll due (fun s r => s.applyLim n f t r) (s.setMotion n { m with limPend := m.limPend.filter fun r => !decide (r.at_ < b) })

/-- Every waiting MOVE_LIM ends with NO_MOVE: its move has gone (R322). -/
def State.dropLims (s : State) (n : AxId) : State :=
  let m := s.motion n
  forAll m.limPend (fun s r => s.doneAxis r.src n s.now flNoMove) (s.setMotion n { m with limPend := [] })

/-- The waiting STEP_CFGs are applied whole, in order, as the first act of a run (R256, R323). -/
def State.applyStepCfg (s : State) (n : AxId) : State :=
  let m := s.motion n
  forAll m.stepCfgPend (fun s r => (s.setMotion n { s.motion n with stepCfg := some r.cmd }).doneAxis r.src n (s.sampleDt n))
    (s.setMotion n { m with stepCfgPend := [] })

/-- A trajectory miss at frame `f` (R226): a record, and after two in a row the queue is emptied. -/
def State.trajectoryMiss (s : State) (n : AxId) (f : BitVec 32) : State :=
  let m := s.motion n
  let k := m.trajMiss + 1
  let s := s.setMotion n { m with trajMiss := k }
  let s := s.event (s.axisOwner n) 0x0008 n.val k (leBytes 4 f.toNat)
  if k = 2 then (s.emptyQueue n .cancelled 0).standStill n else s

/-- DATA of a FAULT of STALL or NOT_FOUND (Table 9 of 10_descriptors.md). -/
def State.refData (s : State) (n : AxId) (ref : Int) : List Byte := (s.axState n).data ++ [0] ++ leInt 6 ref

/-- HALT is written to the ring entry that the timer reads next (R257). -/
def State.writeHalt (s : State) (n : AxId) : State :=
  let a := 0xF00 + 4 * (s.motion n).rdIdx
  let x := s.ax n
  s.setAx n { x with win := Mem.store x.win a 4 (2 ^ 31 + 2 ^ 29) }

/-- A stall (R257): the timer halts; outside homing the head ends with FAULT, STALL, and the rest of the queue with
CANCELLED, and a STALL record is sent. The axis stays in RUN. -/
def State.stalled (s : State) (n : AxId) (ref : Int) (homing : Bool) : State :=
  let s := s.writeHalt n
  if homing then s else
  let q := (s.motion n).queue
  let s := (s.setQueue n []).standStill n
  let s := match q with
    | [] => s
    | h :: rest =>
      let s := s.complete h.src .fault 2 0 (s.refData n ref)
      forAll rest (fun s r => s.cancelAxis r.src n s.now) s
  (s.dropLims n).event (s.axisOwner n) 0x000A n.val 0 (leInt 8 ref)

/-- No stall within MAX_DIST (R259): the timer halts and HOME ends with FAULT, NOT_FOUND; the next entry starts at the next
position-loop boundary. -/
def State.homeMissed (s : State) (n : AxId) (ref : Int) : State :=
  let s := s.writeHalt n
  match (s.motion n).queue with
  | h :: rest =>
    match h.cmd with
    | .home .. => ((s.complete h.src .fault 3 0 (s.refData n ref)).setQueue n rest).standStill n
    | _ => s
  | [] => s

/-- What the active move will report when it completes: its flags, and the reference count of a HOME (R233, R259). -/
def State.markEnd (s : State) (n : AxId) (flags : BitVec 8) (ref : Int) : State :=
  let m := s.motion n
  match m.queue with
  | q :: rest => if q.started then s.setMotion n { m with queue := { q with ended := some (flags, ref) } :: rest } else s
  | [] => s

/-- The active command is a MOVE_ABS. -/
def AxMot.absHead (m : AxMot) : Bool :=
  match m.head with
  | some q => match q.cmd with | .moveAbs .. => true | _ => false
  | none => false

/-- The active command is a HOME that still looks for its stop: its HOME_POS and MAX_DIST. -/
def AxMot.homeHead (m : AxMot) : Option (Int × Nat) :=
  match m.head with
  | some q => match q.cmd, q.ended with
    | .home _ _ _ _ homePos _ maxDist, none => some (homePos, maxDist)
    | _, _ => none
  | none => none

/-! ## The step timer (R252 to R254) -/

/-- STEPSTAT and AX_MSTAT.HALTED show RDIDX and whether the timer is halted (Table 2). -/
def State.refreshStep (s : State) (n : AxId) : State :=
  let m := s.motion n
  let h := m.stepNext.isNone
  let x := s.ax n
  let w := Mem.load x.win 0xF44 2 + m.rdIdx * 65536 + (if h then 2 ^ 20 else 0)
  let s := s.setAx n { x with win := Mem.store x.win 0xF44 4 w }
  s.setBit Fld.AX_MSTAT_HALTED n.val h

/-- Microsteps of an electrical revolution: 4 × 2^USTEP (R254). -/
def State.microsteps (s : State) (n : AxId) : Nat := 4 * 2 ^ Nat.min 8 (s.fld Fld.AX_STEPCFG_USTEP n.val)

/-- STEPCAP and the electrical angle are captured at a sample instant (R254). -/
def State.captureStep (s : State) (n : AxId) : State :=
  let c := s.word .AX_STEPCNT n.val
  let m := s.microsteps n
  let ang := (c.toInt % m).toNat * 65536 / m
  let x := s.ax n
  let s := s.setAx n { x with win := Mem.store (Mem.store x.win 0xF40 4 c.toNat) 0xF44 2 ang }
  let m := s.motion n
  (s.setMotion n { m with loops := { m.loops with haltCap := m.stepNext.isNone } }).refreshStep n

/-- The timer halts. -/
def State.haltTimer (s : State) (n : AxId) : State :=
  (s.setMotion n { s.motion n with stepNext := none }).refreshStep n

/-- Take the interval of an entry from instant `t`: the fraction is carried (R252). -/
def AxMot.nextStep (m : AxMot) (t : Nat) : AxMot :=
  let a := m.fracAcc + m.stepFrac
  { m with stepNext := some (t + m.stepInt + a / 16), fracAcc := a % 16 }

/-- The timer reads the ring entry at RDIDX at instant `t` (R252); none: it is not VALID. -/
def State.readStepRing (s : State) (n : AxId) (t : Nat) : Option State :=
  let m := s.motion n
  let x := s.ax n
  let a := 0xF00 + 4 * m.rdIdx
  let w := Mem.load x.win a 4
  if !w.testBit 31 then none else
  let s := s.setAx n { x with win := Mem.store x.win a 4 (w % 2 ^ 31) }
  let m := { m with rdIdx := (m.rdIdx + 1) % 16 }
  let m := if w.testBit 29 then { m with stepNext := none }
    else ({ m with stepInt := Nat.max 25 (w % 2 ^ 24), stepFrac := w / 2 ^ 24 % 16, stepRev := w.testBit 28 }).nextStep t
  some ((s.setMotion n m).refreshStep n)

/-- A halted timer restarts at the first release instant, at tick `t`, at which the entry at RDIDX is VALID (R253). -/
def State.restartTimer (s : State) (n : AxId) (t : Nat) : State :=
  if s.axMode n ≠ 3 || s.axState n == .off || (s.motion n).stepNext.isSome then s
  else (s.readStepRing n t).getD s

/-- STEP_TIMER_EXPIRY: a step (R252, R254): the step count and, with PSRC = 0, the position counter move; the timer reads
the next entry, or repeats the last interval and direction and counts an underrun. -/
def execStepTimerExpiry (n : AxId) (s : State) : Out :=
  .next (
    match (s.motion n).stepNext with
    | none => s
    | some t =>
      if s.tick < t then s else
      let d : Int := if (s.motion n).stepRev then -1 else 1
      let s := s.setWord .AX_STEPCNT n.val 0 (s.word .AX_STEPCNT n.val + BitVec.ofInt 32 d)
      let s := if s.bit Fld.AX_STEPCFG_PSRC n.val then s else s.moveCounter n d
      match s.readStepRing n t with
      | some s' => s'
      | none =>
        let s := s.setMotion n ((s.motion n).nextStep t)
        s.countSat Fld.AX_MSTAT_UNDR n.val)

/-! ## Position latches (R249, R250, R324) -/

/-- LATCH_ARM at its delivery boundary: the unit takes the new setting for edges at or after D (R249, R324). -/
def execLatchArm (src : CmdSrc) (n : AxId) (unit : Fin 2) (dio edge mode target : BitVec 8) (s : State) : Out :=
  .next (s.deliver src (.latchArm n unit dio edge mode target) fun s d =>
    let m := s.motion n
    let u := m.latches[unit]
    let new : LatchSet := { mode := mode, dio := dio, edge := edge, shaft := decide (target = 1), src := some src, lseq := 0 }
    let u := { u with old := u.cur, cur := new, since := d }
    (s.setMotion n { m with latches := m.latches.set unit.val u unit.isLt }).doneAxis src n d)

/-- Whether a setting takes an edge of a channel (R249). -/
def LatchSet.takes (l : LatchSet) (d : DioId) (falling : Bool) : Bool :=
  (l.mode == 1 || l.mode == 2) && l.dio.toNat == d.val && l.edge.getLsbD (if falling then 1 else 0) && l.src.isSome

/-- An edge with stamp `te` on an armed unit: ONCE disarms with it (R249, R324). -/
def LatchUnit.take (u : LatchUnit) (d : DioId) (te : Nat) (falling : Bool) : LatchUnit :=
  let newer := decide (u.since ≤ te)
  let l := if newer then u.cur else u.old
  match l.takes d falling, l.src with
  | true, some c =>
    let e : LatchEdge := { te := te, falling := falling, dio := l.dio, shaft := l.shaft, src := c, lseq := l.lseq }
    let l := { l with lseq := l.lseq + 1, mode := if l.mode = 1 then 0 else l.mode }
    { u with edges := u.edges ++ [e], cur := if newer then l else u.cur, old := if newer then u.old else l }
  | _, _ => u

/-- A field-input edge goes to every unit that it feeds (R249). -/
def State.feedLatches (s : State) (d : DioId) (te : Nat) (falling : Bool) : State :=
  { s with mot := s.mot.map fun m => { m with latches := m.latches.map fun u => u.take d te falling } }

/-- The counter at `te` in counts × 256, to the nearest, between the boundary captures that bracket it (R250). -/
def capsAt256 (te : Nat) : List (Nat × BitVec 48) → Option Int
  | (t1, p1) :: (t0, p0) :: rest =>
    if t0 ≤ te ∧ te ≤ t1 then
      let d := (p1 - p0).toInt
      some (p0.toInt * 256 + roundDiv (d * 256 * ((te : Int) - t0)) (Nat.max 1 (t1 - t0)))
    else capsAt256 te ((t0, p0) :: rest)
  | _ => none

/-- LATCH completions of an axis that wait for their ring (R250). -/
def State.latchWaiting (s : State) (n : AxId) : Nat :=
  s.funcs.toList.foldl (fun (k : Nat) f => k + (f.comps.filter fun c => c.code == 6 && c.data.getD 0 0 == BitVec.ofNat 8 n.val).length) 0

/-- DATA of a latch record (Table 10 of 10_descriptors.md). -/
def LatchEdge.data (e : LatchEdge) (n : AxId) (unit : Fin 2) (pos : Int) : List Byte :=
  let u := unit.val + (if e.shaft then 2 else 0) + (if e.falling then 4 else 0)
  [BitVec.ofNat 8 n.val, BitVec.ofNat 8 u, e.dio, 0] ++ leInt 8 pos ++ leBytes 2 e.lseq.toNat

/-- The position of an edge, if it can be formed now: the counter between two captures, or p(t_e) of the shaft, a free value
where the spec states none. -/
def State.latchPos (s : State) (n : AxId) (e : LatchEdge) : Option Int :=
  if e.shaft then some ((s.shaft.at256 e.te).getD (Config.freeNat s.free : Int))
  else capsAt256 e.te (s.motion n).caps

/-- LATCH_RECORD: the record of the oldest edge of a unit is formed once its bracketing captures exist, and goes to the
completion ring of the issuer; with 16 waiting it is dropped (R250). -/
def execLatchRecord (n : AxId) (unit : Fin 2) (s : State) : Out :=
  .next (
    let m := s.motion n
    let u := m.latches[unit]
    match u.edges with
    | [] => s
    | e :: rest =>
      match s.latchPos n e with
      | none => s
      | some p =>
        let unstated := e.shaft && (s.shaft.at256 e.te).isNone
        let s : State := { s with free := if unstated then s.free + 1 else s.free }
        let s := s.setMotion n { m with latches := m.latches.set unit.val { u with edges := rest } unit.isLt }
        if 16 ≤ s.latchWaiting n then s.setBit Fld.AX_MSTAT_LATCH_OVF n.val true
        else s.complete e.src .latch 0 0 (e.data n unit p) e.te)

/-! ## The line shaft (R243 to R247) -/

/-- GLB_SHAFT_CFG.ROLE; 0b11 is taken as 0b00. -/
def State.shaftRole (s : State) : Nat := s.fld Fld.GLB_SHAFT_CFG_ROLE % 3

/-- AGE and LOSS_N: 0 is taken as 1 (Table 9). -/
def State.shaftAge (s : State) : Nat := Nat.max 1 (s.fld Fld.GLB_SHAFT_CFG_AGE) * 10000
def State.shaftLossN (s : State) : Nat := Nat.max 1 (s.fld Fld.GLB_SHAFT_CFG_LOSS_N)

/-- The command takes the shaft as its master (R237, R240). -/
def onShaft : HostCmd → Bool
  | .gear _ src _ _ _ _ _ => src == 2
  | .cam _ src _ _ _ _ _ _ => src == 2
  | _ => false

/-- The active command of the axis is geared to the shaft. -/
def State.shaftHead (s : State) (n : AxId) : Bool :=
  match (s.motion n).head with
  | some q => onShaft q.cmd
  | none => false

/-- The checks of R244 on a payload. -/
def State.shaftAccepts (s : State) (p : List Byte) : Bool :=
  let idOk := leAt p 0 2 == s.fld Fld.GLB_SHAFT_ID_ID
  let seqOk := match s.shaft.table with
    | [] => true
    | k :: _ => decide (0 < (BitVec.ofNat 16 (leAt p 2 2) - k.seq).toInt)
  let domOk := !s.bit Fld.GLB_SHAFT_CFG_DOM_CHK || (leAt p 4 4 / 4) % 2 == s.fld Fld.TB_CFG_SEL
  idOk && seqOk && domOk

/-- A receiver stores a sample in the shaft table, a ring of 4 entries of 48 bytes at 0x1EFF00 (R244), or counts it in
STALE. A sample that comes by DT_k + AGE ends the run of misses; LOST ends after 4 samples in a row (R246). -/
def State.receiveShaft (s : State) (p : List Byte) : State :=
  if s.shaftRole = 0 then s else
  if !s.shaftAccepts p then s.countSat Fld.GLB_SHAFT_STAT_STALE 0 else
  let h := s.shaft
  let k : ShaftSample := { seq := BitVec.ofNat 16 (leAt p 2 2), dt := leAt p 8 8, pos := (BitVec.ofNat 48 (leAt p 16 8)).toInt,
                           vel := BitVec.ofNat 32 (leAt p 24 4) }
  let a := 0x1EFF00 + 48 * (h.stored % 4)
  let s := { s with shmem := Mem.storeBytes s.shmem a (padTo 32 p ++ leBytes 8 s.now ++ leBytes 8 0),
                    shaft := { h with table := (k :: h.table).take 32, stored := h.stored + 1, inRow := h.inRow + 1 } }
  let s := if s.now ≤ k.dt + s.shaftAge then s.setFld Fld.GLB_SHAFT_STAT_MISS 0 0 else s
  if h.inRow + 1 ≥ 4 then s.setBit Fld.GLB_SHAFT_STAT_LOST 0 false else s

/-- SHAFT_SAMPLE_RX: a shaft frame has arrived and passed the port's checks. -/
def execShaftSampleRx (payload : List Byte) (s : State) : Out := .next (s.receiveShaft payload)

/-- The shaft is lost (R246, R247): flags, records to the functions with geared axes, the fault event, and every axis whose
head is on the shaft ends it with FAULT, SHAFT_LOSS. -/
def State.shaftLoss (s : State) : State :=
  let seq := match s.shaft.table with | k :: _ => k.seq.toNat | [] => 0
  let geared := (allFin 48).filter s.shaftHead
  let s := s.setBit Fld.GLB_SHAFT_STAT_LOST 0 true
  let s := s.setBit Fld.GLB_SHAFT_STAT_LOSS_SEEN 0 true
  let s := forAll ((allFin 8).filter fun f => geared.any fun n => s.axisOwner n == f)
    (fun s f => s.event f 0x0009 0 seq) s
  let s := forAll (allFin 64) (fun s e =>
    if s.bit Fld.ENG_EVCFG_SHAFT e.val then s.raiseEvent e .fault 8 id else s) s
  forAll geared (fun s n =>
    let q := (s.motion n).queue
    let s := s.setQueue n []
    match q with
    | [] => s
    | h :: rest =>
      let s := s.setMotion n { s.motion n with losing := some h.cmd }
      let s := s.complete h.src .fault 1 0 (s.axState n).data
      (forAll rest (fun s r => s.cancelAxis r.src n s.now) s).dropLims n) s

/-- SHAFT_SAMPLE_MISS: no sample with instant DT_k has been stored by DT_k + AGE (R246); LOSS_N in a row declare the
loss. -/
def execShaftSampleMiss (dtk : Nat) (s : State) : Out :=
  .next (
    if s.shaftRole = 0 || dtk % 250000 != 0 || decide (dtk ≤ s.shaft.judged) || decide (s.now < dtk + s.shaftAge) ||
       s.shaft.table.any (fun k => k.dt == dtk) then s else
    let s := { s with shaft := { s.shaft with judged := dtk, inRow := 0 } }
    let s := s.countSat Fld.GLB_SHAFT_STAT_MISS 0
    if s.fld Fld.GLB_SHAFT_STAT_MISS = s.shaftLossN then s.shaftLoss else s)

end Sys2Proof.Machine
end

