-- ==== Sys2Proof/Machine/PowerStage.lean ====
section
/-! DEFINITION. Carriers, FB writes to a stopped carrier, supply comparators, Wingcase sources, cuts and leg edges
(05_power_stage.md R152 to R188; 00_scope.md R10). -/

namespace Sys2Proof.Machine

/-! ## Carrier start and stop (R152, R155 to R157, R38, R44) -/

/-- The bank's settings lie within the envelope in force (R38, R45, R46, R50, R128, R152). -/
def State.envelopeOk (s : State) (b : BankId) : Bool :=
  let p := s.fld Fld.BNK_CARRIER_PERIOD b.val
  let split := s.bit Fld.GLB_ENV_SPLIT
  let range := match s.env with
    | .balanced => decide (12500 ≤ p) && decide (p ≤ 62500)
    | .resilient => decide (12500 ≤ p) && decide (p ≤ 62500)
    | .quiet => p == 6250
    | .agile => if split then decide (2500 ≤ p) && decide (p ≤ 62500) else decide (5000 ≤ p) && decide (p ≤ 62500)
  let standard := !(split && s.env == .agile) || (bankAxes b).all fun n =>
    n.premium || s.axMode n == 0 || decide (10000 ≤ p * s.cdiv n)
  let align := !(s.bnk b).edge || (bankAxes b).all fun n => s.axMode n == 0 || s.axMode n == 2
  s.bit Fld.GLB_PROF_STAT_LOADED && range && standard && align

/-- Every admitted sample handler of the bank, one still being copied included, fits the windows of the latency that the next start takes
(R44). -/
def State.handlersFit (s : State) (b : BankId) : Bool :=
  (bankAxes b).all fun n =>
    match s.axisEngine n with
    | none => true
    | some e => match (s.eng e).admitted with
      | none => true
      | some h => s.sampleFits n (s.bit Fld.BNK_RELEASE_LAT b.val) h && decide (h.totalCost ≤ s.engPeriod e * 4000)

/-- All conditions of R155 for a start. -/
def State.carrierReady (s : State) (b : BankId) : Bool :=
  s.envelopeOk b && s.handlersFit b && s.vmValid b && s.bit Fld.BNK_PSTAT_VGD_OK b.val

/-- Tick of the first DT at least 1,000 ticks from now that is a whole multiple of 4 × P ns (R155). -/
def State.firstBoundary (s : State) (p : Nat) : Nat :=
  let q := 4 * Nat.max 1 p
  let (t, d) := s.dtBase
  let m := ((d + 4000 - 4 * (t - s.tick) + q - 1) / q) * q
  t + (m - d + 3) / 4

/-- VIOL where the settings of a bank whose start is requested lie outside the envelope (R38). With no profile loaded R50 starts no
carrier; that VIOL then reads 1 as well is the model's choice (log entry 123). -/
def State.judgeEnvelope (s : State) (b : BankId) : State :=
  if s.envelopeOk b then s else s.setBit Fld.GLB_ENV_VIOL 0 true

/-- Decide a start that is pending, if every condition now holds; VIOL where the envelope check fails (R38, R155). A start that is decided
is pending again where a condition ends before its first boundary (log entry 124). -/
def State.tryStart (s : State) (b : BankId) : State :=
  let x := s.bnk b
  match x.carrier with
  | .pending =>
    if s.carrierReady b then s.setBnk b { x with carrier := .starting (s.firstBoundary x.period) } else s.judgeEnvelope b
  | .starting t =>
    if s.carrierReady b || decide (t ≤ s.tick) then s else (s.setBnk b { x with carrier := .pending }).judgeEnvelope b
  | _ => s

/-- The settings of a bank have changed before its first boundary: a start that was decided is decided anew (R155). -/
def State.restart (s : State) (b : BankId) : State :=
  let x := s.bnk b
  match x.carrier with
  | .starting _ => (s.setBnk b { x with carrier := .pending }).tryStart b
  | _ => s

/-- The carrier fields of a BNK_CARRIER write (R157): taken while the carrier is stopped, also before the first boundary of a start; a
change while it runs sets VIOL. -/
def State.writeCarrierFields (s : State) (b : BankId) (w : Word) : State :=
  let x := s.bnk b
  let p := Fld.BNK_CARRIER_PERIOD.get w
  let a := Fld.BNK_CARRIER_ALIGN.get w
  let i := Fld.BNK_CARRIER_ILV.get w
  if p = s.fld Fld.BNK_CARRIER_PERIOD b.val ∧ a = s.fld Fld.BNK_CARRIER_ALIGN b.val ∧
     i = s.fld Fld.BNK_CARRIER_ILV b.val then s
  else if x.runs then s.setBit Fld.GLB_ENV_VIOL 0 true
  else
    let s := s.setFld Fld.BNK_CARRIER_PERIOD b.val p
    let s := s.setFld Fld.BNK_CARRIER_ALIGN b.val a
    let s := s.setFld Fld.BNK_CARRIER_ILV b.val i
    ((s.setBnk b { x with period := p, edge := decide (a = 1), ilv := i, steps := 0, transit := false }).refreshCapt).restart b

/-- A preload that is armed when the carrier stops takes effect 2 ticks after the stop (R210). -/
def State.stopPreload (s : State) (n : AxId) (t : Nat) : State :=
  match (s.fbk n).preload with
  | some p => s.setFbk n { s.fbk n with preload := some { p with at_ := Nat.max p.at_ t, direct := true } }
  | none => s

/-- CARRIER_START_REQUEST: a BNK_CARRIER write with RUN = 1 (R155). A start that is pending is judged again, and after a stop that is pending
it is a new request. -/
def State.carrierStartRequest (s : State) (b : BankId) (w : Word) : State :=
    let s := s.writeCarrierFields b w
    let s := s.setBit Fld.BNK_CARRIER_RUN b.val true
    let x := s.bnk b
    match x.carrier with
    | .stopped => (s.setBnk b { x with carrier := .pending }).tryStart b
    | .pending => s.tryStart b
    | .stopping _ => s.setBnk b { x with carrier := .stopping true }
    | _ => s

def execCarrierStartRequest (b : BankId) (fn : FnId) (w : Word) (s : State) : Out :=
  .next (s.setupGate fn fun s => s.carrierStartRequest b w)

/-- Registers with FB fields of one axis, and of one bank (R10). -/
def axFbRegs : List Reg := [.AX_SENSE, .AX_GDPROF, .AX_OC, .AX_HALL]
def bnkFbRegs : List Reg := [.BNK_DT, .BNK_BOOT, .BNK_PROT]

/-- Bank whose boundaries an FB register waits for. -/
def fbBank (addr : Nat) : Option BankId :=
  match Reg.find addr with
  | some (r, i, _) =>
    if bnkFbRegs.contains r then (if h : i < 6 then some ⟨i, h⟩ else none)
    else if h : i < 48 then some (AxId.bank ⟨i, h⟩) else none
  | none => none

/-- Put the pending FB writes that `p` selects in force, in order of acceptance: the last one of a register stands (R10). -/
def State.applyFb (s : State) (p : FbWrite → Bool) : State :=
  let take := s.fbPend.filter p
  let s := { s with fbPend := s.fbPend.filter fun w => !p w }
  { s with force := take.foldl (fun f w => Sparse.put Reg.resetAt f w.addr w.value) s.force }

/-- The FB writes of a bank and its axes that wait for no boundary: 2 ticks after their acceptance (R10). -/
def FbWrite.directDue (b : BankId) (t : Nat) (w : FbWrite) : Bool :=
  w.direct && fbBank w.addr == some b && decide (w.at_ + 2 ≤ t)

/-- FB writes of a bank at its unshifted boundary at tick `t`: those accepted at least 2 ticks before (R10, R154). -/
def State.fbAtBank (s : State) (b : BankId) (t : Nat) : State :=
  let addrs := bnkFbRegs.map fun r => r.addr b.val
  s.applyFb fun w => (addrs.contains w.addr && decide (w.at_ + 2 ≤ t)) || w.directDue b t

/-- FB writes of an axis at its B_n. -/
def State.fbAtAxis (s : State) (n : AxId) (t : Nat) : State :=
  let addrs := axFbRegs.map fun r => r.addr n.val
  s.applyFb fun w => (addrs.contains w.addr && decide (w.at_ + 2 ≤ t)) || w.directDue n.bank t

/-! ## What happens at an unshifted bank boundary -/

/-- PWM steps that the derating level calls for on a bank (R474, R475): none where the envelope fixes the frequency. -/
def State.pwmSteps (s : State) : Nat :=
  if s.env = .quiet then 0
  else if s.fld Fld.THM_STAT_LEVEL ≥ 6 then 2
  else if s.fld Fld.THM_STAT_LEVEL ≥ 5 then 1 else 0

/-- The period after `k` PWM steps from the nominal one: each becomes ⌈5 × P / 4⌉, kept where it would exceed 62,500
(R475). -/
def steppedPeriod (p : Nat) : Nat → Nat
  | 0 => p
  | k + 1 =>
    let q := steppedPeriod p k
    let r := (5 * q + 3) / 4
    if r > 62500 then q else r

/-- The period of the frame that begins at boundary `t` (R475): a step takes effect there; a return to P begins with a
transitional frame that ends at the first DT that is a multiple of 4 × P ns, at least P ticks later. -/
def State.stepPeriod (s : State) (b : BankId) (t : Nat) : State :=
  let x := s.bnk b
  let p := s.fld Fld.BNK_CARRIER_PERIOD b.val
  let want := s.pwmSteps
  let back := want == 0 && x.steps != 0 && x.period != p
  let q := 4 * Nat.max 1 p
  let len := ((s.dtAt t + q + q - 1) / q * q - s.dtAt t) / 4
  let s := s.setBnk b { x with steps := want, transit := back, period := if back then len else steppedPeriod p want }
  let s := s.setFld Fld.BNK_PNOW_PERIOD b.val (s.bnk b).period
  s.setFld Fld.BNK_PNOW_PSTEP b.val want

/-- Captures that a latch record may still need (R250): those of the latest 6 ms, which covers the longest input filter (13_dio.md R387),
and 4 at least. -/
def keepCaps (dt : Nat) (l : List (Nat × BitVec 48)) : List (Nat × BitVec 48) :=
  l.take (Nat.max 4 (1 + (l.takeWhile fun c => decide (dt < c.1 + 6000000)).length))

/-- The unshifted boundary at `t` of a running bank is captured for its axes: BPOS and BDT (R227, R250), and the B_n that
belongs to it (R153). -/
def State.captureBank (s : State) (b : BankId) (t : Nat) : State :=
  let f := (s.bnk b).frameNo
  forAll (bankAxes b) (fun s n =>
    let p := (s.fbk n).pos
    let dt := s.dtAt t
    let x := s.ax n
    let w := Mem.store (Mem.store x.win 0xF48 8 (p.toInt % 2 ^ 64).toNat) 0xF50 8 dt
    let nb := if f.toNat % s.cdiv n = 0 then some (t + s.axOffset n, f) else x.nextB
    let s := s.setAx n { x with win := w, nextB := nb }
    let m := s.motion n
    s.setMotion n { m with caps := keepCaps dt ((dt, p) :: m.caps) }) s

/-- A group engine begins a period at this boundary (R224): its heartbeat is judged (R429), then its host and release events
are raised. -/
def State.groupPeriod (s : State) (e : EngId) : State :=
  let x := s.eng e
  if x.relOpen && decide (x.missedHb + 1 > s.fld Fld.GLB_FO_CFG_HB_N) then
    (s.engineFault e .heartbeat x.pc).declare e
  else
    let miss := if x.relOpen then x.missedHb + 1 else 0
    let s := (s.setEng e { x with missedHb := miss, relOpen := s.takesEvent e .release, hostDue := false }).newPeriod e
    let s := if x.hostDue then s.raiseEvent e .host 0 (s.portUpd e .host) else s
    s.raiseEvent e .release 0 (s.portUpd e .release)

/-- The group periods that begin at a bank boundary. -/
def State.groupPeriods (s : State) (b : BankId) : State :=
  let f := (s.bnk b).frameNo
  forAll ((allFin 64).filter fun e => s.engRole e == 2 && s.engState e == .running && (s.eng e).grpBank == b &&
    f.toNat % Nat.max 1 (s.eng e).grpDiv == 0) State.groupPeriod s

/-- Boundary B of a running bank at tick `t` with frame number `f` (R125, R154): bank FB writes, the frame counter, the
period of the new frame, captures and group periods. CUT_CNT counts a frame into which a cut lasts (R165). -/
def State.bankFrame (s : State) (b : BankId) (t : Nat) (f : BitVec 32) : State :=
  let s := s.fbAtBank b t
  let cut := (s.bnk b).fltActive && s.bit Fld.BNK_FLT_EN b.val ||
    (bankAxes b).any fun n => (s.ax n).fltCut && (s.axOffset n != 0 || f.toNat % s.cdiv n != 0)
  let s := if cut then s.countSat Fld.BNK_FLT_CUT_CNT b.val else s
  let s := s.setBnk b { s.bnk b with frameTick := t, frameNo := f, fltFrame := cut }
  let s := s.setFld Fld.BNK_FRAME_FRAME b.val f.toNat
  forAll (bankAxes b) (fun s n => s.shareDue t n) (((s.stepPeriod b t).captureBank b t).groupPeriods b)

/-- CARRIER_START: the first boundary of a decided start (R155): frame counter from DT, RUNNING. -/
def execCarrierStart (b : BankId) (s : State) : Out :=
  .next (
    let x := s.bnk b
    match x.carrier with
    | .starting t =>
      if s.tick < t then s else
      let n := BitVec.ofNat 32 (s.dtAt t / (4 * Nat.max 1 x.period))
      let s := s.setBnk b { x with carrier := .running, firstTick := t, everStarted := true,
                                   half := s.bit Fld.BNK_RELEASE_LAT b.val }
      let s := s.setBit Fld.BNK_CARRIER_RUNNING b.val true
      forAll (bankAxes b) State.refreshAxis ((s.bankFrame b t n).refreshBrake b)
    | _ => s)

/-- CARRIER_STOP_REQUEST: a BNK_CARRIER write with RUN = 0 (R156): accepted only while every axis of the bank is OFF or
IDLE, else ignored with VIOL. -/
def State.carrierStopRequest (s : State) (b : BankId) (w : Word) : State :=
    let ok := (bankAxes b).all fun n => s.axState n == .off || s.axState n == .idle
    if !ok then s.setBit Fld.GLB_ENV_VIOL 0 true else
    let s := (s.writeCarrierFields b w).setBit Fld.BNK_CARRIER_RUN b.val false
    let x := s.bnk b
    match x.carrier with
    | .running => s.setBnk b { x with carrier := .stopping false }
    | .stopping _ => s.setBnk b { x with carrier := .stopping false }
    | _ => s.setBnk b { x with carrier := .stopped }

def execCarrierStopRequest (b : BankId) (fn : FnId) (w : Word) (s : State) : Out :=
  .next (s.setupGate fn fun s => s.carrierStopRequest b w)

/-- CARRIER_STOP: the next unshifted B of an accepted stop (R156): it is no frame boundary; all legs OFF, IDLE axes OFF. -/
def execCarrierStop (b : BankId) (s : State) : Out :=
  .next (
    let x := s.bnk b
    match x.carrier with
    | .stopping again =>
      if s.tick < x.frameTick + x.period then s else
      let t := x.frameTick + x.period
      let s := s.setBnk b { x with carrier := if again then .pending else .stopped, frameTick := t, steps := 0,
                                   transit := false, period := s.fld Fld.BNK_CARRIER_PERIOD b.val }
      let s := s.setFld Fld.BNK_PNOW_PSTEP b.val 0
      let s := s.setBit Fld.BNK_CARRIER_RUNNING b.val false
      let s := s.setFld Fld.BNK_PNOW_PERIOD b.val 0
      let s := { s with fbPend := s.fbPend.map fun w => if fbBank w.addr = some b then { w with at_ := Nat.max w.at_ t, direct := true } else w }
      let s := forAll (bankAxes b) (fun s n =>
        let s := s.stopPreload n t
        let s := s.setAx n { s.ax n with framed := false, nextB := none, due := [], sample := none, sampledAt := none, ofsPend := none }
        (if s.axState n = .idle then s.enterOff n 7 else s.refreshAxis n).refreshCoast n) s
      s.tryStart b
    | _ => s)

/-- FB_WRITE_STOPPED: FB writes to the bank and its axes that were accepted while the carrier counted as stopped, or were pending when it
stopped, take effect 2 ticks later (R10). An armed preload takes effect likewise (R210). -/
def execFbWriteStopped (b : BankId) (s : State) : Out :=
  .next (
    let s := s.applyFb (FbWrite.directDue b s.tick)
    forAll (bankAxes b) (fun s n =>
      let s := if (s.fbk n).preload.any Preload.direct then s.takePreload s.tick n else s
      s.refreshAxis n) s)

/-! ## Motor supply (R180, R181, R184) -/

/-- The VM level as the comparators see it (R180, R512). -/
def State.setVm (s : State) (b : BankId) (vm : BitVec 12) : State := s.setBnk b { s.bnk b with vm := vm }

/-- Comparator L1 (R180): BRK_b on above L1_ON, off below L1_OFF, where the lock of R181 ends too. -/
def State.judgeL1 (s : State) (b : BankId) : State :=
  let x := s.bnk b
  let vm := x.vm.toNat
  if !s.vmValid b then s.refreshBrake b else
  let x := if vm > s.fld Fld.BNK_VM1_L1_ON b.val then { x with l1 := true }
    else if vm < s.fld Fld.BNK_VM1_L1_OFF b.val then { x with l1 := false, brkLock := false }
    else x
  (s.setBnk b x).refreshBrake b

/-- Set or clear the VM_L2 demand of a bank. -/
def State.setVmL2 (s : State) (b : BankId) (on : Bool) : State :=
  let s := s.withDemandsOf (bankAxes b) 1 fun s => s.setBnk b { s.bnk b with vmL2 := on }
  if on then s.setBit Fld.BNK_PSTAT_L2_SEEN b.val true else s

/-- Comparator L2 (R180): the demand rises above L2 and clears below L1_OFF. -/
def State.judgeL2 (s : State) (b : BankId) : State :=
  let vm := (s.bnk b).vm.toNat
  if !s.vmValid b then s
  else if vm > s.fld Fld.BNK_VM2_L2 b.val then s.setVmL2 b true
  else if vm < s.fld Fld.BNK_VM1_L1_OFF b.val then s.setVmL2 b false
  else s

/-- Comparator UV (R180): BNK_PSTAT.UV, and a VM_LOW record to F0 when VM falls below UV; UV = 0 disables it. -/
def State.judgeUv (s : State) (b : BankId) : State :=
  let vm := (s.bnk b).vm.toNat
  let low := decide (vm < s.fld Fld.BNK_VM2_UV b.val)
  let was := s.bit Fld.BNK_PSTAT_UV b.val
  let s := s.setBit Fld.BNK_PSTAT_UV b.val low
  if low && !was then s.event 0 0x0005 b.val vm else s

/-- The three comparators after a write of their thresholds. -/
def State.judgeVm (s : State) (b : BankId) : State := ((s.judgeL1 b).judgeL2 b).judgeUv b

/-- VM_L1: VM crosses L1_ON or L1_OFF. -/
def execVmL1 (b : BankId) (vm : BitVec 12) (s : State) : Out := .next ((s.setVm b vm).judgeL1 b)

/-- VM_L2: VM crosses L2 or L1_OFF. -/
def execVmL2 (b : BankId) (vm : BitVec 12) (s : State) : Out := .next ((s.setVm b vm).judgeL2 b)

/-- VM_LOW: VM crosses UV. -/
def execVmLow (b : BankId) (vm : BitVec 12) (s : State) : Out := .next ((s.setVm b vm).judgeUv b)

/-- BRAKE_TIMEOUT: BRK_b has been on for TMAX_MS without a break (R181). -/
def execBrakeTimeout (b : BankId) (s : State) : Out :=
  .next (
    let x := s.bnk b
    let tm := s.fld Fld.BNK_BRK_TMAX_MS b.val
    if x.brk && tm != 0 && decide (x.brkSince + tm * 250000 ≤ s.tick) then
      let s := (s.setBnk b { x with brkLock := true }).refreshBrake b
      let s := s.setBit Fld.BNK_PSTAT_BRK_OVL b.val true
      s.setVmL2 b true
    else s)

/-- Whether VGD_UV is active at a level in 10 mV (R514, Table 11): it sets below 8.5 V and clears above 9.0 V; within the tolerance of either
threshold the part decides. -/
def vgdLow (was : Bool) (vgd : Nat) (free : Bool) : Bool :=
  if vgd < 830 then true
  else if 920 < vgd then false
  else if !was && decide (vgd ≤ 870) then free
  else if was && decide (880 ≤ vgd) then free
  else was

/-- VGD_UV: VGD_b crosses its undervoltage threshold (R182, R184). -/
def execVgdUv (b : BankId) (vgd : BitVec 11) (s : State) : Out :=
  .next (
    let active := vgdLow (s.bnk b).vgdUv vgd.toNat (Config.freeBool s.free)
    let s : State := { s with free := s.free + 1 }
    let s := s.setBnk b { s.bnk b with vgd := vgd }
    let s := s.setBit Fld.BNK_PSTAT_VGD_OK b.val (!active)
    let s := if active then s.setBit Fld.BNK_PSTAT_VGD_UV_SEEN b.val true else s
    let s := s.withDemandsOf (bankAxes b) 1 fun s => s.setBnk b { s.bnk b with vgdUv := active }
    s.tryStart b)

/-! ## Cuts and latched demands (R165 to R167, R182, R186) -/

/-- FLT_CUT: the level of FLT_b against BNK_FLT.POL; while EN is 1 an active level drives every gate of the bank off
(R165). CUT_CNT counts the frame once. -/
def State.judgeFlt (s : State) (b : BankId) (active : Bool) : State :=
  let s := s.setBnk b { s.bnk b with fltActive := active }
  if active && s.bit Fld.BNK_FLT_EN b.val then
    let s := if (s.bnk b).fltFrame then s else s.countSat Fld.BNK_FLT_CUT_CNT b.val
    let s := s.setBnk b { s.bnk b with fltFrame := true }
    forAll (bankAxes b) (fun s n => (s.setAx n { s.ax n with fltCut := true }).refreshAxis n) s
  else s

def execFltCut (b : BankId) (level : Bool) (s : State) : Out :=
  .next (s.judgeFlt b (level == s.bit Fld.BNK_FLT_POL b.val))

/-- Blanking after a gate edge of the axis is over (R167). -/
def State.unblanked (s : State) (n : AxId) : Bool := decide ((s.ax n).blankUntil ≤ s.tick)

/-- CBC_TRIP: a sensed current, `mag` in 1/65,536 of I_FS, above CBC_LVL trips the comparator (R166): the high sides of the axis go off
until its next B_n, each low side following under dead time. -/
def execCbcTrip (n : AxId) (mag : Nat) (s : State) : Out :=
  .next (
    if s.inForce Fld.AX_OC_CBC_EN n.val = 1 && s.unblanked n && decide (256 * s.inForce Fld.AX_OC_CBC_LVL n.val < mag) then
      let s := if (s.ax n).cbcCut then s else s.countSat Fld.AX_PSTAT_CBC_CNT n.val
      (s.setAx n { s.ax n with cbcCut := true }).refreshAxis n
    else s)

/-- A switch of the axis conducts. -/
def State.conducts (s : State) (n : AxId) : Bool := (s.ax n).legs.toList.any fun l => l.high || l.low

/-- DESAT: the V_DS of a conducting switch, `vds` in mV, has lain since tick `since` above its level for 2 ticks after blanking, or no
longer does; the demand is latched (R182, R186). -/
def execDesat (n : AxId) (vds since : Nat) (s : State) : Out :=
  .next (
    let above := s.conducts n && decide (1000 + 250 * s.inForce Fld.BNK_PROT_DESAT n.bank.val < vds)
    let start := Nat.max since (s.ax n).blankUntil
    if above && decide (s.tick < start + 2) then s else
    s.withDemands n 1 fun d => { d with desatLive := above, desat := d.desat || above })

/-- HOC_LVL, 0 taken as 0xFF (Table 16 of 05_power_stage.md). -/
def State.hocLevel (s : State) (n : AxId) : Nat :=
  if s.inForce Fld.AX_OC_HOC_LVL n.val = 0 then 0xFF else s.inForce Fld.AX_OC_HOC_LVL n.val

/-- HOC: likewise for a sensed current, `mag` in 1/65,536 of I_FS, against HOC_LVL. -/
def execHoc (n : AxId) (mag : Nat) (s : State) : Out :=
  .next (
    let above := decide (256 * s.hocLevel n < mag)
    if above && !s.unblanked n then s else
    s.withDemands n 1 fun d => { d with hocLive := above, hoc := d.hoc || above })

/-! ## Legs (R159 to R164, R168 to R178) -/

/-- The legs whose bootstrap is below threshold, into AX_PSTAT.BOOT_UV. -/
def State.refreshBoot (s : State) (n : AxId) : State :=
  let x := (s.ax n).legs
  s.setFld Fld.AX_PSTAT_BOOT_UV n.val
    ((if x[0].bootUv then 1 else 0) + (if x[1].bootUv then 2 else 0) + (if x[2].bootUv then 4 else 0))

/-- PWM_EDGE (`bootLow`: the bootstrap voltage is below its threshold): the scheduled compare instant at which the high side
of a PWM leg turns on or off (R159 to R162, `State.pulse`), or a forced low interval of a HIGH leg begins or ends (R174). -/
def execPwmEdge (n : AxId) (l : Leg) (on bootLow : Bool) (s : State) : Out :=
  .next (
    let switching := match s.legDrive n l with
      | .pwm => true
      | .high => true
      | _ => false
    if !switching || !(s.bnk n.bank).runs then s
    else if on then ((s.setLeg n l { s.leg n l with bootUv := bootLow }).refreshBoot n).turnOn n l
    else s.turnOff n l)

/-- The complement of the switch that turned off turns on. -/
def LegHw.complementOn (x : LegHw) (highOff : Bool) (now : Nat) : LegHw :=
  if highOff then { x with low := true, high := false, lowSince := now, dead := none }
  else { x with high := true, low := false, dead := none }

/-- The node, in units of the VM sample, has crossed the threshold towards the low rail (`down`) or the high rail (R169). -/
def State.nodeCrossed (s : State) (n : AxId) (down : Bool) (node : Int) : Bool :=
  let k : Int := s.inForce Fld.BNK_DT_TH n.bank.val + 1
  let vm : Int := (s.bnk n.bank).vm.toNat
  if down then decide (8 * node < k * vm) else decide ((8 - k) * vm < 8 * node)

/-- The slope phase of a leg ends at the transition of its node (R173). -/
def State.endSlope (s : State) (n : AxId) (l : Leg) : State := s.setLeg n l { s.leg n l with slopeSince := none }

/-- SWITCH_NODE_CROSSING: the node lies at `node`, in units of the VM sample; `held`: it is diode-held beyond the rail of the switch that
turned off. In dead time these are cases (a) and (b) of R168: once FLOOR has elapsed the complement turns on and the run of timeouts ends
(R170). A transition ends the slope phase; that of a complement that turns on after it has ended when it begins (R173). -/
def execSwitchNodeCrossing (n : AxId) (l : Leg) (node : Int) (held : Bool) (s : State) : Out :=
  .next (
    let x := s.leg n l
    match x.dead with
    | some (t, hi) =>
      let crossed := s.nodeCrossed n hi node
      let s := if crossed then s.endSlope n l else s
      if !(crossed || held) || decide ((s.tick - t) * 8 < s.dtFloor n.bank) then s else
      let s := s.putLeg n l { (s.leg n l).complementOn hi s.tick with dtTimeouts := 0 }
      if crossed then s.endSlope n l else s
    | none => if (x.high || x.low) && s.nodeCrossed n x.low node then s.endSlope n l else s)

/-- DEAD_TIME_TIMEOUT: case (c) of R168 after 250 ticks, 240 on entry to SHORT (R185); DTTO_N in a row are a leg fault
(R170). -/
def execDeadTimeTimeout (n : AxId) (l : Leg) (s : State) : Out :=
  .next (
    let x := s.leg n l
    match x.dead with
    | some (t, hi) =>
      let lim := if s.legNow n = .short then 240 else 250
      if s.tick < t + lim then s else
      let cnt := x.dtTimeouts + 1
      let last := decide (Nat.max 1 (s.inForce Fld.BNK_DT_DTTO_N n.bank.val) ≤ cnt)
      let s := s.putLeg n l { x.complementOn hi s.tick with dtTimeouts := if last then 0 else cnt }
      if last then (s.setBit Fld.AX_PSTAT_LEGF n.val true).event (s.axisOwner n) 0x0004 n.val l.idx.val else s
    | none => s)

/-- SLOPE_TIMEOUT: the slope phase ends by its 250-tick limit and sets PROF_TO (R173). -/
def execSlopeTimeout (n : AxId) (l : Leg) (s : State) : Out :=
  .next (
    let x := s.leg n l
    match x.slopeSince with
    | some t =>
      if s.tick < t + 250 then s else
      (s.setLeg n l { x with slopeSince := none }).setBit Fld.AX_PSTAT_PROF_TO n.val true
    | none => s)

end Sys2Proof.Machine
end

