-- ==== Sys2Proof/Machine/Frames.lean ====
section
/-! DEFINITION. Frames, samples and release (01_frames_and_release.md R22 to R44; 04_axis_control.md R125 to R132, R145):
the frame boundary, the sample trigger, the sample-complete instant and the release instant. -/

namespace Sys2Proof.Machine

/-! ## Offset measurement (R132) -/

/-- Mean of a list of codes, rounded to the nearest, halves up. -/
def meanCode (l : List (BitVec 12)) : Nat :=
  let k := Nat.max 1 l.length
  (2 * (l.map BitVec.toNat).foldl (· + ·) 0 + k) / (2 * k)

/-- A mean differs from 2,048 by more than 200 codes. -/
def badOffset (m : Nat) : Bool := decide (m + 200 < 2048) || decide (2248 < m)

/-- Three-shunt sensing: AX_CFG.SENSE on a premium axis (R129). -/
def State.threeShunt (s : State) (n : AxId) : Bool := n.premium && s.bit Fld.AX_CFG_SENSE n.val

/-- The conversion taken at the latest B_n in IDLE has finished (under single-shunt sensing the DC-link mean goes to OFS_U as well): the means over the latest 256 of the stay, IOFS_BAD and
IOFS_RDY (R132). -/
def State.foldOffset (s : State) (n : AxId) : State :=
  let x := s.ax n
  match x.ofsPend with
  | none => s
  | some c =>
    let l := (c :: x.ofsCodes).take 256
    let s := s.setAx n { x with ofsPend := none, ofsCodes := l, ofsCount := x.ofsCount + 1 }
    let s := s.setBit Fld.AX_STATE_IOFS_RDY n.val (decide (256 ≤ x.ofsCount + 1))
    let dc := meanCode (l.map OfsCodes.dc)
    let s := s.setFld Fld.AX_IOFS_B_OFS_DC n.val dc
    if s.threeShunt n then
      let u := meanCode (l.map OfsCodes.u)
      let v := meanCode (l.map OfsCodes.v)
      let w := meanCode (l.map OfsCodes.w)
      let s := s.setFld Fld.AX_IOFS_A_OFS_U n.val u
      let s := s.setFld Fld.AX_IOFS_A_OFS_V n.val v
      let s := s.setFld Fld.AX_IOFS_B_OFS_W n.val w
      s.setBit Fld.AX_STATE_IOFS_BAD n.val (badOffset u || badOffset v || badOffset w || badOffset dc)
    else (s.setFld Fld.AX_IOFS_A_OFS_U n.val dc).setBit Fld.AX_STATE_IOFS_BAD n.val (badOffset dc)

/-! ## State changes at B_n (R145, Table 6) -/

/-- Causes that lead to SAFE, taken first. -/
def State.takeSafe (s : State) (n : AxId) : State :=
  match (s.ax n).safeReq with
  | none => s
  | some c =>
    let s := s.setAx n { s.ax n with safeReq := none }
    match s.axState n with
    | .idle => s.enterSafe n c
    | .run => s.enterSafe n c
    | .hold => s.enterSafe n c
    | .stopping => s.enterSafe n c
    | _ => s

/-- The cause that leads to ABSENT (R468): any state but OFF. -/
def State.takeAbsent (s : State) (n : AxId) : State :=
  if !(s.ax n).absentReq then s else
  let s := s.setAx n { s.ax n with absentReq := false }
  if s.axState n = .off ∨ s.axState n = .absent then s
  else s.enterAbsent n

/-- An identification that has passed leads from ABSENT to IDLE (R469). -/
def State.takeIdent (s : State) (n : AxId) : State :=
  if (s.plug n).passed && s.axState n == .absent then ((s.setPlug n .reset).enterIdle n 6).refreshPlug n else s

/-- A stop ramp reaches zero (R147). -/
def State.endStop (s : State) (n : AxId) (t : Nat) : State :=
  match (s.ax n).stop with
  | some r =>
    if s.axState n = .stopping ∧ r.endTick ≤ t then (if r.hold then s.putAxState n .hold 8 else s.enterIdle n 8) else s
  | none => s

/-- A stop that waits for this boundary, at tick `t`, starts: a loop or feedback fault, a function reset, GROUP_STOP or SS1. A loop fault (cause
3) stops an axis in RUN only (Table 6). -/
def State.takeStop (s : State) (n : AxId) (t : Nat) : State :=
  match (s.ax n).stopReq with
  | none => s
  | some (cat, cause) =>
    if t < (s.ax n).stopFrom then s
    else
      let s := s.setAx n { s.ax n with stopReq := none }
      if cause = 3 ∧ s.axState n ≠ .run then s else s.startStop n cat cause

/-- The axis can leave OFF (Table 6, R242): MODE is not 0 and its engine runs an axis image, or it is virtual; its carrier
runs. -/
def State.canLeaveOff (s : State) (n : AxId) : Bool :=
  (s.bnk n.bank).runs &&
    (s.bit Fld.AX_MOTCFG_VIRT n.val ||
      (s.axMode n != 0 && (match s.axisEngine n with
        | some e => s.engState e == .running && (match (s.eng e).image with | some h => !h.group | none => false)
        | none => false)))

/-- OFF to IDLE (R145): the MARK words of the Cast cleared (R426), claim 1 for the axis engine (R431), ALIGNED by HW_ALIGN (R209), the step timer halted (R253). -/
def State.leaveOff (s : State) (n : AxId) : State :=
  if s.axState n ≠ .off || !s.canLeaveOff n then s else
  let s := s.enterIdle n 10
  let s := s.clearMarks n
  let s := match s.axisEngine n with
    | some e => if s.bit Fld.AX_MOTCFG_VIRT n.val then s else s.firstClaim n e
    | none => s
  (s.setBit Fld.AX_ANGOFS_ALIGNED n.val (!s.bit Fld.AX_ANGOFS_HW_ALIGN n.val)).haltTimer n

/-! ## Host events and the mailbox -/

/-- Command records wait in the mailbox of the axis. -/
def State.mailWaits (s : State) (n : AxId) : Bool :=
  !(s.ax n).mail.isEmpty || !(s.motion n).limPend.isEmpty || !(s.motion n).stepCfgPend.isEmpty

/-- The host event of the engines of an axis (Table 6 of 02_engines.md): at a boundary of the engine's period at which
records wait. -/
def State.hostEvents (s : State) (n : AxId) : State :=
  forAll (s.axisViewers n) (fun s e => s.raiseFor n e .host 0 (s.portUpd e .host)) s

/-- Legs that stayed high through the frame (R174). -/
def State.countHigh (s : State) (n : AxId) : State :=
  let x := s.ax n
  let up (l : LegHw) : LegHw := { l with highFrames := if l.high then l.highFrames + 1 else 0 }
  s.setAx n { x with legs := x.legs.map up }

/-- The cuts of an axis end at its B_n: cycle-by-cycle always, FLT_b where it is inactive (R165, R166). Legs that leave OFF
are charged there (R175). -/
def State.endCuts (s : State) (n : AxId) : State :=
  let x := s.ax n
  let b := s.bnk n.bank
  let flt := x.fltCut && b.fltActive && s.bit Fld.BNK_FLT_EN n.bank.val
  (s.setAx n { x with cbcCut := false, fltCut := flt }).refreshAxis n

/-! ## Sampling (R127 to R130, R137) -/

/-- The legs in the order of their turn-on at the ticks that `on` gives, ties in the order U, V, W (R130). -/
def legsBy (on : Leg → Nat) : List (Nat × Leg) :=
  let us := [Leg.u, .v, .w].map fun l => (on l, l)
  us.foldl (fun acc x => acc.takeWhile (fun y => decide (y.1 ≤ x.1)) ++ x :: acc.dropWhile fun y => decide (y.1 ≤ x.1)) []

/-- The legs in the order of their turn-on in the present frame. -/
def State.legOrder (s : State) (n : AxId) : List (Nat × Leg) := legsBy fun l => (s.pulse n l).1 / 8

/-- ORDER (Table 3). -/
def orderCode : List Leg → Nat
  | [.u, .v, .w] => 0
  | [.u, .w, .v] => 1
  | [.v, .u, .w] => 2
  | [.v, .w, .u] => 3
  | [.w, .u, .v] => 4
  | _ => 5

/-- W_n: the window that R30 requires of the admitted sample handler, in whole ticks (R130). -/
def State.windowTicks (s : State) (n : AxId) : Nat :=
  match s.axisEngine n with
  | some e => match (s.eng e).image with
    | some h => (4000 + (2 + h.hold + h.stepsSample) * 1600 + 3999) / 4000
    | none => 0
  | none => 0

/-- Every leg of the axis is in PWM mode. -/
def State.allPwm (s : State) (n : AxId) : Bool := [Leg.u, .v, .w].all fun l => s.legMode n l == .pwm

/-- AX_SENSE.TSET and TLOW in force: below 50 taken as 50, above 1,000 as 1,000 (Table 11 of 04_axis_control.md). -/
def State.tset (s : State) (n : AxId) : Nat := Nat.min 1000 (Nat.max 50 (s.inForce Fld.AX_SENSE_TSET n.val))
def State.tlow (s : State) (n : AxId) : Nat := Nat.min 1000 (Nat.max 50 (s.inForce Fld.AX_SENSE_TLOW n.val))

/-- Sample-complete instant of a sample triggered at `t` that its current conversions complete at `done`, in ticks from B_n: later with
sine/cosine feedback, whose pair finishes 200 ticks after the sample instant (R200, R520). -/
def State.completeAt (s : State) (n : AxId) (t done : Nat) : Nat :=
  if n.premium && s.pmode n == 1 then Nat.max done (t + 202) else done

/-- The single-shunt pattern of the present frame (R130): both triggers in ticks from B_n and the order; none where the
pattern is not valid. -/
def State.ssPattern (s : State) (n : AxId) : Option (Nat × Nat × Nat) :=
  let p := s.axPeriod n
  let tset := s.tset n
  match s.legOrder n with
  | [(e1, a), (e2, b), (e3, c)] =>
    let t1 := e1 + tset
    let t2 := e2 + tset
    let limit := (if (s.bnk n.bank).half then p / 2 else p) - 3 - s.windowTicks n
    if s.allPwm n && decide (tset + 2 ≤ e2 - e1) && decide (tset + 2 ≤ e3 - e2) && decide (t1 + 50 ≤ t2) &&
       decide (s.completeAt n t1 (t2 + 52) ≤ limit) then some (t1, t2, orderCode [a, b, c]) else none
  | _ => none

/-- The sample of the present frame, as placed by the mode and the sensing: sample instant, sample-complete instant, pattern
and order, in ticks from B_n (R129, R130, R137, R200). -/
def State.samplePlan (s : State) (n : AxId) : Nat × Nat × Bool × Nat :=
  let p := s.axPeriod n
  let plan : Nat × Nat × Bool × Nat :=
    if s.axMode n = 2 then (p / 2, p / 2 + 52, false, 0)
    else if s.threeShunt n then (0, 52, false, 0)
    else match s.ssPattern n with
      | some (t1, t2, o) => (t1, t2 + 52, true, o)
      | none => (0, 102, false, 0)
  (plan.1, s.completeAt n plan.1 plan.2.1, plan.2.2)

/-- SAMPLE_TRIGGER: the first trigger of a current-loop frame of an axis that is not OFF (R125 step 2). The position counter
is captured, and on a stepper axis the step count. -/
def execSampleTrigger (n : AxId) (s : State) : Out :=
  .next (
    let x := s.ax n
    let pl := s.samplePlan n
    if s.axState n = .off || !x.framed || !(s.bnk n.bank).runs || !s.currentLoopFrame n x.frameNo ||
       s.bit Fld.AX_MOTCFG_VIRT n.val || x.sample.isSome || x.sampledAt == some x.frameTick ||
       decide (s.tick < x.frameTick + pl.1) then s else
    let r : SampleRun := { frame := x.frameNo, bTick := x.frameTick, t := x.frameTick + pl.1, done := x.frameTick + pl.2.1,
                           pattern := pl.2.2.1, order := pl.2.2.2, pos := s.samplePos n,
                           angle := BitVec.ofNat 16 (s.angleAt n (s.samplePos n)) }
    let s := s.setAx n { x with sampledAt := some x.frameTick, sampleTick := r.t, sample := some r }
    if s.axMode n = 3 then s.captureStep n else s)

/-- A current in Q1.15: (code − offset) × 16 (R127). Outside the format the spec states no word: a free value. -/
def currentWord (v : Int) (free : Nat) : BitVec 16 :=
  if -32768 ≤ v ∧ v ≤ 32767 then BitVec.ofInt 16 v else (Config.freeWord free).setWidth 16

/-- Low-side on-time of a leg in the interval around B_n, in eighths of a tick, by the compare values in force (R129). -/
def State.lowTime (s : State) (n : AxId) (r : SampleRun) (l : Leg) : Nat :=
  let p := s.axPeriod n
  match s.legDrive n l with
  | .pwm => (s.pulse n l).1 + (8 * p - ((s.ax n).valsAt (r.bTick - p + p / 2 + 1)).offAt l p)
  | .low => 8 * p
  | _ => 0

def satCode (c : BitVec 12) : Bool := c == 0 || c == 0xFFF

/-- What the sensing yields for a sample, before the words are formed: currents in units of Q1.15, the DC-link samples and
bits 8:0 of ASTAT. -/
structure Sensed where
  iu : Int := 0
  iv : Int := 0
  iw : Int := 0
  is1 : Int := 0
  is2 : Int := 0
  idc : Int := 0
  stat : Nat := 0

/-- ASTAT.SAT, bits 5:3. -/
def satBits (u v w : Bool) : Nat := (if u then 8 else 0) + (if v then 16 else 0) + (if w then 32 else 0)

/-- (code − offset) × 16 (R127). -/
def rawCurrent (c : BitVec 12) (ofs : Nat) : Int := ((c.toNat : Int) - ofs) * 16

/-- Three-shunt sensing (R129): one short phase is computed from the other two; with two or three the sample is invalid. -/
def State.senseThree (s : State) (n : AxId) (r : SampleRun) (a : AdcSet) : Sensed :=
  let iu := rawCurrent a.u (s.fld Fld.AX_IOFS_A_OFS_U n.val)
  let iv := rawCurrent a.v (s.fld Fld.AX_IOFS_A_OFS_V n.val)
  let iw := rawCurrent a.w (s.fld Fld.AX_IOFS_B_OFS_W n.val)
  let tl := 8 * s.tlow n
  let short := [Leg.u, .v, .w].filter fun l => decide (s.lowTime n r l < tl)
  let st := satBits (satCode a.u) (satCode a.v) (satCode a.w)
  match short with
  | [] => { iu := iu, iv := iv, iw := iw, stat := st + 1 }
  | [.u] => { iu := -(iv + iw), iv := iv, iw := iw, stat := st + 3 }
  | [.v] => { iu := iu, iv := -(iu + iw), iw := iw, stat := st + 5 }
  | [.w] => { iu := iu, iv := iv, iw := -(iu + iv), stat := st + 7 }
  | _ => { stat := st }

/-- Single-shunt sensing (R130): i_max, −i_min, and the third current by reconstruction in the order of Table 3. -/
def State.senseSingle (s : State) (n : AxId) (r : SampleRun) (a : AdcSet) : Sensed :=
  let ofs := s.fld Fld.AX_IOFS_A_OFS_U n.val
  let mx := rawCurrent a.dc1 ofs
  let s2 := rawCurrent a.dc2 ofs
  let mn := -s2
  let md := s2 - mx
  let st := satBits (satCode a.dc1) (satCode a.dc2) false
  let base : Sensed := { is1 := mx, is2 := s2, stat := st }
  if !r.pattern then base else
  let st := st + 1 + 64 * r.order
  match r.order with
  | 0 => { base with iu := mx, iv := md, iw := mn, stat := st + 4 }
  | 1 => { base with iu := mx, iw := md, iv := mn, stat := st + 6 }
  | 2 => { base with iv := mx, iu := md, iw := mn, stat := st + 2 }
  | 3 => { base with iv := mx, iw := md, iu := mn, stat := st + 6 }
  | 4 => { base with iw := mx, iu := md, iv := mn, stat := st + 2 }
  | _ => { base with iw := mx, iv := md, iu := mn, stat := st + 4 }

/-- The sensing of a mode (R127, R137). -/
def State.sensed (s : State) (n : AxId) (r : SampleRun) (a : AdcSet) : Sensed :=
  if s.axMode n = 2 then
    { idc := rawCurrent a.dc1 (s.fld Fld.AX_IOFS_B_OFS_DC n.val), stat := satBits (satCode a.dc1) false false }
  else if s.threeShunt n then s.senseThree n r a else s.senseSingle n r a

/-- The ADC block of a sample (Tables 1 and 2). -/
def State.adcBlock (s : State) (n : AxId) (r : SampleRun) (a : AdcSet) : Vector (BitVec 16) 16 :=
  let m := s.sensed n r a
  let fb := s.fbk n
  let z := s.free
  let sc := n.premium && s.pmode n == 1
  let status := m.stat + (if sc && fb.scOk && s.fld Fld.AX_FBFLT_FAULT n.val / 8 % 4 == 0 then 512 else 0)
  #v[currentWord m.iu z, currentWord m.iv (z + 1), currentWord m.iw (z + 2), currentWord m.is1 (z + 3),
     currentWord m.is2 (z + 4), currentWord m.idc (z + 5), if sc then fb.sin else 0, if sc then fb.cos else 0,
     a.tb0, a.tb1, 0, 0, 0, 0, 0, BitVec.ofNat 16 status]

/-- A sample of a current-loop frame looks like a lost motor: the legs are in PWM, the sample is valid, the released compare span is at least
VMIN / 256, and every current lies below IMIN / 256 × I_FS (R468). -/
def State.looksLost (s : State) (n : AxId) (m : Sensed) : Bool :=
  let imin : Int := 128 * s.fld Fld.AX_PLUG_IMIN n.val
  let p := s.axPeriod n
  s.legNow n == .pwm && m.stat % 2 == 1 &&
    decide (s.fld Fld.AX_PLUG_VMIN n.val * 4 * p ≤ (s.ax n).released.span p * 256) &&
    [m.iu, m.iv, m.iw].all fun i => decide (-imin < i ∧ i < imin)

/-- The frames in a row that look like a lost motor are counted (R468). -/
def State.countLow (s : State) (n : AxId) (m : Sensed) : State :=
  let x := s.plug n
  s.setPlug n { x with lowRuns := if s.looksLost n m then x.lowRuns + 1 else 0 }

/-- SAMPLE_COMPLETE: the sample-complete instant (R24): port block and sample event of every engine of the axis; the result
is due at M_n under HALF where the sample completes in the first half, else at the next B_n (R23, R43). -/
def execSampleComplete (n : AxId) (adc : AdcSet) (s : State) : Out :=
  .next (
    match (s.ax n).sample with
    | none => s
    | some r =>
      if s.tick < r.done then s else
      let s := (s.foldOffset n).countLow n (s.sensed n r adc)
      let x := s.ax n
      let seq := x.seq + 1
      let p := s.axPeriod n
      let m := r.bTick + p / 2
      let taker := match s.axisEngine n with
        | some e => if s.engState e == .running && decide ((s.eng e).runFrom ≤ s.tick) then some e else none
        | none => none
      let early := (s.bnk n.bank).half && s.axMode n != 2 && decide (r.done < m)
      let due : DueSample := { seq := seq, frame := r.frame, at_ := if early then some m else none, eng := taker }
      let blk := s.adcBlock n r adc
      let s : State := { s with free := s.free + 6 }
      let s := s.setAx n { x with seq := seq, sample := none, due := x.due ++ [due] }
      let vms := BitVec.ofNat 16 (adc.vms.toNat * 8)
      forAll ((s.axisViewers n).filter fun e => decide ((s.eng e).runFrom ≤ s.tick)) (fun s e =>
        s.raiseFor n e .sample 0 fun q =>
          { q with seq := seq, frame := r.frame, dt := s.dt, adc := blk, pos := r.pos, angle := r.angle, vms := vms }) s)

/-! ## Release (R22 to R43, R161 to R175) -/

/-- A released word holds a reserved code (R163). -/
def LatchVals.reserved (v : LatchVals) : Bool :=
  v.mode.extractLsb' 15 17 != 0 ||
    (v.mode.extractLsb' 9 2 == 0 && [Leg.u, .v, .w].any fun l => decide (4 ≤ v.legCode l))

/-- R26: how a commit stands to release instant `t`. -/
def State.inTime (s : State) (c : Commit) (t : Nat) : Bool :=
  if c.at_ + 3 ≤ t then true else if c.at_ + 2 ≤ t then Config.freeBool s.free else false

/-- Values released at `t`: they govern from the next tick (R28); legs that leave OFF are charged (R175). -/
def State.releaseVals (s : State) (n : AxId) (v : LatchVals) (t : Nat) : State :=
  let x := s.ax n
  let entered := decide (x.entryTick < t)
  let s := s.setAx n { x with released := v, prevReleased := if x.relTick = t then x.prevReleased else x.released, relTick := t,
                              imposed := x.imposed || entered, startOff := x.startOff && !entered }
  let s := if v.reserved then s.setBit Fld.AX_PSTAT_MODE_BAD n.val true else s
  (s.driveLegs n t).refreshAxis n

/-- An applied commit ends the run of misses and clears the DLMISS demand (R40, R186). -/
def State.applied (s : State) (n : AxId) : State :=
  let s := s.setAx n { s.ax n with misses := 0 }
  if (s.ax n).demands.dlmiss then s.withDemands n 1 fun d => { d with dlmiss := false } else s

/-- The arbiter's own commit of an arbiter stop (R439): six-step at a duty that falls by 1 per DECEL_MS; at 0, or without a
valid Hall code, ENG_LOSS. None where no arbiter stop runs. -/
def State.arbiterCommit (s : State) (n : AxId) (t : Nat) : Option State :=
  match (s.failover n).arbStop with
  | none => none
  | some (duty, start) =>
    let full := 4 * s.axPeriod n
    let ms := Nat.max 1 (s.fld Fld.AX_STOPCFG_DECEL_MS n.val)
    let fall := full * (t - start) / (ms * 250000)
    if duty ≤ fall || !(s.ax n).hallValid then some (s.raiseEngLoss n).refreshFo
    else
      let old := (s.ax n).released
      let v : LatchVals := { cu := BitVec.ofNat 32 (duty - fall), cv := 0, cw := 0,
                             mode := 0x200 ||| (old.mode &&& 0x800) }
      some ((s.releaseVals n v t).applied n)

/-- A deadline miss at `t` (R39, R41, R42): counters, record, fault event, and the double-miss demand unless the window of
R42 holds it back. A miss in the very tick at which the 3 periods end raises the demand where FAILOVER_WINDOW_END comes before it
(log entry 116). -/
def State.deadlineMiss (s : State) (n : AxId) (frame : BitVec 32) (t : Nat) : State :=
  let s := s.countSat Fld.AX_DLMISS_MISS_CNT n.val
  let s := s.setBit Fld.AX_DLMISS_MISS_SEEN n.val true
  let s := s.event (s.axisOwner n) 0x0001 n.val (s.fld Fld.AX_DLMISS_MISS_CNT n.val) (leBytes 4 frame.toNat)
  let x := s.ax n
  let k := x.misses + 1
  let s := s.setAx n { x with misses := k }
  let s := (s.releaseVals n x.released t).faultEvent n 2
  let f := s.failover n
  let raise := if f.failedAt.isSome then (match f.winEnd with | some w => decide (w < t) | none => true) else decide (2 ≤ k)
  if !raise then s else
  let s := s.withDemands n 2 fun d => { d with dlmiss := true }
  s.setBit Fld.AX_DLMISS_DOUBLE n.val true

/-- The heartbeat of the engine that took the due sample (R429): missing for HB_N release instants, the engine is stopped with
HEARTBEAT (R91) and declared failed. -/
def State.heartbeat (s : State) (n : AxId) (d : DueSample) : State :=
  match d.eng with
  | none => s
  | some e =>
    let y := s.eng e
    if s.engState e ≠ .running || y.declared || !(y.axis == n || y.guest == some n) then s else
    let beat := if y.guest = some n then y.hbGuest else y.hbSeq
    if beat = some d.seq then s.setAx n { s.ax n with hbMiss := 0 }
    else
      let k := (s.ax n).hbMiss + 1
      if k > s.fld Fld.GLB_FO_CFG_HB_N then
        ((s.setAx n { s.ax n with hbMiss := 0 }).engineFault e .heartbeat y.pc).declare e
      else s.setAx n { s.ax n with hbMiss := k }

/-- The tick of the release instant at which a sample is due, if it has come (R43). -/
def Axis.dueAt (x : Axis) (d : DueSample) : Option Nat :=
  match d.at_ with
  | some t => some t
  | none => x.nextB.map (·.1)

/-- The engines of the axis get the release event (Table 6 of 02_engines.md); `f` is the axis frame in which the instant lies
(R154). -/
def State.releaseEvents (s : State) (n : AxId) (f : BitVec 32) : State :=
  forAll (s.axisViewers n) (fun s e => s.raiseFor n e .release 0 fun q => { q with frame := f, dt := s.dt }) s

/-- One release instant `t`, in axis frame `f`, with the sample `d` due (R26, R27, R39 to R43). -/
def State.release (s : State) (n : AxId) (d : DueSample) (t : Nat) (f : BitVec 32) : State :=
  let x := s.ax n
  let ready := x.commits.filter fun c => s.inTime c t
  let late := x.commits.filter fun c => !s.inTime c t
  let good := ready.filter fun c => c.tag == d.seq
  let bad := ready.length - good.length
  let s : State := { s with free := s.free + 1 }
  let s := s.setAx n { x with commits := late, due := x.due.filter fun e => decide (e ≠ d) }
  let s := s.setFld Fld.AX_DLMISS_LATE_DISCARD n.val (Nat.min 255 (s.fld Fld.AX_DLMISS_LATE_DISCARD n.val + bad))
  let s := s.heartbeat n d
  let s := match s.arbiterCommit n t with
    | some s' => s'
    | none =>
      match good.getLast? with
      | some c => ((s.releaseVals n c.vals t).applied n).takeoverDone n c.eng d.frame
      | none => s.deadlineMiss n d.frame t
  (s.restartTimer n t).releaseEvents n f

/-- RELEASE_INSTANT: the release instant of the oldest sample whose result is due. At a B_n the FB writes come first (R125). -/
def execReleaseInstant (n : AxId) (s : State) : Out :=
  .next (
    match (s.ax n).due with
    | [] => s
    | d :: _ =>
      match d.at_ with
      | some t => if s.tick < t then s else s.release n d t (s.ax n).frameNo
      | none =>
        match (s.ax n).nextB with
        | some (t, f) => if s.tick < t then s else (s.fbAtAxis n t).release n d t f
        | none => s)

/-! ## The frame boundary -/

/-- The samples whose result is due by B_n at `t` are released, oldest first (R43). -/
def State.releaseAll (s : State) (n : AxId) (t : Nat) (f : BitVec 32) : State :=
  forAll ((s.ax n).due.filter fun d => decide (d.at_.getD t ≤ t)) (fun s d => s.release n d (d.at_.getD t) f) s

/-- B_n at tick `t` of frame `f` (R125 step 1, R154): FB writes and preload, the releases due there, the ends of cuts, state
changes in the order of R145, the offset conversion, the host event, and the queue. -/
def State.axisFrame (s : State) (n : AxId) (t : Nat) (f : BitVec 32) (codes : OfsCodes) : State :=
  let s := (s.foldOffset n).fbAtAxis n t
  let s := s.takePreload t n
  let s := s.setAx n { s.ax n with nextB := none, frameTick := t, frameNo := f, framed := true }
  let s := s.releaseAll n t f
  let s := ((s.endCuts n).drainBucket n).countHigh n
  let s := ((((s.takeSafe n).takeIdent n).takeAbsent n).endStop n t).takeStop n t
  let s := s.leaveOff n
  let y := s.ax n
  let s := if s.axState n = .idle ∧ y.entryTick < t ∧ !s.bit Fld.AX_MOTCFG_VIRT n.val
    then s.setAx n { y with ofsPend := some codes } else s
  let s := if s.currentLoopFrame n f then forAll (s.axisViewers n) State.newPeriod s else s
  let s := if s.currentLoopFrame n f && s.mailWaits n then s.hostEvents n else s
  let s := if s.positionLoopFrame n f then s.advanceQueue n else s
  s.refreshAxis n

/-- FRAME_BOUNDARY: the next unshifted boundary of a running bank, or the B_n that belongs to one. -/
def execFrameBoundary (at_ : FrameAt) (s : State) : Out :=
  .next (
    match at_ with
    | .bank b =>
      let x := s.bnk b
      match x.carrier with
      | .running => if s.tick < x.frameTick + x.period then s else s.bankFrame b (x.frameTick + x.period) (x.frameNo + 1)
      | _ => s
    | .axis n codes =>
      match (s.ax n).nextB with
      | some (t, f) => if s.tick < t then s else s.axisFrame n t f codes
      | none => s)

end Sys2Proof.Machine
end

