-- ==== Sys2Proof/Machine/Loops.lean ====
section
/-! DEFINITION. The runs of the vendor axis image (04_axis_control.md R126, R131 to R148; 06_feedback.md R213; 07_motion.md R226,
R256 to R259; 08_condition.md R262, R264): the reference of a run, the position, velocity and current loops, the notches, the
observer, the limit checks, stalls and homing, and the capture. The engine's own instructions carry what a run commits to the
latch. -/

namespace Sys2Proof.Machine

/-! ## Q1.15 arithmetic of the library -/

/-- Saturated to Q1.15. -/
def q15 (v : Int) : Int := (satQ true v).toInt

/-- Saturated to Q10.30 (R135). -/
def acc40 (v : Int) : Int := (satA true v).toInt

/-- An accumulator shifted left and extracted to Q1.15 (R135). -/
def extractQ (v : Int) (shift : Nat) : Int := (aExth true (satA true v) (BitVec.ofNat 5 shift)).1.toInt

/-- A product of two Q1.15 values, in Q1.15. -/
def mulQ (a b : Int) : Int := nearQ (a * b) 32768

/-- Limited to ±`m`. -/
def limitTo (m v : Int) : Int := if v < -m then -m else if m < v then m else v

/-- The largest number of 16 bits whose square is at most `v`. -/
def floorRoot (v : Nat) : Nat := (List.range 16).foldl (fun r i => let b := r + 2 ^ (15 - i); if b * b ≤ v then b else r) 0

/-- √(1 − v²) in Q1.15 (R134). -/
def restQ (v : Int) : Int :=
  let x := (2 ^ 30 - v * v).toNat
  let r := floorRoot x
  Nat.min 32767 (if r * r ≠ x ∧ Config.roundsUp x 0 = true then r + 1 else r)

def Axis.coefI (x : Axis) (id : Nat) : Int := (x.coefVal id).toInt

/-- A speed that falls to zero at VFS in `ms` milliseconds, after some ticks (R147, R226). -/
def fallen (v : Int) (ticks ms : Nat) : Int :=
  let d := nearQ (32768 * ticks) (Nat.max 1 ms * 250000)
  if 0 ≤ v then (if v ≤ d then 0 else v - d) else (if -v ≤ d then 0 else v + d)

/-! ## What an image knows of its axis -/

/-- B_n of the frame of the run under way. -/
def State.runB (s : State) (n : AxId) : Nat := (s.ax n).sampledAt.getD s.tick

def State.decelMs (s : State) (n : AxId) : Nat := s.fld Fld.AX_STOPCFG_DECEL_MS n.val

/-- Counts travelled in some ticks at a speed in Q1.15 of VFS. -/
def State.travel (s : State) (n : AxId) (v : Int) (ticks : Nat) : Int :=
  let q := s.vfs n
  nearQ (v * q.1 * ticks) (32768 * q.2 * 250000000)

/-- The loops run: RUN, HOLD and STOPPING (Table 5 of 04_axis_control.md). -/
def State.loopsRun (s : State) (n : AxId) : Bool :=
  match s.axState n with
  | .run => true
  | .hold => true
  | .stopping => true
  | _ => false

/-! ## The reference of a run (R225, R226) -/

/-- The point whose TAG is `f` and whose VALID is 1 (Table 1 of 07_motion.md). -/
def State.slotPoint (s : State) (n : AxId) (f : BitVec 32) : Option RefPoint :=
  let o := 0x200 + 0x20 * s.trajSlot n f
  let w := (s.ax n).win
  if Mem.load w o 4 = f.toNat ∧ Mem.load w (o + 4) 4 % 2 = 1 then
    some { tick := s.runB n, pos := (BitVec.ofNat 48 (Mem.load w (o + 8) 6)).toInt,
           vel := (BitVec.ofNat 16 (Mem.load w (o + 0x10) 2)).toInt, acc := (BitVec.ofNat 16 (Mem.load w (o + 0x12) 2)).toInt }
  else none

/-- A position-loop run in RUN takes its point; without one it is a trajectory miss, extrapolates at the last VEL, and from the
second miss in a row the velocity ramps to zero (R226). -/
def State.followPoint (s : State) (n : AxId) (f : BitVec 32) : State :=
  if s.axState n ≠ .run || !s.positionLoopFrame n f then s else
  let m := s.motion n
  let l := m.loops
  match s.slotPoint n f with
  | some p => s.setMotion n { m with trajMiss := 0, loops := { l with point := p, ramp := none } }
  | none =>
    let b := s.runB n
    let v := match l.ramp with
      | some (v0, t0) => fallen v0 (b - t0) (s.decelMs n)
      | none => l.point.vel
    let p : RefPoint := { tick := b, pos := l.point.pos + s.travel n v (b - l.point.tick), vel := v, acc := 0 }
    let ramp := match l.ramp with
      | some r => some r
      | none => if 1 ≤ m.trajMiss then some (v, b) else none
    (s.setMotion n { m with loops := { l with point := p, ramp := ramp } }).trajectoryMiss n f

/-- Trajectory velocity and acceleration of a run: of the latest point, carried on by ACC between two points; zero in HOLD; the
ramp of a stop (R147, R226). -/
def State.trajVel (s : State) (n : AxId) : Int × Int :=
  let l := (s.motion n).loops
  let b := s.runB n
  match s.axState n with
  | .run =>
    match l.ramp with
    | some (v0, t0) => (fallen v0 (b - t0) (s.decelMs n), 0)
    | none =>
      let a := s.afs n
      let v := s.vfs n
      let dt := b - l.point.tick
      if dt = 0 ∨ l.point.acc = 0 then (l.point.vel, l.point.acc)
      else (q15 (l.point.vel + nearQ (l.point.acc * a.1 * v.2 * dt) (a.2 * v.1.toNat * 250000000)), l.point.acc)
  | .stopping =>
    match (s.ax n).stop with
    | some r =>
      let v := fallen r.v0 (b - r.start) (s.decelMs n)
      (if (s.ax n).speedRef < 0 then -v else v, 0)
    | none => (0, 0)
  | _ => (0, 0)

/-! ## Position and velocity loops (R138, R139, R141, R213) -/

/-- The position loop (R139): the 40-bit error, shifted right and extracted, times KP_P. DESIGN CHOICE (log entry 127): the extraction
saturates the whole number to 16 bits. In HOLD the reference is the entry
position; in STOPPING the loop does not run. -/
def State.posLoop (s : State) (n : AxId) (p : PortBlock) (l : Loops) : Loops :=
  let x := s.ax n
  let here := p.pos.toInt
  let l := { l with held := if s.axState n = .hold then some (l.held.getD here) else none }
  if s.axState n = .stopping then { l with posErr := 0, posOut := 0 }
  else if !s.positionLoopFrame n p.frame then l
  else
    let ref := match l.held with | some h => h | none => l.point.pos
    let err := (BitVec.ofInt 40 (ref - here)).toInt
    { l with posErr := err, posOut := mulQ (x.coefI 0x10) (q15 (err / 2 ^ x.coefShift 0x11)) }

/-- The speed estimate (R213): the 40-bit difference of POS over W velocity-loop runs, in Q1.15 of VFS. Before W runs have been
made, it is over those there are. -/
def State.speedEst (s : State) (n : AxId) (hist : List (BitVec 48)) : Int :=
  let w := 2 ^ (Config.speedWindow (s.axisImg n) % 4)
  match hist with
  | [] => 0
  | now :: _ =>
    let k := Nat.min w (hist.length - 1)
    let d := (BitVec.ofInt 40 (now.toInt - (hist.getD k now).toInt)).toInt
    let q := s.vfs n
    if k = 0 then 0
    else q15 (nearQ (d * 32768 * 250000000 * q.2) (k * (if s.sharedLoop n then 2 else 1) * s.divV * s.axPeriod n * q.1.toNat))

/-- A PI step (R135): the output before its limit, and the integrator after the run. `limited` is the output the limit leaves; the
integrator stops where the limit cuts it and the error has the sign of the cut. -/
def piOut (kp integ e extra : Int) (shift : Nat) : Int := extractQ (kp * e + integ + extra) shift

def piInteg (ki integ e raw limited : Int) : Int :=
  if (limited < raw ∧ 0 < e) ∨ (raw < limited ∧ e < 0) then integ else acc40 (integ + ki * e)

/-- The velocity loop with feedforward, and the load-torque observer, which takes i_q of the latest current loop (R138, R141). -/
def State.velLoop (s : State) (n : AxId) (p : PortBlock) (l : Loops) : Loops :=
  if !s.velocityLoopFrame n p.frame then l else
  let x := s.ax n
  let hist := (p.pos :: l.hist).take 9
  let w := s.speedEst n hist
  let t := s.trajVel n
  let e := q15 (limitTo (x.coefI 0x0D) (l.posOut + t.1) - w)
  let raw := piOut (x.coefI 0x08) l.velInt e (x.coefI 0x0B * t.1 + x.coefI 0x0C * t.2) (x.coefShift 0x0A)
  let iq := limitTo (x.coefI 0x05) raw
  let on := x.coefI 0x20 != 0
  let obs := [l.obSpeed, l.obLoad, l.iq, w, x.coefI 0x21, x.coefI 0x22, x.coefI 0x23]
  let start := on && !l.obOn
  let sp := if !on then l.obSpeed else if start then w else Config.image .obSpeed obs
  let load := if !on then l.obLoad else if start then 0 else q15 (Config.image .obLoad obs)
  { l with hist := hist, speed := w, velInt := piInteg (x.coefI 0x09) l.velInt e raw iq, obOn := on, obSpeed := sp, obLoad := load,
           iqRef := if on then q15 (iq + load) else iq }

/-! ## Notches and current loops (R133 to R137, R140) -/

/-- One notch filter: output and state (R140). -/
def NotchMem.run (h : NotchMem) (c r g x : Int) : Int × NotchMem :=
  let w := q15 (nearQ (32768 * 32768 * (x + h.x2) - 65536 * c * h.x1 + 2 * r * c * h.w1 - r * r * h.w2) (32768 * 32768))
  (q15 (x + mulQ g (w - x)), { x1 := x, x2 := h.x1, w1 := w, w2 := h.w1 })

/-- The i_q reference through both notches in series. -/
def Axis.notch (x : Axis) (l : Loops) : Int × Vector NotchMem 2 :=
  let a := l.notches[0].run (x.coefI 0x18) (x.coefI 0x19) (x.coefI 0x1A) l.iqRef
  let b := l.notches[1].run (x.coefI 0x1C) (x.coefI 0x1D) (x.coefI 0x1E) a.1
  (b.1, #v[a.2, b.2])

/-- A word of the ADC block as a number. -/
def PortBlock.adcI (p : PortBlock) (i : Nat) : Int := (p.adc.toList.getD i 0).toInt

/-- A compare word of a leg: X and SHIFT (Table 1 of 05_power_stage.md). -/
def compareWord (x : Nat) (shift : Int) : BitVec 32 := BitVec.ofInt 12 shift ++ BitVec.ofNat 20 x

/-- lib_ss_shift (R131): the shifts of the legs that follow a leg turned on at `e1`, in their order. Each active interval shorter
than TSET + 2 is widened by moving the later leg; a shift that would place its edge at or beyond M is not made. -/
def shiftLegs (need mid e1 : Nat) : List (Nat × Leg) → List (Leg × Nat)
  | [] => []
  | (e2, b) :: rest =>
    let d := if e2 - e1 < need then need - (e2 - e1) else 0
    let d := if mid ≤ e2 + d then 0 else d
    (b, d) :: shiftLegs need mid (e2 + d) rest

/-- Leg-mode word with all legs in PWM (Table 2 of 05_power_stage.md). -/
def pwmMode : BitVec 32 := 0x49

/-- The compare set of a run in PWM, with the shifts of R131 under single-shunt sensing. -/
def State.pwmCommit (s : State) (n : AxId) (mode : BitVec 32) (x : Leg → Nat) : LatchVals :=
  let p := s.axPeriod n
  let set_ (sh : Leg → Int) : LatchVals :=
    { cu := compareWord (x .u) (sh .u), cv := compareWord (x .v) (sh .v), cw := compareWord (x .w) (sh .w), mode := mode }
  if s.threeShunt n then set_ fun _ => 0 else
  let flat := set_ fun _ => 0
  let ds := match legsBy fun l => flat.onAt l p / 8 with
    | (e1, _) :: rest => shiftLegs (s.tset n + 2) (p / 2) e1 rest
    | [] => []
  set_ fun l => match ds.find? fun d => d.1 == l with | some d => (d.2 : Int) | none => 0

/-- sin and cos of an angle in units of 2⁻¹⁶ revolution, in Q1.15: the manual does not say how the library rounds them. -/
def sinQ (a : Int) : Int := q15 (Config.image .sin [a % 65536])
def cosQ (a : Int) : Int := q15 (Config.image .cos [a % 65536])

/-- 1/√3 as 0x49E7 (the worked example of 03_engine_instructions.md). -/
def thirdRoot : Int := 0x49E7

/-- Clarke transform: iα = ia and iβ = (ia + 2 ib)/√3 (03_engine_instructions.md, worked example). -/
def clarke (ia ib : Int) : Int × Int := (ia, extractQ (ia * thirdRoot + 2 * (ib * thirdRoot)) 0)

/-- A vector turned by an angle: by the electrical angle, the inverse Park transform; by its negative, the Park transform; by the
change of angle, the rotation of R136. -/
def turn (al be a : Int) : Int × Int :=
  (extractQ (al * cosQ a - be * sinQ a) 0, extractQ (be * cosQ a + al * sinQ a) 0)

/-- Park transform: id = iα cos θ + iβ sin θ and iq = iβ cos θ − iα sin θ. -/
def park (al be a : Int) : Int × Int :=
  (extractQ (al * cosQ a + be * sinQ a) 0, extractQ (be * cosQ a - al * sinQ a) 0)

/-- t_adv in ticks (R133): from the sample instant to the release instant of the run's result, and half of D_I frames. -/
def State.advance (s : State) (n : AxId) (seq : BitVec 16) : Int :=
  let x := s.ax n
  let rel := match x.due.find? fun d => d.seq == seq with
    | some { at_ := some t, .. } => t
    | _ => x.sampledAt.getD s.tick + s.axPeriod n
  (rel : Int) - x.sampleTick + s.divI * s.axPeriod n / 2

/-- The electrical angle of an instant `t` ticks later, at the speed estimate (R133). -/
def State.advanced (s : State) (n : AxId) (elec : Nat) (speed t : Int) : Int :=
  let v := s.vfs n
  (elec + nearQ (speed * v.1 * t * (s.poles n * 65536 : Nat)) (32768 * v.2 * 250000000 * s.cpr n)) % 65536

/-- The compare set of an FOC run: the inverse Park transform at the advanced angle and space-vector modulation; DIR is the sign of the
q-axis voltage command (R179). -/
def State.focCommit (s : State) (n : AxId) (vd vq adv : Int) : LatchVals :=
  let p := s.axPeriod n
  let v := turn vd vq adv
  let x (l : Leg) : Nat :=
    let f : Config.ImageFn := match l with | .u => .compareU | .v => .compareV | .w => .compareW
    Nat.min (4 * p) (Config.image f [v.1, v.2, p]).toNat
  s.pwmCommit n (if vq < 0 then pwmMode ||| 0x800 else pwmMode) x

/-- The compare set of a stepper run: coil A lies between legs U and W and coil B between V and W, and W stands at the midpoint of the
span of the compare values (R251; log entry 129). -/
def State.stepCommit (s : State) (n : AxId) (va vb : Int) : LatchVals :=
  let p := s.axPeriod n
  let mid : Int := 2 * p
  let x (l : Leg) : Nat :=
    let v : Int := match l with
      | .u => mid + Config.image .coilSpan [va, p]
      | .v => mid + Config.image .coilSpan [vb, p]
      | .w => mid
    Nat.min (4 * p) v.toNat
  s.pwmCommit n pwmMode x

/-- Coil current amplitude of a stepper axis (R256, R259). -/
def State.coilAmp (s : State) (n : AxId) (l : Loops) : Int :=
  let m := s.motion n
  match m.homeHead, m.head with
  | some _, some { cmd := .home _ _ iHome _ _ _ _, .. } => iHome.toInt
  | _, _ =>
    match m.stepCfg with
    | some (.stepCfg _ _ iRun iHold holdMs _ _) =>
      match l.stillFrom with
      | some t => if t + holdMs.toNat * 250000 ≤ s.runB n then iHold.toInt else iRun.toInt
      | none => iRun.toInt
    | _ => 0

/-- The current loop of a run (R133 to R137): FOC, six-step, or the two coil loops of a stepper. With VALID 0 the α/β currents of the
run before are turned by the change of angle and the integrators do not integrate. DESIGN CHOICE (log entry 126): the six-step loop has
the gains of the q axis, the coil loops those of d and q, and I_SHIFT; their output is limited by its format alone. -/
def State.curLoop (s : State) (n : AxId) (p : PortBlock) (l : Loops) : Loops :=
  let x := s.ax n
  let nt := x.notch l
  let l := { l with notches := nt.2, stillFrom := if (s.trajVel n).1 = 0 then some (l.stillFrom.getD (s.runB n)) else none }
  let valid := (p.adc.toList.getD 15 0).getLsbD 0
  let ish := x.coefShift 0x04
  let mode := s.axMode n
  if mode = 2 then
    let idc := p.adcI 5
    let e := q15 (nt.1 - idc)
    let raw := piOut (x.coefI 0x02) l.qInt e 0 ish
    let duty := nearQ (raw.natAbs * 4 * s.axPeriod n : Nat) 32768
    { l with iq := idc, id := 0, qInt := piInteg (x.coefI 0x03) l.qInt e raw raw, vq := raw,
             out := { cu := compareWord (Nat.min (4 * s.axPeriod n) duty.toNat) 0, cv := 0, cw := 0,
                      mode := if raw < 0 then 0xA00 else 0x200 } }
  else
    let elec := if mode = 3 then Mem.load x.win 0xF44 2 else s.poles n * p.angle.toNat % 65536
    let ab : Int × Int :=
      if !valid then turn l.alpha l.beta ((elec : Int) - l.elec)
      else if mode = 3 then (p.adcI 0, p.adcI 1) else clarke (p.adcI 0) (p.adcI 1)
    let dq := park ab.1 ab.2 elec
    let l := { l with alpha := ab.1, beta := ab.2, elec := elec, id := dq.1, iq := dq.2 }
    if mode = 3 then
      let amp := s.coilAmp n l
      let ea := q15 (q15 (Config.image .coilA [amp, elec]) - ab.1)
      let eb := q15 (q15 (Config.image .coilB [amp, elec]) - ab.2)
      let va := piOut (x.coefI 0x00) l.dInt ea 0 ish
      let vb := piOut (x.coefI 0x02) l.qInt eb 0 ish
      { l with vd := va, vq := vb, dInt := if valid then acc40 (l.dInt + x.coefI 0x01 * ea) else l.dInt,
               qInt := if valid then acc40 (l.qInt + x.coefI 0x03 * eb) else l.qInt, out := s.stepCommit n va vb }
    else
      let ed := q15 (s.injection n (s.sampleDt n) - dq.1)
      let eq := q15 (nt.1 - dq.2)
      let rawD := piOut (x.coefI 0x00) l.dInt ed 0 ish
      let vd := limitTo (x.coefI 0x07) rawD
      let rawQ := piOut (x.coefI 0x02) l.qInt eq 0 ish
      let vq := limitTo (restQ vd) rawQ
      { l with vd := vd, vq := vq,
               dInt := if valid then piInteg (x.coefI 0x01) l.dInt ed rawD vd else l.dInt,
               qInt := if valid then piInteg (x.coefI 0x03) l.qInt eq rawQ vq else l.qInt,
               out := s.focCommit n vd vq (s.advanced n elec l.speed (s.advance n p.seq)) }

/-- The loops of a run, in the order of R126, in the states in which they run. -/
def State.runLoops (s : State) (e : EngId) (n : AxId) : State :=
  let p := (s.eng e).port
  let m := s.motion n
  let l := m.loops
  let l := if (s.ax n).integZero then { l with velInt := 0, dInt := 0, qInt := 0, hist := [] } else l
  let l := s.curLoop n p (s.velLoop n p (s.posLoop n p l))
  (s.setAx n { s.ax n with integZero := false, speedRef := (s.trajVel n).1 }).setMotion n { m with loops := l }

/-! ## Limit checks (R148) -/

/-- A count of consecutive runs, and whether it has reached its limit; 0 is taken as 1. -/
def streakUp (met : Bool) (count lim : Nat) : Nat × Bool :=
  let k := if met then count + 1 else 0
  if Nat.max 1 lim ≤ k then (0, true) else (k, false)

/-- lib_limits: the conditions of Table 7 whose loop runs in this run. -/
def State.checkLimits (s : State) (e : EngId) (n : AxId) : State :=
  let p := (s.eng e).port
  let x := s.ax n
  let m := s.motion n
  let l := m.loops
  let stat := p.adc.toList.getD 15 0
  let trip := x.coefI 0x06
  let above (i : Nat) : Bool := decide (trip < (p.adcI i).natAbs)
  let six := s.axMode n == 2
  let oc := streakUp (if six then above 5 else above 0 || above 1 || above 2) l.ocRuns (s.fld Fld.AX_LIMCFG_OC_N n.val)
  let sat := streakUp (stat.extractLsb' 3 3 != 0) l.satRuns (s.fld Fld.AX_LIMCFG_SAT_N n.val)
  let inv := streakUp (!six && !stat.getLsbD 0) l.invRuns (s.fld Fld.AX_LIMCFG_INV_N n.val)
  let fol := s.positionLoopFrame n p.frame && decide (x.coefI 0x12 < l.posErr.natAbs)
  let spd := s.velocityLoopFrame n p.frame && decide (9 * x.coefI 0x0D < 8 * l.speed.natAbs)
  let s := s.setMotion n { m with loops := { l with ocRuns := oc.1, satRuns := sat.1, invRuns := inv.1 } }
  let s := if oc.2 then s.loopFault n 1 else s
  let s := if sat.2 then s.loopFault n 2 else s
  let s := if inv.2 then s.loopFault n 3 else s
  let s := if fol then s.loopFault n 4 else s
  if spd then s.loopFault n 5 else s

/-! ## The step ring (R255) -/

/-- A ring entry for a rate in steps/s (R252), with its interval in sixteenths of a tick; none at standstill. -/
def stepEntry (v : Frac) : Option (Nat × Nat) :=
  if v.1 = 0 then none else
  let q := Nat.min (16 * 16777215) (Nat.max 400 (16 * 250000000 * v.2 / v.1.natAbs))
  some (2 ^ 31 + (if v.1 < 0 then 2 ^ 28 else 0) + q % 16 * 2 ^ 24 + q / 16, q)

/-- Steps per second at a velocity in counts per second: with PSRC = 1 the counter counts the encoder (R254). -/
def State.stepRate (s : State) (n : AxId) (v : Frac) : Frac :=
  if s.bit Fld.AX_STEPCFG_PSRC n.val then v.mul (s.poles n * s.microsteps n, s.cpr n) else v

/-- lib_step_int: the entries from RDIDX on for the steps of a period of `ticks`, at least one and at most `most` (R255); at standstill
HALT, while the timer runs. After a stall the ring takes no entry until the reference has come to rest. -/
def State.fillRing (s : State) (n : AxId) (v : Frac) (ticks most : Nat) : State :=
  let m := s.motion n
  match stepEntry (s.stepRate n v) with
  | none =>
    let s := s.setMotion n { m with loops := { m.loops with stallHold := false } }
    if m.stepNext.isSome then s.writeHalt n else s
  | some (w, q) =>
    if m.loops.stallHold then s else
    let k := Nat.min most (Nat.max 1 ((16 * ticks + q - 1) / q))
    let x := s.ax n
    s.setAx n { x with win := (List.range k).foldl (fun l i => Mem.store l (0xF00 + 4 * ((m.rdIdx + i) % 16)) 4 w) x.win }

/-- The entries of a current-loop run, unless the trajectory engine fills the ring (GRP_INT, R255). -/
def State.fillRun (s : State) (n : AxId) : State :=
  if s.bit Fld.AX_STEPCFG_GRP_INT n.val then s
  else s.fillRing n (Frac.mul ((s.ax n).speedRef, 32768) (s.vfs n)) (s.axPeriod n * s.divI) 4

/-! ## Stalls and homing of a stepper axis (R257, R259) -/

/-- Steps since the run before, by STEPCAP. -/
def State.noteSteps (s : State) (n : AxId) : State :=
  let m := s.motion n
  let c := BitVec.ofNat 32 (Mem.load (s.ax n).win 0xF40 4)
  s.setMotion n { m with loops := { m.loops with lastStep := c, stepsRun := (c - m.loops.lastStep).toInt.natAbs } }

/-- No entry goes into the ring until the reference has come to rest. -/
def State.holdRing (s : State) (n : AxId) : State :=
  let m := s.motion n
  s.setMotion n { m with loops := { m.loops with stallHold := true } }

/-- Homing (R259): no stall within MAX_DIST ends it with NOT_FOUND; at the first run whose sample instant found the timer halted after
the stall, the image writes PLD with HOME_POS + (count − reference count). -/
def State.homeRun (s : State) (n : AxId) : State :=
  let m := s.motion n
  let l := m.loops
  match m.homeHead with
  | none => s.setMotion n { m with loops := { l with homeFrom := none, homeStall := none } }
  | some (homePos, maxDist) =>
    let c := l.lastStep.toInt
    let start := l.homeFrom.getD c
    match l.homeStall with
    | none =>
      let s := s.setMotion n { m with loops := { l with homeFrom := some start } }
      if maxDist ≤ (c - start).natAbs then (s.homeMissed n c).holdRing n else s
    | some r =>
      if !l.haltCap then s else
      let s := s.markEnd n 0 r
      s.windowStore n 0xF58 8 (2 ^ 63 + (homePos + (c - r)) % 2 ^ 48).toNat

/-- A speed in Q1.15 of VFS is at least a number of counts per second. -/
def State.speedAtLeast (s : State) (n : AxId) (v : Int) (w : F32) : Bool :=
  match fRat w with
  | some q => decide (q.1 * 32768 * (s.vfs n).2 ≤ v.natAbs * (s.vfs n).1 * q.2)
  | none => false

/-- lib_bemf: the load angle in Q1.15 of 90° electrical (R257), for which the manual gives no formula. -/
def State.loadAngle (s : State) (n : AxId) : Int :=
  let l := (s.motion n).loops
  q15 (Config.image .loadAngle [l.alpha, l.beta, l.vd, l.vq, l.elec, (s.ax n).speedRef])

/-- Stall detection in a current-loop run (R257). -/
def State.stallRun (s : State) (n : AxId) : State :=
  let m := s.motion n
  let l := m.loops
  match m.stepCfg with
  | some (.stepCfg _ stallN _ _ _ th vmin) =>
    if !(s.speedAtLeast n (s.ax n).speedRef vmin && decide (th.toInt < s.loadAngle n)) then
      s.setMotion n { m with loops := { l with streak := 0, streakRef := none } }
    else
      let ref := l.streakRef.getD l.lastStep.toInt
      let k := l.streak + l.stepsRun
      if k < stallN.toNat then s.setMotion n { m with loops := { l with streak := k, streakRef := some ref } }
      else
        let homing := m.homeHead.isSome
        let l := { l with streak := 0, streakRef := none, homeStall := if homing then some ref else l.homeStall }
        ((s.setMotion n { m with loops := l }).stalled n ref homing).holdRing n
  | _ => s

/-! ## The Cast (15_failover.md R425 to R427) -/

def wordsQ (l : List Int) : List Byte := l.flatMap fun v => leInt 2 v

/-- STATE of the vendor FOC image (Table 2 of 15_failover.md). -/
def Loops.castState (l : Loops) : List Byte :=
  let notch (h : NotchMem) : List Byte := wordsQ [h.x1, h.x2, h.w1, h.w2]
  leInt 8 l.dInt ++ leInt 8 l.qInt ++ leInt 8 l.velInt ++ wordsQ [l.alpha, l.beta] ++ leBytes 2 l.elec ++ leBytes 2 0 ++
    notch l.notches[0] ++ notch l.notches[1] ++ leBytes 4 (fixedToF false 15 l.obLoad).toNat ++
    leBytes 4 (fixedToF false 15 l.obSpeed).toNat ++ padTo 32 ((l.hist.take 8).flatMap fun p => leBytes 4 (p.toNat % 2 ^ 32)) ++
    wordsQ [l.filtD.s1, l.filtD.s2, l.filtQ.s1, l.filtQ.s2]

/-- lib_cast_read: the loops from the STATE of a FOC half, as of a fresh start but for what it holds (R427). `pos` is POS of the run, to
which the 32 bits of the history are completed; what stands in the axis window stays. -/
def Loops.castLoad (l : Loops) (st : List Byte) (pos : BitVec 48) (on : Bool) : Loops :=
  let i8 (o : Nat) : Int := (BitVec.ofNat 64 (leAt st o 8)).toInt
  let i2 (o : Nat) : Int := (BitVec.ofNat 16 (leAt st o 2)).toInt
  let fq (o : Nat) : Int := (fToFixed true 16 15 0 (BitVec.ofNat 32 (leAt st o 4))).1
  let notch (o : Nat) : NotchMem := { x1 := i2 o, x2 := i2 (o + 2), w1 := i2 (o + 4), w2 := i2 (o + 6) }
  let back (k : Nat) : BitVec 48 :=
    pos - BitVec.ofInt 48 (BitVec.ofNat 32 (pos.toNat % 2 ^ 32) - BitVec.ofNat 32 (leAt st (0x38 + 4 * k) 4)).toInt
  { Loops.zero with
    dInt := i8 0, qInt := i8 8, velInt := i8 0x10, alpha := i2 0x18, beta := i2 0x1A, elec := leAt st 0x1C 2,
    notches := #v[notch 0x20, notch 0x28], obLoad := fq 0x30, obSpeed := fq 0x34, obOn := on, hist := (List.range 8).map back,
    filtD := { FiltMem.zero with s1 := i2 0x58, s2 := i2 0x5A }, filtQ := { FiltMem.zero with s1 := i2 0x5C, s2 := i2 0x5E },
    gear := l.gear, stats := l.stats, speeds := l.speeds, gridDone := l.gridDone, point := l.point, held := l.held }

/-- The first run after a take-over: the Cast, or a state of zero where it is empty (R427). The formats of six-step and stepper images are
their own: their half restores the loops as they were (log entry 133). -/
def State.castRead (s : State) (n : AxId) (pos : BitVec 48) : State :=
  let m := s.motion n
  match s.castOf n with
  | none => s.setMotion n { m with loops := { Loops.zero with
      gear := m.loops.gear, stats := m.loops.stats, speeds := m.loops.speeds, gridDone := m.loops.gridDone, point := m.loops.point } }
  | some h =>
    if s.axMode n ≠ 1 then s else
    let x := s.ax n
    s.setMotion n { m with loops := m.loops.castLoad (Mem.bytes x.win (0x80 * h + 0x10) 104) pos (x.coefI 0x20 != 0) }

/-! ## The sample handler -/

/-- The instants of the two latest runs, for the capture (R262). -/
def State.noteRun (s : State) (n : AxId) : State :=
  let m := s.motion n
  s.setMotion n { m with loops := { m.loops with prevDt := m.loops.runDt, runDt := some (s.sampleDt n) } }

/-- What a stepper image adds to a run of the loops: stall detection, homing and the step ring (R255 to R259). -/
def State.stepRun (s : State) (n : AxId) : State := ((s.stallRun n).homeRun n).fillRun n

/-- A run of the sample handler of the vendor axis image: the waiting STEP_CFG (R256); the oldest coefficient record, or the Cast in the
first run after a take-over (R142, R427); then, in the states in which the loops run, the reference, the loops and the limit checks
(R126). -/
def State.axisRun (s : State) (e : EngId) (n : AxId) : State :=
  let s := s.applyStepCfg n
  let s := if (s.eng e).castRun = some n then (s.setEng e { s.eng e with castRun := none }).castRead n (s.eng e).port.pos
    else s.applyCoef n
  let s := s.noteRun n
  let s := if s.axMode n = 3 then s.noteSteps n else s
  if !s.loopsRun n then s else
  let s := ((s.followPoint n (s.eng e).port.frame).runLoops e n).checkLimits e n
  if s.axMode n = 3 then s.stepRun n else s

/-- What the image commits (Table 5, R148): the outputs of its loops; legs OFF in OFF and IDLE, SHORT in ABSENT; in SAFE, and in the run
of a loop fault that leads there, the leg state of FAULT_ACT. -/
def State.imageOut (s : State) (n : AxId) : LatchVals :=
  let short : LatchVals := { LatchVals.off with mode := 0x400 }
  if (s.loopsRun n && (s.ax n).safeReq == some 3) || s.axState n == .safe then
    if s.bit Fld.AX_STOPCFG_FAULT_ACT n.val then .off else short
  else if s.loopsRun n then (s.motion n).loops.out
  else if s.axState n = .absent then short else .off

/-- lib_commit: the four latch words, then the commit with the sequence number of the sample (R26, R149). -/
def State.imageCommit (s : State) (e : EngId) (n : AxId) : State :=
  let x := s.eng e
  (s.setEng e { x with staged := s.imageOut n }).commit e x.port.seq

/-! ## Capture and statistics (R262 to R264) -/

/-- A run of the second-order low-pass of R262, with its coefficients in Q2.30; how the library rounds them the manual does not say. Its
two words of state are in Q1.15 (Table 2 of 15_failover.md). -/
def FiltMem.run (h : FiltMem) (c : Nat → Int) (x : Int) : FiltMem :=
  let q (v : Int) : Int := nearQ v (2 ^ 30)
  let y := q (c 0 * x) + h.s1
  { s1 := q15 (q (c 1 * x - c 3 * y) + h.s2), s2 := q15 (q (c 2 * x - c 4 * y)), y1 := y, y2 := h.y1 }

/-- The release handler low-passes i_d and i_q of the latest run, with a cutoff of 0.4 / G at the current-loop rate. -/
def State.filterRun (s : State) (n : AxId) : State :=
  let m := s.motion n
  let l := m.loops
  if l.filtAt = l.runDt || !s.loopsRun n then s else
  let c (k : Nat) : Int := Config.image .filter [k, s.gridNs n, 4 * s.loopTicks n]
  s.setMotion n { m with loops := { l with filtD := l.filtD.run c l.id, filtQ := l.filtQ.run c l.iq, filtAt := l.runDt } }

/-- The grid instant that lies between the sample instants of the two latest runs, if it has not been captured. -/
def State.gridDue (s : State) (n : AxId) : Option Nat :=
  let l := (s.motion n).loops
  match l.prevDt, l.runDt with
  | some a, some b =>
    let g := b / s.gridNs n * s.gridNs n
    if a < g ∧ l.gridDone < g then some g else none
  | _, _ => none

/-- The value at grid instant `g`, linear in time between the filtered values of the two latest runs. -/
def State.atGrid (s : State) (n : AxId) (g : Nat) (h : FiltMem) : Int :=
  let l := (s.motion n).loops
  let a := l.prevDt.getD 0
  let b := l.runDt.getD 0
  h.y2 + nearQ ((h.y1 - h.y2) * ((g : Int) - a)) (Nat.max 1 (b - a))

/-- In these states a grid instant is a gap (R263). -/
def State.captureGap (s : State) (n : AxId) : Bool :=
  match s.axState n with
  | .idle => true
  | .safe => true
  | .absent => true
  | _ => false

/-- ω_e × L_q × i_q of R264: a product of the speed, LQ of MON_CFG and i_q, in the units of v_d × VM, which the manual leaves to the
image's scales. -/
def State.crossTerm (s : State) (n : AxId) (iq : Int) : Int :=
  match (s.moni n).cfg with
  | some (.monCfg _ _ _ _ _ _ lq _ _) =>
    let q := (fRat lq).getD (0, 1)
    nearQ ((s.motion n).loops.speed * q.1 * iq * Config.image .cross [s.poles n, s.cpr n]) (q.2 * 2 ^ 30)
  | _ => 0

/-- The sums of a grid instant with data, in the block of the record whose interval it lies in (R264); v_d is in volts by VM, `vm` (R134). -/
def State.addStats (s : State) (n : AxId) (g : Nat) (vm id iq : Int) : State :=
  let m := s.motion n
  match s.recInterval with
  | none => s
  | some i =>
    let base := n.val * i / 64
    let j := if g ≤ base then 0 else (g - base + i - 1) / i
    let b := m.block j
    let b := { b with count := b.count + 1, iq := b.iq + iq, iqSq := b.iqSq + iq * iq, cmd := b.cmd + (s.ax n).speedRef,
                      meas := b.meas + m.loops.speed }
    let b := if s.injection n g = 0 then b else
      { b with inj := b.inj + (m.loops.vd * vm + s.crossTerm n iq) * id, idSq := b.idSq + id * id, injCount := b.injCount + 1 }
    let st := if j % 2 = 0 then m.loops.stats.set 0 b else m.loops.stats.set 1 b
    s.setMotion n { m with loops := { m.loops with stats := st } }

/-- The release handler captures the grid instant that is due (R262, R263): an entry with data adds to the statistics. The latest 4,200
speed estimates stay, for the frequencies of R267. -/
def State.captureGrid (s : State) (n : AxId) (vm : Int) : State :=
  let s := s.filterRun n
  match s.gridDue n with
  | none => s
  | some g =>
    if !s.bit Fld.AX_MONSTAT_CAPT n.val then s else
    let m := s.motion n
    let l := m.loops
    let id := satQ true (s.atGrid n g l.filtD)
    let iq := satQ true (s.atGrid n g l.filtQ)
    let s := s.setMotion n { m with loops := { l with gridDone := g, speeds := ((g, l.speed) :: l.speeds).take 4200 } }
    let s := s.writeCapture n g id iq
    if s.captureGap n then s else s.addStats n g vm (capLimit id).toInt (capLimit iq).toInt

end Sys2Proof.Machine
end

