-- ==== Sys2Proof/Machine/Health.lean ====
section
/-! DEFINITION. What a monitoring image computes (08_condition.md R267 to R271, R274): the bands, the health figures and the health
record. -/

namespace Sys2Proof.Machine

/-! ## Bands (R267 to R269) -/

/-- A captured current at grid instant `g` in Q1.15 of I_FS (R263): i_d, or i_q with bit 0 dropped; none: a gap. -/
def State.capAt (s : State) (n : AxId) (sigD : Bool) (g : Nat) : Option Int :=
  if s.gapAt n g then none else
  let a := 0x100000 + 0x4000 * n.val + 4 * (g / s.gridNs n % 4096)
  some (if sigD then (BitVec.ofNat 16 (Mem.load s.shmem a 2)).toInt
    else (BitVec.ofNat 16 (Mem.load s.shmem (a + 2) 2) &&& 0xFFFE).toInt)

/-- The mean measured rotation frequency in Hz over the 64 grid instants that end before `g` (R267). -/
def State.rotation (s : State) (n : AxId) (g : Nat) : Frac :=
  let l := ((s.motion n).loops.speeds.filter fun v => decide (v.1 < g ∧ g ≤ v.1 + 64 * s.gridNs n)).map (·.2)
  (Frac.mul (l.foldl (· + ·) 0, 32768 * Nat.max 1 l.length) (s.vfs n)).mul (1, s.cpr n)

/-- Descriptor `i` of the band set of an axis (Table 1): KIND, SIG, FLAGS and F. -/
def State.band (s : State) (n : AxId) (i : Nat) : Nat × Bool × Bool × F32 :=
  let a := 0x1E0000 + 0x100 * (s.moni n).shape.2 + 16 * i
  (Mem.load s.shmem a 1, Mem.load s.shmem (a + 1) 1 == 1, (Mem.load s.shmem (a + 2) 1).testBit 0,
   BitVec.ofNat 32 (Mem.load s.shmem (a + 4) 4))

/-- The frequency of a band in Hz, with the rotation frequency `rot` (R267); none: KIND 0, or F is no finite number. -/
def State.bandFreq (s : State) (n : AxId) (i : Nat) (rot : Frac) : Option Frac :=
  let d := s.band n i
  match fRat d.2.2.2, d.1 with
  | some f, 1 => some f
  | some f, 2 => some (f.mul rot)
  | some f, 3 => some ((f.mul rot).mul (s.poles n, 1))
  | _, _ => none

/-- f × N × G: a frequency in bins of the transform. -/
def State.inBins (s : State) (n : AxId) (f : Frac) : Frac := f.mul ((s.moni n).shape.1 * s.gridNs n, 1000000000)

/-- The bin of a frequency (R267); none outside 1 ≤ k ≤ 0.4 × N. -/
def State.binOf (s : State) (n : AxId) (f : Frac) : Option Nat :=
  let x := s.inBins n f
  let k := roundDiv x.1 x.2
  if 1 ≤ k ∧ 5 * k ≤ 2 * (s.moni n).shape.1 then some k.toNat else none

/-- One step of the sliding transform: s = (s + x − x_old) × cexp(2πk/N), in binary32 (R268; log entry 131). -/
def slide (c v : F32 × F32) (x old : F32) : F32 × F32 :=
  let re := (fSub false (fAdd false v.1 x).1 old).1
  ((fSub false (fMul false re c.1).1 (fMul false v.2 c.2).1).1, (fAdd false (fMul false re c.2).1 (fMul false v.2 c.1).1).1)

/-- The energy of bin `k` over the window that starts at `ws` (R268); none where too few positions are kept. `old`: the whole window is a
gap (R278). -/
def State.energy (s : State) (n : AxId) (sigD : Bool) (k ws : Nat) (old : Bool) : Option F32 :=
  let len := (s.moni n).shape.1
  let c : F32 × F32 := (BitVec.ofInt 32 (Config.image .expRe [k, len]), BitVec.ofInt 32 (Config.image .expIm [k, len]))
  let x (i : Nat) : Option Int := if old then none else s.capAt n sigD (ws + i * s.gridNs n)
  let word (v : Option Int) : F32 := fixedToF false 15 (v.getD 0)
  let r := (List.range (len + 2048)).foldl (fun (a : (F32 × F32) × F32 × Nat × Nat) i =>
    let v := slide c a.1 (word (x i)) (if i < len then 0 else word (x (i - len)))
    let run := if (x i).isNone then 0 else a.2.2.1 + 1
    if len ≤ i ∧ len ≤ run then
      (v, (fAdd false a.2.1 (fAdd false (fMul false v.1 v.1).1 (fMul false v.2 v.2).1).1).1, run, a.2.2.2 + 1)
    else (v, a.2.1, run, a.2.2.2)) ((0, 0), 0, 0, 0)
  if r.2.2.2 + 512 < 2048 then none
  else (fRat r.2.1).map fun acc => (acc.mul (2, r.2.2.2 * len * len)).toF32

/-- The energy of band `i` (R267, R268); none: invalid. -/
def State.bandEnergy (s : State) (n : AxId) (i ws : Nat) (old : Bool) : Option F32 :=
  ((s.bandFreq n i (s.rotation n ws)).bind (s.binOf n)).bind fun k => s.energy n (s.band n i).2.1 k ws old

/-- A MECH or ELEC band has moved by more than half a bin by the end of the window, at record instant `r` (R269). -/
def State.speedVaries (s : State) (n : AxId) (ws r : Nat) : Bool :=
  (List.range 16).any fun i =>
    match (s.band n i).1, s.bandFreq n i (s.rotation n ws), s.bandFreq n i (s.rotation n (r + 1)) with
    | 1, _, _ => false
    | _, some f, some g => (Frac.half (1, 1)).isLt (s.inBins n (g.sub f)).abs
    | _, _, _ => false

/-- The sum of the energies of the BEARING bands, where every one is valid (R270). -/
def State.bearingSum (s : State) (n : AxId) (l : List (Option F32)) : Option F32 :=
  (l.zipIdx.filter fun e => (s.band n e.2).2.2.1).foldl (fun a e => a.bind fun v => e.1.map fun w => (fAdd false v w).1) (some 0)

/-! ## Health figures (R270) -/

/-- The figures of Table 2 in its order from SLIP to SPEED_MEAN of Table 3; none: invalid. -/
structure Figures where
  slip : Option F32
  ripRms : Option F32
  ripRatio : Option F32
  ohm : Option F32
  temp : Option F32
  bearing : Option F32
  asym : Option F32
  iqMean : Option F32
  speed : Option F32
  deriving DecidableEq, Repr

def someIf {α : Type} (c : Bool) (v : α) : Option α := if c then some v else none

/-- The parameters of MON_CFG that the figures take: RINJ, R_REF and T_REF. -/
def AxMon.refs (m : AxMon) : BitVec 16 × F32 × F32 :=
  match m.cfg with
  | some (.monCfg _ _ _ _ _ r _ rr tr) => (r, rr, tr)
  | _ => (0, 0, 0)

/-- The figures of a record: `b` its statistics, `bearing` the sum of its bearing bands, `e2` the i_q energy at 2 f_e (R270). The scale of
R_OHM and the logarithm are the image's (log entry 131). -/
def State.figures (s : State) (n : AxId) (b : StatBlock) (bearing e2 : Option F32) : Figures :=
  let m := s.moni n
  let c := Nat.max 1 b.count
  let many := decide (1024 ≤ b.count)
  let mean : Frac := (b.iq, c * 32768)
  let rip := (Frac.sub (b.iqSq, c * 2 ^ 30) (mean.mul mean)).sqrt
  let slip := decide (0 < b.count) && decide (1024 * b.count ≤ b.cmd.natAbs) &&
    (s.axMode n != 3 || s.bit Fld.AX_STEPCFG_PSRC n.val)
  let foc := s.axMode n == 1
  let res := foc && m.refs.1 != 0 && decide (64 ≤ b.injCount)
  let ohm := (Frac.norm (b.inj, Nat.max 1 b.idSq.toNat)).mul (Config.image .ohms [n.val], 2 ^ 30)
  let rref := (fRat m.refs.2.1).getD (0, 1)
  let tref := (fRat m.refs.2.2).getD (0, 1)
  let temp := tref.add (((ohm.div rref).sub (1, 1)).mul (100000, 393))
  let sums : Frac := m.base.foldl (fun (a : Frac) v => Frac.add a ((fRat v).getD (0, 1))) (0, 1)
  let base := sums.mul (1, 8)
  let db (v : F32) : F32 := let q := ((fRat v).getD (0, 1)).div base; BitVec.ofInt 32 (Config.image .decibel [q.1, q.2])
  { slip := someIf slip ((Frac.sub (1, 1) (Frac.div (b.meas, 1) (b.cmd, 1))).toF32),
    ripRms := someIf many rip.toF32,
    ripRatio := someIf b.loaded (rip.div mean.abs).toF32,
    ohm := someIf res ohm.toF32,
    temp := someIf (res && decide (0 < rref.1)) temp.toF32,
    bearing := if m.base.isEmpty || !m.baselines.isEmpty then none else bearing.map db,
    asym := if foc && b.loaded then e2.map fun v => ((((fRat v).getD (0, 1)).mul (2, 1)).sqrt.div mean.abs).toF32 else none,
    iqMean := someIf many mean.toF32,
    speed := someIf many ((Frac.mul (b.meas, c * 32768) (s.vfs n)).toF32) }

/-- A figure, or 0x7FC0_0000 where it is invalid. -/
def orNan (v : Option F32) : List Byte := leBytes 4 (v.getD 0x7FC00000).toNat

/-! ## Records (R271) -/

/-- The health record of number `j` at instant `r` (Table 3), for a window that starts at `ws`, and its bearing sum. -/
def State.healthBytes (s : State) (n : AxId) (j r ws t i : Nat) : List Byte × Option F32 :=
  let m := s.moni n
  let b := (s.motion n).block j
  let g := s.windowGaps n ws t
  let old := s.castOld n t
  let bands := decide (g.2 ≤ 512)
  let es := (List.range 16).map fun k => s.bandEnergy n k ws old
  let sum := s.bearingSum n es
  let e2 := (s.binOf n ((s.rotation n ws).mul (2 * s.poles n, 1))).bind fun k => s.energy n false k ws old
  let f := s.figures n b sum e2
  let bit (c : Bool) (k : Nat) : Nat := if c then 2 ^ k else 0
  let flags := bit bands 0 + bit f.slip.isSome 1 + bit f.ohm.isSome 2 + bit f.bearing.isSome 3 + bit f.asym.isSome 4 +
    bit (s.speedVaries n ws r) 5 + bit g.1 6 + bit (decide (r < m.levelDt + i)) 7
  (leBytes 2 n.val ++ leBytes 2 flags ++ leBytes 4 j ++ leBytes 8 r ++ leBytes 4 b.count ++
    [BitVec.ofNat 8 (s.fld Fld.GLB_MON_STAT_LEVEL), BitVec.ofNat 8 m.shape.2] ++ leBytes 2 m.shape.1 ++ leBytes 4 (s.gridNs n) ++
    orNan f.slip ++ orNan f.ripRms ++ orNan f.ripRatio ++ orNan f.ohm ++ orNan f.temp ++ orNan f.bearing ++ orNan f.asym ++
    orNan f.iqMean ++ orNan f.speed ++ es.flatMap orNan, sum)

/-- A health record leaves for the event ring of the function that issued MON_CFG (R271, R327): 128 bytes and 12 zeros. -/
def State.healthRecord (s : State) (e : EngId) (n : AxId) : State :=
  let m := s.moni n
  let t := (s.eng e).port.dt.toNat
  match m.issuer, s.recordDue n t with
  | some c, some (j, r, ws, i) =>
    let h := s.healthBytes n j r ws t i
    let s := (s.countSat Fld.AX_MONSTAT_RECS n.val).setMoni n { m with lastRec := some r }
    let s := s.queueEvent c.fn ⟨0x0010, padTo 140 h.1⟩
    match h.2 with
    | some v => s.feedBaseline n v
    | none => s
  | _, _ => s

end Sys2Proof.Machine
end

