-- ==== Sys2Proof/Machine/Handler.lean ====
section
/-! DEFINITION. Handler entry (02_engines.md R75 to R78) and what the vendor images do in a run: the axis
image's loops, Casts, trajectory points, stalls, capture entries and health records. -/

namespace Sys2Proof.Machine

/-- The engine runs an image that serves axis `n` itself. A STANDBY engine's stores reach nothing (R436). -/
def State.servesAxis (s : State) (e : EngId) (n : AxId) : Bool :=
  s.engState e == .running && s.engRole e == 1 && (s.eng e).curAxis == n

/-- The engine is the trajectory engine of the axis (R223), and a group engine that runs. -/
def State.trajects (s : State) (e : EngId) (n : AxId) : Bool :=
  s.engState e == .running && s.engRole e == 2 && s.fld Fld.AX_MOTCFG_TRAJ_ENG n.val == e.val

/-- The engine monitors the axis (R272). -/
def State.monitors (s : State) (e : EngId) (n : AxId) : Bool :=
  s.engState e == .running && s.bit Fld.AX_MONSTAT_ACTIVE n.val && s.fld Fld.AX_MONSTAT_MON_ENG n.val == e.val

/-- The engine is in the handler of a kind. -/
def State.inHandler (s : State) (e : EngId) (k : EvKind) : Bool := (s.eng e).handler == some k

/-- The engine follows axis `n` in STANDBY (R436). -/
def State.standsBy (s : State) (e : EngId) (n : AxId) : Bool := s.engState e == .standby && (s.eng e).curAxis == n

/-- One half of the Cast (R425, Table 1 of 15_failover.md): FRAME first, MARK last; a torn one has its FRAME only (R426). FMT and STATE of an
FOC axis are those of Table 2; the formats of the other images are their own, and their STATE is a free value. -/
def State.writeCast (s : State) (e : EngId) (n : AxId) (torn : Bool) : State :=
  let p := (s.eng e).port
  let f := p.frame.toNat
  let h := f / (s.cdiv n * s.divI) % 2
  let img := match s.store.axisImage n with | some l => imageCrc l | none => 0
  let foc := s.axMode n == 1
  let fmt : Byte := if foc then 1 else if s.axMode n = 2 then 2 else 3
  let state := if foc then (s.motion n).loops.castState else (List.range 26).flatMap fun i => leBytes 4 (Config.freeWord (s.free + i)).toNat
  let s : State := if foc then s else { s with free := s.free + 26 }
  let half := leBytes 4 f ++ leBytes 2 p.seq.toNat ++ [fmt, 0] ++ leBytes 8 (s.sampleDt n) ++ padTo 104 state ++
    leBytes 4 img ++ leBytes 4 (f ^^^ 0xA5A5A5A5)
  let x := s.ax n
  s.setAx n { x with win := Mem.storeBytes x.win (0x80 * h) (if torn then half.take 4 else half) }

/-! ## The trajectory image (R225 to R247) -/

/-- The first motion of its master gives a gear its direction (R238). -/
def State.gearDir (s : State) (n : AxId) (f : BitVec 32) (ts : Nat) : State :=
  let m := s.motion n
  match m.head, m.loops.gear with
  | some q, some g =>
    match masterOf q.cmd with
    | some (src, k) =>
      match s.master src k f ts with
      | some x =>
        if g.dir = 0 then s.setMotion n { m with loops := { m.loops with gear := some { g with dir := (x.pos256 - g.m0).sign } } } else s
      | none => s
    | none => s
  | _, _ => s

/-- Profiles that begin with a point and not with a command: the ramp after the loss of the shaft (R247), the stop of a virtual axis
(R242), and the last move of a HOME, at V_HOME to HOME_POS − BACKOFF × sign(direction) (R259). -/
def State.startRamp (s : State) (n : AxId) (f : BitVec 32) (t ts : Nat) : State :=
  let m := s.motion n
  let put (p : Plan) : State := s.setMotion n { m with plan := some p, losing := none }
  let newest : RefMark := m.refs.headD { frame := f, pos := m.refPos, vel := (0, 1), acc := (0, 1) }
  let virt := s.bit Fld.AX_MOTCFG_VIRT n.val
  if virt && s.axState n == .stopping && m.plan.isNone then
    let r : RefMark := { newest with vel := Frac.mul ((s.ax n).speedRef, 32768) (s.vfs n), acc := (0, 1) }
    put (planVel r (0, 1) (s.fullDecel n (s.decelMs n)) none t)
  else match m.losing with
  | some cmd =>
    let k := (s.gearedKin n cmd f ts).getD ⟨Frac.ofInt m.refPos, (0, 1), (0, 1)⟩
    put (planVel { frame := f, pos := k.pos.whole, vel := k.vel, acc := (0, 1) } (0, 1)
      (s.fullDecel n (s.fld Fld.AX_MOTCFG_SH_DECEL_MS n.val)) none t)
  | none =>
    match m.head with
    | some q =>
      match q.cmd, q.ended, m.plan with
      | .home _ rev _ vHome homePos backoff _, some _, some p =>
        if p.target.isSome || s.homeWaits n q then s else
        let r : RefMark := { frame := f, pos := (s.fbk n).pos.toInt, vel := (0, 1), acc := (0, 1) }
        let l := { s.limitsOf n q.cmd m.lim with v := limitOf vHome }
        put (planTo r (homePos - (if rev then -(backoff : Int) else backoff)) l t)
      | _, _, _ => s
    | none => s

/-- Q1.15 of a full scale. -/
def ofScale (v full : Frac) : Int := q15 (Frac.whole ((v.mul (32768, 1)).div full))

/-- The trajectory image's point of this period (R225): for the axis frame 2 × D_P frames after the period's start, or the frame of a guest's position loop that follows it (R438), in its slot. The
point that ends a MOVE_ABS or HOME carries END (R234); a profile that stops beyond its target is reported (R233). With GRP_INT = 1 the
engine fills the step ring (R255). A master is taken at the expected sample instant of the frame served: that of the frame in progress
(R239, R245; log entry 130). -/
def State.putPoint (s : State) (e : EngId) (n : AxId) : State :=
  let p := (s.eng e).port
  let lead := (2 * s.divP + s.guestShift n) * s.cdiv n
  let f := p.frame + BitVec.ofNat 32 lead
  let b := p.dt.toNat + 4 * s.axOffset n
  let t := b + 4 * (lead * (s.bnk n.bank).period)
  let ts := t + 4 * (s.samplePlan n).1
  let s := s.applyLims n p.frame b (s.bnk n.bank).frameTick
  let s := (s.gearDir n f ts).startRamp n f t ts
  let r := s.reference n f t ts
  let k := r.1
  let pos := k.pos.whole
  let velQ := ofScale k.vel (s.vfs n)
  let accQ := ofScale k.acc (s.afs n)
  let slot := leBytes 4 f.toNat ++ leBytes 4 (if r.2 then 3 else 1) ++ leInt 8 pos ++ leInt 2 velQ ++ leInt 2 accQ ++ leBytes 12 0
  let x := s.ax n
  let virt := s.bit Fld.AX_MOTCFG_VIRT n.val
  let s := s.setAx n { x with win := Mem.storeBytes x.win (0x200 + 0x20 * s.trajSlot n f) slot,
                              speedRef := if virt then velQ else x.speedRef }
  let m := s.motion n
  let mark : RefMark := { frame := f, pos := pos, vel := k.vel, acc := k.acc }
  let shot := match m.plan with | some q => q.overshoot && m.absHead | none => false
  let dist := match m.plan with | some q => (q.at t).pos.twoWord | none => (0, 0)
  let s := s.setMotion n { m with refPos := pos, refVel := k.vel.toF32, refs := (mark :: m.refs).take 4, dist := dist,
                                  plan := m.plan.map fun q => { q with ended := q.ended || r.2 } }
  let s := if shot then s.markEnd n (BitVec.ofNat 8 flOvershoot) 0 else s
  if s.axMode n = 3 && s.axState n == .run && s.bit Fld.AX_STEPCFG_GRP_INT n.val then
    s.fillRing n k.vel (s.axPeriod n * s.divP) 16
  else s

/-- How many AXIS_REF masters stand before an axis in its chain (R237). -/
def State.gearDepth (s : State) (n : AxId) : Nat → Nat
  | 0 => 0
  | k + 1 =>
    match (s.motion n).head with
    | some q =>
      match masterOf q.cmd with
      | some (src, m) => if h : src = 0 ∧ m.toNat < 48 then s.gearDepth ⟨m.toNat, h.2⟩ k + 1 else 0
      | none => 0
    | none => 0

/-- A period of the trajectory image: a point for each axis it serves that is not OFF, AXIS_REF masters before their slaves (R225,
R237). -/
def State.trajRun (s : State) (e : EngId) : State :=
  let served := (allFin 48).filter fun n => s.trajects e n && s.axState n != .off
  forAll ((List.range 48).flatMap fun k => served.filter fun n => s.gearDepth n 47 == k) (fun s n => s.putPoint e n) s

/-! ## Runs of the images -/

/-- The end of a sample run of the axis image: its commit, then the half of the Cast (R125, R425). A STANDBY engine commits, to be discarded,
and writes no Cast (R436). -/
def State.runEnd (s : State) (e : EngId) (reach : RunReach) : State :=
  let n := (s.eng e).curAxis
  let serves := s.servesAxis e n
  if reach = .entry || !(serves || s.standsBy e n) then s else
  let s := s.imageCommit e n
  if reach = .commit || !serves then s else s.writeCast e n (reach == .torn)

/-- A run of a handler: the sample handler of the engine that serves an axis makes the run of R126, with its end, and its release handler
the capture of R262; the release handler of a group engine makes the points of R225 and the records of R271. -/
def State.imageRun (s : State) (e : EngId) (reach : RunReach) : State :=
  let n := (s.eng e).curAxis
  let s := if s.servesAxis e n && s.inHandler e .sample then s.axisRun e n else s
  let s := if s.inHandler e .sample then s.runEnd e reach else s
  let s := if s.servesAxis e n && s.inHandler e .release then s.captureGrid n (s.eng e).port.vms.toInt else s
  if s.inHandler e .release then
    forAll ((allFin 48).filter fun n => s.monitors e n) (fun s n => s.healthRecord e n) (s.trajRun e)
  else s

/-- HANDLER_ENTRY: the switch from background code to the handler of the highest event that the guard allows (R76, R77,
R80), or the first step of a handler that RETE chained to. The switch takes its second step here, which is the second step of a taken
branch where one is in the slot. A WAIT, or a long access without a grant, is in progress in the first step: both steps pass here, the
access is abandoned (R63), and either is reissued on return (R78, R122). An RPT body and its repeats are not interrupted. -/
def execHandlerEntry (e : EngId) (reach : RunReach) (s : State) : Out :=
  .next (
    if !s.engRuns e || decide (s.tick < (s.eng e).runFrom) then s else
    let x := s.eng e
    match x.handler with
    | some _ => if x.chained then (s.setEng e { x with chained := false }).imageRun e reach else s
    | none =>
      if x.rpt.isSome then s else
      match s.nextEvent e with
      | none => s
      | some k =>
        let n := if x.long.isSome || x.waitPc.isSome then 2 else 1
        let s := (s.setEng e { x with long := none, retPc := x.waitPc.getD x.pc, held := 0, waitPc := none }).steps e x.pc n
        let s := (s.setEng e ((s.eng e).enter k)).setBit Fld.ENG_STAT_BK e.val true
        s.imageRun e reach)

/-! ## Deliveries of axis commands (04_axis_control.md R142 to R147) -/

/-- The device writes a record of 32 bytes into the next of the 8 mailbox slots (R57). The spec gives the record no layout:
its bytes are free values. -/
def State.placeRecord (s : State) (n : AxId) : State :=
  let x := s.ax n
  let a := 0x100 + 32 * (x.mailIdx % 8)
  let w := (List.range 8).foldl (fun w i => Mem.store w (a + 4 * i) 4 (Config.freeWord (s.free + i)).toNat) x.win
  let s : State := { s with free := s.free + 8 }
  s.setAx n { x with win := w, mailIdx := x.mailIdx + 1 }

/-- A record enters the mailbox at a delivery; at a boundary of the engine's period the host event follows, unless it has
been raised there for records that waited before (Table 6 of 02_engines.md). -/
def State.mailIn (s : State) (n : AxId) (waited : Bool) : State :=
  let s := s.placeRecord n
  let x := s.ax n
  if !waited && x.framed && x.frameTick == s.tick && s.currentLoopFrame n x.frameNo then s.hostEvents n else s

/-- A record other than a coefficient that is delivered at `d`, the B_n of axis frame `f`, leaves the mailbox model of admission at the
end of the second period T of the axis engine from there on; a period begins at each current-loop boundary (R87, R303). -/
def State.mailLeaves (s : State) (n : AxId) (d : Nat) (f : BitVec 32) : Nat :=
  let k := f.toNat / s.cdiv n
  d + 4 * s.axPeriod n * ((s.divI - k % s.divI) % s.divI + 2 * s.divI)

/-- The mailbox model of admission takes a record other than a coefficient, delivered at `d`, and those that have left it go. -/
def State.noteOther (s : State) (n : AxId) (d : Nat) : State :=
  let x := s.ax n
  s.setAx n { x with mailOther := x.mailOther.filter (fun t => decide (d < t)) ++ [s.mailLeaves n d x.frameNo] }

/-- A safety function holds the axis (R408): SAF_HOLD shows it. -/
def State.safetyHolds (s : State) (n : AxId) : Bool :=
  if n.val < 32 then (s.word .SAF_HOLD_LO).getLsbD n.val else (s.word .SAF_HOLD_HI).getLsbD (n.val - 32)

/-- AXIS_ENABLE on meets an axis that may go to RUN (Table 6, R408): IDLE with 32 offset conversions (a virtual axis has
none to take), or HOLD; no safety function holds it. -/
def State.canRun (s : State) (n : AxId) : Bool :=
  !s.safetyHolds n && (match s.axState n with
    | .idle => s.bit Fld.AX_MOTCFG_VIRT n.val || decide (32 ≤ (s.ax n).ofsCount)
    | .hold => true
    | _ => false)

/-- AXIS_ENABLE at its delivery (R145, R147): on leads from IDLE or HOLD to RUN, off stops a RUN or HOLD axis with STOP_RAMP
and leads from SAFE to IDLE while no demand is active. Anything else is NO_CHANGE. DONE reports the state found. -/
def execAxisEnable (src : CmdSrc) (n : AxId) (on : Bool) (s : State) : Out :=
  .next (s.deliver src (.axisEnable n on) fun s d =>
    let found := (s.axState n).data
    let done (s : State) (flags : Nat) : State := s.complete src .done 0 flags found d
    if on then
      if s.canRun n then
        done ((s.setAx n { s.ax n with ofsPend := none }).enterRun n) 0
      else done s flNoChange
    else
      match s.axState n with
      | .run => done (s.startStop n .ramp 0) 0
      | .hold => done (s.startStop n .ramp 0) 0
      | .safe => if s.bit Fld.AX_STATE_WC_ACTIVE n.val then done s flNoChange else done (s.enterIdle n 0) 0
      | _ => done s flNoChange)

/-- AXIS_HOLD at its delivery (R145, R147): STOP_RAMP_HOLD from RUN, which ends at once from standstill. -/
def execAxisHold (src : CmdSrc) (n : AxId) (s : State) : Out :=
  .next (s.deliver src (.axisHold n) fun s d =>
    let found := (s.axState n).data
    if s.axState n = .run then (s.startStop n .rampHold 0).complete src .done 0 0 found d
    else s.complete src .done 0 flNoChange found d)

/-- WC_CLEAR at its delivery: DESAT and HOC demands are cleared, but nothing while the cause of either is present (R186). -/
def execWcClear (src : CmdSrc) (n : AxId) (s : State) : Out :=
  .next (s.deliver src (.wcClear n) fun s d =>
    let found := (s.axState n).data
    let s := s.withDemands n 1 fun q =>
      if q.desatLive || q.hocLive then q else { q with desat := false, hoc := false }
    s.complete src .done 0 0 found d)

/-- A command record is discarded at its delivery: the axis has no running engine, and 8 records already wait (R435). -/
def State.mailFull (s : State) (n : AxId) : Bool :=
  let m := s.motion n
  (match s.axisEngine n with
   | some e => s.engState e != .running
   | none => true) &&
  decide (8 ≤ (s.ax n).mail.length + m.limPend.length + m.stepCfgPend.length)

/-- SET_COEF at its delivery: the record enters the mailbox (R142), or, delivered in OFF or to a full one, is discarded (R323, R435). -/
def execSetCoef (src : CmdSrc) (n : AxId) (id : BitVec 8) (value : BitVec 32) (s : State) : Out :=
  .next (s.deliver src (.setCoef n id value) fun s d =>
    if s.axState n = .off || s.mailFull n then s.cancelAxis src n d else
    let waited := s.mailWaits n
    let x := s.ax n
    (s.setAx n { x with mail := x.mail ++ [{ src := src, cmd := .setCoef n id value, at_ := s.tick }] }).mailIn n waited)

/-- MOVE_LIM at its delivery: its record waits for the next position-loop boundary, or NO_MOVE (R235). -/
def execMoveLim (src : CmdSrc) (n : AxId) (v a d j : F32) (s : State) : Out :=
  .next (s.deliver src (.moveLim n v a d j) fun s dt =>
    if (s.motion n).limApplies && s.mailFull n then s.cancelAxis src n dt
    else if (s.motion n).limApplies then
      let waited := s.mailWaits n
      let m := s.motion n
      let s := s.setMotion n { m with limPend := m.limPend ++ [{ src := src, cmd := .moveLim n v a d j, at_ := s.tick }] }
      ((s.noteOther n dt).mailIn n waited).tellGroup (s.fld Fld.AX_MOTCFG_TRAJ_ENG n.val)
    else s.doneAxis src n dt flNoMove)

/-- STEP_CFG at its delivery (R256): it waits for the first run; in a state other than IDLE or HOLD it is cancelled. -/
def execStepCfg (src : CmdSrc) (n : AxId) (stallN : BitVec 8) (iRun iHold holdMs stallTh : BitVec 16) (stallVmin : F32)
    (s : State) : Out :=
  .next (s.deliver src (.stepCfg n stallN iRun iHold holdMs stallTh stallVmin) fun s dt =>
    if s.mailFull n then s.cancelAxis src n dt
    else if s.axState n = .idle ∨ s.axState n = .hold then
      let waited := s.mailWaits n
      let m := s.motion n
      let r : MailRec := { src := src, cmd := .stepCfg n stallN iRun iHold holdMs stallTh stallVmin, at_ := s.tick }
      ((s.setMotion n { m with stepCfgPend := m.stepCfgPend ++ [r] }).noteOther n dt).mailIn n waited
    else s.cancelAxis src n dt)

/-- POS_PRELOAD takes effect at its delivery instant (R210). -/
def execPosPreload (src : CmdSrc) (n : AxId) (pos : Int) (s : State) : Out :=
  .next (s.deliver src (.posPreload n pos) fun s d => (s.setPosition s.tick n (BitVec.ofInt 48 pos)).doneAxis src n d)

/-- GROUP_STOP (R319): the stop of each axis of MASK starts at its first B_n at or after D. -/
def execGroupStop (src : CmdSrc) (mask : BitVec 48) (cat : StopCat) (s : State) : Out :=
  .next (s.deliver src (.groupStop mask cat) fun s d =>
    let s := forAll ((allFin 48).filter fun n => mask.getLsbD n.val) (fun s n =>
      let x := s.ax n
      if x.framed && x.frameTick == s.tick then s.startStop n cat 0
      else s.requestStop n cat 0 s.tick) s
    s.complete src .done 0 0 [] d)

/-- SNAPSHOT (R212, R327): counter and ANGLE of every axis that the issuer owns, captured in one tick. -/
def execSnapshot (src : CmdSrc) (s : State) : Out :=
  .next (s.deliver src .snapshot fun s d =>
    let pos := (allFin 48).flatMap fun n =>
      if s.axisOwner n = src.fn then leBytes 6 (s.fbk n).pos.toNat ++ leBytes 2 (s.angle n) else leBytes 8 0
    (s.queueEvent src.fn ⟨0x0011, leBytes 8 d ++ pos⟩).complete src .done 0 0 [14] d)

/-- PO_SET (R221). -/
def execPoSet (src : CmdSrc) (k : BitVec 8) (n m : BitVec 16) (s : State) : Out :=
  .next (s.deliver src (.poSet k n m) fun s d =>
    let s := if h : k.toNat < 6 then s.applyPoSet ⟨k.toNat, h⟩ n.toNat m.toNat else s
    s.complete src .done 0 0 [] d)

/-- An image goes to the image store and is copied into an engine, which is zeroed first unless it is OFF or IDLE (R84, R94,
R97). A meter that does not run starts with the engine's power-up (R32). -/
def State.startCopy (s : State) (e : EngId) (src : Option CmdSrc) (image : List Byte) : State :=
  let x := s.eng e
  -- A load that this one overtakes ends without effect.
  let s := match x.prep with
    | some (.copying (some c)) => s.complete c .cancelled
    | _ => s
  let clean := s.engState e == .off || s.engState e == .idle || x.prep == some .zeroing
  let start := Nat.max s.tick (if x.prep.isSome then x.prepDue else s.tick) + (if clean then 0 else 400)
  let s := s.setEng e { x.zero with prep := some (.copying src), prepDue := start + 800, copyImg := image,
                                    meterFrom := some (x.meterFrom.getD s.tick) }
  s.setEngState e .clearing

/-- ENG_LOAD at its delivery. -/
def execEngLoad (src : CmdSrc) (m : BitVec 8) (image : List Byte) (s : State) : Out :=
  .next (s.deliver src (.engLoad m image) fun s d =>
    if h : m.toNat < 64 then s.startCopy ⟨m.toNat, h⟩ (some src) image
    else s.complete src .cancelled 0 0 [] d)

/-- ENG_START at its delivery: a LOADED engine starts; one whose copy is still under way starts when it is LOADED; any other
is left as it is. -/
def execEngStart (src : CmdSrc) (m : BitVec 8) (s : State) : Out :=
  .next (s.deliver src (.engStart m) fun s d =>
    if h : m.toNat < 64 then
      let e : EngId := ⟨m.toNat, h⟩
      match (s.eng e).prep with
      | some (.copying _) =>
        if (s.eng e).wantStart.isSome then s.complete src .cancelled 0 0 [] d
        else s.setEng e { s.eng e with wantStart := some (some src) }
      | _ => if s.engState e = .loaded then s.startEngine e (some src) else s.complete src .cancelled 0 0 [] d
    else s.complete src .cancelled 0 0 [] d)

end Sys2Proof.Machine
end

