-- ==== Sys2Proof/Machine/Dio.lean ====
section
/-! DEFINITION. Field inputs and outputs (13_dio.md R375 to R391). -/

namespace Sys2Proof.Machine

/-! ## Channels and groups (R375 to R379) -/

/-- DIO_CHn_CFG.MODE of a channel: 0b11 is taken as 0b00. -/
def State.dioMode (s : State) (d : DioId) : Nat :=
  let m := s.fld Fld.DIO_CHn_CFG_MODE d.val
  if m = 3 then 0 else m

/-- GANG of a channel: 0b11 is taken as 0b00. -/
def State.dioGang (s : State) (d : DioId) : Nat :=
  let g := s.fld Fld.DIO_CHn_CFG_GANG d.val
  if g = 3 then 0 else g

/-- Channels of a group of size code `g` led by `d` (R378). -/
def gangOf (d : DioId) (g : Nat) : List DioId :=
  let n := match g with | 1 => 2 | 2 => 4 | _ => 1
  (allFin 48).filter fun x => decide (d.val ≤ x.val) && decide (x.val < d.val + n)

/-- `d` may lead a group of size code `g`. -/
def gangLead (d : DioId) (g : Nat) : Bool :=
  match g with | 1 => d.val % 2 == 0 | 2 => d.val % 4 == 0 | _ => true

/-- The channel whose configuration drives `d`: its group's lead, or itself. -/
def State.dioLead (s : State) (d : DioId) : DioId :=
  if s.dioMode d ≠ 2 then d else
  match (allFin 48).find? fun l => s.dioMode l == 1 && s.dioGang l != 0 && (gangOf l (s.dioGang l)).contains d with
  | some l => l
  | none => d

/-- An output channel that is driven by itself: a single output or the lead of a group. -/
def State.dioIsOut (s : State) (d : DioId) : Bool := s.dioMode d == 1

/-- The safe state of an output: false OFF, true ON, or the state held (R386). -/
def State.dioSafe (s : State) (d : DioId) : Bool :=
  match s.fld Fld.DIO_CHn_CFG_SAFE d.val with
  | 1 => true
  | 2 => (s.chan d).hold
  | _ => false

/-- Thermal shutdown of any member turns the whole group off (R379). -/
def State.dioTsd (s : State) (d : DioId) : Bool :=
  (gangOf d (s.dioGang d)).any fun x => s.bit Fld.DIO_CHn_STAT_TSD x.val

/-- What drives an output, in the order of R381. -/
def State.dioDrive (s : State) (d : DioId) : Bool :=
  if s.dio.uv || s.bit Fld.DIO_GSTAT_TOTAL then false
  else if s.dioTsd d then false
  else if s.bit Fld.DIO_CHn_STAT_SAFE_ACT d.val then s.dioSafe d
  else if s.dio.shed && s.bit Fld.DIO_CHn_CFG_SHED d.val then false
  else (s.chan d).image

/-- LEVEL of a channel, in its own register and in DIO_IN. -/
def State.showLevel (s : State) (d : DioId) (v : Bool) : State :=
  let s := s.setBit Fld.DIO_CHn_STAT_LEVEL d.val v
  let put (w : Word) (i : Nat) : Word := if v then w ||| BitVec.ofNat 32 (2 ^ i) else w &&& ~~~BitVec.ofNat 32 (2 ^ i)
  if d.val < 32 then s.setWord .DIO_IN_LO 0 0 (put (s.word .DIO_IN_LO) d.val)
  else s.setWord .DIO_IN_HI 0 0 (put (s.word .DIO_IN_HI) (d.val - 32))

/-- Drive every output as R381 says; the members of a group switch with their lead (R379). No limit acts on an output that is off. -/
def State.refreshOutputs (s : State) : State :=
  forAll (allFin 48) (fun s d =>
    let m := s.dioMode d
    if m = 0 then s else
    let v := (m == 1 || s.dioLead d != d) && s.dioDrive (s.dioLead d)
    let x := s.chan d
    if x.driven = v ∧ s.bit Fld.DIO_CHn_STAT_LEVEL d.val = v then s
    else
      let s := (s.setChan d { x with driven := v }).showLevel d v
      if v then s else s.setBit Fld.DIO_CHn_STAT_ILIM d.val false) s

/-- DIO_OUT shows the output images. -/
def State.showImage (s : State) (d : DioId) (v : Bool) : State :=
  let put (w : Word) (i : Nat) : Word := if v then w ||| BitVec.ofNat 32 (2 ^ i) else w &&& ~~~BitVec.ofNat 32 (2 ^ i)
  let s := s.setChan d { s.chan d with image := v }
  if d.val < 32 then s.setWord .DIO_OUT_LO 0 0 (put (s.word .DIO_OUT_LO) d.val)
  else s.setWord .DIO_OUT_HI 0 0 (put (s.word .DIO_OUT_HI) (d.val - 32))

/-! ## Safe states and watchdogs (R385, R386) -/

/-- DIO_WDG.TMO_MS in ticks: 0 is taken as 1 ms, values above 1,000 as 1,000 ms. -/
def State.dioTmo (s : State) : Nat := Nat.min 1000 (Nat.max 1 (s.fld Fld.DIO_WDG_TMO_MS)) * 250000

/-- An output enters its safe state for the first time since it left it; the record goes to its owner (R386). -/
def State.enterSafeOut (s : State) (d : DioId) (cause : Nat) : State :=
  if !s.dioIsOut d || s.bit Fld.DIO_CHn_STAT_SAFE_ACT d.val then s else
  let s := s.setChan d { s.chan d with hold := (s.chan d).driven }
  let s := s.setBit Fld.DIO_CHn_STAT_SAFE_ACT d.val true
  let code := s.fld Fld.DIO_CHn_CFG_SAFE d.val
  (s.event (s.dioOwner d) 0x003A d.val cause [BitVec.ofNat 8 (if code = 3 then 0 else code)]).refreshOutputs

/-- The command watchdog of an output expires (R385). -/
def State.expireCmd (s : State) (d : DioId) : State :=
  match (s.chan d).cmdDue with
  | some t =>
    if t ≤ s.tick ∧ s.dioIsOut d ∧ s.bit Fld.DIO_CHn_CFG_WD_CMD d.val then
      (s.setChan d { s.chan d with cmdDue := none }).enterSafeOut d 2
    else s
  | none => s

/-! ## Deliveries and events of outputs -/

/-- DIO_SET (R380 to R386): the image of every channel of MASK takes its bit of VALUE; a 0 clears TSD, with the record of its
end; the output leaves its safe state unless a link timeout is in force; the command watchdog restarts. A watchdog that
expires in this tick comes first. -/
def execDioSet (src : CmdSrc) (mask value : BitVec 48) (s : State) : Out :=
  .next (s.deliver src (.dioSet mask value) fun s d =>
    let s := forAll ((allFin 48).filter fun c => mask.getLsbD c.val) (fun s c =>
      let s := s.expireCmd c
      let v := value.getLsbD c.val
      let s := s.showImage c v
      let s := if v then s else
        forAll ((gangOf c (s.dioGang c)).filter fun m => s.bit Fld.DIO_CHn_STAT_TSD m.val) (fun s m =>
          (s.setBit Fld.DIO_CHn_STAT_TSD m.val false).event (s.dioOwner c) 0x0039 m.val (4 + 256)) s
      let s := if s.dio.linkTo then s else s.setBit Fld.DIO_CHn_STAT_SAFE_ACT c.val false
      let due := if s.bit Fld.DIO_CHn_CFG_WD_CMD c.val then some (s.tick + s.dioTmo) else none
      s.setChan c { s.chan c with cmdDue := due }) s
    s.refreshOutputs.complete src .done 0 0 [] d)

/-- A channel's switch reaches its thermal shutdown threshold (R382). -/
def execDioChannelTsd (d : DioId) (s : State) : Out :=
  .next (
    if s.dioMode d = 0 ∨ s.bit Fld.DIO_CHn_STAT_TSD d.val then s else
    let s := s.setBit Fld.DIO_CHn_STAT_TSD d.val true
    (s.event (s.dioOwner (s.dioLead d)) 0x0039 d.val 4).refreshOutputs)

/-- The currents are measured: ILIM shows the outputs whose limit acts (R382), and I_TOTAL is updated; a sum above 12 A in every update for
5 ms turns every output off (R383). -/
def execDioCurrentUpdate (total : Nat) (limited : BitVec 48) (s : State) : Out :=
  .next (
    let s := forAll ((allFin 48).filter fun d => s.dioMode d != 0) (fun s d =>
      s.setBit Fld.DIO_CHn_STAT_ILIM d.val (limited.getLsbD d.val && (s.chan d).driven)) s
    let s := s.setFld Fld.DIO_GSTAT_I_TOTAL 0 (Nat.min (total / 10) 0xFFFF)
    if total ≤ 12000 then { s with dio := { s.dio with total := total, overSince := none } } else
    let since := s.dio.overSince.getD s.tick
    let s : State := { s with dio := { s.dio with total := total, overSince := some since } }
    if s.bit Fld.DIO_GSTAT_TOTAL || decide (s.tick < since + 1250000) then s else
    let s := s.setBit Fld.DIO_GSTAT_TOTAL 0 true
    (s.event 0 0x003B 0 0 (leBytes 4 total)).refreshOutputs)

/-- TOTAL is cleared: the outputs return. -/
def State.endTotal (s : State) : State :=
  let s := s.setBit Fld.DIO_GSTAT_TOTAL 0 false
  { s with dio := { s.dio with overSince := none } }.refreshOutputs

/-- F0 clears TOTAL by writing 1 to it (R383). -/
def execDioTotalClear (fn : FnId) (s : State) : Out :=
  .next (s.setupGate fn State.endTotal)

/-- The open-load timer of an output sets or clears OPEN (R384); detection is suspended while UV is 1 (R390). -/
def execDioOpenLoad (d : DioId) (open_ : Bool) (s : State) : Out :=
  .next (
    if s.dioMode d = 0 ∨ !s.bit Fld.DIO_CHn_CFG_WB_EN (s.dioLead d).val ∨ s.dio.uv ∨
       s.bit Fld.DIO_CHn_STAT_OPEN d.val = open_ ∨ (open_ ∧ !(s.chan d).driven) then s else
    (s.setBit Fld.DIO_CHn_STAT_OPEN d.val open_).event (s.dioOwner (s.dioLead d)) 0x0039 d.val
      (if open_ then 2 else 2 + 256))

/-- The wire-break timer of an input sets or clears BREAK (R389). -/
def execDioWireBreak (d : DioId) (broken : Bool) (s : State) : Out :=
  .next (
    if s.dioMode d ≠ 0 ∨ !s.bit Fld.DIO_CHn_CFG_WB_EN d.val ∨ s.dio.uv ∨
       s.bit Fld.DIO_CHn_STAT_BREAK d.val = broken then s else
    (s.setBit Fld.DIO_CHn_STAT_BREAK d.val broken).event (s.dioOwner d) 0x0039 d.val (if broken then 1 else 1 + 256))

/-- A refresh reaches the field I/O die and ends a link timeout; none is sent while a reset is in progress (R385, R386). -/
def execDioLinkRefresh (s : State) : Out :=
  .next (
    match s.pwr.phase with
    | .booting => { s with dio := { s.dio with linkTo := false, lastRefresh := s.tick } }
    | .ready => { s with dio := { s.dio with linkTo := false, lastRefresh := s.tick } }
    | _ => s)

/-- No refresh has arrived for TMO_MS: every output enters its safe state (R385). -/
def execDioLinkTimeout (s : State) : Out :=
  .next (
    if s.dio.linkTo ∨ s.tick < s.dio.lastRefresh + s.dioTmo then s else
    let s : State := { s with dio := { s.dio with linkTo := true } }
    let s := s.setBit Fld.DIO_GSTAT_LINK_TO 0 true
    forAll (allFin 48) (fun s d => s.enterSafeOut d 1) s)

/-- The command watchdog of a channel expires (R385). -/
def execDioCmdTimeout (d : DioId) (s : State) : Out := .next (s.expireCmd d)

/-- A filter run of an input starts with the stamp of this tick. -/
def Dio.startRun (x : Dio) (now tick : Nat) : Dio :=
  { x with runFrom := some tick, stamp := some (x.stamp.getD now) }

/-- VIO24 has been low for 1 ms, or good again for 10 ms (R390). While UV is 1 no input change is stamped or accepted; an
input whose comparator differs from its level when UV clears starts a new filter run. -/
def execDioUv (active : Bool) (s : State) : Out :=
  .next (
    if s.dio.uv = active then s else
    let s : State := { s with dio := { s.dio with uv := active } }
    let s := s.setBit Fld.DIO_GSTAT_UV 0 active
    let s := forAll (allFin 48) (fun s d =>
      let x := { s.chan d with runFrom := none, stamp := none }
      s.setChan d (if !active && s.dioMode d == 0 && x.comp != x.level then x.startRun s.now s.tick else x)) s
    (s.event 0 0x003C 0 (if active then 1 else 0)).refreshOutputs)

/-- Start or end of shedding by the field-output derating step (R390). -/
def State.setShed (s : State) (on : Bool) : State :=
  if s.dio.shed = on then s else
  let s : State := { s with dio := { s.dio with shed := on } }
  let s := forAll ((allFin 48).filter fun d => s.dioIsOut d && s.bit Fld.DIO_CHn_CFG_SHED d.val)
    (fun s d => s.event (s.dioOwner d) 0x003D d.val (if on then 1 else 0)) s
  s.refreshOutputs

/-! ## Configuration writes (R377, R378) -/

/-- A DIO_SET that names a channel awaits delivery. -/
def State.dioSetWaits (s : State) (d : DioId) : Bool :=
  s.accepted.any fun a => match a.cmd with
    | .dioSet m _ => m.getLsbD d.val
    | _ => false

/-- A group is dissolved: its members return to MODE output, driving off. -/
def State.dropGang (s : State) (d : DioId) : State :=
  forAll ((gangOf d (s.dioGang d)).filter fun m => m != d) (fun s m =>
    (s.setFld Fld.DIO_CHn_CFG_MODE m.val 1).showImage m false) s

/-- A write to DIO_CHn_CFG. The word is ignored, with CFG_REJ, where MODE is written 0b10, where a group is asked for that
R378 does not allow, and where a change of MODE or GANG finds a channel of the group on or named by a waiting DIO_SET. -/
def State.writeDioCfg (s : State) (d : DioId) (v : Word) : State :=
  let rej := s.setBit Fld.DIO_CHn_STAT_CFG_REJ d.val true
  let norm (n : Nat) : Nat := if n = 3 then 0 else n
  let m := norm (Fld.DIO_CHn_CFG_MODE.get v)
  let g := norm (Fld.DIO_CHn_CFG_GANG.get v)
  let cm := s.dioMode d
  let cg := s.dioGang d
  if m = 2 then rej else
  let changes := decide (m ≠ cm ∨ g ≠ cg)
  let group := gangOf d cg ++ gangOf d g
  let free := group.all fun x => !(s.chan x).driven && !s.dioSetWaits x
  let gangOk := g == 0 || g == cg && m == 1 || (m == 1 && gangLead d g && (gangOf d g).all fun x => s.dioMode x == 1)
  if cm = 2 ∨ (changes ∧ (!free ∨ !gangOk)) then rej else
  let s := if cg ≠ g then s.dropGang d else s
  let w := Fld.DIO_CHn_CFG_GANG.ins (Fld.DIO_CHn_CFG_MODE.ins (v &&& 0x00FF03FF) m) g
  let safe := Fld.DIO_CHn_CFG_SAFE.get w
  let w := Fld.DIO_CHn_CFG_SAFE.ins w (norm safe)
  let s := s.setWord .DIO_CHn_CFG d.val 0 w
  let s := if g ≠ 0 ∧ g ≠ cg then
      forAll ((gangOf d g).filter fun x => x != d) (fun s x => s.setFld Fld.DIO_CHn_CFG_MODE x.val 2) s
    else s
  let due := if Fld.DIO_CHn_CFG_WD_CMD.get w = 1 then some (s.tick + s.dioTmo) else none
  let s := s.setChan d { s.chan d with cmdDue := due }
  let s := if m = 0 ∧ cm ≠ 0 then
      let x := { s.chan d with level := false, driven := false, runFrom := none, stamp := none }
      (s.setChan d (if x.comp && !s.dio.uv then x.startRun s.now s.tick else x)).showLevel d false
    else if m = 1 ∧ cm = 0 then s.setChan d { s.chan d with runFrom := none, stamp := none }
    else s
  s.refreshOutputs

def execDioCfgWrite (fn : FnId) (d : DioId) (value : Word) (s : State) : Out :=
  .next (s.setupGate fn fun s => s.writeDioCfg d value)

/-! ## Inputs (R387, R388) -/

/-- A comparator changes level: the transition is stamped and starts or breaks a filter run (R388). Nothing is stamped while
UV is 1 (R390) or on an output channel. -/
def execDioComparatorTransition (d : DioId) (level : Bool) (s : State) : Out :=
  .next (
    let x := s.chan d
    if x.comp = level then s else
    let x := { x with comp := level }
    s.setChan d (
      if s.dioMode d ≠ 0 ∨ s.dio.uv then x
      else if level = x.level then { x with runFrom := none }
      else x.startRun s.now s.tick))

/-- Entries of the time-stamp queue that are still there: one leaves within 2 µs of its entry, which comes within 1 µs of
acceptance; whether a younger one has left is a free value. -/
def keepStamps (tick free : Nat) : List (Nat × Bool) → List (Nat × Bool)
  | [] => []
  | e :: t => if e.1 + 750 ≤ tick ∨ Config.freeBool free then keepStamps tick (free + 1) t
              else e :: keepStamps tick (free + 1) t

/-- An input change has passed its filter and is accepted: an entry of the time-stamp queue, which the armed latch units
take, or TS_OVF (R387, R388). -/
def execDioInputEdge (d : DioId) (s : State) : Out :=
  .next (
    let x := s.chan d
    match x.runFrom with
    | none => s
    | some t =>
      if s.dioMode d ≠ 0 ∨ s.dio.uv ∨ s.tick < t + 5000 * s.fld Fld.DIO_CHn_CFG_FILT d.val then s else
      let te := x.stamp.getD s.now
      let q := keepStamps s.tick s.free x.stamps
      let room := decide (q.length < 8)
      let q' := if room then q ++ [(s.tick, x.comp)] else q
      let s : State := { s with free := s.free + x.stamps.length }
      let s := s.setChan d { x with level := x.comp, runFrom := none, stamp := none, stamps := q' }
      let s := (s.showLevel d x.comp).countSat Fld.DIO_CHn_STAT_EDGES d.val
      let s := if s.bit Fld.DIO_CHn_CFG_NOTE d.val then
          s.queueEvent (s.dioOwner d) ⟨0x0038, leBytes 8 te ++ leBytes 2 d.val ++
            leBytes 2 (if x.comp then 1 else 0) ++ padTo 16 []⟩
        else s
      if room then s.feedLatches d te (!x.comp) else s.setBit Fld.DIO_CHn_STAT_TS_OVF d.val true)

end Sys2Proof.Machine
end

