-- ==== Sys2Proof/Machine/Can.lean ====
section
/-! DEFINITION. CAN FD controllers (12_can.md R358 to R374). -/

namespace Sys2Proof.Machine

/-- CAN_STAT.MODE in force (Table 2). -/
def State.canModeNow (s : State) (c : CanId) : Nat := s.fld Fld.CAN_STAT_MODE c.val

/-- Bus-off, recovery included (R370). -/
def State.canBusOff (s : State) (c : CanId) : Bool := decide (2 ≤ s.fld Fld.CAN_STAT_ESTATE c.val)

/-- NORMAL or LOOPBACK: the modes that transmit and count errors (Table 2). -/
def canActive (m : Nat) : Bool := m == 1 || m == 4

/-- Data length that a DLC codes (ISO 11898-1:2015; PRESUMED from that standard). -/
def canLen (fdf : Bool) (dlc : Nat) : Nat :=
  if dlc ≤ 8 then dlc
  else if !fdf then 8
  else match dlc with
    | 9 => 12 | 10 => 16 | 11 => 20 | 12 => 24 | 13 => 32 | 14 => 48 | _ => 64

/-- Order of arbitration as a number, lowest first: base identifier, RTR or SRR, IDE, extension, RTR (ISO 11898-1:2015;
PRESUMED from that standard). -/
def canKey (f : CanFrame) : Nat :=
  let r := if f.rtr then 1 else 0
  if f.xtd then f.id.toNat / 2 ^ 18 * 2 ^ 21 + 3 * 2 ^ 19 + (f.id.toNat % 2 ^ 18) * 2 + r
  else (f.id.toNat % 2 ^ 11) * 2 ^ 21 + r * 2 ^ 20

/-- The waiting frame that would win arbitration among those that entered the buffer by tick `sof`; the first to enter among
equals (R364). -/
def bestFrame (l : List CanTxEnt) (sof : Nat) : Option CanTxEnt :=
  (l.filter fun e => decide (e.at_ ≤ sof)).foldl (fun (b : Option CanTxEnt) e => match b with
    | none => some e
    | some x => if canKey e.frame < canKey x.frame then some e else some x) none

/-- A frame leaves the buffer aborted: FAULT, reason CAN_ABORT (R363, R365, R370). -/
def State.abortFrame (s : State) (c : CanId) (e : CanTxEnt) : State :=
  let x := s.can c
  let s := s.setCan c { x with txBuf := x.txBuf.filter fun y => decide (y ≠ e) }
  (s.countSat Fld.CAN_CNT_TXABORT c.val).complete e.src .fault 8

def State.abortAll (s : State) (c : CanId) : State := forAll (s.can c).txBuf (fun s e => s.abortFrame c e) s

/-! ## Error state (R369, R370) -/

/-- A CAN_STATE record with the error state now shown. -/
def State.canRecord (s : State) (c : CanId) : State :=
  s.event (s.canOwner c) 0x0030 c.val
    (s.fld Fld.CAN_STAT_ESTATE c.val + (if s.bit Fld.CAN_STAT_EW c.val then 256 else 0))
    (leBytes 2 (s.fld Fld.CAN_ECNT_TEC c.val) ++ leBytes 1 (s.fld Fld.CAN_ECNT_REC c.val) ++
      leBytes 1 (s.fld Fld.CAN_STAT_ERRC c.val))

/-- Set the counters, and the error state and EW that follow (R369). Entry to bus-off aborts the transmit buffer (R370). -/
def State.setCounters (s : State) (c : CanId) (tec rec : Nat) : State :=
  let st := s.fld Fld.CAN_STAT_ESTATE c.val
  let ew := s.bit Fld.CAN_STAT_EW c.val
  let s := s.setFld Fld.CAN_ECNT_TEC c.val (Nat.min tec 511)
  let s := s.setFld Fld.CAN_ECNT_REC c.val (Nat.min rec 255)
  let st' := if 255 < tec then 2 else if 128 ≤ tec ∨ 128 ≤ rec then 1 else 0
  let ew' := decide (96 ≤ tec) || decide (96 ≤ rec)
  let s := s.setFld Fld.CAN_STAT_ESTATE c.val st'
  let s := s.setBit Fld.CAN_STAT_EW c.val ew'
  let s := if st' = 2 ∧ st ≠ 2 then
      let x := { s.can c with preBusOff := s.canModeNow c, orphan := none }
      (s.setCan c x).abortAll c
    else s
  if st = st' ∧ ew = ew' then s else s.canRecord c

/-! ## Reception (R366 to R368) -/

/-- The filter element matches the frame (Table 3). -/
def State.filterMatches (s : State) (c : CanId) (e : Nat) (f : CanFrame) : Bool :=
  let cut (v : Nat) : Nat := if f.xtd then v else v % 2 ^ 11
  let a := cut (s.fld Fld.CAN_FLTe_W0_ID1 c.val e)
  let b := cut (s.fld Fld.CAN_FLTe_W1_ID2 c.val e)
  let i := cut f.id.toNat
  s.fld Fld.CAN_FLTe_W0_XTD c.val e == (if f.xtd then 1 else 0) &&
  (match s.fld Fld.CAN_FLTe_W0_TYPE c.val e with
   | 1 => i == a || i == b
   | 2 => (i &&& b) == (a &&& b)
   | 3 => decide (a ≤ i) && decide (i ≤ b)
   | _ => false)

/-- Acceptance of a frame: the index of the deciding element, or 0xFF, if it is accepted (R366). -/
def State.canFilter (s : State) (c : CanId) (f : CanFrame) : Option Nat :=
  if f.rtr && s.bit Fld.CAN_CFG_REJ_RTR c.val then none else
  match (List.range 128).find? fun e => s.filterMatches c e f with
  | some e => if s.fld Fld.CAN_FLTe_W1_ACT c.val e = 0 then some e else none
  | none =>
    if s.bit (if f.xtd then Fld.CAN_CFG_NM_XTD else Fld.CAN_CFG_NM_STD) c.val then some 0xFF else none

/-- A received frame passes the filters into the FIFO of 64 frames, or is dropped (R367). -/
def State.canReceive (s : State) (c : CanId) (f : CanFrame) (sof : Nat) (loop : Bool) : State :=
  match s.canFilter c f with
  | none => s
  | some e =>
    let x := s.can c
    if x.rxFifo.length < 64 then
      s.setCan c { x with rxFifo := x.rxFifo ++ [{ frame := f, dt := s.dtAt sof, filt := e, loop := loop }] }
    else (s.setCan c { x with rxDrops := x.rxDrops + 1 }).countSat Fld.CAN_CNT_RXDROP c.val

/-- REC after an error-free reception: one less, and from above 127 to a free value from 119 to 127 (ISO 11898-1:2015;
PRESUMED from that standard). -/
def recAfterRx (rec free : Nat) : Nat :=
  if rec ≤ 127 then rec - 1 else 119 + Config.freeNat free % 9

/-- A frame is received from the bus (R366): in NORMAL, LISTEN_ONLY or RESTRICTED, not while bus-off; an FD frame only where
FD_EN is 1. -/
def execCanFrameRx (c : CanId) (f : CanFrame) (sof : Nat) (s : State) : Out :=
  .next (
    let m := s.canModeNow c
    if m = 0 ∨ m = 4 ∨ s.canBusOff c ∨ (f.fdf ∧ !s.bit Fld.CAN_CFG_FD_EN c.val) then s else
    let s := if m = 1 then
        let free := s.free
        { s with free := free + 1 }.setCounters c (s.fld Fld.CAN_ECNT_TEC c.val)
          (recAfterRx (s.fld Fld.CAN_ECNT_REC c.val) free)
      else s
    s.canReceive c f sof false)

/-- ID word of an entry and of a CAN_RX record (Table 4). -/
def canIdWord (f : CanFrame) : Nat :=
  f.id.toNat + (if f.xtd then 2 ^ 29 else 0) + (if f.rtr then 2 ^ 30 else 0) + (if f.fdf then 2 ^ 31 else 0)

/-- A receive buffer entry of 96 bytes (Table 4). -/
def CanRxEnt.bytes (e : CanRxEnt) (seq : Nat) : List Byte :=
  leBytes 4 seq ++ leBytes 4 (canIdWord e.frame) ++ leBytes 8 e.dt ++ [e.frame.dlc.setWidth 8] ++
    leBytes 1 ((if e.frame.brs then 1 else 0) + (if e.frame.esi then 2 else 0) + (if e.loop then 4 else 0)) ++
    leBytes 1 e.filt ++ padTo 5 [] ++ padTo 64 e.frame.data ++ leBytes 4 seq ++ padTo 4 []

/-- CAN_RXB_CFG.LOG2 as it is taken: 4 to 12 (Table 6). -/
def State.canLog2 (s : State) (c : CanId) : Nat := Nat.min 12 (Nat.max 4 (s.fld Fld.CAN_RXB_CFG_LOG2 c.val))

/-- The oldest FIFO frame is written to the owner's receive buffer (R367, R368). -/
def execCanRxWrite (c : CanId) (s : State) : Out :=
  .next (
    let x := s.can c
    let fn := s.canOwner c
    match x.rxFifo with
    | [] => s
    | e :: rest =>
      if !s.bit Fld.CAN_RXB_CFG_EN c.val || !(s.fn fn).busMaster then s else
      let i := s.fld Fld.CAN_RXB_WR_WR c.val
      let base := s.fld Fld.CAN_RXB_BASE_HI_BASE c.val * 2 ^ 32 + s.fld Fld.CAN_RXB_BASE_LO_BASE c.val * 2 ^ 12
      let addr := BitVec.ofNat 64 (base + 96 * (i % 2 ^ s.canLog2 c))
      let drops := x.rxDrops
      let s := s.setCan c { x with rxFifo := rest, rxDrops := 0 }
      let s : State := { s with hostOut := s.hostOut ++ [.canFrame fn addr (e.bytes i)] }
      let s := s.setFld Fld.CAN_RXB_WR_WR c.val (i + 1)
      let s := if drops = 0 then s else s.event fn 0x0032 c.val 0 (leBytes 4 drops)
      if s.bit Fld.CAN_CFG_RXNOTE c.val then
        s.event fn 0x0031 c.val e.filt (leBytes 4 i ++ leBytes 4 (canIdWord e.frame))
      else s)

/-! ## Transmission (R364, R365, R372) -/

/-- A frame that has used up its attempts is aborted; any other waits for its next one (R365). -/
def State.retryFrame (s : State) (c : CanId) (e : CanTxEnt) : State :=
  let n := s.fld Fld.CAN_CFG_RETRY c.val
  let x := s.can c
  if 0 < n ∧ n + 1 ≤ e.attempts + 1 then s.abortFrame c e
  else s.setCan c { x with txBuf := x.txBuf.map fun y => if y = e then { y with attempts := y.attempts + 1 } else y }

/-- The frame of a reset function was in transmission from before the reset: its attempt ends here, without retry. -/
def Can.orphanAt (x : Can) (sof : Nat) : Option CanFrame :=
  match x.orphan with
  | some (f, t) => if sof ≤ t then some f else none
  | none => none

/-- A frame is transmitted successfully: DONE with the DT of its start of frame (R365); in LOOPBACK the controller receives
it itself (R362). The loop delay of an FD frame is shown while SSP_EN is 1 (R360). -/
def execCanTxDone (c : CanId) (sof loopDly : Nat) (s : State) : Out :=
  .next (
    let m := s.canModeNow c
    if !canActive m || s.canBusOff c then s else
    let x := s.can c
    let ended : Option (CanFrame × Option CanTxEnt) := match x.orphanAt sof with
      | some f => some (f, none)
      | none => (bestFrame x.txBuf sof).map fun e => (e.frame, some e)
    match ended with
    | none => s
    | some (f, ent) =>
      let s := match ent with
        | none => s.setCan c { x with orphan := none }
        | some e => (s.setCan c { x with txBuf := x.txBuf.filter fun y => decide (y ≠ e) }).complete e.src .done 0 0
            (leBytes 8 (s.dtAt sof))
      let s := if f.fdf && m == 1 && s.bit Fld.CAN_CFG_SSP_EN c.val then
          s.setFld Fld.CAN_STAT_LOOPDLY c.val (Nat.min loopDly 127) else s
      let s := s.setCounters c (s.fld Fld.CAN_ECNT_TEC c.val - 1) (s.fld Fld.CAN_ECNT_REC c.val)
      if m = 4 then s.canReceive c f sof true else s)

/-- A frame loses arbitration: it is retried or aborted (R365). -/
def execCanArbitrationLost (c : CanId) (sof : Nat) (s : State) : Out :=
  .next (
    if !canActive (s.canModeNow c) || s.canBusOff c then s else
    let x := s.can c
    if (x.orphanAt sof).isSome then s.setCan c { x with orphan := none } else
    match bestFrame x.txBuf sof with
    | some e => s.retryFrame c e
    | none => s)

/-- A protocol error (R369): ERRC shows its kind; TEC rises by 8 for a transmitter, REC by 1 for a receiver, by 8 for each
further dominant bit rule that applies; an error-passive transmitter that misses only the acknowledgement counts nothing
(ISO 11898-1:2015; PRESUMED from that standard). The frame being sent is retried or aborted. -/
def execCanBusError (c : CanId) (kind : Fin 8) (transmitting : Bool) (sof extra : Nat) (s : State) : Out :=
  .next (
    let m := s.canModeNow c
    if m = 0 ∨ s.canBusOff c ∨ kind.val = 0 ∨ kind.val = 7 then s else
    let s := s.setFld Fld.CAN_STAT_ERRC c.val kind.val
    if !canActive m then s else
    let tec := s.fld Fld.CAN_ECNT_TEC c.val
    let rcc := s.fld Fld.CAN_ECNT_REC c.val
    let exempt := kind.val == 6 && transmitting && s.fld Fld.CAN_STAT_ESTATE c.val == 1 && extra == 0
    let s := if !transmitting then s else
      let x := s.can c
      if (x.orphanAt sof).isSome then s.setCan c { x with orphan := none } else
      match bestFrame x.txBuf sof with
      | some e => s.retryFrame c e
      | none => s
    if transmitting then s.setCounters c (if exempt then tec else tec + 8 + 8 * extra) rcc
    else s.setCounters c tec (rcc + 1 + 8 * extra))

/-! ## Deliveries (R361 to R364, R370) -/

/-- The frame that CAN_TX describes; ESI is 1 while the controller is error-passive (ISO 11898-1:2015). -/
def State.canFrameOf (s : State) (c : CanId) (fmt dlc : BitVec 8) (id : BitVec 32) (data : List Byte) : CanFrame :=
  { id := id.setWidth 29, xtd := fmt.getLsbD 0, fdf := fmt.getLsbD 1, brs := fmt.getLsbD 2, rtr := fmt.getLsbD 3,
    esi := s.fld Fld.CAN_STAT_ESTATE c.val == 1 && fmt.getLsbD 1, dlc := dlc.setWidth 4,
    data := if fmt.getLsbD 3 then [] else data.take (canLen (fmt.getLsbD 1) dlc.toNat) }

/-- CAN_TX at its delivery (R364); bus-off aborts it (R370). -/
def execCanTx (src : CmdSrc) (c fmt dlc : BitVec 8) (id : BitVec 32) (data : List Byte) (s : State) : Out :=
  .next (s.deliver src (.canTx c fmt dlc id data) fun s d =>
    if h : c.toNat < 4 then
      let k : CanId := ⟨c.toNat, h⟩
      if s.canBusOff k then (s.countSat Fld.CAN_CNT_TXABORT k.val).complete src .fault 8 0 [] d
      else
        let x := s.can k
        let e : CanTxEnt := { src := src, frame := s.canFrameOf k fmt dlc id data, attempts := 0, at_ := s.tick }
        s.setCan k { x with txBuf := x.txBuf ++ [e] }
    else s.complete src .fault 8 0 [] d)

/-- Recovery commands in progress complete with the code given. -/
def State.endRecover (s : State) (c : CanId) (code : CompCode) (reason : Nat) : State :=
  let x := s.can c
  forAll x.recover (fun s r => s.complete r code reason) (s.setCan c { x with recover := [] })

/-- CAN_MODE at its delivery (R361, R370): the change waits for bus integration or idle. -/
def execCanMode (src : CmdSrc) (c mode : BitVec 8) (s : State) : Out :=
  .next (s.deliver src (.canMode c mode) fun s d =>
    if h : c.toNat < 4 then
      let k : CanId := ⟨c.toNat, h⟩
      let m := mode.toNat
      let x := s.can k
      if s.canBusOff k && m != 0 then s.complete src .done 0 flNoChange [] d
      else if s.fld Fld.CAN_STAT_ESTATE k.val = 3 then
        let s := (s.setFld Fld.CAN_STAT_MODE k.val 0).setCounters k 0 0
        (s.endRecover k .fault 8).complete src .done 0 0 [] d
      else if x.wants.isEmpty && s.canModeNow k == m then s.complete src .done 0 0 [] d
      else s.setCan k { x with wants := x.wants ++ [(src, m)] }
    else s.complete src .done 0 flNoChange [] d)

/-- A requested mode comes into force (R361): STOPPED, LISTEN_ONLY and RESTRICTED abort every waiting frame (R363). -/
def execCanModeReached (c : CanId) (s : State) : Out :=
  .next (
    let x := s.can c
    match x.wants with
    | [] => s
    | (src, m) :: rest =>
      if s.canBusOff c && m != 0 then s else
      let s := s.setCan c { x with wants := rest, orphan := none }
      let s := s.setFld Fld.CAN_STAT_MODE c.val m
      let s := if canActive m then s else s.abortAll c
      s.complete src .done)

/-- CAN_RECOVER at its delivery (R370). -/
def execCanRecover (src : CmdSrc) (c : BitVec 8) (s : State) : Out :=
  .next (s.deliver src (.canRecover c) fun s d =>
    if h : c.toNat < 4 then
      let k : CanId := ⟨c.toNat, h⟩
      if !s.canBusOff k then s.complete src .done 0 flNoChange [] d else
      let x := s.can k
      let first := s.fld Fld.CAN_STAT_ESTATE k.val == 2
      let s := s.setCan k { x with recover := x.recover ++ [src] }
      if first then (s.setFld Fld.CAN_STAT_ESTATE k.val 3).canRecord k else s
    else s.complete src .done 0 flNoChange [] d)

/-- The recovery sequence ends (R370): counters 0, error-active, in the mode before bus-off. -/
def execCanRecoveryDone (c : CanId) (s : State) : Out :=
  .next (
    if s.fld Fld.CAN_STAT_ESTATE c.val ≠ 3 then s else
    let s := (s.setFld Fld.CAN_STAT_MODE c.val (s.can c).preBusOff).setCounters c 0 0
    s.endRecover c .done 0)

/-! ## Reset of the owner, and change of owner (R372, R289) -/

/-- What a reset of the owning function does: every command waiting in the controller is given back for its CANCELLED. -/
def State.resetCan (s : State) (c : CanId) : State × List CmdSrc :=
  let x := s.can c
  let owed := x.txBuf.map (·.src) ++ x.wants.map (·.1) ++ x.recover
  let orphan := if canActive (s.canModeNow c) && !s.canBusOff c then
      (bestFrame x.txBuf s.tick).map fun e => (e.frame, s.tick) else none
  (s.setCan c { x with txBuf := [], wants := [], recover := [], orphan := orphan }, owed)

/-- Zeroing on a change of owner: message RAM, filter RAM and error counters; the controller is STOPPED. -/
def State.zeroCan (s : State) (c : CanId) : State :=
  let s := s.setCan c .reset
  let s := s.setWord .CAN_ECNT c.val 0 0
  let s := s.setFld Fld.CAN_STAT_MODE c.val 0
  let s := s.setFld Fld.CAN_STAT_ESTATE c.val 0
  let s := s.setBit Fld.CAN_STAT_EW c.val false
  { s with regs := Sparse.clearRange (Reg.addr .CAN_FLTe_W0 c.val 0) (Reg.addr .CAN_FLTe_W0 c.val 0 + 1024) s.regs }

/-! ## Admission of CAN commands (R358, R359, R363) -/

/-- The bit timing in force is valid (R359); the register fields hold each value minus 1. -/
def State.canTimingOk (s : State) (c : CanId) : Bool :=
  let g (f : Fld) : Nat := s.fld f c.val + 1
  decide (2 ≤ g Fld.CAN_NTIM_SEG1) && decide (g Fld.CAN_NTIM_RJW ≤ g Fld.CAN_NTIM_SEG2) &&
  decide (g Fld.CAN_DTIM_RJW ≤ g Fld.CAN_DTIM_SEG2) &&
  decide (80 ≤ g Fld.CAN_NTIM_PRE * (1 + g Fld.CAN_NTIM_SEG1 + g Fld.CAN_NTIM_SEG2)) &&
  decide (10 ≤ g Fld.CAN_DTIM_PRE * (1 + g Fld.CAN_DTIM_SEG1 + g Fld.CAN_DTIM_SEG2))

/-- The projected mode: the mode in force with the CAN_MODE commands accepted applied in order of delivery (R363). -/
def State.canProjected (s : State) (c : CanId) : Nat :=
  let m := (s.can c).wants.foldl (fun (_ : Nat) w => w.2) (s.canModeNow c)
  let l := s.accepted.filterMap fun a => match a.cmd with
    | .canMode k w => if k.toNat = c.val then some (a.d, w.toNat) else none
    | _ => none
  (l.foldl (fun (acc : Nat × Nat) dm => if acc.1 ≤ dm.1 then dm else acc) (0, m)).2

/-- Frames of a controller held, and accepted and not yet delivered (R364). -/
def State.canQueued (s : State) (c : CanId) : Nat :=
  (s.can c).txBuf.length + (s.accepted.filter fun a => match a.cmd with
    | .canTx k _ _ _ _ => k.toNat == c.val
    | _ => false).length

/-- FMT of a CAN_TX (R358): RTR excludes FDF, BRS needs FDF, and both need FD_EN. -/
def State.canFmtOk (s : State) (c : CanId) (fmt : Nat) : Bool :=
  let b : BitVec 8 := BitVec.ofNat 8 fmt
  let fdf := b.getLsbD 1
  let brs := b.getLsbD 2
  decide (fmt < 16) && !(b.getLsbD 3 && fdf) && !(brs && !fdf) && !((fdf || brs) && !s.bit Fld.CAN_CFG_FD_EN c.val)

end Sys2Proof.Machine
end

