-- ==== Sys2Proof/Machine/Time.lean ====
section
/-! DEFINITION. Device time, time domains, the servo, holdover, 2412 mode and the TPO (11_time_network.md R328 to R343). -/

namespace Sys2Proof.Machine

/-- TB_QUAL.STATE (Table 2). -/
inductive TimeState where
  | free | locking | locked | slewing | holdover
  deriving DecidableEq, Repr

def TimeState.code : TimeState → Nat
  | .free => 0 | .locking => 1 | .locked => 2 | .slewing => 3 | .holdover => 4

def TimeState.ofCode : Nat → TimeState
  | 0 => .free | 1 => .locking | 2 => .locked | 3 => .slewing | _ => .holdover

def State.timeState (s : State) : TimeState := TimeState.ofCode (s.fld Fld.TB_QUAL_STATE)

/-- 2412 mode (R340). -/
def State.mode2412 (s : State) : Bool := s.bit Fld.TB_CFG_MODE

/-- The selected domain and the domain in force (R336). -/
def State.selDomain (s : State) : Fin 2 := if s.bit Fld.TB_CFG_SEL then 1 else 0
def State.domInForce (s : State) : Fin 2 := if s.bit Fld.TB_QUAL_DOMAIN then 1 else 0

/-- VALID0 or VALID1. -/
def State.domValid (s : State) (d : Fin 2) : Bool :=
  s.bit (if d = 0 then Fld.TB_QUAL_VALID0 else Fld.TB_QUAL_VALID1)

def State.setDomValid (s : State) (d : Fin 2) (v : Bool) : State :=
  s.setBit (if d = 0 then Fld.TB_QUAL_VALID0 else Fld.TB_QUAL_VALID1) 0 v

/-- STEP_TH: values below 100 are taken as 100. -/
def State.stepTh (s : State) : Int := Int.ofNat (Nat.max 100 (s.fld Fld.TB_CFG_STEP_TH))

/-- Clamp of rate words: ±4,294,967 units (R329, R334). -/
def rateClamp (v : Int) : Int := max (-4294967) (min 4294967 v)

/-- Saturation to 32 bits, signed. -/
def sat32 (v : Int) : Int := max (-2147483648) (min 2147483647 v)

def State.setRate (s : State) (v : Int) : State := s.setWord .TB_RATE 0 0 (BitVec.ofInt 32 (rateClamp v))

/-! ## Setting DT (R331) -/

/-- The conditions of R331 for a set. -/
def State.setAllowed (s : State) : Bool :=
  s.banks.toList.all (fun b => b.carrier == .stopped) && s.accepted.isEmpty

/-- A set is made: DT takes the new value in the next tick. What the domains hold is relative to DT and moves with it. -/
def State.setDt (s : State) (v : BitVec 64) : State :=
  let delta : Int := (v - s.dt - 4).toInt
  let move (d : TimeDom) : TimeDom :=
    { d with theta := d.theta - delta, samples := d.samples.map fun p => ((p.1 + delta).toNat, p.2 - delta) }
  let s : State := { s with time := { s.time with dtSetPend := some v }, doms := s.doms.map move }
  s.setBit Fld.TB_QUAL_STEPPED 0 true

/-- DT is set by θ (R333, R341). -/
def State.stepDt (s : State) (theta : Int) : State := s.setDt (s.dt + 4 + BitVec.ofInt 64 theta)

/-- DT_SET: a write of TB_SET_HI sets DT, or is ignored with SET_REJ (R331). -/
def State.writeTbSetHi (s : State) (w : Word) : State :=
  if s.setAllowed then (s.setWord .TB_SET_HI 0 0 w).setDt (w ++ s.word .TB_SET_LO)
  else s.setBit Fld.TB_QUAL_SET_REJ 0 true

def execDtSet (fn : FnId) (value : Word) (s : State) : Out := .next (s.setupGate fn fun s => s.writeTbSetHi value)

/-- DT_LO_READ: the shadow of the reading function takes DT (R330). -/
def execDtLoRead (fn : FnId) (s : State) : Out :=
  .next (
    let hi := s.dt.extractLsb' 32 32
    let s := s.setFn fn { s.fn fn with dtShadow := hi }
    { s with lastRead := [s.dt.extractLsb' 0 32, hi] })

/-! ## Records and the error bound (R337, R342) -/

/-- The exact quotient, or one of the two integers around it: the spec states no rounding. -/
def State.roundFree (s : State) (num den : Nat) : Nat :=
  num / den + (if num % den = 0 then 0 else Config.freeNat s.free % 2)

/-- The bound of R342 in the present state, saturating at 0xFFFFFFFF. -/
def State.timeBound (s : State) : Nat :=
  let d := s.dom s.domInForce
  let b := match s.timeState with
    | .free => 0xFFFFFFFF
    | .locking => (d.samples.map fun p => p.2.natAbs).foldl Nat.max 0 + 40
    | .locked => (d.samples.map fun p => p.2.natAbs).foldl Nat.max 0 + 40
    | .slewing => d.theta.natAbs + 40
    | .holdover =>
      let t := s.tick - s.time.holdSince
      let f := 250000000
      let ppb := s.fld Fld.TB_HO_HO_PPB
      let age := s.fld Fld.TB_HO_HO_AGE
      s.time.e0 + s.roundFree (ppb * t * 200 * f + age * t * t) (200 * f * f)
  Nat.min 0xFFFFFFFF b

/-- A change of time state, with its TIME_STATE record (R337). -/
def State.setTimeState (s : State) (st : TimeState) : State :=
  if s.timeState = st then s else
  let e0 := s.timeBound
  let s : State := if st = .holdover then { s with time := { s.time with e0 := e0, holdSince := s.tick }, free := s.free + 1 } else s
  let s := s.setFld Fld.TB_QUAL_STATE 0 st.code
  let s := if st = .holdover then s.setRate s.time.integ else s
  s.event 0 0x0020 s.domInForce.val st.code
    (leInt 8 (s.dom s.domInForce).theta ++ leBytes 4 (s.fld Fld.TB_ERR_BOUND))

/-- TIME_BOUND_UPDATE: BOUND is recomputed at each whole ms of DT (R342). -/
def execTimeBoundUpdate (s : State) : Out :=
  .next (
    if 4 ≤ s.now % 1000000 then s else
    let b := s.timeBound
    { s with free := s.free + 1 }.setFld Fld.TB_ERR_BOUND 0 b)

/-! ## Samples (R332) -/

/-- TB_DOMd_RR as a number. -/
def State.drift (s : State) (d : Fin 2) : Int := (s.word .TB_DOMd_RR d.val).toInt

/-- Drift over the samples held: the change of θ from the oldest to the newest, as a rate word; the spec states no rounding
(R332). -/
def State.driftOf (s : State) (l : List (Nat × Int)) : Int :=
  match l with
  | [] => 0
  | n :: rest =>
    match rest.getLast? with
    | none => 0
    | some o =>
      if n.1 ≤ o.1 then 0 else
      let dt := n.1 - o.1
      let dv := n.2 - o.2
      let q := s.roundFree (dv.natAbs * 2 ^ 34) dt
      if 0 ≤ dv then (q : Int) else -(q : Int)

/-- Domain bookkeeping at a sample: OFS, and for a valid one RR, VALID at the second in a row. -/
def State.noteSample (s : State) (d : Fin 2) (theta : Int) (valid : Bool) : State :=
  let x := s.dom d
  let s := s.setWord .TB_DOMd_OFS d.val 0 (BitVec.ofInt 32 (sat32 theta))
  if !valid then s.setDom d { x with theta := theta, validRun := 0 } else
  let l := ((s.now, theta) :: x.samples).take 16
  let rr := s.driftOf l
  let run := x.validRun + 1
  let up := decide (2 ≤ run)
  let s := s.setDom d { x with theta := theta, samples := l, validRun := run, lastTick := s.tick,
                               lost := x.lost && !up }
  let s : State := { s with free := s.free + 1 }
  let s := s.setWord .TB_DOMd_RR d.val 0 (BitVec.ofInt 32 (sat32 rr))
  if up then s.setDomValid d true else s

/-- With AUTO, a lost selected domain gives way to the other one while that is valid (R336). -/
def State.autoSelect (s : State) : State :=
  let d := s.selDomain
  let o : Fin 2 := if d = 0 then 1 else 0
  if s.bit Fld.TB_CFG_AUTO && !s.mode2412 && (s.dom d).lost && s.domValid o then
    let s := s.hwPut Fld.TB_CFG_SEL 0 o.val
    { s with time := { s.time with selAuto := true } }
  else s

/-- The servo of R334. -/
def State.servo (s : State) (theta : Int) : State :=
  let ki := Int.ofNat (s.fld Fld.TB_SERVO_KI)
  let kp := Int.ofNat (s.fld Fld.TB_SERVO_KP)
  let i := rateClamp (s.time.integ + ki * theta)
  ({ s with time := { s.time with integ := i } }).setRate (i + kp * theta)

/-- The rate of R335. -/
def State.slew (s : State) (d : Fin 2) (theta : Int) : State :=
  let ppm := Nat.min 100 (Nat.max 1 (s.fld Fld.TB_CFG_SLEW_PPM))
  let k := Int.ofNat (ppm * 2 ^ 34 / 1000000)
  s.setRate (s.time.integ + s.drift d + (if theta < 0 then -k else k))

/-- The integrator takes over the drift of the domain (R335, R336). -/
def State.addDrift (s : State) (d : Fin 2) : State :=
  { s with time := { s.time with integ := rateClamp (s.time.integ + s.drift d) } }

/-- A sample within STEP_TH drives the servo; the state goes to LOCKING, and to LOCKED after 8 in a row (R334, R337). -/
def State.goodSample (s : State) (d : Fin 2) (theta : Int) : State :=
  let st := s.timeState
  let s := if st = .slewing then s.addDrift d else s
  let s := s.servo theta
  -- The run of good samples begins with the one that enters LOCKING.
  let run := if st = .locking ∨ st = .locked then s.time.lockRun + 1 else 1
  let s : State := { s with time := { s.time with lockRun := run, refusals := 0 } }
  let s := s.setBit Fld.TB_QUAL_JUMP_PEND 0 false
  if st = .locked then s
  else if st = .locking ∧ 8 ≤ run then s.setTimeState .locked
  else s.setTimeState .locking

/-- A sample beyond STEP_TH in native mode: a set of DT from FREE and HOLDOVER where it may be made, else slewing (R333,
R335, R339). -/
def State.farNative (s : State) (d : Fin 2) (theta : Int) : State :=
  let st := s.timeState
  let s : State := { s with time := { s.time with lockRun := 0 } }
  if (st = .free ∨ st = .holdover) ∧ s.bit Fld.TB_CFG_STEP_EN ∧ s.setAllowed then
    (s.stepDt theta).setTimeState .locking
  else (s.slew d theta).setTimeState .slewing

/-- A sample beyond STEP_TH in 2412 mode: a set of DT from FREE where it may be made, else refused (R333, R340). -/
def State.far2412 (s : State) (d : Fin 2) (theta : Int) : State :=
  let st := s.timeState
  if st = .free ∧ s.bit Fld.TB_CFG_STEP_EN ∧ s.setAllowed then
    (s.stepDt theta).setTimeState .locking
  else
    let n := s.time.refusals + 1
    let s : State := { s with time := { s.time with refusals := n, lockRun := 0 } }
    let s := s.countSat Fld.TB_QUAL_REFUSED 0
    let s := s.event 0 0x0021 d.val n (leInt 8 theta)
    match st with
    | .slewing => s
    | .free => (s.setBit Fld.TB_QUAL_JUMP_PEND 0 true).setTimeState .holdover
    | .holdover => s.setBit Fld.TB_QUAL_JUMP_PEND 0 true
    | _ => if 3 ≤ n then (s.setBit Fld.TB_QUAL_JUMP_PEND 0 true).setTimeState .holdover else s

/-- A sample of a domain (R332 to R340). -/
def State.timeSample (s : State) (d : Fin 2) (theta : Int) (valid : Bool) : State :=
  if s.mode2412 && d == 1 then s else
  let s := (s.noteSample d theta valid).autoSelect
  if !valid then s else
  -- In HOLDOVER with AUTO either domain is usable (R339).
  let s := if s.timeState = .holdover ∧ s.bit Fld.TB_CFG_AUTO ∧ !s.mode2412 ∧ d ≠ s.selDomain then
      let s := s.hwPut Fld.TB_CFG_SEL 0 d.val
      { s with time := { s.time with selAuto := true } }
    else s
  if d ≠ s.selDomain then s else
  let s := if d = s.domInForce then s else
    let auto := s.time.selAuto
    let s := (s.addDrift d).setBit Fld.TB_QUAL_DOMAIN 0 (d == 1)
    s.event 0 0x0022 d.val (if auto then 0 else 1) (leInt 8 theta)
  if theta.natAbs ≤ s.stepTh.natAbs then s.goodSample d theta
  else if s.mode2412 then s.far2412 d theta
  else s.farNative d theta

/-- SYNC_SAMPLE: a Sync and Follow_Up pair on the slave port of a domain; the device is not its grandmaster. The pair gives a valid
sample only while that port is asCapable, which AS_CAP shows (R332). -/
def execSyncSample (domain : Fin 2) (theta : Int) (p : PortId) (asCap : Bool) (s : State) : Out :=
  .next (((s.setBit Fld.NET_PORTp_CFG_AS_CAP p.val asCap).setDom domain { s.dom domain with gm := false }).timeSample domain theta asCap)

/-- SYNC_INTERVAL: in a domain where the device is grandmaster θ is 0, and the domain is always valid (R332). -/
def execSyncInterval (domain : Fin 2) (s : State) : Out :=
  .next (
    if !s.bit (if domain = 0 then Fld.NET_PTP_GM0 else Fld.NET_PTP_GM1) then s else
    if s.mode2412 && domain == 1 then s else
    let s := s.setDom domain { s.dom domain with gm := true, lost := false, validRun := 2 }
    (s.setDomValid domain true).timeSample domain 0 true)

/-- Three sync intervals in ticks: NET_PTP.LOG_SYNC from −7 to 0, values outside taken as the nearer limit. -/
def State.syncLoss (s : State) : Nat :=
  let v := s.fld Fld.NET_PTP_LOG_SYNC
  let k := if v = 0 then 0 else if v < 8 then 0 else if 16 - v ≤ 7 then 16 - v else 7
  3 * 250000000 / 2 ^ k

/-- DOMAIN_LOST: no valid sample of a domain for 3 of its sync intervals (R332, R336, R338). -/
def execDomainLost (domain : Fin 2) (s : State) : Out :=
  .next (
    let x := s.dom domain
    if x.gm || x.lost || (s.mode2412 && domain == 1) || decide (s.tick < x.lastTick + s.syncLoss) then s else
    let s := (s.setDom domain { x with lost := true, validRun := 0 }).setDomValid domain false
    let auto := s.bit Fld.TB_CFG_AUTO && !s.mode2412
    let gone := if auto then !s.domValid 0 && !s.domValid 1 else domain == s.selDomain
    let s := s.autoSelect
    let st := s.timeState
    if gone ∧ (st = .locking ∨ st = .locked ∨ st = .slewing) then s.setTimeState .holdover else s)

/-- TIME_ACCEPT at its delivery (R341). -/
def execTimeAccept (src : CmdSrc) (s : State) : Out :=
  .next (s.deliver src .timeAccept fun s d =>
    let s := if !(s.mode2412 && s.bit Fld.TB_QUAL_JUMP_PEND) then s else
      let th := (s.dom 0).theta
      let s := if s.setAllowed then s.stepDt th else (s.slew 0 th).setTimeState .slewing
      { s with time := { s.time with refusals := 0 } }.setBit Fld.TB_QUAL_JUMP_PEND 0 false
    s.complete src .done 0 0 [] d)

/-! ## TPO (R343) -/

/-- TB_TPO.PERIOD_MS and WIDTH_US in ns, as they are taken. -/
def State.tpoPeriod (s : State) : Nat := Nat.min 1000 (Nat.max 1 (s.fld Fld.TB_TPO_PERIOD_MS)) * 1000000
def State.tpoWidth (s : State) : Nat :=
  let w := s.fld Fld.TB_TPO_WIDTH_US * 1000
  if w < s.tpoPeriod then w else s.tpoPeriod / 2

/-- TPO_PULSE: TPO rises at a multiple of its period of DT, and falls at the end of its width. -/
def execTpoPulse (s : State) : Out :=
  .next (
    let on := s.bit Fld.TB_TPO_EN && (s.timeState != .free || s.bit Fld.TB_TPO_FREE_RUN)
    match s.time.tpoHigh with
    | some t => if t ≤ s.now || !on then { s with time := { s.time with tpoHigh := none } } else s
    | none =>
      if on && decide (s.now % s.tpoPeriod < 4) then
        { s with time := { s.time with tpoHigh := some (s.now - s.now % s.tpoPeriod + s.tpoWidth) } }
      else s)

end Sys2Proof.Machine
end

