-- ==== Sys2Proof/Machine/Net.lean ====
section
/-! DEFINITION. The switch, gate control, transmit queues, shaft publication and the receive path to F0 (11_time_network.md
R344 to R353; 07_motion.md R243). -/

namespace Sys2Proof.Machine

/-! ## Frames as bytes -/

/-- Two octets, most significant first. -/
def beTwo (v : Nat) : List Byte := [BitVec.ofNat 8 (v / 256), BitVec.ofNat 8 v]

/-- The octets of a frame without FCS. -/
def frameBytes (f : EthFrame) : List Byte :=
  leBytes 6 f.da.toNat ++ leBytes 6 f.sa.toNat ++
  (if f.tagged then beTwo 0x8100 ++ beTwo (f.pcp.toNat * 8192 + f.vid.toNat) else []) ++ beTwo f.etype.toNat ++ f.payload

/-- The frame that a list of octets without FCS spells. -/
def frameOf (l : List Byte) : EthFrame :=
  let be (o : Nat) : Nat := (l.getD o 0).toNat * 256 + (l.getD (o + 1) 0).toNat
  let tag := be 12 == 0x8100
  let o := if tag then 16 else 12
  { da := BitVec.ofNat 48 (leAt l 0 6), sa := BitVec.ofNat 48 (leAt l 6 6), tagged := tag,
    vid := if tag then BitVec.ofNat 12 (be 14) else 0, pcp := if tag then BitVec.ofNat 3 (be 14 / 8192) else 0,
    etype := BitVec.ofNat 16 (be o), payload := l.drop (o + 2), fcsOk := true }

/-- Length with FCS. -/
def wireLen (f : EthFrame) : Nat := (frameBytes f).length + 4

/-- Ticks that a frame holds a port: preamble to the end of the inter-frame gap, 8 ns a byte. -/
def wireTicks (f : EthFrame) : Nat := (Nat.max 64 (wireLen f) + 20) * 2

/-- NET_MAC and the shaft destination. -/
def State.netMac (s : State) : BitVec 48 :=
  BitVec.ofNat 48 (s.fld Fld.NET_MAC_HI_MAC * 2 ^ 32 + s.fld Fld.NET_MAC_LO_MAC)
def State.shaftDa (s : State) : BitVec 48 :=
  BitVec.ofNat 48 (s.fld Fld.NET_SHAFT_DA_HI_DA * 2 ^ 32 + s.fld Fld.NET_SHAFT_DA_LO_DA)

/-- Group addresses have the low bit of the first octet set. -/
def isGroup (a : BitVec 48) : Bool := a.getLsbD 0

/-- gPTP frames, and PAUSE frames (R344, R352). -/
def isGptp (f : EthFrame) : Bool := f.da == 0x0E0000C28001 && f.etype == 0x88F7
def isPause (f : EthFrame) : Bool := f.da == 0x010000C28001 && f.etype == 0x8808

/-- A frame that matches the shaft EtherType and destination (R352). -/
def State.isShaft (s : State) (f : EthFrame) : Bool :=
  f.etype.toNat == s.fld Fld.NET_SHAFT_ETYPE && f.da == s.shaftDa

/-! ## Ports -/

/-- The port is enabled and carries traffic (R344). -/
def State.portUp (s : State) (p : PortId) : Bool :=
  s.bit Fld.NET_PORTp_CFG_EN p.val && s.bit Fld.NET_PORTp_CFG_LINK p.val && !s.bit Fld.NET_PORTp_CFG_SPEED_BAD p.val

def otherPort (p : PortId) : PortId := if p = 0 then 1 else 0

/-- A frame goes out on a line port. -/
def State.putWire (s : State) (p : PortId) (f : EthFrame) : State := { s with wireOut := s.wireOut ++ [(p, f)] }

/-! ## Address table (R345) -/

def State.fdbLookup (s : State) (a : BitVec 48) : Option PortId := (s.fdb.find? fun e => e.mac == a).map (·.port)

/-- Learn a source address; a full table learns no new one. -/
def State.learn (s : State) (a : BitVec 48) (p : PortId) : State :=
  if isGroup a || a == s.netMac then s else
  let rest := s.fdb.filter fun e => e.mac != a
  if rest.length < 1024 then { s with fdb := rest ++ [{ mac := a, port := p, seen := s.tick }] } else s

/-- ADDRESS_AGEING: an entry not renewed for AGE_S is removed; 0 disables ageing. -/
def execAddressAgeing (mac : BitVec 48) (s : State) : Out :=
  .next (
    let age := s.fld Fld.NET_FDB_AGE_S
    if age = 0 then s else
    { s with fdb := s.fdb.filter fun e => !(e.mac == mac && decide (e.seen + age * 250000000 ≤ s.tick)) })

/-! ## Receive path to F0 (R353) -/

/-- Write `l` bytes as one host write at an offset of the receive buffer. -/
def State.rxWrite (s : State) (off : Nat) (l : List Byte) : State :=
  let base := s.fld Fld.NET_RXB_BASE_HI_BASE * 2 ^ 32 + s.fld Fld.NET_RXB_BASE_LO_BASE * 2 ^ 12
  { s with hostOut := s.hostOut ++ [.netFrame 0 (BitVec.ofNat 64 (base + off)) l] }

/-- A header of the receive buffer. -/
def rxHeader (dt len port seq : Nat) : List Byte :=
  leBytes 8 dt ++ leBytes 2 len ++ leBytes 1 port ++ [0] ++ leBytes 4 seq

/-- A frame for the internal port is written to the receive buffer, or dropped (R353). -/
def State.netReceive (s : State) (p : PortId) (f : EthFrame) : State :=
  if !s.bit Fld.NET_RXB_CFG_EN || !(s.fn 0).busMaster then s else
  let l := frameBytes f
  let size := 2 ^ (Nat.min 12 (Nat.max 4 (s.fld Fld.NET_RXB_CFG_LOG2KB))) * 1024
  let need := 16 + (l.length + 15) / 16 * 16
  let wr := s.fld Fld.NET_RXB_WR_WR
  let used := (wr + 2 ^ 32 - s.fld Fld.NET_RXB_RD_RD) % 2 ^ 32
  let off := wr % size
  let skip := if size < off + need then size - off else 0
  if size < used + skip + need then
    let s := s.countSat Fld.NET_RXB_DROP_DROP 0
    { s with rx := { s.rx with drops := s.rx.drops + 1 } }
  else
    let seq := s.rx.seq.toNat
    let drops := s.rx.drops
    let s := if skip = 0 then s else s.rxWrite off (rxHeader s.now 0xFFFF p.val seq)
    let at_ := (wr + skip) % 2 ^ 32
    let s := s.rxWrite (at_ % size) (rxHeader s.now l.length p.val seq ++ padTo (need - 16) l)
    let s := s.setFld Fld.NET_RXB_WR_WR 0 (at_ + need)
    let s : State := { s with rx := { seq := s.rx.seq + 1, drops := 0 } }
    let s := if drops = 0 then s else s.event 0 0x0025 p.val 0 (leBytes 4 drops)
    if s.bit Fld.NET_RXB_CFG_NOTE then s.event 0 0x0024 p.val l.length (leBytes 4 at_ ++ leBytes 4 seq) else s

/-! ## Gate control lists (R347) -/

/-- The entries of a gate list bank. -/
def State.gclEntries (s : State) (p : PortId) (bank len : Nat) : List GclEntry :=
  (List.range len).map fun e =>
    { gates := BitVec.ofNat 8 (s.fld Fld.NET_GCLp_ENT_GATES p.val (64 * bank + e)),
      interval := Nat.max 64 (s.fld Fld.NET_GCLp_ENT_INTERVAL p.val (64 * bank + e)) }

/-- The entry in force at offset `o` of a cycle: its gates and the offset at which it ends. The last entry holds to the end
of the cycle, and the list is cut there. -/
def gclAt (cycle : Nat) : List GclEntry → Nat → Nat → BitVec 8 × Nat
  | [], _, _ => (0xFF, cycle)
  | [e], _, _ => (e.gates, cycle)
  | e :: rest, start, o =>
    if o < start + e.interval then (e.gates, Nat.min cycle (start + e.interval))
    else gclAt cycle rest (start + e.interval) o

/-- Gates of a port at a DT, and the DT at which they may change. Every gate is open while the list in force is off. -/
def LinePort.gatesAt (x : LinePort) (t : Nat) : BitVec 8 × Nat :=
  if !x.operSet.on || decide (t < x.operSet.base) then (0xFF, x.operSet.base) else
  let c := x.operSet.cycle
  let o := (t - x.operSet.base) % c
  let (g, e) := gclAt c x.oper 0 o
  (g, t - o + e)

/-- Gates of a port at a DT to come, and the DT at which they may change: from a change time on, those of the staged bank. -/
def State.gatesTo (s : State) (p : PortId) (t : Nat) : BitVec 8 × Nat :=
  let x := s.port p
  match x.change with
  | none => x.gatesAt t
  | some (c, g) =>
    if t < c then
      let (gates, e) := x.gatesAt t
      (gates, if e ≤ t then c else Nat.min e c)
    else
      { x with oper := s.gclEntries p (1 - s.fld Fld.NET_GCLp_CTL_OPER_BANK p.val) g.len, operSet := g }.gatesAt t

/-- The gate of a class is open at DT `t` and closes no sooner than `e` (R347); `k` bounds the entries passed, of 64 ns or more
each. Where the gates change no more, they hold. -/
def State.gateHolds (s : State) (p : PortId) (cls e : Nat) : Nat → Nat → Bool
  | 0, _ => true
  | k + 1, t =>
    let (g, n) := s.gatesTo p t
    g.getLsbD cls && (decide (e ≤ n) || decide (n ≤ t) || s.gateHolds p cls e k n)

/-- Take the gates that the list gives for a DT. -/
def State.refreshGates (s : State) (p : PortId) (t : Nat) : State :=
  let x := s.port p
  let (g, e) := x.gatesAt t
  s.setPort p { x with gates := g, curEnd := e }

/-- A write of NET_GCLp_CTL: EN and LEN are staged; COMMIT checks the staged bank and sets the change time, the first BASE +
k × CYC at least 10 µs ahead. A COMMIT while one awaits its change time is ignored and sets ERR (R347). -/
def State.writeGclCtl (s : State) (p : PortId) (w : Word) : State :=
  let commit := Fld.NET_GCLp_CTL_COMMIT.get w == 1
  let s := if Fld.NET_GCLp_CTL_ERR.get w = 1 then s.setBit Fld.NET_GCLp_CTL_ERR p.val false else s
  if commit && s.bit Fld.NET_GCLp_CTL_PEND p.val then s.setBit Fld.NET_GCLp_CTL_ERR p.val true else
  let s := s.setFld Fld.NET_GCLp_CTL_EN p.val (Fld.NET_GCLp_CTL_EN.get w)
  let s := s.setFld Fld.NET_GCLp_CTL_LEN p.val (Fld.NET_GCLp_CTL_LEN.get w)
  if !commit then s else
  let base := s.fld Fld.NET_GCLp_BASE_HI_BASE p.val * 2 ^ 32 + s.fld Fld.NET_GCLp_BASE_LO_BASE p.val
  let cyc := Nat.min 1000000000 (Nat.max 8000 (s.fld Fld.NET_GCLp_CYC_CYC p.val))
  let t := s.now + 10000
  let at_ := if t ≤ base then base else base + (t - base + cyc - 1) / cyc * cyc
  let g : GclSet := { on := s.bit Fld.NET_GCLp_CTL_EN p.val, len := s.fld Fld.NET_GCLp_CTL_LEN p.val + 1,
                      base := base, cycle := cyc }
  let s := s.setPort p { s.port p with change := some (at_, g) }
  s.setBit Fld.NET_GCLp_CTL_PEND p.val true

/-- GCL_COMMIT: a write of NET_GCLp_CTL with COMMIT. -/
def execGclCommit (fn : FnId) (p : PortId) (value : Word) (s : State) : Out :=
  .next (s.setupGate fn fun s => s.writeGclCtl p value)

/-! ## Transmit queues (R348 to R351) -/

/-- The frame of a queue as it leaves: with TAG, a VLAN tag is inserted. -/
def State.queueFrame (s : State) (q : TxqId) (l : List Byte) : EthFrame :=
  let f := frameOf l
  if !s.bit Fld.NET_TXQq_CFG_TAG q.val then f else
  let rest := if f.tagged then beTwo (f.pcp.toNat * 8192 + f.vid.toNat) ++ beTwo f.etype.toNat ++ f.payload else f.payload
  { f with tagged := true, vid := BitVec.ofNat 12 (s.fld Fld.NET_TXQq_CFG_VID q.val),
           pcp := BitVec.ofNat 3 (s.fld Fld.NET_TXQq_CFG_PCP q.val), etype := if f.tagged then 0x8100 else f.etype,
           payload := rest }

/-- Class of a frame of a queue: its PCP, or the queue's for an untagged one. -/
def State.queueClass (s : State) (q : TxqId) (f : EthFrame) : Nat :=
  if f.tagged then f.pcp.toNat else s.fld Fld.NET_TXQq_CFG_PCP q.val

/-- Egress ports of a frame of a queue. -/
def State.egress (s : State) (q : TxqId) (f : EthFrame) : List PortId :=
  match s.fld Fld.NET_TXQq_CFG_PORTS q.val with
  | 1 => [0]
  | 2 => [1]
  | 3 => [0, 1]
  | _ =>
    if f.da == s.netMac then []
    else if isGroup f.da then [0, 1]
    else match s.fdbLookup f.da with
      | some p => [p]
      | none => [0, 1]

/-- The queue uses launch time (R349). -/
def State.launches (s : State) (q : TxqId) : Bool := s.bit Fld.NET_TXQq_CFG_LT_EN q.val

def State.showDepth (s : State) (q : TxqId) : State :=
  s.setFld Fld.NET_TXQq_STAT_DEPTH q.val (s.txq q).frames.length

/-- A frame is not sent on a port: counted for the queue, and for the port. -/
def State.txDrop (s : State) (q : TxqId) (p : PortId) : State :=
  (s.countSat Fld.NET_TXQq_STAT_DROP q.val).countSat Fld.NET_PORTp_CNT_DROP p.val

/-- A frame of a queue changes. -/
def State.editTx (s : State) (q : TxqId) (src : CmdSrc) (g : TxFrame → TxFrame) : State :=
  s.setTxq q { frames := (s.txq q).frames.map fun f => if f.src = src then g f else f }

/-- A frame leaves its queue. -/
def State.removeTx (s : State) (q : TxqId) (src : CmdSrc) : State :=
  (s.setTxq q { frames := (s.txq q).frames.filter fun f => decide (f.src ≠ src) }).showDepth q

/-- A frame that no port has sent and that waits for none ends with FAULT, NET_DROP, at E (R350). -/
def State.settleTx (s : State) (q : TxqId) (src : CmdSrc) : State :=
  match (s.txq q).frames.find? fun f => decide (f.src = src) with
  | some f => if f.todo.isEmpty && f.sent.isEmpty then (s.removeTx q src).complete src .fault 9 0 [] f.d else s
  | none => s

/-- A frame of a queue is discarded on a port whose link is down (R351). -/
def State.discardTx (s : State) (q : TxqId) (src : CmdSrc) (p : PortId) : State :=
  ((s.txDrop q p).editTx q src fun f => { f with todo := f.todo.filter (· != p) }).settleTx q src

/-! ## Egress of a line port (R346 to R351) -/

/-- The instants that the launch-time guard of a port protects: E of the launch-time frames that it is to send, held or accepted, and of the
next shaft sample of a line master (R349, R352). -/
def State.guards (s : State) (p : PortId) : List Nat :=
  let mine (q : TxqId) (l : List Byte) : Bool := s.launches q && (s.egress q (s.queueFrame q l)).contains p
  let held := ((allFin 16).map fun q =>
    ((s.txq q).frames.filter fun f => !f.joined && mine q f.bytes).map (·.d)).flatten
  let coming := s.accepted.filterMap fun a => match a.cmd with
    | .netTx q l => if h : q.toNat < 16 then (if mine ⟨q.toNat, h⟩ l then some a.d else none) else none
    | _ => none
  held ++ coming ++ (if s.shaftRole = 2 then [(s.now + 249996) / 250000 * 250000] else [])

/-- A frame that waits for an idle port may start there: its class's gate is open and does not close before the transmission, preamble to the
end of its inter-frame gap, ends; the launch-time guards allow it; no earlier frame of its queue waits there (R346 to R349). -/
def State.mayStart (s : State) (p : PortId) (w : WaitFrame) : Bool :=
  let x := s.port p
  let e := s.now + 4 * wireTicks w.frame
  x.gates.getLsbD w.cls && s.gateHolds p w.cls e 200 s.now && (s.guards p).all (fun g => decide (e ≤ g)) &&
  (match w.src with
   | none => true
   | some (q, _) => (x.wait.takeWhile (· != w)).all fun v => v.src.map (·.1) != some q)

/-- A frame that waits starts. One whose FCS fails is ended with an inverted FCS (R346). -/
def State.startFrame (s : State) (p : PortId) (w : WaitFrame) : State :=
  let s := if w.frame.fcsOk then s else s.countSat Fld.NET_PORTp_CNT_STOMP p.val
  let x := s.port p
  let ends := s.tick + wireTicks w.frame
  let s := (s.putWire p w.frame).setPort p { x with busy := ends, slot := if w.late then ends + 16 else x.slot, wait := x.wait.erase w }
  match w.src with
  | none => s
  | some (q, src) => s.editTx q src fun f =>
      { f with todo := f.todo.filter (· != p), sent := f.sent ++ [{ port := p, ends := ends, late := w.late }] }

/-- The egress of a line port: on a port whose link is down every frame that waits is discarded (R351); on an idle one the first frame of
the highest class that may start does. -/
def State.egressRun (s : State) (p : PortId) : State :=
  let x := s.port p
  if x.wait.isEmpty then s
  else if !s.portUp p then
    forAll x.wait (fun s w => match w.src with
      | none => s.countSat Fld.NET_PORTp_CNT_DROP p.val
      | some (q, src) => s.discardTx q src p) (s.setPort p { x with wait := [] })
  else if s.tick < x.busy then s
  else
    match (List.range 8).reverse.findSome? fun c =>
      (x.wait.find? fun w => w.cls == c).bind fun w => if s.mayStart p w then some w else none with
    | some w => s.startFrame p w
    | none => s

/-- A frame joins its class on a port, and leaves at once where it may. -/
def State.joinPort (s : State) (p : PortId) (w : WaitFrame) : State :=
  (s.setPort p { s.port p with wait := (s.port p).wait ++ [w] }).egressRun p

/-- LINK: the link goes up at 1000 Mbit/s, up at another speed, or down (R344). -/
def execLink (p : PortId) (up speedOk : Bool) (s : State) : Out :=
  .next (
    let s := s.setBit Fld.NET_PORTp_CFG_LINK p.val (up && speedOk)
    let s := s.setBit Fld.NET_PORTp_CFG_SPEED_BAD p.val (up && !speedOk)
    let s := if up && speedOk then s else s.setBit Fld.NET_PORTp_CFG_AS_CAP p.val false
    (s.event 0 0x0023 p.val (if !up then 0 else if speedOk then 1 else 2)).egressRun p)

/-- GATE_STATE_CHANGE: the present entry's interval has ended (R347). -/
def execGateStateChange (p : PortId) (s : State) : Out :=
  .next (if (s.port p).operSet.on && decide ((s.port p).curEnd ≤ s.now) then (s.refreshGates p s.now).egressRun p else s)

/-- GCL_CHANGE: at the change time the staged bank becomes operational (R347). -/
def execGclChange (p : PortId) (s : State) : Out :=
  .next (
    let x := s.port p
    match x.change with
    | none => s
    | some (t, g) =>
      if s.now < t then s else
      let bank := 1 - s.fld Fld.NET_GCLp_CTL_OPER_BANK p.val
      let s := s.setPort p { x with oper := s.gclEntries p bank g.len, operSet := g, change := none }
      let s := s.setFld Fld.NET_GCLp_CTL_OPER_BANK p.val bank
      let s := s.setBit Fld.NET_GCLp_CTL_OPER_EN p.val g.on
      (s.setBit Fld.NET_GCLp_CTL_PEND p.val false).refreshGates p s.now |>.egressRun p)

/-! ## Frames from the lines (R344 to R346, R352) -/

/-- Forward a frame to the other line port: dropped where the link is down or its class's buffer share is full; else it starts, or waits in
the packet buffer until the port is idle, the gate open and no launch-time guard holds it (R346, R351). -/
def State.forward (s : State) (p : PortId) (f : EthFrame) (full : Bool) : State :=
  if !s.portUp p || full then s.countSat Fld.NET_PORTp_CNT_DROP p.val
  else s.joinPort p { cls := if f.tagged then f.pcp.toNat else 0, frame := f, src := none, late := false }

/-- FRAME_RX: a frame arrives at a line port. A shaft frame is passed on here; its sample is stored by SHAFT_SAMPLE_RX. -/
def execFrameRx (p : PortId) (f : EthFrame) (full : Bool) (s : State) : Out :=
  .next (
    if !s.portUp p then s else
    let n := wireLen f
    if n < 64 || 1522 < n || isPause f || isGptp f then s else
    let o := otherPort p
    let s := if f.fcsOk then s.learn f.sa p else s
    if s.isShaft f then s.forward o f full else
    if f.da == s.netMac then (if f.fcsOk then s.netReceive p f else s) else
    let known := if isGroup f.da then none else s.fdbLookup f.da
    match known with
    | some q => if q = p then s else s.forward q f full
    | none =>
      let s := s.forward o f full
      if isGroup f.da && f.fcsOk then s.netReceive p f else s)

/-! ## Transmission of queue frames (R348 to R351) -/

/-- NET_TX at its delivery: the frame joins its queue (R318, R348); without launch time it joins its class on each egress port (R349). -/
def execNetTx (src : CmdSrc) (q : BitVec 8) (frame : List Byte) (s : State) : Out :=
  .next (s.deliver src (.netTx q frame) fun s d =>
    if h : q.toNat < 16 then
      let k : TxqId := ⟨q.toNat, h⟩
      let lt := s.launches k
      let fr := s.queueFrame k frame
      let ports := if lt then [] else s.egress k fr
      let f : TxFrame := { src := src, bytes := frame, d := d, joined := !lt, todo := ports, sent := [] }
      let s := (s.setTxq k { frames := (s.txq k).frames ++ [f] }).showDepth k
      if lt then s else
      let w : WaitFrame := { cls := s.queueClass k fr, frame := fr, src := some (k, src), late := false }
      (forAll ports (fun s p => s.joinPort p w) s).settleTx k src
    else s.complete src .fault 9 0 [] d)

/-- Another launch-time frame holds a port at `e`: one sent before that leaves no room for an SFD by 8 ns later, or one that is to be sent
there, whose transmission overlaps and whose E is earlier, or as early in a lower queue (R350). -/
def State.portHeld (s : State) (q : TxqId) (p : PortId) (e : Nat) : Bool :=
  decide (s.tick + 2 < (s.port p).slot + (s.now - e) / 4) ||
  (allFin 16).any fun o =>
    o != q && s.launches o &&
    (match (s.txq o).frames.find? fun f => !f.joined with
     | none => false
     | some f =>
       let fr := s.queueFrame o f.bytes
       (s.egress o fr).contains p && decide (f.d < e ∨ f.d = e ∧ o.val < q.val) && decide (e + 8 < f.d + 4 * wireTicks fr))

/-- A frame with its SFD at DT `e` ends before the gate of its class next closes: from its preamble, 64 ns before, to the end of
its inter-frame gap, at most 12,336 ns (R347). -/
def State.gateAdmits (s : State) (p : PortId) (cls e : Nat) (f : EthFrame) : Bool :=
  s.gateHolds p cls (e - 64 + 4 * wireTicks f) 200 e

/-- A launch-time frame is late on a port: it cannot start there by E + 8 ns (R350). It does not overtake a frame of its own queue. -/
def State.lateOn (s : State) (q : TxqId) (f : TxFrame) (p : PortId) : Bool :=
  let fr := s.queueFrame q f.bytes
  let cls := s.queueClass q fr
  decide (f.d + 8 < s.now) || decide (s.tick + 2 < (s.port p).busy) || s.portHeld q p f.d ||
  !(s.port p).gates.getLsbD cls || !s.gateAdmits p cls f.d fr || (s.port p).wait.any fun v => v.src.map (·.1) == some q

/-- A launch-time frame is sent on a port with its SFD at E. -/
def State.launchOn (s : State) (q : TxqId) (f : TxFrame) (p : PortId) : State :=
  let fr := s.queueFrame q f.bytes
  let slot := s.tick + wireTicks fr
  ((s.putWire p fr).setPort p { s.port p with busy := slot - 16, slot := slot }).editTx q f.src fun g =>
    { g with sent := g.sent ++ [{ port := p, ends := slot - 16, late := false }] }

/-- A launch-time frame at E on one of its egress ports (R350, R351): discarded where the link is down; late where it cannot start, and
then dropped, or sent as soon as it may; else sent. -/
def State.launchPort (s : State) (q : TxqId) (f : TxFrame) (p : PortId) : State :=
  let fr := s.queueFrame q f.bytes
  if !s.portUp p then s.txDrop q p
  else if !s.lateOn q f p then s.launchOn q f p
  else
    let s := s.countSat Fld.NET_TXQq_STAT_LATE q.val
    if s.bit Fld.NET_TXQq_CFG_LATE_POL q.val then
      (s.editTx q f.src fun g => { g with todo := g.todo ++ [p] }).joinPort p
        { cls := s.queueClass q fr, frame := fr, src := some (q, f.src), late := true }
    else s.countSat Fld.NET_TXQq_STAT_DROP q.val

/-- LAUNCH_TIME: at E the next frame of a launch-time queue is handled on each egress port (R349 to R351). A frame that no port sends ends
with FAULT, NET_DROP. -/
def execLaunchTime (q : TxqId) (s : State) : Out :=
  .next (
    match (s.txq q).frames.find? fun f => !f.joined with
    | none => s
    | some f =>
      if !s.launches q || decide (s.now < f.d) then s else
      let s := s.editTx q f.src fun g => { g with joined := true }
      (forAll (s.egress q (s.queueFrame q f.bytes)) (fun s p => s.launchPort q f p) s).settleTx q f.src)

/-- FRAME_TX_DONE: the oldest frame of a queue that every egress port has finished with leaves it. Its completion carries the DT of its SFD
on the lowest-numbered port that sent it: E there, unless it was late there or the queue has no launch time; LATE_SENT tells that it was late
(R350, R351). -/
def execFrameTxDone (q : TxqId) (sfd : Nat) (s : State) : Out :=
  .next (
    match (s.txq q).frames.find? fun f => f.joined && f.todo.isEmpty && f.sent.all fun x => decide (x.ends ≤ s.tick) with
    | none => s
    | some f =>
      let s := s.removeTx q f.src
      let late := (((f.sent.find? fun x => x.port == 0).or f.sent.head?).map (·.late)).getD false
      s.complete f.src .done 0 (if late then flLateSent else 0) (leBytes 8 (if s.launches q && !late then f.d else sfd)))

/-- Frames of a queue held, and accepted and not yet delivered (R348). -/
def State.txQueued (s : State) (q : TxqId) : Nat :=
  (s.txq q).frames.length + (s.accepted.filter fun a => match a.cmd with
    | .netTx k _ => k.toNat == q.val
    | _ => false).length

/-! ## Shaft publication (R243, R352) -/

/-- The payload of a shaft sample (Table 4 of 07_motion.md): the reference of virtual axis SRC_AX evaluated at this DT (R243). -/
def State.shaftPayload (s : State) (n : AxId) : List Byte :=
  let k := (s.reference n (s.ax n).frameNo s.now s.now).1
  let flags := (if s.axState n = .run then 1 else 0) + (if s.timeState = .holdover then 2 else 0) + 4 * s.selDomain.val
  leBytes 2 (s.fld Fld.GLB_SHAFT_ID_ID) ++ leBytes 2 s.shaft.txSeq.toNat ++ leBytes 4 flags ++ leBytes 8 s.now ++
    leInt 8 k.pos.whole ++ leBytes 4 k.vel.toF32.toNat ++ leBytes 4 0

/-- A transmission holds a port for more than 8 ns from now on. -/
def State.portTaken (s : State) (p : PortId) : Bool := decide (s.tick + 2 < (s.port p).busy) || decide (s.tick + 2 < (s.port p).slot)

/-- SHAFT_PUBLISH: at a multiple of 250 µs the line master launches a sample on both line ports and receives it itself. A
frame that cannot start within 8 ns is dropped. -/
def execShaftPublish (s : State) : Out :=
  .next (
    if s.shaftRole ≠ 2 ∨ 4 ≤ s.now % 250000 then s else
    let a := s.fld Fld.GLB_SHAFT_CFG_SRC_AX
    if h : a < 48 then
      let p := s.shaftPayload ⟨a, h⟩
      let f : EthFrame := { da := s.shaftDa, sa := s.netMac, tagged := true,
                            vid := BitVec.ofNat 12 (s.fld Fld.NET_SHAFT_VID), pcp := BitVec.ofNat 3 (s.fld Fld.NET_SHAFT_PCP),
                            etype := BitVec.ofNat 16 (s.fld Fld.NET_SHAFT_ETYPE), payload := padTo 42 p, fcsOk := true }
      let s := forAll (allFin 2) (fun s p =>
        if s.portUp p && !s.portTaken p then
          (s.putWire p f).setPort p { s.port p with busy := s.tick + wireTicks f - 16, slot := s.tick + wireTicks f }
        else s.countSat Fld.NET_PORTp_CNT_DROP p.val) s
      let s : State := { s with shaft := { s.shaft with txSeq := s.shaft.txSeq + 1 } }
      s.receiveShaft p
    else s)

end Sys2Proof.Machine
end

