-- ==== Sys2Proof/Machine/SafetyChannels.lean ====
section
/-! DEFINITION. The safety subsystem (14_safety.md R392 to R424): parameter set, pairs, groups, the black channel and the
cycle of the two channels. One SAFETY_CYCLE stands for a cycle of both channels (DESIGN CHOICE). -/

namespace Sys2Proof.Machine

/-! ## Fields of the parameter set (R417, Table 6) -/

/-- A field of the active set: offset and size. -/
def State.par (s : State) (o n : Nat) : Nat := leAt s.saf.params o n

def pairOff (k : PairId) : Nat := 0x010 + 8 * k.val
def grpOff (g : GrpId) : Nat := 0x040 + 24 * g.val
def axOff (n : AxId) : Nat := 0x100 + 16 * n.val

def State.pairMode (s : State) (k : PairId) : Nat := s.par (pairOff k) 1
def State.grpMask (s : State) (g : GrpId) : BitVec 48 := BitVec.ofNat 48 (s.par (grpOff g) 6)
def State.grpDem (s : State) (g : GrpId) : BitVec 8 := BitVec.ofNat 8 (s.par (grpOff g + 8) 1)
def State.grpSls (s : State) (g : GrpId) : BitVec 8 := BitVec.ofNat 8 (s.par (grpOff g + 10) 1)
/-- FUNC is SS1; SLS_REACT is SS1; RST is MANUAL. -/
def State.grpSs1 (s : State) (g : GrpId) : Bool := s.par (grpOff g + 9) 1 == 1
def State.grpReactSs1 (s : State) (g : GrpId) : Bool := s.par (grpOff g + 11) 1 == 1
def State.grpManual (s : State) (g : GrpId) : Bool := s.par (grpOff g + 12) 1 == 1
def State.grpAxes (s : State) (g : GrpId) : List AxId := (allFin 48).filter fun n => (s.grpMask g).getLsbD n.val

/-- Milliseconds in ticks. -/
def msTicks (ms : Nat) : Nat := ms * 250000

/-! ## Validity of a set (R418) -/

/-- Format: MAGIC, FORMAT and the reserved fields. -/
def setFormatOk (l : List Byte) : Bool :=
  l.length == 1056 && slice l 0 4 == [0x53, 0x50, 0x41, 0x31] && leAt l 4 2 == 1 && leAt l 0x0C 4 == 0 &&
  (List.range 4).all (fun k => leAt l (0x10 + 8 * k + 3) 1 == 0 && leAt l (0x10 + 8 * k + 6) 2 == 0) &&
  (List.range 8).all (fun g => leAt l (0x40 + 24 * g + 6) 2 == 0 && leAt l (0x40 + 24 * g + 21) 3 == 0) &&
  (List.range 48).all (fun n => leAt l (0x100 + 16 * n + 1) 1 == 0) &&
  leAt l 0x407 9 == 0 && leAt l 0x418 8 == 0

/-- A value lies between two bounds. -/
def within (lo v hi : Nat) : Bool := decide (lo ≤ v) && decide (v ≤ hi)

/-- Ranges and consistency of the pairs and test pulses. -/
def setPairsOk (l : List Byte) : Bool :=
  let per (k : Nat) : Nat := leAt l (0x30 + 4 * k) 2
  let w (k : Nat) : Nat := leAt l (0x32 + 4 * k) 2
  (List.range 4).all (fun k =>
    if per k = 0 then w k == 0 else within 10 (per k) 1000 && within 100 (w k) 800) &&
  (List.range 4).all (fun k =>
    let o := 0x10 + 8 * k
    let a := leAt l (o + 1) 1
    let b := leAt l (o + 2) 1
    decide (leAt l o 1 ≤ 3) && decide (a ≤ 4) && decide (b ≤ 4) && within 10 (leAt l (o + 4) 2) 1000 &&
    !(a != 0 && a == b) && (a == 0 || per (a - 1) != 0) && (b == 0 || per (b - 1) != 0))

/-- Ranges and consistency of a group. -/
def setGroupOk (l : List Byte) (g : Nat) : Bool :=
  let o := 0x40 + 24 * g
  let mode (k : Nat) : Nat := leAt l (0x10 + 8 * k) 1
  let dem := leAt l (o + 8) 1
  let sls := leAt l (o + 10) 1
  let rst := leAt l (o + 13) 1
  let win := leAt l (o + 18) 1
  let srcOk (m : Nat) : Bool :=
    decide (m < 32) && (List.range 4).all fun k => !(m / 2 ^ k % 2 == 1) || mode k == 1 || mode k == 2
  let pdu (m : Nat) : Bool := m / 16 % 2 == 1
  srcOk dem && srcOk sls && decide (leAt l (o + 9) 1 ≤ 1) && decide (leAt l (o + 11) 1 ≤ 1) &&
  decide (leAt l (o + 12) 1 ≤ 1) && (rst == 0 || (decide (rst ≤ 4) && mode (rst - 1) == 3)) &&
  within 10 (leAt l (o + 14) 2) 60000 && within 1 (leAt l (o + 16) 2) 1000 && within 1 win 16 &&
  decide (leAt l (o + 19) 2 ≤ 10000) && (!(pdu dem || pdu sls) || leAt l 0x400 4 != 0) &&
  (sls == 0 || (List.range 48).all fun n =>
    !(leAt l o 6 / 2 ^ n % 2 == 1) ||
      (leAt l (0x100 + 16 * n) 1 != 0 && decide (32000 ≤ leAt l (0x104 + 16 * n) 4 * win)))

/-- Ranges and consistency of the whole set. -/
def setRangesOk (l : List Byte) : Bool :=
  setPairsOk l && (List.range 8).all (setGroupOk l) &&
  (List.range 48).all (fun n =>
    let o := 0x100 + 16 * n
    decide (leAt l o 1 ≤ 2) && decide (leAt l (o + 2) 2 ≤ 255) && (leAt l (o + 12) 4 == 0 || leAt l o 1 != 0)) &&
  within 2 (leAt l 0x404 2) 1000 && within 1 (leAt l 0x406 1) 255 && within 1 (leAt l 0x414 2) 100 &&
  within 2 (leAt l 0x416 2) 1000 &&
  (leAt l 0x400 4 == 0 || leAt l 0x410 4 == 0 || leAt l 0x400 4 != leAt l 0x410 4)

/-! ## Records (R424) -/

/-- A record to F0 and to the owner of each axis concerned, each function once. -/
def State.safeEvent (s : State) (axes : List AxId) (type src detail : Nat) (data : List Byte := []) : State :=
  forAll ((allFin 8).filter fun f => f == 0 || axes.any fun n => s.axisOwner n == f)
    (fun s f => s.event f type src detail data) s

def setAt {α : Type} {n : Nat} (v : Vector α n) (i : Fin n) (x : α) : Vector α n := v.set i.val x i.isLt

def State.setPair (s : State) (k : PairId) (x : SafeIn) : State := { s with saf := { s.saf with ins := setAt s.saf.ins k x } }
def State.setGroup (s : State) (g : GrpId) (x : SafGroup) : State := { s with saf := { s.saf with groups := setAt s.saf.groups g x } }

def SafState.code : SafState → Nat
  | .none => 0 | .ss1 => 1 | .ssh => 2 | .sshWait => 3

/-! ## The hold of R409 and the demands of the groups (R402, R408) -/

/-- R409 applies. -/
def State.holdAll (s : State) : Bool := s.bit Fld.SAF_STAT_HOLD_ALL

/-- The SAFETY demand of an axis, and whether a safety function holds it. -/
def State.safetyDemand (s : State) (n : AxId) : Bool :=
  s.holdAll || (allFin 8).any fun g =>
    (s.grpMask g).getLsbD n.val && (s.saf.groups[g].st == .ssh || s.saf.groups[g].st == .sshWait)
def State.safetyHeld (s : State) (n : AxId) : Bool :=
  s.holdAll || (allFin 8).any fun g => (s.grpMask g).getLsbD n.val && s.saf.groups[g].st != .none

/-- SAF_GRP as the groups stand. -/
def State.showGroups (s : State) : State :=
  let w := (allFin 8).foldl (fun (acc : Nat) g =>
    let x := s.saf.groups[g]
    acc + (x.st.code + (if x.slsSince.isSome then 4 else 0) + (if x.slsViol then 8 else 0)) * 16 ^ g.val) 0
  s.setWord .SAF_GRP 0 0 (BitVec.ofNat 32 w)

/-- Bring the SAFETY demands and SAF_HOLD of every axis up to date. -/
def State.refreshSafety (s : State) : State :=
  let m := (allFin 48).foldl (fun (acc : Nat) n => if s.safetyHeld n then acc + 2 ^ n.val else acc) 0
  let s := (s.showGroups.setWord .SAF_HOLD_LO 0 0 (BitVec.ofNat 32 m)).setWord .SAF_HOLD_HI 0 0 (BitVec.ofNat 32 (m / 2 ^ 32))
  forAll (allFin 48) (fun s n =>
    let d := s.safetyDemand n
    if (s.ax n).demands.safety = d then s else s.withDemands n 1 fun q => { q with safety := d }) s

/-- HOLD_ALL from its causes: set not confirmed, channel fault, no intact set (R409). -/
def State.refreshHold (s : State) : State :=
  s.setBit Fld.SAF_STAT_HOLD_ALL 0
    (!s.bit Fld.SAF_STAT_CONF || s.bit Fld.SAF_STAT_CH_FAULT || s.bit Fld.SAF_STAT_PARAM_BAD)

/-! ## Pairs (R397 to R399) -/

/-- Each channel's demand state of a pair: SCA by side A, SCB by side B. -/
def demandSides (mode : Nat) (x : SafeIn) : Bool × Bool :=
  match mode with
  | 1 => (!x.a, !x.b)
  | 2 => (!x.a, x.b)
  | _ => (false, false)

/-- The pair demands. -/
def State.pairDemands (s : State) (k : PairId) : Bool :=
  let x := s.saf.ins[k]
  let m := s.pairMode k
  let (da, db) := demandSides m x
  (m == 1 || m == 2) && (da || db || x.fault)

/-- SAF_PAIR as the pairs stand. -/
def State.pairByte (s : State) (k : PairId) : Nat :=
  let x := s.saf.ins[k]
  (if s.pairDemands k then 1 else 0) + (if x.a then 2 else 0) + (if x.b then 4 else 0) + (if x.fault then 8 else 0) +
    16 * x.cause
def State.showPairs (s : State) : State :=
  s.setWord .SAF_PAIR 0 0 (BitVec.ofNat 32 ((allFin 4).foldl (fun (acc : Nat) k => acc + s.pairByte k * 256 ^ k.val) 0))

/-- A pair fault is raised (R398, R399). -/
def State.pairFault (s : State) (k : PairId) (cause : Nat) : State :=
  let x := s.saf.ins[k]
  if x.fault then (s.setPair k { x with sawDemand := false }).showPairs else
  let s := s.setPair k { x with fault := true, cause := cause, sawDemand := false }
  let s := s.event 0 0x0041 k.val (s.pairByte k)
  s.showPairs

/-- After an input change: discrepancy, the clearing of a fault, and a reset button's press and release (R399, R406). -/
def SafeIn.judge (x : SafeIn) (mode tick : Nat) : SafeIn :=
  let (da, db) := demandSides mode x
  let disc := if (mode == 1 || mode == 2) && da != db then some (x.discSince.getD tick) else none
  let saw := x.sawDemand || (x.fault && da && db)
  let clear := x.fault && x.sawDemand && !da && !db
  let both := mode == 3 && x.a && x.b
  let released := match x.press with
    | some t => !both && decide (t + msTicks 100 ≤ tick) && decide (tick ≤ t + msTicks 5000)
    | none => false
  { x with discSince := disc, fault := x.fault && !clear, cause := if clear then 0 else x.cause,
           sawDemand := if clear then false else saw, press := if both then some (x.press.getD tick) else none,
           resetEv := x.resetEv || released }

/-- SAFE_INPUT_CHANGE: an input has held a new level for 1 ms (R397). -/
def execSafeInputChange (p : PairId) (sideB level : Bool) (s : State) : Out :=
  .next (
    let x := s.saf.ins[p]
    let x := if sideB then { x with b := level } else { x with a := level }
    (s.setPair p (x.judge (s.pairMode p) s.tick)).showPairs)

/-- PER_MS and W_US of a test pulse output; it is enabled while PER_MS is not 0 (R398). -/
def State.tpPeriod (s : State) (k : Fin 4) : Nat := s.par (0x30 + 4 * k.val) 2
def State.tpWidth (s : State) (k : Fin 4) : Nat := s.par (0x32 + 4 * k.val) 2

/-- A pulse of TPk is under way. -/
def State.tpPulsing (s : State) (k : Fin 4) : Bool :=
  match s.saf.tpFrom[k] with
  | some t => s.tpPeriod k != 0 && decide (s.tick < t + 250 * s.tpWidth k)
  | none => false

/-- Level of TPk: off while it is disabled; else on, and low in its pulses (R398). -/
def State.tpLevel (s : State) (k : Fin 4) : Bool := s.tpPeriod k != 0 && !s.tpPulsing k

/-- TEST_PULSE: a pulse of an enabled output is driven, and no other is under way; an input fed from it that is not in its demand state
and has not seen it low is a pair fault (R398). -/
def execTestPulse (k : Fin 4) (fails : List (PairId × Bool)) (s : State) : Out :=
  .next (
    if s.tpPeriod k = 0 ∨ (allFin 4).any s.tpPulsing then s else
    let s : State := { s with saf := { s.saf with tpFrom := setAt s.saf.tpFrom k (some s.tick) } }
    forAll fails (fun s f =>
      let m := s.pairMode f.1
      let (da, db) := demandSides m s.saf.ins[f.1]
      let fed := s.par (pairOff f.1 + (if f.2 then 2 else 1)) 1 == k.val + 1
      if m = 0 ∨ !fed ∨ (if f.2 then db else da) then s else s.pairFault f.1 (if f.2 then 3 else 2)) s)

/-- PAIR_DISCREPANCY: a discrepancy has lasted longer than DISC_MS (R399). -/
def execPairDiscrepancy (p : PairId) (s : State) : Out :=
  .next (
    match s.saf.ins[p].discSince with
    | none => s
    | some t => if s.tick ≤ t + msTicks (s.par (pairOff p + 4) 2) then s else s.pairFault p 1)

/-! ## The black channel (R412 to R416) -/

/-- The CRC of a PDU under a connection identity (R413). -/
def pduCrc (conn : Nat) (p : Pdu) : BitVec 32 := crc32c (leBytes 4 conn ++ padTo 28 p)

def State.commRecord (s : State) (up : Bool) : State :=
  s.event 0 0x0042 0 (if up then 1 else 0) (leBytes 2 s.saf.lastSeq.toNat)

/-- The inbound connection goes UP or DOWN (R415). -/
def State.setConn (s : State) (up : Bool) : State :=
  if s.saf.connUp = up then s else
  let s : State := { s with saf := { s.saf with connUp := up, downCand := none } }
  let s := s.setBit Fld.SAF_COMM_UP 0 up
  (if up then s else s.setBit Fld.SAF_COMM_DOWN_SEEN 0 true).commRecord up

/-- An inbound PDU is accepted: LAST, its demands, the rising ACK bits and the watchdog (R414, R415). -/
def State.acceptPdu (s : State) (p : Pdu) (seq : BitVec 16) : State :=
  let old := BitVec.ofNat 8 (leAt s.saf.lastCmd 2 1)
  let edge := if s.saf.lastCmd.isEmpty then 0 else BitVec.ofNat 8 (leAt p 6 1) &&& ~~~old
  let s : State := { s with saf := { s.saf with
    lastSeq := seq, lastCmd := slice p 4 3, ackEdge := edge, wdDue := s.tick + msTicks (s.par 0x404 2) } }
  s.setFld Fld.SAF_COMM_LAST 0 seq.toNat

/-- The inbound slot is read once a cycle; a PDU that differs from the one read before is judged (R412, R414). -/
def State.readPdu (s : State) : State :=
  let p := Mem.bytes s.shmem 0x1E4000 32
  if s.par 0x400 4 = 0 ∨ p = s.saf.inbound then s else
  let s : State := { s with saf := { s.saf with inbound := p } }
  if pduCrc (s.par 0x400 4) p ≠ BitVec.ofNat 32 (leAt p 0x1C 4) then s.countSat Fld.SAF_COMM_CNT_CRC_ERR 0 else
  let bad (s : State) : State := s.countSat Fld.SAF_COMM_CNT_SEQ_ERR 0
  if leAt p 2 2 ≠ s.par 0x404 2 ∨ leAt p 7 21 ≠ 0 then bad s else
  let seq := BitVec.ofNat 16 (leAt p 0 2)
  if s.saf.connUp then
    let k := (seq - s.saf.lastSeq).toNat
    if 1 ≤ k ∧ k ≤ s.par 0x406 1 then s.acceptPdu p seq else bad s
  else
    let cand (s : State) : State := { s with saf := { s.saf with downCand := some (seq, s.tick) } }
    match s.saf.downCand with
    | none => cand s
    | some (c, t) =>
      if seq = c + 1 ∧ s.tick ≤ t + msTicks (s.par 0x404 2) then (s.acceptPdu p seq).setConn true
      else bad (cand s)

/-- SAFETY_WATCHDOG_EXPIRY: no PDU accepted for WD_MS (R415). -/
def execSafetyWatchdogExpiry (s : State) : Out :=
  .next (
    if !s.saf.connUp || decide (s.tick < s.saf.wdDue) then s else
    ({ s with saf := { s.saf with wdHit := true } }).setConn false)

/-- The outbound PDU (Table 5, R416): formed every PER_MS at a cycle boundary and written to its slot. -/
def State.sendPdu (s : State) : State :=
  if s.par 0x410 4 = 0 ∨ s.tick < s.saf.nextOut then s else
  let bits (l : List Bool) : Byte := BitVec.ofNat 8 ((l.zipIdx.map fun (b, i) => if b then 2 ^ i else 0).foldl (· + ·) 0)
  let gs := s.saf.groups.toList
  let held (x : SafGroup) : Bool := x.st == .ssh || x.st == .sshWait
  let req := (allFin 8).any fun g => s.saf.groups[g].st == .sshWait && s.grpManual g
  let head := leBytes 2 s.saf.outSeq.toNat ++ leBytes 2 (s.par 0x416 2) ++
    [bits ((allFin 4).map s.pairDemands ++ (allFin 4).map fun k => s.saf.ins[k].fault),
     bits (gs.map held), bits (gs.map fun x => x.st == .ss1), bits (gs.map fun x => x.slsSince.isSome),
     bits (gs.map (·.slsViol)),
     bits [s.bit Fld.SAF_STAT_CONF, s.bit Fld.SAF_STAT_CH_FAULT, !s.saf.connUp, req]] ++
    leBytes 2 s.saf.lastSeq.toNat ++ padTo 16 []
  let pdu := head ++ leBytes 4 (pduCrc (s.par 0x410 4) head).toNat
  { s with shmem := Mem.storeBytes s.shmem 0x1E4020 pdu,
           saf := { s.saf with outSeq := s.saf.outSeq + 1, nextOut := s.tick + msTicks (s.par 0x414 2) } }

/-! ## Speed and feedback (R404) -/

/-- A safety feedback fault is latched for an axis. -/
def State.axisFault (s : State) (n : AxId) : Bool :=
  if n.val < 32 then (s.word .SAF_AXF_LO).getLsbD n.val else (s.word .SAF_AXF_HI).getLsbD (n.val - 32)
def State.raiseAxf (s : State) (n : AxId) (cause : Nat) : State :=
  let s := if n.val < 32 then s.setWord .SAF_AXF_LO 0 0 (s.word .SAF_AXF_LO ||| BitVec.ofNat 32 (2 ^ n.val))
    else s.setWord .SAF_AXF_HI 0 0 (s.word .SAF_AXF_HI ||| BitVec.ofNat 32 (2 ^ (n.val - 32)))
  s.safeEvent [n] 0x0044 n.val cause

/-- Take a sample of every counter, and judge counter differences and Hall codes; the axes with a new fault are returned. -/
def State.sampleCounters (s : State) : State × List AxId :=
  let s := forAll (allFin 48) State.settleSca s
  let now := (allFin 48).map fun n => ((s.fbk n).sca, (s.fbk n).scb)
  let bad := (allFin 48).map fun n =>
    let c := (s.fbk n).pins.toNat
    if s.safetyFb n = 1 ∧ (c = 0 ∨ c = 7) then s.saf.badHall.getD n.val 0 + 1 else 0
  let s : State := { s with saf := { s.saf with hist := ((s.tick, now) :: s.saf.hist).take 17, badHall := bad } }
  let fault (n : AxId) : Nat :=
    let d := ((s.fbk n).sca - (s.fbk n).scb).toInt.natAbs
    if s.safetyFb n = 0 ∨ s.axisFault n then 0
    else if s.par (axOff n + 2) 2 < d then 1
    else if 2 ≤ bad.getD n.val 0 then 2 else 0
  let new := (allFin 48).filter fun n => fault n != 0
  let codes := new.map fun n => (n, fault n)
  (forAll codes (fun s nc => s.raiseAxf nc.1 nc.2) s, new)

/-- Counts moved by each counter of an axis over `win` cycles, and the window of each in ns: SCB's exact, SCA's within 0.5 %
of it, a free value. None before enough cycles have passed. -/
def State.speedOf (s : State) (n : AxId) (win : Nat) : Option ((Nat × Nat) × (Nat × Nat)) :=
  match s.saf.hist, s.saf.hist[win]? with
  | (t1, l1) :: _, some (t0, l0) =>
    match l1[n.val]?, l0[n.val]? with
    | some (a1, b1), some (a0, b0) =>
      let w := 4 * (t1 - t0)
      let wa := w * 995 / 1000 + Config.freeNat (s.free + n.val) % (w / 100 + 1)
      some (((a1 - a0).toInt.natAbs, wa), ((b1 - b0).toInt.natAbs, w))
    | _, _ => none
  | _, _ => none

/-- A speed of `c` counts in `w` ns is above a limit in counts/s. -/
def speedAbove (cw : Nat × Nat) (lim : Nat) : Bool := decide (lim * cw.2 < cw.1 * 1000000000)

/-- A speed is above v_lim(t) of R403, `t` ns after a decision at speed `v0`. -/
def aboveRamp (cw v0 : Nat × Nat) (still aMon t : Nat) : Bool :=
  let l : Int := 8 * v0.2 * cw.1 * 10 ^ 18
  let r : Int := (9 * cw.2 * v0.1 * 10 ^ 18 : Nat) - (8 * cw.2 * v0.2 * aMon * t : Nat)
  speedAbove cw still && decide (r < l)

/-- Bits of the axes of a list. -/
def axBits (l : List AxId) : BitVec 48 := l.foldl (fun (a : BitVec 48) n => a ||| BitVec.ofNat 48 (2 ^ n.val)) 0

/-- The judgements of a group in this cycle, which the next one acts on. A violation counts when either channel saw it,
standstill only when both did. -/
def State.judgeGroup (s : State) (g : GrpId) : SafGroup :=
  let x := s.saf.groups[g]
  let o := grpOff g
  let win := s.par (o + 18) 1
  let axes := s.grpAxes g
  let sp := axes.map fun n => (n, s.speedOf n win)
  let slsOn := match x.slsSince with
    | some t => decide (t + msTicks (s.par (o + 19) 2) ≤ s.tick)
    | none => false
  let above (n : AxId) : Option ((Nat × Nat) × (Nat × Nat)) → Bool
    | some (a, b) => speedAbove a (s.par (axOff n + 4) 4) || speedAbove b (s.par (axOff n + 4) 4)
    | none => false
  let t := 4 * (s.tick - x.ss1From)
  let v0 (n : AxId) : (Nat × Nat) × (Nat × Nat) := match x.v0.filter fun p => p.1 == n with
    | [a, b] => (a.2, b.2)
    | _ => ((0, 1), (0, 1))
  let ramp (n : AxId) : Option ((Nat × Nat) × (Nat × Nat)) → Bool
    | some (a, b) =>
      let am := s.par (axOff n + 12) 4
      let st := s.par (axOff n + 8) 4
      am != 0 && s.safetyFb n != 0 && (aboveRamp a (v0 n).1 st am t || aboveRamp b (v0 n).2 st am t)
    | none => false
  let stillAx (n : AxId) : Option ((Nat × Nat) × (Nat × Nat)) → Bool
    | some (a, b) => s.par (axOff n + 12) 4 != 0 && !speedAbove a (s.par (axOff n + 8) 4) && !speedAbove b (s.par (axOff n + 8) 4)
    | none => false
  { x with overSls := if slsOn then axBits ((sp.filter fun p => above p.1 p.2).map (·.1)) else 0,
           overRamp := if x.st = .ss1 then axBits ((sp.filter fun p => ramp p.1 p.2).map (·.1)) else 0,
           still := x.st == .ss1 && sp.all fun p => stillAx p.1 p.2 }

/-! ## Groups (R400 to R407) -/

/-- A source of a group is active: a pair that demands, or the PDU bit at byte `i` of the latest accepted command. -/
def State.sourcePair (s : State) (m : BitVec 8) : Bool := (allFin 4).any fun k => m.getLsbD k.val && s.pairDemands k
def State.pduBit (s : State) (i : Nat) (g : GrpId) : Bool := leAt s.saf.lastCmd i 1 / 2 ^ g.val % 2 == 1

/-- Cause code of the first demand of a group that R401 lists, apart from a latched SLS violation; 0: none. -/
def State.groupDemand (s : State) (g : GrpId) : Nat :=
  let dem := s.grpDem g
  let pdu := dem.getLsbD 4 || (s.grpSls g).getLsbD 4
  if s.sourcePair dem then 1
  else if dem.getLsbD 4 && s.saf.connUp && !s.pduBit 0 g then 2
  else if pdu && !s.saf.connUp then 3
  else if (s.grpAxes g).any s.axisFault then 9
  else 0

/-- A group changes state, with its SAFE_GROUP record. -/
def State.putGroup (s : State) (g : GrpId) (st : SafState) (cause : Nat) : State :=
  let x := s.saf.groups[g]
  let s := s.setGroup g { x with st := st, standSince := none }
  s.safeEvent (s.grpAxes g) 0x0040 g.val (st.code + (if x.slsSince.isSome then 256 else 0)) [BitVec.ofNat 8 cause]

/-- Entry to SS1 (R403): the stop of each axis in RUN or HOLD at its first B_n at least 2 ticks later; the speeds then, SCA's and SCB's
of each axis. -/
def State.enterSs1 (s : State) (g : GrpId) (cause : Nat) : State :=
  let win := s.par (grpOff g + 18) 1
  let v0 := (s.grpAxes g).flatMap fun n => match s.speedOf n win with
    | some (a, b) => [(n, a), (n, b)]
    | none => []
  let s := s.setGroup g { s.saf.groups[g] with ss1From := s.tick, v0 := v0, overRamp := 0, still := false }
  let s := s.putGroup g .ss1 cause
  forAll ((s.grpAxes g).filter fun n => s.axState n == .run || s.axState n == .hold)
    (fun s n => s.requestStop n .ramp 11 (s.tick + 2)) s

/-- One group in one cycle: SLS, the demands and the resets, by R401 to R407. `newAxf`: axes whose feedback fault is new. -/
def State.cycleGroup (s : State) (newAxf : List AxId) (g : GrpId) : State :=
  let x := s.saf.groups[g]
  let o := grpOff g
  let slsSrc := s.grpSls g
  let sls := s.sourcePair slsSrc || (slsSrc.getLsbD 4 && s.pduBit 1 g)
  let slsChanged := sls != x.slsSince.isSome
  let x := { x with slsSince := if sls then some (x.slsSince.getD s.tick) else none }
  let violNew := sls && x.overSls != (0 : BitVec 48) && !x.slsViol
  let x := { x with slsViol := x.slsViol || violNew }
  let s := s.setGroup g x
  let s := if slsChanged then
      s.safeEvent (s.grpAxes g) 0x0040 g.val (x.st.code + (if sls then 256 else 0)) [10]
    else s
  let dem := s.groupDemand g
  let react := s.grpReactSs1 g
  let axfNew := newAxf.any fun n => (s.grpMask g).getLsbD n.val
  let pdu := (s.grpDem g).getLsbD 4 || slsSrc.getLsbD 4
  match x.st with
  | .none =>
    if dem = 0 ∧ !x.slsViol then s else
    let toSsh := (dem != 0 && !s.grpSs1 g) || (x.slsViol && !react)
    let cause := if dem != 0 then dem else 4
    if toSsh then s.putGroup g .ssh cause else s.enterSs1 g cause
  | .ss1 =>
    let still := if x.still then some (x.standSince.getD s.tick) else none
    let s := s.setGroup g { x with standSince := still }
    let stood := match still with | some t => decide (t + msTicks (s.par (o + 16) 2) ≤ s.tick) | none => false
    if s.saf.wdHit && pdu then s.putGroup g .ssh 3
    else if violNew && !react then s.putGroup g .ssh 4
    else if axfNew then s.putGroup g .ssh 9
    else if x.overRamp ≠ 0 then s.putGroup g .ssh 7
    else if stood then s.putGroup g .ssh 5
    else s
  | .ssh =>
    if dem ≠ 0 ∨ violNew then s
    else if s.grpManual g then s.putGroup g .sshWait 8
    else (s.setGroup g { x with slsViol := false }).putGroup g .none 8
  | .sshWait =>
    if dem ≠ 0 ∨ violNew then s.putGroup g .ssh (if dem ≠ 0 then dem else 4) else
    let src := s.par (o + 13) 1
    let ack := if src = 0 then s.saf.ackEdge.getLsbD g.val
      else (allFin 4).any fun k => k.val + 1 == src && s.saf.ins[k].resetEv
    if ack then (s.setGroup g { x with slsViol := false }).putGroup g .none 8 else s

/-- A channel fault puts every axis in SSH until a reset (R396). -/
def State.channelFault (s : State) (ch : Fin 2) (code : Nat) : State :=
  if s.bit Fld.SAF_STAT_CH_FAULT then s else
  let s := s.setBit Fld.SAF_STAT_CH_FAULT 0 true
  let s := s.setFld Fld.SAF_STAT_FCODE 0 code
  let s := s.setFld Fld.SAF_STAT_FCH 0 ch.val
  let s := s.logFault 5 ch.val code
  (s.event 0 0x0043 ch.val code).refreshHold.refreshSafety

/-- The channels run: not while a reset is in progress. -/
def State.channelsRun (s : State) : Bool :=
  match s.pwr.phase with
  | .porHeld => false
  | .warmReset => false
  | _ => true

/-- Each channel inverts its demand lines once a cycle where it does not demand, and holds them static where it does (R394). -/
def State.driveLines (s : State) : State :=
  let m := axBits ((allFin 48).filter fun n => !s.safetyDemand n)
  { s with saf := { s.saf with lineA := s.saf.lineA ^^^ m, lineB := s.saf.lineB ^^^ m } }

/-- SAFETY_CYCLE: a cycle of both channels, 62,500 ticks apart (R392): counters and feedback faults, the inbound PDU, every
group, the demands with their lines, the judgements for the next cycle, and the outbound PDU when it is due. While R409 applies the
groups stand in SSH. -/
def execSafetyCycle (fault : Option (Fin 2 × Fin 9)) (s : State) : Out :=
  .next (
    if !s.channelsRun || decide (s.tick < s.saf.cycleNext) then s else
    let s : State := { s with saf := { s.saf with cycleNext := s.tick + 62500, ackEdge := 0 } }
    let s := match fault with
      | some (ch, c) => if c = 0 then s else s.channelFault ch c.val
      | none => s
    let (s, newAxf) := s.sampleCounters
    let s := s.readPdu
    let s := if s.holdAll then s else forAll (allFin 8) (fun s g => s.cycleGroup newAxf g) s
    let s := forAll (allFin 8) (fun s g => s.setGroup g (s.judgeGroup g)) s
    let ins := s.saf.ins.map fun x => { x with resetEv := false }
    let s : State := { s with saf := { s.saf with wdHit := false, ins := ins }, free := s.free + 48 }
    s.refreshSafety.driveLines.showPairs.sendPdu)

/-- SS1_TIMEOUT: T_SS1 after the decision the group enters SSH (R403). -/
def execSs1Timeout (g : GrpId) (s : State) : Out :=
  .next (
    let x := s.saf.groups[g]
    if x.st ≠ .ss1 ∨ s.tick < x.ss1From + msTicks (s.par (grpOff g + 14) 2) then s else
    (s.putGroup g .ssh 6).refreshSafety)

/-! ## Parameter set and confirmation (R419 to R421) -/

/-- The staging window as bytes. -/
def State.stagedSet (s : State) : List Byte :=
  (List.range 264).flatMap fun i => leBytes 4 (s.word .SAF_PARAM i).toNat

/-- A set becomes the active one: check values, GEN, every group in SSH, and the pairs judged by their modes. -/
def State.activateSet (s : State) (l : List Byte) : State :=
  let c := crc32c l
  let s : State := { s with saf := { s.saf with params := l, groups := Vector.replicate 8 .reset, hist := [], badHall := [] } }
  let s := (forAll (allFin 4) (fun s k => s.setPair k (s.saf.ins[k].judge (s.pairMode k) s.tick)) s).showPairs
  let s := (s.setWord .SAF_CHECK_A 0 0 c).setWord .SAF_CHECK_B 0 0 c
  s.setFld Fld.SAF_PCTL_GEN 0 (leAt l 6 2)

/-- CONF by R420, and what follows from it. -/
def State.refreshConf (s : State) : State :=
  let c := crc32c s.saf.params
  let rec_ := s.saf.confStored == some c && !s.saf.params.isEmpty
  let mis := match s.saf.confPlinth, s.saf.confStored with
    | some p, some r => p != r
    | some _, none => true
    | none, _ => false
  let conf := rec_ && !mis
  let s := s.setBit Fld.SAF_STAT_CONF 0 conf
  let s := s.setBit Fld.SAF_STAT_PLINTH_MIS 0 (mis && s.saf.confStored.isSome)
  let s := s.setWord .SAF_CONF_VAL 0 0 (if conf then c else 0)
  s.refreshHold.refreshSafety

/-- SAFETY_STORE: a write of SAF_PCTL with STORE checks the staged set; a valid one invalidates the confirmation record and
is written to flash (R419). -/
def State.storeSet (s : State) : State :=
  if s.bit Fld.SAF_PCTL_BUSY then s else
  let rej (why : Nat) : State := (s.setBit Fld.SAF_PCTL_REJ 0 true).setFld Fld.SAF_PCTL_REJ_WHY 0 why
  let quiet := (allFin 48).all fun n => match s.axState n with
    | .off => true
    | .idle => true
    | .safe => true
    | _ => false
  let l := s.stagedSet
  if !quiet then rej 1
  else if !setFormatOk l then rej 2
  else if !setRangesOk l then rej 3
  else
    let s := s.setBit Fld.SAF_PCTL_BUSY 0 true
    { s with saf := { s.saf with staged := l, confStored := none } }.refreshConf

def execSafetyStore (fn : FnId) (s : State) : Out := .next (s.setupGate fn State.storeSet)

/-- A flash write of a store has failed, copy A before copy B: that copy is not intact, and the set in force stays (R419). -/
def State.storeFailed (s : State) (copy : Fin 2) : State :=
  let done : Option (List Byte) := if copy = 0 then s.saf.copies[1] else none
  let first : Option (List Byte) := if copy = 0 then none else some s.saf.staged
  let s : State := { s with saf := { s.saf with copies := #v[first, done], staged := [] } }
  let s := (s.setBit Fld.SAF_PCTL_BUSY 0 false).setBit Fld.SAF_PCTL_REJ 0 true
  s.setFld Fld.SAF_PCTL_REJ_WHY 0 5

/-- SAFETY_STORE_DONE: both copies are written and the set becomes active, unconfirmed, or a write has failed (R419). -/
def execSafetyStoreDone (failed : Option (Fin 2)) (s : State) : Out :=
  .next (
    if !s.bit Fld.SAF_PCTL_BUSY then s else
    match failed with
    | some c => s.storeFailed c
    | none =>
    let l := s.saf.staged
    let s : State := { s with saf := { s.saf with copies := Vector.replicate 2 (some l), staged := [] } }
    let s := (s.activateSet l).setBit Fld.SAF_STAT_PARAM_BAD 0 false
    let s := (s.setBit Fld.SAF_PCTL_BUSY 0 false).setBit Fld.SAF_PCTL_DONE 0 true
    s.refreshConf)

/-- SAFE_CONFIRM at its delivery (R421). -/
def execSafeConfirm (src : CmdSrc) (check : BitVec 32) (s : State) : Out :=
  .next (s.deliver src (.safeConfirm check) fun s d =>
    if s.bit Fld.SAF_STAT_CONF && s.word .SAF_CONF_VAL == check then s.complete src .done 0 flNoChange [] d
    else if setFormatOk s.saf.params && setRangesOk s.saf.params && crc32c s.saf.params == check then
      { s with saf := { s.saf with confWrite := s.saf.confWrite ++ [(src, check)] } }
    else s.complete src .fault 7 0 [] d)

/-- CONFIRM_RECORD_WRITTEN: the confirmation record of the oldest SAFE_CONFIRM is in flash with the value that it compared;
the hold of R409 is released where the active set still has that value, and the command completes (R421). -/
def execConfirmRecordWritten (s : State) : Out :=
  .next (
    match s.saf.confWrite with
    | [] => s
    | (src, c) :: rest =>
      let s : State := { s with saf := { s.saf with confWrite := rest, confStored := some c, confPlinth := some c } }
      s.refreshConf.complete src .done)

/-- The stored sets at boot (R419, R420): the intact copy that matches the confirmation record, else the one with the later
GEN; the other copy is rewritten from it. -/
def State.bootSafety (s : State) : State :=
  let l := (s.saf.copies.toList.filterMap id)
  let hit := l.find? fun x => s.saf.confStored == some (crc32c x)
  let later := l.foldl (fun (b : Option (List Byte)) x => match b with
    | none => some x
    | some y => if leAt y 6 2 < leAt x 6 2 then some x else some y) none
  match hit.orElse fun _ => later with
  | none => (s.setBit Fld.SAF_STAT_PARAM_BAD 0 true).refreshHold.refreshSafety
  | some x =>
    let s : State := { s with saf := { s.saf with copies := Vector.replicate 2 (some x) } }
    ((s.activateSet x).setBit Fld.SAF_STAT_PARAM_BAD 0 false).refreshConf

/-- The two copies after a reset during a store: what is not yet written is as before, and the copy being written may be torn (R419, R466). How far
the store has come is free. -/
def Safety.copiesLeft (x : Safety) (free : Nat) : Vector (Option (List Byte)) 2 :=
  if x.staged = [] then x.copies else
  match free % 5 with
  | 0 => x.copies
  | 1 => #v[none, x.copies[1]]
  | 2 => #v[some x.staged, x.copies[1]]
  | 3 => #v[some x.staged, none]
  | _ => Vector.replicate 2 (some x.staged)

/-- What a warm reset does to the safety subsystem: channel faults and feedback faults cleared, counters resynchronised,
connection DOWN, groups in SSH (R396, R404, R415). Pairs keep the levels at the pins. -/
def State.resetSafety (s : State) : State :=
  let z : Safety := .reset
  let old := s.saf
  let ins := old.ins.map fun x => { SafeIn.reset with a := x.a, b := x.b }
  let s : State := { s with saf := { z with ins := ins, copies := old.copiesLeft (Config.freeNat s.free), confStored := old.confStored,
                                            confPlinth := old.confPlinth, params := old.params, nextOut := s.tick, cycleNext := s.tick } }
  let fb := s.fb.map fun x => { x with sca := 0, scb := 0, scaIll := 0, scbIll := 0 }
  { s with fb := fb, free := s.free + 1 }

end Sys2Proof.Machine
end

