-- ==== Sys2Proof/Machine/Thermal.lean ====
section
/-! DEFINITION. Thermal limits, derating and fans (17_thermal.md R472 to R482), and the fault log (16_power_reset.md R467). -/

namespace Sys2Proof.Machine

/-! ## Fault log (R467) -/

/-- FLOG_COPY: the housekeeping core copies the oldest entry that waits to the flash log, a ring of 4,096 entries. NVM_FLOG
shows the entry that NVM_FLOG_IDX names. -/
def State.showFlog (s : State) : State :=
  let w := match s.pwr.flogFlash[s.fld Fld.NVM_FLOG_IDX_IDX]? with
    | some e => e.words
    | none => []
  (List.range 4).foldl (fun (s : State) j => s.setWord .NVM_FLOG_Dj j 0 (w.getD j 0)) s

def execFlogCopy (s : State) : Out :=
  .next (
    match s.pwr.flogWait with
    | [] => s
    | e :: rest =>
      ({ s with pwr := { s.pwr with flogFlash := (e :: s.pwr.flogFlash).take 4096, flogWait := rest } }).showFlog)

/-! ## Fan duty (R477, R478) -/

/-- THM_FANf_STAT.STATE (Table 6). -/
inductive FanState where
  | off | starting | run | tachLost | blocked | open_
  deriving DecidableEq, Repr

def FanState.code : FanState → Nat
  | .off => 0 | .starting => 1 | .run => 2 | .tachLost => 3 | .blocked => 4 | .open_ => 5
def FanState.ofCode : Nat → FanState
  | 0 => .off | 1 => .starting | 2 => .run | 3 => .tachLost | 4 => .blocked | _ => .open_

def State.fanState (s : State) (f : FanId) : FanState := FanState.ofCode (s.fld Fld.THM_FANf_STAT_STATE f.val)
def State.fan (s : State) (f : FanId) : Fan := s.thm.fans[f]
def State.setFan (s : State) (f : FanId) (x : Fan) : State := { s with thm := { s.thm with fans := setAt s.thm.fans f x } }

/-- From a reset request until the housekeeping firmware runs again both fan switches are on at 100 % duty (R477). -/
def State.fansHeld (s : State) : Bool :=
  match s.pwr.phase with
  | .porHeld => true
  | .warmReset => true
  | .bootFail => true
  | .booting => s.pwr.bootSlot.isNone
  | _ => false

/-- Fan duty as a fraction, numerator and denominator (R478): 100 % while the firmware does not run (R477) and in the kicks of a start
(R479). -/
def State.fanDuty (s : State) (f : FanId) : Nat × Nat :=
  let d := s.fld Fld.THM_FANf_CFG_DUTY f.val
  let lo : Int := 10 * Int.ofNat (Nat.min 114 (s.fld Fld.THM_FANf_CFG_T_LO f.val))
  let kick := s.fanState f == .starting && decide (1 ≤ s.fld Fld.THM_FANf_STAT_KICKS f.val)
  if s.fansHeld || kick || decide (1 ≤ s.fld Fld.THM_STAT_LEVEL) then (1, 1)
  else if !s.bit Fld.THM_FANf_CFG_AUTO f.val ∨ s.thm.tj ≤ lo then (d, 255)
  else if 1150 ≤ s.thm.tj then (1, 1)
  else
    let span := (1150 - lo).toNat
    let up := (s.thm.tj - lo).toNat
    (d * span + (255 - d) * up, 255 * span)

/-- The fan's switch is on. -/
def State.fanOn (s : State) (f : FanId) : Bool :=
  s.fansHeld || match s.fanState f with
  | .off => false
  | .blocked => false
  | _ => true

/-- The second of R478 runs while the switch is on at a duty above 0. -/
def State.refreshFanDuty (s : State) (f : FanId) : State :=
  let x := s.fan f
  let from_ := if s.fanOn f && decide (0 < (s.fanDuty f).1) then some (x.dutyFrom.getD s.tick) else none
  s.setFan f { x with dutyFrom := from_ }

/-- The tach is silent: no pulse for 1 s while the duty is above 0 (R478). -/
def State.tachSilent (s : State) (f : FanId) : Bool :=
  decide ((s.fan f).lastPulse + secTicks ≤ s.tick) &&
    match (s.fan f).dutyFrom with
    | some t => decide (t + secTicks ≤ s.tick)
    | none => false

/-! ## Derating (R474, R475) -/

/-- D_TH in 0.1 °C (Table 1, R480). -/
def State.dTh (s : State) : Int :=
  1250 - (if s.bit Fld.THM_STAT_TIGHT then 10 * Int.ofNat (Nat.min 25 (s.fld Fld.THM_CFG_TIGHT)) else 0)

/-- s16 of Tj in 0.1 °C. -/
def State.tjData (s : State) : List Byte := leInt 2 s.thm.tj

/-- The derating level changes: monitoring, field outputs, and the pace warning at level 7. The PWM steps follow at the next
unshifted boundary of each bank. -/
def State.setLevel (s : State) (l : Nat) : State :=
  if s.fld Fld.THM_STAT_LEVEL = l then s else
  let s := s.setFld Fld.THM_STAT_LEVEL 0 l
  let s := (s.setFld Fld.GLB_MON_STAT_TLEVEL 0 (Nat.min l 3)).refreshLevel
  let s := s.setShed (decide (4 ≤ l))
  let s := s.event 0 0x0058 0 l s.tjData
  if l = 7 then s.event 0 0x000C (s.fld Fld.GLB_PACE_STAT_MAX_ENG) (s.fld Fld.GLB_PACE_STAT_MAX_PS) else s

/-- A step that has no effect under the envelope is passed over. -/
def Env.skips (e : Env) (l : Nat) : Bool :=
  match e with
  | .resilient => decide (1 ≤ l) && decide (l ≤ 3)
  | .quiet => l == 5 || l == 6
  | _ => false

/-- The level above and below (R474). -/
def State.levelUp (s : State) : Nat :=
  let l := s.fld Fld.THM_STAT_LEVEL
  match ((List.range 8).filter fun k => decide (l < k) && !s.env.skips k).head? with
  | some k => k
  | none => l
def State.levelDown (s : State) : Nat :=
  let l := s.fld Fld.THM_STAT_LEVEL
  match ((List.range 8).filter fun k => decide (k < l) && !s.env.skips k).getLast? with
  | some k => k
  | none => l

/-- The derating part of an evaluation: the level rises when Tj first reaches D_TH; between the conditions both timers
restart (R474). -/
def State.derating (s : State) : State :=
  let t := s.thm
  let th := s.dTh
  if th ≤ t.tj then
    let s := { s with thm := { t with derate := true, upSince := some (t.upSince.getD s.tick), downSince := none } }
    if t.derate then s else s.setLevel s.levelUp
  else if t.tj ≤ th - 50 then
    { s with thm := { t with derate := false, upSince := none, downSince := some (t.downSince.getD s.tick) } }
  else { s with thm := { t with upSince := none, downSince := none } }

/-- THERMAL_EVALUATION: Tj against the thresholds every 25,000 ticks (R472). -/
def execThermalEvaluation (readings : List Int) (s : State) : Out :=
  .next (
    match readings with
    | [] => s
    | r0 :: rest =>
      if s.tick < s.thm.evalNext then s else
      let best := (rest.zipIdx 1).foldl (fun (b : Int × Nat) (v, i) => if b.1 < v then (v, i) else b) (r0, 0)
      let s : State := { s with thm := { s.thm with readings := readings, tj := best.1, evalNext := s.tick + 25000 } }
      let s := s.setFld Fld.THM_STAT_TJ 0 (best.1 % 4096).toNat
      let s := s.setFld Fld.THM_STAT_MAXSRC 0 best.2
      let tj := best.1
      let warn := s.bit Fld.THM_STAT_WARN
      let warn' := if 1150 ≤ tj then true else if tj ≤ 1120 then false else warn
      let s := if warn = warn' then s else
        let s := s.setBit Fld.THM_STAT_WARN 0 warn'
        let s := if warn' then s.setBit Fld.THM_STAT_WARN_SEEN 0 true else s
        s.event 0 0x0059 best.2 (if warn' then 1 else 0) s.tjData
      let shut := s.thm.shutdown
      let shut' := if 1400 ≤ tj then true else if tj ≤ 1300 then false else shut
      let s := if shut = shut' then s else
        let s := s.setBit Fld.THM_STAT_SHUT 0 shut'
        let s := if shut' then (s.setBit Fld.THM_STAT_SHUT_SEEN 0 true).logFault 6 0 (tj % 2 ^ 32).toNat else s
        let s := s.event 0 0x005A best.2 (if shut' then 1 else 0) s.tjData
        s.withDemandsOf (allFin 48) 1 fun s => { s with thm := { s.thm with shutdown := shut' } }
      forAll (allFin 2) State.refreshFanDuty s.derating)

/-- DERATING_DWELL: a dwell or release timer expires and the level steps (R474). -/
def execDeratingDwell (s : State) : Out :=
  .next (
    match s.thm.upSince, s.thm.downSince with
    | some t, _ =>
      if s.tick < t + Nat.max 1 (s.fld Fld.THM_CFG_DWELL_S) * secTicks then s else
      forAll (allFin 2) State.refreshFanDuty (({ s with thm := { s.thm with upSince := some s.tick } }).setLevel s.levelUp)
    | none, some t =>
      if s.tick < t + Nat.max 1 (s.fld Fld.THM_CFG_REL_S) * secTicks then s else
      forAll (allFin 2) State.refreshFanDuty (({ s with thm := { s.thm with downSince := some s.tick } }).setLevel s.levelDown)
    | none, none => s)

/-! ## Fan events (R479, R480) -/

/-- TIGHT while any enabled fan is OPEN or BLOCKED (R480). -/
def State.refreshTight (s : State) : State :=
  s.setBit Fld.THM_STAT_TIGHT 0 ((allFin 2).any fun f =>
    s.bit Fld.THM_FANf_CFG_EN f.val && (s.fanState f == .open_ || s.fanState f == .blocked))

/-- A measured switch current: CUR in 10 mA. -/
def State.fanCurrent (s : State) (f : FanId) (ma : Nat) : State :=
  (s.setFan f { s.fan f with cur := ma }).setFld Fld.THM_FANf_STAT_CUR f.val (Nat.min 255 (ma / 10))

/-- A fan changes state, with its FAN record (R479). -/
def State.setFanState (s : State) (f : FanId) (st : FanState) : State :=
  if s.fanState f = st then s else
  let s := s.setFld Fld.THM_FANf_STAT_STATE f.val st.code
  let s := if st = .run then s else s.setFld Fld.THM_FANf_TACH_RPM f.val 0
  (s.event 0 0x005B f.val st.code (leBytes 2 (s.fan f).cur)).refreshTight.refreshFanDuty f

/-- STARTING: 2 s for the first tach pulse, no kick yet. -/
def State.startFan (s : State) (f : FanId) : State :=
  let s := s.setFan f { s.fan f with due := s.tick + 2 * secTicks }
  (s.setFld Fld.THM_FANf_STAT_KICKS f.val 0).setFanState f .starting

/-- A write of THM_FANf_CFG: EN starts or stops the channel (R479); the other fields are taken as written. -/
def State.writeFanCfg (s : State) (f : FanId) (w : Word) : State :=
  let was := s.bit Fld.THM_FANf_CFG_EN f.val
  let on := Fld.THM_FANf_CFG_EN.get w == 1
  let s := s.setWord .THM_FANf_CFG f.val 0 (w &&& 0xFFFFFF0F)
  if on && !was then s.startFan f
  else if !on && was then (s.setFanState f .off).refreshTight
  else s.refreshTight.refreshFanDuty f

def execFanEnable (fn : FnId) (f : FanId) (value : Word) (s : State) : Out :=
  .next (s.setupGate fn fun s => s.writeFanCfg f value)

/-- FAN_TACH_PULSE: RPM from the time since the pulse before; STARTING and TACH_LOST go to RUN (R479). -/
def execFanTachPulse (f : FanId) (ma : Nat) (s : State) : Out :=
  .next (
    if s.fansHeld || !s.fanOn f || s.fanState f == .open_ then s else
    let x := s.fan f
    let s := (s.setFan f { x with lastPulse := s.tick }).fanCurrent f ma
    let s := s.setFanState f .run
    let d := s.tick - x.lastPulse
    if x.lastPulse = 0 ∨ d = 0 ∨ 250000000 < d then s else
    let rpm := s.roundFree (60 * 250000000) (d * (s.fld Fld.THM_FANf_CFG_PPR f.val + 1))
    ({ s with free := s.free + 1 }).setFld Fld.THM_FANf_TACH_RPM f.val (Nat.min 65535 rpm))

/-- FAN_TACH_SILENT: no pulse for 1 s while the duty is above 0: BLOCKED at high current, TACH_LOST at a current neither high
nor zero (R478, R479). -/
def execFanTachSilent (f : FanId) (ma : Nat) (s : State) : Out :=
  .next (
    let st := s.fanState f
    if s.fansHeld ∨ (st ≠ .run ∧ st ≠ .tachLost) ∨ !s.tachSilent f then s else
    let s := s.fanCurrent f ma
    let s := s.setFld Fld.THM_FANf_TACH_RPM f.val 0
    if s.fld Fld.THM_FANf_CFG_HIGH f.val * 10 ≤ ma ∨ 1000 ≤ ma then
      (s.setFan f { s.fan f with due := s.tick + 60 * secTicks }).setFanState f .blocked
    else if 20 ≤ ma ∧ st = .run then s.setFanState f .tachLost
    else s)

/-- FAN_KICK_EXPIRY: 2 s of a start without a pulse: the next kick, or BLOCKED after the third (R479). -/
def execFanKickExpiry (f : FanId) (ma : Nat) (s : State) : Out :=
  .next (
    if s.fansHeld ∨ s.fanState f ≠ .starting ∨ s.tick < (s.fan f).due then s else
    let s := s.fanCurrent f ma
    let k := s.fld Fld.THM_FANf_STAT_KICKS f.val
    if k < 3 then
      ((s.setFan f { s.fan f with due := s.tick + 2 * secTicks }).setFld Fld.THM_FANf_STAT_KICKS f.val (k + 1)).refreshFanDuty f
    else (s.setFan f { s.fan f with due := s.tick + 60 * secTicks }).setFanState f .blocked)

/-- FAN_RETRY: a blocked fan retries through STARTING after 60 s (R479). -/
def execFanRetry (f : FanId) (s : State) : Out :=
  .next (if !s.fansHeld ∧ s.fanState f = .blocked ∧ (s.fan f).due ≤ s.tick then s.startFan f else s)

/-- FAN_OPEN: the switch current has been zero for 1 s while the switch is on (R479). -/
def execFanOpen (f : FanId) (held : Nat) (s : State) : Out :=
  .next (if !s.fansHeld ∧ s.fanOn f ∧ secTicks ≤ held then (s.fanCurrent f 0).setFanState f .open_ else s)

/-- FAN_CURRENT_RESTORED: a fan in OPEN draws current again and leaves OPEN: to RUN while tach pulses are present, else
through a start (DESIGN CHOICE: R479 names no target). -/
def execFanCurrentRestored (f : FanId) (ma : Nat) (s : State) : Out :=
  .next (
    if s.fansHeld ∨ s.fanState f ≠ .open_ ∨ ma < 20 then s else
    let s := s.fanCurrent f ma
    if s.tick < (s.fan f).lastPulse + 1 * secTicks then s.setFanState f .run else s.startFan f)

end Sys2Proof.Machine
end

