-- ==== Sys2Proof/Machine/Rings.lean ====
section
/-! DEFINITION. The rings of a function (09_host_rings.md R291 to R299): doorbells, enabling and disabling, completion and
event writes, and MSI-X messages (R306, R307); the owed list of R465. -/

namespace Sys2Proof.Machine

/-- HIF_RING_STAT.STATE (Table 6). -/
inductive RingState where
  | disabled | active | halted | draining
  deriving DecidableEq, Repr

def RingState.code : RingState → Nat
  | .disabled => 0 | .active => 1 | .halted => 2 | .draining => 3
def RingState.ofCode : Nat → RingState
  | 0 => .disabled | 1 => .active | 2 => .halted | _ => .draining

/-- HIF_FSTAT.FSTATE. -/
inductive FnState where
  | absent | ready | resetting
  deriving DecidableEq, Repr

def FnState.code : FnState → Nat
  | .absent => 0 | .ready => 1 | .resetting => 2
def FnState.ofCode : Nat → FnState
  | 0 => .absent | 1 => .ready | _ => .resetting

def State.fnState (s : State) (fn : FnId) : FnState := FnState.ofCode (s.fld Fld.HIF_FSTAT_FSTATE fn.val)
def State.setFnState (s : State) (fn : FnId) (st : FnState) : State :=
  (s.setFld Fld.HIF_FSTAT_FSTATE fn.val st.code).fstatChanged fn
def State.ringState (s : State) (fn : FnId) (r : RingId) : RingState :=
  RingState.ofCode (s.fld Fld.HIF_RING_STAT_STATE fn.val r.val)
def State.setRingState (s : State) (fn : FnId) (r : RingId) (st : RingState) : State :=
  s.setFld Fld.HIF_RING_STAT_STATE fn.val st.code r.val

/-- Ring numbers of Table 5. -/
def compRing : RingId := 4
def eventRing : RingId := 5

/-- Entries of a ring: 2^LOG2, LOG2 limited to 4 to 16 (R292). -/
def State.ringSize (s : State) (fn : FnId) (r : RingId) : Nat :=
  2 ^ Nat.min 16 (Nat.max 4 (s.fld Fld.HIF_RING_CFG_LOG2 fn.val r.val))

def State.ring (s : State) (fn : FnId) (r : RingId) : Ring := (s.fn fn).rings[r]
def State.setRing (s : State) (fn : FnId) (r : RingId) (x : Ring) : State :=
  s.setFn fn { s.fn fn with rings := setAt (s.fn fn).rings r x }

/-- The vector of a ring: HIF_RING_CFG.VEC. -/
def State.ringVec (s : State) (fn : FnId) (r : RingId) : Fin 16 :=
  ⟨s.fld Fld.HIF_RING_CFG_VEC fn.val r.val % 16, Nat.mod_lt _ (by omega)⟩

/-- The device's index of a ring moves on, and HIF_RING_IDX shows it. -/
def State.advanceRing (s : State) (fn : FnId) (r : RingId) (k : Nat) : State :=
  let x := s.ring fn r
  let i := x.devIdx + BitVec.ofNat 32 k
  (s.setRing fn r { x with devIdx := i, phase := i.toNat / s.ringSize fn r % 2 == 0 }).setWord .HIF_RING_IDX fn.val r.val i

/-- Entries of the completion ring reserved (R298): one for each command whose final completion is owed or waits. -/
def State.reserved (s : State) (fn : FnId) : Nat :=
  (s.fn fn).owed.length + ((s.fn fn).comps.filter fun c => c.reserved).length

/-- RESV of the completion ring. -/
def State.refreshResv (s : State) (fn : FnId) : State :=
  s.setFld Fld.HIF_RING_STAT_RESV fn.val (s.reserved fn) compRing.val

/-- Slots of the completion or event ring that the host has released. -/
def State.ringFree (s : State) (fn : FnId) (r : RingId) : Nat :=
  let x := s.ring fn r
  s.ringSize fn r - (x.devIdx - x.hostIdx).toNat

/-- A ring error of Table 7: HALTED, RING_ERR, and a RING_ERR record unless it is the event ring (R295). -/
def State.haltRing (s : State) (fn : FnId) (r : RingId) (err : Nat) : State :=
  let s := s.setRingState fn r .halted
  let s := s.setFld Fld.HIF_RING_STAT_ERR fn.val err r.val
  let s := (s.setBit Fld.HIF_FSTAT_RING_ERR fn.val true).fstatChanged fn
  if r = eventRing then s else s.event fn 0x0006 r.val err

/-- DOORBELL: a write of HIF_DB (R293). Ignored unless the ring is ACTIVE; an invalid index halts it. -/
def State.doorbell (s : State) (fn : FnId) (r : RingId) (v : Word) : State :=
  if s.ringState fn r ≠ .active then s else
  let x := s.ring fn r
  let n := s.ringSize fn r
  let far := if r = compRing ∨ r = eventRing then (x.devIdx - v).toNat else (v - x.devIdx).toNat
  if (v - x.hostIdx).toNat ≤ n ∧ far ≤ n then s.setRing fn r { x with hostIdx := v }
  else s.haltRing fn r 1

def execDoorbell (fn : FnId) (ring : RingId) (value : Word) (s : State) : Out :=
  .next (s.whenUp fun s => s.doorbell fn ring value)

/-! ## The owed list (R465) -/

/-- PWR_LOST.OWED. -/
def State.refreshOwed (s : State) : State := s.setFld Fld.PWR_LOST_OWED 0 s.pwr.owed.length

/-- DATA of a POWER_LOST completion: STATE 0, DELIVERED, CAUSE. -/
def OwedEnt.data (e : OwedEnt) : List Byte := [0, 0, if e.delivered then 1 else 0, BitVec.ofNat 8 e.cause]

/-- The completion ring of a function has become ACTIVE: its owed commands complete with FAULT, POWER_LOST, in order of
acceptance, before any other completion. -/
def State.reportLost (s : State) (fn : FnId) : State :=
  let mine := s.pwr.owed.filter fun e => e.src.fn == fn && !e.queued
  let f := s.fn fn
  let out : List Comp := mine.map fun e =>
    { src := e.src, code := CompCode.fault.code, reason := 10, flags := 0, dt := e.dt, data := padTo 15 e.data, reserved := false }
  let s := s.setFn fn { f with comps := out ++ f.comps }
  { s with pwr := { s.pwr with owed := s.pwr.owed.map fun e => if e.src.fn = fn then { e with queued := true } else e } }

/-- PWR_LOST.DISCARD: F0 empties the whole list. -/
def State.discardLost (s : State) : State :=
  let isLost (c : Comp) : Bool := c.code == CompCode.fault.code && c.reason == 10
  let funcs := s.funcs.map fun f => { f with comps := f.comps.filter fun c => !isLost c }
  ({ s with funcs := funcs, pwr := { s.pwr with owed := [] } }).refreshOwed

def execPwrLostDiscard (fn : FnId) (s : State) : Out := .next (if fn = 0 ∧ s.awake then s.discardLost else s)

/-! ## Enabling and disabling a ring (R294) -/

/-- The fields of HIF_RING_CFG that a write changes: VEC, and LOG2 while the ring is DISABLED. -/
def State.ringCfgFields (s : State) (fn : FnId) (r : RingId) (w : Word) : State :=
  let s := if s.ringState fn r = .disabled then s.setFld Fld.HIF_RING_CFG_LOG2 fn.val (Fld.HIF_RING_CFG_LOG2.get w) r.val else s
  s.setFld Fld.HIF_RING_CFG_VEC fn.val (Fld.HIF_RING_CFG_VEC.get w) r.val

/-- A write of HIF_RING_CFG with EN = 1: a DISABLED ring of a READY function becomes ACTIVE, with both indices 0 and phase 1;
ERR is cleared. -/
def State.enableRing (s : State) (fn : FnId) (r : RingId) (w : Word) : State :=
  let st := s.ringState fn r
  let s := s.ringCfgFields fn r w
  let s := s.setFld Fld.HIF_RING_CFG_EN fn.val 1 r.val
  let s := s.setFld Fld.HIF_RING_STAT_ERR fn.val 0 r.val
  if st ≠ .disabled ∨ s.fnState fn ≠ .ready then s
  else
    let s := (s.setRing fn r .reset).setWord .HIF_RING_IDX fn.val r.val 0
    if (s.word .HIF_RING_BASE_LO fn.val r.val).toNat % 4096 ≠ 0 then s.haltRing fn r 2
    else
      let s := s.setRingState fn r .active
      if r = compRing then s.reportLost fn else s

def execRingEnable (fn : FnId) (ring : RingId) (value : Word) (bme : Bool) (s : State) : Out :=
  .next (s.whenUp fun s => if Fld.HIF_RING_CFG_EN.get value = 1 ∧ s.fnState fn ≠ .absent then
    (s.setFn fn { s.fn fn with busMaster := bme }).enableRing fn ring value else s)

/-- A write of HIF_RING_CFG with EN = 0: ACTIVE and HALTED become DISABLED. -/
def State.disableRing (s : State) (fn : FnId) (r : RingId) (w : Word) : State :=
  let st := s.ringState fn r
  let s := s.ringCfgFields fn r w
  let s := s.setFld Fld.HIF_RING_CFG_EN fn.val 0 r.val
  if st = .active ∨ st = .halted then s.setRingState fn r .disabled else s

def execRingDisable (fn : FnId) (ring : RingId) (value : Word) (s : State) : Out :=
  .next (s.whenUp fun s =>
    if Fld.HIF_RING_CFG_EN.get value = 0 ∧ s.fnState fn ≠ .absent then s.disableRing fn ring value else s)

/-! ## Writes to host memory (R297 to R299) -/

/-- The 32 bytes of a completion entry (Table 5 of 10_descriptors.md). -/
def Comp.bytes (c : Comp) (phase : Bool) : List Byte :=
  leBytes 4 c.src.seq.toNat ++ [BitVec.ofNat 8 c.src.ring.val, c.code, c.reason, c.flags] ++ leBytes 8 c.dt ++
    padTo 15 c.data ++ [if phase then 0x80 else 0]

/-- A latch or other unsolicited completion record (R306). -/
def Comp.isLatch (c : Comp) : Bool := c.code == CompCode.latch.code

/-- The next completion to write: the first that has space. A LATCH record takes unreserved space only (R298). -/
def State.nextComp (s : State) (fn : FnId) : Option Comp :=
  let free := s.ringFree fn compRing
  (s.fn fn).comps.find? fun c => if c.isLatch then decide (s.reserved fn < free) else decide (0 < free)

/-- The completion ring takes writes: ACTIVE, or DRAINING with the ring ACTIVE when the reset began. Nothing is written in
POWER_DOWN (R462). -/
def State.compOpen (s : State) (fn : FnId) : Bool :=
  s.pwr.phase != .powerDown && match s.ringState fn compRing with
  | .active => true
  | .draining => (s.fn fn).canWrite && (s.fn fn).busMaster
  | _ => false

/-- One completion is written: the entry, the index and phase, the vector; a final one is owed no longer, and a POWER_LOST one
leaves the owed list. -/
def State.writeComp (s : State) (fn : FnId) (c : Comp) : State :=
  let x := s.ring fn compRing
  let f := s.fn fn
  let s : State := { s with hostOut := s.hostOut ++ [.completion fn x.devIdx (c.bytes x.phase)] }
  let s := s.setFn fn { f with comps := f.comps.erase c }
  let s := s.advanceRing fn compRing 1
  let vec := if c.isLatch then s.ringVec fn compRing else s.ringVec fn ⟨c.src.ring.val, by omega⟩
  let s := s.signalVec fn vec
  let p := s.pwr
  let s : State := { s with pwr := { p with
    order := if c.reserved then p.order.filter (fun o => decide (o ≠ c.src)) else p.order,
    owed := if c.code = CompCode.fault.code ∧ c.reason = 10 then p.owed.filter (fun e => decide (e.src ≠ c.src)) else p.owed } }
  s.refreshOwed.refreshResv fn

/-- COMPLETION_WRITE: the next waiting completion of a function is written. With Bus Master Enable 0, or where the fabric
does not take the write, an ACTIVE ring halts with error WRITE (Table 7). -/
def execCompletionWrite (fn : FnId) (sent : Bool) (s : State) : Out :=
  .next (
    if !s.compOpen fn then s else
    match s.nextComp fn with
    | none => s
    | some c =>
      if sent && (s.fn fn).busMaster then s.writeComp fn c
      else if s.ringState fn compRing = .active then s.haltRing fn compRing 5
      else s.setFn fn { s.fn fn with canWrite := false })

/-- The 32-byte entries of an event record (Table 11 of 10_descriptors.md). -/
def EvRec.entries (r : EvRec) (phase : Nat → Bool) : List (List Byte) :=
  (List.range r.parts).map fun k =>
    slice r.payload (28 * k) 28 ++ leBytes 2 r.type.toNat ++ [BitVec.ofNat 8 (k + 16 * (r.parts - 1)), if phase k then 0x80 else 0]

/-- A record is written whole, entry after entry. -/
def State.writeEvent (s : State) (fn : FnId) (r : EvRec) : State :=
  let x := s.ring fn eventRing
  let n := s.ringSize fn eventRing
  let l := r.entries fun k => (x.devIdx + BitVec.ofNat 32 k).toNat / n % 2 == 0
  let out := l.zipIdx.map fun (e, k) => HostWrite.event fn (x.devIdx + BitVec.ofNat 32 k) e
  let s : State := { s with hostOut := s.hostOut ++ out }
  let s := s.advanceRing fn eventRing r.parts
  forAll (List.range r.parts) (fun s _ => s.signalVec fn (s.ringVec fn eventRing)) s

/-- EVENT_RECORD_WRITE: an EVT_LOST record where records have been dropped since the last one, else the oldest waiting record,
once all its entries fit (R299, R325). -/
def execEventRecordWrite (fn : FnId) (sent : Bool) (s : State) : Out :=
  .next (
    let f := s.fn fn
    if s.ringState fn eventRing ≠ .active ∨ s.pwr.phase = .powerDown then s else
    match f.evq with
    | [] => s
    | r :: rest =>
      let lost := f.evDropped != 0
      let rec' : EvRec := if lost then ⟨0x0007, leBytes 8 s.now ++ leBytes 4 0 ++ padTo 16 (leBytes 4 f.evDropped)⟩ else r
      if s.ringFree fn eventRing < rec'.parts then s
      else if !(sent && f.busMaster) then s.haltRing fn eventRing 5
      else
        let s := s.setFn fn (if lost then { f with evDropped := 0 } else { f with evq := rest })
        s.writeEvent fn rec')

/-! ## Interrupts (R306, R307) -/

/-- A vector is masked: bit 0 of its vector control word in the MSI-X table. -/
def State.vecMasked (s : State) (fn : FnId) (v : Fin 16) : Bool := (s.word .HIF_MSIX_TAB fn.val (4 * v.val + 3)).getLsbD 0

/-- The pending bit of a vector. -/
def State.setPba (s : State) (fn : FnId) (v : Fin 16) (b : Bool) : State :=
  let w := s.word .HIF_MSIX_PBA fn.val 0
  let m : Word := BitVec.ofNat 32 (2 ^ v.val)
  s.setWord .HIF_MSIX_PBA fn.val 0 (if b then w ||| m else w &&& ~~~m)

/-- MSIX_MESSAGE: a vector with pending entries sends its message once CNT or TIMER is reached and IRQ_MIN has passed; a
masked one sets its pending bit instead. -/
def execMsixMessage (fn : FnId) (vec : Fin 16) (s : State) : Out :=
  .next (
    let f := s.fn fn
    let x := f.vecs[vec]
    let cnt := Nat.max 1 (s.fld Fld.HIF_VMOD_v_CNT fn.val vec.val)
    let due := decide (cnt ≤ x.pendingEntries) || decide (x.since + 250 * s.fld Fld.HIF_VMOD_v_TIMER fn.val vec.val ≤ s.tick)
    let gap := 250 * s.fld Fld.HIF_QOS0_IRQ_MIN fn.val
    let spaced := f.vecs.toList.all fun y => match y.lastMsg with
      | some t => decide (t + gap ≤ s.tick)
      | none => true
    if x.pendingEntries = 0 ∨ !due ∨ !spaced ∨ !f.busMaster ∨ s.pwr.phase = .powerDown then s
    else if s.vecMasked fn vec then s.setPba fn vec true
    else
      let y : VecState := { x with pendingEntries := 0, lastMsg := some s.tick }
      let s := s.setFn fn { f with vecs := setAt f.vecs vec y }
      let s := s.setPba fn vec false
      { s with hostOut := s.hostOut ++ [.msix fn vec] })

end Sys2Proof.Machine
end

