-- ==== Sys2Proof/Machine/Functions.lean ====
section
/-! DEFINITION. Function reset and the coming and going of VFs (09_host_rings.md R291, R308 to R310), and changes of owner
(R285 to R290). -/

namespace Sys2Proof.Machine

/-! ## What a command names (R286, R316) -/

/-- Every axis of a mask. -/
def maskAxes (m : BitVec 48) : List AxId := (allFin 48).filter fun n => m.getLsbD n.val

/-- The master axis of a GEAR or CAM with SRC 0 or 1. -/
def masterAxis (src master : BitVec 8) : List Res :=
  if src.toNat < 2 then (if h : master.toNat < 48 then [.axis ⟨master.toNat, h⟩] else []) else []

/-- The resources that a command names: axes, channels, controllers and queues. -/
def cmdNames (c : HostCmd) : List Res :=
  match c with
  | .groupStop mask _ => (maskAxes mask).map Res.axis
  | .gear n src m _ _ _ _ => .axis n :: masterAxis src m
  | .cam n src m _ _ _ _ _ => .axis n :: masterAxis src m
  | .latchArm n _ dio _ _ _ => .axis n :: (if h : dio.toNat < 48 then [.dio ⟨dio.toNat, h⟩] else [])
  | .dioSet mask _ => ((allFin 48).filter fun d => mask.getLsbD d.val).map Res.dio
  | .canTx k _ _ _ _ => if h : k.toNat < 4 then [.can ⟨k.toNat, h⟩] else []
  | .canMode k _ => if h : k.toNat < 4 then [.can ⟨k.toNat, h⟩] else []
  | .canRecover k => if h : k.toNat < 4 then [.can ⟨k.toNat, h⟩] else []
  | .netTx q _ => if h : q.toNat < 16 then [.txq ⟨q.toNat, h⟩] else []
  | c => match cmdAxis c with
    | some n => [.axis n]
    | none => []

/-- The owner of a resource in force. -/
def State.ownerOf (s : State) : Res → FnId
  | .axis n => s.axisOwner n
  | .dio d => s.dioOwner d
  | .can c => s.canOwner c
  | .txq q => s.txqOwner q

/-! ## Function reset (R308 to R310) -/

/-- CANCELLED for a command, with the state of its axis (Table 9 of 10_descriptors.md). -/
def State.cancel (s : State) (src : CmdSrc) (c : HostCmd) : State :=
  match cmdAxis c with
  | some n => s.complete src .cancelled 0 0 (s.axState n).data
  | none => s.complete src .cancelled

/-- Engines of a function: the axis engines of its axes and the group engines it owns. -/
def State.fnEngines (s : State) (fn : FnId) : List EngId :=
  (allFin 64).filter fun e =>
    if s.engRole e = 2 then (s.eng e).owner == fn
    else (allFin 48).any fun n => s.axisOwner n == fn && (s.axisViewers n).contains e

/-- The latch units that a function armed are disarmed. -/
def State.disarmFn (s : State) (fn : FnId) : State :=
  let off (l : LatchSet) : LatchSet := match l.src with
    | some c => if c.fn = fn then .off else l
    | none => l
  { s with mot := s.mot.map fun m => { m with latches := m.latches.map fun u => { u with cur := off u.cur, old := off u.old } } }

/-- The reset log of a function is cleared at the reset instant (R310). -/
def State.clearLog (s : State) (fn : FnId) : State :=
  let s := s.setWord .HIF_RLOG_CNT fn.val 0 0
  let lo := Reg.addr .HIF_RLOG_SEQ fn.val 0
  { s with regs := Sparse.clearRange lo (lo + 1024) s.regs }

/-- Steps 1 to 4 of R308. What falls in this tick comes before the reset. -/
def State.resetFn (s : State) (fn : FnId) : State :=
  let ok := s.ringState fn compRing == .active
  let s := s.setFnState fn .resetting
  let s := forAll (allFin 6) (fun s r => s.setRingState fn r .draining) s
  let s := s.clearLog fn
  let s := s.setFld Fld.HIF_FSTAT_EVT_DROP fn.val 0
  let s := s.setFn fn { s.fn fn with canWrite := ok, zeroDue := s.tick + 1024 }
  let now := s.now
  let gone := s.accepted.filter fun a => a.src.fn == fn && decide (now < a.d)
  let s : State := { s with accepted := s.accepted.filter fun a => !(a.src.fn == fn && decide (now < a.d)) }
  let s := forAll gone (fun s a => s.cancel a.src a.cmd) s
  let s := forAll (allFin 4) (fun s c =>
    if s.canOwner c = fn then
      let (s', l) := s.resetCan c
      forAll l (fun s src => s.complete src .cancelled) s'
    else s) s
  let s := forAll ((allFin 48).filter fun n => s.axisOwner n == fn) (fun s n =>
    if (s.axState n == .run || s.axState n == .hold) && (s.failover n).arbStop.isNone then
      s.requestStop n (StopCat.ofCode (s.fld Fld.AX_STOPCFG_FRESET_CAT n.val)) 9 (s.tick + 2)
    else s) s
  let s := s.disarmFn fn
  let s := forAll ((s.fnEngines fn).filter fun e => s.bit Fld.ENG_EVCFG_FRESET e.val)
    (fun s e => s.raiseEvent e .fault 16 id) s
  s.refreshResv fn

/-- A Function Level Reset also clears the MSI-X table, to masked vectors, and Bus Master Enable (R309). -/
def State.flrFn (s : State) (fn : FnId) : State :=
  let lo := Reg.addr .HIF_MSIX_TAB fn.val 0
  let s : State := { s with regs := Sparse.clearRange lo (lo + 256) s.regs }
  let s := s.setFn fn { s.fn fn with busMaster := false }
  if s.fnState fn = .ready then s.resetFn fn else s

/-- FUNCTION_RESET: a write of HIF_FCTL by the function itself or by F0, with FRST = 1. ERR_VEC is the function's own. -/
def State.writeFctl (s : State) (by_ fn : FnId) (w : Word) : State :=
  if (by_ ≠ fn ∧ by_ ≠ 0) ∨ s.fnState fn = .absent then s else
  let s := if by_ = fn then s.setFld Fld.HIF_FCTL_ERR_VEC fn.val (Fld.HIF_FCTL_ERR_VEC.get w) else s
  if Fld.HIF_FCTL_FRST.get w = 1 ∧ s.fnState fn = .ready then s.resetFn fn else s

def execFunctionReset (by_ fn : FnId) (value : Word) (s : State) : Out :=
  .next (s.whenUp fun s => if Fld.HIF_FCTL_FRST.get value = 1 then s.writeFctl by_ fn value else s)

/-- FUNCTION_LEVEL_RESET. -/
def execFunctionLevelReset (fn : FnId) (s : State) : Out :=
  .next (s.whenUp fun s => if s.fnState fn = .absent then s else s.flrFn fn)

/-- Every VF is reset and vanishes (R308). -/
def State.clearVfs (s : State) : State :=
  forAll ((allFin 8).filter fun fn => fn != 0 && s.fnState fn != .absent)
    (fun s fn => (s.setFn fn { s.fn fn with vanish := true }).flrFn fn) s

def execVfEnableClear (s : State) : Out := .next (s.whenUp State.clearVfs)

/-- The ring staging area and the shadows of a function are zeroed (R291, R308). -/
def State.zeroStaging (s : State) (fn : FnId) : State :=
  let s := s.setFn fn { s.fn fn with
    comps := [], evq := [], evDropped := 0, posShadow := 0, zposShadow := 0, posFrom := none, zposFrom := none, dtShadow := 0, setShadow := 0 }
  let s : State := { s with pwr := { s.pwr with owed := s.pwr.owed.map fun e => if e.src.fn = fn then { e with queued := false } else e } }
  s.refreshResv fn

/-- VF_ENABLE_SET: F1 to F`num` come into existence and are READY (R291). -/
def execVfEnableSet (num : Fin 8) (s : State) : Out :=
  .next (s.whenUp fun s =>
    forAll ((allFin 8).filter fun fn => fn != 0 && decide (fn.val ≤ num.val) && s.fnState fn == .absent)
      (fun s fn => (s.zeroStaging fn).setFnState fn .ready) s)

/-- Owed completions of a reset that cannot be written go to the reset log: CNT counts them, the first 128 are named (R310). -/
def State.logReset (s : State) (fn : FnId) (l : List CmdSrc) : State :=
  let s := (l.take 128).zipIdx.foldl (fun (s : State) (c, i) =>
    let s := s.setWord .HIF_RLOG_SEQ fn.val i c.seq
    s.setWord .HIF_RLOG_RING fn.val i (BitVec.ofNat 32 c.ring.val ||| 0x80000000)) s
  let s := s.setFld Fld.HIF_RLOG_CNT_CNT fn.val (Nat.min 65535 l.length)
  s.setBit Fld.HIF_RLOG_CNT_OVF fn.val (decide (128 < l.length))

/-- A stop that the reset asked for has not started yet on some axis of the function. -/
def State.stopsWait (s : State) (fn : FnId) : Bool :=
  (allFin 48).any fun n => s.axisOwner n == fn && (match (s.ax n).stopReq with
    | some (_, c) => c == 9
    | none => false)

/-- FUNCTION_RESET_END: every completion of steps 2 and 3 is written or logged, and the staging area is zeroed; every ring is
DISABLED, the function READY (a VF whose VF Enable was cleared: ABSENT), and RST_DONE sets (R308). -/
def execFunctionResetEnd (fn : FnId) (s : State) : Out :=
  .next (
    if s.fnState fn ≠ .resetting ∨ s.tick < (s.fn fn).zeroDue ∨ s.stopsWait fn ||
       (s.compOpen fn && (s.fn fn).comps.any fun c => !c.isLatch) then s else
    let f := s.fn fn
    let lost := (f.comps.filter fun c => c.code == CompCode.cancelled.code).map (·.src)
    let s := if lost.isEmpty then s else s.logReset fn lost
    let s : State := { s with pwr := { s.pwr with order := s.pwr.order.filter fun o => !lost.contains o } }
    let s := s.zeroStaging fn
    let s := forAll (allFin 6) (fun s r =>
      (s.setRingState fn r .disabled).setFld Fld.HIF_RING_CFG_EN fn.val 0 r.val) s
    let s := s.setBit Fld.HIF_FSTAT_RST_DONE fn.val true
    let s := s.setFn fn { s.fn fn with vanish := false }
    s.setFnState fn (if f.vanish then .absent else .ready))

/-! ## Changes of owner (R287 to R290) -/

/-- Staged owner of a resource. -/
def State.stagedOwner (s : State) : Res → FnId
  | .axis n => s.ownNibble .HIF_OWN_AXi n.val
  | .dio d => s.ownNibble .HIF_OWN_DIOi d.val
  | .can c => s.ownNibble .HIF_OWN_CAN c.val
  | .txq q => s.ownNibble .HIF_OWN_NETQi q.val

/-- Every resource with an owner, axes first. -/
def allRes : List Res :=
  (allFin 48).map Res.axis ++ (allFin 48).map Res.dio ++ (allFin 4).map Res.can ++ (allFin 16).map Res.txq

/-- The staged changes. -/
def State.ownStaged (s : State) : List Res := allRes.filter fun r => s.stagedOwner r != s.ownerOf r

/-- The first failing condition of Table 3: 5 before the others (R288). -/
def State.ownCheck (s : State) (l : List Res) : Option Nat :=
  let resetting := l.any fun r => s.fnState (s.ownerOf r) == .resetting || s.fnState (s.stagedOwner r) == .resetting
  let axes := l.any fun r => match r with
    | .axis n => s.axState n != .off
    | _ => false
  let named := l.any fun r => s.accepted.any fun a => a.src.fn == s.ownerOf r && (cmdNames a.cmd).contains r
  let cans := l.any fun r => match r with
    | .can c => s.canModeNow c != 0
    | _ => false
  let queues := l.any fun r => match r with
    | .txq q => !(s.txq q).frames.isEmpty
    | _ => false
  if resetting then some 5 else if axes then some 1 else if named then some 2 else if cans then some 3
  else if queues then some 4 else none

/-- Zeroing of an axis on a change of owner (Table 4): its shared memory, with the coefficient sets and what its image keeps there
(R144), capture buffer, waiting latch records, step ring, shadows, BASE and its engine. The position counter and the set-up registers stay. -/
def State.zeroAxis (s : State) (n : AxId) : State :=
  let s := s.loseMonitor n
  let lo := 0x100000 + 0x4000 * n.val
  let s : State := { s with shmem := Sparse.clearRange lo (lo + 0x4000) s.shmem }
  let s := s.setAx n { s.ax n with win := [], mailIdx := 0, mailOther := [], coef := [], coefPend := [] }
  let s := s.setBit Fld.AX_STATE_COEF_PEND n.val false
  let keep (c : Comp) : Bool := !(c.isLatch && c.data.getD 0 0 == BitVec.ofNat 8 n.val)
  let clr (o : Option AxId) (w : BitVec 32) : BitVec 32 := if o = some n then 0 else w
  let funcs := s.funcs.map fun f =>
    { f with comps := f.comps.filter keep, posShadow := clr f.posFrom f.posShadow, zposShadow := clr f.zposFrom f.zposShadow }
  let s : State := { s with funcs := funcs }
  let s := (s.setMotion n { s.motion n with latches := Vector.replicate 2 .reset, rdIdx := 0, loops := .zero }).refreshStep n
  let s := s.setMoni n { s.moni n with base := [] }
  let s : State := { s with store := { s.store with axis := s.store.axis.filter fun kv => decide (kv.1 ≠ n.val) } }
  match s.axisEngine n with
  | some e =>
    let s := s.setEng e { (s.eng e).zero with prep := some .zeroing, prepDue := s.tick + 400 }
    let s := s.setBit Fld.ENG_STAT_BK e.val false
    let s := s.setFld Fld.ENG_FO_CLAIM e.val 0
    s.setEngState e .clearing
  | none => s

/-- Latch units of every axis that a field channel feeds are disarmed. -/
def State.disarmDio (s : State) (d : DioId) : State :=
  let off (l : LatchSet) : LatchSet := if l.dio.toNat = d.val then .off else l
  { s with mot := s.mot.map fun m => { m with latches := m.latches.map fun u => { u with cur := off u.cur, old := off u.old } } }

/-- What R289 does to a resource whose owner changes. -/
def State.zeroRes (s : State) : Res → State
  | .axis n => s.zeroAxis n
  | .dio d =>
    let s := (s.disarmDio d).enterSafeOut d 3
    s.setChan d { s.chan d with stamps := [] }
  | .can c => s.zeroCan c
  | .txq q => (s.setTxq q .reset).showDepth q

/-- The tick at which zeroing ends: axes one after another, 656 ticks each; the others in parallel (R290, Table 4). -/
def zeroDue (now : Nat) (l : List Res) (r : Res) : Nat :=
  match r with
  | .axis n => now + 656 * (l.filter fun q => match q with
    | .axis k => decide (k.val ≤ n.val)
    | _ => false).length
  | .dio _ => now + 8
  | .can _ => now + 600
  | .txq _ => now + 250

/-- A write of HIF_OWN_CTL.APPLY by F0 (R287, R288): ignored while BUSY. -/
def State.applyOwn (s : State) : State :=
  if s.bit Fld.HIF_OWN_CTL_BUSY then s else
  let l := s.ownStaged
  match s.ownCheck l with
  | some why => (s.setBit Fld.HIF_OWN_CTL_REJ 0 true).setFld Fld.HIF_OWN_CTL_REJ_WHY 0 why
  | none =>
    if l.isEmpty then s.setBit Fld.HIF_OWN_CTL_DONE 0 true else
    let ch := l.map fun r => ({ res := r, to_ := BitVec.ofNat 4 (s.stagedOwner r).val, due := zeroDue s.tick l r } : OwnChange)
    let s := (forAll l State.zeroRes s).setBit Fld.HIF_OWN_CTL_BUSY 0 true
    { s with ownChanges := ch }

def execOwnApply (fn : FnId) (s : State) : Out :=
  .next (s.whenUp fun s => if fn = 0 then s.applyOwn else s)

/-- Put an owner in force. -/
def State.setOwner (s : State) (r : Res) (o : Nat) : State :=
  let put (g : Reg) (i : Nat) : State :=
    let w := (s.word g (i / 8)).toNat
    let sh := 2 ^ (4 * (i % 8))
    s.setWord g (i / 8) 0 (BitVec.ofNat 32 (w - w / sh % 16 * sh + o * sh))
  match r with
  | .axis n => put .HIF_OWNF_AXi n.val
  | .dio d => put .HIF_OWNF_DIOi d.val
  | .can c => put .HIF_OWNF_CAN c.val
  | .txq q => put .HIF_OWNF_NETQi q.val

/-- OWNERSHIP_ZEROING_DONE: all memory of a resource is zero and its new owner is in force; BUSY ends with the last one. -/
def execOwnershipZeroingDone (res : Res) (s : State) : Out :=
  .next (
    match s.ownChanges.find? fun c => c.res == res with
    | none => s
    | some c =>
      if s.tick < c.due then s else
      let rest := s.ownChanges.filter fun k => k.res != res
      let s := ({ s with ownChanges := rest } : State).setOwner res c.to_.toNat
      if rest.isEmpty then (s.setBit Fld.HIF_OWN_CTL_BUSY 0 false).setBit Fld.HIF_OWN_CTL_DONE 0 true else s)

end Sys2Proof.Machine
end

