-- ==== Sys2Proof/Machine/PowerReset.lean ====
section
/-! DEFINITION. Resets, power-fail and the Plinth's commit, VAUX and VBAK, boot slots, and motor hot-plug (16_power_reset.md
R448 to R469). -/

namespace Sys2Proof.Machine

/-! ## What the Plinth keeps (R457, R462, R465) -/

/-- BPOS of an axis at the latest unshifted bank boundary. Where no boundary has fallen since reset the spec states no value:
a free one. -/
def State.commitPos (s : State) (n : AxId) : BitVec 48 :=
  match (s.motion n).caps with
  | (_, p) :: _ => p
  | [] => BitVec.ofNat 48 (Config.freeNat (s.free + n.val))

/-- The commit items of Table 5 are taken. The image is valid once its write has finished. -/
def State.takeCommit (s : State) : State :=
  let steppers := (allFin 48).filter fun n => s.axMode n == 3
  let p := { s.pwr with comPos := (allFin 48).map s.commitPos,
                        comSteps := steppers.map fun n => (n, s.word .AX_STEPCNT n.val, s.bit Fld.AX_MSTAT_POS_UNK n.val),
                        comDt := s.now, commitOk := false, commitDone := false }
  { s with free := s.free + 48, pwr := p }

/-- The accepted commands whose final completion has not been sent join the owed list, in order of acceptance; a list that
overflows 8,192 entries loses its oldest (R465). -/
def State.takeOwed (s : State) (dt cause : Nat) : State :=
  let p := s.pwr
  let new : List OwedEnt := p.order.map fun c =>
    let waits := s.accepted.any fun a => a.src == c && decide (s.now < a.d)
    { src := c, delivered := !waits, dt := dt, cause := cause, queued := false }
  let l : List OwedEnt := (p.owed.map fun e => { e with queued := false }) ++ new
  let s : State := { s with accepted := [], pwr := { p with owed := l.drop (l.length - 8192), order := [] } }
  (if 8192 < l.length then s.setBit Fld.PWR_LOST_OVF 0 true else s).refreshOwed

/-! ## VAUX (R459, R462) -/

/-- The power-fail threshold VAUX_TH in mV: 7.0 V + 0.5 V × code, a code above 106 taken as 106 (Table 8). -/
def State.vauxTh (s : State) : Nat := 7000 + 500 * Nat.min 106 (s.fld Fld.PWR_PF_VAUX_TH)

/-- PWR_STAT.VAUX_OK: VAUX at or above VAUX_TH. -/
def State.refreshVauxOk (s : State) : State := s.setBit Fld.PWR_STAT_VAUX_OK 0 (decide (s.vauxTh ≤ s.pwr.vaux))

/-! ## Profile copies and stores (15_failover.md R442 to R444) -/

/-- The bytes of copy `k` of a profile: the header of Table 7, and the body (R442). -/
def ProfCopy.bytes (p : Fin 4) (k : Nat) (c : ProfCopy) : List Byte :=
  [0x50, 0x52, 0x46, 0x31, BitVec.ofNat 8 p.val, BitVec.ofNat 8 k, 0, 0] ++ leBytes 4 c.gen ++ leBytes 4 c.body.length ++
    leBytes 4 (crc32c c.body).toNat ++ List.replicate 12 0 ++ c.body

/-- The content of copy `k`, where it is intact: its header fields hold valid values and its CRC matches the body (R442). -/
def ProfCopy.parse (p : Fin 4) (k : Nat) (l : List Byte) : Option ProfCopy :=
  let n := leAt l 12 4
  let c : ProfCopy := { gen := leAt l 8 4, body := slice l 32 n }
  if 1 ≤ n ∧ n ≤ 65504 ∧ 32 + n ≤ l.length ∧ l.take 32 = (c.bytes p k).take 32 then some c else none

/-- The copies of a profile that are intact, with their numbers. -/
def Profiles.intact (x : Profiles) (p : Fin 4) : List (Nat × ProfCopy) :=
  x.copies[p].toList.zipIdx.filterMap fun c => (ProfCopy.parse p c.2 c.1).map fun y => (c.2, y)

/-- Two copies are equal when their generation and body are (R442). -/
def ProfCopy.same (a b : ProfCopy) : Bool := a.gen == b.gen && a.body == b.body

/-- `a` has the lower generation, compared modulo 2³² as in R13. -/
def genBelow (a b : Nat) : Bool := decide ((BitVec.ofNat 32 a - BitVec.ofNat 32 b).toInt < 0)

/-- The generation of a new store: one above the highest among the intact copies, modulo 2³² (R13, R443); 1 where there is none. -/
def Profiles.nextGen (x : Profiles) (p : Fin 4) : Nat :=
  match (x.intact p).map (·.2.gen) with
  | [] => 1
  | g :: rest => (rest.foldl (fun m v => if genBelow m v then v else m) g + 1) % 2 ^ 32

/-- The bytes of copy `k` of a profile as they stand in flash from now on. -/
def Profiles.putCopy (x : Profiles) (p : Fin 4) (k : Nat) (l : List Byte) : Profiles :=
  { x with copies := setAt x.copies p (x.copies[p].setIfInBounds k l) }

/-- A profile store begins, whatever starts it: it writes copy 0 first (R443). -/
def Profiles.beginStore (x : Profiles) (p : Fin 4) (body : List Byte) : Profiles :=
  { x with storing := some { p := p, new := { gen := x.nextGen p, body := body }, copy := 0 } }

/-- The copy being written is written in full: the next one follows, and copy 2 completes the store (R443). -/
def Profiles.copyStored (x : Profiles) : Profiles :=
  match x.storing with
  | none => x
  | some w =>
    let y := x.putCopy w.p w.copy (w.new.bytes w.p w.copy)
    { y with storing := if 2 ≤ w.copy then none else some { w with copy := w.copy + 1 } }

/-- The copies that a rewrite has to write, those that are not intact first (R444). -/
def Profiles.disagree (x : Profiles) (p : Fin 4) (c : ProfCopy) : List Nat :=
  let held := x.intact p
  (List.range 3).filter (fun k => !held.any fun y => y.1 == k) ++
    (held.filter fun y => !y.2.same c).map (·.1)

/-- Copies written from `c`. -/
def Profiles.rewritten (x : Profiles) (p : Fin 4) (c : ProfCopy) (l : List Nat) : Profiles :=
  l.foldl (fun x k => x.putCopy p k (c.bytes p k)) x

/-- The copy being written when the power goes: nothing of it written, or its first bytes, up to all of them (R443, R466). -/
def Profiles.tear (x : Profiles) (p : Fin 4) (k : Nat) (c : ProfCopy) (free : Nat) : Profiles :=
  let l := c.bytes p k
  match free % (l.length + 2) with
  | 0 => x
  | n + 1 => x.putCopy p k (l.take n)

/-- A power loss ends a store or a rewrite: it may tear the copy being written, and no other (R443, R444). How far it has come is free. -/
def Profiles.powerLoss (x : Profiles) (free free' : Nat) : Profiles :=
  match x.storing, x.rewrite with
  | some w, _ => { x.tear w.p w.copy w.new free with storing := none, rewrite := none }
  | none, some (p, c) =>
    let l := x.disagree p c
    let n := free' % (l.length + 1)
    let y := x.rewritten p c (l.take n)
    { (match l.drop n with
      | k :: _ => y.tear p k c free
      | [] => y) with rewrite := none }
  | none, none => x

/-! ## What a reset does (R452, Table 3) -/

/-- Access codes that a warm reset retains (R7). -/
def Access.retained : Access → Bool
  | .rws => true
  | .rwsClear => true
  | .rwsHw => true
  | _ => false

/-- The bits of a register that a warm reset retains. -/
def Reg.retainMask (r : Reg) : Word :=
  (Reg.fields r).foldl (fun (m : Word) f => if f.acc.retained then m ||| Fld.ins f 0 (2 ^ f.width - 1) else m) 0

/-- Registers of the field I/O die (R376). -/
def Reg.isDio (r : Reg) : Bool := decide (0xC000 ≤ r.addr) && decide (r.addr < 0xD000)

/-- Registers kept whole: in the Plinth or one-time-programmable over every reset, and over a warm reset also the DIO_
registers, TB_RATE and the fan states. -/
def Reg.kept (warm : Bool) (r : Reg) : Bool :=
  match r with
  | .PWR_BAK => true
  | .PWR_BAKSTAT => true
  | .HIF_RING_SEQ => true
  | .NVM_MINVER => true
  | .TB_RATE => warm
  | .THM_FANf_STAT => warm
  | .THM_FANf_TACH => warm
  | r => warm && Reg.isDio r

/-- The registers after a reset: each at its reset word but for what it keeps. -/
def resetRegs (warm : Bool) (regs : Sparse Word) : Sparse Word :=
  regs.filterMap fun (a, w) =>
    match Reg.find a with
    | none => none
    | some (r, _, _) =>
      let z := Reg.resetAt a
      let m := if warm then Reg.retainMask r else 0
      let v := if Reg.kept warm r then w else (z &&& ~~~m) ||| (w &&& m)
      if v = z then none else some (a, v)

/-- The pins of the position inputs keep their levels. -/
def AxFb.afterReset (x : AxFb) : AxFb :=
  { AxFb.reset with pins := x.pins, pa := x.pa, pb := x.pb, pinSince := x.pinSince, scaPins := x.scaPins }

/-- The filtered Hall code of an axis is the level at its pins. -/
def Axis.afterReset (x : Axis) : Axis :=
  { Axis.reset with hallCode := x.hallCode, hallAt := x.hallAt, hallSector := x.hallSector, hallValid := x.hallValid }

/-- A field channel after power-on reset: everything cleared; an input that is high starts a filter run. -/
def Dio.afterPor (x : Dio) (tick now : Nat) : Dio :=
  { Dio.reset with comp := x.comp, runFrom := if x.comp then some tick else none, stamp := if x.comp then some now else none }

/-- Everything a reset of either kind leaves (R452): the block as State.reset has it, but for what the Plinth, the flash, the
pins and, over a warm reset, the retained fields, device time, the field I/O die and the thermal level hold. -/
def State.resetBlock (s : State) (warm : Bool) : State :=
  let z := State.reset
  let p := s.pwr
  let time : TimeBase := if warm then { s.time with dtSetPend := none, lockRun := 0, refusals := 0, tpoHigh := none } else .reset
  let thm : Thermal := if warm then { s.thm with upSince := none, downSince := none, shutdown := false, evalNext := s.tick } else .reset
  let dios := if warm then s.dios else s.dios.map fun x => x.afterPor s.tick s.now
  let pwr : Power := { Power.reset with
    since := s.tick, commitOk := p.commitOk, commitDone := p.commitDone, comPos := p.comPos, comSteps := p.comSteps,
    comDt := p.comDt, owed := p.owed, flogPlinth := p.flogPlinth, flogFlash := p.flogFlash, flogWait := p.flogWait,
    slots := p.slots, vaux := p.vaux, vauxFrom := p.vauxFrom, vbakAt := p.vbakAt }
  let t : State := { z with
    pending := s.pending, tick := s.tick, dt := s.dt, free := s.free + 2, regs := resetRegs warm s.regs, time := time,
    axes := s.axes.map Axis.afterReset, fb := s.fb.map AxFb.afterReset,
    mon := s.mon.map fun m => { AxMon.reset with base := m.base }, hostOut := s.hostOut, wireOut := s.wireOut,
    dios := dios, dio := if warm then s.dio else .reset, saf := s.saf,
    prof := { s.prof.powerLoss (Config.freeNat s.free) (Config.freeNat (s.free + 1)) with loading := none, queued := [] }, pwr := pwr, thm := thm }
  let t := t.resetSafety
  let t := (t.setBit Fld.PWR_STAT_PL_VBAK 0 (s.bit Fld.PWR_STAT_PL_VBAK)).setBit Fld.PWR_STAT_DEBOUNCE 0 (s.bit Fld.PWR_STAT_DEBOUNCE)
  t.refreshVauxOk.refreshOwed.showLog

/-- An engine that is retired stays FAULTED and RETIRED until power-on reset (R437). -/
def State.keepRetired (s old : State) : State :=
  forAll ((allFin 64).filter fun e => old.bit Fld.ENG_FO_RETIRED e.val) (fun s e =>
    (s.setBit Fld.ENG_FO_RETIRED e.val true).setEngState e .faulted) s

/-- Inputs of the banks that a warm reset finds as they are: VGD, VM and FLT_b. -/
def State.keepSupplies (s old : State) : State :=
  forAll (allFin 6) (fun s b =>
    let x := old.bnk b
    let s := s.setBnk b { s.bnk b with vgdUv := x.vgdUv, vgd := x.vgd, vm := x.vm, fltActive := x.fltActive }
    let s := s.setWord .BNK_MEAS b.val 0 (old.word .BNK_MEAS b.val)
    s.setBit Fld.BNK_PSTAT_VGD_OK b.val (old.bit Fld.BNK_PSTAT_VGD_OK b.val)) s

/-- The time state over a warm reset: HOLDOVER after LOCKING, LOCKED or SLEWING, else as it was (Table 3). -/
def State.keepTime (s old : State) : State :=
  match old.timeState with
  | .locking => (s.setFld Fld.TB_QUAL_STATE 0 TimeState.holdover.code)
  | .locked => (s.setFld Fld.TB_QUAL_STATE 0 TimeState.holdover.code)
  | .slewing => (s.setFld Fld.TB_QUAL_STATE 0 TimeState.holdover.code)
  | st => s.setFld Fld.TB_QUAL_STATE 0 st.code

/-- The level that derating demands of monitoring follows the derating level, which a warm reset keeps (R477). -/
def State.keepLevel (s : State) : State :=
  s.setFld Fld.GLB_MON_STAT_TLEVEL 0 (Nat.min 3 (s.fld Fld.THM_STAT_LEVEL))

/-- A warm reset at its request (R451, R452, R462): legs OFF, the commit, and the reset takes effect. It lasts until
WARM_RESET_END. -/
def State.warmReset (s : State) (cause : Nat) : State :=
  let s := s.takeCommit
  let s : State := { s with pwr := { s.pwr with commitOk := true, commitDone := true } }
  let s := s.takeOwed s.now cause
  let held := match s.timeState with
    | .locking => true
    | .locked => true
    | .slewing => true
    | _ => false
  let e0 := if held then s.timeBound else s.time.e0
  let t := s.resetBlock true
  let t : State := { t with time := { t.time with e0 := e0, holdSince := if held then s.tick else t.time.holdSince },
                            pwr := { t.pwr with phase := .warmReset } }
  let t := (((t.keepRetired s).keepSupplies s).keepTime s).keepLevel
  let t := t.setFld Fld.PWR_RSTC_CAUSE 0 cause
  let t := t.setFld Fld.PWR_RSTC_EP_CNT 0 (s.fld Fld.PWR_RSTC_EP_CNT)
  let t := t.setFld Fld.PWR_RSTC_WARM_CNT 0 (Nat.min 65535 (s.fld Fld.PWR_RSTC_WARM_CNT + 1))
  let t := t.setFld Fld.PWR_BOOT_PSEL 0 (s.fld Fld.PWR_BOOT_PSEL)
  t.setBit Fld.PWR_LOST_OVF 0 (s.bit Fld.PWR_LOST_OVF)

/-- RESET_N_RESET: a pulse of 2,500 ticks or more on RESET_N is taken and one below 1,250 ticks is ignored; which one between them is, is free
(R451). -/
def execResetNReset (low : Nat) (s : State) : Out :=
  .next (
    if !s.awake ∨ low < 1250 then s
    else if 2500 ≤ low then s.warmReset 1
    else
      let t : State := { s with free := s.free + 1 }
      if Config.freeBool s.free then t.warmReset 1 else t)

/-- PWR_RST_KEY: F0 writes 0x5741 to PWR_RST.KEY; any other value is ignored. -/
def State.writeRstKey (s : State) (fn : FnId) (w : Word) : State :=
  if fn = 0 ∧ Fld.PWR_RST_KEY.get w = 0x5741 ∧ s.awake then s.warmReset 2 else s

def execPwrRstKey (fn : FnId) (value : Word) (s : State) : Out := .next (s.writeRstKey fn value)

/-- HK_WATCHDOG_RESET. -/
def execHkWatchdogReset (s : State) : Out := .next (if s.awake then s.warmReset 3 else s)

/-- POWER_FAIL_RESTART: in POWER_DOWN, VAUX has been back at VAUX_TH + 1.0 V for 10 ms without power-on reset (R463). -/
def execPowerFailRestart (mv held : Nat) (s : State) : Out :=
  .next (
    if s.pwr.phase ≠ .powerDown ∨ s.tick < s.pwr.since + 2500000 ∨ mv < s.vauxTh + 1000 ∨ held < 2500000 then s else
    let s : State := { s with pwr := { s.pwr with vaux := mv } }
    let dt := s.pwr.comDt
    let owed := s.pwr.owed.map fun e => if e.dt = dt ∧ e.cause = 0 then { e with cause := 4 } else e
    let s : State := { s with pwr := { s.pwr with owed := owed } }
    s.warmReset 4)

/-- A safety channel whose demand-path test failed (R395): channel fault 4. -/
def State.pathTest (s : State) (f : Option (Fin 2)) : State :=
  match f with
  | some ch => s.channelFault ch 4
  | none => s

/-- WARM_RESET_END: the cause holds no longer and at least 100 µs have passed; boot begins (R451, R453). -/
def execWarmResetEnd (pathFault : Option (Fin 2)) (s : State) : Out :=
  .next (
    if s.pwr.phase ≠ .warmReset ∨ s.tick < s.pwr.since + 25000 then s else
    let s : State := { s with pwr := { s.pwr with phase := .booting, since := s.tick } }
    let s := s.logFault 1 (s.fld Fld.PWR_RSTC_CAUSE) (s.fld Fld.PWR_RSTC_WARM_CNT)
    (forAll (allFin 48) State.initialHall s).pathTest pathFault)

/-- POWER_ON_RESET_ASSERT (R449): everything stops; a commit that has not finished counts as absent (R463). -/
def execPowerOnResetAssert (s : State) : Out :=
  .next (
    if s.pwr.phase = .porHeld then s else
    let torn := s.pwr.phase == .powerDown && !s.pwr.commitDone
    let s := if torn then s.logFault 2 (if s.pwr.pfVcore then 1 else 0) 0 else s
    let s : State := { s with free := s.free + 1 }
    let s := s.takeOwed (Config.freeNat s.free) 0
    let ovf := s.bit Fld.PWR_LOST_OVF
    let t := s.resetBlock false
    let t := t.setBit Fld.PWR_LOST_OVF 0 ovf
    { t with saf := { t.saf with params := [] }, pwr := { t.pwr with phase := .porHeld } })

/-- What the Plinth lost with both its supplies (R458). -/
def State.plinthCold (s : State) : State :=
  let s := s.setWord .PWR_BAK 0 0 (Reg.resetAt (Reg.addr .PWR_BAK))
  let s := forAll (allFin 8) (fun s fn => forAll (allFin 4) (fun s r => s.setWord .HIF_RING_SEQ fn.val r.val 0) s) s
  let s : State := { s with
    mon := s.mon.map fun m => { m with base := [] }, saf := { s.saf with confPlinth := none },
    prof := { s.prof with loaded := none },
    pwr := { s.pwr with commitOk := false, owed := [], flogPlinth := [], flogWait := [], vauxFrom := none } }
  let s := (s.setBit Fld.PWR_STAT_PL_VBAK 0 false).setBit Fld.PWR_STAT_DEBOUNCE 0 false
  (s.setWord .PWR_BAKSTAT 0 0 0).refreshOwed

/-- POWER_ON_RESET: the release, once the supplies have held for 2 ms. DT starts from the Plinth (R328), PSEL is sampled
(R456), and boot begins (R453). -/
def execPowerOnReset (psel : Fin 4) (elapsed : Nat) (cold : Bool) (pathFault : Option (Fin 2)) (s : State) : Out :=
  .next (
    if s.pwr.phase ≠ .porHeld ∨ s.tick < s.pwr.since + 500000 then s else
    let s := if cold then s.plinthCold else s
    let dt := if s.pwr.commitOk then s.pwr.comDt + elapsed else 0
    let s : State := { s with dt := BitVec.ofNat 64 dt, pwr := { s.pwr with phase := .booting, since := s.tick } }
    let s := s.setFld Fld.PWR_BOOT_PSEL 0 psel.val
    let s := s.setBit Fld.PWR_PLINTH_COLD 0 cold
    let s := (s.logFault 1 0 0).showLog
    (forAll (allFin 48) State.initialHall s).pathTest pathFault)

/-- ENDPOINT_RESET (Table 3): every function is reset as by R308, VF Enable is cleared; the rest of the device runs on. -/
def execEndpointReset (s : State) : Out :=
  .next (
    if !s.awake then s else
    let s := s.countSat Fld.PWR_RSTC_EP_CNT 0
    (s.clearVfs).flrFn 0)

/-! ## Power-fail (R462) -/

/-- The supply has been below its threshold for as long as R462 asks: VAUX below VAUX_TH for 500 ticks, VCORE below 0.74 V for 250. -/
def State.supplyFails (s : State) (vcore : Bool) (mv held : Nat) : Bool :=
  if vcore then decide (mv < 740) && decide (250 ≤ held) else decide (mv < s.vauxTh) && decide (500 ≤ held)

/-- POWER_FAIL: legs and BRK_b OFF, nothing more is fetched, admitted or delivered, refreshes stop, take-overs end (R441), and
the commit begins. -/
def execPowerFail (vcore : Bool) (mv held : Nat) (s : State) : Out :=
  .next (
    if !s.awake ∨ !s.supplyFails vcore mv held then s else
    let s := s.takeCommit.takeOwed s.now 0
    let s : State := { s with pwr := { s.pwr with phase := .powerDown, since := s.tick, pfVcore := vcore } }
    let s := s.setBit Fld.PWR_STAT_PFAIL 0 true
    let s := if vcore then s else ({ s with pwr := { s.pwr with vaux := mv } } : State).refreshVauxOk
    let s := forAll (allFin 48) (fun s n =>
      (s.setFailover n { s.failover n with candidate := none, incomplete := none, failedAt := none }).refreshAxis n) s
    forAll (allFin 6) State.refreshBrake s)

/-- PLINTH_COMMIT_DONE: the commit image is whole. -/
def execPlinthCommitDone (s : State) : Out :=
  .next (
    if s.pwr.phase ≠ .powerDown ∨ s.pwr.commitDone then s else
    let s : State := { s with pwr := { s.pwr with commitOk := true, commitDone := true } }
    s.logFault 2 (if s.pwr.pfVcore then 1 else 0) 1)

/-! ## VAUX, VBAK and the charger (R459 to R461) -/

/-- PWR_BAK.PROF; 0b11 is taken as 0b00. -/
def State.bakProf (s : State) : Nat := s.fld Fld.PWR_BAK_PROF % 3

/-- The charger starts or stops with its profile and the Plinth's supply. -/
def State.restartCharge (s : State) : State :=
  s.setFld Fld.PWR_BAKSTAT_CHG 0 (if s.bakProf = 0 ∨ s.bit Fld.PWR_STAT_PL_VBAK then 0 else 1)

/-- VAUX_HANDOVER: below 7.5 V the Plinth runs from VBAK, and the charger stops. -/
def execVauxHandover (mv : Nat) (s : State) : Out :=
  .next (
    let s := ({ s with pwr := { s.pwr with vaux := mv } } : State).refreshVauxOk
    if 7500 ≤ mv then s else
    let s : State := { s with pwr := { s.pwr with vauxFrom := none } }
    ((s.setBit Fld.PWR_STAT_PL_VBAK 0 true).setBit Fld.PWR_STAT_DEBOUNCE 0 false).restartCharge)

/-- VAUX_RETURN: VAUX is at `mv`. At 8.0 V the 50 ms begin, below it they end, and once they have run without a break the Plinth returns to VAUX
(R459). -/
def execVauxReturn (mv : Nat) (s : State) : Out :=
  .next (
    let s := ({ s with pwr := { s.pwr with vaux := mv } } : State).refreshVauxOk
    if !s.bit Fld.PWR_STAT_PL_VBAK then s
    else if mv < 8000 then ({ s with pwr := { s.pwr with vauxFrom := none } } : State).setBit Fld.PWR_STAT_DEBOUNCE 0 false
    else match s.pwr.vauxFrom with
      | none => ({ s with pwr := { s.pwr with vauxFrom := some s.tick } } : State).setBit Fld.PWR_STAT_DEBOUNCE 0 true
      | some t =>
        if s.tick < t + 12500000 then s else
        let s : State := { s with pwr := { s.pwr with vauxFrom := none } }
        ((s.setBit Fld.PWR_STAT_PL_VBAK 0 false).setBit Fld.PWR_STAT_DEBOUNCE 0 false).restartCharge)

/-- The constant voltage of the profile in mV, less its tolerance (R460). -/
def State.bakCv (s : State) : Nat := if s.bakProf = 1 then 4059 else 2646

/-- ICHG in 0.1 mA within the limits of the profile: 0.1 to 5.0 mA for a Li-ion cell, 0.1 to 50.0 mA for a supercapacitor (R460). -/
def State.ichg (s : State) : Nat := Nat.max 1 (Nat.min (if s.bakProf = 1 then 50 else 500) (s.fld Fld.PWR_BAK_ICHG))

def State.setChg (s : State) (c : Nat) : State := s.setFld Fld.PWR_BAKSTAT_CHG 0 c
def State.setVbakMv (s : State) (mv : Nat) : State := s.setFld Fld.PWR_BAKSTAT_VBAK_MV 0 (Nat.min 65535 mv)

/-- The charger stops and applies the test load (R461). -/
def State.beginVbakTest (s : State) : State :=
  ({ s with pwr := { s.pwr with vbakAt := s.tick } } : State).setChg 5

/-- What 1 ms of the test load shows: a fall of more than 0.3 V means that no element is present (R461). -/
def State.endVbakTest (s : State) (before after : Nat) : State :=
  let s := s.setVbakMv after
  let was := s.bit Fld.PWR_BAKSTAT_VBAK_ABSENT
  let rec' (s : State) (d : Nat) : State := s.event 0 0x0056 s.bakProf d (leBytes 2 (Nat.min 65535 after))
  if after + 300 < before then rec' ((s.setBit Fld.PWR_BAKSTAT_VBAK_ABSENT 0 true).setChg 0) 1
  else
    let s := (s.setBit Fld.PWR_BAKSTAT_VBAK_ABSENT 0 false).setChg (if s.bakProf = 1 then 3 else 4)
    if was then rec' s 0 else s

/-- VBAK_TEST: what the charger finds (R460, R461). A test begins when the current at the constant voltage falls below ICHG / 10, and every 60 s
while a supercapacitor floats; with no element present charging restarts every 10 s. -/
def execVbakTest (e : VbakEvent) (s : State) : Out :=
  .next (
    if s.bakProf = 0 ∨ s.bit Fld.PWR_STAT_PL_VBAK then s else
    let chg := s.fld Fld.PWR_BAKSTAT_CHG
    match e with
    | .cv mv => let s := s.setVbakMv mv
      if chg = 1 ∧ s.bakCv ≤ mv then s.setChg 2 else s
    | .load mv ua => let s := s.setVbakMv mv
      if (chg = 2 ∧ ua < 10 * s.ichg) ∨ (chg = 4 ∧ s.pwr.vbakAt + 15000000000 ≤ s.tick) then s.beginVbakTest else s
    | .result before after => if chg = 5 ∧ s.pwr.vbakAt + 250000 ≤ s.tick then s.endVbakTest before after else s
    | .retry =>
      if s.bit Fld.PWR_BAKSTAT_VBAK_ABSENT ∧ chg = 0 ∧ s.pwr.vbakAt + 2500000000 ≤ s.tick then s.restartCharge else s)

/-- VBAK_RECHARGE: a terminated Li-ion element has fallen below 3.95 V (R460). -/
def execVbakRecharge (mv : Nat) (s : State) : Out :=
  .next (
    let s := s.setVbakMv mv
    if s.bakProf = 1 ∧ s.fld Fld.PWR_BAKSTAT_CHG = 3 ∧ mv < 3950 then s.restartCharge else s)

/-! ## Boot slots (R454, R455) -/

def State.slot (s : State) (k : Fin 2) : Slot := s.pwr.slots[k]
def State.setSlot (s : State) (k : Fin 2) (x : Slot) : State :=
  { s with pwr := { s.pwr with slots := setAt s.pwr.slots k x } }

/-- VERSION of a slot's image. -/
def Slot.version (x : Slot) : Nat := Mem.load x.img 4 4

/-- What R454 finds at a slot: 0 valid, else the fault-log detail 1 MAGIC, 2 KEY, 3 SIG, 4 VERSION (Table 6). -/
def State.slotWhy (s : State) (x : Slot) : Nat :=
  let len := Mem.load x.img 8 4
  if Mem.load x.img 0 4 ≠ 0x49425141 then 1
  else if !x.whole then 3
  else if !x.keyOk then 2
  else if !x.sigOk ∨ len = 0 ∨ 2096896 < len then 3
  else if x.version < (s.word .NVM_MINVER).toNat then 4
  else 0

def State.nvmRej (s : State) : State := s.setBit Fld.NVM_SLOT_STAT_REJ 0 true
def State.nvmStart (s : State) (op : NvmOp) : State :=
  ({ s with pwr := { s.pwr with nvmOp := some op } }).setBit Fld.NVM_SLOT_STAT_BUSY 0 true

/-- A write of NVM_SLOT_CTL by F0 (R455): LOCKVER at any time; BEGIN, WRITE and FINISH are ignored while BUSY is 1, and the
first of them that the word sets makes it so. -/
def State.writeSlotCtl (s : State) (fn : FnId) (w : Word) : State :=
  if fn ≠ 0 || !s.awake then s else
  let k : Fin 2 := if Fld.NVM_SLOT_CTL_SLOT.get w = 1 then 1 else 0
  let s := if Fld.NVM_SLOT_CTL_LOCKVER.get w = 1 then
      match s.pwr.bootSlot with
      | some b => s.setWord .NVM_MINVER 0 0 (BitVec.ofNat 32 (Nat.max (s.word .NVM_MINVER).toNat (s.slot b).version))
      | none => s
    else s
  if s.bit Fld.NVM_SLOT_STAT_BUSY then s
  else if Fld.NVM_SLOT_CTL_BEGIN.get w = 1 then
    if s.pwr.bootSlot = some k ∨ ((allFin 48).any fun n => s.axState n != .off) then s.nvmRej
    else
      let s := s.setSlot k .empty
      ({ s with pwr := { s.pwr with nvmBegun := some k } }).nvmStart (.erase k)
  else if Fld.NVM_SLOT_CTL_WRITE.get w = 1 then
    let c := s.fld Fld.NVM_SLOT_SRC_CHUNK
    if s.pwr.nvmBegun ≠ some k ∨ 32 ≤ c then s.nvmRej
    else
      let data := s.shmem.filterMap fun (a, v) => if 0x1C0000 ≤ a ∧ a < 0x1D0000 then some (a - 0x1C0000, v) else none
      let old := Sparse.clearRange (65536 * c) (65536 * (c + 1)) (s.slot k).img
      let img := data.foldl (fun (m : Mem) (a, v) => Mem.putByte m (65536 * c + a) v) old
      (s.setSlot k { Slot.empty with img := img }).nvmStart (.program k c)
  else if Fld.NVM_SLOT_CTL_FINISH.get w = 1 then
    if s.pwr.nvmBegun ≠ some k then s.nvmRej else s.nvmStart (.check k)
  else s

def execNvmBegin (fn : FnId) (value : Word) (s : State) : Out :=
  .next (if Fld.NVM_SLOT_CTL_BEGIN.get value = 1 then s.writeSlotCtl fn value else s)
def execNvmWrite (fn : FnId) (value : Word) (s : State) : Out :=
  .next (if Fld.NVM_SLOT_CTL_WRITE.get value = 1 then s.writeSlotCtl fn value else s)
def execNvmFinish (fn : FnId) (value : Word) (s : State) : Out :=
  .next (if Fld.NVM_SLOT_CTL_FINISH.get value = 1 then s.writeSlotCtl fn value else s)
def execLockver (fn : FnId) (value : Word) (s : State) : Out :=
  .next (if Fld.NVM_SLOT_CTL_LOCKVER.get value = 1 then s.writeSlotCtl fn value else s)

/-- NVM_OP_DONE: BUSY ends. A check that passes R454 sets DONE; one that fails sets REJ, and the slot is erased. -/
def execNvmOpDone (keyOk sigOk : Bool) (s : State) : Out :=
  .next (
    match s.pwr.nvmOp with
    | none => s
    | some op =>
      let s := ({ s with pwr := { s.pwr with nvmOp := none } } : State).setBit Fld.NVM_SLOT_STAT_BUSY 0 false
      match op with
      | .check k =>
        let x : Slot := { s.slot k with whole := true, keyOk := keyOk, sigOk := sigOk }
        if s.slotWhy x = 0 then (s.setSlot k x).setBit Fld.NVM_SLOT_STAT_DONE 0 true
        else (s.setSlot k .empty).nvmRej
      | _ => s)

/-! ## Motor hot-plug (R468, R469) -/

/-- Motor loss by current: N current-loop frames in a row, 0 taken as 1, have looked like it (`State.countLow`). -/
def State.lossByCurrent (s : State) (n : AxId) : Bool :=
  decide (Nat.max 1 (s.fld Fld.AX_PLUG_N n.val) ≤ (s.plug n).lowRuns)

/-- Motor loss by Hall: HALL is 1, FMODE is 0 and the Hall code has read 0b111 for 10 ms. -/
def State.lossByHall (s : State) (n : AxId) : Bool :=
  s.bit Fld.AX_PLUG_HALL n.val && s.fmode n == 0 && (s.ax n).hallCode == 7 && decide ((s.ax n).hallAt + 2500000 ≤ s.tick)

/-- MOTOR_LOSS: the axis enters ABSENT at its next B_n. -/
def execMotorLoss (n : AxId) (byHall : Bool) (s : State) : Out :=
  .next (
    if s.bit Fld.AX_PLUG_EN n.val && s.axState n != .off && s.axState n != .absent &&
       (if byHall then s.lossByHall n else s.lossByCurrent n)
    then s.setAx n { s.ax n with absentReq := true } else s)

/-- PLUG_RETRY_EXPIRY: identification starts as soon as WC_ACTIVE is 0. -/
def execPlugRetryExpiry (n : AxId) (s : State) : Out :=
  .next (
    match (s.plug n).retryDue with
    | some t =>
      if s.axState n ≠ .absent ∨ s.tick < t then s
      else ((s.setPlug n { s.plug n with retryDue := none, waiting := true }).refreshPlug n).tryIdent n
    | none => s)

/-- Frames of an identification: 16 for each of U, V and W; a stepper uses U and V. -/
def State.identTicks (s : State) (n : AxId) : Nat := 16 * (if s.axMode n = 3 then 2 else 3) * s.axPeriod n

/-- The current of each vector reaches IMIN / 256 × I_FS; a stepper has U and V only (R469). -/
def State.identPass (s : State) (n : AxId) (u v w : Nat) : Bool :=
  let m := 256 * s.fld Fld.AX_PLUG_IMIN n.val
  decide (m ≤ u) && decide (m ≤ v) && (s.axMode n == 3 || decide (m ≤ w))

/-- IDENTIFICATION_DONE: a pass, with a valid Hall code where HALL is 1, leads to IDLE at the next B_n; a failure restarts the
timer. -/
def execIdentificationDone (n : AxId) (u v w : Nat) (s : State) : Out :=
  .next (
    match (s.plug n).identFrom with
    | none => s
    | some t =>
      if s.tick < t + s.identTicks n then s
      else if s.identPass n u v w && (!s.bit Fld.AX_PLUG_HALL n.val || (s.ax n).hallValid) then
        ((s.setPlug n { s.plug n with identFrom := none, passed := true }).refreshPlug n).refreshAxis n
      else s.failIdent n)

end Sys2Proof.Machine
end

