-- ==== Sys2Proof/Machine/RegWrite.lean ====
section
/-! DEFINITION. Writes of set-up registers and of the shared-memory window (18_register_map.md R483 to R496, with the write
windows that the owning chapters state). -/

namespace Sys2Proof.Machine

/-! ## One register word -/

/-- What a write makes of a register word by its access codes (R7, R11): RW, RWS and FB fields take the written value, flags
are cleared by ones, and RO, WO and reserved bits stay. -/
def Reg.merge (r : Reg) (old w : Word) : Word :=
  (Reg.fields r).foldl (fun (acc : Word) f =>
    match f.acc with
    | .rw => (acc &&& ~~~f.mask) ||| (w &&& f.mask)
    | .rws => (acc &&& ~~~f.mask) ||| (w &&& f.mask)
    | .fb => (acc &&& ~~~f.mask) ||| (w &&& f.mask)
    | .w1c => acc &&& ~~~(w &&& f.mask)
    | .rwsClear => acc &&& ~~~(w &&& f.mask)
    | .ro => acc
    | .wo => acc
    | .rwsHw => acc) old

/-- The registers with RW fields that hardware updates of its own accord: the roles of a take-over (R435), the domain of the time servo (R336)
and the alignment of the angle (R209). -/
def Reg.hwUpdated : Reg → Bool
  | .ENG_ROLE => true
  | .TB_CFG => true
  | .AX_ANGOFS => true
  | _ => false

/-- The plain effect of a write. A flag that hardware has set in the same tick stays set (R9), and the word stands against a hardware update
in the same tick (R494). -/
def State.mergeReg (s : State) (r : Reg) (i j : Nat) (w : Word) : State :=
  let s := s.setWord r i j (Reg.merge r (s.word r i j) w ||| (s.word r i j &&& s.hwBits (r.addr i j)))
  { s with hostSet := if r.hwUpdated then r.addr i j :: s.hostSet else s.hostSet }

/-- Banks whose start is pending start once their conditions hold, and a decided start waits again where one has ended (R155). -/
def State.retryStarts (s : State) : State :=
  forAll (allFin 6) (fun s b => if (s.bnk b).carrier = .pending ∧ !s.carrierReady b then s else s.tryStart b) s

/-! ## Axis block -/

/-- The registers of the first row of Table 14. -/
def Reg.offOnly : Reg → Bool
  | .AX_CFG => true
  | .AX_PWM => true
  | .AX_FBCFG => true
  | .AX_QCFG => true
  | .AX_ANGCFG => true
  | .AX_ANGOFS => true
  | .AX_SCCFG => true
  | .AX_SSICFG => true
  | .AX_MOTCFG => true
  | .AX_STEPCFG => true
  | .AX_PLUG => true
  | _ => false

/-- Under QUIET the gate-drive profile is mandatory on a premium axis: PROFILE reads 1, and writes of 0 are ignored (R48, R173). -/
def State.mandateProfile (s : State) (n : AxId) : State :=
  if s.env = .quiet ∧ n.premium then s.setBit Fld.AX_PWM_PROFILE n.val true else s

/-- A write to a register that is taken only while the axis is OFF, else CFG_REJ (R151, R189, R191, R260, R496). On a standard
axis a write of SENSE = 1, of ANG_SRC 2 or 3 or of a non-zero PMODE is ignored likewise, and AX_STEPCFG is taken only with MODE
0b11. CFG_BAD follows AX_CFG and AX_FBCFG (R192). A MODE or CDIV that would take a running bank out of the envelope does not take effect
and sets VIOL (R38, R45, R46). -/
def State.writeOffOnly (s : State) (r : Reg) (n : AxId) (w : Word) : State :=
  let rej := s.setBit Fld.AX_STATE_CFG_REJ n.val true
  if s.axState n ≠ .off then rej else
  let t := s.mergeReg r n.val 0 w
  if (s.bnk n.bank).runs && s.envelopeOk n.bank && !t.envelopeOk n.bank then s.setBit Fld.GLB_ENV_VIOL 0 true else
  match r with
  | .AX_CFG =>
    if !n.premium && (Fld.AX_CFG_SENSE.get w == 1 || decide (2 ≤ Fld.AX_CFG_ANG_SRC.get w)) then rej
    else (t.refreshFbCfg n).refreshCapt
  | .AX_FBCFG =>
    if !n.premium && Fld.AX_FBCFG_PMODE.get w != 0 then rej else
    let t := (t.refreshFbCfg n).resetFeedback n
    if s.fmode n = t.fmode n then t
    else if t.fmode n = 0 then t.initialHall n
    else t.noHall n
  | .AX_QCFG => t.resetFeedback n
  | .AX_SCCFG => t.resetFeedback n
  | .AX_SSICFG => t.resetFeedback n
  | .AX_STEPCFG => if s.axMode n = 3 then t else rej
  | .AX_PWM => (t.mandateProfile n).refreshCapt
  | _ => t

/-- An FB register takes the word at once for reads, and its effect waits (R10). -/
def State.writeFb (s : State) (r : Reg) (i : Nat) (w : Word) : State :=
  let s := s.mergeReg r i 0 w
  { s with fbPend := s.fbPend ++ [{ addr := r.addr i, value := s.word r i, at_ := s.tick,
                                    direct := (fbBank (r.addr i)).any s.countsStopped }] }

/-- An axis register. -/
def State.writeAxis (s : State) (r : Reg) (n : AxId) (w : Word) : State :=
  if r.offOnly then s.writeOffOnly r n w
  else if axFbRegs.contains r then s.writeFb r n.val w
  else match r with
    | .AX_POSLD_HI => s.writePosldHi n w
    | _ => s.mergeReg r n.val 0 w

/-! ## Bank block -/

/-- A write of BNK_FLT: the ball keeps its level, which POL now judges; with EN = 1 an active level cuts (R165). -/
def State.writeFlt (s : State) (b : BankId) (w : Word) : State :=
  let pol := s.bit Fld.BNK_FLT_POL b.val
  let s := s.mergeReg .BNK_FLT b.val 0 w
  let x := s.bnk b
  s.judgeFlt b (if s.bit Fld.BNK_FLT_POL b.val = pol then x.fltActive else !x.fltActive)

/-- A bank register (R44, R157, R180, R496). -/
def State.writeBank (s : State) (r : Reg) (b : BankId) (w : Word) : State :=
  if bnkFbRegs.contains r then s.writeFb r b.val w
  else
    let t := s.mergeReg r b.val 0 w
    match r with
    | .BNK_CARRIER =>
      if Fld.BNK_CARRIER_RUN.get w = 1 then s.carrierStartRequest b w
      else if s.bit Fld.BNK_CARRIER_RUN b.val then s.carrierStopRequest b w
      else s.writeCarrierFields b w
    | .BNK_RELEASE =>
      if !(s.bnk b).runs then t.restart b
      else if t.fld Fld.BNK_RELEASE_LAT b.val = s.fld Fld.BNK_RELEASE_LAT b.val then s
      else s.setBit Fld.GLB_ENV_VIOL 0 true
    | .BNK_VM1 =>
      if (s.bnk b).runs && s.vmValid b && !t.vmValid b then s.setBit Fld.GLB_ENV_VIOL 0 true else t.judgeVm b
    | .BNK_VM2 =>
      if (s.bnk b).runs && s.vmValid b && !t.vmValid b then s.setBit Fld.GLB_ENV_VIOL 0 true else t.judgeVm b
    | .BNK_BRK => t.refreshBrake b
    | .BNK_WCACT => s.withDemandsOf (bankAxes b) 1 fun s => s.mergeReg r b.val 0 w
    | .BNK_FLT => s.writeFlt b w
    | _ => t

/-! ## Global, power, thermal and time blocks -/

/-- A write of GLB_ALLOC: DONE and REJ are cleared by ones, then APPLY acts (R93, R441, R493). -/
def State.writeAlloc (s : State) (w : Word) : State :=
  let s := s.mergeReg .GLB_ALLOC 0 0 w
  if Fld.GLB_ALLOC_APPLY.get w = 1 then s.requestApply else s

/-- GLB_SHAFT_CFG and GLB_SHAFT_ID: only while no axis follows the shaft at the head of its queue (R260). -/
def State.writeShaft (s : State) (r : Reg) (w : Word) : State :=
  if (allFin 48).any fun n => s.shaftHead n then s.setBit Fld.GLB_SHAFT_STAT_CFG_REJ 0 true else s.mergeReg r 0 0 w

/-- A write of TB_CFG (R340): MODE only while no carrier runs. In 2412 mode SEL and AUTO read 0, and the registers of domain 1
read 0. -/
def State.writeTbCfg (s : State) (w : Word) : State :=
  let m := Fld.TB_CFG_MODE.get w
  let change := m ≠ s.fld Fld.TB_CFG_MODE
  if change ∧ (allFin 6).any (fun b => (s.bnk b).runs) then s.setBit Fld.TB_QUAL_SET_REJ 0 true else
  let sel := s.fld Fld.TB_CFG_SEL
  let s := s.mergeReg .TB_CFG 0 0 w
  if m = 1 then
    let s := (s.setFld Fld.TB_CFG_SEL 0 0).setFld Fld.TB_CFG_AUTO 0 0
    if ¬change then s else
    let s := (s.setWord .TB_DOMd_OFS 1 0 0).setWord .TB_DOMd_RR 1 0 0
    (s.setDom 1 .reset).setDomValid 1 false
  else
    let s : State := if s.fld Fld.TB_CFG_SEL = sel then s else { s with time := { s.time with selAuto := false } }
    s.autoSelect

/-- A write of TB_TPO: with EN = 0 the output is low. -/
def State.writeTpo (s : State) (w : Word) : State :=
  let s := s.mergeReg .TB_TPO 0 0 w
  if s.bit Fld.TB_TPO_EN then s else { s with time := { s.time with tpoHigh := none } }

/-- Registers of the GLB, PWR, THM and TB blocks. -/
def State.writeGlobal (s : State) (r : Reg) (i j : Nat) (w : Word) : State :=
  let t := s.mergeReg r i j w
  match r with
  | .GLB_PACE_CFG => t.refreshPace
  | .GLB_ALLOC => s.writeAlloc w
  | .GLB_POk_CFG => if h : i < 6 then s.writePoCfg ⟨i, h⟩ w else s
  | .GLB_POk_RATIO => if h : i < 6 then s.writePoRatio ⟨i, h⟩ w else s
  | .GLB_SHAFT_CFG => s.writeShaft r w
  | .GLB_SHAFT_ID => s.writeShaft r w
  | .GLB_MON_CFG => t.refreshLevel
  | .PWR_RST => s.writeRstKey 0 w
  | .PWR_PF => t.refreshVauxOk
  | .PWR_BAK => if t.bakProf = s.bakProf then t else t.restartCharge
  | .PWR_LOST => if Fld.PWR_LOST_DISCARD.get w = 1 then t.discardLost else t
  | .THM_FANf_CFG => if h : i < 2 then s.writeFanCfg ⟨i, h⟩ w else s
  | .TB_SET_HI => s.writeTbSetHi w
  | .TB_CFG => s.writeTbCfg w
  | .TB_TPO => s.writeTpo w
  | _ => t

/-! ## Network, CAN, field I/O, safety and NVM blocks -/

/-- Network registers (R347, R348, R353). -/
def State.writeNet (s : State) (r : Reg) (i j : Nat) (w : Word) : State :=
  let t := s.mergeReg r i j w
  match r with
  | .NET_RXB_BASE_LO => if s.bit Fld.NET_RXB_CFG_EN then s else t
  | .NET_RXB_BASE_HI => if s.bit Fld.NET_RXB_CFG_EN then s else t
  | .NET_RXB_CFG => if Fld.NET_RXB_CFG_EN.get w = 1 then t.setWord .NET_RXB_WR 0 0 0 else t
  | .NET_TXQq_CFG =>
    if h : i < 16 then (if s.txQueued ⟨i, h⟩ = 0 then t else s.setBit Fld.NET_TXQq_STAT_CFG_REJ i true) else s
  | .NET_GCLp_ENT =>
    if s.fld Fld.NET_GCLp_CTL_OPER_BANK i = j / 64 then s.setBit Fld.NET_GCLp_CTL_ERR i true else t
  | .NET_GCLp_CTL => if h : i < 2 then s.writeGclCtl ⟨i, h⟩ w else s
  | _ => t

/-- CAN registers (R374). -/
def State.writeCan (s : State) (r : Reg) (c : CanId) (j : Nat) (w : Word) : State :=
  let t := s.mergeReg r c.val j w
  let stopped := if s.canModeNow c = 0 then t else s.setBit Fld.CAN_STAT_CFG_REJ c.val true
  let en := s.bit Fld.CAN_RXB_CFG_EN c.val
  match r with
  | .CAN_CFG => stopped
  | .CAN_NTIM => stopped
  | .CAN_DTIM => stopped
  | .CAN_FLTe_W0 => stopped
  | .CAN_FLTe_W1 => stopped
  | .CAN_RXB_BASE_LO => if en then s else t
  | .CAN_RXB_BASE_HI => if en then s else t
  | .CAN_RXB_CFG =>
    let t := if en then t.setFld Fld.CAN_RXB_CFG_LOG2 c.val (s.fld Fld.CAN_RXB_CFG_LOG2 c.val) else t
    if Fld.CAN_RXB_CFG_EN.get w = 1 then t.setWord .CAN_RXB_WR c.val 0 0 else t
  | _ => t

/-- F0 clears TOTAL by writing 1 to it (R383). -/
def State.clearTotal (s : State) (w : Word) : State :=
  let t := s.mergeReg .DIO_GSTAT 0 0 w
  if Fld.DIO_GSTAT_TOTAL.get w = 1 then t.endTotal else t

/-- Field I/O, safety, NVM and engine registers. -/
def State.writeLocal (s : State) (r : Reg) (i j : Nat) (w : Word) : State :=
  let t := s.mergeReg r i j w
  match r with
  | .DIO_CHn_CFG => if h : i < 48 then s.writeDioCfg ⟨i, h⟩ w else s
  | .DIO_GSTAT => s.clearTotal w
  | .SAF_PCTL => if Fld.SAF_PCTL_STORE.get w = 1 then t.storeSet else t
  | .NVM_SLOT_CTL => s.writeSlotCtl 0 w
  | .NVM_FLOG_IDX => t.showFlog
  | _ => t

/-! ## Function blocks (R282, R283) -/

/-- The sum of RATE over all functions with the RATE of one replaced (R302). -/
def State.rateSum (s : State) (g : Nat) (rate : Nat) : Nat :=
  (allFin 8).foldl (fun (n : Nat) f => n + (if f.val = g then rate else s.fld Fld.HIF_QOS0_RATE f.val)) 0

/-- A register of the block of function `g`, written by function `by_`. -/
def State.writeFnReg (s : State) (by_ : FnId) (r : Reg) (g : FnId) (j : Nat) (w : Word) : State :=
  let own := by_ == g
  let t := s.mergeReg r g.val j w
  let dis := if h : j < 6 then s.ringState g ⟨j, h⟩ == .disabled else false
  match r with
  | .HIF_DB => if own then (if h : j < 6 then s.doorbell g ⟨j, h⟩ w else s) else s
  | .HIF_RING_BASE_LO => if own && dis then t else s
  | .HIF_RING_BASE_HI => if own && dis then t else s
  | .HIF_RING_SEQ => if own && dis && decide (j < 4) then t else s
  | .HIF_RING_CFG =>
    if h : j < 6 then
      if !own then s
      else if Fld.HIF_RING_CFG_EN.get w = 1 then s.enableRing g ⟨j, h⟩ w
      else s.disableRing g ⟨j, h⟩ w
    else s
  | .HIF_MSIX_TAB => if own then t else s
  | .HIF_FCTL => s.writeFctl by_ g w
  | .HIF_FSTAT => if own then (if s.word r g.val = t.word r g.val then s else t.fstatChanged g) else s
  | .HIF_VMOD_v => if own then t else s
  | .HIF_QOS0 =>
    if by_ ≠ 0 then s
    else if 40 < s.rateSum g.val (Fld.HIF_QOS0_RATE.get w) ∧ s.rateSum g.val (s.fld Fld.HIF_QOS0_RATE g.val) <
        s.rateSum g.val (Fld.HIF_QOS0_RATE.get w) then (s.setBit Fld.HIF_FSTAT_QOS_REJ 0 true).fstatChanged 0
    else t
  | .HIF_QOS1 => if by_ = 0 then t else s
  | _ => s

/-- The ownership registers, in the block of F0. -/
def State.writeOwn (s : State) (by_ : FnId) (r : Reg) (i : Nat) (w : Word) : State :=
  if by_ ≠ 0 then s else
  match r with
  | .HIF_OWN_CTL =>
    let s := s.mergeReg r 0 0 w
    if Fld.HIF_OWN_CTL_APPLY.get w = 1 then s.applyOwn else s
  -- Bit 4j + 3 of each owner field is reserved (Table 10).
  | _ => s.mergeReg r i 0 (w &&& 0x77777777)

/-- The ownership registers. -/
def Reg.isOwn : Reg → Bool
  | .HIF_OWN_AXi => true
  | .HIF_OWN_DIOi => true
  | .HIF_OWN_CAN => true
  | .HIF_OWN_NETQi => true
  | .HIF_OWN_CTL => true
  | .HIF_OWNF_AXi => true
  | .HIF_OWNF_DIOi => true
  | .HIF_OWNF_CAN => true
  | .HIF_OWNF_NETQi => true
  | _ => false

/-! ## The whole map (R483, R489) -/

/-- A write to the instance `i`, `j` of a register outside the function blocks. -/
def State.writeSetup (s : State) (r : Reg) (i j : Nat) (w : Word) : State :=
  let a := r.addr
  let s :=
    if a < 0x4000 then s.writeGlobal r i j w
    else if a < 0x8000 then s.writeNet r i j w
    else if a < 0xC000 then (if h : i < 4 then s.writeCan r ⟨i, h⟩ j w else s)
    else if a < 0x20000 then s.writeLocal r i j w
    else if a < 0x40000 then (if h : i < 6 then s.writeBank r ⟨i, h⟩ w else s)
    else if h : i < 48 then s.writeAxis r ⟨i, h⟩ w else s
  s.retryStarts

/-- Blocks that R489 does not close: PWR_, NVM_ and GLB_SMWIN. -/
def openAlways (a : Nat) : Bool :=
  (decide (0x1000 ≤ a) && decide (a < 0x1800)) || (decide (0xE000 ≤ a) && decide (a < 0xF000)) || a == 0x60

/-- One aligned 32-bit write at an offset of BAR0 of F0. -/
def State.writeAt (s : State) (by_ : FnId) (a : Nat) (w : Word) : State :=
  match Reg.find a with
  | none => s
  | some (r, i, j) =>
    if 0x100000 ≤ a then
      if r.isOwn then s.writeOwn by_ r i w
      else if h : i < 8 then s.writeFnReg by_ r ⟨i, h⟩ j w else s
    else if by_ ≠ 0 then s
    else s.writeSetup r i j w

/-- Registers respond: not in a reset or in POWER_DOWN; in BOOT_FAIL only the PWR_ and NVM_ registers of F0 (R454). -/
def State.responds (s : State) (a : Nat) : Bool :=
  match s.pwr.phase with
  | .porHeld => false
  | .warmReset => false
  | .powerDown => false
  | .bootFail => openAlways a && a != 0x60
  | .booting => true
  | .ready => true

/-! ## The shared-memory window (R484) -/

/-- A shared-memory byte that a host write does not reach: a cam table in use (07_motion.md), the band sets while monitoring is
enabled and the capture buffers (08_condition.md), the outbound PDU slot (14_safety.md). -/
def State.hostBlocked (s : State) (a : Nat) : Bool :=
  (decide (0x100000 ≤ a) && decide (a < 0x1C0000)) ||
  (decide (0x1E0000 ≤ a) && decide (a < 0x1E0800) && s.bit Fld.GLB_MON_CFG_EN) ||
  (decide (0x1E4020 ≤ a) && decide (a < 0x1E4100)) ||
  (decide (0x1F0000 ≤ a) && decide (a < 0x200000) && (s.fld Fld.GLB_CAM_BUSY_BUSY).testBit ((a - 0x1F0000) / 0x1000))

/-- A write of bytes at an offset of the window. It waits behind the engines that wait for shared memory (R21). -/
def State.windowWrite (s : State) (off : Nat) (data : List Byte) : State :=
  let base := s.fld Fld.GLB_SMWIN_PAGE * 0x100000
  let ws := (data.zipIdx.filter fun (_, k) => decide (off + k < 0x100000) && !s.hostBlocked (base + off + k)).map fun (b, k) =>
    (base + off + k, [b])
  State.hostTurn { s with hostWin := s.hostWin ++ ws }

/-- An F0 write is closed by R489: it is ignored and sets WR_REJ. -/
def State.closed (s : State) : Bool := !s.bit Fld.GLB_STAT_READY || s.bit Fld.GLB_STAT_LOADING

/-- SHMEM_WINDOW_WRITE: a write of any length at a byte offset of the window in BAR0 of F0. -/
def execShmemWindowWrite (fn : FnId) (addr : BitVec 32) (data : List Byte) (s : State) : Out :=
  .next (
    let a := addr.toNat
    if fn ≠ 0 ∨ a < 0x300000 ∨ 0x400000 ≤ a ∨ !s.responds a then s
    else if s.closed then s.setBit Fld.GLB_STAT_WR_REJ 0 true
    else s.windowWrite (a - 0x300000) data)

/-- The offset in BAR0 of F0 that a function's own offset names; none where it names nothing (R282, R486). -/
def barOffset (fn : FnId) (a : Nat) : Option Nat :=
  if fn = 0 then some a else if a < 0xF000 then some (0x100000 + 0x10000 * fn.val + a) else none

/-- A 32-bit write by a function at an offset of its BAR0. -/
def State.hostWrite (s : State) (fn : FnId) (a : Nat) (w : Word) : State :=
  match barOffset fn a with
  | none => s
  | some o =>
    if !s.responds o ∨ s.fnState fn = .absent ∨ o % 4 ≠ 0 then s
    else
      let fnBlock := decide (0x100000 ≤ o) && decide (o < 0x180000)
      if fn = 0 ∧ !fnBlock ∧ !openAlways o ∧ s.closed then s.setBit Fld.GLB_STAT_WR_REJ 0 true
      else if 0x300000 ≤ o ∧ o < 0x400000 then s.windowWrite (o - 0x300000) (leBytes 4 w.toNat)
      else s.writeAt fn o w

/-- REGISTER_WRITE: one 32-bit write of a function at an offset of its own BAR0. Writes to unassigned offsets and to the
instruction-memory window are ignored (R11, R485). -/
def execRegisterWrite (fn : FnId) (addr : BitVec 32) (value : Word) (s : State) : Out :=
  .next (s.hostWrite fn addr.toNat value)

end Sys2Proof.Machine
end

