-- ==== Sys2Proof/Machine/Boot.lean ====
section
/-! DEFINITION. Profile loads (15_failover.md R442 to R445, 16_power_reset.md R456) and the boot sequence (R453, R454, R457,
R458). -/

namespace Sys2Proof.Machine

/-! ## The admission of an image (R30, R34, R83, R88, R303) -/

/-- Cost of an engine's image over its period, as a fraction (R88, R303). -/
def State.engShare (s : State) (e : EngId) (h : ImageHdr) : Nat × Nat := (h.totalCost, Nat.max 1 (s.engPeriod e * 4000))

/-- The group engines of a function stay within its ENG_SHARE with `h` on engine `e` (R303). `held` gives the image that an
engine holds or will hold. -/
def State.shareOk (s : State) (fn : FnId) (e : EngId) (h : ImageHdr) (held : EngId → Option ImageHdr) : Bool :=
  let l := (allFin 64).filterMap fun m =>
    if m = e then some (s.engShare m h)
    else if s.engRole m = 2 ∧ (s.eng m).owner = fn then (held m).map (s.engShare m) else none
  let sum := l.foldl (fun (a : Nat × Nat) q => (a.1 * q.2 + q.1 * a.2, a.2 * q.2)) (0, 1)
  decide (sum.1 * 16 ≤ s.fld Fld.HIF_QOS0_ENG_SHARE fn.val * sum.2)

/-- The image that an engine holds, or that is being copied into it. -/
def State.heldImage (s : State) (m : EngId) : Option ImageHdr :=
  match (s.eng m).prep with
  | some (.copying _) => some (ImageHdr.parse (s.eng m).copyImg)
  | _ => (s.eng m).image

/-- An image meets the budgets of R83, and the pace is not above its limit (R34). -/
def State.imageFits (s : State) (fn : FnId) (e : EngId) (image : List Byte) (held : EngId → Option ImageHdr) : Bool :=
  let h := ImageHdr.parse image
  !s.bit Fld.GLB_PACE_STAT_LIMIT && s.budgetOk e h && (s.engRole e != 2 || s.shareOk fn e h held)

/-! ## The three copies (R444, Table 8) -/

/-- RESULT and the copy loaded. Two intact copies of one generation that differ are a case Table 8 does not decide: `free` does. -/
def decideCopies (l : List ProfCopy) (free : Bool) : Nat × Option ProfCopy :=
  match l with
  | [a, b, c] =>
    if a.same b then (if b.same c then (0, some a) else (1, some a))
    else if a.same c then (1, some a)
    else if b.same c then (1, some b)
    else (4, none)
  | [a, b] =>
    if a.same b then (1, some a)
    else if a.gen = b.gen then (2, some (if free then a else b))
    else (2, some (if genBelow a.gen b.gen then a else b))
  | [a] => (3, some a)
  | _ => (5, none)

/-! ## Records of a profile body (R456) -/

/-- The records of a body: index, TYPE and payload. A record that the body cuts short has no type (0). -/
def profRecords : Nat → Nat → List Byte → List (Nat × Nat × List Byte)
  | 0, _, _ => []
  | _ + 1, _, [] => []
  | fuel + 1, i, l =>
    let n := leAt l 2 2
    let whole := decide (4 + n ≤ l.length)
    (i, if whole then leAt l 0 2 else 0, slice l 4 n) :: profRecords fuel (i + 1) (l.drop ((4 + n + 3) / 4 * 4))

/-- The flag that an ignored write of a register sets (Table 14). -/
def Reg.rejFlag (r : Reg) (i : Nat) : Option (Fld × Nat) :=
  if r.offOnly then some (Fld.AX_STATE_CFG_REJ, i) else
  match r with
  | .BNK_CARRIER => some (Fld.GLB_ENV_VIOL, 0)
  | .BNK_RELEASE => some (Fld.GLB_ENV_VIOL, 0)
  | .BNK_VM1 => some (Fld.GLB_ENV_VIOL, 0)
  | .BNK_VM2 => some (Fld.GLB_ENV_VIOL, 0)
  | .GLB_ALLOC => some (Fld.GLB_ALLOC_REJ, 0)
  | .GLB_POk_CFG => some (Fld.GLB_POk_STAT_CFG_REJ, i)
  | .GLB_POk_RATIO => some (Fld.GLB_POk_STAT_CFG_REJ, i)
  | .GLB_SHAFT_CFG => some (Fld.GLB_SHAFT_STAT_CFG_REJ, 0)
  | .GLB_SHAFT_ID => some (Fld.GLB_SHAFT_STAT_CFG_REJ, 0)
  | .TB_CFG => some (Fld.TB_QUAL_SET_REJ, 0)
  | .TB_SET_HI => some (Fld.TB_QUAL_SET_REJ, 0)
  | .NET_TXQq_CFG => some (Fld.NET_TXQq_STAT_CFG_REJ, i)
  | .NET_GCLp_ENT => some (Fld.NET_GCLp_CTL_ERR, i)
  | .NET_GCLp_CTL => some (Fld.NET_GCLp_CTL_ERR, i)
  | .CAN_CFG => some (Fld.CAN_STAT_CFG_REJ, i)
  | .CAN_NTIM => some (Fld.CAN_STAT_CFG_REJ, i)
  | .CAN_DTIM => some (Fld.CAN_STAT_CFG_REJ, i)
  | .CAN_FLTe_W0 => some (Fld.CAN_STAT_CFG_REJ, i)
  | .CAN_FLTe_W1 => some (Fld.CAN_STAT_CFG_REJ, i)
  | .DIO_CHn_CFG => some (Fld.DIO_CHn_STAT_CFG_REJ, i)
  | .SAF_PCTL => some (Fld.SAF_PCTL_REJ, 0)
  | .NVM_SLOT_CTL => some (Fld.NVM_SLOT_STAT_REJ, 0)
  | _ => none

/-- No field of the register takes a write. -/
def Reg.readOnly (r : Reg) : Bool :=
  (Reg.fields r).all fun f => match f.acc with
    | .ro => true
    | .rwsHw => true
    | _ => false

/-- The write of a REG record, and whether it was ignored. -/
def State.recordWrite (s : State) (o : Nat) (w : Word) : State × Bool :=
  if 0x300000 ≤ o ∧ o < 0x400000 ∧ o % 4 = 0 then
    let a := s.fld Fld.GLB_SMWIN_PAGE * 0x100000 + (o - 0x300000)
    (s.windowWrite (o - 0x300000) (leBytes 4 w.toNat), s.hostBlocked a)
  else if o % 4 ≠ 0 then (s, true) else
  match Reg.find o with
  | none => (s, true)
  | some (r, i, _) =>
    if r.readOnly then (s, true) else
    match r.rejFlag i with
    | none =>
      let shut := (r == .NET_RXB_BASE_LO || r == .NET_RXB_BASE_HI) && s.bit Fld.NET_RXB_CFG_EN ||
        (r == .CAN_RXB_BASE_LO || r == .CAN_RXB_BASE_HI) && s.bit Fld.CAN_RXB_CFG_EN i
      (s.writeAt 0 o w, shut)
    | some (f, k) =>
      let t := (s.setBit f k false).writeAt 0 o w
      (s.writeAt 0 o w, t.bit f k)

/-- Spare engines of an envelope (Table 5 of 01_frames_and_release.md). -/
def envSpares : Nat → Nat
  | 0 => 4 | 1 => 2 | 2 => 4 | _ => 8

/-- GLB_ENV.ENV, SPLIT and SPARES; under QUIET the gate-drive profile of every premium axis reads 1 (R173).
The control word with the new I_0 is published (R266). -/
def State.setEnv (s : State) (env split : Nat) : State :=
  let old := s.fld Fld.GLB_ENV_ENV
  let s := s.setFld Fld.GLB_ENV_ENV 0 env
  let s := s.setFld Fld.GLB_ENV_SPLIT 0 (if env = 1 then split else 0)
  let s := s.setFld Fld.GLB_ENV_SPARES 0 (envSpares env)
  let s := (forAll (allFin 48) State.mandateProfile s).refreshLevel.refreshCapt
  if old = env then s else s.publishMon

/-- What follows a record: the load waits for the action that it requests (R456). -/
def State.loadWait (s : State) (w : LoadWait) : State :=
  { s with prof := { s.prof with loading := s.prof.loading.map fun l => { l with wait := w } } }

/-- The payload lengths of the record types (R456; log entry 138). -/
def recordLen (type len : Nat) : Bool :=
  match type with
  | 1 => len == 2
  | 2 => len == 8
  | 3 => decide (4 ≤ len)
  | 4 => len == 1
  | 5 => len == 8
  | _ => false

/-- One record, and whether it was refused or its write was ignored. -/
def State.applyRecord (s : State) (i type : Nat) (p : List Byte) : State × Bool :=
  if !recordLen type p.length then (s, true) else
  match type with
  | 1 =>
    if i ≠ 0 ∨ 3 < leAt p 0 1 ∨ 1 < leAt p 1 1 then (s, true) else (s.setEnv (leAt p 0 1) (leAt p 1 1), false)
  | 2 =>
    let o := leAt p 0 4
    let w : Word := BitVec.ofNat 32 (leAt p 4 4)
    if 0x100000 ≤ o ∧ o < 0x180000 then (s, true) else
    let (t, ign) := s.recordWrite o w
    if ign then (t, true)
    else match Reg.find o with
      | some (.GLB_ALLOC, _, _) => (if Fld.GLB_ALLOC_APPLY.get w = 1 then t.loadWait .alloc else t, false)
      | some (.BNK_CARRIER, b, _) =>
        (if h : b < 6 then (if Fld.BNK_CARRIER_RUN.get w = 1 then t.loadWait (.carrier ⟨b, h⟩) else t) else t, false)
      | _ => (t, false)
  | 3 =>
    let image := p.drop 4
    if h : leAt p 0 1 < 64 then
      let e : EngId := ⟨leAt p 0 1, h⟩
      let group := s.engRole e == 2
      if (s.engRole e = 1 ∨ (s.engRole e = 2 ∧ (s.eng e).owner = 0 ∧ !s.isMonEngine e)) ∧ imageOk image group ∧
         s.imageFits 0 e image s.heldImage
      then (s.startCopy e none image, false) else (s, true)
    else (s, true)
  | 4 =>
    if h : leAt p 0 1 < 64 then
      let e : EngId := ⟨leAt p 0 1, h⟩
      match (s.eng e).prep with
      | some (.copying _) =>
        if (s.eng e).wantStart.isSome then (s, true)
        else (s.setEng e { s.eng e with wantStart := some none }, false)
      | _ => if s.engState e = .loaded then (s.startEngine e none, false) else (s, true)
    else (s, true)
  | 5 =>
    let v : BitVec 32 := BitVec.ofNat 32 (leAt p 4 4)
    if h : leAt p 0 1 < 48 then
      match coefRange (leAt p 1 1) with
      | some (lo, hi) =>
        if lo ≤ v.toInt ∧ v.toInt ≤ hi then
          let n : AxId := ⟨leAt p 0 1, h⟩
          (s.setAx n { s.ax n with coef := Sparse.put coefReset (s.ax n).coef (leAt p 1 1) v }, false)
        else (s, true)
      | none => (s, true)
    else (s, true)
  | _ => (s, true)

/-! ## The load (R444, R445, R456) -/

/-- The carriers of a load's first step: a carrier whose axes are all OFF or IDLE stops, a start that has not fallen is given up. -/
def State.stopCarriers (s : State) : State :=
  forAll (allFin 6) (fun s b =>
    let idle := (bankAxes b).all fun n => s.axState n == .off || s.axState n == .idle
    let x := s.bnk b
    if !idle then s else
    let s := s.setBit Fld.BNK_CARRIER_RUN b.val false
    match x.carrier with
    | .stopped => s
    | .running => s.setBnk b { x with carrier := .stopping false }
    | .stopping _ => s.setBnk b { x with carrier := .stopping false }
    | _ => s.setBnk b { x with carrier := .stopped }) s

/-- A load starts. -/
def State.beginLoad (s : State) (src : Option CmdSrc) (p : Fin 4) : State :=
  let s := s.setBit Fld.GLB_STAT_LOADING 0 true
  { s with prof := { s.prof with loading := some { src := src, p := p, recs := [], wait := .carriersStop } } }

/-- The decision of Table 8, with its fault-log entry and its PROFILE record; at RESULT 4 and 5 the profile in force is
discarded (R445). -/
def State.decideLoad (s : State) (p : Fin 4) : State × Option ProfCopy :=
  let l := s.prof.intact p
  let (res, c) := decideCopies (l.map (·.2)) (Config.freeBool s.free)
  let s : State := { s with free := s.free + 1 }
  let mask := l.foldl (fun (m : Nat) k => m + 2 ^ k.1) 0
  let gen := match c with
    | some x => x.gen
    | none => 0
  let s := s.setFld Fld.GLB_PROF_STAT_RESULT 0 res
  let s := s.setFld Fld.GLB_PROF_STAT_INTACT 0 mask
  let s := s.setFld Fld.GLB_PROF_STAT_GEN 0 gen
  let s := s.setBit Fld.GLB_PROF_STAT_LOADED 0 c.isSome
  let s := s.logFault 7 p.val res
  let s := s.event 0 0x0054 p.val res (BitVec.ofNat 8 mask :: leBytes 4 gen)
  match c with
  | none => ((s.setFld Fld.GLB_PROF_STAT_ACTIVE 0 0).setEnv 0 0, none)
  | some x =>
    let s := s.setFld Fld.GLB_PROF_STAT_ACTIVE 0 p.val
    ({ s with prof := { s.prof with loaded := some p } }, some x)

/-- The copies that do not agree with the one loaded are rewritten from it (R444). -/
def State.startRewrite (s : State) (p : Fin 4) (x : ProfCopy) : State :=
  if s.prof.disagree p x = [] then s
  else
    let s := s.setBit Fld.GLB_PROF_STAT_REWRITE 0 true
    { s with prof := { s.prof with rewrite := some (p, x) } }

/-- PROFILE_REWRITE_DONE: the housekeeping core has finished its write: a copy of the store in progress (R443; log entry 134), or else the
rewrite: each copy that did not agree has been written from the content loaded (R444). -/
def execProfileRewriteDone (s : State) : Out :=
  .next (
    if s.prof.storing.isSome then { s with prof := s.prof.copyStored } else
    match s.prof.rewrite with
    | none => s
    | some (p, x) =>
      let s := s.setBit Fld.GLB_PROF_STAT_REWRITE 0 false
      { s with prof := { s.prof.rewritten p x (s.prof.disagree p x) with rewrite := none } })

/-- The Plinth's committed items take effect, and are then used (R457, R458). Without them positions and step counts are 0, with
POS_UNK on stepper axes. -/
def State.restorePlinth (s : State) : State :=
  let s := s.setBit Fld.PWR_PLINTH_COMMIT_OK 0 s.pwr.commitOk
  if s.pwr.commitOk then
    let s := forAll ((allFin 48).zip s.pwr.comPos) (fun s np => s.setFbk np.1 { s.fbk np.1 with pos := np.2 }) s
    let s := forAll s.pwr.comSteps (fun s c =>
      (s.setWord .AX_STEPCNT c.1.val 0 c.2.1).setBit Fld.AX_MSTAT_POS_UNK c.1.val c.2.2) s
    { s with pwr := { s.pwr with commitOk := false, commitDone := false } }
  else
    let s := forAll ((allFin 48).filter fun n => s.axMode n == 3) (fun s n => s.setBit Fld.AX_MSTAT_POS_UNK n.val true) s
    s.logFault 10 0 (if s.bit Fld.PWR_PLINTH_COLD then 1 else 0)

/-- Steps 6 and 7 of R453: the safety set, the Plinth's values, the BOOT record, and READY. -/
def State.finishBoot (s : State) : State :=
  let s := s.bootSafety.restorePlinth.refreshLevel
  let s := s.refreshOwed
  let slot := match s.pwr.bootSlot with
    | some k => k.val
    | none => 0
  let s := s.event 0 0x0055 (s.fld Fld.PWR_RSTC_CAUSE) slot
    (leBytes 4 (s.word .PWR_BOOT_VER).toNat ++
     [if s.bit Fld.PWR_PLINTH_COMMIT_OK then 1 else 0, if s.bit Fld.PWR_PLINTH_COLD then 1 else 0, 0, 0] ++
     leBytes 4 s.pwr.owed.length)
  let s := s.setBit Fld.GLB_STAT_READY 0 true
  { s with pwr := { s.pwr with phase := .ready, since := s.tick } }

/-- A load ends: DONE, or FAULT, PROFILE_CONFLICT; the boot goes on (R445, R453, R456); a load that waited starts. -/
def State.endLoad (s : State) (src : Option CmdSrc) (ok : Bool) : State :=
  let s : State := { s with prof := { s.prof with loading := none } }
  let s := s.setBit Fld.GLB_STAT_LOADING 0 false
  let s := match src with
    | some c => if ok then s.complete c .done else s.complete c .fault 6
    | none => s.finishBoot
  match s.prof.queued with
  | [] => s
  | (c, p) :: rest => ({ s with prof := { s.prof with queued := rest } } : State).beginLoad (some c) p

/-- One stage of the load in progress, or none where it waits. -/
def State.stepLoad (s : State) : Option State :=
  match s.prof.loading with
  | none => none
  | some l =>
    match l.wait with
    | .carriersStop =>
      let s := s.stopCarriers
      if (allFin 6).any fun b => (s.bnk b).carrier != .stopped then none else
      let (t, c) := s.decideLoad l.p
      some (match c with
        | none => t.endLoad l.src false
        | some x =>
          { t with prof := { t.prof with
              loading := some { l with recs := profRecords x.body.length 0 x.body, wait := .nothing } } }.startRewrite l.p x)
    | .nothing =>
      match l.recs with
      | [] => some (s.endLoad l.src true)
      | (i, ty, p) :: rest =>
        let s : State := { s with prof := { s.prof with loading := some { l with recs := rest } } }
        let (t, bad) := s.applyRecord i ty p
        some (if bad then t.logFault 9 l.p.val i else t)
    | .alloc => if s.bit Fld.GLB_ALLOC_BUSY then none else some (s.loadWait .nothing)
    | .carrier b =>
      if (s.bnk b).runs ∨ ((s.bnk b).carrier = .pending ∧ !s.envelopeOk b) ∨ (s.bnk b).carrier = .stopped
      then some (s.loadWait .nothing) else none

/-- Run stages until the load waits or has ended. -/
def State.runLoad : Nat → State → State
  | 0, s => s
  | n + 1, s =>
    match s.stepLoad with
    | none => match s.prof.loading with
      | some l => if l.wait = .carriersStop then s.stopCarriers else s
      | none => s
    | some t => t.runLoad n

/-- Stages that a load can pass before it waits again. -/
def State.loadFuel (s : State) : Nat :=
  match s.prof.loading with
  | some l => 2 * l.recs.length + 131072
  | none => 0

/-- The load in progress goes on as far as it can. -/
def State.continueLoad (s : State) : State := if s.prof.loading.isNone then s else State.runLoad s.loadFuel s

/-- PROFILE_LOAD at its delivery (R456). -/
def execProfileLoad (src : CmdSrc) (p : BitVec 8) (s : State) : Out :=
  .next (s.deliver src (.profileLoad p) fun s _ =>
    let k : Fin 4 := ⟨p.toNat % 4, Nat.mod_lt _ (by omega)⟩
    if s.prof.loading.isSome then { s with prof := { s.prof with queued := s.prof.queued ++ [(src, k)] } }
    else (s.beginLoad (some src) k).continueLoad)

/-! ## Boot (R453, R454) -/

/-- The ROM tries a slot: a slot that is not valid enters the fault log. -/
def State.trySlot (s : State) (k : Fin 2) : State × Bool :=
  let why := s.slotWhy (s.slot k)
  let ok := why == 0
  let s := s.setBit (if k = 0 then Fld.PWR_BOOT_A_VALID else Fld.PWR_BOOT_B_VALID) 0 ok
  (if ok then s else s.logFault 8 k.val why, ok)

/-- The slot that boots: the higher VERSION first, A first where they are equal. -/
def State.chooseSlot (s : State) : State × Option (Fin 2) :=
  let first : Fin 2 := if (s.slot 0).version < (s.slot 1).version then 1 else 0
  let other : Fin 2 := if first = 0 then 1 else 0
  let (s, ok) := s.trySlot first
  if ok then (s, some first) else
  let (s, ok) := s.trySlot other
  (s, if ok then some other else none)

/-- Spare engines are held IDLE with their meter running (R95). -/
def State.idleSpares (s : State) : State :=
  forAll ((allFin 64).filter fun e => s.engRole e == 3 && s.engState e == .off) (fun s e =>
    (s.setEng e { s.eng e with meterFrom := some s.tick }).enterIdleSpare e) s

/-- BOOT_COMPLETE: the boot sequence runs to its end, or to a profile record that waits. With no valid slot the device enters
BOOT_FAIL. -/
def execBootComplete (s : State) : Out :=
  .next (
    if s.pwr.phase ≠ .booting ∨ s.prof.loading.isSome then s else
    let (s, k) := s.refreshVauxOk.chooseSlot
    match k with
    | none =>
      let s : State := { s with pwr := { s.pwr with phase := .bootFail, since := s.tick } }
      let s := s.setBit Fld.PWR_STAT_BOOT_FAIL 0 true
      forAll (allFin 6) State.refreshBrake (forAll (allFin 48) State.refreshAxis s)
    | some k =>
      let s : State := { s with pwr := { s.pwr with bootSlot := some k } }
      let s := s.setBit Fld.PWR_BOOT_SLOT 0 (k == 1)
      let s := s.setWord .PWR_BOOT_VER 0 0 (BitVec.ofNat 32 (s.slot k).version)
      let psel : Fin 4 := ⟨s.fld Fld.PWR_BOOT_PSEL % 4, Nat.mod_lt _ (by omega)⟩
      let p := if s.fld Fld.PWR_RSTC_CAUSE = 0 then psel else s.prof.loaded.getD psel
      (s.idleSpares.beginLoad none p).continueLoad)

end Sys2Proof.Machine
end

