-- ==== Sys2Proof/Machine/Admission.lean ====
section
/-! DEFINITION. Fetch and admission of descriptors (09_host_rings.md R295 to R305, 10_descriptors.md R312 to R317): the layout of
the commands, checks 1 to 8, the delivery instant and acceptance. -/

namespace Sys2Proof.Machine

/-! ## Commands and their layout (10_descriptors.md, Tables 1 to 3) -/

/-- The commands of Table 2. -/
inductive CmdCode where
  | axisEnable | axisHold | wcClear | setCoef | posPreload | groupStop
  | moveAbs | moveVel | moveLim | gear | cam | home | stepCfg | latchArm
  | snapshot | dioSet | poSet | canTx | canMode | canRecover | netTx | timeAccept
  | engLoad | engStart | monCfg | monBaseline | profileLoad | safeConfirm
  deriving DecidableEq, Repr

/-- CODE of a command. -/
def CmdCode.num : CmdCode → Nat
  | .axisEnable => 0x01 | .axisHold => 0x02 | .wcClear => 0x03 | .setCoef => 0x04 | .posPreload => 0x05
  | .groupStop => 0x06 | .moveAbs => 0x10 | .moveVel => 0x11 | .moveLim => 0x12 | .gear => 0x13 | .cam => 0x14
  | .home => 0x15 | .stepCfg => 0x16 | .latchArm => 0x17 | .snapshot => 0x20 | .dioSet => 0x30 | .poSet => 0x31
  | .canTx => 0x40 | .canMode => 0x41 | .canRecover => 0x42 | .netTx => 0x50 | .timeAccept => 0x51
  | .engLoad => 0x60 | .engStart => 0x61 | .monCfg => 0x70 | .monBaseline => 0x71 | .profileLoad => 0x80
  | .safeConfirm => 0x81

def cmdCodes : List CmdCode :=
  [.axisEnable, .axisHold, .wcClear, .setCoef, .posPreload, .groupStop, .moveAbs, .moveVel, .moveLim, .gear, .cam, .home,
   .stepCfg, .latchArm, .snapshot, .dioSet, .poSet, .canTx, .canMode, .canRecover, .netTx, .timeAccept, .engLoad, .engStart,
   .monCfg, .monBaseline, .profileLoad, .safeConfirm]

/-- The parameters of a command: offset and size (Table 3). -/
def CmdCode.fields : CmdCode → List (Nat × Nat)
  | .axisEnable => [(0x10, 1), (0x11, 1)]
  | .axisHold => [(0x10, 1)]
  | .wcClear => [(0x10, 1)]
  | .monBaseline => [(0x10, 1)]
  | .setCoef => [(0x10, 1), (0x11, 1), (0x14, 4)]
  | .posPreload => [(0x10, 1), (0x18, 8)]
  | .groupStop => [(0x10, 8), (0x18, 1)]
  | .moveAbs => [(0x10, 1), (0x18, 8), (0x20, 4), (0x24, 4), (0x28, 4), (0x2C, 4)]
  | .moveVel => [(0x10, 1), (0x20, 4), (0x24, 4), (0x2C, 4)]
  | .moveLim => [(0x10, 1), (0x20, 4), (0x24, 4), (0x28, 4), (0x2C, 4)]
  | .gear => [(0x10, 1), (0x11, 1), (0x12, 1), (0x14, 4), (0x18, 4), (0x1C, 4), (0x20, 4)]
  | .cam => [(0x10, 1), (0x11, 1), (0x12, 1), (0x13, 1), (0x14, 4), (0x18, 4), (0x1C, 4), (0x20, 4)]
  | .home => [(0x10, 1), (0x11, 1), (0x12, 2), (0x14, 4), (0x18, 8), (0x20, 4), (0x24, 4)]
  | .stepCfg => [(0x10, 1), (0x11, 1), (0x12, 2), (0x14, 2), (0x16, 2), (0x18, 2), (0x1C, 4)]
  | .latchArm => [(0x10, 1), (0x11, 1), (0x12, 1), (0x13, 1), (0x14, 1), (0x15, 1)]
  | .snapshot => []
  | .timeAccept => []
  | .dioSet => [(0x10, 8), (0x18, 8)]
  | .poSet => [(0x10, 1), (0x12, 2), (0x14, 2)]
  | .canTx => [(0x10, 1), (0x11, 1), (0x12, 1), (0x14, 4), (0x18, 8), (0x28, 24)]
  | .canMode => [(0x10, 1), (0x11, 1)]
  | .canRecover => [(0x10, 1)]
  | .netTx => [(0x10, 1), (0x12, 2), (0x18, 8)]
  | .engLoad => [(0x10, 1), (0x14, 4), (0x18, 8)]
  | .engStart => [(0x10, 1)]
  | .monCfg => [(0x10, 1), (0x11, 1), (0x12, 1), (0x13, 1), (0x14, 1), (0x16, 2), (0x18, 4), (0x1C, 4), (0x20, 4)]
  | .profileLoad => [(0x10, 1)]
  | .safeConfirm => [(0x10, 4)]

/-- A signed field. -/
def leSigned (d : List Byte) (o n : Nat) : Int := signedMod (leAt d o n) (8 * n)

/-- A byte that numbers an axis, reduced to one: used only where check 3 has found it in range. -/
def axisAt (d : List Byte) (o : Nat) : AxId := ⟨leAt d o 1 % 48, Nat.mod_lt _ (by omega)⟩

/-- The image that BUF and LEN of an ENG_LOAD name. -/
def loadImage (d buf : List Byte) : List Byte := buf.take (leAt d 0x14 4)

/-- The payload of a CAN_TX: from DATA, or from the buffer (R315). -/
def canPayload (d buf : List Byte) : List Byte :=
  let n := canLen (leAt d 0x11 1 / 2 % 2 == 1) (leAt d 0x12 1)
  if leAt d 0x18 8 = 0 then slice d 0x28 n else padTo n buf

/-- The host command that a descriptor spells. -/
def buildCmd (c : CmdCode) (d buf : List Byte) : HostCmd :=
  let n := axisAt d 0x10
  let u8 (o : Nat) : BitVec 8 := BitVec.ofNat 8 (leAt d o 1)
  let u16 (o : Nat) : BitVec 16 := BitVec.ofNat 16 (leAt d o 2)
  let u32 (o : Nat) : BitVec 32 := BitVec.ofNat 32 (leAt d o 4)
  match c with
  | .axisEnable => .axisEnable n (leAt d 0x11 1 == 1)
  | .axisHold => .axisHold n
  | .wcClear => .wcClear n
  | .monBaseline => .monBaseline n
  | .setCoef => .setCoef n (u8 0x11) (u32 0x14)
  | .posPreload => .posPreload n (leSigned d 0x18 8)
  | .groupStop => .groupStop (BitVec.ofNat 48 (leAt d 0x10 8)) (StopCat.ofCode (leAt d 0x18 1))
  | .moveAbs => .moveAbs n (leSigned d 0x18 8) (u32 0x20) (u32 0x24) (u32 0x28) (u32 0x2C)
  | .moveVel => .moveVel n (u32 0x20) (u32 0x24) (u32 0x2C)
  | .moveLim => .moveLim n (u32 0x20) (u32 0x24) (u32 0x28) (u32 0x2C)
  | .gear => .gear n (u8 0x11) (u8 0x12) (leSigned d 0x14 4) (leAt d 0x18 4) (leAt d 0x1C 4) (leSigned d 0x20 4)
  | .cam => .cam n (u8 0x11) (u8 0x12) (u8 0x13) (leAt d 0x14 4) (leSigned d 0x18 4) (u32 0x1C) (u32 0x20)
  | .home => .home n (leAt d 0x11 1 == 1) (u16 0x12) (u32 0x14) (leSigned d 0x18 8) (leAt d 0x20 4) (leAt d 0x24 4)
  | .stepCfg => .stepCfg n (u8 0x11) (u16 0x12) (u16 0x14) (u16 0x16) (u16 0x18) (u32 0x1C)
  | .latchArm => .latchArm n (if leAt d 0x11 1 = 1 then 1 else 0) (u8 0x12) (u8 0x13) (u8 0x14) (u8 0x15)
  | .snapshot => .snapshot
  | .timeAccept => .timeAccept
  | .dioSet => .dioSet (BitVec.ofNat 48 (leAt d 0x10 8)) (BitVec.ofNat 48 (leAt d 0x18 8))
  | .poSet => .poSet (u8 0x10) (u16 0x12) (u16 0x14)
  | .canTx => .canTx (u8 0x10) (u8 0x11) (u8 0x12) (u32 0x14) (canPayload d buf)
  | .canMode => .canMode (u8 0x10) (u8 0x11)
  | .canRecover => .canRecover (u8 0x10)
  | .netTx => .netTx (u8 0x10) (padTo (leAt d 0x12 2) buf)
  | .engLoad => .engLoad (u8 0x10) (loadImage d buf)
  | .engStart => .engStart (u8 0x10)
  | .monCfg => .monCfg n (u8 0x11) (u8 0x12) (u8 0x13) (u8 0x14) (u16 0x16) (u32 0x18) (u32 0x1C) (u32 0x20)
  | .profileLoad => .profileLoad (u8 0x10)
  | .safeConfirm => .safeConfirm (u32 0x10)

/-! ## Check 1: code, flags, reserved bytes (R312, R314) -/

/-- The command of a descriptor, or the offset of the field that fails check 1. -/
def checkOne (d : List Byte) : Nat ⊕ CmdCode :=
  match cmdCodes.find? fun c => c.num == leAt d 4 2 with
  | none => .inl 0x04
  | some c =>
    if 2 ≤ leAt d 6 2 then .inl 0x06
    else if leAt d 6 2 = 1 ∧ leAt d 8 8 ≠ 0 then .inl 0x08
    else
      match (List.range 48).find? fun k =>
        d.getD (16 + k) 0 != 0 && !(c.fields.any fun f => decide (f.1 ≤ 16 + k) && decide (16 + k < f.1 + f.2)) with
      | some k => .inl (16 + k)
      | none => .inr c

/-- The execute time E (R300). -/
def State.execTime (s : State) (d : List Byte) : Nat := if leAt d 6 2 = 1 then s.now + 40000 else leAt d 8 8

/-! ## Check 2: ownership (R286, R289, R316) -/

/-- A resource is not the function's, or is being zeroed for a new owner. -/
def State.foreign (s : State) (fn : FnId) (r : Res) : Bool :=
  s.ownerOf r != fn || s.ownChanges.any fun c => c.res == r

def axisNamed (d : List Byte) (o : Nat) : List (Nat × Res) :=
  if h : leAt d o 1 < 48 then [(o, .axis ⟨leAt d o 1, h⟩)] else []

/-- The resources that a descriptor names, with the offset of the field. -/
def descNames (c : CmdCode) (d : List Byte) : List (Nat × Res) :=
  match c with
  | .groupStop => (maskAxes (BitVec.ofNat 48 (leAt d 0x10 8))).map fun n => (0x10, .axis n)
  | .gear => axisNamed d 0x10 ++ (if leAt d 0x11 1 < 2 then axisNamed d 0x12 else [])
  | .cam => axisNamed d 0x10 ++ (if leAt d 0x11 1 < 2 then axisNamed d 0x12 else [])
  | .latchArm => axisNamed d 0x10 ++ (if h : leAt d 0x12 1 < 48 then [(0x12, .dio ⟨leAt d 0x12 1, h⟩)] else [])
  | .dioSet => ((allFin 48).filter fun k => (BitVec.ofNat 48 (leAt d 0x10 8)).getLsbD k.val).map fun k => (0x10, .dio k)
  | .canTx => if h : leAt d 0x10 1 < 4 then [(0x10, .can ⟨leAt d 0x10 1, h⟩)] else []
  | .canMode => if h : leAt d 0x10 1 < 4 then [(0x10, .can ⟨leAt d 0x10 1, h⟩)] else []
  | .canRecover => if h : leAt d 0x10 1 < 4 then [(0x10, .can ⟨leAt d 0x10 1, h⟩)] else []
  | .netTx => if h : leAt d 0x10 1 < 16 then [(0x10, .txq ⟨leAt d 0x10 1, h⟩)] else []
  | .snapshot => []
  | .timeAccept => []
  | .poSet => []
  | .engLoad => []
  | .engStart => []
  | .profileLoad => []
  | .safeConfirm => []
  | _ => axisNamed d 0x10

/-- The engine that a byte names, where there is one. -/
def engineAt (d : List Byte) (o : Nat) : Option EngId := if h : leAt d o 1 < 64 then some ⟨leAt d o 1, h⟩ else none

/-- The function may use the engine that ENG_LOAD or ENG_START names: an axis engine and an axis image are for F0, a group
engine for its owner. An engine in another role has no owner. -/
def State.engineOpen (s : State) (fn : FnId) (e : EngId) (axisImage : Bool) : Bool :=
  (fn == 0 || !(axisImage || s.engRole e == 1)) && (s.engRole e != 2 || (s.eng e).owner == fn)

/-- Check 2: the offset of the field at fault. -/
def State.checkTwo (s : State) (fn : FnId) (c : CmdCode) (d buf : List Byte) : Option Nat :=
  match (descNames c d).find? fun x => s.foreign fn x.2 with
  | some x => some x.1
  | none =>
    match c with
    | .poSet => if fn = 0 then none else some 0x04
    | .timeAccept => if fn = 0 then none else some 0x04
    | .profileLoad => if fn = 0 then none else some 0x04
    | .safeConfirm => if fn = 0 then none else some 0x04
    | .engLoad =>
      match engineAt d 0x10 with
      | some e => if s.engineOpen fn e (leAt d 0x18 8 % 8 == 0 && leAt buf 6 1 == 0) then none else some 0x10
      | none => none
    | .engStart =>
      match engineAt d 0x10 with
      | some e => if s.engineOpen fn e false then none else some 0x10
      | none => none
    | .monCfg =>
      match engineAt d 0x12 with
      | some e => if s.engRole e = 2 ∧ (s.eng e).owner ≠ fn then some 0x12 else none
      | none => none
    | _ => none

/-! ## The projected state (R301) -/

def insertByD (a : Accepted) : List Accepted → List Accepted
  | [] => [a]
  | b :: l => if b.d ≤ a.d then b :: insertByD a l else a :: b :: l

/-- The accepted commands in order of delivery: by D, then in order of admission (R305). -/
def State.byDelivery (s : State) : List Accepted := s.accepted.foldl (fun l a => insertByD a l) []

/-- Where a stop of category `cat` leads from RUN or HOLD, at the speed reference that now stands (R147). -/
def State.stopTarget (s : State) (n : AxId) (cat : StopCat) : AxState :=
  if cat ≠ .off ∧ (s.ax n).speedRef ≠ 0 then .stopping else if cat = .rampHold then .hold else .idle

/-- The state change of an accepted command, as far as Table 6 of 04_axis_control.md gives one. -/
def State.projStep (s : State) (n : AxId) (st : AxState) (c : HostCmd) : AxState :=
  let moving := st = .run ∨ st = .hold
  match c with
  | .axisEnable m on =>
    if m ≠ n then st
    else if on then (if st = .idle ∨ st = .hold then .run else st)
    else if moving then s.stopTarget n .ramp
    else if st = .safe ∧ !s.bit Fld.AX_STATE_WC_ACTIVE n.val then .idle else st
  | .axisHold m => if m = n ∧ st = .run then s.stopTarget n .rampHold else st
  | .groupStop mask cat => if mask.getLsbD n.val ∧ moving then s.stopTarget n cat else st
  | _ => st

/-- The projected state of an axis. -/
def State.proj (s : State) (n : AxId) : AxState :=
  s.byDelivery.foldl (fun st a => s.projStep n st a.cmd) (s.axState n)

/-- The STEP_CFG that will have been applied: the last one accepted, waiting or applied. -/
def State.projStepCfg (s : State) (n : AxId) : Option HostCmd :=
  let m := s.motion n
  let of_ (c : HostCmd) : Option HostCmd := match c with
    | .stepCfg k .. => if k = n then some c else none
    | _ => none
  let l := m.stepCfgPend.map (·.cmd) ++ s.byDelivery.filterMap fun a => of_ a.cmd
  match l.getLast? with
  | some c => some c
  | none => m.stepCfg

/-- ENG_START finds the engine LOADED, by the accepted commands for it and the copy in progress. -/
def State.projLoaded (s : State) (e : EngId) : Bool :=
  let copying := match (s.eng e).prep with
    | some (.copying _) => (s.eng e).wantStart.isNone
    | _ => false
  s.byDelivery.foldl (fun b a => match a.cmd with
    | .engLoad m _ => if m.toNat = e.val then true else b
    | .engStart m => if m.toNat = e.val then false else b
    | _ => b) (copying || s.engState e == .loaded)

/-- The image that an engine will hold. -/
def State.projImage (s : State) (e : EngId) : Option ImageHdr :=
  s.byDelivery.foldl (fun h a => match a.cmd with
    | .engLoad m l => if m.toNat = e.val then some (ImageHdr.parse l) else h
    | _ => h) (s.heldImage e)

/-- The monitoring configuration of an axis that will be in force. -/
def State.projMon (s : State) (n : AxId) : Option HostCmd :=
  s.byDelivery.foldl (fun c a => match a.cmd with
    | .monCfg m .. => if m = n then some a.cmd else c
    | _ => c) (if s.bit Fld.AX_MONSTAT_ACTIVE n.val then (s.moni n).cfg else none)

/-- A host command enters the move queue (R229). -/
def isQueued : HostCmd → Bool
  | .moveAbs .. => true
  | .moveVel .. => true
  | .gear .. => true
  | .cam .. => true
  | .home .. => true
  | _ => false

/-! ## Check 3: ranges (R315, R316, Table 4) -/

/-- A finite binary32 value above 0. -/
def fPos (w : F32) : Bool :=
  match fRat w with
  | some q => decide (0 < q.1)
  | none => false

/-- A binary32 value in `lo` to `hi` (no upper end: none); a NaN lies in no range. -/
def fWithin (lo : Int) (hi : Option Int) (w : F32) : Bool :=
  match fRat w with
  | some q => decide (lo * q.2 ≤ q.1) && (match hi with | some h => decide (q.1 ≤ h * q.2) | none => true)
  | none => hi.isNone && w == 0x7F800000

/-- |v| is at most VFS of the axis. -/
def State.belowVfs (s : State) (n : AxId) (v : F32) : Bool :=
  match fRat v, fRat (Config.fullSpeed ((s.store.axisImage n).getD [])) with
  | some p, some q => decide ((p.1.natAbs : Int) * q.2 ≤ q.1 * p.2)
  | _, _ => false

/-- The conditions of R192, R223 and R273 for AXIS_ENABLE on. -/
def State.enableOk (s : State) (n : AxId) : Bool :=
  let e : EngId := ⟨s.fld Fld.AX_MOTCFG_TRAJ_ENG n.val % 64, Nat.mod_lt _ (by omega)⟩
  let x := s.eng e
  !s.bit Fld.AX_FBFLT_CFG_BAD n.val && s.engRole e == 2 && x.owner == s.axisOwner n && s.engState e == .running &&
  (match x.image with | some h => h.group | none => false) && x.grpBank == n.bank && x.grpDiv == s.divP * s.cdiv n &&
  !s.isMonEngine e

/-- MOVE_ABS and MOVE_LIM: limits finite and above 0, V not above VFS. -/
def State.limitRanges (s : State) (n : AxId) (d : List Byte) : List (Nat × Bool) :=
  let f (o : Nat) : F32 := BitVec.ofNat 32 (leAt d o 4)
  [(0x20, fPos (f 0x20) && s.belowVfs n (f 0x20)), (0x24, fPos (f 0x24)), (0x28, fPos (f 0x28)), (0x2C, fPos (f 0x2C))]

/-- SRC and MASTER of GEAR and CAM (R237). -/
def State.masterRanges (s : State) (n : AxId) (d : List Byte) : List (Nat × Bool) :=
  let src := leAt d 0x11 1
  let m := leAt d 0x12 1
  let traj (k : Nat) : Nat := s.fld Fld.AX_MOTCFG_TRAJ_ENG k
  [(0x11, decide (src < 3) && !(src == 2 && s.shaftRole == 0)),
   (0x12, if src = 2 then m == 0 else decide (m < 48) && !(src == 0 && (m == n.val || traj m != traj n.val)))]

/-- Parameters with the rule that each must meet, in descriptor order. A rule about the set-up of a resource counts for the
field that names it. -/
def State.ranges (s : State) (c : CmdCode) (d buf : List Byte) : List (Nat × Bool) :=
  let u8 (o : Nat) : Nat := leAt d o 1
  let f (o : Nat) : F32 := BitVec.ofNat 32 (leAt d o 4)
  let n := axisAt d 0x10
  let ax : List (Nat × Bool) := [(0x10, decide (u8 0x10 < 48))]
  let s48 (o : Nat) : Bool := decide (-(2 ^ 47 : Int) ≤ leSigned d o 8) && decide (leSigned d o 8 < 2 ^ 47)
  let stepper := s.axMode n == 3
  let can : CanId := ⟨u8 0x10 % 4, Nat.mod_lt _ (by omega)⟩
  let bufOk := leAt d 0x18 8 % 8 == 0
  match c with
  | .axisEnable => [(0x10, decide (u8 0x10 < 48) && (u8 0x11 != 1 || s.enableOk n)), (0x11, decide (u8 0x11 < 2))]
  | .axisHold => ax
  | .wcClear => ax
  | .monBaseline => ax
  | .setCoef =>
    ax ++ (match coefRange (u8 0x11) with
      | none => [(0x11, false)]
      | some (lo, hi) => [(0x14, decide (lo ≤ leSigned d 0x14 4) && decide (leSigned d 0x14 4 ≤ hi))])
  | .posPreload => ax ++ [(0x18, s48 0x18)]
  | .groupStop => [(0x10, decide (leAt d 0x10 8 < 2 ^ 48)), (0x18, decide (u8 0x18 < 3))]
  | .moveAbs => ax ++ [(0x18, s48 0x18)] ++ s.limitRanges n d
  | .moveVel =>
    let above (w : F32) : Bool := fPos w || w == 0x7F800000
    ax ++ [(0x20, s.belowVfs n (f 0x20)), (0x24, above (f 0x24)), (0x2C, above (f 0x2C))]
  | .moveLim => ax ++ s.limitRanges n d
  | .gear =>
    ax ++ s.masterRanges n d ++
      [(0x14, leAt d 0x14 4 != 0), (0x18, leAt d 0x18 4 != 0), (0x1C, decide (leAt d 0x1C 4 < 2 ^ 31))]
  | .cam =>
    ax ++ s.masterRanges n d ++
      [(0x13, decide (u8 0x13 < 16)), (0x14, leAt d 0x14 4 != 0 && decide (leAt d 0x14 4 < 2 ^ 31)),
       (0x1C, (fRat (f 0x1C)).isSome), (0x20, (fRat (f 0x20)).isSome)]
  | .home =>
    let vmin : F32 := match s.projStepCfg n with
      | some (.stepCfg _ _ _ _ _ _ v) => v
      | _ => 0
    let fast := match fRat (f 0x14), fRat vmin with
      | some v, some m => decide (m.1 * v.2 ≤ v.1 * m.2) &&
          decide (v.1 * ((s.axPeriod n * s.divI : Nat) : Int) ≤ 250000000 * v.2)
      | _, _ => false
    [(0x10, decide (u8 0x10 < 48) && stepper), (0x11, decide (u8 0x11 < 2)), (0x14, fast), (0x18, s48 0x18),
     (0x24, leAt d 0x24 4 != 0)]
  | .stepCfg => [(0x10, decide (u8 0x10 < 48) && stepper), (0x11, u8 0x11 != 0)]
  | .latchArm =>
    ax ++ [(0x11, decide (u8 0x11 < 2)), (0x12, decide (u8 0x12 < 48)), (0x13, u8 0x13 != 0 && decide (u8 0x13 < 4)),
           (0x14, decide (u8 0x14 < 3)), (0x15, decide (u8 0x15 < 2) && !(u8 0x15 == 1 && s.shaftRole == 0))]
  | .snapshot => []
  | .timeAccept => []
  | .safeConfirm => []
  | .dioSet =>
    let mask := BitVec.ofNat 48 (leAt d 0x10 8)
    [(0x10, decide (leAt d 0x10 8 < 2 ^ 48) && (allFin 48).all fun k => !mask.getLsbD k.val || s.dioIsOut k),
     (0x18, decide (leAt d 0x18 8 < 2 ^ 48))]
  | .poSet =>
    let m := leAt d 0x14 2
    [(0x10, decide (u8 0x10 < 6)), (0x12, m == 0 || decide (leAt d 0x12 2 ≤ m)), (0x14, m != 0)]
  | .canTx =>
    let xtd := u8 0x11 % 2 == 1
    let fdf := u8 0x11 / 2 % 2 == 1
    [(0x10, decide (u8 0x10 < 4) && canActive (s.canProjected can)), (0x11, s.canFmtOk can (u8 0x11)),
     (0x12, decide (u8 0x12 < 16) && (leAt d 0x18 8 != 0 || decide (canLen fdf (u8 0x12) ≤ 24))),
     (0x14, decide (leAt d 0x14 4 < (if xtd then 2 ^ 29 else 2 ^ 11))), (0x18, bufOk)]
  | .canMode =>
    [(0x10, decide (u8 0x10 < 4) && (u8 0x11 == 0 || s.canTimingOk can)), (0x11, decide (u8 0x11 < 5))]
  | .canRecover => [(0x10, decide (u8 0x10 < 4))]
  | .netTx =>
    [(0x10, decide (u8 0x10 < 16)), (0x12, decide (60 ≤ leAt d 0x12 2) && decide (leAt d 0x12 2 ≤ 1518)), (0x18, bufOk)]
  | .engLoad =>
    let image := loadImage d buf
    let h := ImageHdr.parse image
    match engineAt d 0x10 with
    | none => [(0x10, false)]
    | some e =>
      [(0x10, s.engRole e == 1 || s.engRole e == 2),
       (0x14, !bufOk || leAt d 0x14 4 == 64 + 4 * h.codeWords + h.dataBytes),
       (0x18, bufOk && imageOk image (s.engRole e == 2))]
  | .engStart =>
    match engineAt d 0x10 with
    | none => [(0x10, false)]
    | some e => [(0x10, (s.engRole e == 1 || s.engRole e == 2) && s.projLoaded e)]
  | .monCfg =>
    let eng := match engineAt d 0x12 with
      | some e => s.engRole e == 2 && s.engState e == .running &&
          !((allFin 48).any fun k => s.fld Fld.AX_MOTCFG_TRAJ_ENG k.val == e.val)
      | none => false
    [(0x10, decide (u8 0x10 < 48) && s.hasGrid n && s.env != .resilient), (0x11, decide (u8 0x11 < 2)), (0x12, eng),
     (0x13, decide (u8 0x13 < 8)), (0x14, decide (8 ≤ u8 0x14) && decide (u8 0x14 ≤ 11)),
     (0x16, decide (leAt d 0x16 2 ≤ 0x0CCC)), (0x18, fWithin 0 none (f 0x18)), (0x1C, fWithin 0 none (f 0x1C)),
     (0x20, fWithin (-40) (some 200) (f 0x20))]
  | .profileLoad => [(0x10, decide (u8 0x10 < 4))]

/-- Check 3: the offset of the first field out of range, E − t_f ≤ 16 s included. -/
def State.checkThree (s : State) (c : CmdCode) (d buf : List Byte) : Option Nat :=
  ((0x08, decide (s.execTime d ≤ s.now + 16000000000)) :: s.ranges c d buf).findSome? fun r => if r.2 then none else some r.1

/-! ## The delivery instant (R300, R317, R154) -/

/-- A boundary of an axis as its boundaries stand now: DT, which may have passed, and frame number. None while its bank
carrier has none to come. -/
def State.anchor (s : State) (n : AxId) : Option (Int × BitVec 32) :=
  let b := s.bnk n.bank
  let x := s.ax n
  let at_ (t : Nat) : Int := (s.now : Int) + 4 * ((t : Int) - s.tick)
  -- The first boundary of the axis in bank frame `f` that starts at tick `t`, or in a later one.
  let from_ (t : Nat) (f : BitVec 32) : Int × BitVec 32 :=
    let j := (s.cdiv n - f.toNat % s.cdiv n) % s.cdiv n
    (at_ (t + j * b.period + s.axOffset n), f + BitVec.ofNat 32 j)
  match b.carrier with
  | .running =>
    match x.nextB with
    | some (t, f) => some (at_ t, f)
    | none => if x.framed then some (at_ x.frameTick, x.frameNo) else some (from_ b.frameTick b.frameNo)
  | .starting t => some (from_ t (BitVec.ofNat 32 ((s.now + 4 * (t - s.tick)) / (4 * Nat.max 1 b.period))))
  | _ => none

/-- Boundaries from the anchor on that fall before DT `t`. -/
def State.boundariesBefore (s : State) (n : AxId) (dt0 : Int) (t : Nat) : Nat :=
  let p := 4 * Nat.max 1 (s.axPeriod n)
  (((t : Int) - dt0 + (p - 1)) / p).toNat

/-- The first B_n at or after E, with its frame number. -/
def State.boundaryAt (s : State) (n : AxId) (e : Nat) : Option (Nat × BitVec 32) :=
  (s.anchor n).map fun a =>
    let k := s.boundariesBefore n a.1 e
    (Int.toNat (a.1 + ((4 * Nat.max 1 (s.axPeriod n) * k : Nat) : Int)), a.2 + BitVec.ofNat 32 (k * s.cdiv n))

/-- The first tick at or after E. -/
def State.tickAt (s : State) (e : Nat) : Nat := s.now + (e - s.now + 3) / 4 * 4

/-- D, and the frame number at D for an axis command. -/
def State.deliveryAt (s : State) (c : HostCmd) (e : Nat) : Nat × BitVec 32 :=
  match cmdAxis c with
  | some n => (s.boundaryAt n e).getD (s.tickAt e, 0)
  | none =>
    match c with
    | .netTx q _ => if h : q.toNat < 16 then (if s.launches ⟨q.toNat, h⟩ then (e, 0) else (s.tickAt e, 0)) else (s.tickAt e, 0)
    | _ => (s.tickAt e, 0)

/-! ## Check 6: projected states (R316, R230, R439) -/

/-- A command is open to an axis that has lost its engine for good (R439). -/
def forEngineless : HostCmd → Bool
  | .axisEnable _ on => !on
  | .wcClear _ => true
  | _ => false

/-- The axis has no engine, or is in the arbiter stop. -/
def State.isEngineless (s : State) (n : AxId) : Bool := (s.failover n).engineless || (s.failover n).arbStop.isSome

/-- POS_UNK as it will stand: an accepted POS_PRELOAD clears it (R258). -/
def State.projPosUnk (s : State) (n : AxId) : Bool :=
  s.bit Fld.AX_MSTAT_POS_UNK n.val && !s.accepted.any fun a => match a.cmd with
    | .posPreload m _ => m == n
    | _ => false

/-- ENG_LOAD and ENG_START may touch the engine: an axis engine whose axis is OFF, a group engine that no axis in use has as
its trajectory engine and that monitors none. -/
def State.engineIdle (s : State) (e : EngId) : Bool :=
  if s.engRole e = 1 then s.proj (s.eng e).axis == .off
  else !s.isMonEngine e &&
    (allFin 48).all fun n => s.fld Fld.AX_MOTCFG_TRAJ_ENG n.val != e.val || s.proj n == .off

/-- The projected state of the named axes allows the command. -/
def State.stateAllows (s : State) (c : HostCmd) : Bool :=
  let enabling (n : AxId) : Bool := s.proj n == .run || s.accepted.any fun a => a.cmd == .axisEnable n true
  match c with
  | .axisEnable n true => s.proj n != .off && s.proj n != .absent && !s.bit Fld.AX_STATE_IOFS_BAD n.val
  | .axisEnable n false => !(s.proj n == .safe && s.bit Fld.AX_STATE_WC_ACTIVE n.val)
  | .wcClear n => s.proj n == .safe || s.proj n == .absent
  | .setCoef n _ _ => s.proj n != .off
  | .moveAbs n _ _ _ _ _ => enabling n && !(s.axMode n == 3 && s.projPosUnk n)
  | .moveVel n _ _ _ => enabling n
  | .gear n _ _ _ _ _ _ => enabling n
  | .cam n _ _ _ _ _ _ _ => enabling n
  | .home n _ _ _ _ _ _ => enabling n
  | .stepCfg n _ _ _ _ _ _ => s.proj n == .idle || s.proj n == .hold
  | .engLoad m _ => if h : m.toNat < 64 then s.engineIdle ⟨m.toNat, h⟩ else true
  | .engStart m => if h : m.toNat < 64 then s.engineIdle ⟨m.toNat, h⟩ else true
  | .profileLoad _ => (allFin 48).all fun n => s.proj n == .off
  | _ => true

/-- Check 6. -/
def State.checkSix (s : State) (c : HostCmd) : Bool :=
  (forEngineless c || (cmdNames c).all fun r => match r with
    | .axis n => !s.isEngineless n
    | _ => true) && s.stateAllows c

/-! ## Check 5: safety (R408, R409, R421) -/

/-- The command is marked S in Table 2. -/
def safetyMarked : HostCmd → Bool
  | .axisEnable _ on => on
  | c => isQueued c

def State.checkFive (s : State) (c : HostCmd) : Bool :=
  !safetyMarked c || (!s.holdAll && (match cmdAxis c with
    | some n => !s.safetyHeld n
    | none => true))

/-! ## Check 7: queues (R230, R303, R348, R364) -/

def State.pendTable (s : State) (fn : FnId) : Bool :=
  decide (s.accepted.length < 4096) &&
  decide ((s.accepted.filter fun a => a.src.fn == fn).length < Nat.max 1 (s.fld Fld.HIF_QOS1_PEND fn.val))

def State.queueRoom (s : State) (c : HostCmd) : Bool :=
  match c with
  | .canTx k _ _ _ _ => if h : k.toNat < 4 then decide (s.canQueued ⟨k.toNat, h⟩ < 32) else true
  | .netTx q _ => if h : q.toNat < 16 then decide (s.txQueued ⟨q.toNat, h⟩ < 32) else true
  | _ =>
    match isQueued c, cmdAxis c with
    | true, some n =>
      decide ((s.motion n).queue.length + (s.accepted.filter fun a => isQueued a.cmd && cmdAxis a.cmd == some n).length < 8)
    | _, _ => true

/-! ## Check 8: mailbox, engine steps, pace (R34, R279, R303) -/

/-- The current-loop boundaries of an axis at DT `a` or later and before `b`: each brings one sample handler run. -/
def State.runsBetween (s : State) (n : AxId) (a b : Nat) : Nat :=
  match s.anchor n with
  | none => 0
  | some (t0, f0) =>
    let ka := s.boundariesBefore n t0 a
    let kb := s.boundariesBefore n t0 b
    -- Current-loop frames of an axis recur within every 4 frames (R126, R438).
    let hits := (List.range 4).map fun j => s.currentLoopFrame n (f0 + BitVec.ofNat 32 ((ka + j) * s.cdiv n))
    let whole := (kb - ka) / 4
    let rest := (kb - ka) % 4
    whole * (hits.filter id).length + ((hits.take rest).filter id).length

/-- A record that an accepted command will place in the mailbox of an axis: its D, and whether it is a coefficient. -/
def mailOf (n : AxId) (c : HostCmd) (d : Nat) : Option (Nat × Bool) :=
  match c with
  | .setCoef m _ _ => if m = n then some (d, true) else none
  | .moveLim m _ _ _ _ => if m = n then some (d, false) else none
  | .stepCfg m _ _ _ _ _ _ => if m = n then some (d, false) else none
  | _ => none

/-- The mailbox as admission models it: the instant reached, the coefficient records and the instants at which the others leave. -/
structure MailModel where
  at_ : Nat
  coefs : Nat
  others : List Nat
  ok : Bool
  deriving DecidableEq, Repr

/-- One record arrives. -/
def State.mailArrive (s : State) (n : AxId) (m : MailModel) (r : Nat × Bool) : MailModel :=
  let coefs := m.coefs - s.runsBetween n m.at_ r.1 + (if r.2 then 1 else 0)
  let leave := s.mailLeaves n r.1 ((s.boundaryAt n r.1).map (·.2) |>.getD 0)
  let others := m.others.filter (fun t => decide (r.1 < t)) ++ (if r.2 then [] else [leave])
  { at_ := r.1, coefs := coefs, others := others, ok := m.ok && decide (coefs + others.length ≤ 8) }

/-- The mailbox of an axis never holds more than 8 records with a command delivered at `d` added (R303). -/
def State.mailboxOk (s : State) (n : AxId) (src : CmdSrc) (c : HostCmd) (d : Nat) : Bool :=
  let l := insertByD { src := src, cmd := c, d := d } s.byDelivery
  let m : MailModel := { at_ := s.now, coefs := (s.ax n).mail.length, others := (s.ax n).mailOther, ok := true }
  ((l.filterMap fun a => mailOf n a.cmd a.d).foldl (s.mailArrive n) m).ok

def ceilDiv (a b : Nat) : Nat := (a + (b - 1)) / b

/-- Used bands of a band set: KIND 1 to 3 (08_condition.md, Table 1). -/
def State.usedBands (s : State) (set : Nat) : Nat :=
  ((List.range 16).filter fun k =>
    let kind := (Mem.byte s.shmem (0x1E0000 + 0x100 * set + 16 * k)).toNat
    decide (1 ≤ kind) && decide (kind ≤ 3)).length

/-- W of R279 for a monitoring engine, over the axes that it would serve. -/
def State.monSteps (s : State) (e : EngId) (c : HostCmd) : Nat :=
  let cfg (n : AxId) : Option HostCmd := if cmdAxis c = some n then some c else s.projMon n
  let served := (allFin 48).filterMap fun n => match cfg n with
    | some (.monCfg _ en m set log _ _ _ _) =>
      if en = 1 ∧ m.toNat = e.val then some (n, s.usedBands set.toNat, 2 ^ log.toNat) else none
    | _ => none
  let a := served.length
  let b := served.foldl (fun v x => Nat.max v x.2.1) 0
  let nMax := served.foldl (fun v x => Nat.max v x.2.2) 0
  let gMin := served.foldl (fun v x => Nat.min v (s.gridNs x.1)) 250000
  let tGrp := 4 * s.engPeriod e
  let i0 := if s.env = .agile then 10000000000 else 2000000000
  let q := ceilDiv tGrp gMin
  let m := Nat.min a (ceilDiv ((2048 + nMax) * gMin * 64) i0 + 1)
  let r := Nat.min a (ceilDiv (tGrp * 64) i0 + 1)
  m * q * (104 + 10 * b) + r * 2400 + 150

/-- Check 8: the offset of the field at fault. -/
def State.checkEight (s : State) (src : CmdSrc) (c : HostCmd) (d : Nat) : Option Nat :=
  let limit := s.bit Fld.GLB_PACE_STAT_LIMIT
  match c with
  | .setCoef n _ _ => if s.mailboxOk n src c d then none else some 0x10
  | .moveLim n _ _ _ _ => if s.mailboxOk n src c d then none else some 0x10
  | .stepCfg n _ _ _ _ _ _ => if s.mailboxOk n src c d then none else some 0x10
  | .engLoad m image =>
    if h : m.toNat < 64 then (if s.imageFits src.fn ⟨m.toNat, h⟩ image s.projImage then none else some 0x18) else none
  | .monCfg _ _ m _ _ _ _ _ _ =>
    if h : m.toNat < 64 then (if !limit && decide (s.monSteps ⟨m.toNat, h⟩ c ≤ 40000) then none else some 0x12) else none
  | .profileLoad _ => if limit then some 0x10 else none
  | _ => none

/-! ## The judgement (R301, Tables 6, 8 and 9) -/

/-- REASON of a failed check (Table 8 of 09_host_rings.md). -/
def checkReason : Nat → Nat
  | 1 => 5 | 2 => 4 | 3 => 5 | 4 => 1 | 5 => 6 | 6 => 7 | 7 => 3 | _ => 2

/-- Checks 2 to 8, in order: the check that fails and the offset it reports. -/
def State.failedCheck (s : State) (src : CmdSrc) (c : CmdCode) (d buf : List Byte) : Option (Nat × Nat) :=
  match s.checkTwo src.fn c d buf with
  | some o => some (2, o)
  | none =>
    match s.checkThree c d buf with
    | some o => some (3, o)
    | none =>
      let cmd := buildCmd c d buf
      let e := s.execTime d
      if e < s.now + 40000 then some (4, 0x08)
      else if !s.checkFive cmd then some (5, 0x10)
      else if !s.checkSix cmd then some (6, if c = .profileLoad then 0xFFFF else 0x10)
      else if !s.pendTable src.fn then some (7, 0xFFFF)
      else if !s.queueRoom cmd then some (7, 0x10)
      else (s.checkEight src cmd (s.deliveryAt cmd e).1).map fun o => (8, o)

/-- REFUSED at t_f, with CHECK and PARAM. -/
def State.refuse (s : State) (src : CmdSrc) (check param : Nat) : State :=
  s.complete src .refused (checkReason check) 0 ([BitVec.ofNat 8 check, 0] ++ leBytes 2 param)

/-- Axes of a GROUP_STOP in RUN or HOLD. -/
def State.movingAxes (s : State) (c : HostCmd) : Nat :=
  match c with
  | .groupStop mask _ => ((maskAxes mask).filter fun n => s.axState n == .run || s.axState n == .hold).length
  | _ => 0

/-- Acceptance: the pending table, the reservation and the ACCEPTED completion (R298, R304). -/
def State.accept (s : State) (src : CmdSrc) (c : HostCmd) (e : Nat) : State :=
  let (d, frame) := s.deliveryAt c e
  let s := s.complete src .accepted 0 0 (leBytes 4 frame.toNat ++ leBytes 4 (s.movingAxes c)) d
  let f := s.fn src.fn
  let s := s.setFn src.fn { f with owed := f.owed ++ [src] }
  let s : State := { s with accepted := s.accepted ++ [{ src := src, cmd := c, d := d }],
                            pwr := { s.pwr with order := s.pwr.order ++ [src] } }
  s.refreshResv src.fn

/-- One descriptor is judged, and LAST takes its number (R296, R301). -/
def State.judge (s : State) (fn : FnId) (ring : Fin 4) (d buf : List Byte) : State :=
  let seq := BitVec.ofNat 32 (leAt d 0 4)
  let src : CmdSrc := ⟨fn, ring, seq⟩
  let s := s.setWord .HIF_RING_SEQ fn.val ring.val seq
  match checkOne d with
  | .inl o => s.refuse src 1 o
  | .inr c =>
    match s.failedCheck src c d buf with
    | some (k, o) => s.refuse src k o
    | none => s.accept src (buildCmd c d buf) (s.execTime d)

/-! ## The fetch (R295, R298, R302) -/

/-- The device admits commands: it runs, or a boot load waits for its carriers. -/
def State.admitting (s : State) : Bool :=
  s.pwr.phase == .ready || (s.pwr.phase == .booting && s.prof.loading.isSome)

/-- Entries of the completion ring that are spoken for: reserved ones, and ACCEPTED or REFUSED entries that wait. -/
def State.compTaken (s : State) (fn : FnId) : Nat :=
  s.reserved fn + ((s.fn fn).comps.filter fun c => !c.reserved && !c.isLatch).length

/-- Fetches of the latest 10 µs. -/
def State.recentFetches (s : State) (fn : FnId) : List Nat := (s.fn fn).fetched.filter fun t => decide (s.tick < t + 2500)

/-- A command ring may fetch. -/
def State.canFetch (s : State) (fn : FnId) (r : RingId) : Bool :=
  s.admitting && s.fnState fn == .ready && (s.fn fn).busMaster && s.ringState fn r == .active &&
  s.ringState fn compRing == .active && decide (s.compTaken fn < s.ringFree fn compRing) &&
  decide ((s.recentFetches fn).length < s.fld Fld.HIF_QOS0_RATE fn.val) && (s.ring fn r).hostIdx != (s.ring fn r).devIdx

/-- A command ring of a function may fetch. -/
def State.canServe (s : State) (fn : FnId) : Bool := (allFin 4).any fun r => s.canFetch fn ⟨r.val, by omega⟩

/-- It is the turn of a function: going round from the function served last, no function before it may fetch (R302). -/
def State.fetchTurn (s : State) (fn : FnId) : Bool :=
  let after (g : FnId) : Nat := (g.val + 7 - s.fetchLast.val) % 8
  (allFin 8).all fun g => !(decide (after g < after fn) && s.canServe g)

/-- DESCRIPTOR_FETCH: the next descriptor of a command ring, with its buffer, has reached the device and is judged; the functions take
turns. A failed read halts the ring, and so does a sequence number that is not LAST + 1; neither is completed. -/
def execDescriptorFetch (fn : FnId) (ring : Fin 4) (desc buf : List Byte) (err : Bool) (s : State) : Out :=
  if desc.length ≠ 64 then .fault .malformed else
  let r : RingId := ⟨ring.val, by omega⟩
  .next (
    if !s.canFetch fn r || !s.fetchTurn fn then s else
    let s := { s with fetchLast := fn }.setFn fn { s.fn fn with fetched := s.tick :: s.recentFetches fn }
    if err then s.haltRing fn r 3
    else if BitVec.ofNat 32 (leAt desc 0 4) ≠ s.word .HIF_RING_SEQ fn.val ring.val + 1 then s.haltRing fn r 4
    else (s.advanceRing fn r 1).judge fn ring desc buf)

end Sys2Proof.Machine
end

