-- ==== Sys2Proof/Machine/Tick.lean ====
section
/-! DEFINITION. What one tick of 4 ns brings by itself (R18, R330, R331): device time, and what waits for time or for a
condition without a command of its own. The step on an empty queue is one tick (DESIGN CHOICE, assumption 1). -/

namespace Sys2Proof.Machine

/-- DT takes its next value: 4 ns more, or the value of a set, which the gate lists follow (R331, R347). -/
def State.tickDt (s : State) : State :=
  let t : State := { s with tick := s.tick + 1, hwSet := [], hostSet := [] }
  match s.time.dtSetPend with
  | none => { t with dt := s.dt + 4 }
  | some v =>
    let t : State := { t with dt := v, time := { s.time with dtSetPend := none } }
    (t.refreshGates 0 v.toNat).refreshGates 1 v.toNat

/-- Offset conversions that have finished by now (R132): 50 ticks after their B_n. -/
def State.tickOffsets (s : State) : State :=
  forAll (allFin 48) (fun s n =>
    if (s.ax n).ofsPend.isSome ∧ (s.ax n).frameTick + 50 ≤ s.tick then s.foldOffset n else s) s

/-- AX_PLUGSTAT.TIMER of the axes whose retry timer runs (R468). -/
def State.tickPlugs (s : State) : State :=
  forAll (allFin 48) (fun s n => if (s.plug n).retryDue.isSome then s.refreshPlug n else s) s

/-- BNK_MEAS is refreshed every 250 ticks (R490). -/
def State.tickMeas (s : State) : State :=
  if s.tick % 250 ≠ 0 then s else
  forAll (allFin 6) (fun s b =>
    (s.setFld Fld.BNK_MEAS_VM b.val (s.bnk b).vm.toNat).setFld Fld.BNK_MEAS_VGD b.val (s.bnk b).vgd.toNat) s

/-- Frames that wait for a line port (R346). -/
def State.tickEgress (s : State) : State := (s.egressRun 0).egressRun 1

/-- One tick: device time; offset conversions and retry timers; a carrier start and a profile load that wait for their
conditions (R155, R456); the measured supplies (R490); the host's window writes where no engine waits any more (R21); an APPLY that waits for a
take-over (R441); frames that wait for a line port. -/
def State.oneTick (s : State) : State := s.tickDt.tickMeas.tickOffsets.tickPlugs.retryStarts.continueLoad.hostTurn.resumeApply.tickEgress

end Sys2Proof.Machine
end

