-- ==== Sys2Proof/Machine/Dispatch.lean ====
section
/-! DEFINITION. One arm per command, each a direct call of its meaning (the modules of Sys2Proof/Machine). -/

namespace Sys2Proof.Machine

def exec (i : Instr) (s : State) : Host.Outcome State Fault Refusal :=
  match i with
  | .nop e => Sys2Proof.Machine.execNop e s
  | .br e cond target => Sys2Proof.Machine.execBr e cond target s
  | .jal e d target => Sys2Proof.Machine.execJal e d target s
  | .jr e a => Sys2Proof.Machine.execJr e a s
  | .bdec e a target => Sys2Proof.Machine.execBdec e a target s
  | .rpt e count => Sys2Proof.Machine.execRpt e count s
  | .rete e => Sys2Proof.Machine.execRete e s
  | .wait e => Sys2Proof.Machine.execWait e s
  | .mfsw e d => Sys2Proof.Machine.execMfsw e d s
  | .mtsw e a => Sys2Proof.Machine.execMtsw e a s
  | .satm e b => Sys2Proof.Machine.execSatm e b s
  | .mfs e d sr => Sys2Proof.Machine.execMfs e d sr s
  | .mts e sr a => Sys2Proof.Machine.execMts e sr a s
  | .add e d a b => Sys2Proof.Machine.execAdd e d a b s
  | .sub e d a b => Sys2Proof.Machine.execSub e d a b s
  | .min e d a b => Sys2Proof.Machine.execMin e d a b s
  | .max e d a b => Sys2Proof.Machine.execMax e d a b s
  | .and e d a b => Sys2Proof.Machine.execAnd e d a b s
  | .or e d a b => Sys2Proof.Machine.execOr e d a b s
  | .xor e d a b => Sys2Proof.Machine.execXor e d a b s
  | .andn e d a b => Sys2Proof.Machine.execAndn e d a b s
  | .mov e d a => Sys2Proof.Machine.execMov e d a s
  | .neg e d a => Sys2Proof.Machine.execNeg e d a s
  | .abs e d a => Sys2Proof.Machine.execAbs e d a s
  | .not e d a => Sys2Proof.Machine.execNot e d a s
  | .addi e d a imm => Sys2Proof.Machine.execAddi e d a imm s
  | .lih e d imm => Sys2Proof.Machine.execLih e d imm s
  | .shl e d a n => Sys2Proof.Machine.execShl e d a n s
  | .asr e d a n => Sys2Proof.Machine.execAsr e d a n s
  | .lsr e d a n => Sys2Proof.Machine.execLsr e d a n s
  | .cmp e a b => Sys2Proof.Machine.execCmp e a b s
  | .cmpi e a imm => Sys2Proof.Machine.execCmpi e a imm s
  | .norm e d a => Sys2Proof.Machine.execNorm e d a s
  | .norma e d a => Sys2Proof.Machine.execNorma e d a s
  | .mpy e d a b => Sys2Proof.Machine.execMpy e d a b s
  | .mac e d a b => Sys2Proof.Machine.execMac e d a b s
  | .msu e d a b => Sys2Proof.Machine.execMsu e d a b s
  | .mpya e d a b => Sys2Proof.Machine.execMpya e d a b s
  | .macm e d a b pair => Sys2Proof.Machine.execMacm e d a b pair s
  | .msum e d a b pair => Sys2Proof.Machine.execMsum e d a b pair s
  | .adda e d a b => Sys2Proof.Machine.execAdda e d a b s
  | .suba e d a b => Sys2Proof.Machine.execSuba e d a b s
  | .mova e d a => Sys2Proof.Machine.execMova e d a s
  | .ldah e d a => Sys2Proof.Machine.execLdah e d a s
  | .clra e d => Sys2Proof.Machine.execClra e d s
  | .nega e d a => Sys2Proof.Machine.execNega e d a s
  | .absa e d a => Sys2Proof.Machine.execAbsa e d a s
  | .sha e d a amt => Sys2Proof.Machine.execSha e d a amt s
  | .exth e d a amt => Sys2Proof.Machine.execExth e d a amt s
  | .cmpa e a b => Sys2Proof.Machine.execCmpa e a b s
  | .movph e d a => Sys2Proof.Machine.execMovph e d a s
  | .movhp e d a => Sys2Proof.Machine.execMovhp e d a s
  | .padd e d a circ off => Sys2Proof.Machine.execPadd e d a circ off s
  | .pli e d imm => Sys2Proof.Machine.execPli e d imm s
  | .cmpp e a b => Sys2Proof.Machine.execCmpp e a b s
  | .fadd e d a b => Sys2Proof.Machine.execFadd e d a b s
  | .fsub e d a b => Sys2Proof.Machine.execFsub e d a b s
  | .fmul e d a b => Sys2Proof.Machine.execFmul e d a b s
  | .fmac e d a b => Sys2Proof.Machine.execFmac e d a b s
  | .fmsu e d a b => Sys2Proof.Machine.execFmsu e d a b s
  | .fmov e d a => Sys2Proof.Machine.execFmov e d a s
  | .fneg e d a => Sys2Proof.Machine.execFneg e d a s
  | .fabs e d a => Sys2Proof.Machine.execFabs e d a s
  | .fmin e d a b => Sys2Proof.Machine.execFmin e d a b s
  | .fmax e d a b => Sys2Proof.Machine.execFmax e d a b s
  | .fscl e d a b => Sys2Proof.Machine.execFscl e d a b s
  | .frcp e d a => Sys2Proof.Machine.execFrcp e d a s
  | .frsq e d a => Sys2Proof.Machine.execFrsq e d a s
  | .exp e d a => Sys2Proof.Machine.execExp e d a s
  | .cvt e d a form => Sys2Proof.Machine.execCvt e d a form s
  | .fcmp e a b => Sys2Proof.Machine.execFcmp e a b s
  | .fli e d imm => Sys2Proof.Machine.execFli e d imm s
  | .ldh e d m => Sys2Proof.Machine.execLdh e d m s
  | .ldp e d m => Sys2Proof.Machine.execLdp e d m s
  | .ldf e d m => Sys2Proof.Machine.execLdf e d m s
  | .lda e d m => Sys2Proof.Machine.execLda e d m s
  | .sth e b m => Sys2Proof.Machine.execSth e b m s
  | .stp e b m => Sys2Proof.Machine.execStp e b m s
  | .stf e b m => Sys2Proof.Machine.execStf e b m s
  | .sta e b m => Sys2Proof.Machine.execSta e b m s
  | .resultLanding e => Sys2Proof.Machine.execResultLanding e s
  | .longAccessGrant e wait => Sys2Proof.Machine.execLongAccessGrant e wait s
  | .stepLimit e => Sys2Proof.Machine.execStepLimit e s
  | .eventRaise e k src => Sys2Proof.Machine.execEventRaise e k src s
  | .handlerEntry e reach => Sys2Proof.Machine.execHandlerEntry e reach s
  | .paceMeasure e count => Sys2Proof.Machine.execPaceMeasure e count s
  | .frameBoundary place => Sys2Proof.Machine.execFrameBoundary place s
  | .sampleTrigger n => Sys2Proof.Machine.execSampleTrigger n s
  | .sampleComplete n adc => Sys2Proof.Machine.execSampleComplete n adc s
  | .releaseInstant n => Sys2Proof.Machine.execReleaseInstant n s
  | .failoverWindowEnd n => Sys2Proof.Machine.execFailoverWindowEnd n s
  | .engineFailDeclared e => Sys2Proof.Machine.execEngineFailDeclared e s
  | .takeoverStart n => Sys2Proof.Machine.execTakeoverStart n s
  | .engineSelftestDone e pass => Sys2Proof.Machine.execEngineSelftestDone e pass s
  | .zeroingDone e => Sys2Proof.Machine.execZeroingDone e s
  | .imageCopyDone e crcOk => Sys2Proof.Machine.execImageCopyDone e crcOk s
  | .allocApply fn => Sys2Proof.Machine.execAllocApply fn s
  | .carrierStartRequest b fn value => Sys2Proof.Machine.execCarrierStartRequest b fn value s
  | .carrierStart b => Sys2Proof.Machine.execCarrierStart b s
  | .carrierStopRequest b fn value => Sys2Proof.Machine.execCarrierStopRequest b fn value s
  | .carrierStop b => Sys2Proof.Machine.execCarrierStop b s
  | .fbWriteStopped b => Sys2Proof.Machine.execFbWriteStopped b s
  | .hallChange n code since => Sys2Proof.Machine.execHallChange n code since s
  | .quadTransition n premium a b z => Sys2Proof.Machine.execQuadTransition n premium a b z s
  | .indexEvent n => Sys2Proof.Machine.execIndexEvent n s
  | .sincosPair n sin cos => Sys2Proof.Machine.execSincosPair n sin cos s
  | .ssiTransferStart n => Sys2Proof.Machine.execSsiTransferStart n s
  | .ssiTransferEnd n bits frameOk => Sys2Proof.Machine.execSsiTransferEnd n bits frameOk s
  | .fltCut b level => Sys2Proof.Machine.execFltCut b level s
  | .cbcTrip n mag => Sys2Proof.Machine.execCbcTrip n mag s
  | .desat n vds since => Sys2Proof.Machine.execDesat n vds since s
  | .hoc n mag => Sys2Proof.Machine.execHoc n mag s
  | .vgdUv b vgd => Sys2Proof.Machine.execVgdUv b vgd s
  | .vmL1 b vm => Sys2Proof.Machine.execVmL1 b vm s
  | .vmL2 b vm => Sys2Proof.Machine.execVmL2 b vm s
  | .vmLow b vm => Sys2Proof.Machine.execVmLow b vm s
  | .brakeTimeout b => Sys2Proof.Machine.execBrakeTimeout b s
  | .switchNodeCrossing n leg node held => Sys2Proof.Machine.execSwitchNodeCrossing n leg node held s
  | .deadTimeTimeout n leg => Sys2Proof.Machine.execDeadTimeTimeout n leg s
  | .slopeTimeout n leg => Sys2Proof.Machine.execSlopeTimeout n leg s
  | .stepTimerExpiry n => Sys2Proof.Machine.execStepTimerExpiry n s
  | .dioInputEdge d => Sys2Proof.Machine.execDioInputEdge d s
  | .latchRecord n unit => Sys2Proof.Machine.execLatchRecord n unit s
  | .poOutputCount k => Sys2Proof.Machine.execPoOutputCount k s
  | .shaftPublish => Sys2Proof.Machine.execShaftPublish s
  | .shaftSampleRx payload => Sys2Proof.Machine.execShaftSampleRx payload s
  | .shaftSampleMiss dtk => Sys2Proof.Machine.execShaftSampleMiss dtk s
  | .motorLoss n byHall => Sys2Proof.Machine.execMotorLoss n byHall s
  | .plugRetryExpiry n => Sys2Proof.Machine.execPlugRetryExpiry n s
  | .identificationDone n u v w => Sys2Proof.Machine.execIdentificationDone n u v w s
  | .descriptorFetch fn ring desc buf err => Sys2Proof.Machine.execDescriptorFetch fn ring desc buf err s
  | .axisEnable src n on => Sys2Proof.Machine.execAxisEnable src n on s
  | .axisHold src n => Sys2Proof.Machine.execAxisHold src n s
  | .wcClear src n => Sys2Proof.Machine.execWcClear src n s
  | .setCoef src n id value => Sys2Proof.Machine.execSetCoef src n id value s
  | .posPreload src n pos => Sys2Proof.Machine.execPosPreload src n pos s
  | .groupStop src mask cat => Sys2Proof.Machine.execGroupStop src mask cat s
  | .moveAbs src n t v a d j => Sys2Proof.Machine.execMoveAbs src n t v a d j s
  | .moveVel src n vel a j => Sys2Proof.Machine.execMoveVel src n vel a j s
  | .moveLim src n v a d j => Sys2Proof.Machine.execMoveLim src n v a d j s
  | .gear src n gsrc master num den ramp ph => Sys2Proof.Machine.execGear src n gsrc master num den ramp ph s
  | .cam src n csrc master cam mp mo scale rise => Sys2Proof.Machine.execCam src n csrc master cam mp mo scale rise s
  | .home src n reverse iHome vHome homePos backoff maxDist => Sys2Proof.Machine.execHome src n reverse iHome vHome homePos backoff maxDist s
  | .stepCfg src n stallN iRun iHold holdMs stallTh stallVmin => Sys2Proof.Machine.execStepCfg src n stallN iRun iHold holdMs stallTh stallVmin s
  | .latchArm src n unit dio edge mode target => Sys2Proof.Machine.execLatchArm src n unit dio edge mode target s
  | .snapshot src => Sys2Proof.Machine.execSnapshot src s
  | .dioSet src mask value => Sys2Proof.Machine.execDioSet src mask value s
  | .poSet src k n m => Sys2Proof.Machine.execPoSet src k n m s
  | .canTx src c fmt dlc id data => Sys2Proof.Machine.execCanTx src c fmt dlc id data s
  | .canMode src c mode => Sys2Proof.Machine.execCanMode src c mode s
  | .canRecover src c => Sys2Proof.Machine.execCanRecover src c s
  | .netTx src q frame => Sys2Proof.Machine.execNetTx src q frame s
  | .timeAccept src => Sys2Proof.Machine.execTimeAccept src s
  | .engLoad src m image => Sys2Proof.Machine.execEngLoad src m image s
  | .engStart src m => Sys2Proof.Machine.execEngStart src m s
  | .monCfg src n enable monEng bandset nlog rinj lq rRef tRef => Sys2Proof.Machine.execMonCfg src n enable monEng bandset nlog rinj lq rRef tRef s
  | .monBaseline src n => Sys2Proof.Machine.execMonBaseline src n s
  | .profileLoad src p => Sys2Proof.Machine.execProfileLoad src p s
  | .safeConfirm src check => Sys2Proof.Machine.execSafeConfirm src check s
  | .doorbell fn ring value => Sys2Proof.Machine.execDoorbell fn ring value s
  | .ringEnable fn ring value bme => Sys2Proof.Machine.execRingEnable fn ring value bme s
  | .ringDisable fn ring value => Sys2Proof.Machine.execRingDisable fn ring value s
  | .completionWrite fn sent => Sys2Proof.Machine.execCompletionWrite fn sent s
  | .eventRecordWrite fn sent => Sys2Proof.Machine.execEventRecordWrite fn sent s
  | .msixMessage fn vec => Sys2Proof.Machine.execMsixMessage fn vec s
  | .functionReset by1 fn value => Sys2Proof.Machine.execFunctionReset by1 fn value s
  | .functionLevelReset fn => Sys2Proof.Machine.execFunctionLevelReset fn s
  | .vfEnableClear => Sys2Proof.Machine.execVfEnableClear s
  | .functionResetEnd fn => Sys2Proof.Machine.execFunctionResetEnd fn s
  | .ownApply fn => Sys2Proof.Machine.execOwnApply fn s
  | .ownershipZeroingDone res => Sys2Proof.Machine.execOwnershipZeroingDone res s
  | .posLoRead fn n => Sys2Proof.Machine.execPosLoRead fn n s
  | .zposLoRead fn n => Sys2Proof.Machine.execZposLoRead fn n s
  | .dtLoRead fn => Sys2Proof.Machine.execDtLoRead fn s
  | .posldArm fn n value => Sys2Proof.Machine.execPosldArm fn n value s
  | .poEnable fn k value => Sys2Proof.Machine.execPoEnable fn k value s
  | .dtSet fn value => Sys2Proof.Machine.execDtSet fn value s
  | .syncSample domain theta p asCap => Sys2Proof.Machine.execSyncSample domain theta p asCap s
  | .domainLost domain => Sys2Proof.Machine.execDomainLost domain s
  | .timeBoundUpdate => Sys2Proof.Machine.execTimeBoundUpdate s
  | .tpoPulse => Sys2Proof.Machine.execTpoPulse s
  | .link p up speedOk => Sys2Proof.Machine.execLink p up speedOk s
  | .frameRx p f full => Sys2Proof.Machine.execFrameRx p f full s
  | .gclCommit fn p value => Sys2Proof.Machine.execGclCommit fn p value s
  | .gclChange p => Sys2Proof.Machine.execGclChange p s
  | .launchTime q => Sys2Proof.Machine.execLaunchTime q s
  | .frameTxDone q sfd => Sys2Proof.Machine.execFrameTxDone q sfd s
  | .canFrameRx c f sof => Sys2Proof.Machine.execCanFrameRx c f sof s
  | .canRxWrite c => Sys2Proof.Machine.execCanRxWrite c s
  | .canTxDone c sof loopDly => Sys2Proof.Machine.execCanTxDone c sof loopDly s
  | .canArbitrationLost c sof => Sys2Proof.Machine.execCanArbitrationLost c sof s
  | .canBusError c kind transmitting sof extra => Sys2Proof.Machine.execCanBusError c kind transmitting sof extra s
  | .canModeReached c => Sys2Proof.Machine.execCanModeReached c s
  | .canRecoveryDone c => Sys2Proof.Machine.execCanRecoveryDone c s
  | .dioChannelTsd d => Sys2Proof.Machine.execDioChannelTsd d s
  | .dioCurrentUpdate total limited => Sys2Proof.Machine.execDioCurrentUpdate total limited s
  | .dioOpenLoad d opened => Sys2Proof.Machine.execDioOpenLoad d opened s
  | .dioWireBreak d broken => Sys2Proof.Machine.execDioWireBreak d broken s
  | .dioLinkRefresh => Sys2Proof.Machine.execDioLinkRefresh s
  | .dioLinkTimeout => Sys2Proof.Machine.execDioLinkTimeout s
  | .dioCmdTimeout d => Sys2Proof.Machine.execDioCmdTimeout d s
  | .dioUv active => Sys2Proof.Machine.execDioUv active s
  | .dioCfgWrite fn d value => Sys2Proof.Machine.execDioCfgWrite fn d value s
  | .dioTotalClear fn => Sys2Proof.Machine.execDioTotalClear fn s
  | .safetyCycle fault => Sys2Proof.Machine.execSafetyCycle fault s
  | .safeInputChange p sideB level => Sys2Proof.Machine.execSafeInputChange p sideB level s
  | .testPulse k fails => Sys2Proof.Machine.execTestPulse k fails s
  | .pairDiscrepancy p => Sys2Proof.Machine.execPairDiscrepancy p s
  | .safetyWatchdogExpiry => Sys2Proof.Machine.execSafetyWatchdogExpiry s
  | .ss1Timeout g => Sys2Proof.Machine.execSs1Timeout g s
  | .safetyStore fn => Sys2Proof.Machine.execSafetyStore fn s
  | .safetyStoreDone failed => Sys2Proof.Machine.execSafetyStoreDone failed s
  | .shmemWindowWrite fn addr data => Sys2Proof.Machine.execShmemWindowWrite fn addr data s
  | .powerOnReset psel elapsed cold pathFault => Sys2Proof.Machine.execPowerOnReset psel elapsed cold pathFault s
  | .resetNReset low => Sys2Proof.Machine.execResetNReset low s
  | .pwrRstKey fn value => Sys2Proof.Machine.execPwrRstKey fn value s
  | .hkWatchdogReset => Sys2Proof.Machine.execHkWatchdogReset s
  | .powerFailRestart mv held => Sys2Proof.Machine.execPowerFailRestart mv held s
  | .endpointReset => Sys2Proof.Machine.execEndpointReset s
  | .bootComplete => Sys2Proof.Machine.execBootComplete s
  | .powerFail vcore mv held => Sys2Proof.Machine.execPowerFail vcore mv held s
  | .plinthCommitDone => Sys2Proof.Machine.execPlinthCommitDone s
  | .vauxHandover mv => Sys2Proof.Machine.execVauxHandover mv s
  | .vauxReturn mv => Sys2Proof.Machine.execVauxReturn mv s
  | .vbakTest e => Sys2Proof.Machine.execVbakTest e s
  | .profileRewriteDone => Sys2Proof.Machine.execProfileRewriteDone s
  | .flogCopy => Sys2Proof.Machine.execFlogCopy s
  | .nvmBegin fn value => Sys2Proof.Machine.execNvmBegin fn value s
  | .nvmWrite fn value => Sys2Proof.Machine.execNvmWrite fn value s
  | .nvmFinish fn value => Sys2Proof.Machine.execNvmFinish fn value s
  | .lockver fn value => Sys2Proof.Machine.execLockver fn value s
  | .nvmOpDone keyOk sigOk => Sys2Proof.Machine.execNvmOpDone keyOk sigOk s
  | .pwrLostDiscard fn => Sys2Proof.Machine.execPwrLostDiscard fn s
  | .thermalEvaluation readings => Sys2Proof.Machine.execThermalEvaluation readings s
  | .deratingDwell => Sys2Proof.Machine.execDeratingDwell s
  | .fanEnable fn f value => Sys2Proof.Machine.execFanEnable fn f value s
  | .fanTachPulse f ma => Sys2Proof.Machine.execFanTachPulse f ma s
  | .fanTachSilent f ma => Sys2Proof.Machine.execFanTachSilent f ma s
  | .fanKickExpiry f ma => Sys2Proof.Machine.execFanKickExpiry f ma s
  | .fanRetry f => Sys2Proof.Machine.execFanRetry f s
  | .fanOpen f held => Sys2Proof.Machine.execFanOpen f held s
  | .registerWrite fn addr value => Sys2Proof.Machine.execRegisterWrite fn addr value s
  | .pwmEdge n leg on bootLow => Sys2Proof.Machine.execPwmEdge n leg on bootLow s
  | .gateStateChange p => Sys2Proof.Machine.execGateStateChange p s
  | .addressAgeing mac => Sys2Proof.Machine.execAddressAgeing mac s
  | .syncInterval domain => Sys2Proof.Machine.execSyncInterval domain s
  | .confirmRecordWritten => Sys2Proof.Machine.execConfirmRecordWritten s
  | .powerOnResetAssert => Sys2Proof.Machine.execPowerOnResetAssert s
  | .warmResetEnd pathFault => Sys2Proof.Machine.execWarmResetEnd pathFault s
  | .dioComparatorTransition d level => Sys2Proof.Machine.execDioComparatorTransition d level s
  | .fanCurrentRestored f ma => Sys2Proof.Machine.execFanCurrentRestored f ma s
  | .vbakRecharge mv => Sys2Proof.Machine.execVbakRecharge mv s
  | .vfEnableSet num => Sys2Proof.Machine.execVfEnableSet num s

end Sys2Proof.Machine
end

