-- ==== Sys2Proof/Machine/Step.lean ====
section
/-! DEFINITION. The step: the command at the front of the queue, or one tick where none waits (assumption 1). -/

namespace Sys2Proof.Machine

/-- Take the command at the front of the queue and run it on the rest; an empty queue lets one tick pass. -/
def step (s : State) : Host.Outcome State Fault Refusal :=
  match s.pending with
  | [] => .next s.oneTick
  | c :: rest => exec c { s with pending := rest }

/-- Put the command that a table word spells at the front of the queue. The table gives no row bits, so no word spells one and
the state stays. -/
def State.withFetchWord (s : State) (nbits w : Nat) : State :=
  match decodeTableWord nbits w with
  | some c => { s with pending := c :: s.pending }
  | none => s

end Sys2Proof.Machine
end

