-- ==== Sys2Proof/Safety.lean ====
section
/-! DEFINITION. What counts as a sound state, and the other terms in which the claims are stated: when an engine is ready to
issue, and what one plain instruction leaves of it. -/

namespace Sys2Proof.Machine

/-- At most one switch of a leg is on (R168: dead time separates them). -/
def LegHw.single (l : LegHw) : Bool := !(l.high && l.low)

/-- An axis: its window and its coefficients are in canonical form, and no leg has both switches on. -/
def Axis.sound (x : Axis) : Bool :=
  Mem.wf x.win && Sparse.wf coefReset x.coef && x.legs.toList.all LegHw.single

/-- An engine: its memories are in canonical form. -/
def Engine.sound (x : Engine) : Bool := Mem.wf x.dmem && Sparse.wf (fun _ => (0 : BitVec 32)) x.imem

/-- A sound state. Every register word, every byte of memory has one home, so that equal contents are equal data; and no leg has
both switches on. -/
structure State.Sound (s : State) : Prop where
  regs : Sparse.wf Reg.resetAt s.regs = true
  force : Sparse.wf Reg.resetAt s.force = true
  shmem : Mem.wf s.shmem = true
  engines : ∀ e : EngId, s.engines[e].sound = true
  axes : ∀ n : AxId, s.axes[n].sound = true
  slots : ∀ k : Fin 2, Mem.wf s.pwr.slots[k].img = true

/-! ## Parts of State -/

/-- The parts of State, in the order of its fields. The marks that a tick keeps of the registers go with them. -/
inductive Part where
  | pending | tick | dt | free | regs | force | fbPend | lastRead | shmem | arbLast | hostWin | engines | axes | banks | fb | po | mot |
  shaft | mon | funcs | accepted | hostOut | fetchLast | ownChanges | doms | time | fdb | ports | txqs | rx | wireOut | cans | dios
  | dio | saf | fo | prof | store | pwr | plugs | thm
  deriving DecidableEq, Repr

def Part.idx : Part → Nat := Part.ctorIdx

/-- A part is the same in `t` as in `s`. -/
def State.same (s t : State) : Part → Prop
  | .pending => t.pending = s.pending
  | .tick => t.tick = s.tick
  | .dt => t.dt = s.dt
  | .free => t.free = s.free
  | .regs => t.regs = s.regs ∧ t.hwSet = s.hwSet ∧ t.hostSet = s.hostSet
  | .force => t.force = s.force
  | .fbPend => t.fbPend = s.fbPend
  | .lastRead => t.lastRead = s.lastRead
  | .shmem => t.shmem = s.shmem
  | .arbLast => t.arbLast = s.arbLast
  | .hostWin => t.hostWin = s.hostWin
  | .engines => t.engines = s.engines
  | .axes => t.axes = s.axes
  | .banks => t.banks = s.banks
  | .fb => t.fb = s.fb
  | .po => t.po = s.po
  | .mot => t.mot = s.mot
  | .shaft => t.shaft = s.shaft
  | .mon => t.mon = s.mon
  | .funcs => t.funcs = s.funcs
  | .accepted => t.accepted = s.accepted
  | .hostOut => t.hostOut = s.hostOut
  | .fetchLast => t.fetchLast = s.fetchLast
  | .ownChanges => t.ownChanges = s.ownChanges
  | .doms => t.doms = s.doms
  | .time => t.time = s.time
  | .fdb => t.fdb = s.fdb
  | .ports => t.ports = s.ports
  | .txqs => t.txqs = s.txqs
  | .rx => t.rx = s.rx
  | .wireOut => t.wireOut = s.wireOut
  | .cans => t.cans = s.cans
  | .dios => t.dios = s.dios
  | .dio => t.dio = s.dio
  | .saf => t.saf = s.saf
  | .fo => t.fo = s.fo
  | .prof => t.prof = s.prof
  | .store => t.store = s.store
  | .pwr => t.pwr = s.pwr
  | .plugs => t.plugs = s.plugs
  | .thm => t.thm = s.thm

def Part.all : List Part :=
  [.pending, .tick, .dt, .free, .regs, .force, .fbPend, .lastRead, .shmem, .arbLast, .hostWin, .engines, .axes, .banks, .fb, .po, .mot,
   .shaft, .mon, .funcs, .accepted, .hostOut, .fetchLast, .ownChanges, .doms, .time, .fdb, .ports, .txqs, .rx, .wireOut, .cans,
   .dios, .dio, .saf, .fo, .prof, .store, .pwr, .plugs, .thm]

def Part.allBut (l : List Part) : List Part := Part.all.filter fun p => !l.contains p

/-- The parts that a command may change: the frame of every command, in one table. No command changes the queue or the tick. -/
def touches : Instr → List Part
  | .nop .. | .br .. | .jal .. | .jr .. | .bdec .. | .rpt .. | .rete .. | .wait .. | .mfsw .. | .mtsw .. | .satm
    .. | .mfs .. | .mts .. | .add .. | .sub .. | .min .. | .max .. | .and .. | .or .. | .xor .. | .andn .. | .mov ..
    | .neg .. | .abs .. | .not .. | .addi .. | .lih .. | .shl .. | .asr .. | .lsr .. | .cmp .. | .cmpi .. | .norm ..
    | .norma .. | .mpy .. | .mac .. | .msu .. | .mpya .. | .macm .. | .msum .. | .adda .. | .suba .. | .mova .. |
    .ldah .. | .clra .. | .nega .. | .absa .. | .sha .. | .exth .. | .cmpa .. | .movph .. | .movhp .. | .padd .. |
    .pli .. | .cmpp .. | .fadd .. | .fsub .. | .fmul .. | .fmac .. | .fmsu .. | .fmov .. | .fneg .. | .fabs .. |
    .fmin .. | .fmax .. | .fscl .. | .frcp .. | .frsq .. | .exp .. | .cvt .. | .fcmp .. | .fli .. | .ldh .. | .ldp
    .. | .ldf .. | .lda .. | .resultLanding .. | .stepLimit .. | .eventRaise .. => [.regs, .engines]
  | .sth .. | .stp .. | .stf .. | .sta .. => [.regs, .engines, .axes, .fb]
  | .longAccessGrant .. => [.regs, .shmem, .arbLast, .hostWin, .engines, .axes, .fb]
  | .handlerEntry .. => [.free, .regs, .shmem, .engines, .axes, .fb, .mot, .mon, .funcs]
  | .paceMeasure .. => [.free, .regs, .engines, .funcs]
  | .frameBoundary .. =>
    [.free, .regs, .force, .fbPend, .engines, .axes, .banks, .fb, .mot, .mon, .funcs, .accepted, .fo, .pwr,
     .plugs]
  | .sampleTrigger .. => [.regs, .axes, .mot]
  | .sampleComplete .. => [.free, .regs, .engines, .axes, .plugs]
  | .releaseInstant .. =>
    [.free, .regs, .force, .fbPend, .engines, .axes, .banks, .mot, .mon, .funcs, .accepted, .fo, .pwr, .plugs]
  | .failoverWindowEnd .. => [.regs, .axes, .fo]
  | .engineFailDeclared .. => [.regs, .engines, .axes, .banks, .mot, .mon, .funcs, .accepted, .fo, .pwr, .plugs]
  | .takeoverStart .. => [.regs, .engines, .axes, .banks, .mot, .funcs, .accepted, .fo, .pwr, .plugs]
  | .engineSelftestDone .. | .zeroingDone .. => [.regs, .engines, .funcs, .fo]
  | .imageCopyDone .. => [.regs, .engines, .funcs, .store]
  | .allocApply .. => [.regs, .engines, .axes, .banks, .mon, .funcs, .fo, .pwr, .plugs]
  | .carrierStartRequest .. | .carrierStopRequest .. | .vmL1 .. => [.regs, .banks]
  | .carrierStart .. =>
    [.regs, .force, .fbPend, .engines, .axes, .banks, .mot, .mon, .funcs, .accepted, .fo, .pwr, .plugs]
  | .carrierStop .. => [.regs, .fbPend, .engines, .axes, .banks, .fb, .mot, .funcs, .fo]
  | .fbWriteStopped .. => [.regs, .force, .fbPend, .axes, .fb, .mot]
  | .hallChange .. => [.regs, .engines, .axes, .banks, .fb, .po, .funcs, .fo, .pwr, .plugs]
  | .quadTransition .. | .ssiTransferEnd .. => [.regs, .engines, .axes, .fb, .po, .funcs]
  | .indexEvent .. => [.regs, .engines, .axes, .fb, .funcs]
  | .sincosPair .. => [.free, .regs, .engines, .axes, .fb, .po, .funcs]
  | .ssiTransferStart .. => [.fb]
  | .fltCut .. => [.regs, .axes, .banks]
  | .cbcTrip .. | .slopeTimeout .. | .pwmEdge .. => [.regs, .axes]
  | .desat .. | .hoc .. | .vmL2 .. | .brakeTimeout .. => [.regs, .engines, .axes, .banks, .funcs, .pwr, .plugs]
  | .vgdUv .. => [.free, .regs, .engines, .axes, .banks, .funcs, .pwr, .plugs]
  | .vmLow .. => [.regs, .banks, .funcs]
  | .switchNodeCrossing .. | .motorLoss .. => [.axes]
  | .deadTimeTimeout .. => [.regs, .axes, .funcs]
  | .stepTimerExpiry .. => [.regs, .axes, .fb, .po, .mot]
  | .dioInputEdge .. => [.free, .regs, .mot, .funcs, .dios]
  | .latchRecord .. => [.free, .regs, .mot, .funcs]
  | .poOutputCount .. | .poEnable .. => [.regs, .po]
  | .shaftPublish .. => [.regs, .shmem, .shaft, .ports, .wireOut]
  | .shaftSampleRx .. => [.regs, .shmem, .shaft]
  | .shaftSampleMiss .. => [.regs, .engines, .mot, .shaft, .funcs]
  | .plugRetryExpiry .. => [.regs, .axes, .plugs]
  | .identificationDone .. => [.regs, .axes, .funcs, .plugs]
  | .descriptorFetch .. => [.regs, .funcs, .accepted, .fetchLast, .pwr]
  | .axisEnable .. | .axisHold .. | .groupStop .. => [.regs, .axes, .mot, .funcs, .accepted]
  | .wcClear .. => [.regs, .engines, .axes, .banks, .funcs, .accepted, .pwr, .plugs]
  | .setCoef .. => [.free, .regs, .engines, .axes, .funcs, .accepted]
  | .posPreload .. => [.regs, .axes, .fb, .mot, .funcs, .accepted]
  | .moveAbs .. | .moveVel .. | .gear .. | .cam .. | .home .. => [.regs, .engines, .mot, .funcs, .accepted]
  | .moveLim .. | .stepCfg .. => [.free, .regs, .engines, .axes, .mot, .funcs, .accepted]
  | .latchArm .. => [.mot, .funcs, .accepted]
  | .snapshot .. => [.regs, .funcs, .accepted]
  | .dioSet .. => [.regs, .funcs, .accepted, .dios]
  | .poSet .. => [.regs, .po, .funcs, .accepted]
  | .canTx .. | .canMode .. | .canRecover .. => [.regs, .funcs, .accepted, .cans]
  | .netTx .. => [.regs, .funcs, .accepted, .ports, .txqs, .wireOut]
  | .timeAccept .. => [.free, .regs, .funcs, .accepted, .doms, .time]
  | .engLoad .. | .engStart .. => [.regs, .engines, .funcs, .accepted]
  | .monCfg .. => [.regs, .engines, .mon, .funcs, .accepted]
  | .monBaseline .. => [.engines, .mon, .accepted]
  | .profileLoad .. | .resetNReset .. | .pwrRstKey .. | .hkWatchdogReset .. | .powerFailRestart .. | .bootComplete
    .. | .registerWrite .. | .powerOnResetAssert .. => Part.allBut [.pending, .tick, .dt, .hostOut, .wireOut]
  | .safeConfirm .. => [.funcs, .accepted, .saf]
  | .doorbell .. | .dioOpenLoad .. | .dioWireBreak .. => [.regs, .funcs]
  | .ringEnable .. | .functionResetEnd .. | .vbakTest .. | .pwrLostDiscard .. | .vfEnableSet .. =>
    [.regs, .funcs, .pwr]
  | .ringDisable .. | .vbakRecharge .. => [.regs]
  | .completionWrite .. => [.regs, .funcs, .hostOut, .pwr]
  | .eventRecordWrite .. | .msixMessage .. => [.regs, .funcs, .hostOut]
  | .functionReset .. | .functionLevelReset .. | .vfEnableClear .. | .endpointReset .. =>
    [.regs, .engines, .axes, .mot, .funcs, .accepted, .cans]
  | .ownApply .. => [.regs, .shmem, .engines, .axes, .mot, .mon, .funcs, .ownChanges, .txqs, .cans, .dios, .store]
  | .ownershipZeroingDone .. => [.regs, .ownChanges]
  | .posLoRead .. | .zposLoRead .. | .dtLoRead .. => [.lastRead, .funcs]
  | .posldArm .. => [.regs, .fb]
  | .dtSet .. => [.regs, .doms, .time]
  | .syncSample .. | .domainLost .. | .syncInterval .. => [.free, .regs, .funcs, .doms, .time]
  | .timeBoundUpdate .. => [.free, .regs]
  | .tpoPulse .. => [.time]
  | .link .. | .gclChange .. | .launchTime .. | .gateStateChange .. => [.regs, .funcs, .ports, .txqs, .wireOut]
  | .frameRx .. => [.regs, .funcs, .hostOut, .fdb, .ports, .txqs, .rx, .wireOut]
  | .gclCommit .. => [.regs, .ports]
  | .frameTxDone .. => [.regs, .funcs, .txqs]
  | .canFrameRx .. => [.free, .regs, .funcs, .cans]
  | .canRxWrite .. => [.regs, .funcs, .hostOut, .cans]
  | .canTxDone .. | .canArbitrationLost .. | .canBusError .. | .canModeReached .. | .canRecoveryDone .. =>
    [.regs, .funcs, .cans]
  | .dioChannelTsd .. | .dioCmdTimeout .. => [.regs, .funcs, .dios]
  | .dioCurrentUpdate .. | .dioLinkTimeout .. | .dioUv .. => [.regs, .funcs, .dios, .dio]
  | .dioLinkRefresh .. => [.dio]
  | .dioCfgWrite .. => [.regs, .dios]
  | .dioTotalClear .. => [.regs, .dios, .dio]
  | .safetyCycle .. => [.free, .regs, .shmem, .engines, .axes, .banks, .fb, .funcs, .saf, .pwr, .plugs]
  | .safeInputChange .. => [.regs, .saf]
  | .testPulse .. | .pairDiscrepancy .. | .safetyWatchdogExpiry .. => [.regs, .funcs, .saf]
  | .ss1Timeout .. | .safetyStore .. | .safetyStoreDone .. | .confirmRecordWritten .. =>
    [.regs, .engines, .axes, .banks, .funcs, .saf, .pwr, .plugs]
  | .shmemWindowWrite .. => [.regs, .shmem, .hostWin]
  | .powerOnReset .. => [.dt, .regs, .engines, .axes, .banks, .mon, .funcs, .saf, .fo, .prof, .pwr, .plugs]
  | .powerFail .. => [.free, .regs, .axes, .banks, .accepted, .fo, .pwr]
  | .plinthCommitDone .. | .vauxHandover .. | .vauxReturn .. | .flogCopy .. | .nvmBegin .. | .nvmWrite .. |
    .nvmFinish .. | .lockver .. | .nvmOpDone .. => [.regs, .pwr]
  | .profileRewriteDone .. => [.regs, .prof]
  | .thermalEvaluation .. =>
    [.free, .regs, .shmem, .engines, .axes, .banks, .mot, .mon, .funcs, .dios, .dio, .pwr, .plugs, .thm]
  | .deratingDwell .. => [.free, .regs, .shmem, .mot, .mon, .funcs, .dios, .dio, .thm]
  | .fanEnable .. | .fanTachSilent .. | .fanKickExpiry .. | .fanRetry .. | .fanOpen .. | .fanCurrentRestored .. =>
    [.regs, .funcs, .thm]
  | .fanTachPulse .. => [.free, .regs, .funcs, .thm]
  | .addressAgeing .. => [.fdb]
  | .warmResetEnd .. => [.regs, .engines, .axes, .banks, .funcs, .fo, .pwr, .plugs]
  | .dioComparatorTransition .. => [.dios]

/-! ## Registers -/

/-- The word at an address of the register map. -/
def State.raw (s : State) (a : Nat) : Word := Sparse.get Reg.resetAt s.regs a
/-- A field of an instance of its register, and a whole register: address and bits. -/
def Fld.spot (f : Fld) (i : Nat := 0) (j : Nat := 0) : Nat × Word :=
  (f.reg.addr i j, (BitVec.allOnes f.width).setWidth 32 <<< f.lsb)
def Reg.spot (r : Reg) (i : Nat := 0) (j : Nat := 0) : Nat × Word := (r.addr i j, BitVec.allOnes 32)
/-- Every register bit outside the spots is in `t` as in `s`. -/
def State.onlyBits (s t : State) (l : List (Nat × Word)) : Prop :=
  ∀ a k, (∀ p ∈ l, p.1 = a → p.2.getLsbD k = false) → (t.raw a).getLsbD k = (s.raw a).getLsbD k

/-! ## Delivered commands -/

/-- An accepted command is due: its D has come, and none admitted before it has the same D or is the same command (R304, R305). -/
def State.Due (s : State) (a : Accepted) : Prop :=
  a.d ≤ s.now ∧ ∃ before after, s.accepted = before ++ a :: after ∧
    ∀ b ∈ before, b.d ≠ a.d ∧ ¬(b.src = a.src ∧ b.cmd = a.cmd)

/-- The command has left the pending table. -/
def State.taken_ (s t : State) (a : Accepted) : Prop := t.accepted = s.accepted.filter fun b => b != a

/-- The command has left the pending table and ended with one completion, of this code, reason, flags and data, at its D; it is
owed no more, and no other function has a completion (R298, R320). -/
def State.ends (s t : State) (a : Accepted) (code reason flags : BitVec 8) (data : List Byte) : Prop :=
  s.taken_ t a ∧
  (t.fn a.src.fn).comps = (s.fn a.src.fn).comps ++ [⟨a.src, code, reason, flags, a.d, padTo 15 data, true⟩] ∧
  (t.fn a.src.fn).owed = (s.fn a.src.fn).owed.filter (fun o => decide (o ≠ a.src)) ∧
  ∀ f : FnId, f ≠ a.src.fn → (t.fn f).comps = (s.fn f).comps ∧ (t.fn f).owed = (s.fn f).owed

/-- A write of F0 to a set-up register takes effect (R462, R489). -/
structure State.Open (s : State) : Prop where
  up : s.legsHeld = false
  ready : s.bit Fld.GLB_STAT_READY = true
  loaded : s.bit Fld.GLB_STAT_LOADING = false

/-- Where its event queue has room, a function is owed one more record: DT, SRC, DETAIL and DATA (R299, R325). -/
def State.tells (s t : State) (fn : FnId) (type src detail : Nat) (data : List Byte := []) : Prop :=
  (s.fn fn).evEntries < 64 → (t.fn fn).evq =
    (s.fn fn).evq ++ [⟨BitVec.ofNat 16 type, leBytes 8 s.now ++ leBytes 2 src ++ leBytes 2 detail ++ padTo 16 data⟩]

/-- DT at a tick to come: the value that DT has in `s` or takes in the next tick (R331), and 4 ns a tick from there. -/
def State.dtOn (s : State) (k : Nat) : Nat := s.dtBase.2 + 4 * (k - s.dtBase.1)

/-- The end of a stop ramp that starts now: at DECEL_MS for the whole speed, in whole axis frames (R147). -/
def State.rampEnd (s : State) (n : AxId) : Nat :=
  let num := (s.ax n).speedRef.natAbs * max 1 (s.fld Fld.AX_STOPCFG_DECEL_MS n.val) * 250000
  let den := 32768 * max 1 (s.axPeriod n)
  s.tick + ((num + den - 1) / den) * s.axPeriod n

/-! ## Engines -/

/-- An engine is ready to issue an instruction of `n` steps: it runs, its start has ended (Table 12 of 02_engines.md), it waits on no
long access (R62), no switch to a handler has begun (R76), the slot holds no steps of the instruction before, the parity of the word
at its PC is good (Table 8 of 02_engines.md), the step limiter stops it in none of these steps (R85), and no result in flight
lands in them (R70). -/
structure State.Ready (s : State) (e : EngId) (n : Nat := 1) : Prop where
  runs : s.engRuns e = true
  from_ : (s.eng e).runFrom ≤ s.tick
  slot : (s.eng e).long = none
  stays : s.switching e = false
  held : (s.eng e).held = 0
  word : (s.eng e).badI.contains (s.eng e).pc.toNat = false
  steps : ∀ k, (s.eng e).handler = some k → (s.eng e).used + n < (s.eng e).declared_ k
  quiet : ∀ f ∈ (s.eng e).flights, (s.eng e).step + n ≤ f.due

/-- The bank in use replaced: bank 1 in a handler, else bank 0 (R53). -/
def Engine.onCur (x : Engine) (f : EngBank → EngBank) : Engine :=
  if x.handler.isSome then { x with bank1 := f x.bank1 } else { x with bank0 := f x.bank0 }

/-- One step has passed: the step count, in a handler its own count, the wait of a long access, and the steps that the slot holds. -/
def Engine.tickStep (x : Engine) : Engine :=
  { x with step := x.step + 1, used := if x.handler.isSome then x.used + 1 else x.used,
           long := x.long.map fun a => { a with waited := a.waited + 1 },
           held := x.held - 1, waitPc := if x.held ≤ 1 then none else x.waitPc }

/-- The engine one step after a plain instruction: its bank changed by the results of latency 1, the results of longer latency
in flight, and the PC or the repeat advanced (R54, R120). Everything else of the engine is as before. -/
def Engine.after (x : Engine) (f : EngBank → EngBank) (fl : List Flight) : Engine :=
  ({ x.onCur f with flights := x.flights ++ fl }).advance.tickStep

/-- The engine after an instruction of `n` steps that sets the PC: the bank changed, the PC at `pc`. A handler has passed all its steps; in
background code one has passed, and the slot holds the others (R76). -/
def Engine.jumped (x : Engine) (f : EngBank → EngBank) (pc : BitVec 12) (n : Nat) : Engine :=
  { x.onCur f with pc := pc, step := if x.handler.isSome then x.step + n else x.step + 1,
                   used := if x.handler.isSome then x.used + n else x.used,
                   held := if x.handler.isSome then 0 else n - 1, waitPc := none }

/-- A result that lands at the end of step `x.step + lat − 1`. -/
def Engine.inFlight (x : Engine) (lat : Nat) (d : EngDest) (t : Sticky) : Flight :=
  { due := x.step + lat - 1, bank1 := x.handler.isSome, dest := d, cond := none, sticky := t }

def EngBank.putH (b : EngBank) (d : HReg) (v : BitVec 16) : EngBank := { b with h := b.h.set d.val v d.isLt }
def EngBank.putP (b : EngBank) (d : PReg) (v : BitVec 16) : EngBank := { b with p := b.p.set d.val v d.isLt }
def EngBank.putF (b : EngBank) (d : FReg) (v : BitVec 32) : EngBank := { b with f := b.f.set d.val v d.isLt }
/-- SW[7:4] replaced by the condition flags Z, N, C and V. -/
def EngBank.putCond (b : EngBank) (z n c v : Bool) : EngBank :=
  { b with sw := (b.sw &&& 0xFF0F) ||| ((cond z n c v).setWidth 16 <<< 4) }
/-- Sticky flags set in SW[13:8]; none is cleared (R64). -/
def EngBank.stick (b : EngBank) (t : Sticky) : EngBank := { b with sw := b.sw ||| (t.setWidth 16 <<< 8) }
/-- SW.SAT of the bank. -/
def EngBank.satOn (b : EngBank) : Bool := b.sw.getLsbD 0

/-- The pointer of a memory operand after the access (R68, R116): Pa, or Pa modified by the offset in the post-modify form. -/
def bumpPtr (m : MemArg) (p : Option (BitVec 16)) (b : EngBank) : EngBank :=
  match p with
  | some v => b.putP m.ptr v
  | none => b

/-- An integer as a value of `w` bits under R65: clamped to the signed range where SAT is set, else wrapped. -/
def narrow (sat : Bool) (w : Nat) (v : Int) : BitVec w :=
  BitVec.ofInt w (if sat then max (-(2 ^ (w - 1))) (min (2 ^ (w - 1) - 1) v) else v)
/-- The integer lies outside the signed range of `w` bits. -/
def outside (w : Nat) (v : Int) : Bool := decide (v < -(2 ^ (w - 1))) || decide (2 ^ (w - 1) ≤ v)

/-- What a Q result with all its flags leaves in a bank: Hd, SW[7:4] and QV. -/
def EngBank.putQ (b : EngBank) (d : HReg) (r : BitVec 16) (c v q : Bool) : EngBank :=
  ((b.putH d r).putCond (r == 0) r.msb c v).stick (if q then Sticky.qv else Sticky.none)

/-- `k` is the number of redundant sign bits of the `w`-bit value `v`: the largest shift below `w` that keeps it in range. -/
def isRedundant (w : Nat) (v : Int) (k : Nat) : Prop :=
  k < w ∧ outside w (v * 2 ^ k) = false ∧ ∀ j, k < j → j < w → outside w (v * 2 ^ j) = true

/-- A word of the F lane is a NaN. -/
def fNaN (w : BitVec 32) : Bool := (w.extractLsb' 23 8 == 255) && (w.extractLsb' 0 23 != 0)
/-- The value of a word that is no NaN, zero for a subnormal; an infinity ranks as 2^128 (beyond every finite value). -/
def fRank (w : BitVec 32) : ℚ :=
  if w.extractLsb' 23 8 = 0 then 0
  else (if w.getLsbD 31 then -1 else 1) * (2 ^ 23 + (w.extractLsb' 0 23).toNat : ℚ) * (2 : ℚ) ^ ((w.extractLsb' 23 8).toNat - 150 : ℤ)

end Sys2Proof.Machine
end

