-- ==== Sys2Proof/Certificates/Slice0/Obligations.lean ====
section
/-! DEFINITION. The statements about the model, chapter by chapter. Each says which rules of the spec it formalises; what the
model chose is named with its entry of the assumption log. -/

open Sys2Proof Sys2Proof.Machine

/-! ## Engine instructions (02_engines.md, 03_engine_instructions.md) -/

/-- ADD, ADDI, SUB, NEG and ABS (R65, R104, R105): the exact sum, difference, negative or magnitude, clamped or wrapped by SW.SAT; Z and N of
the value written, C the carry (no borrow), V and QV on overflow. Nothing but Hd, SW, the PC (or the repeat) and the step counts changes. -/
def Obligations.QLaneArithmetic : Prop :=
  ∀ (s : State) (e : EngId) (d a b : HReg) (imm : BitVec 14), s.Ready e →
    let x := s.eng e
    let k := x.cur
    let u := k.h[a]
    let w := k.h[b]
    let i := imm.signExtend 16
    let ends (c : Instr) (v : Int) (carry : Bool) : Prop :=
      exec c s = .next (s.setEng e (x.after (fun b => b.putQ d (narrow k.satOn 16 v) carry (outside 16 v) (outside 16 v)) []))
    ends (.add e d a b) (u.toInt + w.toInt) (decide (2 ^ 16 ≤ u.toNat + w.toNat)) ∧
    ends (.addi e d a imm) (u.toInt + i.toInt) (decide (2 ^ 16 ≤ u.toNat + i.toNat)) ∧
    ends (.sub e d a b) (u.toInt - w.toInt) (decide (w.toNat ≤ u.toNat)) ∧
    ends (.neg e d a) (-u.toInt) (decide (u = 0)) ∧
    ends (.abs e d a) |u.toInt| false

/-- MIN, MAX, AND, OR, XOR, ANDN and NOT (R104): the value, Z and N of it, C and V 0. MOV, LIH and MOVHP write no flag. SHL, ASR and LSR by an
immediate or by Hb[4:0] (R105): the shifted value, which SHL clamps or wraps by SW.SAT, C the last bit shifted out, V and QV exactly where
SHL overflows. -/
def Obligations.QLaneLogicAndShifts : Prop :=
  (∀ (s : State) (e : EngId) (d a b : HReg) (p : PReg) (imm : BitVec 16), s.Ready e →
    let x := s.eng e
    let k := x.cur
    let u := k.h[a]
    let w := k.h[b]
    let ends (c : Instr) (r : BitVec 16) : Prop := exec c s = .next (s.setEng e (x.after (fun b => b.putQ d r false false false) []))
    let moves (c : Instr) (r : BitVec 16) : Prop := exec c s = .next (s.setEng e (x.after (fun b => b.putH d r) []))
    ends (.min e d a b) (BitVec.ofInt 16 (min u.toInt w.toInt)) ∧
    ends (.max e d a b) (BitVec.ofInt 16 (max u.toInt w.toInt)) ∧
    ends (.and e d a b) (u &&& w) ∧ ends (.or e d a b) (u ||| w) ∧ ends (.xor e d a b) (u ^^^ w) ∧
    ends (.andn e d a b) (u &&& ~~~w) ∧ ends (.not e d a) (~~~u) ∧
    moves (.mov e d a) u ∧ moves (.lih e d imm) imm ∧ moves (.movhp e d p) k.p[p])
  ∧ (∀ (s : State) (e : EngId) (d a : HReg) (amt : ShiftAmt), s.Ready e →
    let x := s.eng e
    let k := x.cur
    let u := k.h[a]
    let n : Nat := match amt with
      | .imm i => i.val
      | .reg b => (k.h[b]).toNat % 32
    let v := u.toInt * 2 ^ n
    let ends (c : Instr) (r : BitVec 16) (carry o : Bool) : Prop :=
      exec c s = .next (s.setEng e (x.after (fun b => b.putQ d r carry o o) []))
    ends (.shl e d a amt) (narrow k.satOn 16 v) (decide (1 ≤ n) && decide (n ≤ 16) && u.getLsbD (16 - n)) (outside 16 v) ∧
    ends (.asr e d a amt) (BitVec.ofInt 16 (u.toInt / 2 ^ n)) (decide (1 ≤ n) && decide (u.toInt / 2 ^ (n - 1) % 2 = 1)) false ∧
    ends (.lsr e d a amt) (BitVec.ofNat 16 (u.toNat / 2 ^ n)) (decide (1 ≤ n) && decide (u.toNat / 2 ^ (n - 1) % 2 = 1)) false)

/-- CMP, CMPI, CMPA, CMPP and FCMP (R104, R114): flags only. A compare describes the wrapped difference, with C where no borrow occurs and V on
signed overflow; CMPP has V 0; FCMP orders by value, and an unordered compare sets V and FI. NORM and NORMA (R107): Hd receives Ha shifted
left by its redundant sign bits and H(d+1) their number; NORMA writes the number of those of Aa. A NORM word with an odd D is an undefined
word. -/
def Obligations.ComparesAndNormalise : Prop :=
  (∀ (s : State) (e : EngId) (a b : HReg) (imm : BitVec 14) (aa ab : AReg) (pa pb : PReg) (fa fb : FReg), s.Ready e →
    let x := s.eng e
    let k := x.cur
    let i := imm.signExtend 16
    let ends (c : Instr) (f : EngBank → EngBank) : Prop := exec c s = .next (s.setEng e (x.after f []))
    let u := k.f[fa]
    let w := k.f[fb]
    ends (.cmp e a b) (fun q => q.putCond (k.h[a] == k.h[b]) (k.h[a] - k.h[b]).msb (decide ((k.h[b]).toNat ≤ (k.h[a]).toNat))
      (outside 16 ((k.h[a]).toInt - (k.h[b]).toInt))) ∧
    ends (.cmpi e a imm) (fun q => q.putCond (k.h[a] == i) (k.h[a] - i).msb (decide (i.toNat ≤ (k.h[a]).toNat))
      (outside 16 ((k.h[a]).toInt - i.toInt))) ∧
    ends (.cmpa e aa ab) (fun q => q.putCond (k.a[aa] == k.a[ab]) (k.a[aa] - k.a[ab]).msb
      (decide ((k.a[ab]).toNat ≤ (k.a[aa]).toNat)) (outside 40 ((k.a[aa]).toInt - (k.a[ab]).toInt))) ∧
    ends (.cmpp e pa pb) (fun q => q.putCond (k.p[pa] == k.p[pb]) (k.p[pa] - k.p[pb]).msb
      (decide ((k.p[pb]).toNat ≤ (k.p[pa]).toNat)) false) ∧
    ends (.fcmp e fa fb) (fun q =>
      if fNaN u || fNaN w then (q.putCond false false false true).stick Sticky.fi
      else q.putCond (decide (fRank u = fRank w)) (decide (fRank u < fRank w)) (decide (fRank w ≤ fRank u)) false))
  ∧ (∀ (s : State) (e : EngId) (d a : HReg) (aa : AReg), s.Ready e →
    let x := s.eng e
    let k := x.cur
    (d.val % 2 = 0 → ∃ n, isRedundant 16 (k.h[a]).toInt n ∧
      exec (.norm e d a) s =
        .next (s.setEng e (x.after (fun b => (b.putH d (BitVec.ofInt 16 ((k.h[a]).toInt * 2 ^ n))).putH (d + 1) (BitVec.ofNat 16 n)) []))) ∧
    (d.val % 2 = 1 → exec (.norm e d a) s = .next (s.engineFault e .opcode x.pc)) ∧
    (∃ n, isRedundant 40 (k.a[aa]).toInt n ∧
      exec (.norma e d aa) s = .next (s.setEng e (x.after (fun b => b.putH d (BitVec.ofNat 16 n)) []))))

/-- Moves between the register files and their like: MOVPH, PLI and PADD, linear or circular by CL and CB (R68); FMOV, FNEG and FABS, which move
bits; FLI, whose immediate supplies the upper 22 bits (R112); EXP, the unbiased exponent (R111). NOP, MFSW, MTSW, SATM, MFS and MTS (R64,
R115). MFSW reads the bank's SW with BK as its bit 15; MTSW writes SAT, the condition flags and the sticky flags (the mask over the reserved
bits is assumption 5's); special register numbers above 17 are undefined words. -/
def Obligations.MovesPointersStatus : Prop :=
  (∀ (s : State) (e : EngId) (h : HReg) (p q : PReg) (f g : FReg) (imm : BitVec 16) (off : BitVec 13) (fi : BitVec 22), s.Ready e →
    let x := s.eng e
    let k := x.cur
    let ends (c : Instr) (u : EngBank → EngBank) : Prop := exec c s = .next (s.setEng e (x.after u []))
    ends (.movph e p h) (fun b => b.putP p k.h[h]) ∧
    ends (.pli e p imm) (fun b => b.putP p imm) ∧
    ends (.padd e p q false off) (fun b => b.putP p (BitVec.ofInt 16 ((k.p[q]).toNat + off.toInt))) ∧
    ends (.padd e p q true off) (fun b => b.putP p
      (if x.cl[q] = 0 then BitVec.ofInt 16 ((k.p[q]).toNat + off.toInt)
       else BitVec.ofInt 16 ((x.cb[q]).toNat + ((k.p[q]).toNat + off.toInt - (x.cb[q]).toNat) % ((x.cl[q]).toNat : Int)))) ∧
    ends (.fmov e f g) (fun b => b.putF f k.f[g]) ∧
    ends (.fneg e f g) (fun b => b.putF f (BitVec.ofNat 32 ((k.f[g]).toNat + 2 ^ 31))) ∧
    ends (.fabs e f g) (fun b => b.putF f (BitVec.ofNat 32 ((k.f[g]).toNat % 2 ^ 31))) ∧
    ends (.fli e f fi) (fun b => b.putF f (BitVec.ofNat 32 (fi.toNat * 2 ^ 10))) ∧
    ends (.exp e h g) (fun b => b.putH h
      (if (k.f[g]).extractLsb' 23 8 = 0 then BitVec.ofInt 16 (-127)
       else BitVec.ofInt 16 (((k.f[g]).extractLsb' 23 8).toNat - 127))))
  ∧ (∀ (s : State) (e : EngId) (d : HReg) (p : PReg) (v : Bool) (sr : BitVec 5), s.Ready e →
    let x := s.eng e
    let k := x.cur
    let n := sr.toNat
    let y := x.after (fun b => b) []
    let ends (c : Instr) (z : Engine) : Prop := exec c s = .next (s.setEng e z)
    ends (.nop e) y ∧
    ends (.mfsw e d) (x.after (fun b => b.putH d (if x.handler.isSome then k.sw ||| 0x8000 else k.sw)) []) ∧
    ends (.mtsw e d) (x.after (fun b => { b with sw := k.h[d] &&& 0x3FF1 }) []) ∧
    ends (.satm e v) (x.after (fun b => { b with sw := (b.sw &&& 0xFFFE) ||| (if v then 1 else 0) }) []) ∧
    (∀ h : n < 8, ends (.mfs e p sr) (x.after (fun b => b.putP p x.cb[n]) []) ∧
      ends (.mts e sr p) { y with cb := x.cb.set n k.p[p] h }) ∧
    (∀ h : 8 ≤ n ∧ n < 16, ends (.mfs e p sr) (x.after (fun b => b.putP p (x.cl[n - 8]'(by omega))) []) ∧
      ends (.mts e sr p) { y with cl := x.cl.set (n - 8) k.p[p] (by omega) }) ∧
    (n = 16 → ends (.mfs e p sr) (x.after (fun b => b.putP p (x.smpg.setWidth 16)) []) ∧
      ends (.mts e sr p) { y with smpg := (k.p[p]).setWidth 6 }) ∧
    (n = 17 → ends (.mfs e p sr) (x.after (fun b => b.putP p (if s.axisLike e then 0 else x.axsel.setWidth 16)) []) ∧
      ends (.mts e sr p) (if s.axisLike e then y else { y with axsel := (k.p[p]).setWidth 6 })) ∧
    (17 < n → exec (.mfs e p sr) s = .next (s.engineFault e .opcode x.pc) ∧
      exec (.mts e sr p) s = .next (s.engineFault e .opcode x.pc)))

/-- The accumulator instructions, MPY and EXTH (R65, R105, R106): the operands are read at issue, the exact result is narrowed by SW.SAT, and it
is in flight with latency 2. -/
def Obligations.AccumulatorInstructions : Prop :=
  ∀ (s : State) (e : EngId) (d a b : AReg) (h u w : HReg) (sh : BitVec 6) (ex : BitVec 5), s.Ready e →
    let x := s.eng e
    let k := x.cur
    let prod := (k.h[u]).toInt * (k.h[w]).toInt
    let ends (c : Instr) (t : EngDest) (q : Sticky) : Prop :=
      exec c s = .next (s.setEng e (x.after (fun b => b) [x.inFlight 2 t q]))
    let acc (c : Instr) (v : Int) : Prop :=
      ends c (.a d (narrow k.satOn 40 v)) (if outside 40 v then Sticky.av else Sticky.none)
    let half (c : Instr) (v : Int) : Prop :=
      ends c (.h h (narrow k.satOn 16 v)) (if outside 16 v then Sticky.qv else Sticky.none)
    acc (.mac e d u w) ((k.a[d]).toInt + prod) ∧ acc (.msu e d u w) ((k.a[d]).toInt - prod) ∧ acc (.mpya e d u w) prod ∧
    acc (.adda e d a b) ((k.a[a]).toInt + (k.a[b]).toInt) ∧ acc (.suba e d a b) ((k.a[a]).toInt - (k.a[b]).toInt) ∧
    acc (.mova e d a) (k.a[a]).toInt ∧ acc (.ldah e d u) ((k.h[u]).toInt * 2 ^ 15) ∧ acc (.clra e d) 0 ∧
    acc (.nega e d a) (-(k.a[a]).toInt) ∧ acc (.absa e d a) |(k.a[a]).toInt| ∧
    acc (.sha e d a sh) (if 0 ≤ sh.toInt then (k.a[a]).toInt * 2 ^ sh.toInt.toNat else (k.a[a]).toInt / 2 ^ (-sh.toInt).toNat) ∧
    half (.mpy e h u w) ((prod + 2 ^ 14) / 2 ^ 15) ∧
    half (.exth e h a ex) (((k.a[a]).toInt * 2 ^ (ex.toInt + 16).toNat + 2 ^ 30) / 2 ^ 31)

/-- The F lane (R65, R109 to R111, R113): the operands, Fd of a fused instruction among them, are read at issue, and the result flies with
latency 4 beside its sticky flags. What the operations of Machine/Float.lean yield is stated in the two statements after this one. Invalid
and overflowing operations (R65, R109): FI with +0.0 under SAT and the quiet NaN without; FV with the largest finite value under SAT and
infinity without. -/
def Obligations.FloatInstructions : Prop :=
  (∀ (s : State) (e : EngId) (d a b : FReg) (h : HReg) (form : BitVec 4) (i j : Fin 16), s.Ready e →
    let x := s.eng e
    let k := x.cur
    let sat := k.satOn
    let ends (c : Instr) (t : EngDest) (q : Sticky) : Prop :=
      exec c s = .next (s.setEng e (x.after (fun b => b) [x.inFlight 4 t q]))
    let flt (c : Instr) (r : BitVec 32 × Sticky) : Prop := ends c (.f d r.1) r.2
    flt (.fadd e d a b) (fAdd sat k.f[a] k.f[b]) ∧ flt (.fsub e d a b) (fSub sat k.f[a] k.f[b]) ∧
    flt (.fmul e d a b) (fMul sat k.f[a] k.f[b]) ∧ flt (.fmac e d a b) (fMac sat k.f[d] k.f[a] k.f[b]) ∧
    flt (.fmsu e d a b) (fMsu sat k.f[d] k.f[a] k.f[b]) ∧ flt (.fmin e d a b) (fMin sat k.f[a] k.f[b]) ∧
    flt (.fmax e d a b) (fMax sat k.f[a] k.f[b]) ∧ flt (.fscl e d a h) (fScl sat k.f[a] k.h[h]) ∧
    flt (.frcp e d a) (fRcp sat k.f[a]) ∧ flt (.frsq e d a) (fRsq sat k.f[a]) ∧
    (form = 0 → ends (.cvt e i j form) (.f i (fixedToF sat 15 (k.h[j]).toInt)) Sticky.none) ∧
    (form = 1 → let r := fToFixed sat 16 15 Sticky.qv k.f[j]; ends (.cvt e i j form) (.h i (BitVec.ofInt 16 r.1)) r.2) ∧
    (∀ hj : form = 2 ∧ j.val < 4, ends (.cvt e i j form) (.f i (fixedToF sat 30 (k.a[j.val]'(by omega)).toInt)) Sticky.none) ∧
    (∀ hi : form = 3 ∧ i.val < 4, let r := fToFixed sat 40 30 Sticky.av k.f[j]
      ends (.cvt e i j form) (.a ⟨i.val, hi.2⟩ (BitVec.ofInt 40 r.1)) r.2) ∧
    (form = 4 → ends (.cvt e i j form) (.f i (fixedToF sat 0 (k.f[j]).toInt)) Sticky.none) ∧
    (form = 5 → let r := fToFixed sat 32 0 Sticky.fi k.f[j]; ends (.cvt e i j form) (.f i (BitVec.ofInt 32 r.1)) r.2) ∧
    (form = 6 → ends (.cvt e i j form) (.f i (fixedToF sat 0 (k.h[j]).toInt)) Sticky.none) ∧
    (form = 7 → let r := fToFixed sat 16 0 Sticky.fi k.f[j]; ends (.cvt e i j form) (.h i (BitVec.ofInt 16 r.1)) r.2) ∧
    (8 ≤ form.toNat ∨ form = 2 ∧ 4 ≤ j.val ∨ form = 3 ∧ 4 ≤ i.val →
      exec (.cvt e i j form) s = .next (s.engineFault e .opcode x.pc)))
  ∧ (∀ (sat : Bool) (d a b : BitVec 32),
    let bad : BitVec 32 × Sticky := (if sat then 0 else 0x7FC00000, Sticky.fi)
    (fNaN a ∨ fNaN b → fAdd sat a b = bad ∧ fSub sat a b = bad ∧ fMul sat a b = bad ∧ fMac sat d a b = bad ∧ fMsu sat d a b = bad) ∧
    (fNaN d → fMac sat d a b = bad ∧ fMsu sat d a b = bad) ∧
    (fNaN a → fRcp sat a = bad ∧ fRsq sat a = bad) ∧
    (fNaN a ∧ fNaN b → fMin sat a b = bad ∧ fMax sat a b = bad) ∧
    fAdd sat 0x7F800000 0xFF800000 = bad ∧ fMul sat 0 0x7F800000 = bad ∧
    (a.extractLsb' 23 8 ≠ 255 → (fAdd sat a b).2 = Sticky.fv → fRank a + fRank b > 0 →
      (fAdd sat a b).1 = if sat then 0x7F7FFFFF else 0x7F800000))

/-- The F lane rounds to nearest, ties to even (R66): a result of FADD, FSUB, FMUL or FMAC on finite operands that raises no flag is as close to
the exact value as any word is, and where another word is as close its significand is even. -/
def Obligations.FloatRoundsToNearest : Prop :=
  ∀ (sat : Bool) (d a b w : BitVec 32),
    let fin (u : BitVec 32) : Prop := u.extractLsb' 23 8 ≠ 255
    fin d → fin a → fin b → fin w →
    let near (r : BitVec 32 × Sticky) (v : ℚ) : Prop :=
      r.2 = Sticky.none → |fRank r.1 - v| ≤ |fRank w - v| ∧
        (|fRank r.1 - v| = |fRank w - v| → fRank r.1 ≠ fRank w → r.1.getLsbD 0 = false)
    near (fAdd sat a b) (fRank a + fRank b) ∧ near (fSub sat a b) (fRank a - fRank b) ∧
    near (fMul sat a b) (fRank a * fRank b) ∧ near (fMac sat d a b) (fRank d + fRank a * fRank b)

/-- BR, JAL, JR and BDEC (R119): two steps when taken, the second of which background code leaves in the slot (R76), one when not. Condition
code 15 is reserved, and its word is undefined. RPT executes the next word n times (R120): it issues in one step and leaves n executions; a
body execution repeats while more than one is left, and the last one goes on at the word after the body. WAIT (R122) passes steps until
nothing is in flight; in background code the steps after the first one stay in the slot, where an event may take them. RETE (R75, R78, R86,
R121): in background code it does nothing in one step; in a handler it takes two steps, records the handler's step count in ENG_HWM and
returns to the interrupted word, or starts the handler of the event that waits. -/
def Obligations.ControlInstructions : Prop :=
  (∀ (s : State) (e : EngId) (cc : Fin 16) (p : PReg) (target : BitVec 12), s.Ready e 2 → (s.eng e).rpt = none →
    let x := s.eng e
    let k := x.cur
    let z := k.sw.getLsbD 4
    let n := k.sw.getLsbD 5
    let c := k.sw.getLsbD 6
    let v := k.sw.getLsbD 7
    let taken : Bool := match cc.val with
      | 0 => true | 1 => z | 2 => !z | 3 => n != v | 4 => n == v | 5 => !z && (n == v) | 6 => z || (n != v) | 7 => n
      | 8 => !n | 9 => v | 10 => !v | 11 => c | 12 => !c | 13 => c && !z | _ => !c || z
    let dec := k.p[p] - 1
    let ends (c : Instr) (y : Engine) : Prop := exec c s = .next (s.setEng e y)
    (cc.val < 15 → ends (.br e cc target) (if taken then x.jumped (fun b => b) target 2 else x.after (fun b => b) [])) ∧
    (cc.val = 15 → exec (.br e cc target) s = .next (s.engineFault e .opcode x.pc)) ∧
    ends (.jal e p target) (x.jumped (fun b => b.putP p ((x.pc + 1).setWidth 16)) target 2) ∧
    ends (.jr e p) (x.jumped (fun b => b) ((k.p[p]).setWidth 12) 2) ∧
    ends (.bdec e p target) (if dec ≠ 0 then x.jumped (fun b => b.putP p dec) target 2 else x.after (fun b => b.putP p dec) []))
  ∧ (∀ (s : State) (e : EngId) (count : BitVec 8),
    let x := s.eng e
    (s.Ready e → x.rpt = none →
      exec (.rpt e count) s = .next (s.setEng e
        { x.after (fun b => b) [] with rpt := some { left := count.toNat + 1, index := 1 } })) ∧
    (s.Ready e → ∀ r, x.rpt = some r → 1 ≤ r.left →
      exec (.nop e) s = .next (s.setEng e
        (if 1 < r.left then { x.tickStep with rpt := some { left := r.left - 1, index := r.index + 1 } }
         else { x.tickStep with rpt := none, pc := x.pc + 1 }))) ∧
    (s.Ready e → x.rpt = none → x.flights = [] → exec (.wait e) s = .next (s.setEng e (x.after (fun b => b) []))) ∧
    (∀ f : Flight, x.flights = [f] → s.Ready e (f.due - x.step) → x.step < f.due → x.rpt = none → x.handler = none →
      exec (.wait e) s = .next (s.setEng e { x.after (fun b => b) [] with held := f.due - x.step, waitPc := some x.pc })) ∧
    (∀ f : Flight, x.flights = [f] → s.Ready e (f.due - x.step) → x.step < f.due → x.rpt = none → x.handler.isSome = true →
      (∀ k, x.handler = some k → x.used + (f.due - x.step + 1) < x.declared_ k) →
      ∃ t, exec (.wait e) s = .next t ∧ (t.eng e).flights = [] ∧ (t.eng e).pc = x.pc + 1 ∧ (t.eng e).step = f.due + 1 ∧
        t = s.setEng e (t.eng e)))
  ∧ (∀ (s : State) (e : EngId), s.Sound → s.Ready e → (∀ f ∈ (s.eng e).flights, (s.eng e).step + 2 ≤ f.due) → (s.eng e).rpt = none →
    let x := s.eng e
    (x.handler = none → exec (.rete e) s = .next (s.setEng e (x.after (fun b => b) []))) ∧
    (∀ k, x.handler = some k → ∃ t, exec (.rete e) s = .next t ∧ (t.eng e).step = x.step + 2 ∧
      (t.eng e).bank0 = x.bank0 ∧ (t.eng e).bank1 = x.bank1 ∧
      t.fld (evHwmFld k) e.val = max (s.fld (evHwmFld k) e.val) (min (x.used + 2) 65535) ∧
      (x.pend = [] → (t.eng e).handler = none ∧ (t.eng e).pc = x.retPc ∧ t.bit Fld.ENG_STAT_BK e.val = false) ∧
      (∀ j, x.pend = [j] → j = .sample → (t.eng e).handler = some j ∧ (t.eng e).pend = [] ∧ (t.eng e).used = 0 ∧
        (t.eng e).pc = BitVec.ofNat 12 (match x.image with | some h => h.entry j | none => 0))))

/-- LDH, LDP, LDF and LDA from local data memory of good parity (R59, R68, R116): the bytes at the effective address, little-endian, fly with
latency 2; the pointer of a post-modify form lands with latency 1. STH, STP, STF and STA to local data memory (R68, R116): the register's
bytes, little-endian and for STA sign-extended to 64 bits, at the effective address; every other byte of that memory, every other memory and
every other part of the state is as before. -/
def Obligations.LocalLoadsAndStores : Prop :=
  (∀ (s : State) (e : EngId) (h : HReg) (p : PReg) (f : FReg) (a : AReg) (m : MemArg), s.Ready e →
    let x := s.eng e
    let ep := effAddr m x.cur.p[m.ptr] x.cb[m.ptr] x.cl[m.ptr]
    let ea := ep.1.toNat
    let val (w : Nat) : Nat := leNat ((List.range w).map fun i => Mem.byte x.dmem (ea + i))
    let ends (c : Instr) (w : Nat) (d : EngDest) : Prop :=
      ea + w ≤ 0x2000 → ea % w = 0 → (∀ i < w, x.badD.contains (ea + i) = false) →
      exec c s = .next (s.setEng e (x.after (bumpPtr m ep.2) [x.inFlight 2 d Sticky.none]))
    ends (.ldh e h m) 2 (.h h (BitVec.ofNat 16 (val 2))) ∧ ends (.ldp e p m) 2 (.p p (BitVec.ofNat 16 (val 2))) ∧
    ends (.ldf e f m) 4 (.f f (BitVec.ofNat 32 (val 4))) ∧ ends (.lda e a m) 8 (.a a (BitVec.ofNat 40 (val 8))))
  ∧ (∀ (s : State) (e : EngId) (h : HReg) (p : PReg) (f : FReg) (a : AReg) (m : MemArg), s.Sound → s.Ready e →
    let x := s.eng e
    let k := x.cur
    let ep := effAddr m x.cur.p[m.ptr] x.cb[m.ptr] x.cl[m.ptr]
    let ea := ep.1.toNat
    let ends (c : Instr) (w v : Nat) : Prop :=
      ea + w ≤ 0x2000 → ea % w = 0 →
      ∃ y : Engine, exec c s = .next (s.setEng e { x.after (bumpPtr m ep.2) [] with dmem := y.dmem, badD := y.badD }) ∧
        (∀ i < w, Mem.byte y.dmem (ea + i) = BitVec.ofNat 8 (v / 256 ^ i)) ∧
        (∀ j, j < ea ∨ ea + w ≤ j → Mem.byte y.dmem j = Mem.byte x.dmem j) ∧
        (∀ j, y.badD.contains j = (x.badD.contains j && (decide (j < ea) || decide (ea + w ≤ j))))
    ends (.sth e h m) 2 (k.h[h]).toNat ∧ ends (.stp e p m) 2 (k.p[p]).toNat ∧ ends (.stf e f m) 4 (k.f[f]).toNat ∧
    ends (.sta e a m) 8 ((k.a[a]).signExtend 64).toNat)

/-- A misaligned access, or one that leaves its range or hits the unassigned one, is an engine fault, and ADDR wins over ALIGN (R55, R59), as it
does for an axis window that AXSEL does not name (R115) and for a long access as an RPT body (R79); the stopped engine is FAULTED with the
code and the PC, and nothing of it stays in flight (R91). A long access waits (R62), and its grant performs it (R63, R117): after the steps
it has waited, within the worst case of Table 11, a load takes 3 steps for 16 and 32 bits and 4 for 64, and its data and the post-modified
pointer land at the end of the last one; a store takes 2 steps, or 3 for 64 bits, and writes shared memory at the page of SMPG. The arbiter
goes round the engines (R21), and a background access that an event has found without a grant is not granted (R63). -/
def Obligations.AccessFaultsAndLongAccesses : Prop :=
  (∀ (s : State) (e : EngId) (h : HReg) (f : FReg) (a : AReg) (p : PReg) (m : MemArg), s.Sound → s.Ready e →
    let x := s.eng e
    let ea := (effAddr m x.cur.p[m.ptr] x.cb[m.ptr] x.cl[m.ptr]).1.toNat
    let past (w : Nat) : Prop :=
      (0x3100 ≤ ea ∧ ea < 0x8000) ∨ (ea < 0x2000 ∧ 0x2000 < ea + w) ∨ (0x2000 ≤ ea ∧ ea < 0x3000 ∧ 0x3000 < ea + w) ∨
        (0x3000 ≤ ea ∧ ea < 0x3100 ∧ 0x3100 < ea + w) ∨ 0x10000 < ea + w ∨
        (0x2000 ≤ ea ∧ ea < 0x3000 ∧ s.axisLike e = false ∧ 48 ≤ x.axsel.toNat) ∨ (x.rpt.isSome = true ∧ s.isLocal e ea = false)
    let stops (c : Instr) (code : Nat) : Prop :=
      ∃ t, exec c s = .next t ∧ t.engState e = .faulted ∧ t.fld Fld.ENG_STAT_FAULT e.val = code ∧
        t.fld Fld.ENG_STAT_FAULT_PC e.val = x.pc.toNat ∧ t.bit Fld.ENG_STAT_FAULT_BG e.val = x.handler.isNone ∧
        (t.eng e).flights = [] ∧ (t.eng e).bank0 = x.bank0 ∧ (t.eng e).bank1 = x.bank1 ∧ (t.eng e).dmem = x.dmem ∧
        t = { s with regs := t.regs, engines := t.engines } ∧ ∀ e', e' ≠ e → t.eng e' = s.eng e'
    let both (c : Instr) (w : Nat) : Prop := (past w → stops c 3) ∧ (¬ past w → ea % w ≠ 0 → stops c 2)
    both (.ldh e h m) 2 ∧ both (.ldp e p m) 2 ∧ both (.ldf e f m) 4 ∧ both (.lda e a m) 8 ∧
    both (.sth e h m) 2 ∧ both (.stp e p m) 2 ∧ both (.stf e f m) 4 ∧ both (.sta e a m) 8)
  ∧ (∀ (s : State) (e : EngId) (h : HReg) (m : MemArg), s.Sound →
    let x := s.eng e
    let ep := effAddr m x.cur.p[m.ptr] x.cb[m.ptr] x.cl[m.ptr]
    let ea := ep.1.toNat
    let at_ := x.smpg.toNat * 0x8000 + (ea - 0x8000)
    (s.Ready e → x.rpt = none → 0x8000 ≤ ea → ea % 2 = 0 →
      exec (.ldh e h m) s = .next (s.setEng e { x with long := some (LongAcc.mk (.shared at_) 2 (.ldh h) (ep.2.map fun v => (m.ptr, v)) 0) }) ∧
      exec (.sth e h m) s = .next (s.setEng e
        { x with long := some (LongAcc.mk (.shared at_) 2 (.store (x.cur.h[h]).toNat) (ep.2.map fun v => (m.ptr, v)) 0) })) ∧
    (∀ w, s.engRuns e = true → s.switching e = true ∨ s.arbTurn e = false → exec (.longAccessGrant e w) s = .next s) ∧
    (∀ (a : LongAcc) (w : Nat), x.long = some a →
      let store : Bool := match a.kind with
        | .store _ => true
        | _ => false
      let n : Nat := if store then (if a.width = 8 then 3 else 2) else (if a.width = 8 then 4 else 3)
      let worst : Nat := if store && a.width != 8 then 36 else if !store && a.width == 8 then 44 else 40
      a.waited + w + n ≤ worst → (∀ k, x.handler = some k → x.used + w + n < x.declared_ k) → x.flights = [] →
      s.engRuns e = true → s.switching e = false → s.arbTurn e = true → s.hostWin = [] →
      ∃ t, exec (.longAccessGrant e w) s = .next t ∧ (t.eng e).long = none ∧ (t.eng e).step = x.step + w + n ∧
        (t.eng e).pc = x.pc + 1 ∧ (t.eng e).flights = [] ∧ (∀ e', e' ≠ e → t.eng e' = s.eng e') ∧
        (∀ q v, a.ptr = some (q, v) → a.kind ≠ .ldp q → (t.eng e).cur.p[q] = v) ∧
        t.arbLast = (match a.target with | .shared _ => e | .window _ _ => s.arbLast) ∧
        (store = false → t = { s with engines := t.engines, arbLast := t.arbLast } ∧
          ∀ val, val = (match a.target with
              | .shared o => leNat ((List.range a.width).map fun i => Mem.byte s.shmem (o + i))
              | .window m o => leNat ((List.range a.width).map fun i => Mem.byte (s.ax m).win (o + i))) →
            (∀ d, a.kind = .ldh d → (t.eng e).cur.h[d] = BitVec.ofNat 16 val) ∧
            (∀ d, a.kind = .ldp d → (t.eng e).cur.p[d] = BitVec.ofNat 16 val) ∧
            (∀ d, a.kind = .ldf d → (t.eng e).cur.f[d] = BitVec.ofNat 32 val) ∧
            (∀ d, a.kind = .lda d → (t.eng e).cur.a[d] = BitVec.ofNat 40 val)) ∧
        (∀ v o, a.kind = .store v → a.target = .shared o →
          t = { s with engines := t.engines, arbLast := t.arbLast, shmem := t.shmem } ∧
          (∀ i < a.width, Mem.byte t.shmem (o + i) = BitVec.ofNat 8 (v / 256 ^ i)) ∧
          (∀ j, j < o ∨ o + a.width ≤ j → Mem.byte t.shmem j = Mem.byte s.shmem j))))

/-- MACM and MSUM from local memory (R108): the words at Pa and Pb are multiplied and accumulated with latency 2, into A(d XOR ((k − 1) mod 2))
in execution k of an RPT body under PAIR, which MACM alone has; both pointers advance by 2 with latency 1, once where they are one. -/
def Obligations.MemoryMultiplyAccumulate : Prop :=
  ∀ (s : State) (e : EngId) (d : AReg) (a b : PReg) (pair : Bool), s.Ready e →
    let x := s.eng e
    let k := x.cur
    let ok (p : PReg) : Prop := (k.p[p]).toNat + 2 ≤ 0x2000 ∧ (k.p[p]).toNat % 2 = 0 ∧
      x.badD.contains (k.p[p]).toNat = false ∧ x.badD.contains ((k.p[p]).toNat + 1) = false
    ok a → ok b →
    let word (p : PReg) : Int := (BitVec.ofNat 16 (Mem.load x.dmem (k.p[p]).toNat 2)).toInt
    let prod := word a * word b
    let odd : Bool := match x.rpt with
      | some r => pair && ((r.index - 1) % 2 == 1)
      | none => false
    let tgt : AReg := if odd then ⟨d.val ^^^ 1, Nat.xor_lt_two_pow (n := 2) d.isLt (by decide)⟩ else d
    let step2 (p : PReg) : BitVec 16 := circ k.p[p] x.cb[p] x.cl[p] 2
    let ends (c : Instr) (tgt : AReg) (v : Int) : Prop :=
      exec c s = .next (s.setEng e (x.after (fun q => if a = b then q.putP a (step2 a) else (q.putP a (step2 a)).putP b (step2 b))
        [x.inFlight 2 (.a tgt (narrow k.satOn 40 v)) (if outside 40 v then Sticky.av else Sticky.none)]))
    ends (.macm e d a b pair) tgt ((k.a[tgt]).toInt + prod) ∧ ends (.msum e d a b false) d ((k.a[d]).toInt - prod) ∧
    exec (.msum e d a b true) s = .next (s.engineFault e .opcode x.pc)

/-- RESULT_LANDING (R70, R72) passes the steps up to the landing of the earliest result in flight; STEP_LIMIT (R85, R91) stops a handler that
has not completed with the fault LIMIT. EVENT_RAISE (R74): a raise to an engine that does not run, or of a kind its image does not enable,
leaves nothing; one that finds the kind pending merges and is counted; another makes it pending. A kind is raised once in a period of the
engine: after it has been taken, a fault source waits for the next period (assumption 111), and no other kind is raised. -/
def Obligations.LandingLimitAndEvents : Prop :=
  (∀ (s : State) (e : EngId), s.Sound → s.engRuns e = true →
    let x := s.eng e
    (∀ f : Flight, x.flights = [f] → x.step ≤ f.due → (∀ k, x.handler = some k → x.used + (f.due - x.step + 1) < x.declared_ k) →
      ∃ t, exec (.resultLanding e) s = .next t ∧ t = s.setEng e (t.eng e) ∧ (t.eng e).flights = [] ∧ (t.eng e).step = f.due + 1 ∧
        (t.eng e).pc = x.pc ∧
        (∀ (i : HReg) (v : BitVec 16), f.dest = .h i v → f.bank1 = false → (t.eng e).bank0.h[i] = v ∧ (t.eng e).bank1 = x.bank1)) ∧
    (∀ k, x.handler = some k → x.used < x.declared_ k →
      ∃ t, exec (.stepLimit e) s = .next t ∧ t.engState e = .faulted ∧ t.fld Fld.ENG_STAT_FAULT e.val = 1 ∧
        t.fld Fld.ENG_STAT_FAULT_EV e.val = k.code ∧ t.fld Fld.ENG_STAT_FAULT_PC e.val = x.pc.toNat ∧
        (t.eng e).flights = [] ∧ t = { s with regs := t.regs, engines := t.engines }))
  ∧ (∀ (s : State) (e : EngId) (k : EvKind) (src : BitVec 16), s.Sound →
    let x := s.eng e
    let takes : Prop := (s.engState e = .running ∨ s.engState e = .standby) ∧ x.declared_ k ≠ 0
    let again : Prop := k ∈ x.raised ∧ k ∉ x.pend
    (¬ takes → exec (.eventRaise e k src) s = .next s) ∧
    (takes → again → exec (.eventRaise e k src) s =
      .next (if k = .fault then s.setEng e { x with heldSrc := some (x.heldSrc.getD 0 ||| src) } else s)) ∧
    (takes → ¬ again → ∃ t, exec (.eventRaise e k src) s = .next t ∧ t = { s with regs := t.regs, engines := t.engines } ∧
      (∀ e', e' ≠ e → t.eng e' = s.eng e') ∧
      (t.eng e).pend = (if k ∈ x.pend then x.pend else x.pend ++ [k]) ∧
      (t.eng e).faultSrc = (if k = .fault then x.faultSrc ||| src else x.faultSrc) ∧
      t.fld (evMergeFld k) e.val =
        (if k ∈ x.pend then min (s.fld (evMergeFld k) e.val + 1) (2 ^ (evMergeFld k).width - 1) else s.fld (evMergeFld k) e.val) ∧
      (t.eng e).bank0 = x.bank0 ∧ (t.eng e).bank1 = x.bank1 ∧ (t.eng e).pc = x.pc))

/-! ## Frames, samples and releases (01_frames_and_release.md, 04_axis_control.md) -/

/-- FRAME_BOUNDARY of a bank (R125, R153, R154, R227): the next unshifted boundary of a running carrier counts the frame, frees the bank's FLT
frame, captures position and DT into BPOS and BDT of each of its axes, and sets the B_n of those whose divider calls for one. Stated for a
bank that paces no group engine, is at its nominal period, has no FLT cut, and whose axes wait for no shared engine. FRAME_BOUNDARY of an
axis (R145, R153, R154): at B_n the axis frame begins, and a cause that leads to SAFE is taken before every other one. Stated for a boundary
at which no result is due any more (RELEASE_INSTANT comes first, R125). -/
def Obligations.Boundaries : Prop :=
  (∀ (s : State) (b : BankId), s.Sound → (s.bnk b).carrier = .running → (s.bnk b).frameTick + (s.bnk b).period ≤ s.tick →
    (∀ e : EngId, s.engRole e = 2 → s.engState e = .running → (s.eng e).grpBank ≠ b) → s.pwmSteps = 0 → (s.bnk b).steps = 0 →
    (s.bnk b).period = s.fld Fld.BNK_CARRIER_PERIOD b.val →
    (s.bnk b).fltActive = false → (∀ n : AxId, n.bank = b → (s.ax n).fltCut = false ∧ (s.failover n).candidate = none) →
    let x := s.bnk b
    let at_ := x.frameTick + x.period
    let f := x.frameNo + 1
    ∃ t, exec (.frameBoundary (.bank b)) s = .next t ∧ t.bnk b = { x with frameTick := at_, frameNo := f, fltFrame := false, transit := false } ∧
      t.fld Fld.BNK_FRAME_FRAME b.val = f.toNat ∧ (∀ b', b' ≠ b → t.bnk b' = s.bnk b') ∧
      (∀ n : AxId, n.bank = b →
        (t.ax n).nextB = (if f.toNat % s.cdiv n = 0 then some (at_ + s.axOffset n, f) else (s.ax n).nextB) ∧
        Mem.load (t.ax n).win 0xF48 8 = ((s.fbk n).pos.toInt % 2 ^ 64).toNat ∧
        Mem.load (t.ax n).win 0xF50 8 = s.dtAt at_ % 2 ^ 64 ∧
        (∀ a, a < 0xF48 ∨ 0xF58 ≤ a → Mem.byte (t.ax n).win a = Mem.byte (s.ax n).win a) ∧
        (t.ax n).released = (s.ax n).released ∧ (t.ax n).frameNo = (s.ax n).frameNo) ∧
      (∀ n : AxId, n.bank ≠ b → t.ax n = s.ax n) ∧ t.engines = s.engines ∧ t.funcs = s.funcs ∧
      s.onlyBits t [Reg.BNK_FRAME.spot b.val, Reg.BNK_PNOW.spot b.val])
  ∧ (∀ (s : State) (n : AxId) (codes : OfsCodes) (at_ : Nat) (f : BitVec 32), s.Sound → (s.ax n).nextB = some (at_, f) → at_ ≤ s.tick →
    (s.ax n).due = [] →
    ∃ t, exec (.frameBoundary (.axis n codes)) s = .next t ∧ (t.ax n).frameTick = at_ ∧ (t.ax n).frameNo = f ∧ (t.ax n).framed = true ∧
      (t.ax n).nextB = none ∧ (t.ax n).cbcCut = false ∧ (t.ax n).seq = (s.ax n).seq ∧ (∀ m, m ≠ n → t.ax m = s.ax m) ∧
      (∀ c, (s.ax n).safeReq = some c → (s.ax n).absentReq = false →
        s.axState n = .idle ∨ s.axState n = .run ∨ s.axState n = .hold ∨ s.axState n = .stopping → t.axState n = .safe))

/-- SAMPLE_TRIGGER (R125, R129, R137): once in a current-loop frame of an axis that is not OFF. Three-shunt sensing samples at B_n and is
complete 52 ticks later, six-step mode samples at M_n; the position counter is captured then. SAMPLE_COMPLETE (R23, R24, R60, R127): the
sequence number counts, a result is due, and every engine of the axis that takes the event sees the sample in its port block: SEQ, FRAME,
DT, the captured position and the currents, each (code − offset) × 16 in Q1.15. A current outside the format is a free value (assumption 7). -/
def Obligations.Samples : Prop :=
  (∀ (s : State) (n : AxId),
    let x := s.ax n
    let pl := s.samplePlan n
    (s.axState n ≠ .off → x.framed = true → (s.bnk n.bank).runs = true → s.currentLoopFrame n x.frameNo = true →
      s.bit Fld.AX_MOTCFG_VIRT n.val = false → x.sample = none → x.sampledAt ≠ some x.frameTick → x.frameTick + pl.1 ≤ s.tick →
      s.axMode n ≠ 3 →
      exec (.sampleTrigger n) s = .next (s.setAx n { x with
        sampledAt := some x.frameTick, sampleTick := x.frameTick + pl.1, sample := some {
          frame := x.frameNo, bTick := x.frameTick, t := x.frameTick + pl.1, done := x.frameTick + pl.2.1,
          pattern := pl.2.2.1, order := pl.2.2.2, pos := s.samplePos n,
          angle := BitVec.ofNat 16 (s.angleAt n (s.samplePos n)) } })) ∧
    (s.axState n = .off ∨ x.sampledAt = some x.frameTick → exec (.sampleTrigger n) s = .next s) ∧
    (n.premium = true → s.bit Fld.AX_CFG_SENSE n.val = true → s.axMode n ≠ 2 → s.pmode n ≠ 1 → pl = (0, 52, false, 0)) ∧
    (s.axMode n = 2 → s.pmode n ≠ 1 → pl = (s.axPeriod n / 2, s.axPeriod n / 2 + 52, false, 0)) ∧
    (s.pmode n ≠ 2 → s.samplePos n = (s.fbk n).pos))
  ∧ (∀ (s : State) (n : AxId) (adc : AdcSet) (r : SampleRun), (s.ax n).sample = some r → r.done ≤ s.tick → (s.ax n).ofsPend = none →
    ∃ t, exec (.sampleComplete n adc) s = .next t ∧ (t.ax n).seq = (s.ax n).seq + 1 ∧ (t.ax n).sample = none ∧
      (∃ d : DueSample, (t.ax n).due = (s.ax n).due ++ [d] ∧ d.seq = (s.ax n).seq + 1 ∧ d.frame = r.frame ∧
        ((s.bnk n.bank).half = false → d.at_ = none) ∧
        ((s.bnk n.bank).half = true → s.axMode n ≠ 2 → r.done < r.bTick + s.axPeriod n / 2 →
          d.at_ = some (r.bTick + s.axPeriod n / 2))) ∧
      (∀ e ∈ s.axisViewers n, s.takesEvent e .sample = true → (s.eng e).runFrom ≤ s.tick →
        EvKind.sample ∈ (t.eng e).pend ∧ (t.eng e).port.seq = (s.ax n).seq + 1 ∧ (t.eng e).port.frame = r.frame ∧
        (t.eng e).port.dt = s.dt ∧ (t.eng e).port.pos = r.pos ∧ (t.eng e).port.angle = r.angle ∧
        (t.eng e).port.vms = BitVec.ofNat 16 (adc.vms.toNat * 8) ∧
        (s.threeShunt n = true → s.axMode n ≠ 2 →
          (∀ l ∈ [Leg.u, .v, .w], 8 * s.tlow n ≤ s.lowTime n r l) →
          ∀ v : Int, v = ((adc.u.toNat : Int) - s.fld Fld.AX_IOFS_A_OFS_U n.val) * 16 → -32768 ≤ v → v ≤ 32767 →
            (t.eng e).port.adc[0] = BitVec.ofInt 16 v)) ∧
      (∀ e, e ∉ s.axisViewers n → t.eng e = s.eng e) ∧ (∀ m, m ≠ n → t.ax m = s.ax m) ∧ (t.ax n).released = (s.ax n).released ∧
      (t.ax n).win = (s.ax n).win)

/-- RELEASE_INSTANT with a commit in time (R26 to R28, R40, R161): the values of the last ready commit whose tag is that of the due sample are
released, and the run of misses ends. A commit ready at least 3 ticks before the instant is in time; whether one of 2 ticks is, R26 leaves
open (a free value, assumption 7). RELEASE_INSTANT without one (R39 to R41, R161): the latch holds, the miss is counted, and the second miss
in a row raises the DLMISS demand and asks for SAFE at the next B_n. -/
def Obligations.Releases : Prop :=
  (∀ (s : State) (n : AxId) (d : DueSample) (c : Commit) (at_ : Nat), s.Sound → (s.ax n).due = [d] → (s.ax n).dueAt d = some at_ →
    at_ ≤ s.tick → (s.ax n).commits = [c] → c.at_ + 3 ≤ at_ → c.tag = d.seq → d.eng = none → (s.failover n).arbStop = none →
    (s.failover n).incomplete = none → (s.ax n).demands.dlmiss = false → s.axMode n ≠ 3 →
    ∃ t, exec (.releaseInstant n) s = .next t ∧ (t.ax n).released = c.vals ∧ (t.ax n).prevReleased = (if (s.ax n).relTick = at_ then (s.ax n).prevReleased else (s.ax n).released) ∧
      (t.ax n).relTick = at_ ∧ (t.ax n).misses = 0 ∧ (t.ax n).due = [] ∧ (t.ax n).commits = [] ∧ (t.ax n).win = (s.ax n).win ∧
      t.fld Fld.AX_DLMISS_MISS_CNT n.val = s.fld Fld.AX_DLMISS_MISS_CNT n.val ∧ (∀ m, m ≠ n → t.ax m = s.ax m) ∧
      t.funcs = s.funcs ∧ t.banks = s.banks)
  ∧ (∀ (s : State) (n : AxId) (d : DueSample) (at_ : Nat), s.Sound → (s.ax n).due = [d] → (s.ax n).dueAt d = some at_ → at_ ≤ s.tick →
    (s.ax n).commits = [] → d.eng = none → (s.failover n).arbStop = none → (s.failover n).failedAt = none → s.axMode n ≠ 3 →
    ∃ t, exec (.releaseInstant n) s = .next t ∧ (t.ax n).released = (s.ax n).released ∧ (t.ax n).misses = (s.ax n).misses + 1 ∧
      (t.ax n).due = [] ∧ (t.ax n).win = (s.ax n).win ∧
      t.fld Fld.AX_DLMISS_MISS_CNT n.val = min (s.fld Fld.AX_DLMISS_MISS_CNT n.val + 1) 65535 ∧
      t.bit Fld.AX_DLMISS_MISS_SEEN n.val = true ∧
      ((s.ax n).misses = 0 → (t.ax n).demands = (s.ax n).demands ∧
        t.bit Fld.AX_DLMISS_DOUBLE n.val = s.bit Fld.AX_DLMISS_DOUBLE n.val) ∧
      (1 ≤ (s.ax n).misses → (t.ax n).demands.dlmiss = true ∧ t.bit Fld.AX_DLMISS_DOUBLE n.val = true ∧
        (s.axState n = .run → (t.ax n).safeReq.isSome = true)) ∧
      (∀ m, m ≠ n → t.ax m = s.ax m))

/-! ## Engines, plans and fail-over (02_engines.md, 15_failover.md) -/

/-- HANDLER_ENTRY (R53, R63, R76, R80): from background code the switch ends in the handler of the event that R75 and R89 select: its entry PC
in bank 1 with a step count of 0, the interrupted PC kept, an ungranted long access abandoned; a WAIT or a long access in the slot lets both
steps of the switch pass here. Nothing else changes in a sample handler of a group engine, in the fault and host handlers, and in the
release handler of an engine that serves no trajectory and monitors no axis. In a sample handler the axis image makes its run besides
(assumption 11), which leaves the engine's registers and memory alone; stated for a run in a state without loops. A pending sample event
goes first; on a group engine, which no sample guard holds back, the kinds follow in the order fault, host, release. The run of the vendor
axis image takes the oldest coefficient record of the mailbox (R142 to R144, R323): active at once, or in the pending set in HOLD and for
group C; DONE either way, with PENDING in the second. The first run after a take-over takes none (R427). Stated for a run that a chained
handler's HANDLER_ENTRY makes (assumption 11), and what else is left alone for a state without loops and a run that has not come to its
commit. The current loop and the limit checks of a run of the vendor axis image in RUN, HOLD or STOPPING (R133, R136, R139, R147, R148): in
STOPPING the position loop does not run; a sample whose VALID is 0 leaves the current integrators of an FOC or stepper axis as they are; a
phase current above I_TRIP in OC_N runs in a row is a loop fault, which asks for SAFE at the next B_n. lib_commit stores what the run leaves
with the sample's sequence number (R125, R149). The order within a run, and that it is made at the handler's entry, are the model's
(assumption 11). -/
def Obligations.HandlersAndCoefficients : Prop :=
  (∀ (s : State) (e : EngId) (reach : RunReach), s.Sound → s.engRuns e = true → (s.eng e).runFrom ≤ s.tick → (s.eng e).handler = none →
    (s.eng e).rpt = none →
    let x := s.eng e
    let n : Nat := if x.long.isSome || x.waitPc.isSome then 2 else 1
    let entered (k : EvKind) (t : State) : Prop := (t.eng e).handler = some k ∧ (t.eng e).used = 0 ∧ (t.eng e).retPc = x.waitPc.getD x.pc ∧
      (t.eng e).long = none ∧ (t.eng e).held = 0 ∧ (t.eng e).waitPc = none ∧ (t.eng e).step = x.step + n ∧
      (t.eng e).pc = BitVec.ofNat 12 (match x.image with | some h => h.entry k | none => 0) ∧
      (t.eng e).pend = x.pend.filter (fun j => decide (j ≠ k)) ∧ (t.eng e).bank0 = x.bank0 ∧ (t.eng e).bank1 = x.bank1 ∧
      (t.eng e).dmem = x.dmem ∧ (t.eng e).port.evKind = k ∧ (t.eng e).port.evSrc = (if k = .fault then x.faultSrc else 0) ∧
      t.bit Fld.ENG_STAT_BK e.val = true ∧ (∀ e', e' ≠ e → t.eng e' = s.eng e')
    let quiet : Prop := ∀ f ∈ x.flights, x.step + n ≤ f.due
    (quiet → ∀ k, s.nextEvent e = some k →
      (k = .sample → s.axisLike e = false) →
      (k = .release → s.axisLike e = false ∧ ∀ m, s.trajects e m = false ∧ s.monitors e m = false) →
      ∃ t, exec (.handlerEntry e reach) s = .next t ∧
        entered k t ∧ s.onlyBits t [Fld.ENG_STAT_BK.spot e.val] ∧ t.shmem = s.shmem ∧ t.axes = s.axes ∧ t.funcs = s.funcs) ∧
    (quiet → s.nextEvent e = some .sample → x.guest = none → s.loopsRun x.axis = false → s.axMode x.axis ≠ 3 →
      ∃ t, exec (.handlerEntry e reach) s = .next t ∧ entered .sample t ∧ t.shmem = s.shmem) ∧
    (s.nextEvent e = none → exec (.handlerEntry e reach) s = .next s) ∧
    (EvKind.sample ∈ x.pend → s.nextEvent e = some .sample) ∧
    (s.axisLike e = false → s.nextEvent e = [EvKind.sample, .fault, .host, .release].find? fun k => x.pend.contains k))
  ∧ (∀ (s : State) (e : EngId) (n : AxId) (r : MailRec) (rest : List MailRec) (id : BitVec 8) (v : BitVec 32) (reach : RunReach), s.Sound →
    (s.eng e).runFrom ≤ s.tick →
    (s.eng e).handler = some .sample → (s.eng e).chained = true → s.servesAxis e n = true → (s.ax n).mail = r :: rest →
    r.cmd = .setCoef n id v →
    let pend := s.axState n = .hold ∨ coefGroupC id.toNat = true
    ∃ t, exec (.handlerEntry e reach) s = .next t ∧ (∀ m, m ≠ n → t.ax m = s.ax m) ∧ t.shmem = s.shmem ∧
      ((s.eng e).castRun = some n → (t.ax n).mail = r :: rest ∧ (t.ax n).coef = (s.ax n).coef ∧ (t.eng e).castRun = none) ∧
      ((s.eng e).castRun ≠ some n → (t.ax n).mail = rest ∧
        (pend → (t.ax n).coefPend = (s.ax n).coefPend.filter (fun kv => decide (kv.1 ≠ id.toNat)) ++ [(id.toNat, v)] ∧
          (t.ax n).coef = (s.ax n).coef ∧ t.bit Fld.AX_STATE_COEF_PEND n.val = true) ∧
        (¬ pend → (t.ax n).coefVal id.toNat = v ∧ (∀ j, j ≠ id.toNat → (t.ax n).coefVal j = (s.ax n).coefVal j) ∧
          (t.ax n).coefPend = (s.ax n).coefPend) ∧
        (s.loopsRun n = false → s.axMode n ≠ 3 → (s.motion n).stepCfgPend = [] → reach = .entry →
          (t.fn r.src.fn).comps = (s.fn r.src.fn).comps ++ [⟨r.src, 3, 0, if coefGroupC id.toNat then 8 else 0, s.sampleDt n,
            padTo 15 [BitVec.ofNat 8 (s.axState n).code], true⟩] ∧ s.onlyBits t [Fld.AX_STATE_COEF_PEND.spot n.val])))
  ∧ (∀ (s : State) (e : EngId) (n : AxId), s.Sound → (s.eng e).runFrom ≤ s.tick → (s.eng e).handler = some .sample → (s.eng e).chained = true →
    s.servesAxis e n = true → s.loopsRun n = true → (s.eng e).castRun ≠ some n →
    let p := (s.eng e).port
    let valid := (p.adc.toList.getD 15 0).getLsbD 0
    ∃ t, exec (.handlerEntry e .entry) s = .next t ∧ (∀ m, m ≠ n → t.ax m = s.ax m) ∧ t.shmem = s.shmem ∧ (t.ax n).integZero = false ∧
      (t.ax n).commits = (s.ax n).commits ∧
      (s.axState n = .stopping → (t.motion n).loops.posOut = 0) ∧
      (valid = false → s.axMode n ≠ 2 → (s.ax n).integZero = false →
        (t.motion n).loops.dInt = (s.motion n).loops.dInt ∧ (t.motion n).loops.qInt = (s.motion n).loops.qInt) ∧
      (s.axMode n ≠ 2 → (s.ax n).mail = [] → (∃ i ∈ [0, 1, 2], (s.ax n).coefI 0x06 < (p.adcI i).natAbs) →
        s.fld Fld.AX_LIMCFG_OC_N n.val ≤ (s.motion n).loops.ocRuns + 1 → (t.ax n).safeReq.isSome = true ∧
          t.bit Fld.AX_LFAULT_SEEN n.val = true ∧ (t.motion n).loops.ocRuns = 0) ∧
      (s.gateOpen e n = true → ∃ u, exec (.handlerEntry e .commit) s = .next u ∧ (u.ax n).commits = (s.ax n).commits ++
        [{ vals := t.imageOut n, tag := p.seq, eng := e, at_ := s.tick }]))

/-- PACE_MEASURE (R32 to R34): a window of 2,048 ticks gives the pace in ps rounded up; the engine's pace is valid and the next window runs.
GLB_PACE_STAT shows the highest valid pace, and LIMIT above 1,600 ps. A count of 0 gives no pace that the spec states: a free value
(assumption 7); ENG_PACE keeps the low 16 bits of a pace that does not fit (assumption 115). FAILOVER_WINDOW_END (R42, R179): the window of
three current-loop periods is over, and coast-through with it; nothing else changes. TAKEOVER_START, ZEROING_DONE, ENGINE_SELFTEST_DONE and
IMAGE_COPY_DONE before their tick, or with nothing under way, leave the state as it is (assumption 2). ALLOC_APPLY (R92, R93, R96): only
F0's write counts, and none while BUSY. A staged plan that fails a check is rejected with its REJ_WHY and changes nothing; one that passes
is in force, and an engine whose plan it changes is zeroed for 400 ticks (R94). The order of the checks is the model's reading (assumption
32). -/
def Obligations.PaceAndPlans : Prop :=
  (∀ (s : State) (e : EngId) (count tt : Nat), s.Sound → (s.eng e).meterFrom = some tt → tt + 2048 ≤ s.tick →
    ∃ t, exec (.paceMeasure e count) s = .next t ∧ (t.eng e).meterFrom = some (tt + 2048) ∧
      t.bit Fld.ENG_PACE_VALID e.val = true ∧
      (0 < count → t.fld Fld.ENG_PACE_PACE_PS e.val = ((8192000 + count - 1) / count) % 65536) ∧
      (∀ e' : EngId, t.bit Fld.ENG_PACE_VALID e'.val = true → t.fld Fld.ENG_PACE_PACE_PS e'.val ≤ t.fld Fld.GLB_PACE_STAT_MAX_PS) ∧
      t.bit Fld.GLB_PACE_STAT_LIMIT = decide (1600 < t.fld Fld.GLB_PACE_STAT_MAX_PS) ∧
      (t.bit Fld.GLB_PACE_STAT_LIMIT = true → t.bit Fld.GLB_PACE_STAT_LIMIT_SEEN = true) ∧
      (∀ e', e' ≠ e → t.eng e' = s.eng e') ∧ (∀ f : FnId, f ≠ 0 → t.fn f = s.fn f) ∧
      s.onlyBits t [Reg.ENG_PACE.spot e.val, Reg.GLB_PACE_STAT.spot, Fld.HIF_FSTAT_EVT_DROP.spot 0])
  ∧ (∀ (s : State) (n : AxId) (e : EngId) (b : Bool) (w : Nat), s.Sound →
    ((s.failover n).winEnd = some w → w ≤ s.tick → (s.failover n).coast = false →
      exec (.failoverWindowEnd n) s = .next (s.setFailover n { s.failover n with winEnd := none })) ∧
    ((s.failover n).winEnd = some w → w ≤ s.tick → (s.failover n).coast = true →
      ∃ t, exec (.failoverWindowEnd n) s = .next t ∧ t.failover n = { s.failover n with winEnd := none, coast := false } ∧
        t.bit Fld.AX_PSTAT_COAST n.val = false ∧ (∀ m, m ≠ n → t.ax m = s.ax m ∧ t.failover m = s.failover m) ∧
        (t.ax n).released = (s.ax n).released ∧ t.engines = s.engines ∧ t.banks = s.banks ∧ t.funcs = s.funcs) ∧
    ((s.failover n).winEnd = some w → s.tick < w → exec (.failoverWindowEnd n) s = .next s) ∧
    ((s.failover n).candidate = none → exec (.takeoverStart n) s = .next s) ∧
    ((s.eng e).prep = none → exec (.zeroingDone e) s = .next s ∧ exec (.imageCopyDone e b) s = .next s ∧
      exec (.engineSelftestDone e b) s = .next s))
  ∧ (∀ (s : State) (fn : FnId), s.Sound → s.legsHeld = false → s.bit Fld.GLB_STAT_READY = true → s.bit Fld.GLB_STAT_LOADING = false →
    (fn ≠ 0 → exec (.allocApply fn) s = .next s) ∧
    (fn = 0 → s.bit Fld.GLB_ALLOC_BUSY = true → exec (.allocApply fn) s = .next s) ∧
    (fn = 0 → s.bit Fld.GLB_ALLOC_BUSY = false → s.takingOver = false →
      (∀ why, s.planCheck = some why → ∃ t, exec (.allocApply fn) s = .next t ∧ t.bit Fld.GLB_ALLOC_REJ = true ∧
        t.fld Fld.GLB_ALLOC_REJ_WHY = why ∧ t.bit Fld.GLB_ALLOC_BUSY = false ∧ s.onlyBits t [Reg.GLB_ALLOC.spot] ∧
        t = { s with regs := t.regs, hwSet := t.hwSet }) ∧
      (s.planCheck = none → ∃ t, exec (.allocApply fn) s = .next t ∧
        ∀ e : EngId, t.engRole e = s.stagedRole e ∧
          (s.planChanges e = true → t.engState e = .clearing ∧ (t.eng e).prep = some .zeroing ∧ (t.eng e).prepDue = s.tick + 400 ∧
            (t.eng e).bank0 = EngBank.zero ∧ (t.eng e).image = none) ∧
          (s.planChanges e = false → t.engState e = s.engState e ∧ (t.eng e).bank0 = (s.eng e).bank0 ∧
            (t.eng e).image = (s.eng e).image ∧ (t.eng e).pc = (s.eng e).pc))))

/-- ENGINE_FAIL_DECLARED (R428): an engine that a fault of codes 1 to 6 has stopped is declared failed once. A declared group engine stays
FAULTED with its claim gone and nothing of it running. The take-over at a declaration (R431 to R435): an engine in STANDBY for the axis
serves it in the tick of the declaration, with the highest claim of the axis plus one; the claim of the failed engine is dead. -/
def Obligations.FailureAndStandby : Prop :=
  (∀ (s : State) (e : EngId), s.Sound → s.engState e = .faulted →
    let code := s.fld Fld.ENG_STAT_FAULT e.val
    (((s.eng e).declared = true ∨ code = 0 ∨ 6 < code) → exec (.engineFailDeclared e) s = .next s) ∧
    ((s.eng e).declared = false → 1 ≤ code → code ≤ 6 → s.engRole e = 2 →
      (∀ n : AxId, s.bit Fld.AX_MONSTAT_ACTIVE n.val = false) →
      ∃ t, exec (.engineFailDeclared e) s = .next t ∧ (t.eng e).declared = true ∧ t.engState e = .faulted ∧
        t.fld Fld.ENG_FO_CLAIM e.val = 0 ∧ (t.eng e).handler = none ∧ (t.eng e).pend = [] ∧ (t.eng e).flights = [] ∧
        t.fld Fld.GLB_FO_STAT_LAST_FAIL = e.val ∧ (∀ e', e' ≠ e → t.eng e' = s.eng e') ∧ t.axes = s.axes ∧ t.banks = s.banks ∧
        t.fo = s.fo ∧ t.accepted = s.accepted))
  ∧ (∀ (s : State) (e f : EngId) (n : AxId), s.Sound → s.engState e = .faulted → (s.eng e).declared = false →
    1 ≤ s.fld Fld.ENG_STAT_FAULT e.val → s.fld Fld.ENG_STAT_FAULT e.val ≤ 6 → s.engRole e = 1 → (s.eng e).axis = n →
    (s.eng e).guest = none → (s.eng e).lastPass = none → (s.failover n).lastTakeover = none → (s.failover n).topClaim < 254 →
    s.engState f = .standby → (s.eng f).axis = n → (∀ g : EngId, g.val < f.val → s.engState g ≠ .standby) →
    (∀ m : AxId, (s.failover m).candidate = none) →
    ∃ t, exec (.engineFailDeclared e) s = .next t ∧ t.engState f = .running ∧
      t.fld Fld.AX_FOSTAT_CLAIM n.val = (s.failover n).topClaim + 1 ∧ t.fld Fld.AX_FOSTAT_ENG n.val = f.val ∧
      t.fld Fld.ENG_FO_CLAIM f.val = (s.failover n).topClaim + 1 ∧ t.fld Fld.ENG_FO_CLAIM e.val = 0 ∧
      (t.failover n).topClaim = (s.failover n).topClaim + 1 ∧ (t.failover n).incomplete = some 1 ∧ (t.eng e).declared = true ∧
      t.engRole f = 1 ∧ (∀ m, m ≠ n → t.ax m = s.ax m))

/-- TAKEOVER_START (R433): the prepared candidate is loaded with the image that the image store holds for the axis, runs from ENTRY_BG with all
registers zero, and holds the highest claim plus one. Without an image the axis is engineless (assumption 2). ZEROING_DONE (R94, R95, R436):
a zeroed engine that serves no plan change and no repair is OFF, its pace no longer valid; one in repair goes on to its self-test of 62,500
ticks; a spare is IDLE with its meter running, where no axis waits for an engine. ENGINE_SELFTEST_DONE (R436, R437): an engine that fails,
or whose pace is not valid or too slow, is FAULTED and RETIRED; one that passes follows its former axis as STANDBY with its old claim, while
no axis waits for an engine and the store holds an image. IMAGE_COPY_DONE (R84, R97): with a good CRC the engine is LOADED with the image
and all registers zero, and the store keeps the image; with a bad one it is OFF and the command ends with FAULT, IMAGE_CRC. -/
def Obligations.EnginePreparation : Prop :=
  (∀ (s : State) (n : AxId) (e : EngId) (o : Nat) (img : List Byte), s.Sound → (s.failover n).candidate = some (e, o) → o ≠ 6 →
    (s.failover n).arbStop = none → (s.failover n).candDue ≤ s.tick → s.store.axisImage n = some img → (s.failover n).topClaim < 255 →
    ∃ t, exec (.takeoverStart n) s = .next t ∧ t.engState e = .running ∧ t.engRole e = 1 ∧ (t.eng e).axis = n ∧
      (t.eng e).runFrom = s.tick + 1 ∧ (t.eng e).castRun = some n ∧ (t.eng e).pc = BitVec.ofNat 12 (ImageHdr.parse img).entryBg ∧ (t.eng e).bank0 = EngBank.zero ∧ (t.eng e).bank1 = EngBank.zero ∧
      (t.eng e).image = some (ImageHdr.parse img) ∧ t.fld Fld.ENG_STAT_FAULT e.val = 0 ∧
      t.fld Fld.AX_FOSTAT_CLAIM n.val = (s.failover n).topClaim + 1 ∧ t.fld Fld.ENG_FO_CLAIM e.val = (s.failover n).topClaim + 1 ∧
      t.fld Fld.AX_FOSTAT_ENG n.val = e.val ∧ t.fld Fld.AX_FOSTAT_SERVICE n.val = 0 ∧ (t.failover n).candidate = none ∧
      (t.failover n).incomplete = some o ∧ (t.failover n).engineless = false ∧ (∀ m, m ≠ n → t.ax m = s.ax m))
  ∧ (∀ (s : State) (e : EngId), s.Sound → (s.eng e).prep = some .zeroing → (s.eng e).prepDue ≤ s.tick →
    ((s.eng e).repairing = true → ∃ t, exec (.zeroingDone e) s = .next t ∧ (t.eng e).prep = some .selftest ∧
      (t.eng e).prepDue = s.tick + 62500 ∧ (t.eng e).bank0 = EngBank.zero ∧ (t.eng e).dmem = [] ∧ (t.eng e).imem = [] ∧
      t.bit Fld.ENG_FO_SELFTEST e.val = true ∧ (∀ e', e' ≠ e → t.eng e' = s.eng e') ∧
      s.onlyBits t [Fld.ENG_FO_SELFTEST.spot e.val] ∧ t.axes = s.axes ∧ t.funcs = s.funcs) ∧
    ((s.eng e).repairing = false → s.engRole e ≠ 3 → ∃ t, exec (.zeroingDone e) s = .next t ∧ t.engState e = .off ∧
      (t.eng e).prep = none ∧ (t.eng e).meterFrom = none ∧ (t.eng e).bank0 = EngBank.zero ∧ (t.eng e).dmem = [] ∧ (t.eng e).imem = [] ∧
      t.bit Fld.ENG_PACE_VALID e.val = false ∧ (∀ e', e' ≠ e → t.eng e' = s.eng e') ∧
      (∀ f : FnId, f ≠ 0 → t.fn f = s.fn f) ∧ t.axes = s.axes ∧
      s.onlyBits t [Fld.ENG_PACE_VALID.spot e.val, Fld.ENG_STAT_STATE.spot e.val, Reg.GLB_PACE_STAT.spot, Reg.GLB_ALLOC.spot,
        Fld.HIF_FSTAT_EVT_DROP.spot 0]) ∧
    ((s.eng e).repairing = false → s.engRole e = 3 → (∀ n, s.wantsEngine n = false) → ∃ t, exec (.zeroingDone e) s = .next t ∧
      t.engState e = .idle ∧ (t.eng e).prep = none ∧ (t.eng e).meterFrom = some ((s.eng e).meterFrom.getD s.tick) ∧
      (t.eng e).bank0 = EngBank.zero ∧ (∀ e', e' ≠ e → t.eng e' = s.eng e') ∧ t.axes = s.axes ∧ t.funcs = s.funcs ∧ t.fo = s.fo))
  ∧ (∀ (s : State) (e : EngId) (pass : Bool), s.Sound → (s.eng e).prep = some .selftest →
    let ok := pass && s.bit Fld.ENG_PACE_VALID e.val && decide (s.fld Fld.ENG_PACE_PACE_PS e.val ≤ s.warnPs)
    (ok = false → ∃ t, exec (.engineSelftestDone e pass) s = .next t ∧ t.engState e = .faulted ∧ t.bit Fld.ENG_FO_RETIRED e.val = true ∧
      t.bit Fld.ENG_FO_SELFTEST e.val = false ∧ t.bit Fld.ENG_PACE_VALID e.val = false ∧ (t.eng e).prep = none ∧
      (t.eng e).repairing = false ∧ (∀ e', e' ≠ e → t.eng e' = s.eng e') ∧ t.axes = s.axes ∧ t.fo = s.fo) ∧
    (ok = true → (∀ n, s.wantsEngine n = false) → ∀ img, s.store.axisImage (s.eng e).axis = some img →
      ∃ t, exec (.engineSelftestDone e pass) s = .next t ∧ t.engState e = .standby ∧ (t.eng e).lastPass = some s.tick ∧
        (t.eng e).image = some (ImageHdr.parse img) ∧ t.fld Fld.ENG_FO_CLAIM e.val = (s.eng e).oldClaim % 256 ∧
        t.bit Fld.ENG_FO_SELFTEST e.val = false ∧ (∀ e', e' ≠ e → t.eng e' = s.eng e') ∧ t.axes = s.axes ∧ t.fo = s.fo))
  ∧ (∀ (s : State) (e : EngId) (c : CmdSrc), s.Sound → (s.eng e).prep = some (.copying (some c)) → (s.eng e).prepDue ≤ s.tick →
    (s.eng e).wantStart = none → (s.eng e).byApply = false → s.bit Fld.GLB_ALLOC_BUSY = false →
    let img := (s.eng e).copyImg
    (∃ t, exec (.imageCopyDone e true) s = .next t ∧ t.engState e = .loaded ∧ (t.eng e).image = some (ImageHdr.parse img) ∧
      (t.eng e).pc = BitVec.ofNat 12 (ImageHdr.parse img).entryBg ∧ (t.eng e).bank0 = EngBank.zero ∧ (t.eng e).prep = none ∧
      (s.engRole e = 1 → t.store.axisImage (s.eng e).axis = some img) ∧
      (t.fn c.fn).comps = (s.fn c.fn).comps ++ [⟨c, 3, 0, 0, s.now, padTo 15 [], true⟩] ∧
      (∀ f : FnId, f ≠ c.fn → t.fn f = s.fn f) ∧ (∀ e', e' ≠ e → t.eng e' = s.eng e') ∧
      s.onlyBits t [Reg.ENG_STAT.spot e.val, Reg.ENG_EVSTAT.spot e.val, Reg.ENG_HWM_SF.spot e.val, Reg.ENG_HWM_HR.spot e.val]) ∧
    (∃ t, exec (.imageCopyDone e false) s = .next t ∧ t.engState e = .off ∧ (t.eng e).image = none ∧ (t.eng e).prep = none ∧
      (t.eng e).meterFrom = none ∧ t.bit Fld.ENG_PACE_VALID e.val = false ∧ t.store = s.store ∧
      (t.fn c.fn).comps = (s.fn c.fn).comps ++ [⟨c, 5, 5, 0, s.now, padTo 15 [], true⟩] ∧ (∀ e', e' ≠ e → t.eng e' = s.eng e')))

/-! ## Host commands -/

/-- A command that is not in the pending table, or whose D has not come, is not delivered (R303 to R305): nothing changes. -/
def Obligations.NotDelivered : Prop :=
  ∀ (s : State) (src : CmdSrc) (n : AxId) (on rev : Bool) (i : BitVec 8) (v w x y : F32) (p q : Int) (mask value : BitVec 48)
    (cat : StopCat) (m c k g : BitVec 8) (a b e f : BitVec 16) (u r : Nat) (unit : Fin 2) (bytes : List Byte),
    let quiet (cmd : HostCmd) (c : Instr) : Prop := (∀ a ∈ s.accepted, a.src = src → a.cmd = cmd → s.now < a.d) → exec c s = .next s
    quiet (.axisEnable n on) (.axisEnable src n on) ∧ quiet (.axisHold n) (.axisHold src n) ∧ quiet (.wcClear n) (.wcClear src n) ∧
    quiet (.setCoef n i v) (.setCoef src n i v) ∧ quiet (.posPreload n p) (.posPreload src n p) ∧
    quiet (.groupStop mask cat) (.groupStop src mask cat) ∧ quiet (.moveAbs n p v w x y) (.moveAbs src n p v w x y) ∧
    quiet (.moveVel n v w x) (.moveVel src n v w x) ∧ quiet (.moveLim n v w x y) (.moveLim src n v w x y) ∧
    quiet (.gear n m c p u r q) (.gear src n m c p u r q) ∧ quiet (.cam n m c k u p v w) (.cam src n m c k u p v w) ∧
    quiet (.home n rev a v p u r) (.home src n rev a v p u r) ∧
    quiet (.stepCfg n m a b e f v) (.stepCfg src n m a b e f v) ∧
    quiet (.latchArm n unit m c k g) (.latchArm src n unit m c k g) ∧ quiet .snapshot (.snapshot src) ∧
    quiet (.dioSet mask value) (.dioSet src mask value) ∧ quiet (.poSet m a b) (.poSet src m a b) ∧
    quiet (.canTx m c k v bytes) (.canTx src m c k v bytes) ∧ quiet (.canMode m c) (.canMode src m c) ∧
    quiet (.canRecover m) (.canRecover src m) ∧ quiet (.netTx m bytes) (.netTx src m bytes) ∧ quiet .timeAccept (.timeAccept src) ∧
    quiet (.engLoad m bytes) (.engLoad src m bytes) ∧ quiet (.engStart m) (.engStart src m) ∧
    quiet (.monCfg n m c k g a v w x) (.monCfg src n m c k g a v w x) ∧ quiet (.monBaseline n) (.monBaseline src n) ∧
    quiet (.profileLoad m) (.profileLoad src m) ∧ quiet (.safeConfirm v) (.safeConfirm src v)

/-- AXIS_ENABLE on (R144, R145, R408): RUN from IDLE with its 32 offset conversions or from HOLD, unless a safety function holds the axis; the
pending coefficients become active. Anywhere else it is DONE with NO_CHANGE and changes nothing. AXIS_ENABLE off and AXIS_HOLD (R145, R147),
with an empty move queue: from RUN, and for off from HOLD, with a speed reference the axis is STOPPING, to IDLE or to HOLD, and the ramp
ends after DECEL_MS for the whole speed in whole axis frames; from standstill the stop ends at once. Off leads from SAFE to IDLE while no
demand is active; off in STOPPING, IDLE, OFF and ABSENT is NO_CHANGE (assumption 18). -/
def Obligations.AxisEnableAndHold : Prop :=
  (∀ (s : State) (src : CmdSrc) (n : AxId) (d : Nat), s.Sound →
    let a : Accepted := ⟨src, .axisEnable n true, d⟩
    let found : List Byte := [BitVec.ofNat 8 (s.axState n).code]
    let may : Prop := s.safetyHolds n = false ∧
      (s.axState n = .hold ∨ s.axState n = .idle ∧ (s.bit Fld.AX_MOTCFG_VIRT n.val = true ∨ 32 ≤ (s.ax n).ofsCount))
    s.Due a →
    (may → ∃ t, exec (.axisEnable src n true) s = .next t ∧ t.axState n = .run ∧ s.ends t a 3 0 0 found ∧
      (t.ax n).coefPend = [] ∧ t.bit Fld.AX_STATE_COEF_PEND n.val = false ∧
      (∀ i v, (s.ax n).coefPend = [(i, v)] → (t.ax n).coefVal i = v) ∧ (t.ax n).released = (s.ax n).released ∧
      (s.axState n = .idle → (t.motion n).refPos = (s.fbk n).pos.toInt ∧ (t.ax n).integZero = true) ∧
      (s.axState n = .hold → (t.motion n).queue = (s.motion n).queue ∧
        (t.motion n).refPos = (s.motion n).loops.held.getD (s.fbk n).pos.toInt ∧
        (t.ax n).integZero = false) ∧ (∀ m, m ≠ n → t.ax m = s.ax m ∧ t.motion m = s.motion m)) ∧
    (¬ may → ∃ t, exec (.axisEnable src n true) s = .next t ∧ s.ends t a 3 0 16 found ∧
      t = { s with accepted := t.accepted, funcs := t.funcs }))
  ∧ (∀ (s : State) (src : CmdSrc) (n : AxId) (d : Nat), s.Sound → (s.motion n).queue = [] →
    let off : Accepted := ⟨src, .axisEnable n false, d⟩
    let hold : Accepted := ⟨src, .axisHold n, d⟩
    let st := s.axState n
    let found : List Byte := [BitVec.ofNat 8 st.code]
    let v := (s.ax n).speedRef
    let goes (c : Instr) (a : Accepted) (q : AxState) : Prop := ∃ t, exec c s = .next t ∧ t.axState n = q ∧ s.ends t a 3 0 0 found ∧
      (q = .stopping → (t.ax n).stop = some ⟨decide (c = .axisHold src n), v.natAbs, s.tick, s.rampEnd n⟩) ∧
      (q = .idle → (t.ax n).ofsCount = 0 ∧ t.bit Fld.AX_STATE_IOFS_RDY n.val = false) ∧
      (t.ax n).released = (s.ax n).released ∧ (t.ax n).coef = (s.ax n).coef ∧ (∀ m, m ≠ n → t.ax m = s.ax m)
    let stays (c : Instr) (a : Accepted) : Prop := ∃ t, exec c s = .next t ∧ s.ends t a 3 0 16 found ∧
      t = { s with accepted := t.accepted, funcs := t.funcs }
    (s.Due off → (st = .run ∨ st = .hold → v ≠ 0 → goes (.axisEnable src n false) off .stopping) ∧
      (st = .run ∨ st = .hold → v = 0 → goes (.axisEnable src n false) off .idle) ∧
      (st = .safe → s.bit Fld.AX_STATE_WC_ACTIVE n.val = false → goes (.axisEnable src n false) off .idle) ∧
      (st = .safe ∧ s.bit Fld.AX_STATE_WC_ACTIVE n.val = true ∨ st = .stopping ∨ st = .idle ∨ st = .off ∨ st = .absent →
        stays (.axisEnable src n false) off)) ∧
    (s.Due hold → (st = .run → v ≠ 0 → goes (.axisHold src n) hold .stopping) ∧ (st = .run → v = 0 → goes (.axisHold src n) hold .hold) ∧
      (st ≠ .run → stays (.axisHold src n) hold)))

/-- WC_CLEAR (R186): the latched DESAT and HOC demands are cleared, but neither while the cause of either is present; the other demands stay.
POS_PRELOAD (R210): the counter takes the value at the delivery instant and OFS moves with it, so that ANGLE does not jump; the position is
known. OFS is a field the host also writes: where the host has written AX_ANGOFS in this same tick, its value stands and ANGLE is not
claimed (R494). GROUP_STOP (R319): every axis of the mask that is not at its B_n stops at its first boundary at or after D, one command for
all; an axis outside the mask is left. -/
def Obligations.ClearPreloadAndGroupStop : Prop :=
  (∀ (s : State) (src : CmdSrc) (n : AxId) (d : Nat), s.Sound →
    let a : Accepted := ⟨src, .wcClear n, d⟩
    let q := (s.ax n).demands
    s.Due a → ∃ t, exec (.wcClear src n) s = .next t ∧
      (t.ax n).demands = (if q.desatLive || q.hocLive then q else { q with desat := false, hoc := false }) ∧
      s.ends t a 3 0 0 [BitVec.ofNat 8 (s.axState n).code] ∧ (t.ax n).released = (s.ax n).released ∧ (∀ m, m ≠ n → t.ax m = s.ax m))
  ∧ (∀ (s : State) (src : CmdSrc) (n : AxId) (pos : Int) (d : Nat), s.Sound →
    let a : Accepted := ⟨src, .posPreload n pos, d⟩
    s.Due a → ∃ t, exec (.posPreload src n pos) s = .next t ∧ (t.fbk n).pos = BitVec.ofInt 48 pos ∧ (t.fbk n).preload = none ∧
      t.bit Fld.AX_MSTAT_POS_UNK n.val = false ∧ s.ends t a 3 0 0 [BitVec.ofNat 8 (s.axState n).code] ∧
      (s.cpr n < 2 ^ 16 → s.hostSet.contains (Reg.addr .AX_ANGOFS n.val) = false → t.angle n = s.angle n) ∧ (t.fbk n).zpos = (s.fbk n).zpos ∧
      (∀ m, m ≠ n → t.ax m = s.ax m ∧ t.fbk m = s.fbk m) ∧
      s.onlyBits t [Fld.AX_MSTAT_POS_UNK.spot n.val, Fld.AX_ANGOFS_OFS.spot n.val] ∧ t.engines = s.engines)
  ∧ (∀ (s : State) (src : CmdSrc) (mask : BitVec 48) (cat : StopCat) (d : Nat),
    let a : Accepted := ⟨src, .groupStop mask cat, d⟩
    s.Due a → (∀ n : AxId, mask.getLsbD n.val = true → (s.ax n).frameTick ≠ s.tick ∧ (s.ax n).stopReq = none) →
      ∃ t, exec (.groupStop src mask cat) s = .next t ∧ s.ends t a 3 0 0 [] ∧
        (∀ n : AxId, t.ax n = if mask.getLsbD n.val then { s.ax n with stopReq := some (cat, 0), stopFrom := s.tick } else s.ax n) ∧
        t = { s with accepted := t.accepted, funcs := t.funcs, axes := t.axes })

/-- SNAPSHOT (R212, R327): one event record with the counter and ANGLE of every axis that the issuer owns, and zeros for the others, all of one
tick. -/
def Obligations.SnapshotRecord : Prop :=
  ∀ (s : State) (src : CmdSrc) (d : Nat),
    let a : Accepted := ⟨src, .snapshot, d⟩
    let rec_ (n : AxId) : List Byte :=
      if s.axisOwner n = src.fn then leBytes 6 (s.fbk n).pos.toNat ++ leBytes 2 (s.angle n) else List.replicate 8 0
    s.Due a → (s.fn src.fn).evEntries ≤ 50 → ∃ t, exec (.snapshot src) s = .next t ∧
      (t.fn src.fn).evq = (s.fn src.fn).evq ++ [⟨0x0011, leBytes 8 d ++ (allFin 48).flatMap rec_⟩] ∧ s.ends t a 3 0 0 [14] ∧
      t = { s with accepted := t.accepted, funcs := t.funcs }

/-- SET_COEF, MOVE_LIM and STEP_CFG (R57, R142, R235, R256, R323): the record enters the next of the 8 mailbox slots and the command waits for
the image to take it; SET_COEF delivered in OFF, and STEP_CFG outside IDLE and HOLD, are CANCELLED, and MOVE_LIM without a move is DONE with
NO_MOVE. Without a running engine a ninth record is discarded, CANCELLED (R435). The bytes of the record are free values (assumption 7). -/
def Obligations.MailboxCommands : Prop :=
  ∀ (s : State) (src : CmdSrc) (n : AxId) (id k : BitVec 8) (v w x y : F32) (i j h st : BitVec 16) (d : Nat), s.Sound →
    let found : List Byte := [BitVec.ofNat 8 (s.axState n).code]
    let waits (c : Instr) (a : Accepted) (kept : State → Prop) : Prop := ∃ t, exec c s = .next t ∧ s.taken_ t a ∧ kept t ∧
      (t.ax n).mailIdx = (s.ax n).mailIdx + 1 ∧
      (∀ o, o < 0x100 + 32 * ((s.ax n).mailIdx % 8) ∨ 0x120 + 32 * ((s.ax n).mailIdx % 8) ≤ o →
        Mem.byte (t.ax n).win o = Mem.byte (s.ax n).win o) ∧
      t.funcs = s.funcs ∧ (t.ax n).coef = (s.ax n).coef ∧ t.axState n = s.axState n ∧ (∀ m, m ≠ n → t.ax m = s.ax m)
    let ends (c : Instr) (a : Accepted) (code flags : BitVec 8) : Prop := ∃ t, exec c s = .next t ∧ s.ends t a code 0 flags found ∧
      t = { s with accepted := t.accepted, funcs := t.funcs }
    let full := s.mailFull n
    let sc : Accepted := ⟨src, .setCoef n id v, d⟩
    let ml : Accepted := ⟨src, .moveLim n v w x y, d⟩
    let cf : Accepted := ⟨src, .stepCfg n k i j h st v, d⟩
    (s.Due sc → (s.axState n ≠ .off → full = false → waits (.setCoef src n id v) sc fun t => (t.ax n).mail = (s.ax n).mail ++ [⟨src, .setCoef n id v, s.tick⟩]) ∧
      (s.axState n = .off ∨ full = true → ends (.setCoef src n id v) sc 4 0)) ∧
    (s.Due ml → ((s.motion n).limApplies = true → full = false →
        waits (.moveLim src n v w x y) ml fun t => (t.motion n).limPend = (s.motion n).limPend ++ [⟨src, .moveLim n v w x y, s.tick⟩]) ∧
      ((s.motion n).limApplies = true → full = true → ends (.moveLim src n v w x y) ml 4 0) ∧
      ((s.motion n).limApplies = false → ends (.moveLim src n v w x y) ml 3 4)) ∧
    (s.Due cf → (s.axState n = .idle ∨ s.axState n = .hold → full = false → waits (.stepCfg src n k i j h st v) cf fun t =>
        (t.motion n).stepCfgPend = (s.motion n).stepCfgPend ++ [⟨src, .stepCfg n k i j h st v, s.tick⟩]) ∧
      (s.axState n ≠ .idle ∧ s.axState n ≠ .hold ∨ full = true → ends (.stepCfg src n k i j h st v) cf 4 0))

/-- ENG_LOAD and ENG_START (R84, R94, R97): a load into an engine that is OFF or IDLE copies the image for 800 ticks, any other engine is zeroed
for 400 ticks first; the engine is CLEARING meanwhile. A start of a LOADED engine runs it from ENTRY_BG, DONE 16 ns later (assumption 28);
of one that is neither loaded nor being copied, CANCELLED. MON_CFG and MON_BASELINE (R272, R274). A configuration switches the monitoring of
the axis on or off; a change of the band set or of NLOG discards BASE. A baseline command waits for eight records. -/
def Obligations.EngineAndMonitorCommands : Prop :=
  (∀ (s : State) (src : CmdSrc) (m : BitVec 8) (image : List Byte) (d : Nat) (e : EngId), s.Sound → m.toNat = e.val → (s.eng e).prep = none →
    let ld : Accepted := ⟨src, .engLoad m image, d⟩
    let st : Accepted := ⟨src, .engStart m, d⟩
    (s.Due ld → ∃ t, exec (.engLoad src m image) s = .next t ∧ s.taken_ t ld ∧ t.engState e = .clearing ∧
      (t.eng e).prep = some (.copying (some src)) ∧ (t.eng e).copyImg = image ∧ (t.eng e).image = none ∧ (t.eng e).bank0 = EngBank.zero ∧
      (t.eng e).prepDue = s.tick + (if s.engState e = .off ∨ s.engState e = .idle then 800 else 1200) ∧
      (∀ e', e' ≠ e → t.eng e' = s.eng e') ∧ t.funcs = s.funcs ∧ s.onlyBits t [Fld.ENG_STAT_STATE.spot e.val]) ∧
    (s.Due st → (s.engState e = .loaded → ∃ t, exec (.engStart src m) s = .next t ∧ s.taken_ t st ∧ t.engState e = .running ∧
        (t.eng e).pc = BitVec.ofNat 12 (match (s.eng e).image with | some h => h.entryBg | none => 0) ∧
        (t.eng e).bank0 = (s.eng e).bank0 ∧
        (t.fn src.fn).comps = (s.fn src.fn).comps ++ [⟨src, 3, 0, 0, s.now + 16, padTo 15 [], true⟩] ∧
        (∀ e', e' ≠ e → t.eng e' = s.eng e') ∧ s.onlyBits t [Fld.ENG_STAT_STATE.spot e.val]) ∧
      (s.engState e ≠ .loaded → ∃ t, exec (.engStart src m) s = .next t ∧ s.ends t st 4 0 0 [] ∧
        t = { s with accepted := t.accepted, funcs := t.funcs })))
  ∧ (∀ (s : State) (src : CmdSrc) (n : AxId) (en eng bs nl : BitVec 8) (rinj : BitVec 16) (lq r0 t0 : F32) (d : Nat), s.Sound →
    let cmd : HostCmd := .monCfg n en eng bs nl rinj lq r0 t0
    let cf : Accepted := ⟨src, cmd, d⟩
    let bl : Accepted := ⟨src, .monBaseline n, d⟩
    (s.Due cf → ∃ t, exec (.monCfg src n en eng bs nl rinj lq r0 t0) s = .next t ∧ s.ends t cf 3 0 0 [BitVec.ofNat 8 (s.axState n).code] ∧
      (t.moni n).cfg = some cmd ∧ t.bit Fld.AX_MONSTAT_ACTIVE n.val = decide (en = 1) ∧
      (en = 1 → eng.toNat < 64 → t.fld Fld.AX_MONSTAT_MON_ENG n.val = eng.toNat) ∧
      (∀ m en' eng' rinj' lq' r' t', (s.moni n).cfg = some (.monCfg m en' eng' bs nl rinj' lq' r' t') → (t.moni n).base = (s.moni n).base) ∧
      (∀ m en' eng' bs' nl' rinj' lq' r' t', (s.moni n).cfg = some (.monCfg m en' eng' bs' nl' rinj' lq' r' t') → bs' ≠ bs ∨ nl' ≠ nl →
        (t.moni n).base = []) ∧ (∀ m, m ≠ n → t.moni m = s.moni m)) ∧
    (s.Due bl → ∃ t, exec (.monBaseline src n) s = .next t ∧ s.taken_ t bl ∧ t.funcs = s.funcs ∧
      (t.moni n).baselines = (s.moni n).baselines ++ [(src, [])] ∧ (∀ m, m ≠ n → t.moni m = s.moni m)))

/-! ## Power stage (05_power_stage.md) -/

/-- The bank carriers (R10, R155 to R157). CARRIER_START_REQUEST from standstill takes PERIOD, ALIGN and ILV and is decided once every condition
holds: the first boundary is then the first DT at least 1,000 ticks ahead that is a multiple of 4 × PERIOD ns. CARRIER_START runs the
carrier with its frame counter from DT. CARRIER_STOP_REQUEST is accepted while every axis of the bank is OFF or IDLE, else ignored with
VIOL; CARRIER_STOP is the next boundary, at which IDLE axes go OFF. AX_MONSTAT.CAPT follows the period. Stated for a first boundary that
paces no group engine and for whose axes no engine waits to be shared. FB_WRITE_STOPPED (R10): an FB field written while the carrier of its
bank counts as stopped takes effect once 2 ticks have passed, the last write of a register standing; one that waits for a boundary is left
waiting. -/
def Obligations.CarriersAndFbWrites : Prop :=
  (∀ (s : State) (b : BankId) (w : Word), s.Sound →
    let x := s.bnk b
    let p := Fld.BNK_CARRIER_PERIOD.get w
    let still (t : State) : Prop := (∀ b', b' ≠ b → t.bnk b' = s.bnk b') ∧ t.axes = s.axes ∧
      s.onlyBits t ([Reg.BNK_CARRIER.spot b.val, Fld.GLB_ENV_VIOL.spot] ++ (allFin 48).map fun n => Fld.AX_MONSTAT_CAPT.spot n.val)
    let same : Bool := p == s.fld Fld.BNK_CARRIER_PERIOD b.val && Fld.BNK_CARRIER_ALIGN.get w == s.fld Fld.BNK_CARRIER_ALIGN b.val &&
      Fld.BNK_CARRIER_ILV.get w == s.fld Fld.BNK_CARRIER_ILV b.val
    let alone : Prop := (∀ e : EngId, s.engRole e = 2 → s.engState e = .running → (s.eng e).grpBank ≠ b) ∧
      ∀ n : AxId, n.bank = b → (s.failover n).candidate = none
    (s.Open → x.carrier = .stopped → ∃ t, exec (.carrierStartRequest b 0 w) s = .next t ∧ still t ∧
      t.fld Fld.BNK_CARRIER_PERIOD b.val = p ∧ t.fld Fld.BNK_CARRIER_ALIGN b.val = Fld.BNK_CARRIER_ALIGN.get w ∧
      t.fld Fld.BNK_CARRIER_ILV b.val = Fld.BNK_CARRIER_ILV.get w ∧ (t.bnk b).period = (if same then x.period else p) ∧ t.bit Fld.BNK_CARRIER_RUN b.val = true ∧
      (t.envelopeOk b = false → t.bit Fld.GLB_ENV_VIOL = true) ∧ (t.carrierReady b = false → (t.bnk b).carrier = .pending) ∧
      (t.carrierReady b = true → ∃ k m, (t.bnk b).carrier = .starting k ∧ m % (4 * max 1 (t.bnk b).period) = 0 ∧ m ≤ s.dtOn k ∧ s.dtOn k < m + 4 ∧
        s.tick + 1000 ≤ k ∧ ∀ j, s.tick + 1000 ≤ j → s.dtOn j % (4 * max 1 (t.bnk b).period) = 0 → k ≤ j)) ∧
    (∀ k, x.carrier = .starting k → k ≤ s.tick → alone →
      ∃ t, exec (.carrierStart b) s = .next t ∧ (t.bnk b).carrier = .running ∧ (t.bnk b).firstTick = k ∧ (t.bnk b).frameTick = k ∧
        (t.bnk b).frameNo = BitVec.ofNat 32 (s.dtAt k / (4 * max 1 x.period)) ∧
        t.fld Fld.BNK_FRAME_FRAME b.val = (t.bnk b).frameNo.toNat ∧ (t.bnk b).half = s.bit Fld.BNK_RELEASE_LAT b.val ∧
        t.bit Fld.BNK_CARRIER_RUNNING b.val = true ∧ (∀ b', b' ≠ b → t.bnk b' = s.bnk b') ∧ t.engines = s.engines ∧
        ∀ n : AxId, n.bank ≠ b → t.ax n = s.ax n) ∧
    (s.Open → x.carrier = .running → same = true →
      ((∀ n : AxId, n.bank = b → s.axState n = .off ∨ s.axState n = .idle) →
        ∃ t, exec (.carrierStopRequest b 0 w) s = .next t ∧ still t ∧ t.bnk b = { x with carrier := .stopping false } ∧
          t.bit Fld.BNK_CARRIER_RUN b.val = false ∧ t.bit Fld.GLB_ENV_VIOL = s.bit Fld.GLB_ENV_VIOL) ∧
      (∀ n : AxId, n.bank = b → s.axState n ≠ .off → s.axState n ≠ .idle →
        exec (.carrierStopRequest b 0 w) s = .next (s.setBit Fld.GLB_ENV_VIOL 0 true))) ∧
    (x.carrier = .stopping false → x.frameTick + x.period ≤ s.tick →
      ∃ t, exec (.carrierStop b) s = .next t ∧ (t.bnk b).carrier = .stopped ∧ t.bit Fld.BNK_CARRIER_RUNNING b.val = false ∧
        t.fld Fld.BNK_PNOW_PERIOD b.val = 0 ∧ (∀ b', b' ≠ b → t.bnk b' = s.bnk b') ∧ (∀ n : AxId, n.bank ≠ b → t.ax n = s.ax n) ∧
        ∀ n : AxId, n.bank = b → (t.ax n).framed = false ∧ (t.ax n).nextB = none ∧
          (s.axState n = .idle → t.axState n = .off ∧ (t.ax n).released = .off) ∧ (s.axState n = .off → t.axState n = .off)))
  ∧ (∀ (s : State) (n : AxId) (r : Reg) (v u : Word) (i j : Nat), s.Sound →
    let a := if r ∈ axFbRegs then r.addr n.val else r.addr n.bank.val
    (r ∈ axFbRegs ∨ r ∈ bnkFbRegs → s.fbPend = [⟨a, u, i, false⟩] → ∃ t, exec (.fbWriteStopped n.bank) s = .next t ∧ t.fbPend = s.fbPend ∧
      t.force = s.force ∧ t.banks = s.banks ∧ t.engines = s.engines) ∧
    (r ∈ axFbRegs ∨ r ∈ bnkFbRegs → s.fbPend = [⟨a, u, i, true⟩, ⟨a, v, j, true⟩] → i ≤ j →
    ∃ t, exec (.fbWriteStopped n.bank) s = .next t ∧ t.banks = s.banks ∧ t.engines = s.engines ∧
      (∀ a', a' ≠ a → Sparse.get Reg.resetAt t.force a' = Sparse.get Reg.resetAt s.force a') ∧
      (j + 2 ≤ s.tick → t.fbPend = [] ∧ Sparse.get Reg.resetAt t.force a = v) ∧
      (s.tick < j + 2 → i + 2 ≤ s.tick → t.fbPend = [⟨a, v, j, true⟩] ∧ Sparse.get Reg.resetAt t.force a = u) ∧
      (s.tick < i + 2 → t.fbPend = s.fbPend ∧ t.force = s.force)))

/-- The motor supply (R180, R181, R184). VM_L1 switches the brake chopper: on above L1_ON, off below L1_OFF; VM_L2 raises its demand on every
axis of the bank above L2 and clears it below L1_OFF; VM_LOW reports below UV; BRAKE_TIMEOUT locks a chopper that was on for TMAX_MS and
raises the demand; VGD_UV, set below 8.5 V and cleared above 9.0 V with 0.2 V of tolerance, in which a level may go either way (assumption
7), drives every gate of the bank off. -/
def Obligations.MotorSupply : Prop :=
  ∀ (s : State) (b : BankId) (vm : BitVec 12) (vgd : BitVec 11), s.Sound → s.legsHeld = false →
    let x := s.bnk b
    let i := b.val
    let measured (t : State) : Prop := (t.bnk b).vm = vm ∧ (t.bnk b).carrier = x.carrier ∧
      (∀ b', b' ≠ b → t.bnk b' = s.bnk b')
    (s.vmValid b = true → ∃ t, exec (.vmL1 b vm) s = .next t ∧ measured t ∧ t.axes = s.axes ∧ t.bit Fld.BNK_PSTAT_L1 i = (t.bnk b).brk ∧
      (s.fld Fld.BNK_VM1_L1_ON i < vm.toNat → x.brkLock = false → x.everStarted = true → s.bit Fld.BNK_BRK_EN i = true →
        (t.bnk b).brk = true ∧ (t.bnk b).brkSince = if x.brk then x.brkSince else s.tick) ∧
      (vm.toNat < s.fld Fld.BNK_VM1_L1_OFF i → (t.bnk b).brk = false ∧ (t.bnk b).brkLock = false) ∧
      (s.fld Fld.BNK_VM1_L1_OFF i ≤ vm.toNat → vm.toNat ≤ s.fld Fld.BNK_VM1_L1_ON i → (t.bnk b).l1 = x.l1) ∧
      s.onlyBits t [Fld.BNK_PSTAT_L1.spot i]) ∧
    (s.vmValid b = true → ∃ t, exec (.vmL2 b vm) s = .next t ∧ measured t ∧
      (s.fld Fld.BNK_VM2_L2 i < vm.toNat → (t.bnk b).vmL2 = true ∧ t.bit Fld.BNK_PSTAT_L2_SEEN i = true ∧
        ∀ n : AxId, n.bank = b → (t.demandSrc n).getLsbD 2 = true ∧ t.bit Fld.AX_STATE_WC_ACTIVE n.val = true ∧
          (s.axState n = .run → (t.ax n).safeReq.isSome = true)) ∧
      (vm.toNat < s.fld Fld.BNK_VM1_L1_OFF i → (t.bnk b).vmL2 = false) ∧
      (s.fld Fld.BNK_VM1_L1_OFF i ≤ vm.toNat → vm.toNat ≤ s.fld Fld.BNK_VM2_L2 i → (t.bnk b).vmL2 = x.vmL2)) ∧
    (∃ t, exec (.vmLow b vm) s = .next t ∧ measured t ∧ t.axes = s.axes ∧ s.onlyBits t
        [Fld.BNK_PSTAT_UV.spot i, Fld.HIF_FSTAT_EVT_DROP.spot] ∧
      t.bit Fld.BNK_PSTAT_UV i = decide (vm.toNat < s.fld Fld.BNK_VM2_UV i) ∧
      (s.fld Fld.BNK_VM2_UV i ≤ vm.toNat ∨ s.bit Fld.BNK_PSTAT_UV i = true → t.funcs = s.funcs) ∧
      (vm.toNat < s.fld Fld.BNK_VM2_UV i → s.bit Fld.BNK_PSTAT_UV i = false → s.tells t 0 0x0005 i vm.toNat)) ∧
    (let due := x.brk = true ∧ s.fld Fld.BNK_BRK_TMAX_MS i ≠ 0 ∧ x.brkSince + s.fld Fld.BNK_BRK_TMAX_MS i * 250000 ≤ s.tick
     (¬due → exec (.brakeTimeout b) s = .next s) ∧
     (due → ∃ t, exec (.brakeTimeout b) s = .next t ∧ (t.bnk b).brk = false ∧ (t.bnk b).brkLock = true ∧ (t.bnk b).vmL2 = true ∧
        t.bit Fld.BNK_PSTAT_BRK_OVL i = true ∧ t.bit Fld.BNK_PSTAT_L1 i = false)) ∧
    (∃ t, exec (.vgdUv b vgd) s = .next t ∧ t.bit Fld.BNK_PSTAT_VGD_OK i = !(t.bnk b).vgdUv ∧ (t.bnk b).vgd = vgd ∧
      (vgd.toNat < 830 → (t.bnk b).vgdUv = true) ∧ (920 < vgd.toNat → (t.bnk b).vgdUv = false) ∧
      (x.vgdUv = false → 870 < vgd.toNat → (t.bnk b).vgdUv = false) ∧ (x.vgdUv = true → vgd.toNat < 880 → (t.bnk b).vgdUv = true) ∧
      (∀ b', b' ≠ b → t.bnk b' = s.bnk b') ∧
      ((t.bnk b).vgdUv = true → t.bit Fld.BNK_PSTAT_VGD_UV_SEEN i = true ∧
        ∀ n : AxId, n.bank = b → (t.demandSrc n).getLsbD 3 = true ∧ t.fld Fld.AX_STATE_LEG n.val = 0 ∧
          ∀ l, (t.leg n l).high = false ∧ (t.leg n l).low = false))

/-- Cuts and latched demands (R165 to R167, R182, R186). FLT_CUT with an active level drives every gate of the bank off that no Wingcase action
commands, and counts once a frame; a current above CBC_LVL turns the high sides of its axis off, the low sides following under dead time;
V_DS of a conducting switch above its level for 2 ticks, and a current above HOC_LVL, latch their demand, and the configured action is in
force at once. A detector that trips in the blanking time, and a cut that is not enabled, change nothing. -/
def Obligations.CutsAndDemands : Prop :=
  ∀ (s : State) (b : BankId) (n : AxId) (level : Bool) (mag vds since : Nat), s.Sound → s.legsHeld = false →
    let i := b.val
    let x := s.ax n
    let open_ : Prop := x.blankUntil ≤ s.tick
    (∃ t, exec (.fltCut b level) s = .next t ∧ (∀ m : AxId, m.bank ≠ b → t.ax m = s.ax m) ∧
      (t.bnk b).fltActive = (level == s.bit Fld.BNK_FLT_POL i) ∧
      ((level = s.bit Fld.BNK_FLT_POL i ∧ s.bit Fld.BNK_FLT_EN i = true) → (t.bnk b).fltFrame = true ∧
        t.fld Fld.BNK_FLT_CUT_CNT i = (if (s.bnk b).fltFrame then s.fld Fld.BNK_FLT_CUT_CNT i
          else min (s.fld Fld.BNK_FLT_CUT_CNT i + 1) (2 ^ Fld.BNK_FLT_CUT_CNT.width - 1)) ∧
        ∀ m : AxId, m.bank = b → (t.ax m).fltCut = true ∧ (s.wcAction m = none → t.fld Fld.AX_STATE_LEG m.val = 0 ∧
          ∀ l, (t.leg m l).high = false ∧ (t.leg m l).low = false)) ∧
      (¬(level = s.bit Fld.BNK_FLT_POL i ∧ s.bit Fld.BNK_FLT_EN i = true) → t.axes = s.axes ∧ t.regs = s.regs)) ∧
    (let trips : Prop := s.inForce Fld.AX_OC_CBC_EN n.val = 1 ∧ open_ ∧ 256 * s.inForce Fld.AX_OC_CBC_LVL n.val < mag
     (¬trips → exec (.cbcTrip n mag) s = .next s) ∧
     (trips → ∃ t, exec (.cbcTrip n mag) s = .next t ∧ (t.ax n).cbcCut = true ∧
      t.fld Fld.AX_PSTAT_CBC_CNT n.val = (if x.cbcCut then s.fld Fld.AX_PSTAT_CBC_CNT n.val
        else min (s.fld Fld.AX_PSTAT_CBC_CNT n.val + 1) (2 ^ Fld.AX_PSTAT_CBC_CNT.width - 1)) ∧
      (∀ l, s.legMode n l = .pwm ∨ s.legMode n l = .high → (t.leg n l).high = false ∧
        ((s.leg n l).high = true → (t.leg n l).low = false ∧ (t.leg n l).dead = some (s.tick, true)) ∧
        ((s.leg n l).high = false → (∃ u, (s.leg n l).dead = some (u, false)) ∨ (s.leg n l).dead = none → (t.leg n l).low = true)) ∧
      (∀ m, m ≠ n → t.ax m = s.ax m) ∧ (t.ax n).released = x.released ∧ (t.ax n).demands = x.demands ∧ t.banks = s.banks ∧ t.funcs = s.funcs ∧
      s.onlyBits t [Fld.AX_PSTAT_CBC_CNT.spot n.val, Reg.AX_WC.spot n.val, Fld.AX_STATE_WC_ACTIVE.spot n.val, Fld.AX_STATE_LEG.spot n.val,
        Reg.AX_STEPCNT.spot n.val, Fld.AX_MSTAT_POS_UNK.spot n.val])) ∧
    (let raised (c : Instr) (d : Demands) (act : Nat) : Prop := ∃ t, exec c s = .next t ∧ (t.ax n).demands = d ∧
        (t.ax n).released = x.released ∧ (∀ m, m ≠ n → t.ax m = s.ax m) ∧ t.bit Fld.AX_STATE_WC_ACTIVE n.val = true ∧
        (s.axState n = .run → (t.ax n).safeReq.isSome = true) ∧
        (s.wcAction n = none → (s.bnk n.bank).everStarted = true → t.fld Fld.AX_STATE_LEG n.val = match WcAction.ofCode act with | .short => 2 | _ => 0)
     let held : Prop := s.conducts n = true ∧ 1000 + 250 * s.inForce Fld.BNK_PROT_DESAT n.bank.val < vds
     let from_ := max since x.blankUntil
     let hoc := s.inForce Fld.AX_OC_HOC_LVL n.val
     let above : Prop := 256 * (if hoc = 0 then 255 else hoc) < mag
     (held → s.tick < from_ + 2 → exec (.desat n vds since) s = .next s) ∧
     (held → from_ + 2 ≤ s.tick →
       raised (.desat n vds since) { x.demands with desat := true, desatLive := true } (s.fld Fld.BNK_WCACT_DESAT n.bank.val)) ∧
     (¬held → ∃ t, exec (.desat n vds since) s = .next t ∧ (t.ax n).demands = { x.demands with desatLive := false } ∧
       (t.ax n).released = x.released) ∧
     (above → ¬open_ → exec (.hoc n mag) s = .next s) ∧
     (above → open_ → raised (.hoc n mag) { x.demands with hoc := true, hocLive := true } (s.fld Fld.BNK_WCACT_HOC n.bank.val)) ∧
     (¬above → ∃ t, exec (.hoc n mag) s = .next t ∧ (t.ax n).demands = { x.demands with hocLive := false } ∧ (t.ax n).released = x.released))

/-- The legs (R159 to R162, R168, R170, R173, R175). PWM_EDGE never has both switches of a leg on: at an instant that the values in force allow
for the edge, one side goes off and the dead time begins; at any other nothing happens; a turn-on in the charge time, below the bootstrap
threshold or for a pulse shorter than FLOOR is dropped for its frame. The complement turns on where the switch node has crossed its
threshold or is diode-held, once FLOOR has passed, or after 250 ticks, 240 on entry to SHORT; DTTO_N timeouts in a row are a leg fault with
a record. A slope phase ends after 250 ticks with PROF_TO. -/
def Obligations.Legs : Prop :=
  ∀ (s : State) (n : AxId) (l : Leg) (at_ : Nat) (hi bootLow held : Bool) (node : Int), s.Sound →
    let x := s.leg n l
    let cnt := x.dtTimeouts + 1
    let lim := if s.legNow n = .short then 240 else 250
    let others (t : State) : Prop := (∀ k, k ≠ l → t.leg n k = s.leg n k) ∧ (∀ m, m ≠ n → t.ax m = s.ax m) ∧ (t.ax n).released = (s.ax n).released
    let th : Int := s.inForce Fld.BNK_DT_TH n.bank.val + 1
    let vm : Int := (s.bnk n.bank).vm.toNat
    let crossed : Bool := if hi then decide (8 * node < th * vm) else decide ((8 - th) * vm < 8 * node)
    let ready : Prop := (crossed = true ∨ held = true) ∧ s.dtFloor n.bank ≤ (s.tick - at_) * 8
    (x.dead = some (at_, hi) → ready → ∃ t, exec (.switchNodeCrossing n l node held) s = .next t ∧ others t ∧
      (t.leg n l).low = hi ∧ (t.leg n l).high = !hi ∧ (t.leg n l).dead = none ∧ (t.leg n l).dtTimeouts = 0 ∧
      (crossed = true → (t.leg n l).slopeSince = none)) ∧
    (x.dead = some (at_, hi) → ¬ready → ∃ t, exec (.switchNodeCrossing n l node held) s = .next t ∧ others t ∧
      t.leg n l = { x with slopeSince := if crossed then none else x.slopeSince }) ∧
    (x.dead = some (at_, hi) → at_ + lim ≤ s.tick → ∃ t, exec (.deadTimeTimeout n l) s = .next t ∧ others t ∧
      (t.leg n l).low = hi ∧ (t.leg n l).high = !hi ∧ (t.leg n l).dead = none ∧
      (cnt < max 1 (s.inForce Fld.BNK_DT_DTTO_N n.bank.val) → (t.leg n l).dtTimeouts = cnt ∧ t.regs = s.regs ∧ t.funcs = s.funcs) ∧
      (max 1 (s.inForce Fld.BNK_DT_DTTO_N n.bank.val) ≤ cnt → (t.leg n l).dtTimeouts = 0 ∧ t.bit Fld.AX_PSTAT_LEGF n.val = true ∧
        s.tells t (s.axisOwner n) 0x0004 n.val l.idx.val)) ∧
    (x.dead = some (at_, hi) → s.tick < at_ + lim → exec (.deadTimeTimeout n l) s = .next s) ∧
    (x.slopeSince = some at_ → at_ + 250 ≤ s.tick → ∃ t, exec (.slopeTimeout n l) s = .next t ∧ others t ∧
      t.leg n l = { x with slopeSince := none } ∧ t.bit Fld.AX_PSTAT_PROF_TO n.val = true ∧ s.onlyBits t [Fld.AX_PSTAT_PROF_TO.spot n.val]) ∧
    (s.legDrive n l = .pwm → (s.bnk n.bank).runs = true →
      let now := 8 * (s.tick - (s.ax n).frameTick)
      let pl := s.pulse n l
      let fl := s.dtFloor n.bank
      let ended : Prop := pl.2 - x.shorten ≤ now + 7 ∧ pl.2 - x.shorten + fl ≤ 8 * s.axPeriod n + s.nextOn n l
      let early : Prop := now + 7 < pl.1 ∧ now + fl ≤ pl.1
      let on := max pl.1 (s.lowUntil n l)
      let off := if 8 * s.axPeriod n ≤ (s.comparePulse n l).2 - (s.comparePulse n l).1 then pl.2 else pl.2 - (on - pl.1)
      let timely : Prop := x.high = false ∧ x.dead = none ∧ on ≤ now + 7 ∧ now ≤ off ∧ x.dropped ≠ some (s.ax n).frameTick
      (¬(ended ∨ early) → exec (.pwmEdge n l false bootLow) s = .next s) ∧
      (ended ∨ early → x.high = true → ∃ t, exec (.pwmEdge n l false bootLow) s = .next t ∧ others t ∧ (t.leg n l).high = false ∧
        (t.leg n l).low = false ∧ (t.leg n l).dead = some (s.tick, true)) ∧
      (¬timely → ∃ t, exec (.pwmEdge n l true bootLow) s = .next t ∧ others t ∧ t.leg n l = { x with bootUv := bootLow }) ∧
      (timely → off < on + fl ∨ s.tick < x.chargeUntil ∨ bootLow = true → ∃ t, exec (.pwmEdge n l true bootLow) s = .next t ∧ others t ∧
        t.leg n l = { x with bootUv := bootLow, dropped := some (s.ax n).frameTick }) ∧
      (timely → on + fl ≤ off → x.chargeUntil ≤ s.tick → ∃ t, exec (.pwmEdge n l true false) s = .next t ∧ others t ∧
        (t.leg n l).high = false ∧ (t.leg n l).low = false ∧ (t.leg n l).dead = some (s.tick, false)))

/-! ## Feedback (06_feedback.md) -/

/-- Hall, quadrature and index inputs (R177, R193 to R199, R214, R215). A changed Hall code that has been stable for FLT ticks moves the counter
by one towards the adjacent used sector; a jump of more than one sector is illegal and counts in ILL alone; the codes 0b000 and 0b111 raise
HALL_CODE. A quadrature transition counts by the sequence 00, 10, 11, 01; a change of both lines is illegal and, with BRIDGE, counts 2 in
the latest direction. INV reverses every count. An index event captures ZPOS, and with ZCHK a distance that is neither 0 nor CPR raises its
fault. Counts are stated for an axis whose counter its feedback moves: on a stepper axis, with PSRC (R254). -/
def Obligations.HallQuadratureIndex : Prop :=
  ∀ (s : State) (n : AxId) (code : BitVec 3) (since : Nat) (p a b z : Bool), s.Sound →
    (s.axMode n = 3 → s.bit Fld.AX_STEPCFG_PSRC n.val = true) →
    let x := s.fbk n
    let moved (t : State) (d : Int) : Prop := (t.fbk n).pos = x.pos + BitVec.ofInt 48 (s.signed n d) ∧ ∀ m, m ≠ n → t.fbk m = s.fbk m
    let ill (t : State) : Prop :=
      t.fld Fld.AX_FBCNT_ILL n.val = min (s.fld Fld.AX_FBCNT_ILL n.val + 1) (2 ^ Fld.AX_FBCNT_ILL.width - 1)
    let stable : Prop := since + s.inForce Fld.AX_HALL_FLT n.val ≤ s.tick
    (s.fmode n ≠ 0 ∨ code = (s.ax n).hallCode ∨ ¬stable → ∃ t, exec (.hallChange n code since) s = .next t ∧ (t.fbk n).pins = code ∧ moved t 0 ∧
      t.axes = s.axes ∧ s.onlyBits t [Reg.AX_FBSAFE.spot n.val]) ∧
    (s.fmode n = 0 → code ≠ (s.ax n).hallCode → stable → ∃ t, exec (.hallChange n code since) s = .next t ∧ (t.ax n).hallCode = code ∧
      (t.fbk n).lastEdge = some s.tick ∧ (t.ax n).released = (s.ax n).released ∧
      (hallSectorOf code = none → (t.ax n).hallValid = false ∧ t.bit Fld.AX_PSTAT_HALL_BAD n.val = true ∧
        (t.fld Fld.AX_FBFLT_FAULT n.val).testBit 1 = true ∧ moved t 0) ∧
      (∀ sec, hallSectorOf code = some sec →
        let turn := (s.usedSector n sec + 6 - s.sectorNow n) % 6
        (t.ax n).hallValid = true ∧ (t.ax n).hallSector = sec ∧
        ((s.ax n).hallValid = false ∨ turn = 0 ∨ s.pmode n ≠ 0 → moved t 0) ∧
        ((s.ax n).hallValid = true → s.pmode n = 0 → turn = 1 → moved t 1) ∧ ((s.ax n).hallValid = true → s.pmode n = 0 → turn = 5 → moved t (-1)) ∧
        ((s.ax n).hallValid = true → 2 ≤ turn → turn ≤ 4 → moved t 0 ∧ ill t))) ∧
    (let old := if p then quadPhase x.pa x.pb else quadPhase (x.pins.getLsbD 0) (x.pins.getLsbD 1)
     let step := (quadPhase a b + 4 - old) % 4
     let dir (f : AxFb) : Option Bool := if p then f.dirP else f.dir
     (p = false → s.fmode n = 1 ∧ s.pmode n = 0) → (p = true → s.pmode n = 3) →
      ∃ t, exec (.quadTransition n p a b z) s = .next t ∧ (t.ax n).released = (s.ax n).released ∧ (step = 0 → moved t 0) ∧
        (step = 1 → moved t 1 ∧ dir (t.fbk n) = some true) ∧ (step = 3 → moved t (-1) ∧ dir (t.fbk n) = some false) ∧
        (step = 2 → ill t ∧ dir (t.fbk n) = dir x ∧ (s.bit Fld.AX_FBCFG_BRIDGE n.val = false ∨ dir x = none → moved t 0) ∧
          (∀ up, s.bit Fld.AX_FBCFG_BRIDGE n.val = true → dir x = some up → moved t (if up then 2 else -2)))) ∧
    (let gated : Prop := s.bit Fld.AX_FBCFG_ZGATE n.val = true ∧ ¬(x.pins.getLsbD 0 = true ∧ x.pins.getLsbD 1 = true)
     (s.fmode n ≠ 1 ∨ gated → exec (.indexEvent n) s = .next s) ∧
     (s.fmode n = 1 → ¬gated → ∃ t, exec (.indexEvent n) s = .next t ∧ (t.fbk n).zpos = x.pos ∧ (t.fbk n).pos = x.pos ∧
        (t.fbk n).prevIndex = some x.pos ∧ t.bit Fld.AX_FBFLT_Z_SEEN n.val = true ∧ (∀ m, m ≠ n → t.fbk m = s.fbk m) ∧
        (s.bit Fld.AX_FBCFG_ZCHK n.val = false ∨ x.prevIndex = none → t.funcs = s.funcs ∧ t.axes = s.axes) ∧
        (∀ q, s.bit Fld.AX_FBCFG_ZCHK n.val = true → x.prevIndex = some q → (x.pos - q).toInt ≠ 0 → (x.pos - q).toInt.natAbs ≠ s.cpr n →
          (t.fld Fld.AX_FBFLT_FAULT n.val).testBit 2 = true ∧
          ((s.fld Fld.AX_FBFLT_FAULT n.val).testBit 2 = false → s.tells t (s.axisOwner n) 0x0003 n.val 2))))

/-- Sine/cosine and SSI (R200 to R205). A finished pair of good amplitude within a quarter period of the quadrant count puts the counter at the
fine angle; any other pair puts it at the centre of the quadrant; AMP_N bad amplitudes in a row raise their fault. The rounding of the fine
angle, and the angle of the pair (0, 0), are free (assumption 7). A pair counts only where its conversion started at the sample instant or a
whole number of 250-tick intervals after the latest start. An SSI transfer, which starts L before a sample instant and lasts BITS + 1 clock
periods, loads the counter the first time and then advances it by the signed difference; one in error is extrapolated, and ERR_N in a row
raise a fault. Stated for an axis whose counter its feedback moves (R254). -/
def Obligations.SineCosineSsi : Prop :=
  ∀ (s : State) (n : AxId) (sn cs : BitVec 16) (bits : BitVec 64) (frameOk : Bool), s.Sound →
    (s.axMode n = 3 → s.bit Fld.AX_STEPCFG_PSRC n.val = true) →
    let x := s.fbk n
    (s.pmode n ≠ 1 ∨ s.pairStarts n (s.tick - 200) = false → exec (.sincosPair n sn cs) s = .next s) ∧
    (s.pmode n = 1 → s.pairStarts n (s.tick - 200) = true → ∃ t, exec (.sincosPair n sn cs) s = .next t ∧ (∀ m, m ≠ n → t.fbk m = s.fbk m) ∧ ∃ phi : Nat, phi < 2 ^ s.ipb n ∧
      ((sn ≠ 0 ∨ cs ≠ 0) → ∃ up : Nat, up ≤ 1 ∧ phi = (fineFloor sn.toInt cs.toInt (s.ipb n) + up) % 2 ^ s.ipb n) ∧
      let centre : Int := x.qcAt (s.tick - 200) * 2 ^ (s.ipb n - 2) + 2 ^ (s.ipb n - 3)
      let fine : Int := phi + roundDiv (centre - phi) (2 ^ s.ipb n) * 2 ^ s.ipb n
      let r2 := (sn.toInt * sn.toInt + cs.toInt * cs.toInt).toNat * 256
      let good : Prop := s.fld Fld.AX_SCCFG_AMP_LO n.val * 2 ^ 30 ≤ r2 ∧ r2 ≤ s.fld Fld.AX_SCCFG_AMP_HI n.val * 2 ^ 30
      let near : Prop := (fine - centre).natAbs ≤ 2 ^ (s.ipb n - 2)
      (good → near → (t.fbk n).pos = BitVec.ofInt 48 (fine + x.scOfs)) ∧ (¬(good ∧ near) → (t.fbk n).pos = BitVec.ofInt 48 (centre + x.scOfs)) ∧
      (good → (t.fbk n).ampBad = 0) ∧ (near → (t.fbk n).trackBad = 0) ∧ (¬near → (t.fbk n).trackBad = x.trackBad + 1) ∧
      (¬good → (t.fbk n).ampBad = x.ampBad + 1 ∧ (max 1 (s.fld Fld.AX_SCCFG_AMP_N n.val) ≤ x.ampBad + 1 →
        (t.fld Fld.AX_FBFLT_FAULT n.val).testBit 3 = true))) ∧
    (s.pmode n = 2 → x.ssiBusy = none → s.ssiDue n = true →
      exec (.ssiTransferStart n) s = .next (s.setFbk n { x with ssiBusy := some s.tick })) ∧
    (s.pmode n ≠ 2 ∨ x.ssiBusy ≠ none ∨ s.ssiDue n = false → exec (.ssiTransferStart n) s = .next s) ∧
    (s.pmode n ≠ 2 ∨ (∀ u, x.ssiBusy = some u → s.tick + 2 < u + s.ssiLead n) → exec (.ssiTransferEnd n bits frameOk) s = .next s) ∧
    (∀ u, s.pmode n = 2 → x.ssiBusy = some u → u + s.ssiLead n ≤ s.tick + 2 →
      let w := s.fld Fld.AX_SSICFG_BITS n.val
      let e := s.bit Fld.AX_SSICFG_EBIT n.val
      let pw := if e then w - 1 else w
      let raw := bits.toNat % 2 ^ w
      let u := if e then raw / 2 else raw
      let v : Int := if s.bit Fld.AX_SSICFG_GRAY n.val then grayDecode u pw else u
      let jump := s.fld Fld.AX_SSICFG_JUMP n.val
      let wrong : Prop := frameOk = false ∨ e = true ∧ raw % 2 = 1 ∨
        ∃ q, x.ssiLast = some q ∧ jump ≠ 0 ∧ s.cpr n < (signedMod (v - q) pw).natAbs * 2 ^ jump
      ∃ t, exec (.ssiTransferEnd n bits frameOk) s = .next t ∧ (t.fbk n).ssiBusy = none ∧ (∀ m, m ≠ n → t.fbk m = s.fbk m) ∧
        (¬wrong → (t.fbk n).ssiLast = some v ∧ (t.fbk n).ssiErr = 0 ∧ (x.ssiLast = none → (t.fbk n).pos = BitVec.ofInt 48 v) ∧
          ∀ q, x.ssiLast = some q → (t.fbk n).ssiDelta = signedMod (v - q) pw ∧
            (t.fbk n).pos = x.pos + BitVec.ofInt 48 (signedMod (v - q) pw - x.ssiExtra)) ∧
        (wrong → (t.fbk n).ssiLast = x.ssiLast ∧ (t.fbk n).ssiErr = x.ssiErr + 1 ∧ (t.fbk n).pos = x.pos + BitVec.ofInt 48 x.ssiDelta ∧
          (max 1 (s.fld Fld.AX_SSICFG_ERR_N n.val) ≤ x.ssiErr + 1 → (t.fld Fld.AX_FBFLT_FAULT n.val).testBit 5 = true)))

/-- Coherent reads and preloads (R210, R211, R330). Reading the low word of a position or of DT returns it and puts the high word into the
shadow of the reading function; a function other than F0 sees its own axes only. A write of AX_POSLD_HI arms a preload of the 48 bits. -/
def Obligations.ReadsAndPreload : Prop :=
  ∀ (s : State) (f : FnId) (n : AxId) (w : Word),
    let x := s.fbk n
    let hi : Word := BitVec.ofNat 32 (s.angle n * 65536 + x.pos.toNat / 2 ^ 32)
    let zhi : Word := BitVec.ofNat 32 (x.zpos.toNat / 2 ^ 32)
    (f = 0 ∨ s.axisOwner n = f → ∃ t, exec (.posLoRead f n) s = .next t ∧ t.lastRead = [x.pos.setWidth 32, hi] ∧
      t.funcs = (s.setFn f { s.fn f with posShadow := hi, posFrom := some n }).funcs) ∧
    (f = 0 ∨ s.axisOwner n = f → ∃ t, exec (.zposLoRead f n) s = .next t ∧ t.lastRead = [x.zpos.setWidth 32, zhi] ∧
      t.funcs = (s.setFn f { s.fn f with zposShadow := zhi, zposFrom := some n }).funcs) ∧
    (f ≠ 0 → s.axisOwner n ≠ f → exec (.posLoRead f n) s = .next { s with lastRead := [0] } ∧
      exec (.zposLoRead f n) s = .next { s with lastRead := [0] }) ∧
    (∃ t, exec (.dtLoRead f) s = .next t ∧ t.lastRead = [s.dt.extractLsb' 0 32, s.dt.extractLsb' 32 32] ∧
      t.funcs = (s.setFn f { s.fn f with dtShadow := s.dt.extractLsb' 32 32 }).funcs) ∧
    (s.Open → ∃ t, exec (.posldArm 0 n w) s = .next t ∧ (t.fbk n).pos = x.pos ∧ (∀ m, m ≠ n → t.fbk m = s.fbk m) ∧ ∃ v : BitVec 48,
      (t.fbk n).preload = some ⟨v, s.tick, 0, s.countsStopped n.bank⟩ ∧ v.toNat = Fld.AX_POSLD_HI_VAL.get w * 2 ^ 32 + s.fld Fld.AX_POSLD_LO_VAL n.val) ∧
    (f ≠ 0 → exec (.posldArm f n w) s = .next s)

/-- The pulse repeaters (R219 to R222). One output count leaves the backlog at MINSP spacing, 2 ticks after the counter change at the earliest,
as one step of the quadrature sequence, or as a step MINSP after its direction line was set; enabling starts from zero, disabling discards
the backlog; PO_SET rescales the accumulator, rounding down, and keeps the backlog. -/
def Obligations.PulseRepeaters : Prop :=
  ∀ (s : State) (src : CmdSrc) (q : BitVec 8) (n m : BitVec 16) (w : Word) (d : Nat) (k : PoId), s.Sound →
    let x := s.rep k
    let i := k.val
    let step := s.bit Fld.GLB_POk_CFG_FMT i
    let minsp := max 5 (s.fld Fld.GLB_POk_CFG_MINSP i)
    let waits : Prop := (∃ u, x.lastOut = some u ∧ s.tick < u + (if step then 2 else 1) * minsp) ∨ s.tick < x.since + 2 ∨
      (step = true ∧ ∃ u, x.dirAt = some u ∧ s.tick < u + minsp)
    let others (t : State) : Prop := ∀ j, j ≠ k → t.rep j = s.rep j
    let en := s.bit Fld.GLB_POk_CFG_EN i
    let src' := Fld.GLB_POk_CFG_SRC.get w
    let ratio : Prop := 1 ≤ s.fld Fld.GLB_POk_RATIO_M i ∧ s.fld Fld.GLB_POk_RATIO_N i ≤ s.fld Fld.GLB_POk_RATIO_M i
    (en = false ∨ x.backlog = 0 ∨ waits → exec (.poOutputCount k) s = .next s) ∧
    (en = true → x.backlog ≠ 0 → ¬waits → ∃ t, exec (.poOutputCount k) s = .next t ∧ others t ∧ (t.rep k).lastOut = some s.tick ∧
      (t.rep k).backlog = (if 0 < x.backlog then x.backlog - 1 else x.backlog + 1) ∧ (t.rep k).acc = x.acc ∧
      (step = false → (t.rep k).phase = if 0 < x.backlog then x.phase + 1 else x.phase - 1) ∧
      (step = true → (t.rep k).dirRev = x.dirRev ∧ (t.rep k).phase = x.phase) ∧ s.onlyBits t [Reg.GLB_POk_STAT.spot i]) ∧
    (s.Open → en = false → Fld.GLB_POk_CFG_EN.get w = 1 → src' < 48 → ratio → ∃ t, exec (.poEnable 0 k w) s = .next t ∧ others t ∧
      t.rep k = ⟨0, 0, 0, false, none, x.since, none⟩ ∧ t.bit Fld.GLB_POk_CFG_EN i = true ∧ t.fld Fld.GLB_POk_CFG_SRC i = src' ∧
      s.onlyBits t [Reg.GLB_POk_CFG.spot i]) ∧
    (s.Open → en = true → Fld.GLB_POk_CFG_EN.get w = 0 → src' < 48 → ∃ t, exec (.poEnable 0 k w) s = .next t ∧ others t ∧
      t.rep k = ⟨x.acc, 0, 0, false, none, x.since, none⟩ ∧ t.bit Fld.GLB_POk_CFG_EN i = false) ∧
    (s.Open → (48 ≤ src' ∨ Fld.GLB_POk_CFG_EN.get w = 1 ∧ ¬ratio) → exec (.poEnable 0 k w) s = .next (s.setBit Fld.GLB_POk_STAT_CFG_REJ i true)) ∧
    (q.toNat = i →
      let a : Accepted := ⟨src, .poSet q n m, d⟩
      s.Due a → ∃ t, exec (.poSet src q n m) s = .next t ∧ s.ends t a 3 0 0 [] ∧ others t ∧
        (t.rep k).acc = x.acc * m.toNat / max 1 (s.fld Fld.GLB_POk_RATIO_M i) ∧ (t.rep k).backlog = x.backlog ∧
        t.fld Fld.GLB_POk_RATIO_N i = n.toNat ∧ t.fld Fld.GLB_POk_RATIO_M i = m.toNat ∧ s.onlyBits t [Reg.GLB_POk_RATIO.spot i])

/-! ## Motion (07_motion.md) -/

/-- The queued moves (R229, R231, R232, R258): MOVE_ABS, MOVE_VEL, GEAR, CAM and HOME enter the tail of the queue in RUN and wait there, and end
CANCELLED in any other state, a MOVE_ABS also where a stepper's position is unknown. At a position-loop boundary of an empty queue the move
starts at once (assumption 11). -/
def Obligations.MovesQueued : Prop :=
  ∀ (s : State) (src : CmdSrc) (n : AxId) (tgt ph : Int) (v a dd j : F32) (g m c : BitVec 8) (num : Int) (den ramp : Nat) (rev : Bool) (h : BitVec 16)
    (d : Nat), s.Sound →
    let q := (s.motion n).queue
    let now : Prop := (s.ax n).framed = true ∧ (s.ax n).frameTick = s.tick ∧ s.positionLoopFrame n (s.ax n).frameNo = true
    let lost : Prop := s.axMode n = 3 ∧ s.bit Fld.AX_MSTAT_POS_UNK n.val = true
    let runs (i : Instr) (cmd : HostCmd) : Prop :=
      let e : Accepted := ⟨src, cmd, d⟩
      s.Due e → s.axState n = .run → ¬(lost ∧ ∃ x y z k l, cmd = .moveAbs n x y z k l) →
        ∃ t, exec i s = .next t ∧ s.taken_ t e ∧ t.funcs = s.funcs ∧ t.axes = s.axes ∧ (∀ o, o ≠ n → t.motion o = s.motion o) ∧
          (¬now → (t.motion n).queue = q ++ [⟨src, cmd, false, none⟩]) ∧
          (now → q = [] → (t.motion n).queue = [⟨src, cmd, true, none⟩]) ∧
          ((t.motion n).queue.length < 2 ^ Fld.AX_MSTAT_QDEPTH.width → t.fld Fld.AX_MSTAT_QDEPTH n.val = (t.motion n).queue.length) ∧
          s.onlyBits t [Reg.AX_MSTAT.spot n.val, Reg.GLB_CAM_BUSY.spot]
    let turned (i : Instr) (cmd : HostCmd) : Prop :=
      let e : Accepted := ⟨src, cmd, d⟩
      s.Due e → s.axState n ≠ .run ∨ lost ∧ (∃ x y z k l, cmd = .moveAbs n x y z k l) →
        ∃ t, exec i s = .next t ∧ s.ends t e 4 0 0 [BitVec.ofNat 8 (s.axState n).code] ∧ t = { s with accepted := t.accepted, funcs := t.funcs }
    let both (i : Instr) (cmd : HostCmd) : Prop := (¬(now ∧ q ≠ []) → runs i cmd) ∧ turned i cmd
    both (.moveAbs src n tgt v a dd j) (.moveAbs n tgt v a dd j) ∧ both (.moveVel src n v a j) (.moveVel n v a j) ∧
    both (.gear src n g m num den ramp ph) (.gear n g m num den ramp ph) ∧ both (.cam src n g m c den ph v a) (.cam n g m c den ph v a) ∧
    both (.home src n rev h v tgt den ramp) (.home n rev h v tgt den ramp)

/-- STEP_TIMER_EXPIRY (R252 to R254): a step moves the step count and, with PSRC = 0, the position counter; the timer takes the next entry of
the ring, with an interval of at least 25 ticks and the fraction carried, or halts on HALT, or repeats the last interval and counts an
underrun. The position latches (R249, R250, R324). LATCH_ARM gives a unit its setting for edges from D on; LATCH_RECORD forms the record of
the oldest edge between the captures that bracket it, and with 16 records waiting it is dropped with LATCH_OVF. -/
def Obligations.StepsAndLatches : Prop :=
  (∀ (s : State) (n : AxId) (at_ : Nat), s.Sound → (s.motion n).stepNext = some at_ →
    let m := s.motion n
    let d : Int := if m.stepRev then -1 else 1
    let w := Mem.load (s.ax n).win (0xF00 + 4 * m.rdIdx) 4
    let frac := w / 2 ^ 24 % 16
    (s.tick < at_ → exec (.stepTimerExpiry n) s = .next s) ∧
    (at_ ≤ s.tick → ∃ t, exec (.stepTimerExpiry n) s = .next t ∧ t.word .AX_STEPCNT n.val = s.word .AX_STEPCNT n.val + BitVec.ofInt 32 d ∧
      (t.fbk n).pos = (if s.bit Fld.AX_STEPCFG_PSRC n.val then (s.fbk n).pos else (s.fbk n).pos + BitVec.ofInt 48 d) ∧
      (∀ k, k ≠ n → t.ax k = s.ax k ∧ t.motion k = s.motion k ∧ t.fbk k = s.fbk k) ∧ (t.motion n).queue = m.queue ∧
      (w.testBit 31 = true → (t.motion n).rdIdx = (m.rdIdx + 1) % 16 ∧ t.fld Fld.AX_MSTAT_UNDR n.val = s.fld Fld.AX_MSTAT_UNDR n.val ∧
        (w.testBit 29 = true → (t.motion n).stepNext = none ∧ t.bit Fld.AX_MSTAT_HALTED n.val = true) ∧
        (w.testBit 29 = false → (t.motion n).stepNext = some (at_ + max 25 (w % 2 ^ 24) + (m.fracAcc + frac) / 16) ∧
          (t.motion n).fracAcc = (m.fracAcc + frac) % 16 ∧ (t.motion n).stepRev = w.testBit 28)) ∧
      (w.testBit 31 = false → (t.motion n).stepNext = some (at_ + m.stepInt + (m.fracAcc + m.stepFrac) / 16) ∧
        (t.motion n).rdIdx = m.rdIdx ∧ (t.motion n).stepRev = m.stepRev ∧ t.axes = s.axes ∧
        t.fld Fld.AX_MSTAT_UNDR n.val = min (s.fld Fld.AX_MSTAT_UNDR n.val + 1) (2 ^ Fld.AX_MSTAT_UNDR.width - 1))))
  ∧ (∀ (s : State) (src : CmdSrc) (n : AxId) (u : Fin 2) (dio edge mode tgt : BitVec 8) (d : Nat) (e : LatchEdge) (rest : List LatchEdge) (p : Int),
    let x := (s.motion n).latches[u]
    let a : Accepted := ⟨src, .latchArm n u dio edge mode tgt, d⟩
    (s.Due a → ∃ t, exec (.latchArm src n u dio edge mode tgt) s = .next t ∧ s.ends t a 3 0 0 [BitVec.ofNat 8 (s.axState n).code] ∧
      (t.motion n).latches[u] = ⟨⟨mode, dio, edge, decide (tgt = 1), some src, 0⟩, x.cur, d, x.edges⟩ ∧
      (∀ k : Fin 2, k ≠ u → (t.motion n).latches[k] = (s.motion n).latches[k]) ∧ (t.motion n).queue = (s.motion n).queue ∧
      (∀ m, m ≠ n → t.motion m = s.motion m)) ∧
    (x.edges = [] → exec (.latchRecord n u) s = .next s) ∧
    (x.edges = e :: rest → e.shaft = false → capsAt256 e.te (s.motion n).caps = none → exec (.latchRecord n u) s = .next s) ∧
    (x.edges = e :: rest → e.shaft = false → capsAt256 e.te (s.motion n).caps = some p → ∃ t, exec (.latchRecord n u) s = .next t ∧
      (t.motion n).latches[u] = { x with edges := rest } ∧ (∀ m, m ≠ n → t.motion m = s.motion m) ∧
      (16 ≤ s.latchWaiting n → t.bit Fld.AX_MSTAT_LATCH_OVF n.val = true ∧ t.funcs = s.funcs) ∧
      (s.latchWaiting n < 16 → t.regs = s.regs ∧ (t.fn e.src.fn).comps = (s.fn e.src.fn).comps ++
        [⟨e.src, 6, 0, 0, e.te, padTo 15 ([BitVec.ofNat 8 n.val, BitVec.ofNat 8 (u.val + if e.falling then 4 else 0), e.dio, 0] ++ leInt 8 p ++
          leBytes 2 e.lseq.toNat), false⟩])))

/-- The line shaft (R243, R244, R246, R247, R352). A receiver stores an accepted sample in its table of 4 entries and counts any other in STALE;
one that comes by DT_k + AGE ends the run of misses; LOSS_N misses in a row declare the loss; the line master puts a sample on each line
port that is up and free every 250 µs and receives it itself. -/
def Obligations.LineShaft : Prop :=
  ∀ (s : State) (p : List Byte) (dtk : Nat), s.Sound →
    let h := s.shaft
    let at_ := 0x1EFF00 + 48 * (h.stored % 4)
    (s.shaftRole = 0 → exec (.shaftSampleRx p) s = .next s) ∧
    (s.shaftRole ≠ 0 → s.shaftAccepts p = false → exec (.shaftSampleRx p) s = .next (s.countSat Fld.GLB_SHAFT_STAT_STALE 0)) ∧
    (s.shaftRole ≠ 0 → s.shaftAccepts p = true → ∃ t, exec (.shaftSampleRx p) s = .next t ∧ t.fld Fld.GLB_SHAFT_STAT_MISS = (if s.now ≤ leAt p 8 8 + s.shaftAge then 0 else s.fld Fld.GLB_SHAFT_STAT_MISS) ∧
      t.shaft.table.head? = some ⟨BitVec.ofNat 16 (leAt p 2 2), leAt p 8 8, (BitVec.ofNat 48 (leAt p 16 8)).toInt, BitVec.ofNat 32 (leAt p 24 4)⟩ ∧
      t.shaft.stored = h.stored + 1 ∧ (4 ≤ h.inRow + 1 → t.bit Fld.GLB_SHAFT_STAT_LOST = false) ∧
      (∀ i, i < 32 → Mem.byte t.shmem (at_ + i) = p.getD i 0) ∧ Mem.load t.shmem (at_ + 32) 8 = s.now ∧
      (∀ b, b < at_ ∨ at_ + 48 ≤ b → Mem.byte t.shmem b = Mem.byte s.shmem b) ∧ s.onlyBits t [Reg.GLB_SHAFT_STAT.spot]) ∧
    (let missed : Prop := s.shaftRole ≠ 0 ∧ dtk % 250000 = 0 ∧ h.judged < dtk ∧ dtk + s.shaftAge ≤ s.now ∧ ∀ k ∈ h.table, k.dt ≠ dtk
     let c := min (s.fld Fld.GLB_SHAFT_STAT_MISS + 1) (2 ^ Fld.GLB_SHAFT_STAT_MISS.width - 1)
     (¬missed → exec (.shaftSampleMiss dtk) s = .next s) ∧
     (missed → ∃ t, exec (.shaftSampleMiss dtk) s = .next t ∧ t.shaft = { h with judged := dtk, inRow := 0 } ∧
        t.fld Fld.GLB_SHAFT_STAT_MISS = c ∧
        (c ≠ s.shaftLossN → t.mot = s.mot ∧ t.funcs = s.funcs ∧ t.engines = s.engines ∧ s.onlyBits t [Fld.GLB_SHAFT_STAT_MISS.spot]) ∧
        (c = s.shaftLossN → t.bit Fld.GLB_SHAFT_STAT_LOST = true ∧ t.bit Fld.GLB_SHAFT_STAT_LOSS_SEEN = true ∧
          ∀ n, s.shaftHead n = true → (t.motion n).queue = []))) ∧
    (s.shaftRole ≠ 2 ∨ 4 ≤ s.now % 250000 → exec .shaftPublish s = .next s) ∧
    (∀ n : AxId, s.shaftRole = 2 → s.now % 250000 < 4 → s.fld Fld.GLB_SHAFT_CFG_SRC_AX = n.val → (∀ o, s.portTaken o = false) →
      ∃ t, exec .shaftPublish s = .next t ∧ t.shaft.txSeq = h.txSeq + 1 ∧ t.wireOut = s.wireOut ++
        ((allFin 2).filter s.portUp).map fun o => (o, (⟨s.shaftDa, s.netMac, true, BitVec.ofNat 12 (s.fld Fld.NET_SHAFT_VID),
          BitVec.ofNat 3 (s.fld Fld.NET_SHAFT_PCP), BitVec.ofNat 16 (s.fld Fld.NET_SHAFT_ETYPE), padTo 42 (s.shaftPayload n), true⟩ : EthFrame)))

/-! ## Rings and functions (09_host_rings.md) -/

/-- DOORBELL (R293), with the device's index X of the other end of the ring. A valid index becomes the host's, and one equal to the index before
has no effect; an invalid one halts the ring with DB_RANGE; a ring that is not ACTIVE ignores it. -/
def Obligations.Doorbells : Prop :=
  ∀ (s : State) (fn : FnId) (ring : RingId) (v : Word), s.Sound → s.legsHeld = false →
    let x := s.ring fn ring
    let n := 2 ^ min 16 (max 4 (s.fld Fld.HIF_RING_CFG_LOG2 fn.val ring.val))
    let far : Nat := if ring = 4 ∨ ring = 5 then (x.devIdx - v).toNat else (v - x.devIdx).toNat
    let valid : Prop := (v - x.hostIdx).toNat ≤ n ∧ far ≤ n
    (s.ringState fn ring ≠ .active → exec (.doorbell fn ring v) s = .next s) ∧
    (s.ringState fn ring = .active → valid → ∃ t, exec (.doorbell fn ring v) s = .next t ∧ t.ring fn ring = { x with hostIdx := v } ∧
      (v = x.hostIdx → t = s) ∧ (∀ q, q ≠ ring → t.ring fn q = s.ring fn q) ∧ (∀ g, g ≠ fn → t.fn g = s.fn g) ∧ t = { s with funcs := t.funcs }) ∧
    (s.ringState fn ring = .active → ¬valid → ∃ t, exec (.doorbell fn ring v) s = .next t ∧ t.ringState fn ring = .halted ∧
      t.fld Fld.HIF_RING_STAT_ERR fn.val ring.val = 1 ∧ t.bit Fld.HIF_FSTAT_RING_ERR fn.val = true ∧ t.ring fn ring = x ∧
      (∀ q, q ≠ ring → t.ringState fn q = s.ringState fn q) ∧ t = { s with funcs := t.funcs, regs := t.regs, hwSet := t.hwSet })

/-- Rings (R294 to R299, R301, R306, R307, R325). Enabling starts an empty ring with both indices 0, or halts it on a base that is not aligned;
disabling ends it. The oldest completion that has space, and the oldest event record, are written where the index stands, which moves on; a
write that cannot be made halts the ring. A vector with enough entries sends its message, or sets its pending bit while masked. A descriptor
is fetched where its ring may and it is the turn of its function (assumption 139); one of the wrong number halts its ring; else the command
is refused by the first check that fails, or accepted, with one completion entry reserved. -/
def Obligations.RingsAndAdmission : Prop :=
  ∀ (s : State) (fn : FnId) (ring : RingId) (c : Fin 4) (vec : Fin 16) (w : Word) (bme sent err : Bool) (k : Comp) (ks : List Comp) (r : EvRec)
    (rs : List EvRec) (desc buf : List Byte), s.Sound → s.legsHeld = false →
    let f := s.fn fn
    let x := s.ring fn ring
    let st := s.ringState fn ring
    let can := sent = true ∧ f.busMaster = true
    let halted (t : State) (q : RingId) (code : Nat) : Prop := t.ringState fn q = .halted ∧ t.fld Fld.HIF_RING_STAT_ERR fn.val q.val = code ∧
      t.bit Fld.HIF_FSTAT_RING_ERR fn.val = true ∧ (q ≠ 5 → s.tells t fn 0x0006 q.val code)
    (Fld.HIF_RING_CFG_EN.get w = 1 → s.fnState fn = .ready →
      (st ≠ .disabled → ∃ t, exec (.ringEnable fn ring w bme) s = .next t ∧ t.ringState fn ring = st ∧ t.ring fn ring = x) ∧
      (st = .disabled → (s.word .HIF_RING_BASE_LO fn.val ring.val).toNat % 4096 ≠ 0 →
        ∃ t, exec (.ringEnable fn ring w bme) s = .next t ∧ halted t ring 2) ∧
      (st = .disabled → (s.word .HIF_RING_BASE_LO fn.val ring.val).toNat % 4096 = 0 → ∃ t, exec (.ringEnable fn ring w bme) s = .next t ∧
        t.ringState fn ring = .active ∧ (t.ring fn ring).hostIdx = 0 ∧ (t.ring fn ring).devIdx = 0 ∧ t.fld Fld.HIF_RING_CFG_EN fn.val ring.val = 1 ∧
        t.fld Fld.HIF_RING_CFG_LOG2 fn.val ring.val = Fld.HIF_RING_CFG_LOG2.get w ∧ t.fld Fld.HIF_RING_STAT_ERR fn.val ring.val = 0 ∧
        (ring ≠ 4 → (t.fn fn).comps = f.comps) ∧
        (ring = 4 → ∃ l, (t.fn fn).comps = l ++ f.comps ∧ l.map (·.src) = (s.pwr.owed.filter fun e => e.src.fn == fn && !e.queued).map (·.src) ∧
          ∀ q ∈ l, q.code = 5 ∧ q.reason = 10))) ∧
    (Fld.HIF_RING_CFG_EN.get w = 0 → s.fnState fn ≠ .absent → ∃ t, exec (.ringDisable fn ring w) s = .next t ∧
      t = { s with regs := t.regs } ∧ t.fld Fld.HIF_RING_CFG_EN fn.val ring.val = 0 ∧
      t.ringState fn ring = if st = .active ∨ st = .halted then .disabled else st) ∧
    (s.ringState fn 4 = .active → f.comps = k :: ks → k.isLatch = false → 0 < s.ringFree fn 4 →
      (can → ∃ t, exec (.completionWrite fn sent) s = .next t ∧ (t.fn fn).comps = ks ∧ (t.ring fn 4).devIdx = (s.ring fn 4).devIdx + 1 ∧
        t.hostOut = s.hostOut ++ [.completion fn (s.ring fn 4).devIdx (k.bytes (s.ring fn 4).phase)] ∧
        (k.reserved = true → t.pwr.order = s.pwr.order.filter fun o => decide (o ≠ k.src))) ∧
      (¬can → ∃ t, exec (.completionWrite fn sent) s = .next t ∧ halted t 4 5 ∧ (t.fn fn).comps = f.comps ∧ t.hostOut = s.hostOut)) ∧
    (s.ringState fn 4 = .active → f.comps = [k] → k.isLatch = true → s.ringFree fn 4 ≤ s.reserved fn →
      exec (.completionWrite fn sent) s = .next s) ∧
    (s.ringState fn 5 = .active → f.evq = r :: rs → f.evDropped = 0 →
      (s.ringFree fn 5 < r.parts → exec (.eventRecordWrite fn sent) s = .next s) ∧
      (r.payload.length = 28 → 0 < s.ringFree fn 5 → can → ∃ t, exec (.eventRecordWrite fn sent) s = .next t ∧ (t.fn fn).evq = rs ∧
        (t.ring fn 5).devIdx = (s.ring fn 5).devIdx + 1 ∧ t.hostOut = s.hostOut ++ [.event fn (s.ring fn 5).devIdx (r.payload ++
          leBytes 2 r.type.toNat ++ [0, if (s.ring fn 5).devIdx.toNat / s.ringSize fn 5 % 2 = 0 then 0x80 else 0])])) ∧
    (s.ringState fn 5 = .active → f.evq = r :: rs → f.evDropped ≠ 0 → 0 < s.ringFree fn 5 → can →
      ∃ t, exec (.eventRecordWrite fn sent) s = .next t ∧ (t.fn fn).evq = f.evq ∧ (t.fn fn).evDropped = 0) ∧
    (let v := f.vecs[vec]
     let due : Prop := max 1 (s.fld Fld.HIF_VMOD_v_CNT fn.val vec.val) ≤ v.pendingEntries ∨
       v.since + 250 * s.fld Fld.HIF_VMOD_v_TIMER fn.val vec.val ≤ s.tick
     let apart : Prop := ∀ u : Fin 16, ∀ m, (f.vecs[u]).lastMsg = some m → m + 250 * s.fld Fld.HIF_QOS0_IRQ_MIN fn.val ≤ s.tick
     let goes : Prop := 0 < v.pendingEntries ∧ due ∧ apart ∧ f.busMaster = true ∧ s.pwr.phase ≠ .powerDown
     let pba (t : State) : Bool := (t.word .HIF_MSIX_PBA fn.val).getLsbD vec.val
     (¬goes → exec (.msixMessage fn vec) s = .next s) ∧
     (goes → s.vecMasked fn vec = true → ∃ t, exec (.msixMessage fn vec) s = .next t ∧ pba t = true ∧ t.hostOut = s.hostOut ∧ t.funcs = s.funcs) ∧
     (goes → s.vecMasked fn vec = false → ∃ t, exec (.msixMessage fn vec) s = .next t ∧ pba t = false ∧ t.hostOut = s.hostOut ++ [.msix fn vec] ∧
       ((t.fn fn).vecs[vec]).pendingEntries = 0 ∧ ((t.fn fn).vecs[vec]).lastMsg = some s.tick)) ∧
    (let q : RingId := ⟨c.val, by omega⟩
     let seq : Word := BitVec.ofNat 32 (leAt desc 0 4)
     let src : CmdSrc := ⟨fn, c, seq⟩
     let last := s.word .HIF_RING_SEQ fn.val c.val
     let s1 := (({ s with fetchLast := fn }.setFn fn { f with fetched := s.tick :: s.recentFetches fn }).advanceRing fn q 1).setWord .HIF_RING_SEQ fn.val c.val seq
     let refused (t : State) (check reason param : Nat) : Prop := t.accepted = s.accepted ∧ (t.fn fn).owed = f.owed ∧ (t.fn fn).comps = f.comps ++
       [⟨src, 2, BitVec.ofNat 8 reason, 0, s.now, padTo 15 ([BitVec.ofNat 8 check, 0] ++ leBytes 2 param), false⟩]
     (desc.length ≠ 64 → exec (.descriptorFetch fn c desc buf err) s = .fault .malformed) ∧
     (desc.length = 64 → s.canFetch fn q = false ∨ s.fetchTurn fn = false → exec (.descriptorFetch fn c desc buf err) s = .next s) ∧
     (desc.length = 64 → s.canFetch fn q = true → s.fetchTurn fn = true →
       (err = true → ∃ t, exec (.descriptorFetch fn c desc buf err) s = .next t ∧ halted t q 3 ∧ t.word .HIF_RING_SEQ fn.val c.val = last) ∧
       (err = false → seq ≠ last + 1 → ∃ t, exec (.descriptorFetch fn c desc buf err) s = .next t ∧ halted t q 4 ∧ (t.fn fn).comps = f.comps ∧
         t.accepted = s.accepted) ∧
       (err = false → seq = last + 1 → ∃ t, exec (.descriptorFetch fn c desc buf err) s = .next t ∧ t.word .HIF_RING_SEQ fn.val c.val = seq ∧
         (t.ring fn q).devIdx = (s.ring fn q).devIdx + 1 ∧ t.fetchLast = fn ∧
         (∀ o, checkOne desc = .inl o → refused t 1 5 o) ∧
         (∀ code, checkOne desc = .inr code →
           (∀ o, s1.checkTwo fn code desc buf = some o → refused t 2 4 o) ∧
           (s1.checkTwo fn code desc buf = none → (∀ o, s1.checkThree code desc buf = some o → refused t 3 5 o) ∧
             (s1.checkThree code desc buf = none → s1.execTime desc < s.now + 40000 → refused t 4 1 8)) ∧
           (s1.failedCheck src code desc buf = none →
             let cmd := buildCmd code desc buf
             let d := s1.deliveryAt cmd (s1.execTime desc)
             t.accepted = s.accepted ++ [⟨src, cmd, d.1⟩] ∧ (t.fn fn).owed = f.owed ++ [src] ∧ t.pwr.order = s.pwr.order ++ [src] ∧
             (t.fn fn).comps = f.comps ++
               [⟨src, 1, 0, 0, d.1, padTo 15 (leBytes 4 d.2.toNat ++ leBytes 4 (s1.movingAxes cmd)), false⟩])))))

/-- Functions and owners (R287 to R291, R308 to R310). A reset of a READY function drains its rings, cancels its commands that are not delivered
and asks for the stop of its moving axes; it ends, all memory of the staging zeroed, after 1,024 ticks at the earliest. A level reset masks
every vector. An ownership change is refused by the first condition that fails; else each resource is zeroed and its owner changes when the
zeroing is done. -/
def Obligations.FunctionsAndOwners : Prop :=
  ∀ (s : State) (by_ fn : FnId) (w : Word) (num : Fin 8) (res : Res) (c : OwnChange) (rest : List OwnChange), s.Sound → s.legsHeld = false →
    let reset (t : State) (g : FnId) : Prop := t.fnState g = .resetting ∧ (∀ r, t.ringState g r = .draining) ∧ (t.fn g).zeroDue = s.tick + 1024 ∧
      (∀ a, a ∈ t.accepted ↔ a ∈ s.accepted ∧ ¬(a.src.fn = g ∧ s.now < a.d)) ∧
      (∀ a ∈ s.accepted, a.src.fn = g → s.now < a.d → ∃ k ∈ (t.fn g).comps, k.src = a.src ∧ k.code = 4) ∧
      (∀ n, s.axisOwner n = g → s.axState n = .run ∨ s.axState n = .hold → (s.failover n).arbStop = none → (t.ax n).stopReq.isSome = true) ∧
      (∀ n, s.axisOwner n ≠ g → t.ax n = s.ax n) ∧ (∀ h, h ≠ g → t.fnState h = s.fnState h) ∧ t.word .HIF_RLOG_CNT g.val = 0
    let frst : Prop := Fld.HIF_FCTL_FRST.get w = 1
    (¬frst ∨ (by_ ≠ fn ∧ by_ ≠ 0) ∨ s.fnState fn = .absent → exec (.functionReset by_ fn w) s = .next s) ∧
    (frst → by_ = fn ∨ by_ = 0 → s.fnState fn = .ready → ∃ t, exec (.functionReset by_ fn w) s = .next t ∧ reset t fn) ∧
    (s.fnState fn = .absent → exec (.functionLevelReset fn) s = .next s) ∧
    (s.fnState fn ≠ .absent → ∃ t, exec (.functionLevelReset fn) s = .next t ∧ (s.fnState fn = .ready → reset t fn) ∧
      (t.fn fn).busMaster = false ∧ ∀ v, t.vecMasked fn v = true) ∧
    (∃ t, exec .vfEnableClear s = .next t ∧ t.fnState 0 = s.fnState 0 ∧
      ∀ g : FnId, g ≠ 0 → s.fnState g = .ready → t.fnState g = .resetting ∧ (t.fn g).vanish = true) ∧
    (∃ t, exec (.vfEnableSet num) s = .next t ∧ ∀ g : FnId,
      (g ≠ 0 → g.val ≤ num.val → s.fnState g = .absent → t.fnState g = .ready ∧ (t.fn g).comps = [] ∧ (t.fn g).evq = []) ∧
      (¬(g ≠ 0 ∧ g.val ≤ num.val ∧ s.fnState g = .absent) → t.fnState g = s.fnState g ∧ t.fn g = s.fn g)) ∧
    (s.fnState fn ≠ .resetting ∨ s.tick < (s.fn fn).zeroDue ∨ s.stopsWait fn = true → exec (.functionResetEnd fn) s = .next s) ∧
    (s.fnState fn = .resetting → (s.fn fn).zeroDue ≤ s.tick → s.stopsWait fn = false → s.compOpen fn = false →
      let lost := (s.fn fn).comps.filter fun k => k.code == 4
      ∃ t, exec (.functionResetEnd fn) s = .next t ∧ t.fnState fn = (if (s.fn fn).vanish then .absent else .ready) ∧
        (∀ r, t.ringState fn r = .disabled) ∧ t.bit Fld.HIF_FSTAT_RST_DONE fn.val = true ∧ (t.fn fn).comps = [] ∧ (t.fn fn).evq = [] ∧
        (lost ≠ [] → t.fld Fld.HIF_RLOG_CNT_CNT fn.val = min 65535 lost.length)) ∧
    (fn ≠ 0 ∨ s.bit Fld.HIF_OWN_CTL_BUSY = true → exec (.ownApply fn) s = .next s) ∧
    (s.bit Fld.HIF_OWN_CTL_BUSY = false →
      let l := s.ownStaged
      let turning (r : Res) : Prop := s.fnState (s.ownerOf r) = .resetting ∨ s.fnState (s.stagedOwner r) = .resetting
      (∀ why, s.ownCheck l = some why → ∃ t, exec (.ownApply 0) s = .next t ∧ t = { s with regs := t.regs, hwSet := t.hwSet } ∧ t.bit Fld.HIF_OWN_CTL_REJ = true ∧
        t.fld Fld.HIF_OWN_CTL_REJ_WHY = why ∧ s.onlyBits t [Fld.HIF_OWN_CTL_REJ.spot, Fld.HIF_OWN_CTL_REJ_WHY.spot]) ∧
      ((∃ r ∈ l, turning r) → s.ownCheck l = some 5) ∧
      ((∀ r ∈ l, ¬turning r) → (∃ n, .axis n ∈ l ∧ s.axState n ≠ .off) → s.ownCheck l = some 1) ∧
      (l = [] → ∃ t, exec (.ownApply 0) s = .next t ∧ t.bit Fld.HIF_OWN_CTL_DONE = true ∧ s.onlyBits t [Fld.HIF_OWN_CTL_DONE.spot]) ∧
      (l ≠ [] → s.ownCheck l = none → ∃ t, exec (.ownApply 0) s = .next t ∧ t.bit Fld.HIF_OWN_CTL_BUSY = true ∧ (∀ r, t.ownerOf r = s.ownerOf r) ∧
        t.fb = s.fb ∧ t.accepted = s.accepted ∧ t.ownChanges.map (·.res) = l ∧
        (∀ k ∈ t.ownChanges, s.tick < k.due ∧ k.to_.toNat = (s.stagedOwner k.res).val) ∧
        (∀ n : AxId, .axis n ∈ l → ∀ i, i < 0x4000 → Mem.byte t.shmem (0x100000 + 0x4000 * n.val + i) = 0))) ∧
    ((∀ k ∈ s.ownChanges, k.res ≠ res) → exec (.ownershipZeroingDone res) s = .next s) ∧
    (s.ownChanges = c :: rest → c.res = res → (∀ k ∈ rest, k.res ≠ res) → c.to_.toNat < 8 →
      (s.tick < c.due → exec (.ownershipZeroingDone res) s = .next s) ∧
      (c.due ≤ s.tick → ∃ t, exec (.ownershipZeroingDone res) s = .next t ∧ t.ownChanges = rest ∧ (t.ownerOf res).val = c.to_.toNat ∧
        (∀ r, r ≠ res → t.ownerOf r = s.ownerOf r) ∧
        (rest = [] → t.bit Fld.HIF_OWN_CTL_BUSY = false ∧ t.bit Fld.HIF_OWN_CTL_DONE = true) ∧
        (rest ≠ [] → t.bit Fld.HIF_OWN_CTL_BUSY = s.bit Fld.HIF_OWN_CTL_BUSY)))

/-! ## Time and network (11_time_network.md) -/

/-- Samples of time (R332 to R341) in native mode without automatic selection. A valid sample of the domain in force within STEP_TH drives the
servo, I' = I + KI θ and RATE = I' + KP θ, both clamped, and 8 in a row, the one that enters LOCKING with them, lead to LOCKED; beyond
STEP_TH DT is set from FREE with STEP_EN, else the rate slews; an invalid sample, on a port that is not asCapable, moves OFS alone. In 2412
mode a far sample is refused, and the third in a row leads to HOLDOVER. A grandmaster's own domain is valid with θ = 0; a lost selected
domain leads to HOLDOVER. -/
def Obligations.TimeSamples : Prop :=
  ∀ (s : State) (d : Fin 2) (th : Int) (pt : PortId), s.Sound → s.bit Fld.TB_CFG_AUTO = false → s.selDomain = d → s.domInForce = d →
    let i := max (-4294967) (min 4294967 (s.time.integ + s.fld Fld.TB_SERVO_KI * th))
    let run := if s.timeState = .locking ∨ s.timeState = .locked then s.time.lockRun + 1 else 1
    let near : Prop := th.natAbs ≤ (s.stepTh).natAbs
    let word (v : Int) : Word := BitVec.ofInt 32 (max (-4294967) (min 4294967 v))
    let ofs (t : State) : Prop := t.word .TB_DOMd_OFS d.val = BitVec.ofInt 32 (max (-2147483648) (min 2147483647 th))
    (s.mode2412 = false ∨ d = 0 → ∃ t, exec (.syncSample d th pt false) s = .next t ∧ ofs t ∧ (t.dom d).validRun = 0 ∧ t.time = s.time ∧
      t.funcs = s.funcs ∧ t.bit Fld.NET_PORTp_CFG_AS_CAP pt.val = false ∧
      s.onlyBits t [Reg.TB_DOMd_OFS.spot d.val, Fld.NET_PORTp_CFG_AS_CAP.spot pt.val]) ∧
    (s.mode2412 = false → near → s.timeState ≠ .slewing → ∃ t, exec (.syncSample d th pt true) s = .next t ∧ ofs t ∧ t.time.integ = i ∧
      t.word .TB_RATE = word (i + s.fld Fld.TB_SERVO_KP * th) ∧ t.time.lockRun = run ∧ t.bit Fld.NET_PORTp_CFG_AS_CAP pt.val = true ∧
      t.timeState = (if s.timeState = .locked ∨ s.timeState = .locking ∧ 8 ≤ run then .locked else .locking) ∧
      (1 ≤ (s.dom d).validRun → t.domValid d = true) ∧ t.time.dtSetPend = s.time.dtSetPend) ∧
    (s.mode2412 = false → ¬near → ∃ t, exec (.syncSample d th pt true) s = .next t ∧ ofs t ∧
      ((s.timeState = .free ∨ s.timeState = .holdover) → s.bit Fld.TB_CFG_STEP_EN = true → s.setAllowed = true →
        t.time.dtSetPend = some (s.dt + 4 + BitVec.ofInt 64 th) ∧ t.timeState = .locking ∧ t.bit Fld.TB_QUAL_STEPPED = true) ∧
      ((s.timeState ≠ .free ∧ s.timeState ≠ .holdover ∨ s.bit Fld.TB_CFG_STEP_EN = false ∨ s.setAllowed = false) →
        t.timeState = .slewing ∧ t.time.dtSetPend = s.time.dtSetPend ∧ t.time.integ = s.time.integ ∧
        t.word .TB_RATE = word (s.time.integ + t.drift d + (if th < 0 then -1 else 1) *
          ((min 100 (max 1 (s.fld Fld.TB_CFG_SLEW_PPM)) * 2 ^ 34 / 1000000 : Nat) : Int)))) ∧
    (s.mode2412 = true → d = 0 → ¬near → s.timeState = .locked ∨ s.timeState = .locking → ∃ t, exec (.syncSample d th pt true) s = .next t ∧
      t.time.refusals = s.time.refusals + 1 ∧ t.time.dtSetPend = s.time.dtSetPend ∧
      t.fld Fld.TB_QUAL_REFUSED = min (s.fld Fld.TB_QUAL_REFUSED + 1) (2 ^ Fld.TB_QUAL_REFUSED.width - 1) ∧
      (s.time.refusals + 1 < 3 → t.timeState = s.timeState ∧ t.word .TB_RATE = s.word .TB_RATE) ∧
      (3 ≤ s.time.refusals + 1 → t.timeState = .holdover ∧ t.bit Fld.TB_QUAL_JUMP_PEND = true ∧ t.word .TB_RATE = word s.time.integ)) ∧
    (s.bit (if d = 0 then Fld.NET_PTP_GM0 else Fld.NET_PTP_GM1) = true → s.mode2412 = false ∨ d = 0 →
      ∃ t, exec (.syncInterval d) s = .next t ∧ (t.dom d).gm = true ∧ (t.dom d).theta = 0 ∧ t.domValid d = true ∧ t.word .TB_DOMd_OFS d.val = 0) ∧
    (s.bit (if d = 0 then Fld.NET_PTP_GM0 else Fld.NET_PTP_GM1) = false → exec (.syncInterval d) s = .next s) ∧
    (let lost : Prop := (s.dom d).gm = false ∧ (s.dom d).lost = false ∧ (s.dom d).lastTick + s.syncLoss ≤ s.tick ∧ (s.mode2412 = false ∨ d = 0)
     (¬lost → exec (.domainLost d) s = .next s) ∧
     (lost → ∃ t, exec (.domainLost d) s = .next t ∧ (t.dom d).lost = true ∧ t.domValid d = false ∧
        (s.timeState = .locking ∨ s.timeState = .locked ∨ s.timeState = .slewing → t.timeState = .holdover ∧
          t.word .TB_RATE = word s.time.integ) ∧
        (s.timeState = .free ∨ s.timeState = .holdover → t.timeState = s.timeState ∧ t.time = s.time)))

/-- Setting and showing DT (R331, R337, R341 to R343). A write of TB_SET_HI sets DT in the next tick while every carrier is stopped and no
command is pending, else it is ignored with SET_REJ; TIME_ACCEPT of a pending jump sets DT likewise, else slews; BOUND is recomputed at
whole milliseconds; TPO rises at multiples of its period and falls after its width. -/
def Obligations.DeviceTime : Prop :=
  ∀ (s : State) (w : Word) (src : CmdSrc) (d : Nat), s.Sound →
    let a : Accepted := ⟨src, .timeAccept, d⟩
    let cap (v : Nat) : Nat := min 0xFFFFFFFF v
    (s.Open → s.setAllowed = true → ∃ t, exec (.dtSet 0 w) s = .next t ∧ t.time.dtSetPend = some (w ++ s.word .TB_SET_LO) ∧ t.dt = s.dt ∧
      t.bit Fld.TB_QUAL_STEPPED = true ∧ t.word .TB_SET_HI = w ∧ s.onlyBits t [Reg.TB_SET_HI.spot, Fld.TB_QUAL_STEPPED.spot]) ∧
    (s.Open → s.setAllowed = false → exec (.dtSet 0 w) s = .next (s.setBit Fld.TB_QUAL_SET_REJ 0 true)) ∧
    (s.Due a →
      (s.mode2412 = true → s.bit Fld.TB_QUAL_JUMP_PEND = true → ∃ t, exec (.timeAccept src) s = .next t ∧ s.ends t a 3 0 0 [] ∧
        t.bit Fld.TB_QUAL_JUMP_PEND = false ∧ t.time.refusals = 0 ∧
        (s.accepted = [a] → (∀ b, (s.bnk b).carrier = .stopped) → t.time.dtSetPend = some (s.dt + 4 + BitVec.ofInt 64 (s.dom 0).theta) ∧
          t.timeState = s.timeState) ∧
        ((∃ b, (s.bnk b).carrier ≠ .stopped) → t.timeState = .slewing ∧ t.time.dtSetPend = s.time.dtSetPend)) ∧
      (s.mode2412 = false ∨ s.bit Fld.TB_QUAL_JUMP_PEND = false → ∃ t, exec (.timeAccept src) s = .next t ∧ s.ends t a 3 0 0 [] ∧
        t = { s with accepted := t.accepted, funcs := t.funcs })) ∧
    (4 ≤ s.now % 1000000 → exec .timeBoundUpdate s = .next s) ∧
    (s.now % 1000000 < 4 → ∃ t, exec .timeBoundUpdate s = .next t ∧ s.onlyBits t [Fld.TB_ERR_BOUND.spot] ∧
      (s.timeState = .free → t.fld Fld.TB_ERR_BOUND = 0xFFFFFFFF) ∧
      (s.timeState = .slewing → t.fld Fld.TB_ERR_BOUND = cap ((s.dom s.domInForce).theta.natAbs + 40)) ∧
      (s.timeState = .locked ∨ s.timeState = .locking → ∀ k ∈ (s.dom s.domInForce).samples, cap (k.2.natAbs + 40) ≤ t.fld Fld.TB_ERR_BOUND) ∧
      (s.timeState = .holdover → cap s.time.e0 ≤ t.fld Fld.TB_ERR_BOUND)) ∧
    (let on : Prop := s.bit Fld.TB_TPO_EN = true ∧ (s.timeState ≠ .free ∨ s.bit Fld.TB_TPO_FREE_RUN = true)
     let at_ := s.now - s.now % s.tpoPeriod
     (s.time.tpoHigh = none → on → s.now % s.tpoPeriod < 4 →
       exec .tpoPulse s = .next { s with time := { s.time with tpoHigh := some (at_ + s.tpoWidth) } }) ∧
     (s.time.tpoHigh = none → ¬on ∨ 4 ≤ s.now % s.tpoPeriod → exec .tpoPulse s = .next s) ∧
     (∀ u, s.time.tpoHigh = some u → (u ≤ s.now ∨ ¬on → exec .tpoPulse s = .next { s with time := { s.time with tpoHigh := none } }) ∧
       (s.now < u → on → exec .tpoPulse s = .next s)))

/-- Links and frames from the lines (R344 to R346, R353). A link carries traffic at 1000 Mbit/s only, and each change is reported. A frame's
source is learnt; a unicast frame goes to the other line port, none back to where it came from, and waits there while that port sends; a
frame to the device is written to the receive buffer of F0 as one header and its octets. An address that is not renewed is removed after
AGE_S. -/
def Obligations.LinksAndFrames : Prop :=
  ∀ (s : State) (p : PortId) (f : EthFrame) (up speedOk full : Bool) (mac : BitVec 48), s.Sound →
    let o := otherPort p
    let plain : Prop := s.portUp p = true ∧ 64 ≤ wireLen f ∧ wireLen f ≤ 1522 ∧ isPause f = false ∧ isGptp f = false ∧ s.isShaft f = false ∧
      f.fcsOk = true
    (∃ t, exec (.link p up speedOk) s = .next t ∧ t.bit Fld.NET_PORTp_CFG_LINK p.val = (up && speedOk) ∧
      t.bit Fld.NET_PORTp_CFG_SPEED_BAD p.val = (up && !speedOk) ∧
      ((up && speedOk) = false → t.bit Fld.NET_PORTp_CFG_AS_CAP p.val = false ∧ (t.port p).wait = []) ∧
      s.tells t 0 0x0023 p.val (if up then if speedOk then 1 else 2 else 0) ∧
      ((s.port p).wait = [] → s.onlyBits t [Reg.NET_PORTp_CFG.spot p.val, Fld.HIF_FSTAT_EVT_DROP.spot])) ∧
    (s.portUp p = false → exec (.frameRx p f full) s = .next s) ∧
    (plain → f.da ≠ s.netMac → isGroup f.da = false → f.da ≠ f.sa → s.portUp o = true → full = false →
      let w : WaitFrame := ⟨if f.tagged then f.pcp.toNat else 0, f, none, false⟩
      let x := s.port o
      let quiet (t : State) : Prop := t.funcs = s.funcs ∧ t.regs = s.regs
      ∃ t, exec (.frameRx p f full) s = .next t ∧ t.hostOut = s.hostOut ∧
        (s.fdbLookup f.da = some p → quiet t ∧ t.wireOut = s.wireOut ∧ t.ports = s.ports) ∧
        (s.fdbLookup f.da ≠ some p →
          (x.wait = [] → x.busy ≤ s.tick → (s.learn f.sa p).mayStart o w = true → quiet t ∧ t.wireOut = s.wireOut ++ [(o, f)] ∧
            (t.port o).busy = s.tick + wireTicks f ∧ (t.port o).wait = []) ∧
          (s.tick < x.busy → quiet t ∧ t.wireOut = s.wireOut ∧ (t.port o).wait = x.wait ++ [w])) ∧
        (isGroup f.sa = false → f.sa ≠ s.netMac → (s.fdb.filter fun e => e.mac != f.sa).length < 1024 → t.fdbLookup f.sa = some p)) ∧
    (plain → f.da = s.netMac → s.bit Fld.NET_RXB_CFG_EN = true → s.bit Fld.NET_RXB_CFG_NOTE = false → (s.fn 0).busMaster = true → s.rx.drops = 0 →
      let l := frameBytes f
      let need := 16 + (l.length + 15) / 16 * 16
      let size := 2 ^ (min 12 (max 4 (s.fld Fld.NET_RXB_CFG_LOG2KB))) * 1024
      let wr := s.fld Fld.NET_RXB_WR_WR
      let base := s.fld Fld.NET_RXB_BASE_HI_BASE * 2 ^ 32 + s.fld Fld.NET_RXB_BASE_LO_BASE * 2 ^ 12
      wr % size + need ≤ size → (wr + 2 ^ 32 - s.fld Fld.NET_RXB_RD_RD) % 2 ^ 32 + need ≤ size →
      ∃ t, exec (.frameRx p f full) s = .next t ∧ t.wireOut = s.wireOut ∧ t.rx.seq = s.rx.seq + 1 ∧ t.rx.drops = 0 ∧
        t.fld Fld.NET_RXB_WR_WR = (wr + need) % 2 ^ 32 ∧ t.funcs = s.funcs ∧
        t.hostOut = s.hostOut ++ [.netFrame 0 (BitVec.ofNat 64 (base + wr % size)) (leBytes 8 s.now ++ leBytes 2 l.length ++ leBytes 1 p.val ++ [0] ++
          leBytes 4 s.rx.seq.toNat ++ padTo (need - 16) l)]) ∧
    (s.fld Fld.NET_FDB_AGE_S = 0 → exec (.addressAgeing mac) s = .next s) ∧
    (s.fld Fld.NET_FDB_AGE_S ≠ 0 → ∃ t, exec (.addressAgeing mac) s = .next t ∧
      ∀ e, e ∈ t.fdb ↔ e ∈ s.fdb ∧ (e.mac = mac → s.tick < e.seen + s.fld Fld.NET_FDB_AGE_S * 250000000))

/-- Gate lists and transmit queues (R318, R347 to R351). COMMIT sets the change time to the first BASE + k × CYC at least 10 µs ahead, and one
that awaits its change makes another an error; at the change the staged bank is in force. NET_TX joins its queue, and without launch time
starts at once on each egress port that is idle and where its gate and the launch-time guards allow it; at its launch time a frame is sent
on its egress ports whose gate is open to its end and that carry no other frame; a late frame of a queue that drops ends with FAULT,
NET_DROP. A frame that its ports have finished with is DONE with the DT of its start. When frames start is the model's reading (assumption
142). -/
def Obligations.GatesAndQueues : Prop :=
  ∀ (s : State) (p : PortId) (w : Word) (src : CmdSrc) (qb : BitVec 8) (bytes : List Byte) (d sfd : Nat) (q : TxqId) (f : TxFrame) (rest : List TxFrame)
    (y : TxSent), s.Sound →
    let i := p.val
    let base := s.fld Fld.NET_GCLp_BASE_HI_BASE i * 2 ^ 32 + s.fld Fld.NET_GCLp_BASE_LO_BASE i
    let cyc := min 1000000000 (max 8000 (s.fld Fld.NET_GCLp_CYC_CYC i))
    let x := s.txq q
    let fr := s.queueFrame q f.bytes
    let cls := s.queueClass q fr
    let ports := s.egress q fr
    let a : Accepted := ⟨src, .netTx qb bytes, d⟩
    let nf := s.queueFrame q bytes
    let nports := s.egress q nf
    let gone (t : State) : Prop := (t.txq q).frames = rest ∧ (∀ k, k ≠ q → t.txq k = s.txq k) ∧ t.wireOut = s.wireOut
    let ended (t : State) (code reason flags : BitVec 8) (dt : Nat) (data : List Byte) : Prop :=
      (t.fn f.src.fn).comps = (s.fn f.src.fn).comps ++ [⟨f.src, code, reason, flags, dt, padTo 15 data, true⟩]
    (s.Open → Fld.NET_GCLp_CTL_COMMIT.get w = 1 → s.bit Fld.NET_GCLp_CTL_PEND i = false → ∃ t, exec (.gclCommit 0 p w) s = .next t ∧
      t.bit Fld.NET_GCLp_CTL_PEND i = true ∧ (t.port p).oper = (s.port p).oper ∧ (t.port p).gates = (s.port p).gates ∧
      ∃ at_ k, (t.port p).change = some (at_, ⟨Fld.NET_GCLp_CTL_EN.get w == 1, Fld.NET_GCLp_CTL_LEN.get w + 1, base, cyc⟩) ∧ at_ = base + k * cyc ∧
        s.now + 10000 ≤ at_ ∧ (k ≠ 0 → base + (k - 1) * cyc < s.now + 10000)) ∧
    (s.Open → Fld.NET_GCLp_CTL_COMMIT.get w = 1 → s.bit Fld.NET_GCLp_CTL_PEND i = true → ∃ t, exec (.gclCommit 0 p w) s = .next t ∧
      t.bit Fld.NET_GCLp_CTL_ERR i = true ∧ t.ports = s.ports ∧ s.onlyBits t [Fld.NET_GCLp_CTL_ERR.spot i]) ∧
    (∀ at_ g, (s.port p).change = some (at_, g) → (s.now < at_ → exec (.gclChange p) s = .next s) ∧
      (at_ ≤ s.now → ∃ t, exec (.gclChange p) s = .next t ∧ (t.port p).operSet = g ∧ (t.port p).change = none ∧
        (t.port p).oper = s.gclEntries p (1 - s.fld Fld.NET_GCLp_CTL_OPER_BANK i) g.len ∧ t.bit Fld.NET_GCLp_CTL_OPER_EN i = g.on ∧
        t.fld Fld.NET_GCLp_CTL_OPER_BANK i = 1 - s.fld Fld.NET_GCLp_CTL_OPER_BANK i ∧ t.bit Fld.NET_GCLp_CTL_PEND i = false ∧
        (g.on = false → (t.port p).gates = 0xFF) ∧ (∀ o, o ≠ p → t.port o = s.port o))) ∧
    ((s.port p).change = none → exec (.gclChange p) s = .next s) ∧
    (((s.port p).operSet.on = false ∨ s.now < (s.port p).curEnd → exec (.gateStateChange p) s = .next s) ∧
      ((s.port p).operSet.on = true → (s.port p).curEnd ≤ s.now → (s.port p).operSet.base ≤ s.now → ∃ t, exec (.gateStateChange p) s = .next t ∧
        ((s.port p).wait = [] → t = { s with ports := t.ports }) ∧
        (t.port p).gates = (gclAt (s.port p).operSet.cycle (s.port p).oper 0 ((s.now - (s.port p).operSet.base) % (s.port p).operSet.cycle)).1)) ∧
    (qb.toNat = q.val → s.Due a → (∀ g ∈ x.frames, g.src ≠ src) →
      (s.launches q = true → ∃ t, exec (.netTx src qb bytes) s = .next t ∧ s.taken_ t a ∧ (t.txq q).frames = x.frames ++ [⟨src, bytes, d, false, [], []⟩] ∧
        (∀ k, k ≠ q → t.txq k = s.txq k) ∧ t.funcs = s.funcs ∧ t.ports = s.ports ∧ t.wireOut = s.wireOut ∧ s.onlyBits t [Fld.NET_TXQq_STAT_DEPTH.spot q.val]) ∧
      (s.launches q = false → nports ≠ [] → (∀ o ∈ nports, s.portUp o = true ∧ (s.port o).wait = [] ∧ (s.port o).busy ≤ s.tick ∧
          s.mayStart o ⟨s.queueClass q nf, nf, some (q, src), false⟩ = true) →
        ∃ t, exec (.netTx src qb bytes) s = .next t ∧ s.taken_ t a ∧ t.wireOut = s.wireOut ++ nports.map (fun o => (o, nf)) ∧
          (t.txq q).frames = x.frames ++ [⟨src, bytes, d, true, [], nports.map fun o => ⟨o, s.tick + wireTicks nf, false⟩⟩] ∧
          (∀ o ∈ nports, (t.port o).busy = s.tick + wireTicks nf) ∧ (∀ k, k ≠ q → t.txq k = s.txq k) ∧ t.funcs = s.funcs ∧
          s.onlyBits t [Fld.NET_TXQq_STAT_DEPTH.spot q.val]) ∧
      (s.launches q = false → nports = [] → ∃ t, exec (.netTx src qb bytes) s = .next t ∧ s.ends t a 5 9 0 [] ∧
        (t.txq q).frames = x.frames ∧ t.ports = s.ports ∧ t.wireOut = s.wireOut)) ∧
    (x.frames = [] ∨ s.launches q = false ∨ x.frames = f :: rest ∧ f.joined = false ∧ s.now < f.d → exec (.launchTime q) s = .next s) ∧
    (x.frames = f :: rest → (∀ g ∈ rest, g.src ≠ f.src) → f.joined = false → f.todo = [] → f.sent = [] → s.launches q = true → f.d ≤ s.now →
      ports ≠ [] → (∀ o ∈ ports, s.portUp o = true) →
      (s.now ≤ f.d + 8 → (∀ o ∈ ports, (s.port o).busy ≤ s.tick + 2 ∧ s.portHeld q o f.d = false ∧ (s.port o).gates.getLsbD cls = true ∧
          s.gateAdmits o cls f.d fr = true ∧ ∀ v ∈ (s.port o).wait, v.src.map Prod.fst ≠ some q) →
        ∃ t, exec (.launchTime q) s = .next t ∧ t.wireOut = s.wireOut ++ ports.map (fun o => (o, fr)) ∧ t.funcs = s.funcs ∧ t.regs = s.regs ∧
          (t.txq q).frames = { f with joined := true, sent := ports.map fun o => ⟨o, s.tick + wireTicks fr - 16, false⟩ } :: rest) ∧
      (f.d + 8 < s.now ∨ (∀ o ∈ ports, (s.port o).gates.getLsbD cls = false) → s.bit Fld.NET_TXQq_CFG_LATE_POL q.val = false →
        ∃ t, exec (.launchTime q) s = .next t ∧ gone t ∧ ended t 5 9 0 f.d [] ∧
          t.fld Fld.NET_TXQq_STAT_LATE q.val = min (s.fld Fld.NET_TXQq_STAT_LATE q.val + ports.length) (2 ^ Fld.NET_TXQq_STAT_LATE.width - 1))) ∧
    ((∀ g ∈ x.frames, g.joined = false ∨ g.todo ≠ [] ∨ ∃ z ∈ g.sent, s.tick < z.ends) → exec (.frameTxDone q sfd) s = .next s) ∧
    (x.frames = f :: rest → (∀ g ∈ rest, g.src ≠ f.src) → f.joined = true → f.todo = [] → y ∈ f.sent →
      (∀ z ∈ f.sent, z.ends ≤ s.tick ∧ y.port ≤ z.port ∧ (z.port = y.port → z = y)) →
      ∃ t, exec (.frameTxDone q sfd) s = .next t ∧ gone t ∧
        ended t 3 0 (if y.late then 32 else 0) s.now (leBytes 8 (if s.launches q = true ∧ y.late = false then f.d else sfd)))

/-! ## CAN and field I/O (12_can.md, 13_dio.md) -/

/-- Frames of a CAN controller (R364 to R369). CAN_TX joins the transmit buffer, or is aborted in bus-off. A frame sent ends DONE with the DT of
its start, and a loopback controller receives it; one that loses arbitration is tried again until its attempts are used up, then aborted. A
received frame that the filters accept joins the FIFO of 64, else it is counted, and the oldest is written to the owner's buffer. A protocol
error shows its kind and raises TEC by 8 or REC by 1; a TEC above 255 is bus-off, which aborts every waiting frame. How the counters follow
further error rules is ISO 11898-1's (assumption 44). -/
def Obligations.CanFrames : Prop :=
  ∀ (s : State) (src : CmdSrc) (cb fmt dlc : BitVec 8) (id : BitVec 32) (data : List Byte) (d : Nat) (c : CanId) (f : CanFrame) (sof dly : Nat) (e : CanTxEnt)
    (kind : Fin 8) (r : CanRxEnt) (rest : List CanRxEnt), s.Sound →
    let i := c.val
    let x := s.can c
    let m := s.canModeNow c
    let tec := s.fld Fld.CAN_ECNT_TEC i
    let rcc := s.fld Fld.CAN_ECNT_REC i
    let others (t : State) : Prop := ∀ k, k ≠ c → t.can k = s.can k
    let ended (t : State) (a : CmdSrc) (code reason : BitVec 8) (data : List Byte) : Prop :=
      (t.fn a.fn).comps = (s.fn a.fn).comps ++ [⟨a, code, reason, 0, s.now, padTo 15 data, true⟩]
    let aborted (t : State) : Prop := t.fld Fld.CAN_CNT_TXABORT i = min (s.fld Fld.CAN_CNT_TXABORT i + 1) 65535
    let a : Accepted := ⟨src, .canTx cb fmt dlc id data, d⟩
    (cb.toNat = i → s.Due a → (s.canBusOff c = false → ∃ t, exec (.canTx src cb fmt dlc id data) s = .next t ∧ s.taken_ t a ∧ others t ∧
        t.can c = { x with txBuf := x.txBuf ++ [⟨src, s.canFrameOf c fmt dlc id data, 0, s.tick⟩] } ∧ t.funcs = s.funcs ∧ t.regs = s.regs) ∧
      (s.canBusOff c = true → ∃ t, exec (.canTx src cb fmt dlc id data) s = .next t ∧ s.ends t a 5 8 0 [] ∧ t.cans = s.cans ∧ aborted t)) ∧
    (m = 1 ∨ m = 4 → s.canBusOff c = false → tec ≤ 255 → x.orphan = none → bestFrame x.txBuf sof = some e → e ∈ x.txBuf ∧
      (∀ y ∈ x.txBuf, y.at_ ≤ sof → canKey e.frame ≤ canKey y.frame) ∧
      (∃ t, exec (.canTxDone c sof dly) s = .next t ∧ others t ∧ (t.can c).txBuf = x.txBuf.filter (fun y => decide (y ≠ e)) ∧
        t.fld Fld.CAN_ECNT_TEC i = tec - 1 ∧ ended t e.src 3 0 (leBytes 8 (s.dtAt sof)) ∧ (m = 1 → (t.can c).rxFifo = x.rxFifo) ∧
        (m = 4 → ∀ k, s.canFilter c e.frame = some k → x.rxFifo.length < 64 → (t.can c).rxFifo = x.rxFifo ++ [⟨e.frame, s.dtAt sof, k, true⟩])) ∧
      (let n := s.fld Fld.CAN_CFG_RETRY i
       (n = 0 ∨ e.attempts < n → ∃ t, exec (.canArbitrationLost c sof) s = .next t ∧ others t ∧ t.funcs = s.funcs ∧ t.regs = s.regs ∧
          (t.can c).txBuf = x.txBuf.map fun y => if y = e then { y with attempts := y.attempts + 1 } else y) ∧
       (0 < n → n ≤ e.attempts → ∃ t, exec (.canArbitrationLost c sof) s = .next t ∧ others t ∧ aborted t ∧ ended t e.src 5 8 [] ∧
          (t.can c).txBuf = x.txBuf.filter fun y => decide (y ≠ e)))) ∧
    (kind.val ≠ 0 → kind.val ≠ 7 → m = 1 ∨ m = 4 → s.canBusOff c = false → tec ≤ 255 →
      (∀ extra, ∃ t, exec (.canBusError c kind false sof extra) s = .next t ∧ others t ∧ t.fld Fld.CAN_STAT_ERRC i = kind.val ∧
        t.fld Fld.CAN_ECNT_TEC i = tec ∧ t.fld Fld.CAN_ECNT_REC i = min (rcc + 1 + 8 * extra) 255 ∧ (t.can c).txBuf = x.txBuf) ∧
      (kind.val ≠ 6 → ∀ extra, ∃ t, exec (.canBusError c kind true sof extra) s = .next t ∧ others t ∧ t.fld Fld.CAN_STAT_ERRC i = kind.val ∧
        t.fld Fld.CAN_ECNT_TEC i = min (tec + 8 + 8 * extra) 511 ∧ t.fld Fld.CAN_ECNT_REC i = rcc ∧
        (255 < tec + 8 + 8 * extra → t.fld Fld.CAN_STAT_ESTATE i = 2 ∧ (t.can c).txBuf = []))) ∧
    ((m = 1 ∨ m = 2 ∨ m = 3) → s.canBusOff c = false → (f.fdf = true → s.bit Fld.CAN_CFG_FD_EN i = true) →
      ∃ t, exec (.canFrameRx c f sof) s = .next t ∧ others t ∧ t.fld Fld.CAN_ECNT_TEC i = (if m = 1 then min tec 511 else tec) ∧
        (m ≠ 1 → t.fld Fld.CAN_ECNT_REC i = rcc) ∧ (m = 1 → rcc ≤ 127 → t.fld Fld.CAN_ECNT_REC i = rcc - 1) ∧
        (s.canFilter c f = none → (t.can c).rxFifo = x.rxFifo ∧ (t.can c).rxDrops = x.rxDrops) ∧
        (∀ k, s.canFilter c f = some k → x.rxFifo.length < 64 → (t.can c).rxFifo = x.rxFifo ++ [⟨f, s.dtAt sof, k, false⟩]) ∧
        (∀ k, s.canFilter c f = some k → 64 ≤ x.rxFifo.length → (t.can c).rxFifo = x.rxFifo ∧ (t.can c).rxDrops = x.rxDrops + 1 ∧
          t.fld Fld.CAN_CNT_RXDROP i = min (s.fld Fld.CAN_CNT_RXDROP i + 1) 65535)) ∧
    ((m = 0 ∨ m = 4 ∨ s.canBusOff c = true) → exec (.canFrameRx c f sof) s = .next s) ∧
    (x.rxFifo = r :: rest → s.bit Fld.CAN_RXB_CFG_EN i = true → (s.fn (s.canOwner c)).busMaster = true → ∃ t, exec (.canRxWrite c) s = .next t ∧ others t ∧
      t.can c = { x with rxFifo := rest, rxDrops := 0 } ∧ t.fld Fld.CAN_RXB_WR_WR i = (s.fld Fld.CAN_RXB_WR_WR i + 1) % 2 ^ 32 ∧
      t.hostOut = s.hostOut ++ [.canFrame (s.canOwner c) (BitVec.ofNat 64 (s.fld Fld.CAN_RXB_BASE_HI_BASE i * 2 ^ 32 +
        s.fld Fld.CAN_RXB_BASE_LO_BASE i * 2 ^ 12 + 96 * (s.fld Fld.CAN_RXB_WR_WR i % 2 ^ s.canLog2 c))) (r.bytes (s.fld Fld.CAN_RXB_WR_WR i))]) ∧
    (x.rxFifo = [] ∨ s.bit Fld.CAN_RXB_CFG_EN i = false → exec (.canRxWrite c) s = .next s)

/-- Modes and recovery of a CAN controller (R361 to R363, R370). A mode change waits, and when it is reached STOPPED, LISTEN_ONLY and RESTRICTED
abort the waiting frames; in bus-off only STOPPED is taken. CAN_RECOVER starts the recovery sequence, at whose end the counters are 0 and
the mode before bus-off is in force. -/
def Obligations.CanModes : Prop :=
  ∀ (s : State) (src r : CmdSrc) (cb mb : BitVec 8) (d k : Nat) (c : CanId) (rest : List (CmdSrc × Nat)), s.Sound → cb.toNat = c.val →
    let i := c.val
    let x := s.can c
    let a : Accepted := ⟨src, .canMode cb mb, d⟩
    let b : Accepted := ⟨src, .canRecover cb, d⟩
    let m := mb.toNat
    let others (t : State) : Prop := ∀ j, j ≠ c → t.can j = s.can j
    let only (t : State) : Prop := t = { s with accepted := t.accepted, funcs := t.funcs }
    let done (t : State) (w : CmdSrc) : Prop := (t.fn w.fn).comps = (s.fn w.fn).comps ++ [⟨w, 3, 0, 0, s.now, padTo 15 [], true⟩]
    let clean (t : State) : Prop := t.fld Fld.CAN_ECNT_TEC i = 0 ∧ t.fld Fld.CAN_ECNT_REC i = 0 ∧ t.fld Fld.CAN_STAT_ESTATE i = 0 ∧
      t.bit Fld.CAN_STAT_EW i = false ∧ (t.can c).recover = []
    (s.Due a →
      (s.canBusOff c = false → x.wants ≠ [] ∨ s.canModeNow c ≠ m → ∃ t, exec (.canMode src cb mb) s = .next t ∧ s.taken_ t a ∧ others t ∧
        t.can c = { x with wants := x.wants ++ [(src, m)] } ∧ t.funcs = s.funcs ∧ t.regs = s.regs) ∧
      (s.canBusOff c = false → x.wants = [] → s.canModeNow c = m → ∃ t, exec (.canMode src cb mb) s = .next t ∧ s.ends t a 3 0 0 [] ∧ only t) ∧
      (s.canBusOff c = true → m ≠ 0 → ∃ t, exec (.canMode src cb mb) s = .next t ∧ s.ends t a 3 0 16 [] ∧ only t) ∧
      (s.fld Fld.CAN_STAT_ESTATE i = 3 → m = 0 → x.recover = [] → ∃ t, exec (.canMode src cb mb) s = .next t ∧ s.ends t a 3 0 0 [] ∧ others t ∧
        t.canModeNow c = 0 ∧ clean t)) ∧
    (x.wants = [] → exec (.canModeReached c) s = .next s) ∧
    (x.wants = (r, k) :: rest → k < 8 → s.canBusOff c = false → ∃ t, exec (.canModeReached c) s = .next t ∧ others t ∧ t.canModeNow c = k ∧
      (t.can c).wants = rest ∧ (k = 1 ∨ k = 4 → (t.can c).txBuf = x.txBuf ∧ done t r) ∧ (k ≠ 1 → k ≠ 4 → (t.can c).txBuf = [])) ∧
    (s.Due b →
      (s.canBusOff c = false → ∃ t, exec (.canRecover src cb) s = .next t ∧ s.ends t b 3 0 16 [] ∧ only t) ∧
      (s.fld Fld.CAN_STAT_ESTATE i = 2 → ∃ t, exec (.canRecover src cb) s = .next t ∧ s.taken_ t b ∧ others t ∧ t.fld Fld.CAN_STAT_ESTATE i = 3 ∧
        t.can c = { x with recover := x.recover ++ [src] })) ∧
    (s.fld Fld.CAN_STAT_ESTATE i ≠ 3 → exec (.canRecoveryDone c) s = .next s) ∧
    (s.fld Fld.CAN_STAT_ESTATE i = 3 → x.recover = [r] → ∃ t, exec (.canRecoveryDone c) s = .next t ∧ others t ∧ clean t ∧
      t.canModeNow c = x.preBusOff % 8 ∧ done t r)

/-- Outputs (R377 to R386, R390). DIO_SET gives every channel of MASK its bit of VALUE, ends its safe state and restarts its watchdog. A thermal
shutdown turns its channel off until a 0 is written; ILIM shows the outputs whose limit acts; a sum of currents above 12 A for 5 ms turns
every output off until TOTAL is cleared, and UV while it lasts; a link that is not refreshed for TMO_MS puts every output into its safe
state. A word is not taken by a channel that is on. -/
def Obligations.FieldOutputs : Prop :=
  ∀ (s : State) (src : CmdSrc) (mask value : BitVec 48) (d total : Nat) (k : DioId) (w : Word) (active : Bool) (limited : BitVec 48), s.Sound →
    let a : Accepted := ⟨src, .dioSet mask value, d⟩
    let i := k.val
    let x := s.chan k
    let offs (t : State) : Prop := ∀ c, s.dioMode c ≠ 0 → (t.chan c).driven = false
    (s.Due a → ∃ t, exec (.dioSet src mask value) s = .next t ∧ s.ends t a 3 0 0 [] ∧
      (∀ c, (t.chan c).image = if mask.getLsbD c.val then value.getLsbD c.val else (s.chan c).image) ∧
      (∀ c, mask.getLsbD c.val = true → s.dio.linkTo = false → t.bit Fld.DIO_CHn_STAT_SAFE_ACT c.val = false ∧
        (t.chan c).cmdDue = (if s.bit Fld.DIO_CHn_CFG_WD_CMD c.val then some (s.tick + s.dioTmo) else none) ∧
        (s.dioMode c = 1 → s.dioGang c = 0 → s.dio.uv = false → s.bit Fld.DIO_GSTAT_TOTAL = false → s.dio.shed = false →
          s.bit Fld.DIO_CHn_STAT_TSD c.val = false → (t.chan c).driven = value.getLsbD c.val))) ∧
    (s.dioMode k = 0 ∨ s.bit Fld.DIO_CHn_STAT_TSD i = true → exec (.dioChannelTsd k) s = .next s) ∧
    (s.dioMode k ≠ 0 → s.bit Fld.DIO_CHn_STAT_TSD i = false → ∃ t, exec (.dioChannelTsd k) s = .next t ∧ t.bit Fld.DIO_CHn_STAT_TSD i = true ∧
      (t.chan k).driven = false ∧ (t.chan k).image = x.image ∧ s.tells t (s.dioOwner (s.dioLead k)) 0x0039 i 4) ∧
    (let since := s.dio.overSince.getD s.tick
     ∃ t, exec (.dioCurrentUpdate total limited) s = .next t ∧ t.dio.total = total ∧ t.fld Fld.DIO_GSTAT_I_TOTAL = min (total / 10) 0xFFFF ∧
      (total ≤ 12000 → t.dio.overSince = none ∧ t.dios = s.dios ∧ ∀ c, s.dioMode c ≠ 0 →
        t.bit Fld.DIO_CHn_STAT_ILIM c.val = (limited.getLsbD c.val && (s.chan c).driven)) ∧
      (12000 < total → t.dio.overSince = some since ∧ (s.tick < since + 1250000 → t.dios = s.dios ∧ t.funcs = s.funcs) ∧
        (since + 1250000 ≤ s.tick → s.bit Fld.DIO_GSTAT_TOTAL = false → t.bit Fld.DIO_GSTAT_TOTAL = true ∧ offs t ∧
          s.tells t 0 0x003B 0 0 (leBytes 4 total)))) ∧
    (s.Open → ∃ t, exec (.dioTotalClear 0) s = .next t ∧ t.bit Fld.DIO_GSTAT_TOTAL = false ∧ t.dio.overSince = none ∧
      (∀ c, s.dioMode c = 1 → s.dioGang c = 0 → s.dio.uv = false → s.bit Fld.DIO_CHn_STAT_TSD c.val = false →
        s.bit Fld.DIO_CHn_STAT_SAFE_ACT c.val = false → s.dio.shed = false → (t.chan c).driven = (s.chan c).image)) ∧
    (s.pwr.phase = .ready ∨ s.pwr.phase = .booting →
      exec .dioLinkRefresh s = .next { s with dio := { s.dio with linkTo := false, lastRefresh := s.tick } }) ∧
    (s.dio.linkTo = true ∨ s.tick < s.dio.lastRefresh + s.dioTmo → exec .dioLinkTimeout s = .next s) ∧
    (s.dio.linkTo = false → s.dio.lastRefresh + s.dioTmo ≤ s.tick → ∃ t, exec .dioLinkTimeout s = .next t ∧ t.dio.linkTo = true ∧
      t.bit Fld.DIO_GSTAT_LINK_TO = true ∧ ∀ c, s.dioMode c = 1 → t.bit Fld.DIO_CHn_STAT_SAFE_ACT c.val = true ∧
        (s.bit Fld.DIO_CHn_STAT_SAFE_ACT c.val = false → s.fld Fld.DIO_CHn_CFG_SAFE c.val = 0 → (t.chan c).driven = false)) ∧
    (let due : Prop := (∃ u, x.cmdDue = some u ∧ u ≤ s.tick) ∧ s.dioMode k = 1 ∧ s.bit Fld.DIO_CHn_CFG_WD_CMD i = true
     (¬due → exec (.dioCmdTimeout k) s = .next s) ∧
     (due → ∃ t, exec (.dioCmdTimeout k) s = .next t ∧ (t.chan k).cmdDue = none ∧ t.bit Fld.DIO_CHn_STAT_SAFE_ACT i = true ∧ (t.chan k).image = x.image ∧
        (s.bit Fld.DIO_CHn_STAT_SAFE_ACT i = false → s.fld Fld.DIO_CHn_CFG_SAFE i = 0 → (t.chan k).driven = false))) ∧
    (s.dio.uv = active → exec (.dioUv active) s = .next s) ∧
    (s.dio.uv ≠ active → ∃ t, exec (.dioUv active) s = .next t ∧ t.dio.uv = active ∧ t.bit Fld.DIO_GSTAT_UV = active ∧ (active = true → offs t) ∧
      s.tells t 0 0x003C 0 (if active then 1 else 0)) ∧
    (s.Open → s.dioMode k ≠ 2 → Fld.DIO_CHn_CFG_GANG.get w = 0 → s.dioGang k = 0 → Fld.DIO_CHn_CFG_SAFE.get w ≠ 3 →
      let m := Fld.DIO_CHn_CFG_MODE.get w
      (m = 2 → exec (.dioCfgWrite 0 k w) s = .next (s.setBit Fld.DIO_CHn_STAT_CFG_REJ i true)) ∧
      (m < 2 → m ≠ s.dioMode k → x.driven = true ∨ s.dioSetWaits k = true →
        exec (.dioCfgWrite 0 k w) s = .next (s.setBit Fld.DIO_CHn_STAT_CFG_REJ i true)) ∧
      (m < 2 → m = s.dioMode k ∨ x.driven = false ∧ s.dioSetWaits k = false → ∃ t, exec (.dioCfgWrite 0 k w) s = .next t ∧
        t.word .DIO_CHn_CFG i = w &&& 0x00FF03FF ∧ t.dioMode k = m ∧ (∀ c, c ≠ k → t.word .DIO_CHn_CFG c.val = s.word .DIO_CHn_CFG c.val)))

/-- Inputs and diagnosis (R384, R387 to R390). A comparator transition is stamped and starts a filter run, and the way back breaks it; a run
that lasts is accepted as the level, counted, reported with NOTE and given to the latch units. An open load of a driven output and a broken
wire of an input are reported when they come and go. Whether an older edge has left the time-stamp queue is free (assumption 7). -/
def Obligations.FieldInputs : Prop :=
  ∀ (s : State) (k : DioId) (v : Bool) (at_ : Nat), s.Sound →
    let x := s.chan k
    let i := k.val
    let te := x.stamp.getD s.now
    let wb := s.bit Fld.DIO_CHn_CFG_WB_EN (s.dioLead k).val
    (x.comp = v → exec (.dioComparatorTransition k v) s = .next s) ∧
    (x.comp ≠ v → exec (.dioComparatorTransition k v) s = .next (s.setChan k
      (if s.dioMode k ≠ 0 ∨ s.dio.uv = true then { x with comp := v }
       else if v = x.level then { x with comp := v, runFrom := none }
       else { x with comp := v, runFrom := some s.tick, stamp := some te }))) ∧
    (x.runFrom = none ∨ s.dioMode k ≠ 0 ∨ s.dio.uv = true ∨ (x.runFrom = some at_ ∧ s.tick < at_ + 5000 * s.fld Fld.DIO_CHn_CFG_FILT i) →
      exec (.dioInputEdge k) s = .next s) ∧
    (x.runFrom = some at_ → s.dioMode k = 0 → s.dio.uv = false → at_ + 5000 * s.fld Fld.DIO_CHn_CFG_FILT i ≤ s.tick →
      ∃ t, exec (.dioInputEdge k) s = .next t ∧ (t.chan k).level = x.comp ∧ (t.chan k).runFrom = none ∧ t.bit Fld.DIO_CHn_STAT_LEVEL i = x.comp ∧
        t.fld Fld.DIO_CHn_STAT_EDGES i = min (s.fld Fld.DIO_CHn_STAT_EDGES i + 1) 65535 ∧ (∀ c, c ≠ k → t.chan c = s.chan c) ∧
        (s.bit Fld.DIO_CHn_CFG_NOTE i = false → t.funcs = s.funcs) ∧
        (s.bit Fld.DIO_CHn_CFG_NOTE i = true → (s.fn (s.dioOwner k)).evEntries < 64 → (t.fn (s.dioOwner k)).evq = (s.fn (s.dioOwner k)).evq ++
          [⟨0x0038, leBytes 8 te ++ leBytes 2 i ++ leBytes 2 (if x.comp then 1 else 0) ++ padTo 16 []⟩]) ∧
        (x.stamps.length < 8 → (t.chan k).stamps.getLast? = some (s.tick, x.comp) ∧
          ∀ (n : AxId) (u : Fin 2), (t.motion n).latches[u] = (s.motion n).latches[u].take k te (!x.comp))) ∧
    (let quiet : Prop := s.dioMode k = 0 ∨ wb = false ∨ s.dio.uv = true ∨ s.bit Fld.DIO_CHn_STAT_OPEN i = v ∨ v = true ∧ x.driven = false
     (quiet → exec (.dioOpenLoad k v) s = .next s) ∧
     (¬quiet → ∃ t, exec (.dioOpenLoad k v) s = .next t ∧ t.bit Fld.DIO_CHn_STAT_OPEN i = v ∧ t.dios = s.dios ∧
        s.tells t (s.dioOwner (s.dioLead k)) 0x0039 i (if v then 2 else 258))) ∧
    (let quiet : Prop := s.dioMode k ≠ 0 ∨ s.bit Fld.DIO_CHn_CFG_WB_EN i = false ∨ s.dio.uv = true ∨ s.bit Fld.DIO_CHn_STAT_BREAK i = v
     (quiet → exec (.dioWireBreak k v) s = .next s) ∧
     (¬quiet → ∃ t, exec (.dioWireBreak k v) s = .next t ∧ t.bit Fld.DIO_CHn_STAT_BREAK i = v ∧ t.dios = s.dios ∧
        s.tells t (s.dioOwner k) 0x0039 i (if v then 1 else 257)))

/-! ## Safety (14_safety.md) -/

/-- The safety channels (R396 to R408, R415). A filtered input takes its level; a test pulse is driven where none is under way, and one that
fails and a discrepancy longer than DISC_MS are pair faults; the watchdog ends the connection. In a cycle the demand lines of an axis invert
unless it is demanded (R394), and a group whose pair demands enters SSH or SS1, T_SS1 after which it enters SSH; SSH raises the SAFETY
demand on each of its axes, and a channel fault on every axis. One cycle command stands for both channels (assumption 55). -/
def Obligations.SafetyChannels : Prop :=
  ∀ (s : State) (p : PairId) (side level : Bool) (k : Fin 4) (g : GrpId) (ch : Fin 2) (c : Fin 9) (fails : List (PairId × Bool)),
    s.Sound →
    let x := s.saf.ins[p]
    let y := s.saf.groups[g]
    let sides : Bool × Bool := if side then (x.a, level) else (level, x.b)
    let mode := s.pairMode p
    let held (t : State) (n : AxId) : Prop := (t.ax n).demands.safety = true ∧ (t.demandSrc n).getLsbD 4 = true
    let demands : Prop := if side then (demandSides mode x).2 = true else (demandSides mode x).1 = true
    let fed : Prop := s.par (0x10 + 8 * p.val + (if side then 2 else 1)) 1 = k.val + 1
    (∃ t, exec (.safeInputChange p side level) s = .next t ∧ ((t.saf.ins[p]).a, (t.saf.ins[p]).b) = sides ∧
      (∀ q : PairId, q ≠ p → t.saf.ins[q] = s.saf.ins[q]) ∧ t.saf.groups = s.saf.groups ∧
      (x.fault = false → (t.saf.ins[p]).fault = false) ∧ (x.fault = true → x.sawDemand = false → (t.saf.ins[p]).fault = true) ∧
      (mode = 1 → ((t.saf.ins[p]).discSince.isSome = true ↔ sides.1 ≠ sides.2)) ∧
      (mode = 1 → x.fault = true → x.sawDemand = true → sides = (true, true) → (t.saf.ins[p]).fault = false) ∧
      s.onlyBits t [Reg.SAF_PAIR.spot]) ∧
    (s.par (0x30 + 4 * k.val) 2 = 0 ∨ (∃ j, s.tpPulsing j = true) → exec (.testPulse k fails) s = .next s) ∧
    (s.par (0x30 + 4 * k.val) 2 ≠ 0 → (∀ j, s.tpPulsing j = false) → ∃ t, exec (.testPulse k fails) s = .next t ∧ t.saf.tpFrom[k] = some s.tick ∧
      (∀ j : Fin 4, j ≠ k → t.saf.tpFrom[j] = s.saf.tpFrom[j]) ∧ (s.par (0x32 + 4 * k.val) 2 ≠ 0 → t.tpLevel k = false) ∧ t.saf.groups = s.saf.groups ∧
      (fails = [] → t = { s with saf := t.saf }) ∧
      (fails = [(p, side)] → mode ≠ 0 → fed → ¬demands → x.fault = false → (t.saf.ins[p]).fault = true ∧
        (t.saf.ins[p]).cause = (if side then 3 else 2) ∧ s.tells t 0 0x0041 p.val (t.pairByte p))) ∧
    (∀ at_, x.discSince = some at_ →
      (s.tick ≤ at_ + 250000 * s.par (0x14 + 8 * p.val) 2 → exec (.pairDiscrepancy p) s = .next s) ∧
      (at_ + 250000 * s.par (0x14 + 8 * p.val) 2 < s.tick → x.fault = false → ∃ t, exec (.pairDiscrepancy p) s = .next t ∧
        (t.saf.ins[p]).fault = true ∧ (t.saf.ins[p]).cause = 1 ∧ s.tells t 0 0x0041 p.val (t.pairByte p))) ∧
    (s.saf.connUp = false ∨ s.tick < s.saf.wdDue → exec .safetyWatchdogExpiry s = .next s) ∧
    (s.saf.connUp = true → s.saf.wdDue ≤ s.tick → ∃ t, exec .safetyWatchdogExpiry s = .next t ∧ t.saf.connUp = false ∧ t.saf.wdHit = true ∧
      t.bit Fld.SAF_COMM_UP = false ∧ t.bit Fld.SAF_COMM_DOWN_SEEN = true ∧ s.tells t 0 0x0042 0 0 (leBytes 2 s.saf.lastSeq.toNat)) ∧
    (∀ cause, (s.channelsRun = false ∨ s.tick < s.saf.cycleNext → exec (.safetyCycle cause) s = .next s) ∧
      (s.channelsRun = true → s.saf.cycleNext ≤ s.tick → ∃ t, exec (.safetyCycle cause) s = .next t ∧ t.saf.cycleNext = s.tick + 62500 ∧
        t.saf.wdHit = false ∧ t.saf.params = s.saf.params ∧
        ∀ n : AxId, t.saf.lineA.getLsbD n.val = (s.saf.lineA.getLsbD n.val != !t.safetyDemand n) ∧
          t.saf.lineB.getLsbD n.val = (s.saf.lineB.getLsbD n.val != !t.safetyDemand n))) ∧
    (s.channelsRun = true → s.saf.cycleNext ≤ s.tick → ∃ t, exec (.safetyCycle none) s = .next t ∧
      (s.bit Fld.SAF_STAT_HOLD_ALL = false → y.st = .none → y.slsViol = false → y.overSls = 0 → s.sourcePair (s.grpDem g) = true →
        (s.grpSs1 g = false → (t.saf.groups[g]).st = .ssh ∧ ∀ n, (s.grpMask g).getLsbD n.val = true → held t n) ∧
        (s.grpSs1 g = true → (t.saf.groups[g]).st = .ss1 ∧ (t.saf.groups[g]).ss1From = s.tick))) ∧
    (s.channelsRun = true → s.saf.cycleNext ≤ s.tick → c ≠ 0 → s.bit Fld.SAF_STAT_CH_FAULT = false →
      ∃ t, exec (.safetyCycle (some (ch, c))) s = .next t ∧ t.bit Fld.SAF_STAT_CH_FAULT = true ∧ t.bit Fld.SAF_STAT_HOLD_ALL = true ∧
        t.fld Fld.SAF_STAT_FCODE = c.val ∧ t.fld Fld.SAF_STAT_FCH = ch.val ∧ ∀ n, held t n) ∧
    (y.st ≠ .ss1 ∨ s.tick < y.ss1From + 250000 * s.par (0x4E + 24 * g.val) 2 → exec (.ss1Timeout g) s = .next s) ∧
    (y.st = .ss1 → y.ss1From + 250000 * s.par (0x4E + 24 * g.val) 2 ≤ s.tick → ∃ t, exec (.ss1Timeout g) s = .next t ∧
      (t.saf.groups[g]).st = .ssh ∧ (∀ h : GrpId, h ≠ g → t.saf.groups[h] = s.saf.groups[h]) ∧
      ∀ n, (s.grpMask g).getLsbD n.val = true → held t n)

/-- The parameter set (R408, R409, R418 to R421). STORE checks the staged set: refused while an axis moves, by its format, and by its ranges;
else the confirmation record is invalid and every axis is held while it is written. A failed write leaves that copy not intact and the set
in force as it was (assumption 145). Once written it is active and unconfirmed, every group in SSH. SAFE_CONFIRM of its check value writes
the record, with which the hold ends. -/
def Obligations.SafetyParameters : Prop :=
  ∀ (s : State) (src : CmdSrc) (v : BitVec 32) (d : Nat), s.Sound →
    let l := s.stagedSet
    let moving : Prop := ∃ n, s.axState n ≠ .off ∧ s.axState n ≠ .idle ∧ s.axState n ≠ .safe
    let crc := crc32c s.saf.params
    let a : Accepted := ⟨src, .safeConfirm v, d⟩
    let refused (why : Nat) : Prop := ∃ t, exec (.safetyStore 0) s = .next t ∧ t = { s with regs := t.regs, hwSet := t.hwSet } ∧ t.bit Fld.SAF_PCTL_REJ = true ∧
      t.fld Fld.SAF_PCTL_REJ_WHY = why ∧ s.onlyBits t [Fld.SAF_PCTL_REJ.spot, Fld.SAF_PCTL_REJ_WHY.spot]
    (s.Open → s.bit Fld.SAF_PCTL_BUSY = true → exec (.safetyStore 0) s = .next s) ∧
    (s.Open → s.bit Fld.SAF_PCTL_BUSY = false → (moving → refused 1) ∧ (¬moving → setFormatOk l = false → refused 2) ∧
      (¬moving → setFormatOk l = true → setRangesOk l = false → refused 3) ∧
      (¬moving → setFormatOk l = true → setRangesOk l = true → ∃ t, exec (.safetyStore 0) s = .next t ∧ t.bit Fld.SAF_PCTL_BUSY = true ∧
        t.saf.staged = l ∧ t.saf.params = s.saf.params ∧ t.saf.confStored = none ∧ t.bit Fld.SAF_STAT_CONF = false ∧
        t.bit Fld.SAF_STAT_HOLD_ALL = true ∧ ∀ n, (t.ax n).demands.safety = true)) ∧
    (s.bit Fld.SAF_PCTL_BUSY = false → ∀ r, exec (.safetyStoreDone r) s = .next s) ∧
    (s.bit Fld.SAF_PCTL_BUSY = true → ∀ c, ∃ t, exec (.safetyStoreDone (some c)) s = .next t ∧ t.saf.params = s.saf.params ∧ t.saf.groups = s.saf.groups ∧
      t.saf.copies[c] = none ∧ (c = 1 → t.saf.copies[(0 : Fin 2)] = some s.saf.staged) ∧ (c = 0 → t.saf.copies[(1 : Fin 2)] = s.saf.copies[(1 : Fin 2)]) ∧
      t.bit Fld.SAF_PCTL_BUSY = false ∧ t.bit Fld.SAF_PCTL_REJ = true ∧ t.fld Fld.SAF_PCTL_REJ_WHY = 5 ∧ s.onlyBits t [Reg.SAF_PCTL.spot]) ∧
    (s.bit Fld.SAF_PCTL_BUSY = true → s.saf.confStored = none → ∃ t, exec (.safetyStoreDone none) s = .next t ∧ t.saf.params = s.saf.staged ∧
      t.saf.copies = Vector.replicate 2 (some s.saf.staged) ∧ (∀ g : GrpId, (t.saf.groups[g]).st = .ssh) ∧ t.bit Fld.SAF_PCTL_BUSY = false ∧
      t.bit Fld.SAF_PCTL_DONE = true ∧ t.bit Fld.SAF_STAT_CONF = false ∧ t.bit Fld.SAF_STAT_HOLD_ALL = true ∧
      t.word .SAF_CHECK_A = crc32c s.saf.staged ∧ t.word .SAF_CHECK_B = crc32c s.saf.staged ∧ t.bit Fld.SAF_STAT_PARAM_BAD = false) ∧
    (s.Due a →
      (s.bit Fld.SAF_STAT_CONF = true → s.word .SAF_CONF_VAL = v → ∃ t, exec (.safeConfirm src v) s = .next t ∧ s.ends t a 3 0 16 [] ∧
        t.saf = s.saf) ∧
      (¬(s.bit Fld.SAF_STAT_CONF = true ∧ s.word .SAF_CONF_VAL = v) → setFormatOk s.saf.params = true → setRangesOk s.saf.params = true → crc = v →
        ∃ t, exec (.safeConfirm src v) s = .next t ∧ s.taken_ t a ∧ t.saf = { s.saf with confWrite := s.saf.confWrite ++ [(src, v)] } ∧
          t.funcs = s.funcs) ∧
      (¬(s.bit Fld.SAF_STAT_CONF = true ∧ s.word .SAF_CONF_VAL = v) → crc ≠ v → ∃ t, exec (.safeConfirm src v) s = .next t ∧
        s.ends t a 5 7 0 [] ∧ t.saf = s.saf)) ∧
    (s.saf.confWrite = [] → exec .confirmRecordWritten s = .next s) ∧
    (s.saf.confWrite = [(src, crc)] → s.saf.params ≠ [] → ∃ t, exec .confirmRecordWritten s = .next t ∧ t.saf.confWrite = [] ∧
      t.saf.confStored = some crc ∧ t.saf.confPlinth = some crc ∧ t.bit Fld.SAF_STAT_CONF = true ∧ t.word .SAF_CONF_VAL = crc ∧
      (s.bit Fld.SAF_STAT_CH_FAULT = false → s.bit Fld.SAF_STAT_PARAM_BAD = false → t.bit Fld.SAF_STAT_HOLD_ALL = false) ∧
      (t.fn src.fn).comps = (s.fn src.fn).comps ++ [⟨src, 3, 0, 0, s.now, padTo 15 [], true⟩])

/-! ## Profiles, power and reset (15_failover.md, 16_power_reset.md) -/

/-- Profiles (R442 to R445, R456). A load waits behind the one in progress, and for the carriers, which it stops where their axes are OFF or
IDLE. Three equal copies load with RESULT 0, two with RESULT 1 and a rewrite of the third; the records apply in order, a coefficient
becoming its axis's active value. Where no copy is intact nothing loads: RESULT 5, the profile in force discarded, and FAULT,
PROFILE_CONFLICT. A rewrite leaves three copies of the content loaded. A store writes copies 0, 1 and 2 with GEN one above the highest
intact one, and a power loss tears one copy at most (assumption 134). -/
def Obligations.ProfileLoads : Prop :=
  ∀ (s : State) (src : CmdSrc) (p : Fin 4) (x : ProfCopy) (n : AxId) (id : Nat) (v : BitVec 32) (lo hi : Int) (l : Load) (d : Nat) (body : List Byte), s.Sound →
    let b := BitVec.ofNat 8 p.val
    let a : Accepted := ⟨src, .profileLoad b, d⟩
    let go (post : State → Prop) : Prop := ∃ t, exec (.profileLoad src b) s = .next t ∧ s.taken_ t a ∧ post t
    let free : Prop := s.prof.loading = none ∧ s.prof.queued = [] ∧ ∀ b, (s.bnk b).carrier = .stopped
    let shows (t : State) (loaded : Bool) (result mask : Nat) : Prop := t.bit Fld.GLB_STAT_LOADING = false ∧ t.prof.loading = none ∧
      t.bit Fld.GLB_PROF_STAT_LOADED = loaded ∧ t.fld Fld.GLB_PROF_STAT_RESULT = result ∧ t.fld Fld.GLB_PROF_STAT_INTACT = mask ∧
      t.pwr.flogPlinth.head? = some ⟨7, p.val, s.now, result⟩
    let done (t : State) (code reason : BitVec 8) : Prop :=
      (t.fn src.fn).comps = (s.fn src.fn).comps ++ [⟨src, code, reason, 0, s.now, padTo 15 [], true⟩]
    let coef : List Byte := leBytes 2 5 ++ leBytes 2 8 ++ [BitVec.ofNat 8 n.val, BitVec.ofNat 8 id, 0, 0] ++ leBytes 4 v.toNat
    let valid (c : ProfCopy) : Prop := c.gen < 2 ^ 32 ∧ 1 ≤ c.body.length ∧ c.body.length ≤ 65504
    let whole (q : Profiles) (c : ProfCopy) : Prop := q.intact p = [(0, c), (1, c), (2, c)] ∧ ∀ r : Fin 4, r ≠ p → q.copies[r] = s.prof.copies[r]
    (∀ k m, s.Due ⟨k, .profileLoad m, d⟩ → ∃ t, exec (.profileLoad k m) s = .next t) ∧
    (s.Due a →
      (s.prof.loading = some l → go fun t => t.prof = { s.prof with queued := s.prof.queued ++ [(src, p)] } ∧ t.funcs = s.funcs ∧ t.regs = s.regs) ∧
      (s.prof.loading = none → (∃ b, (s.bnk b).carrier = .running) → go fun t => t.bit Fld.GLB_STAT_LOADING = true ∧ t.funcs = s.funcs ∧
        t.prof = { s.prof with loading := some ⟨some src, p, [], .carriersStop⟩ } ∧
        ∀ b, (s.bnk b).carrier = .running → (∀ n ∈ bankAxes b, s.axState n = .off ∨ s.axState n = .idle) → (t.bnk b).carrier = .stopping false) ∧
      (free → s.prof.intact p = [] → go fun t => shows t false 5 0 ∧ done t 5 6 ∧ t.fld Fld.GLB_PROF_STAT_ACTIVE = 0 ∧ t.fld Fld.GLB_ENV_ENV = 0 ∧
        t.fld Fld.GLB_ENV_SPARES = 4) ∧
      (free → x.body = coef → coefRange id = some (lo, hi) → lo ≤ v.toInt → v.toInt ≤ hi →
        (s.prof.intact p = [(0, x), (1, x), (2, x)] → go fun t => shows t true 0 7 ∧ done t 3 0 ∧ t.fld Fld.GLB_PROF_STAT_ACTIVE = p.val ∧
          t.prof.loaded = some p ∧ (t.ax n).coefVal id = v ∧ t.prof.rewrite = s.prof.rewrite ∧ (∀ m, m ≠ n → t.ax m = s.ax m)) ∧
        (s.prof.intact p = [(0, x), (2, x)] → go fun t => shows t true 1 5 ∧ done t 3 0 ∧ (t.ax n).coefVal id = v ∧
          t.prof.rewrite = some (p, x) ∧ t.bit Fld.GLB_PROF_STAT_REWRITE = true))) ∧
    (s.prof.storing = none → s.prof.rewrite = none → exec .profileRewriteDone s = .next s) ∧
    (s.prof.storing = none → s.prof.rewrite = some (p, x) → valid x → ∃ t, exec .profileRewriteDone s = .next t ∧ whole t.prof x ∧
      t.prof.rewrite = none ∧ t.bit Fld.GLB_PROF_STAT_REWRITE = false ∧ s.onlyBits t [Fld.GLB_PROF_STAT_REWRITE.spot]) ∧
    (s.prof.storing ≠ none → exec .profileRewriteDone s = .next { s with prof := s.prof.copyStored }) ∧
    (1 ≤ body.length → body.length ≤ 65504 →
      let c : ProfCopy := ⟨s.prof.nextGen p, body⟩
      let q := s.prof.beginStore p body
      (s.prof.intact p = [] → c.gen = 1) ∧
      (∀ y ∈ s.prof.intact p, s.prof.intact p = [y] → c.gen = (y.2.gen + 1) % 2 ^ 32) ∧
      whole q.copyStored.copyStored.copyStored c ∧ q.copyStored.copyStored.copyStored.storing = none ∧
      ∀ u w : Nat, let z := q.copyStored.powerLoss u w
        z.storing = none ∧ z.copies[p][0] = c.bytes p 0 ∧ z.copies[p][2] = s.prof.copies[p][2] ∧
        (z.copies[p][1] = s.prof.copies[p][1] ∨ z.copies[p][1] <+: c.bytes p 1))

/-- Resets (R449, R451, R452, R457, R462, R463). Each cause of a warm reset takes the commit, ends every accepted command and turns every leg
off, keeps device time, the rate and MINVER, and is counted; it lasts at least 100 µs, after which boot begins. Power-on reset stops
everything and, once the supplies have held for 2 ms, DT starts from the Plinth. A pulse on RESET_N resets from 10 µs and not below 5 µs.
Power-fail turns legs and brakes off and takes the commit. An endpoint reset resets the functions alone. -/
def Obligations.Resets : Prop :=
  ∀ (s : State) (w : Word) (psel : Fin 4) (elapsed mv held : Nat) (cold vcore : Bool), s.Sound →
    let legsOff (t : State) : Prop := ∀ n l, (t.leg n l).high = false ∧ (t.leg n l).low = false
    let committed (t : State) : Prop := t.pwr.comDt = s.now ∧ t.pwr.comPos = (allFin 48).map s.commitPos
    let warm (c : Instr) (cause : Nat) : Prop := ∃ t, exec c s = .next t ∧ t.pwr.phase = .warmReset ∧ t.pwr.since = s.tick ∧
      t.fld Fld.PWR_RSTC_CAUSE = cause ∧ t.fld Fld.PWR_RSTC_WARM_CNT = min 65535 (s.fld Fld.PWR_RSTC_WARM_CNT + 1) ∧ t.accepted = [] ∧
      t.dt = s.dt ∧ t.word .TB_RATE = s.word .TB_RATE ∧ t.word .NVM_MINVER = s.word .NVM_MINVER ∧ t.bit Fld.GLB_STAT_READY = false ∧
      legsOff t ∧ committed t ∧ t.pwr.commitOk = true ∧ (∀ n, t.axState n = .off) ∧ (∀ b, (t.bnk b).carrier = .stopped) ∧ t.shmem = []
    (s.awake = true → (2500 ≤ held → warm (.resetNReset held) 1) ∧ warm .hkWatchdogReset 3 ∧ (Fld.PWR_RST_KEY.get w = 0x5741 → warm (.pwrRstKey 0 w) 2)) ∧
    (s.awake = false ∨ held < 1250 → exec (.resetNReset held) s = .next s) ∧ (s.awake = false → exec .hkWatchdogReset s = .next s) ∧
    (∃ t, exec (.resetNReset held) s = .next t ∧ (t = s ∨ t = { s with free := s.free + 1 } ∨ t.pwr.phase = .warmReset)) ∧
    (Fld.PWR_RST_KEY.get w ≠ 0x5741 → exec (.pwrRstKey 0 w) s = .next s) ∧
    (let back : Prop := s.pwr.phase = .powerDown ∧ s.pwr.since + 2500000 ≤ s.tick ∧ s.vauxTh + 1000 ≤ mv ∧ 2500000 ≤ held
     (back → warm (.powerFailRestart mv held) 4) ∧ (¬back → exec (.powerFailRestart mv held) s = .next s)) ∧
    (s.pwr.phase ≠ .warmReset ∨ s.tick < s.pwr.since + 25000 → exec (.warmResetEnd none) s = .next s) ∧
    (s.pwr.phase = .warmReset → s.pwr.since + 25000 ≤ s.tick → ∃ t, exec (.warmResetEnd none) s = .next t ∧ t.pwr.phase = .booting ∧
      t.pwr.since = s.tick ∧ t.pwr.flogPlinth.head? = some ⟨1, s.fld Fld.PWR_RSTC_CAUSE, s.now, s.fld Fld.PWR_RSTC_WARM_CNT⟩) ∧
    (s.pwr.phase = .porHeld → exec .powerOnResetAssert s = .next s) ∧
    (s.pwr.phase ≠ .porHeld → ∃ t, exec .powerOnResetAssert s = .next t ∧ t.pwr.phase = .porHeld ∧ t.accepted = [] ∧ legsOff t ∧
      t.word .TB_RATE = Reg.resetAt (Reg.addr .TB_RATE) ∧ t.word .NVM_MINVER = s.word .NVM_MINVER ∧ t.shmem = [] ∧
      (∀ n, t.axState n = .off) ∧ t.pwr.commitOk = s.pwr.commitOk) ∧
    (s.pwr.phase ≠ .porHeld ∨ s.tick < s.pwr.since + 500000 → exec (.powerOnReset psel elapsed cold none) s = .next s) ∧
    (s.pwr.phase = .porHeld → s.pwr.since + 500000 ≤ s.tick → ∃ t, exec (.powerOnReset psel elapsed cold none) s = .next t ∧ t.pwr.phase = .booting ∧
      t.dt = BitVec.ofNat 64 (if s.pwr.commitOk && !cold then s.pwr.comDt + elapsed else 0) ∧ t.fld Fld.PWR_BOOT_PSEL = psel.val ∧
      t.bit Fld.PWR_PLINTH_COLD = cold) ∧
    (s.awake = true → ∃ t, exec .endpointReset s = .next t ∧ t.fld Fld.PWR_RSTC_EP_CNT = min (s.fld Fld.PWR_RSTC_EP_CNT + 1) 255 ∧
      (∀ f, s.fnState f = .ready → t.fnState f = .resetting ∧ (t.fn f).busMaster = false) ∧
      (∀ n, (t.ax n).released = (s.ax n).released ∧ t.axState n = s.axState n)) ∧
    (let fails : Prop := s.awake = true ∧ (vcore = true → mv < 740 ∧ 250 ≤ held) ∧ (vcore = false → mv < s.vauxTh ∧ 500 ≤ held)
     (¬fails → exec (.powerFail vcore mv held) s = .next s) ∧
     (fails → ∃ t, exec (.powerFail vcore mv held) s = .next t ∧ t.pwr.phase = .powerDown ∧ t.pwr.since = s.tick ∧ t.bit Fld.PWR_STAT_PFAIL = true ∧
      t.accepted = [] ∧ committed t ∧ t.pwr.commitDone = false ∧ legsOff t ∧ (∀ b, (t.bnk b).brk = false) ∧ (∀ n, t.fbk n = s.fbk n))) ∧
    (s.pwr.phase ≠ .powerDown ∨ s.pwr.commitDone = true → exec .plinthCommitDone s = .next s) ∧
    (s.pwr.phase = .powerDown → s.pwr.commitDone = false → ∃ t, exec .plinthCommitDone s = .next t ∧ t.pwr.commitOk = true ∧
      t.pwr.commitDone = true ∧ t.pwr.comPos = s.pwr.comPos ∧ t.pwr.comDt = s.pwr.comDt)

/-- Boot, supplies of the Plinth, hot-plug and the fault log (R453, R454, R459 to R461, R465, R467 to R469). Boot takes the valid slot of the
higher VERSION and, where no profile copy is intact, runs to READY without a profile; with no valid slot it ends in BOOT_FAIL. VAUX and VBAK
are operands (assumption 146): below 7.5 V the Plinth runs from VBAK, and it returns once VAUX has been at 8.0 V for 50 ms. The charger
tests its element at the end of charging, and a fall of more than 0.3 V in 1 ms shows that there is none. -/
def Obligations.BootAndSupplies : Prop :=
  ∀ (s : State) (before after mv ua u v w : Nat) (n : AxId) (hall : Bool) (at_ : Nat) (e : FlogEnt) (rest : List FlogEnt), s.Sound →
    let x := s.plug n
    let prof := s.bakProf
    let low : Prop := 0 < prof ∧ s.bit Fld.PWR_STAT_PL_VBAK = false
    (s.pwr.phase ≠ .booting ∨ s.prof.loading ≠ none → exec .bootComplete s = .next s) ∧
    (s.pwr.phase = .booting → s.prof.loading = none → s.slotWhy (s.slot 0) ≠ 0 → s.slotWhy (s.slot 1) ≠ 0 →
      ∃ t, exec .bootComplete s = .next t ∧ t.pwr.phase = .bootFail ∧ t.bit Fld.PWR_STAT_BOOT_FAIL = true ∧
        t.bit Fld.GLB_STAT_READY = s.bit Fld.GLB_STAT_READY) ∧
    (s.pwr.phase = .booting → s.prof.loading = none → s.prof.queued = [] → s.slotWhy (s.slot 0) = 0 → (s.slot 1).version ≤ (s.slot 0).version →
      (∀ b, (s.bnk b).carrier = .stopped) → (∀ p, s.prof.intact p = []) → ∃ t, exec .bootComplete s = .next t ∧ t.pwr.phase = .ready ∧
        t.bit Fld.GLB_STAT_READY = true ∧ t.bit Fld.GLB_STAT_LOADING = false ∧ t.pwr.bootSlot = some 0 ∧ t.bit Fld.PWR_BOOT_SLOT = false ∧
        t.bit Fld.PWR_BOOT_A_VALID = true ∧ t.word .PWR_BOOT_VER = BitVec.ofNat 32 (s.slot 0).version ∧
        t.bit Fld.GLB_PROF_STAT_LOADED = false ∧ t.fld Fld.GLB_PROF_STAT_RESULT = 5) ∧
    (let seen (t : State) : Prop := t.pwr.vaux = mv ∧ t.bit Fld.PWR_STAT_VAUX_OK = decide (s.vauxTh ≤ mv)
     let plinth := s.bit Fld.PWR_STAT_PL_VBAK
     (∃ t, exec (.vauxHandover mv) s = .next t ∧ seen t ∧ s.onlyBits t [Reg.PWR_STAT.spot, Fld.PWR_BAKSTAT_CHG.spot] ∧
       (mv < 7500 → t.bit Fld.PWR_STAT_PL_VBAK = true ∧ t.fld Fld.PWR_BAKSTAT_CHG = 0 ∧ t.pwr.vauxFrom = none) ∧
       (7500 ≤ mv → t.bit Fld.PWR_STAT_PL_VBAK = plinth ∧ t.pwr.vauxFrom = s.pwr.vauxFrom)) ∧
     (∃ t, exec (.vauxReturn mv) s = .next t ∧ seen t ∧ s.onlyBits t [Reg.PWR_STAT.spot, Fld.PWR_BAKSTAT_CHG.spot] ∧
       (plinth = false → t.bit Fld.PWR_STAT_PL_VBAK = false ∧ t.fld Fld.PWR_BAKSTAT_CHG = s.fld Fld.PWR_BAKSTAT_CHG) ∧
       (plinth = true → mv < 8000 → t.bit Fld.PWR_STAT_PL_VBAK = true ∧ t.bit Fld.PWR_STAT_DEBOUNCE = false ∧ t.pwr.vauxFrom = none) ∧
       (plinth = true → 8000 ≤ mv → s.pwr.vauxFrom = none → t.bit Fld.PWR_STAT_PL_VBAK = true ∧ t.bit Fld.PWR_STAT_DEBOUNCE = true ∧
         t.pwr.vauxFrom = some s.tick) ∧
       (plinth = true → 8000 ≤ mv → s.pwr.vauxFrom = some at_ →
         (s.tick < at_ + 12500000 → t.bit Fld.PWR_STAT_PL_VBAK = true ∧ t.pwr.vauxFrom = some at_) ∧
         (at_ + 12500000 ≤ s.tick → t.bit Fld.PWR_STAT_PL_VBAK = false ∧ t.bit Fld.PWR_STAT_DEBOUNCE = false ∧ t.pwr.vauxFrom = none ∧
           t.fld Fld.PWR_BAKSTAT_CHG = if prof = 0 then 0 else 1)))) ∧
    (let chg := s.fld Fld.PWR_BAKSTAT_CHG
     let absent := s.bit Fld.PWR_BAKSTAT_VBAK_ABSENT
     let begins : Prop := chg = 2 ∧ ua < 10 * s.ichg ∨ chg = 4 ∧ s.pwr.vbakAt + 15000000000 ≤ s.tick
     let ended : Prop := chg = 5 ∧ s.pwr.vbakAt + 250000 ≤ s.tick
     let again : Prop := absent = true ∧ chg = 0 ∧ s.pwr.vbakAt + 2500000000 ≤ s.tick
     (¬low → ∀ ev, exec (.vbakTest ev) s = .next s) ∧
     (low → (∃ t, exec (.vbakTest (.cv mv)) s = .next t ∧ t.fld Fld.PWR_BAKSTAT_VBAK_MV = min 65535 mv ∧
         t.fld Fld.PWR_BAKSTAT_CHG = if chg = 1 ∧ s.bakCv ≤ mv then 2 else chg) ∧
       (∃ t, exec (.vbakTest (.load mv ua)) s = .next t ∧ t.fld Fld.PWR_BAKSTAT_VBAK_MV = min 65535 mv ∧
         (begins → t.fld Fld.PWR_BAKSTAT_CHG = 5 ∧ t.pwr.vbakAt = s.tick) ∧ (¬begins → t.fld Fld.PWR_BAKSTAT_CHG = chg ∧ t.pwr = s.pwr)) ∧
       (¬ended → exec (.vbakTest (.result before after)) s = .next s) ∧
       (ended → ∃ t, exec (.vbakTest (.result before after)) s = .next t ∧ t.fld Fld.PWR_BAKSTAT_VBAK_MV = min 65535 after ∧
         t.bit Fld.PWR_BAKSTAT_VBAK_ABSENT = decide (after + 300 < before) ∧
         t.fld Fld.PWR_BAKSTAT_CHG = (if after + 300 < before then 0 else if prof = 1 then 3 else 4) ∧
         (after + 300 < before → s.tells t 0 0x0056 prof 1 (leBytes 2 (min 65535 after))) ∧
         (before ≤ after + 300 → absent = true → s.tells t 0 0x0056 prof 0 (leBytes 2 (min 65535 after))) ∧
         (before ≤ after + 300 → absent = false → t.funcs = s.funcs)) ∧
       (again → ∃ t, exec (.vbakTest .retry) s = .next t ∧ t.fld Fld.PWR_BAKSTAT_CHG = 1 ∧ s.onlyBits t [Fld.PWR_BAKSTAT_CHG.spot]) ∧
       (¬again → exec (.vbakTest .retry) s = .next s)) ∧
     (∃ t, exec (.vbakRecharge mv) s = .next t ∧ t.fld Fld.PWR_BAKSTAT_VBAK_MV = min 65535 mv ∧ s.onlyBits t [Reg.PWR_BAKSTAT.spot] ∧
       (prof = 1 → chg = 3 → mv < 3950 → t.fld Fld.PWR_BAKSTAT_CHG = if s.bit Fld.PWR_STAT_PL_VBAK then 0 else 1) ∧
       (prof ≠ 1 ∨ chg ≠ 3 ∨ 3950 ≤ mv → t.fld Fld.PWR_BAKSTAT_CHG = chg))) ∧
    (s.pwr.flogWait = [] → exec .flogCopy s = .next s) ∧
    (s.pwr.flogWait = e :: rest → ∃ t, exec .flogCopy s = .next t ∧ t.pwr.flogWait = rest ∧ t.pwr.flogFlash = (e :: s.pwr.flogFlash).take 4096) ∧
    (s.awake = true → ∃ t, exec (.pwrLostDiscard 0) s = .next t ∧ t.pwr.owed = [] ∧ t.fld Fld.PWR_LOST_OWED = 0 ∧
      ∀ f, (t.fn f).comps = (s.fn f).comps.filter fun c => !(c.code == 5 && c.reason == 10)) ∧
    (let lost : Prop := s.bit Fld.AX_PLUG_EN n.val = true ∧ s.axState n ≠ .off ∧ s.axState n ≠ .absent ∧
      (if hall then s.lossByHall n else s.lossByCurrent n) = true
     (lost → exec (.motorLoss n hall) s = .next (s.setAx n { s.ax n with absentReq := true })) ∧ (¬lost → exec (.motorLoss n hall) s = .next s)) ∧
    (x.retryDue = some at_ → s.axState n ≠ .absent ∨ s.tick < at_ → exec (.plugRetryExpiry n) s = .next s) ∧
    (x.retryDue = some at_ → s.axState n = .absent → at_ ≤ s.tick → ∃ t, exec (.plugRetryExpiry n) s = .next t ∧ (t.plug n).retryDue = none ∧
      t.fld Fld.AX_PLUGSTAT_TIMER n.val = 0 ∧ (s.demandSrc n = 0 → (t.plug n).identFrom = some s.tick ∧ (t.plug n).waiting = false ∧
        t.bit Fld.AX_PLUGSTAT_IDENT n.val = true) ∧
      (s.demandSrc n ≠ 0 → (t.plug n).waiting = true ∧ (t.plug n).identFrom = x.identFrom)) ∧
    (x.identFrom = some at_ → s.tick < at_ + s.identTicks n → exec (.identificationDone n u v w) s = .next s) ∧
    (x.identFrom = some at_ → at_ + s.identTicks n ≤ s.tick →
      let least := 256 * s.fld Fld.AX_PLUG_IMIN n.val
      let ok : Prop := least ≤ u ∧ least ≤ v ∧ (s.axMode n = 3 ∨ least ≤ w) ∧ (s.bit Fld.AX_PLUG_HALL n.val = true → (s.ax n).hallValid = true)
      ∃ t, exec (.identificationDone n u v w) s = .next t ∧ (t.plug n).identFrom = none ∧ (∀ m, m ≠ n → t.plug m = s.plug m) ∧
        (ok → (t.plug n).passed = true ∧ t.fld Fld.AX_PLUGSTAT_ID_FAIL n.val = s.fld Fld.AX_PLUGSTAT_ID_FAIL n.val) ∧
        (¬ok → (t.plug n).passed = false ∧
          t.fld Fld.AX_PLUGSTAT_ID_FAIL n.val = min (s.fld Fld.AX_PLUGSTAT_ID_FAIL n.val + 1) 65535 ∧
          (t.plug n).retryDue = some (s.tick + min 600 (max 5 (s.fld Fld.AX_PLUG_RETRY n.val)) * 25000000)))

/-- Image slots (R454, R455). BEGIN erases a slot that is not the one booted while every axis is OFF; WRITE programs 64 KiB of shared memory
into its chunk; FINISH checks it, which ends DONE, or REJ with the slot erased; LOCKVER raises MINVER to the version booted. Commands out of
order are rejected. -/
def Obligations.ImageSlots : Prop :=
  ∀ (s : State) (w : Word) (k : Fin 2) (key sig : Bool) (op : NvmOp), s.Sound → s.awake = true →
    (Fld.NVM_SLOT_CTL_SLOT.get w = 1 ↔ k = 1) →
    let c := s.fld Fld.NVM_SLOT_SRC_CHUNK
    let sets (b wr f l : Nat) : Prop := Fld.NVM_SLOT_CTL_BEGIN.get w = b ∧ Fld.NVM_SLOT_CTL_WRITE.get w = wr ∧ Fld.NVM_SLOT_CTL_FINISH.get w = f ∧
      Fld.NVM_SLOT_CTL_LOCKVER.get w = l
    let rej (i : Instr) : Prop := exec i s = .next (s.setBit Fld.NVM_SLOT_STAT_REJ 0 true)
    let busy (t : State) (o : NvmOp) : Prop := t.bit Fld.NVM_SLOT_STAT_BUSY = true ∧ t.pwr.nvmOp = some o ∧ (∀ j, j ≠ k → t.slot j = s.slot j) ∧
      s.onlyBits t [Fld.NVM_SLOT_STAT_BUSY.spot] ∧ t.shmem = s.shmem
    (s.bit Fld.NVM_SLOT_STAT_BUSY = true → (sets 1 0 0 0 → exec (.nvmBegin 0 w) s = .next s) ∧ (sets 0 1 0 0 → exec (.nvmWrite 0 w) s = .next s) ∧
      (sets 0 0 1 0 → exec (.nvmFinish 0 w) s = .next s)) ∧
    (s.bit Fld.NVM_SLOT_STAT_BUSY = false → sets 1 0 0 0 →
      (s.pwr.bootSlot = some k ∨ (∃ n, s.axState n ≠ .off) → rej (.nvmBegin 0 w)) ∧
      (s.pwr.bootSlot ≠ some k → (∀ n, s.axState n = .off) → ∃ t, exec (.nvmBegin 0 w) s = .next t ∧ busy t (.erase k) ∧ t.slot k = Slot.empty ∧
        t.pwr.nvmBegun = some k)) ∧
    (s.bit Fld.NVM_SLOT_STAT_BUSY = false → sets 0 1 0 0 → (s.pwr.nvmBegun ≠ some k → rej (.nvmWrite 0 w)) ∧
      (s.pwr.nvmBegun = some k → c < 32 → ∃ t, exec (.nvmWrite 0 w) s = .next t ∧ busy t (.program k c) ∧
        (∀ i, i < 65536 → Mem.byte (t.slot k).img (65536 * c + i) = Mem.byte s.shmem (0x1C0000 + i)) ∧
        (∀ a, a < 65536 * c ∨ 65536 * (c + 1) ≤ a → Mem.byte (t.slot k).img a = Mem.byte (s.slot k).img a))) ∧
    (s.bit Fld.NVM_SLOT_STAT_BUSY = false → sets 0 0 1 0 → (s.pwr.nvmBegun ≠ some k → rej (.nvmFinish 0 w)) ∧
      (s.pwr.nvmBegun = some k → ∃ t, exec (.nvmFinish 0 w) s = .next t ∧ busy t (.check k) ∧ t.slot k = s.slot k)) ∧
    (∀ b, sets 0 0 0 1 → s.pwr.bootSlot = some b → ∃ t, exec (.lockver 0 w) s = .next t ∧
      t.word .NVM_MINVER = BitVec.ofNat 32 (max (s.word .NVM_MINVER).toNat (s.slot b).version) ∧ s.onlyBits t [Reg.NVM_MINVER.spot] ∧ t.pwr = s.pwr) ∧
    (s.pwr.nvmOp = none → exec (.nvmOpDone key sig) s = .next s) ∧
    (s.pwr.nvmOp = some op → ∃ t, exec (.nvmOpDone key sig) s = .next t ∧ t.pwr.nvmOp = none ∧ t.bit Fld.NVM_SLOT_STAT_BUSY = false ∧
      (op ≠ .check k → (∀ j, op ≠ .check j) → t.pwr.slots = s.pwr.slots) ∧
      (op = .check k → (s.slotWhy { s.slot k with whole := true, keyOk := key, sigOk := sig } = 0 → t.bit Fld.NVM_SLOT_STAT_DONE = true ∧
          t.slot k = { s.slot k with whole := true, keyOk := key, sigOk := sig }) ∧
        (s.slotWhy { s.slot k with whole := true, keyOk := key, sigOk := sig } ≠ 0 → t.bit Fld.NVM_SLOT_STAT_REJ = true ∧ t.slot k = Slot.empty)))

/-! ## Thermal (17_thermal.md) -/

/-- Thermal supervision and fans (R472, R474, R478, R479). Tj is the largest reading; the warning and the shutdown have their thresholds, the
shutdown demanding on every axis; the derating level rises when Tj first reaches D_TH, after each dwell above it, and falls after each
release time below. A fan starts with EN, runs with a tach pulse, is blocked after three kicks or at high current without a pulse, retries,
and is open after a second without current; its tach is judged after a second at a duty above 0, and while the firmware does not run the fan
commands wait (assumption 148). The rounding of RPM is free (assumption 7). -/
def Obligations.ThermalAndFans : Prop :=
  ∀ (s : State) (r : Int) (rs : List Int) (f : FanId) (w : Word) (ma held : Nat), s.Sound →
    let l := r :: rs
    let i := f.val
    let x := s.fan f
    let st := s.fanState f
    let others (t : State) : Prop := ∀ g, g ≠ f → t.fan g = s.fan g ∧ t.fanState g = s.fanState g
    (s.tick < s.thm.evalNext → exec (.thermalEvaluation l) s = .next s) ∧
    (s.thm.evalNext ≤ s.tick → ∃ t, exec (.thermalEvaluation l) s = .next t ∧ t.thm.tj ∈ l ∧ (∀ v ∈ l, v ≤ t.thm.tj) ∧
      t.thm.evalNext = s.tick + 25000 ∧ t.fld Fld.THM_STAT_TJ = (t.thm.tj % 4096).toNat ∧
      t.bit Fld.THM_STAT_WARN = (if 1150 ≤ t.thm.tj then true else if t.thm.tj ≤ 1120 then false else s.bit Fld.THM_STAT_WARN) ∧
      t.thm.shutdown = (if 1400 ≤ t.thm.tj then true else if t.thm.tj ≤ 1300 then false else s.thm.shutdown) ∧
      (t.thm.shutdown = true → ∀ n, (t.demandSrc n).getLsbD 7 = true) ∧
      (s.dTh ≤ t.thm.tj → t.thm.derate = true ∧ t.thm.upSince = some (s.thm.upSince.getD s.tick) ∧
        t.fld Fld.THM_STAT_LEVEL = if s.thm.derate then s.fld Fld.THM_STAT_LEVEL else s.levelUp) ∧
      (t.thm.tj ≤ s.dTh - 50 → t.thm.derate = false ∧ t.thm.downSince = some (s.thm.downSince.getD s.tick)) ∧
      (t.thm.tj < s.dTh → t.thm.upSince = none ∧ t.fld Fld.THM_STAT_LEVEL = s.fld Fld.THM_STAT_LEVEL)) ∧
    (∀ u, s.thm.upSince = some u →
      let due := u + max 1 (s.fld Fld.THM_CFG_DWELL_S) * 250000000
      (s.tick < due → exec .deratingDwell s = .next s) ∧
      (due ≤ s.tick → ∃ t, exec .deratingDwell s = .next t ∧ t.fld Fld.THM_STAT_LEVEL = s.levelUp ∧ t.thm.upSince = some s.tick)) ∧
    (∀ u, s.thm.upSince = none → s.thm.downSince = some u → u + max 1 (s.fld Fld.THM_CFG_REL_S) * 250000000 ≤ s.tick →
      ∃ t, exec .deratingDwell s = .next t ∧ t.fld Fld.THM_STAT_LEVEL = s.levelDown ∧ t.thm.downSince = some s.tick) ∧
    (s.fld Fld.THM_STAT_LEVEL < 7 → s.fld Fld.THM_STAT_LEVEL < s.levelUp) ∧
    (s.Open → ∃ t, exec (.fanEnable 0 f w) s = .next t ∧ others t ∧ t.word .THM_FANf_CFG i = w &&& 0xFFFFFF0F ∧
      (s.bit Fld.THM_FANf_CFG_EN i = false → Fld.THM_FANf_CFG_EN.get w = 1 → t.fanState f = .starting ∧ t.fld Fld.THM_FANf_STAT_KICKS i = 0 ∧
        (t.fan f).due = s.tick + 500000000) ∧
      (s.bit Fld.THM_FANf_CFG_EN i = true → Fld.THM_FANf_CFG_EN.get w = 0 → t.fanState f = .off)) ∧
    (s.fansHeld = true → exec (.fanTachPulse f ma) s = .next s ∧ exec (.fanTachSilent f ma) s = .next s ∧ exec (.fanKickExpiry f ma) s = .next s ∧
      exec (.fanRetry f) s = .next s ∧ exec (.fanOpen f held) s = .next s ∧ exec (.fanCurrentRestored f ma) s = .next s) ∧
    (st = .off ∨ st = .blocked ∨ st = .open_ → exec (.fanTachPulse f ma) s = .next s) ∧
    (s.fansHeld = false →
    (st = .starting ∨ st = .run ∨ st = .tachLost → ∃ t, exec (.fanTachPulse f ma) s = .next t ∧ others t ∧ t.fanState f = .run ∧
      (t.fan f).lastPulse = s.tick ∧ (t.fan f).cur = ma ∧ (0 < x.lastPulse → x.lastPulse < s.tick → s.tick ≤ x.lastPulse + 250000000 →
        let q := 15000000000 / ((s.tick - x.lastPulse) * (s.fld Fld.THM_FANf_CFG_PPR i + 1))
        min 65535 q ≤ t.fld Fld.THM_FANf_TACH_RPM i ∧ t.fld Fld.THM_FANf_TACH_RPM i ≤ q + 1)) ∧
    (let high : Prop := s.fld Fld.THM_FANf_CFG_HIGH i * 10 ≤ ma ∨ 1000 ≤ ma
     let silent : Prop := x.lastPulse + 250000000 ≤ s.tick ∧ ∃ u, x.dutyFrom = some u ∧ u + 250000000 ≤ s.tick
     (st ≠ .run ∧ st ≠ .tachLost ∨ ¬silent → exec (.fanTachSilent f ma) s = .next s) ∧
     (st = .run ∨ st = .tachLost → silent → ∃ t, exec (.fanTachSilent f ma) s = .next t ∧
        others t ∧ t.fld Fld.THM_FANf_TACH_RPM i = 0 ∧ (high → t.fanState f = .blocked ∧ (t.fan f).due = s.tick + 15000000000) ∧
        (¬high → 20 ≤ ma → t.fanState f = .tachLost) ∧ (¬high → ma < 20 → t.fanState f = st))) ∧
    (st ≠ .starting ∨ s.tick < x.due → exec (.fanKickExpiry f ma) s = .next s) ∧
    (st = .starting → x.due ≤ s.tick → ∃ t, exec (.fanKickExpiry f ma) s = .next t ∧ others t ∧
      (s.fld Fld.THM_FANf_STAT_KICKS i < 3 → t.fanState f = .starting ∧
        t.fld Fld.THM_FANf_STAT_KICKS i = s.fld Fld.THM_FANf_STAT_KICKS i + 1 ∧ (t.fan f).due = s.tick + 500000000) ∧
      (3 ≤ s.fld Fld.THM_FANf_STAT_KICKS i → t.fanState f = .blocked ∧ (t.fan f).due = s.tick + 15000000000)) ∧
    (st ≠ .blocked ∨ s.tick < x.due → exec (.fanRetry f) s = .next s) ∧
    (st = .blocked → x.due ≤ s.tick → ∃ t, exec (.fanRetry f) s = .next t ∧ others t ∧ t.fanState f = .starting ∧
      t.fld Fld.THM_FANf_STAT_KICKS i = 0) ∧
    (st = .off ∨ st = .blocked ∨ held < 250000000 → exec (.fanOpen f held) s = .next s) ∧
    (st ≠ .off → st ≠ .blocked → 250000000 ≤ held → ∃ t, exec (.fanOpen f held) s = .next t ∧ others t ∧ t.fanState f = .open_ ∧ (t.fan f).cur = 0) ∧
    (st ≠ .open_ ∨ ma < 20 → exec (.fanCurrentRestored f ma) s = .next s) ∧
    (st = .open_ → 20 ≤ ma → ∃ t, exec (.fanCurrentRestored f ma) s = .next t ∧ others t ∧
      t.fanState f = if s.tick < x.lastPulse + 250000000 then .run else .starting))

/-! ## Registers and the whole machine (18_register_map.md) -/

/-- Writes of registers and of the shared-memory window (R7, R10, R11, R483 to R486, R489, R496). RW and FB fields take the written value, flags
are cleared by ones unless hardware set them in the same tick (R9), RO fields stay; the feedback block starts anew with its configuration;
an FB register's effect waits; a register that is taken only while the axis is OFF is ignored else, with CFG_REJ; while READY is 0 or
LOADING is 1 a write of F0 is ignored, with WR_REJ; nothing outside its block is a VF's. A window write reaches each byte that is not the
device's own, and waits while an engine waits for shared memory (R21). -/
def Obligations.RegisterWrites : Prop :=
  ∀ (s : State) (fn : FnId) (r : Reg) (n : AxId) (addr : BitVec 32) (w : Word) (data : List Byte), s.Sound → s.fnState 0 ≠ .absent →
    let a := BitVec.ofNat 32 (r.addr n.val)
    let hw := s.hwBits (r.addr n.val)
    let merged (t : State) : Prop := s.onlyBits t [r.spot n.val] ∧ ∀ f ∈ Reg.fields r,
      (f.acc = .rw ∨ f.acc = .fb → f.get hw = 0 → t.fld f n.val = f.get w) ∧ (f.acc = .ro → t.fld f n.val = s.fld f n.val) ∧
      (f.acc = .w1c → ∀ k, (t.fld f n.val).testBit k =
        ((s.fld f n.val).testBit k && (!(f.get w).testBit k || (f.get hw).testBit k)))
    let still : Prop := ∀ b, (s.bnk b).carrier ≠ .pending ∧ ∀ t, (s.bnk b).carrier ≠ .starting t
    let plain : List Reg := [.AX_STATE, .AX_STOPCFG, .AX_LFAULT, .AX_LIMCFG, .AX_PSTAT, .AX_WC, .AX_DLMISS, .AX_FBFLT, .AX_FBSAFE, .AX_MSTAT]
    let offOnly : List Reg := [.AX_ANGCFG, .AX_ANGOFS, .AX_MOTCFG, .AX_PLUG]
    let feedback : List Reg := [.AX_QCFG, .AX_SCCFG, .AX_SSICFG]
    (s.Open → still → r ∈ plain ∨ (r ∈ offOnly ∧ s.axState n = .off) →
      ∃ t, exec (.registerWrite 0 a w) s = .next t ∧ t = { s with regs := t.regs, hostSet := t.hostSet } ∧ merged t ∧
        t.hostSet = (if r = .AX_ANGOFS then r.addr n.val :: s.hostSet else s.hostSet)) ∧
    (s.Open → still → r ∈ feedback → s.axState n = .off →
      ∃ t, exec (.registerWrite 0 a w) s = .next t ∧ t = { s with regs := t.regs, fb := t.fb } ∧ merged t ∧
        (∀ m ≠ n, t.fbk m = s.fbk m) ∧ t.fbk n = { s.fbk n with
          dir := none, dirP := none, ampBad := 0, trackBad := 0, scOk := false, ssiLast := none, ssiDelta := 0, ssiExtra := 0, ssiErr := 0,
          ssiBusy := none, scLast := none, quadCount := (t.fbk n).quadCount, qcHist := [] }) ∧
    (s.Open → still → r ∈ offOnly ∨ r ∈ feedback ∨ r = .AX_CFG ∨ r = .AX_PWM ∨ r = .AX_FBCFG ∨ r = .AX_STEPCFG → s.axState n ≠ .off →
      exec (.registerWrite 0 a w) s = .next (s.setBit Fld.AX_STATE_CFG_REJ n.val true)) ∧
    (s.Open → still → r ∈ [Reg.AX_SENSE, .AX_GDPROF, .AX_OC, .AX_HALL] →
      ∃ t, exec (.registerWrite 0 a w) s = .next t ∧ t = { s with regs := t.regs, fbPend := t.fbPend } ∧ merged t ∧
        t.fbPend = s.fbPend ++ [⟨r.addr n.val, t.word r n.val, s.tick, s.countsStopped n.bank⟩]) ∧
    (s.legsHeld = false → s.bit Fld.GLB_STAT_READY = false ∨ s.bit Fld.GLB_STAT_LOADING = true → 0x10000 ≤ addr.toNat → addr.toNat < 0x100000 →
      addr.toNat % 4 = 0 → exec (.registerWrite 0 addr w) s = .next (s.setBit Fld.GLB_STAT_WR_REJ 0 true)) ∧
    (addr.toNat % 4 ≠ 0 ∨ s.awake = false → exec (.registerWrite fn addr w) s = .next s) ∧
    (fn ≠ 0 → 0xF000 ≤ addr.toNat → exec (.registerWrite fn addr w) s = .next s) ∧
    (s.Open → Reg.find addr.toNat = none → addr.toNat < 0x300000 → exec (.registerWrite 0 addr w) s = .next s) ∧
    (fn ≠ 0 ∨ addr.toNat < 0x300000 ∨ 0x400000 ≤ addr.toNat → exec (.shmemWindowWrite fn addr data) s = .next s) ∧
    (s.legsHeld = false → s.bit Fld.GLB_STAT_READY = false ∨ s.bit Fld.GLB_STAT_LOADING = true → 0x300000 ≤ addr.toNat → addr.toNat < 0x400000 →
      exec (.shmemWindowWrite 0 addr data) s = .next (s.setBit Fld.GLB_STAT_WR_REJ 0 true)) ∧
    (s.Open → 0x300000 ≤ addr.toNat → addr.toNat < 0x400000 → (∃ e, s.waitsShared e = true) →
      ∃ t, exec (.shmemWindowWrite 0 addr data) s = .next t ∧ t = { s with hostWin := t.hostWin } ∧ ∃ ws, t.hostWin = s.hostWin ++ ws) ∧
    (s.Open → (∀ e, s.waitsShared e = false) → s.hostWin = [] → 0x300000 ≤ addr.toNat → addr.toNat < 0x400000 →
      ∃ t, exec (.shmemWindowWrite 0 addr data) s = .next t ∧
      t = { s with shmem := t.shmem } ∧ ∀ b,
        let off := addr.toNat - 0x300000
        let base := 0x100000 * s.fld Fld.GLB_SMWIN_PAGE + off
        let blocked : Prop := (0x100000 ≤ b ∧ b < 0x1C0000) ∨ (0x1E0000 ≤ b ∧ b < 0x1E0800 ∧ s.bit Fld.GLB_MON_CFG_EN = true) ∨
          (0x1E4020 ≤ b ∧ b < 0x1E4100) ∨
          (0x1F0000 ≤ b ∧ b < 0x200000 ∧ (s.fld Fld.GLB_CAM_BUSY_BUSY).testBit ((b - 0x1F0000) / 0x1000) = true)
        (base ≤ b → b < base + data.length → off + (b - base) < 0x100000 → ¬blocked → Mem.byte t.shmem b = data.getD (b - base) 0) ∧
        (¬(base ≤ b ∧ b < base + data.length ∧ off + (b - base) < 0x100000) ∨ blocked → Mem.byte t.shmem b = Mem.byte s.shmem b))

/-- A step runs the command at the front of the queue on the state without it; on an empty queue one tick of 4 ns passes (assumption 1). -/
def Obligations.StepRunsFront : Prop :=
  ∀ (s : State) (c : Instr) (rest : List Instr),
    step { s with pending := c :: rest } = exec c { s with pending := rest } ∧
    (s.pending = [] → ∃ t, step s = .next t ∧ t.tick = s.tick + 1 ∧ t.dt = (s.time.dtSetPend).getD (s.dt + 4) ∧ t.pending = [])

/-- What reset leaves (R27, R39, R84, R145, R487): every register at its reset word, memory all zeros, every axis OFF with its latch OFF, every
carrier stopped, every engine OFF, every ring empty, and nothing queued (the values that the spec does not state are those of assumptions 3
and 10). -/
def Obligations.AtReset : Prop :=
  ∀ (r : Reg) (i j : Nat) (a : Nat) (n : AxId) (b : BankId) (e : EngId) (f : FnId),
    let s := State.reset
    s.word r i j = Reg.resetAt (r.addr i j) ∧ Mem.byte s.shmem a = 0 ∧ s.axState n = .off ∧ s.legNow n = .off ∧ (s.ax n).released = .off ∧
    (∀ l, (s.leg n l).high = false ∧ (s.leg n l).low = false) ∧ (s.bnk b).carrier = .stopped ∧ s.engState e = .off ∧ (s.fn f).comps = [] ∧
    s.accepted = [] ∧ s.pending = [] ∧ (∀ id, (s.ax n).coefVal id = coefReset id)

/-- The state at reset is sound. -/
def Obligations.SoundAtReset : Prop :=
  State.Sound State.reset

/-- Every step keeps a sound state sound: every memory and every register keeps one home, and no leg has both switches on (R168). -/
def Obligations.StepKeepsSound : Prop :=
  ∀ s t : State, s.Sound → step s = .next t → t.Sound

/-- Every command completes, and what it may change: from every state it answers a next state (a DESCRIPTOR_FETCH where the operand is a whole
descriptor of 64 bytes, R303), and no part of the state outside the parts that `touches` names for it is changed. No command changes the
queue or the tick. -/
def Obligations.CommandFootprint : Prop :=
  ∀ (c : Instr) (s : State), (∀ fn ring desc buf err, c = .descriptorFetch fn ring desc buf err → desc.length = 64) →
    ∃ t, exec c s = .next t ∧ ∀ p : Part, p ∉ touches c → s.same t p
end

