-- ==== Sys2Proof/Laws/State.lean ====
section
/-! SUPPORT. One lemma per field of State and per update: what an update leaves alone, by rfl, and what it reads back. -/

namespace Sys2Proof.Machine

variable (s : State)

/-! setEng -/
@[simp] theorem State.setEng_pending (e : EngId) (x : Engine) : (s.setEng e x).pending = s.pending := rfl
@[simp] theorem State.setEng_tick (e : EngId) (x : Engine) : (s.setEng e x).tick = s.tick := rfl
@[simp] theorem State.setEng_dt (e : EngId) (x : Engine) : (s.setEng e x).dt = s.dt := rfl
@[simp] theorem State.setEng_free (e : EngId) (x : Engine) : (s.setEng e x).free = s.free := rfl
@[simp] theorem State.setEng_regs (e : EngId) (x : Engine) : (s.setEng e x).regs = s.regs := rfl
@[simp] theorem State.setEng_hwSet (e : EngId) (x : Engine) : (s.setEng e x).hwSet = s.hwSet := rfl
@[simp] theorem State.setEng_hostSet (e : EngId) (x : Engine) : (s.setEng e x).hostSet = s.hostSet := rfl
@[simp] theorem State.setEng_force (e : EngId) (x : Engine) : (s.setEng e x).force = s.force := rfl
@[simp] theorem State.setEng_fbPend (e : EngId) (x : Engine) : (s.setEng e x).fbPend = s.fbPend := rfl
@[simp] theorem State.setEng_lastRead (e : EngId) (x : Engine) : (s.setEng e x).lastRead = s.lastRead := rfl
@[simp] theorem State.setEng_shmem (e : EngId) (x : Engine) : (s.setEng e x).shmem = s.shmem := rfl
@[simp] theorem State.setEng_arbLast (e : EngId) (x : Engine) : (s.setEng e x).arbLast = s.arbLast := rfl
@[simp] theorem State.setEng_hostWin (e : EngId) (x : Engine) : (s.setEng e x).hostWin = s.hostWin := rfl
@[simp] theorem State.setEng_axes (e : EngId) (x : Engine) : (s.setEng e x).axes = s.axes := rfl
@[simp] theorem State.setEng_banks (e : EngId) (x : Engine) : (s.setEng e x).banks = s.banks := rfl
@[simp] theorem State.setEng_fb (e : EngId) (x : Engine) : (s.setEng e x).fb = s.fb := rfl
@[simp] theorem State.setEng_po (e : EngId) (x : Engine) : (s.setEng e x).po = s.po := rfl
@[simp] theorem State.setEng_mot (e : EngId) (x : Engine) : (s.setEng e x).mot = s.mot := rfl
@[simp] theorem State.setEng_shaft (e : EngId) (x : Engine) : (s.setEng e x).shaft = s.shaft := rfl
@[simp] theorem State.setEng_mon (e : EngId) (x : Engine) : (s.setEng e x).mon = s.mon := rfl
@[simp] theorem State.setEng_funcs (e : EngId) (x : Engine) : (s.setEng e x).funcs = s.funcs := rfl
@[simp] theorem State.setEng_accepted (e : EngId) (x : Engine) : (s.setEng e x).accepted = s.accepted := rfl
@[simp] theorem State.setEng_hostOut (e : EngId) (x : Engine) : (s.setEng e x).hostOut = s.hostOut := rfl
@[simp] theorem State.setEng_fetchLast (e : EngId) (x : Engine) : (s.setEng e x).fetchLast = s.fetchLast := rfl
@[simp] theorem State.setEng_ownChanges (e : EngId) (x : Engine) : (s.setEng e x).ownChanges = s.ownChanges := rfl
@[simp] theorem State.setEng_doms (e : EngId) (x : Engine) : (s.setEng e x).doms = s.doms := rfl
@[simp] theorem State.setEng_time (e : EngId) (x : Engine) : (s.setEng e x).time = s.time := rfl
@[simp] theorem State.setEng_fdb (e : EngId) (x : Engine) : (s.setEng e x).fdb = s.fdb := rfl
@[simp] theorem State.setEng_ports (e : EngId) (x : Engine) : (s.setEng e x).ports = s.ports := rfl
@[simp] theorem State.setEng_txqs (e : EngId) (x : Engine) : (s.setEng e x).txqs = s.txqs := rfl
@[simp] theorem State.setEng_rx (e : EngId) (x : Engine) : (s.setEng e x).rx = s.rx := rfl
@[simp] theorem State.setEng_wireOut (e : EngId) (x : Engine) : (s.setEng e x).wireOut = s.wireOut := rfl
@[simp] theorem State.setEng_cans (e : EngId) (x : Engine) : (s.setEng e x).cans = s.cans := rfl
@[simp] theorem State.setEng_dios (e : EngId) (x : Engine) : (s.setEng e x).dios = s.dios := rfl
@[simp] theorem State.setEng_dio (e : EngId) (x : Engine) : (s.setEng e x).dio = s.dio := rfl
@[simp] theorem State.setEng_saf (e : EngId) (x : Engine) : (s.setEng e x).saf = s.saf := rfl
@[simp] theorem State.setEng_fo (e : EngId) (x : Engine) : (s.setEng e x).fo = s.fo := rfl
@[simp] theorem State.setEng_prof (e : EngId) (x : Engine) : (s.setEng e x).prof = s.prof := rfl
@[simp] theorem State.setEng_store (e : EngId) (x : Engine) : (s.setEng e x).store = s.store := rfl
@[simp] theorem State.setEng_pwr (e : EngId) (x : Engine) : (s.setEng e x).pwr = s.pwr := rfl
@[simp] theorem State.setEng_plugs (e : EngId) (x : Engine) : (s.setEng e x).plugs = s.plugs := rfl
@[simp] theorem State.setEng_thm (e : EngId) (x : Engine) : (s.setEng e x).thm = s.thm := rfl
@[simp] theorem State.setEng_ax (e : EngId) (x : Engine) (k : AxId) : (s.setEng e x).ax k = s.ax k := rfl
@[simp] theorem State.setEng_bnk (e : EngId) (x : Engine) (k : BankId) : (s.setEng e x).bnk k = s.bnk k := rfl
@[simp] theorem State.setEng_fn (e : EngId) (x : Engine) (k : FnId) : (s.setEng e x).fn k = s.fn k := rfl
@[simp] theorem State.setEng_fbk (e : EngId) (x : Engine) (k : AxId) : (s.setEng e x).fbk k = s.fbk k := rfl
@[simp] theorem State.setEng_motion (e : EngId) (x : Engine) (k : AxId) : (s.setEng e x).motion k = s.motion k := rfl
@[simp] theorem State.setEng_moni (e : EngId) (x : Engine) (k : AxId) : (s.setEng e x).moni k = s.moni k := rfl
@[simp] theorem State.setEng_failover (e : EngId) (x : Engine) (k : AxId) : (s.setEng e x).failover k = s.failover k := rfl
@[simp] theorem State.setEng_plug (e : EngId) (x : Engine) (k : AxId) : (s.setEng e x).plug k = s.plug k := rfl
@[simp] theorem State.setEng_rep (e : EngId) (x : Engine) (k : PoId) : (s.setEng e x).rep k = s.rep k := rfl
@[simp] theorem State.setEng_can (e : EngId) (x : Engine) (k : CanId) : (s.setEng e x).can k = s.can k := rfl
@[simp] theorem State.setEng_chan (e : EngId) (x : Engine) (k : DioId) : (s.setEng e x).chan k = s.chan k := rfl
@[simp] theorem State.setEng_port (e : EngId) (x : Engine) (k : PortId) : (s.setEng e x).port k = s.port k := rfl
@[simp] theorem State.setEng_txq (e : EngId) (x : Engine) (k : TxqId) : (s.setEng e x).txq k = s.txq k := rfl
@[simp] theorem State.setEng_dom (e : EngId) (x : Engine) (k : Fin 2) : (s.setEng e x).dom k = s.dom k := rfl
@[simp] theorem State.setEng_word (e : EngId) (x : Engine) (r : Reg) (i i' : Nat) : (s.setEng e x).word r i i' = s.word r i i' := rfl
@[simp] theorem State.setEng_fld (e : EngId) (x : Engine) (g : Fld) (i i' : Nat) : (s.setEng e x).fld g i i' = s.fld g i i' := rfl
@[simp] theorem State.setEng_bit (e : EngId) (x : Engine) (g : Fld) (i i' : Nat) : (s.setEng e x).bit g i i' = s.bit g i i' := rfl
@[simp] theorem State.eng_setEng_same (e : EngId) (x : Engine) : (s.setEng e x).eng e = x := by simp [State.setEng, State.eng]
theorem State.eng_setEng_ne (e : EngId) (x : Engine) {m : EngId} (h : m ≠ e) : (s.setEng e x).eng m = s.eng m := by
  have : e.val ≠ m.val := fun hv => h (Fin.ext hv.symm)
  simp [State.setEng, State.eng, this]

/-! setAx -/
@[simp] theorem State.setAx_pending (n : AxId) (x : Axis) : (s.setAx n x).pending = s.pending := rfl
@[simp] theorem State.setAx_tick (n : AxId) (x : Axis) : (s.setAx n x).tick = s.tick := rfl
@[simp] theorem State.setAx_dt (n : AxId) (x : Axis) : (s.setAx n x).dt = s.dt := rfl
@[simp] theorem State.setAx_free (n : AxId) (x : Axis) : (s.setAx n x).free = s.free := rfl
@[simp] theorem State.setAx_regs (n : AxId) (x : Axis) : (s.setAx n x).regs = s.regs := rfl
@[simp] theorem State.setAx_hwSet (n : AxId) (x : Axis) : (s.setAx n x).hwSet = s.hwSet := rfl
@[simp] theorem State.setAx_hostSet (n : AxId) (x : Axis) : (s.setAx n x).hostSet = s.hostSet := rfl
@[simp] theorem State.setAx_force (n : AxId) (x : Axis) : (s.setAx n x).force = s.force := rfl
@[simp] theorem State.setAx_fbPend (n : AxId) (x : Axis) : (s.setAx n x).fbPend = s.fbPend := rfl
@[simp] theorem State.setAx_lastRead (n : AxId) (x : Axis) : (s.setAx n x).lastRead = s.lastRead := rfl
@[simp] theorem State.setAx_shmem (n : AxId) (x : Axis) : (s.setAx n x).shmem = s.shmem := rfl
@[simp] theorem State.setAx_arbLast (n : AxId) (x : Axis) : (s.setAx n x).arbLast = s.arbLast := rfl
@[simp] theorem State.setAx_hostWin (n : AxId) (x : Axis) : (s.setAx n x).hostWin = s.hostWin := rfl
@[simp] theorem State.setAx_engines (n : AxId) (x : Axis) : (s.setAx n x).engines = s.engines := rfl
@[simp] theorem State.setAx_banks (n : AxId) (x : Axis) : (s.setAx n x).banks = s.banks := rfl
@[simp] theorem State.setAx_fb (n : AxId) (x : Axis) : (s.setAx n x).fb = s.fb := rfl
@[simp] theorem State.setAx_po (n : AxId) (x : Axis) : (s.setAx n x).po = s.po := rfl
@[simp] theorem State.setAx_mot (n : AxId) (x : Axis) : (s.setAx n x).mot = s.mot := rfl
@[simp] theorem State.setAx_shaft (n : AxId) (x : Axis) : (s.setAx n x).shaft = s.shaft := rfl
@[simp] theorem State.setAx_mon (n : AxId) (x : Axis) : (s.setAx n x).mon = s.mon := rfl
@[simp] theorem State.setAx_funcs (n : AxId) (x : Axis) : (s.setAx n x).funcs = s.funcs := rfl
@[simp] theorem State.setAx_accepted (n : AxId) (x : Axis) : (s.setAx n x).accepted = s.accepted := rfl
@[simp] theorem State.setAx_hostOut (n : AxId) (x : Axis) : (s.setAx n x).hostOut = s.hostOut := rfl
@[simp] theorem State.setAx_fetchLast (n : AxId) (x : Axis) : (s.setAx n x).fetchLast = s.fetchLast := rfl
@[simp] theorem State.setAx_ownChanges (n : AxId) (x : Axis) : (s.setAx n x).ownChanges = s.ownChanges := rfl
@[simp] theorem State.setAx_doms (n : AxId) (x : Axis) : (s.setAx n x).doms = s.doms := rfl
@[simp] theorem State.setAx_time (n : AxId) (x : Axis) : (s.setAx n x).time = s.time := rfl
@[simp] theorem State.setAx_fdb (n : AxId) (x : Axis) : (s.setAx n x).fdb = s.fdb := rfl
@[simp] theorem State.setAx_ports (n : AxId) (x : Axis) : (s.setAx n x).ports = s.ports := rfl
@[simp] theorem State.setAx_txqs (n : AxId) (x : Axis) : (s.setAx n x).txqs = s.txqs := rfl
@[simp] theorem State.setAx_rx (n : AxId) (x : Axis) : (s.setAx n x).rx = s.rx := rfl
@[simp] theorem State.setAx_wireOut (n : AxId) (x : Axis) : (s.setAx n x).wireOut = s.wireOut := rfl
@[simp] theorem State.setAx_cans (n : AxId) (x : Axis) : (s.setAx n x).cans = s.cans := rfl
@[simp] theorem State.setAx_dios (n : AxId) (x : Axis) : (s.setAx n x).dios = s.dios := rfl
@[simp] theorem State.setAx_dio (n : AxId) (x : Axis) : (s.setAx n x).dio = s.dio := rfl
@[simp] theorem State.setAx_saf (n : AxId) (x : Axis) : (s.setAx n x).saf = s.saf := rfl
@[simp] theorem State.setAx_fo (n : AxId) (x : Axis) : (s.setAx n x).fo = s.fo := rfl
@[simp] theorem State.setAx_prof (n : AxId) (x : Axis) : (s.setAx n x).prof = s.prof := rfl
@[simp] theorem State.setAx_store (n : AxId) (x : Axis) : (s.setAx n x).store = s.store := rfl
@[simp] theorem State.setAx_pwr (n : AxId) (x : Axis) : (s.setAx n x).pwr = s.pwr := rfl
@[simp] theorem State.setAx_plugs (n : AxId) (x : Axis) : (s.setAx n x).plugs = s.plugs := rfl
@[simp] theorem State.setAx_thm (n : AxId) (x : Axis) : (s.setAx n x).thm = s.thm := rfl
@[simp] theorem State.setAx_eng (n : AxId) (x : Axis) (k : EngId) : (s.setAx n x).eng k = s.eng k := rfl
@[simp] theorem State.setAx_bnk (n : AxId) (x : Axis) (k : BankId) : (s.setAx n x).bnk k = s.bnk k := rfl
@[simp] theorem State.setAx_fn (n : AxId) (x : Axis) (k : FnId) : (s.setAx n x).fn k = s.fn k := rfl
@[simp] theorem State.setAx_fbk (n : AxId) (x : Axis) (k : AxId) : (s.setAx n x).fbk k = s.fbk k := rfl
@[simp] theorem State.setAx_motion (n : AxId) (x : Axis) (k : AxId) : (s.setAx n x).motion k = s.motion k := rfl
@[simp] theorem State.setAx_moni (n : AxId) (x : Axis) (k : AxId) : (s.setAx n x).moni k = s.moni k := rfl
@[simp] theorem State.setAx_failover (n : AxId) (x : Axis) (k : AxId) : (s.setAx n x).failover k = s.failover k := rfl
@[simp] theorem State.setAx_plug (n : AxId) (x : Axis) (k : AxId) : (s.setAx n x).plug k = s.plug k := rfl
@[simp] theorem State.setAx_rep (n : AxId) (x : Axis) (k : PoId) : (s.setAx n x).rep k = s.rep k := rfl
@[simp] theorem State.setAx_can (n : AxId) (x : Axis) (k : CanId) : (s.setAx n x).can k = s.can k := rfl
@[simp] theorem State.setAx_chan (n : AxId) (x : Axis) (k : DioId) : (s.setAx n x).chan k = s.chan k := rfl
@[simp] theorem State.setAx_port (n : AxId) (x : Axis) (k : PortId) : (s.setAx n x).port k = s.port k := rfl
@[simp] theorem State.setAx_txq (n : AxId) (x : Axis) (k : TxqId) : (s.setAx n x).txq k = s.txq k := rfl
@[simp] theorem State.setAx_dom (n : AxId) (x : Axis) (k : Fin 2) : (s.setAx n x).dom k = s.dom k := rfl
@[simp] theorem State.setAx_word (n : AxId) (x : Axis) (r : Reg) (i i' : Nat) : (s.setAx n x).word r i i' = s.word r i i' := rfl
@[simp] theorem State.setAx_fld (n : AxId) (x : Axis) (g : Fld) (i i' : Nat) : (s.setAx n x).fld g i i' = s.fld g i i' := rfl
@[simp] theorem State.setAx_bit (n : AxId) (x : Axis) (g : Fld) (i i' : Nat) : (s.setAx n x).bit g i i' = s.bit g i i' := rfl
@[simp] theorem State.ax_setAx_same (n : AxId) (x : Axis) : (s.setAx n x).ax n = x := by simp [State.setAx, State.ax]
theorem State.ax_setAx_ne (n : AxId) (x : Axis) {m : AxId} (h : m ≠ n) : (s.setAx n x).ax m = s.ax m := by
  have : n.val ≠ m.val := fun hv => h (Fin.ext hv.symm)
  simp [State.setAx, State.ax, this]

/-! setBnk -/
@[simp] theorem State.setBnk_pending (b : BankId) (x : Bank) : (s.setBnk b x).pending = s.pending := rfl
@[simp] theorem State.setBnk_tick (b : BankId) (x : Bank) : (s.setBnk b x).tick = s.tick := rfl
@[simp] theorem State.setBnk_dt (b : BankId) (x : Bank) : (s.setBnk b x).dt = s.dt := rfl
@[simp] theorem State.setBnk_free (b : BankId) (x : Bank) : (s.setBnk b x).free = s.free := rfl
@[simp] theorem State.setBnk_regs (b : BankId) (x : Bank) : (s.setBnk b x).regs = s.regs := rfl
@[simp] theorem State.setBnk_hwSet (b : BankId) (x : Bank) : (s.setBnk b x).hwSet = s.hwSet := rfl
@[simp] theorem State.setBnk_hostSet (b : BankId) (x : Bank) : (s.setBnk b x).hostSet = s.hostSet := rfl
@[simp] theorem State.setBnk_force (b : BankId) (x : Bank) : (s.setBnk b x).force = s.force := rfl
@[simp] theorem State.setBnk_fbPend (b : BankId) (x : Bank) : (s.setBnk b x).fbPend = s.fbPend := rfl
@[simp] theorem State.setBnk_lastRead (b : BankId) (x : Bank) : (s.setBnk b x).lastRead = s.lastRead := rfl
@[simp] theorem State.setBnk_shmem (b : BankId) (x : Bank) : (s.setBnk b x).shmem = s.shmem := rfl
@[simp] theorem State.setBnk_arbLast (b : BankId) (x : Bank) : (s.setBnk b x).arbLast = s.arbLast := rfl
@[simp] theorem State.setBnk_hostWin (b : BankId) (x : Bank) : (s.setBnk b x).hostWin = s.hostWin := rfl
@[simp] theorem State.setBnk_engines (b : BankId) (x : Bank) : (s.setBnk b x).engines = s.engines := rfl
@[simp] theorem State.setBnk_axes (b : BankId) (x : Bank) : (s.setBnk b x).axes = s.axes := rfl
@[simp] theorem State.setBnk_fb (b : BankId) (x : Bank) : (s.setBnk b x).fb = s.fb := rfl
@[simp] theorem State.setBnk_po (b : BankId) (x : Bank) : (s.setBnk b x).po = s.po := rfl
@[simp] theorem State.setBnk_mot (b : BankId) (x : Bank) : (s.setBnk b x).mot = s.mot := rfl
@[simp] theorem State.setBnk_shaft (b : BankId) (x : Bank) : (s.setBnk b x).shaft = s.shaft := rfl
@[simp] theorem State.setBnk_mon (b : BankId) (x : Bank) : (s.setBnk b x).mon = s.mon := rfl
@[simp] theorem State.setBnk_funcs (b : BankId) (x : Bank) : (s.setBnk b x).funcs = s.funcs := rfl
@[simp] theorem State.setBnk_accepted (b : BankId) (x : Bank) : (s.setBnk b x).accepted = s.accepted := rfl
@[simp] theorem State.setBnk_hostOut (b : BankId) (x : Bank) : (s.setBnk b x).hostOut = s.hostOut := rfl
@[simp] theorem State.setBnk_fetchLast (b : BankId) (x : Bank) : (s.setBnk b x).fetchLast = s.fetchLast := rfl
@[simp] theorem State.setBnk_ownChanges (b : BankId) (x : Bank) : (s.setBnk b x).ownChanges = s.ownChanges := rfl
@[simp] theorem State.setBnk_doms (b : BankId) (x : Bank) : (s.setBnk b x).doms = s.doms := rfl
@[simp] theorem State.setBnk_time (b : BankId) (x : Bank) : (s.setBnk b x).time = s.time := rfl
@[simp] theorem State.setBnk_fdb (b : BankId) (x : Bank) : (s.setBnk b x).fdb = s.fdb := rfl
@[simp] theorem State.setBnk_ports (b : BankId) (x : Bank) : (s.setBnk b x).ports = s.ports := rfl
@[simp] theorem State.setBnk_txqs (b : BankId) (x : Bank) : (s.setBnk b x).txqs = s.txqs := rfl
@[simp] theorem State.setBnk_rx (b : BankId) (x : Bank) : (s.setBnk b x).rx = s.rx := rfl
@[simp] theorem State.setBnk_wireOut (b : BankId) (x : Bank) : (s.setBnk b x).wireOut = s.wireOut := rfl
@[simp] theorem State.setBnk_cans (b : BankId) (x : Bank) : (s.setBnk b x).cans = s.cans := rfl
@[simp] theorem State.setBnk_dios (b : BankId) (x : Bank) : (s.setBnk b x).dios = s.dios := rfl
@[simp] theorem State.setBnk_dio (b : BankId) (x : Bank) : (s.setBnk b x).dio = s.dio := rfl
@[simp] theorem State.setBnk_saf (b : BankId) (x : Bank) : (s.setBnk b x).saf = s.saf := rfl
@[simp] theorem State.setBnk_fo (b : BankId) (x : Bank) : (s.setBnk b x).fo = s.fo := rfl
@[simp] theorem State.setBnk_prof (b : BankId) (x : Bank) : (s.setBnk b x).prof = s.prof := rfl
@[simp] theorem State.setBnk_store (b : BankId) (x : Bank) : (s.setBnk b x).store = s.store := rfl
@[simp] theorem State.setBnk_pwr (b : BankId) (x : Bank) : (s.setBnk b x).pwr = s.pwr := rfl
@[simp] theorem State.setBnk_plugs (b : BankId) (x : Bank) : (s.setBnk b x).plugs = s.plugs := rfl
@[simp] theorem State.setBnk_thm (b : BankId) (x : Bank) : (s.setBnk b x).thm = s.thm := rfl
@[simp] theorem State.setBnk_eng (b : BankId) (x : Bank) (k : EngId) : (s.setBnk b x).eng k = s.eng k := rfl
@[simp] theorem State.setBnk_ax (b : BankId) (x : Bank) (k : AxId) : (s.setBnk b x).ax k = s.ax k := rfl
@[simp] theorem State.setBnk_fn (b : BankId) (x : Bank) (k : FnId) : (s.setBnk b x).fn k = s.fn k := rfl
@[simp] theorem State.setBnk_fbk (b : BankId) (x : Bank) (k : AxId) : (s.setBnk b x).fbk k = s.fbk k := rfl
@[simp] theorem State.setBnk_motion (b : BankId) (x : Bank) (k : AxId) : (s.setBnk b x).motion k = s.motion k := rfl
@[simp] theorem State.setBnk_moni (b : BankId) (x : Bank) (k : AxId) : (s.setBnk b x).moni k = s.moni k := rfl
@[simp] theorem State.setBnk_failover (b : BankId) (x : Bank) (k : AxId) : (s.setBnk b x).failover k = s.failover k := rfl
@[simp] theorem State.setBnk_plug (b : BankId) (x : Bank) (k : AxId) : (s.setBnk b x).plug k = s.plug k := rfl
@[simp] theorem State.setBnk_rep (b : BankId) (x : Bank) (k : PoId) : (s.setBnk b x).rep k = s.rep k := rfl
@[simp] theorem State.setBnk_can (b : BankId) (x : Bank) (k : CanId) : (s.setBnk b x).can k = s.can k := rfl
@[simp] theorem State.setBnk_chan (b : BankId) (x : Bank) (k : DioId) : (s.setBnk b x).chan k = s.chan k := rfl
@[simp] theorem State.setBnk_port (b : BankId) (x : Bank) (k : PortId) : (s.setBnk b x).port k = s.port k := rfl
@[simp] theorem State.setBnk_txq (b : BankId) (x : Bank) (k : TxqId) : (s.setBnk b x).txq k = s.txq k := rfl
@[simp] theorem State.setBnk_dom (b : BankId) (x : Bank) (k : Fin 2) : (s.setBnk b x).dom k = s.dom k := rfl
@[simp] theorem State.setBnk_word (b : BankId) (x : Bank) (r : Reg) (i i' : Nat) : (s.setBnk b x).word r i i' = s.word r i i' := rfl
@[simp] theorem State.setBnk_fld (b : BankId) (x : Bank) (g : Fld) (i i' : Nat) : (s.setBnk b x).fld g i i' = s.fld g i i' := rfl
@[simp] theorem State.setBnk_bit (b : BankId) (x : Bank) (g : Fld) (i i' : Nat) : (s.setBnk b x).bit g i i' = s.bit g i i' := rfl
@[simp] theorem State.bnk_setBnk_same (b : BankId) (x : Bank) : (s.setBnk b x).bnk b = x := by simp [State.setBnk, State.bnk]
theorem State.bnk_setBnk_ne (b : BankId) (x : Bank) {m : BankId} (h : m ≠ b) : (s.setBnk b x).bnk m = s.bnk m := by
  have : b.val ≠ m.val := fun hv => h (Fin.ext hv.symm)
  simp [State.setBnk, State.bnk, this]

/-! setFn -/
@[simp] theorem State.setFn_pending (f : FnId) (x : Func) : (s.setFn f x).pending = s.pending := rfl
@[simp] theorem State.setFn_tick (f : FnId) (x : Func) : (s.setFn f x).tick = s.tick := rfl
@[simp] theorem State.setFn_dt (f : FnId) (x : Func) : (s.setFn f x).dt = s.dt := rfl
@[simp] theorem State.setFn_free (f : FnId) (x : Func) : (s.setFn f x).free = s.free := rfl
@[simp] theorem State.setFn_regs (f : FnId) (x : Func) : (s.setFn f x).regs = s.regs := rfl
@[simp] theorem State.setFn_hwSet (f : FnId) (x : Func) : (s.setFn f x).hwSet = s.hwSet := rfl
@[simp] theorem State.setFn_hostSet (f : FnId) (x : Func) : (s.setFn f x).hostSet = s.hostSet := rfl
@[simp] theorem State.setFn_force (f : FnId) (x : Func) : (s.setFn f x).force = s.force := rfl
@[simp] theorem State.setFn_fbPend (f : FnId) (x : Func) : (s.setFn f x).fbPend = s.fbPend := rfl
@[simp] theorem State.setFn_lastRead (f : FnId) (x : Func) : (s.setFn f x).lastRead = s.lastRead := rfl
@[simp] theorem State.setFn_shmem (f : FnId) (x : Func) : (s.setFn f x).shmem = s.shmem := rfl
@[simp] theorem State.setFn_arbLast (f : FnId) (x : Func) : (s.setFn f x).arbLast = s.arbLast := rfl
@[simp] theorem State.setFn_hostWin (f : FnId) (x : Func) : (s.setFn f x).hostWin = s.hostWin := rfl
@[simp] theorem State.setFn_engines (f : FnId) (x : Func) : (s.setFn f x).engines = s.engines := rfl
@[simp] theorem State.setFn_axes (f : FnId) (x : Func) : (s.setFn f x).axes = s.axes := rfl
@[simp] theorem State.setFn_banks (f : FnId) (x : Func) : (s.setFn f x).banks = s.banks := rfl
@[simp] theorem State.setFn_fb (f : FnId) (x : Func) : (s.setFn f x).fb = s.fb := rfl
@[simp] theorem State.setFn_po (f : FnId) (x : Func) : (s.setFn f x).po = s.po := rfl
@[simp] theorem State.setFn_mot (f : FnId) (x : Func) : (s.setFn f x).mot = s.mot := rfl
@[simp] theorem State.setFn_shaft (f : FnId) (x : Func) : (s.setFn f x).shaft = s.shaft := rfl
@[simp] theorem State.setFn_mon (f : FnId) (x : Func) : (s.setFn f x).mon = s.mon := rfl
@[simp] theorem State.setFn_accepted (f : FnId) (x : Func) : (s.setFn f x).accepted = s.accepted := rfl
@[simp] theorem State.setFn_hostOut (f : FnId) (x : Func) : (s.setFn f x).hostOut = s.hostOut := rfl
@[simp] theorem State.setFn_fetchLast (f : FnId) (x : Func) : (s.setFn f x).fetchLast = s.fetchLast := rfl
@[simp] theorem State.setFn_ownChanges (f : FnId) (x : Func) : (s.setFn f x).ownChanges = s.ownChanges := rfl
@[simp] theorem State.setFn_doms (f : FnId) (x : Func) : (s.setFn f x).doms = s.doms := rfl
@[simp] theorem State.setFn_time (f : FnId) (x : Func) : (s.setFn f x).time = s.time := rfl
@[simp] theorem State.setFn_fdb (f : FnId) (x : Func) : (s.setFn f x).fdb = s.fdb := rfl
@[simp] theorem State.setFn_ports (f : FnId) (x : Func) : (s.setFn f x).ports = s.ports := rfl
@[simp] theorem State.setFn_txqs (f : FnId) (x : Func) : (s.setFn f x).txqs = s.txqs := rfl
@[simp] theorem State.setFn_rx (f : FnId) (x : Func) : (s.setFn f x).rx = s.rx := rfl
@[simp] theorem State.setFn_wireOut (f : FnId) (x : Func) : (s.setFn f x).wireOut = s.wireOut := rfl
@[simp] theorem State.setFn_cans (f : FnId) (x : Func) : (s.setFn f x).cans = s.cans := rfl
@[simp] theorem State.setFn_dios (f : FnId) (x : Func) : (s.setFn f x).dios = s.dios := rfl
@[simp] theorem State.setFn_dio (f : FnId) (x : Func) : (s.setFn f x).dio = s.dio := rfl
@[simp] theorem State.setFn_saf (f : FnId) (x : Func) : (s.setFn f x).saf = s.saf := rfl
@[simp] theorem State.setFn_fo (f : FnId) (x : Func) : (s.setFn f x).fo = s.fo := rfl
@[simp] theorem State.setFn_prof (f : FnId) (x : Func) : (s.setFn f x).prof = s.prof := rfl
@[simp] theorem State.setFn_store (f : FnId) (x : Func) : (s.setFn f x).store = s.store := rfl
@[simp] theorem State.setFn_pwr (f : FnId) (x : Func) : (s.setFn f x).pwr = s.pwr := rfl
@[simp] theorem State.setFn_plugs (f : FnId) (x : Func) : (s.setFn f x).plugs = s.plugs := rfl
@[simp] theorem State.setFn_thm (f : FnId) (x : Func) : (s.setFn f x).thm = s.thm := rfl
@[simp] theorem State.setFn_eng (f : FnId) (x : Func) (k : EngId) : (s.setFn f x).eng k = s.eng k := rfl
@[simp] theorem State.setFn_ax (f : FnId) (x : Func) (k : AxId) : (s.setFn f x).ax k = s.ax k := rfl
@[simp] theorem State.setFn_bnk (f : FnId) (x : Func) (k : BankId) : (s.setFn f x).bnk k = s.bnk k := rfl
@[simp] theorem State.setFn_fbk (f : FnId) (x : Func) (k : AxId) : (s.setFn f x).fbk k = s.fbk k := rfl
@[simp] theorem State.setFn_motion (f : FnId) (x : Func) (k : AxId) : (s.setFn f x).motion k = s.motion k := rfl
@[simp] theorem State.setFn_moni (f : FnId) (x : Func) (k : AxId) : (s.setFn f x).moni k = s.moni k := rfl
@[simp] theorem State.setFn_failover (f : FnId) (x : Func) (k : AxId) : (s.setFn f x).failover k = s.failover k := rfl
@[simp] theorem State.setFn_plug (f : FnId) (x : Func) (k : AxId) : (s.setFn f x).plug k = s.plug k := rfl
@[simp] theorem State.setFn_rep (f : FnId) (x : Func) (k : PoId) : (s.setFn f x).rep k = s.rep k := rfl
@[simp] theorem State.setFn_can (f : FnId) (x : Func) (k : CanId) : (s.setFn f x).can k = s.can k := rfl
@[simp] theorem State.setFn_chan (f : FnId) (x : Func) (k : DioId) : (s.setFn f x).chan k = s.chan k := rfl
@[simp] theorem State.setFn_port (f : FnId) (x : Func) (k : PortId) : (s.setFn f x).port k = s.port k := rfl
@[simp] theorem State.setFn_txq (f : FnId) (x : Func) (k : TxqId) : (s.setFn f x).txq k = s.txq k := rfl
@[simp] theorem State.setFn_dom (f : FnId) (x : Func) (k : Fin 2) : (s.setFn f x).dom k = s.dom k := rfl
@[simp] theorem State.setFn_word (f : FnId) (x : Func) (r : Reg) (i i' : Nat) : (s.setFn f x).word r i i' = s.word r i i' := rfl
@[simp] theorem State.setFn_fld (f : FnId) (x : Func) (g : Fld) (i i' : Nat) : (s.setFn f x).fld g i i' = s.fld g i i' := rfl
@[simp] theorem State.setFn_bit (f : FnId) (x : Func) (g : Fld) (i i' : Nat) : (s.setFn f x).bit g i i' = s.bit g i i' := rfl
@[simp] theorem State.fn_setFn_same (f : FnId) (x : Func) : (s.setFn f x).fn f = x := by simp [State.setFn, State.fn]
theorem State.fn_setFn_ne (f : FnId) (x : Func) {m : FnId} (h : m ≠ f) : (s.setFn f x).fn m = s.fn m := by
  have : f.val ≠ m.val := fun hv => h (Fin.ext hv.symm)
  simp [State.setFn, State.fn, this]

/-! setFbk -/
@[simp] theorem State.setFbk_pending (n : AxId) (x : AxFb) : (s.setFbk n x).pending = s.pending := rfl
@[simp] theorem State.setFbk_tick (n : AxId) (x : AxFb) : (s.setFbk n x).tick = s.tick := rfl
@[simp] theorem State.setFbk_dt (n : AxId) (x : AxFb) : (s.setFbk n x).dt = s.dt := rfl
@[simp] theorem State.setFbk_free (n : AxId) (x : AxFb) : (s.setFbk n x).free = s.free := rfl
@[simp] theorem State.setFbk_regs (n : AxId) (x : AxFb) : (s.setFbk n x).regs = s.regs := rfl
@[simp] theorem State.setFbk_hwSet (n : AxId) (x : AxFb) : (s.setFbk n x).hwSet = s.hwSet := rfl
@[simp] theorem State.setFbk_hostSet (n : AxId) (x : AxFb) : (s.setFbk n x).hostSet = s.hostSet := rfl
@[simp] theorem State.setFbk_force (n : AxId) (x : AxFb) : (s.setFbk n x).force = s.force := rfl
@[simp] theorem State.setFbk_fbPend (n : AxId) (x : AxFb) : (s.setFbk n x).fbPend = s.fbPend := rfl
@[simp] theorem State.setFbk_lastRead (n : AxId) (x : AxFb) : (s.setFbk n x).lastRead = s.lastRead := rfl
@[simp] theorem State.setFbk_shmem (n : AxId) (x : AxFb) : (s.setFbk n x).shmem = s.shmem := rfl
@[simp] theorem State.setFbk_arbLast (n : AxId) (x : AxFb) : (s.setFbk n x).arbLast = s.arbLast := rfl
@[simp] theorem State.setFbk_hostWin (n : AxId) (x : AxFb) : (s.setFbk n x).hostWin = s.hostWin := rfl
@[simp] theorem State.setFbk_engines (n : AxId) (x : AxFb) : (s.setFbk n x).engines = s.engines := rfl
@[simp] theorem State.setFbk_axes (n : AxId) (x : AxFb) : (s.setFbk n x).axes = s.axes := rfl
@[simp] theorem State.setFbk_banks (n : AxId) (x : AxFb) : (s.setFbk n x).banks = s.banks := rfl
@[simp] theorem State.setFbk_po (n : AxId) (x : AxFb) : (s.setFbk n x).po = s.po := rfl
@[simp] theorem State.setFbk_mot (n : AxId) (x : AxFb) : (s.setFbk n x).mot = s.mot := rfl
@[simp] theorem State.setFbk_shaft (n : AxId) (x : AxFb) : (s.setFbk n x).shaft = s.shaft := rfl
@[simp] theorem State.setFbk_mon (n : AxId) (x : AxFb) : (s.setFbk n x).mon = s.mon := rfl
@[simp] theorem State.setFbk_funcs (n : AxId) (x : AxFb) : (s.setFbk n x).funcs = s.funcs := rfl
@[simp] theorem State.setFbk_accepted (n : AxId) (x : AxFb) : (s.setFbk n x).accepted = s.accepted := rfl
@[simp] theorem State.setFbk_hostOut (n : AxId) (x : AxFb) : (s.setFbk n x).hostOut = s.hostOut := rfl
@[simp] theorem State.setFbk_fetchLast (n : AxId) (x : AxFb) : (s.setFbk n x).fetchLast = s.fetchLast := rfl
@[simp] theorem State.setFbk_ownChanges (n : AxId) (x : AxFb) : (s.setFbk n x).ownChanges = s.ownChanges := rfl
@[simp] theorem State.setFbk_doms (n : AxId) (x : AxFb) : (s.setFbk n x).doms = s.doms := rfl
@[simp] theorem State.setFbk_time (n : AxId) (x : AxFb) : (s.setFbk n x).time = s.time := rfl
@[simp] theorem State.setFbk_fdb (n : AxId) (x : AxFb) : (s.setFbk n x).fdb = s.fdb := rfl
@[simp] theorem State.setFbk_ports (n : AxId) (x : AxFb) : (s.setFbk n x).ports = s.ports := rfl
@[simp] theorem State.setFbk_txqs (n : AxId) (x : AxFb) : (s.setFbk n x).txqs = s.txqs := rfl
@[simp] theorem State.setFbk_rx (n : AxId) (x : AxFb) : (s.setFbk n x).rx = s.rx := rfl
@[simp] theorem State.setFbk_wireOut (n : AxId) (x : AxFb) : (s.setFbk n x).wireOut = s.wireOut := rfl
@[simp] theorem State.setFbk_cans (n : AxId) (x : AxFb) : (s.setFbk n x).cans = s.cans := rfl
@[simp] theorem State.setFbk_dios (n : AxId) (x : AxFb) : (s.setFbk n x).dios = s.dios := rfl
@[simp] theorem State.setFbk_dio (n : AxId) (x : AxFb) : (s.setFbk n x).dio = s.dio := rfl
@[simp] theorem State.setFbk_saf (n : AxId) (x : AxFb) : (s.setFbk n x).saf = s.saf := rfl
@[simp] theorem State.setFbk_fo (n : AxId) (x : AxFb) : (s.setFbk n x).fo = s.fo := rfl
@[simp] theorem State.setFbk_prof (n : AxId) (x : AxFb) : (s.setFbk n x).prof = s.prof := rfl
@[simp] theorem State.setFbk_store (n : AxId) (x : AxFb) : (s.setFbk n x).store = s.store := rfl
@[simp] theorem State.setFbk_pwr (n : AxId) (x : AxFb) : (s.setFbk n x).pwr = s.pwr := rfl
@[simp] theorem State.setFbk_plugs (n : AxId) (x : AxFb) : (s.setFbk n x).plugs = s.plugs := rfl
@[simp] theorem State.setFbk_thm (n : AxId) (x : AxFb) : (s.setFbk n x).thm = s.thm := rfl
@[simp] theorem State.setFbk_eng (n : AxId) (x : AxFb) (k : EngId) : (s.setFbk n x).eng k = s.eng k := rfl
@[simp] theorem State.setFbk_ax (n : AxId) (x : AxFb) (k : AxId) : (s.setFbk n x).ax k = s.ax k := rfl
@[simp] theorem State.setFbk_bnk (n : AxId) (x : AxFb) (k : BankId) : (s.setFbk n x).bnk k = s.bnk k := rfl
@[simp] theorem State.setFbk_fn (n : AxId) (x : AxFb) (k : FnId) : (s.setFbk n x).fn k = s.fn k := rfl
@[simp] theorem State.setFbk_motion (n : AxId) (x : AxFb) (k : AxId) : (s.setFbk n x).motion k = s.motion k := rfl
@[simp] theorem State.setFbk_moni (n : AxId) (x : AxFb) (k : AxId) : (s.setFbk n x).moni k = s.moni k := rfl
@[simp] theorem State.setFbk_failover (n : AxId) (x : AxFb) (k : AxId) : (s.setFbk n x).failover k = s.failover k := rfl
@[simp] theorem State.setFbk_plug (n : AxId) (x : AxFb) (k : AxId) : (s.setFbk n x).plug k = s.plug k := rfl
@[simp] theorem State.setFbk_rep (n : AxId) (x : AxFb) (k : PoId) : (s.setFbk n x).rep k = s.rep k := rfl
@[simp] theorem State.setFbk_can (n : AxId) (x : AxFb) (k : CanId) : (s.setFbk n x).can k = s.can k := rfl
@[simp] theorem State.setFbk_chan (n : AxId) (x : AxFb) (k : DioId) : (s.setFbk n x).chan k = s.chan k := rfl
@[simp] theorem State.setFbk_port (n : AxId) (x : AxFb) (k : PortId) : (s.setFbk n x).port k = s.port k := rfl
@[simp] theorem State.setFbk_txq (n : AxId) (x : AxFb) (k : TxqId) : (s.setFbk n x).txq k = s.txq k := rfl
@[simp] theorem State.setFbk_dom (n : AxId) (x : AxFb) (k : Fin 2) : (s.setFbk n x).dom k = s.dom k := rfl
@[simp] theorem State.setFbk_word (n : AxId) (x : AxFb) (r : Reg) (i i' : Nat) : (s.setFbk n x).word r i i' = s.word r i i' := rfl
@[simp] theorem State.setFbk_fld (n : AxId) (x : AxFb) (g : Fld) (i i' : Nat) : (s.setFbk n x).fld g i i' = s.fld g i i' := rfl
@[simp] theorem State.setFbk_bit (n : AxId) (x : AxFb) (g : Fld) (i i' : Nat) : (s.setFbk n x).bit g i i' = s.bit g i i' := rfl
@[simp] theorem State.fbk_setFbk_same (n : AxId) (x : AxFb) : (s.setFbk n x).fbk n = x := by simp [State.setFbk, State.fbk]
theorem State.fbk_setFbk_ne (n : AxId) (x : AxFb) {m : AxId} (h : m ≠ n) : (s.setFbk n x).fbk m = s.fbk m := by
  have : n.val ≠ m.val := fun hv => h (Fin.ext hv.symm)
  simp [State.setFbk, State.fbk, this]

/-! setMotion -/
@[simp] theorem State.setMotion_pending (n : AxId) (x : AxMot) : (s.setMotion n x).pending = s.pending := rfl
@[simp] theorem State.setMotion_tick (n : AxId) (x : AxMot) : (s.setMotion n x).tick = s.tick := rfl
@[simp] theorem State.setMotion_dt (n : AxId) (x : AxMot) : (s.setMotion n x).dt = s.dt := rfl
@[simp] theorem State.setMotion_free (n : AxId) (x : AxMot) : (s.setMotion n x).free = s.free := rfl
@[simp] theorem State.setMotion_regs (n : AxId) (x : AxMot) : (s.setMotion n x).regs = s.regs := rfl
@[simp] theorem State.setMotion_hwSet (n : AxId) (x : AxMot) : (s.setMotion n x).hwSet = s.hwSet := rfl
@[simp] theorem State.setMotion_hostSet (n : AxId) (x : AxMot) : (s.setMotion n x).hostSet = s.hostSet := rfl
@[simp] theorem State.setMotion_force (n : AxId) (x : AxMot) : (s.setMotion n x).force = s.force := rfl
@[simp] theorem State.setMotion_fbPend (n : AxId) (x : AxMot) : (s.setMotion n x).fbPend = s.fbPend := rfl
@[simp] theorem State.setMotion_lastRead (n : AxId) (x : AxMot) : (s.setMotion n x).lastRead = s.lastRead := rfl
@[simp] theorem State.setMotion_shmem (n : AxId) (x : AxMot) : (s.setMotion n x).shmem = s.shmem := rfl
@[simp] theorem State.setMotion_arbLast (n : AxId) (x : AxMot) : (s.setMotion n x).arbLast = s.arbLast := rfl
@[simp] theorem State.setMotion_hostWin (n : AxId) (x : AxMot) : (s.setMotion n x).hostWin = s.hostWin := rfl
@[simp] theorem State.setMotion_engines (n : AxId) (x : AxMot) : (s.setMotion n x).engines = s.engines := rfl
@[simp] theorem State.setMotion_axes (n : AxId) (x : AxMot) : (s.setMotion n x).axes = s.axes := rfl
@[simp] theorem State.setMotion_banks (n : AxId) (x : AxMot) : (s.setMotion n x).banks = s.banks := rfl
@[simp] theorem State.setMotion_fb (n : AxId) (x : AxMot) : (s.setMotion n x).fb = s.fb := rfl
@[simp] theorem State.setMotion_po (n : AxId) (x : AxMot) : (s.setMotion n x).po = s.po := rfl
@[simp] theorem State.setMotion_shaft (n : AxId) (x : AxMot) : (s.setMotion n x).shaft = s.shaft := rfl
@[simp] theorem State.setMotion_mon (n : AxId) (x : AxMot) : (s.setMotion n x).mon = s.mon := rfl
@[simp] theorem State.setMotion_funcs (n : AxId) (x : AxMot) : (s.setMotion n x).funcs = s.funcs := rfl
@[simp] theorem State.setMotion_accepted (n : AxId) (x : AxMot) : (s.setMotion n x).accepted = s.accepted := rfl
@[simp] theorem State.setMotion_hostOut (n : AxId) (x : AxMot) : (s.setMotion n x).hostOut = s.hostOut := rfl
@[simp] theorem State.setMotion_fetchLast (n : AxId) (x : AxMot) : (s.setMotion n x).fetchLast = s.fetchLast := rfl
@[simp] theorem State.setMotion_ownChanges (n : AxId) (x : AxMot) : (s.setMotion n x).ownChanges = s.ownChanges := rfl
@[simp] theorem State.setMotion_doms (n : AxId) (x : AxMot) : (s.setMotion n x).doms = s.doms := rfl
@[simp] theorem State.setMotion_time (n : AxId) (x : AxMot) : (s.setMotion n x).time = s.time := rfl
@[simp] theorem State.setMotion_fdb (n : AxId) (x : AxMot) : (s.setMotion n x).fdb = s.fdb := rfl
@[simp] theorem State.setMotion_ports (n : AxId) (x : AxMot) : (s.setMotion n x).ports = s.ports := rfl
@[simp] theorem State.setMotion_txqs (n : AxId) (x : AxMot) : (s.setMotion n x).txqs = s.txqs := rfl
@[simp] theorem State.setMotion_rx (n : AxId) (x : AxMot) : (s.setMotion n x).rx = s.rx := rfl
@[simp] theorem State.setMotion_wireOut (n : AxId) (x : AxMot) : (s.setMotion n x).wireOut = s.wireOut := rfl
@[simp] theorem State.setMotion_cans (n : AxId) (x : AxMot) : (s.setMotion n x).cans = s.cans := rfl
@[simp] theorem State.setMotion_dios (n : AxId) (x : AxMot) : (s.setMotion n x).dios = s.dios := rfl
@[simp] theorem State.setMotion_dio (n : AxId) (x : AxMot) : (s.setMotion n x).dio = s.dio := rfl
@[simp] theorem State.setMotion_saf (n : AxId) (x : AxMot) : (s.setMotion n x).saf = s.saf := rfl
@[simp] theorem State.setMotion_fo (n : AxId) (x : AxMot) : (s.setMotion n x).fo = s.fo := rfl
@[simp] theorem State.setMotion_prof (n : AxId) (x : AxMot) : (s.setMotion n x).prof = s.prof := rfl
@[simp] theorem State.setMotion_store (n : AxId) (x : AxMot) : (s.setMotion n x).store = s.store := rfl
@[simp] theorem State.setMotion_pwr (n : AxId) (x : AxMot) : (s.setMotion n x).pwr = s.pwr := rfl
@[simp] theorem State.setMotion_plugs (n : AxId) (x : AxMot) : (s.setMotion n x).plugs = s.plugs := rfl
@[simp] theorem State.setMotion_thm (n : AxId) (x : AxMot) : (s.setMotion n x).thm = s.thm := rfl
@[simp] theorem State.setMotion_eng (n : AxId) (x : AxMot) (k : EngId) : (s.setMotion n x).eng k = s.eng k := rfl
@[simp] theorem State.setMotion_ax (n : AxId) (x : AxMot) (k : AxId) : (s.setMotion n x).ax k = s.ax k := rfl
@[simp] theorem State.setMotion_bnk (n : AxId) (x : AxMot) (k : BankId) : (s.setMotion n x).bnk k = s.bnk k := rfl
@[simp] theorem State.setMotion_fn (n : AxId) (x : AxMot) (k : FnId) : (s.setMotion n x).fn k = s.fn k := rfl
@[simp] theorem State.setMotion_fbk (n : AxId) (x : AxMot) (k : AxId) : (s.setMotion n x).fbk k = s.fbk k := rfl
@[simp] theorem State.setMotion_moni (n : AxId) (x : AxMot) (k : AxId) : (s.setMotion n x).moni k = s.moni k := rfl
@[simp] theorem State.setMotion_failover (n : AxId) (x : AxMot) (k : AxId) : (s.setMotion n x).failover k = s.failover k := rfl
@[simp] theorem State.setMotion_plug (n : AxId) (x : AxMot) (k : AxId) : (s.setMotion n x).plug k = s.plug k := rfl
@[simp] theorem State.setMotion_rep (n : AxId) (x : AxMot) (k : PoId) : (s.setMotion n x).rep k = s.rep k := rfl
@[simp] theorem State.setMotion_can (n : AxId) (x : AxMot) (k : CanId) : (s.setMotion n x).can k = s.can k := rfl
@[simp] theorem State.setMotion_chan (n : AxId) (x : AxMot) (k : DioId) : (s.setMotion n x).chan k = s.chan k := rfl
@[simp] theorem State.setMotion_port (n : AxId) (x : AxMot) (k : PortId) : (s.setMotion n x).port k = s.port k := rfl
@[simp] theorem State.setMotion_txq (n : AxId) (x : AxMot) (k : TxqId) : (s.setMotion n x).txq k = s.txq k := rfl
@[simp] theorem State.setMotion_dom (n : AxId) (x : AxMot) (k : Fin 2) : (s.setMotion n x).dom k = s.dom k := rfl
@[simp] theorem State.setMotion_word (n : AxId) (x : AxMot) (r : Reg) (i i' : Nat) : (s.setMotion n x).word r i i' = s.word r i i' := rfl
@[simp] theorem State.setMotion_fld (n : AxId) (x : AxMot) (g : Fld) (i i' : Nat) : (s.setMotion n x).fld g i i' = s.fld g i i' := rfl
@[simp] theorem State.setMotion_bit (n : AxId) (x : AxMot) (g : Fld) (i i' : Nat) : (s.setMotion n x).bit g i i' = s.bit g i i' := rfl
@[simp] theorem State.motion_setMotion_same (n : AxId) (x : AxMot) : (s.setMotion n x).motion n = x := by simp [State.setMotion, State.motion]
theorem State.motion_setMotion_ne (n : AxId) (x : AxMot) {m : AxId} (h : m ≠ n) : (s.setMotion n x).motion m = s.motion m := by
  have : n.val ≠ m.val := fun hv => h (Fin.ext hv.symm)
  simp [State.setMotion, State.motion, this]

/-! setMoni -/
@[simp] theorem State.setMoni_pending (n : AxId) (x : AxMon) : (s.setMoni n x).pending = s.pending := rfl
@[simp] theorem State.setMoni_tick (n : AxId) (x : AxMon) : (s.setMoni n x).tick = s.tick := rfl
@[simp] theorem State.setMoni_dt (n : AxId) (x : AxMon) : (s.setMoni n x).dt = s.dt := rfl
@[simp] theorem State.setMoni_free (n : AxId) (x : AxMon) : (s.setMoni n x).free = s.free := rfl
@[simp] theorem State.setMoni_regs (n : AxId) (x : AxMon) : (s.setMoni n x).regs = s.regs := rfl
@[simp] theorem State.setMoni_hwSet (n : AxId) (x : AxMon) : (s.setMoni n x).hwSet = s.hwSet := rfl
@[simp] theorem State.setMoni_hostSet (n : AxId) (x : AxMon) : (s.setMoni n x).hostSet = s.hostSet := rfl
@[simp] theorem State.setMoni_force (n : AxId) (x : AxMon) : (s.setMoni n x).force = s.force := rfl
@[simp] theorem State.setMoni_fbPend (n : AxId) (x : AxMon) : (s.setMoni n x).fbPend = s.fbPend := rfl
@[simp] theorem State.setMoni_lastRead (n : AxId) (x : AxMon) : (s.setMoni n x).lastRead = s.lastRead := rfl
@[simp] theorem State.setMoni_shmem (n : AxId) (x : AxMon) : (s.setMoni n x).shmem = s.shmem := rfl
@[simp] theorem State.setMoni_arbLast (n : AxId) (x : AxMon) : (s.setMoni n x).arbLast = s.arbLast := rfl
@[simp] theorem State.setMoni_hostWin (n : AxId) (x : AxMon) : (s.setMoni n x).hostWin = s.hostWin := rfl
@[simp] theorem State.setMoni_engines (n : AxId) (x : AxMon) : (s.setMoni n x).engines = s.engines := rfl
@[simp] theorem State.setMoni_axes (n : AxId) (x : AxMon) : (s.setMoni n x).axes = s.axes := rfl
@[simp] theorem State.setMoni_banks (n : AxId) (x : AxMon) : (s.setMoni n x).banks = s.banks := rfl
@[simp] theorem State.setMoni_fb (n : AxId) (x : AxMon) : (s.setMoni n x).fb = s.fb := rfl
@[simp] theorem State.setMoni_po (n : AxId) (x : AxMon) : (s.setMoni n x).po = s.po := rfl
@[simp] theorem State.setMoni_mot (n : AxId) (x : AxMon) : (s.setMoni n x).mot = s.mot := rfl
@[simp] theorem State.setMoni_shaft (n : AxId) (x : AxMon) : (s.setMoni n x).shaft = s.shaft := rfl
@[simp] theorem State.setMoni_funcs (n : AxId) (x : AxMon) : (s.setMoni n x).funcs = s.funcs := rfl
@[simp] theorem State.setMoni_accepted (n : AxId) (x : AxMon) : (s.setMoni n x).accepted = s.accepted := rfl
@[simp] theorem State.setMoni_hostOut (n : AxId) (x : AxMon) : (s.setMoni n x).hostOut = s.hostOut := rfl
@[simp] theorem State.setMoni_fetchLast (n : AxId) (x : AxMon) : (s.setMoni n x).fetchLast = s.fetchLast := rfl
@[simp] theorem State.setMoni_ownChanges (n : AxId) (x : AxMon) : (s.setMoni n x).ownChanges = s.ownChanges := rfl
@[simp] theorem State.setMoni_doms (n : AxId) (x : AxMon) : (s.setMoni n x).doms = s.doms := rfl
@[simp] theorem State.setMoni_time (n : AxId) (x : AxMon) : (s.setMoni n x).time = s.time := rfl
@[simp] theorem State.setMoni_fdb (n : AxId) (x : AxMon) : (s.setMoni n x).fdb = s.fdb := rfl
@[simp] theorem State.setMoni_ports (n : AxId) (x : AxMon) : (s.setMoni n x).ports = s.ports := rfl
@[simp] theorem State.setMoni_txqs (n : AxId) (x : AxMon) : (s.setMoni n x).txqs = s.txqs := rfl
@[simp] theorem State.setMoni_rx (n : AxId) (x : AxMon) : (s.setMoni n x).rx = s.rx := rfl
@[simp] theorem State.setMoni_wireOut (n : AxId) (x : AxMon) : (s.setMoni n x).wireOut = s.wireOut := rfl
@[simp] theorem State.setMoni_cans (n : AxId) (x : AxMon) : (s.setMoni n x).cans = s.cans := rfl
@[simp] theorem State.setMoni_dios (n : AxId) (x : AxMon) : (s.setMoni n x).dios = s.dios := rfl
@[simp] theorem State.setMoni_dio (n : AxId) (x : AxMon) : (s.setMoni n x).dio = s.dio := rfl
@[simp] theorem State.setMoni_saf (n : AxId) (x : AxMon) : (s.setMoni n x).saf = s.saf := rfl
@[simp] theorem State.setMoni_fo (n : AxId) (x : AxMon) : (s.setMoni n x).fo = s.fo := rfl
@[simp] theorem State.setMoni_prof (n : AxId) (x : AxMon) : (s.setMoni n x).prof = s.prof := rfl
@[simp] theorem State.setMoni_store (n : AxId) (x : AxMon) : (s.setMoni n x).store = s.store := rfl
@[simp] theorem State.setMoni_pwr (n : AxId) (x : AxMon) : (s.setMoni n x).pwr = s.pwr := rfl
@[simp] theorem State.setMoni_plugs (n : AxId) (x : AxMon) : (s.setMoni n x).plugs = s.plugs := rfl
@[simp] theorem State.setMoni_thm (n : AxId) (x : AxMon) : (s.setMoni n x).thm = s.thm := rfl
@[simp] theorem State.setMoni_eng (n : AxId) (x : AxMon) (k : EngId) : (s.setMoni n x).eng k = s.eng k := rfl
@[simp] theorem State.setMoni_ax (n : AxId) (x : AxMon) (k : AxId) : (s.setMoni n x).ax k = s.ax k := rfl
@[simp] theorem State.setMoni_bnk (n : AxId) (x : AxMon) (k : BankId) : (s.setMoni n x).bnk k = s.bnk k := rfl
@[simp] theorem State.setMoni_fn (n : AxId) (x : AxMon) (k : FnId) : (s.setMoni n x).fn k = s.fn k := rfl
@[simp] theorem State.setMoni_fbk (n : AxId) (x : AxMon) (k : AxId) : (s.setMoni n x).fbk k = s.fbk k := rfl
@[simp] theorem State.setMoni_motion (n : AxId) (x : AxMon) (k : AxId) : (s.setMoni n x).motion k = s.motion k := rfl
@[simp] theorem State.setMoni_failover (n : AxId) (x : AxMon) (k : AxId) : (s.setMoni n x).failover k = s.failover k := rfl
@[simp] theorem State.setMoni_plug (n : AxId) (x : AxMon) (k : AxId) : (s.setMoni n x).plug k = s.plug k := rfl
@[simp] theorem State.setMoni_rep (n : AxId) (x : AxMon) (k : PoId) : (s.setMoni n x).rep k = s.rep k := rfl
@[simp] theorem State.setMoni_can (n : AxId) (x : AxMon) (k : CanId) : (s.setMoni n x).can k = s.can k := rfl
@[simp] theorem State.setMoni_chan (n : AxId) (x : AxMon) (k : DioId) : (s.setMoni n x).chan k = s.chan k := rfl
@[simp] theorem State.setMoni_port (n : AxId) (x : AxMon) (k : PortId) : (s.setMoni n x).port k = s.port k := rfl
@[simp] theorem State.setMoni_txq (n : AxId) (x : AxMon) (k : TxqId) : (s.setMoni n x).txq k = s.txq k := rfl
@[simp] theorem State.setMoni_dom (n : AxId) (x : AxMon) (k : Fin 2) : (s.setMoni n x).dom k = s.dom k := rfl
@[simp] theorem State.setMoni_word (n : AxId) (x : AxMon) (r : Reg) (i i' : Nat) : (s.setMoni n x).word r i i' = s.word r i i' := rfl
@[simp] theorem State.setMoni_fld (n : AxId) (x : AxMon) (g : Fld) (i i' : Nat) : (s.setMoni n x).fld g i i' = s.fld g i i' := rfl
@[simp] theorem State.setMoni_bit (n : AxId) (x : AxMon) (g : Fld) (i i' : Nat) : (s.setMoni n x).bit g i i' = s.bit g i i' := rfl
@[simp] theorem State.moni_setMoni_same (n : AxId) (x : AxMon) : (s.setMoni n x).moni n = x := by simp [State.setMoni, State.moni]
theorem State.moni_setMoni_ne (n : AxId) (x : AxMon) {m : AxId} (h : m ≠ n) : (s.setMoni n x).moni m = s.moni m := by
  have : n.val ≠ m.val := fun hv => h (Fin.ext hv.symm)
  simp [State.setMoni, State.moni, this]

/-! setFailover -/
@[simp] theorem State.setFailover_pending (n : AxId) (x : AxFo) : (s.setFailover n x).pending = s.pending := rfl
@[simp] theorem State.setFailover_tick (n : AxId) (x : AxFo) : (s.setFailover n x).tick = s.tick := rfl
@[simp] theorem State.setFailover_dt (n : AxId) (x : AxFo) : (s.setFailover n x).dt = s.dt := rfl
@[simp] theorem State.setFailover_free (n : AxId) (x : AxFo) : (s.setFailover n x).free = s.free := rfl
@[simp] theorem State.setFailover_regs (n : AxId) (x : AxFo) : (s.setFailover n x).regs = s.regs := rfl
@[simp] theorem State.setFailover_hwSet (n : AxId) (x : AxFo) : (s.setFailover n x).hwSet = s.hwSet := rfl
@[simp] theorem State.setFailover_hostSet (n : AxId) (x : AxFo) : (s.setFailover n x).hostSet = s.hostSet := rfl
@[simp] theorem State.setFailover_force (n : AxId) (x : AxFo) : (s.setFailover n x).force = s.force := rfl
@[simp] theorem State.setFailover_fbPend (n : AxId) (x : AxFo) : (s.setFailover n x).fbPend = s.fbPend := rfl
@[simp] theorem State.setFailover_lastRead (n : AxId) (x : AxFo) : (s.setFailover n x).lastRead = s.lastRead := rfl
@[simp] theorem State.setFailover_shmem (n : AxId) (x : AxFo) : (s.setFailover n x).shmem = s.shmem := rfl
@[simp] theorem State.setFailover_arbLast (n : AxId) (x : AxFo) : (s.setFailover n x).arbLast = s.arbLast := rfl
@[simp] theorem State.setFailover_hostWin (n : AxId) (x : AxFo) : (s.setFailover n x).hostWin = s.hostWin := rfl
@[simp] theorem State.setFailover_engines (n : AxId) (x : AxFo) : (s.setFailover n x).engines = s.engines := rfl
@[simp] theorem State.setFailover_axes (n : AxId) (x : AxFo) : (s.setFailover n x).axes = s.axes := rfl
@[simp] theorem State.setFailover_banks (n : AxId) (x : AxFo) : (s.setFailover n x).banks = s.banks := rfl
@[simp] theorem State.setFailover_fb (n : AxId) (x : AxFo) : (s.setFailover n x).fb = s.fb := rfl
@[simp] theorem State.setFailover_po (n : AxId) (x : AxFo) : (s.setFailover n x).po = s.po := rfl
@[simp] theorem State.setFailover_mot (n : AxId) (x : AxFo) : (s.setFailover n x).mot = s.mot := rfl
@[simp] theorem State.setFailover_shaft (n : AxId) (x : AxFo) : (s.setFailover n x).shaft = s.shaft := rfl
@[simp] theorem State.setFailover_mon (n : AxId) (x : AxFo) : (s.setFailover n x).mon = s.mon := rfl
@[simp] theorem State.setFailover_funcs (n : AxId) (x : AxFo) : (s.setFailover n x).funcs = s.funcs := rfl
@[simp] theorem State.setFailover_accepted (n : AxId) (x : AxFo) : (s.setFailover n x).accepted = s.accepted := rfl
@[simp] theorem State.setFailover_hostOut (n : AxId) (x : AxFo) : (s.setFailover n x).hostOut = s.hostOut := rfl
@[simp] theorem State.setFailover_fetchLast (n : AxId) (x : AxFo) : (s.setFailover n x).fetchLast = s.fetchLast := rfl
@[simp] theorem State.setFailover_ownChanges (n : AxId) (x : AxFo) : (s.setFailover n x).ownChanges = s.ownChanges := rfl
@[simp] theorem State.setFailover_doms (n : AxId) (x : AxFo) : (s.setFailover n x).doms = s.doms := rfl
@[simp] theorem State.setFailover_time (n : AxId) (x : AxFo) : (s.setFailover n x).time = s.time := rfl
@[simp] theorem State.setFailover_fdb (n : AxId) (x : AxFo) : (s.setFailover n x).fdb = s.fdb := rfl
@[simp] theorem State.setFailover_ports (n : AxId) (x : AxFo) : (s.setFailover n x).ports = s.ports := rfl
@[simp] theorem State.setFailover_txqs (n : AxId) (x : AxFo) : (s.setFailover n x).txqs = s.txqs := rfl
@[simp] theorem State.setFailover_rx (n : AxId) (x : AxFo) : (s.setFailover n x).rx = s.rx := rfl
@[simp] theorem State.setFailover_wireOut (n : AxId) (x : AxFo) : (s.setFailover n x).wireOut = s.wireOut := rfl
@[simp] theorem State.setFailover_cans (n : AxId) (x : AxFo) : (s.setFailover n x).cans = s.cans := rfl
@[simp] theorem State.setFailover_dios (n : AxId) (x : AxFo) : (s.setFailover n x).dios = s.dios := rfl
@[simp] theorem State.setFailover_dio (n : AxId) (x : AxFo) : (s.setFailover n x).dio = s.dio := rfl
@[simp] theorem State.setFailover_saf (n : AxId) (x : AxFo) : (s.setFailover n x).saf = s.saf := rfl
@[simp] theorem State.setFailover_prof (n : AxId) (x : AxFo) : (s.setFailover n x).prof = s.prof := rfl
@[simp] theorem State.setFailover_store (n : AxId) (x : AxFo) : (s.setFailover n x).store = s.store := rfl
@[simp] theorem State.setFailover_pwr (n : AxId) (x : AxFo) : (s.setFailover n x).pwr = s.pwr := rfl
@[simp] theorem State.setFailover_plugs (n : AxId) (x : AxFo) : (s.setFailover n x).plugs = s.plugs := rfl
@[simp] theorem State.setFailover_thm (n : AxId) (x : AxFo) : (s.setFailover n x).thm = s.thm := rfl
@[simp] theorem State.setFailover_eng (n : AxId) (x : AxFo) (k : EngId) : (s.setFailover n x).eng k = s.eng k := rfl
@[simp] theorem State.setFailover_ax (n : AxId) (x : AxFo) (k : AxId) : (s.setFailover n x).ax k = s.ax k := rfl
@[simp] theorem State.setFailover_bnk (n : AxId) (x : AxFo) (k : BankId) : (s.setFailover n x).bnk k = s.bnk k := rfl
@[simp] theorem State.setFailover_fn (n : AxId) (x : AxFo) (k : FnId) : (s.setFailover n x).fn k = s.fn k := rfl
@[simp] theorem State.setFailover_fbk (n : AxId) (x : AxFo) (k : AxId) : (s.setFailover n x).fbk k = s.fbk k := rfl
@[simp] theorem State.setFailover_motion (n : AxId) (x : AxFo) (k : AxId) : (s.setFailover n x).motion k = s.motion k := rfl
@[simp] theorem State.setFailover_moni (n : AxId) (x : AxFo) (k : AxId) : (s.setFailover n x).moni k = s.moni k := rfl
@[simp] theorem State.setFailover_plug (n : AxId) (x : AxFo) (k : AxId) : (s.setFailover n x).plug k = s.plug k := rfl
@[simp] theorem State.setFailover_rep (n : AxId) (x : AxFo) (k : PoId) : (s.setFailover n x).rep k = s.rep k := rfl
@[simp] theorem State.setFailover_can (n : AxId) (x : AxFo) (k : CanId) : (s.setFailover n x).can k = s.can k := rfl
@[simp] theorem State.setFailover_chan (n : AxId) (x : AxFo) (k : DioId) : (s.setFailover n x).chan k = s.chan k := rfl
@[simp] theorem State.setFailover_port (n : AxId) (x : AxFo) (k : PortId) : (s.setFailover n x).port k = s.port k := rfl
@[simp] theorem State.setFailover_txq (n : AxId) (x : AxFo) (k : TxqId) : (s.setFailover n x).txq k = s.txq k := rfl
@[simp] theorem State.setFailover_dom (n : AxId) (x : AxFo) (k : Fin 2) : (s.setFailover n x).dom k = s.dom k := rfl
@[simp] theorem State.setFailover_word (n : AxId) (x : AxFo) (r : Reg) (i i' : Nat) : (s.setFailover n x).word r i i' = s.word r i i' := rfl
@[simp] theorem State.setFailover_fld (n : AxId) (x : AxFo) (g : Fld) (i i' : Nat) : (s.setFailover n x).fld g i i' = s.fld g i i' := rfl
@[simp] theorem State.setFailover_bit (n : AxId) (x : AxFo) (g : Fld) (i i' : Nat) : (s.setFailover n x).bit g i i' = s.bit g i i' := rfl
@[simp] theorem State.failover_setFailover_same (n : AxId) (x : AxFo) : (s.setFailover n x).failover n = x := by simp [State.setFailover, State.failover]
theorem State.failover_setFailover_ne (n : AxId) (x : AxFo) {m : AxId} (h : m ≠ n) : (s.setFailover n x).failover m = s.failover m := by
  have : n.val ≠ m.val := fun hv => h (Fin.ext hv.symm)
  simp [State.setFailover, State.failover, this]

/-! setPlug -/
@[simp] theorem State.setPlug_pending (n : AxId) (x : Plug) : (s.setPlug n x).pending = s.pending := rfl
@[simp] theorem State.setPlug_tick (n : AxId) (x : Plug) : (s.setPlug n x).tick = s.tick := rfl
@[simp] theorem State.setPlug_dt (n : AxId) (x : Plug) : (s.setPlug n x).dt = s.dt := rfl
@[simp] theorem State.setPlug_free (n : AxId) (x : Plug) : (s.setPlug n x).free = s.free := rfl
@[simp] theorem State.setPlug_regs (n : AxId) (x : Plug) : (s.setPlug n x).regs = s.regs := rfl
@[simp] theorem State.setPlug_hwSet (n : AxId) (x : Plug) : (s.setPlug n x).hwSet = s.hwSet := rfl
@[simp] theorem State.setPlug_hostSet (n : AxId) (x : Plug) : (s.setPlug n x).hostSet = s.hostSet := rfl
@[simp] theorem State.setPlug_force (n : AxId) (x : Plug) : (s.setPlug n x).force = s.force := rfl
@[simp] theorem State.setPlug_fbPend (n : AxId) (x : Plug) : (s.setPlug n x).fbPend = s.fbPend := rfl
@[simp] theorem State.setPlug_lastRead (n : AxId) (x : Plug) : (s.setPlug n x).lastRead = s.lastRead := rfl
@[simp] theorem State.setPlug_shmem (n : AxId) (x : Plug) : (s.setPlug n x).shmem = s.shmem := rfl
@[simp] theorem State.setPlug_arbLast (n : AxId) (x : Plug) : (s.setPlug n x).arbLast = s.arbLast := rfl
@[simp] theorem State.setPlug_hostWin (n : AxId) (x : Plug) : (s.setPlug n x).hostWin = s.hostWin := rfl
@[simp] theorem State.setPlug_engines (n : AxId) (x : Plug) : (s.setPlug n x).engines = s.engines := rfl
@[simp] theorem State.setPlug_axes (n : AxId) (x : Plug) : (s.setPlug n x).axes = s.axes := rfl
@[simp] theorem State.setPlug_banks (n : AxId) (x : Plug) : (s.setPlug n x).banks = s.banks := rfl
@[simp] theorem State.setPlug_fb (n : AxId) (x : Plug) : (s.setPlug n x).fb = s.fb := rfl
@[simp] theorem State.setPlug_po (n : AxId) (x : Plug) : (s.setPlug n x).po = s.po := rfl
@[simp] theorem State.setPlug_mot (n : AxId) (x : Plug) : (s.setPlug n x).mot = s.mot := rfl
@[simp] theorem State.setPlug_shaft (n : AxId) (x : Plug) : (s.setPlug n x).shaft = s.shaft := rfl
@[simp] theorem State.setPlug_mon (n : AxId) (x : Plug) : (s.setPlug n x).mon = s.mon := rfl
@[simp] theorem State.setPlug_funcs (n : AxId) (x : Plug) : (s.setPlug n x).funcs = s.funcs := rfl
@[simp] theorem State.setPlug_accepted (n : AxId) (x : Plug) : (s.setPlug n x).accepted = s.accepted := rfl
@[simp] theorem State.setPlug_hostOut (n : AxId) (x : Plug) : (s.setPlug n x).hostOut = s.hostOut := rfl
@[simp] theorem State.setPlug_fetchLast (n : AxId) (x : Plug) : (s.setPlug n x).fetchLast = s.fetchLast := rfl
@[simp] theorem State.setPlug_ownChanges (n : AxId) (x : Plug) : (s.setPlug n x).ownChanges = s.ownChanges := rfl
@[simp] theorem State.setPlug_doms (n : AxId) (x : Plug) : (s.setPlug n x).doms = s.doms := rfl
@[simp] theorem State.setPlug_time (n : AxId) (x : Plug) : (s.setPlug n x).time = s.time := rfl
@[simp] theorem State.setPlug_fdb (n : AxId) (x : Plug) : (s.setPlug n x).fdb = s.fdb := rfl
@[simp] theorem State.setPlug_ports (n : AxId) (x : Plug) : (s.setPlug n x).ports = s.ports := rfl
@[simp] theorem State.setPlug_txqs (n : AxId) (x : Plug) : (s.setPlug n x).txqs = s.txqs := rfl
@[simp] theorem State.setPlug_rx (n : AxId) (x : Plug) : (s.setPlug n x).rx = s.rx := rfl
@[simp] theorem State.setPlug_wireOut (n : AxId) (x : Plug) : (s.setPlug n x).wireOut = s.wireOut := rfl
@[simp] theorem State.setPlug_cans (n : AxId) (x : Plug) : (s.setPlug n x).cans = s.cans := rfl
@[simp] theorem State.setPlug_dios (n : AxId) (x : Plug) : (s.setPlug n x).dios = s.dios := rfl
@[simp] theorem State.setPlug_dio (n : AxId) (x : Plug) : (s.setPlug n x).dio = s.dio := rfl
@[simp] theorem State.setPlug_saf (n : AxId) (x : Plug) : (s.setPlug n x).saf = s.saf := rfl
@[simp] theorem State.setPlug_fo (n : AxId) (x : Plug) : (s.setPlug n x).fo = s.fo := rfl
@[simp] theorem State.setPlug_prof (n : AxId) (x : Plug) : (s.setPlug n x).prof = s.prof := rfl
@[simp] theorem State.setPlug_store (n : AxId) (x : Plug) : (s.setPlug n x).store = s.store := rfl
@[simp] theorem State.setPlug_pwr (n : AxId) (x : Plug) : (s.setPlug n x).pwr = s.pwr := rfl
@[simp] theorem State.setPlug_thm (n : AxId) (x : Plug) : (s.setPlug n x).thm = s.thm := rfl
@[simp] theorem State.setPlug_eng (n : AxId) (x : Plug) (k : EngId) : (s.setPlug n x).eng k = s.eng k := rfl
@[simp] theorem State.setPlug_ax (n : AxId) (x : Plug) (k : AxId) : (s.setPlug n x).ax k = s.ax k := rfl
@[simp] theorem State.setPlug_bnk (n : AxId) (x : Plug) (k : BankId) : (s.setPlug n x).bnk k = s.bnk k := rfl
@[simp] theorem State.setPlug_fn (n : AxId) (x : Plug) (k : FnId) : (s.setPlug n x).fn k = s.fn k := rfl
@[simp] theorem State.setPlug_fbk (n : AxId) (x : Plug) (k : AxId) : (s.setPlug n x).fbk k = s.fbk k := rfl
@[simp] theorem State.setPlug_motion (n : AxId) (x : Plug) (k : AxId) : (s.setPlug n x).motion k = s.motion k := rfl
@[simp] theorem State.setPlug_moni (n : AxId) (x : Plug) (k : AxId) : (s.setPlug n x).moni k = s.moni k := rfl
@[simp] theorem State.setPlug_failover (n : AxId) (x : Plug) (k : AxId) : (s.setPlug n x).failover k = s.failover k := rfl
@[simp] theorem State.setPlug_rep (n : AxId) (x : Plug) (k : PoId) : (s.setPlug n x).rep k = s.rep k := rfl
@[simp] theorem State.setPlug_can (n : AxId) (x : Plug) (k : CanId) : (s.setPlug n x).can k = s.can k := rfl
@[simp] theorem State.setPlug_chan (n : AxId) (x : Plug) (k : DioId) : (s.setPlug n x).chan k = s.chan k := rfl
@[simp] theorem State.setPlug_port (n : AxId) (x : Plug) (k : PortId) : (s.setPlug n x).port k = s.port k := rfl
@[simp] theorem State.setPlug_txq (n : AxId) (x : Plug) (k : TxqId) : (s.setPlug n x).txq k = s.txq k := rfl
@[simp] theorem State.setPlug_dom (n : AxId) (x : Plug) (k : Fin 2) : (s.setPlug n x).dom k = s.dom k := rfl
@[simp] theorem State.setPlug_word (n : AxId) (x : Plug) (r : Reg) (i i' : Nat) : (s.setPlug n x).word r i i' = s.word r i i' := rfl
@[simp] theorem State.setPlug_fld (n : AxId) (x : Plug) (g : Fld) (i i' : Nat) : (s.setPlug n x).fld g i i' = s.fld g i i' := rfl
@[simp] theorem State.setPlug_bit (n : AxId) (x : Plug) (g : Fld) (i i' : Nat) : (s.setPlug n x).bit g i i' = s.bit g i i' := rfl
@[simp] theorem State.plug_setPlug_same (n : AxId) (x : Plug) : (s.setPlug n x).plug n = x := by simp [State.setPlug, State.plug]
theorem State.plug_setPlug_ne (n : AxId) (x : Plug) {m : AxId} (h : m ≠ n) : (s.setPlug n x).plug m = s.plug m := by
  have : n.val ≠ m.val := fun hv => h (Fin.ext hv.symm)
  simp [State.setPlug, State.plug, this]

/-! setRep -/
@[simp] theorem State.setRep_pending (k : PoId) (x : PulseRep) : (s.setRep k x).pending = s.pending := rfl
@[simp] theorem State.setRep_tick (k : PoId) (x : PulseRep) : (s.setRep k x).tick = s.tick := rfl
@[simp] theorem State.setRep_dt (k : PoId) (x : PulseRep) : (s.setRep k x).dt = s.dt := rfl
@[simp] theorem State.setRep_free (k : PoId) (x : PulseRep) : (s.setRep k x).free = s.free := rfl
@[simp] theorem State.setRep_regs (k : PoId) (x : PulseRep) : (s.setRep k x).regs = s.regs := rfl
@[simp] theorem State.setRep_hwSet (k : PoId) (x : PulseRep) : (s.setRep k x).hwSet = s.hwSet := rfl
@[simp] theorem State.setRep_hostSet (k : PoId) (x : PulseRep) : (s.setRep k x).hostSet = s.hostSet := rfl
@[simp] theorem State.setRep_force (k : PoId) (x : PulseRep) : (s.setRep k x).force = s.force := rfl
@[simp] theorem State.setRep_fbPend (k : PoId) (x : PulseRep) : (s.setRep k x).fbPend = s.fbPend := rfl
@[simp] theorem State.setRep_lastRead (k : PoId) (x : PulseRep) : (s.setRep k x).lastRead = s.lastRead := rfl
@[simp] theorem State.setRep_shmem (k : PoId) (x : PulseRep) : (s.setRep k x).shmem = s.shmem := rfl
@[simp] theorem State.setRep_arbLast (k : PoId) (x : PulseRep) : (s.setRep k x).arbLast = s.arbLast := rfl
@[simp] theorem State.setRep_hostWin (k : PoId) (x : PulseRep) : (s.setRep k x).hostWin = s.hostWin := rfl
@[simp] theorem State.setRep_engines (k : PoId) (x : PulseRep) : (s.setRep k x).engines = s.engines := rfl
@[simp] theorem State.setRep_axes (k : PoId) (x : PulseRep) : (s.setRep k x).axes = s.axes := rfl
@[simp] theorem State.setRep_banks (k : PoId) (x : PulseRep) : (s.setRep k x).banks = s.banks := rfl
@[simp] theorem State.setRep_fb (k : PoId) (x : PulseRep) : (s.setRep k x).fb = s.fb := rfl
@[simp] theorem State.setRep_mot (k : PoId) (x : PulseRep) : (s.setRep k x).mot = s.mot := rfl
@[simp] theorem State.setRep_shaft (k : PoId) (x : PulseRep) : (s.setRep k x).shaft = s.shaft := rfl
@[simp] theorem State.setRep_mon (k : PoId) (x : PulseRep) : (s.setRep k x).mon = s.mon := rfl
@[simp] theorem State.setRep_funcs (k : PoId) (x : PulseRep) : (s.setRep k x).funcs = s.funcs := rfl
@[simp] theorem State.setRep_accepted (k : PoId) (x : PulseRep) : (s.setRep k x).accepted = s.accepted := rfl
@[simp] theorem State.setRep_hostOut (k : PoId) (x : PulseRep) : (s.setRep k x).hostOut = s.hostOut := rfl
@[simp] theorem State.setRep_fetchLast (k : PoId) (x : PulseRep) : (s.setRep k x).fetchLast = s.fetchLast := rfl
@[simp] theorem State.setRep_ownChanges (k : PoId) (x : PulseRep) : (s.setRep k x).ownChanges = s.ownChanges := rfl
@[simp] theorem State.setRep_doms (k : PoId) (x : PulseRep) : (s.setRep k x).doms = s.doms := rfl
@[simp] theorem State.setRep_time (k : PoId) (x : PulseRep) : (s.setRep k x).time = s.time := rfl
@[simp] theorem State.setRep_fdb (k : PoId) (x : PulseRep) : (s.setRep k x).fdb = s.fdb := rfl
@[simp] theorem State.setRep_ports (k : PoId) (x : PulseRep) : (s.setRep k x).ports = s.ports := rfl
@[simp] theorem State.setRep_txqs (k : PoId) (x : PulseRep) : (s.setRep k x).txqs = s.txqs := rfl
@[simp] theorem State.setRep_rx (k : PoId) (x : PulseRep) : (s.setRep k x).rx = s.rx := rfl
@[simp] theorem State.setRep_wireOut (k : PoId) (x : PulseRep) : (s.setRep k x).wireOut = s.wireOut := rfl
@[simp] theorem State.setRep_cans (k : PoId) (x : PulseRep) : (s.setRep k x).cans = s.cans := rfl
@[simp] theorem State.setRep_dios (k : PoId) (x : PulseRep) : (s.setRep k x).dios = s.dios := rfl
@[simp] theorem State.setRep_dio (k : PoId) (x : PulseRep) : (s.setRep k x).dio = s.dio := rfl
@[simp] theorem State.setRep_saf (k : PoId) (x : PulseRep) : (s.setRep k x).saf = s.saf := rfl
@[simp] theorem State.setRep_fo (k : PoId) (x : PulseRep) : (s.setRep k x).fo = s.fo := rfl
@[simp] theorem State.setRep_prof (k : PoId) (x : PulseRep) : (s.setRep k x).prof = s.prof := rfl
@[simp] theorem State.setRep_store (k : PoId) (x : PulseRep) : (s.setRep k x).store = s.store := rfl
@[simp] theorem State.setRep_pwr (k : PoId) (x : PulseRep) : (s.setRep k x).pwr = s.pwr := rfl
@[simp] theorem State.setRep_plugs (k : PoId) (x : PulseRep) : (s.setRep k x).plugs = s.plugs := rfl
@[simp] theorem State.setRep_thm (k : PoId) (x : PulseRep) : (s.setRep k x).thm = s.thm := rfl
@[simp] theorem State.setRep_eng (k : PoId) (x : PulseRep) (k' : EngId) : (s.setRep k x).eng k' = s.eng k' := rfl
@[simp] theorem State.setRep_ax (k : PoId) (x : PulseRep) (k' : AxId) : (s.setRep k x).ax k' = s.ax k' := rfl
@[simp] theorem State.setRep_bnk (k : PoId) (x : PulseRep) (k' : BankId) : (s.setRep k x).bnk k' = s.bnk k' := rfl
@[simp] theorem State.setRep_fn (k : PoId) (x : PulseRep) (k' : FnId) : (s.setRep k x).fn k' = s.fn k' := rfl
@[simp] theorem State.setRep_fbk (k : PoId) (x : PulseRep) (k' : AxId) : (s.setRep k x).fbk k' = s.fbk k' := rfl
@[simp] theorem State.setRep_motion (k : PoId) (x : PulseRep) (k' : AxId) : (s.setRep k x).motion k' = s.motion k' := rfl
@[simp] theorem State.setRep_moni (k : PoId) (x : PulseRep) (k' : AxId) : (s.setRep k x).moni k' = s.moni k' := rfl
@[simp] theorem State.setRep_failover (k : PoId) (x : PulseRep) (k' : AxId) : (s.setRep k x).failover k' = s.failover k' := rfl
@[simp] theorem State.setRep_plug (k : PoId) (x : PulseRep) (k' : AxId) : (s.setRep k x).plug k' = s.plug k' := rfl
@[simp] theorem State.setRep_can (k : PoId) (x : PulseRep) (k' : CanId) : (s.setRep k x).can k' = s.can k' := rfl
@[simp] theorem State.setRep_chan (k : PoId) (x : PulseRep) (k' : DioId) : (s.setRep k x).chan k' = s.chan k' := rfl
@[simp] theorem State.setRep_port (k : PoId) (x : PulseRep) (k' : PortId) : (s.setRep k x).port k' = s.port k' := rfl
@[simp] theorem State.setRep_txq (k : PoId) (x : PulseRep) (k' : TxqId) : (s.setRep k x).txq k' = s.txq k' := rfl
@[simp] theorem State.setRep_dom (k : PoId) (x : PulseRep) (k' : Fin 2) : (s.setRep k x).dom k' = s.dom k' := rfl
@[simp] theorem State.setRep_word (k : PoId) (x : PulseRep) (r : Reg) (i i' : Nat) : (s.setRep k x).word r i i' = s.word r i i' := rfl
@[simp] theorem State.setRep_fld (k : PoId) (x : PulseRep) (g : Fld) (i i' : Nat) : (s.setRep k x).fld g i i' = s.fld g i i' := rfl
@[simp] theorem State.setRep_bit (k : PoId) (x : PulseRep) (g : Fld) (i i' : Nat) : (s.setRep k x).bit g i i' = s.bit g i i' := rfl
@[simp] theorem State.rep_setRep_same (k : PoId) (x : PulseRep) : (s.setRep k x).rep k = x := by simp [State.setRep, State.rep]
theorem State.rep_setRep_ne (k : PoId) (x : PulseRep) {m : PoId} (h : m ≠ k) : (s.setRep k x).rep m = s.rep m := by
  have : k.val ≠ m.val := fun hv => h (Fin.ext hv.symm)
  simp [State.setRep, State.rep, this]

/-! setCan -/
@[simp] theorem State.setCan_pending (c : CanId) (x : Can) : (s.setCan c x).pending = s.pending := rfl
@[simp] theorem State.setCan_tick (c : CanId) (x : Can) : (s.setCan c x).tick = s.tick := rfl
@[simp] theorem State.setCan_dt (c : CanId) (x : Can) : (s.setCan c x).dt = s.dt := rfl
@[simp] theorem State.setCan_free (c : CanId) (x : Can) : (s.setCan c x).free = s.free := rfl
@[simp] theorem State.setCan_regs (c : CanId) (x : Can) : (s.setCan c x).regs = s.regs := rfl
@[simp] theorem State.setCan_hwSet (c : CanId) (x : Can) : (s.setCan c x).hwSet = s.hwSet := rfl
@[simp] theorem State.setCan_hostSet (c : CanId) (x : Can) : (s.setCan c x).hostSet = s.hostSet := rfl
@[simp] theorem State.setCan_force (c : CanId) (x : Can) : (s.setCan c x).force = s.force := rfl
@[simp] theorem State.setCan_fbPend (c : CanId) (x : Can) : (s.setCan c x).fbPend = s.fbPend := rfl
@[simp] theorem State.setCan_lastRead (c : CanId) (x : Can) : (s.setCan c x).lastRead = s.lastRead := rfl
@[simp] theorem State.setCan_shmem (c : CanId) (x : Can) : (s.setCan c x).shmem = s.shmem := rfl
@[simp] theorem State.setCan_arbLast (c : CanId) (x : Can) : (s.setCan c x).arbLast = s.arbLast := rfl
@[simp] theorem State.setCan_hostWin (c : CanId) (x : Can) : (s.setCan c x).hostWin = s.hostWin := rfl
@[simp] theorem State.setCan_engines (c : CanId) (x : Can) : (s.setCan c x).engines = s.engines := rfl
@[simp] theorem State.setCan_axes (c : CanId) (x : Can) : (s.setCan c x).axes = s.axes := rfl
@[simp] theorem State.setCan_banks (c : CanId) (x : Can) : (s.setCan c x).banks = s.banks := rfl
@[simp] theorem State.setCan_fb (c : CanId) (x : Can) : (s.setCan c x).fb = s.fb := rfl
@[simp] theorem State.setCan_po (c : CanId) (x : Can) : (s.setCan c x).po = s.po := rfl
@[simp] theorem State.setCan_mot (c : CanId) (x : Can) : (s.setCan c x).mot = s.mot := rfl
@[simp] theorem State.setCan_shaft (c : CanId) (x : Can) : (s.setCan c x).shaft = s.shaft := rfl
@[simp] theorem State.setCan_mon (c : CanId) (x : Can) : (s.setCan c x).mon = s.mon := rfl
@[simp] theorem State.setCan_funcs (c : CanId) (x : Can) : (s.setCan c x).funcs = s.funcs := rfl
@[simp] theorem State.setCan_accepted (c : CanId) (x : Can) : (s.setCan c x).accepted = s.accepted := rfl
@[simp] theorem State.setCan_hostOut (c : CanId) (x : Can) : (s.setCan c x).hostOut = s.hostOut := rfl
@[simp] theorem State.setCan_fetchLast (c : CanId) (x : Can) : (s.setCan c x).fetchLast = s.fetchLast := rfl
@[simp] theorem State.setCan_ownChanges (c : CanId) (x : Can) : (s.setCan c x).ownChanges = s.ownChanges := rfl
@[simp] theorem State.setCan_doms (c : CanId) (x : Can) : (s.setCan c x).doms = s.doms := rfl
@[simp] theorem State.setCan_time (c : CanId) (x : Can) : (s.setCan c x).time = s.time := rfl
@[simp] theorem State.setCan_fdb (c : CanId) (x : Can) : (s.setCan c x).fdb = s.fdb := rfl
@[simp] theorem State.setCan_ports (c : CanId) (x : Can) : (s.setCan c x).ports = s.ports := rfl
@[simp] theorem State.setCan_txqs (c : CanId) (x : Can) : (s.setCan c x).txqs = s.txqs := rfl
@[simp] theorem State.setCan_rx (c : CanId) (x : Can) : (s.setCan c x).rx = s.rx := rfl
@[simp] theorem State.setCan_wireOut (c : CanId) (x : Can) : (s.setCan c x).wireOut = s.wireOut := rfl
@[simp] theorem State.setCan_dios (c : CanId) (x : Can) : (s.setCan c x).dios = s.dios := rfl
@[simp] theorem State.setCan_dio (c : CanId) (x : Can) : (s.setCan c x).dio = s.dio := rfl
@[simp] theorem State.setCan_saf (c : CanId) (x : Can) : (s.setCan c x).saf = s.saf := rfl
@[simp] theorem State.setCan_fo (c : CanId) (x : Can) : (s.setCan c x).fo = s.fo := rfl
@[simp] theorem State.setCan_prof (c : CanId) (x : Can) : (s.setCan c x).prof = s.prof := rfl
@[simp] theorem State.setCan_store (c : CanId) (x : Can) : (s.setCan c x).store = s.store := rfl
@[simp] theorem State.setCan_pwr (c : CanId) (x : Can) : (s.setCan c x).pwr = s.pwr := rfl
@[simp] theorem State.setCan_plugs (c : CanId) (x : Can) : (s.setCan c x).plugs = s.plugs := rfl
@[simp] theorem State.setCan_thm (c : CanId) (x : Can) : (s.setCan c x).thm = s.thm := rfl
@[simp] theorem State.setCan_eng (c : CanId) (x : Can) (k : EngId) : (s.setCan c x).eng k = s.eng k := rfl
@[simp] theorem State.setCan_ax (c : CanId) (x : Can) (k : AxId) : (s.setCan c x).ax k = s.ax k := rfl
@[simp] theorem State.setCan_bnk (c : CanId) (x : Can) (k : BankId) : (s.setCan c x).bnk k = s.bnk k := rfl
@[simp] theorem State.setCan_fn (c : CanId) (x : Can) (k : FnId) : (s.setCan c x).fn k = s.fn k := rfl
@[simp] theorem State.setCan_fbk (c : CanId) (x : Can) (k : AxId) : (s.setCan c x).fbk k = s.fbk k := rfl
@[simp] theorem State.setCan_motion (c : CanId) (x : Can) (k : AxId) : (s.setCan c x).motion k = s.motion k := rfl
@[simp] theorem State.setCan_moni (c : CanId) (x : Can) (k : AxId) : (s.setCan c x).moni k = s.moni k := rfl
@[simp] theorem State.setCan_failover (c : CanId) (x : Can) (k : AxId) : (s.setCan c x).failover k = s.failover k := rfl
@[simp] theorem State.setCan_plug (c : CanId) (x : Can) (k : AxId) : (s.setCan c x).plug k = s.plug k := rfl
@[simp] theorem State.setCan_rep (c : CanId) (x : Can) (k : PoId) : (s.setCan c x).rep k = s.rep k := rfl
@[simp] theorem State.setCan_chan (c : CanId) (x : Can) (k : DioId) : (s.setCan c x).chan k = s.chan k := rfl
@[simp] theorem State.setCan_port (c : CanId) (x : Can) (k : PortId) : (s.setCan c x).port k = s.port k := rfl
@[simp] theorem State.setCan_txq (c : CanId) (x : Can) (k : TxqId) : (s.setCan c x).txq k = s.txq k := rfl
@[simp] theorem State.setCan_dom (c : CanId) (x : Can) (k : Fin 2) : (s.setCan c x).dom k = s.dom k := rfl
@[simp] theorem State.setCan_word (c : CanId) (x : Can) (r : Reg) (i i' : Nat) : (s.setCan c x).word r i i' = s.word r i i' := rfl
@[simp] theorem State.setCan_fld (c : CanId) (x : Can) (g : Fld) (i i' : Nat) : (s.setCan c x).fld g i i' = s.fld g i i' := rfl
@[simp] theorem State.setCan_bit (c : CanId) (x : Can) (g : Fld) (i i' : Nat) : (s.setCan c x).bit g i i' = s.bit g i i' := rfl
@[simp] theorem State.can_setCan_same (c : CanId) (x : Can) : (s.setCan c x).can c = x := by simp [State.setCan, State.can]
theorem State.can_setCan_ne (c : CanId) (x : Can) {m : CanId} (h : m ≠ c) : (s.setCan c x).can m = s.can m := by
  have : c.val ≠ m.val := fun hv => h (Fin.ext hv.symm)
  simp [State.setCan, State.can, this]

/-! setChan -/
@[simp] theorem State.setChan_pending (c : DioId) (x : Dio) : (s.setChan c x).pending = s.pending := rfl
@[simp] theorem State.setChan_tick (c : DioId) (x : Dio) : (s.setChan c x).tick = s.tick := rfl
@[simp] theorem State.setChan_dt (c : DioId) (x : Dio) : (s.setChan c x).dt = s.dt := rfl
@[simp] theorem State.setChan_free (c : DioId) (x : Dio) : (s.setChan c x).free = s.free := rfl
@[simp] theorem State.setChan_regs (c : DioId) (x : Dio) : (s.setChan c x).regs = s.regs := rfl
@[simp] theorem State.setChan_hwSet (c : DioId) (x : Dio) : (s.setChan c x).hwSet = s.hwSet := rfl
@[simp] theorem State.setChan_hostSet (c : DioId) (x : Dio) : (s.setChan c x).hostSet = s.hostSet := rfl
@[simp] theorem State.setChan_force (c : DioId) (x : Dio) : (s.setChan c x).force = s.force := rfl
@[simp] theorem State.setChan_fbPend (c : DioId) (x : Dio) : (s.setChan c x).fbPend = s.fbPend := rfl
@[simp] theorem State.setChan_lastRead (c : DioId) (x : Dio) : (s.setChan c x).lastRead = s.lastRead := rfl
@[simp] theorem State.setChan_shmem (c : DioId) (x : Dio) : (s.setChan c x).shmem = s.shmem := rfl
@[simp] theorem State.setChan_arbLast (c : DioId) (x : Dio) : (s.setChan c x).arbLast = s.arbLast := rfl
@[simp] theorem State.setChan_hostWin (c : DioId) (x : Dio) : (s.setChan c x).hostWin = s.hostWin := rfl
@[simp] theorem State.setChan_engines (c : DioId) (x : Dio) : (s.setChan c x).engines = s.engines := rfl
@[simp] theorem State.setChan_axes (c : DioId) (x : Dio) : (s.setChan c x).axes = s.axes := rfl
@[simp] theorem State.setChan_banks (c : DioId) (x : Dio) : (s.setChan c x).banks = s.banks := rfl
@[simp] theorem State.setChan_fb (c : DioId) (x : Dio) : (s.setChan c x).fb = s.fb := rfl
@[simp] theorem State.setChan_po (c : DioId) (x : Dio) : (s.setChan c x).po = s.po := rfl
@[simp] theorem State.setChan_mot (c : DioId) (x : Dio) : (s.setChan c x).mot = s.mot := rfl
@[simp] theorem State.setChan_shaft (c : DioId) (x : Dio) : (s.setChan c x).shaft = s.shaft := rfl
@[simp] theorem State.setChan_mon (c : DioId) (x : Dio) : (s.setChan c x).mon = s.mon := rfl
@[simp] theorem State.setChan_funcs (c : DioId) (x : Dio) : (s.setChan c x).funcs = s.funcs := rfl
@[simp] theorem State.setChan_accepted (c : DioId) (x : Dio) : (s.setChan c x).accepted = s.accepted := rfl
@[simp] theorem State.setChan_hostOut (c : DioId) (x : Dio) : (s.setChan c x).hostOut = s.hostOut := rfl
@[simp] theorem State.setChan_fetchLast (c : DioId) (x : Dio) : (s.setChan c x).fetchLast = s.fetchLast := rfl
@[simp] theorem State.setChan_ownChanges (c : DioId) (x : Dio) : (s.setChan c x).ownChanges = s.ownChanges := rfl
@[simp] theorem State.setChan_doms (c : DioId) (x : Dio) : (s.setChan c x).doms = s.doms := rfl
@[simp] theorem State.setChan_time (c : DioId) (x : Dio) : (s.setChan c x).time = s.time := rfl
@[simp] theorem State.setChan_fdb (c : DioId) (x : Dio) : (s.setChan c x).fdb = s.fdb := rfl
@[simp] theorem State.setChan_ports (c : DioId) (x : Dio) : (s.setChan c x).ports = s.ports := rfl
@[simp] theorem State.setChan_txqs (c : DioId) (x : Dio) : (s.setChan c x).txqs = s.txqs := rfl
@[simp] theorem State.setChan_rx (c : DioId) (x : Dio) : (s.setChan c x).rx = s.rx := rfl
@[simp] theorem State.setChan_wireOut (c : DioId) (x : Dio) : (s.setChan c x).wireOut = s.wireOut := rfl
@[simp] theorem State.setChan_cans (c : DioId) (x : Dio) : (s.setChan c x).cans = s.cans := rfl
@[simp] theorem State.setChan_dio (c : DioId) (x : Dio) : (s.setChan c x).dio = s.dio := rfl
@[simp] theorem State.setChan_saf (c : DioId) (x : Dio) : (s.setChan c x).saf = s.saf := rfl
@[simp] theorem State.setChan_fo (c : DioId) (x : Dio) : (s.setChan c x).fo = s.fo := rfl
@[simp] theorem State.setChan_prof (c : DioId) (x : Dio) : (s.setChan c x).prof = s.prof := rfl
@[simp] theorem State.setChan_store (c : DioId) (x : Dio) : (s.setChan c x).store = s.store := rfl
@[simp] theorem State.setChan_pwr (c : DioId) (x : Dio) : (s.setChan c x).pwr = s.pwr := rfl
@[simp] theorem State.setChan_plugs (c : DioId) (x : Dio) : (s.setChan c x).plugs = s.plugs := rfl
@[simp] theorem State.setChan_thm (c : DioId) (x : Dio) : (s.setChan c x).thm = s.thm := rfl
@[simp] theorem State.setChan_eng (c : DioId) (x : Dio) (k : EngId) : (s.setChan c x).eng k = s.eng k := rfl
@[simp] theorem State.setChan_ax (c : DioId) (x : Dio) (k : AxId) : (s.setChan c x).ax k = s.ax k := rfl
@[simp] theorem State.setChan_bnk (c : DioId) (x : Dio) (k : BankId) : (s.setChan c x).bnk k = s.bnk k := rfl
@[simp] theorem State.setChan_fn (c : DioId) (x : Dio) (k : FnId) : (s.setChan c x).fn k = s.fn k := rfl
@[simp] theorem State.setChan_fbk (c : DioId) (x : Dio) (k : AxId) : (s.setChan c x).fbk k = s.fbk k := rfl
@[simp] theorem State.setChan_motion (c : DioId) (x : Dio) (k : AxId) : (s.setChan c x).motion k = s.motion k := rfl
@[simp] theorem State.setChan_moni (c : DioId) (x : Dio) (k : AxId) : (s.setChan c x).moni k = s.moni k := rfl
@[simp] theorem State.setChan_failover (c : DioId) (x : Dio) (k : AxId) : (s.setChan c x).failover k = s.failover k := rfl
@[simp] theorem State.setChan_plug (c : DioId) (x : Dio) (k : AxId) : (s.setChan c x).plug k = s.plug k := rfl
@[simp] theorem State.setChan_rep (c : DioId) (x : Dio) (k : PoId) : (s.setChan c x).rep k = s.rep k := rfl
@[simp] theorem State.setChan_can (c : DioId) (x : Dio) (k : CanId) : (s.setChan c x).can k = s.can k := rfl
@[simp] theorem State.setChan_port (c : DioId) (x : Dio) (k : PortId) : (s.setChan c x).port k = s.port k := rfl
@[simp] theorem State.setChan_txq (c : DioId) (x : Dio) (k : TxqId) : (s.setChan c x).txq k = s.txq k := rfl
@[simp] theorem State.setChan_dom (c : DioId) (x : Dio) (k : Fin 2) : (s.setChan c x).dom k = s.dom k := rfl
@[simp] theorem State.setChan_word (c : DioId) (x : Dio) (r : Reg) (i i' : Nat) : (s.setChan c x).word r i i' = s.word r i i' := rfl
@[simp] theorem State.setChan_fld (c : DioId) (x : Dio) (g : Fld) (i i' : Nat) : (s.setChan c x).fld g i i' = s.fld g i i' := rfl
@[simp] theorem State.setChan_bit (c : DioId) (x : Dio) (g : Fld) (i i' : Nat) : (s.setChan c x).bit g i i' = s.bit g i i' := rfl
@[simp] theorem State.chan_setChan_same (c : DioId) (x : Dio) : (s.setChan c x).chan c = x := by simp [State.setChan, State.chan]
theorem State.chan_setChan_ne (c : DioId) (x : Dio) {m : DioId} (h : m ≠ c) : (s.setChan c x).chan m = s.chan m := by
  have : c.val ≠ m.val := fun hv => h (Fin.ext hv.symm)
  simp [State.setChan, State.chan, this]

/-! setPort -/
@[simp] theorem State.setPort_pending (p : PortId) (x : LinePort) : (s.setPort p x).pending = s.pending := rfl
@[simp] theorem State.setPort_tick (p : PortId) (x : LinePort) : (s.setPort p x).tick = s.tick := rfl
@[simp] theorem State.setPort_dt (p : PortId) (x : LinePort) : (s.setPort p x).dt = s.dt := rfl
@[simp] theorem State.setPort_free (p : PortId) (x : LinePort) : (s.setPort p x).free = s.free := rfl
@[simp] theorem State.setPort_regs (p : PortId) (x : LinePort) : (s.setPort p x).regs = s.regs := rfl
@[simp] theorem State.setPort_hwSet (p : PortId) (x : LinePort) : (s.setPort p x).hwSet = s.hwSet := rfl
@[simp] theorem State.setPort_hostSet (p : PortId) (x : LinePort) : (s.setPort p x).hostSet = s.hostSet := rfl
@[simp] theorem State.setPort_force (p : PortId) (x : LinePort) : (s.setPort p x).force = s.force := rfl
@[simp] theorem State.setPort_fbPend (p : PortId) (x : LinePort) : (s.setPort p x).fbPend = s.fbPend := rfl
@[simp] theorem State.setPort_lastRead (p : PortId) (x : LinePort) : (s.setPort p x).lastRead = s.lastRead := rfl
@[simp] theorem State.setPort_shmem (p : PortId) (x : LinePort) : (s.setPort p x).shmem = s.shmem := rfl
@[simp] theorem State.setPort_arbLast (p : PortId) (x : LinePort) : (s.setPort p x).arbLast = s.arbLast := rfl
@[simp] theorem State.setPort_hostWin (p : PortId) (x : LinePort) : (s.setPort p x).hostWin = s.hostWin := rfl
@[simp] theorem State.setPort_engines (p : PortId) (x : LinePort) : (s.setPort p x).engines = s.engines := rfl
@[simp] theorem State.setPort_axes (p : PortId) (x : LinePort) : (s.setPort p x).axes = s.axes := rfl
@[simp] theorem State.setPort_banks (p : PortId) (x : LinePort) : (s.setPort p x).banks = s.banks := rfl
@[simp] theorem State.setPort_fb (p : PortId) (x : LinePort) : (s.setPort p x).fb = s.fb := rfl
@[simp] theorem State.setPort_po (p : PortId) (x : LinePort) : (s.setPort p x).po = s.po := rfl
@[simp] theorem State.setPort_mot (p : PortId) (x : LinePort) : (s.setPort p x).mot = s.mot := rfl
@[simp] theorem State.setPort_shaft (p : PortId) (x : LinePort) : (s.setPort p x).shaft = s.shaft := rfl
@[simp] theorem State.setPort_mon (p : PortId) (x : LinePort) : (s.setPort p x).mon = s.mon := rfl
@[simp] theorem State.setPort_funcs (p : PortId) (x : LinePort) : (s.setPort p x).funcs = s.funcs := rfl
@[simp] theorem State.setPort_accepted (p : PortId) (x : LinePort) : (s.setPort p x).accepted = s.accepted := rfl
@[simp] theorem State.setPort_hostOut (p : PortId) (x : LinePort) : (s.setPort p x).hostOut = s.hostOut := rfl
@[simp] theorem State.setPort_fetchLast (p : PortId) (x : LinePort) : (s.setPort p x).fetchLast = s.fetchLast := rfl
@[simp] theorem State.setPort_ownChanges (p : PortId) (x : LinePort) : (s.setPort p x).ownChanges = s.ownChanges := rfl
@[simp] theorem State.setPort_doms (p : PortId) (x : LinePort) : (s.setPort p x).doms = s.doms := rfl
@[simp] theorem State.setPort_time (p : PortId) (x : LinePort) : (s.setPort p x).time = s.time := rfl
@[simp] theorem State.setPort_fdb (p : PortId) (x : LinePort) : (s.setPort p x).fdb = s.fdb := rfl
@[simp] theorem State.setPort_txqs (p : PortId) (x : LinePort) : (s.setPort p x).txqs = s.txqs := rfl
@[simp] theorem State.setPort_rx (p : PortId) (x : LinePort) : (s.setPort p x).rx = s.rx := rfl
@[simp] theorem State.setPort_wireOut (p : PortId) (x : LinePort) : (s.setPort p x).wireOut = s.wireOut := rfl
@[simp] theorem State.setPort_cans (p : PortId) (x : LinePort) : (s.setPort p x).cans = s.cans := rfl
@[simp] theorem State.setPort_dios (p : PortId) (x : LinePort) : (s.setPort p x).dios = s.dios := rfl
@[simp] theorem State.setPort_dio (p : PortId) (x : LinePort) : (s.setPort p x).dio = s.dio := rfl
@[simp] theorem State.setPort_saf (p : PortId) (x : LinePort) : (s.setPort p x).saf = s.saf := rfl
@[simp] theorem State.setPort_fo (p : PortId) (x : LinePort) : (s.setPort p x).fo = s.fo := rfl
@[simp] theorem State.setPort_prof (p : PortId) (x : LinePort) : (s.setPort p x).prof = s.prof := rfl
@[simp] theorem State.setPort_store (p : PortId) (x : LinePort) : (s.setPort p x).store = s.store := rfl
@[simp] theorem State.setPort_pwr (p : PortId) (x : LinePort) : (s.setPort p x).pwr = s.pwr := rfl
@[simp] theorem State.setPort_plugs (p : PortId) (x : LinePort) : (s.setPort p x).plugs = s.plugs := rfl
@[simp] theorem State.setPort_thm (p : PortId) (x : LinePort) : (s.setPort p x).thm = s.thm := rfl
@[simp] theorem State.setPort_eng (p : PortId) (x : LinePort) (k : EngId) : (s.setPort p x).eng k = s.eng k := rfl
@[simp] theorem State.setPort_ax (p : PortId) (x : LinePort) (k : AxId) : (s.setPort p x).ax k = s.ax k := rfl
@[simp] theorem State.setPort_bnk (p : PortId) (x : LinePort) (k : BankId) : (s.setPort p x).bnk k = s.bnk k := rfl
@[simp] theorem State.setPort_fn (p : PortId) (x : LinePort) (k : FnId) : (s.setPort p x).fn k = s.fn k := rfl
@[simp] theorem State.setPort_fbk (p : PortId) (x : LinePort) (k : AxId) : (s.setPort p x).fbk k = s.fbk k := rfl
@[simp] theorem State.setPort_motion (p : PortId) (x : LinePort) (k : AxId) : (s.setPort p x).motion k = s.motion k := rfl
@[simp] theorem State.setPort_moni (p : PortId) (x : LinePort) (k : AxId) : (s.setPort p x).moni k = s.moni k := rfl
@[simp] theorem State.setPort_failover (p : PortId) (x : LinePort) (k : AxId) : (s.setPort p x).failover k = s.failover k := rfl
@[simp] theorem State.setPort_plug (p : PortId) (x : LinePort) (k : AxId) : (s.setPort p x).plug k = s.plug k := rfl
@[simp] theorem State.setPort_rep (p : PortId) (x : LinePort) (k : PoId) : (s.setPort p x).rep k = s.rep k := rfl
@[simp] theorem State.setPort_can (p : PortId) (x : LinePort) (k : CanId) : (s.setPort p x).can k = s.can k := rfl
@[simp] theorem State.setPort_chan (p : PortId) (x : LinePort) (k : DioId) : (s.setPort p x).chan k = s.chan k := rfl
@[simp] theorem State.setPort_txq (p : PortId) (x : LinePort) (k : TxqId) : (s.setPort p x).txq k = s.txq k := rfl
@[simp] theorem State.setPort_dom (p : PortId) (x : LinePort) (k : Fin 2) : (s.setPort p x).dom k = s.dom k := rfl
@[simp] theorem State.setPort_word (p : PortId) (x : LinePort) (r : Reg) (i i' : Nat) : (s.setPort p x).word r i i' = s.word r i i' := rfl
@[simp] theorem State.setPort_fld (p : PortId) (x : LinePort) (g : Fld) (i i' : Nat) : (s.setPort p x).fld g i i' = s.fld g i i' := rfl
@[simp] theorem State.setPort_bit (p : PortId) (x : LinePort) (g : Fld) (i i' : Nat) : (s.setPort p x).bit g i i' = s.bit g i i' := rfl
@[simp] theorem State.port_setPort_same (p : PortId) (x : LinePort) : (s.setPort p x).port p = x := by simp [State.setPort, State.port]
theorem State.port_setPort_ne (p : PortId) (x : LinePort) {m : PortId} (h : m ≠ p) : (s.setPort p x).port m = s.port m := by
  have : p.val ≠ m.val := fun hv => h (Fin.ext hv.symm)
  simp [State.setPort, State.port, this]

/-! setTxq -/
@[simp] theorem State.setTxq_pending (q : TxqId) (x : TxQueue) : (s.setTxq q x).pending = s.pending := rfl
@[simp] theorem State.setTxq_tick (q : TxqId) (x : TxQueue) : (s.setTxq q x).tick = s.tick := rfl
@[simp] theorem State.setTxq_dt (q : TxqId) (x : TxQueue) : (s.setTxq q x).dt = s.dt := rfl
@[simp] theorem State.setTxq_free (q : TxqId) (x : TxQueue) : (s.setTxq q x).free = s.free := rfl
@[simp] theorem State.setTxq_regs (q : TxqId) (x : TxQueue) : (s.setTxq q x).regs = s.regs := rfl
@[simp] theorem State.setTxq_hwSet (q : TxqId) (x : TxQueue) : (s.setTxq q x).hwSet = s.hwSet := rfl
@[simp] theorem State.setTxq_hostSet (q : TxqId) (x : TxQueue) : (s.setTxq q x).hostSet = s.hostSet := rfl
@[simp] theorem State.setTxq_force (q : TxqId) (x : TxQueue) : (s.setTxq q x).force = s.force := rfl
@[simp] theorem State.setTxq_fbPend (q : TxqId) (x : TxQueue) : (s.setTxq q x).fbPend = s.fbPend := rfl
@[simp] theorem State.setTxq_lastRead (q : TxqId) (x : TxQueue) : (s.setTxq q x).lastRead = s.lastRead := rfl
@[simp] theorem State.setTxq_shmem (q : TxqId) (x : TxQueue) : (s.setTxq q x).shmem = s.shmem := rfl
@[simp] theorem State.setTxq_arbLast (q : TxqId) (x : TxQueue) : (s.setTxq q x).arbLast = s.arbLast := rfl
@[simp] theorem State.setTxq_hostWin (q : TxqId) (x : TxQueue) : (s.setTxq q x).hostWin = s.hostWin := rfl
@[simp] theorem State.setTxq_engines (q : TxqId) (x : TxQueue) : (s.setTxq q x).engines = s.engines := rfl
@[simp] theorem State.setTxq_axes (q : TxqId) (x : TxQueue) : (s.setTxq q x).axes = s.axes := rfl
@[simp] theorem State.setTxq_banks (q : TxqId) (x : TxQueue) : (s.setTxq q x).banks = s.banks := rfl
@[simp] theorem State.setTxq_fb (q : TxqId) (x : TxQueue) : (s.setTxq q x).fb = s.fb := rfl
@[simp] theorem State.setTxq_po (q : TxqId) (x : TxQueue) : (s.setTxq q x).po = s.po := rfl
@[simp] theorem State.setTxq_mot (q : TxqId) (x : TxQueue) : (s.setTxq q x).mot = s.mot := rfl
@[simp] theorem State.setTxq_shaft (q : TxqId) (x : TxQueue) : (s.setTxq q x).shaft = s.shaft := rfl
@[simp] theorem State.setTxq_mon (q : TxqId) (x : TxQueue) : (s.setTxq q x).mon = s.mon := rfl
@[simp] theorem State.setTxq_funcs (q : TxqId) (x : TxQueue) : (s.setTxq q x).funcs = s.funcs := rfl
@[simp] theorem State.setTxq_accepted (q : TxqId) (x : TxQueue) : (s.setTxq q x).accepted = s.accepted := rfl
@[simp] theorem State.setTxq_hostOut (q : TxqId) (x : TxQueue) : (s.setTxq q x).hostOut = s.hostOut := rfl
@[simp] theorem State.setTxq_fetchLast (q : TxqId) (x : TxQueue) : (s.setTxq q x).fetchLast = s.fetchLast := rfl
@[simp] theorem State.setTxq_ownChanges (q : TxqId) (x : TxQueue) : (s.setTxq q x).ownChanges = s.ownChanges := rfl
@[simp] theorem State.setTxq_doms (q : TxqId) (x : TxQueue) : (s.setTxq q x).doms = s.doms := rfl
@[simp] theorem State.setTxq_time (q : TxqId) (x : TxQueue) : (s.setTxq q x).time = s.time := rfl
@[simp] theorem State.setTxq_fdb (q : TxqId) (x : TxQueue) : (s.setTxq q x).fdb = s.fdb := rfl
@[simp] theorem State.setTxq_ports (q : TxqId) (x : TxQueue) : (s.setTxq q x).ports = s.ports := rfl
@[simp] theorem State.setTxq_rx (q : TxqId) (x : TxQueue) : (s.setTxq q x).rx = s.rx := rfl
@[simp] theorem State.setTxq_wireOut (q : TxqId) (x : TxQueue) : (s.setTxq q x).wireOut = s.wireOut := rfl
@[simp] theorem State.setTxq_cans (q : TxqId) (x : TxQueue) : (s.setTxq q x).cans = s.cans := rfl
@[simp] theorem State.setTxq_dios (q : TxqId) (x : TxQueue) : (s.setTxq q x).dios = s.dios := rfl
@[simp] theorem State.setTxq_dio (q : TxqId) (x : TxQueue) : (s.setTxq q x).dio = s.dio := rfl
@[simp] theorem State.setTxq_saf (q : TxqId) (x : TxQueue) : (s.setTxq q x).saf = s.saf := rfl
@[simp] theorem State.setTxq_fo (q : TxqId) (x : TxQueue) : (s.setTxq q x).fo = s.fo := rfl
@[simp] theorem State.setTxq_prof (q : TxqId) (x : TxQueue) : (s.setTxq q x).prof = s.prof := rfl
@[simp] theorem State.setTxq_store (q : TxqId) (x : TxQueue) : (s.setTxq q x).store = s.store := rfl
@[simp] theorem State.setTxq_pwr (q : TxqId) (x : TxQueue) : (s.setTxq q x).pwr = s.pwr := rfl
@[simp] theorem State.setTxq_plugs (q : TxqId) (x : TxQueue) : (s.setTxq q x).plugs = s.plugs := rfl
@[simp] theorem State.setTxq_thm (q : TxqId) (x : TxQueue) : (s.setTxq q x).thm = s.thm := rfl
@[simp] theorem State.setTxq_eng (q : TxqId) (x : TxQueue) (k : EngId) : (s.setTxq q x).eng k = s.eng k := rfl
@[simp] theorem State.setTxq_ax (q : TxqId) (x : TxQueue) (k : AxId) : (s.setTxq q x).ax k = s.ax k := rfl
@[simp] theorem State.setTxq_bnk (q : TxqId) (x : TxQueue) (k : BankId) : (s.setTxq q x).bnk k = s.bnk k := rfl
@[simp] theorem State.setTxq_fn (q : TxqId) (x : TxQueue) (k : FnId) : (s.setTxq q x).fn k = s.fn k := rfl
@[simp] theorem State.setTxq_fbk (q : TxqId) (x : TxQueue) (k : AxId) : (s.setTxq q x).fbk k = s.fbk k := rfl
@[simp] theorem State.setTxq_motion (q : TxqId) (x : TxQueue) (k : AxId) : (s.setTxq q x).motion k = s.motion k := rfl
@[simp] theorem State.setTxq_moni (q : TxqId) (x : TxQueue) (k : AxId) : (s.setTxq q x).moni k = s.moni k := rfl
@[simp] theorem State.setTxq_failover (q : TxqId) (x : TxQueue) (k : AxId) : (s.setTxq q x).failover k = s.failover k := rfl
@[simp] theorem State.setTxq_plug (q : TxqId) (x : TxQueue) (k : AxId) : (s.setTxq q x).plug k = s.plug k := rfl
@[simp] theorem State.setTxq_rep (q : TxqId) (x : TxQueue) (k : PoId) : (s.setTxq q x).rep k = s.rep k := rfl
@[simp] theorem State.setTxq_can (q : TxqId) (x : TxQueue) (k : CanId) : (s.setTxq q x).can k = s.can k := rfl
@[simp] theorem State.setTxq_chan (q : TxqId) (x : TxQueue) (k : DioId) : (s.setTxq q x).chan k = s.chan k := rfl
@[simp] theorem State.setTxq_port (q : TxqId) (x : TxQueue) (k : PortId) : (s.setTxq q x).port k = s.port k := rfl
@[simp] theorem State.setTxq_dom (q : TxqId) (x : TxQueue) (k : Fin 2) : (s.setTxq q x).dom k = s.dom k := rfl
@[simp] theorem State.setTxq_word (q : TxqId) (x : TxQueue) (r : Reg) (i i' : Nat) : (s.setTxq q x).word r i i' = s.word r i i' := rfl
@[simp] theorem State.setTxq_fld (q : TxqId) (x : TxQueue) (g : Fld) (i i' : Nat) : (s.setTxq q x).fld g i i' = s.fld g i i' := rfl
@[simp] theorem State.setTxq_bit (q : TxqId) (x : TxQueue) (g : Fld) (i i' : Nat) : (s.setTxq q x).bit g i i' = s.bit g i i' := rfl
@[simp] theorem State.txq_setTxq_same (q : TxqId) (x : TxQueue) : (s.setTxq q x).txq q = x := by simp [State.setTxq, State.txq]
theorem State.txq_setTxq_ne (q : TxqId) (x : TxQueue) {m : TxqId} (h : m ≠ q) : (s.setTxq q x).txq m = s.txq m := by
  have : q.val ≠ m.val := fun hv => h (Fin.ext hv.symm)
  simp [State.setTxq, State.txq, this]

/-! setDom -/
@[simp] theorem State.setDom_pending (j : Fin 2) (x : TimeDom) : (s.setDom j x).pending = s.pending := rfl
@[simp] theorem State.setDom_tick (j : Fin 2) (x : TimeDom) : (s.setDom j x).tick = s.tick := rfl
@[simp] theorem State.setDom_dt (j : Fin 2) (x : TimeDom) : (s.setDom j x).dt = s.dt := rfl
@[simp] theorem State.setDom_free (j : Fin 2) (x : TimeDom) : (s.setDom j x).free = s.free := rfl
@[simp] theorem State.setDom_regs (j : Fin 2) (x : TimeDom) : (s.setDom j x).regs = s.regs := rfl
@[simp] theorem State.setDom_hwSet (j : Fin 2) (x : TimeDom) : (s.setDom j x).hwSet = s.hwSet := rfl
@[simp] theorem State.setDom_hostSet (j : Fin 2) (x : TimeDom) : (s.setDom j x).hostSet = s.hostSet := rfl
@[simp] theorem State.setDom_force (j : Fin 2) (x : TimeDom) : (s.setDom j x).force = s.force := rfl
@[simp] theorem State.setDom_fbPend (j : Fin 2) (x : TimeDom) : (s.setDom j x).fbPend = s.fbPend := rfl
@[simp] theorem State.setDom_lastRead (j : Fin 2) (x : TimeDom) : (s.setDom j x).lastRead = s.lastRead := rfl
@[simp] theorem State.setDom_shmem (j : Fin 2) (x : TimeDom) : (s.setDom j x).shmem = s.shmem := rfl
@[simp] theorem State.setDom_arbLast (j : Fin 2) (x : TimeDom) : (s.setDom j x).arbLast = s.arbLast := rfl
@[simp] theorem State.setDom_hostWin (j : Fin 2) (x : TimeDom) : (s.setDom j x).hostWin = s.hostWin := rfl
@[simp] theorem State.setDom_engines (j : Fin 2) (x : TimeDom) : (s.setDom j x).engines = s.engines := rfl
@[simp] theorem State.setDom_axes (j : Fin 2) (x : TimeDom) : (s.setDom j x).axes = s.axes := rfl
@[simp] theorem State.setDom_banks (j : Fin 2) (x : TimeDom) : (s.setDom j x).banks = s.banks := rfl
@[simp] theorem State.setDom_fb (j : Fin 2) (x : TimeDom) : (s.setDom j x).fb = s.fb := rfl
@[simp] theorem State.setDom_po (j : Fin 2) (x : TimeDom) : (s.setDom j x).po = s.po := rfl
@[simp] theorem State.setDom_mot (j : Fin 2) (x : TimeDom) : (s.setDom j x).mot = s.mot := rfl
@[simp] theorem State.setDom_shaft (j : Fin 2) (x : TimeDom) : (s.setDom j x).shaft = s.shaft := rfl
@[simp] theorem State.setDom_mon (j : Fin 2) (x : TimeDom) : (s.setDom j x).mon = s.mon := rfl
@[simp] theorem State.setDom_funcs (j : Fin 2) (x : TimeDom) : (s.setDom j x).funcs = s.funcs := rfl
@[simp] theorem State.setDom_accepted (j : Fin 2) (x : TimeDom) : (s.setDom j x).accepted = s.accepted := rfl
@[simp] theorem State.setDom_hostOut (j : Fin 2) (x : TimeDom) : (s.setDom j x).hostOut = s.hostOut := rfl
@[simp] theorem State.setDom_fetchLast (j : Fin 2) (x : TimeDom) : (s.setDom j x).fetchLast = s.fetchLast := rfl
@[simp] theorem State.setDom_ownChanges (j : Fin 2) (x : TimeDom) : (s.setDom j x).ownChanges = s.ownChanges := rfl
@[simp] theorem State.setDom_time (j : Fin 2) (x : TimeDom) : (s.setDom j x).time = s.time := rfl
@[simp] theorem State.setDom_fdb (j : Fin 2) (x : TimeDom) : (s.setDom j x).fdb = s.fdb := rfl
@[simp] theorem State.setDom_ports (j : Fin 2) (x : TimeDom) : (s.setDom j x).ports = s.ports := rfl
@[simp] theorem State.setDom_txqs (j : Fin 2) (x : TimeDom) : (s.setDom j x).txqs = s.txqs := rfl
@[simp] theorem State.setDom_rx (j : Fin 2) (x : TimeDom) : (s.setDom j x).rx = s.rx := rfl
@[simp] theorem State.setDom_wireOut (j : Fin 2) (x : TimeDom) : (s.setDom j x).wireOut = s.wireOut := rfl
@[simp] theorem State.setDom_cans (j : Fin 2) (x : TimeDom) : (s.setDom j x).cans = s.cans := rfl
@[simp] theorem State.setDom_dios (j : Fin 2) (x : TimeDom) : (s.setDom j x).dios = s.dios := rfl
@[simp] theorem State.setDom_dio (j : Fin 2) (x : TimeDom) : (s.setDom j x).dio = s.dio := rfl
@[simp] theorem State.setDom_saf (j : Fin 2) (x : TimeDom) : (s.setDom j x).saf = s.saf := rfl
@[simp] theorem State.setDom_fo (j : Fin 2) (x : TimeDom) : (s.setDom j x).fo = s.fo := rfl
@[simp] theorem State.setDom_prof (j : Fin 2) (x : TimeDom) : (s.setDom j x).prof = s.prof := rfl
@[simp] theorem State.setDom_store (j : Fin 2) (x : TimeDom) : (s.setDom j x).store = s.store := rfl
@[simp] theorem State.setDom_pwr (j : Fin 2) (x : TimeDom) : (s.setDom j x).pwr = s.pwr := rfl
@[simp] theorem State.setDom_plugs (j : Fin 2) (x : TimeDom) : (s.setDom j x).plugs = s.plugs := rfl
@[simp] theorem State.setDom_thm (j : Fin 2) (x : TimeDom) : (s.setDom j x).thm = s.thm := rfl
@[simp] theorem State.setDom_eng (j : Fin 2) (x : TimeDom) (k : EngId) : (s.setDom j x).eng k = s.eng k := rfl
@[simp] theorem State.setDom_ax (j : Fin 2) (x : TimeDom) (k : AxId) : (s.setDom j x).ax k = s.ax k := rfl
@[simp] theorem State.setDom_bnk (j : Fin 2) (x : TimeDom) (k : BankId) : (s.setDom j x).bnk k = s.bnk k := rfl
@[simp] theorem State.setDom_fn (j : Fin 2) (x : TimeDom) (k : FnId) : (s.setDom j x).fn k = s.fn k := rfl
@[simp] theorem State.setDom_fbk (j : Fin 2) (x : TimeDom) (k : AxId) : (s.setDom j x).fbk k = s.fbk k := rfl
@[simp] theorem State.setDom_motion (j : Fin 2) (x : TimeDom) (k : AxId) : (s.setDom j x).motion k = s.motion k := rfl
@[simp] theorem State.setDom_moni (j : Fin 2) (x : TimeDom) (k : AxId) : (s.setDom j x).moni k = s.moni k := rfl
@[simp] theorem State.setDom_failover (j : Fin 2) (x : TimeDom) (k : AxId) : (s.setDom j x).failover k = s.failover k := rfl
@[simp] theorem State.setDom_plug (j : Fin 2) (x : TimeDom) (k : AxId) : (s.setDom j x).plug k = s.plug k := rfl
@[simp] theorem State.setDom_rep (j : Fin 2) (x : TimeDom) (k : PoId) : (s.setDom j x).rep k = s.rep k := rfl
@[simp] theorem State.setDom_can (j : Fin 2) (x : TimeDom) (k : CanId) : (s.setDom j x).can k = s.can k := rfl
@[simp] theorem State.setDom_chan (j : Fin 2) (x : TimeDom) (k : DioId) : (s.setDom j x).chan k = s.chan k := rfl
@[simp] theorem State.setDom_port (j : Fin 2) (x : TimeDom) (k : PortId) : (s.setDom j x).port k = s.port k := rfl
@[simp] theorem State.setDom_txq (j : Fin 2) (x : TimeDom) (k : TxqId) : (s.setDom j x).txq k = s.txq k := rfl
@[simp] theorem State.setDom_word (j : Fin 2) (x : TimeDom) (r : Reg) (i i' : Nat) : (s.setDom j x).word r i i' = s.word r i i' := rfl
@[simp] theorem State.setDom_fld (j : Fin 2) (x : TimeDom) (g : Fld) (i i' : Nat) : (s.setDom j x).fld g i i' = s.fld g i i' := rfl
@[simp] theorem State.setDom_bit (j : Fin 2) (x : TimeDom) (g : Fld) (i i' : Nat) : (s.setDom j x).bit g i i' = s.bit g i i' := rfl
@[simp] theorem State.dom_setDom_same (j : Fin 2) (x : TimeDom) : (s.setDom j x).dom j = x := by simp [State.setDom, State.dom]
theorem State.dom_setDom_ne (j : Fin 2) (x : TimeDom) {m : Fin 2} (h : m ≠ j) : (s.setDom j x).dom m = s.dom m := by
  have : j.val ≠ m.val := fun hv => h (Fin.ext hv.symm)
  simp [State.setDom, State.dom, this]

/-! setWord -/
@[simp] theorem State.setWord_pending (r : Reg) (i j : Nat) (w : Word) : (s.setWord r i j w).pending = s.pending := rfl
@[simp] theorem State.setWord_tick (r : Reg) (i j : Nat) (w : Word) : (s.setWord r i j w).tick = s.tick := rfl
@[simp] theorem State.setWord_dt (r : Reg) (i j : Nat) (w : Word) : (s.setWord r i j w).dt = s.dt := rfl
@[simp] theorem State.setWord_free (r : Reg) (i j : Nat) (w : Word) : (s.setWord r i j w).free = s.free := rfl
@[simp] theorem State.setWord_hwSet (r : Reg) (i j : Nat) (w : Word) : (s.setWord r i j w).hwSet = s.hwSet := rfl
@[simp] theorem State.setWord_hostSet (r : Reg) (i j : Nat) (w : Word) : (s.setWord r i j w).hostSet = s.hostSet := rfl
@[simp] theorem State.setWord_force (r : Reg) (i j : Nat) (w : Word) : (s.setWord r i j w).force = s.force := rfl
@[simp] theorem State.setWord_fbPend (r : Reg) (i j : Nat) (w : Word) : (s.setWord r i j w).fbPend = s.fbPend := rfl
@[simp] theorem State.setWord_lastRead (r : Reg) (i j : Nat) (w : Word) : (s.setWord r i j w).lastRead = s.lastRead := rfl
@[simp] theorem State.setWord_shmem (r : Reg) (i j : Nat) (w : Word) : (s.setWord r i j w).shmem = s.shmem := rfl
@[simp] theorem State.setWord_arbLast (r : Reg) (i j : Nat) (w : Word) : (s.setWord r i j w).arbLast = s.arbLast := rfl
@[simp] theorem State.setWord_hostWin (r : Reg) (i j : Nat) (w : Word) : (s.setWord r i j w).hostWin = s.hostWin := rfl
@[simp] theorem State.setWord_engines (r : Reg) (i j : Nat) (w : Word) : (s.setWord r i j w).engines = s.engines := rfl
@[simp] theorem State.setWord_axes (r : Reg) (i j : Nat) (w : Word) : (s.setWord r i j w).axes = s.axes := rfl
@[simp] theorem State.setWord_banks (r : Reg) (i j : Nat) (w : Word) : (s.setWord r i j w).banks = s.banks := rfl
@[simp] theorem State.setWord_fb (r : Reg) (i j : Nat) (w : Word) : (s.setWord r i j w).fb = s.fb := rfl
@[simp] theorem State.setWord_po (r : Reg) (i j : Nat) (w : Word) : (s.setWord r i j w).po = s.po := rfl
@[simp] theorem State.setWord_mot (r : Reg) (i j : Nat) (w : Word) : (s.setWord r i j w).mot = s.mot := rfl
@[simp] theorem State.setWord_shaft (r : Reg) (i j : Nat) (w : Word) : (s.setWord r i j w).shaft = s.shaft := rfl
@[simp] theorem State.setWord_mon (r : Reg) (i j : Nat) (w : Word) : (s.setWord r i j w).mon = s.mon := rfl
@[simp] theorem State.setWord_funcs (r : Reg) (i j : Nat) (w : Word) : (s.setWord r i j w).funcs = s.funcs := rfl
@[simp] theorem State.setWord_accepted (r : Reg) (i j : Nat) (w : Word) : (s.setWord r i j w).accepted = s.accepted := rfl
@[simp] theorem State.setWord_hostOut (r : Reg) (i j : Nat) (w : Word) : (s.setWord r i j w).hostOut = s.hostOut := rfl
@[simp] theorem State.setWord_fetchLast (r : Reg) (i j : Nat) (w : Word) : (s.setWord r i j w).fetchLast = s.fetchLast := rfl
@[simp] theorem State.setWord_ownChanges (r : Reg) (i j : Nat) (w : Word) : (s.setWord r i j w).ownChanges = s.ownChanges := rfl
@[simp] theorem State.setWord_doms (r : Reg) (i j : Nat) (w : Word) : (s.setWord r i j w).doms = s.doms := rfl
@[simp] theorem State.setWord_time (r : Reg) (i j : Nat) (w : Word) : (s.setWord r i j w).time = s.time := rfl
@[simp] theorem State.setWord_fdb (r : Reg) (i j : Nat) (w : Word) : (s.setWord r i j w).fdb = s.fdb := rfl
@[simp] theorem State.setWord_ports (r : Reg) (i j : Nat) (w : Word) : (s.setWord r i j w).ports = s.ports := rfl
@[simp] theorem State.setWord_txqs (r : Reg) (i j : Nat) (w : Word) : (s.setWord r i j w).txqs = s.txqs := rfl
@[simp] theorem State.setWord_rx (r : Reg) (i j : Nat) (w : Word) : (s.setWord r i j w).rx = s.rx := rfl
@[simp] theorem State.setWord_wireOut (r : Reg) (i j : Nat) (w : Word) : (s.setWord r i j w).wireOut = s.wireOut := rfl
@[simp] theorem State.setWord_cans (r : Reg) (i j : Nat) (w : Word) : (s.setWord r i j w).cans = s.cans := rfl
@[simp] theorem State.setWord_dios (r : Reg) (i j : Nat) (w : Word) : (s.setWord r i j w).dios = s.dios := rfl
@[simp] theorem State.setWord_dio (r : Reg) (i j : Nat) (w : Word) : (s.setWord r i j w).dio = s.dio := rfl
@[simp] theorem State.setWord_saf (r : Reg) (i j : Nat) (w : Word) : (s.setWord r i j w).saf = s.saf := rfl
@[simp] theorem State.setWord_fo (r : Reg) (i j : Nat) (w : Word) : (s.setWord r i j w).fo = s.fo := rfl
@[simp] theorem State.setWord_prof (r : Reg) (i j : Nat) (w : Word) : (s.setWord r i j w).prof = s.prof := rfl
@[simp] theorem State.setWord_store (r : Reg) (i j : Nat) (w : Word) : (s.setWord r i j w).store = s.store := rfl
@[simp] theorem State.setWord_pwr (r : Reg) (i j : Nat) (w : Word) : (s.setWord r i j w).pwr = s.pwr := rfl
@[simp] theorem State.setWord_plugs (r : Reg) (i j : Nat) (w : Word) : (s.setWord r i j w).plugs = s.plugs := rfl
@[simp] theorem State.setWord_thm (r : Reg) (i j : Nat) (w : Word) : (s.setWord r i j w).thm = s.thm := rfl
@[simp] theorem State.setWord_eng (r : Reg) (i j : Nat) (w : Word) (k : EngId) : (s.setWord r i j w).eng k = s.eng k := rfl
@[simp] theorem State.setWord_ax (r : Reg) (i j : Nat) (w : Word) (k : AxId) : (s.setWord r i j w).ax k = s.ax k := rfl
@[simp] theorem State.setWord_bnk (r : Reg) (i j : Nat) (w : Word) (k : BankId) : (s.setWord r i j w).bnk k = s.bnk k := rfl
@[simp] theorem State.setWord_fn (r : Reg) (i j : Nat) (w : Word) (k : FnId) : (s.setWord r i j w).fn k = s.fn k := rfl
@[simp] theorem State.setWord_fbk (r : Reg) (i j : Nat) (w : Word) (k : AxId) : (s.setWord r i j w).fbk k = s.fbk k := rfl
@[simp] theorem State.setWord_motion (r : Reg) (i j : Nat) (w : Word) (k : AxId) : (s.setWord r i j w).motion k = s.motion k := rfl
@[simp] theorem State.setWord_moni (r : Reg) (i j : Nat) (w : Word) (k : AxId) : (s.setWord r i j w).moni k = s.moni k := rfl
@[simp] theorem State.setWord_failover (r : Reg) (i j : Nat) (w : Word) (k : AxId) : (s.setWord r i j w).failover k = s.failover k := rfl
@[simp] theorem State.setWord_plug (r : Reg) (i j : Nat) (w : Word) (k : AxId) : (s.setWord r i j w).plug k = s.plug k := rfl
@[simp] theorem State.setWord_rep (r : Reg) (i j : Nat) (w : Word) (k : PoId) : (s.setWord r i j w).rep k = s.rep k := rfl
@[simp] theorem State.setWord_can (r : Reg) (i j : Nat) (w : Word) (k : CanId) : (s.setWord r i j w).can k = s.can k := rfl
@[simp] theorem State.setWord_chan (r : Reg) (i j : Nat) (w : Word) (k : DioId) : (s.setWord r i j w).chan k = s.chan k := rfl
@[simp] theorem State.setWord_port (r : Reg) (i j : Nat) (w : Word) (k : PortId) : (s.setWord r i j w).port k = s.port k := rfl
@[simp] theorem State.setWord_txq (r : Reg) (i j : Nat) (w : Word) (k : TxqId) : (s.setWord r i j w).txq k = s.txq k := rfl
@[simp] theorem State.setWord_dom (r : Reg) (i j : Nat) (w : Word) (k : Fin 2) : (s.setWord r i j w).dom k = s.dom k := rfl

/-! setFld -/
@[simp] theorem State.setFld_pending (f : Fld) (i v j : Nat) : (s.setFld f i v j).pending = s.pending := rfl
@[simp] theorem State.setFld_tick (f : Fld) (i v j : Nat) : (s.setFld f i v j).tick = s.tick := rfl
@[simp] theorem State.setFld_dt (f : Fld) (i v j : Nat) : (s.setFld f i v j).dt = s.dt := rfl
@[simp] theorem State.setFld_free (f : Fld) (i v j : Nat) : (s.setFld f i v j).free = s.free := rfl
@[simp] theorem State.setFld_hwSet (f : Fld) (i v j : Nat) : (s.setFld f i v j).hwSet = s.hwSet := rfl
@[simp] theorem State.setFld_hostSet (f : Fld) (i v j : Nat) : (s.setFld f i v j).hostSet = s.hostSet := rfl
@[simp] theorem State.setFld_force (f : Fld) (i v j : Nat) : (s.setFld f i v j).force = s.force := rfl
@[simp] theorem State.setFld_fbPend (f : Fld) (i v j : Nat) : (s.setFld f i v j).fbPend = s.fbPend := rfl
@[simp] theorem State.setFld_lastRead (f : Fld) (i v j : Nat) : (s.setFld f i v j).lastRead = s.lastRead := rfl
@[simp] theorem State.setFld_shmem (f : Fld) (i v j : Nat) : (s.setFld f i v j).shmem = s.shmem := rfl
@[simp] theorem State.setFld_arbLast (f : Fld) (i v j : Nat) : (s.setFld f i v j).arbLast = s.arbLast := rfl
@[simp] theorem State.setFld_hostWin (f : Fld) (i v j : Nat) : (s.setFld f i v j).hostWin = s.hostWin := rfl
@[simp] theorem State.setFld_engines (f : Fld) (i v j : Nat) : (s.setFld f i v j).engines = s.engines := rfl
@[simp] theorem State.setFld_axes (f : Fld) (i v j : Nat) : (s.setFld f i v j).axes = s.axes := rfl
@[simp] theorem State.setFld_banks (f : Fld) (i v j : Nat) : (s.setFld f i v j).banks = s.banks := rfl
@[simp] theorem State.setFld_fb (f : Fld) (i v j : Nat) : (s.setFld f i v j).fb = s.fb := rfl
@[simp] theorem State.setFld_po (f : Fld) (i v j : Nat) : (s.setFld f i v j).po = s.po := rfl
@[simp] theorem State.setFld_mot (f : Fld) (i v j : Nat) : (s.setFld f i v j).mot = s.mot := rfl
@[simp] theorem State.setFld_shaft (f : Fld) (i v j : Nat) : (s.setFld f i v j).shaft = s.shaft := rfl
@[simp] theorem State.setFld_mon (f : Fld) (i v j : Nat) : (s.setFld f i v j).mon = s.mon := rfl
@[simp] theorem State.setFld_funcs (f : Fld) (i v j : Nat) : (s.setFld f i v j).funcs = s.funcs := rfl
@[simp] theorem State.setFld_accepted (f : Fld) (i v j : Nat) : (s.setFld f i v j).accepted = s.accepted := rfl
@[simp] theorem State.setFld_hostOut (f : Fld) (i v j : Nat) : (s.setFld f i v j).hostOut = s.hostOut := rfl
@[simp] theorem State.setFld_fetchLast (f : Fld) (i v j : Nat) : (s.setFld f i v j).fetchLast = s.fetchLast := rfl
@[simp] theorem State.setFld_ownChanges (f : Fld) (i v j : Nat) : (s.setFld f i v j).ownChanges = s.ownChanges := rfl
@[simp] theorem State.setFld_doms (f : Fld) (i v j : Nat) : (s.setFld f i v j).doms = s.doms := rfl
@[simp] theorem State.setFld_time (f : Fld) (i v j : Nat) : (s.setFld f i v j).time = s.time := rfl
@[simp] theorem State.setFld_fdb (f : Fld) (i v j : Nat) : (s.setFld f i v j).fdb = s.fdb := rfl
@[simp] theorem State.setFld_ports (f : Fld) (i v j : Nat) : (s.setFld f i v j).ports = s.ports := rfl
@[simp] theorem State.setFld_txqs (f : Fld) (i v j : Nat) : (s.setFld f i v j).txqs = s.txqs := rfl
@[simp] theorem State.setFld_rx (f : Fld) (i v j : Nat) : (s.setFld f i v j).rx = s.rx := rfl
@[simp] theorem State.setFld_wireOut (f : Fld) (i v j : Nat) : (s.setFld f i v j).wireOut = s.wireOut := rfl
@[simp] theorem State.setFld_cans (f : Fld) (i v j : Nat) : (s.setFld f i v j).cans = s.cans := rfl
@[simp] theorem State.setFld_dios (f : Fld) (i v j : Nat) : (s.setFld f i v j).dios = s.dios := rfl
@[simp] theorem State.setFld_dio (f : Fld) (i v j : Nat) : (s.setFld f i v j).dio = s.dio := rfl
@[simp] theorem State.setFld_saf (f : Fld) (i v j : Nat) : (s.setFld f i v j).saf = s.saf := rfl
@[simp] theorem State.setFld_fo (f : Fld) (i v j : Nat) : (s.setFld f i v j).fo = s.fo := rfl
@[simp] theorem State.setFld_prof (f : Fld) (i v j : Nat) : (s.setFld f i v j).prof = s.prof := rfl
@[simp] theorem State.setFld_store (f : Fld) (i v j : Nat) : (s.setFld f i v j).store = s.store := rfl
@[simp] theorem State.setFld_pwr (f : Fld) (i v j : Nat) : (s.setFld f i v j).pwr = s.pwr := rfl
@[simp] theorem State.setFld_plugs (f : Fld) (i v j : Nat) : (s.setFld f i v j).plugs = s.plugs := rfl
@[simp] theorem State.setFld_thm (f : Fld) (i v j : Nat) : (s.setFld f i v j).thm = s.thm := rfl
@[simp] theorem State.setFld_eng (f : Fld) (i v j : Nat) (k : EngId) : (s.setFld f i v j).eng k = s.eng k := rfl
@[simp] theorem State.setFld_ax (f : Fld) (i v j : Nat) (k : AxId) : (s.setFld f i v j).ax k = s.ax k := rfl
@[simp] theorem State.setFld_bnk (f : Fld) (i v j : Nat) (k : BankId) : (s.setFld f i v j).bnk k = s.bnk k := rfl
@[simp] theorem State.setFld_fn (f : Fld) (i v j : Nat) (k : FnId) : (s.setFld f i v j).fn k = s.fn k := rfl
@[simp] theorem State.setFld_fbk (f : Fld) (i v j : Nat) (k : AxId) : (s.setFld f i v j).fbk k = s.fbk k := rfl
@[simp] theorem State.setFld_motion (f : Fld) (i v j : Nat) (k : AxId) : (s.setFld f i v j).motion k = s.motion k := rfl
@[simp] theorem State.setFld_moni (f : Fld) (i v j : Nat) (k : AxId) : (s.setFld f i v j).moni k = s.moni k := rfl
@[simp] theorem State.setFld_failover (f : Fld) (i v j : Nat) (k : AxId) : (s.setFld f i v j).failover k = s.failover k := rfl
@[simp] theorem State.setFld_plug (f : Fld) (i v j : Nat) (k : AxId) : (s.setFld f i v j).plug k = s.plug k := rfl
@[simp] theorem State.setFld_rep (f : Fld) (i v j : Nat) (k : PoId) : (s.setFld f i v j).rep k = s.rep k := rfl
@[simp] theorem State.setFld_can (f : Fld) (i v j : Nat) (k : CanId) : (s.setFld f i v j).can k = s.can k := rfl
@[simp] theorem State.setFld_chan (f : Fld) (i v j : Nat) (k : DioId) : (s.setFld f i v j).chan k = s.chan k := rfl
@[simp] theorem State.setFld_port (f : Fld) (i v j : Nat) (k : PortId) : (s.setFld f i v j).port k = s.port k := rfl
@[simp] theorem State.setFld_txq (f : Fld) (i v j : Nat) (k : TxqId) : (s.setFld f i v j).txq k = s.txq k := rfl
@[simp] theorem State.setFld_dom (f : Fld) (i v j : Nat) (k : Fin 2) : (s.setFld f i v j).dom k = s.dom k := rfl

/-! setBit -/
@[simp] theorem State.setBit_pending (f : Fld) (i : Nat) (b : Bool) : (s.setBit f i b).pending = s.pending := rfl
@[simp] theorem State.setBit_tick (f : Fld) (i : Nat) (b : Bool) : (s.setBit f i b).tick = s.tick := rfl
@[simp] theorem State.setBit_dt (f : Fld) (i : Nat) (b : Bool) : (s.setBit f i b).dt = s.dt := rfl
@[simp] theorem State.setBit_free (f : Fld) (i : Nat) (b : Bool) : (s.setBit f i b).free = s.free := rfl
@[simp] theorem State.setBit_hostSet (f : Fld) (i : Nat) (b : Bool) : (s.setBit f i b).hostSet = s.hostSet := rfl
@[simp] theorem State.setBit_force (f : Fld) (i : Nat) (b : Bool) : (s.setBit f i b).force = s.force := rfl
@[simp] theorem State.setBit_fbPend (f : Fld) (i : Nat) (b : Bool) : (s.setBit f i b).fbPend = s.fbPend := rfl
@[simp] theorem State.setBit_lastRead (f : Fld) (i : Nat) (b : Bool) : (s.setBit f i b).lastRead = s.lastRead := rfl
@[simp] theorem State.setBit_shmem (f : Fld) (i : Nat) (b : Bool) : (s.setBit f i b).shmem = s.shmem := rfl
@[simp] theorem State.setBit_arbLast (f : Fld) (i : Nat) (b : Bool) : (s.setBit f i b).arbLast = s.arbLast := rfl
@[simp] theorem State.setBit_hostWin (f : Fld) (i : Nat) (b : Bool) : (s.setBit f i b).hostWin = s.hostWin := rfl
@[simp] theorem State.setBit_engines (f : Fld) (i : Nat) (b : Bool) : (s.setBit f i b).engines = s.engines := rfl
@[simp] theorem State.setBit_axes (f : Fld) (i : Nat) (b : Bool) : (s.setBit f i b).axes = s.axes := rfl
@[simp] theorem State.setBit_banks (f : Fld) (i : Nat) (b : Bool) : (s.setBit f i b).banks = s.banks := rfl
@[simp] theorem State.setBit_fb (f : Fld) (i : Nat) (b : Bool) : (s.setBit f i b).fb = s.fb := rfl
@[simp] theorem State.setBit_po (f : Fld) (i : Nat) (b : Bool) : (s.setBit f i b).po = s.po := rfl
@[simp] theorem State.setBit_mot (f : Fld) (i : Nat) (b : Bool) : (s.setBit f i b).mot = s.mot := rfl
@[simp] theorem State.setBit_shaft (f : Fld) (i : Nat) (b : Bool) : (s.setBit f i b).shaft = s.shaft := rfl
@[simp] theorem State.setBit_mon (f : Fld) (i : Nat) (b : Bool) : (s.setBit f i b).mon = s.mon := rfl
@[simp] theorem State.setBit_funcs (f : Fld) (i : Nat) (b : Bool) : (s.setBit f i b).funcs = s.funcs := rfl
@[simp] theorem State.setBit_accepted (f : Fld) (i : Nat) (b : Bool) : (s.setBit f i b).accepted = s.accepted := rfl
@[simp] theorem State.setBit_hostOut (f : Fld) (i : Nat) (b : Bool) : (s.setBit f i b).hostOut = s.hostOut := rfl
@[simp] theorem State.setBit_fetchLast (f : Fld) (i : Nat) (b : Bool) : (s.setBit f i b).fetchLast = s.fetchLast := rfl
@[simp] theorem State.setBit_ownChanges (f : Fld) (i : Nat) (b : Bool) : (s.setBit f i b).ownChanges = s.ownChanges := rfl
@[simp] theorem State.setBit_doms (f : Fld) (i : Nat) (b : Bool) : (s.setBit f i b).doms = s.doms := rfl
@[simp] theorem State.setBit_time (f : Fld) (i : Nat) (b : Bool) : (s.setBit f i b).time = s.time := rfl
@[simp] theorem State.setBit_fdb (f : Fld) (i : Nat) (b : Bool) : (s.setBit f i b).fdb = s.fdb := rfl
@[simp] theorem State.setBit_ports (f : Fld) (i : Nat) (b : Bool) : (s.setBit f i b).ports = s.ports := rfl
@[simp] theorem State.setBit_txqs (f : Fld) (i : Nat) (b : Bool) : (s.setBit f i b).txqs = s.txqs := rfl
@[simp] theorem State.setBit_rx (f : Fld) (i : Nat) (b : Bool) : (s.setBit f i b).rx = s.rx := rfl
@[simp] theorem State.setBit_wireOut (f : Fld) (i : Nat) (b : Bool) : (s.setBit f i b).wireOut = s.wireOut := rfl
@[simp] theorem State.setBit_cans (f : Fld) (i : Nat) (b : Bool) : (s.setBit f i b).cans = s.cans := rfl
@[simp] theorem State.setBit_dios (f : Fld) (i : Nat) (b : Bool) : (s.setBit f i b).dios = s.dios := rfl
@[simp] theorem State.setBit_dio (f : Fld) (i : Nat) (b : Bool) : (s.setBit f i b).dio = s.dio := rfl
@[simp] theorem State.setBit_saf (f : Fld) (i : Nat) (b : Bool) : (s.setBit f i b).saf = s.saf := rfl
@[simp] theorem State.setBit_fo (f : Fld) (i : Nat) (b : Bool) : (s.setBit f i b).fo = s.fo := rfl
@[simp] theorem State.setBit_prof (f : Fld) (i : Nat) (b : Bool) : (s.setBit f i b).prof = s.prof := rfl
@[simp] theorem State.setBit_store (f : Fld) (i : Nat) (b : Bool) : (s.setBit f i b).store = s.store := rfl
@[simp] theorem State.setBit_pwr (f : Fld) (i : Nat) (b : Bool) : (s.setBit f i b).pwr = s.pwr := rfl
@[simp] theorem State.setBit_plugs (f : Fld) (i : Nat) (b : Bool) : (s.setBit f i b).plugs = s.plugs := rfl
@[simp] theorem State.setBit_thm (f : Fld) (i : Nat) (b : Bool) : (s.setBit f i b).thm = s.thm := rfl
@[simp] theorem State.setBit_eng (f : Fld) (i : Nat) (b : Bool) (k : EngId) : (s.setBit f i b).eng k = s.eng k := rfl
@[simp] theorem State.setBit_ax (f : Fld) (i : Nat) (b : Bool) (k : AxId) : (s.setBit f i b).ax k = s.ax k := rfl
@[simp] theorem State.setBit_bnk (f : Fld) (i : Nat) (b : Bool) (k : BankId) : (s.setBit f i b).bnk k = s.bnk k := rfl
@[simp] theorem State.setBit_fn (f : Fld) (i : Nat) (b : Bool) (k : FnId) : (s.setBit f i b).fn k = s.fn k := rfl
@[simp] theorem State.setBit_fbk (f : Fld) (i : Nat) (b : Bool) (k : AxId) : (s.setBit f i b).fbk k = s.fbk k := rfl
@[simp] theorem State.setBit_motion (f : Fld) (i : Nat) (b : Bool) (k : AxId) : (s.setBit f i b).motion k = s.motion k := rfl
@[simp] theorem State.setBit_moni (f : Fld) (i : Nat) (b : Bool) (k : AxId) : (s.setBit f i b).moni k = s.moni k := rfl
@[simp] theorem State.setBit_failover (f : Fld) (i : Nat) (b : Bool) (k : AxId) : (s.setBit f i b).failover k = s.failover k := rfl
@[simp] theorem State.setBit_plug (f : Fld) (i : Nat) (b : Bool) (k : AxId) : (s.setBit f i b).plug k = s.plug k := rfl
@[simp] theorem State.setBit_rep (f : Fld) (i : Nat) (b : Bool) (k : PoId) : (s.setBit f i b).rep k = s.rep k := rfl
@[simp] theorem State.setBit_can (f : Fld) (i : Nat) (b : Bool) (k : CanId) : (s.setBit f i b).can k = s.can k := rfl
@[simp] theorem State.setBit_chan (f : Fld) (i : Nat) (b : Bool) (k : DioId) : (s.setBit f i b).chan k = s.chan k := rfl
@[simp] theorem State.setBit_port (f : Fld) (i : Nat) (b : Bool) (k : PortId) : (s.setBit f i b).port k = s.port k := rfl
@[simp] theorem State.setBit_txq (f : Fld) (i : Nat) (b : Bool) (k : TxqId) : (s.setBit f i b).txq k = s.txq k := rfl
@[simp] theorem State.setBit_dom (f : Fld) (i : Nat) (b : Bool) (k : Fin 2) : (s.setBit f i b).dom k = s.dom k := rfl

end Sys2Proof.Machine
end

