-- ==== Sys2Proof/Laws/Engine.lean ====
section
/-! SUPPORT. What the issue of an instruction does on an engine that is ready: the laws behind every claim about one
instruction. -/

namespace Sys2Proof.Machine

theorem State.setEng_setEng (s : State) (e : EngId) (x y : Engine) : (s.setEng e x).setEng e y = s.setEng e y := by
  simp [State.setEng]

theorem State.setEng_eng (s : State) (e : EngId) : s.setEng e (s.eng e) = s := by
  simp [State.setEng, State.eng]

@[simp] theorem State.engRuns_setEng (s : State) (e : EngId) (x : Engine) (e' : EngId) :
    (s.setEng e x).engRuns e' = s.engRuns e' := rfl

theorem State.Ready.canIssue {s : State} {e : EngId} {n : Nat} (h : s.Ready e n) : s.canIssue e = true := by
  simp [State.canIssue, h.runs, h.slot, h.from_, h.stays]

/-- Nothing of an earlier instruction is in the slot. -/
theorem State.Ready.finishSlot {s : State} {e : EngId} {n : Nat} (h : s.Ready e n) : s.finishSlot e = s := by
  simp [State.finishSlot, h.held, State.steps]

/-- An engine with other results in flight. -/
def Engine.withFlights (x : Engine) (fl : List Flight) : Engine := { x with flights := fl }

@[simp] theorem Engine.withFlights_handler (x : Engine) (fl : List Flight) : (x.withFlights fl).handler = x.handler := rfl

theorem Engine.not_limited {x : Engine} {n : Nat} (h : ∀ k, x.handler = some k → x.used + n < x.declared_ k) (hn : 1 ≤ n) :
    x.limited = false := by
  unfold Engine.limited
  split
  · rename_i k hk
    have := h k hk
    simp; omega
  · rfl

theorem State.Ready.limited {s : State} {e : EngId} {n : Nat} (h : s.Ready e n) (hn : 1 ≤ n := by omega) :
    (s.eng e).limited = false := Engine.not_limited h.steps hn

theorem State.Ready.mono {s : State} {e : EngId} {n m : Nat} (h : s.Ready e n) (hm : m ≤ n) : s.Ready e m :=
  ⟨h.runs, h.from_, h.slot, h.stays, h.held, h.word, fun k hk => by have := h.steps k hk; omega, fun f hf => by have := h.quiet f hf; omega⟩

/-- The landing of what an instruction has just launched, where nothing older is due. -/
theorem Engine.land_launch {x : Engine} (fl : List Flight) (hq : ∀ f ∈ x.flights, x.step + 1 ≤ f.due) :
    (x.withFlights (x.flights ++ fl)).land =
      (let due := fl.filter fun f => decide (f.due ≤ x.step)
       let y := x.withFlights (x.flights ++ fl.filter fun f => !decide (f.due ≤ x.step))
       let y := due.foldl (fun y f => y.write f.bank1 f.dest) y
       let y := due.foldl (fun y f => match f.cond with | some c => y.writeCond f.bank1 c | none => y) y
       due.foldl (fun y f => y.setSticky f.bank1 f.sticky) y) := by
  have h1 : x.flights.filter (fun f => decide (f.due ≤ x.step)) = [] := by
    rw [List.filter_eq_nil_iff]
    intro f hf
    have := hq f hf
    simp; omega
  have h2 : x.flights.filter (fun f => !decide (f.due ≤ x.step)) = x.flights := by
    rw [List.filter_eq_self]
    intro f hf
    have := hq f hf
    simp; omega
  unfold Engine.land Engine.withFlights
  simp only [List.filter_append, h1, h2, List.nil_append] <;> rfl

theorem Engine.limited_of {x y : Engine} (h : y.handler = x.handler) (hu : y.used = x.used) (hi : y.image = x.image) :
    y.limited = x.limited := by
  unfold Engine.limited Engine.declared_
  rw [h, hu, hi]

@[simp] theorem Engine.advance_handler (x : Engine) : x.advance.handler = x.handler := rfl
@[simp] theorem Engine.advance_used (x : Engine) : x.advance.used = x.used := rfl
@[simp] theorem Engine.advance_image (x : Engine) : x.advance.image = x.image := rfl
@[simp] theorem Engine.advance_flights (x : Engine) : x.advance.flights = x.flights := rfl
@[simp] theorem Engine.advance_step (x : Engine) : x.advance.step = x.step := rfl

/-- The end of one step of a ready engine: the state is that of the engine after it. -/
theorem State.steps_one {s : State} {e : EngId} {y : Engine} {pc : BitVec 12} (hr : s.engRuns e = true) (hl : y.limited = false) :
    (s.setEng e y).steps e pc 1 = s.setEng e y.pass := by
  simp only [State.steps, State.endStep, State.eng_setEng_same, hl]
  simp [State.setEng_setEng, hr]

/-- An instruction of one step that issues on a ready engine: what it answers is in flight, the PC or the repeat advances, and
the step ends. -/
theorem State.issue_done {s : State} {e : EngId} {f : State → Engine → Issue} {rs : List Res_} (h : s.Ready e)
    (hf : f s (s.eng e) = .done s rs 1 none) :
    s.issue e f = s.setEng e ((s.eng e).launch rs).advance.pass := by
  unfold State.issue
  simp only [h.canIssue, h.finishSlot, Bool.not_true, Bool.false_eq_true, if_false, h.word, hf, h.limited, State.passSteps,
    Nat.lt_irrefl, decide_false, Bool.and_false]
  apply State.steps_one h.runs
  rw [Engine.limited_of (x := s.eng e) (by simp [Engine.launch]) (by simp [Engine.launch]) (by simp [Engine.launch])]
  exact h.limited

/-- The same for an instruction that goes on at a given address. -/
theorem State.issue_goto {s : State} {e : EngId} {f : State → Engine → Issue} {rs : List Res_} {pc : BitVec 12} (h : s.Ready e)
    (hf : f s (s.eng e) = .done s rs 1 (some pc)) :
    s.issue e f = s.setEng e ({ (s.eng e).launch rs with pc := pc } : Engine).pass := by
  unfold State.issue
  simp only [h.canIssue, h.finishSlot, Bool.not_true, Bool.false_eq_true, if_false, h.word, hf, h.limited, State.passSteps,
    Nat.lt_irrefl, decide_false, Bool.and_false]
  apply State.steps_one h.runs
  exact (Engine.limited_of (x := s.eng e) rfl rfl rfl).trans h.limited

theorem State.issueRes_done {s : State} {e : EngId} {f : EngBank → Bool → List Res_} (h : s.Ready e) :
    s.issueRes e f = s.setEng e ((s.eng e).launch (f (s.eng e).cur ((s.eng e).cur.sw.getLsbD 0))).advance.pass :=
  State.issue_done h rfl

/-! ## Results of a plain instruction -/

/-- What a result does to its bank; a destination outside the banks leaves it. -/
def EngDest.put (d : EngDest) (b : EngBank) : EngBank :=
  match d with
  | .h i v => b.putH i v
  | .a i v => { b with a := b.a.set i.val v i.isLt }
  | .f i v => b.putF i v
  | .p i v => b.putP i v
  | .sw v => { b with sw := v &&& 0x3FF1 }
  | .sat b' => { b with sw := (b.sw &&& 0xFFFE) ||| (if b' then 1 else 0) }
  | _ => b

/-- The destination is in a bank. -/
def EngDest.inBank : EngDest → Bool
  | .cb _ _ => false
  | .cl _ _ => false
  | .smpg _ => false
  | .axsel _ => false
  | _ => true

def EngBank.condIf (b : EngBank) (c : Option (BitVec 4)) : EngBank :=
  match c with
  | some c => { b with sw := (b.sw &&& 0xFF0F) ||| (c.setWidth 16 <<< 4) }
  | none => b

theorem Engine.write_onCur {x : Engine} {d : EngDest} (h : d.inBank = true) : x.write x.handler.isSome d = x.onCur d.put := by
  unfold Engine.onCur
  generalize x.handler.isSome = b
  cases b <;> cases d <;> first | rfl | (simp [EngDest.inBank] at h)

theorem Engine.writeCond_onCur {x : Engine} {c : BitVec 4} :
    x.writeCond x.handler.isSome c = x.onCur fun b => b.condIf (some c) := by
  unfold Engine.onCur
  generalize x.handler.isSome = b
  cases b <;> rfl

theorem Engine.setSticky_onCur {x : Engine} {t : Sticky} : x.setSticky x.handler.isSome t = x.onCur fun b => b.stick t := by
  unfold Engine.onCur
  generalize x.handler.isSome = b
  cases b <;> rfl

@[simp] theorem Engine.onCur_handler (x : Engine) (f : EngBank → EngBank) : (x.onCur f).handler = x.handler := by
  unfold Engine.onCur
  split <;> rfl

theorem Engine.onCur_onCur (x : Engine) (f g : EngBank → EngBank) : (x.onCur f).onCur g = x.onCur fun b => g (f b) := by
  unfold Engine.onCur
  cases hx : x.handler.isSome <;> simp only [Bool.false_eq_true, if_true, if_false, hx]

theorem Engine.onCur_id (x : Engine) : x.onCur (fun b => b) = x := by
  unfold Engine.onCur
  split <;> rfl

/-- Results landing together in one bank: values, then condition flags, then sticky flags. -/
def settle (fl : List Flight) (b : EngBank) : EngBank :=
  let b := fl.foldl (fun b f => f.dest.put b) b
  let b := fl.foldl (fun b f => b.condIf f.cond) b
  fl.foldl (fun b f => b.stick f.sticky) b

theorem Engine.foldl_onCur {α : Type} {l : List α} {g : Engine → α → Engine} {k : EngBank → α → EngBank} {x : Engine}
    (h : ∀ (y : Engine) (a : α), a ∈ l → y.handler = x.handler → g y a = y.onCur fun b => k b a) :
    l.foldl g x = x.onCur fun b => l.foldl k b := by
  induction l generalizing x with
  | nil => exact (Engine.onCur_id x).symm
  | cons a l ih =>
    rw [List.foldl_cons, h x a (by simp) rfl, ih, Engine.onCur_onCur]
    · rfl
    · intro y b hb hy
      exact h y b (by simp [hb]) (by simpa using hy)

/-- Landing of results that all go to the bank in use. -/
theorem Engine.settle_land {x : Engine} {fl : List Flight} (h : ∀ f ∈ fl, f.bank1 = x.handler.isSome ∧ f.dest.inBank = true) :
    (let y := fl.foldl (fun y f => y.write f.bank1 f.dest) x
     let y := fl.foldl (fun y f => match f.cond with | some c => y.writeCond f.bank1 c | none => y) y
     fl.foldl (fun y f => y.setSticky f.bank1 f.sticky) y) = x.onCur (settle fl) := by
  have h1 : fl.foldl (fun y f => y.write f.bank1 f.dest) x = x.onCur fun b => fl.foldl (fun b f => f.dest.put b) b :=
    Engine.foldl_onCur fun y f hf hy => by rw [(h f hf).1, ← hy]; exact Engine.write_onCur (h f hf).2
  dsimp only
  rw [h1]
  have h2 : ∀ z : Engine, z.handler = x.handler →
      fl.foldl (fun (y : Engine) (f : Flight) => match f.cond with | some c => y.writeCond f.bank1 c | none => y) z =
        z.onCur fun b => fl.foldl (fun b f => b.condIf f.cond) b := fun z hz =>
    Engine.foldl_onCur fun y f hf hy => by
      rw [(h f hf).1, ← hz, ← hy]
      cases f.cond with
      | none => exact (Engine.onCur_id y).symm
      | some c => exact Engine.writeCond_onCur
  rw [h2 _ (by simp)]
  have h3 : ∀ z : Engine, z.handler = x.handler →
      fl.foldl (fun (y : Engine) (f : Flight) => y.setSticky f.bank1 f.sticky) z =
        z.onCur fun b => fl.foldl (fun b f => b.stick f.sticky) b := fun z hz =>
    Engine.foldl_onCur fun y f hf hy => by
      rw [(h f hf).1, ← hz, ← hy]
      exact Engine.setSticky_onCur
  rw [h3 _ (by simp), Engine.onCur_onCur, Engine.onCur_onCur]
  rfl

/-- A result as it flies. -/
def Engine.fly (x : Engine) (r : Res_) : Flight :=
  { due := x.step + r.lat - 1, bank1 := x.handler.isSome, dest := r.dest, cond := r.cond, sticky := r.sticky }

theorem Engine.pass_eq (x : Engine) : x.pass = x.land.tickStep := rfl

theorem Engine.after_eq (x : Engine) (f : EngBank → EngBank) (fl : List Flight) :
    x.after f fl = (((x.advance).withFlights (x.flights ++ fl)).onCur f).tickStep := by
  unfold Engine.after Engine.onCur Engine.withFlights
  cases hx : x.handler.isSome <;> simp only [Bool.false_eq_true, if_true, if_false, Engine.advance, hx]

/-- The engine after a plain instruction: results of latency 1 have landed in the bank in use, longer ones fly. -/
theorem Engine.launch_pass {x : Engine} {rs : List Res_} (hq : ∀ f ∈ x.flights, x.step + 1 ≤ f.due)
    (hb : ∀ r ∈ rs, r.dest.inBank = true) :
    (x.launch rs).advance.pass =
      x.after (settle ((rs.map x.fly).filter fun f => decide (f.due ≤ x.step)))
        ((rs.map x.fly).filter fun f => !decide (f.due ≤ x.step)) := by
  have h1 : (x.launch rs).advance = x.advance.withFlights (x.advance.flights ++ rs.map x.fly) := rfl
  rw [Engine.pass_eq, Engine.after_eq, h1, Engine.land_launch (x := x.advance) _ hq]
  dsimp only
  rw [← Engine.settle_land (fl := (rs.map x.fly).filter fun f => decide (f.due ≤ x.step))]
  · rfl
  · intro f hf
    obtain ⟨r, hr, rfl⟩ := List.mem_map.mp (List.mem_filter.mp hf).1
    exact ⟨rfl, hb r hr⟩

/-- A plain instruction on a ready engine. -/
theorem State.issue_plain {s : State} {e : EngId} {f : State → Engine → Issue} {rs : List Res_} (h : s.Ready e)
    (hf : f s (s.eng e) = .done s rs 1 none) (hb : ∀ r ∈ rs, r.dest.inBank = true) :
    s.issue e f = s.setEng e ((s.eng e).after (settle ((rs.map (s.eng e).fly).filter fun f => decide (f.due ≤ (s.eng e).step)))
        ((rs.map (s.eng e).fly).filter fun f => !decide (f.due ≤ (s.eng e).step))) := by
  rw [State.issue_done h hf, Engine.launch_pass h.quiet hb]

/-- One result of latency 1: what lands, and that nothing stays in flight. -/
theorem settle_one (x : Engine) (r : Res_) (h : r.lat = 1) :
    settle (([r].map x.fly).filter fun f => decide (f.due ≤ x.step)) = fun b => ((r.dest.put b).condIf r.cond).stick r.sticky := by
  have : x.step + r.lat - 1 ≤ x.step := by omega
  have : ([r].map x.fly).filter (fun f => decide (f.due ≤ x.step)) = [x.fly r] := by simp [Engine.fly, this]
  rw [this]
  rfl

theorem flying_one (x : Engine) (r : Res_) (h : r.lat = 1) : (([r].map x.fly).filter fun f => !decide (f.due ≤ x.step)) = [] := by
  have : x.step + r.lat - 1 ≤ x.step := by omega
  simp [Engine.fly, this]

/-- A change of the bank in use matters only on that bank. -/
theorem Engine.after_congr {x : Engine} {f g : EngBank → EngBank} {fl : List Flight} (h : f x.cur = g x.cur) :
    x.after f fl = x.after g fl := by
  unfold Engine.after Engine.onCur
  unfold Engine.cur at h
  cases hx : x.handler.isSome <;> simp_all

/-- A plain instruction with one result of latency 1. -/
theorem State.issue_one {s : State} {e : EngId} {f : State → Engine → Issue} {r : Res_} (h : s.Ready e)
    (hf : f s (s.eng e) = .done s [r] 1 none) (hb : r.dest.inBank = true) (hl : r.lat = 1) :
    s.issue e f = s.setEng e ((s.eng e).after (fun b => ((r.dest.put b).condIf r.cond).stick r.sticky) []) := by
  rw [State.issue_plain h hf (by simpa using hb), settle_one _ _ hl, flying_one _ _ hl]

/-- A plain instruction with one result of a longer latency: it flies, and nothing lands. -/
theorem State.issue_long {s : State} {e : EngId} {f : State → Engine → Issue} {r : Res_} (h : s.Ready e)
    (hf : f s (s.eng e) = .done s [r] 1 none) (hb : r.dest.inBank = true) (hl : 1 < r.lat) :
    s.issue e f = s.setEng e ((s.eng e).after (fun b => b) [(s.eng e).fly r]) := by
  rw [State.issue_plain h hf (by simpa using hb)]
  have : ¬ ((s.eng e).step + r.lat - 1 ≤ (s.eng e).step) := by omega
  have h1 : (([r].map (s.eng e).fly).filter fun f => decide (f.due ≤ (s.eng e).step)) = [] := by simp [Engine.fly, this]
  have h2 : (([r].map (s.eng e).fly).filter fun f => !decide (f.due ≤ (s.eng e).step)) = [(s.eng e).fly r] := by
    simp [Engine.fly, this]
  rw [h1, h2]
  rfl

/-! ## Several steps -/

/-- `n` steps pass on an engine: its landings, and the counts. -/
def Engine.passes (x : Engine) : Nat → Engine
  | 0 => x
  | n + 1 => x.pass.passes n

theorem Engine.foldl_fixed {α β : Type} (p : Engine → β) {g : Engine → α → Engine} (h : ∀ y a, p (g y a) = p y) (l : List α) (x : Engine) :
    p (l.foldl g x) = p x := by
  induction l generalizing x with
  | nil => rfl
  | cons a l ih => rw [List.foldl_cons, ih, h]

/-- What landing never changes. -/
theorem Engine.land_fixed {β : Type} (p : Engine → β) (hf : ∀ (x : Engine) fl, p (x.withFlights fl) = p x)
    (hw : ∀ (x : Engine) b d, p (x.write b d) = p x) (hc : ∀ (x : Engine) b c, p (x.writeCond b c) = p x)
    (hs : ∀ (x : Engine) b t, p (x.setSticky b t) = p x) (x : Engine) : p x.land = p x := by
  have h1 := Engine.foldl_fixed p (g := fun (x : Engine) (f : Flight) => x.write f.bank1 f.dest) (fun y a => hw y _ _)
  have h2 := Engine.foldl_fixed p
    (g := fun (x : Engine) (f : Flight) => match f.cond with | some c => x.writeCond f.bank1 c | none => x)
    (fun y a => by cases a.cond with | none => rfl | some c => exact hc y _ _)
  have h3 := Engine.foldl_fixed p (g := fun (x : Engine) (f : Flight) => x.setSticky f.bank1 f.sticky) (fun y a => hs y _ _)
  unfold Engine.land
  dsimp only
  exact (h3 _ _).trans ((h2 _ _).trans ((h1 _ _).trans (hf x _)))

theorem Engine.write_if (x : Engine) (b : Bool) (d : EngDest) {β : Type} (p : Engine → β)
    (h0 : ∀ (x : Engine) b0, p { x with bank0 := b0 } = p x) (h1 : ∀ (x : Engine) b1, p { x with bank1 := b1 } = p x)
    (h2 : ∀ (x : Engine) v, p { x with cb := v } = p x) (h3 : ∀ (x : Engine) v, p { x with cl := v } = p x)
    (h4 : ∀ (x : Engine) v, p { x with smpg := v } = p x) (h5 : ∀ (x : Engine) v, p { x with axsel := v } = p x) :
    p (x.write b d) = p x := by
  cases d <;> cases b <;> first | exact h0 _ _ | exact h1 _ _ | exact h2 _ _ | exact h3 _ _ | exact h4 _ _ | exact h5 _ _

@[simp] theorem Engine.land_handler (x : Engine) : x.land.handler = x.handler :=
  Engine.land_fixed Engine.handler (fun _ _ => rfl) (fun _ _ _ => Engine.write_if _ _ _ _ (fun _ _ => rfl) (fun _ _ => rfl)
    (fun _ _ => rfl) (fun _ _ => rfl) (fun _ _ => rfl) (fun _ _ => rfl)) (fun _ b _ => by cases b <;> rfl) (fun _ b _ => by cases b <;> rfl) x
@[simp] theorem Engine.land_used (x : Engine) : x.land.used = x.used :=
  Engine.land_fixed Engine.used (fun _ _ => rfl) (fun _ _ _ => Engine.write_if _ _ _ _ (fun _ _ => rfl) (fun _ _ => rfl)
    (fun _ _ => rfl) (fun _ _ => rfl) (fun _ _ => rfl) (fun _ _ => rfl)) (fun _ b _ => by cases b <;> rfl) (fun _ b _ => by cases b <;> rfl) x
@[simp] theorem Engine.land_image (x : Engine) : x.land.image = x.image :=
  Engine.land_fixed Engine.image (fun _ _ => rfl) (fun _ _ _ => Engine.write_if _ _ _ _ (fun _ _ => rfl) (fun _ _ => rfl)
    (fun _ _ => rfl) (fun _ _ => rfl) (fun _ _ => rfl) (fun _ _ => rfl)) (fun _ b _ => by cases b <;> rfl) (fun _ b _ => by cases b <;> rfl) x
@[simp] theorem Engine.land_step (x : Engine) : x.land.step = x.step :=
  Engine.land_fixed Engine.step (fun _ _ => rfl) (fun _ _ _ => Engine.write_if _ _ _ _ (fun _ _ => rfl) (fun _ _ => rfl)
    (fun _ _ => rfl) (fun _ _ => rfl) (fun _ _ => rfl) (fun _ _ => rfl)) (fun _ b _ => by cases b <;> rfl) (fun _ b _ => by cases b <;> rfl) x
@[simp] theorem Engine.land_pc (x : Engine) : x.land.pc = x.pc :=
  Engine.land_fixed Engine.pc (fun _ _ => rfl) (fun _ _ _ => Engine.write_if _ _ _ _ (fun _ _ => rfl) (fun _ _ => rfl)
    (fun _ _ => rfl) (fun _ _ => rfl) (fun _ _ => rfl) (fun _ _ => rfl)) (fun _ b _ => by cases b <;> rfl) (fun _ b _ => by cases b <;> rfl) x

theorem Engine.pass_declared (x : Engine) (k : EvKind) : x.pass.declared_ k = x.declared_ k := by
  unfold Engine.declared_
  rw [show x.pass.image = x.image from Engine.land_image x]

/-- The end of `n` steps that the limiter does not stop. -/
theorem State.steps_many {s : State} {e : EngId} {y : Engine} {pc : BitVec 12} {n : Nat} (hr : s.engRuns e = true)
    (hl : ∀ k, y.handler = some k → y.used + n < y.declared_ k) : (s.setEng e y).steps e pc n = s.setEng e (y.passes n) := by
  induction n generalizing y with
  | zero => rfl
  | succ n ih =>
    have h1 : y.limited = false := Engine.not_limited (n := n + 1) hl (by omega)
    simp only [State.steps, State.endStep, State.eng_setEng_same, h1, Bool.false_eq_true, if_false, State.setEng_setEng,
      State.engRuns_setEng, hr, if_true]
    refine ih (y := y.pass) ?_
    intro k hk
    have hk' : y.handler = some k := (Engine.land_handler y).symm.trans hk
    have := hl k hk'
    have hu : y.pass.used = y.used + 1 := by simp [Engine.pass, hk']
    rw [hu, Engine.pass_declared]
    omega

/-- A step in which nothing is due. -/
theorem Engine.pass_quiet {x : Engine} (hq : ∀ f ∈ x.flights, x.step + 1 ≤ f.due) : x.pass = x.tickStep := by
  have h := Engine.land_launch (x := x) [] hq
  rw [List.append_nil] at h
  rw [Engine.pass_eq]
  congr 1
  exact h.trans (by simp [Engine.withFlights])

/-- Steps in which nothing is due, with an empty issue slot. -/
theorem Engine.passes_quiet {x : Engine} {n : Nat} (hq : ∀ f ∈ x.flights, x.step + n ≤ f.due) (hl : x.long = none) (hh : x.held = 0)
    (hw : x.waitPc = none) :
    x.passes n = { x with step := x.step + n, used := if x.handler.isSome then x.used + n else x.used } := by
  induction n generalizing x with
  | zero => simp [Engine.passes]
  | succ n ih =>
    have e1 : x.tickStep = { x with step := x.step + 1, used := if x.handler.isSome then x.used + 1 else x.used } := by
      simp [Engine.tickStep, hl, hh, hw]
    rw [Engine.passes, Engine.pass_quiet (fun f hf => by have := hq f hf; omega), e1, ih]
    · cases hx : x.handler.isSome <;>
        simp only [Bool.false_eq_true, if_true, if_false, hx, Nat.add_assoc, Nat.add_comm 1 n]
    · intro f hf
      have := hq f hf
      show x.step + 1 + n ≤ f.due
      omega
    · exact hl
    · exact hh
    · exact hw

end Sys2Proof.Machine
end

