-- ==== Sys2Proof/Laws/Frame/Base.lean ====
section
/-! SUPPORT. What an operation may change, as a set of parts of State: bit `i` of a set stands for the part of index `i`
(`Part.idx`, in the order of State's fields). -/

namespace Sys2Proof.Machine

/-- Between `s` and `t` only parts of the set `k` have changed. -/
def State.Within (k : Nat) (s t : State) : Prop := ∀ p : Part, k.testBit p.idx = false → s.same t p

/-- The set `k` is within the set `m`. -/
def Has (k m : Nat) : Prop := k &&& m = k

theorem Has.mono {k k' m : Nat} (h : Has k m) (hk : k' &&& k = k') : Has k' m := by
  unfold Has at *
  rw [← hk, Nat.land_assoc, h]

theorem Has.self {k : Nat} : Has k k := Nat.and_self k

theorem Has.bit {k m i : Nat} (h : Has k m) (hm : m.testBit i = false) : k.testBit i = false := by
  rw [← h]; simp [hm]

theorem State.Within.refl {k : Nat} {s : State} : State.Within k s s := fun p _ => by
  cases p <;> first | rfl | exact ⟨rfl, rfl, rfl⟩

theorem State.same.trans {s t u : State} {p : Part} (h : s.same t p) (h2 : t.same u p) : s.same u p := by
  cases p <;> first | exact Eq.trans h2 h | exact ⟨h2.1.trans h.1, h2.2.1.trans h.2.1, h2.2.2.trans h.2.2⟩

theorem State.Within.upd {k m : Nat} {s t u : State} (h : State.Within m s t) (hm : Has k m) (h2 : State.Within k t u) :
    State.Within m s u := fun p hp => (h p hp).trans (h2 p (hm.bit hp))

theorem State.Within.of_mask {k m : Nat} {s t : State} (h : State.Within k s t) (hm : Has k m) : State.Within m s t :=
  State.Within.upd State.Within.refl hm h

/-- The parts outside a list that covers the set are the same. -/
theorem State.Within.frame {k : Nat} {l : List Part} {s t : State} (h : State.Within k s t)
    (hl : (Part.all.all fun p => !k.testBit p.idx || l.contains p) = true) : ∀ p, p ∉ l → s.same t p := by
  intro p hp
  apply h
  have hp' : p ∈ Part.all := by cases p <;> decide
  have := List.all_eq_true.mp hl p hp'
  simpa [hp] using this

/-- The goal form of an update written out as a record. -/
def State.WithinRec (k : Nat) (s t : State) : Prop := State.Within k s t

set_option linter.unusedVariables false in
theorem State.within_mk {m : Nat} {s0 : State} {pending tick dt free regs hwSet hostSet force fbPend lastRead shmem arbLast hostWin engines axes banks fb po mot shaft mon funcs accepted hostOut fetchLast ownChanges doms time fdb ports txqs rx wireOut cans dios dio saf fo prof store pwr plugs thm} : State.Within m s0 (State.mk pending tick dt free regs hwSet hostSet force fbPend lastRead shmem arbLast hostWin engines axes banks fb po mot shaft mon funcs accepted hostOut fetchLast ownChanges doms time fdb ports txqs rx wireOut cans dios dio saf fo prof store pwr plugs thm) = State.WithinRec m s0 (State.mk pending tick dt free regs hwSet hostSet force fbPend lastRead shmem arbLast hostWin engines axes banks fb po mot shaft mon funcs accepted hostOut fetchLast ownChanges doms time fdb ports txqs rx wireOut cans dios dio saf fo prof store pwr plugs thm) := rfl

theorem State.WithinRec.accepted {m : Nat} {s0 s : State} {accepted : List Accepted} (h : State.Within m s0 s) (hm : Has 0x100000 m) :
    State.WithinRec m s0 (State.mk s.pending s.tick s.dt s.free s.regs s.hwSet s.hostSet s.force s.fbPend s.lastRead s.shmem s.arbLast s.hostWin s.engines s.axes s.banks s.fb s.po s.mot s.shaft s.mon s.funcs accepted s.hostOut s.fetchLast s.ownChanges s.doms s.time s.fdb s.ports s.txqs s.rx s.wireOut s.cans s.dios s.dio s.saf s.fo s.prof s.store s.pwr s.plugs s.thm) :=
  State.Within.upd h hm fun p hp => by cases p <;> first | rfl | exact ⟨rfl, rfl, rfl⟩ | cases hp

theorem State.WithinRec.accepted_pwr {m : Nat} {s0 s : State} {accepted : List Accepted} {pwr : Power} (h : State.Within m s0 s) (hm : Has 0x4000100000 m) :
    State.WithinRec m s0 (State.mk s.pending s.tick s.dt s.free s.regs s.hwSet s.hostSet s.force s.fbPend s.lastRead s.shmem s.arbLast s.hostWin s.engines s.axes s.banks s.fb s.po s.mot s.shaft s.mon s.funcs accepted s.hostOut s.fetchLast s.ownChanges s.doms s.time s.fdb s.ports s.txqs s.rx s.wireOut s.cans s.dios s.dio s.saf s.fo s.prof s.store pwr s.plugs s.thm) :=
  State.Within.upd h hm fun p hp => by cases p <;> first | rfl | exact ⟨rfl, rfl, rfl⟩ | cases hp

theorem State.WithinRec.arbLast {m : Nat} {s0 s : State} {arbLast : EngId} (h : State.Within m s0 s) (hm : Has 0x200 m) :
    State.WithinRec m s0 (State.mk s.pending s.tick s.dt s.free s.regs s.hwSet s.hostSet s.force s.fbPend s.lastRead s.shmem arbLast s.hostWin s.engines s.axes s.banks s.fb s.po s.mot s.shaft s.mon s.funcs s.accepted s.hostOut s.fetchLast s.ownChanges s.doms s.time s.fdb s.ports s.txqs s.rx s.wireOut s.cans s.dios s.dio s.saf s.fo s.prof s.store s.pwr s.plugs s.thm) :=
  State.Within.upd h hm fun p hp => by cases p <;> first | rfl | exact ⟨rfl, rfl, rfl⟩ | cases hp

theorem State.WithinRec.axes {m : Nat} {s0 s : State} {axes : Vector Axis 48} (h : State.Within m s0 s) (hm : Has 0x1000 m) :
    State.WithinRec m s0 (State.mk s.pending s.tick s.dt s.free s.regs s.hwSet s.hostSet s.force s.fbPend s.lastRead s.shmem s.arbLast s.hostWin s.engines axes s.banks s.fb s.po s.mot s.shaft s.mon s.funcs s.accepted s.hostOut s.fetchLast s.ownChanges s.doms s.time s.fdb s.ports s.txqs s.rx s.wireOut s.cans s.dios s.dio s.saf s.fo s.prof s.store s.pwr s.plugs s.thm) :=
  State.Within.upd h hm fun p hp => by cases p <;> first | rfl | exact ⟨rfl, rfl, rfl⟩ | cases hp

theorem State.WithinRec.banks {m : Nat} {s0 s : State} {banks : Vector Bank 6} (h : State.Within m s0 s) (hm : Has 0x2000 m) :
    State.WithinRec m s0 (State.mk s.pending s.tick s.dt s.free s.regs s.hwSet s.hostSet s.force s.fbPend s.lastRead s.shmem s.arbLast s.hostWin s.engines s.axes banks s.fb s.po s.mot s.shaft s.mon s.funcs s.accepted s.hostOut s.fetchLast s.ownChanges s.doms s.time s.fdb s.ports s.txqs s.rx s.wireOut s.cans s.dios s.dio s.saf s.fo s.prof s.store s.pwr s.plugs s.thm) :=
  State.Within.upd h hm fun p hp => by cases p <;> first | rfl | exact ⟨rfl, rfl, rfl⟩ | cases hp

theorem State.WithinRec.cans {m : Nat} {s0 s : State} {cans : Vector Can 4} (h : State.Within m s0 s) (hm : Has 0x80000000 m) :
    State.WithinRec m s0 (State.mk s.pending s.tick s.dt s.free s.regs s.hwSet s.hostSet s.force s.fbPend s.lastRead s.shmem s.arbLast s.hostWin s.engines s.axes s.banks s.fb s.po s.mot s.shaft s.mon s.funcs s.accepted s.hostOut s.fetchLast s.ownChanges s.doms s.time s.fdb s.ports s.txqs s.rx s.wireOut cans s.dios s.dio s.saf s.fo s.prof s.store s.pwr s.plugs s.thm) :=
  State.Within.upd h hm fun p hp => by cases p <;> first | rfl | exact ⟨rfl, rfl, rfl⟩ | cases hp

theorem State.WithinRec.dio {m : Nat} {s0 s : State} {dio : FieldIo} (h : State.Within m s0 s) (hm : Has 0x200000000 m) :
    State.WithinRec m s0 (State.mk s.pending s.tick s.dt s.free s.regs s.hwSet s.hostSet s.force s.fbPend s.lastRead s.shmem s.arbLast s.hostWin s.engines s.axes s.banks s.fb s.po s.mot s.shaft s.mon s.funcs s.accepted s.hostOut s.fetchLast s.ownChanges s.doms s.time s.fdb s.ports s.txqs s.rx s.wireOut s.cans s.dios dio s.saf s.fo s.prof s.store s.pwr s.plugs s.thm) :=
  State.Within.upd h hm fun p hp => by cases p <;> first | rfl | exact ⟨rfl, rfl, rfl⟩ | cases hp

theorem State.WithinRec.dios {m : Nat} {s0 s : State} {dios : Vector Dio 48} (h : State.Within m s0 s) (hm : Has 0x100000000 m) :
    State.WithinRec m s0 (State.mk s.pending s.tick s.dt s.free s.regs s.hwSet s.hostSet s.force s.fbPend s.lastRead s.shmem s.arbLast s.hostWin s.engines s.axes s.banks s.fb s.po s.mot s.shaft s.mon s.funcs s.accepted s.hostOut s.fetchLast s.ownChanges s.doms s.time s.fdb s.ports s.txqs s.rx s.wireOut s.cans dios s.dio s.saf s.fo s.prof s.store s.pwr s.plugs s.thm) :=
  State.Within.upd h hm fun p hp => by cases p <;> first | rfl | exact ⟨rfl, rfl, rfl⟩ | cases hp

theorem State.WithinRec.doms {m : Nat} {s0 s : State} {doms : Vector TimeDom 2} (h : State.Within m s0 s) (hm : Has 0x1000000 m) :
    State.WithinRec m s0 (State.mk s.pending s.tick s.dt s.free s.regs s.hwSet s.hostSet s.force s.fbPend s.lastRead s.shmem s.arbLast s.hostWin s.engines s.axes s.banks s.fb s.po s.mot s.shaft s.mon s.funcs s.accepted s.hostOut s.fetchLast s.ownChanges doms s.time s.fdb s.ports s.txqs s.rx s.wireOut s.cans s.dios s.dio s.saf s.fo s.prof s.store s.pwr s.plugs s.thm) :=
  State.Within.upd h hm fun p hp => by cases p <;> first | rfl | exact ⟨rfl, rfl, rfl⟩ | cases hp

theorem State.WithinRec.doms_time {m : Nat} {s0 s : State} {doms : Vector TimeDom 2} {time : TimeBase} (h : State.Within m s0 s) (hm : Has 0x3000000 m) :
    State.WithinRec m s0 (State.mk s.pending s.tick s.dt s.free s.regs s.hwSet s.hostSet s.force s.fbPend s.lastRead s.shmem s.arbLast s.hostWin s.engines s.axes s.banks s.fb s.po s.mot s.shaft s.mon s.funcs s.accepted s.hostOut s.fetchLast s.ownChanges doms time s.fdb s.ports s.txqs s.rx s.wireOut s.cans s.dios s.dio s.saf s.fo s.prof s.store s.pwr s.plugs s.thm) :=
  State.Within.upd h hm fun p hp => by cases p <;> first | rfl | exact ⟨rfl, rfl, rfl⟩ | cases hp

theorem State.WithinRec.dt_pwr {m : Nat} {s0 s : State} {dt : BitVec 64} {pwr : Power} (h : State.Within m s0 s) (hm : Has 0x4000000004 m) :
    State.WithinRec m s0 (State.mk s.pending s.tick dt s.free s.regs s.hwSet s.hostSet s.force s.fbPend s.lastRead s.shmem s.arbLast s.hostWin s.engines s.axes s.banks s.fb s.po s.mot s.shaft s.mon s.funcs s.accepted s.hostOut s.fetchLast s.ownChanges s.doms s.time s.fdb s.ports s.txqs s.rx s.wireOut s.cans s.dios s.dio s.saf s.fo s.prof s.store pwr s.plugs s.thm) :=
  State.Within.upd h hm fun p hp => by cases p <;> first | rfl | exact ⟨rfl, rfl, rfl⟩ | cases hp

theorem State.WithinRec.engines {m : Nat} {s0 s : State} {engines : Vector Engine 64} (h : State.Within m s0 s) (hm : Has 0x800 m) :
    State.WithinRec m s0 (State.mk s.pending s.tick s.dt s.free s.regs s.hwSet s.hostSet s.force s.fbPend s.lastRead s.shmem s.arbLast s.hostWin engines s.axes s.banks s.fb s.po s.mot s.shaft s.mon s.funcs s.accepted s.hostOut s.fetchLast s.ownChanges s.doms s.time s.fdb s.ports s.txqs s.rx s.wireOut s.cans s.dios s.dio s.saf s.fo s.prof s.store s.pwr s.plugs s.thm) :=
  State.Within.upd h hm fun p hp => by cases p <;> first | rfl | exact ⟨rfl, rfl, rfl⟩ | cases hp

theorem State.WithinRec.fb {m : Nat} {s0 s : State} {fb : Vector AxFb 48} (h : State.Within m s0 s) (hm : Has 0x4000 m) :
    State.WithinRec m s0 (State.mk s.pending s.tick s.dt s.free s.regs s.hwSet s.hostSet s.force s.fbPend s.lastRead s.shmem s.arbLast s.hostWin s.engines s.axes s.banks fb s.po s.mot s.shaft s.mon s.funcs s.accepted s.hostOut s.fetchLast s.ownChanges s.doms s.time s.fdb s.ports s.txqs s.rx s.wireOut s.cans s.dios s.dio s.saf s.fo s.prof s.store s.pwr s.plugs s.thm) :=
  State.Within.upd h hm fun p hp => by cases p <;> first | rfl | exact ⟨rfl, rfl, rfl⟩ | cases hp

theorem State.WithinRec.fbPend {m : Nat} {s0 s : State} {fbPend : List FbWrite} (h : State.Within m s0 s) (hm : Has 0x40 m) :
    State.WithinRec m s0 (State.mk s.pending s.tick s.dt s.free s.regs s.hwSet s.hostSet s.force fbPend s.lastRead s.shmem s.arbLast s.hostWin s.engines s.axes s.banks s.fb s.po s.mot s.shaft s.mon s.funcs s.accepted s.hostOut s.fetchLast s.ownChanges s.doms s.time s.fdb s.ports s.txqs s.rx s.wireOut s.cans s.dios s.dio s.saf s.fo s.prof s.store s.pwr s.plugs s.thm) :=
  State.Within.upd h hm fun p hp => by cases p <;> first | rfl | exact ⟨rfl, rfl, rfl⟩ | cases hp

theorem State.WithinRec.fdb {m : Nat} {s0 s : State} {fdb : List FdbEntry} (h : State.Within m s0 s) (hm : Has 0x4000000 m) :
    State.WithinRec m s0 (State.mk s.pending s.tick s.dt s.free s.regs s.hwSet s.hostSet s.force s.fbPend s.lastRead s.shmem s.arbLast s.hostWin s.engines s.axes s.banks s.fb s.po s.mot s.shaft s.mon s.funcs s.accepted s.hostOut s.fetchLast s.ownChanges s.doms s.time fdb s.ports s.txqs s.rx s.wireOut s.cans s.dios s.dio s.saf s.fo s.prof s.store s.pwr s.plugs s.thm) :=
  State.Within.upd h hm fun p hp => by cases p <;> first | rfl | exact ⟨rfl, rfl, rfl⟩ | cases hp

theorem State.WithinRec.fetchLast {m : Nat} {s0 s : State} {fetchLast : FnId} (h : State.Within m s0 s) (hm : Has 0x400000 m) :
    State.WithinRec m s0 (State.mk s.pending s.tick s.dt s.free s.regs s.hwSet s.hostSet s.force s.fbPend s.lastRead s.shmem s.arbLast s.hostWin s.engines s.axes s.banks s.fb s.po s.mot s.shaft s.mon s.funcs s.accepted s.hostOut fetchLast s.ownChanges s.doms s.time s.fdb s.ports s.txqs s.rx s.wireOut s.cans s.dios s.dio s.saf s.fo s.prof s.store s.pwr s.plugs s.thm) :=
  State.Within.upd h hm fun p hp => by cases p <;> first | rfl | exact ⟨rfl, rfl, rfl⟩ | cases hp

theorem State.WithinRec.fo {m : Nat} {s0 s : State} {fo : Vector AxFo 48} (h : State.Within m s0 s) (hm : Has 0x800000000 m) :
    State.WithinRec m s0 (State.mk s.pending s.tick s.dt s.free s.regs s.hwSet s.hostSet s.force s.fbPend s.lastRead s.shmem s.arbLast s.hostWin s.engines s.axes s.banks s.fb s.po s.mot s.shaft s.mon s.funcs s.accepted s.hostOut s.fetchLast s.ownChanges s.doms s.time s.fdb s.ports s.txqs s.rx s.wireOut s.cans s.dios s.dio s.saf fo s.prof s.store s.pwr s.plugs s.thm) :=
  State.Within.upd h hm fun p hp => by cases p <;> first | rfl | exact ⟨rfl, rfl, rfl⟩ | cases hp

theorem State.WithinRec.force {m : Nat} {s0 s : State} {force : Sparse Word} (h : State.Within m s0 s) (hm : Has 0x20 m) :
    State.WithinRec m s0 (State.mk s.pending s.tick s.dt s.free s.regs s.hwSet s.hostSet force s.fbPend s.lastRead s.shmem s.arbLast s.hostWin s.engines s.axes s.banks s.fb s.po s.mot s.shaft s.mon s.funcs s.accepted s.hostOut s.fetchLast s.ownChanges s.doms s.time s.fdb s.ports s.txqs s.rx s.wireOut s.cans s.dios s.dio s.saf s.fo s.prof s.store s.pwr s.plugs s.thm) :=
  State.Within.upd h hm fun p hp => by cases p <;> first | rfl | exact ⟨rfl, rfl, rfl⟩ | cases hp

theorem State.WithinRec.force_fbPend {m : Nat} {s0 s : State} {force : Sparse Word} {fbPend : List FbWrite} (h : State.Within m s0 s) (hm : Has 0x60 m) :
    State.WithinRec m s0 (State.mk s.pending s.tick s.dt s.free s.regs s.hwSet s.hostSet force fbPend s.lastRead s.shmem s.arbLast s.hostWin s.engines s.axes s.banks s.fb s.po s.mot s.shaft s.mon s.funcs s.accepted s.hostOut s.fetchLast s.ownChanges s.doms s.time s.fdb s.ports s.txqs s.rx s.wireOut s.cans s.dios s.dio s.saf s.fo s.prof s.store s.pwr s.plugs s.thm) :=
  State.Within.upd h hm fun p hp => by cases p <;> first | rfl | exact ⟨rfl, rfl, rfl⟩ | cases hp

theorem State.WithinRec.free {m : Nat} {s0 s : State} {free : Nat} (h : State.Within m s0 s) (hm : Has 0x8 m) :
    State.WithinRec m s0 (State.mk s.pending s.tick s.dt free s.regs s.hwSet s.hostSet s.force s.fbPend s.lastRead s.shmem s.arbLast s.hostWin s.engines s.axes s.banks s.fb s.po s.mot s.shaft s.mon s.funcs s.accepted s.hostOut s.fetchLast s.ownChanges s.doms s.time s.fdb s.ports s.txqs s.rx s.wireOut s.cans s.dios s.dio s.saf s.fo s.prof s.store s.pwr s.plugs s.thm) :=
  State.Within.upd h hm fun p hp => by cases p <;> first | rfl | exact ⟨rfl, rfl, rfl⟩ | cases hp

theorem State.WithinRec.free_fb {m : Nat} {s0 s : State} {free : Nat} {fb : Vector AxFb 48} (h : State.Within m s0 s) (hm : Has 0x4008 m) :
    State.WithinRec m s0 (State.mk s.pending s.tick s.dt free s.regs s.hwSet s.hostSet s.force s.fbPend s.lastRead s.shmem s.arbLast s.hostWin s.engines s.axes s.banks fb s.po s.mot s.shaft s.mon s.funcs s.accepted s.hostOut s.fetchLast s.ownChanges s.doms s.time s.fdb s.ports s.txqs s.rx s.wireOut s.cans s.dios s.dio s.saf s.fo s.prof s.store s.pwr s.plugs s.thm) :=
  State.Within.upd h hm fun p hp => by cases p <;> first | rfl | exact ⟨rfl, rfl, rfl⟩ | cases hp

theorem State.WithinRec.free_fb_saf {m : Nat} {s0 s : State} {free : Nat} {fb : Vector AxFb 48} {saf : Safety} (h : State.Within m s0 s) (hm : Has 0x400004008 m) :
    State.WithinRec m s0 (State.mk s.pending s.tick s.dt free s.regs s.hwSet s.hostSet s.force s.fbPend s.lastRead s.shmem s.arbLast s.hostWin s.engines s.axes s.banks fb s.po s.mot s.shaft s.mon s.funcs s.accepted s.hostOut s.fetchLast s.ownChanges s.doms s.time s.fdb s.ports s.txqs s.rx s.wireOut s.cans s.dios s.dio saf s.fo s.prof s.store s.pwr s.plugs s.thm) :=
  State.Within.upd h hm fun p hp => by cases p <;> first | rfl | exact ⟨rfl, rfl, rfl⟩ | cases hp

theorem State.WithinRec.free_pwr {m : Nat} {s0 s : State} {free : Nat} {pwr : Power} (h : State.Within m s0 s) (hm : Has 0x4000000008 m) :
    State.WithinRec m s0 (State.mk s.pending s.tick s.dt free s.regs s.hwSet s.hostSet s.force s.fbPend s.lastRead s.shmem s.arbLast s.hostWin s.engines s.axes s.banks s.fb s.po s.mot s.shaft s.mon s.funcs s.accepted s.hostOut s.fetchLast s.ownChanges s.doms s.time s.fdb s.ports s.txqs s.rx s.wireOut s.cans s.dios s.dio s.saf s.fo s.prof s.store pwr s.plugs s.thm) :=
  State.Within.upd h hm fun p hp => by cases p <;> first | rfl | exact ⟨rfl, rfl, rfl⟩ | cases hp

theorem State.WithinRec.blockFree {m : Nat} {s0 s : State} {free : Nat} {regs : Sparse Word} {hwSet : List (Nat × Word)} {hostSet : List Nat} {force : Sparse Word} {fbPend : List FbWrite} {lastRead : List Word} {shmem : Mem} {arbLast : EngId} {hostWin : List (Nat × List Byte)} {engines : Vector Engine 64} {axes : Vector Axis 48} {banks : Vector Bank 6} {fb : Vector AxFb 48} {po : Vector PulseRep 6} {mot : Vector AxMot 48} {shaft : Shaft} {mon : Vector AxMon 48} {funcs : Vector Func 8} {accepted : List Accepted} {fetchLast : FnId} {ownChanges : List OwnChange} {doms : Vector TimeDom 2} {time : TimeBase} {fdb : List FdbEntry} {ports : Vector LinePort 2} {txqs : Vector TxQueue 16} {rx : RxPath} {cans : Vector Can 4} {dios : Vector Dio 48} {dio : FieldIo} {saf : Safety} {fo : Vector AxFo 48} {prof : Profiles} {store : ImageStore} {pwr : Power} {plugs : Vector Plug 48} {thm : Thermal} (h : State.Within m s0 s) (hm : Has 0x1ffbfdffff8 m) :
    State.WithinRec m s0 (State.mk s.pending s.tick s.dt free regs hwSet hostSet force fbPend lastRead shmem arbLast hostWin engines axes banks fb po mot shaft mon funcs accepted s.hostOut fetchLast ownChanges doms time fdb ports txqs rx s.wireOut cans dios dio saf fo prof store pwr plugs thm) :=
  State.Within.upd h hm fun p hp => by cases p <;> first | rfl | exact ⟨rfl, rfl, rfl⟩ | cases hp

theorem State.WithinRec.free_saf {m : Nat} {s0 s : State} {free : Nat} {saf : Safety} (h : State.Within m s0 s) (hm : Has 0x400000008 m) :
    State.WithinRec m s0 (State.mk s.pending s.tick s.dt free s.regs s.hwSet s.hostSet s.force s.fbPend s.lastRead s.shmem s.arbLast s.hostWin s.engines s.axes s.banks s.fb s.po s.mot s.shaft s.mon s.funcs s.accepted s.hostOut s.fetchLast s.ownChanges s.doms s.time s.fdb s.ports s.txqs s.rx s.wireOut s.cans s.dios s.dio saf s.fo s.prof s.store s.pwr s.plugs s.thm) :=
  State.Within.upd h hm fun p hp => by cases p <;> first | rfl | exact ⟨rfl, rfl, rfl⟩ | cases hp

theorem State.WithinRec.free_shmem {m : Nat} {s0 s : State} {free : Nat} {shmem : Mem} (h : State.Within m s0 s) (hm : Has 0x108 m) :
    State.WithinRec m s0 (State.mk s.pending s.tick s.dt free s.regs s.hwSet s.hostSet s.force s.fbPend s.lastRead shmem s.arbLast s.hostWin s.engines s.axes s.banks s.fb s.po s.mot s.shaft s.mon s.funcs s.accepted s.hostOut s.fetchLast s.ownChanges s.doms s.time s.fdb s.ports s.txqs s.rx s.wireOut s.cans s.dios s.dio s.saf s.fo s.prof s.store s.pwr s.plugs s.thm) :=
  State.Within.upd h hm fun p hp => by cases p <;> first | rfl | exact ⟨rfl, rfl, rfl⟩ | cases hp

theorem State.WithinRec.free_time {m : Nat} {s0 s : State} {free : Nat} {time : TimeBase} (h : State.Within m s0 s) (hm : Has 0x2000008 m) :
    State.WithinRec m s0 (State.mk s.pending s.tick s.dt free s.regs s.hwSet s.hostSet s.force s.fbPend s.lastRead s.shmem s.arbLast s.hostWin s.engines s.axes s.banks s.fb s.po s.mot s.shaft s.mon s.funcs s.accepted s.hostOut s.fetchLast s.ownChanges s.doms time s.fdb s.ports s.txqs s.rx s.wireOut s.cans s.dios s.dio s.saf s.fo s.prof s.store s.pwr s.plugs s.thm) :=
  State.Within.upd h hm fun p hp => by cases p <;> first | rfl | exact ⟨rfl, rfl, rfl⟩ | cases hp

theorem State.WithinRec.funcs {m : Nat} {s0 s : State} {funcs : Vector Func 8} (h : State.Within m s0 s) (hm : Has 0x80000 m) :
    State.WithinRec m s0 (State.mk s.pending s.tick s.dt s.free s.regs s.hwSet s.hostSet s.force s.fbPend s.lastRead s.shmem s.arbLast s.hostWin s.engines s.axes s.banks s.fb s.po s.mot s.shaft s.mon funcs s.accepted s.hostOut s.fetchLast s.ownChanges s.doms s.time s.fdb s.ports s.txqs s.rx s.wireOut s.cans s.dios s.dio s.saf s.fo s.prof s.store s.pwr s.plugs s.thm) :=
  State.Within.upd h hm fun p hp => by cases p <;> first | rfl | exact ⟨rfl, rfl, rfl⟩ | cases hp

theorem State.WithinRec.funcs_pwr {m : Nat} {s0 s : State} {funcs : Vector Func 8} {pwr : Power} (h : State.Within m s0 s) (hm : Has 0x4000080000 m) :
    State.WithinRec m s0 (State.mk s.pending s.tick s.dt s.free s.regs s.hwSet s.hostSet s.force s.fbPend s.lastRead s.shmem s.arbLast s.hostWin s.engines s.axes s.banks s.fb s.po s.mot s.shaft s.mon funcs s.accepted s.hostOut s.fetchLast s.ownChanges s.doms s.time s.fdb s.ports s.txqs s.rx s.wireOut s.cans s.dios s.dio s.saf s.fo s.prof s.store pwr s.plugs s.thm) :=
  State.Within.upd h hm fun p hp => by cases p <;> first | rfl | exact ⟨rfl, rfl, rfl⟩ | cases hp

theorem State.WithinRec.hostOut {m : Nat} {s0 s : State} {hostOut : List HostWrite} (h : State.Within m s0 s) (hm : Has 0x200000 m) :
    State.WithinRec m s0 (State.mk s.pending s.tick s.dt s.free s.regs s.hwSet s.hostSet s.force s.fbPend s.lastRead s.shmem s.arbLast s.hostWin s.engines s.axes s.banks s.fb s.po s.mot s.shaft s.mon s.funcs s.accepted hostOut s.fetchLast s.ownChanges s.doms s.time s.fdb s.ports s.txqs s.rx s.wireOut s.cans s.dios s.dio s.saf s.fo s.prof s.store s.pwr s.plugs s.thm) :=
  State.Within.upd h hm fun p hp => by cases p <;> first | rfl | exact ⟨rfl, rfl, rfl⟩ | cases hp

theorem State.WithinRec.hostWin {m : Nat} {s0 s : State} {hostWin : List (Nat × List Byte)} (h : State.Within m s0 s) (hm : Has 0x400 m) :
    State.WithinRec m s0 (State.mk s.pending s.tick s.dt s.free s.regs s.hwSet s.hostSet s.force s.fbPend s.lastRead s.shmem s.arbLast hostWin s.engines s.axes s.banks s.fb s.po s.mot s.shaft s.mon s.funcs s.accepted s.hostOut s.fetchLast s.ownChanges s.doms s.time s.fdb s.ports s.txqs s.rx s.wireOut s.cans s.dios s.dio s.saf s.fo s.prof s.store s.pwr s.plugs s.thm) :=
  State.Within.upd h hm fun p hp => by cases p <;> first | rfl | exact ⟨rfl, rfl, rfl⟩ | cases hp

theorem State.WithinRec.lastRead {m : Nat} {s0 s : State} {lastRead : List Word} (h : State.Within m s0 s) (hm : Has 0x80 m) :
    State.WithinRec m s0 (State.mk s.pending s.tick s.dt s.free s.regs s.hwSet s.hostSet s.force s.fbPend lastRead s.shmem s.arbLast s.hostWin s.engines s.axes s.banks s.fb s.po s.mot s.shaft s.mon s.funcs s.accepted s.hostOut s.fetchLast s.ownChanges s.doms s.time s.fdb s.ports s.txqs s.rx s.wireOut s.cans s.dios s.dio s.saf s.fo s.prof s.store s.pwr s.plugs s.thm) :=
  State.Within.upd h hm fun p hp => by cases p <;> first | rfl | exact ⟨rfl, rfl, rfl⟩ | cases hp

theorem State.WithinRec.mon {m : Nat} {s0 s : State} {mon : Vector AxMon 48} (h : State.Within m s0 s) (hm : Has 0x40000 m) :
    State.WithinRec m s0 (State.mk s.pending s.tick s.dt s.free s.regs s.hwSet s.hostSet s.force s.fbPend s.lastRead s.shmem s.arbLast s.hostWin s.engines s.axes s.banks s.fb s.po s.mot s.shaft mon s.funcs s.accepted s.hostOut s.fetchLast s.ownChanges s.doms s.time s.fdb s.ports s.txqs s.rx s.wireOut s.cans s.dios s.dio s.saf s.fo s.prof s.store s.pwr s.plugs s.thm) :=
  State.Within.upd h hm fun p hp => by cases p <;> first | rfl | exact ⟨rfl, rfl, rfl⟩ | cases hp

theorem State.WithinRec.mon_saf_prof_pwr {m : Nat} {s0 s : State} {mon : Vector AxMon 48} {saf : Safety} {prof : Profiles} {pwr : Power} (h : State.Within m s0 s) (hm : Has 0x5400040000 m) :
    State.WithinRec m s0 (State.mk s.pending s.tick s.dt s.free s.regs s.hwSet s.hostSet s.force s.fbPend s.lastRead s.shmem s.arbLast s.hostWin s.engines s.axes s.banks s.fb s.po s.mot s.shaft mon s.funcs s.accepted s.hostOut s.fetchLast s.ownChanges s.doms s.time s.fdb s.ports s.txqs s.rx s.wireOut s.cans s.dios s.dio saf s.fo prof s.store pwr s.plugs s.thm) :=
  State.Within.upd h hm fun p hp => by cases p <;> first | rfl | exact ⟨rfl, rfl, rfl⟩ | cases hp

theorem State.WithinRec.mot {m : Nat} {s0 s : State} {mot : Vector AxMot 48} (h : State.Within m s0 s) (hm : Has 0x10000 m) :
    State.WithinRec m s0 (State.mk s.pending s.tick s.dt s.free s.regs s.hwSet s.hostSet s.force s.fbPend s.lastRead s.shmem s.arbLast s.hostWin s.engines s.axes s.banks s.fb s.po mot s.shaft s.mon s.funcs s.accepted s.hostOut s.fetchLast s.ownChanges s.doms s.time s.fdb s.ports s.txqs s.rx s.wireOut s.cans s.dios s.dio s.saf s.fo s.prof s.store s.pwr s.plugs s.thm) :=
  State.Within.upd h hm fun p hp => by cases p <;> first | rfl | exact ⟨rfl, rfl, rfl⟩ | cases hp

theorem State.WithinRec.ownChanges {m : Nat} {s0 s : State} {ownChanges : List OwnChange} (h : State.Within m s0 s) (hm : Has 0x800000 m) :
    State.WithinRec m s0 (State.mk s.pending s.tick s.dt s.free s.regs s.hwSet s.hostSet s.force s.fbPend s.lastRead s.shmem s.arbLast s.hostWin s.engines s.axes s.banks s.fb s.po s.mot s.shaft s.mon s.funcs s.accepted s.hostOut s.fetchLast ownChanges s.doms s.time s.fdb s.ports s.txqs s.rx s.wireOut s.cans s.dios s.dio s.saf s.fo s.prof s.store s.pwr s.plugs s.thm) :=
  State.Within.upd h hm fun p hp => by cases p <;> first | rfl | exact ⟨rfl, rfl, rfl⟩ | cases hp

theorem State.WithinRec.plugs {m : Nat} {s0 s : State} {plugs : Vector Plug 48} (h : State.Within m s0 s) (hm : Has 0x8000000000 m) :
    State.WithinRec m s0 (State.mk s.pending s.tick s.dt s.free s.regs s.hwSet s.hostSet s.force s.fbPend s.lastRead s.shmem s.arbLast s.hostWin s.engines s.axes s.banks s.fb s.po s.mot s.shaft s.mon s.funcs s.accepted s.hostOut s.fetchLast s.ownChanges s.doms s.time s.fdb s.ports s.txqs s.rx s.wireOut s.cans s.dios s.dio s.saf s.fo s.prof s.store s.pwr plugs s.thm) :=
  State.Within.upd h hm fun p hp => by cases p <;> first | rfl | exact ⟨rfl, rfl, rfl⟩ | cases hp

theorem State.WithinRec.po {m : Nat} {s0 s : State} {po : Vector PulseRep 6} (h : State.Within m s0 s) (hm : Has 0x8000 m) :
    State.WithinRec m s0 (State.mk s.pending s.tick s.dt s.free s.regs s.hwSet s.hostSet s.force s.fbPend s.lastRead s.shmem s.arbLast s.hostWin s.engines s.axes s.banks s.fb po s.mot s.shaft s.mon s.funcs s.accepted s.hostOut s.fetchLast s.ownChanges s.doms s.time s.fdb s.ports s.txqs s.rx s.wireOut s.cans s.dios s.dio s.saf s.fo s.prof s.store s.pwr s.plugs s.thm) :=
  State.Within.upd h hm fun p hp => by cases p <;> first | rfl | exact ⟨rfl, rfl, rfl⟩ | cases hp

theorem State.WithinRec.ports {m : Nat} {s0 s : State} {ports : Vector LinePort 2} (h : State.Within m s0 s) (hm : Has 0x8000000 m) :
    State.WithinRec m s0 (State.mk s.pending s.tick s.dt s.free s.regs s.hwSet s.hostSet s.force s.fbPend s.lastRead s.shmem s.arbLast s.hostWin s.engines s.axes s.banks s.fb s.po s.mot s.shaft s.mon s.funcs s.accepted s.hostOut s.fetchLast s.ownChanges s.doms s.time s.fdb ports s.txqs s.rx s.wireOut s.cans s.dios s.dio s.saf s.fo s.prof s.store s.pwr s.plugs s.thm) :=
  State.Within.upd h hm fun p hp => by cases p <;> first | rfl | exact ⟨rfl, rfl, rfl⟩ | cases hp

theorem State.WithinRec.prof {m : Nat} {s0 s : State} {prof : Profiles} (h : State.Within m s0 s) (hm : Has 0x1000000000 m) :
    State.WithinRec m s0 (State.mk s.pending s.tick s.dt s.free s.regs s.hwSet s.hostSet s.force s.fbPend s.lastRead s.shmem s.arbLast s.hostWin s.engines s.axes s.banks s.fb s.po s.mot s.shaft s.mon s.funcs s.accepted s.hostOut s.fetchLast s.ownChanges s.doms s.time s.fdb s.ports s.txqs s.rx s.wireOut s.cans s.dios s.dio s.saf s.fo prof s.store s.pwr s.plugs s.thm) :=
  State.Within.upd h hm fun p hp => by cases p <;> first | rfl | exact ⟨rfl, rfl, rfl⟩ | cases hp

theorem State.WithinRec.pwr {m : Nat} {s0 s : State} {pwr : Power} (h : State.Within m s0 s) (hm : Has 0x4000000000 m) :
    State.WithinRec m s0 (State.mk s.pending s.tick s.dt s.free s.regs s.hwSet s.hostSet s.force s.fbPend s.lastRead s.shmem s.arbLast s.hostWin s.engines s.axes s.banks s.fb s.po s.mot s.shaft s.mon s.funcs s.accepted s.hostOut s.fetchLast s.ownChanges s.doms s.time s.fdb s.ports s.txqs s.rx s.wireOut s.cans s.dios s.dio s.saf s.fo s.prof s.store pwr s.plugs s.thm) :=
  State.Within.upd h hm fun p hp => by cases p <;> first | rfl | exact ⟨rfl, rfl, rfl⟩ | cases hp

theorem State.WithinRec.regs {m : Nat} {s0 s : State} {regs : Sparse Word} {hwSet : List (Nat × Word)} {hostSet : List Nat} (h : State.Within m s0 s) (hm : Has 0x10 m) :
    State.WithinRec m s0 (State.mk s.pending s.tick s.dt s.free regs hwSet hostSet s.force s.fbPend s.lastRead s.shmem s.arbLast s.hostWin s.engines s.axes s.banks s.fb s.po s.mot s.shaft s.mon s.funcs s.accepted s.hostOut s.fetchLast s.ownChanges s.doms s.time s.fdb s.ports s.txqs s.rx s.wireOut s.cans s.dios s.dio s.saf s.fo s.prof s.store s.pwr s.plugs s.thm) :=
  State.Within.upd h hm fun p hp => by cases p <;> first | rfl | exact ⟨rfl, rfl, rfl⟩ | cases hp

theorem State.WithinRec.block {m : Nat} {s0 s : State} {regs : Sparse Word} {hwSet : List (Nat × Word)} {hostSet : List Nat} {force : Sparse Word} {fbPend : List FbWrite} {lastRead : List Word} {shmem : Mem} {arbLast : EngId} {hostWin : List (Nat × List Byte)} {engines : Vector Engine 64} {axes : Vector Axis 48} {banks : Vector Bank 6} {fb : Vector AxFb 48} {po : Vector PulseRep 6} {mot : Vector AxMot 48} {shaft : Shaft} {mon : Vector AxMon 48} {funcs : Vector Func 8} {accepted : List Accepted} {fetchLast : FnId} {ownChanges : List OwnChange} {doms : Vector TimeDom 2} {time : TimeBase} {fdb : List FdbEntry} {ports : Vector LinePort 2} {txqs : Vector TxQueue 16} {rx : RxPath} {cans : Vector Can 4} {dios : Vector Dio 48} {dio : FieldIo} {saf : Safety} {fo : Vector AxFo 48} {prof : Profiles} {store : ImageStore} {pwr : Power} {plugs : Vector Plug 48} {thm : Thermal} (h : State.Within m s0 s) (hm : Has 0x1ffbfdffff0 m) :
    State.WithinRec m s0 (State.mk s.pending s.tick s.dt s.free regs hwSet hostSet force fbPend lastRead shmem arbLast hostWin engines axes banks fb po mot shaft mon funcs accepted s.hostOut fetchLast ownChanges doms time fdb ports txqs rx s.wireOut cans dios dio saf fo prof store pwr plugs thm) :=
  State.Within.upd h hm fun p hp => by cases p <;> first | rfl | exact ⟨rfl, rfl, rfl⟩ | cases hp

theorem State.WithinRec.rx {m : Nat} {s0 s : State} {rx : RxPath} (h : State.Within m s0 s) (hm : Has 0x20000000 m) :
    State.WithinRec m s0 (State.mk s.pending s.tick s.dt s.free s.regs s.hwSet s.hostSet s.force s.fbPend s.lastRead s.shmem s.arbLast s.hostWin s.engines s.axes s.banks s.fb s.po s.mot s.shaft s.mon s.funcs s.accepted s.hostOut s.fetchLast s.ownChanges s.doms s.time s.fdb s.ports s.txqs rx s.wireOut s.cans s.dios s.dio s.saf s.fo s.prof s.store s.pwr s.plugs s.thm) :=
  State.Within.upd h hm fun p hp => by cases p <;> first | rfl | exact ⟨rfl, rfl, rfl⟩ | cases hp

theorem State.WithinRec.saf {m : Nat} {s0 s : State} {saf : Safety} (h : State.Within m s0 s) (hm : Has 0x400000000 m) :
    State.WithinRec m s0 (State.mk s.pending s.tick s.dt s.free s.regs s.hwSet s.hostSet s.force s.fbPend s.lastRead s.shmem s.arbLast s.hostWin s.engines s.axes s.banks s.fb s.po s.mot s.shaft s.mon s.funcs s.accepted s.hostOut s.fetchLast s.ownChanges s.doms s.time s.fdb s.ports s.txqs s.rx s.wireOut s.cans s.dios s.dio saf s.fo s.prof s.store s.pwr s.plugs s.thm) :=
  State.Within.upd h hm fun p hp => by cases p <;> first | rfl | exact ⟨rfl, rfl, rfl⟩ | cases hp

theorem State.WithinRec.saf_pwr {m : Nat} {s0 s : State} {saf : Safety} {pwr : Power} (h : State.Within m s0 s) (hm : Has 0x4400000000 m) :
    State.WithinRec m s0 (State.mk s.pending s.tick s.dt s.free s.regs s.hwSet s.hostSet s.force s.fbPend s.lastRead s.shmem s.arbLast s.hostWin s.engines s.axes s.banks s.fb s.po s.mot s.shaft s.mon s.funcs s.accepted s.hostOut s.fetchLast s.ownChanges s.doms s.time s.fdb s.ports s.txqs s.rx s.wireOut s.cans s.dios s.dio saf s.fo s.prof s.store pwr s.plugs s.thm) :=
  State.Within.upd h hm fun p hp => by cases p <;> first | rfl | exact ⟨rfl, rfl, rfl⟩ | cases hp

theorem State.WithinRec.shaft {m : Nat} {s0 s : State} {shaft : Shaft} (h : State.Within m s0 s) (hm : Has 0x20000 m) :
    State.WithinRec m s0 (State.mk s.pending s.tick s.dt s.free s.regs s.hwSet s.hostSet s.force s.fbPend s.lastRead s.shmem s.arbLast s.hostWin s.engines s.axes s.banks s.fb s.po s.mot shaft s.mon s.funcs s.accepted s.hostOut s.fetchLast s.ownChanges s.doms s.time s.fdb s.ports s.txqs s.rx s.wireOut s.cans s.dios s.dio s.saf s.fo s.prof s.store s.pwr s.plugs s.thm) :=
  State.Within.upd h hm fun p hp => by cases p <;> first | rfl | exact ⟨rfl, rfl, rfl⟩ | cases hp

theorem State.WithinRec.shmem {m : Nat} {s0 s : State} {shmem : Mem} (h : State.Within m s0 s) (hm : Has 0x100 m) :
    State.WithinRec m s0 (State.mk s.pending s.tick s.dt s.free s.regs s.hwSet s.hostSet s.force s.fbPend s.lastRead shmem s.arbLast s.hostWin s.engines s.axes s.banks s.fb s.po s.mot s.shaft s.mon s.funcs s.accepted s.hostOut s.fetchLast s.ownChanges s.doms s.time s.fdb s.ports s.txqs s.rx s.wireOut s.cans s.dios s.dio s.saf s.fo s.prof s.store s.pwr s.plugs s.thm) :=
  State.Within.upd h hm fun p hp => by cases p <;> first | rfl | exact ⟨rfl, rfl, rfl⟩ | cases hp

theorem State.WithinRec.shmem_hostWin {m : Nat} {s0 s : State} {shmem : Mem} {hostWin : List (Nat × List Byte)} (h : State.Within m s0 s) (hm : Has 0x500 m) :
    State.WithinRec m s0 (State.mk s.pending s.tick s.dt s.free s.regs s.hwSet s.hostSet s.force s.fbPend s.lastRead shmem s.arbLast hostWin s.engines s.axes s.banks s.fb s.po s.mot s.shaft s.mon s.funcs s.accepted s.hostOut s.fetchLast s.ownChanges s.doms s.time s.fdb s.ports s.txqs s.rx s.wireOut s.cans s.dios s.dio s.saf s.fo s.prof s.store s.pwr s.plugs s.thm) :=
  State.Within.upd h hm fun p hp => by cases p <;> first | rfl | exact ⟨rfl, rfl, rfl⟩ | cases hp

theorem State.WithinRec.shmem_saf {m : Nat} {s0 s : State} {shmem : Mem} {saf : Safety} (h : State.Within m s0 s) (hm : Has 0x400000100 m) :
    State.WithinRec m s0 (State.mk s.pending s.tick s.dt s.free s.regs s.hwSet s.hostSet s.force s.fbPend s.lastRead shmem s.arbLast s.hostWin s.engines s.axes s.banks s.fb s.po s.mot s.shaft s.mon s.funcs s.accepted s.hostOut s.fetchLast s.ownChanges s.doms s.time s.fdb s.ports s.txqs s.rx s.wireOut s.cans s.dios s.dio saf s.fo s.prof s.store s.pwr s.plugs s.thm) :=
  State.Within.upd h hm fun p hp => by cases p <;> first | rfl | exact ⟨rfl, rfl, rfl⟩ | cases hp

theorem State.WithinRec.shmem_shaft {m : Nat} {s0 s : State} {shmem : Mem} {shaft : Shaft} (h : State.Within m s0 s) (hm : Has 0x20100 m) :
    State.WithinRec m s0 (State.mk s.pending s.tick s.dt s.free s.regs s.hwSet s.hostSet s.force s.fbPend s.lastRead shmem s.arbLast s.hostWin s.engines s.axes s.banks s.fb s.po s.mot shaft s.mon s.funcs s.accepted s.hostOut s.fetchLast s.ownChanges s.doms s.time s.fdb s.ports s.txqs s.rx s.wireOut s.cans s.dios s.dio s.saf s.fo s.prof s.store s.pwr s.plugs s.thm) :=
  State.Within.upd h hm fun p hp => by cases p <;> first | rfl | exact ⟨rfl, rfl, rfl⟩ | cases hp

theorem State.WithinRec.store {m : Nat} {s0 s : State} {store : ImageStore} (h : State.Within m s0 s) (hm : Has 0x2000000000 m) :
    State.WithinRec m s0 (State.mk s.pending s.tick s.dt s.free s.regs s.hwSet s.hostSet s.force s.fbPend s.lastRead s.shmem s.arbLast s.hostWin s.engines s.axes s.banks s.fb s.po s.mot s.shaft s.mon s.funcs s.accepted s.hostOut s.fetchLast s.ownChanges s.doms s.time s.fdb s.ports s.txqs s.rx s.wireOut s.cans s.dios s.dio s.saf s.fo s.prof store s.pwr s.plugs s.thm) :=
  State.Within.upd h hm fun p hp => by cases p <;> first | rfl | exact ⟨rfl, rfl, rfl⟩ | cases hp

theorem State.WithinRec.thm {m : Nat} {s0 s : State} {thm : Thermal} (h : State.Within m s0 s) (hm : Has 0x10000000000 m) :
    State.WithinRec m s0 (State.mk s.pending s.tick s.dt s.free s.regs s.hwSet s.hostSet s.force s.fbPend s.lastRead s.shmem s.arbLast s.hostWin s.engines s.axes s.banks s.fb s.po s.mot s.shaft s.mon s.funcs s.accepted s.hostOut s.fetchLast s.ownChanges s.doms s.time s.fdb s.ports s.txqs s.rx s.wireOut s.cans s.dios s.dio s.saf s.fo s.prof s.store s.pwr s.plugs thm) :=
  State.Within.upd h hm fun p hp => by cases p <;> first | rfl | exact ⟨rfl, rfl, rfl⟩ | cases hp

theorem State.WithinRec.tick_dt_regs {m : Nat} {s0 s : State} {tick : Nat} {dt : BitVec 64} {regs : Sparse Word} {hwSet : List (Nat × Word)} {hostSet : List Nat} (h : State.Within m s0 s) (hm : Has 0x16 m) :
    State.WithinRec m s0 (State.mk s.pending tick dt s.free regs hwSet hostSet s.force s.fbPend s.lastRead s.shmem s.arbLast s.hostWin s.engines s.axes s.banks s.fb s.po s.mot s.shaft s.mon s.funcs s.accepted s.hostOut s.fetchLast s.ownChanges s.doms s.time s.fdb s.ports s.txqs s.rx s.wireOut s.cans s.dios s.dio s.saf s.fo s.prof s.store s.pwr s.plugs s.thm) :=
  State.Within.upd h hm fun p hp => by cases p <;> first | rfl | exact ⟨rfl, rfl, rfl⟩ | cases hp

theorem State.WithinRec.tick_dt_regs_time {m : Nat} {s0 s : State} {tick : Nat} {dt : BitVec 64} {regs : Sparse Word} {hwSet : List (Nat × Word)} {hostSet : List Nat} {time : TimeBase} (h : State.Within m s0 s) (hm : Has 0x2000016 m) :
    State.WithinRec m s0 (State.mk s.pending tick dt s.free regs hwSet hostSet s.force s.fbPend s.lastRead s.shmem s.arbLast s.hostWin s.engines s.axes s.banks s.fb s.po s.mot s.shaft s.mon s.funcs s.accepted s.hostOut s.fetchLast s.ownChanges s.doms time s.fdb s.ports s.txqs s.rx s.wireOut s.cans s.dios s.dio s.saf s.fo s.prof s.store s.pwr s.plugs s.thm) :=
  State.Within.upd h hm fun p hp => by cases p <;> first | rfl | exact ⟨rfl, rfl, rfl⟩ | cases hp

theorem State.WithinRec.tick_regs {m : Nat} {s0 s : State} {tick : Nat} {regs : Sparse Word} {hwSet : List (Nat × Word)} {hostSet : List Nat} (h : State.Within m s0 s) (hm : Has 0x12 m) :
    State.WithinRec m s0 (State.mk s.pending tick s.dt s.free regs hwSet hostSet s.force s.fbPend s.lastRead s.shmem s.arbLast s.hostWin s.engines s.axes s.banks s.fb s.po s.mot s.shaft s.mon s.funcs s.accepted s.hostOut s.fetchLast s.ownChanges s.doms s.time s.fdb s.ports s.txqs s.rx s.wireOut s.cans s.dios s.dio s.saf s.fo s.prof s.store s.pwr s.plugs s.thm) :=
  State.Within.upd h hm fun p hp => by cases p <;> first | rfl | exact ⟨rfl, rfl, rfl⟩ | cases hp

theorem State.WithinRec.time {m : Nat} {s0 s : State} {time : TimeBase} (h : State.Within m s0 s) (hm : Has 0x2000000 m) :
    State.WithinRec m s0 (State.mk s.pending s.tick s.dt s.free s.regs s.hwSet s.hostSet s.force s.fbPend s.lastRead s.shmem s.arbLast s.hostWin s.engines s.axes s.banks s.fb s.po s.mot s.shaft s.mon s.funcs s.accepted s.hostOut s.fetchLast s.ownChanges s.doms time s.fdb s.ports s.txqs s.rx s.wireOut s.cans s.dios s.dio s.saf s.fo s.prof s.store s.pwr s.plugs s.thm) :=
  State.Within.upd h hm fun p hp => by cases p <;> first | rfl | exact ⟨rfl, rfl, rfl⟩ | cases hp

theorem State.WithinRec.txqs {m : Nat} {s0 s : State} {txqs : Vector TxQueue 16} (h : State.Within m s0 s) (hm : Has 0x10000000 m) :
    State.WithinRec m s0 (State.mk s.pending s.tick s.dt s.free s.regs s.hwSet s.hostSet s.force s.fbPend s.lastRead s.shmem s.arbLast s.hostWin s.engines s.axes s.banks s.fb s.po s.mot s.shaft s.mon s.funcs s.accepted s.hostOut s.fetchLast s.ownChanges s.doms s.time s.fdb s.ports txqs s.rx s.wireOut s.cans s.dios s.dio s.saf s.fo s.prof s.store s.pwr s.plugs s.thm) :=
  State.Within.upd h hm fun p hp => by cases p <;> first | rfl | exact ⟨rfl, rfl, rfl⟩ | cases hp

theorem State.WithinRec.wireOut {m : Nat} {s0 s : State} {wireOut : List (PortId × EthFrame)} (h : State.Within m s0 s) (hm : Has 0x40000000 m) :
    State.WithinRec m s0 (State.mk s.pending s.tick s.dt s.free s.regs s.hwSet s.hostSet s.force s.fbPend s.lastRead s.shmem s.arbLast s.hostWin s.engines s.axes s.banks s.fb s.po s.mot s.shaft s.mon s.funcs s.accepted s.hostOut s.fetchLast s.ownChanges s.doms s.time s.fdb s.ports s.txqs s.rx wireOut s.cans s.dios s.dio s.saf s.fo s.prof s.store s.pwr s.plugs s.thm) :=
  State.Within.upd h hm fun p hp => by cases p <;> first | rfl | exact ⟨rfl, rfl, rfl⟩ | cases hp

theorem State.Within.setEng {m : Nat} {s0 s : State} {e : EngId} {x : Engine} (h : State.Within m s0 s) (hm : Has 0x800 m) :
    State.Within m s0 (s.setEng e x) := State.Within.upd h hm fun p hp => by cases p <;> first | rfl | exact ⟨rfl, rfl, rfl⟩ | cases hp

theorem State.Within.setAx {m : Nat} {s0 s : State} {n : AxId} {x : Axis} (h : State.Within m s0 s) (hm : Has 0x1000 m) :
    State.Within m s0 (s.setAx n x) := State.Within.upd h hm fun p hp => by cases p <;> first | rfl | exact ⟨rfl, rfl, rfl⟩ | cases hp

theorem State.Within.setBnk {m : Nat} {s0 s : State} {b : BankId} {x : Bank} (h : State.Within m s0 s) (hm : Has 0x2000 m) :
    State.Within m s0 (s.setBnk b x) := State.Within.upd h hm fun p hp => by cases p <;> first | rfl | exact ⟨rfl, rfl, rfl⟩ | cases hp

theorem State.Within.setFn {m : Nat} {s0 s : State} {f : FnId} {x : Func} (h : State.Within m s0 s) (hm : Has 0x80000 m) :
    State.Within m s0 (s.setFn f x) := State.Within.upd h hm fun p hp => by cases p <;> first | rfl | exact ⟨rfl, rfl, rfl⟩ | cases hp

theorem State.Within.setFbk {m : Nat} {s0 s : State} {n : AxId} {x : AxFb} (h : State.Within m s0 s) (hm : Has 0x4000 m) :
    State.Within m s0 (s.setFbk n x) := State.Within.upd h hm fun p hp => by cases p <;> first | rfl | exact ⟨rfl, rfl, rfl⟩ | cases hp

theorem State.Within.setMotion {m : Nat} {s0 s : State} {n : AxId} {x : AxMot} (h : State.Within m s0 s) (hm : Has 0x10000 m) :
    State.Within m s0 (s.setMotion n x) := State.Within.upd h hm fun p hp => by cases p <;> first | rfl | exact ⟨rfl, rfl, rfl⟩ | cases hp

theorem State.Within.setMoni {m : Nat} {s0 s : State} {n : AxId} {x : AxMon} (h : State.Within m s0 s) (hm : Has 0x40000 m) :
    State.Within m s0 (s.setMoni n x) := State.Within.upd h hm fun p hp => by cases p <;> first | rfl | exact ⟨rfl, rfl, rfl⟩ | cases hp

theorem State.Within.setFailover {m : Nat} {s0 s : State} {n : AxId} {x : AxFo} (h : State.Within m s0 s) (hm : Has 0x800000000 m) :
    State.Within m s0 (s.setFailover n x) := State.Within.upd h hm fun p hp => by cases p <;> first | rfl | exact ⟨rfl, rfl, rfl⟩ | cases hp

theorem State.Within.setPlug {m : Nat} {s0 s : State} {n : AxId} {x : Plug} (h : State.Within m s0 s) (hm : Has 0x8000000000 m) :
    State.Within m s0 (s.setPlug n x) := State.Within.upd h hm fun p hp => by cases p <;> first | rfl | exact ⟨rfl, rfl, rfl⟩ | cases hp

theorem State.Within.setRep {m : Nat} {s0 s : State} {k : PoId} {x : PulseRep} (h : State.Within m s0 s) (hm : Has 0x8000 m) :
    State.Within m s0 (s.setRep k x) := State.Within.upd h hm fun p hp => by cases p <;> first | rfl | exact ⟨rfl, rfl, rfl⟩ | cases hp

theorem State.Within.setCan {m : Nat} {s0 s : State} {c : CanId} {x : Can} (h : State.Within m s0 s) (hm : Has 0x80000000 m) :
    State.Within m s0 (s.setCan c x) := State.Within.upd h hm fun p hp => by cases p <;> first | rfl | exact ⟨rfl, rfl, rfl⟩ | cases hp

theorem State.Within.setChan {m : Nat} {s0 s : State} {d : DioId} {x : Dio} (h : State.Within m s0 s) (hm : Has 0x100000000 m) :
    State.Within m s0 (s.setChan d x) := State.Within.upd h hm fun p hp => by cases p <;> first | rfl | exact ⟨rfl, rfl, rfl⟩ | cases hp

theorem State.Within.setPort {m : Nat} {s0 s : State} {p : PortId} {x : LinePort} (h : State.Within m s0 s) (hm : Has 0x8000000 m) :
    State.Within m s0 (s.setPort p x) := State.Within.upd h hm fun p hp => by cases p <;> first | rfl | exact ⟨rfl, rfl, rfl⟩ | cases hp

theorem State.Within.setTxq {m : Nat} {s0 s : State} {q : TxqId} {x : TxQueue} (h : State.Within m s0 s) (hm : Has 0x10000000 m) :
    State.Within m s0 (s.setTxq q x) := State.Within.upd h hm fun p hp => by cases p <;> first | rfl | exact ⟨rfl, rfl, rfl⟩ | cases hp

theorem State.Within.setDom {m : Nat} {s0 s : State} {d : Fin 2} {x : TimeDom} (h : State.Within m s0 s) (hm : Has 0x1000000 m) :
    State.Within m s0 (s.setDom d x) := State.Within.upd h hm fun p hp => by cases p <;> first | rfl | exact ⟨rfl, rfl, rfl⟩ | cases hp

theorem State.Within.setWord {m : Nat} {s0 s : State} {r : Reg} {i j : Nat} {w : Word} (h : State.Within m s0 s) (hm : Has 0x10 m) :
    State.Within m s0 (s.setWord r i j w) := State.Within.upd h hm fun p hp => by cases p <;> first | rfl | exact ⟨rfl, rfl, rfl⟩ | cases hp

theorem State.Within.setFld {m : Nat} {s0 s : State} {f : Fld} {i v j : Nat} (h : State.Within m s0 s) (hm : Has 0x10 m) :
    State.Within m s0 (s.setFld f i v j) := State.Within.upd h hm fun p hp => by cases p <;> first | rfl | exact ⟨rfl, rfl, rfl⟩ | cases hp

theorem State.Within.setBit {m : Nat} {s0 s : State} {f : Fld} {i : Nat} {b : Bool} (h : State.Within m s0 s) (hm : Has 0x10 m) :
    State.Within m s0 (s.setBit f i b) := State.Within.upd h hm fun p hp => by cases p <;> first | rfl | exact ⟨rfl, rfl, rfl⟩ | cases hp

theorem State.Within.ite {m : Nat} {s0 : State} {c : Prop} [Decidable c] {a b : State} (ha : c → State.Within m s0 a)
    (hb : ¬c → State.Within m s0 b) : State.Within m s0 (if c then a else b) := by
  split
  · exact ha ‹_›
  · exact hb ‹_›

theorem State.Within.forAll {m : Nat} {s0 : State} {α : Type} {l : List α} {f : State → α → State} {s : State}
    (h : State.Within m s0 s) (hf : ∀ s a, State.Within m s0 s → State.Within m s0 (f s a)) :
    State.Within m s0 (Machine.forAll l f s) := by
  unfold Machine.forAll
  induction l generalizing s with
  | nil => exact h
  | cons a l ih => exact ih (hf s a h)

theorem State.Within.foldl {m : Nat} {s0 : State} {α : Type} {l : List α} {f : State → α → State} {s : State}
    (h : State.Within m s0 s) (hf : ∀ s a, State.Within m s0 s → State.Within m s0 (f s a)) :
    State.Within m s0 (l.foldl f s) := State.Within.forAll h hf

theorem State.Within.getD {m : Nat} {s0 : State} {o : Option State} {s : State} (h : State.Within m s0 s)
    (hf : ∀ t, o = some t → State.Within m s0 t) : State.Within m s0 (o.getD s) := by
  cases o with
  | none => exact h
  | some t => exact hf t rfl

theorem State.Within.of_fst_eq {m : Nat} {s0 : State} {α : Type} {p : State × α} {a : State} {b : α} (hp : p = (a, b))
    (h : State.Within m s0 p.1) : State.Within m s0 a := by
  subst hp; exact h

/-- An issue that is done has changed only parts of the set. -/
def Issue.In (m : Nat) (s0 : State) : Issue → Prop
  | .done s _ _ _ => State.Within m s0 s
  | _ => True

theorem Issue.in_done {m : Nat} {s0 s : State} {rs : List Res_} {n : Nat} {p : Option (BitVec 12)}
    (h : State.Within m s0 s) : (Issue.done s rs n p).In m s0 := h
theorem Issue.in_fault {m : Nat} {s0 : State} {c : EngFault} : (Issue.fault c).In m s0 := trivial
theorem Issue.in_impossible {m : Nat} {s0 : State} : Issue.impossible.In m s0 := trivial
theorem Issue.in_long {m : Nat} {s0 : State} {a : LongAcc} : (Issue.long a).In m s0 := trivial
theorem Issue.in_ite {m : Nat} {s0 : State} {c : Prop} [Decidable c] {a b : Issue} (ha : c → a.In m s0)
    (hb : ¬c → b.In m s0) : (if c then a else b).In m s0 := by
  split
  · exact ha ‹_›
  · exact hb ‹_›

end Sys2Proof.Machine
end

