-- ==== Sys2Proof/Laws/Frame/Ops.lean ====
section
/-! SUPPORT. What every operation and every meaning of Machine/Ops.lean may change. -/

namespace Sys2Proof.Machine

theorem State.Within.hwPut {pm : Nat} {s0 : State} {s : State} {f : Fld} {i v : Nat} (h : State.Within pm s0 s) (hm : Has 0x10 pm) : State.Within pm s0 (State.hwPut s f i v) := by
  unfold Sys2Proof.Machine.State.hwPut
  repeat' first
    | with_reducible assumption | with_reducible apply State.Within.setFld | with_reducible apply State.Within.ite
    | with_reducible intro _

theorem State.Within.countSat {pm : Nat} {s0 : State} {s : State} {f : Fld} {i : Nat} (h : State.Within pm s0 s) (hm : Has 0x10 pm) : State.Within pm s0 (State.countSat s f i) := by
  unfold Sys2Proof.Machine.State.countSat
  repeat' first
    | with_reducible assumption | with_reducible apply State.Within.setFld

theorem State.Within.whenUp {pm : Nat} {s0 : State} {s : State} {f : State → State} (h : State.Within pm s0 s) (hf : ∀ (x0 : State), State.Within pm s0 x0 → State.Within pm s0 (f x0)) : State.Within pm s0 (State.whenUp s f) := by
  unfold Sys2Proof.Machine.State.whenUp
  repeat' first
    | with_reducible assumption | with_reducible apply hf | with_reducible apply State.Within.ite | with_reducible intro _

theorem State.Within.setupGate {pm : Nat} {s0 : State} {s : State} {fn : FnId} {f : State → State} (h : State.Within pm s0 s) (hm : Has 0x10 pm) (hf : ∀ (x0 : State), State.Within pm s0 x0 → State.Within pm s0 (f x0)) : State.Within pm s0 (State.setupGate s fn f) := by
  unfold Sys2Proof.Machine.State.setupGate
  repeat' first
    | with_reducible assumption | with_reducible apply hf | with_reducible apply State.Within.setBit
    | with_reducible apply State.Within.ite | with_reducible intro _

theorem State.Within.showLog {pm : Nat} {s0 : State} {s : State} (h : State.Within pm s0 s) (hm : Has 0x10 pm) : State.Within pm s0 (State.showLog s) := by
  unfold Sys2Proof.Machine.State.showLog
  repeat' first
    | with_reducible assumption | with_reducible apply State.Within.setWord | with_reducible apply State.Within.foldl
    | with_reducible intro _

theorem State.Within.logFault {pm : Nat} {s0 : State} {s : State} {code src detail : Nat} (h : State.Within pm s0 s) (hm : Has 0x4000000010 pm) : State.Within pm s0 (State.logFault s code src detail) := by
  unfold Sys2Proof.Machine.State.logFault
  repeat' first
    | with_reducible assumption | (with_reducible refine Has.mono ‹Has _ _› ?_; decide)
    | with_reducible apply State.Within.showLog | with_reducible apply State.WithinRec.pwr | simp only [State.within_mk]

theorem State.Within.armPreload {pm : Nat} {s0 : State} {s : State} {n : AxId} {v : BitVec 48} (h : State.Within pm s0 s) (hm : Has 0x4000 pm) : State.Within pm s0 (State.armPreload s n v) := by
  unfold Sys2Proof.Machine.State.armPreload
  repeat' first
    | with_reducible assumption | with_reducible apply State.Within.setFbk

theorem State.Within.signalVec {pm : Nat} {s0 : State} {s : State} {fn : FnId} {v : Fin 16} (h : State.Within pm s0 s) (hm : Has 0x80000 pm) : State.Within pm s0 (State.signalVec s fn v) := by
  unfold Sys2Proof.Machine.State.signalVec
  repeat' first
    | with_reducible assumption | with_reducible apply State.Within.setFn

theorem State.Within.fstatChanged {pm : Nat} {s0 : State} {s : State} {fn : FnId} (h : State.Within pm s0 s) (hm : Has 0x80000 pm) : State.Within pm s0 (State.fstatChanged s fn) := by
  unfold Sys2Proof.Machine.State.fstatChanged
  repeat' first
    | with_reducible assumption | with_reducible apply State.Within.signalVec

theorem State.Within.queueEvent {pm : Nat} {s0 : State} {s : State} {fn : FnId} {r : EvRec} (h : State.Within pm s0 s) (hm : Has 0x80010 pm) : State.Within pm s0 (State.queueEvent s fn r) := by
  unfold Sys2Proof.Machine.State.queueEvent
  repeat' first
    | with_reducible assumption | (with_reducible refine Has.mono ‹Has _ _› ?_; decide)
    | with_reducible apply State.Within.setFn | with_reducible apply State.Within.countSat
    | with_reducible apply State.Within.fstatChanged | with_reducible apply State.Within.ite | with_reducible intro _

theorem State.Within.event {pm : Nat} {s0 : State} {s : State} {fn : FnId} {type src detail : Nat} {data : List Byte} (h : State.Within pm s0 s) (hm : Has 0x80010 pm) : State.Within pm s0 (State.event s fn type src detail data) := by
  unfold Sys2Proof.Machine.State.event
  repeat' first
    | with_reducible assumption | with_reducible apply State.Within.queueEvent

theorem State.Within.complete {pm : Nat} {s0 : State} {s : State} {src : CmdSrc} {c : CompCode} {reason : Nat} {flags : Nat} {data : List Byte} {dt : Nat} (h : State.Within pm s0 s) (hm : Has 0x80000 pm) : State.Within pm s0 (State.complete s src c reason flags data dt) := by
  unfold Sys2Proof.Machine.State.complete
  repeat' first
    | with_reducible assumption | with_reducible apply State.Within.setFn

end Sys2Proof.Machine
end

