-- ==== Sys2Proof/Laws/Frame/Legs.lean ====
section
/-! SUPPORT. What every operation and every meaning of Machine/Legs.lean may change. -/

namespace Sys2Proof.Machine

theorem State.Within.setLeg {pm : Nat} {s0 : State} {s : State} {n : AxId} {l : Leg} {x : LegHw} (h : State.Within pm s0 s) (hm : Has 0x1000 pm) : State.Within pm s0 (State.setLeg s n l x) := by
  unfold Sys2Proof.Machine.State.setLeg
  repeat' first
    | with_reducible assumption | with_reducible apply State.Within.setAx

theorem State.Within.putLeg {pm : Nat} {s0 : State} {s : State} {n : AxId} {l : Leg} {y : LegHw} (h : State.Within pm s0 s) (hm : Has 0x1000 pm) : State.Within pm s0 (State.putLeg s n l y) := by
  unfold Sys2Proof.Machine.State.putLeg
  repeat' first
    | with_reducible assumption | with_reducible apply State.Within.setLeg | with_reducible apply State.Within.setAx
    | with_reducible apply State.Within.ite | with_reducible intro _

theorem State.Within.turnOn {pm : Nat} {s0 : State} {s : State} {n : AxId} {l : Leg} (h : State.Within pm s0 s) (hm : Has 0x1000 pm) : State.Within pm s0 (State.turnOn s n l) := by
  unfold Sys2Proof.Machine.State.turnOn
  repeat' first
    | with_reducible assumption | with_reducible apply State.Within.setLeg | with_reducible apply State.Within.putLeg
    | with_reducible apply State.Within.ite | with_reducible intro _

theorem State.Within.turnOff {pm : Nat} {s0 : State} {s : State} {n : AxId} {l : Leg} (h : State.Within pm s0 s) (hm : Has 0x1000 pm) : State.Within pm s0 (State.turnOff s n l) := by
  unfold Sys2Proof.Machine.State.turnOff
  repeat' first
    | with_reducible assumption | with_reducible apply State.Within.putLeg | with_reducible apply State.Within.ite
    | with_reducible intro _ | split

theorem State.Within.driveLeg {pm : Nat} {s0 : State} {now : Nat} {n : AxId} {s : State} {l : Leg} (h : State.Within pm s0 s) (hm : Has 0x1000 pm) : State.Within pm s0 (State.driveLeg now n s l) := by
  unfold Sys2Proof.Machine.State.driveLeg
  repeat' first
    | with_reducible assumption | with_reducible apply State.Within.putLeg | with_reducible apply State.Within.turnOn
    | with_reducible apply State.Within.ite | with_reducible intro _ | simp only [] | split

theorem State.Within.driveLegs {pm : Nat} {s0 : State} {s : State} {n : AxId} {now : Nat} (h : State.Within pm s0 s) (hm : Has 0x1000 pm) : State.Within pm s0 (State.driveLegs s n now) := by
  unfold Sys2Proof.Machine.State.driveLegs
  repeat' first
    | with_reducible assumption | with_reducible apply State.Within.driveLeg | with_reducible apply State.Within.forAll
    | with_reducible intro _

theorem State.Within.dropStep {pm : Nat} {s0 : State} {s : State} {n : AxId} (h : State.Within pm s0 s) (hm : Has 0x10 pm) : State.Within pm s0 (State.dropStep s n) := by
  unfold Sys2Proof.Machine.State.dropStep
  repeat' first
    | with_reducible assumption | with_reducible apply State.Within.setWord | with_reducible apply State.Within.setBit
    | with_reducible apply State.Within.ite | with_reducible intro _

theorem State.Within.refreshAxis {pm : Nat} {s0 : State} {s : State} {n : AxId} (h : State.Within pm s0 s) (hm : Has 0x1010 pm) : State.Within pm s0 (State.refreshAxis s n) := by
  unfold Sys2Proof.Machine.State.refreshAxis
  repeat' first
    | with_reducible assumption | (with_reducible refine Has.mono ‹Has _ _› ?_; decide)
    | with_reducible apply State.Within.driveLegs | with_reducible apply State.Within.setAx
    | with_reducible apply State.Within.setFld | with_reducible apply State.Within.setBit
    | with_reducible apply State.Within.dropStep | with_reducible apply State.Within.ite | with_reducible intro _

end Sys2Proof.Machine
end

