-- ==== Sys2Proof/Laws/Frame/EngineOps.lean ====
section
/-! SUPPORT. What every operation and every meaning of Machine/EngineOps.lean may change. -/

namespace Sys2Proof.Machine

theorem State.Within.setEngState {pm : Nat} {s0 : State} {s : State} {e : EngId} {x : EngState} (h : State.Within pm s0 s) (hm : Has 0x10 pm) : State.Within pm s0 (State.setEngState s e x) := by
  unfold Sys2Proof.Machine.State.setEngState
  repeat' first
    | with_reducible assumption | with_reducible apply State.Within.setFld

theorem State.Within.engineFault {pm : Nat} {s0 : State} {s : State} {e : EngId} {c : EngFault} {pc : BitVec 12} (h : State.Within pm s0 s) (hm : Has 0x810 pm) : State.Within pm s0 (State.engineFault s e c pc) := by
  unfold Sys2Proof.Machine.State.engineFault
  repeat' first
    | with_reducible assumption | (with_reducible refine Has.mono ‹Has _ _› ?_; decide)
    | with_reducible apply State.Within.setFld | with_reducible apply State.Within.setBit
    | with_reducible apply State.Within.setEngState | with_reducible apply State.Within.setEng

theorem State.Within.endStep {pm : Nat} {s0 : State} {s : State} {e : EngId} {pc : BitVec 12} (h : State.Within pm s0 s) (hm : Has 0x810 pm) : State.Within pm s0 (State.endStep s e pc) := by
  unfold Sys2Proof.Machine.State.endStep
  repeat' first
    | with_reducible assumption | (with_reducible refine Has.mono ‹Has _ _› ?_; decide)
    | with_reducible apply State.Within.engineFault | with_reducible apply State.Within.setEng
    | with_reducible apply State.Within.ite | with_reducible intro _

theorem State.Within.steps {m : Nat} {s0 s : State} {e : EngId} {pc : BitVec 12} {n : Nat} (h : State.Within m s0 s) (hm : Has 0x810 m) :
    State.Within m s0 (State.steps s e pc n) := by
  induction n generalizing s with
  | zero => exact h
  | succ n ih =>
    unfold State.steps
    dsimp only
    split
    · exact ih (State.Within.endStep h hm)
    · exact State.Within.endStep h hm

theorem State.Within.finishSlot {pm : Nat} {s0 : State} {s : State} {e : EngId} (h : State.Within pm s0 s) (hm : Has 0x810 pm) : State.Within pm s0 (State.finishSlot s e) := by
  unfold Sys2Proof.Machine.State.finishSlot
  repeat' first
    | with_reducible assumption | with_reducible apply State.Within.steps

theorem State.Within.passSteps {pm : Nat} {s0 : State} {s : State} {e : EngId} {pc : BitVec 12} {n : Nat} {wait : Option (BitVec 12)} (h : State.Within pm s0 s) (hm : Has 0x810 pm) : State.Within pm s0 (State.passSteps s e pc n wait) := by
  unfold Sys2Proof.Machine.State.passSteps
  repeat' first
    | with_reducible assumption | (with_reducible refine Has.mono ‹Has _ _› ?_; decide)
    | with_reducible apply State.Within.setEng | with_reducible apply State.Within.steps | with_reducible apply State.Within.ite
    | with_reducible intro _

theorem State.Within.issue {m : Nat} {s0 s : State} {e : EngId} {f : State → Engine → Issue} (h : State.Within m s0 s) (hm : Has 0x810 m)
    (hf : ∀ (s : State) (x : Engine), State.Within m s0 s → (f s x).In m s0) : State.Within m s0 (State.issue s e f) := by
  unfold State.issue
  have h1 : State.Within m s0 (s.finishSlot e) := State.Within.finishSlot h (hm.mono (by decide))
  have ok := hf (s.finishSlot e) ((s.finishSlot e).eng e) h1
  revert h1 ok
  generalize s.finishSlot e = u
  intro h1 ok
  split
  · exact h
  · dsimp only
    split
    · exact State.Within.engineFault h1 (hm.mono (by decide))
    · split
      · exact h1
      · exact State.Within.engineFault h1 (hm.mono (by decide))
      · split
        · exact State.Within.engineFault h1 (hm.mono (by decide))
        · exact h1.setEng (hm.mono (by decide))
      · rename_i heq
        rw [heq] at ok
        replace ok : State.Within m s0 _ := ok
        split
        · exact State.Within.engineFault h1 (hm.mono (by decide))
        · exact State.Within.passSteps (State.Within.setEng ok (hm.mono (by decide))) (hm.mono (by decide))

theorem State.Within.issueRes {pm : Nat} {s0 : State} {s : State} {e : EngId} {f : EngBank → Bool → List Res_} (h : State.Within pm s0 s) (hm : Has 0x810 pm) : State.Within pm s0 (State.issueRes s e f) := by
  unfold Sys2Proof.Machine.State.issueRes
  repeat' first
    | with_reducible assumption | with_reducible apply State.Within.issue | with_reducible apply Issue.in_done
    | with_reducible intro _

theorem State.Within.commit {pm : Nat} {s0 : State} {s : State} {e : EngId} {tag : BitVec 16} (h : State.Within pm s0 s) (hm : Has 0x1010 pm) : State.Within pm s0 (State.commit s e tag) := by
  unfold Sys2Proof.Machine.State.commit
  repeat' first
    | with_reducible assumption | (with_reducible refine Has.mono ‹Has _ _› ?_; decide)
    | with_reducible apply State.Within.countSat | with_reducible apply State.Within.setAx
    | with_reducible apply State.Within.ite | with_reducible intro _

theorem State.Within.portStore {pm : Nat} {s0 : State} {s : State} {e : EngId} {o w v : Nat} (h : State.Within pm s0 s) (hm : Has 0x1810 pm) : State.Within pm s0 (State.portStore s e o w v) := by
  unfold Sys2Proof.Machine.State.portStore
  repeat' first
    | with_reducible assumption | (with_reducible refine Has.mono ‹Has _ _› ?_; decide)
    | with_reducible apply State.Within.setEng | with_reducible apply State.Within.commit
    | with_reducible apply State.Within.ite | with_reducible intro _

theorem State.Within.windowStore {pm : Nat} {s0 : State} {s : State} {n : AxId} {a w v : Nat} (h : State.Within pm s0 s) (hm : Has 0x5000 pm) : State.Within pm s0 (State.windowStore s n a w v) := by
  unfold Sys2Proof.Machine.State.windowStore
  repeat' first
    | with_reducible assumption | (with_reducible refine Has.mono ‹Has _ _› ?_; decide)
    | with_reducible apply State.Within.setAx | with_reducible apply State.Within.armPreload
    | with_reducible apply State.Within.ite | with_reducible intro _

theorem State.Within.localStore {pm : Nat} {s0 : State} {s : State} {e : EngId} {t : AccessTo} {w v : Nat} (h : State.Within pm s0 s) (hm : Has 0x5810 pm) : State.Within pm s0 (State.localStore s e t w v) := by
  unfold Sys2Proof.Machine.State.localStore
  repeat' first
    | with_reducible assumption | (with_reducible refine Has.mono ‹Has _ _› ?_; decide)
    | with_reducible apply State.Within.setEng | with_reducible apply State.Within.setBit
    | with_reducible apply State.Within.windowStore | with_reducible apply State.Within.portStore
    | with_reducible apply State.Within.ite | with_reducible intro _ | simp only [] | split

theorem State.Within.longStore {pm : Nat} {s0 : State} {s : State} {e : EngId} {t : LongTarget} {w v : Nat} (h : State.Within pm s0 s) (hm : Has 0x5110 pm) : State.Within pm s0 (State.longStore s e t w v) := by
  unfold Sys2Proof.Machine.State.longStore
  repeat' first
    | with_reducible assumption | (with_reducible refine Has.mono ‹Has _ _› ?_; decide)
    | with_reducible apply State.Within.windowStore | with_reducible apply State.Within.setBit
    | with_reducible apply State.Within.ite | with_reducible intro _ | with_reducible apply State.WithinRec.shmem
    | simp only [State.within_mk] | split

theorem State.Within.raiseEvent {pm : Nat} {s0 : State} {s : State} {e : EngId} {k : EvKind} {src : BitVec 16} {upd : PortBlock → PortBlock} (h : State.Within pm s0 s) (hm : Has 0x810 pm) : State.Within pm s0 (State.raiseEvent s e k src upd) := by
  unfold Sys2Proof.Machine.State.raiseEvent
  repeat' first
    | with_reducible assumption | (with_reducible refine Has.mono ‹Has _ _› ?_; decide)
    | with_reducible apply State.Within.setEng | with_reducible apply State.Within.countSat
    | with_reducible apply State.Within.ite | with_reducible intro _

theorem State.Within.raiseFor {pm : Nat} {s0 : State} {s : State} {n : AxId} {e : EngId} {k : EvKind} {src : BitVec 16} {upd : PortBlock → PortBlock} (h : State.Within pm s0 s) (hm : Has 0x810 pm) : State.Within pm s0 (State.raiseFor s n e k src upd) := by
  unfold Sys2Proof.Machine.State.raiseFor
  repeat' first
    | with_reducible assumption | (with_reducible refine Has.mono ‹Has _ _› ?_; decide)
    | with_reducible apply State.Within.setEng | with_reducible apply State.Within.raiseEvent
    | with_reducible apply State.Within.ite | with_reducible intro _

theorem State.Within.newPeriod {pm : Nat} {s0 : State} {s : State} {e : EngId} (h : State.Within pm s0 s) (hm : Has 0x810 pm) : State.Within pm s0 (State.newPeriod s e) := by
  unfold Sys2Proof.Machine.State.newPeriod
  repeat' first
    | with_reducible assumption | (with_reducible refine Has.mono ‹Has _ _› ?_; decide)
    | with_reducible apply State.Within.setEng | with_reducible apply State.Within.raiseEvent | simp only [] | split

end Sys2Proof.Machine
end

