-- ==== Sys2Proof/Laws/Frame/EngineIsa.lean ====
section
/-! SUPPORT. What every operation and every meaning of Machine/EngineIsa.lean may change. -/

namespace Sys2Proof.Machine

theorem State.Within.issueCtl {pm : Nat} {s0 : State} {s : State} {e : EngId} {f : State → Engine → Issue} (h : State.Within pm s0 s) (hm : Has 0x810 pm) (hf : ∀ (s : State) (x : Engine), State.Within pm s0 s → (f s x).In pm s0) : State.Within pm s0 (State.issueCtl s e f) := by
  unfold Sys2Proof.Machine.State.issueCtl
  repeat' first
    | with_reducible assumption | with_reducible apply hf | with_reducible apply State.Within.issue
    | with_reducible apply Issue.in_impossible | with_reducible apply Issue.in_ite | with_reducible intro _

theorem State.Within.execNop {e : EngId} {s : State} {out : State} (ht : execNop e s = .next out) : State.Within 0x810 s out := by
  have h : State.Within 0x810 s s := State.Within.refl
  have hm : Has 0x810 0x810 := Has.self
  cases ht
  repeat' first
    | with_reducible assumption | with_reducible apply State.Within.issueRes

theorem State.Within.execBr {e : EngId} {c : Fin 16} {target : BitVec 12} {s : State} {out : State} (ht : execBr e c target s = .next out) : State.Within 0x810 s out := by
  have h : State.Within 0x810 s s := State.Within.refl
  have hm : Has 0x810 0x810 := Has.self
  cases ht
  repeat' first
    | with_reducible assumption | with_reducible apply State.Within.issueCtl | with_reducible apply Issue.in_done
    | with_reducible apply Issue.in_fault | with_reducible apply Issue.in_ite | with_reducible intro _

theorem State.Within.execJal {e : EngId} {d : PReg} {target : BitVec 12} {s : State} {out : State} (ht : execJal e d target s = .next out) : State.Within 0x810 s out := by
  have h : State.Within 0x810 s s := State.Within.refl
  have hm : Has 0x810 0x810 := Has.self
  cases ht
  repeat' first
    | with_reducible assumption | with_reducible apply State.Within.issueCtl | with_reducible apply Issue.in_done
    | with_reducible intro _

theorem State.Within.execJr {e : EngId} {a : PReg} {s : State} {out : State} (ht : execJr e a s = .next out) : State.Within 0x810 s out := by
  have h : State.Within 0x810 s s := State.Within.refl
  have hm : Has 0x810 0x810 := Has.self
  cases ht
  repeat' first
    | with_reducible assumption | with_reducible apply State.Within.issueCtl | with_reducible apply Issue.in_done
    | with_reducible intro _

theorem State.Within.execBdec {e : EngId} {a : PReg} {target : BitVec 12} {s : State} {out : State} (ht : execBdec e a target s = .next out) : State.Within 0x810 s out := by
  have h : State.Within 0x810 s s := State.Within.refl
  have hm : Has 0x810 0x810 := Has.self
  cases ht
  repeat' first
    | with_reducible assumption | with_reducible apply State.Within.issueCtl | with_reducible apply Issue.in_done
    | with_reducible apply Issue.in_ite | with_reducible intro _

theorem State.Within.execRpt {e : EngId} {count : BitVec 8} {s : State} {out : State} (ht : execRpt e count s = .next out) : State.Within 0x810 s out := by
  have h : State.Within 0x810 s s := State.Within.refl
  have hm : Has 0x810 0x810 := Has.self
  cases ht
  repeat' first
    | with_reducible assumption | (with_reducible refine Has.mono ‹Has _ _› ?_; decide)
    | with_reducible apply State.Within.issueCtl | with_reducible apply State.Within.setEng | with_reducible apply Issue.in_done
    | with_reducible intro _

theorem State.Within.noteHwm {pm : Nat} {s0 : State} {s : State} {e : EngId} {k : EvKind} {n : Nat} (h : State.Within pm s0 s) (hm : Has 0x10 pm) : State.Within pm s0 (State.noteHwm s e k n) := by
  unfold Sys2Proof.Machine.State.noteHwm
  repeat' first
    | with_reducible assumption | with_reducible apply State.Within.setFld

theorem State.Within.afterRete {pm : Nat} {s0 : State} {s : State} {e : EngId} (h : State.Within pm s0 s) (hm : Has 0x810 pm) : State.Within pm s0 (State.afterRete s e) := by
  unfold Sys2Proof.Machine.State.afterRete
  repeat' first
    | with_reducible assumption | (with_reducible refine Has.mono ‹Has _ _› ?_; decide)
    | with_reducible apply State.Within.setEng | with_reducible apply State.Within.setBit | simp only [] | split

theorem State.Within.execRete {e : EngId} {s : State} {out : State} (ht : execRete e s = .next out) : State.Within 0x810 s out := by
  have h : State.Within 0x810 s s := State.Within.refl
  have hm : Has 0x810 0x810 := Has.self
  cases ht
  repeat' first
    | with_reducible assumption | (with_reducible refine Has.mono ‹Has _ _› ?_; decide)
    | with_reducible apply State.Within.engineFault | with_reducible apply State.Within.issueRes
    | with_reducible apply State.Within.endStep | with_reducible apply State.Within.setEng
    | with_reducible apply State.Within.noteHwm | with_reducible apply State.Within.afterRete
    | with_reducible apply State.Within.ite | with_reducible intro _ | simp only [] | split

theorem State.Within.execWait {e : EngId} {s : State} {out : State} (ht : execWait e s = .next out) : State.Within 0x810 s out := by
  have h : State.Within 0x810 s s := State.Within.refl
  have hm : Has 0x810 0x810 := Has.self
  cases ht
  repeat' first
    | with_reducible assumption | with_reducible apply State.Within.issueCtl | with_reducible apply Issue.in_done
    | with_reducible intro _

theorem State.Within.execMfsw {e : EngId} {d : HReg} {s : State} {out : State} (ht : execMfsw e d s = .next out) : State.Within 0x810 s out := by
  have h : State.Within 0x810 s s := State.Within.refl
  have hm : Has 0x810 0x810 := Has.self
  cases ht
  repeat' first
    | with_reducible assumption | with_reducible apply State.Within.issue | with_reducible apply Issue.in_done
    | with_reducible intro _

theorem State.Within.execMtsw {e : EngId} {a : HReg} {s : State} {out : State} (ht : execMtsw e a s = .next out) : State.Within 0x810 s out := by
  have h : State.Within 0x810 s s := State.Within.refl
  have hm : Has 0x810 0x810 := Has.self
  cases ht
  repeat' first
    | with_reducible assumption | with_reducible apply State.Within.issueRes

theorem State.Within.execSatm {e : EngId} {b : Bool} {s : State} {out : State} (ht : execSatm e b s = .next out) : State.Within 0x810 s out := by
  have h : State.Within 0x810 s s := State.Within.refl
  have hm : Has 0x810 0x810 := Has.self
  cases ht
  repeat' first
    | with_reducible assumption | with_reducible apply State.Within.issueRes

theorem State.Within.execMfs {e : EngId} {d : PReg} {sr : BitVec 5} {s : State} {out : State} (ht : execMfs e d sr s = .next out) : State.Within 0x810 s out := by
  have h : State.Within 0x810 s s := State.Within.refl
  have hm : Has 0x810 0x810 := Has.self
  cases ht
  repeat' first
    | with_reducible assumption | with_reducible apply State.Within.issue | with_reducible apply Issue.in_done
    | with_reducible apply Issue.in_fault | with_reducible apply Issue.in_ite | with_reducible intro _ | simp only [] | split

theorem State.Within.execMts {e : EngId} {sr : BitVec 5} {a : PReg} {s : State} {out : State} (ht : execMts e sr a s = .next out) : State.Within 0x810 s out := by
  have h : State.Within 0x810 s s := State.Within.refl
  have hm : Has 0x810 0x810 := Has.self
  cases ht
  repeat' first
    | with_reducible assumption | with_reducible apply State.Within.issue | with_reducible apply Issue.in_done
    | with_reducible apply Issue.in_fault | with_reducible apply Issue.in_ite | with_reducible intro _ | simp only [] | split

theorem State.Within.execAdd {e : EngId} {d a b : HReg} {s : State} {out : State} (ht : execAdd e d a b s = .next out) : State.Within 0x810 s out := by
  have h : State.Within 0x810 s s := State.Within.refl
  have hm : Has 0x810 0x810 := Has.self
  cases ht
  repeat' first
    | with_reducible assumption | with_reducible apply State.Within.issueRes

theorem State.Within.execSub {e : EngId} {d a b : HReg} {s : State} {out : State} (ht : execSub e d a b s = .next out) : State.Within 0x810 s out := by
  have h : State.Within 0x810 s s := State.Within.refl
  have hm : Has 0x810 0x810 := Has.self
  cases ht
  repeat' first
    | with_reducible assumption | with_reducible apply State.Within.issueRes

theorem State.Within.execMin {e : EngId} {d a b : HReg} {s : State} {out : State} (ht : execMin e d a b s = .next out) : State.Within 0x810 s out := by
  have h : State.Within 0x810 s s := State.Within.refl
  have hm : Has 0x810 0x810 := Has.self
  cases ht
  repeat' first
    | with_reducible assumption | with_reducible apply State.Within.issueRes

theorem State.Within.execMax {e : EngId} {d a b : HReg} {s : State} {out : State} (ht : execMax e d a b s = .next out) : State.Within 0x810 s out := by
  have h : State.Within 0x810 s s := State.Within.refl
  have hm : Has 0x810 0x810 := Has.self
  cases ht
  repeat' first
    | with_reducible assumption | with_reducible apply State.Within.issueRes

theorem State.Within.execAnd {e : EngId} {d a b : HReg} {s : State} {out : State} (ht : execAnd e d a b s = .next out) : State.Within 0x810 s out := by
  have h : State.Within 0x810 s s := State.Within.refl
  have hm : Has 0x810 0x810 := Has.self
  cases ht
  repeat' first
    | with_reducible assumption | with_reducible apply State.Within.issueRes

theorem State.Within.execOr {e : EngId} {d a b : HReg} {s : State} {out : State} (ht : execOr e d a b s = .next out) : State.Within 0x810 s out := by
  have h : State.Within 0x810 s s := State.Within.refl
  have hm : Has 0x810 0x810 := Has.self
  cases ht
  repeat' first
    | with_reducible assumption | with_reducible apply State.Within.issueRes

theorem State.Within.execXor {e : EngId} {d a b : HReg} {s : State} {out : State} (ht : execXor e d a b s = .next out) : State.Within 0x810 s out := by
  have h : State.Within 0x810 s s := State.Within.refl
  have hm : Has 0x810 0x810 := Has.self
  cases ht
  repeat' first
    | with_reducible assumption | with_reducible apply State.Within.issueRes

theorem State.Within.execAndn {e : EngId} {d a b : HReg} {s : State} {out : State} (ht : execAndn e d a b s = .next out) : State.Within 0x810 s out := by
  have h : State.Within 0x810 s s := State.Within.refl
  have hm : Has 0x810 0x810 := Has.self
  cases ht
  repeat' first
    | with_reducible assumption | with_reducible apply State.Within.issueRes

theorem State.Within.execMov {e : EngId} {d a : HReg} {s : State} {out : State} (ht : execMov e d a s = .next out) : State.Within 0x810 s out := by
  have h : State.Within 0x810 s s := State.Within.refl
  have hm : Has 0x810 0x810 := Has.self
  cases ht
  repeat' first
    | with_reducible assumption | with_reducible apply State.Within.issueRes

theorem State.Within.execNeg {e : EngId} {d a : HReg} {s : State} {out : State} (ht : execNeg e d a s = .next out) : State.Within 0x810 s out := by
  have h : State.Within 0x810 s s := State.Within.refl
  have hm : Has 0x810 0x810 := Has.self
  cases ht
  repeat' first
    | with_reducible assumption | with_reducible apply State.Within.issueRes

theorem State.Within.execAbs {e : EngId} {d a : HReg} {s : State} {out : State} (ht : execAbs e d a s = .next out) : State.Within 0x810 s out := by
  have h : State.Within 0x810 s s := State.Within.refl
  have hm : Has 0x810 0x810 := Has.self
  cases ht
  repeat' first
    | with_reducible assumption | with_reducible apply State.Within.issueRes

theorem State.Within.execNot {e : EngId} {d a : HReg} {s : State} {out : State} (ht : execNot e d a s = .next out) : State.Within 0x810 s out := by
  have h : State.Within 0x810 s s := State.Within.refl
  have hm : Has 0x810 0x810 := Has.self
  cases ht
  repeat' first
    | with_reducible assumption | with_reducible apply State.Within.issueRes

theorem State.Within.execAddi {e : EngId} {d a : HReg} {imm : BitVec 14} {s : State} {out : State} (ht : execAddi e d a imm s = .next out) : State.Within 0x810 s out := by
  have h : State.Within 0x810 s s := State.Within.refl
  have hm : Has 0x810 0x810 := Has.self
  cases ht
  repeat' first
    | with_reducible assumption | with_reducible apply State.Within.issueRes

theorem State.Within.execLih {e : EngId} {d : HReg} {imm : BitVec 16} {s : State} {out : State} (ht : execLih e d imm s = .next out) : State.Within 0x810 s out := by
  have h : State.Within 0x810 s s := State.Within.refl
  have hm : Has 0x810 0x810 := Has.self
  cases ht
  repeat' first
    | with_reducible assumption | with_reducible apply State.Within.issueRes

theorem State.Within.execShl {e : EngId} {d a : HReg} {n : ShiftAmt} {s : State} {out : State} (ht : execShl e d a n s = .next out) : State.Within 0x810 s out := by
  have h : State.Within 0x810 s s := State.Within.refl
  have hm : Has 0x810 0x810 := Has.self
  cases ht
  repeat' first
    | with_reducible assumption | with_reducible apply State.Within.issueRes

theorem State.Within.execAsr {e : EngId} {d a : HReg} {n : ShiftAmt} {s : State} {out : State} (ht : execAsr e d a n s = .next out) : State.Within 0x810 s out := by
  have h : State.Within 0x810 s s := State.Within.refl
  have hm : Has 0x810 0x810 := Has.self
  cases ht
  repeat' first
    | with_reducible assumption | with_reducible apply State.Within.issueRes

theorem State.Within.execLsr {e : EngId} {d a : HReg} {n : ShiftAmt} {s : State} {out : State} (ht : execLsr e d a n s = .next out) : State.Within 0x810 s out := by
  have h : State.Within 0x810 s s := State.Within.refl
  have hm : Has 0x810 0x810 := Has.self
  cases ht
  repeat' first
    | with_reducible assumption | with_reducible apply State.Within.issueRes

theorem State.Within.execCmp {e : EngId} {a b : HReg} {s : State} {out : State} (ht : execCmp e a b s = .next out) : State.Within 0x810 s out := by
  have h : State.Within 0x810 s s := State.Within.refl
  have hm : Has 0x810 0x810 := Has.self
  cases ht
  repeat' first
    | with_reducible assumption | with_reducible apply State.Within.issueRes

theorem State.Within.execCmpi {e : EngId} {a : HReg} {imm : BitVec 14} {s : State} {out : State} (ht : execCmpi e a imm s = .next out) : State.Within 0x810 s out := by
  have h : State.Within 0x810 s s := State.Within.refl
  have hm : Has 0x810 0x810 := Has.self
  cases ht
  repeat' first
    | with_reducible assumption | with_reducible apply State.Within.issueRes

theorem State.Within.execNorm {e : EngId} {d a : HReg} {s : State} {out : State} (ht : execNorm e d a s = .next out) : State.Within 0x810 s out := by
  have h : State.Within 0x810 s s := State.Within.refl
  have hm : Has 0x810 0x810 := Has.self
  cases ht
  repeat' first
    | with_reducible assumption | with_reducible apply State.Within.issue | with_reducible apply Issue.in_done
    | with_reducible apply Issue.in_fault | with_reducible apply Issue.in_ite | with_reducible intro _

theorem State.Within.execNorma {e : EngId} {d : HReg} {a : AReg} {s : State} {out : State} (ht : execNorma e d a s = .next out) : State.Within 0x810 s out := by
  have h : State.Within 0x810 s s := State.Within.refl
  have hm : Has 0x810 0x810 := Has.self
  cases ht
  repeat' first
    | with_reducible assumption | with_reducible apply State.Within.issueRes

theorem State.Within.execMpy {e : EngId} {d a b : HReg} {s : State} {out : State} (ht : execMpy e d a b s = .next out) : State.Within 0x810 s out := by
  have h : State.Within 0x810 s s := State.Within.refl
  have hm : Has 0x810 0x810 := Has.self
  cases ht
  repeat' first
    | with_reducible assumption | with_reducible apply State.Within.issueRes

theorem State.Within.execMac {e : EngId} {d : AReg} {a b : HReg} {s : State} {out : State} (ht : execMac e d a b s = .next out) : State.Within 0x810 s out := by
  have h : State.Within 0x810 s s := State.Within.refl
  have hm : Has 0x810 0x810 := Has.self
  cases ht
  repeat' first
    | with_reducible assumption | with_reducible apply State.Within.issueRes

theorem State.Within.execMsu {e : EngId} {d : AReg} {a b : HReg} {s : State} {out : State} (ht : execMsu e d a b s = .next out) : State.Within 0x810 s out := by
  have h : State.Within 0x810 s s := State.Within.refl
  have hm : Has 0x810 0x810 := Has.self
  cases ht
  repeat' first
    | with_reducible assumption | with_reducible apply State.Within.issueRes

theorem State.Within.execMpya {e : EngId} {d : AReg} {a b : HReg} {s : State} {out : State} (ht : execMpya e d a b s = .next out) : State.Within 0x810 s out := by
  have h : State.Within 0x810 s s := State.Within.refl
  have hm : Has 0x810 0x810 := Has.self
  cases ht
  repeat' first
    | with_reducible assumption | with_reducible apply State.Within.issueRes

theorem State.Within.memMac {pm : Nat} {s0 : State} {sub : Bool} {e : EngId} {d : AReg} {a b : PReg} {pair : Bool} {s : State} (h : State.Within pm s0 s) (hm : Has 0x810 pm) : State.Within pm s0 (memMac sub e d a b pair s) := by
  unfold Sys2Proof.Machine.memMac
  repeat' first
    | with_reducible assumption | with_reducible apply State.Within.issue | with_reducible apply Issue.in_done
    | with_reducible apply Issue.in_fault | with_reducible intro _ | simp only [] | split

theorem State.Within.execMacm {e : EngId} {d : AReg} {a b : PReg} {pair : Bool} {s : State} {out : State} (ht : execMacm e d a b pair s = .next out) : State.Within 0x810 s out := by
  have h : State.Within 0x810 s s := State.Within.refl
  have hm : Has 0x810 0x810 := Has.self
  cases ht
  repeat' first
    | with_reducible assumption | with_reducible apply State.Within.memMac

theorem State.Within.execMsum {e : EngId} {d : AReg} {a b : PReg} {pair : Bool} {s : State} {out : State} (ht : execMsum e d a b pair s = .next out) : State.Within 0x810 s out := by
  have h : State.Within 0x810 s s := State.Within.refl
  have hm : Has 0x810 0x810 := Has.self
  cases ht
  repeat' first
    | with_reducible assumption | with_reducible apply State.Within.issue | with_reducible apply State.Within.memMac
    | with_reducible apply State.Within.ite | with_reducible apply Issue.in_fault | with_reducible intro _

theorem State.Within.execAdda {e : EngId} {d a b : AReg} {s : State} {out : State} (ht : execAdda e d a b s = .next out) : State.Within 0x810 s out := by
  have h : State.Within 0x810 s s := State.Within.refl
  have hm : Has 0x810 0x810 := Has.self
  cases ht
  repeat' first
    | with_reducible assumption | with_reducible apply State.Within.issueRes

theorem State.Within.execSuba {e : EngId} {d a b : AReg} {s : State} {out : State} (ht : execSuba e d a b s = .next out) : State.Within 0x810 s out := by
  have h : State.Within 0x810 s s := State.Within.refl
  have hm : Has 0x810 0x810 := Has.self
  cases ht
  repeat' first
    | with_reducible assumption | with_reducible apply State.Within.issueRes

theorem State.Within.execMova {e : EngId} {d a : AReg} {s : State} {out : State} (ht : execMova e d a s = .next out) : State.Within 0x810 s out := by
  have h : State.Within 0x810 s s := State.Within.refl
  have hm : Has 0x810 0x810 := Has.self
  cases ht
  repeat' first
    | with_reducible assumption | with_reducible apply State.Within.issueRes

theorem State.Within.execLdah {e : EngId} {d : AReg} {a : HReg} {s : State} {out : State} (ht : execLdah e d a s = .next out) : State.Within 0x810 s out := by
  have h : State.Within 0x810 s s := State.Within.refl
  have hm : Has 0x810 0x810 := Has.self
  cases ht
  repeat' first
    | with_reducible assumption | with_reducible apply State.Within.issueRes

theorem State.Within.execClra {e : EngId} {d : AReg} {s : State} {out : State} (ht : execClra e d s = .next out) : State.Within 0x810 s out := by
  have h : State.Within 0x810 s s := State.Within.refl
  have hm : Has 0x810 0x810 := Has.self
  cases ht
  repeat' first
    | with_reducible assumption | with_reducible apply State.Within.issueRes

theorem State.Within.execNega {e : EngId} {d a : AReg} {s : State} {out : State} (ht : execNega e d a s = .next out) : State.Within 0x810 s out := by
  have h : State.Within 0x810 s s := State.Within.refl
  have hm : Has 0x810 0x810 := Has.self
  cases ht
  repeat' first
    | with_reducible assumption | with_reducible apply State.Within.issueRes

theorem State.Within.execAbsa {e : EngId} {d a : AReg} {s : State} {out : State} (ht : execAbsa e d a s = .next out) : State.Within 0x810 s out := by
  have h : State.Within 0x810 s s := State.Within.refl
  have hm : Has 0x810 0x810 := Has.self
  cases ht
  repeat' first
    | with_reducible assumption | with_reducible apply State.Within.issueRes

theorem State.Within.execSha {e : EngId} {d a : AReg} {sh : BitVec 6} {s : State} {out : State} (ht : execSha e d a sh s = .next out) : State.Within 0x810 s out := by
  have h : State.Within 0x810 s s := State.Within.refl
  have hm : Has 0x810 0x810 := Has.self
  cases ht
  repeat' first
    | with_reducible assumption | with_reducible apply State.Within.issueRes

theorem State.Within.execExth {e : EngId} {d : HReg} {a : AReg} {sh : BitVec 5} {s : State} {out : State} (ht : execExth e d a sh s = .next out) : State.Within 0x810 s out := by
  have h : State.Within 0x810 s s := State.Within.refl
  have hm : Has 0x810 0x810 := Has.self
  cases ht
  repeat' first
    | with_reducible assumption | with_reducible apply State.Within.issueRes

theorem State.Within.execCmpa {e : EngId} {a b : AReg} {s : State} {out : State} (ht : execCmpa e a b s = .next out) : State.Within 0x810 s out := by
  have h : State.Within 0x810 s s := State.Within.refl
  have hm : Has 0x810 0x810 := Has.self
  cases ht
  repeat' first
    | with_reducible assumption | with_reducible apply State.Within.issueRes

theorem State.Within.execMovph {e : EngId} {d : PReg} {a : HReg} {s : State} {out : State} (ht : execMovph e d a s = .next out) : State.Within 0x810 s out := by
  have h : State.Within 0x810 s s := State.Within.refl
  have hm : Has 0x810 0x810 := Has.self
  cases ht
  repeat' first
    | with_reducible assumption | with_reducible apply State.Within.issueRes

theorem State.Within.execMovhp {e : EngId} {d : HReg} {a : PReg} {s : State} {out : State} (ht : execMovhp e d a s = .next out) : State.Within 0x810 s out := by
  have h : State.Within 0x810 s s := State.Within.refl
  have hm : Has 0x810 0x810 := Has.self
  cases ht
  repeat' first
    | with_reducible assumption | with_reducible apply State.Within.issueRes

theorem State.Within.execPadd {e : EngId} {d a : PReg} {c : Bool} {off : BitVec 13} {s : State} {out : State} (ht : execPadd e d a c off s = .next out) : State.Within 0x810 s out := by
  have h : State.Within 0x810 s s := State.Within.refl
  have hm : Has 0x810 0x810 := Has.self
  cases ht
  repeat' first
    | with_reducible assumption | with_reducible apply State.Within.issue | with_reducible apply Issue.in_done
    | with_reducible intro _

theorem State.Within.execPli {e : EngId} {d : PReg} {imm : BitVec 16} {s : State} {out : State} (ht : execPli e d imm s = .next out) : State.Within 0x810 s out := by
  have h : State.Within 0x810 s s := State.Within.refl
  have hm : Has 0x810 0x810 := Has.self
  cases ht
  repeat' first
    | with_reducible assumption | with_reducible apply State.Within.issueRes

theorem State.Within.execCmpp {e : EngId} {a b : PReg} {s : State} {out : State} (ht : execCmpp e a b s = .next out) : State.Within 0x810 s out := by
  have h : State.Within 0x810 s s := State.Within.refl
  have hm : Has 0x810 0x810 := Has.self
  cases ht
  repeat' first
    | with_reducible assumption | with_reducible apply State.Within.issueRes

theorem State.Within.execFadd {e : EngId} {d a b : FReg} {s : State} {out : State} (ht : execFadd e d a b s = .next out) : State.Within 0x810 s out := by
  have h : State.Within 0x810 s s := State.Within.refl
  have hm : Has 0x810 0x810 := Has.self
  cases ht
  repeat' first
    | with_reducible assumption | with_reducible apply State.Within.issueRes

theorem State.Within.execFsub {e : EngId} {d a b : FReg} {s : State} {out : State} (ht : execFsub e d a b s = .next out) : State.Within 0x810 s out := by
  have h : State.Within 0x810 s s := State.Within.refl
  have hm : Has 0x810 0x810 := Has.self
  cases ht
  repeat' first
    | with_reducible assumption | with_reducible apply State.Within.issueRes

theorem State.Within.execFmul {e : EngId} {d a b : FReg} {s : State} {out : State} (ht : execFmul e d a b s = .next out) : State.Within 0x810 s out := by
  have h : State.Within 0x810 s s := State.Within.refl
  have hm : Has 0x810 0x810 := Has.self
  cases ht
  repeat' first
    | with_reducible assumption | with_reducible apply State.Within.issueRes

theorem State.Within.execFmac {e : EngId} {d a b : FReg} {s : State} {out : State} (ht : execFmac e d a b s = .next out) : State.Within 0x810 s out := by
  have h : State.Within 0x810 s s := State.Within.refl
  have hm : Has 0x810 0x810 := Has.self
  cases ht
  repeat' first
    | with_reducible assumption | with_reducible apply State.Within.issueRes

theorem State.Within.execFmsu {e : EngId} {d a b : FReg} {s : State} {out : State} (ht : execFmsu e d a b s = .next out) : State.Within 0x810 s out := by
  have h : State.Within 0x810 s s := State.Within.refl
  have hm : Has 0x810 0x810 := Has.self
  cases ht
  repeat' first
    | with_reducible assumption | with_reducible apply State.Within.issueRes

theorem State.Within.execFmov {e : EngId} {d a : FReg} {s : State} {out : State} (ht : execFmov e d a s = .next out) : State.Within 0x810 s out := by
  have h : State.Within 0x810 s s := State.Within.refl
  have hm : Has 0x810 0x810 := Has.self
  cases ht
  repeat' first
    | with_reducible assumption | with_reducible apply State.Within.issueRes

theorem State.Within.execFneg {e : EngId} {d a : FReg} {s : State} {out : State} (ht : execFneg e d a s = .next out) : State.Within 0x810 s out := by
  have h : State.Within 0x810 s s := State.Within.refl
  have hm : Has 0x810 0x810 := Has.self
  cases ht
  repeat' first
    | with_reducible assumption | with_reducible apply State.Within.issueRes

theorem State.Within.execFabs {e : EngId} {d a : FReg} {s : State} {out : State} (ht : execFabs e d a s = .next out) : State.Within 0x810 s out := by
  have h : State.Within 0x810 s s := State.Within.refl
  have hm : Has 0x810 0x810 := Has.self
  cases ht
  repeat' first
    | with_reducible assumption | with_reducible apply State.Within.issueRes

theorem State.Within.execFmin {e : EngId} {d a b : FReg} {s : State} {out : State} (ht : execFmin e d a b s = .next out) : State.Within 0x810 s out := by
  have h : State.Within 0x810 s s := State.Within.refl
  have hm : Has 0x810 0x810 := Has.self
  cases ht
  repeat' first
    | with_reducible assumption | with_reducible apply State.Within.issueRes

theorem State.Within.execFmax {e : EngId} {d a b : FReg} {s : State} {out : State} (ht : execFmax e d a b s = .next out) : State.Within 0x810 s out := by
  have h : State.Within 0x810 s s := State.Within.refl
  have hm : Has 0x810 0x810 := Has.self
  cases ht
  repeat' first
    | with_reducible assumption | with_reducible apply State.Within.issueRes

theorem State.Within.execFscl {e : EngId} {d a : FReg} {b : HReg} {s : State} {out : State} (ht : execFscl e d a b s = .next out) : State.Within 0x810 s out := by
  have h : State.Within 0x810 s s := State.Within.refl
  have hm : Has 0x810 0x810 := Has.self
  cases ht
  repeat' first
    | with_reducible assumption | with_reducible apply State.Within.issueRes

theorem State.Within.execFrcp {e : EngId} {d a : FReg} {s : State} {out : State} (ht : execFrcp e d a s = .next out) : State.Within 0x810 s out := by
  have h : State.Within 0x810 s s := State.Within.refl
  have hm : Has 0x810 0x810 := Has.self
  cases ht
  repeat' first
    | with_reducible assumption | with_reducible apply State.Within.issueRes

theorem State.Within.execFrsq {e : EngId} {d a : FReg} {s : State} {out : State} (ht : execFrsq e d a s = .next out) : State.Within 0x810 s out := by
  have h : State.Within 0x810 s s := State.Within.refl
  have hm : Has 0x810 0x810 := Has.self
  cases ht
  repeat' first
    | with_reducible assumption | with_reducible apply State.Within.issueRes

theorem State.Within.execExp {e : EngId} {d : HReg} {a : FReg} {s : State} {out : State} (ht : execExp e d a s = .next out) : State.Within 0x810 s out := by
  have h : State.Within 0x810 s s := State.Within.refl
  have hm : Has 0x810 0x810 := Has.self
  cases ht
  repeat' first
    | with_reducible assumption | with_reducible apply State.Within.issueRes

theorem State.Within.execCvt {e : EngId} {d a : Fin 16} {form : BitVec 4} {s : State} {out : State} (ht : execCvt e d a form s = .next out) : State.Within 0x810 s out := by
  have h : State.Within 0x810 s s := State.Within.refl
  have hm : Has 0x810 0x810 := Has.self
  cases ht
  repeat' first
    | with_reducible assumption | with_reducible apply State.Within.issue | with_reducible apply Issue.in_done
    | with_reducible apply Issue.in_fault | with_reducible intro _ | simp only [] | split

theorem State.Within.execFcmp {e : EngId} {a b : FReg} {s : State} {out : State} (ht : execFcmp e a b s = .next out) : State.Within 0x810 s out := by
  have h : State.Within 0x810 s s := State.Within.refl
  have hm : Has 0x810 0x810 := Has.self
  cases ht
  repeat' first
    | with_reducible assumption | with_reducible apply State.Within.issueRes

theorem State.Within.execFli {e : EngId} {d : FReg} {imm : BitVec 22} {s : State} {out : State} (ht : execFli e d imm s = .next out) : State.Within 0x810 s out := by
  have h : State.Within 0x810 s s := State.Within.refl
  have hm : Has 0x810 0x810 := Has.self
  cases ht
  repeat' first
    | with_reducible assumption | with_reducible apply State.Within.issueRes

theorem State.Within.loadIns {pm : Nat} {s0 : State} {s : State} {e : EngId} {m : MemArg} {w : Nat} {k : LongKind} {mk : Nat → EngDest} (h : State.Within pm s0 s) (hm : Has 0x810 pm) : State.Within pm s0 (State.loadIns s e m w k mk) := by
  unfold Sys2Proof.Machine.State.loadIns
  repeat' first
    | with_reducible assumption | with_reducible apply State.Within.issue | with_reducible apply Issue.in_done
    | with_reducible apply Issue.in_fault | with_reducible apply Issue.in_long | with_reducible intro _ | simp only [] | split

theorem State.Within.storeIns {pm : Nat} {s0 : State} {s : State} {e : EngId} {m : MemArg} {w : Nat} {v : EngBank → Nat} (h : State.Within pm s0 s) (hm : Has 0x5810 pm) : State.Within pm s0 (State.storeIns s e m w v) := by
  unfold Sys2Proof.Machine.State.storeIns
  repeat' first
    | with_reducible assumption | (with_reducible refine Has.mono ‹Has _ _› ?_; decide)
    | with_reducible apply State.Within.issue | with_reducible apply State.Within.localStore
    | with_reducible apply Issue.in_done | with_reducible apply Issue.in_fault | with_reducible apply Issue.in_long
    | with_reducible intro _ | simp only [] | split

theorem State.Within.execLdh {e : EngId} {d : HReg} {m : MemArg} {s : State} {out : State} (ht : execLdh e d m s = .next out) : State.Within 0x810 s out := by
  have h : State.Within 0x810 s s := State.Within.refl
  have hm : Has 0x810 0x810 := Has.self
  cases ht
  repeat' first
    | with_reducible assumption | with_reducible apply State.Within.loadIns

theorem State.Within.execLdp {e : EngId} {d : PReg} {m : MemArg} {s : State} {out : State} (ht : execLdp e d m s = .next out) : State.Within 0x810 s out := by
  have h : State.Within 0x810 s s := State.Within.refl
  have hm : Has 0x810 0x810 := Has.self
  cases ht
  repeat' first
    | with_reducible assumption | with_reducible apply State.Within.loadIns

theorem State.Within.execLdf {e : EngId} {d : FReg} {m : MemArg} {s : State} {out : State} (ht : execLdf e d m s = .next out) : State.Within 0x810 s out := by
  have h : State.Within 0x810 s s := State.Within.refl
  have hm : Has 0x810 0x810 := Has.self
  cases ht
  repeat' first
    | with_reducible assumption | with_reducible apply State.Within.loadIns

theorem State.Within.execLda {e : EngId} {d : AReg} {m : MemArg} {s : State} {out : State} (ht : execLda e d m s = .next out) : State.Within 0x810 s out := by
  have h : State.Within 0x810 s s := State.Within.refl
  have hm : Has 0x810 0x810 := Has.self
  cases ht
  repeat' first
    | with_reducible assumption | with_reducible apply State.Within.loadIns

theorem State.Within.execSth {e : EngId} {b : HReg} {m : MemArg} {s : State} {out : State} (ht : execSth e b m s = .next out) : State.Within 0x5810 s out := by
  have h : State.Within 0x5810 s s := State.Within.refl
  have hm : Has 0x5810 0x5810 := Has.self
  cases ht
  repeat' first
    | with_reducible assumption | with_reducible apply State.Within.storeIns

theorem State.Within.execStp {e : EngId} {b : PReg} {m : MemArg} {s : State} {out : State} (ht : execStp e b m s = .next out) : State.Within 0x5810 s out := by
  have h : State.Within 0x5810 s s := State.Within.refl
  have hm : Has 0x5810 0x5810 := Has.self
  cases ht
  repeat' first
    | with_reducible assumption | with_reducible apply State.Within.storeIns

theorem State.Within.execStf {e : EngId} {b : FReg} {m : MemArg} {s : State} {out : State} (ht : execStf e b m s = .next out) : State.Within 0x5810 s out := by
  have h : State.Within 0x5810 s s := State.Within.refl
  have hm : Has 0x5810 0x5810 := Has.self
  cases ht
  repeat' first
    | with_reducible assumption | with_reducible apply State.Within.storeIns

theorem State.Within.execSta {e : EngId} {b : AReg} {m : MemArg} {s : State} {out : State} (ht : execSta e b m s = .next out) : State.Within 0x5810 s out := by
  have h : State.Within 0x5810 s s := State.Within.refl
  have hm : Has 0x5810 0x5810 := Has.self
  cases ht
  repeat' first
    | with_reducible assumption | with_reducible apply State.Within.storeIns

end Sys2Proof.Machine
end

