-- ==== Sys2Proof/Laws/Frame/AxisOps.lean ====
section
/-! SUPPORT. What every operation and every meaning of Machine/AxisOps.lean may change. -/

namespace Sys2Proof.Machine

theorem State.Within.faultEvent {pm : Nat} {s0 : State} {s : State} {n : AxId} {bit : Nat} (h : State.Within pm s0 s) (hm : Has 0x810 pm) : State.Within pm s0 (State.faultEvent s n bit) := by
  unfold Sys2Proof.Machine.State.faultEvent
  repeat' first
    | with_reducible assumption | with_reducible apply State.Within.raiseFor | with_reducible apply State.Within.ite
    | with_reducible apply State.Within.forAll | with_reducible intro _

theorem State.Within.deliver {pm : Nat} {s0 : State} {s : State} {src : CmdSrc} {cmd : HostCmd} {f : State → Nat → State} (h : State.Within pm s0 s) (hm : Has 0x100000 pm) (hf : ∀ (x0 : State) (x1 : Nat), State.Within pm s0 x0 → State.Within pm s0 (f x0 x1)) : State.Within pm s0 (State.deliver s src cmd f) := by
  unfold Sys2Proof.Machine.State.deliver
  repeat' first
    | with_reducible assumption | with_reducible apply hf | with_reducible apply State.Within.ite | with_reducible intro _
    | with_reducible apply State.WithinRec.accepted | simp only [State.within_mk] | split

theorem State.Within.doneAxis {pm : Nat} {s0 : State} {s : State} {src : CmdSrc} {n : AxId} {d : Nat} {flags : Nat} (h : State.Within pm s0 s) (hm : Has 0x80000 pm) : State.Within pm s0 (State.doneAxis s src n d flags) := by
  unfold Sys2Proof.Machine.State.doneAxis
  repeat' first
    | with_reducible assumption | with_reducible apply State.Within.complete

theorem State.Within.cancelAxis {pm : Nat} {s0 : State} {s : State} {src : CmdSrc} {n : AxId} {d : Nat} (h : State.Within pm s0 s) (hm : Has 0x80000 pm) : State.Within pm s0 (State.cancelAxis s src n d) := by
  unfold Sys2Proof.Machine.State.cancelAxis
  repeat' first
    | with_reducible assumption | with_reducible apply State.Within.complete

theorem State.Within.stateRecord {pm : Nat} {s0 : State} {s : State} {n : AxId} {st : AxState} {cause : Nat} (h : State.Within pm s0 s) (hm : Has 0x80010 pm) : State.Within pm s0 (State.stateRecord s n st cause) := by
  unfold Sys2Proof.Machine.State.stateRecord
  repeat' first
    | with_reducible assumption | with_reducible apply State.Within.event | with_reducible apply State.Within.ite
    | with_reducible intro _

theorem State.Within.putAxState {pm : Nat} {s0 : State} {s : State} {n : AxId} {st : AxState} {cause : Nat} (h : State.Within pm s0 s) (hm : Has 0x81010 pm) : State.Within pm s0 (State.putAxState s n st cause) := by
  unfold Sys2Proof.Machine.State.putAxState
  repeat' first
    | with_reducible assumption | (with_reducible refine Has.mono ‹Has _ _› ?_; decide)
    | with_reducible apply State.Within.setFld | with_reducible apply State.Within.setAx
    | with_reducible apply State.Within.stateRecord | with_reducible apply State.Within.refreshAxis

theorem State.Within.refreshCams {pm : Nat} {s0 : State} {s : State} (h : State.Within pm s0 s) (hm : Has 0x10 pm) : State.Within pm s0 (State.refreshCams s) := by
  unfold Sys2Proof.Machine.State.refreshCams
  repeat' first
    | with_reducible assumption | with_reducible apply State.Within.setFld

theorem State.Within.setQueue {pm : Nat} {s0 : State} {s : State} {n : AxId} {q : List QMove} (h : State.Within pm s0 s) (hm : Has 0x10010 pm) : State.Within pm s0 (State.setQueue s n q) := by
  unfold Sys2Proof.Machine.State.setQueue
  repeat' first
    | with_reducible assumption | (with_reducible refine Has.mono ‹Has _ _› ?_; decide)
    | with_reducible apply State.Within.setMotion | with_reducible apply State.Within.setFld
    | with_reducible apply State.Within.refreshCams

theorem State.Within.emptyQueue {pm : Nat} {s0 : State} {s : State} {n : AxId} {c : CompCode} {reason : Nat} (h : State.Within pm s0 s) (hm : Has 0x90010 pm) : State.Within pm s0 (State.emptyQueue s n c reason) := by
  unfold Sys2Proof.Machine.State.emptyQueue
  repeat' first
    | with_reducible assumption | (with_reducible refine Has.mono ‹Has _ _› ?_; decide)
    | with_reducible apply State.Within.complete | with_reducible apply State.Within.setQueue
    | with_reducible apply State.Within.ite | with_reducible apply State.Within.forAll | with_reducible intro _

theorem State.Within.dropMail {pm : Nat} {s0 : State} {s : State} {n : AxId} (h : State.Within pm s0 s) (hm : Has 0x91000 pm) : State.Within pm s0 (State.dropMail s n) := by
  unfold Sys2Proof.Machine.State.dropMail
  repeat' first
    | with_reducible assumption | (with_reducible refine Has.mono ‹Has _ _› ?_; decide)
    | with_reducible apply State.Within.setAx | with_reducible apply State.Within.complete
    | with_reducible apply State.Within.setMotion | with_reducible apply State.Within.forAll | with_reducible intro _

theorem State.Within.latchOff {pm : Nat} {s0 : State} {s : State} {n : AxId} (h : State.Within pm s0 s) (hm : Has 0x1810 pm) : State.Within pm s0 (State.latchOff s n) := by
  unfold Sys2Proof.Machine.State.latchOff
  repeat' first
    | with_reducible assumption | (with_reducible refine Has.mono ‹Has _ _› ?_; decide)
    | with_reducible apply State.Within.setFld | with_reducible apply State.Within.setAx
    | with_reducible apply State.Within.setEng | with_reducible apply State.Within.forAll | with_reducible intro _

theorem State.Within.enterOff {pm : Nat} {s0 : State} {s : State} {n : AxId} {cause : Nat} (h : State.Within pm s0 s) (hm : Has 0x91810 pm) : State.Within pm s0 (State.enterOff s n cause) := by
  unfold Sys2Proof.Machine.State.enterOff
  repeat' first
    | with_reducible assumption | (with_reducible refine Has.mono ‹Has _ _› ?_; decide)
    | with_reducible apply State.Within.dropMail | with_reducible apply State.Within.latchOff
    | with_reducible apply State.Within.putAxState

theorem State.Within.enterIdle {pm : Nat} {s0 : State} {s : State} {n : AxId} {cause : Nat} (h : State.Within pm s0 s) (hm : Has 0x81010 pm) : State.Within pm s0 (State.enterIdle s n cause) := by
  unfold Sys2Proof.Machine.State.enterIdle
  repeat' first
    | with_reducible assumption | (with_reducible refine Has.mono ‹Has _ _› ?_; decide)
    | with_reducible apply State.Within.putAxState | with_reducible apply State.Within.setBit
    | with_reducible apply State.Within.setAx

theorem State.Within.takePending {pm : Nat} {s0 : State} {s : State} {n : AxId} (h : State.Within pm s0 s) (hm : Has 0x11010 pm) : State.Within pm s0 (State.takePending s n) := by
  unfold Sys2Proof.Machine.State.takePending
  repeat' first
    | with_reducible assumption | (with_reducible refine Has.mono ‹Has _ _› ?_; decide)
    | with_reducible apply State.Within.setAx | with_reducible apply State.Within.setMotion
    | with_reducible apply State.Within.setBit

theorem State.Within.enterRun {pm : Nat} {s0 : State} {s : State} {n : AxId} (h : State.Within pm s0 s) (hm : Has 0x91010 pm) : State.Within pm s0 (State.enterRun s n) := by
  unfold Sys2Proof.Machine.State.enterRun
  repeat' first
    | with_reducible assumption | (with_reducible refine Has.mono ‹Has _ _› ?_; decide)
    | with_reducible apply State.Within.takePending | with_reducible apply State.Within.putAxState
    | with_reducible apply State.Within.setAx | with_reducible apply State.Within.setMotion
    | with_reducible apply State.Within.refreshAxis

theorem State.Within.enterSafe {pm : Nat} {s0 : State} {s : State} {n : AxId} {cause : Nat} (h : State.Within pm s0 s) (hm : Has 0x91010 pm) : State.Within pm s0 (State.enterSafe s n cause) := by
  unfold Sys2Proof.Machine.State.enterSafe
  repeat' first
    | with_reducible assumption | (with_reducible refine Has.mono ‹Has _ _› ?_; decide)
    | with_reducible apply State.Within.emptyQueue | with_reducible apply State.Within.setAx
    | with_reducible apply State.Within.putAxState

theorem State.Within.startStop {pm : Nat} {s0 : State} {s : State} {n : AxId} {cat : StopCat} {cause : Nat} (h : State.Within pm s0 s) (hm : Has 0x91010 pm) : State.Within pm s0 (State.startStop s n cat cause) := by
  unfold Sys2Proof.Machine.State.startStop
  repeat' first
    | with_reducible assumption | (with_reducible refine Has.mono ‹Has _ _› ?_; decide)
    | with_reducible apply State.Within.emptyQueue | with_reducible apply State.Within.enterIdle
    | with_reducible apply State.Within.putAxState | with_reducible apply State.Within.setMotion
    | with_reducible apply State.Within.setAx | with_reducible apply State.Within.ite | with_reducible intro _ | simp only []
    | split

theorem State.Within.requestStop {pm : Nat} {s0 : State} {s : State} {n : AxId} {cat : StopCat} {cause at_ : Nat} (h : State.Within pm s0 s) (hm : Has 0x1000 pm) : State.Within pm s0 (State.requestStop s n cat cause at_) := by
  unfold Sys2Proof.Machine.State.requestStop
  repeat' first
    | with_reducible assumption | with_reducible apply State.Within.setAx | simp only [] | split

theorem State.Within.refreshBrake {pm : Nat} {s0 : State} {s : State} {b : BankId} (h : State.Within pm s0 s) (hm : Has 0x2010 pm) : State.Within pm s0 (State.refreshBrake s b) := by
  unfold Sys2Proof.Machine.State.refreshBrake
  repeat' first
    | with_reducible assumption | (with_reducible refine Has.mono ‹Has _ _› ?_; decide)
    | with_reducible apply State.Within.setBnk | with_reducible apply State.Within.setBit

theorem State.Within.refreshPlug {pm : Nat} {s0 : State} {s : State} {n : AxId} (h : State.Within pm s0 s) (hm : Has 0x10 pm) : State.Within pm s0 (State.refreshPlug s n) := by
  unfold Sys2Proof.Machine.State.refreshPlug
  repeat' first
    | with_reducible assumption | with_reducible apply State.Within.setFld | with_reducible apply State.Within.setBit

theorem State.Within.startRetry {pm : Nat} {s0 : State} {s : State} {n : AxId} (h : State.Within pm s0 s) (hm : Has 0x8000000010 pm) : State.Within pm s0 (State.startRetry s n) := by
  unfold Sys2Proof.Machine.State.startRetry
  repeat' first
    | with_reducible assumption | (with_reducible refine Has.mono ‹Has _ _› ?_; decide)
    | with_reducible apply State.Within.setPlug | with_reducible apply State.Within.refreshPlug

theorem State.Within.tryIdent {pm : Nat} {s0 : State} {s : State} {n : AxId} (h : State.Within pm s0 s) (hm : Has 0x8000001010 pm) : State.Within pm s0 (State.tryIdent s n) := by
  unfold Sys2Proof.Machine.State.tryIdent
  repeat' first
    | with_reducible assumption | (with_reducible refine Has.mono ‹Has _ _› ?_; decide)
    | with_reducible apply State.Within.setPlug | with_reducible apply State.Within.refreshPlug
    | with_reducible apply State.Within.refreshAxis | with_reducible apply State.Within.ite | with_reducible intro _

theorem State.Within.failIdent {pm : Nat} {s0 : State} {s : State} {n : AxId} (h : State.Within pm s0 s) (hm : Has 0x8000081010 pm) : State.Within pm s0 (State.failIdent s n) := by
  unfold Sys2Proof.Machine.State.failIdent
  repeat' first
    | with_reducible assumption | (with_reducible refine Has.mono ‹Has _ _› ?_; decide)
    | with_reducible apply State.Within.startRetry | with_reducible apply State.Within.countSat
    | with_reducible apply State.Within.event | with_reducible apply State.Within.refreshAxis

theorem State.Within.plugDemand {pm : Nat} {s0 : State} {s : State} {n : AxId} (h : State.Within pm s0 s) (hm : Has 0x8000081010 pm) : State.Within pm s0 (State.plugDemand s n) := by
  unfold Sys2Proof.Machine.State.plugDemand
  repeat' first
    | with_reducible assumption | (with_reducible refine Has.mono ‹Has _ _› ?_; decide)
    | with_reducible apply State.Within.failIdent | with_reducible apply State.Within.tryIdent
    | with_reducible apply State.Within.ite | with_reducible intro _

theorem State.Within.enterAbsent {pm : Nat} {s0 : State} {s : State} {n : AxId} (h : State.Within pm s0 s) (hm : Has 0x8000091010 pm) : State.Within pm s0 (State.enterAbsent s n) := by
  unfold Sys2Proof.Machine.State.enterAbsent
  repeat' first
    | with_reducible assumption | (with_reducible refine Has.mono ‹Has _ _› ?_; decide)
    | with_reducible apply State.Within.emptyQueue | with_reducible apply State.Within.putAxState
    | with_reducible apply State.Within.startRetry | with_reducible apply State.Within.dropStep

theorem State.Within.demandsChanged {pm : Nat} {s0 : State} {s : State} {n : AxId} {before : BitVec 8} {cause : Nat} (h : State.Within pm s0 s) (hm : Has 0xc000083810 pm) : State.Within pm s0 (State.demandsChanged s n before cause) := by
  unfold Sys2Proof.Machine.State.demandsChanged
  repeat' first
    | with_reducible assumption | (with_reducible refine Has.mono ‹Has _ _› ?_; decide)
    | with_reducible apply State.Within.setAx | with_reducible apply State.Within.faultEvent
    | with_reducible apply State.Within.logFault | with_reducible apply State.Within.refreshAxis
    | with_reducible apply State.Within.refreshBrake | with_reducible apply State.Within.plugDemand
    | with_reducible apply State.Within.ite | with_reducible intro _ | simp only [] | split

theorem State.Within.withDemands {pm : Nat} {s0 : State} {s : State} {n : AxId} {cause : Nat} {f : Demands → Demands} (h : State.Within pm s0 s) (hm : Has 0xc000083810 pm) : State.Within pm s0 (State.withDemands s n cause f) := by
  unfold Sys2Proof.Machine.State.withDemands
  repeat' first
    | with_reducible assumption | (with_reducible refine Has.mono ‹Has _ _› ?_; decide)
    | with_reducible apply State.Within.setAx | with_reducible apply State.Within.demandsChanged

theorem State.Within.withDemandsOf {pm : Nat} {s0 : State} {s : State} {ns : List AxId} {cause : Nat} {f : State → State} (h : State.Within pm s0 s) (hm : Has 0xc000083810 pm) (hf : ∀ (x0 : State), State.Within pm s0 x0 → State.Within pm s0 (f x0)) : State.Within pm s0 (State.withDemandsOf s ns cause f) := by
  unfold Sys2Proof.Machine.State.withDemandsOf
  repeat' first
    | with_reducible assumption | with_reducible apply hf | with_reducible apply State.Within.demandsChanged
    | with_reducible apply State.Within.forAll | with_reducible intro _

theorem State.Within.loopFault {pm : Nat} {s0 : State} {s : State} {n : AxId} {code : Nat} (h : State.Within pm s0 s) (hm : Has 0x81010 pm) : State.Within pm s0 (State.loopFault s n code) := by
  unfold Sys2Proof.Machine.State.loopFault
  repeat' first
    | with_reducible assumption | (with_reducible refine Has.mono ‹Has _ _› ?_; decide)
    | with_reducible apply State.Within.setFld | with_reducible apply State.Within.countSat
    | with_reducible apply State.Within.setBit | with_reducible apply State.Within.event
    | with_reducible apply State.Within.setAx | with_reducible apply State.Within.requestStop
    | with_reducible apply State.Within.ite | with_reducible intro _

theorem State.Within.applyCoef {pm : Nat} {s0 : State} {s : State} {n : AxId} (h : State.Within pm s0 s) (hm : Has 0x81010 pm) : State.Within pm s0 (State.applyCoef s n) := by
  unfold Sys2Proof.Machine.State.applyCoef
  repeat' first
    | with_reducible assumption | (with_reducible refine Has.mono ‹Has _ _› ?_; decide)
    | with_reducible apply State.Within.setAx | with_reducible apply State.Within.setBit
    | with_reducible apply State.Within.complete | with_reducible apply State.Within.ite | with_reducible intro _ | simp only []
    | split

end Sys2Proof.Machine
end

