-- ==== Sys2Proof/Laws/Frame/Image.lean ====
section
/-! SUPPORT. What every operation and every meaning of Machine/Image.lean may change. -/

namespace Sys2Proof.Machine

theorem State.Within.loadRegs {pm : Nat} {s0 : State} {s : State} {e : EngId} (h : State.Within pm s0 s) (hm : Has 0x10 pm) : State.Within pm s0 (State.loadRegs s e) := by
  unfold Sys2Proof.Machine.State.loadRegs
  repeat' first
    | with_reducible assumption | with_reducible apply State.Within.setFld | with_reducible apply State.Within.setBit
    | with_reducible apply State.Within.setWord

theorem State.Within.loadEngine {pm : Nat} {s0 : State} {s : State} {e : EngId} {l : List Byte} {st : EngState} (h : State.Within pm s0 s) (hm : Has 0x810 pm) : State.Within pm s0 (State.loadEngine s e l st) := by
  unfold Sys2Proof.Machine.State.loadEngine
  repeat' first
    | with_reducible assumption | (with_reducible refine Has.mono ‹Has _ _› ?_; decide)
    | with_reducible apply State.Within.setEng | with_reducible apply State.Within.loadRegs
    | with_reducible apply State.Within.setEngState

end Sys2Proof.Machine
end

