-- ==== Sys2Proof/Laws/Frame/EngineEvents.lean ====
section
/-! SUPPORT. What every operation and every meaning of Machine/EngineEvents.lean may change. -/

namespace Sys2Proof.Machine

theorem State.Within.execResultLanding {e : EngId} {s : State} {out : State} (ht : execResultLanding e s = .next out) : State.Within 0x810 s out := by
  have h : State.Within 0x810 s s := State.Within.refl
  have hm : Has 0x810 0x810 := Has.self
  cases ht
  repeat' first
    | with_reducible assumption | with_reducible apply State.Within.steps | with_reducible apply State.Within.ite
    | with_reducible intro _ | split

theorem State.Within.hostTurn {pm : Nat} {s0 : State} {s : State} (h : State.Within pm s0 s) (hm : Has 0x500 pm) : State.Within pm s0 (State.hostTurn s) := by
  unfold Sys2Proof.Machine.State.hostTurn
  repeat' first
    | with_reducible assumption | with_reducible apply State.Within.ite | with_reducible intro _
    | with_reducible apply State.WithinRec.shmem_hostWin | simp only [State.within_mk]

theorem State.Within.execLongAccessGrant {e : EngId} {wait : Nat} {s : State} {out : State} (ht : execLongAccessGrant e wait s = .next out) : State.Within 0x5f10 s out := by
  have h : State.Within 0x5f10 s s := State.Within.refl
  have hm : Has 0x5f10 0x5f10 := Has.self
  cases ht
  repeat' first
    | with_reducible assumption | (with_reducible refine Has.mono ‹Has _ _› ?_; decide)
    | with_reducible apply State.Within.steps | with_reducible apply State.Within.longStore
    | with_reducible apply State.Within.setEng | with_reducible apply State.Within.hostTurn
    | with_reducible apply State.Within.ite | with_reducible intro _ | with_reducible apply State.WithinRec.arbLast
    | simp only [State.within_mk] | split

theorem State.Within.execStepLimit {e : EngId} {s : State} {out : State} (ht : execStepLimit e s = .next out) : State.Within 0x810 s out := by
  have h : State.Within 0x810 s s := State.Within.refl
  have hm : Has 0x810 0x810 := Has.self
  cases ht
  repeat' first
    | with_reducible assumption | with_reducible apply State.Within.steps | with_reducible apply State.Within.ite
    | with_reducible intro _ | simp only [] | split

theorem State.Within.tellGroup {pm : Nat} {s0 : State} {s : State} {m : Nat} (h : State.Within pm s0 s) (hm : Has 0x800 pm) : State.Within pm s0 (State.tellGroup s m) := by
  unfold Sys2Proof.Machine.State.tellGroup
  repeat' first
    | with_reducible assumption | with_reducible apply State.Within.setEng | with_reducible apply State.Within.ite
    | with_reducible intro _ | simp only [] | split

theorem State.Within.execEventRaise {e : EngId} {k : EvKind} {src : BitVec 16} {s : State} {out : State} (ht : execEventRaise e k src s = .next out) : State.Within 0x810 s out := by
  have h : State.Within 0x810 s s := State.Within.refl
  have hm : Has 0x810 0x810 := Has.self
  cases ht
  repeat' first
    | with_reducible assumption | with_reducible apply State.Within.raiseEvent | with_reducible apply State.Within.ite
    | with_reducible intro _

theorem State.Within.refreshPace {pm : Nat} {s0 : State} {s : State} (h : State.Within pm s0 s) (hm : Has 0x80010 pm) : State.Within pm s0 (State.refreshPace s) := by
  unfold Sys2Proof.Machine.State.refreshPace
  repeat' first
    | with_reducible assumption | (with_reducible refine Has.mono ‹Has _ _› ?_; decide)
    | with_reducible apply State.Within.setFld | with_reducible apply State.Within.setBit
    | with_reducible apply State.Within.event | with_reducible apply State.Within.ite | with_reducible intro _

theorem State.Within.execPaceMeasure {e : EngId} {count : Nat} {s : State} {out : State} (ht : execPaceMeasure e count s = .next out) : State.Within 0x80818 s out := by
  have h : State.Within 0x80818 s s := State.Within.refl
  have hm : Has 0x80818 0x80818 := Has.self
  cases ht
  repeat' first
    | with_reducible assumption | (with_reducible refine Has.mono ‹Has _ _› ?_; decide)
    | with_reducible apply State.Within.setEng | with_reducible apply State.Within.setFld
    | with_reducible apply State.Within.setBit | with_reducible apply State.Within.refreshPace
    | with_reducible apply State.Within.ite | with_reducible intro _ | with_reducible apply State.WithinRec.free
    | simp only [State.within_mk] | split

end Sys2Proof.Machine
end

