-- ==== Sys2Proof/Laws/Frame/Monitor.lean ====
section
/-! SUPPORT. What every operation and every meaning of Machine/Monitor.lean may change. -/

namespace Sys2Proof.Machine

theorem State.Within.publishMon {pm : Nat} {s0 : State} {s : State} (h : State.Within pm s0 s) (hm : Has 0x108 pm) : State.Within pm s0 (State.publishMon s) := by
  unfold Sys2Proof.Machine.State.publishMon
  repeat' first
    | with_reducible assumption | with_reducible apply State.WithinRec.free_shmem | simp only [State.within_mk]

theorem State.Within.refreshLevel {pm : Nat} {s0 : State} {s : State} (h : State.Within pm s0 s) (hm : Has 0x50118 pm) : State.Within pm s0 (State.refreshLevel s) := by
  unfold Sys2Proof.Machine.State.refreshLevel
  repeat' first
    | with_reducible assumption | (with_reducible refine Has.mono ‹Has _ _› ?_; decide)
    | with_reducible apply State.Within.setBit | with_reducible apply State.Within.setFld
    | with_reducible apply State.Within.setMoni | with_reducible apply State.Within.setMotion
    | with_reducible apply State.Within.publishMon | with_reducible apply State.Within.ite
    | with_reducible apply State.Within.forAll | with_reducible intro _

theorem State.Within.refreshCapt {pm : Nat} {s0 : State} {s : State} (h : State.Within pm s0 s) (hm : Has 0x10 pm) : State.Within pm s0 (State.refreshCapt s) := by
  unfold Sys2Proof.Machine.State.refreshCapt
  repeat' first
    | with_reducible assumption | with_reducible apply State.Within.setBit | with_reducible apply State.Within.forAll
    | with_reducible intro _

theorem State.Within.writeCapture {pm : Nat} {s0 : State} {s : State} {n : AxId} {g : Nat} {id iq : BitVec 16} (h : State.Within pm s0 s) (hm : Has 0x100 pm) : State.Within pm s0 (State.writeCapture s n g id iq) := by
  unfold Sys2Proof.Machine.State.writeCapture
  repeat' first
    | with_reducible assumption | with_reducible apply State.Within.ite | with_reducible intro _
    | with_reducible apply State.WithinRec.shmem | simp only [State.within_mk]

theorem State.Within.feedBaseline {pm : Nat} {s0 : State} {s : State} {n : AxId} {sum : F32} (h : State.Within pm s0 s) (hm : Has 0xc0000 pm) : State.Within pm s0 (State.feedBaseline s n sum) := by
  unfold Sys2Proof.Machine.State.feedBaseline
  repeat' first
    | with_reducible assumption | (with_reducible refine Has.mono ‹Has _ _› ?_; decide)
    | with_reducible apply State.Within.doneAxis | with_reducible apply State.Within.setMoni
    | with_reducible apply State.Within.forAll | with_reducible intro _

theorem State.Within.refreshMonEng {pm : Nat} {s0 : State} {s : State} (h : State.Within pm s0 s) (hm : Has 0x10 pm) : State.Within pm s0 (State.refreshMonEng s) := by
  unfold Sys2Proof.Machine.State.refreshMonEng
  repeat' first
    | with_reducible assumption | with_reducible apply State.Within.setFld

theorem State.Within.loseMonitor {pm : Nat} {s0 : State} {s : State} {n : AxId} (h : State.Within pm s0 s) (hm : Has 0xc0010 pm) : State.Within pm s0 (State.loseMonitor s n) := by
  unfold Sys2Proof.Machine.State.loseMonitor
  repeat' first
    | with_reducible assumption | (with_reducible refine Has.mono ‹Has _ _› ?_; decide)
    | with_reducible apply State.Within.setBit | with_reducible apply State.Within.setMoni
    | with_reducible apply State.Within.event | with_reducible apply State.Within.refreshMonEng
    | with_reducible apply State.Within.ite | with_reducible intro _

theorem State.Within.loseMonEngine {pm : Nat} {s0 : State} {s : State} {e : EngId} (h : State.Within pm s0 s) (hm : Has 0xc0010 pm) : State.Within pm s0 (State.loseMonEngine s e) := by
  unfold Sys2Proof.Machine.State.loseMonEngine
  repeat' first
    | with_reducible assumption | with_reducible apply State.Within.loseMonitor | with_reducible apply State.Within.forAll
    | with_reducible intro _

theorem State.Within.execMonCfg {src : CmdSrc} {n : AxId} {enable monEng bandset nlog : BitVec 8} {rinj : BitVec 16} {lq rRef tRef : F32} {s : State} {out : State} (ht : execMonCfg src n enable monEng bandset nlog rinj lq rRef tRef s = .next out) : State.Within 0x1c0810 s out := by
  have h : State.Within 0x1c0810 s s := State.Within.refl
  have hm : Has 0x1c0810 0x1c0810 := Has.self
  cases ht
  repeat' first
    | with_reducible assumption | (with_reducible refine Has.mono ‹Has _ _› ?_; decide)
    | with_reducible apply State.Within.deliver | with_reducible apply State.Within.setMoni
    | with_reducible apply State.Within.setBit | with_reducible apply State.Within.setFld
    | with_reducible apply State.Within.refreshMonEng | with_reducible apply State.Within.tellGroup
    | with_reducible apply State.Within.doneAxis | with_reducible apply State.Within.ite | with_reducible intro _

theorem State.Within.execMonBaseline {src : CmdSrc} {n : AxId} {s : State} {out : State} (ht : execMonBaseline src n s = .next out) : State.Within 0x140800 s out := by
  have h : State.Within 0x140800 s s := State.Within.refl
  have hm : Has 0x140800 0x140800 := Has.self
  cases ht
  repeat' first
    | with_reducible assumption | (with_reducible refine Has.mono ‹Has _ _› ?_; decide)
    | with_reducible apply State.Within.deliver | with_reducible apply State.Within.setMoni
    | with_reducible apply State.Within.tellGroup | with_reducible intro _

end Sys2Proof.Machine
end

