-- ==== Sys2Proof/Laws/Frame/Failover.lean ====
section
/-! SUPPORT. What every operation and every meaning of Machine/Failover.lean may change. -/

namespace Sys2Proof.Machine

theorem State.Within.refreshFo {pm : Nat} {s0 : State} {s : State} (h : State.Within pm s0 s) (hm : Has 0x10 pm) : State.Within pm s0 (State.refreshFo s) := by
  unfold Sys2Proof.Machine.State.refreshFo
  repeat' first
    | with_reducible assumption | with_reducible apply State.Within.setFld | with_reducible apply State.Within.setBit
    | with_reducible apply State.Within.ite | with_reducible intro _

theorem State.Within.foRecord {pm : Nat} {s0 : State} {s : State} {n : AxId} {type src detail : Nat} {data : List Byte} (h : State.Within pm s0 s) (hm : Has 0x80010 pm) : State.Within pm s0 (State.foRecord s n type src detail data) := by
  unfold Sys2Proof.Machine.State.foRecord
  repeat' first
    | with_reducible assumption | with_reducible apply State.Within.event | with_reducible apply State.Within.ite
    | with_reducible intro _

theorem State.Within.raiseClaim {pm : Nat} {s0 : State} {s : State} {n : AxId} {e : EngId} (h : State.Within pm s0 s) (hm : Has 0x800000010 pm) : State.Within pm s0 (State.raiseClaim s n e) := by
  unfold Sys2Proof.Machine.State.raiseClaim
  repeat' first
    | with_reducible assumption | (with_reducible refine Has.mono ‹Has _ _› ?_; decide)
    | with_reducible apply State.Within.setFailover | with_reducible apply State.Within.setFld

theorem State.Within.clearMarks {pm : Nat} {s0 : State} {s : State} {n : AxId} (h : State.Within pm s0 s) (hm : Has 0x1000 pm) : State.Within pm s0 (State.clearMarks s n) := by
  unfold Sys2Proof.Machine.State.clearMarks
  repeat' first
    | with_reducible assumption | with_reducible apply State.Within.setAx

theorem State.Within.firstClaim {pm : Nat} {s0 : State} {s : State} {n : AxId} {e : EngId} (h : State.Within pm s0 s) (hm : Has 0x800000010 pm) : State.Within pm s0 (State.firstClaim s n e) := by
  unfold Sys2Proof.Machine.State.firstClaim
  repeat' first
    | with_reducible assumption | (with_reducible refine Has.mono ‹Has _ _› ?_; decide)
    | with_reducible apply State.Within.setFailover | with_reducible apply State.Within.raiseClaim
    | with_reducible apply State.Within.setFld

theorem State.Within.setCoast {pm : Nat} {s0 : State} {s : State} {n : AxId} {b : Bool} (h : State.Within pm s0 s) (hm : Has 0x800001010 pm) : State.Within pm s0 (State.setCoast s n b) := by
  unfold Sys2Proof.Machine.State.setCoast
  repeat' first
    | with_reducible assumption | (with_reducible refine Has.mono ‹Has _ _› ?_; decide)
    | with_reducible apply State.Within.setFailover | with_reducible apply State.Within.setBit
    | with_reducible apply State.Within.refreshAxis

theorem State.Within.refreshCoast {pm : Nat} {s0 : State} {s : State} {n : AxId} (h : State.Within pm s0 s) (hm : Has 0x800001010 pm) : State.Within pm s0 (State.refreshCoast s n) := by
  unfold Sys2Proof.Machine.State.refreshCoast
  repeat' first
    | with_reducible assumption | with_reducible apply State.Within.setCoast | with_reducible apply State.Within.ite
    | with_reducible intro _

theorem State.Within.raiseEngLoss {pm : Nat} {s0 : State} {s : State} {n : AxId} (h : State.Within pm s0 s) (hm : Has 0xc800083810 pm) : State.Within pm s0 (State.raiseEngLoss s n) := by
  unfold Sys2Proof.Machine.State.raiseEngLoss
  repeat' first
    | with_reducible assumption | (with_reducible refine Has.mono ‹Has _ _› ?_; decide)
    | with_reducible apply State.Within.setFailover | with_reducible apply State.Within.setEngState
    | with_reducible apply State.Within.setBit | with_reducible apply State.Within.setFld
    | with_reducible apply State.Within.withDemands | simp only [] | split

theorem State.Within.hallLost {pm : Nat} {s0 : State} {s : State} {n : AxId} (h : State.Within pm s0 s) (hm : Has 0xc800083810 pm) : State.Within pm s0 (State.hallLost s n) := by
  unfold Sys2Proof.Machine.State.hallLost
  repeat' first
    | with_reducible assumption | (with_reducible refine Has.mono ‹Has _ _› ?_; decide)
    | with_reducible apply State.Within.raiseEngLoss | with_reducible apply State.Within.refreshFo
    | with_reducible apply State.Within.ite | with_reducible intro _

theorem State.Within.engineless {pm : Nat} {s0 : State} {s : State} {n : AxId} {why : Nat} (h : State.Within pm s0 s) (hm : Has 0xc800193810 pm) : State.Within pm s0 (State.engineless s n why) := by
  unfold Sys2Proof.Machine.State.engineless
  repeat' first
    | with_reducible assumption | (with_reducible refine Has.mono ‹Has _ _› ?_; decide)
    | with_reducible apply State.Within.emptyQueue | with_reducible apply State.Within.complete
    | with_reducible apply State.Within.foRecord | with_reducible apply State.Within.setFailover
    | with_reducible apply State.Within.setFld | with_reducible apply State.Within.refreshFo
    | with_reducible apply State.Within.raiseEngLoss | with_reducible apply State.Within.ite
    | with_reducible apply State.Within.forAll | with_reducible intro _ | with_reducible apply State.WithinRec.accepted
    | simp only [State.within_mk]

theorem State.Within.swapRoles {pm : Nat} {s0 : State} {s : State} {n : AxId} {newE : EngId} {old : Option EngId} (h : State.Within pm s0 s) (hm : Has 0x810 pm) : State.Within pm s0 (State.swapRoles s n newE old) := by
  unfold Sys2Proof.Machine.State.swapRoles
  repeat' first
    | with_reducible assumption | (with_reducible refine Has.mono ‹Has _ _› ?_; decide)
    | with_reducible apply State.Within.hwPut | with_reducible apply State.Within.setFld
    | with_reducible apply State.Within.setEng | with_reducible apply State.Within.ite | with_reducible intro _ | split

theorem State.Within.assign {pm : Nat} {s0 : State} {s : State} {n : AxId} {e : EngId} {order : Nat} (h : State.Within pm s0 s) (hm : Has 0xc800083810 pm) : State.Within pm s0 (State.assign s n e order) := by
  unfold Sys2Proof.Machine.State.assign
  repeat' first
    | with_reducible assumption | (with_reducible refine Has.mono ‹Has _ _› ?_; decide)
    | with_reducible apply State.Within.swapRoles | with_reducible apply State.Within.raiseClaim
    | with_reducible apply State.Within.setFld | with_reducible apply State.Within.setFailover
    | with_reducible apply State.Within.withDemands | with_reducible apply State.Within.refreshFo

theorem State.Within.share {pm : Nat} {s0 : State} {s : State} {n : AxId} {e : EngId} (h : State.Within pm s0 s) (hm : Has 0x800000810 pm) : State.Within pm s0 (State.share s n e) := by
  unfold Sys2Proof.Machine.State.share
  repeat' first
    | with_reducible assumption | (with_reducible refine Has.mono ‹Has _ _› ?_; decide)
    | with_reducible apply State.Within.hwPut | with_reducible apply State.Within.setFld
    | with_reducible apply State.Within.setEng | with_reducible apply State.Within.setFailover
    | with_reducible apply State.Within.setBit | with_reducible apply State.Within.refreshFo | split

theorem State.Within.takeOver {pm : Nat} {s0 : State} {s : State} {n : AxId} {programFault : Bool} (h : State.Within pm s0 s) (hm : Has 0xc8001d3810 pm) : State.Within pm s0 (State.takeOver s n programFault) := by
  unfold Sys2Proof.Machine.State.takeOver
  repeat' first
    | with_reducible assumption | (with_reducible refine Has.mono ‹Has _ _› ?_; decide)
    | with_reducible apply State.Within.engineless | with_reducible apply State.Within.setFailover
    | with_reducible apply State.Within.setEngState | with_reducible apply State.Within.assign
    | with_reducible apply State.Within.loseMonEngine | with_reducible apply State.Within.setEng
    | with_reducible apply State.Within.setFld | with_reducible apply State.Within.refreshFo
    | with_reducible apply State.Within.ite | with_reducible intro _ | simp only [] | split

theorem State.Within.shareDue {pm : Nat} {s0 : State} {s : State} {t : Nat} {n : AxId} (h : State.Within pm s0 s) (hm : Has 0xc8001d3810 pm) : State.Within pm s0 (State.shareDue s t n) := by
  unfold Sys2Proof.Machine.State.shareDue
  repeat' first
    | with_reducible assumption | (with_reducible refine Has.mono ‹Has _ _› ?_; decide)
    | with_reducible apply State.Within.share | with_reducible apply State.Within.setFailover
    | with_reducible apply State.Within.takeOver | with_reducible apply State.Within.ite | with_reducible intro _ | simp only []
    | split

theorem State.Within.startWindow {pm : Nat} {s0 : State} {s : State} {n : AxId} {e : EngId} (h : State.Within pm s0 s) (hm : Has 0x800001010 pm) : State.Within pm s0 (State.startWindow s n e) := by
  unfold Sys2Proof.Machine.State.startWindow
  repeat' first
    | with_reducible assumption | (with_reducible refine Has.mono ‹Has _ _› ?_; decide)
    | with_reducible apply State.Within.setFailover | with_reducible apply State.Within.refreshCoast

theorem State.Within.startRepair {pm : Nat} {s0 : State} {s : State} {e : EngId} (h : State.Within pm s0 s) (hm : Has 0x80810 pm) : State.Within pm s0 (State.startRepair s e) := by
  unfold Sys2Proof.Machine.State.startRepair
  repeat' first
    | with_reducible assumption | (with_reducible refine Has.mono ‹Has _ _› ?_; decide)
    | with_reducible apply State.Within.setBit | with_reducible apply State.Within.setEng
    | with_reducible apply State.Within.foRecord | with_reducible apply State.Within.refreshPace
    | with_reducible apply State.Within.setEngState | with_reducible apply State.Within.ite | with_reducible intro _

theorem State.Within.declare {pm : Nat} {s0 : State} {s : State} {e : EngId} (h : State.Within pm s0 s) (hm : Has 0xc8001d3810 pm) : State.Within pm s0 (State.declare s e) := by
  unfold Sys2Proof.Machine.State.declare
  repeat' first
    | with_reducible assumption | (with_reducible refine Has.mono ‹Has _ _› ?_; decide)
    | with_reducible apply State.Within.setEng | with_reducible apply State.Within.setEngState
    | with_reducible apply State.Within.setFld | with_reducible apply State.Within.setBit
    | with_reducible apply State.Within.logFault | with_reducible apply State.Within.loseMonEngine
    | with_reducible apply State.Within.event | with_reducible apply State.Within.foRecord
    | with_reducible apply State.Within.startRepair | with_reducible apply State.Within.refreshFo
    | with_reducible apply State.Within.startWindow | with_reducible apply State.Within.takeOver
    | with_reducible apply State.Within.setFailover | with_reducible apply State.Within.ite
    | with_reducible apply State.Within.forAll | with_reducible intro _

theorem State.Within.execEngineFailDeclared {e : EngId} {s : State} {out : State} (ht : execEngineFailDeclared e s = .next out) : State.Within 0xc8001d3810 s out := by
  have h : State.Within 0xc8001d3810 s s := State.Within.refl
  have hm : Has 0xc8001d3810 0xc8001d3810 := Has.self
  cases ht
  repeat' first
    | with_reducible assumption | with_reducible apply State.Within.declare | with_reducible apply State.Within.ite
    | with_reducible intro _

theorem State.Within.execFailoverWindowEnd {n : AxId} {s : State} {out : State} (ht : execFailoverWindowEnd n s = .next out) : State.Within 0x800001010 s out := by
  have h : State.Within 0x800001010 s s := State.Within.refl
  have hm : Has 0x800001010 0x800001010 := Has.self
  cases ht
  repeat' first
    | with_reducible assumption | (with_reducible refine Has.mono ‹Has _ _› ?_; decide)
    | with_reducible apply State.Within.setFailover | with_reducible apply State.Within.refreshCoast
    | with_reducible apply State.Within.ite | with_reducible intro _ | simp only [] | split

theorem State.Within.backToSpare {pm : Nat} {s0 : State} {s : State} {e : EngId} (h : State.Within pm s0 s) (hm : Has 0x80810 pm) : State.Within pm s0 (State.backToSpare s e) := by
  unfold Sys2Proof.Machine.State.backToSpare
  repeat' first
    | with_reducible assumption | (with_reducible refine Has.mono ‹Has _ _› ?_; decide)
    | with_reducible apply State.Within.setEng | with_reducible apply State.Within.setBit
    | with_reducible apply State.Within.refreshPace | with_reducible apply State.Within.setEngState
    | with_reducible apply State.Within.ite | with_reducible intro _

theorem State.Within.execTakeoverStart {n : AxId} {s : State} {out : State} (ht : execTakeoverStart n s = .next out) : State.Within 0xc800193810 s out := by
  have h : State.Within 0xc800193810 s s := State.Within.refl
  have hm : Has 0xc800193810 0xc800193810 := Has.self
  cases ht
  repeat' first
    | with_reducible assumption | (with_reducible refine Has.mono ‹Has _ _› ?_; decide)
    | with_reducible apply State.Within.backToSpare | with_reducible apply State.Within.engineless
    | with_reducible apply State.Within.loadEngine | with_reducible apply State.Within.setEng
    | with_reducible apply State.Within.assign | with_reducible apply State.Within.foRecord
    | with_reducible apply State.Within.ite | with_reducible intro _ | simp only [] | split

theorem State.Within.enterIdleSpare {pm : Nat} {s0 : State} {s : State} {e : EngId} (h : State.Within pm s0 s) (hm : Has 0x800000010 pm) : State.Within pm s0 (State.enterIdleSpare s e) := by
  unfold Sys2Proof.Machine.State.enterIdleSpare
  repeat' first
    | with_reducible assumption | (with_reducible refine Has.mono ‹Has _ _› ?_; decide)
    | with_reducible apply State.Within.setEngState | with_reducible apply State.Within.setFailover
    | with_reducible apply State.Within.refreshFo | with_reducible apply State.Within.ite | with_reducible intro _
    | simp only [] | split

theorem State.Within.execEngineSelftestDone {e : EngId} {pass : Bool} {s : State} {out : State} (ht : execEngineSelftestDone e pass s = .next out) : State.Within 0x800080810 s out := by
  have h : State.Within 0x800080810 s s := State.Within.refl
  have hm : Has 0x800080810 0x800080810 := Has.self
  cases ht
  repeat' first
    | with_reducible assumption | (with_reducible refine Has.mono ‹Has _ _› ?_; decide)
    | with_reducible apply State.Within.setBit | with_reducible apply State.Within.setEng
    | with_reducible apply State.Within.enterIdleSpare | with_reducible apply State.Within.loadEngine
    | with_reducible apply State.Within.setFld | with_reducible apply State.Within.foRecord
    | with_reducible apply State.Within.refreshFo | with_reducible apply State.Within.setEngState
    | with_reducible apply State.Within.refreshPace | with_reducible apply State.Within.ite | with_reducible intro _
    | simp only [] | split

theorem State.Within.applyFinished {pm : Nat} {s0 : State} {s : State} (h : State.Within pm s0 s) (hm : Has 0x10 pm) : State.Within pm s0 (State.applyFinished s) := by
  unfold Sys2Proof.Machine.State.applyFinished
  repeat' first
    | with_reducible assumption | with_reducible apply State.Within.setBit | with_reducible apply State.Within.ite
    | with_reducible intro _

theorem State.Within.execZeroingDone {e : EngId} {s : State} {out : State} (ht : execZeroingDone e s = .next out) : State.Within 0x800080810 s out := by
  have h : State.Within 0x800080810 s s := State.Within.refl
  have hm : Has 0x800080810 0x800080810 := Has.self
  cases ht
  repeat' first
    | with_reducible assumption | (with_reducible refine Has.mono ‹Has _ _› ?_; decide)
    | with_reducible apply State.Within.setEng | with_reducible apply State.Within.applyFinished
    | with_reducible apply State.Within.setBit | with_reducible apply State.Within.enterIdleSpare
    | with_reducible apply State.Within.refreshPace | with_reducible apply State.Within.setEngState
    | with_reducible apply State.Within.ite | with_reducible intro _

theorem State.Within.startEngine {pm : Nat} {s0 : State} {s : State} {e : EngId} {src : Option CmdSrc} (h : State.Within pm s0 s) (hm : Has 0x80810 pm) : State.Within pm s0 (State.startEngine s e src) := by
  unfold Sys2Proof.Machine.State.startEngine
  repeat' first
    | with_reducible assumption | (with_reducible refine Has.mono ‹Has _ _› ?_; decide)
    | with_reducible apply State.Within.setEngState | with_reducible apply State.Within.setEng
    | with_reducible apply State.Within.complete | simp only [] | split

theorem State.Within.execImageCopyDone {e : EngId} {crcOk : Bool} {s : State} {out : State} (ht : execImageCopyDone e crcOk s = .next out) : State.Within 0x2000080810 s out := by
  have h : State.Within 0x2000080810 s s := State.Within.refl
  have hm : Has 0x2000080810 0x2000080810 := Has.self
  cases ht
  repeat' first
    | with_reducible assumption | (with_reducible refine Has.mono ‹Has _ _› ?_; decide)
    | with_reducible apply State.Within.setEng | with_reducible apply State.Within.applyFinished
    | with_reducible apply State.Within.loadEngine | with_reducible apply State.Within.complete
    | with_reducible apply State.Within.startEngine | with_reducible apply State.Within.setBit
    | with_reducible apply State.Within.refreshPace | with_reducible apply State.Within.setEngState
    | with_reducible apply State.Within.ite | with_reducible intro _ | with_reducible apply State.WithinRec.store
    | simp only [State.within_mk] | split

theorem State.Within.applyPlanOf {pm : Nat} {s0 : State} {s : State} {e : EngId} (h : State.Within pm s0 s) (hm : Has 0xc8000c3810 pm) : State.Within pm s0 (State.applyPlanOf s e) := by
  unfold Sys2Proof.Machine.State.applyPlanOf
  repeat' first
    | with_reducible assumption | (with_reducible refine Has.mono ‹Has _ _› ?_; decide)
    | with_reducible apply State.Within.setFld | with_reducible apply State.Within.loseMonEngine
    | with_reducible apply State.Within.setEng | with_reducible apply State.Within.setBit
    | with_reducible apply State.Within.setEngState | with_reducible apply State.Within.setFailover
    | with_reducible apply State.Within.withDemands | with_reducible apply State.Within.ite | with_reducible intro _

theorem State.Within.endShares {pm : Nat} {s0 : State} {s : State} (h : State.Within pm s0 s) (hm : Has 0x810 pm) : State.Within pm s0 (State.endShares s) := by
  unfold Sys2Proof.Machine.State.endShares
  repeat' first
    | with_reducible assumption | (with_reducible refine Has.mono ‹Has _ _› ?_; decide)
    | with_reducible apply State.Within.setEng | with_reducible apply State.Within.setBit
    | with_reducible apply State.Within.setFld | with_reducible apply State.Within.forAll | with_reducible intro _
    | simp only [] | split

theorem State.Within.runApply {pm : Nat} {s0 : State} {s : State} (h : State.Within pm s0 s) (hm : Has 0xc8000c3810 pm) : State.Within pm s0 (State.runApply s) := by
  unfold Sys2Proof.Machine.State.runApply
  repeat' first
    | with_reducible assumption | (with_reducible refine Has.mono ‹Has _ _› ?_; decide)
    | with_reducible apply State.Within.setBit | with_reducible apply State.Within.setFld
    | with_reducible apply State.Within.applyPlanOf | with_reducible apply State.Within.endShares
    | with_reducible apply State.Within.refreshFo | with_reducible apply State.Within.applyFinished
    | with_reducible apply State.Within.forAll | with_reducible intro _ | simp only [] | split

theorem State.Within.requestApply {pm : Nat} {s0 : State} {s : State} (h : State.Within pm s0 s) (hm : Has 0xc8000c3810 pm) : State.Within pm s0 (State.requestApply s) := by
  unfold Sys2Proof.Machine.State.requestApply
  repeat' first
    | with_reducible assumption | (with_reducible refine Has.mono ‹Has _ _› ?_; decide)
    | with_reducible apply State.Within.setBit | with_reducible apply State.Within.runApply
    | with_reducible apply State.Within.ite | with_reducible intro _

theorem State.Within.resumeApply {pm : Nat} {s0 : State} {s : State} (h : State.Within pm s0 s) (hm : Has 0xc8000c3810 pm) : State.Within pm s0 (State.resumeApply s) := by
  unfold Sys2Proof.Machine.State.resumeApply
  repeat' first
    | with_reducible assumption | with_reducible apply State.Within.runApply | with_reducible apply State.Within.ite
    | with_reducible intro _

theorem State.Within.execAllocApply {fn : FnId} {s : State} {out : State} (ht : execAllocApply fn s = .next out) : State.Within 0xc8000c3810 s out := by
  have h : State.Within 0xc8000c3810 s s := State.Within.refl
  have hm : Has 0xc8000c3810 0xc8000c3810 := Has.self
  cases ht
  repeat' first
    | with_reducible assumption | (with_reducible refine Has.mono ‹Has _ _› ?_; decide)
    | with_reducible apply State.Within.setupGate | with_reducible apply State.Within.requestApply | with_reducible intro _

theorem State.Within.takeoverDone {pm : Nat} {s0 : State} {s : State} {n : AxId} {e : EngId} {frame : BitVec 32} (h : State.Within pm s0 s) (hm : Has 0xc8000c3810 pm) : State.Within pm s0 (State.takeoverDone s n e frame) := by
  unfold Sys2Proof.Machine.State.takeoverDone
  repeat' first
    | with_reducible assumption | (with_reducible refine Has.mono ‹Has _ _› ?_; decide)
    | with_reducible apply State.Within.setFailover | with_reducible apply State.Within.setCoast
    | with_reducible apply State.Within.countSat | with_reducible apply State.Within.foRecord
    | with_reducible apply State.Within.resumeApply | with_reducible apply State.Within.ite | with_reducible intro _
    | simp only [] | split

end Sys2Proof.Machine
end

