-- ==== Sys2Proof/Laws/Frame/Feedback.lean ====
section
/-! SUPPORT. What every operation and every meaning of Machine/Feedback.lean may change. -/

namespace Sys2Proof.Machine

theorem State.Within.refreshFbCfg {pm : Nat} {s0 : State} {s : State} {n : AxId} (h : State.Within pm s0 s) (hm : Has 0x10 pm) : State.Within pm s0 (State.refreshFbCfg s n) := by
  unfold Sys2Proof.Machine.State.refreshFbCfg
  repeat' first
    | with_reducible assumption | with_reducible apply State.Within.setBit

theorem State.Within.raiseFbFault {pm : Nat} {s0 : State} {s : State} {n : AxId} {bit : Nat} (h : State.Within pm s0 s) (hm : Has 0x81810 pm) : State.Within pm s0 (State.raiseFbFault s n bit) := by
  unfold Sys2Proof.Machine.State.raiseFbFault
  repeat' first
    | with_reducible assumption | (with_reducible refine Has.mono ‹Has _ _› ?_; decide)
    | with_reducible apply State.Within.setFld | with_reducible apply State.Within.event
    | with_reducible apply State.Within.faultEvent | with_reducible apply State.Within.setAx
    | with_reducible apply State.Within.requestStop | with_reducible apply State.Within.ite | with_reducible intro _
    | simp only [] | split

theorem State.Within.gainBucket {pm : Nat} {s0 : State} {s : State} {n : AxId} (h : State.Within pm s0 s) (hm : Has 0x85810 pm) : State.Within pm s0 (State.gainBucket s n) := by
  unfold Sys2Proof.Machine.State.gainBucket
  repeat' first
    | with_reducible assumption | (with_reducible refine Has.mono ‹Has _ _› ?_; decide)
    | with_reducible apply State.Within.setFbk | with_reducible apply State.Within.countSat
    | with_reducible apply State.Within.setFld | with_reducible apply State.Within.raiseFbFault
    | with_reducible apply State.Within.ite | with_reducible intro _

theorem State.Within.drainBucket {pm : Nat} {s0 : State} {s : State} {n : AxId} (h : State.Within pm s0 s) (hm : Has 0x4010 pm) : State.Within pm s0 (State.drainBucket s n) := by
  unfold Sys2Proof.Machine.State.drainBucket
  repeat' first
    | with_reducible assumption | (with_reducible refine Has.mono ‹Has _ _› ?_; decide)
    | with_reducible apply State.Within.setFbk | with_reducible apply State.Within.setFld
    | with_reducible apply State.Within.ite | with_reducible intro _

theorem State.Within.illegal {pm : Nat} {s0 : State} {s : State} {n : AxId} (h : State.Within pm s0 s) (hm : Has 0x85810 pm) : State.Within pm s0 (State.illegal s n) := by
  unfold Sys2Proof.Machine.State.illegal
  repeat' first
    | with_reducible assumption | (with_reducible refine Has.mono ‹Has _ _› ?_; decide)
    | with_reducible apply State.Within.countSat | with_reducible apply State.Within.gainBucket

theorem State.Within.edgeCheck {pm : Nat} {s0 : State} {s : State} {n : AxId} {last : Option Nat} (h : State.Within pm s0 s) (hm : Has 0x85810 pm) : State.Within pm s0 (State.edgeCheck s n last) := by
  unfold Sys2Proof.Machine.State.edgeCheck
  repeat' first
    | with_reducible assumption | (with_reducible refine Has.mono ‹Has _ _› ?_; decide)
    | with_reducible apply State.Within.countSat | with_reducible apply State.Within.gainBucket
    | with_reducible apply State.Within.ite | with_reducible intro _ | split

theorem State.Within.refreshPo {pm : Nat} {s0 : State} {s : State} {k : PoId} (h : State.Within pm s0 s) (hm : Has 0x10 pm) : State.Within pm s0 (State.refreshPo s k) := by
  unfold Sys2Proof.Machine.State.refreshPo
  repeat' first
    | with_reducible assumption | with_reducible apply State.Within.setFld | with_reducible apply State.Within.setBit

theorem State.Within.driveRep {pm : Nat} {s0 : State} {s : State} {k : PoId} {d : Int} (h : State.Within pm s0 s) (hm : Has 0x8010 pm) : State.Within pm s0 (State.driveRep s k d) := by
  unfold Sys2Proof.Machine.State.driveRep
  repeat' first
    | with_reducible assumption | (with_reducible refine Has.mono ‹Has _ _› ?_; decide)
    | with_reducible apply State.Within.setRep | with_reducible apply State.Within.refreshPo
    | with_reducible apply State.Within.setBit | with_reducible apply State.Within.ite | with_reducible intro _

theorem State.Within.execPoOutputCount {k : PoId} {s : State} {out : State} (ht : execPoOutputCount k s = .next out) : State.Within 0x8010 s out := by
  have h : State.Within 0x8010 s s := State.Within.refl
  have hm : Has 0x8010 0x8010 := Has.self
  cases ht
  repeat' first
    | with_reducible assumption | (with_reducible refine Has.mono ‹Has _ _› ?_; decide)
    | with_reducible apply State.Within.setRep | with_reducible apply State.Within.refreshPo
    | with_reducible apply State.Within.ite | with_reducible intro _

theorem State.Within.stopRep {pm : Nat} {s0 : State} {s : State} {k : PoId} (h : State.Within pm s0 s) (hm : Has 0x8010 pm) : State.Within pm s0 (State.stopRep s k) := by
  unfold Sys2Proof.Machine.State.stopRep
  repeat' first
    | with_reducible assumption | (with_reducible refine Has.mono ‹Has _ _› ?_; decide)
    | with_reducible apply State.Within.setRep | with_reducible apply State.Within.refreshPo

theorem State.Within.writePoCfg {pm : Nat} {s0 : State} {s : State} {k : PoId} {w : Word} (h : State.Within pm s0 s) (hm : Has 0x8010 pm) : State.Within pm s0 (State.writePoCfg s k w) := by
  unfold Sys2Proof.Machine.State.writePoCfg
  repeat' first
    | with_reducible assumption | (with_reducible refine Has.mono ‹Has _ _› ?_; decide)
    | with_reducible apply State.Within.setBit | with_reducible apply State.Within.setFld
    | with_reducible apply State.Within.stopRep | with_reducible apply State.Within.setRep
    | with_reducible apply State.Within.ite | with_reducible intro _

theorem State.Within.execPoEnable {fn : FnId} {k : PoId} {w : Word} {s : State} {out : State} (ht : execPoEnable fn k w s = .next out) : State.Within 0x8010 s out := by
  have h : State.Within 0x8010 s s := State.Within.refl
  have hm : Has 0x8010 0x8010 := Has.self
  cases ht
  repeat' first
    | with_reducible assumption | (with_reducible refine Has.mono ‹Has _ _› ?_; decide)
    | with_reducible apply State.Within.setupGate | with_reducible apply State.Within.writePoCfg | with_reducible intro _

theorem State.Within.writePoRatio {pm : Nat} {s0 : State} {s : State} {k : PoId} {w : Word} (h : State.Within pm s0 s) (hm : Has 0x10 pm) : State.Within pm s0 (State.writePoRatio s k w) := by
  unfold Sys2Proof.Machine.State.writePoRatio
  repeat' first
    | with_reducible assumption | with_reducible apply State.Within.setBit | with_reducible apply State.Within.setWord
    | with_reducible apply State.Within.ite | with_reducible intro _

theorem State.Within.applyPoSet {pm : Nat} {s0 : State} {s : State} {k : PoId} {n m : Nat} (h : State.Within pm s0 s) (hm : Has 0x8010 pm) : State.Within pm s0 (State.applyPoSet s k n m) := by
  unfold Sys2Proof.Machine.State.applyPoSet
  repeat' first
    | with_reducible assumption | (with_reducible refine Has.mono ‹Has _ _› ?_; decide)
    | with_reducible apply State.Within.setRep | with_reducible apply State.Within.setFld

theorem State.Within.moveCounter {pm : Nat} {s0 : State} {s : State} {n : AxId} {d : Int} (h : State.Within pm s0 s) (hm : Has 0xc010 pm) : State.Within pm s0 (State.moveCounter s n d) := by
  unfold Sys2Proof.Machine.State.moveCounter
  repeat' first
    | with_reducible assumption | (with_reducible refine Has.mono ‹Has _ _› ?_; decide)
    | with_reducible apply State.Within.setFbk | with_reducible apply State.Within.setBit
    | with_reducible apply State.Within.driveRep | with_reducible apply State.Within.ite
    | with_reducible apply State.Within.forAll | with_reducible intro _

theorem State.Within.countMove {pm : Nat} {s0 : State} {s : State} {n : AxId} {d : Int} (h : State.Within pm s0 s) (hm : Has 0xc010 pm) : State.Within pm s0 (State.countMove s n d) := by
  unfold Sys2Proof.Machine.State.countMove
  repeat' first
    | with_reducible assumption | with_reducible apply State.Within.moveCounter | with_reducible apply State.Within.ite
    | with_reducible intro _

theorem State.Within.setPosition {pm : Nat} {s0 : State} {s : State} {t : Nat} {n : AxId} {new : BitVec 48} (h : State.Within pm s0 s) (hm : Has 0x15010 pm) : State.Within pm s0 (State.setPosition s t n new) := by
  unfold Sys2Proof.Machine.State.setPosition
  repeat' first
    | with_reducible assumption | (with_reducible refine Has.mono ‹Has _ _› ?_; decide)
    | with_reducible apply State.Within.setFbk | with_reducible apply State.Within.setMotion
    | with_reducible apply State.Within.setAx | with_reducible apply State.Within.setBit
    | with_reducible apply State.Within.hwPut

theorem State.Within.takePreload {pm : Nat} {s0 : State} {s : State} {t : Nat} {n : AxId} (h : State.Within pm s0 s) (hm : Has 0x15010 pm) : State.Within pm s0 (State.takePreload s t n) := by
  unfold Sys2Proof.Machine.State.takePreload
  repeat' first
    | with_reducible assumption | with_reducible apply State.Within.setPosition | with_reducible apply State.Within.ite
    | with_reducible intro _ | split

theorem State.Within.writePosldHi {pm : Nat} {s0 : State} {s : State} {n : AxId} {w : Word} (h : State.Within pm s0 s) (hm : Has 0x4010 pm) : State.Within pm s0 (State.writePosldHi s n w) := by
  unfold Sys2Proof.Machine.State.writePosldHi
  repeat' first
    | with_reducible assumption | (with_reducible refine Has.mono ‹Has _ _› ?_; decide)
    | with_reducible apply State.Within.setFld | with_reducible apply State.Within.armPreload

theorem State.Within.execPosldArm {fn : FnId} {n : AxId} {w : Word} {s : State} {out : State} (ht : execPosldArm fn n w s = .next out) : State.Within 0x4010 s out := by
  have h : State.Within 0x4010 s s := State.Within.refl
  have hm : Has 0x4010 0x4010 := Has.self
  cases ht
  repeat' first
    | with_reducible assumption | (with_reducible refine Has.mono ‹Has _ _› ?_; decide)
    | with_reducible apply State.Within.setupGate | with_reducible apply State.Within.writePosldHi | with_reducible intro _

theorem State.Within.refreshFbSafe {pm : Nat} {s0 : State} {s : State} {n : AxId} (h : State.Within pm s0 s) (hm : Has 0x10 pm) : State.Within pm s0 (State.refreshFbSafe s n) := by
  unfold Sys2Proof.Machine.State.refreshFbSafe
  repeat' first
    | with_reducible assumption | with_reducible apply State.Within.setFld

theorem State.Within.settleSca {pm : Nat} {s0 : State} {s : State} {n : AxId} (h : State.Within pm s0 s) (hm : Has 0x4010 pm) : State.Within pm s0 (State.settleSca s n) := by
  unfold Sys2Proof.Machine.State.settleSca
  repeat' first
    | with_reducible assumption | (with_reducible refine Has.mono ‹Has _ _› ?_; decide)
    | with_reducible apply State.Within.setFbk | with_reducible apply State.Within.refreshFbSafe
    | with_reducible apply State.Within.ite | with_reducible intro _

theorem State.Within.samplePins {pm : Nat} {s0 : State} {s : State} {n : AxId} {code : BitVec 3} {t : Nat} (h : State.Within pm s0 s) (hm : Has 0x4010 pm) : State.Within pm s0 (State.samplePins s n code t) := by
  unfold Sys2Proof.Machine.State.samplePins
  repeat' first
    | with_reducible assumption | (with_reducible refine Has.mono ‹Has _ _› ?_; decide)
    | with_reducible apply State.Within.settleSca | with_reducible apply State.Within.setFbk
    | with_reducible apply State.Within.refreshFbSafe | with_reducible apply State.Within.ite | with_reducible intro _

theorem State.Within.hallRead {pm : Nat} {s0 : State} {s : State} {n : AxId} {code : BitVec 3} (h : State.Within pm s0 s) (hm : Has 0x1000 pm) : State.Within pm s0 (State.hallRead s n code) := by
  unfold Sys2Proof.Machine.State.hallRead
  repeat' first
    | with_reducible assumption | with_reducible apply State.Within.setAx | with_reducible apply State.Within.ite
    | with_reducible intro _

theorem State.Within.initialHall {pm : Nat} {s0 : State} {s : State} {n : AxId} (h : State.Within pm s0 s) (hm : Has 0x800001010 pm) : State.Within pm s0 (State.initialHall s n) := by
  unfold Sys2Proof.Machine.State.initialHall
  repeat' first
    | with_reducible assumption | (with_reducible refine Has.mono ‹Has _ _› ?_; decide)
    | with_reducible apply State.Within.hallRead | with_reducible apply State.Within.setAx
    | with_reducible apply State.Within.refreshCoast | with_reducible apply State.Within.refreshAxis | simp only [] | split

theorem State.Within.noHall {pm : Nat} {s0 : State} {s : State} {n : AxId} (h : State.Within pm s0 s) (hm : Has 0x800001010 pm) : State.Within pm s0 (State.noHall s n) := by
  unfold Sys2Proof.Machine.State.noHall
  repeat' first
    | with_reducible assumption | (with_reducible refine Has.mono ‹Has _ _› ?_; decide)
    | with_reducible apply State.Within.hallRead | with_reducible apply State.Within.setAx
    | with_reducible apply State.Within.refreshCoast | with_reducible apply State.Within.refreshAxis

theorem State.Within.hallAlign {pm : Nat} {s0 : State} {s : State} {n : AxId} {a b : Nat} (h : State.Within pm s0 s) (hm : Has 0x10 pm) : State.Within pm s0 (State.hallAlign s n a b) := by
  unfold Sys2Proof.Machine.State.hallAlign
  repeat' first
    | with_reducible assumption | with_reducible apply State.Within.hwPut | with_reducible apply State.Within.setBit
    | with_reducible apply State.Within.ite | with_reducible intro _

theorem State.Within.execHallChange {n : AxId} {code : BitVec 3} {since : Nat} {s : State} {out : State} (ht : execHallChange n code since s = .next out) : State.Within 0xc80008f810 s out := by
  have h : State.Within 0xc80008f810 s s := State.Within.refl
  have hm : Has 0xc80008f810 0xc80008f810 := Has.self
  cases ht
  repeat' first
    | with_reducible assumption | (with_reducible refine Has.mono ‹Has _ _› ?_; decide)
    | with_reducible apply State.Within.samplePins | with_reducible apply State.Within.edgeCheck
    | with_reducible apply State.Within.setFbk | with_reducible apply State.Within.hallRead
    | with_reducible apply State.Within.setAx | with_reducible apply State.Within.setBit
    | with_reducible apply State.Within.raiseFbFault | with_reducible apply State.Within.refreshCoast
    | with_reducible apply State.Within.refreshAxis | with_reducible apply State.Within.hallLost
    | with_reducible apply State.Within.countMove | with_reducible apply State.Within.hallAlign
    | with_reducible apply State.Within.illegal | with_reducible apply State.Within.ite | with_reducible intro _ | simp only []
    | split

theorem State.Within.quadMove {pm : Nat} {s0 : State} {s : State} {n : AxId} {premium : Bool} {d : Int} (h : State.Within pm s0 s) (hm : Has 0xc010 pm) : State.Within pm s0 (State.quadMove s n premium d) := by
  unfold Sys2Proof.Machine.State.quadMove
  repeat' first
    | with_reducible assumption | (with_reducible refine Has.mono ‹Has _ _› ?_; decide)
    | with_reducible apply State.Within.setFbk | with_reducible apply State.Within.countMove
    | with_reducible apply State.Within.ite | with_reducible intro _

theorem State.Within.execQuadTransition {n : AxId} {premium a b z : Bool} {s : State} {out : State} (ht : execQuadTransition n premium a b z s = .next out) : State.Within 0x8d810 s out := by
  have h : State.Within 0x8d810 s s := State.Within.refl
  have hm : Has 0x8d810 0x8d810 := Has.self
  cases ht
  repeat' first
    | with_reducible assumption | (with_reducible refine Has.mono ‹Has _ _› ?_; decide)
    | with_reducible apply State.Within.setFbk | with_reducible apply State.Within.samplePins
    | with_reducible apply State.Within.edgeCheck | with_reducible apply State.Within.illegal
    | with_reducible apply State.Within.quadMove | with_reducible apply State.Within.ite | with_reducible intro _ | split

theorem State.Within.execIndexEvent {n : AxId} {s : State} {out : State} (ht : execIndexEvent n s = .next out) : State.Within 0x85810 s out := by
  have h : State.Within 0x85810 s s := State.Within.refl
  have hm : Has 0x85810 0x85810 := Has.self
  cases ht
  repeat' first
    | with_reducible assumption | (with_reducible refine Has.mono ‹Has _ _› ?_; decide)
    | with_reducible apply State.Within.samplePins | with_reducible apply State.Within.setFbk
    | with_reducible apply State.Within.setBit | with_reducible apply State.Within.raiseFbFault
    | with_reducible apply State.Within.ite | with_reducible intro _

theorem State.Within.execSincosPair {n : AxId} {sn cs : BitVec 16} {s : State} {out : State} (ht : execSincosPair n sn cs s = .next out) : State.Within 0x8d818 s out := by
  have h : State.Within 0x8d818 s s := State.Within.refl
  have hm : Has 0x8d818 0x8d818 := Has.self
  cases ht
  repeat' first
    | with_reducible assumption | (with_reducible refine Has.mono ‹Has _ _› ?_; decide)
    | with_reducible apply State.Within.setFbk | with_reducible apply State.Within.countMove
    | with_reducible apply State.Within.raiseFbFault | with_reducible apply State.Within.ite | with_reducible intro _
    | with_reducible apply State.WithinRec.free | simp only [State.within_mk]

theorem State.Within.execSsiTransferStart {n : AxId} {s : State} {out : State} (ht : execSsiTransferStart n s = .next out) : State.Within 0x4000 s out := by
  have h : State.Within 0x4000 s s := State.Within.refl
  have hm : Has 0x4000 0x4000 := Has.self
  cases ht
  repeat' first
    | with_reducible assumption | with_reducible apply State.Within.setFbk | with_reducible apply State.Within.ite
    | with_reducible intro _

theorem State.Within.execSsiTransferEnd {n : AxId} {bits : BitVec 64} {frameOk : Bool} {s : State} {out : State} (ht : execSsiTransferEnd n bits frameOk s = .next out) : State.Within 0x8d810 s out := by
  have h : State.Within 0x8d810 s s := State.Within.refl
  have hm : Has 0x8d810 0x8d810 := Has.self
  cases ht
  repeat' first
    | with_reducible assumption | (with_reducible refine Has.mono ‹Has _ _› ?_; decide)
    | with_reducible apply State.Within.setFbk | with_reducible apply State.Within.countMove
    | with_reducible apply State.Within.raiseFbFault | with_reducible apply State.Within.ite | with_reducible intro _
    | simp only [] | split

theorem State.Within.resetFeedback {pm : Nat} {s0 : State} {s : State} {n : AxId} (h : State.Within pm s0 s) (hm : Has 0x4000 pm) : State.Within pm s0 (State.resetFeedback s n) := by
  unfold Sys2Proof.Machine.State.resetFeedback
  repeat' first
    | with_reducible assumption | with_reducible apply State.Within.setFbk

theorem State.Within.execPosLoRead {fn : FnId} {n : AxId} {s : State} {out : State} (ht : execPosLoRead fn n s = .next out) : State.Within 0x80080 s out := by
  have h : State.Within 0x80080 s s := State.Within.refl
  have hm : Has 0x80080 0x80080 := Has.self
  cases ht
  repeat' first
    | with_reducible assumption | (with_reducible refine Has.mono ‹Has _ _› ?_; decide)
    | with_reducible apply State.Within.setFn | with_reducible apply State.Within.ite | with_reducible intro _
    | with_reducible apply State.WithinRec.lastRead | simp only [State.within_mk]

theorem State.Within.execZposLoRead {fn : FnId} {n : AxId} {s : State} {out : State} (ht : execZposLoRead fn n s = .next out) : State.Within 0x80080 s out := by
  have h : State.Within 0x80080 s s := State.Within.refl
  have hm : Has 0x80080 0x80080 := Has.self
  cases ht
  repeat' first
    | with_reducible assumption | (with_reducible refine Has.mono ‹Has _ _› ?_; decide)
    | with_reducible apply State.Within.setFn | with_reducible apply State.Within.ite | with_reducible intro _
    | with_reducible apply State.WithinRec.lastRead | simp only [State.within_mk]

end Sys2Proof.Machine
end

