-- ==== Sys2Proof/Laws/Frame/Motion.lean ====
section
/-! SUPPORT. What every operation and every meaning of Machine/Motion.lean may change. -/

namespace Sys2Proof.Machine

theorem State.Within.startHead {pm : Nat} {s0 : State} {s : State} {n : AxId} {f : BitVec 32} {t : Nat} {ratio : Frac} (h : State.Within pm s0 s) (hm : Has 0x10000 pm) : State.Within pm s0 (State.startHead s n f t ratio) := by
  unfold Sys2Proof.Machine.State.startHead
  repeat' first
    | with_reducible assumption | with_reducible apply State.Within.setMotion | simp only [] | split

theorem State.Within.standStill {pm : Nat} {s0 : State} {s : State} {n : AxId} (h : State.Within pm s0 s) (hm : Has 0x10000 pm) : State.Within pm s0 (State.standStill s n) := by
  unfold Sys2Proof.Machine.State.standStill
  repeat' first
    | with_reducible assumption | with_reducible apply State.Within.setMotion

theorem State.Within.advanceQueue {pm : Nat} {s0 : State} {s : State} {n : AxId} (h : State.Within pm s0 s) (hm : Has 0x90010 pm) : State.Within pm s0 (State.advanceQueue s n) := by
  unfold Sys2Proof.Machine.State.advanceQueue
  repeat' first
    | with_reducible assumption | (with_reducible refine Has.mono ‹Has _ _› ?_; decide)
    | with_reducible apply State.Within.setQueue | with_reducible apply State.Within.startHead
    | with_reducible apply State.Within.complete | with_reducible apply State.Within.ite | with_reducible intro _ | simp only []
    | split

theorem State.Within.queueMove {pm : Nat} {s0 : State} {s : State} {src : CmdSrc} {n : AxId} {cmd : HostCmd} {d : Nat} (h : State.Within pm s0 s) (hm : Has 0x90810 pm) : State.Within pm s0 (State.queueMove s src n cmd d) := by
  unfold Sys2Proof.Machine.State.queueMove
  repeat' first
    | with_reducible assumption | (with_reducible refine Has.mono ‹Has _ _› ?_; decide)
    | with_reducible apply State.Within.cancelAxis | with_reducible apply State.Within.setQueue
    | with_reducible apply State.Within.tellGroup | with_reducible apply State.Within.advanceQueue
    | with_reducible apply State.Within.ite | with_reducible intro _

theorem State.Within.execMoveAbs {src : CmdSrc} {n : AxId} {t : Int} {v a d j : F32} {s : State} {out : State} (ht : execMoveAbs src n t v a d j s = .next out) : State.Within 0x190810 s out := by
  have h : State.Within 0x190810 s s := State.Within.refl
  have hm : Has 0x190810 0x190810 := Has.self
  cases ht
  repeat' first
    | with_reducible assumption | (with_reducible refine Has.mono ‹Has _ _› ?_; decide)
    | with_reducible apply State.Within.deliver | with_reducible apply State.Within.queueMove | with_reducible intro _

theorem State.Within.execMoveVel {src : CmdSrc} {n : AxId} {vel a j : F32} {s : State} {out : State} (ht : execMoveVel src n vel a j s = .next out) : State.Within 0x190810 s out := by
  have h : State.Within 0x190810 s s := State.Within.refl
  have hm : Has 0x190810 0x190810 := Has.self
  cases ht
  repeat' first
    | with_reducible assumption | (with_reducible refine Has.mono ‹Has _ _› ?_; decide)
    | with_reducible apply State.Within.deliver | with_reducible apply State.Within.queueMove | with_reducible intro _

theorem State.Within.execGear {src : CmdSrc} {n : AxId} {gsrc master : BitVec 8} {num : Int} {den ramp : Nat} {ph : Int} {s : State} {out : State} (ht : execGear src n gsrc master num den ramp ph s = .next out) : State.Within 0x190810 s out := by
  have h : State.Within 0x190810 s s := State.Within.refl
  have hm : Has 0x190810 0x190810 := Has.self
  cases ht
  repeat' first
    | with_reducible assumption | (with_reducible refine Has.mono ‹Has _ _› ?_; decide)
    | with_reducible apply State.Within.deliver | with_reducible apply State.Within.queueMove | with_reducible intro _

theorem State.Within.execCam {src : CmdSrc} {n : AxId} {csrc master cam : BitVec 8} {mp : Nat} {mo : Int} {scale rise : F32} {s : State} {out : State} (ht : execCam src n csrc master cam mp mo scale rise s = .next out) : State.Within 0x190810 s out := by
  have h : State.Within 0x190810 s s := State.Within.refl
  have hm : Has 0x190810 0x190810 := Has.self
  cases ht
  repeat' first
    | with_reducible assumption | (with_reducible refine Has.mono ‹Has _ _› ?_; decide)
    | with_reducible apply State.Within.deliver | with_reducible apply State.Within.queueMove | with_reducible intro _

theorem State.Within.execHome {src : CmdSrc} {n : AxId} {reverse : Bool} {iHome : BitVec 16} {vHome : F32} {homePos : Int} {backoff maxDist : Nat} {s : State} {out : State} (ht : execHome src n reverse iHome vHome homePos backoff maxDist s = .next out) : State.Within 0x190810 s out := by
  have h : State.Within 0x190810 s s := State.Within.refl
  have hm : Has 0x190810 0x190810 := Has.self
  cases ht
  repeat' first
    | with_reducible assumption | (with_reducible refine Has.mono ‹Has _ _› ?_; decide)
    | with_reducible apply State.Within.deliver | with_reducible apply State.Within.queueMove | with_reducible intro _

theorem State.Within.applyLim {pm : Nat} {s0 : State} {s : State} {n : AxId} {f : BitVec 32} {t : Nat} {r : MailRec} (h : State.Within pm s0 s) (hm : Has 0x90000 pm) : State.Within pm s0 (State.applyLim s n f t r) := by
  unfold Sys2Proof.Machine.State.applyLim
  repeat' first
    | with_reducible assumption | (with_reducible refine Has.mono ‹Has _ _› ?_; decide)
    | with_reducible apply State.Within.doneAxis | with_reducible apply State.Within.setMotion
    | with_reducible apply State.Within.ite | with_reducible intro _ | simp only [] | split

theorem State.Within.applyLims {pm : Nat} {s0 : State} {s : State} {n : AxId} {f : BitVec 32} {t b : Nat} (h : State.Within pm s0 s) (hm : Has 0x90000 pm) : State.Within pm s0 (State.applyLims s n f t b) := by
  unfold Sys2Proof.Machine.State.applyLims
  repeat' first
    | with_reducible assumption | (with_reducible refine Has.mono ‹Has _ _› ?_; decide)
    | with_reducible apply State.Within.applyLim | with_reducible apply State.Within.setMotion
    | with_reducible apply State.Within.forAll | with_reducible intro _

theorem State.Within.dropLims {pm : Nat} {s0 : State} {s : State} {n : AxId} (h : State.Within pm s0 s) (hm : Has 0x90000 pm) : State.Within pm s0 (State.dropLims s n) := by
  unfold Sys2Proof.Machine.State.dropLims
  repeat' first
    | with_reducible assumption | (with_reducible refine Has.mono ‹Has _ _› ?_; decide)
    | with_reducible apply State.Within.doneAxis | with_reducible apply State.Within.setMotion
    | with_reducible apply State.Within.forAll | with_reducible intro _

theorem State.Within.applyStepCfg {pm : Nat} {s0 : State} {s : State} {n : AxId} (h : State.Within pm s0 s) (hm : Has 0x90000 pm) : State.Within pm s0 (State.applyStepCfg s n) := by
  unfold Sys2Proof.Machine.State.applyStepCfg
  repeat' first
    | with_reducible assumption | (with_reducible refine Has.mono ‹Has _ _› ?_; decide)
    | with_reducible apply State.Within.setMotion | with_reducible apply State.Within.doneAxis
    | with_reducible apply State.Within.forAll | with_reducible intro _

theorem State.Within.trajectoryMiss {pm : Nat} {s0 : State} {s : State} {n : AxId} {f : BitVec 32} (h : State.Within pm s0 s) (hm : Has 0x90010 pm) : State.Within pm s0 (State.trajectoryMiss s n f) := by
  unfold Sys2Proof.Machine.State.trajectoryMiss
  repeat' first
    | with_reducible assumption | (with_reducible refine Has.mono ‹Has _ _› ?_; decide)
    | with_reducible apply State.Within.setMotion | with_reducible apply State.Within.event
    | with_reducible apply State.Within.emptyQueue | with_reducible apply State.Within.standStill
    | with_reducible apply State.Within.ite | with_reducible intro _

theorem State.Within.writeHalt {pm : Nat} {s0 : State} {s : State} {n : AxId} (h : State.Within pm s0 s) (hm : Has 0x1000 pm) : State.Within pm s0 (State.writeHalt s n) := by
  unfold Sys2Proof.Machine.State.writeHalt
  repeat' first
    | with_reducible assumption | with_reducible apply State.Within.setAx

theorem State.Within.stalled {pm : Nat} {s0 : State} {s : State} {n : AxId} {ref : Int} {homing : Bool} (h : State.Within pm s0 s) (hm : Has 0x91010 pm) : State.Within pm s0 (State.stalled s n ref homing) := by
  unfold Sys2Proof.Machine.State.stalled
  repeat' first
    | with_reducible assumption | (with_reducible refine Has.mono ‹Has _ _› ?_; decide)
    | with_reducible apply State.Within.writeHalt | with_reducible apply State.Within.setQueue
    | with_reducible apply State.Within.standStill | with_reducible apply State.Within.complete
    | with_reducible apply State.Within.cancelAxis | with_reducible apply State.Within.dropLims
    | with_reducible apply State.Within.event | with_reducible apply State.Within.ite | with_reducible apply State.Within.forAll
    | with_reducible intro _ | simp only [] | split

theorem State.Within.homeMissed {pm : Nat} {s0 : State} {s : State} {n : AxId} {ref : Int} (h : State.Within pm s0 s) (hm : Has 0x91010 pm) : State.Within pm s0 (State.homeMissed s n ref) := by
  unfold Sys2Proof.Machine.State.homeMissed
  repeat' first
    | with_reducible assumption | (with_reducible refine Has.mono ‹Has _ _› ?_; decide)
    | with_reducible apply State.Within.writeHalt | with_reducible apply State.Within.complete
    | with_reducible apply State.Within.setQueue | with_reducible apply State.Within.standStill | simp only [] | split

theorem State.Within.markEnd {pm : Nat} {s0 : State} {s : State} {n : AxId} {flags : BitVec 8} {ref : Int} (h : State.Within pm s0 s) (hm : Has 0x10000 pm) : State.Within pm s0 (State.markEnd s n flags ref) := by
  unfold Sys2Proof.Machine.State.markEnd
  repeat' first
    | with_reducible assumption | with_reducible apply State.Within.setMotion | with_reducible apply State.Within.ite
    | with_reducible intro _ | simp only [] | split

theorem State.Within.refreshStep {pm : Nat} {s0 : State} {s : State} {n : AxId} (h : State.Within pm s0 s) (hm : Has 0x1010 pm) : State.Within pm s0 (State.refreshStep s n) := by
  unfold Sys2Proof.Machine.State.refreshStep
  repeat' first
    | with_reducible assumption | (with_reducible refine Has.mono ‹Has _ _› ?_; decide)
    | with_reducible apply State.Within.setAx | with_reducible apply State.Within.setBit

theorem State.Within.captureStep {pm : Nat} {s0 : State} {s : State} {n : AxId} (h : State.Within pm s0 s) (hm : Has 0x11010 pm) : State.Within pm s0 (State.captureStep s n) := by
  unfold Sys2Proof.Machine.State.captureStep
  repeat' first
    | with_reducible assumption | (with_reducible refine Has.mono ‹Has _ _› ?_; decide)
    | with_reducible apply State.Within.setAx | with_reducible apply State.Within.setMotion
    | with_reducible apply State.Within.refreshStep

theorem State.Within.haltTimer {pm : Nat} {s0 : State} {s : State} {n : AxId} (h : State.Within pm s0 s) (hm : Has 0x11010 pm) : State.Within pm s0 (State.haltTimer s n) := by
  unfold Sys2Proof.Machine.State.haltTimer
  repeat' first
    | with_reducible assumption | (with_reducible refine Has.mono ‹Has _ _› ?_; decide)
    | with_reducible apply State.Within.setMotion | with_reducible apply State.Within.refreshStep

theorem State.Within.readStepRing {pm : Nat} {s0 : State} {s : State} {n : AxId} {t : Nat} {out : State} (h : State.Within pm s0 s) (hm : Has 0x11010 pm) (ht : State.readStepRing s n t = some out) : State.Within pm s0 out := by
  unfold Sys2Proof.Machine.State.readStepRing at ht
  dsimp only at ht
  repeat' split at ht
  all_goals first | contradiction | (injection ht with e; subst e)
  repeat' first
    | with_reducible assumption | (with_reducible refine Has.mono ‹Has _ _› ?_; decide)
    | with_reducible apply State.Within.setAx | with_reducible apply State.Within.setMotion
    | with_reducible apply State.Within.refreshStep

theorem State.Within.restartTimer {pm : Nat} {s0 : State} {s : State} {n : AxId} {t : Nat} (h : State.Within pm s0 s) (hm : Has 0x11010 pm) : State.Within pm s0 (State.restartTimer s n t) := by
  unfold Sys2Proof.Machine.State.restartTimer
  repeat' first
    | with_reducible assumption | refine State.Within.readStepRing ?_ ?_ (by with_reducible assumption)
    | with_reducible apply State.Within.ite | with_reducible apply State.Within.getD | with_reducible intro _

theorem State.Within.execStepTimerExpiry {n : AxId} {s : State} {out : State} (ht : execStepTimerExpiry n s = .next out) : State.Within 0x1d010 s out := by
  have h : State.Within 0x1d010 s s := State.Within.refl
  have hm : Has 0x1d010 0x1d010 := Has.self
  cases ht
  repeat' first
    | with_reducible assumption | (with_reducible refine Has.mono ‹Has _ _› ?_; decide)
    | with_reducible apply State.Within.setWord | with_reducible apply State.Within.moveCounter
    | with_reducible apply State.Within.setMotion | with_reducible apply State.Within.countSat
    | refine State.Within.readStepRing ?_ ?_ (by with_reducible assumption) | with_reducible apply State.Within.ite
    | with_reducible intro _ | simp only [] | split

theorem State.Within.execLatchArm {src : CmdSrc} {n : AxId} {unit : Fin 2} {dio edge mode target : BitVec 8} {s : State} {out : State} (ht : execLatchArm src n unit dio edge mode target s = .next out) : State.Within 0x190000 s out := by
  have h : State.Within 0x190000 s s := State.Within.refl
  have hm : Has 0x190000 0x190000 := Has.self
  cases ht
  repeat' first
    | with_reducible assumption | (with_reducible refine Has.mono ‹Has _ _› ?_; decide)
    | with_reducible apply State.Within.deliver | with_reducible apply State.Within.setMotion
    | with_reducible apply State.Within.doneAxis | with_reducible intro _

theorem State.Within.feedLatches {pm : Nat} {s0 : State} {s : State} {d : DioId} {te : Nat} {falling : Bool} (h : State.Within pm s0 s) (hm : Has 0x10000 pm) : State.Within pm s0 (State.feedLatches s d te falling) := by
  unfold Sys2Proof.Machine.State.feedLatches
  repeat' first
    | with_reducible assumption | with_reducible apply State.WithinRec.mot | simp only [State.within_mk]

theorem State.Within.execLatchRecord {n : AxId} {unit : Fin 2} {s : State} {out : State} (ht : execLatchRecord n unit s = .next out) : State.Within 0x90018 s out := by
  have h : State.Within 0x90018 s s := State.Within.refl
  have hm : Has 0x90018 0x90018 := Has.self
  cases ht
  repeat' first
    | with_reducible assumption | (with_reducible refine Has.mono ‹Has _ _› ?_; decide)
    | with_reducible apply State.Within.setMotion | with_reducible apply State.Within.setBit
    | with_reducible apply State.Within.complete | with_reducible apply State.Within.ite | with_reducible intro _
    | with_reducible apply State.WithinRec.free | simp only [State.within_mk] | split

theorem State.Within.receiveShaft {pm : Nat} {s0 : State} {s : State} {p : List Byte} (h : State.Within pm s0 s) (hm : Has 0x20110 pm) : State.Within pm s0 (State.receiveShaft s p) := by
  unfold Sys2Proof.Machine.State.receiveShaft
  repeat' first
    | with_reducible assumption | (with_reducible refine Has.mono ‹Has _ _› ?_; decide)
    | with_reducible apply State.Within.countSat | with_reducible apply State.Within.setFld
    | with_reducible apply State.Within.setBit | with_reducible apply State.Within.ite | with_reducible intro _
    | with_reducible apply State.WithinRec.shmem_shaft | simp only [State.within_mk]

theorem State.Within.execShaftSampleRx {payload : List Byte} {s : State} {out : State} (ht : execShaftSampleRx payload s = .next out) : State.Within 0x20110 s out := by
  have h : State.Within 0x20110 s s := State.Within.refl
  have hm : Has 0x20110 0x20110 := Has.self
  cases ht
  repeat' first
    | with_reducible assumption | with_reducible apply State.Within.receiveShaft

theorem State.Within.shaftLoss {pm : Nat} {s0 : State} {s : State} (h : State.Within pm s0 s) (hm : Has 0x90810 pm) : State.Within pm s0 (State.shaftLoss s) := by
  unfold Sys2Proof.Machine.State.shaftLoss
  repeat' first
    | with_reducible assumption | (with_reducible refine Has.mono ‹Has _ _› ?_; decide)
    | with_reducible apply State.Within.setBit | with_reducible apply State.Within.event
    | with_reducible apply State.Within.raiseEvent | with_reducible apply State.Within.setQueue
    | with_reducible apply State.Within.setMotion | with_reducible apply State.Within.complete
    | with_reducible apply State.Within.cancelAxis | with_reducible apply State.Within.dropLims
    | with_reducible apply State.Within.ite | with_reducible apply State.Within.forAll | with_reducible intro _ | simp only []
    | split

theorem State.Within.execShaftSampleMiss {dtk : Nat} {s : State} {out : State} (ht : execShaftSampleMiss dtk s = .next out) : State.Within 0xb0810 s out := by
  have h : State.Within 0xb0810 s s := State.Within.refl
  have hm : Has 0xb0810 0xb0810 := Has.self
  cases ht
  repeat' first
    | with_reducible assumption | (with_reducible refine Has.mono ‹Has _ _› ?_; decide)
    | with_reducible apply State.Within.countSat | with_reducible apply State.Within.shaftLoss
    | with_reducible apply State.Within.ite | with_reducible intro _ | with_reducible apply State.WithinRec.shaft
    | simp only [State.within_mk]

end Sys2Proof.Machine
end

