-- ==== Sys2Proof/Laws/Frame/PowerStage.lean ====
section
/-! SUPPORT. What every operation and every meaning of Machine/PowerStage.lean may change. -/

namespace Sys2Proof.Machine

theorem State.Within.judgeEnvelope {pm : Nat} {s0 : State} {s : State} {b : BankId} (h : State.Within pm s0 s) (hm : Has 0x10 pm) : State.Within pm s0 (State.judgeEnvelope s b) := by
  unfold Sys2Proof.Machine.State.judgeEnvelope
  repeat' first
    | with_reducible assumption | with_reducible apply State.Within.setBit | with_reducible apply State.Within.ite
    | with_reducible intro _

theorem State.Within.tryStart {pm : Nat} {s0 : State} {s : State} {b : BankId} (h : State.Within pm s0 s) (hm : Has 0x2010 pm) : State.Within pm s0 (State.tryStart s b) := by
  unfold Sys2Proof.Machine.State.tryStart
  repeat' first
    | with_reducible assumption | (with_reducible refine Has.mono ‹Has _ _› ?_; decide)
    | with_reducible apply State.Within.setBnk | with_reducible apply State.Within.judgeEnvelope
    | with_reducible apply State.Within.ite | with_reducible intro _ | simp only [] | split

theorem State.Within.restart {pm : Nat} {s0 : State} {s : State} {b : BankId} (h : State.Within pm s0 s) (hm : Has 0x2010 pm) : State.Within pm s0 (State.restart s b) := by
  unfold Sys2Proof.Machine.State.restart
  repeat' first
    | with_reducible assumption | (with_reducible refine Has.mono ‹Has _ _› ?_; decide)
    | with_reducible apply State.Within.setBnk | with_reducible apply State.Within.tryStart | simp only [] | split

theorem State.Within.writeCarrierFields {pm : Nat} {s0 : State} {s : State} {b : BankId} {w : Word} (h : State.Within pm s0 s) (hm : Has 0x2010 pm) : State.Within pm s0 (State.writeCarrierFields s b w) := by
  unfold Sys2Proof.Machine.State.writeCarrierFields
  repeat' first
    | with_reducible assumption | (with_reducible refine Has.mono ‹Has _ _› ?_; decide)
    | with_reducible apply State.Within.setBit | with_reducible apply State.Within.setFld
    | with_reducible apply State.Within.setBnk | with_reducible apply State.Within.refreshCapt
    | with_reducible apply State.Within.restart | with_reducible apply State.Within.ite | with_reducible intro _

theorem State.Within.stopPreload {pm : Nat} {s0 : State} {s : State} {n : AxId} {t : Nat} (h : State.Within pm s0 s) (hm : Has 0x4000 pm) : State.Within pm s0 (State.stopPreload s n t) := by
  unfold Sys2Proof.Machine.State.stopPreload
  repeat' first
    | with_reducible assumption | with_reducible apply State.Within.setFbk | simp only [] | split

theorem State.Within.carrierStartRequest {pm : Nat} {s0 : State} {s : State} {b : BankId} {w : Word} (h : State.Within pm s0 s) (hm : Has 0x2010 pm) : State.Within pm s0 (State.carrierStartRequest s b w) := by
  unfold Sys2Proof.Machine.State.carrierStartRequest
  repeat' first
    | with_reducible assumption | (with_reducible refine Has.mono ‹Has _ _› ?_; decide)
    | with_reducible apply State.Within.writeCarrierFields | with_reducible apply State.Within.setBit
    | with_reducible apply State.Within.setBnk | with_reducible apply State.Within.tryStart | simp only [] | split

theorem State.Within.execCarrierStartRequest {b : BankId} {fn : FnId} {w : Word} {s : State} {out : State} (ht : execCarrierStartRequest b fn w s = .next out) : State.Within 0x2010 s out := by
  have h : State.Within 0x2010 s s := State.Within.refl
  have hm : Has 0x2010 0x2010 := Has.self
  cases ht
  repeat' first
    | with_reducible assumption | (with_reducible refine Has.mono ‹Has _ _› ?_; decide)
    | with_reducible apply State.Within.setupGate | with_reducible apply State.Within.carrierStartRequest
    | with_reducible intro _

theorem State.Within.applyFb {pm : Nat} {s0 : State} {s : State} {p : FbWrite → Bool} (h : State.Within pm s0 s) (hm : Has 0x60 pm) : State.Within pm s0 (State.applyFb s p) := by
  unfold Sys2Proof.Machine.State.applyFb
  repeat' first
    | with_reducible assumption | with_reducible apply State.WithinRec.force_fbPend | simp only [State.within_mk]

theorem State.Within.fbAtBank {pm : Nat} {s0 : State} {s : State} {b : BankId} {t : Nat} (h : State.Within pm s0 s) (hm : Has 0x60 pm) : State.Within pm s0 (State.fbAtBank s b t) := by
  unfold Sys2Proof.Machine.State.fbAtBank
  repeat' first
    | with_reducible assumption | with_reducible apply State.Within.applyFb

theorem State.Within.fbAtAxis {pm : Nat} {s0 : State} {s : State} {n : AxId} {t : Nat} (h : State.Within pm s0 s) (hm : Has 0x60 pm) : State.Within pm s0 (State.fbAtAxis s n t) := by
  unfold Sys2Proof.Machine.State.fbAtAxis
  repeat' first
    | with_reducible assumption | with_reducible apply State.Within.applyFb

theorem State.Within.stepPeriod {pm : Nat} {s0 : State} {s : State} {b : BankId} {t : Nat} (h : State.Within pm s0 s) (hm : Has 0x2010 pm) : State.Within pm s0 (State.stepPeriod s b t) := by
  unfold Sys2Proof.Machine.State.stepPeriod
  repeat' first
    | with_reducible assumption | (with_reducible refine Has.mono ‹Has _ _› ?_; decide)
    | with_reducible apply State.Within.setBnk | with_reducible apply State.Within.setFld

theorem State.Within.captureBank {pm : Nat} {s0 : State} {s : State} {b : BankId} {t : Nat} (h : State.Within pm s0 s) (hm : Has 0x11000 pm) : State.Within pm s0 (State.captureBank s b t) := by
  unfold Sys2Proof.Machine.State.captureBank
  repeat' first
    | with_reducible assumption | (with_reducible refine Has.mono ‹Has _ _› ?_; decide)
    | with_reducible apply State.Within.setAx | with_reducible apply State.Within.setMotion
    | with_reducible apply State.Within.forAll | with_reducible intro _

theorem State.Within.groupPeriod {pm : Nat} {s0 : State} {s : State} {e : EngId} (h : State.Within pm s0 s) (hm : Has 0xc8001d3810 pm) : State.Within pm s0 (State.groupPeriod s e) := by
  unfold Sys2Proof.Machine.State.groupPeriod
  repeat' first
    | with_reducible assumption | (with_reducible refine Has.mono ‹Has _ _› ?_; decide)
    | with_reducible apply State.Within.engineFault | with_reducible apply State.Within.declare
    | with_reducible apply State.Within.setEng | with_reducible apply State.Within.newPeriod
    | with_reducible apply State.Within.raiseEvent | with_reducible apply State.Within.ite | with_reducible intro _

theorem State.Within.groupPeriods {pm : Nat} {s0 : State} {s : State} {b : BankId} (h : State.Within pm s0 s) (hm : Has 0xc8001d3810 pm) : State.Within pm s0 (State.groupPeriods s b) := by
  unfold Sys2Proof.Machine.State.groupPeriods
  repeat' first
    | with_reducible assumption | with_reducible apply State.Within.groupPeriod | with_reducible apply State.Within.forAll
    | with_reducible intro _

theorem State.Within.bankFrame {pm : Nat} {s0 : State} {s : State} {b : BankId} {t : Nat} {f : BitVec 32} (h : State.Within pm s0 s) (hm : Has 0xc8001d3870 pm) : State.Within pm s0 (State.bankFrame s b t f) := by
  unfold Sys2Proof.Machine.State.bankFrame
  repeat' first
    | with_reducible assumption | (with_reducible refine Has.mono ‹Has _ _› ?_; decide)
    | with_reducible apply State.Within.fbAtBank | with_reducible apply State.Within.countSat
    | with_reducible apply State.Within.setBnk | with_reducible apply State.Within.setFld
    | with_reducible apply State.Within.shareDue | with_reducible apply State.Within.stepPeriod
    | with_reducible apply State.Within.captureBank | with_reducible apply State.Within.groupPeriods
    | with_reducible apply State.Within.ite | with_reducible apply State.Within.forAll | with_reducible intro _

theorem State.Within.execCarrierStart {b : BankId} {s : State} {out : State} (ht : execCarrierStart b s = .next out) : State.Within 0xc8001d3870 s out := by
  have h : State.Within 0xc8001d3870 s s := State.Within.refl
  have hm : Has 0xc8001d3870 0xc8001d3870 := Has.self
  cases ht
  repeat' first
    | with_reducible assumption | (with_reducible refine Has.mono ‹Has _ _› ?_; decide)
    | with_reducible apply State.Within.setBnk | with_reducible apply State.Within.setBit
    | with_reducible apply State.Within.refreshAxis | with_reducible apply State.Within.bankFrame
    | with_reducible apply State.Within.refreshBrake | with_reducible apply State.Within.ite
    | with_reducible apply State.Within.forAll | with_reducible intro _ | simp only [] | split

theorem State.Within.carrierStopRequest {pm : Nat} {s0 : State} {s : State} {b : BankId} {w : Word} (h : State.Within pm s0 s) (hm : Has 0x2010 pm) : State.Within pm s0 (State.carrierStopRequest s b w) := by
  unfold Sys2Proof.Machine.State.carrierStopRequest
  repeat' first
    | with_reducible assumption | (with_reducible refine Has.mono ‹Has _ _› ?_; decide)
    | with_reducible apply State.Within.setBit | with_reducible apply State.Within.writeCarrierFields
    | with_reducible apply State.Within.setBnk | with_reducible apply State.Within.ite | with_reducible intro _ | simp only []
    | split

theorem State.Within.execCarrierStopRequest {b : BankId} {fn : FnId} {w : Word} {s : State} {out : State} (ht : execCarrierStopRequest b fn w s = .next out) : State.Within 0x2010 s out := by
  have h : State.Within 0x2010 s s := State.Within.refl
  have hm : Has 0x2010 0x2010 := Has.self
  cases ht
  repeat' first
    | with_reducible assumption | (with_reducible refine Has.mono ‹Has _ _› ?_; decide)
    | with_reducible apply State.Within.setupGate | with_reducible apply State.Within.carrierStopRequest
    | with_reducible intro _

theorem State.Within.execCarrierStop {b : BankId} {s : State} {out : State} (ht : execCarrierStop b s = .next out) : State.Within 0x800097850 s out := by
  have h : State.Within 0x800097850 s s := State.Within.refl
  have hm : Has 0x800097850 0x800097850 := Has.self
  cases ht
  repeat' first
    | with_reducible assumption | (with_reducible refine Has.mono ‹Has _ _› ?_; decide)
    | with_reducible apply State.Within.setBnk | with_reducible apply State.Within.setFld
    | with_reducible apply State.Within.setBit | with_reducible apply State.Within.stopPreload
    | with_reducible apply State.Within.setAx | with_reducible apply State.Within.enterOff
    | with_reducible apply State.Within.refreshAxis | with_reducible apply State.Within.refreshCoast
    | with_reducible apply State.Within.tryStart | with_reducible apply State.Within.ite
    | with_reducible apply State.Within.forAll | with_reducible intro _ | with_reducible apply State.WithinRec.fbPend
    | simp only [State.within_mk] | split

theorem State.Within.execFbWriteStopped {b : BankId} {s : State} {out : State} (ht : execFbWriteStopped b s = .next out) : State.Within 0x15070 s out := by
  have h : State.Within 0x15070 s s := State.Within.refl
  have hm : Has 0x15070 0x15070 := Has.self
  cases ht
  repeat' first
    | with_reducible assumption | (with_reducible refine Has.mono ‹Has _ _› ?_; decide)
    | with_reducible apply State.Within.applyFb | with_reducible apply State.Within.takePreload
    | with_reducible apply State.Within.refreshAxis | with_reducible apply State.Within.ite
    | with_reducible apply State.Within.forAll | with_reducible intro _

theorem State.Within.setVm {pm : Nat} {s0 : State} {s : State} {b : BankId} {vm : BitVec 12} (h : State.Within pm s0 s) (hm : Has 0x2000 pm) : State.Within pm s0 (State.setVm s b vm) := by
  unfold Sys2Proof.Machine.State.setVm
  repeat' first
    | with_reducible assumption | with_reducible apply State.Within.setBnk

theorem State.Within.judgeL1 {pm : Nat} {s0 : State} {s : State} {b : BankId} (h : State.Within pm s0 s) (hm : Has 0x2010 pm) : State.Within pm s0 (State.judgeL1 s b) := by
  unfold Sys2Proof.Machine.State.judgeL1
  repeat' first
    | with_reducible assumption | (with_reducible refine Has.mono ‹Has _ _› ?_; decide)
    | with_reducible apply State.Within.refreshBrake | with_reducible apply State.Within.setBnk
    | with_reducible apply State.Within.ite | with_reducible intro _

theorem State.Within.setVmL2 {pm : Nat} {s0 : State} {s : State} {b : BankId} {on : Bool} (h : State.Within pm s0 s) (hm : Has 0xc000083810 pm) : State.Within pm s0 (State.setVmL2 s b on) := by
  unfold Sys2Proof.Machine.State.setVmL2
  repeat' first
    | with_reducible assumption | (with_reducible refine Has.mono ‹Has _ _› ?_; decide)
    | with_reducible apply State.Within.withDemandsOf | with_reducible apply State.Within.setBnk
    | with_reducible apply State.Within.setBit | with_reducible apply State.Within.ite | with_reducible intro _

theorem State.Within.judgeL2 {pm : Nat} {s0 : State} {s : State} {b : BankId} (h : State.Within pm s0 s) (hm : Has 0xc000083810 pm) : State.Within pm s0 (State.judgeL2 s b) := by
  unfold Sys2Proof.Machine.State.judgeL2
  repeat' first
    | with_reducible assumption | with_reducible apply State.Within.setVmL2 | with_reducible apply State.Within.ite
    | with_reducible intro _

theorem State.Within.judgeUv {pm : Nat} {s0 : State} {s : State} {b : BankId} (h : State.Within pm s0 s) (hm : Has 0x80010 pm) : State.Within pm s0 (State.judgeUv s b) := by
  unfold Sys2Proof.Machine.State.judgeUv
  repeat' first
    | with_reducible assumption | (with_reducible refine Has.mono ‹Has _ _› ?_; decide)
    | with_reducible apply State.Within.setBit | with_reducible apply State.Within.event | with_reducible apply State.Within.ite
    | with_reducible intro _

theorem State.Within.judgeVm {pm : Nat} {s0 : State} {s : State} {b : BankId} (h : State.Within pm s0 s) (hm : Has 0xc000083810 pm) : State.Within pm s0 (State.judgeVm s b) := by
  unfold Sys2Proof.Machine.State.judgeVm
  repeat' first
    | with_reducible assumption | (with_reducible refine Has.mono ‹Has _ _› ?_; decide)
    | with_reducible apply State.Within.judgeL1 | with_reducible apply State.Within.judgeL2
    | with_reducible apply State.Within.judgeUv

theorem State.Within.execVmL1 {b : BankId} {vm : BitVec 12} {s : State} {out : State} (ht : execVmL1 b vm s = .next out) : State.Within 0x2010 s out := by
  have h : State.Within 0x2010 s s := State.Within.refl
  have hm : Has 0x2010 0x2010 := Has.self
  cases ht
  repeat' first
    | with_reducible assumption | (with_reducible refine Has.mono ‹Has _ _› ?_; decide)
    | with_reducible apply State.Within.setVm | with_reducible apply State.Within.judgeL1

theorem State.Within.execVmL2 {b : BankId} {vm : BitVec 12} {s : State} {out : State} (ht : execVmL2 b vm s = .next out) : State.Within 0xc000083810 s out := by
  have h : State.Within 0xc000083810 s s := State.Within.refl
  have hm : Has 0xc000083810 0xc000083810 := Has.self
  cases ht
  repeat' first
    | with_reducible assumption | (with_reducible refine Has.mono ‹Has _ _› ?_; decide)
    | with_reducible apply State.Within.setVm | with_reducible apply State.Within.judgeL2

theorem State.Within.execVmLow {b : BankId} {vm : BitVec 12} {s : State} {out : State} (ht : execVmLow b vm s = .next out) : State.Within 0x82010 s out := by
  have h : State.Within 0x82010 s s := State.Within.refl
  have hm : Has 0x82010 0x82010 := Has.self
  cases ht
  repeat' first
    | with_reducible assumption | (with_reducible refine Has.mono ‹Has _ _› ?_; decide)
    | with_reducible apply State.Within.setVm | with_reducible apply State.Within.judgeUv

theorem State.Within.execBrakeTimeout {b : BankId} {s : State} {out : State} (ht : execBrakeTimeout b s = .next out) : State.Within 0xc000083810 s out := by
  have h : State.Within 0xc000083810 s s := State.Within.refl
  have hm : Has 0xc000083810 0xc000083810 := Has.self
  cases ht
  repeat' first
    | with_reducible assumption | (with_reducible refine Has.mono ‹Has _ _› ?_; decide)
    | with_reducible apply State.Within.setBnk | with_reducible apply State.Within.refreshBrake
    | with_reducible apply State.Within.setBit | with_reducible apply State.Within.setVmL2
    | with_reducible apply State.Within.ite | with_reducible intro _

theorem State.Within.execVgdUv {b : BankId} {vgd : BitVec 11} {s : State} {out : State} (ht : execVgdUv b vgd s = .next out) : State.Within 0xc000083818 s out := by
  have h : State.Within 0xc000083818 s s := State.Within.refl
  have hm : Has 0xc000083818 0xc000083818 := Has.self
  cases ht
  repeat' first
    | with_reducible assumption | (with_reducible refine Has.mono ‹Has _ _› ?_; decide)
    | with_reducible apply State.Within.setBnk | with_reducible apply State.Within.setBit
    | with_reducible apply State.Within.withDemandsOf | with_reducible apply State.Within.tryStart
    | with_reducible apply State.Within.ite | with_reducible intro _ | with_reducible apply State.WithinRec.free
    | simp only [State.within_mk]

theorem State.Within.judgeFlt {pm : Nat} {s0 : State} {s : State} {b : BankId} {active : Bool} (h : State.Within pm s0 s) (hm : Has 0x3010 pm) : State.Within pm s0 (State.judgeFlt s b active) := by
  unfold Sys2Proof.Machine.State.judgeFlt
  repeat' first
    | with_reducible assumption | (with_reducible refine Has.mono ‹Has _ _› ?_; decide)
    | with_reducible apply State.Within.setBnk | with_reducible apply State.Within.countSat
    | with_reducible apply State.Within.setAx | with_reducible apply State.Within.refreshAxis
    | with_reducible apply State.Within.ite | with_reducible apply State.Within.forAll | with_reducible intro _

theorem State.Within.execFltCut {b : BankId} {level : Bool} {s : State} {out : State} (ht : execFltCut b level s = .next out) : State.Within 0x3010 s out := by
  have h : State.Within 0x3010 s s := State.Within.refl
  have hm : Has 0x3010 0x3010 := Has.self
  cases ht
  repeat' first
    | with_reducible assumption | with_reducible apply State.Within.judgeFlt

theorem State.Within.execCbcTrip {n : AxId} {mag : Nat} {s : State} {out : State} (ht : execCbcTrip n mag s = .next out) : State.Within 0x1010 s out := by
  have h : State.Within 0x1010 s s := State.Within.refl
  have hm : Has 0x1010 0x1010 := Has.self
  cases ht
  repeat' first
    | with_reducible assumption | (with_reducible refine Has.mono ‹Has _ _› ?_; decide)
    | with_reducible apply State.Within.countSat | with_reducible apply State.Within.setAx
    | with_reducible apply State.Within.refreshAxis | with_reducible apply State.Within.ite | with_reducible intro _

theorem State.Within.execDesat {n : AxId} {vds since : Nat} {s : State} {out : State} (ht : execDesat n vds since s = .next out) : State.Within 0xc000083810 s out := by
  have h : State.Within 0xc000083810 s s := State.Within.refl
  have hm : Has 0xc000083810 0xc000083810 := Has.self
  cases ht
  repeat' first
    | with_reducible assumption | with_reducible apply State.Within.withDemands | with_reducible apply State.Within.ite
    | with_reducible intro _

theorem State.Within.execHoc {n : AxId} {mag : Nat} {s : State} {out : State} (ht : execHoc n mag s = .next out) : State.Within 0xc000083810 s out := by
  have h : State.Within 0xc000083810 s s := State.Within.refl
  have hm : Has 0xc000083810 0xc000083810 := Has.self
  cases ht
  repeat' first
    | with_reducible assumption | with_reducible apply State.Within.withDemands | with_reducible apply State.Within.ite
    | with_reducible intro _

theorem State.Within.refreshBoot {pm : Nat} {s0 : State} {s : State} {n : AxId} (h : State.Within pm s0 s) (hm : Has 0x10 pm) : State.Within pm s0 (State.refreshBoot s n) := by
  unfold Sys2Proof.Machine.State.refreshBoot
  repeat' first
    | with_reducible assumption | with_reducible apply State.Within.setFld

theorem State.Within.execPwmEdge {n : AxId} {l : Leg} {on bootLow : Bool} {s : State} {out : State} (ht : execPwmEdge n l on bootLow s = .next out) : State.Within 0x1010 s out := by
  have h : State.Within 0x1010 s s := State.Within.refl
  have hm : Has 0x1010 0x1010 := Has.self
  cases ht
  repeat' first
    | with_reducible assumption | (with_reducible refine Has.mono ‹Has _ _› ?_; decide)
    | with_reducible apply State.Within.setLeg | with_reducible apply State.Within.refreshBoot
    | with_reducible apply State.Within.turnOn | with_reducible apply State.Within.turnOff
    | with_reducible apply State.Within.ite | with_reducible intro _

theorem State.Within.endSlope {pm : Nat} {s0 : State} {s : State} {n : AxId} {l : Leg} (h : State.Within pm s0 s) (hm : Has 0x1000 pm) : State.Within pm s0 (State.endSlope s n l) := by
  unfold Sys2Proof.Machine.State.endSlope
  repeat' first
    | with_reducible assumption | with_reducible apply State.Within.setLeg

theorem State.Within.execSwitchNodeCrossing {n : AxId} {l : Leg} {node : Int} {held : Bool} {s : State} {out : State} (ht : execSwitchNodeCrossing n l node held s = .next out) : State.Within 0x1000 s out := by
  have h : State.Within 0x1000 s s := State.Within.refl
  have hm : Has 0x1000 0x1000 := Has.self
  cases ht
  repeat' first
    | with_reducible assumption | with_reducible apply State.Within.endSlope | with_reducible apply State.Within.putLeg
    | with_reducible apply State.Within.ite | with_reducible intro _ | simp only [] | split

theorem State.Within.execDeadTimeTimeout {n : AxId} {l : Leg} {s : State} {out : State} (ht : execDeadTimeTimeout n l s = .next out) : State.Within 0x81010 s out := by
  have h : State.Within 0x81010 s s := State.Within.refl
  have hm : Has 0x81010 0x81010 := Has.self
  cases ht
  repeat' first
    | with_reducible assumption | (with_reducible refine Has.mono ‹Has _ _› ?_; decide)
    | with_reducible apply State.Within.putLeg | with_reducible apply State.Within.setBit
    | with_reducible apply State.Within.event | with_reducible apply State.Within.ite | with_reducible intro _ | simp only []
    | split

theorem State.Within.execSlopeTimeout {n : AxId} {l : Leg} {s : State} {out : State} (ht : execSlopeTimeout n l s = .next out) : State.Within 0x1010 s out := by
  have h : State.Within 0x1010 s s := State.Within.refl
  have hm : Has 0x1010 0x1010 := Has.self
  cases ht
  repeat' first
    | with_reducible assumption | (with_reducible refine Has.mono ‹Has _ _› ?_; decide)
    | with_reducible apply State.Within.setLeg | with_reducible apply State.Within.setBit
    | with_reducible apply State.Within.ite | with_reducible intro _ | simp only [] | split

end Sys2Proof.Machine
end

