-- ==== Sys2Proof/Laws/Frame/Frames.lean ====
section
/-! SUPPORT. What every operation and every meaning of Machine/Frames.lean may change. -/

namespace Sys2Proof.Machine

theorem State.Within.foldOffset {pm : Nat} {s0 : State} {s : State} {n : AxId} (h : State.Within pm s0 s) (hm : Has 0x1010 pm) : State.Within pm s0 (State.foldOffset s n) := by
  unfold Sys2Proof.Machine.State.foldOffset
  repeat' first
    | with_reducible assumption | (with_reducible refine Has.mono ‹Has _ _› ?_; decide)
    | with_reducible apply State.Within.setAx | with_reducible apply State.Within.setBit
    | with_reducible apply State.Within.setFld | with_reducible apply State.Within.ite | with_reducible intro _ | simp only []
    | split

theorem State.Within.takeSafe {pm : Nat} {s0 : State} {s : State} {n : AxId} (h : State.Within pm s0 s) (hm : Has 0x91010 pm) : State.Within pm s0 (State.takeSafe s n) := by
  unfold Sys2Proof.Machine.State.takeSafe
  repeat' first
    | with_reducible assumption | (with_reducible refine Has.mono ‹Has _ _› ?_; decide)
    | with_reducible apply State.Within.setAx | with_reducible apply State.Within.enterSafe | simp only [] | split

theorem State.Within.takeAbsent {pm : Nat} {s0 : State} {s : State} {n : AxId} (h : State.Within pm s0 s) (hm : Has 0x8000091010 pm) : State.Within pm s0 (State.takeAbsent s n) := by
  unfold Sys2Proof.Machine.State.takeAbsent
  repeat' first
    | with_reducible assumption | (with_reducible refine Has.mono ‹Has _ _› ?_; decide)
    | with_reducible apply State.Within.setAx | with_reducible apply State.Within.enterAbsent
    | with_reducible apply State.Within.ite | with_reducible intro _

theorem State.Within.takeIdent {pm : Nat} {s0 : State} {s : State} {n : AxId} (h : State.Within pm s0 s) (hm : Has 0x8000081010 pm) : State.Within pm s0 (State.takeIdent s n) := by
  unfold Sys2Proof.Machine.State.takeIdent
  repeat' first
    | with_reducible assumption | (with_reducible refine Has.mono ‹Has _ _› ?_; decide)
    | with_reducible apply State.Within.setPlug | with_reducible apply State.Within.enterIdle
    | with_reducible apply State.Within.refreshPlug | with_reducible apply State.Within.ite | with_reducible intro _

theorem State.Within.endStop {pm : Nat} {s0 : State} {s : State} {n : AxId} {t : Nat} (h : State.Within pm s0 s) (hm : Has 0x81010 pm) : State.Within pm s0 (State.endStop s n t) := by
  unfold Sys2Proof.Machine.State.endStop
  repeat' first
    | with_reducible assumption | with_reducible apply State.Within.putAxState | with_reducible apply State.Within.enterIdle
    | with_reducible apply State.Within.ite | with_reducible intro _ | split

theorem State.Within.takeStop {pm : Nat} {s0 : State} {s : State} {n : AxId} {t : Nat} (h : State.Within pm s0 s) (hm : Has 0x91010 pm) : State.Within pm s0 (State.takeStop s n t) := by
  unfold Sys2Proof.Machine.State.takeStop
  repeat' first
    | with_reducible assumption | (with_reducible refine Has.mono ‹Has _ _› ?_; decide)
    | with_reducible apply State.Within.setAx | with_reducible apply State.Within.startStop
    | with_reducible apply State.Within.ite | with_reducible intro _ | simp only [] | split

theorem State.Within.leaveOff {pm : Nat} {s0 : State} {s : State} {n : AxId} (h : State.Within pm s0 s) (hm : Has 0x800091010 pm) : State.Within pm s0 (State.leaveOff s n) := by
  unfold Sys2Proof.Machine.State.leaveOff
  repeat' first
    | with_reducible assumption | (with_reducible refine Has.mono ‹Has _ _› ?_; decide)
    | with_reducible apply State.Within.enterIdle | with_reducible apply State.Within.clearMarks
    | with_reducible apply State.Within.firstClaim | with_reducible apply State.Within.setBit
    | with_reducible apply State.Within.haltTimer | with_reducible apply State.Within.ite | with_reducible intro _ | split

theorem State.Within.hostEvents {pm : Nat} {s0 : State} {s : State} {n : AxId} (h : State.Within pm s0 s) (hm : Has 0x810 pm) : State.Within pm s0 (State.hostEvents s n) := by
  unfold Sys2Proof.Machine.State.hostEvents
  repeat' first
    | with_reducible assumption | with_reducible apply State.Within.raiseFor | with_reducible apply State.Within.forAll
    | with_reducible intro _

theorem State.Within.countHigh {pm : Nat} {s0 : State} {s : State} {n : AxId} (h : State.Within pm s0 s) (hm : Has 0x1000 pm) : State.Within pm s0 (State.countHigh s n) := by
  unfold Sys2Proof.Machine.State.countHigh
  repeat' first
    | with_reducible assumption | with_reducible apply State.Within.setAx

theorem State.Within.endCuts {pm : Nat} {s0 : State} {s : State} {n : AxId} (h : State.Within pm s0 s) (hm : Has 0x1010 pm) : State.Within pm s0 (State.endCuts s n) := by
  unfold Sys2Proof.Machine.State.endCuts
  repeat' first
    | with_reducible assumption | (with_reducible refine Has.mono ‹Has _ _› ?_; decide)
    | with_reducible apply State.Within.setAx | with_reducible apply State.Within.refreshAxis

theorem State.Within.execSampleTrigger {n : AxId} {s : State} {out : State} (ht : execSampleTrigger n s = .next out) : State.Within 0x11010 s out := by
  have h : State.Within 0x11010 s s := State.Within.refl
  have hm : Has 0x11010 0x11010 := Has.self
  cases ht
  repeat' first
    | with_reducible assumption | (with_reducible refine Has.mono ‹Has _ _› ?_; decide)
    | with_reducible apply State.Within.setAx | with_reducible apply State.Within.captureStep
    | with_reducible apply State.Within.ite | with_reducible intro _

theorem State.Within.countLow {pm : Nat} {s0 : State} {s : State} {n : AxId} {m : Sensed} (h : State.Within pm s0 s) (hm : Has 0x8000000000 pm) : State.Within pm s0 (State.countLow s n m) := by
  unfold Sys2Proof.Machine.State.countLow
  repeat' first
    | with_reducible assumption | with_reducible apply State.Within.setPlug

theorem State.Within.execSampleComplete {n : AxId} {adc : AdcSet} {s : State} {out : State} (ht : execSampleComplete n adc s = .next out) : State.Within 0x8000001818 s out := by
  have h : State.Within 0x8000001818 s s := State.Within.refl
  have hm : Has 0x8000001818 0x8000001818 := Has.self
  cases ht
  repeat' first
    | with_reducible assumption | (with_reducible refine Has.mono ‹Has _ _› ?_; decide)
    | with_reducible apply State.Within.foldOffset | with_reducible apply State.Within.countLow
    | with_reducible apply State.Within.setAx | with_reducible apply State.Within.raiseFor
    | with_reducible apply State.Within.ite | with_reducible apply State.Within.forAll | with_reducible intro _
    | with_reducible apply State.WithinRec.free | simp only [State.within_mk] | split

theorem State.Within.releaseVals {pm : Nat} {s0 : State} {s : State} {n : AxId} {v : LatchVals} {t : Nat} (h : State.Within pm s0 s) (hm : Has 0x1010 pm) : State.Within pm s0 (State.releaseVals s n v t) := by
  unfold Sys2Proof.Machine.State.releaseVals
  repeat' first
    | with_reducible assumption | (with_reducible refine Has.mono ‹Has _ _› ?_; decide)
    | with_reducible apply State.Within.setAx | with_reducible apply State.Within.setBit
    | with_reducible apply State.Within.driveLegs | with_reducible apply State.Within.refreshAxis
    | with_reducible apply State.Within.ite | with_reducible intro _

theorem State.Within.applied {pm : Nat} {s0 : State} {s : State} {n : AxId} (h : State.Within pm s0 s) (hm : Has 0xc000083810 pm) : State.Within pm s0 (State.applied s n) := by
  unfold Sys2Proof.Machine.State.applied
  repeat' first
    | with_reducible assumption | (with_reducible refine Has.mono ‹Has _ _› ?_; decide)
    | with_reducible apply State.Within.setAx | with_reducible apply State.Within.withDemands
    | with_reducible apply State.Within.ite | with_reducible intro _

theorem State.Within.arbiterCommit {pm : Nat} {s0 : State} {s : State} {n : AxId} {t : Nat} {out : State} (h : State.Within pm s0 s) (hm : Has 0xc800083810 pm) (ht : State.arbiterCommit s n t = some out) : State.Within pm s0 out := by
  unfold Sys2Proof.Machine.State.arbiterCommit at ht
  dsimp only at ht
  repeat' split at ht
  all_goals first | contradiction | (injection ht with e; subst e)
  repeat' first
    | with_reducible assumption | (with_reducible refine Has.mono ‹Has _ _› ?_; decide)
    | with_reducible apply State.Within.raiseEngLoss | with_reducible apply State.Within.refreshFo
    | with_reducible apply State.Within.releaseVals | with_reducible apply State.Within.applied

theorem State.Within.deadlineMiss {pm : Nat} {s0 : State} {s : State} {n : AxId} {frame : BitVec 32} {t : Nat} (h : State.Within pm s0 s) (hm : Has 0xc000083810 pm) : State.Within pm s0 (State.deadlineMiss s n frame t) := by
  unfold Sys2Proof.Machine.State.deadlineMiss
  repeat' first
    | with_reducible assumption | (with_reducible refine Has.mono ‹Has _ _› ?_; decide)
    | with_reducible apply State.Within.countSat | with_reducible apply State.Within.setBit
    | with_reducible apply State.Within.event | with_reducible apply State.Within.setAx
    | with_reducible apply State.Within.releaseVals | with_reducible apply State.Within.faultEvent
    | with_reducible apply State.Within.withDemands | with_reducible apply State.Within.ite | with_reducible intro _

theorem State.Within.heartbeat {pm : Nat} {s0 : State} {s : State} {n : AxId} {d : DueSample} (h : State.Within pm s0 s) (hm : Has 0xc8001d3810 pm) : State.Within pm s0 (State.heartbeat s n d) := by
  unfold Sys2Proof.Machine.State.heartbeat
  repeat' first
    | with_reducible assumption | (with_reducible refine Has.mono ‹Has _ _› ?_; decide)
    | with_reducible apply State.Within.setAx | with_reducible apply State.Within.engineFault
    | with_reducible apply State.Within.declare | with_reducible apply State.Within.ite | with_reducible intro _ | simp only []
    | split

theorem State.Within.releaseEvents {pm : Nat} {s0 : State} {s : State} {n : AxId} {f : BitVec 32} (h : State.Within pm s0 s) (hm : Has 0x810 pm) : State.Within pm s0 (State.releaseEvents s n f) := by
  unfold Sys2Proof.Machine.State.releaseEvents
  repeat' first
    | with_reducible assumption | with_reducible apply State.Within.raiseFor | with_reducible apply State.Within.forAll
    | with_reducible intro _

theorem State.Within.release {pm : Nat} {s0 : State} {s : State} {n : AxId} {d : DueSample} {t : Nat} {f : BitVec 32} (h : State.Within pm s0 s) (hm : Has 0xc8001d3818 pm) : State.Within pm s0 (State.release s n d t f) := by
  unfold Sys2Proof.Machine.State.release
  repeat' first
    | with_reducible assumption | (with_reducible refine Has.mono ‹Has _ _› ?_; decide)
    | with_reducible apply State.Within.setAx | with_reducible apply State.Within.setFld
    | with_reducible apply State.Within.heartbeat | with_reducible apply State.Within.releaseVals
    | with_reducible apply State.Within.applied | with_reducible apply State.Within.takeoverDone
    | with_reducible apply State.Within.deadlineMiss | with_reducible apply State.Within.restartTimer
    | with_reducible apply State.Within.releaseEvents | refine State.Within.arbiterCommit ?_ ?_ (by with_reducible assumption)
    | with_reducible apply State.WithinRec.free | simp only [State.within_mk] | split

theorem State.Within.execReleaseInstant {n : AxId} {s : State} {out : State} (ht : execReleaseInstant n s = .next out) : State.Within 0xc8001d3878 s out := by
  have h : State.Within 0xc8001d3878 s s := State.Within.refl
  have hm : Has 0xc8001d3878 0xc8001d3878 := Has.self
  cases ht
  repeat' first
    | with_reducible assumption | (with_reducible refine Has.mono ‹Has _ _› ?_; decide)
    | with_reducible apply State.Within.release | with_reducible apply State.Within.fbAtAxis
    | with_reducible apply State.Within.ite | with_reducible intro _ | split

theorem State.Within.releaseAll {pm : Nat} {s0 : State} {s : State} {n : AxId} {t : Nat} {f : BitVec 32} (h : State.Within pm s0 s) (hm : Has 0xc8001d3818 pm) : State.Within pm s0 (State.releaseAll s n t f) := by
  unfold Sys2Proof.Machine.State.releaseAll
  repeat' first
    | with_reducible assumption | with_reducible apply State.Within.release | with_reducible apply State.Within.forAll
    | with_reducible intro _

theorem State.Within.axisFrame {pm : Nat} {s0 : State} {s : State} {n : AxId} {t : Nat} {f : BitVec 32} {codes : OfsCodes} (h : State.Within pm s0 s) (hm : Has 0xc8001d7878 pm) : State.Within pm s0 (State.axisFrame s n t f codes) := by
  unfold Sys2Proof.Machine.State.axisFrame
  repeat' first
    | with_reducible assumption | (with_reducible refine Has.mono ‹Has _ _› ?_; decide)
    | with_reducible apply State.Within.foldOffset | with_reducible apply State.Within.fbAtAxis
    | with_reducible apply State.Within.takePreload | with_reducible apply State.Within.setAx
    | with_reducible apply State.Within.releaseAll | with_reducible apply State.Within.endCuts
    | with_reducible apply State.Within.drainBucket | with_reducible apply State.Within.countHigh
    | with_reducible apply State.Within.takeSafe | with_reducible apply State.Within.takeIdent
    | with_reducible apply State.Within.takeAbsent | with_reducible apply State.Within.endStop
    | with_reducible apply State.Within.takeStop | with_reducible apply State.Within.leaveOff
    | with_reducible apply State.Within.newPeriod | with_reducible apply State.Within.hostEvents
    | with_reducible apply State.Within.advanceQueue | with_reducible apply State.Within.refreshAxis
    | with_reducible apply State.Within.ite | with_reducible apply State.Within.forAll | with_reducible intro _

theorem State.Within.execFrameBoundary {at_ : FrameAt} {s : State} {out : State} (ht : execFrameBoundary at_ s = .next out) : State.Within 0xc8001d7878 s out := by
  have h : State.Within 0xc8001d7878 s s := State.Within.refl
  have hm : Has 0xc8001d7878 0xc8001d7878 := Has.self
  cases ht
  repeat' first
    | with_reducible assumption | (with_reducible refine Has.mono ‹Has _ _› ?_; decide)
    | with_reducible apply State.Within.bankFrame | with_reducible apply State.Within.axisFrame
    | with_reducible apply State.Within.ite | with_reducible intro _ | simp only [] | split

end Sys2Proof.Machine
end

