-- ==== Sys2Proof/Laws/Frame/Loops.lean ====
section
/-! SUPPORT. What every operation and every meaning of Machine/Loops.lean may change. -/

namespace Sys2Proof.Machine

theorem State.Within.followPoint {pm : Nat} {s0 : State} {s : State} {n : AxId} {f : BitVec 32} (h : State.Within pm s0 s) (hm : Has 0x90010 pm) : State.Within pm s0 (State.followPoint s n f) := by
  unfold Sys2Proof.Machine.State.followPoint
  repeat' first
    | with_reducible assumption | (with_reducible refine Has.mono ‹Has _ _› ?_; decide)
    | with_reducible apply State.Within.setMotion | with_reducible apply State.Within.trajectoryMiss
    | with_reducible apply State.Within.ite | with_reducible intro _ | simp only [] | split

theorem State.Within.runLoops {pm : Nat} {s0 : State} {s : State} {e : EngId} {n : AxId} (h : State.Within pm s0 s) (hm : Has 0x11000 pm) : State.Within pm s0 (State.runLoops s e n) := by
  unfold Sys2Proof.Machine.State.runLoops
  repeat' first
    | with_reducible assumption | (with_reducible refine Has.mono ‹Has _ _› ?_; decide)
    | with_reducible apply State.Within.setAx | with_reducible apply State.Within.setMotion

theorem State.Within.checkLimits {pm : Nat} {s0 : State} {s : State} {e : EngId} {n : AxId} (h : State.Within pm s0 s) (hm : Has 0x91010 pm) : State.Within pm s0 (State.checkLimits s e n) := by
  unfold Sys2Proof.Machine.State.checkLimits
  repeat' first
    | with_reducible assumption | (with_reducible refine Has.mono ‹Has _ _› ?_; decide)
    | with_reducible apply State.Within.setMotion | with_reducible apply State.Within.loopFault
    | with_reducible apply State.Within.ite | with_reducible intro _

theorem State.Within.fillRing {pm : Nat} {s0 : State} {s : State} {n : AxId} {v : Frac} {ticks most : Nat} (h : State.Within pm s0 s) (hm : Has 0x11000 pm) : State.Within pm s0 (State.fillRing s n v ticks most) := by
  unfold Sys2Proof.Machine.State.fillRing
  repeat' first
    | with_reducible assumption | (with_reducible refine Has.mono ‹Has _ _› ?_; decide)
    | with_reducible apply State.Within.setMotion | with_reducible apply State.Within.writeHalt
    | with_reducible apply State.Within.setAx | with_reducible apply State.Within.ite | with_reducible intro _ | simp only []
    | split

theorem State.Within.fillRun {pm : Nat} {s0 : State} {s : State} {n : AxId} (h : State.Within pm s0 s) (hm : Has 0x11000 pm) : State.Within pm s0 (State.fillRun s n) := by
  unfold Sys2Proof.Machine.State.fillRun
  repeat' first
    | with_reducible assumption | with_reducible apply State.Within.fillRing | with_reducible apply State.Within.ite
    | with_reducible intro _

theorem State.Within.noteSteps {pm : Nat} {s0 : State} {s : State} {n : AxId} (h : State.Within pm s0 s) (hm : Has 0x10000 pm) : State.Within pm s0 (State.noteSteps s n) := by
  unfold Sys2Proof.Machine.State.noteSteps
  repeat' first
    | with_reducible assumption | with_reducible apply State.Within.setMotion

theorem State.Within.holdRing {pm : Nat} {s0 : State} {s : State} {n : AxId} (h : State.Within pm s0 s) (hm : Has 0x10000 pm) : State.Within pm s0 (State.holdRing s n) := by
  unfold Sys2Proof.Machine.State.holdRing
  repeat' first
    | with_reducible assumption | with_reducible apply State.Within.setMotion

theorem State.Within.homeRun {pm : Nat} {s0 : State} {s : State} {n : AxId} (h : State.Within pm s0 s) (hm : Has 0x95010 pm) : State.Within pm s0 (State.homeRun s n) := by
  unfold Sys2Proof.Machine.State.homeRun
  repeat' first
    | with_reducible assumption | (with_reducible refine Has.mono ‹Has _ _› ?_; decide)
    | with_reducible apply State.Within.setMotion | with_reducible apply State.Within.homeMissed
    | with_reducible apply State.Within.holdRing | with_reducible apply State.Within.markEnd
    | with_reducible apply State.Within.windowStore | with_reducible apply State.Within.ite | with_reducible intro _
    | simp only [] | split

theorem State.Within.stallRun {pm : Nat} {s0 : State} {s : State} {n : AxId} (h : State.Within pm s0 s) (hm : Has 0x91010 pm) : State.Within pm s0 (State.stallRun s n) := by
  unfold Sys2Proof.Machine.State.stallRun
  repeat' first
    | with_reducible assumption | (with_reducible refine Has.mono ‹Has _ _› ?_; decide)
    | with_reducible apply State.Within.setMotion | with_reducible apply State.Within.stalled
    | with_reducible apply State.Within.holdRing | with_reducible apply State.Within.ite | with_reducible intro _ | simp only []
    | split

theorem State.Within.castRead {pm : Nat} {s0 : State} {s : State} {n : AxId} {pos : BitVec 48} (h : State.Within pm s0 s) (hm : Has 0x10000 pm) : State.Within pm s0 (State.castRead s n pos) := by
  unfold Sys2Proof.Machine.State.castRead
  repeat' first
    | with_reducible assumption | with_reducible apply State.Within.setMotion | with_reducible apply State.Within.ite
    | with_reducible intro _ | simp only [] | split

theorem State.Within.noteRun {pm : Nat} {s0 : State} {s : State} {n : AxId} (h : State.Within pm s0 s) (hm : Has 0x10000 pm) : State.Within pm s0 (State.noteRun s n) := by
  unfold Sys2Proof.Machine.State.noteRun
  repeat' first
    | with_reducible assumption | with_reducible apply State.Within.setMotion

theorem State.Within.stepRun {pm : Nat} {s0 : State} {s : State} {n : AxId} (h : State.Within pm s0 s) (hm : Has 0x95010 pm) : State.Within pm s0 (State.stepRun s n) := by
  unfold Sys2Proof.Machine.State.stepRun
  repeat' first
    | with_reducible assumption | (with_reducible refine Has.mono ‹Has _ _› ?_; decide)
    | with_reducible apply State.Within.stallRun | with_reducible apply State.Within.homeRun
    | with_reducible apply State.Within.fillRun

theorem State.Within.axisRun {pm : Nat} {s0 : State} {s : State} {e : EngId} {n : AxId} (h : State.Within pm s0 s) (hm : Has 0x95810 pm) : State.Within pm s0 (State.axisRun s e n) := by
  unfold Sys2Proof.Machine.State.axisRun
  repeat' first
    | with_reducible assumption | (with_reducible refine Has.mono ‹Has _ _› ?_; decide)
    | with_reducible apply State.Within.applyStepCfg | with_reducible apply State.Within.setEng
    | with_reducible apply State.Within.castRead | with_reducible apply State.Within.applyCoef
    | with_reducible apply State.Within.noteRun | with_reducible apply State.Within.noteSteps
    | with_reducible apply State.Within.followPoint | with_reducible apply State.Within.runLoops
    | with_reducible apply State.Within.checkLimits | with_reducible apply State.Within.stepRun
    | with_reducible apply State.Within.ite | with_reducible intro _

theorem State.Within.imageCommit {pm : Nat} {s0 : State} {s : State} {e : EngId} {n : AxId} (h : State.Within pm s0 s) (hm : Has 0x1810 pm) : State.Within pm s0 (State.imageCommit s e n) := by
  unfold Sys2Proof.Machine.State.imageCommit
  repeat' first
    | with_reducible assumption | (with_reducible refine Has.mono ‹Has _ _› ?_; decide)
    | with_reducible apply State.Within.setEng | with_reducible apply State.Within.commit

theorem State.Within.filterRun {pm : Nat} {s0 : State} {s : State} {n : AxId} (h : State.Within pm s0 s) (hm : Has 0x10000 pm) : State.Within pm s0 (State.filterRun s n) := by
  unfold Sys2Proof.Machine.State.filterRun
  repeat' first
    | with_reducible assumption | with_reducible apply State.Within.setMotion | with_reducible apply State.Within.ite
    | with_reducible intro _

theorem State.Within.addStats {pm : Nat} {s0 : State} {s : State} {n : AxId} {g : Nat} {vm id iq : Int} (h : State.Within pm s0 s) (hm : Has 0x10000 pm) : State.Within pm s0 (State.addStats s n g vm id iq) := by
  unfold Sys2Proof.Machine.State.addStats
  repeat' first
    | with_reducible assumption | with_reducible apply State.Within.setMotion | simp only [] | split

theorem State.Within.captureGrid {pm : Nat} {s0 : State} {s : State} {n : AxId} {vm : Int} (h : State.Within pm s0 s) (hm : Has 0x10100 pm) : State.Within pm s0 (State.captureGrid s n vm) := by
  unfold Sys2Proof.Machine.State.captureGrid
  repeat' first
    | with_reducible assumption | (with_reducible refine Has.mono ‹Has _ _› ?_; decide)
    | with_reducible apply State.Within.filterRun | with_reducible apply State.Within.setMotion
    | with_reducible apply State.Within.writeCapture | with_reducible apply State.Within.addStats
    | with_reducible apply State.Within.ite | with_reducible intro _ | simp only [] | split

end Sys2Proof.Machine
end

