-- ==== Sys2Proof/Laws/Frame/Health.lean ====
section
/-! SUPPORT. What every operation and every meaning of Machine/Health.lean may change. -/

namespace Sys2Proof.Machine

theorem State.Within.healthRecord {pm : Nat} {s0 : State} {s : State} {e : EngId} {n : AxId} (h : State.Within pm s0 s) (hm : Has 0xc0010 pm) : State.Within pm s0 (State.healthRecord s e n) := by
  unfold Sys2Proof.Machine.State.healthRecord
  repeat' first
    | with_reducible assumption | (with_reducible refine Has.mono ‹Has _ _› ?_; decide)
    | with_reducible apply State.Within.countSat | with_reducible apply State.Within.setMoni
    | with_reducible apply State.Within.queueEvent | with_reducible apply State.Within.feedBaseline | simp only [] | split

end Sys2Proof.Machine
end

