-- ==== Sys2Proof/Laws/Frame/Handler.lean ====
section
/-! SUPPORT. What every operation and every meaning of Machine/Handler.lean may change. -/

namespace Sys2Proof.Machine

theorem State.Within.writeCast {pm : Nat} {s0 : State} {s : State} {e : EngId} {n : AxId} {torn : Bool} (h : State.Within pm s0 s) (hm : Has 0x1008 pm) : State.Within pm s0 (State.writeCast s e n torn) := by
  unfold Sys2Proof.Machine.State.writeCast
  repeat' first
    | with_reducible assumption | (with_reducible refine Has.mono ‹Has _ _› ?_; decide)
    | with_reducible apply State.Within.setAx | with_reducible apply State.Within.ite | with_reducible intro _
    | with_reducible apply State.WithinRec.free | simp only [State.within_mk]

theorem State.Within.gearDir {pm : Nat} {s0 : State} {s : State} {n : AxId} {f : BitVec 32} {ts : Nat} (h : State.Within pm s0 s) (hm : Has 0x10000 pm) : State.Within pm s0 (State.gearDir s n f ts) := by
  unfold Sys2Proof.Machine.State.gearDir
  repeat' first
    | with_reducible assumption | with_reducible apply State.Within.setMotion | with_reducible apply State.Within.ite
    | with_reducible intro _ | simp only [] | split

theorem State.Within.startRamp {pm : Nat} {s0 : State} {s : State} {n : AxId} {f : BitVec 32} {t ts : Nat} (h : State.Within pm s0 s) (hm : Has 0x10000 pm) : State.Within pm s0 (State.startRamp s n f t ts) := by
  unfold Sys2Proof.Machine.State.startRamp
  repeat' first
    | with_reducible assumption | with_reducible apply State.Within.setMotion | with_reducible apply State.Within.ite
    | with_reducible intro _ | simp only [] | split

theorem State.Within.putPoint {pm : Nat} {s0 : State} {s : State} {e : EngId} {n : AxId} (h : State.Within pm s0 s) (hm : Has 0x91000 pm) : State.Within pm s0 (State.putPoint s e n) := by
  unfold Sys2Proof.Machine.State.putPoint
  repeat' first
    | with_reducible assumption | (with_reducible refine Has.mono ‹Has _ _› ?_; decide)
    | with_reducible apply State.Within.applyLims | with_reducible apply State.Within.gearDir
    | with_reducible apply State.Within.startRamp | with_reducible apply State.Within.setAx
    | with_reducible apply State.Within.setMotion | with_reducible apply State.Within.markEnd
    | with_reducible apply State.Within.fillRing | with_reducible apply State.Within.ite | with_reducible intro _

theorem State.Within.trajRun {pm : Nat} {s0 : State} {s : State} {e : EngId} (h : State.Within pm s0 s) (hm : Has 0x91000 pm) : State.Within pm s0 (State.trajRun s e) := by
  unfold Sys2Proof.Machine.State.trajRun
  repeat' first
    | with_reducible assumption | with_reducible apply State.Within.putPoint | with_reducible apply State.Within.forAll
    | with_reducible intro _

theorem State.Within.runEnd {pm : Nat} {s0 : State} {s : State} {e : EngId} {reach : RunReach} (h : State.Within pm s0 s) (hm : Has 0x1818 pm) : State.Within pm s0 (State.runEnd s e reach) := by
  unfold Sys2Proof.Machine.State.runEnd
  repeat' first
    | with_reducible assumption | (with_reducible refine Has.mono ‹Has _ _› ?_; decide)
    | with_reducible apply State.Within.imageCommit | with_reducible apply State.Within.writeCast
    | with_reducible apply State.Within.ite | with_reducible intro _

theorem State.Within.imageRun {pm : Nat} {s0 : State} {s : State} {e : EngId} {reach : RunReach} (h : State.Within pm s0 s) (hm : Has 0xd5918 pm) : State.Within pm s0 (State.imageRun s e reach) := by
  unfold Sys2Proof.Machine.State.imageRun
  repeat' first
    | with_reducible assumption | (with_reducible refine Has.mono ‹Has _ _› ?_; decide)
    | with_reducible apply State.Within.axisRun | with_reducible apply State.Within.runEnd
    | with_reducible apply State.Within.captureGrid | with_reducible apply State.Within.healthRecord
    | with_reducible apply State.Within.trajRun | with_reducible apply State.Within.ite
    | with_reducible apply State.Within.forAll | with_reducible intro _

theorem State.Within.execHandlerEntry {e : EngId} {reach : RunReach} {s : State} {out : State} (ht : execHandlerEntry e reach s = .next out) : State.Within 0xd5918 s out := by
  have h : State.Within 0xd5918 s s := State.Within.refl
  have hm : Has 0xd5918 0xd5918 := Has.self
  cases ht
  repeat' first
    | with_reducible assumption | (with_reducible refine Has.mono ‹Has _ _› ?_; decide)
    | with_reducible apply State.Within.setEng | with_reducible apply State.Within.imageRun
    | with_reducible apply State.Within.steps | with_reducible apply State.Within.setBit | with_reducible apply State.Within.ite
    | with_reducible intro _ | simp only [] | split

theorem State.Within.placeRecord {pm : Nat} {s0 : State} {s : State} {n : AxId} (h : State.Within pm s0 s) (hm : Has 0x1008 pm) : State.Within pm s0 (State.placeRecord s n) := by
  unfold Sys2Proof.Machine.State.placeRecord
  repeat' first
    | with_reducible assumption | (with_reducible refine Has.mono ‹Has _ _› ?_; decide)
    | with_reducible apply State.Within.setAx | with_reducible apply State.WithinRec.free | simp only [State.within_mk]

theorem State.Within.mailIn {pm : Nat} {s0 : State} {s : State} {n : AxId} {waited : Bool} (h : State.Within pm s0 s) (hm : Has 0x1818 pm) : State.Within pm s0 (State.mailIn s n waited) := by
  unfold Sys2Proof.Machine.State.mailIn
  repeat' first
    | with_reducible assumption | (with_reducible refine Has.mono ‹Has _ _› ?_; decide)
    | with_reducible apply State.Within.placeRecord | with_reducible apply State.Within.hostEvents
    | with_reducible apply State.Within.ite | with_reducible intro _

theorem State.Within.noteOther {pm : Nat} {s0 : State} {s : State} {n : AxId} {d : Nat} (h : State.Within pm s0 s) (hm : Has 0x1000 pm) : State.Within pm s0 (State.noteOther s n d) := by
  unfold Sys2Proof.Machine.State.noteOther
  repeat' first
    | with_reducible assumption | with_reducible apply State.Within.setAx

theorem State.Within.execAxisEnable {src : CmdSrc} {n : AxId} {on : Bool} {s : State} {out : State} (ht : execAxisEnable src n on s = .next out) : State.Within 0x191010 s out := by
  have h : State.Within 0x191010 s s := State.Within.refl
  have hm : Has 0x191010 0x191010 := Has.self
  cases ht
  repeat' first
    | with_reducible assumption | (with_reducible refine Has.mono ‹Has _ _› ?_; decide)
    | with_reducible apply State.Within.deliver | with_reducible apply State.Within.complete
    | with_reducible apply State.Within.setAx | with_reducible apply State.Within.enterRun
    | with_reducible apply State.Within.startStop | with_reducible apply State.Within.enterIdle
    | with_reducible apply State.Within.ite | with_reducible intro _ | simp only [] | split

theorem State.Within.execAxisHold {src : CmdSrc} {n : AxId} {s : State} {out : State} (ht : execAxisHold src n s = .next out) : State.Within 0x191010 s out := by
  have h : State.Within 0x191010 s s := State.Within.refl
  have hm : Has 0x191010 0x191010 := Has.self
  cases ht
  repeat' first
    | with_reducible assumption | (with_reducible refine Has.mono ‹Has _ _› ?_; decide)
    | with_reducible apply State.Within.deliver | with_reducible apply State.Within.startStop
    | with_reducible apply State.Within.complete | with_reducible apply State.Within.ite | with_reducible intro _

theorem State.Within.execWcClear {src : CmdSrc} {n : AxId} {s : State} {out : State} (ht : execWcClear src n s = .next out) : State.Within 0xc000183810 s out := by
  have h : State.Within 0xc000183810 s s := State.Within.refl
  have hm : Has 0xc000183810 0xc000183810 := Has.self
  cases ht
  repeat' first
    | with_reducible assumption | (with_reducible refine Has.mono ‹Has _ _› ?_; decide)
    | with_reducible apply State.Within.deliver | with_reducible apply State.Within.withDemands
    | with_reducible apply State.Within.complete | with_reducible intro _

theorem State.Within.execSetCoef {src : CmdSrc} {n : AxId} {id : BitVec 8} {value : BitVec 32} {s : State} {out : State} (ht : execSetCoef src n id value s = .next out) : State.Within 0x181818 s out := by
  have h : State.Within 0x181818 s s := State.Within.refl
  have hm : Has 0x181818 0x181818 := Has.self
  cases ht
  repeat' first
    | with_reducible assumption | (with_reducible refine Has.mono ‹Has _ _› ?_; decide)
    | with_reducible apply State.Within.deliver | with_reducible apply State.Within.cancelAxis
    | with_reducible apply State.Within.setAx | with_reducible apply State.Within.mailIn | with_reducible apply State.Within.ite
    | with_reducible intro _

theorem State.Within.execMoveLim {src : CmdSrc} {n : AxId} {v a d j : F32} {s : State} {out : State} (ht : execMoveLim src n v a d j s = .next out) : State.Within 0x191818 s out := by
  have h : State.Within 0x191818 s s := State.Within.refl
  have hm : Has 0x191818 0x191818 := Has.self
  cases ht
  repeat' first
    | with_reducible assumption | (with_reducible refine Has.mono ‹Has _ _› ?_; decide)
    | with_reducible apply State.Within.deliver | with_reducible apply State.Within.cancelAxis
    | with_reducible apply State.Within.setMotion | with_reducible apply State.Within.noteOther
    | with_reducible apply State.Within.mailIn | with_reducible apply State.Within.tellGroup
    | with_reducible apply State.Within.doneAxis | with_reducible apply State.Within.ite | with_reducible intro _

theorem State.Within.execStepCfg {src : CmdSrc} {n : AxId} {stallN : BitVec 8} {iRun iHold holdMs stallTh : BitVec 16} {stallVmin : F32} {s : State} {out : State} (ht : execStepCfg src n stallN iRun iHold holdMs stallTh stallVmin s = .next out) : State.Within 0x191818 s out := by
  have h : State.Within 0x191818 s s := State.Within.refl
  have hm : Has 0x191818 0x191818 := Has.self
  cases ht
  repeat' first
    | with_reducible assumption | (with_reducible refine Has.mono ‹Has _ _› ?_; decide)
    | with_reducible apply State.Within.deliver | with_reducible apply State.Within.cancelAxis
    | with_reducible apply State.Within.setMotion | with_reducible apply State.Within.noteOther
    | with_reducible apply State.Within.mailIn | with_reducible apply State.Within.ite | with_reducible intro _

theorem State.Within.execPosPreload {src : CmdSrc} {n : AxId} {pos : Int} {s : State} {out : State} (ht : execPosPreload src n pos s = .next out) : State.Within 0x195010 s out := by
  have h : State.Within 0x195010 s s := State.Within.refl
  have hm : Has 0x195010 0x195010 := Has.self
  cases ht
  repeat' first
    | with_reducible assumption | (with_reducible refine Has.mono ‹Has _ _› ?_; decide)
    | with_reducible apply State.Within.deliver | with_reducible apply State.Within.setPosition
    | with_reducible apply State.Within.doneAxis | with_reducible intro _

theorem State.Within.execGroupStop {src : CmdSrc} {mask : BitVec 48} {cat : StopCat} {s : State} {out : State} (ht : execGroupStop src mask cat s = .next out) : State.Within 0x191010 s out := by
  have h : State.Within 0x191010 s s := State.Within.refl
  have hm : Has 0x191010 0x191010 := Has.self
  cases ht
  repeat' first
    | with_reducible assumption | (with_reducible refine Has.mono ‹Has _ _› ?_; decide)
    | with_reducible apply State.Within.deliver | with_reducible apply State.Within.startStop
    | with_reducible apply State.Within.requestStop | with_reducible apply State.Within.complete
    | with_reducible apply State.Within.ite | with_reducible apply State.Within.forAll | with_reducible intro _

theorem State.Within.execSnapshot {src : CmdSrc} {s : State} {out : State} (ht : execSnapshot src s = .next out) : State.Within 0x180010 s out := by
  have h : State.Within 0x180010 s s := State.Within.refl
  have hm : Has 0x180010 0x180010 := Has.self
  cases ht
  repeat' first
    | with_reducible assumption | (with_reducible refine Has.mono ‹Has _ _› ?_; decide)
    | with_reducible apply State.Within.deliver | with_reducible apply State.Within.queueEvent
    | with_reducible apply State.Within.complete | with_reducible intro _

theorem State.Within.execPoSet {src : CmdSrc} {k : BitVec 8} {n m : BitVec 16} {s : State} {out : State} (ht : execPoSet src k n m s = .next out) : State.Within 0x188010 s out := by
  have h : State.Within 0x188010 s s := State.Within.refl
  have hm : Has 0x188010 0x188010 := Has.self
  cases ht
  repeat' first
    | with_reducible assumption | (with_reducible refine Has.mono ‹Has _ _› ?_; decide)
    | with_reducible apply State.Within.deliver | with_reducible apply State.Within.applyPoSet
    | with_reducible apply State.Within.complete | with_reducible intro _ | split

theorem State.Within.startCopy {pm : Nat} {s0 : State} {s : State} {e : EngId} {src : Option CmdSrc} {image : List Byte} (h : State.Within pm s0 s) (hm : Has 0x80810 pm) : State.Within pm s0 (State.startCopy s e src image) := by
  unfold Sys2Proof.Machine.State.startCopy
  repeat' first
    | with_reducible assumption | (with_reducible refine Has.mono ‹Has _ _› ?_; decide)
    | with_reducible apply State.Within.complete | with_reducible apply State.Within.setEng
    | with_reducible apply State.Within.setEngState | split

theorem State.Within.execEngLoad {src : CmdSrc} {m : BitVec 8} {image : List Byte} {s : State} {out : State} (ht : execEngLoad src m image s = .next out) : State.Within 0x180810 s out := by
  have h : State.Within 0x180810 s s := State.Within.refl
  have hm : Has 0x180810 0x180810 := Has.self
  cases ht
  repeat' first
    | with_reducible assumption | (with_reducible refine Has.mono ‹Has _ _› ?_; decide)
    | with_reducible apply State.Within.deliver | with_reducible apply State.Within.startCopy
    | with_reducible apply State.Within.complete | with_reducible intro _ | split

theorem State.Within.execEngStart {src : CmdSrc} {m : BitVec 8} {s : State} {out : State} (ht : execEngStart src m s = .next out) : State.Within 0x180810 s out := by
  have h : State.Within 0x180810 s s := State.Within.refl
  have hm : Has 0x180810 0x180810 := Has.self
  cases ht
  repeat' first
    | with_reducible assumption | (with_reducible refine Has.mono ‹Has _ _› ?_; decide)
    | with_reducible apply State.Within.deliver | with_reducible apply State.Within.complete
    | with_reducible apply State.Within.setEng | with_reducible apply State.Within.startEngine
    | with_reducible apply State.Within.ite | with_reducible intro _ | simp only [] | split

end Sys2Proof.Machine
end

