-- ==== Sys2Proof/Laws/Frame/Dio.lean ====
section
/-! SUPPORT. What every operation and every meaning of Machine/Dio.lean may change. -/

namespace Sys2Proof.Machine

theorem State.Within.showLevel {pm : Nat} {s0 : State} {s : State} {d : DioId} {v : Bool} (h : State.Within pm s0 s) (hm : Has 0x10 pm) : State.Within pm s0 (State.showLevel s d v) := by
  unfold Sys2Proof.Machine.State.showLevel
  repeat' first
    | with_reducible assumption | with_reducible apply State.Within.setBit | with_reducible apply State.Within.setWord
    | with_reducible apply State.Within.ite | with_reducible intro _

theorem State.Within.refreshOutputs {pm : Nat} {s0 : State} {s : State} (h : State.Within pm s0 s) (hm : Has 0x100000010 pm) : State.Within pm s0 (State.refreshOutputs s) := by
  unfold Sys2Proof.Machine.State.refreshOutputs
  repeat' first
    | with_reducible assumption | (with_reducible refine Has.mono ‹Has _ _› ?_; decide)
    | with_reducible apply State.Within.setChan | with_reducible apply State.Within.showLevel
    | with_reducible apply State.Within.setBit | with_reducible apply State.Within.ite
    | with_reducible apply State.Within.forAll | with_reducible intro _

theorem State.Within.showImage {pm : Nat} {s0 : State} {s : State} {d : DioId} {v : Bool} (h : State.Within pm s0 s) (hm : Has 0x100000010 pm) : State.Within pm s0 (State.showImage s d v) := by
  unfold Sys2Proof.Machine.State.showImage
  repeat' first
    | with_reducible assumption | (with_reducible refine Has.mono ‹Has _ _› ?_; decide)
    | with_reducible apply State.Within.setChan | with_reducible apply State.Within.setWord
    | with_reducible apply State.Within.ite | with_reducible intro _

theorem State.Within.enterSafeOut {pm : Nat} {s0 : State} {s : State} {d : DioId} {cause : Nat} (h : State.Within pm s0 s) (hm : Has 0x100080010 pm) : State.Within pm s0 (State.enterSafeOut s d cause) := by
  unfold Sys2Proof.Machine.State.enterSafeOut
  repeat' first
    | with_reducible assumption | (with_reducible refine Has.mono ‹Has _ _› ?_; decide)
    | with_reducible apply State.Within.setChan | with_reducible apply State.Within.setBit
    | with_reducible apply State.Within.event | with_reducible apply State.Within.refreshOutputs
    | with_reducible apply State.Within.ite | with_reducible intro _

theorem State.Within.expireCmd {pm : Nat} {s0 : State} {s : State} {d : DioId} (h : State.Within pm s0 s) (hm : Has 0x100080010 pm) : State.Within pm s0 (State.expireCmd s d) := by
  unfold Sys2Proof.Machine.State.expireCmd
  repeat' first
    | with_reducible assumption | (with_reducible refine Has.mono ‹Has _ _› ?_; decide)
    | with_reducible apply State.Within.setChan | with_reducible apply State.Within.enterSafeOut
    | with_reducible apply State.Within.ite | with_reducible intro _ | simp only [] | split

theorem State.Within.execDioSet {src : CmdSrc} {mask value : BitVec 48} {s : State} {out : State} (ht : execDioSet src mask value s = .next out) : State.Within 0x100180010 s out := by
  have h : State.Within 0x100180010 s s := State.Within.refl
  have hm : Has 0x100180010 0x100180010 := Has.self
  cases ht
  repeat' first
    | with_reducible assumption | (with_reducible refine Has.mono ‹Has _ _› ?_; decide)
    | with_reducible apply State.Within.deliver | with_reducible apply State.Within.expireCmd
    | with_reducible apply State.Within.showImage | with_reducible apply State.Within.setBit
    | with_reducible apply State.Within.event | with_reducible apply State.Within.setChan
    | with_reducible apply State.Within.refreshOutputs | with_reducible apply State.Within.complete
    | with_reducible apply State.Within.ite | with_reducible apply State.Within.forAll | with_reducible intro _

theorem State.Within.execDioChannelTsd {d : DioId} {s : State} {out : State} (ht : execDioChannelTsd d s = .next out) : State.Within 0x100080010 s out := by
  have h : State.Within 0x100080010 s s := State.Within.refl
  have hm : Has 0x100080010 0x100080010 := Has.self
  cases ht
  repeat' first
    | with_reducible assumption | (with_reducible refine Has.mono ‹Has _ _› ?_; decide)
    | with_reducible apply State.Within.setBit | with_reducible apply State.Within.event
    | with_reducible apply State.Within.refreshOutputs | with_reducible apply State.Within.ite | with_reducible intro _

theorem State.Within.execDioCurrentUpdate {total : Nat} {limited : BitVec 48} {s : State} {out : State} (ht : execDioCurrentUpdate total limited s = .next out) : State.Within 0x300080010 s out := by
  have h : State.Within 0x300080010 s s := State.Within.refl
  have hm : Has 0x300080010 0x300080010 := Has.self
  cases ht
  repeat' first
    | with_reducible assumption | (with_reducible refine Has.mono ‹Has _ _› ?_; decide)
    | with_reducible apply State.Within.setBit | with_reducible apply State.Within.setFld
    | with_reducible apply State.Within.event | with_reducible apply State.Within.refreshOutputs
    | with_reducible apply State.Within.ite | with_reducible apply State.Within.forAll | with_reducible intro _
    | with_reducible apply State.WithinRec.dio | simp only [State.within_mk]

theorem State.Within.endTotal {pm : Nat} {s0 : State} {s : State} (h : State.Within pm s0 s) (hm : Has 0x300000010 pm) : State.Within pm s0 (State.endTotal s) := by
  unfold Sys2Proof.Machine.State.endTotal
  repeat' first
    | with_reducible assumption | (with_reducible refine Has.mono ‹Has _ _› ?_; decide)
    | with_reducible apply State.Within.setBit | with_reducible apply State.Within.refreshOutputs
    | with_reducible apply State.WithinRec.dio | simp only [State.within_mk]

theorem State.Within.execDioTotalClear {fn : FnId} {s : State} {out : State} (ht : execDioTotalClear fn s = .next out) : State.Within 0x300000010 s out := by
  have h : State.Within 0x300000010 s s := State.Within.refl
  have hm : Has 0x300000010 0x300000010 := Has.self
  cases ht
  repeat' first
    | with_reducible assumption | (with_reducible refine Has.mono ‹Has _ _› ?_; decide)
    | with_reducible apply State.Within.setupGate | with_reducible apply State.Within.endTotal | with_reducible intro _

theorem State.Within.execDioOpenLoad {d : DioId} {open_ : Bool} {s : State} {out : State} (ht : execDioOpenLoad d open_ s = .next out) : State.Within 0x80010 s out := by
  have h : State.Within 0x80010 s s := State.Within.refl
  have hm : Has 0x80010 0x80010 := Has.self
  cases ht
  repeat' first
    | with_reducible assumption | (with_reducible refine Has.mono ‹Has _ _› ?_; decide)
    | with_reducible apply State.Within.setBit | with_reducible apply State.Within.event | with_reducible apply State.Within.ite
    | with_reducible intro _

theorem State.Within.execDioWireBreak {d : DioId} {broken : Bool} {s : State} {out : State} (ht : execDioWireBreak d broken s = .next out) : State.Within 0x80010 s out := by
  have h : State.Within 0x80010 s s := State.Within.refl
  have hm : Has 0x80010 0x80010 := Has.self
  cases ht
  repeat' first
    | with_reducible assumption | (with_reducible refine Has.mono ‹Has _ _› ?_; decide)
    | with_reducible apply State.Within.setBit | with_reducible apply State.Within.event | with_reducible apply State.Within.ite
    | with_reducible intro _

theorem State.Within.execDioLinkRefresh {s : State} {out : State} (ht : execDioLinkRefresh s = .next out) : State.Within 0x200000000 s out := by
  have h : State.Within 0x200000000 s s := State.Within.refl
  have hm : Has 0x200000000 0x200000000 := Has.self
  cases ht
  repeat' first
    | with_reducible assumption | with_reducible apply State.WithinRec.dio | simp only [State.within_mk] | split

theorem State.Within.execDioLinkTimeout {s : State} {out : State} (ht : execDioLinkTimeout s = .next out) : State.Within 0x300080010 s out := by
  have h : State.Within 0x300080010 s s := State.Within.refl
  have hm : Has 0x300080010 0x300080010 := Has.self
  cases ht
  repeat' first
    | with_reducible assumption | (with_reducible refine Has.mono ‹Has _ _› ?_; decide)
    | with_reducible apply State.Within.setBit | with_reducible apply State.Within.enterSafeOut
    | with_reducible apply State.Within.ite | with_reducible apply State.Within.forAll | with_reducible intro _
    | with_reducible apply State.WithinRec.dio | simp only [State.within_mk]

theorem State.Within.execDioCmdTimeout {d : DioId} {s : State} {out : State} (ht : execDioCmdTimeout d s = .next out) : State.Within 0x100080010 s out := by
  have h : State.Within 0x100080010 s s := State.Within.refl
  have hm : Has 0x100080010 0x100080010 := Has.self
  cases ht
  repeat' first
    | with_reducible assumption | with_reducible apply State.Within.expireCmd

theorem State.Within.execDioUv {active : Bool} {s : State} {out : State} (ht : execDioUv active s = .next out) : State.Within 0x300080010 s out := by
  have h : State.Within 0x300080010 s s := State.Within.refl
  have hm : Has 0x300080010 0x300080010 := Has.self
  cases ht
  repeat' first
    | with_reducible assumption | (with_reducible refine Has.mono ‹Has _ _› ?_; decide)
    | with_reducible apply State.Within.setBit | with_reducible apply State.Within.setChan
    | with_reducible apply State.Within.event | with_reducible apply State.Within.refreshOutputs
    | with_reducible apply State.Within.ite | with_reducible apply State.Within.forAll | with_reducible intro _
    | with_reducible apply State.WithinRec.dio | simp only [State.within_mk]

theorem State.Within.setShed {pm : Nat} {s0 : State} {s : State} {on : Bool} (h : State.Within pm s0 s) (hm : Has 0x300080010 pm) : State.Within pm s0 (State.setShed s on) := by
  unfold Sys2Proof.Machine.State.setShed
  repeat' first
    | with_reducible assumption | (with_reducible refine Has.mono ‹Has _ _› ?_; decide)
    | with_reducible apply State.Within.event | with_reducible apply State.Within.refreshOutputs
    | with_reducible apply State.Within.ite | with_reducible apply State.Within.forAll | with_reducible intro _
    | with_reducible apply State.WithinRec.dio | simp only [State.within_mk]

theorem State.Within.dropGang {pm : Nat} {s0 : State} {s : State} {d : DioId} (h : State.Within pm s0 s) (hm : Has 0x100000010 pm) : State.Within pm s0 (State.dropGang s d) := by
  unfold Sys2Proof.Machine.State.dropGang
  repeat' first
    | with_reducible assumption | (with_reducible refine Has.mono ‹Has _ _› ?_; decide)
    | with_reducible apply State.Within.setFld | with_reducible apply State.Within.showImage
    | with_reducible apply State.Within.forAll | with_reducible intro _

theorem State.Within.writeDioCfg {pm : Nat} {s0 : State} {s : State} {d : DioId} {v : Word} (h : State.Within pm s0 s) (hm : Has 0x100000010 pm) : State.Within pm s0 (State.writeDioCfg s d v) := by
  unfold Sys2Proof.Machine.State.writeDioCfg
  repeat' first
    | with_reducible assumption | (with_reducible refine Has.mono ‹Has _ _› ?_; decide)
    | with_reducible apply State.Within.setBit | with_reducible apply State.Within.dropGang
    | with_reducible apply State.Within.setWord | with_reducible apply State.Within.setFld
    | with_reducible apply State.Within.setChan | with_reducible apply State.Within.showLevel
    | with_reducible apply State.Within.refreshOutputs | with_reducible apply State.Within.ite
    | with_reducible apply State.Within.forAll | with_reducible intro _

theorem State.Within.execDioCfgWrite {fn : FnId} {d : DioId} {value : Word} {s : State} {out : State} (ht : execDioCfgWrite fn d value s = .next out) : State.Within 0x100000010 s out := by
  have h : State.Within 0x100000010 s s := State.Within.refl
  have hm : Has 0x100000010 0x100000010 := Has.self
  cases ht
  repeat' first
    | with_reducible assumption | (with_reducible refine Has.mono ‹Has _ _› ?_; decide)
    | with_reducible apply State.Within.setupGate | with_reducible apply State.Within.writeDioCfg | with_reducible intro _

theorem State.Within.execDioComparatorTransition {d : DioId} {level : Bool} {s : State} {out : State} (ht : execDioComparatorTransition d level s = .next out) : State.Within 0x100000000 s out := by
  have h : State.Within 0x100000000 s s := State.Within.refl
  have hm : Has 0x100000000 0x100000000 := Has.self
  cases ht
  repeat' first
    | with_reducible assumption | with_reducible apply State.Within.setChan | with_reducible apply State.Within.ite
    | with_reducible intro _

theorem State.Within.execDioInputEdge {d : DioId} {s : State} {out : State} (ht : execDioInputEdge d s = .next out) : State.Within 0x100090018 s out := by
  have h : State.Within 0x100090018 s s := State.Within.refl
  have hm : Has 0x100090018 0x100090018 := Has.self
  cases ht
  repeat' first
    | with_reducible assumption | (with_reducible refine Has.mono ‹Has _ _› ?_; decide)
    | with_reducible apply State.Within.setChan | with_reducible apply State.Within.showLevel
    | with_reducible apply State.Within.countSat | with_reducible apply State.Within.queueEvent
    | with_reducible apply State.Within.feedLatches | with_reducible apply State.Within.setBit
    | with_reducible apply State.Within.ite | with_reducible intro _ | with_reducible apply State.WithinRec.free
    | simp only [State.within_mk] | split

end Sys2Proof.Machine
end

