-- ==== Sys2Proof/Laws/Frame/Can.lean ====
section
/-! SUPPORT. What every operation and every meaning of Machine/Can.lean may change. -/

namespace Sys2Proof.Machine

theorem State.Within.abortFrame {pm : Nat} {s0 : State} {s : State} {c : CanId} {e : CanTxEnt} (h : State.Within pm s0 s) (hm : Has 0x80080010 pm) : State.Within pm s0 (State.abortFrame s c e) := by
  unfold Sys2Proof.Machine.State.abortFrame
  repeat' first
    | with_reducible assumption | (with_reducible refine Has.mono ‹Has _ _› ?_; decide)
    | with_reducible apply State.Within.setCan | with_reducible apply State.Within.countSat
    | with_reducible apply State.Within.complete

theorem State.Within.abortAll {pm : Nat} {s0 : State} {s : State} {c : CanId} (h : State.Within pm s0 s) (hm : Has 0x80080010 pm) : State.Within pm s0 (State.abortAll s c) := by
  unfold Sys2Proof.Machine.State.abortAll
  repeat' first
    | with_reducible assumption | with_reducible apply State.Within.abortFrame | with_reducible apply State.Within.forAll
    | with_reducible intro _

theorem State.Within.canRecord {pm : Nat} {s0 : State} {s : State} {c : CanId} (h : State.Within pm s0 s) (hm : Has 0x80010 pm) : State.Within pm s0 (State.canRecord s c) := by
  unfold Sys2Proof.Machine.State.canRecord
  repeat' first
    | with_reducible assumption | with_reducible apply State.Within.event

theorem State.Within.setCounters {pm : Nat} {s0 : State} {s : State} {c : CanId} {tec rec : Nat} (h : State.Within pm s0 s) (hm : Has 0x80080010 pm) : State.Within pm s0 (State.setCounters s c tec rec) := by
  unfold Sys2Proof.Machine.State.setCounters
  repeat' first
    | with_reducible assumption | (with_reducible refine Has.mono ‹Has _ _› ?_; decide)
    | with_reducible apply State.Within.setFld | with_reducible apply State.Within.setBit
    | with_reducible apply State.Within.setCan | with_reducible apply State.Within.abortAll
    | with_reducible apply State.Within.canRecord | with_reducible apply State.Within.ite | with_reducible intro _

theorem State.Within.canReceive {pm : Nat} {s0 : State} {s : State} {c : CanId} {f : CanFrame} {sof : Nat} {loop : Bool} (h : State.Within pm s0 s) (hm : Has 0x80000010 pm) : State.Within pm s0 (State.canReceive s c f sof loop) := by
  unfold Sys2Proof.Machine.State.canReceive
  repeat' first
    | with_reducible assumption | (with_reducible refine Has.mono ‹Has _ _› ?_; decide)
    | with_reducible apply State.Within.setCan | with_reducible apply State.Within.countSat
    | with_reducible apply State.Within.ite | with_reducible intro _ | simp only [] | split

theorem State.Within.execCanFrameRx {c : CanId} {f : CanFrame} {sof : Nat} {s : State} {out : State} (ht : execCanFrameRx c f sof s = .next out) : State.Within 0x80080018 s out := by
  have h : State.Within 0x80080018 s s := State.Within.refl
  have hm : Has 0x80080018 0x80080018 := Has.self
  cases ht
  repeat' first
    | with_reducible assumption | (with_reducible refine Has.mono ‹Has _ _› ?_; decide)
    | with_reducible apply State.Within.setCounters | with_reducible apply State.Within.canReceive
    | with_reducible apply State.Within.ite | with_reducible intro _ | with_reducible apply State.WithinRec.free
    | simp only [State.within_mk]

theorem State.Within.execCanRxWrite {c : CanId} {s : State} {out : State} (ht : execCanRxWrite c s = .next out) : State.Within 0x80280010 s out := by
  have h : State.Within 0x80280010 s s := State.Within.refl
  have hm : Has 0x80280010 0x80280010 := Has.self
  cases ht
  repeat' first
    | with_reducible assumption | (with_reducible refine Has.mono ‹Has _ _› ?_; decide)
    | with_reducible apply State.Within.setCan | with_reducible apply State.Within.setFld
    | with_reducible apply State.Within.event | with_reducible apply State.Within.ite | with_reducible intro _
    | with_reducible apply State.WithinRec.hostOut | simp only [State.within_mk] | split

theorem State.Within.retryFrame {pm : Nat} {s0 : State} {s : State} {c : CanId} {e : CanTxEnt} (h : State.Within pm s0 s) (hm : Has 0x80080010 pm) : State.Within pm s0 (State.retryFrame s c e) := by
  unfold Sys2Proof.Machine.State.retryFrame
  repeat' first
    | with_reducible assumption | (with_reducible refine Has.mono ‹Has _ _› ?_; decide)
    | with_reducible apply State.Within.abortFrame | with_reducible apply State.Within.setCan
    | with_reducible apply State.Within.ite | with_reducible intro _

theorem State.Within.execCanTxDone {c : CanId} {sof loopDly : Nat} {s : State} {out : State} (ht : execCanTxDone c sof loopDly s = .next out) : State.Within 0x80080010 s out := by
  have h : State.Within 0x80080010 s s := State.Within.refl
  have hm : Has 0x80080010 0x80080010 := Has.self
  cases ht
  repeat' first
    | with_reducible assumption | (with_reducible refine Has.mono ‹Has _ _› ?_; decide)
    | with_reducible apply State.Within.setCan | with_reducible apply State.Within.complete
    | with_reducible apply State.Within.setFld | with_reducible apply State.Within.setCounters
    | with_reducible apply State.Within.canReceive | with_reducible apply State.Within.ite | with_reducible intro _
    | simp only [] | split

theorem State.Within.execCanArbitrationLost {c : CanId} {sof : Nat} {s : State} {out : State} (ht : execCanArbitrationLost c sof s = .next out) : State.Within 0x80080010 s out := by
  have h : State.Within 0x80080010 s s := State.Within.refl
  have hm : Has 0x80080010 0x80080010 := Has.self
  cases ht
  repeat' first
    | with_reducible assumption | (with_reducible refine Has.mono ‹Has _ _› ?_; decide)
    | with_reducible apply State.Within.setCan | with_reducible apply State.Within.retryFrame
    | with_reducible apply State.Within.ite | with_reducible intro _ | split

theorem State.Within.execCanBusError {c : CanId} {kind : Fin 8} {transmitting : Bool} {sof extra : Nat} {s : State} {out : State} (ht : execCanBusError c kind transmitting sof extra s = .next out) : State.Within 0x80080010 s out := by
  have h : State.Within 0x80080010 s s := State.Within.refl
  have hm : Has 0x80080010 0x80080010 := Has.self
  cases ht
  repeat' first
    | with_reducible assumption | (with_reducible refine Has.mono ‹Has _ _› ?_; decide)
    | with_reducible apply State.Within.setFld | with_reducible apply State.Within.setCan
    | with_reducible apply State.Within.retryFrame | with_reducible apply State.Within.setCounters
    | with_reducible apply State.Within.ite | with_reducible intro _ | split

theorem State.Within.execCanTx {src : CmdSrc} {c fmt dlc : BitVec 8} {id : BitVec 32} {data : List Byte} {s : State} {out : State} (ht : execCanTx src c fmt dlc id data s = .next out) : State.Within 0x80180010 s out := by
  have h : State.Within 0x80180010 s s := State.Within.refl
  have hm : Has 0x80180010 0x80180010 := Has.self
  cases ht
  repeat' first
    | with_reducible assumption | (with_reducible refine Has.mono ‹Has _ _› ?_; decide)
    | with_reducible apply State.Within.deliver | with_reducible apply State.Within.countSat
    | with_reducible apply State.Within.complete | with_reducible apply State.Within.setCan
    | with_reducible apply State.Within.ite | with_reducible intro _ | simp only [] | split

theorem State.Within.endRecover {pm : Nat} {s0 : State} {s : State} {c : CanId} {code : CompCode} {reason : Nat} (h : State.Within pm s0 s) (hm : Has 0x80080000 pm) : State.Within pm s0 (State.endRecover s c code reason) := by
  unfold Sys2Proof.Machine.State.endRecover
  repeat' first
    | with_reducible assumption | (with_reducible refine Has.mono ‹Has _ _› ?_; decide)
    | with_reducible apply State.Within.complete | with_reducible apply State.Within.setCan
    | with_reducible apply State.Within.forAll | with_reducible intro _

theorem State.Within.execCanMode {src : CmdSrc} {c mode : BitVec 8} {s : State} {out : State} (ht : execCanMode src c mode s = .next out) : State.Within 0x80180010 s out := by
  have h : State.Within 0x80180010 s s := State.Within.refl
  have hm : Has 0x80180010 0x80180010 := Has.self
  cases ht
  repeat' first
    | with_reducible assumption | (with_reducible refine Has.mono ‹Has _ _› ?_; decide)
    | with_reducible apply State.Within.deliver | with_reducible apply State.Within.complete
    | with_reducible apply State.Within.setFld | with_reducible apply State.Within.setCounters
    | with_reducible apply State.Within.endRecover | with_reducible apply State.Within.setCan
    | with_reducible apply State.Within.ite | with_reducible intro _ | simp only [] | split

theorem State.Within.execCanModeReached {c : CanId} {s : State} {out : State} (ht : execCanModeReached c s = .next out) : State.Within 0x80080010 s out := by
  have h : State.Within 0x80080010 s s := State.Within.refl
  have hm : Has 0x80080010 0x80080010 := Has.self
  cases ht
  repeat' first
    | with_reducible assumption | (with_reducible refine Has.mono ‹Has _ _› ?_; decide)
    | with_reducible apply State.Within.setCan | with_reducible apply State.Within.setFld
    | with_reducible apply State.Within.abortAll | with_reducible apply State.Within.complete
    | with_reducible apply State.Within.ite | with_reducible intro _ | simp only [] | split

theorem State.Within.execCanRecover {src : CmdSrc} {c : BitVec 8} {s : State} {out : State} (ht : execCanRecover src c s = .next out) : State.Within 0x80180010 s out := by
  have h : State.Within 0x80180010 s s := State.Within.refl
  have hm : Has 0x80180010 0x80180010 := Has.self
  cases ht
  repeat' first
    | with_reducible assumption | (with_reducible refine Has.mono ‹Has _ _› ?_; decide)
    | with_reducible apply State.Within.deliver | with_reducible apply State.Within.complete
    | with_reducible apply State.Within.setCan | with_reducible apply State.Within.setFld
    | with_reducible apply State.Within.canRecord | with_reducible apply State.Within.ite | with_reducible intro _
    | simp only [] | split

theorem State.Within.execCanRecoveryDone {c : CanId} {s : State} {out : State} (ht : execCanRecoveryDone c s = .next out) : State.Within 0x80080010 s out := by
  have h : State.Within 0x80080010 s s := State.Within.refl
  have hm : Has 0x80080010 0x80080010 := Has.self
  cases ht
  repeat' first
    | with_reducible assumption | (with_reducible refine Has.mono ‹Has _ _› ?_; decide)
    | with_reducible apply State.Within.setFld | with_reducible apply State.Within.setCounters
    | with_reducible apply State.Within.endRecover | with_reducible apply State.Within.ite | with_reducible intro _

theorem State.Within.resetCan {pm : Nat} {s0 : State} {s : State} {c : CanId} (h : State.Within pm s0 s) (hm : Has 0x80000000 pm) : State.Within pm s0 (State.resetCan s c).1 := by
  unfold Sys2Proof.Machine.State.resetCan
  repeat' first
    | with_reducible assumption | with_reducible apply State.Within.setCan

theorem State.Within.zeroCan {pm : Nat} {s0 : State} {s : State} {c : CanId} (h : State.Within pm s0 s) (hm : Has 0x80000010 pm) : State.Within pm s0 (State.zeroCan s c) := by
  unfold Sys2Proof.Machine.State.zeroCan
  repeat' first
    | with_reducible assumption | (with_reducible refine Has.mono ‹Has _ _› ?_; decide)
    | with_reducible apply State.Within.setCan | with_reducible apply State.Within.setWord
    | with_reducible apply State.Within.setFld | with_reducible apply State.Within.setBit
    | with_reducible apply State.WithinRec.regs | simp only [State.within_mk]

end Sys2Proof.Machine
end

