-- ==== Sys2Proof/Laws/Frame/Time.lean ====
section
/-! SUPPORT. What every operation and every meaning of Machine/Time.lean may change. -/

namespace Sys2Proof.Machine

theorem State.Within.setDomValid {pm : Nat} {s0 : State} {s : State} {d : Fin 2} {v : Bool} (h : State.Within pm s0 s) (hm : Has 0x10 pm) : State.Within pm s0 (State.setDomValid s d v) := by
  unfold Sys2Proof.Machine.State.setDomValid
  repeat' first
    | with_reducible assumption | with_reducible apply State.Within.setBit

theorem State.Within.setRate {pm : Nat} {s0 : State} {s : State} {v : Int} (h : State.Within pm s0 s) (hm : Has 0x10 pm) : State.Within pm s0 (State.setRate s v) := by
  unfold Sys2Proof.Machine.State.setRate
  repeat' first
    | with_reducible assumption | with_reducible apply State.Within.setWord

theorem State.Within.setDt {pm : Nat} {s0 : State} {s : State} {v : BitVec 64} (h : State.Within pm s0 s) (hm : Has 0x3000010 pm) : State.Within pm s0 (State.setDt s v) := by
  unfold Sys2Proof.Machine.State.setDt
  repeat' first
    | with_reducible assumption | (with_reducible refine Has.mono ‹Has _ _› ?_; decide)
    | with_reducible apply State.Within.setBit | with_reducible apply State.WithinRec.doms_time | simp only [State.within_mk]

theorem State.Within.stepDt {pm : Nat} {s0 : State} {s : State} {theta : Int} (h : State.Within pm s0 s) (hm : Has 0x3000010 pm) : State.Within pm s0 (State.stepDt s theta) := by
  unfold Sys2Proof.Machine.State.stepDt
  repeat' first
    | with_reducible assumption | with_reducible apply State.Within.setDt

theorem State.Within.writeTbSetHi {pm : Nat} {s0 : State} {s : State} {w : Word} (h : State.Within pm s0 s) (hm : Has 0x3000010 pm) : State.Within pm s0 (State.writeTbSetHi s w) := by
  unfold Sys2Proof.Machine.State.writeTbSetHi
  repeat' first
    | with_reducible assumption | (with_reducible refine Has.mono ‹Has _ _› ?_; decide)
    | with_reducible apply State.Within.setWord | with_reducible apply State.Within.setDt
    | with_reducible apply State.Within.setBit | with_reducible apply State.Within.ite | with_reducible intro _

theorem State.Within.execDtSet {fn : FnId} {value : Word} {s : State} {out : State} (ht : execDtSet fn value s = .next out) : State.Within 0x3000010 s out := by
  have h : State.Within 0x3000010 s s := State.Within.refl
  have hm : Has 0x3000010 0x3000010 := Has.self
  cases ht
  repeat' first
    | with_reducible assumption | (with_reducible refine Has.mono ‹Has _ _› ?_; decide)
    | with_reducible apply State.Within.setupGate | with_reducible apply State.Within.writeTbSetHi | with_reducible intro _

theorem State.Within.execDtLoRead {fn : FnId} {s : State} {out : State} (ht : execDtLoRead fn s = .next out) : State.Within 0x80080 s out := by
  have h : State.Within 0x80080 s s := State.Within.refl
  have hm : Has 0x80080 0x80080 := Has.self
  cases ht
  repeat' first
    | with_reducible assumption | (with_reducible refine Has.mono ‹Has _ _› ?_; decide)
    | with_reducible apply State.Within.setFn | with_reducible apply State.WithinRec.lastRead | simp only [State.within_mk]

theorem State.Within.setTimeState {pm : Nat} {s0 : State} {s : State} {st : TimeState} (h : State.Within pm s0 s) (hm : Has 0x2080018 pm) : State.Within pm s0 (State.setTimeState s st) := by
  unfold Sys2Proof.Machine.State.setTimeState
  repeat' first
    | with_reducible assumption | (with_reducible refine Has.mono ‹Has _ _› ?_; decide)
    | with_reducible apply State.Within.setFld | with_reducible apply State.Within.setRate
    | with_reducible apply State.Within.event | with_reducible apply State.Within.ite | with_reducible intro _
    | with_reducible apply State.WithinRec.free_time | simp only [State.within_mk]

theorem State.Within.execTimeBoundUpdate {s : State} {out : State} (ht : execTimeBoundUpdate s = .next out) : State.Within 0x18 s out := by
  have h : State.Within 0x18 s s := State.Within.refl
  have hm : Has 0x18 0x18 := Has.self
  cases ht
  repeat' first
    | with_reducible assumption | (with_reducible refine Has.mono ‹Has _ _› ?_; decide)
    | with_reducible apply State.Within.setFld | with_reducible apply State.Within.ite | with_reducible intro _
    | with_reducible apply State.WithinRec.free | simp only [State.within_mk]

theorem State.Within.noteSample {pm : Nat} {s0 : State} {s : State} {d : Fin 2} {theta : Int} {valid : Bool} (h : State.Within pm s0 s) (hm : Has 0x1000018 pm) : State.Within pm s0 (State.noteSample s d theta valid) := by
  unfold Sys2Proof.Machine.State.noteSample
  repeat' first
    | with_reducible assumption | (with_reducible refine Has.mono ‹Has _ _› ?_; decide)
    | with_reducible apply State.Within.setWord | with_reducible apply State.Within.setDom
    | with_reducible apply State.Within.setDomValid | with_reducible apply State.Within.ite | with_reducible intro _
    | with_reducible apply State.WithinRec.free | simp only [State.within_mk]

theorem State.Within.autoSelect {pm : Nat} {s0 : State} {s : State} (h : State.Within pm s0 s) (hm : Has 0x2000010 pm) : State.Within pm s0 (State.autoSelect s) := by
  unfold Sys2Proof.Machine.State.autoSelect
  repeat' first
    | with_reducible assumption | (with_reducible refine Has.mono ‹Has _ _› ?_; decide)
    | with_reducible apply State.Within.hwPut | with_reducible apply State.Within.ite | with_reducible intro _
    | with_reducible apply State.WithinRec.time | simp only [State.within_mk]

theorem State.Within.servo {pm : Nat} {s0 : State} {s : State} {theta : Int} (h : State.Within pm s0 s) (hm : Has 0x2000010 pm) : State.Within pm s0 (State.servo s theta) := by
  unfold Sys2Proof.Machine.State.servo
  repeat' first
    | with_reducible assumption | (with_reducible refine Has.mono ‹Has _ _› ?_; decide)
    | with_reducible apply State.Within.setRate | with_reducible apply State.WithinRec.time | simp only [State.within_mk]

theorem State.Within.slew {pm : Nat} {s0 : State} {s : State} {d : Fin 2} {theta : Int} (h : State.Within pm s0 s) (hm : Has 0x10 pm) : State.Within pm s0 (State.slew s d theta) := by
  unfold Sys2Proof.Machine.State.slew
  repeat' first
    | with_reducible assumption | with_reducible apply State.Within.setRate

theorem State.Within.addDrift {pm : Nat} {s0 : State} {s : State} {d : Fin 2} (h : State.Within pm s0 s) (hm : Has 0x2000000 pm) : State.Within pm s0 (State.addDrift s d) := by
  unfold Sys2Proof.Machine.State.addDrift
  repeat' first
    | with_reducible assumption | with_reducible apply State.WithinRec.time | simp only [State.within_mk]

theorem State.Within.goodSample {pm : Nat} {s0 : State} {s : State} {d : Fin 2} {theta : Int} (h : State.Within pm s0 s) (hm : Has 0x2080018 pm) : State.Within pm s0 (State.goodSample s d theta) := by
  unfold Sys2Proof.Machine.State.goodSample
  repeat' first
    | with_reducible assumption | (with_reducible refine Has.mono ‹Has _ _› ?_; decide)
    | with_reducible apply State.Within.addDrift | with_reducible apply State.Within.servo
    | with_reducible apply State.Within.setBit | with_reducible apply State.Within.setTimeState
    | with_reducible apply State.Within.ite | with_reducible intro _ | with_reducible apply State.WithinRec.time
    | simp only [State.within_mk]

theorem State.Within.farNative {pm : Nat} {s0 : State} {s : State} {d : Fin 2} {theta : Int} (h : State.Within pm s0 s) (hm : Has 0x3080018 pm) : State.Within pm s0 (State.farNative s d theta) := by
  unfold Sys2Proof.Machine.State.farNative
  repeat' first
    | with_reducible assumption | (with_reducible refine Has.mono ‹Has _ _› ?_; decide)
    | with_reducible apply State.Within.stepDt | with_reducible apply State.Within.setTimeState
    | with_reducible apply State.Within.slew | with_reducible apply State.Within.ite | with_reducible intro _
    | with_reducible apply State.WithinRec.time | simp only [State.within_mk]

theorem State.Within.far2412 {pm : Nat} {s0 : State} {s : State} {d : Fin 2} {theta : Int} (h : State.Within pm s0 s) (hm : Has 0x3080018 pm) : State.Within pm s0 (State.far2412 s d theta) := by
  unfold Sys2Proof.Machine.State.far2412
  repeat' first
    | with_reducible assumption | (with_reducible refine Has.mono ‹Has _ _› ?_; decide)
    | with_reducible apply State.Within.stepDt | with_reducible apply State.Within.setTimeState
    | with_reducible apply State.Within.countSat | with_reducible apply State.Within.event
    | with_reducible apply State.Within.setBit | with_reducible apply State.Within.ite | with_reducible intro _
    | with_reducible apply State.WithinRec.time | simp only [State.within_mk] | split

theorem State.Within.timeSample {pm : Nat} {s0 : State} {s : State} {d : Fin 2} {theta : Int} {valid : Bool} (h : State.Within pm s0 s) (hm : Has 0x3080018 pm) : State.Within pm s0 (State.timeSample s d theta valid) := by
  unfold Sys2Proof.Machine.State.timeSample
  repeat' first
    | with_reducible assumption | (with_reducible refine Has.mono ‹Has _ _› ?_; decide)
    | with_reducible apply State.Within.noteSample | with_reducible apply State.Within.autoSelect
    | with_reducible apply State.Within.hwPut | with_reducible apply State.Within.addDrift
    | with_reducible apply State.Within.setBit | with_reducible apply State.Within.event
    | with_reducible apply State.Within.goodSample | with_reducible apply State.Within.far2412
    | with_reducible apply State.Within.farNative | with_reducible apply State.Within.ite | with_reducible intro _
    | with_reducible apply State.WithinRec.time | simp only [State.within_mk]

theorem State.Within.execSyncSample {domain : Fin 2} {theta : Int} {p : PortId} {asCap : Bool} {s : State} {out : State} (ht : execSyncSample domain theta p asCap s = .next out) : State.Within 0x3080018 s out := by
  have h : State.Within 0x3080018 s s := State.Within.refl
  have hm : Has 0x3080018 0x3080018 := Has.self
  cases ht
  repeat' first
    | with_reducible assumption | (with_reducible refine Has.mono ‹Has _ _› ?_; decide)
    | with_reducible apply State.Within.setBit | with_reducible apply State.Within.setDom
    | with_reducible apply State.Within.timeSample

theorem State.Within.execSyncInterval {domain : Fin 2} {s : State} {out : State} (ht : execSyncInterval domain s = .next out) : State.Within 0x3080018 s out := by
  have h : State.Within 0x3080018 s s := State.Within.refl
  have hm : Has 0x3080018 0x3080018 := Has.self
  cases ht
  repeat' first
    | with_reducible assumption | (with_reducible refine Has.mono ‹Has _ _› ?_; decide)
    | with_reducible apply State.Within.setDom | with_reducible apply State.Within.setDomValid
    | with_reducible apply State.Within.timeSample | with_reducible apply State.Within.ite | with_reducible intro _

theorem State.Within.execDomainLost {domain : Fin 2} {s : State} {out : State} (ht : execDomainLost domain s = .next out) : State.Within 0x3080018 s out := by
  have h : State.Within 0x3080018 s s := State.Within.refl
  have hm : Has 0x3080018 0x3080018 := Has.self
  cases ht
  repeat' first
    | with_reducible assumption | (with_reducible refine Has.mono ‹Has _ _› ?_; decide)
    | with_reducible apply State.Within.setDom | with_reducible apply State.Within.setDomValid
    | with_reducible apply State.Within.autoSelect | with_reducible apply State.Within.setTimeState
    | with_reducible apply State.Within.ite | with_reducible intro _

theorem State.Within.execTimeAccept {src : CmdSrc} {s : State} {out : State} (ht : execTimeAccept src s = .next out) : State.Within 0x3180018 s out := by
  have h : State.Within 0x3180018 s s := State.Within.refl
  have hm : Has 0x3180018 0x3180018 := Has.self
  cases ht
  repeat' first
    | with_reducible assumption | (with_reducible refine Has.mono ‹Has _ _› ?_; decide)
    | with_reducible apply State.Within.deliver | with_reducible apply State.Within.stepDt
    | with_reducible apply State.Within.slew | with_reducible apply State.Within.setTimeState
    | with_reducible apply State.Within.setBit | with_reducible apply State.Within.complete
    | with_reducible apply State.Within.ite | with_reducible intro _ | with_reducible apply State.WithinRec.time
    | simp only [State.within_mk]

theorem State.Within.execTpoPulse {s : State} {out : State} (ht : execTpoPulse s = .next out) : State.Within 0x2000000 s out := by
  have h : State.Within 0x2000000 s s := State.Within.refl
  have hm : Has 0x2000000 0x2000000 := Has.self
  cases ht
  repeat' first
    | with_reducible assumption | with_reducible apply State.Within.ite | with_reducible intro _
    | with_reducible apply State.WithinRec.time | simp only [State.within_mk] | split

end Sys2Proof.Machine
end

