-- ==== Sys2Proof/Laws/Frame/Net.lean ====
section
/-! SUPPORT. What every operation and every meaning of Machine/Net.lean may change. -/

namespace Sys2Proof.Machine

theorem State.Within.putWire {pm : Nat} {s0 : State} {s : State} {p : PortId} {f : EthFrame} (h : State.Within pm s0 s) (hm : Has 0x40000000 pm) : State.Within pm s0 (State.putWire s p f) := by
  unfold Sys2Proof.Machine.State.putWire
  repeat' first
    | with_reducible assumption | with_reducible apply State.WithinRec.wireOut | simp only [State.within_mk]

theorem State.Within.learn {pm : Nat} {s0 : State} {s : State} {a : BitVec 48} {p : PortId} (h : State.Within pm s0 s) (hm : Has 0x4000000 pm) : State.Within pm s0 (State.learn s a p) := by
  unfold Sys2Proof.Machine.State.learn
  repeat' first
    | with_reducible assumption | with_reducible apply State.Within.ite | with_reducible intro _
    | with_reducible apply State.WithinRec.fdb | simp only [State.within_mk]

theorem State.Within.execAddressAgeing {mac : BitVec 48} {s : State} {out : State} (ht : execAddressAgeing mac s = .next out) : State.Within 0x4000000 s out := by
  have h : State.Within 0x4000000 s s := State.Within.refl
  have hm : Has 0x4000000 0x4000000 := Has.self
  cases ht
  repeat' first
    | with_reducible assumption | with_reducible apply State.Within.ite | with_reducible intro _
    | with_reducible apply State.WithinRec.fdb | simp only [State.within_mk]

theorem State.Within.rxWrite {pm : Nat} {s0 : State} {s : State} {off : Nat} {l : List Byte} (h : State.Within pm s0 s) (hm : Has 0x200000 pm) : State.Within pm s0 (State.rxWrite s off l) := by
  unfold Sys2Proof.Machine.State.rxWrite
  repeat' first
    | with_reducible assumption | with_reducible apply State.WithinRec.hostOut | simp only [State.within_mk]

theorem State.Within.netReceive {pm : Nat} {s0 : State} {s : State} {p : PortId} {f : EthFrame} (h : State.Within pm s0 s) (hm : Has 0x20280010 pm) : State.Within pm s0 (State.netReceive s p f) := by
  unfold Sys2Proof.Machine.State.netReceive
  repeat' first
    | with_reducible assumption | (with_reducible refine Has.mono ‹Has _ _› ?_; decide)
    | with_reducible apply State.Within.countSat | with_reducible apply State.Within.rxWrite
    | with_reducible apply State.Within.setFld | with_reducible apply State.Within.event | with_reducible apply State.Within.ite
    | with_reducible intro _ | with_reducible apply State.WithinRec.rx | simp only [State.within_mk]

theorem State.Within.refreshGates {pm : Nat} {s0 : State} {s : State} {p : PortId} {t : Nat} (h : State.Within pm s0 s) (hm : Has 0x8000000 pm) : State.Within pm s0 (State.refreshGates s p t) := by
  unfold Sys2Proof.Machine.State.refreshGates
  repeat' first
    | with_reducible assumption | with_reducible apply State.Within.setPort

theorem State.Within.writeGclCtl {pm : Nat} {s0 : State} {s : State} {p : PortId} {w : Word} (h : State.Within pm s0 s) (hm : Has 0x8000010 pm) : State.Within pm s0 (State.writeGclCtl s p w) := by
  unfold Sys2Proof.Machine.State.writeGclCtl
  repeat' first
    | with_reducible assumption | (with_reducible refine Has.mono ‹Has _ _› ?_; decide)
    | with_reducible apply State.Within.setBit | with_reducible apply State.Within.setFld
    | with_reducible apply State.Within.setPort | with_reducible apply State.Within.ite | with_reducible intro _

theorem State.Within.execGclCommit {fn : FnId} {p : PortId} {value : Word} {s : State} {out : State} (ht : execGclCommit fn p value s = .next out) : State.Within 0x8000010 s out := by
  have h : State.Within 0x8000010 s s := State.Within.refl
  have hm : Has 0x8000010 0x8000010 := Has.self
  cases ht
  repeat' first
    | with_reducible assumption | (with_reducible refine Has.mono ‹Has _ _› ?_; decide)
    | with_reducible apply State.Within.setupGate | with_reducible apply State.Within.writeGclCtl | with_reducible intro _

theorem State.Within.showDepth {pm : Nat} {s0 : State} {s : State} {q : TxqId} (h : State.Within pm s0 s) (hm : Has 0x10 pm) : State.Within pm s0 (State.showDepth s q) := by
  unfold Sys2Proof.Machine.State.showDepth
  repeat' first
    | with_reducible assumption | with_reducible apply State.Within.setFld

theorem State.Within.txDrop {pm : Nat} {s0 : State} {s : State} {q : TxqId} {p : PortId} (h : State.Within pm s0 s) (hm : Has 0x10 pm) : State.Within pm s0 (State.txDrop s q p) := by
  unfold Sys2Proof.Machine.State.txDrop
  repeat' first
    | with_reducible assumption | with_reducible apply State.Within.countSat

theorem State.Within.editTx {pm : Nat} {s0 : State} {s : State} {q : TxqId} {src : CmdSrc} {g : TxFrame → TxFrame} (h : State.Within pm s0 s) (hm : Has 0x10000000 pm) : State.Within pm s0 (State.editTx s q src g) := by
  unfold Sys2Proof.Machine.State.editTx
  repeat' first
    | with_reducible assumption | with_reducible apply State.Within.setTxq

theorem State.Within.removeTx {pm : Nat} {s0 : State} {s : State} {q : TxqId} {src : CmdSrc} (h : State.Within pm s0 s) (hm : Has 0x10000010 pm) : State.Within pm s0 (State.removeTx s q src) := by
  unfold Sys2Proof.Machine.State.removeTx
  repeat' first
    | with_reducible assumption | (with_reducible refine Has.mono ‹Has _ _› ?_; decide)
    | with_reducible apply State.Within.setTxq | with_reducible apply State.Within.showDepth

theorem State.Within.settleTx {pm : Nat} {s0 : State} {s : State} {q : TxqId} {src : CmdSrc} (h : State.Within pm s0 s) (hm : Has 0x10080010 pm) : State.Within pm s0 (State.settleTx s q src) := by
  unfold Sys2Proof.Machine.State.settleTx
  repeat' first
    | with_reducible assumption | (with_reducible refine Has.mono ‹Has _ _› ?_; decide)
    | with_reducible apply State.Within.removeTx | with_reducible apply State.Within.complete
    | with_reducible apply State.Within.ite | with_reducible intro _ | split

theorem State.Within.discardTx {pm : Nat} {s0 : State} {s : State} {q : TxqId} {src : CmdSrc} {p : PortId} (h : State.Within pm s0 s) (hm : Has 0x10080010 pm) : State.Within pm s0 (State.discardTx s q src p) := by
  unfold Sys2Proof.Machine.State.discardTx
  repeat' first
    | with_reducible assumption | (with_reducible refine Has.mono ‹Has _ _› ?_; decide)
    | with_reducible apply State.Within.txDrop | with_reducible apply State.Within.editTx
    | with_reducible apply State.Within.settleTx

theorem State.Within.startFrame {pm : Nat} {s0 : State} {s : State} {p : PortId} {w : WaitFrame} (h : State.Within pm s0 s) (hm : Has 0x58000010 pm) : State.Within pm s0 (State.startFrame s p w) := by
  unfold Sys2Proof.Machine.State.startFrame
  repeat' first
    | with_reducible assumption | (with_reducible refine Has.mono ‹Has _ _› ?_; decide)
    | with_reducible apply State.Within.countSat | with_reducible apply State.Within.putWire
    | with_reducible apply State.Within.setPort | with_reducible apply State.Within.editTx
    | with_reducible apply State.Within.ite | with_reducible intro _ | simp only [] | split

theorem State.Within.egressRun {pm : Nat} {s0 : State} {s : State} {p : PortId} (h : State.Within pm s0 s) (hm : Has 0x58080010 pm) : State.Within pm s0 (State.egressRun s p) := by
  unfold Sys2Proof.Machine.State.egressRun
  repeat' first
    | with_reducible assumption | (with_reducible refine Has.mono ‹Has _ _› ?_; decide)
    | with_reducible apply State.Within.countSat | with_reducible apply State.Within.discardTx
    | with_reducible apply State.Within.setPort | with_reducible apply State.Within.startFrame
    | with_reducible apply State.Within.ite | with_reducible apply State.Within.forAll | with_reducible intro _ | split

theorem State.Within.joinPort {pm : Nat} {s0 : State} {s : State} {p : PortId} {w : WaitFrame} (h : State.Within pm s0 s) (hm : Has 0x58080010 pm) : State.Within pm s0 (State.joinPort s p w) := by
  unfold Sys2Proof.Machine.State.joinPort
  repeat' first
    | with_reducible assumption | (with_reducible refine Has.mono ‹Has _ _› ?_; decide)
    | with_reducible apply State.Within.setPort | with_reducible apply State.Within.egressRun

theorem State.Within.execLink {p : PortId} {up speedOk : Bool} {s : State} {out : State} (ht : execLink p up speedOk s = .next out) : State.Within 0x58080010 s out := by
  have h : State.Within 0x58080010 s s := State.Within.refl
  have hm : Has 0x58080010 0x58080010 := Has.self
  cases ht
  repeat' first
    | with_reducible assumption | (with_reducible refine Has.mono ‹Has _ _› ?_; decide)
    | with_reducible apply State.Within.setBit | with_reducible apply State.Within.event
    | with_reducible apply State.Within.egressRun | with_reducible apply State.Within.ite | with_reducible intro _

theorem State.Within.execGateStateChange {p : PortId} {s : State} {out : State} (ht : execGateStateChange p s = .next out) : State.Within 0x58080010 s out := by
  have h : State.Within 0x58080010 s s := State.Within.refl
  have hm : Has 0x58080010 0x58080010 := Has.self
  cases ht
  repeat' first
    | with_reducible assumption | (with_reducible refine Has.mono ‹Has _ _› ?_; decide)
    | with_reducible apply State.Within.refreshGates | with_reducible apply State.Within.egressRun
    | with_reducible apply State.Within.ite | with_reducible intro _

theorem State.Within.execGclChange {p : PortId} {s : State} {out : State} (ht : execGclChange p s = .next out) : State.Within 0x58080010 s out := by
  have h : State.Within 0x58080010 s s := State.Within.refl
  have hm : Has 0x58080010 0x58080010 := Has.self
  cases ht
  repeat' first
    | with_reducible assumption | (with_reducible refine Has.mono ‹Has _ _› ?_; decide)
    | with_reducible apply State.Within.setPort | with_reducible apply State.Within.setFld
    | with_reducible apply State.Within.setBit | with_reducible apply State.Within.refreshGates
    | with_reducible apply State.Within.egressRun | with_reducible apply State.Within.ite | with_reducible intro _
    | simp only [] | split

theorem State.Within.forward {pm : Nat} {s0 : State} {s : State} {p : PortId} {f : EthFrame} {full : Bool} (h : State.Within pm s0 s) (hm : Has 0x58080010 pm) : State.Within pm s0 (State.forward s p f full) := by
  unfold Sys2Proof.Machine.State.forward
  repeat' first
    | with_reducible assumption | (with_reducible refine Has.mono ‹Has _ _› ?_; decide)
    | with_reducible apply State.Within.countSat | with_reducible apply State.Within.joinPort
    | with_reducible apply State.Within.ite | with_reducible intro _

theorem State.Within.execFrameRx {p : PortId} {f : EthFrame} {full : Bool} {s : State} {out : State} (ht : execFrameRx p f full s = .next out) : State.Within 0x7c280010 s out := by
  have h : State.Within 0x7c280010 s s := State.Within.refl
  have hm : Has 0x7c280010 0x7c280010 := Has.self
  cases ht
  repeat' first
    | with_reducible assumption | (with_reducible refine Has.mono ‹Has _ _› ?_; decide)
    | with_reducible apply State.Within.learn | with_reducible apply State.Within.forward
    | with_reducible apply State.Within.netReceive | with_reducible apply State.Within.ite | with_reducible intro _
    | simp only [] | split

theorem State.Within.execNetTx {src : CmdSrc} {q : BitVec 8} {frame : List Byte} {s : State} {out : State} (ht : execNetTx src q frame s = .next out) : State.Within 0x58180010 s out := by
  have h : State.Within 0x58180010 s s := State.Within.refl
  have hm : Has 0x58180010 0x58180010 := Has.self
  cases ht
  repeat' first
    | with_reducible assumption | (with_reducible refine Has.mono ‹Has _ _› ?_; decide)
    | with_reducible apply State.Within.deliver | with_reducible apply State.Within.setTxq
    | with_reducible apply State.Within.showDepth | with_reducible apply State.Within.joinPort
    | with_reducible apply State.Within.settleTx | with_reducible apply State.Within.complete
    | with_reducible apply State.Within.ite | with_reducible apply State.Within.forAll | with_reducible intro _ | simp only []
    | split

theorem State.Within.launchOn {pm : Nat} {s0 : State} {s : State} {q : TxqId} {f : TxFrame} {p : PortId} (h : State.Within pm s0 s) (hm : Has 0x58000000 pm) : State.Within pm s0 (State.launchOn s q f p) := by
  unfold Sys2Proof.Machine.State.launchOn
  repeat' first
    | with_reducible assumption | (with_reducible refine Has.mono ‹Has _ _› ?_; decide)
    | with_reducible apply State.Within.putWire | with_reducible apply State.Within.setPort
    | with_reducible apply State.Within.editTx

theorem State.Within.launchPort {pm : Nat} {s0 : State} {s : State} {q : TxqId} {f : TxFrame} {p : PortId} (h : State.Within pm s0 s) (hm : Has 0x58080010 pm) : State.Within pm s0 (State.launchPort s q f p) := by
  unfold Sys2Proof.Machine.State.launchPort
  repeat' first
    | with_reducible assumption | (with_reducible refine Has.mono ‹Has _ _› ?_; decide)
    | with_reducible apply State.Within.txDrop | with_reducible apply State.Within.launchOn
    | with_reducible apply State.Within.countSat | with_reducible apply State.Within.editTx
    | with_reducible apply State.Within.joinPort | with_reducible apply State.Within.ite | with_reducible intro _

theorem State.Within.execLaunchTime {q : TxqId} {s : State} {out : State} (ht : execLaunchTime q s = .next out) : State.Within 0x58080010 s out := by
  have h : State.Within 0x58080010 s s := State.Within.refl
  have hm : Has 0x58080010 0x58080010 := Has.self
  cases ht
  repeat' first
    | with_reducible assumption | (with_reducible refine Has.mono ‹Has _ _› ?_; decide)
    | with_reducible apply State.Within.editTx | with_reducible apply State.Within.launchPort
    | with_reducible apply State.Within.settleTx | with_reducible apply State.Within.ite
    | with_reducible apply State.Within.forAll | with_reducible intro _ | simp only [] | split

theorem State.Within.execFrameTxDone {q : TxqId} {sfd : Nat} {s : State} {out : State} (ht : execFrameTxDone q sfd s = .next out) : State.Within 0x10080010 s out := by
  have h : State.Within 0x10080010 s s := State.Within.refl
  have hm : Has 0x10080010 0x10080010 := Has.self
  cases ht
  repeat' first
    | with_reducible assumption | (with_reducible refine Has.mono ‹Has _ _› ?_; decide)
    | with_reducible apply State.Within.removeTx | with_reducible apply State.Within.complete | simp only [] | split

theorem State.Within.execShaftPublish {s : State} {out : State} (ht : execShaftPublish s = .next out) : State.Within 0x48020110 s out := by
  have h : State.Within 0x48020110 s s := State.Within.refl
  have hm : Has 0x48020110 0x48020110 := Has.self
  cases ht
  repeat' first
    | with_reducible assumption | (with_reducible refine Has.mono ‹Has _ _› ?_; decide)
    | with_reducible apply State.Within.putWire | with_reducible apply State.Within.setPort
    | with_reducible apply State.Within.countSat | with_reducible apply State.Within.receiveShaft
    | with_reducible apply State.Within.ite | with_reducible apply State.Within.forAll | with_reducible intro _
    | with_reducible apply State.WithinRec.shaft | simp only [State.within_mk] | split

end Sys2Proof.Machine
end

