-- ==== Sys2Proof/Laws/Frame/SafetyChannels.lean ====
section
/-! SUPPORT. What every operation and every meaning of Machine/SafetyChannels.lean may change. -/

namespace Sys2Proof.Machine

theorem State.Within.safeEvent {pm : Nat} {s0 : State} {s : State} {axes : List AxId} {type src detail : Nat} {data : List Byte} (h : State.Within pm s0 s) (hm : Has 0x80010 pm) : State.Within pm s0 (State.safeEvent s axes type src detail data) := by
  unfold Sys2Proof.Machine.State.safeEvent
  repeat' first
    | with_reducible assumption | with_reducible apply State.Within.event | with_reducible apply State.Within.forAll
    | with_reducible intro _

theorem State.Within.setPair {pm : Nat} {s0 : State} {s : State} {k : PairId} {x : SafeIn} (h : State.Within pm s0 s) (hm : Has 0x400000000 pm) : State.Within pm s0 (State.setPair s k x) := by
  unfold Sys2Proof.Machine.State.setPair
  repeat' first
    | with_reducible assumption | with_reducible apply State.WithinRec.saf | simp only [State.within_mk]

theorem State.Within.setGroup {pm : Nat} {s0 : State} {s : State} {g : GrpId} {x : SafGroup} (h : State.Within pm s0 s) (hm : Has 0x400000000 pm) : State.Within pm s0 (State.setGroup s g x) := by
  unfold Sys2Proof.Machine.State.setGroup
  repeat' first
    | with_reducible assumption | with_reducible apply State.WithinRec.saf | simp only [State.within_mk]

theorem State.Within.showGroups {pm : Nat} {s0 : State} {s : State} (h : State.Within pm s0 s) (hm : Has 0x10 pm) : State.Within pm s0 (State.showGroups s) := by
  unfold Sys2Proof.Machine.State.showGroups
  repeat' first
    | with_reducible assumption | with_reducible apply State.Within.setWord

theorem State.Within.refreshSafety {pm : Nat} {s0 : State} {s : State} (h : State.Within pm s0 s) (hm : Has 0xc000083810 pm) : State.Within pm s0 (State.refreshSafety s) := by
  unfold Sys2Proof.Machine.State.refreshSafety
  repeat' first
    | with_reducible assumption | (with_reducible refine Has.mono ‹Has _ _› ?_; decide)
    | with_reducible apply State.Within.showGroups | with_reducible apply State.Within.setWord
    | with_reducible apply State.Within.withDemands | with_reducible apply State.Within.ite
    | with_reducible apply State.Within.forAll | with_reducible intro _

theorem State.Within.refreshHold {pm : Nat} {s0 : State} {s : State} (h : State.Within pm s0 s) (hm : Has 0x10 pm) : State.Within pm s0 (State.refreshHold s) := by
  unfold Sys2Proof.Machine.State.refreshHold
  repeat' first
    | with_reducible assumption | with_reducible apply State.Within.setBit

theorem State.Within.showPairs {pm : Nat} {s0 : State} {s : State} (h : State.Within pm s0 s) (hm : Has 0x10 pm) : State.Within pm s0 (State.showPairs s) := by
  unfold Sys2Proof.Machine.State.showPairs
  repeat' first
    | with_reducible assumption | with_reducible apply State.Within.setWord

theorem State.Within.pairFault {pm : Nat} {s0 : State} {s : State} {k : PairId} {cause : Nat} (h : State.Within pm s0 s) (hm : Has 0x400080010 pm) : State.Within pm s0 (State.pairFault s k cause) := by
  unfold Sys2Proof.Machine.State.pairFault
  repeat' first
    | with_reducible assumption | (with_reducible refine Has.mono ‹Has _ _› ?_; decide)
    | with_reducible apply State.Within.setPair | with_reducible apply State.Within.showPairs
    | with_reducible apply State.Within.event | with_reducible apply State.Within.ite | with_reducible intro _

theorem State.Within.execSafeInputChange {p : PairId} {sideB level : Bool} {s : State} {out : State} (ht : execSafeInputChange p sideB level s = .next out) : State.Within 0x400000010 s out := by
  have h : State.Within 0x400000010 s s := State.Within.refl
  have hm : Has 0x400000010 0x400000010 := Has.self
  cases ht
  repeat' first
    | with_reducible assumption | (with_reducible refine Has.mono ‹Has _ _› ?_; decide)
    | with_reducible apply State.Within.setPair | with_reducible apply State.Within.showPairs

theorem State.Within.execTestPulse {k : Fin 4} {fails : List (PairId × Bool)} {s : State} {out : State} (ht : execTestPulse k fails s = .next out) : State.Within 0x400080010 s out := by
  have h : State.Within 0x400080010 s s := State.Within.refl
  have hm : Has 0x400080010 0x400080010 := Has.self
  cases ht
  repeat' first
    | with_reducible assumption | (with_reducible refine Has.mono ‹Has _ _› ?_; decide)
    | with_reducible apply State.Within.pairFault | with_reducible apply State.Within.ite
    | with_reducible apply State.Within.forAll | with_reducible intro _ | with_reducible apply State.WithinRec.saf
    | simp only [State.within_mk]

theorem State.Within.execPairDiscrepancy {p : PairId} {s : State} {out : State} (ht : execPairDiscrepancy p s = .next out) : State.Within 0x400080010 s out := by
  have h : State.Within 0x400080010 s s := State.Within.refl
  have hm : Has 0x400080010 0x400080010 := Has.self
  cases ht
  repeat' first
    | with_reducible assumption | with_reducible apply State.Within.pairFault | with_reducible apply State.Within.ite
    | with_reducible intro _ | split

theorem State.Within.commRecord {pm : Nat} {s0 : State} {s : State} {up : Bool} (h : State.Within pm s0 s) (hm : Has 0x80010 pm) : State.Within pm s0 (State.commRecord s up) := by
  unfold Sys2Proof.Machine.State.commRecord
  repeat' first
    | with_reducible assumption | with_reducible apply State.Within.event

theorem State.Within.setConn {pm : Nat} {s0 : State} {s : State} {up : Bool} (h : State.Within pm s0 s) (hm : Has 0x400080010 pm) : State.Within pm s0 (State.setConn s up) := by
  unfold Sys2Proof.Machine.State.setConn
  repeat' first
    | with_reducible assumption | (with_reducible refine Has.mono ‹Has _ _› ?_; decide)
    | with_reducible apply State.Within.setBit | with_reducible apply State.Within.commRecord
    | with_reducible apply State.Within.ite | with_reducible intro _ | with_reducible apply State.WithinRec.saf
    | simp only [State.within_mk]

theorem State.Within.acceptPdu {pm : Nat} {s0 : State} {s : State} {p : Pdu} {seq : BitVec 16} (h : State.Within pm s0 s) (hm : Has 0x400000010 pm) : State.Within pm s0 (State.acceptPdu s p seq) := by
  unfold Sys2Proof.Machine.State.acceptPdu
  repeat' first
    | with_reducible assumption | (with_reducible refine Has.mono ‹Has _ _› ?_; decide)
    | with_reducible apply State.Within.setFld | with_reducible apply State.WithinRec.saf | simp only [State.within_mk]

theorem State.Within.readPdu {pm : Nat} {s0 : State} {s : State} (h : State.Within pm s0 s) (hm : Has 0x400080010 pm) : State.Within pm s0 (State.readPdu s) := by
  unfold Sys2Proof.Machine.State.readPdu
  repeat' first
    | with_reducible assumption | (with_reducible refine Has.mono ‹Has _ _› ?_; decide)
    | with_reducible apply State.Within.countSat | with_reducible apply State.Within.acceptPdu
    | with_reducible apply State.Within.setConn | with_reducible apply State.Within.ite | with_reducible intro _
    | with_reducible apply State.WithinRec.saf | simp only [State.within_mk] | split

theorem State.Within.execSafetyWatchdogExpiry {s : State} {out : State} (ht : execSafetyWatchdogExpiry s = .next out) : State.Within 0x400080010 s out := by
  have h : State.Within 0x400080010 s s := State.Within.refl
  have hm : Has 0x400080010 0x400080010 := Has.self
  cases ht
  repeat' first
    | with_reducible assumption | (with_reducible refine Has.mono ‹Has _ _› ?_; decide)
    | with_reducible apply State.Within.setConn | with_reducible apply State.Within.ite | with_reducible intro _
    | with_reducible apply State.WithinRec.saf | simp only [State.within_mk]

theorem State.Within.sendPdu {pm : Nat} {s0 : State} {s : State} (h : State.Within pm s0 s) (hm : Has 0x400000100 pm) : State.Within pm s0 (State.sendPdu s) := by
  unfold Sys2Proof.Machine.State.sendPdu
  repeat' first
    | with_reducible assumption | with_reducible apply State.Within.ite | with_reducible intro _
    | with_reducible apply State.WithinRec.shmem_saf | simp only [State.within_mk]

theorem State.Within.raiseAxf {pm : Nat} {s0 : State} {s : State} {n : AxId} {cause : Nat} (h : State.Within pm s0 s) (hm : Has 0x80010 pm) : State.Within pm s0 (State.raiseAxf s n cause) := by
  unfold Sys2Proof.Machine.State.raiseAxf
  repeat' first
    | with_reducible assumption | (with_reducible refine Has.mono ‹Has _ _› ?_; decide)
    | with_reducible apply State.Within.setWord | with_reducible apply State.Within.safeEvent
    | with_reducible apply State.Within.ite | with_reducible intro _

theorem State.Within.sampleCounters {pm : Nat} {s0 : State} {s : State} (h : State.Within pm s0 s) (hm : Has 0x400084010 pm) : State.Within pm s0 (State.sampleCounters s).1 := by
  unfold Sys2Proof.Machine.State.sampleCounters
  repeat' first
    | with_reducible assumption | (with_reducible refine Has.mono ‹Has _ _› ?_; decide)
    | with_reducible apply State.Within.settleSca | with_reducible apply State.Within.raiseAxf
    | with_reducible apply State.Within.forAll | with_reducible intro _ | with_reducible apply State.WithinRec.saf
    | simp only [State.within_mk]

theorem State.Within.putGroup {pm : Nat} {s0 : State} {s : State} {g : GrpId} {st : SafState} {cause : Nat} (h : State.Within pm s0 s) (hm : Has 0x400080010 pm) : State.Within pm s0 (State.putGroup s g st cause) := by
  unfold Sys2Proof.Machine.State.putGroup
  repeat' first
    | with_reducible assumption | (with_reducible refine Has.mono ‹Has _ _› ?_; decide)
    | with_reducible apply State.Within.setGroup | with_reducible apply State.Within.safeEvent

theorem State.Within.enterSs1 {pm : Nat} {s0 : State} {s : State} {g : GrpId} {cause : Nat} (h : State.Within pm s0 s) (hm : Has 0x400081010 pm) : State.Within pm s0 (State.enterSs1 s g cause) := by
  unfold Sys2Proof.Machine.State.enterSs1
  repeat' first
    | with_reducible assumption | (with_reducible refine Has.mono ‹Has _ _› ?_; decide)
    | with_reducible apply State.Within.setGroup | with_reducible apply State.Within.putGroup
    | with_reducible apply State.Within.requestStop | with_reducible apply State.Within.forAll | with_reducible intro _

theorem State.Within.cycleGroup {pm : Nat} {s0 : State} {s : State} {newAxf : List AxId} {g : GrpId} (h : State.Within pm s0 s) (hm : Has 0x400081010 pm) : State.Within pm s0 (State.cycleGroup s newAxf g) := by
  unfold Sys2Proof.Machine.State.cycleGroup
  repeat' first
    | with_reducible assumption | (with_reducible refine Has.mono ‹Has _ _› ?_; decide)
    | with_reducible apply State.Within.setGroup | with_reducible apply State.Within.safeEvent
    | with_reducible apply State.Within.putGroup | with_reducible apply State.Within.enterSs1
    | with_reducible apply State.Within.ite | with_reducible intro _ | simp only [] | split

theorem State.Within.channelFault {pm : Nat} {s0 : State} {s : State} {ch : Fin 2} {code : Nat} (h : State.Within pm s0 s) (hm : Has 0xc000083810 pm) : State.Within pm s0 (State.channelFault s ch code) := by
  unfold Sys2Proof.Machine.State.channelFault
  repeat' first
    | with_reducible assumption | (with_reducible refine Has.mono ‹Has _ _› ?_; decide)
    | with_reducible apply State.Within.setBit | with_reducible apply State.Within.setFld
    | with_reducible apply State.Within.logFault | with_reducible apply State.Within.event
    | with_reducible apply State.Within.refreshHold | with_reducible apply State.Within.refreshSafety
    | with_reducible apply State.Within.ite | with_reducible intro _

theorem State.Within.driveLines {pm : Nat} {s0 : State} {s : State} (h : State.Within pm s0 s) (hm : Has 0x400000000 pm) : State.Within pm s0 (State.driveLines s) := by
  unfold Sys2Proof.Machine.State.driveLines
  repeat' first
    | with_reducible assumption | with_reducible apply State.WithinRec.saf | simp only [State.within_mk]

theorem State.Within.execSafetyCycle {fault : Option (Fin 2 × Fin 9)} {s : State} {out : State} (ht : execSafetyCycle fault s = .next out) : State.Within 0xc400087918 s out := by
  have h : State.Within 0xc400087918 s s := State.Within.refl
  have hm : Has 0xc400087918 0xc400087918 := Has.self
  cases ht
  repeat' first
    | with_reducible assumption | (with_reducible refine Has.mono ‹Has _ _› ?_; decide)
    | with_reducible apply State.Within.channelFault | with_reducible apply State.Within.readPdu
    | with_reducible apply State.Within.cycleGroup | with_reducible apply State.Within.setGroup
    | with_reducible apply State.Within.refreshSafety | with_reducible apply State.Within.driveLines
    | with_reducible apply State.Within.showPairs | with_reducible apply State.Within.sendPdu
    | with_reducible apply State.Within.sampleCounters | with_reducible apply State.Within.ite
    | with_reducible apply State.Within.forAll | with_reducible intro _ | with_reducible apply State.WithinRec.free_saf
    | simp only [State.within_mk] | split

theorem State.Within.execSs1Timeout {g : GrpId} {s : State} {out : State} (ht : execSs1Timeout g s = .next out) : State.Within 0xc400083810 s out := by
  have h : State.Within 0xc400083810 s s := State.Within.refl
  have hm : Has 0xc400083810 0xc400083810 := Has.self
  cases ht
  repeat' first
    | with_reducible assumption | (with_reducible refine Has.mono ‹Has _ _› ?_; decide)
    | with_reducible apply State.Within.putGroup | with_reducible apply State.Within.refreshSafety
    | with_reducible apply State.Within.ite | with_reducible intro _

theorem State.Within.activateSet {pm : Nat} {s0 : State} {s : State} {l : List Byte} (h : State.Within pm s0 s) (hm : Has 0x400000010 pm) : State.Within pm s0 (State.activateSet s l) := by
  unfold Sys2Proof.Machine.State.activateSet
  repeat' first
    | with_reducible assumption | (with_reducible refine Has.mono ‹Has _ _› ?_; decide)
    | with_reducible apply State.Within.setPair | with_reducible apply State.Within.showPairs
    | with_reducible apply State.Within.setWord | with_reducible apply State.Within.setFld
    | with_reducible apply State.Within.forAll | with_reducible intro _ | with_reducible apply State.WithinRec.saf
    | simp only [State.within_mk]

theorem State.Within.refreshConf {pm : Nat} {s0 : State} {s : State} (h : State.Within pm s0 s) (hm : Has 0xc000083810 pm) : State.Within pm s0 (State.refreshConf s) := by
  unfold Sys2Proof.Machine.State.refreshConf
  repeat' first
    | with_reducible assumption | (with_reducible refine Has.mono ‹Has _ _› ?_; decide)
    | with_reducible apply State.Within.setBit | with_reducible apply State.Within.setWord
    | with_reducible apply State.Within.refreshHold | with_reducible apply State.Within.refreshSafety

theorem State.Within.storeSet {pm : Nat} {s0 : State} {s : State} (h : State.Within pm s0 s) (hm : Has 0xc400083810 pm) : State.Within pm s0 (State.storeSet s) := by
  unfold Sys2Proof.Machine.State.storeSet
  repeat' first
    | with_reducible assumption | (with_reducible refine Has.mono ‹Has _ _› ?_; decide)
    | with_reducible apply State.Within.setBit | with_reducible apply State.Within.setFld
    | with_reducible apply State.Within.refreshConf | with_reducible apply State.Within.ite | with_reducible intro _
    | with_reducible apply State.WithinRec.saf | simp only [State.within_mk]

theorem State.Within.execSafetyStore {fn : FnId} {s : State} {out : State} (ht : execSafetyStore fn s = .next out) : State.Within 0xc400083810 s out := by
  have h : State.Within 0xc400083810 s s := State.Within.refl
  have hm : Has 0xc400083810 0xc400083810 := Has.self
  cases ht
  repeat' first
    | with_reducible assumption | (with_reducible refine Has.mono ‹Has _ _› ?_; decide)
    | with_reducible apply State.Within.setupGate | with_reducible apply State.Within.storeSet | with_reducible intro _

theorem State.Within.storeFailed {pm : Nat} {s0 : State} {s : State} {copy : Fin 2} (h : State.Within pm s0 s) (hm : Has 0x400000010 pm) : State.Within pm s0 (State.storeFailed s copy) := by
  unfold Sys2Proof.Machine.State.storeFailed
  repeat' first
    | with_reducible assumption | (with_reducible refine Has.mono ‹Has _ _› ?_; decide)
    | with_reducible apply State.Within.setBit | with_reducible apply State.Within.setFld
    | with_reducible apply State.WithinRec.saf | simp only [State.within_mk]

theorem State.Within.execSafetyStoreDone {failed : Option (Fin 2)} {s : State} {out : State} (ht : execSafetyStoreDone failed s = .next out) : State.Within 0xc400083810 s out := by
  have h : State.Within 0xc400083810 s s := State.Within.refl
  have hm : Has 0xc400083810 0xc400083810 := Has.self
  cases ht
  repeat' first
    | with_reducible assumption | (with_reducible refine Has.mono ‹Has _ _› ?_; decide)
    | with_reducible apply State.Within.storeFailed | with_reducible apply State.Within.activateSet
    | with_reducible apply State.Within.setBit | with_reducible apply State.Within.refreshConf
    | with_reducible apply State.Within.ite | with_reducible intro _ | with_reducible apply State.WithinRec.saf
    | simp only [State.within_mk] | split

theorem State.Within.execSafeConfirm {src : CmdSrc} {check : BitVec 32} {s : State} {out : State} (ht : execSafeConfirm src check s = .next out) : State.Within 0x400180000 s out := by
  have h : State.Within 0x400180000 s s := State.Within.refl
  have hm : Has 0x400180000 0x400180000 := Has.self
  cases ht
  repeat' first
    | with_reducible assumption | (with_reducible refine Has.mono ‹Has _ _› ?_; decide)
    | with_reducible apply State.Within.deliver | with_reducible apply State.Within.complete
    | with_reducible apply State.Within.ite | with_reducible intro _ | with_reducible apply State.WithinRec.saf
    | simp only [State.within_mk]

theorem State.Within.execConfirmRecordWritten {s : State} {out : State} (ht : execConfirmRecordWritten s = .next out) : State.Within 0xc400083810 s out := by
  have h : State.Within 0xc400083810 s s := State.Within.refl
  have hm : Has 0xc400083810 0xc400083810 := Has.self
  cases ht
  repeat' first
    | with_reducible assumption | (with_reducible refine Has.mono ‹Has _ _› ?_; decide)
    | with_reducible apply State.Within.refreshConf | with_reducible apply State.Within.complete
    | with_reducible apply State.WithinRec.saf | simp only [State.within_mk] | split

theorem State.Within.bootSafety {pm : Nat} {s0 : State} {s : State} (h : State.Within pm s0 s) (hm : Has 0xc400083810 pm) : State.Within pm s0 (State.bootSafety s) := by
  unfold Sys2Proof.Machine.State.bootSafety
  repeat' first
    | with_reducible assumption | (with_reducible refine Has.mono ‹Has _ _› ?_; decide)
    | with_reducible apply State.Within.setBit | with_reducible apply State.Within.refreshHold
    | with_reducible apply State.Within.refreshSafety | with_reducible apply State.Within.activateSet
    | with_reducible apply State.Within.refreshConf | with_reducible apply State.WithinRec.saf | simp only [State.within_mk]
    | split

theorem State.Within.resetSafety {pm : Nat} {s0 : State} {s : State} (h : State.Within pm s0 s) (hm : Has 0x400004008 pm) : State.Within pm s0 (State.resetSafety s) := by
  unfold Sys2Proof.Machine.State.resetSafety
  repeat' first
    | with_reducible assumption | with_reducible apply State.WithinRec.free_fb_saf | simp only [State.within_mk]

end Sys2Proof.Machine
end

