-- ==== Sys2Proof/Laws/Frame/Thermal.lean ====
section
/-! SUPPORT. What every operation and every meaning of Machine/Thermal.lean may change. -/

namespace Sys2Proof.Machine

theorem State.Within.showFlog {pm : Nat} {s0 : State} {s : State} (h : State.Within pm s0 s) (hm : Has 0x10 pm) : State.Within pm s0 (State.showFlog s) := by
  unfold Sys2Proof.Machine.State.showFlog
  repeat' first
    | with_reducible assumption | with_reducible apply State.Within.setWord | with_reducible apply State.Within.foldl
    | with_reducible intro _

theorem State.Within.execFlogCopy {s : State} {out : State} (ht : execFlogCopy s = .next out) : State.Within 0x4000000010 s out := by
  have h : State.Within 0x4000000010 s s := State.Within.refl
  have hm : Has 0x4000000010 0x4000000010 := Has.self
  cases ht
  repeat' first
    | with_reducible assumption | (with_reducible refine Has.mono ‹Has _ _› ?_; decide)
    | with_reducible apply State.Within.showFlog | with_reducible apply State.WithinRec.pwr | simp only [State.within_mk]
    | split

theorem State.Within.setFan {pm : Nat} {s0 : State} {s : State} {f : FanId} {x : Fan} (h : State.Within pm s0 s) (hm : Has 0x10000000000 pm) : State.Within pm s0 (State.setFan s f x) := by
  unfold Sys2Proof.Machine.State.setFan
  repeat' first
    | with_reducible assumption | with_reducible apply State.WithinRec.thm | simp only [State.within_mk]

theorem State.Within.refreshFanDuty {pm : Nat} {s0 : State} {s : State} {f : FanId} (h : State.Within pm s0 s) (hm : Has 0x10000000000 pm) : State.Within pm s0 (State.refreshFanDuty s f) := by
  unfold Sys2Proof.Machine.State.refreshFanDuty
  repeat' first
    | with_reducible assumption | with_reducible apply State.Within.setFan

theorem State.Within.setLevel {pm : Nat} {s0 : State} {s : State} {l : Nat} (h : State.Within pm s0 s) (hm : Has 0x3000d0118 pm) : State.Within pm s0 (State.setLevel s l) := by
  unfold Sys2Proof.Machine.State.setLevel
  repeat' first
    | with_reducible assumption | (with_reducible refine Has.mono ‹Has _ _› ?_; decide)
    | with_reducible apply State.Within.setFld | with_reducible apply State.Within.refreshLevel
    | with_reducible apply State.Within.setShed | with_reducible apply State.Within.event
    | with_reducible apply State.Within.ite | with_reducible intro _

theorem State.Within.derating {pm : Nat} {s0 : State} {s : State} (h : State.Within pm s0 s) (hm : Has 0x103000d0118 pm) : State.Within pm s0 (State.derating s) := by
  unfold Sys2Proof.Machine.State.derating
  repeat' first
    | with_reducible assumption | (with_reducible refine Has.mono ‹Has _ _› ?_; decide)
    | with_reducible apply State.Within.setLevel | with_reducible apply State.Within.ite | with_reducible intro _
    | with_reducible apply State.WithinRec.thm | simp only [State.within_mk]

theorem State.Within.execThermalEvaluation {readings : List Int} {s : State} {out : State} (ht : execThermalEvaluation readings s = .next out) : State.Within 0x1c3000d3918 s out := by
  have h : State.Within 0x1c3000d3918 s s := State.Within.refl
  have hm : Has 0x1c3000d3918 0x1c3000d3918 := Has.self
  cases ht
  repeat' first
    | with_reducible assumption | (with_reducible refine Has.mono ‹Has _ _› ?_; decide)
    | with_reducible apply State.Within.setFld | with_reducible apply State.Within.setBit
    | with_reducible apply State.Within.event | with_reducible apply State.Within.logFault
    | with_reducible apply State.Within.withDemandsOf | with_reducible apply State.Within.refreshFanDuty
    | with_reducible apply State.Within.derating | with_reducible apply State.Within.ite
    | with_reducible apply State.Within.forAll | with_reducible intro _ | with_reducible apply State.WithinRec.thm
    | simp only [State.within_mk] | split

theorem State.Within.execDeratingDwell {s : State} {out : State} (ht : execDeratingDwell s = .next out) : State.Within 0x103000d0118 s out := by
  have h : State.Within 0x103000d0118 s s := State.Within.refl
  have hm : Has 0x103000d0118 0x103000d0118 := Has.self
  cases ht
  repeat' first
    | with_reducible assumption | (with_reducible refine Has.mono ‹Has _ _› ?_; decide)
    | with_reducible apply State.Within.refreshFanDuty | with_reducible apply State.Within.setLevel
    | with_reducible apply State.Within.ite | with_reducible apply State.Within.forAll | with_reducible intro _
    | with_reducible apply State.WithinRec.thm | simp only [State.within_mk] | split

theorem State.Within.refreshTight {pm : Nat} {s0 : State} {s : State} (h : State.Within pm s0 s) (hm : Has 0x10 pm) : State.Within pm s0 (State.refreshTight s) := by
  unfold Sys2Proof.Machine.State.refreshTight
  repeat' first
    | with_reducible assumption | with_reducible apply State.Within.setBit

theorem State.Within.fanCurrent {pm : Nat} {s0 : State} {s : State} {f : FanId} {ma : Nat} (h : State.Within pm s0 s) (hm : Has 0x10000000010 pm) : State.Within pm s0 (State.fanCurrent s f ma) := by
  unfold Sys2Proof.Machine.State.fanCurrent
  repeat' first
    | with_reducible assumption | (with_reducible refine Has.mono ‹Has _ _› ?_; decide)
    | with_reducible apply State.Within.setFan | with_reducible apply State.Within.setFld

theorem State.Within.setFanState {pm : Nat} {s0 : State} {s : State} {f : FanId} {st : FanState} (h : State.Within pm s0 s) (hm : Has 0x10000080010 pm) : State.Within pm s0 (State.setFanState s f st) := by
  unfold Sys2Proof.Machine.State.setFanState
  repeat' first
    | with_reducible assumption | (with_reducible refine Has.mono ‹Has _ _› ?_; decide)
    | with_reducible apply State.Within.setFld | with_reducible apply State.Within.event
    | with_reducible apply State.Within.refreshTight | with_reducible apply State.Within.refreshFanDuty
    | with_reducible apply State.Within.ite | with_reducible intro _

theorem State.Within.startFan {pm : Nat} {s0 : State} {s : State} {f : FanId} (h : State.Within pm s0 s) (hm : Has 0x10000080010 pm) : State.Within pm s0 (State.startFan s f) := by
  unfold Sys2Proof.Machine.State.startFan
  repeat' first
    | with_reducible assumption | (with_reducible refine Has.mono ‹Has _ _› ?_; decide)
    | with_reducible apply State.Within.setFan | with_reducible apply State.Within.setFld
    | with_reducible apply State.Within.setFanState

theorem State.Within.writeFanCfg {pm : Nat} {s0 : State} {s : State} {f : FanId} {w : Word} (h : State.Within pm s0 s) (hm : Has 0x10000080010 pm) : State.Within pm s0 (State.writeFanCfg s f w) := by
  unfold Sys2Proof.Machine.State.writeFanCfg
  repeat' first
    | with_reducible assumption | (with_reducible refine Has.mono ‹Has _ _› ?_; decide)
    | with_reducible apply State.Within.setWord | with_reducible apply State.Within.startFan
    | with_reducible apply State.Within.setFanState | with_reducible apply State.Within.refreshTight
    | with_reducible apply State.Within.refreshFanDuty | with_reducible apply State.Within.ite | with_reducible intro _

theorem State.Within.execFanEnable {fn : FnId} {f : FanId} {value : Word} {s : State} {out : State} (ht : execFanEnable fn f value s = .next out) : State.Within 0x10000080010 s out := by
  have h : State.Within 0x10000080010 s s := State.Within.refl
  have hm : Has 0x10000080010 0x10000080010 := Has.self
  cases ht
  repeat' first
    | with_reducible assumption | (with_reducible refine Has.mono ‹Has _ _› ?_; decide)
    | with_reducible apply State.Within.setupGate | with_reducible apply State.Within.writeFanCfg | with_reducible intro _

theorem State.Within.execFanTachPulse {f : FanId} {ma : Nat} {s : State} {out : State} (ht : execFanTachPulse f ma s = .next out) : State.Within 0x10000080018 s out := by
  have h : State.Within 0x10000080018 s s := State.Within.refl
  have hm : Has 0x10000080018 0x10000080018 := Has.self
  cases ht
  repeat' first
    | with_reducible assumption | (with_reducible refine Has.mono ‹Has _ _› ?_; decide)
    | with_reducible apply State.Within.setFan | with_reducible apply State.Within.fanCurrent
    | with_reducible apply State.Within.setFanState | with_reducible apply State.Within.setFld
    | with_reducible apply State.Within.ite | with_reducible intro _ | with_reducible apply State.WithinRec.free
    | simp only [State.within_mk]

theorem State.Within.execFanTachSilent {f : FanId} {ma : Nat} {s : State} {out : State} (ht : execFanTachSilent f ma s = .next out) : State.Within 0x10000080010 s out := by
  have h : State.Within 0x10000080010 s s := State.Within.refl
  have hm : Has 0x10000080010 0x10000080010 := Has.self
  cases ht
  repeat' first
    | with_reducible assumption | (with_reducible refine Has.mono ‹Has _ _› ?_; decide)
    | with_reducible apply State.Within.fanCurrent | with_reducible apply State.Within.setFld
    | with_reducible apply State.Within.setFan | with_reducible apply State.Within.setFanState
    | with_reducible apply State.Within.ite | with_reducible intro _

theorem State.Within.execFanKickExpiry {f : FanId} {ma : Nat} {s : State} {out : State} (ht : execFanKickExpiry f ma s = .next out) : State.Within 0x10000080010 s out := by
  have h : State.Within 0x10000080010 s s := State.Within.refl
  have hm : Has 0x10000080010 0x10000080010 := Has.self
  cases ht
  repeat' first
    | with_reducible assumption | (with_reducible refine Has.mono ‹Has _ _› ?_; decide)
    | with_reducible apply State.Within.fanCurrent | with_reducible apply State.Within.setFan
    | with_reducible apply State.Within.setFld | with_reducible apply State.Within.refreshFanDuty
    | with_reducible apply State.Within.setFanState | with_reducible apply State.Within.ite | with_reducible intro _

theorem State.Within.execFanRetry {f : FanId} {s : State} {out : State} (ht : execFanRetry f s = .next out) : State.Within 0x10000080010 s out := by
  have h : State.Within 0x10000080010 s s := State.Within.refl
  have hm : Has 0x10000080010 0x10000080010 := Has.self
  cases ht
  repeat' first
    | with_reducible assumption | with_reducible apply State.Within.startFan | with_reducible apply State.Within.ite
    | with_reducible intro _

theorem State.Within.execFanOpen {f : FanId} {held : Nat} {s : State} {out : State} (ht : execFanOpen f held s = .next out) : State.Within 0x10000080010 s out := by
  have h : State.Within 0x10000080010 s s := State.Within.refl
  have hm : Has 0x10000080010 0x10000080010 := Has.self
  cases ht
  repeat' first
    | with_reducible assumption | (with_reducible refine Has.mono ‹Has _ _› ?_; decide)
    | with_reducible apply State.Within.fanCurrent | with_reducible apply State.Within.setFanState
    | with_reducible apply State.Within.ite | with_reducible intro _

theorem State.Within.execFanCurrentRestored {f : FanId} {ma : Nat} {s : State} {out : State} (ht : execFanCurrentRestored f ma s = .next out) : State.Within 0x10000080010 s out := by
  have h : State.Within 0x10000080010 s s := State.Within.refl
  have hm : Has 0x10000080010 0x10000080010 := Has.self
  cases ht
  repeat' first
    | with_reducible assumption | (with_reducible refine Has.mono ‹Has _ _› ?_; decide)
    | with_reducible apply State.Within.fanCurrent | with_reducible apply State.Within.setFanState
    | with_reducible apply State.Within.startFan | with_reducible apply State.Within.ite | with_reducible intro _

end Sys2Proof.Machine
end

