-- ==== Sys2Proof/Laws/Frame/Rings.lean ====
section
/-! SUPPORT. What every operation and every meaning of Machine/Rings.lean may change. -/

namespace Sys2Proof.Machine

theorem State.Within.setFnState {pm : Nat} {s0 : State} {s : State} {fn : FnId} {st : FnState} (h : State.Within pm s0 s) (hm : Has 0x80010 pm) : State.Within pm s0 (State.setFnState s fn st) := by
  unfold Sys2Proof.Machine.State.setFnState
  repeat' first
    | with_reducible assumption | (with_reducible refine Has.mono ‹Has _ _› ?_; decide)
    | with_reducible apply State.Within.setFld | with_reducible apply State.Within.fstatChanged

theorem State.Within.setRingState {pm : Nat} {s0 : State} {s : State} {fn : FnId} {r : RingId} {st : RingState} (h : State.Within pm s0 s) (hm : Has 0x10 pm) : State.Within pm s0 (State.setRingState s fn r st) := by
  unfold Sys2Proof.Machine.State.setRingState
  repeat' first
    | with_reducible assumption | with_reducible apply State.Within.setFld

theorem State.Within.setRing {pm : Nat} {s0 : State} {s : State} {fn : FnId} {r : RingId} {x : Ring} (h : State.Within pm s0 s) (hm : Has 0x80000 pm) : State.Within pm s0 (State.setRing s fn r x) := by
  unfold Sys2Proof.Machine.State.setRing
  repeat' first
    | with_reducible assumption | with_reducible apply State.Within.setFn

theorem State.Within.advanceRing {pm : Nat} {s0 : State} {s : State} {fn : FnId} {r : RingId} {k : Nat} (h : State.Within pm s0 s) (hm : Has 0x80010 pm) : State.Within pm s0 (State.advanceRing s fn r k) := by
  unfold Sys2Proof.Machine.State.advanceRing
  repeat' first
    | with_reducible assumption | (with_reducible refine Has.mono ‹Has _ _› ?_; decide)
    | with_reducible apply State.Within.setRing | with_reducible apply State.Within.setWord

theorem State.Within.refreshResv {pm : Nat} {s0 : State} {s : State} {fn : FnId} (h : State.Within pm s0 s) (hm : Has 0x10 pm) : State.Within pm s0 (State.refreshResv s fn) := by
  unfold Sys2Proof.Machine.State.refreshResv
  repeat' first
    | with_reducible assumption | with_reducible apply State.Within.setFld

theorem State.Within.haltRing {pm : Nat} {s0 : State} {s : State} {fn : FnId} {r : RingId} {err : Nat} (h : State.Within pm s0 s) (hm : Has 0x80010 pm) : State.Within pm s0 (State.haltRing s fn r err) := by
  unfold Sys2Proof.Machine.State.haltRing
  repeat' first
    | with_reducible assumption | (with_reducible refine Has.mono ‹Has _ _› ?_; decide)
    | with_reducible apply State.Within.setRingState | with_reducible apply State.Within.setFld
    | with_reducible apply State.Within.setBit | with_reducible apply State.Within.fstatChanged
    | with_reducible apply State.Within.event | with_reducible apply State.Within.ite | with_reducible intro _

theorem State.Within.doorbell {pm : Nat} {s0 : State} {s : State} {fn : FnId} {r : RingId} {v : Word} (h : State.Within pm s0 s) (hm : Has 0x80010 pm) : State.Within pm s0 (State.doorbell s fn r v) := by
  unfold Sys2Proof.Machine.State.doorbell
  repeat' first
    | with_reducible assumption | (with_reducible refine Has.mono ‹Has _ _› ?_; decide)
    | with_reducible apply State.Within.setRing | with_reducible apply State.Within.haltRing
    | with_reducible apply State.Within.ite | with_reducible intro _

theorem State.Within.execDoorbell {fn : FnId} {ring : RingId} {value : Word} {s : State} {out : State} (ht : execDoorbell fn ring value s = .next out) : State.Within 0x80010 s out := by
  have h : State.Within 0x80010 s s := State.Within.refl
  have hm : Has 0x80010 0x80010 := Has.self
  cases ht
  repeat' first
    | with_reducible assumption | with_reducible apply State.Within.whenUp | with_reducible apply State.Within.doorbell
    | with_reducible intro _

theorem State.Within.refreshOwed {pm : Nat} {s0 : State} {s : State} (h : State.Within pm s0 s) (hm : Has 0x10 pm) : State.Within pm s0 (State.refreshOwed s) := by
  unfold Sys2Proof.Machine.State.refreshOwed
  repeat' first
    | with_reducible assumption | with_reducible apply State.Within.setFld

theorem State.Within.reportLost {pm : Nat} {s0 : State} {s : State} {fn : FnId} (h : State.Within pm s0 s) (hm : Has 0x4000080000 pm) : State.Within pm s0 (State.reportLost s fn) := by
  unfold Sys2Proof.Machine.State.reportLost
  repeat' first
    | with_reducible assumption | (with_reducible refine Has.mono ‹Has _ _› ?_; decide)
    | with_reducible apply State.Within.setFn | with_reducible apply State.WithinRec.pwr | simp only [State.within_mk]

theorem State.Within.discardLost {pm : Nat} {s0 : State} {s : State} (h : State.Within pm s0 s) (hm : Has 0x4000080010 pm) : State.Within pm s0 (State.discardLost s) := by
  unfold Sys2Proof.Machine.State.discardLost
  repeat' first
    | with_reducible assumption | (with_reducible refine Has.mono ‹Has _ _› ?_; decide)
    | with_reducible apply State.Within.refreshOwed | with_reducible apply State.WithinRec.funcs_pwr
    | simp only [State.within_mk]

theorem State.Within.execPwrLostDiscard {fn : FnId} {s : State} {out : State} (ht : execPwrLostDiscard fn s = .next out) : State.Within 0x4000080010 s out := by
  have h : State.Within 0x4000080010 s s := State.Within.refl
  have hm : Has 0x4000080010 0x4000080010 := Has.self
  cases ht
  repeat' first
    | with_reducible assumption | with_reducible apply State.Within.discardLost | with_reducible apply State.Within.ite
    | with_reducible intro _

theorem State.Within.ringCfgFields {pm : Nat} {s0 : State} {s : State} {fn : FnId} {r : RingId} {w : Word} (h : State.Within pm s0 s) (hm : Has 0x10 pm) : State.Within pm s0 (State.ringCfgFields s fn r w) := by
  unfold Sys2Proof.Machine.State.ringCfgFields
  repeat' first
    | with_reducible assumption | with_reducible apply State.Within.setFld | with_reducible apply State.Within.ite
    | with_reducible intro _

theorem State.Within.enableRing {pm : Nat} {s0 : State} {s : State} {fn : FnId} {r : RingId} {w : Word} (h : State.Within pm s0 s) (hm : Has 0x4000080010 pm) : State.Within pm s0 (State.enableRing s fn r w) := by
  unfold Sys2Proof.Machine.State.enableRing
  repeat' first
    | with_reducible assumption | (with_reducible refine Has.mono ‹Has _ _› ?_; decide)
    | with_reducible apply State.Within.ringCfgFields | with_reducible apply State.Within.setFld
    | with_reducible apply State.Within.setRing | with_reducible apply State.Within.setWord
    | with_reducible apply State.Within.haltRing | with_reducible apply State.Within.setRingState
    | with_reducible apply State.Within.reportLost | with_reducible apply State.Within.ite | with_reducible intro _

theorem State.Within.execRingEnable {fn : FnId} {ring : RingId} {value : Word} {bme : Bool} {s : State} {out : State} (ht : execRingEnable fn ring value bme s = .next out) : State.Within 0x4000080010 s out := by
  have h : State.Within 0x4000080010 s s := State.Within.refl
  have hm : Has 0x4000080010 0x4000080010 := Has.self
  cases ht
  repeat' first
    | with_reducible assumption | (with_reducible refine Has.mono ‹Has _ _› ?_; decide)
    | with_reducible apply State.Within.whenUp | with_reducible apply State.Within.setFn
    | with_reducible apply State.Within.enableRing | with_reducible apply State.Within.ite | with_reducible intro _

theorem State.Within.disableRing {pm : Nat} {s0 : State} {s : State} {fn : FnId} {r : RingId} {w : Word} (h : State.Within pm s0 s) (hm : Has 0x10 pm) : State.Within pm s0 (State.disableRing s fn r w) := by
  unfold Sys2Proof.Machine.State.disableRing
  repeat' first
    | with_reducible assumption | with_reducible apply State.Within.ringCfgFields | with_reducible apply State.Within.setFld
    | with_reducible apply State.Within.setRingState | with_reducible apply State.Within.ite | with_reducible intro _

theorem State.Within.execRingDisable {fn : FnId} {ring : RingId} {value : Word} {s : State} {out : State} (ht : execRingDisable fn ring value s = .next out) : State.Within 0x10 s out := by
  have h : State.Within 0x10 s s := State.Within.refl
  have hm : Has 0x10 0x10 := Has.self
  cases ht
  repeat' first
    | with_reducible assumption | with_reducible apply State.Within.whenUp | with_reducible apply State.Within.disableRing
    | with_reducible apply State.Within.ite | with_reducible intro _

theorem State.Within.writeComp {pm : Nat} {s0 : State} {s : State} {fn : FnId} {c : Comp} (h : State.Within pm s0 s) (hm : Has 0x4000280010 pm) : State.Within pm s0 (State.writeComp s fn c) := by
  unfold Sys2Proof.Machine.State.writeComp
  repeat' first
    | with_reducible assumption | (with_reducible refine Has.mono ‹Has _ _› ?_; decide)
    | with_reducible apply State.Within.setFn | with_reducible apply State.Within.advanceRing
    | with_reducible apply State.Within.signalVec | with_reducible apply State.Within.refreshOwed
    | with_reducible apply State.Within.refreshResv | with_reducible apply State.WithinRec.hostOut
    | with_reducible apply State.WithinRec.pwr | simp only [State.within_mk]

theorem State.Within.execCompletionWrite {fn : FnId} {sent : Bool} {s : State} {out : State} (ht : execCompletionWrite fn sent s = .next out) : State.Within 0x4000280010 s out := by
  have h : State.Within 0x4000280010 s s := State.Within.refl
  have hm : Has 0x4000280010 0x4000280010 := Has.self
  cases ht
  repeat' first
    | with_reducible assumption | (with_reducible refine Has.mono ‹Has _ _› ?_; decide)
    | with_reducible apply State.Within.writeComp | with_reducible apply State.Within.haltRing
    | with_reducible apply State.Within.setFn | with_reducible apply State.Within.ite | with_reducible intro _ | simp only []
    | split

theorem State.Within.writeEvent {pm : Nat} {s0 : State} {s : State} {fn : FnId} {r : EvRec} (h : State.Within pm s0 s) (hm : Has 0x280010 pm) : State.Within pm s0 (State.writeEvent s fn r) := by
  unfold Sys2Proof.Machine.State.writeEvent
  repeat' first
    | with_reducible assumption | (with_reducible refine Has.mono ‹Has _ _› ?_; decide)
    | with_reducible apply State.Within.advanceRing | with_reducible apply State.Within.signalVec
    | with_reducible apply State.Within.forAll | with_reducible intro _ | with_reducible apply State.WithinRec.hostOut
    | simp only [State.within_mk]

theorem State.Within.execEventRecordWrite {fn : FnId} {sent : Bool} {s : State} {out : State} (ht : execEventRecordWrite fn sent s = .next out) : State.Within 0x280010 s out := by
  have h : State.Within 0x280010 s s := State.Within.refl
  have hm : Has 0x280010 0x280010 := Has.self
  cases ht
  repeat' first
    | with_reducible assumption | (with_reducible refine Has.mono ‹Has _ _› ?_; decide)
    | with_reducible apply State.Within.haltRing | with_reducible apply State.Within.setFn
    | with_reducible apply State.Within.writeEvent | with_reducible apply State.Within.ite | with_reducible intro _
    | simp only [] | split

theorem State.Within.setPba {pm : Nat} {s0 : State} {s : State} {fn : FnId} {v : Fin 16} {b : Bool} (h : State.Within pm s0 s) (hm : Has 0x10 pm) : State.Within pm s0 (State.setPba s fn v b) := by
  unfold Sys2Proof.Machine.State.setPba
  repeat' first
    | with_reducible assumption | with_reducible apply State.Within.setWord

theorem State.Within.execMsixMessage {fn : FnId} {vec : Fin 16} {s : State} {out : State} (ht : execMsixMessage fn vec s = .next out) : State.Within 0x280010 s out := by
  have h : State.Within 0x280010 s s := State.Within.refl
  have hm : Has 0x280010 0x280010 := Has.self
  cases ht
  repeat' first
    | with_reducible assumption | (with_reducible refine Has.mono ‹Has _ _› ?_; decide)
    | with_reducible apply State.Within.setPba | with_reducible apply State.Within.setFn | with_reducible apply State.Within.ite
    | with_reducible intro _ | with_reducible apply State.WithinRec.hostOut | simp only [State.within_mk]

end Sys2Proof.Machine
end

