-- ==== Sys2Proof/Laws/Frame/Functions.lean ====
section
/-! SUPPORT. What every operation and every meaning of Machine/Functions.lean may change. -/

namespace Sys2Proof.Machine

theorem State.Within.cancel {pm : Nat} {s0 : State} {s : State} {src : CmdSrc} {c : HostCmd} (h : State.Within pm s0 s) (hm : Has 0x80000 pm) : State.Within pm s0 (State.cancel s src c) := by
  unfold Sys2Proof.Machine.State.cancel
  repeat' first
    | with_reducible assumption | with_reducible apply State.Within.complete | split

theorem State.Within.disarmFn {pm : Nat} {s0 : State} {s : State} {fn : FnId} (h : State.Within pm s0 s) (hm : Has 0x10000 pm) : State.Within pm s0 (State.disarmFn s fn) := by
  unfold Sys2Proof.Machine.State.disarmFn
  repeat' first
    | with_reducible assumption | with_reducible apply State.WithinRec.mot | simp only [State.within_mk]

theorem State.Within.clearLog {pm : Nat} {s0 : State} {s : State} {fn : FnId} (h : State.Within pm s0 s) (hm : Has 0x10 pm) : State.Within pm s0 (State.clearLog s fn) := by
  unfold Sys2Proof.Machine.State.clearLog
  repeat' first
    | with_reducible assumption | with_reducible apply State.Within.setWord | with_reducible apply State.WithinRec.regs
    | simp only [State.within_mk]

theorem State.Within.resetFn {pm : Nat} {s0 : State} {s : State} {fn : FnId} (h : State.Within pm s0 s) (hm : Has 0x80191810 pm) : State.Within pm s0 (State.resetFn s fn) := by
  unfold Sys2Proof.Machine.State.resetFn
  repeat' first
    | with_reducible assumption | (with_reducible refine Has.mono ‹Has _ _› ?_; decide)
    | with_reducible apply State.Within.setFnState | with_reducible apply State.Within.setRingState
    | with_reducible apply State.Within.clearLog | with_reducible apply State.Within.setFld
    | with_reducible apply State.Within.setFn | with_reducible apply State.Within.cancel
    | with_reducible apply State.Within.complete | with_reducible apply State.Within.requestStop
    | with_reducible apply State.Within.disarmFn | with_reducible apply State.Within.raiseEvent
    | with_reducible apply State.Within.refreshResv | with_reducible apply State.Within.resetCan
    | with_reducible apply State.Within.ite | with_reducible apply State.Within.forAll | with_reducible intro _
    | with_reducible apply State.WithinRec.accepted | simp only [State.within_mk]

theorem State.Within.flrFn {pm : Nat} {s0 : State} {s : State} {fn : FnId} (h : State.Within pm s0 s) (hm : Has 0x80191810 pm) : State.Within pm s0 (State.flrFn s fn) := by
  unfold Sys2Proof.Machine.State.flrFn
  repeat' first
    | with_reducible assumption | (with_reducible refine Has.mono ‹Has _ _› ?_; decide)
    | with_reducible apply State.Within.setFn | with_reducible apply State.Within.resetFn
    | with_reducible apply State.Within.ite | with_reducible intro _ | with_reducible apply State.WithinRec.regs
    | simp only [State.within_mk]

theorem State.Within.writeFctl {pm : Nat} {s0 : State} {s : State} {by_ fn : FnId} {w : Word} (h : State.Within pm s0 s) (hm : Has 0x80191810 pm) : State.Within pm s0 (State.writeFctl s by_ fn w) := by
  unfold Sys2Proof.Machine.State.writeFctl
  repeat' first
    | with_reducible assumption | (with_reducible refine Has.mono ‹Has _ _› ?_; decide)
    | with_reducible apply State.Within.setFld | with_reducible apply State.Within.resetFn
    | with_reducible apply State.Within.ite | with_reducible intro _

theorem State.Within.execFunctionReset {by_ fn : FnId} {value : Word} {s : State} {out : State} (ht : execFunctionReset by_ fn value s = .next out) : State.Within 0x80191810 s out := by
  have h : State.Within 0x80191810 s s := State.Within.refl
  have hm : Has 0x80191810 0x80191810 := Has.self
  cases ht
  repeat' first
    | with_reducible assumption | with_reducible apply State.Within.whenUp | with_reducible apply State.Within.writeFctl
    | with_reducible apply State.Within.ite | with_reducible intro _

theorem State.Within.execFunctionLevelReset {fn : FnId} {s : State} {out : State} (ht : execFunctionLevelReset fn s = .next out) : State.Within 0x80191810 s out := by
  have h : State.Within 0x80191810 s s := State.Within.refl
  have hm : Has 0x80191810 0x80191810 := Has.self
  cases ht
  repeat' first
    | with_reducible assumption | with_reducible apply State.Within.whenUp | with_reducible apply State.Within.flrFn
    | with_reducible apply State.Within.ite | with_reducible intro _

theorem State.Within.clearVfs {pm : Nat} {s0 : State} {s : State} (h : State.Within pm s0 s) (hm : Has 0x80191810 pm) : State.Within pm s0 (State.clearVfs s) := by
  unfold Sys2Proof.Machine.State.clearVfs
  repeat' first
    | with_reducible assumption | (with_reducible refine Has.mono ‹Has _ _› ?_; decide)
    | with_reducible apply State.Within.setFn | with_reducible apply State.Within.flrFn
    | with_reducible apply State.Within.forAll | with_reducible intro _

theorem State.Within.execVfEnableClear {s : State} {out : State} (ht : execVfEnableClear s = .next out) : State.Within 0x80191810 s out := by
  have h : State.Within 0x80191810 s s := State.Within.refl
  have hm : Has 0x80191810 0x80191810 := Has.self
  cases ht
  repeat' first
    | with_reducible assumption | with_reducible apply State.Within.whenUp | with_reducible apply State.Within.clearVfs
    | with_reducible intro _

theorem State.Within.zeroStaging {pm : Nat} {s0 : State} {s : State} {fn : FnId} (h : State.Within pm s0 s) (hm : Has 0x4000080010 pm) : State.Within pm s0 (State.zeroStaging s fn) := by
  unfold Sys2Proof.Machine.State.zeroStaging
  repeat' first
    | with_reducible assumption | (with_reducible refine Has.mono ‹Has _ _› ?_; decide)
    | with_reducible apply State.Within.setFn | with_reducible apply State.Within.refreshResv
    | with_reducible apply State.WithinRec.pwr | simp only [State.within_mk]

theorem State.Within.execVfEnableSet {num : Fin 8} {s : State} {out : State} (ht : execVfEnableSet num s = .next out) : State.Within 0x4000080010 s out := by
  have h : State.Within 0x4000080010 s s := State.Within.refl
  have hm : Has 0x4000080010 0x4000080010 := Has.self
  cases ht
  repeat' first
    | with_reducible assumption | (with_reducible refine Has.mono ‹Has _ _› ?_; decide)
    | with_reducible apply State.Within.whenUp | with_reducible apply State.Within.zeroStaging
    | with_reducible apply State.Within.setFnState | with_reducible apply State.Within.forAll | with_reducible intro _

theorem State.Within.logReset {pm : Nat} {s0 : State} {s : State} {fn : FnId} {l : List CmdSrc} (h : State.Within pm s0 s) (hm : Has 0x10 pm) : State.Within pm s0 (State.logReset s fn l) := by
  unfold Sys2Proof.Machine.State.logReset
  repeat' first
    | with_reducible assumption | with_reducible apply State.Within.setWord | with_reducible apply State.Within.setFld
    | with_reducible apply State.Within.setBit | with_reducible apply State.Within.foldl | with_reducible intro _

theorem State.Within.execFunctionResetEnd {fn : FnId} {s : State} {out : State} (ht : execFunctionResetEnd fn s = .next out) : State.Within 0x4000080010 s out := by
  have h : State.Within 0x4000080010 s s := State.Within.refl
  have hm : Has 0x4000080010 0x4000080010 := Has.self
  cases ht
  repeat' first
    | with_reducible assumption | (with_reducible refine Has.mono ‹Has _ _› ?_; decide)
    | with_reducible apply State.Within.logReset | with_reducible apply State.Within.zeroStaging
    | with_reducible apply State.Within.setRingState | with_reducible apply State.Within.setFld
    | with_reducible apply State.Within.setBit | with_reducible apply State.Within.setFn
    | with_reducible apply State.Within.setFnState | with_reducible apply State.Within.ite
    | with_reducible apply State.Within.forAll | with_reducible intro _ | with_reducible apply State.WithinRec.pwr
    | simp only [State.within_mk]

theorem State.Within.zeroAxis {pm : Nat} {s0 : State} {s : State} {n : AxId} (h : State.Within pm s0 s) (hm : Has 0x20000d1910 pm) : State.Within pm s0 (State.zeroAxis s n) := by
  unfold Sys2Proof.Machine.State.zeroAxis
  repeat' first
    | with_reducible assumption | (with_reducible refine Has.mono ‹Has _ _› ?_; decide)
    | with_reducible apply State.Within.loseMonitor | with_reducible apply State.Within.setAx
    | with_reducible apply State.Within.setBit | with_reducible apply State.Within.setMotion
    | with_reducible apply State.Within.refreshStep | with_reducible apply State.Within.setMoni
    | with_reducible apply State.Within.setEng | with_reducible apply State.Within.setFld
    | with_reducible apply State.Within.setEngState | with_reducible apply State.WithinRec.funcs
    | with_reducible apply State.WithinRec.shmem | with_reducible apply State.WithinRec.store | simp only [State.within_mk]
    | split

theorem State.Within.disarmDio {pm : Nat} {s0 : State} {s : State} {d : DioId} (h : State.Within pm s0 s) (hm : Has 0x10000 pm) : State.Within pm s0 (State.disarmDio s d) := by
  unfold Sys2Proof.Machine.State.disarmDio
  repeat' first
    | with_reducible assumption | with_reducible apply State.WithinRec.mot | simp only [State.within_mk]

theorem State.Within.zeroRes {pm : Nat} {s0 s : State} {a : Res} (h : State.Within pm s0 s) (hm : Has 0x21900d1910 pm) :
    State.Within pm s0 (State.zeroRes s a) := by
  unfold State.zeroRes
  repeat' first
    | with_reducible assumption | (with_reducible refine Has.mono ‹Has _ _› ?_; decide)
    | with_reducible apply State.Within.zeroAxis | with_reducible apply State.Within.disarmDio
    | with_reducible apply State.Within.enterSafeOut | with_reducible apply State.Within.setChan
    | with_reducible apply State.Within.zeroCan | with_reducible apply State.Within.setTxq
    | with_reducible apply State.Within.showDepth | simp only [] | split

theorem State.Within.applyOwn {pm : Nat} {s0 : State} {s : State} (h : State.Within pm s0 s) (hm : Has 0x21908d1910 pm) : State.Within pm s0 (State.applyOwn s) := by
  unfold Sys2Proof.Machine.State.applyOwn
  repeat' first
    | with_reducible assumption | (with_reducible refine Has.mono ‹Has _ _› ?_; decide)
    | with_reducible apply State.Within.setBit | with_reducible apply State.Within.setFld
    | with_reducible apply State.Within.zeroRes | with_reducible apply State.Within.ite
    | with_reducible apply State.Within.forAll | with_reducible intro _ | with_reducible apply State.WithinRec.ownChanges
    | simp only [State.within_mk] | split

theorem State.Within.execOwnApply {fn : FnId} {s : State} {out : State} (ht : execOwnApply fn s = .next out) : State.Within 0x21908d1910 s out := by
  have h : State.Within 0x21908d1910 s s := State.Within.refl
  have hm : Has 0x21908d1910 0x21908d1910 := Has.self
  cases ht
  repeat' first
    | with_reducible assumption | with_reducible apply State.Within.whenUp | with_reducible apply State.Within.applyOwn
    | with_reducible apply State.Within.ite | with_reducible intro _

theorem State.Within.setOwner {pm : Nat} {s0 : State} {s : State} {r : Res} {o : Nat} (h : State.Within pm s0 s) (hm : Has 0x10 pm) : State.Within pm s0 (State.setOwner s r o) := by
  unfold Sys2Proof.Machine.State.setOwner
  repeat' first
    | with_reducible assumption | with_reducible apply State.Within.setWord | simp only [] | split

theorem State.Within.execOwnershipZeroingDone {res : Res} {s : State} {out : State} (ht : execOwnershipZeroingDone res s = .next out) : State.Within 0x800010 s out := by
  have h : State.Within 0x800010 s s := State.Within.refl
  have hm : Has 0x800010 0x800010 := Has.self
  cases ht
  repeat' first
    | with_reducible assumption | (with_reducible refine Has.mono ‹Has _ _› ?_; decide)
    | with_reducible apply State.Within.setOwner | with_reducible apply State.Within.setBit
    | with_reducible apply State.Within.ite | with_reducible intro _ | with_reducible apply State.WithinRec.ownChanges
    | simp only [State.within_mk] | split

end Sys2Proof.Machine
end

