-- ==== Sys2Proof/Laws/Frame/PowerReset.lean ====
section
/-! SUPPORT. What every operation and every meaning of Machine/PowerReset.lean may change. -/

namespace Sys2Proof.Machine

theorem State.Within.takeCommit {pm : Nat} {s0 : State} {s : State} (h : State.Within pm s0 s) (hm : Has 0x4000000008 pm) : State.Within pm s0 (State.takeCommit s) := by
  unfold Sys2Proof.Machine.State.takeCommit
  repeat' first
    | with_reducible assumption | with_reducible apply State.WithinRec.free_pwr | simp only [State.within_mk]

theorem State.Within.takeOwed {pm : Nat} {s0 : State} {s : State} {dt cause : Nat} (h : State.Within pm s0 s) (hm : Has 0x4000100010 pm) : State.Within pm s0 (State.takeOwed s dt cause) := by
  unfold Sys2Proof.Machine.State.takeOwed
  repeat' first
    | with_reducible assumption | (with_reducible refine Has.mono ‹Has _ _› ?_; decide)
    | with_reducible apply State.Within.setBit | with_reducible apply State.Within.refreshOwed
    | with_reducible apply State.Within.ite | with_reducible intro _ | with_reducible apply State.WithinRec.accepted_pwr
    | simp only [State.within_mk]

theorem State.Within.refreshVauxOk {pm : Nat} {s0 : State} {s : State} (h : State.Within pm s0 s) (hm : Has 0x10 pm) : State.Within pm s0 (State.refreshVauxOk s) := by
  unfold Sys2Proof.Machine.State.refreshVauxOk
  repeat' first
    | with_reducible assumption | with_reducible apply State.Within.setBit

theorem State.Within.resetBlock {pm : Nat} {s0 : State} {s : State} {warm : Bool} (h : State.Within pm s0 s) (hm : Has 0x1ffbfdffff8 pm) : State.Within pm s0 (State.resetBlock s warm) := by
  unfold Sys2Proof.Machine.State.resetBlock
  repeat' first
    | with_reducible assumption | (with_reducible refine Has.mono ‹Has _ _› ?_; decide)
    | with_reducible apply State.Within.resetSafety | with_reducible apply State.Within.setBit
    | with_reducible apply State.Within.refreshVauxOk | with_reducible apply State.Within.refreshOwed
    | with_reducible apply State.Within.showLog | with_reducible apply State.WithinRec.blockFree | simp only [State.within_mk]

theorem State.Within.keepRetired {pm : Nat} {s0 : State} {s old : State} (h : State.Within pm s0 s) (h1 : State.Within pm s0 old) (hm : Has 0x10 pm) : State.Within pm s0 (State.keepRetired s old) := by
  unfold Sys2Proof.Machine.State.keepRetired
  repeat' first
    | with_reducible assumption | with_reducible apply State.Within.setBit | with_reducible apply State.Within.setEngState
    | with_reducible apply State.Within.forAll | with_reducible intro _

theorem State.Within.keepSupplies {pm : Nat} {s0 : State} {s old : State} (h : State.Within pm s0 s) (h1 : State.Within pm s0 old) (hm : Has 0x2010 pm) : State.Within pm s0 (State.keepSupplies s old) := by
  unfold Sys2Proof.Machine.State.keepSupplies
  repeat' first
    | with_reducible assumption | (with_reducible refine Has.mono ‹Has _ _› ?_; decide)
    | with_reducible apply State.Within.setBnk | with_reducible apply State.Within.setWord
    | with_reducible apply State.Within.setBit | with_reducible apply State.Within.forAll | with_reducible intro _

theorem State.Within.keepTime {pm : Nat} {s0 : State} {s old : State} (h : State.Within pm s0 s) (h1 : State.Within pm s0 old) (hm : Has 0x10 pm) : State.Within pm s0 (State.keepTime s old) := by
  unfold Sys2Proof.Machine.State.keepTime
  repeat' first
    | with_reducible assumption | with_reducible apply State.Within.setFld | split

theorem State.Within.keepLevel {pm : Nat} {s0 : State} {s : State} (h : State.Within pm s0 s) (hm : Has 0x10 pm) : State.Within pm s0 (State.keepLevel s) := by
  unfold Sys2Proof.Machine.State.keepLevel
  repeat' first
    | with_reducible assumption | with_reducible apply State.Within.setFld

theorem State.Within.warmReset {pm : Nat} {s0 : State} {s : State} {cause : Nat} (h : State.Within pm s0 s) (hm : Has 0x1ffbfdffff8 pm) : State.Within pm s0 (State.warmReset s cause) := by
  unfold Sys2Proof.Machine.State.warmReset
  repeat' first
    | with_reducible assumption | (with_reducible refine Has.mono ‹Has _ _› ?_; decide)
    | with_reducible apply State.Within.takeCommit | with_reducible apply State.Within.takeOwed
    | with_reducible apply State.Within.resetBlock | with_reducible apply State.Within.keepRetired
    | with_reducible apply State.Within.keepSupplies | with_reducible apply State.Within.keepTime
    | with_reducible apply State.Within.keepLevel | with_reducible apply State.Within.setFld
    | with_reducible apply State.Within.setBit | with_reducible apply State.WithinRec.blockFree | simp only [State.within_mk]

theorem State.Within.execResetNReset {low : Nat} {s : State} {out : State} (ht : execResetNReset low s = .next out) : State.Within 0x1ffbfdffff8 s out := by
  have h : State.Within 0x1ffbfdffff8 s s := State.Within.refl
  have hm : Has 0x1ffbfdffff8 0x1ffbfdffff8 := Has.self
  cases ht
  repeat' first
    | with_reducible assumption | (with_reducible refine Has.mono ‹Has _ _› ?_; decide)
    | with_reducible apply State.Within.warmReset | with_reducible apply State.Within.ite | with_reducible intro _
    | with_reducible apply State.WithinRec.free | simp only [State.within_mk]

theorem State.Within.writeRstKey {pm : Nat} {s0 : State} {s : State} {fn : FnId} {w : Word} (h : State.Within pm s0 s) (hm : Has 0x1ffbfdffff8 pm) : State.Within pm s0 (State.writeRstKey s fn w) := by
  unfold Sys2Proof.Machine.State.writeRstKey
  repeat' first
    | with_reducible assumption | with_reducible apply State.Within.warmReset | with_reducible apply State.Within.ite
    | with_reducible intro _

theorem State.Within.execPwrRstKey {fn : FnId} {value : Word} {s : State} {out : State} (ht : execPwrRstKey fn value s = .next out) : State.Within 0x1ffbfdffff8 s out := by
  have h : State.Within 0x1ffbfdffff8 s s := State.Within.refl
  have hm : Has 0x1ffbfdffff8 0x1ffbfdffff8 := Has.self
  cases ht
  repeat' first
    | with_reducible assumption | with_reducible apply State.Within.writeRstKey

theorem State.Within.execHkWatchdogReset {s : State} {out : State} (ht : execHkWatchdogReset s = .next out) : State.Within 0x1ffbfdffff8 s out := by
  have h : State.Within 0x1ffbfdffff8 s s := State.Within.refl
  have hm : Has 0x1ffbfdffff8 0x1ffbfdffff8 := Has.self
  cases ht
  repeat' first
    | with_reducible assumption | with_reducible apply State.Within.warmReset | with_reducible apply State.Within.ite
    | with_reducible intro _

theorem State.Within.execPowerFailRestart {mv held : Nat} {s : State} {out : State} (ht : execPowerFailRestart mv held s = .next out) : State.Within 0x1ffbfdffff8 s out := by
  have h : State.Within 0x1ffbfdffff8 s s := State.Within.refl
  have hm : Has 0x1ffbfdffff8 0x1ffbfdffff8 := Has.self
  cases ht
  repeat' first
    | with_reducible assumption | with_reducible apply State.Within.warmReset | with_reducible apply State.Within.ite
    | with_reducible intro _ | with_reducible apply State.WithinRec.blockFree | simp only [State.within_mk]

theorem State.Within.pathTest {pm : Nat} {s0 : State} {s : State} {f : Option (Fin 2)} (h : State.Within pm s0 s) (hm : Has 0xc000083810 pm) : State.Within pm s0 (State.pathTest s f) := by
  unfold Sys2Proof.Machine.State.pathTest
  repeat' first
    | with_reducible assumption | with_reducible apply State.Within.channelFault | split

theorem State.Within.execWarmResetEnd {pathFault : Option (Fin 2)} {s : State} {out : State} (ht : execWarmResetEnd pathFault s = .next out) : State.Within 0xc800083810 s out := by
  have h : State.Within 0xc800083810 s s := State.Within.refl
  have hm : Has 0xc800083810 0xc800083810 := Has.self
  cases ht
  repeat' first
    | with_reducible assumption | (with_reducible refine Has.mono ‹Has _ _› ?_; decide)
    | with_reducible apply State.Within.logFault | with_reducible apply State.Within.initialHall
    | with_reducible apply State.Within.pathTest | with_reducible apply State.Within.ite
    | with_reducible apply State.Within.forAll | with_reducible intro _ | with_reducible apply State.WithinRec.pwr
    | simp only [State.within_mk]

theorem State.Within.execPowerOnResetAssert {s : State} {out : State} (ht : execPowerOnResetAssert s = .next out) : State.Within 0x1ffbfdffff8 s out := by
  have h : State.Within 0x1ffbfdffff8 s s := State.Within.refl
  have hm : Has 0x1ffbfdffff8 0x1ffbfdffff8 := Has.self
  cases ht
  repeat' first
    | with_reducible assumption | (with_reducible refine Has.mono ‹Has _ _› ?_; decide)
    | with_reducible apply State.Within.logFault | with_reducible apply State.Within.takeOwed
    | with_reducible apply State.Within.resetBlock | with_reducible apply State.Within.setBit
    | with_reducible apply State.Within.ite | with_reducible intro _ | with_reducible apply State.WithinRec.free
    | with_reducible apply State.WithinRec.saf_pwr | simp only [State.within_mk]

theorem State.Within.plinthCold {pm : Nat} {s0 : State} {s : State} (h : State.Within pm s0 s) (hm : Has 0x5400040010 pm) : State.Within pm s0 (State.plinthCold s) := by
  unfold Sys2Proof.Machine.State.plinthCold
  repeat' first
    | with_reducible assumption | (with_reducible refine Has.mono ‹Has _ _› ?_; decide)
    | with_reducible apply State.Within.setWord | with_reducible apply State.Within.setBit
    | with_reducible apply State.Within.refreshOwed | with_reducible apply State.Within.forAll | with_reducible intro _
    | with_reducible apply State.WithinRec.mon_saf_prof_pwr | simp only [State.within_mk]

theorem State.Within.execPowerOnReset {psel : Fin 4} {elapsed : Nat} {cold : Bool} {pathFault : Option (Fin 2)} {s : State} {out : State} (ht : execPowerOnReset psel elapsed cold pathFault s = .next out) : State.Within 0xdc000c3814 s out := by
  have h : State.Within 0xdc000c3814 s s := State.Within.refl
  have hm : Has 0xdc000c3814 0xdc000c3814 := Has.self
  cases ht
  repeat' first
    | with_reducible assumption | (with_reducible refine Has.mono ‹Has _ _› ?_; decide)
    | with_reducible apply State.Within.plinthCold | with_reducible apply State.Within.setFld
    | with_reducible apply State.Within.setBit | with_reducible apply State.Within.logFault
    | with_reducible apply State.Within.showLog | with_reducible apply State.Within.initialHall
    | with_reducible apply State.Within.pathTest | with_reducible apply State.Within.ite
    | with_reducible apply State.Within.forAll | with_reducible intro _ | with_reducible apply State.WithinRec.dt_pwr
    | simp only [State.within_mk]

theorem State.Within.execEndpointReset {s : State} {out : State} (ht : execEndpointReset s = .next out) : State.Within 0x80191810 s out := by
  have h : State.Within 0x80191810 s s := State.Within.refl
  have hm : Has 0x80191810 0x80191810 := Has.self
  cases ht
  repeat' first
    | with_reducible assumption | (with_reducible refine Has.mono ‹Has _ _› ?_; decide)
    | with_reducible apply State.Within.countSat | with_reducible apply State.Within.clearVfs
    | with_reducible apply State.Within.flrFn | with_reducible apply State.Within.ite | with_reducible intro _

theorem State.Within.execPowerFail {vcore : Bool} {mv held : Nat} {s : State} {out : State} (ht : execPowerFail vcore mv held s = .next out) : State.Within 0x4800103018 s out := by
  have h : State.Within 0x4800103018 s s := State.Within.refl
  have hm : Has 0x4800103018 0x4800103018 := Has.self
  cases ht
  repeat' first
    | with_reducible assumption | (with_reducible refine Has.mono ‹Has _ _› ?_; decide)
    | with_reducible apply State.Within.takeCommit | with_reducible apply State.Within.takeOwed
    | with_reducible apply State.Within.setBit | with_reducible apply State.Within.refreshVauxOk
    | with_reducible apply State.Within.setFailover | with_reducible apply State.Within.refreshAxis
    | with_reducible apply State.Within.refreshBrake | with_reducible apply State.Within.ite
    | with_reducible apply State.Within.forAll | with_reducible intro _ | with_reducible apply State.WithinRec.pwr
    | simp only [State.within_mk]

theorem State.Within.execPlinthCommitDone {s : State} {out : State} (ht : execPlinthCommitDone s = .next out) : State.Within 0x4000000010 s out := by
  have h : State.Within 0x4000000010 s s := State.Within.refl
  have hm : Has 0x4000000010 0x4000000010 := Has.self
  cases ht
  repeat' first
    | with_reducible assumption | (with_reducible refine Has.mono ‹Has _ _› ?_; decide)
    | with_reducible apply State.Within.logFault | with_reducible apply State.Within.ite | with_reducible intro _
    | with_reducible apply State.WithinRec.pwr | simp only [State.within_mk]

theorem State.Within.restartCharge {pm : Nat} {s0 : State} {s : State} (h : State.Within pm s0 s) (hm : Has 0x10 pm) : State.Within pm s0 (State.restartCharge s) := by
  unfold Sys2Proof.Machine.State.restartCharge
  repeat' first
    | with_reducible assumption | with_reducible apply State.Within.setFld

theorem State.Within.execVauxHandover {mv : Nat} {s : State} {out : State} (ht : execVauxHandover mv s = .next out) : State.Within 0x4000000010 s out := by
  have h : State.Within 0x4000000010 s s := State.Within.refl
  have hm : Has 0x4000000010 0x4000000010 := Has.self
  cases ht
  repeat' first
    | with_reducible assumption | (with_reducible refine Has.mono ‹Has _ _› ?_; decide)
    | with_reducible apply State.Within.refreshVauxOk | with_reducible apply State.Within.setBit
    | with_reducible apply State.Within.restartCharge | with_reducible apply State.Within.ite | with_reducible intro _
    | with_reducible apply State.WithinRec.pwr | simp only [State.within_mk]

theorem State.Within.execVauxReturn {mv : Nat} {s : State} {out : State} (ht : execVauxReturn mv s = .next out) : State.Within 0x4000000010 s out := by
  have h : State.Within 0x4000000010 s s := State.Within.refl
  have hm : Has 0x4000000010 0x4000000010 := Has.self
  cases ht
  repeat' first
    | with_reducible assumption | (with_reducible refine Has.mono ‹Has _ _› ?_; decide)
    | with_reducible apply State.Within.refreshVauxOk | with_reducible apply State.Within.setBit
    | with_reducible apply State.Within.restartCharge | with_reducible apply State.Within.ite | with_reducible intro _
    | with_reducible apply State.WithinRec.pwr | simp only [State.within_mk] | split

theorem State.Within.setChg {pm : Nat} {s0 : State} {s : State} {c : Nat} (h : State.Within pm s0 s) (hm : Has 0x10 pm) : State.Within pm s0 (State.setChg s c) := by
  unfold Sys2Proof.Machine.State.setChg
  repeat' first
    | with_reducible assumption | with_reducible apply State.Within.setFld

theorem State.Within.setVbakMv {pm : Nat} {s0 : State} {s : State} {mv : Nat} (h : State.Within pm s0 s) (hm : Has 0x10 pm) : State.Within pm s0 (State.setVbakMv s mv) := by
  unfold Sys2Proof.Machine.State.setVbakMv
  repeat' first
    | with_reducible assumption | with_reducible apply State.Within.setFld

theorem State.Within.beginVbakTest {pm : Nat} {s0 : State} {s : State} (h : State.Within pm s0 s) (hm : Has 0x4000000010 pm) : State.Within pm s0 (State.beginVbakTest s) := by
  unfold Sys2Proof.Machine.State.beginVbakTest
  repeat' first
    | with_reducible assumption | (with_reducible refine Has.mono ‹Has _ _› ?_; decide)
    | with_reducible apply State.Within.setChg | with_reducible apply State.WithinRec.pwr | simp only [State.within_mk]

theorem State.Within.endVbakTest {pm : Nat} {s0 : State} {s : State} {before after : Nat} (h : State.Within pm s0 s) (hm : Has 0x80010 pm) : State.Within pm s0 (State.endVbakTest s before after) := by
  unfold Sys2Proof.Machine.State.endVbakTest
  repeat' first
    | with_reducible assumption | (with_reducible refine Has.mono ‹Has _ _› ?_; decide)
    | with_reducible apply State.Within.setVbakMv | with_reducible apply State.Within.event
    | with_reducible apply State.Within.setBit | with_reducible apply State.Within.setChg
    | with_reducible apply State.Within.ite | with_reducible intro _

theorem State.Within.execVbakTest {e : VbakEvent} {s : State} {out : State} (ht : execVbakTest e s = .next out) : State.Within 0x4000080010 s out := by
  have h : State.Within 0x4000080010 s s := State.Within.refl
  have hm : Has 0x4000080010 0x4000080010 := Has.self
  cases ht
  repeat' first
    | with_reducible assumption | (with_reducible refine Has.mono ‹Has _ _› ?_; decide)
    | with_reducible apply State.Within.setVbakMv | with_reducible apply State.Within.setChg
    | with_reducible apply State.Within.beginVbakTest | with_reducible apply State.Within.endVbakTest
    | with_reducible apply State.Within.restartCharge | with_reducible apply State.Within.ite | with_reducible intro _
    | simp only [] | split

theorem State.Within.execVbakRecharge {mv : Nat} {s : State} {out : State} (ht : execVbakRecharge mv s = .next out) : State.Within 0x10 s out := by
  have h : State.Within 0x10 s s := State.Within.refl
  have hm : Has 0x10 0x10 := Has.self
  cases ht
  repeat' first
    | with_reducible assumption | with_reducible apply State.Within.setVbakMv | with_reducible apply State.Within.restartCharge
    | with_reducible apply State.Within.ite | with_reducible intro _

theorem State.Within.setSlot {pm : Nat} {s0 : State} {s : State} {k : Fin 2} {x : Slot} (h : State.Within pm s0 s) (hm : Has 0x4000000000 pm) : State.Within pm s0 (State.setSlot s k x) := by
  unfold Sys2Proof.Machine.State.setSlot
  repeat' first
    | with_reducible assumption | with_reducible apply State.WithinRec.pwr | simp only [State.within_mk]

theorem State.Within.nvmRej {pm : Nat} {s0 : State} {s : State} (h : State.Within pm s0 s) (hm : Has 0x10 pm) : State.Within pm s0 (State.nvmRej s) := by
  unfold Sys2Proof.Machine.State.nvmRej
  repeat' first
    | with_reducible assumption | with_reducible apply State.Within.setBit

theorem State.Within.nvmStart {pm : Nat} {s0 : State} {s : State} {op : NvmOp} (h : State.Within pm s0 s) (hm : Has 0x4000000010 pm) : State.Within pm s0 (State.nvmStart s op) := by
  unfold Sys2Proof.Machine.State.nvmStart
  repeat' first
    | with_reducible assumption | (with_reducible refine Has.mono ‹Has _ _› ?_; decide)
    | with_reducible apply State.Within.setBit | with_reducible apply State.WithinRec.pwr | simp only [State.within_mk]

theorem State.Within.writeSlotCtl {pm : Nat} {s0 : State} {s : State} {fn : FnId} {w : Word} (h : State.Within pm s0 s) (hm : Has 0x4000000010 pm) : State.Within pm s0 (State.writeSlotCtl s fn w) := by
  unfold Sys2Proof.Machine.State.writeSlotCtl
  repeat' first
    | with_reducible assumption | (with_reducible refine Has.mono ‹Has _ _› ?_; decide)
    | with_reducible apply State.Within.setWord | with_reducible apply State.Within.nvmRej
    | with_reducible apply State.Within.setSlot | with_reducible apply State.Within.nvmStart
    | with_reducible apply State.Within.ite | with_reducible intro _ | with_reducible apply State.WithinRec.pwr
    | simp only [State.within_mk] | split

theorem State.Within.execNvmBegin {fn : FnId} {value : Word} {s : State} {out : State} (ht : execNvmBegin fn value s = .next out) : State.Within 0x4000000010 s out := by
  have h : State.Within 0x4000000010 s s := State.Within.refl
  have hm : Has 0x4000000010 0x4000000010 := Has.self
  cases ht
  repeat' first
    | with_reducible assumption | with_reducible apply State.Within.writeSlotCtl | with_reducible apply State.Within.ite
    | with_reducible intro _

theorem State.Within.execNvmWrite {fn : FnId} {value : Word} {s : State} {out : State} (ht : execNvmWrite fn value s = .next out) : State.Within 0x4000000010 s out := by
  have h : State.Within 0x4000000010 s s := State.Within.refl
  have hm : Has 0x4000000010 0x4000000010 := Has.self
  cases ht
  repeat' first
    | with_reducible assumption | with_reducible apply State.Within.writeSlotCtl | with_reducible apply State.Within.ite
    | with_reducible intro _

theorem State.Within.execNvmFinish {fn : FnId} {value : Word} {s : State} {out : State} (ht : execNvmFinish fn value s = .next out) : State.Within 0x4000000010 s out := by
  have h : State.Within 0x4000000010 s s := State.Within.refl
  have hm : Has 0x4000000010 0x4000000010 := Has.self
  cases ht
  repeat' first
    | with_reducible assumption | with_reducible apply State.Within.writeSlotCtl | with_reducible apply State.Within.ite
    | with_reducible intro _

theorem State.Within.execLockver {fn : FnId} {value : Word} {s : State} {out : State} (ht : execLockver fn value s = .next out) : State.Within 0x4000000010 s out := by
  have h : State.Within 0x4000000010 s s := State.Within.refl
  have hm : Has 0x4000000010 0x4000000010 := Has.self
  cases ht
  repeat' first
    | with_reducible assumption | with_reducible apply State.Within.writeSlotCtl | with_reducible apply State.Within.ite
    | with_reducible intro _

theorem State.Within.execNvmOpDone {keyOk sigOk : Bool} {s : State} {out : State} (ht : execNvmOpDone keyOk sigOk s = .next out) : State.Within 0x4000000010 s out := by
  have h : State.Within 0x4000000010 s s := State.Within.refl
  have hm : Has 0x4000000010 0x4000000010 := Has.self
  cases ht
  repeat' first
    | with_reducible assumption | (with_reducible refine Has.mono ‹Has _ _› ?_; decide)
    | with_reducible apply State.Within.setBit | with_reducible apply State.Within.setSlot
    | with_reducible apply State.Within.nvmRej | with_reducible apply State.Within.ite | with_reducible intro _
    | with_reducible apply State.WithinRec.pwr | simp only [State.within_mk] | split

theorem State.Within.execMotorLoss {n : AxId} {byHall : Bool} {s : State} {out : State} (ht : execMotorLoss n byHall s = .next out) : State.Within 0x1000 s out := by
  have h : State.Within 0x1000 s s := State.Within.refl
  have hm : Has 0x1000 0x1000 := Has.self
  cases ht
  repeat' first
    | with_reducible assumption | with_reducible apply State.Within.setAx | with_reducible apply State.Within.ite
    | with_reducible intro _

theorem State.Within.execPlugRetryExpiry {n : AxId} {s : State} {out : State} (ht : execPlugRetryExpiry n s = .next out) : State.Within 0x8000001010 s out := by
  have h : State.Within 0x8000001010 s s := State.Within.refl
  have hm : Has 0x8000001010 0x8000001010 := Has.self
  cases ht
  repeat' first
    | with_reducible assumption | (with_reducible refine Has.mono ‹Has _ _› ?_; decide)
    | with_reducible apply State.Within.setPlug | with_reducible apply State.Within.refreshPlug
    | with_reducible apply State.Within.tryIdent | with_reducible apply State.Within.ite | with_reducible intro _ | simp only []
    | split

theorem State.Within.execIdentificationDone {n : AxId} {u v w : Nat} {s : State} {out : State} (ht : execIdentificationDone n u v w s = .next out) : State.Within 0x8000081010 s out := by
  have h : State.Within 0x8000081010 s s := State.Within.refl
  have hm : Has 0x8000081010 0x8000081010 := Has.self
  cases ht
  repeat' first
    | with_reducible assumption | (with_reducible refine Has.mono ‹Has _ _› ?_; decide)
    | with_reducible apply State.Within.setPlug | with_reducible apply State.Within.refreshPlug
    | with_reducible apply State.Within.refreshAxis | with_reducible apply State.Within.failIdent
    | with_reducible apply State.Within.ite | with_reducible intro _ | simp only [] | split

end Sys2Proof.Machine
end

