-- ==== Sys2Proof/Laws/Frame/RegWrite.lean ====
section
/-! SUPPORT. What every operation and every meaning of Machine/RegWrite.lean may change. -/

namespace Sys2Proof.Machine

theorem State.Within.mergeReg {pm : Nat} {s0 : State} {s : State} {r : Reg} {i j : Nat} {w : Word} (h : State.Within pm s0 s) (hm : Has 0x10 pm) : State.Within pm s0 (State.mergeReg s r i j w) := by
  unfold Sys2Proof.Machine.State.mergeReg
  repeat' first
    | with_reducible assumption | with_reducible apply State.Within.setWord | with_reducible apply State.WithinRec.regs
    | simp only [State.within_mk]

theorem State.Within.retryStarts {pm : Nat} {s0 : State} {s : State} (h : State.Within pm s0 s) (hm : Has 0x2010 pm) : State.Within pm s0 (State.retryStarts s) := by
  unfold Sys2Proof.Machine.State.retryStarts
  repeat' first
    | with_reducible assumption | with_reducible apply State.Within.tryStart | with_reducible apply State.Within.ite
    | with_reducible apply State.Within.forAll | with_reducible intro _

theorem State.Within.mandateProfile {pm : Nat} {s0 : State} {s : State} {n : AxId} (h : State.Within pm s0 s) (hm : Has 0x10 pm) : State.Within pm s0 (State.mandateProfile s n) := by
  unfold Sys2Proof.Machine.State.mandateProfile
  repeat' first
    | with_reducible assumption | with_reducible apply State.Within.setBit | with_reducible apply State.Within.ite
    | with_reducible intro _

theorem State.Within.writeOffOnly {pm : Nat} {s0 : State} {s : State} {r : Reg} {n : AxId} {w : Word} (h : State.Within pm s0 s) (hm : Has 0x800005010 pm) : State.Within pm s0 (State.writeOffOnly s r n w) := by
  unfold Sys2Proof.Machine.State.writeOffOnly
  repeat' first
    | with_reducible assumption | (with_reducible refine Has.mono ‹Has _ _› ?_; decide)
    | with_reducible apply State.Within.setBit | with_reducible apply State.Within.mergeReg
    | with_reducible apply State.Within.refreshFbCfg | with_reducible apply State.Within.refreshCapt
    | with_reducible apply State.Within.resetFeedback | with_reducible apply State.Within.initialHall
    | with_reducible apply State.Within.noHall | with_reducible apply State.Within.mandateProfile
    | with_reducible apply State.Within.ite | with_reducible intro _ | simp only [] | split

theorem State.Within.writeFb {pm : Nat} {s0 : State} {s : State} {r : Reg} {i : Nat} {w : Word} (h : State.Within pm s0 s) (hm : Has 0x50 pm) : State.Within pm s0 (State.writeFb s r i w) := by
  unfold Sys2Proof.Machine.State.writeFb
  repeat' first
    | with_reducible assumption | (with_reducible refine Has.mono ‹Has _ _› ?_; decide)
    | with_reducible apply State.Within.mergeReg | with_reducible apply State.WithinRec.fbPend | simp only [State.within_mk]

theorem State.Within.writeAxis {pm : Nat} {s0 : State} {s : State} {r : Reg} {n : AxId} {w : Word} (h : State.Within pm s0 s) (hm : Has 0x800005050 pm) : State.Within pm s0 (State.writeAxis s r n w) := by
  unfold Sys2Proof.Machine.State.writeAxis
  repeat' first
    | with_reducible assumption | (with_reducible refine Has.mono ‹Has _ _› ?_; decide)
    | with_reducible apply State.Within.writeOffOnly | with_reducible apply State.Within.writeFb
    | with_reducible apply State.Within.writePosldHi | with_reducible apply State.Within.mergeReg
    | with_reducible apply State.Within.ite | with_reducible intro _ | split

theorem State.Within.writeFlt {pm : Nat} {s0 : State} {s : State} {b : BankId} {w : Word} (h : State.Within pm s0 s) (hm : Has 0x3010 pm) : State.Within pm s0 (State.writeFlt s b w) := by
  unfold Sys2Proof.Machine.State.writeFlt
  repeat' first
    | with_reducible assumption | (with_reducible refine Has.mono ‹Has _ _› ?_; decide)
    | with_reducible apply State.Within.mergeReg | with_reducible apply State.Within.judgeFlt

theorem State.Within.writeBank {pm : Nat} {s0 : State} {s : State} {r : Reg} {b : BankId} {w : Word} (h : State.Within pm s0 s) (hm : Has 0xc000083850 pm) : State.Within pm s0 (State.writeBank s r b w) := by
  unfold Sys2Proof.Machine.State.writeBank
  repeat' first
    | with_reducible assumption | (with_reducible refine Has.mono ‹Has _ _› ?_; decide)
    | with_reducible apply State.Within.writeFb | with_reducible apply State.Within.mergeReg
    | with_reducible apply State.Within.carrierStartRequest | with_reducible apply State.Within.carrierStopRequest
    | with_reducible apply State.Within.writeCarrierFields | with_reducible apply State.Within.restart
    | with_reducible apply State.Within.setBit | with_reducible apply State.Within.judgeVm
    | with_reducible apply State.Within.refreshBrake | with_reducible apply State.Within.withDemandsOf
    | with_reducible apply State.Within.writeFlt | with_reducible apply State.Within.ite | with_reducible intro _ | simp only []
    | split

theorem State.Within.writeAlloc {pm : Nat} {s0 : State} {s : State} {w : Word} (h : State.Within pm s0 s) (hm : Has 0xc8000c3810 pm) : State.Within pm s0 (State.writeAlloc s w) := by
  unfold Sys2Proof.Machine.State.writeAlloc
  repeat' first
    | with_reducible assumption | (with_reducible refine Has.mono ‹Has _ _› ?_; decide)
    | with_reducible apply State.Within.mergeReg | with_reducible apply State.Within.requestApply
    | with_reducible apply State.Within.ite | with_reducible intro _

theorem State.Within.writeShaft {pm : Nat} {s0 : State} {s : State} {r : Reg} {w : Word} (h : State.Within pm s0 s) (hm : Has 0x10 pm) : State.Within pm s0 (State.writeShaft s r w) := by
  unfold Sys2Proof.Machine.State.writeShaft
  repeat' first
    | with_reducible assumption | with_reducible apply State.Within.setBit | with_reducible apply State.Within.mergeReg
    | with_reducible apply State.Within.ite | with_reducible intro _

theorem State.Within.writeTbCfg {pm : Nat} {s0 : State} {s : State} {w : Word} (h : State.Within pm s0 s) (hm : Has 0x3000010 pm) : State.Within pm s0 (State.writeTbCfg s w) := by
  unfold Sys2Proof.Machine.State.writeTbCfg
  repeat' first
    | with_reducible assumption | (with_reducible refine Has.mono ‹Has _ _› ?_; decide)
    | with_reducible apply State.Within.setBit | with_reducible apply State.Within.mergeReg
    | with_reducible apply State.Within.setFld | with_reducible apply State.Within.setWord
    | with_reducible apply State.Within.setDom | with_reducible apply State.Within.setDomValid
    | with_reducible apply State.Within.autoSelect | with_reducible apply State.Within.ite | with_reducible intro _
    | with_reducible apply State.WithinRec.time | simp only [State.within_mk]

theorem State.Within.writeTpo {pm : Nat} {s0 : State} {s : State} {w : Word} (h : State.Within pm s0 s) (hm : Has 0x2000010 pm) : State.Within pm s0 (State.writeTpo s w) := by
  unfold Sys2Proof.Machine.State.writeTpo
  repeat' first
    | with_reducible assumption | (with_reducible refine Has.mono ‹Has _ _› ?_; decide)
    | with_reducible apply State.Within.mergeReg | with_reducible apply State.Within.ite | with_reducible intro _
    | with_reducible apply State.WithinRec.time | simp only [State.within_mk]

theorem State.Within.writeGlobal {pm : Nat} {s0 : State} {s : State} {r : Reg} {i j : Nat} {w : Word} (h : State.Within pm s0 s) (hm : Has 0x1ffbfdffff8 pm) : State.Within pm s0 (State.writeGlobal s r i j w) := by
  unfold Sys2Proof.Machine.State.writeGlobal
  repeat' first
    | with_reducible assumption | (with_reducible refine Has.mono ‹Has _ _› ?_; decide)
    | with_reducible apply State.Within.mergeReg | with_reducible apply State.Within.refreshPace
    | with_reducible apply State.Within.writeAlloc | with_reducible apply State.Within.writePoCfg
    | with_reducible apply State.Within.writePoRatio | with_reducible apply State.Within.writeShaft
    | with_reducible apply State.Within.refreshLevel | with_reducible apply State.Within.writeRstKey
    | with_reducible apply State.Within.refreshVauxOk | with_reducible apply State.Within.restartCharge
    | with_reducible apply State.Within.discardLost | with_reducible apply State.Within.writeFanCfg
    | with_reducible apply State.Within.writeTbSetHi | with_reducible apply State.Within.writeTbCfg
    | with_reducible apply State.Within.writeTpo | with_reducible apply State.Within.ite | with_reducible intro _ | simp only []
    | split

theorem State.Within.writeNet {pm : Nat} {s0 : State} {s : State} {r : Reg} {i j : Nat} {w : Word} (h : State.Within pm s0 s) (hm : Has 0x8000010 pm) : State.Within pm s0 (State.writeNet s r i j w) := by
  unfold Sys2Proof.Machine.State.writeNet
  repeat' first
    | with_reducible assumption | (with_reducible refine Has.mono ‹Has _ _› ?_; decide)
    | with_reducible apply State.Within.mergeReg | with_reducible apply State.Within.setWord
    | with_reducible apply State.Within.setBit | with_reducible apply State.Within.writeGclCtl
    | with_reducible apply State.Within.ite | with_reducible intro _ | simp only [] | split

theorem State.Within.writeCan {pm : Nat} {s0 : State} {s : State} {r : Reg} {c : CanId} {j : Nat} {w : Word} (h : State.Within pm s0 s) (hm : Has 0x10 pm) : State.Within pm s0 (State.writeCan s r c j w) := by
  unfold Sys2Proof.Machine.State.writeCan
  repeat' first
    | with_reducible assumption | with_reducible apply State.Within.mergeReg | with_reducible apply State.Within.setBit
    | with_reducible apply State.Within.setFld | with_reducible apply State.Within.setWord
    | with_reducible apply State.Within.ite | with_reducible intro _ | simp only [] | split

theorem State.Within.clearTotal {pm : Nat} {s0 : State} {s : State} {w : Word} (h : State.Within pm s0 s) (hm : Has 0x300000010 pm) : State.Within pm s0 (State.clearTotal s w) := by
  unfold Sys2Proof.Machine.State.clearTotal
  repeat' first
    | with_reducible assumption | (with_reducible refine Has.mono ‹Has _ _› ?_; decide)
    | with_reducible apply State.Within.mergeReg | with_reducible apply State.Within.endTotal
    | with_reducible apply State.Within.ite | with_reducible intro _

theorem State.Within.writeLocal {pm : Nat} {s0 : State} {s : State} {r : Reg} {i j : Nat} {w : Word} (h : State.Within pm s0 s) (hm : Has 0xc700083810 pm) : State.Within pm s0 (State.writeLocal s r i j w) := by
  unfold Sys2Proof.Machine.State.writeLocal
  repeat' first
    | with_reducible assumption | (with_reducible refine Has.mono ‹Has _ _› ?_; decide)
    | with_reducible apply State.Within.mergeReg | with_reducible apply State.Within.writeDioCfg
    | with_reducible apply State.Within.clearTotal | with_reducible apply State.Within.storeSet
    | with_reducible apply State.Within.writeSlotCtl | with_reducible apply State.Within.showFlog
    | with_reducible apply State.Within.ite | with_reducible intro _ | simp only [] | split

theorem State.Within.writeFnReg {pm : Nat} {s0 : State} {s : State} {by_ : FnId} {r : Reg} {g : FnId} {j : Nat} {w : Word} (h : State.Within pm s0 s) (hm : Has 0x4080191810 pm) : State.Within pm s0 (State.writeFnReg s by_ r g j w) := by
  unfold Sys2Proof.Machine.State.writeFnReg
  repeat' first
    | with_reducible assumption | (with_reducible refine Has.mono ‹Has _ _› ?_; decide)
    | with_reducible apply State.Within.mergeReg | with_reducible apply State.Within.doorbell
    | with_reducible apply State.Within.enableRing | with_reducible apply State.Within.disableRing
    | with_reducible apply State.Within.writeFctl | with_reducible apply State.Within.fstatChanged
    | with_reducible apply State.Within.setBit | with_reducible apply State.Within.ite | with_reducible intro _ | simp only []
    | split

theorem State.Within.writeOwn {pm : Nat} {s0 : State} {s : State} {by_ : FnId} {r : Reg} {i : Nat} {w : Word} (h : State.Within pm s0 s) (hm : Has 0x21908d1910 pm) : State.Within pm s0 (State.writeOwn s by_ r i w) := by
  unfold Sys2Proof.Machine.State.writeOwn
  repeat' first
    | with_reducible assumption | (with_reducible refine Has.mono ‹Has _ _› ?_; decide)
    | with_reducible apply State.Within.mergeReg | with_reducible apply State.Within.applyOwn
    | with_reducible apply State.Within.ite | with_reducible intro _ | simp only [] | split

theorem State.Within.writeSetup {pm : Nat} {s0 : State} {s : State} {r : Reg} {i j : Nat} {w : Word} (h : State.Within pm s0 s) (hm : Has 0x1ffbfdffff8 pm) : State.Within pm s0 (State.writeSetup s r i j w) := by
  unfold Sys2Proof.Machine.State.writeSetup
  repeat' first
    | with_reducible assumption | (with_reducible refine Has.mono ‹Has _ _› ?_; decide)
    | with_reducible apply State.Within.writeGlobal | with_reducible apply State.Within.writeNet
    | with_reducible apply State.Within.writeCan | with_reducible apply State.Within.writeLocal
    | with_reducible apply State.Within.writeBank | with_reducible apply State.Within.writeAxis
    | with_reducible apply State.Within.retryStarts | with_reducible apply State.Within.ite | with_reducible intro _ | split

theorem State.Within.writeAt {pm : Nat} {s0 : State} {s : State} {by_ : FnId} {a : Nat} {w : Word} (h : State.Within pm s0 s) (hm : Has 0x1ffbfdffff8 pm) : State.Within pm s0 (State.writeAt s by_ a w) := by
  unfold Sys2Proof.Machine.State.writeAt
  repeat' first
    | with_reducible assumption | (with_reducible refine Has.mono ‹Has _ _› ?_; decide)
    | with_reducible apply State.Within.writeOwn | with_reducible apply State.Within.writeFnReg
    | with_reducible apply State.Within.writeSetup | with_reducible apply State.Within.ite | with_reducible intro _ | split

theorem State.Within.windowWrite {pm : Nat} {s0 : State} {s : State} {off : Nat} {data : List Byte} (h : State.Within pm s0 s) (hm : Has 0x500 pm) : State.Within pm s0 (State.windowWrite s off data) := by
  unfold Sys2Proof.Machine.State.windowWrite
  repeat' first
    | with_reducible assumption | (with_reducible refine Has.mono ‹Has _ _› ?_; decide)
    | with_reducible apply State.Within.hostTurn | with_reducible apply State.WithinRec.hostWin | simp only [State.within_mk]

theorem State.Within.execShmemWindowWrite {fn : FnId} {addr : BitVec 32} {data : List Byte} {s : State} {out : State} (ht : execShmemWindowWrite fn addr data s = .next out) : State.Within 0x510 s out := by
  have h : State.Within 0x510 s s := State.Within.refl
  have hm : Has 0x510 0x510 := Has.self
  cases ht
  repeat' first
    | with_reducible assumption | (with_reducible refine Has.mono ‹Has _ _› ?_; decide)
    | with_reducible apply State.Within.setBit | with_reducible apply State.Within.windowWrite
    | with_reducible apply State.Within.ite | with_reducible intro _

theorem State.Within.hostWrite {pm : Nat} {s0 : State} {s : State} {fn : FnId} {a : Nat} {w : Word} (h : State.Within pm s0 s) (hm : Has 0x1ffbfdffff8 pm) : State.Within pm s0 (State.hostWrite s fn a w) := by
  unfold Sys2Proof.Machine.State.hostWrite
  repeat' first
    | with_reducible assumption | (with_reducible refine Has.mono ‹Has _ _› ?_; decide)
    | with_reducible apply State.Within.setBit | with_reducible apply State.Within.windowWrite
    | with_reducible apply State.Within.writeAt | with_reducible apply State.Within.ite | with_reducible intro _ | simp only []
    | split

theorem State.Within.execRegisterWrite {fn : FnId} {addr : BitVec 32} {value : Word} {s : State} {out : State} (ht : execRegisterWrite fn addr value s = .next out) : State.Within 0x1ffbfdffff8 s out := by
  have h : State.Within 0x1ffbfdffff8 s s := State.Within.refl
  have hm : Has 0x1ffbfdffff8 0x1ffbfdffff8 := Has.self
  cases ht
  repeat' first
    | with_reducible assumption | with_reducible apply State.Within.hostWrite

end Sys2Proof.Machine
end

