-- ==== Sys2Proof/Laws/Frame/Boot.lean ====
section
/-! SUPPORT. What every operation and every meaning of Machine/Boot.lean may change. -/

namespace Sys2Proof.Machine

theorem State.Within.recordWrite {pm : Nat} {s0 : State} {s : State} {o : Nat} {w : Word} (h : State.Within pm s0 s) (hm : Has 0x1ffbfdffff8 pm) : State.Within pm s0 (State.recordWrite s o w).1 := by
  unfold Sys2Proof.Machine.State.recordWrite
  repeat' first
    | with_reducible assumption | (with_reducible refine Has.mono ‹Has _ _› ?_; decide)
    | with_reducible apply State.Within.windowWrite | with_reducible apply State.Within.writeAt | simp only [] | split

theorem State.Within.setEnv {pm : Nat} {s0 : State} {s : State} {env split : Nat} (h : State.Within pm s0 s) (hm : Has 0x50118 pm) : State.Within pm s0 (State.setEnv s env split) := by
  unfold Sys2Proof.Machine.State.setEnv
  repeat' first
    | with_reducible assumption | (with_reducible refine Has.mono ‹Has _ _› ?_; decide)
    | with_reducible apply State.Within.setFld | with_reducible apply State.Within.mandateProfile
    | with_reducible apply State.Within.refreshLevel | with_reducible apply State.Within.refreshCapt
    | with_reducible apply State.Within.publishMon | with_reducible apply State.Within.ite
    | with_reducible apply State.Within.forAll | with_reducible intro _

theorem State.Within.loadWait {pm : Nat} {s0 : State} {s : State} {w : LoadWait} (h : State.Within pm s0 s) (hm : Has 0x1000000000 pm) : State.Within pm s0 (State.loadWait s w) := by
  unfold Sys2Proof.Machine.State.loadWait
  repeat' first
    | with_reducible assumption | with_reducible apply State.WithinRec.prof | simp only [State.within_mk]

theorem State.Within.applyRecord {pm : Nat} {s0 : State} {s : State} {i type : Nat} {p : List Byte} (h : State.Within pm s0 s) (hm : Has 0x1ffbfdffff8 pm) : State.Within pm s0 (State.applyRecord s i type p).1 := by
  unfold Sys2Proof.Machine.State.applyRecord
  repeat' first
    | with_reducible assumption | (with_reducible refine Has.mono ‹Has _ _› ?_; decide)
    | with_reducible apply State.Within.setEnv | with_reducible apply State.Within.loadWait
    | with_reducible apply State.Within.startCopy | with_reducible apply State.Within.setEng
    | with_reducible apply State.Within.startEngine | with_reducible apply State.Within.setAx
    | with_reducible apply State.Within.recordWrite | with_reducible apply State.Within.ite | with_reducible intro _
    | simp only [] | split

theorem State.Within.stopCarriers {pm : Nat} {s0 : State} {s : State} (h : State.Within pm s0 s) (hm : Has 0x2010 pm) : State.Within pm s0 (State.stopCarriers s) := by
  unfold Sys2Proof.Machine.State.stopCarriers
  repeat' first
    | with_reducible assumption | (with_reducible refine Has.mono ‹Has _ _› ?_; decide)
    | with_reducible apply State.Within.setBit | with_reducible apply State.Within.setBnk
    | with_reducible apply State.Within.ite | with_reducible apply State.Within.forAll | with_reducible intro _ | simp only []
    | split

theorem State.Within.beginLoad {pm : Nat} {s0 : State} {s : State} {src : Option CmdSrc} {p : Fin 4} (h : State.Within pm s0 s) (hm : Has 0x1000000010 pm) : State.Within pm s0 (State.beginLoad s src p) := by
  unfold Sys2Proof.Machine.State.beginLoad
  repeat' first
    | with_reducible assumption | (with_reducible refine Has.mono ‹Has _ _› ?_; decide)
    | with_reducible apply State.Within.setBit | with_reducible apply State.WithinRec.prof | simp only [State.within_mk]

theorem State.Within.decideLoad {pm : Nat} {s0 : State} {s : State} {p : Fin 4} (h : State.Within pm s0 s) (hm : Has 0x50000d0118 pm) : State.Within pm s0 (State.decideLoad s p).1 := by
  unfold Sys2Proof.Machine.State.decideLoad
  repeat' first
    | with_reducible assumption | (with_reducible refine Has.mono ‹Has _ _› ?_; decide)
    | with_reducible apply State.Within.setFld | with_reducible apply State.Within.setBit
    | with_reducible apply State.Within.logFault | with_reducible apply State.Within.event
    | with_reducible apply State.Within.setEnv | with_reducible apply State.WithinRec.free
    | with_reducible apply State.WithinRec.prof | simp only [State.within_mk] | split

theorem State.Within.startRewrite {pm : Nat} {s0 : State} {s : State} {p : Fin 4} {x : ProfCopy} (h : State.Within pm s0 s) (hm : Has 0x1000000010 pm) : State.Within pm s0 (State.startRewrite s p x) := by
  unfold Sys2Proof.Machine.State.startRewrite
  repeat' first
    | with_reducible assumption | (with_reducible refine Has.mono ‹Has _ _› ?_; decide)
    | with_reducible apply State.Within.setBit | with_reducible apply State.Within.ite | with_reducible intro _
    | with_reducible apply State.WithinRec.prof | simp only [State.within_mk]

theorem State.Within.execProfileRewriteDone {s : State} {out : State} (ht : execProfileRewriteDone s = .next out) : State.Within 0x1000000010 s out := by
  have h : State.Within 0x1000000010 s s := State.Within.refl
  have hm : Has 0x1000000010 0x1000000010 := Has.self
  cases ht
  repeat' first
    | with_reducible assumption | (with_reducible refine Has.mono ‹Has _ _› ?_; decide)
    | with_reducible apply State.Within.setBit | with_reducible apply State.Within.ite | with_reducible intro _
    | with_reducible apply State.WithinRec.prof | simp only [State.within_mk] | split

theorem State.Within.restorePlinth {pm : Nat} {s0 : State} {s : State} (h : State.Within pm s0 s) (hm : Has 0x4000004010 pm) : State.Within pm s0 (State.restorePlinth s) := by
  unfold Sys2Proof.Machine.State.restorePlinth
  repeat' first
    | with_reducible assumption | (with_reducible refine Has.mono ‹Has _ _› ?_; decide)
    | with_reducible apply State.Within.setBit | with_reducible apply State.Within.setFbk
    | with_reducible apply State.Within.setWord | with_reducible apply State.Within.logFault
    | with_reducible apply State.Within.ite | with_reducible apply State.Within.forAll | with_reducible intro _
    | with_reducible apply State.WithinRec.pwr | simp only [State.within_mk]

theorem State.Within.finishBoot {pm : Nat} {s0 : State} {s : State} (h : State.Within pm s0 s) (hm : Has 0xc4000d7918 pm) : State.Within pm s0 (State.finishBoot s) := by
  unfold Sys2Proof.Machine.State.finishBoot
  repeat' first
    | with_reducible assumption | (with_reducible refine Has.mono ‹Has _ _› ?_; decide)
    | with_reducible apply State.Within.bootSafety | with_reducible apply State.Within.restorePlinth
    | with_reducible apply State.Within.refreshLevel | with_reducible apply State.Within.refreshOwed
    | with_reducible apply State.Within.event | with_reducible apply State.Within.setBit
    | with_reducible apply State.WithinRec.pwr | simp only [State.within_mk]

theorem State.Within.endLoad {pm : Nat} {s0 : State} {s : State} {src : Option CmdSrc} {ok : Bool} (h : State.Within pm s0 s) (hm : Has 0xd4000d7918 pm) : State.Within pm s0 (State.endLoad s src ok) := by
  unfold Sys2Proof.Machine.State.endLoad
  repeat' first
    | with_reducible assumption | (with_reducible refine Has.mono ‹Has _ _› ?_; decide)
    | with_reducible apply State.Within.setBit | with_reducible apply State.Within.complete
    | with_reducible apply State.Within.finishBoot | with_reducible apply State.Within.beginLoad
    | with_reducible apply State.Within.ite | with_reducible intro _ | with_reducible apply State.WithinRec.prof
    | simp only [State.within_mk] | split

theorem State.Within.stepLoad {pm : Nat} {s0 s : State} {out : State} (h : State.Within pm s0 s) (hm : Has 0x1ffbfdffff8 pm)
    (ht : State.stepLoad s = some out) : State.Within pm s0 out := by
  unfold Sys2Proof.Machine.State.stepLoad at ht
  split at ht
  · contradiction
  · rename_i l hl
    split at ht
    · extract_lets s1 at ht
      have h1 : State.Within pm s0 s1 := State.Within.stopCarriers h (hm.mono (by decide))
      clear_value s1
      split at ht
      · contradiction
      · split at ht
        rename_i t c heq
        have h2 : State.Within pm s0 t := State.Within.of_fst_eq heq (State.Within.decideLoad h1 (hm.mono (by decide)))
        rw [← Option.some.inj ht]
        split
        · exact State.Within.endLoad h2 (hm.mono (by decide))
        · exact State.Within.startRewrite (State.WithinRec.prof h2 (hm.mono (by decide))) (hm.mono (by decide))
    · split at ht
      · rw [← Option.some.inj ht]
        exact State.Within.endLoad h (hm.mono (by decide))
      · dsimp only at ht
        rw [← Option.some.inj ht]
        split
        · exact State.Within.logFault (State.Within.applyRecord (State.WithinRec.prof h (hm.mono (by decide))) (hm.mono (by decide)))
            (hm.mono (by decide))
        · exact State.Within.applyRecord (State.WithinRec.prof h (hm.mono (by decide))) (hm.mono (by decide))
    · split at ht
      · contradiction
      · rw [← Option.some.inj ht]
        exact State.Within.loadWait h (hm.mono (by decide))
    · split at ht
      · rw [← Option.some.inj ht]
        exact State.Within.loadWait h (hm.mono (by decide))
      · contradiction

theorem State.Within.runLoad {m : Nat} {s0 : State} {n : Nat} {s : State} (h : State.Within m s0 s) (hm : Has 0x1ffbfdffff8 m) :
    State.Within m s0 (State.runLoad n s) := by
  induction n generalizing s with
  | zero => exact h
  | succ n ih =>
    unfold State.runLoad
    split
    · split
      · split
        · exact State.Within.stopCarriers h (hm.mono rfl)
        · exact h
      · exact h
    · exact ih (State.Within.stepLoad h (hm.mono rfl) (by assumption))

theorem State.Within.continueLoad {pm : Nat} {s0 : State} {s : State} (h : State.Within pm s0 s) (hm : Has 0x1ffbfdffff8 pm) : State.Within pm s0 (State.continueLoad s) := by
  unfold Sys2Proof.Machine.State.continueLoad
  repeat' first
    | with_reducible assumption | with_reducible apply State.Within.runLoad | with_reducible apply State.Within.ite
    | with_reducible intro _

theorem State.Within.execProfileLoad {src : CmdSrc} {p : BitVec 8} {s : State} {out : State} (ht : execProfileLoad src p s = .next out) : State.Within 0x1ffbfdffff8 s out := by
  have h : State.Within 0x1ffbfdffff8 s s := State.Within.refl
  have hm : Has 0x1ffbfdffff8 0x1ffbfdffff8 := Has.self
  cases ht
  repeat' first
    | with_reducible assumption | (with_reducible refine Has.mono ‹Has _ _› ?_; decide)
    | with_reducible apply State.Within.deliver | with_reducible apply State.Within.beginLoad
    | with_reducible apply State.Within.continueLoad | with_reducible apply State.Within.ite | with_reducible intro _
    | with_reducible apply State.WithinRec.prof | simp only [State.within_mk]

theorem State.Within.trySlot {pm : Nat} {s0 : State} {s : State} {k : Fin 2} (h : State.Within pm s0 s) (hm : Has 0x4000000010 pm) : State.Within pm s0 (State.trySlot s k).1 := by
  unfold Sys2Proof.Machine.State.trySlot
  repeat' first
    | with_reducible assumption | (with_reducible refine Has.mono ‹Has _ _› ?_; decide)
    | with_reducible apply State.Within.setBit | with_reducible apply State.Within.logFault
    | with_reducible apply State.Within.ite | with_reducible intro _

theorem State.Within.chooseSlot {pm : Nat} {s0 : State} {s : State} (h : State.Within pm s0 s) (hm : Has 0x4000000010 pm) : State.Within pm s0 (State.chooseSlot s).1 := by
  unfold Sys2Proof.Machine.State.chooseSlot
  repeat' first
    | with_reducible assumption | with_reducible apply State.Within.trySlot | simp only [] | split

theorem State.Within.idleSpares {pm : Nat} {s0 : State} {s : State} (h : State.Within pm s0 s) (hm : Has 0x800000810 pm) : State.Within pm s0 (State.idleSpares s) := by
  unfold Sys2Proof.Machine.State.idleSpares
  repeat' first
    | with_reducible assumption | (with_reducible refine Has.mono ‹Has _ _› ?_; decide)
    | with_reducible apply State.Within.setEng | with_reducible apply State.Within.enterIdleSpare
    | with_reducible apply State.Within.forAll | with_reducible intro _

theorem State.Within.execBootComplete {s : State} {out : State} (ht : execBootComplete s = .next out) : State.Within 0x1ffbfdffff8 s out := by
  have h : State.Within 0x1ffbfdffff8 s s := State.Within.refl
  have hm : Has 0x1ffbfdffff8 0x1ffbfdffff8 := Has.self
  cases ht
  repeat' first
    | with_reducible assumption | (with_reducible refine Has.mono ‹Has _ _› ?_; decide)
    | with_reducible apply State.Within.refreshVauxOk | with_reducible apply State.Within.setBit
    | with_reducible apply State.Within.refreshBrake | with_reducible apply State.Within.refreshAxis
    | with_reducible apply State.Within.setWord | with_reducible apply State.Within.idleSpares
    | with_reducible apply State.Within.beginLoad | with_reducible apply State.Within.continueLoad
    | with_reducible apply State.Within.chooseSlot | with_reducible apply State.Within.ite
    | with_reducible apply State.Within.forAll | with_reducible intro _ | with_reducible apply State.WithinRec.pwr
    | simp only [State.within_mk] | split

end Sys2Proof.Machine
end

