-- ==== Sys2Proof/Laws/Frame/Admission.lean ====
section
/-! SUPPORT. What every operation and every meaning of Machine/Admission.lean may change. -/

namespace Sys2Proof.Machine

theorem State.Within.refuse {pm : Nat} {s0 : State} {s : State} {src : CmdSrc} {check param : Nat} (h : State.Within pm s0 s) (hm : Has 0x80000 pm) : State.Within pm s0 (State.refuse s src check param) := by
  unfold Sys2Proof.Machine.State.refuse
  repeat' first
    | with_reducible assumption | with_reducible apply State.Within.complete

theorem State.Within.accept {pm : Nat} {s0 : State} {s : State} {src : CmdSrc} {c : HostCmd} {e : Nat} (h : State.Within pm s0 s) (hm : Has 0x4000180010 pm) : State.Within pm s0 (State.accept s src c e) := by
  unfold Sys2Proof.Machine.State.accept
  repeat' first
    | with_reducible assumption | (with_reducible refine Has.mono ‹Has _ _› ?_; decide)
    | with_reducible apply State.Within.complete | with_reducible apply State.Within.setFn
    | with_reducible apply State.Within.refreshResv | with_reducible apply State.WithinRec.accepted_pwr
    | simp only [State.within_mk]

theorem State.Within.judge {pm : Nat} {s0 : State} {s : State} {fn : FnId} {ring : Fin 4} {d buf : List Byte} (h : State.Within pm s0 s) (hm : Has 0x4000180010 pm) : State.Within pm s0 (State.judge s fn ring d buf) := by
  unfold Sys2Proof.Machine.State.judge
  repeat' first
    | with_reducible assumption | (with_reducible refine Has.mono ‹Has _ _› ?_; decide)
    | with_reducible apply State.Within.setWord | with_reducible apply State.Within.refuse
    | with_reducible apply State.Within.accept | simp only [] | split

theorem State.Within.execDescriptorFetch {fn : FnId} {ring : Fin 4} {desc buf : List Byte} {err : Bool} {s out : State}
    (ht : execDescriptorFetch fn ring desc buf err s = .next out) : State.Within 0x4000580010 s out := by
  have h : State.Within 0x4000580010 s s := State.Within.refl
  have hm : Has 0x4000580010 0x4000580010 := Has.self
  unfold Sys2Proof.Machine.execDescriptorFetch at ht
  split at ht
  · contradiction
  · rw [← Host.Outcome.next.inj ht]
    repeat' first
      | with_reducible assumption | (with_reducible refine Has.mono ‹Has _ _› ?_; decide)
      | with_reducible apply State.Within.setFn | with_reducible apply State.Within.haltRing
      | with_reducible apply State.Within.advanceRing | with_reducible apply State.Within.judge
      | with_reducible apply State.Within.ite | with_reducible intro _ | with_reducible apply State.WithinRec.fetchLast
      | simp only [State.within_mk]

end Sys2Proof.Machine
end

