-- ==== Sys2Proof/Laws/Frame/Tick.lean ====
section
/-! SUPPORT. What every operation and every meaning of Machine/Tick.lean may change. -/

namespace Sys2Proof.Machine

theorem State.Within.tickDt {pm : Nat} {s0 : State} {s : State} (h : State.Within pm s0 s) (hm : Has 0xa000016 pm) : State.Within pm s0 (State.tickDt s) := by
  unfold Sys2Proof.Machine.State.tickDt
  repeat' first
    | with_reducible assumption | (with_reducible refine Has.mono ‹Has _ _› ?_; decide)
    | with_reducible apply State.Within.refreshGates | with_reducible apply State.WithinRec.tick_dt_regs
    | with_reducible apply State.WithinRec.tick_dt_regs_time | simp only [State.within_mk] | split

theorem State.Within.tickOffsets {pm : Nat} {s0 : State} {s : State} (h : State.Within pm s0 s) (hm : Has 0x1010 pm) : State.Within pm s0 (State.tickOffsets s) := by
  unfold Sys2Proof.Machine.State.tickOffsets
  repeat' first
    | with_reducible assumption | with_reducible apply State.Within.foldOffset | with_reducible apply State.Within.ite
    | with_reducible apply State.Within.forAll | with_reducible intro _

theorem State.Within.tickPlugs {pm : Nat} {s0 : State} {s : State} (h : State.Within pm s0 s) (hm : Has 0x10 pm) : State.Within pm s0 (State.tickPlugs s) := by
  unfold Sys2Proof.Machine.State.tickPlugs
  repeat' first
    | with_reducible assumption | with_reducible apply State.Within.refreshPlug | with_reducible apply State.Within.ite
    | with_reducible apply State.Within.forAll | with_reducible intro _

theorem State.Within.tickMeas {pm : Nat} {s0 : State} {s : State} (h : State.Within pm s0 s) (hm : Has 0x10 pm) : State.Within pm s0 (State.tickMeas s) := by
  unfold Sys2Proof.Machine.State.tickMeas
  repeat' first
    | with_reducible assumption | with_reducible apply State.Within.setFld | with_reducible apply State.Within.ite
    | with_reducible apply State.Within.forAll | with_reducible intro _

theorem State.Within.tickEgress {pm : Nat} {s0 : State} {s : State} (h : State.Within pm s0 s) (hm : Has 0x58080010 pm) : State.Within pm s0 (State.tickEgress s) := by
  unfold Sys2Proof.Machine.State.tickEgress
  repeat' first
    | with_reducible assumption | with_reducible apply State.Within.egressRun

theorem State.Within.oneTick {pm : Nat} {s0 : State} {s : State} (h : State.Within pm s0 s) (hm : Has 0x1ffffdffffe pm) : State.Within pm s0 (State.oneTick s) := by
  unfold Sys2Proof.Machine.State.oneTick
  repeat' first
    | with_reducible assumption | (with_reducible refine Has.mono ‹Has _ _› ?_; decide)
    | with_reducible apply State.Within.tickDt | with_reducible apply State.Within.tickMeas
    | with_reducible apply State.Within.tickOffsets | with_reducible apply State.Within.tickPlugs
    | with_reducible apply State.Within.retryStarts | with_reducible apply State.Within.continueLoad
    | with_reducible apply State.Within.hostTurn | with_reducible apply State.Within.resumeApply
    | with_reducible apply State.Within.tickEgress

end Sys2Proof.Machine
end

