-- ==== Sys2Proof/Laws/Sparse.lean ====
section
/-! SUPPORT. Laws of the sparse maps: a read after a write, and the canonical form, which every operation keeps. -/

namespace Sys2Proof.Machine

variable {α : Type} [DecidableEq α] {d : Nat → α}

theorem Sparse.get_of_below {m : Sparse α} {lo k : Nat} (h : Sparse.wfFrom d lo m = true) (hk : k < lo) :
    Sparse.get d m k = d k := by
  induction m generalizing lo with
  | nil => rfl
  | cons kv t ih =>
    obtain ⟨k', v⟩ := kv
    simp only [Sparse.wfFrom, Bool.and_eq_true, decide_eq_true_eq] at h
    have : k ≠ k' := by omega
    simp only [Sparse.get, if_neg this]
    exact ih h.2 (by omega)

theorem Sparse.wfFrom_mono {m : Sparse α} {lo lo' : Nat} (h : Sparse.wfFrom d lo m = true) (hl : lo' ≤ lo) :
    Sparse.wfFrom d lo' m = true := by
  cases m with
  | nil => rfl
  | cons kv t =>
    simp only [Sparse.wfFrom, Bool.and_eq_true, decide_eq_true_eq] at h ⊢
    exact ⟨⟨by omega, h.1.2⟩, h.2⟩

theorem Sparse.wfFrom_put {m : Sparse α} {lo k : Nat} {v : α} (h : Sparse.wfFrom d lo m = true) (hk : lo ≤ k) :
    Sparse.wfFrom d lo (Sparse.put d m k v) = true := by
  induction m generalizing lo with
  | nil =>
    simp only [Sparse.put]
    split
    · rfl
    · simp [Sparse.wfFrom, *]
  | cons kv t ih =>
    obtain ⟨k', v'⟩ := kv
    simp only [Sparse.wfFrom, Bool.and_eq_true, decide_eq_true_eq] at h
    simp only [Sparse.put]
    split
    · split
      · simp [Sparse.wfFrom, h.1.1, h.2]; simpa using h.1.2
      · simp only [Sparse.wfFrom, Bool.and_eq_true, decide_eq_true_eq]
        refine ⟨⟨hk, by simp [*]⟩, ⟨by omega, h.1.2⟩, h.2⟩
    · split
      · split
        · exact Sparse.wfFrom_mono h.2 (by omega)
        · simp only [Sparse.wfFrom, Bool.and_eq_true, decide_eq_true_eq]
          subst_vars
          exact ⟨⟨hk, by simp [*]⟩, h.2⟩
      · simp only [Sparse.wfFrom, Bool.and_eq_true, decide_eq_true_eq]
        exact ⟨h.1, ih h.2 (by omega)⟩

/-- A write keeps the canonical form. -/
theorem Sparse.wf_put {m : Sparse α} {k : Nat} {v : α} (h : Sparse.wf d m = true) : Sparse.wf d (Sparse.put d m k v) = true :=
  Sparse.wfFrom_put h (Nat.zero_le k)

/-- A read after a write at the same key gives the value written. -/
theorem Sparse.get_put_same {m : Sparse α} {lo k : Nat} {v : α} (h : Sparse.wfFrom d lo m = true) :
    Sparse.get d (Sparse.put d m k v) k = v := by
  induction m generalizing lo with
  | nil =>
    simp only [Sparse.put]
    split
    · simp [Sparse.get, *]
    · simp [Sparse.get]
  | cons kv t ih =>
    obtain ⟨k', v'⟩ := kv
    simp only [Sparse.wfFrom, Bool.and_eq_true, decide_eq_true_eq] at h
    simp only [Sparse.put]
    split
    · split
      · have : k ≠ k' := by omega
        simp only [Sparse.get, if_neg this]
        rw [Sparse.get_of_below h.2 (by omega)]
        simp [*]
      · simp [Sparse.get]
    · split
      · split
        · subst_vars
          exact Sparse.get_of_below h.2 (Nat.lt_succ_self _)
        · simp [Sparse.get]
      · have : k ≠ k' := by omega
        simp only [Sparse.get, if_neg this]
        exact ih h.2

/-- A write leaves every other key alone. -/
theorem Sparse.get_put_ne {m : Sparse α} {k j : Nat} {v : α} (hj : j ≠ k) :
    Sparse.get d (Sparse.put d m k v) j = Sparse.get d m j := by
  induction m with
  | nil =>
    simp only [Sparse.put]
    split <;> simp [Sparse.get, hj]
  | cons kv t ih =>
    obtain ⟨k', v'⟩ := kv
    simp only [Sparse.put]
    split
    · split <;> simp [Sparse.get, hj]
    · split
      · subst_vars
        split <;> simp [Sparse.get, hj]
      · simp only [Sparse.get, ih]

theorem Sparse.wfFrom_clearRange {m : Sparse α} {lo hi k : Nat} (h : Sparse.wfFrom d k m = true) :
    Sparse.wfFrom d k (Sparse.clearRange lo hi m) = true := by
  induction m generalizing k with
  | nil => rfl
  | cons kv t ih =>
    obtain ⟨k', v'⟩ := kv
    simp only [Sparse.wfFrom, Bool.and_eq_true, decide_eq_true_eq] at h
    simp only [Sparse.clearRange]
    split
    · exact ih (Sparse.wfFrom_mono h.2 (by omega))
    · simp only [Sparse.wfFrom, Bool.and_eq_true, decide_eq_true_eq]
      exact ⟨h.1, ih h.2⟩

/-- Clearing a range keeps the canonical form. -/
theorem Sparse.wf_clearRange {m : Sparse α} {lo hi : Nat} (h : Sparse.wf d m = true) :
    Sparse.wf d (Sparse.clearRange lo hi m) = true := Sparse.wfFrom_clearRange h

/-- An element-wise rewriting that keeps keys and never yields the default keeps the canonical form. -/
theorem Sparse.wfFrom_filterMap {m : Sparse α} {k : Nat} (f : Nat × α → Option (Nat × α))
    (hf : ∀ kv kv', f kv = some kv' → kv'.1 = kv.1 ∧ kv'.2 ≠ d kv.1) (h : Sparse.wfFrom d k m = true) :
    Sparse.wfFrom d k (m.filterMap f) = true := by
  induction m generalizing k with
  | nil => rfl
  | cons kv t ih =>
    obtain ⟨k', v'⟩ := kv
    simp only [Sparse.wfFrom, Bool.and_eq_true, decide_eq_true_eq] at h
    simp only [List.filterMap_cons]
    split
    · exact ih (Sparse.wfFrom_mono h.2 (by omega))
    · rename_i kv' hkv
      obtain ⟨h1, h2⟩ := hf _ _ hkv
      obtain ⟨a, b⟩ := kv'
      simp only at h1 h2
      subst h1
      simp only [Sparse.wfFrom, Bool.and_eq_true, decide_eq_true_eq]
      exact ⟨⟨h.1.1, by simpa using h2⟩, ih h.2⟩

/-! ## Byte memories -/

theorem Mem.wf_putByte {m : Mem} {a : Nat} {b : Byte} (h : Mem.wf m = true) : Mem.wf (Mem.putByte m a b) = true :=
  Sparse.wf_put h

theorem Mem.wf_store {m : Mem} {a n v : Nat} (h : Mem.wf m = true) : Mem.wf (Mem.store m a n v) = true := by
  induction n generalizing m a v with
  | zero => exact h
  | succ n ih => exact ih (Mem.wf_putByte h)

theorem Mem.wf_storeBytes {m : Mem} {a : Nat} {l : List Byte} (h : Mem.wf m = true) : Mem.wf (Mem.storeBytes m a l) = true := by
  induction l generalizing m a with
  | nil => exact h
  | cons b t ih => exact ih (Mem.wf_putByte h)

theorem Mem.wf_foldl {β : Type} {f : Mem → β → Mem} (hf : ∀ m b, Mem.wf m = true → Mem.wf (f m b) = true) {l : List β} {m : Mem}
    (h : Mem.wf m = true) : Mem.wf (l.foldl f m) = true := by
  induction l generalizing m with
  | nil => exact h
  | cons b t ih => exact ih (hf m b h)

/-- A byte after a store outside it is as before. -/
theorem Mem.byte_store_ne {m : Mem} {a n v j : Nat} (hj : j < a ∨ a + n ≤ j) : Mem.byte (Mem.store m a n v) j = Mem.byte m j := by
  induction n generalizing m a v with
  | zero => rfl
  | succ n ih =>
    rw [Mem.store, ih (by omega)]
    exact Sparse.get_put_ne (by omega)

/-- A byte after a store of a list outside it is as before. -/
theorem Mem.byte_storeBytes_ne {m : Mem} {a j : Nat} {l : List Byte} (hj : j < a ∨ a + l.length ≤ j) :
    Mem.byte (Mem.storeBytes m a l) j = Mem.byte m j := by
  induction l generalizing m a with
  | nil => rfl
  | cons b t ih =>
    rw [Mem.storeBytes, ih (by simp only [List.length_cons] at hj; omega)]
    exact Sparse.get_put_ne (by simp only [List.length_cons] at hj; omega)

/-- A byte that is stored reads as stored. -/
theorem Mem.byte_putByte_same {m : Mem} {a : Nat} {b : Byte} (h : Mem.wf m = true) : Mem.byte (Mem.putByte m a b) a = b :=
  Sparse.get_put_same (lo := 0) h

/-- A stored byte of a number reads as the number's byte. -/
theorem Mem.byte_store {m : Mem} {a n v j : Nat} (h : Mem.wf m = true) (hj : j < n) :
    Mem.byte (Mem.store m a n v) (a + j) = BitVec.ofNat 8 (v / 256 ^ j) := by
  induction n generalizing m a v j with
  | zero => omega
  | succ n ih =>
    rw [Mem.store]
    cases j with
    | zero =>
      rw [Mem.byte_store_ne (by omega), Nat.add_zero, Mem.byte_putByte_same h, Nat.pow_zero, Nat.div_one]
    | succ j =>
      have := ih (m := Mem.putByte m a (BitVec.ofNat 8 v)) (a := a + 1) (v := v / 256) (j := j) (Mem.wf_putByte h) (by omega)
      rw [show a + (j + 1) = a + 1 + j by omega, this, Nat.div_div_eq_div_mul, Nat.pow_succ, Nat.mul_comm]

end Sys2Proof.Machine
end

