-- ==== Sys2Proof/Laws/Regs.lean ====
section
/-! SUPPORT. Laws of the registers: a read of a field after a write, and which bits a write leaves. -/

namespace Sys2Proof.Machine

theorem Fld.get_ins {f : Fld} {w : Word} {v : Nat} (hf : f.lsb + f.width ≤ 32) : f.get (f.ins w v) = v % 2 ^ f.width := by
  unfold Fld.get Fld.ins
  rw [← BitVec.toNat_ofNat]
  congr 1
  ext i hi
  have : f.lsb + i < 32 := by omega
  have h2 : ¬ f.lsb + i < f.lsb := by omega
  simp [hi, this, h2, BitVec.getElem_extractLsb']

theorem Fld.get_ins_apart {f g : Fld} {w : Word} {v : Nat} (hf : f.lsb + f.width ≤ 32)
    (h : f.lsb + f.width ≤ g.lsb ∨ g.lsb + g.width ≤ f.lsb) : f.get (g.ins w v) = f.get w := by
  unfold Fld.get Fld.ins
  congr 1
  ext i hi
  simp [BitVec.getElem_extractLsb', BitVec.getLsbD_shiftLeft]
  rcases h with h | h
  · have : f.lsb + i < g.lsb := by omega
    simp [this]; omega
  · have : g.width ≤ f.lsb + i - g.lsb := by omega
    simp [this]; omega

theorem State.word_setWord_same {s : State} {r : Reg} {i j : Nat} {w : Word} (h : s.Sound) :
    (s.setWord r i j w).word r i j = w := Sparse.get_put_same h.regs

theorem State.raw_setWord_ne {s : State} {r : Reg} {i j a : Nat} {w : Word} (ha : a ≠ r.addr i j) :
    (s.setWord r i j w).raw a = s.raw a := Sparse.get_put_ne ha

theorem State.fld_eq {s : State} {f : Fld} {i j : Nat} : s.fld f i j = f.get (s.raw (f.reg.addr i j)) := rfl

theorem State.fld_setFld_same {s : State} {f : Fld} {i j v : Nat} (h : s.Sound) (hf : f.lsb + f.width ≤ 32) :
    (s.setFld f i v j).fld f i j = v % 2 ^ f.width := by
  unfold State.fld State.setFld
  rw [State.word_setWord_same h, Fld.get_ins hf]

/-- A field at another address is left. -/
theorem State.fld_setFld_ne {s : State} {f g : Fld} {i j i' j' v : Nat} (ha : f.reg.addr i j ≠ g.reg.addr i' j') :
    (s.setFld g i' v j').fld f i j = s.fld f i j := by
  rw [State.fld_eq, State.setFld, State.raw_setWord_ne ha, State.fld_eq]

/-- Another field of the same register is left. -/
theorem State.fld_setFld_apart {s : State} {f g : Fld} {i j v : Nat} (h : s.Sound) (hr : f.reg = g.reg)
    (hf : f.lsb + f.width ≤ 32) (hg : f.lsb + f.width ≤ g.lsb ∨ g.lsb + g.width ≤ f.lsb) :
    (s.setFld g i v j).fld f i j = s.fld f i j := by
  unfold State.fld State.setFld
  rw [hr, State.word_setWord_same h, Fld.get_ins_apart hf hg]

theorem State.onlyBits.refl {s : State} {l : List (Nat × Word)} : s.onlyBits s l := fun _ _ _ => rfl

theorem State.onlyBits.mono {s t : State} {l l' : List (Nat × Word)} (h : s.onlyBits t l) (hl : ∀ p ∈ l, p ∈ l') :
    s.onlyBits t l' := fun a k hk => h a k fun p hp => hk p (hl p hp)

theorem State.onlyBits.trans {s t u : State} {l : List (Nat × Word)} (h : s.onlyBits t l) (h2 : t.onlyBits u l) :
    s.onlyBits u l := fun a k hk => (h2 a k hk).trans (h a k hk)

theorem State.onlyBits.setWord {s t : State} {l : List (Nat × Word)} {r : Reg} {i j : Nat} {w : Word} (h : s.onlyBits t l)
    (hl : r.spot i j ∈ l) : s.onlyBits (t.setWord r i j w) l := by
  intro a k hk
  rw [← h a k hk]
  by_cases ha : a = r.addr i j
  · have := hk _ hl ha.symm
    by_cases hk' : k < 32
    · rw [Reg.spot, BitVec.getLsbD_allOnes] at this
      simp [hk'] at this
    · simp [BitVec.getLsbD_of_ge, Nat.le_of_not_lt hk']
  · rw [State.raw_setWord_ne ha]

theorem State.onlyBits.setFld {s t : State} {l : List (Nat × Word)} {f : Fld} {i j v : Nat} (h : s.onlyBits t l) (ht : t.Sound)
    (hl : f.spot i j ∈ l) : s.onlyBits (t.setFld f i v j) l := by
  intro a k hk
  rw [← h a k hk]
  by_cases ha : a = f.reg.addr i j
  · have hm := hk _ hl ha.symm
    subst ha
    unfold State.setFld
    show ((t.setWord f.reg i j _).word f.reg i j).getLsbD k = (t.word f.reg i j).getLsbD k
    rw [State.word_setWord_same ht, Fld.ins]
    simp only [Fld.spot, BitVec.getLsbD_shiftLeft, BitVec.getLsbD_setWidth, BitVec.getLsbD_allOnes] at hm
    simp only [BitVec.getLsbD_or, BitVec.getLsbD_and, BitVec.getLsbD_not, BitVec.getLsbD_shiftLeft, BitVec.getLsbD_setWidth,
      BitVec.getLsbD_allOnes, BitVec.getLsbD_ofNat]
    by_cases hk' : k < 32
    · by_cases h1 : k < f.lsb
      · simp [hk', h1]
      · have h2 : f.width ≤ k - f.lsb := by
          simp [hk', h1] at hm; omega
        have h3 : ¬ k - f.lsb < f.width := by omega
        simp [hk', h3]
    · simp [hk', BitVec.getLsbD_of_ge, Nat.le_of_not_lt hk']
  · exact congrArg (BitVec.getLsbD · k) (State.raw_setWord_ne ha)

theorem State.onlyBits.setBit {s t : State} {l : List (Nat × Word)} {f : Fld} {i : Nat} {b : Bool} (h : s.onlyBits t l) (ht : t.Sound)
    (hl : f.spot i ∈ l) : s.onlyBits (t.setBit f i b) l := h.setFld ht hl

/-- An update that leaves the registers keeps the relation. -/
theorem State.onlyBits.of_regs {s t u : State} {l : List (Nat × Word)} (h : s.onlyBits t l) (hr : u.regs = t.regs) : s.onlyBits u l := by
  intro a k hk
  rw [← h a k hk]
  simp only [State.raw, hr]

end Sys2Proof.Machine
end

