-- ==== Sys2Proof/Laws/Sound/Base.lean ====
section
/-! SUPPORT. Soundness (Safety.lean) of the primitive updates of a state, an axis and an engine. -/

namespace Sys2Proof.Machine

/-- An update that leaves registers, memories, engines, axes and slots alone keeps soundness. -/
theorem State.Sound.upd {s : State}
    {pending : List Instr} {tick : Nat} {dt : BitVec 64} {free : Nat} {hwSet : List (Nat × Word)} {hostSet : List Nat} {fbPend : List FbWrite} {lastRead : List Word} {arbLast : EngId} {hostWin : List (Nat × List Byte)} {banks : Vector Bank 6} {fb : Vector AxFb 48} {po : Vector PulseRep 6} {mot : Vector AxMot 48} {shaft : Shaft} {mon : Vector AxMon 48} {funcs : Vector Func 8} {accepted : List Accepted} {hostOut : List HostWrite} {fetchLast : FnId} {ownChanges : List OwnChange} {doms : Vector TimeDom 2} {time : TimeBase} {fdb : List FdbEntry} {ports : Vector LinePort 2} {txqs : Vector TxQueue 16} {rx : RxPath} {wireOut : List (PortId × EthFrame)} {cans : Vector Can 4} {dios : Vector Dio 48} {dio : FieldIo} {saf : Safety} {fo : Vector AxFo 48} {prof : Profiles} {store : ImageStore} {pwr : Power} {plugs : Vector Plug 48} {thm : Thermal}
    (h : s.Sound) (hp : (pwr.slots = s.pwr.slots) := by rfl) : State.Sound (State.mk pending tick dt free s.regs hwSet hostSet s.force fbPend lastRead s.shmem arbLast hostWin s.engines s.axes banks fb po mot shaft mon funcs accepted hostOut fetchLast ownChanges doms time fdb ports txqs rx wireOut cans dios dio saf fo prof store pwr plugs thm) :=
  ⟨h.regs, h.force, h.shmem, h.engines, h.axes, by intro k; show Mem.wf pwr.slots[k].img = true; rw [hp]; exact h.slots k⟩

/-- The goal form of an update written out as a record: a marker, so that `State.Sound.upd` is tried on records alone. -/
def State.SoundRec (s : State) : Prop := s.Sound

set_option linter.unusedVariables false in
theorem State.sound_mk {pending tick dt free regs hwSet hostSet force fbPend lastRead shmem arbLast hostWin engines axes banks fb po mot shaft mon funcs accepted hostOut fetchLast ownChanges doms time fdb ports txqs rx wireOut cans dios dio saf fo prof store pwr plugs thm} : State.Sound (State.mk pending tick dt free regs hwSet hostSet force fbPend lastRead shmem arbLast hostWin engines axes banks fb po mot shaft mon funcs accepted hostOut fetchLast ownChanges doms time fdb ports txqs rx wireOut cans dios dio saf fo prof store pwr plugs thm) = State.SoundRec (State.mk pending tick dt free regs hwSet hostSet force fbPend lastRead shmem arbLast hostWin engines axes banks fb po mot shaft mon funcs accepted hostOut fetchLast ownChanges doms time fdb ports txqs rx wireOut cans dios dio saf fo prof store pwr plugs thm) := rfl

theorem State.SoundRec.upd {s : State}
    {pending : List Instr} {tick : Nat} {dt : BitVec 64} {free : Nat} {hwSet : List (Nat × Word)} {hostSet : List Nat} {fbPend : List FbWrite} {lastRead : List Word} {arbLast : EngId} {hostWin : List (Nat × List Byte)} {banks : Vector Bank 6} {fb : Vector AxFb 48} {po : Vector PulseRep 6} {mot : Vector AxMot 48} {shaft : Shaft} {mon : Vector AxMon 48} {funcs : Vector Func 8} {accepted : List Accepted} {hostOut : List HostWrite} {fetchLast : FnId} {ownChanges : List OwnChange} {doms : Vector TimeDom 2} {time : TimeBase} {fdb : List FdbEntry} {ports : Vector LinePort 2} {txqs : Vector TxQueue 16} {rx : RxPath} {wireOut : List (PortId × EthFrame)} {cans : Vector Can 4} {dios : Vector Dio 48} {dio : FieldIo} {saf : Safety} {fo : Vector AxFo 48} {prof : Profiles} {store : ImageStore} {pwr : Power} {plugs : Vector Plug 48} {thm : Thermal}
    (h : s.Sound) (hp : (pwr.slots = s.pwr.slots) := by rfl) : State.SoundRec (State.mk pending tick dt free s.regs hwSet hostSet s.force fbPend lastRead s.shmem arbLast hostWin s.engines s.axes banks fb po mot shaft mon funcs accepted hostOut fetchLast ownChanges doms time fdb ports txqs rx wireOut cans dios dio saf fo prof store pwr plugs thm) := State.Sound.upd h hp

theorem State.Sound.ite {c : Prop} [Decidable c] {a b : State} (ha : c → a.Sound) (hb : ¬c → b.Sound) :
    (if c then a else b).Sound := by
  split
  · exact ha ‹_›
  · exact hb ‹_›

theorem State.Sound.ax {s : State} (h : s.Sound) (n : AxId) : (s.ax n).sound = true := h.axes n
theorem State.Sound.eng {s : State} (h : s.Sound) (e : EngId) : (s.eng e).sound = true := h.engines e

theorem State.Sound.setAx {s : State} {n : AxId} {x : Axis} (h : s.Sound) (hx : s.Sound → x.sound = true) :
    (s.setAx n x).Sound := by
  refine ⟨h.regs, h.force, h.shmem, h.engines, ?_, h.slots⟩
  intro m
  by_cases hm : m = n
  · subst hm; have := State.ax_setAx_same s m x; simp only [State.ax] at this; rw [this]; exact hx h
  · have := State.ax_setAx_ne s n x hm; simp only [State.ax] at this; rw [this]; exact h.axes m

theorem State.Sound.setEng {s : State} {e : EngId} {x : Engine} (h : s.Sound) (hx : s.Sound → x.sound = true) :
    (s.setEng e x).Sound := by
  refine ⟨h.regs, h.force, h.shmem, ?_, h.axes, h.slots⟩
  intro m
  by_cases hm : m = e
  · subst hm; have := State.eng_setEng_same s m x; simp only [State.eng] at this; rw [this]; exact hx h
  · have := State.eng_setEng_ne s e x hm; simp only [State.eng] at this; rw [this]; exact h.engines m

theorem State.Sound.setBnk {s : State} {b : BankId} {x : Bank} (h : s.Sound) : (s.setBnk b x).Sound :=
  ⟨h.regs, h.force, h.shmem, h.engines, h.axes, h.slots⟩
theorem State.Sound.setFn {s : State} {f : FnId} {x : Func} (h : s.Sound) : (s.setFn f x).Sound :=
  ⟨h.regs, h.force, h.shmem, h.engines, h.axes, h.slots⟩
theorem State.Sound.setFbk {s : State} {n : AxId} {x : AxFb} (h : s.Sound) : (s.setFbk n x).Sound :=
  ⟨h.regs, h.force, h.shmem, h.engines, h.axes, h.slots⟩
theorem State.Sound.setMotion {s : State} {n : AxId} {x : AxMot} (h : s.Sound) : (s.setMotion n x).Sound :=
  ⟨h.regs, h.force, h.shmem, h.engines, h.axes, h.slots⟩
theorem State.Sound.setMoni {s : State} {n : AxId} {x : AxMon} (h : s.Sound) : (s.setMoni n x).Sound :=
  ⟨h.regs, h.force, h.shmem, h.engines, h.axes, h.slots⟩
theorem State.Sound.setFailover {s : State} {n : AxId} {x : AxFo} (h : s.Sound) : (s.setFailover n x).Sound :=
  ⟨h.regs, h.force, h.shmem, h.engines, h.axes, h.slots⟩
theorem State.Sound.setPlug {s : State} {n : AxId} {x : Plug} (h : s.Sound) : (s.setPlug n x).Sound :=
  ⟨h.regs, h.force, h.shmem, h.engines, h.axes, h.slots⟩
theorem State.Sound.setRep {s : State} {k : PoId} {x : PulseRep} (h : s.Sound) : (s.setRep k x).Sound :=
  ⟨h.regs, h.force, h.shmem, h.engines, h.axes, h.slots⟩
theorem State.Sound.setCan {s : State} {c : CanId} {x : Can} (h : s.Sound) : (s.setCan c x).Sound :=
  ⟨h.regs, h.force, h.shmem, h.engines, h.axes, h.slots⟩
theorem State.Sound.setChan {s : State} {c : DioId} {x : Dio} (h : s.Sound) : (s.setChan c x).Sound :=
  ⟨h.regs, h.force, h.shmem, h.engines, h.axes, h.slots⟩
theorem State.Sound.setPort {s : State} {p : PortId} {x : LinePort} (h : s.Sound) : (s.setPort p x).Sound :=
  ⟨h.regs, h.force, h.shmem, h.engines, h.axes, h.slots⟩
theorem State.Sound.setTxq {s : State} {q : TxqId} {x : TxQueue} (h : s.Sound) : (s.setTxq q x).Sound :=
  ⟨h.regs, h.force, h.shmem, h.engines, h.axes, h.slots⟩
theorem State.Sound.setDom {s : State} {j : Fin 2} {x : TimeDom} (h : s.Sound) : (s.setDom j x).Sound :=
  ⟨h.regs, h.force, h.shmem, h.engines, h.axes, h.slots⟩
theorem State.Sound.setWord {s : State} {r : Reg} {i j : Nat} {w : Word} (h : s.Sound) : (s.setWord r i j w).Sound :=
  ⟨Sparse.wf_put h.regs, h.force, h.shmem, h.engines, h.axes, h.slots⟩
theorem State.Sound.setFld {s : State} {f : Fld} {i v j : Nat} (h : s.Sound) : (s.setFld f i v j).Sound := h.setWord
theorem State.Sound.setBit {s : State} {f : Fld} {i : Nat} {b : Bool} (h : s.Sound) : (s.setBit f i b).Sound :=
  ⟨Sparse.wf_put h.regs, h.force, h.shmem, h.engines, h.axes, h.slots⟩

theorem State.Sound.forAll {α : Type} {l : List α} {f : State → α → State} {s : State} (h : s.Sound)
    (hf : ∀ s a, s.Sound → (f s a).Sound) : (forAll l f s).Sound := by
  unfold Machine.forAll
  induction l generalizing s with
  | nil => exact h
  | cons a l ih => exact ih (hf s a h)

/-- The marker for Axis records. -/
def Axis.SoundRec (x : Axis) : Prop := x.sound = true

set_option linter.unusedVariables false in
theorem Axis.sound_mk {frameTick : Nat} {frameNo : BitVec 32} {framed : Bool} {nextB : Option (Nat × BitVec 32)} {seq : BitVec 16} {sample : Option SampleRun} {sampledAt : Option Nat} {sampleTick : Nat} {due : List DueSample} {commits : List Commit} {released : LatchVals} {prevReleased : LatchVals} {relTick : Nat} {misses : Nat} {hbMiss : Nat} {stop : Option StopRun} {speedRef : Int} {integZero : Bool} {entryTick : Nat} {ofsCount : Nat} {ofsCodes : List OfsCodes} {ofsPend : Option OfsCodes} {idleFrames : Nat} {coef : Sparse (BitVec 32)} {coefPend : List (Nat × BitVec 32)} {mail : List MailRec} {mailIdx : Nat} {mailOther : List Nat} {safeReq : Option Nat} {absentReq : Bool} {stopReq : Option (StopCat × Nat)} {stopFrom : Nat} {demands : Demands} {lastAct : Option WcAction} {imposed : Bool} {startOff : Bool} {fltCut : Bool} {cbcCut : Bool} {legs : Vector LegHw 3} {armed : Bool} {blankUntil : Nat} {hallCode : BitVec 3} {hallAt : Nat} {hallSector : Nat} {hallValid : Bool} {win : Mem} : (Axis.sound (Axis.mk frameTick frameNo framed nextB seq sample sampledAt sampleTick due commits released prevReleased relTick misses hbMiss stop speedRef integZero entryTick ofsCount ofsCodes ofsPend idleFrames coef coefPend mail mailIdx mailOther safeReq absentReq stopReq stopFrom demands lastAct imposed startOff fltCut cbcCut legs armed blankUntil hallCode hallAt hallSector hallValid win) = true) = Axis.SoundRec (Axis.mk frameTick frameNo framed nextB seq sample sampledAt sampleTick due commits released prevReleased relTick misses hbMiss stop speedRef integZero entryTick ofsCount ofsCodes ofsPend idleFrames coef coefPend mail mailIdx mailOther safeReq absentReq stopReq stopFrom demands lastAct imposed startOff fltCut cbcCut legs armed blankUntil hallCode hallAt hallSector hallValid win) := rfl

theorem Axis.SoundRec.upd {x : Axis}
    {frameTick : Nat} {frameNo : BitVec 32} {framed : Bool} {nextB : Option (Nat × BitVec 32)} {seq : BitVec 16} {sample : Option SampleRun} {sampledAt : Option Nat} {sampleTick : Nat} {due : List DueSample} {commits : List Commit} {released : LatchVals} {prevReleased : LatchVals} {relTick : Nat} {misses : Nat} {hbMiss : Nat} {stop : Option StopRun} {speedRef : Int} {integZero : Bool} {entryTick : Nat} {ofsCount : Nat} {ofsCodes : List OfsCodes} {ofsPend : Option OfsCodes} {idleFrames : Nat} {coefPend : List (Nat × BitVec 32)} {mail : List MailRec} {mailIdx : Nat} {mailOther : List Nat} {safeReq : Option Nat} {absentReq : Bool} {stopReq : Option (StopCat × Nat)} {stopFrom : Nat} {demands : Demands} {lastAct : Option WcAction} {imposed : Bool} {startOff : Bool} {fltCut : Bool} {cbcCut : Bool} {armed : Bool} {blankUntil : Nat} {hallCode : BitVec 3} {hallAt : Nat} {hallSector : Nat} {hallValid : Bool}
    (h : x.sound = true) : Axis.SoundRec (Axis.mk frameTick frameNo framed nextB seq sample sampledAt sampleTick due commits released prevReleased relTick misses hbMiss stop speedRef integZero entryTick ofsCount ofsCodes ofsPend idleFrames x.coef coefPend mail mailIdx mailOther safeReq absentReq stopReq stopFrom demands lastAct imposed startOff fltCut cbcCut x.legs armed blankUntil hallCode hallAt hallSector hallValid x.win) := h

theorem Axis.sound_ite {c : Prop} [Decidable c] {a b : Axis} (ha : c → a.sound = true) (hb : ¬c → b.sound = true) :
    (if c then a else b).sound = true := by
  split
  · exact ha ‹_›
  · exact hb ‹_›

/-- The marker for Engine records. -/
def Engine.SoundRec (x : Engine) : Prop := x.sound = true

set_option linter.unusedVariables false in
theorem Engine.sound_mk {bank0 : EngBank} {bank1 : EngBank} {cb : Vector (BitVec 16) 8} {cl : Vector (BitVec 16) 8} {smpg : BitVec 6} {axsel : BitVec 6} {pc : BitVec 12} {retPc : BitVec 12} {imem : Sparse (BitVec 32)} {dmem : Mem} {badI : List Nat} {badD : List Nat} {step : Nat} {flights : List Flight} {rpt : Option Repeat} {long : Option LongAcc} {handler : Option EvKind} {used : Nat} {pend : List EvKind} {faultSrc : BitVec 16} {port : PortBlock} {image : Option ImageHdr} {axis : AxId} {owner : FnId} {grpBank : BankId} {grpDiv : Nat} {prep : Option EngPrep} {prepDue : Nat} {copyImg : List Byte} {wantStart : Option (Option CmdSrc)} {meterFrom : Option Nat} {staged : LatchVals} {lastPass : Option Nat} {missedHb : Nat} {declared : Bool} {faultTick : Nat} {hbSeq : Option (BitVec 16)} {hbGuest : Option (BitVec 16)} {relOpen : Bool} {hostDue : Bool} {oldClaim : Nat} {guest : Option AxId} {guestClaim : Nat} {onGuest : Bool} {pendGuest : List EvKind} {chained : Bool} {byApply : Bool} {repairing : Bool} {held : Nat} {waitPc : Option (BitVec 12)} {raised : List EvKind} {heldSrc : Option (BitVec 16)} {runFrom : Nat} {castRun : Option AxId} : (Engine.sound (Engine.mk bank0 bank1 cb cl smpg axsel pc retPc imem dmem badI badD step flights rpt long handler used pend faultSrc port image axis owner grpBank grpDiv prep prepDue copyImg wantStart meterFrom staged lastPass missedHb declared faultTick hbSeq hbGuest relOpen hostDue oldClaim guest guestClaim onGuest pendGuest chained byApply repairing held waitPc raised heldSrc runFrom castRun) = true) = Engine.SoundRec (Engine.mk bank0 bank1 cb cl smpg axsel pc retPc imem dmem badI badD step flights rpt long handler used pend faultSrc port image axis owner grpBank grpDiv prep prepDue copyImg wantStart meterFrom staged lastPass missedHb declared faultTick hbSeq hbGuest relOpen hostDue oldClaim guest guestClaim onGuest pendGuest chained byApply repairing held waitPc raised heldSrc runFrom castRun) := rfl

theorem Engine.SoundRec.upd {x : Engine}
    {bank0 : EngBank} {bank1 : EngBank} {cb : Vector (BitVec 16) 8} {cl : Vector (BitVec 16) 8} {smpg : BitVec 6} {axsel : BitVec 6} {pc : BitVec 12} {retPc : BitVec 12} {badI : List Nat} {badD : List Nat} {step : Nat} {flights : List Flight} {rpt : Option Repeat} {long : Option LongAcc} {handler : Option EvKind} {used : Nat} {pend : List EvKind} {faultSrc : BitVec 16} {port : PortBlock} {image : Option ImageHdr} {axis : AxId} {owner : FnId} {grpBank : BankId} {grpDiv : Nat} {prep : Option EngPrep} {prepDue : Nat} {copyImg : List Byte} {wantStart : Option (Option CmdSrc)} {meterFrom : Option Nat} {staged : LatchVals} {lastPass : Option Nat} {missedHb : Nat} {declared : Bool} {faultTick : Nat} {hbSeq : Option (BitVec 16)} {hbGuest : Option (BitVec 16)} {relOpen : Bool} {hostDue : Bool} {oldClaim : Nat} {guest : Option AxId} {guestClaim : Nat} {onGuest : Bool} {pendGuest : List EvKind} {chained : Bool} {byApply : Bool} {repairing : Bool} {held : Nat} {waitPc : Option (BitVec 12)} {raised : List EvKind} {heldSrc : Option (BitVec 16)} {runFrom : Nat} {castRun : Option AxId}
    (h : x.sound = true) : Engine.SoundRec (Engine.mk bank0 bank1 cb cl smpg axsel pc retPc x.imem x.dmem badI badD step flights rpt long handler used pend faultSrc port image axis owner grpBank grpDiv prep prepDue copyImg wantStart meterFrom staged lastPass missedHb declared faultTick hbSeq hbGuest relOpen hostDue oldClaim guest guestClaim onGuest pendGuest chained byApply repairing held waitPc raised heldSrc runFrom castRun) := h

theorem Engine.sound_ite {c : Prop} [Decidable c] {a b : Engine} (ha : c → a.sound = true) (hb : ¬c → b.sound = true) :
    (if c then a else b).sound = true := by
  split
  · exact ha ‹_›
  · exact hb ‹_›

theorem Axis.SoundRec.parts
    {frameTick : Nat} {frameNo : BitVec 32} {framed : Bool} {nextB : Option (Nat × BitVec 32)} {seq : BitVec 16} {sample : Option SampleRun} {sampledAt : Option Nat} {sampleTick : Nat} {due : List DueSample} {commits : List Commit} {released : LatchVals} {prevReleased : LatchVals} {relTick : Nat} {misses : Nat} {hbMiss : Nat} {stop : Option StopRun} {speedRef : Int} {integZero : Bool} {entryTick : Nat} {ofsCount : Nat} {ofsCodes : List OfsCodes} {ofsPend : Option OfsCodes} {idleFrames : Nat} {coef : Sparse (BitVec 32)} {coefPend : List (Nat × BitVec 32)} {mail : List MailRec} {mailIdx : Nat} {mailOther : List Nat} {safeReq : Option Nat} {absentReq : Bool} {stopReq : Option (StopCat × Nat)} {stopFrom : Nat} {demands : Demands} {lastAct : Option WcAction} {imposed : Bool} {startOff : Bool} {fltCut : Bool} {cbcCut : Bool} {legs : Vector LegHw 3} {armed : Bool} {blankUntil : Nat} {hallCode : BitVec 3} {hallAt : Nat} {hallSector : Nat} {hallValid : Bool} {win : Mem}
    (hw : Mem.wf win = true) (hc : Sparse.wf coefReset coef = true) (hl : legs.toList.all LegHw.single = true) :
    Axis.SoundRec (Axis.mk frameTick frameNo framed nextB seq sample sampledAt sampleTick due commits released prevReleased relTick misses hbMiss stop speedRef integZero entryTick ofsCount ofsCodes ofsPend idleFrames coef coefPend mail mailIdx mailOther safeReq absentReq stopReq stopFrom demands lastAct imposed startOff fltCut cbcCut legs armed blankUntil hallCode hallAt hallSector hallValid win) := by
  simp [Axis.SoundRec, Axis.sound, hw, hc, hl]

theorem Engine.SoundRec.parts
    {bank0 : EngBank} {bank1 : EngBank} {cb : Vector (BitVec 16) 8} {cl : Vector (BitVec 16) 8} {smpg : BitVec 6} {axsel : BitVec 6} {pc : BitVec 12} {retPc : BitVec 12} {imem : Sparse (BitVec 32)} {dmem : Mem} {badI : List Nat} {badD : List Nat} {step : Nat} {flights : List Flight} {rpt : Option Repeat} {long : Option LongAcc} {handler : Option EvKind} {used : Nat} {pend : List EvKind} {faultSrc : BitVec 16} {port : PortBlock} {image : Option ImageHdr} {axis : AxId} {owner : FnId} {grpBank : BankId} {grpDiv : Nat} {prep : Option EngPrep} {prepDue : Nat} {copyImg : List Byte} {wantStart : Option (Option CmdSrc)} {meterFrom : Option Nat} {staged : LatchVals} {lastPass : Option Nat} {missedHb : Nat} {declared : Bool} {faultTick : Nat} {hbSeq : Option (BitVec 16)} {hbGuest : Option (BitVec 16)} {relOpen : Bool} {hostDue : Bool} {oldClaim : Nat} {guest : Option AxId} {guestClaim : Nat} {onGuest : Bool} {pendGuest : List EvKind} {chained : Bool} {byApply : Bool} {repairing : Bool} {held : Nat} {waitPc : Option (BitVec 12)} {raised : List EvKind} {heldSrc : Option (BitVec 16)} {runFrom : Nat} {castRun : Option AxId}
    (hd : Mem.wf dmem = true) (hi : Sparse.wf (fun _ => (0 : BitVec 32)) imem = true) :
    Engine.SoundRec (Engine.mk bank0 bank1 cb cl smpg axsel pc retPc imem dmem badI badD step flights rpt long handler used pend faultSrc port image axis owner grpBank grpDiv prep prepDue copyImg wantStart meterFrom staged lastPass missedHb declared faultTick hbSeq hbGuest relOpen hostDue oldClaim guest guestClaim onGuest pendGuest chained byApply repairing held waitPc raised heldSrc runFrom castRun) := by
  rw [Engine.SoundRec, Engine.sound, Bool.and_eq_true]; exact ⟨hd, hi⟩

theorem State.SoundRec.parts
    {pending : List Instr} {tick : Nat} {dt : BitVec 64} {free : Nat} {regs : Sparse Word} {hwSet : List (Nat × Word)} {hostSet : List Nat} {force : Sparse Word} {fbPend : List FbWrite} {lastRead : List Word} {shmem : Mem} {arbLast : EngId} {hostWin : List (Nat × List Byte)} {engines : Vector Engine 64} {axes : Vector Axis 48} {banks : Vector Bank 6} {fb : Vector AxFb 48} {po : Vector PulseRep 6} {mot : Vector AxMot 48} {shaft : Shaft} {mon : Vector AxMon 48} {funcs : Vector Func 8} {accepted : List Accepted} {hostOut : List HostWrite} {fetchLast : FnId} {ownChanges : List OwnChange} {doms : Vector TimeDom 2} {time : TimeBase} {fdb : List FdbEntry} {ports : Vector LinePort 2} {txqs : Vector TxQueue 16} {rx : RxPath} {wireOut : List (PortId × EthFrame)} {cans : Vector Can 4} {dios : Vector Dio 48} {dio : FieldIo} {saf : Safety} {fo : Vector AxFo 48} {prof : Profiles} {store : ImageStore} {pwr : Power} {plugs : Vector Plug 48} {thm : Thermal}
    (hr : Sparse.wf Reg.resetAt regs = true) (hf : Sparse.wf Reg.resetAt force = true) (hm : Mem.wf shmem = true)
    (he : ∀ e : EngId, engines[e].sound = true) (ha : ∀ n : AxId, axes[n].sound = true)
    (hs : ∀ k : Fin 2, Mem.wf pwr.slots[k].img = true) :
    State.SoundRec (State.mk pending tick dt free regs hwSet hostSet force fbPend lastRead shmem arbLast hostWin engines axes banks fb po mot shaft mon funcs accepted hostOut fetchLast ownChanges doms time fdb ports txqs rx wireOut cans dios dio saf fo prof store pwr plugs thm) := ⟨hr, hf, hm, he, ha, hs⟩

theorem Axis.sound_win {x : Axis} (h : x.sound = true) : Mem.wf x.win = true := by
  simp only [Axis.sound, Bool.and_eq_true] at h; exact h.1.1
theorem Axis.sound_coef {x : Axis} (h : x.sound = true) : Sparse.wf coefReset x.coef = true := by
  simp only [Axis.sound, Bool.and_eq_true] at h; exact h.1.2
theorem Axis.sound_legs {x : Axis} (h : x.sound = true) : x.legs.toList.all LegHw.single = true := by
  simp only [Axis.sound, Bool.and_eq_true] at h; exact h.2
theorem Engine.sound_dmem {x : Engine} (h : x.sound = true) : Mem.wf x.dmem = true := by
  simp only [Engine.sound, Bool.and_eq_true] at h; exact h.1
theorem Engine.sound_imem {x : Engine} (h : x.sound = true) : Sparse.wf (fun _ => (0 : BitVec 32)) x.imem = true := by
  simp only [Engine.sound, Bool.and_eq_true] at h; exact h.2

theorem Sparse.wf_foldl_put {α β : Type} [DecidableEq α] {d : Nat → α} {k : β → Nat} {v : β → α} {l : List β} {m : Sparse α}
    (h : Sparse.wf d m = true) : Sparse.wf d (l.foldl (fun c b => Sparse.put d c (k b) (v b)) m) = true := by
  induction l generalizing m with
  | nil => exact h
  | cons a l ih => exact ih (Sparse.wf_put h)

/-- Legs after a map that never turns both switches of a leg on. -/
theorem legs_map {l : Vector LegHw 3} {f : LegHw → LegHw} (h : l.toList.all LegHw.single = true)
    (hf : ∀ x : LegHw, x.single = true → (f x).single = true) : (l.map f).toList.all LegHw.single = true := by
  simp only [List.all_eq_true, Vector.toList_map, List.mem_map, forall_exists_index, and_imp, forall_apply_eq_imp_iff₂] at *
  exact fun a ha => hf a (h a ha)

theorem legs_get {l : Vector LegHw 3} (h : l.toList.all LegHw.single = true) (k : Nat) (hk : k < 3) : l[k].single = true := by
  simp only [List.all_eq_true] at h
  exact h _ (by simp)

theorem Engine.sound_foldl {α : Type} {l : List α} {f : Engine → α → Engine} {x : Engine} (h : x.sound = true)
    (hf : ∀ x a, x.sound = true → (f x a).sound = true) : (l.foldl f x).sound = true := by
  induction l generalizing x with
  | nil => exact h
  | cons a l ih => exact ih (hf x a h)

theorem Axis.sound_foldl {α : Type} {l : List α} {f : Axis → α → Axis} {x : Axis} (h : x.sound = true)
    (hf : ∀ x a, x.sound = true → (f x a).sound = true) : (l.foldl f x).sound = true := by
  induction l generalizing x with
  | nil => exact h
  | cons a l ih => exact ih (hf x a h)

/-- What an instruction answers is sound. -/
def Issue.Ok : Issue → Prop
  | .done s _ _ _ => s.Sound
  | _ => True

theorem Issue.ok_done {s : State} {rs : List Res_} {n : Nat} {p : Option (BitVec 12)} (h : s.Sound) : (Issue.done s rs n p).Ok := h
theorem Issue.ok_fault {c : EngFault} : (Issue.fault c).Ok := trivial
theorem Issue.ok_impossible : Issue.impossible.Ok := trivial
theorem Issue.ok_long {a : LongAcc} : (Issue.long a).Ok := trivial
theorem Issue.ok_ite {c : Prop} [Decidable c] {a b : Issue} (ha : c → a.Ok) (hb : ¬c → b.Ok) : (if c then a else b).Ok := by
  split
  · exact ha ‹_›
  · exact hb ‹_›

theorem State.Sound.of_fst_eq {α : Type} {p : State × α} {a : State} {b : α} (hp : p = (a, b)) (h : p.1.Sound) : a.Sound := by
  subst hp; exact h

theorem Mem.wf_empty : Mem.wf [] = true := rfl
theorem Sparse.wf_empty {α : Type} [DecidableEq α] {d : Nat → α} : Sparse.wf d [] = true := rfl

theorem imageImem_wf {l : List Byte} {h : ImageHdr} : Sparse.wf (fun _ => (0 : BitVec 32)) (imageImem l h) = true := by
  unfold imageImem
  exact Sparse.wf_foldl_put rfl

theorem State.Sound.getD {o : Option State} {s : State} (h : s.Sound) (hf : ∀ t, o = some t → t.Sound) : (o.getD s).Sound := by
  cases o with
  | none => exact h
  | some t => exact hf t rfl

theorem legs_set {l : Vector LegHw 3} {k : Nat} {hk : k < 3} {x : LegHw} (h : l.toList.all LegHw.single = true)
    (hx : x.single = true) : (l.set k x hk).toList.all LegHw.single = true := by
  simp only [Vector.toList_set, List.all_eq_true] at *
  intro y hy
  rcases List.mem_or_eq_of_mem_set hy with hy | rfl
  · exact h y hy
  · exact hx

/-- The marker for leg records. -/
def LegHw.SingleRec (x : LegHw) : Prop := x.single = true

theorem LegHw.single_mk {high low : Bool} {dead : Option (Nat × Bool)} {a b c d : Nat} {e : Bool} {f : Option Nat} {g : Nat} {k : Option Nat} :
    (LegHw.single (LegHw.mk high low dead a b e c d f g k) = true) = LegHw.SingleRec (LegHw.mk high low dead a b e c d f g k) := rfl

theorem LegHw.SingleRec.same {x : LegHw} {dead : Option (Nat × Bool)} {a b c d : Nat} {e : Bool} {f : Option Nat} {g : Nat} {k : Option Nat} (h : x.single = true) : LegHw.SingleRec (LegHw.mk x.high x.low dead a b e c d f g k) := h
theorem LegHw.SingleRec.high_off {low : Bool} {dead : Option (Nat × Bool)} {a b c d : Nat} {e : Bool} {f : Option Nat} {g : Nat} {k : Option Nat} : LegHw.SingleRec (LegHw.mk false low dead a b e c d f g k) := rfl
theorem LegHw.SingleRec.low_off {high : Bool} {dead : Option (Nat × Bool)} {a b c d : Nat} {e : Bool} {f : Option Nat} {g : Nat} {k : Option Nat} : LegHw.SingleRec (LegHw.mk high false dead a b e c d f g k) := by
  cases high <;> rfl
theorem LegHw.SingleRec.not_high {x : LegHw} {low : Bool} {dead : Option (Nat × Bool)} {a b c d : Nat} {e : Bool} {f : Option Nat} {g : Nat} {k : Option Nat} (h : ¬x.high = true) : LegHw.SingleRec (LegHw.mk x.high low dead a b e c d f g k) := by
  have h : x.high = false := by simpa using h
  rw [h]; rfl

theorem LegHw.SingleRec.idle {x : LegHw} {low : Bool} {dead : Option (Nat × Bool)} {a b c d : Nat} {e : Bool} {f : Option Nat} {g : Nat} {k : Option Nat}
    (h : (!x.high && !x.low && x.dead.isNone) = true) : LegHw.SingleRec (LegHw.mk x.high low dead a b e c d f g k) :=
  LegHw.SingleRec.not_high (by simp only [Bool.and_eq_true, Bool.not_eq_true'] at h; simp [h.1.1])

theorem State.Sound.foldl {α : Type} {l : List α} {f : State → α → State} {s : State} (h : s.Sound)
    (hf : ∀ s a, s.Sound → (f s a).Sound) : (l.foldl f s).Sound := State.Sound.forAll h hf

end Sys2Proof.Machine
end

