-- ==== Sys2Proof/Laws/Sound/Ops.lean ====
section
/-! SUPPORT. Soundness is kept by every operation and every meaning of Machine/Ops.lean. -/

namespace Sys2Proof.Machine

theorem State.Sound.hwPut {s : State} {f : Fld} {i v : Nat} (h : s.Sound) : (State.hwPut s f i v).Sound := by
  unfold Sys2Proof.Machine.State.hwPut
  repeat' first
    | with_reducible assumption | with_reducible apply State.Sound.setFld | with_reducible apply State.Sound.ite
    | with_reducible intro _

theorem State.Sound.countSat {s : State} {f : Fld} {i : Nat} (h : s.Sound) : (State.countSat s f i).Sound := by
  unfold Sys2Proof.Machine.State.countSat
  repeat' first
    | with_reducible assumption | with_reducible apply State.Sound.setFld

theorem State.Sound.whenUp {s : State} {f : State → State} (h : s.Sound) (hf : ∀ (x0 : State), x0.Sound → (f x0).Sound) : (State.whenUp s f).Sound := by
  unfold Sys2Proof.Machine.State.whenUp
  repeat' first
    | with_reducible assumption | with_reducible apply hf | with_reducible apply State.Sound.ite | with_reducible intro _

theorem State.Sound.setupGate {s : State} {fn : FnId} {f : State → State} (h : s.Sound) (hf : ∀ (x0 : State), x0.Sound → (f x0).Sound) : (State.setupGate s fn f).Sound := by
  unfold Sys2Proof.Machine.State.setupGate
  repeat' first
    | with_reducible assumption | with_reducible apply hf | with_reducible apply State.Sound.setBit
    | with_reducible apply State.Sound.ite | with_reducible intro _

theorem State.Sound.showLog {s : State} (h : s.Sound) : (State.showLog s).Sound := by
  unfold Sys2Proof.Machine.State.showLog
  repeat' first
    | with_reducible assumption | with_reducible apply State.Sound.setWord | with_reducible apply State.Sound.foldl
    | with_reducible intro _

theorem State.Sound.logFault {s : State} {code src detail : Nat} (h : s.Sound) : (State.logFault s code src detail).Sound := by
  unfold Sys2Proof.Machine.State.logFault
  repeat' first
    | with_reducible assumption | with_reducible apply State.Sound.showLog | with_reducible apply State.SoundRec.upd
    | simp only [State.sound_mk]

theorem State.Sound.armPreload {s : State} {n : AxId} {v : BitVec 48} (h : s.Sound) : (State.armPreload s n v).Sound := by
  unfold Sys2Proof.Machine.State.armPreload
  repeat' first
    | with_reducible assumption | with_reducible apply State.Sound.setFbk

theorem State.Sound.signalVec {s : State} {fn : FnId} {v : Fin 16} (h : s.Sound) : (State.signalVec s fn v).Sound := by
  unfold Sys2Proof.Machine.State.signalVec
  repeat' first
    | with_reducible assumption | with_reducible apply State.Sound.setFn

theorem State.Sound.fstatChanged {s : State} {fn : FnId} (h : s.Sound) : (State.fstatChanged s fn).Sound := by
  unfold Sys2Proof.Machine.State.fstatChanged
  repeat' first
    | with_reducible assumption | with_reducible apply State.Sound.signalVec

theorem State.Sound.queueEvent {s : State} {fn : FnId} {r : EvRec} (h : s.Sound) : (State.queueEvent s fn r).Sound := by
  unfold Sys2Proof.Machine.State.queueEvent
  repeat' first
    | with_reducible assumption | with_reducible apply State.Sound.setFn | with_reducible apply State.Sound.countSat
    | with_reducible apply State.Sound.fstatChanged | with_reducible apply State.Sound.ite | with_reducible intro _

theorem State.Sound.event {s : State} {fn : FnId} {type src detail : Nat} {data : List Byte} (h : s.Sound) : (State.event s fn type src detail data).Sound := by
  unfold Sys2Proof.Machine.State.event
  repeat' first
    | with_reducible assumption | with_reducible apply State.Sound.queueEvent

theorem State.Sound.complete {s : State} {src : CmdSrc} {c : CompCode} {reason : Nat} {flags : Nat} {data : List Byte} {dt : Nat} (h : s.Sound) : (State.complete s src c reason flags data dt).Sound := by
  unfold Sys2Proof.Machine.State.complete
  repeat' first
    | with_reducible assumption | with_reducible apply State.Sound.setFn

end Sys2Proof.Machine
end

