-- ==== Sys2Proof/Laws/Sound/Legs.lean ====
section
/-! SUPPORT. Soundness is kept by every operation and every meaning of Machine/Legs.lean. -/

namespace Sys2Proof.Machine

theorem State.Sound.setLeg {s : State} {n : AxId} {l : Leg} {x : LegHw} (h : s.Sound) (hx : s.Sound → x.single = true) :
    (State.setLeg s n l x).Sound := by
  unfold State.setLeg
  apply State.Sound.setAx h
  intro h
  exact Axis.SoundRec.parts (Axis.sound_win (h.ax n)) (Axis.sound_coef (h.ax n)) (legs_set (Axis.sound_legs (h.ax n)) (hx h))

theorem State.Sound.leg {s : State} {n : AxId} {l : Leg} (h : s.Sound) : (s.leg n l).single = true :=
  legs_get (Axis.sound_legs (h.ax n)) _ _

theorem State.Sound.putLeg {s : State} {n : AxId} {l : Leg} {y : LegHw} (h : s.Sound) (hx : s.Sound → y.single = true) :
    (State.putLeg s n l y).Sound := by
  unfold State.putLeg
  dsimp only
  split
  · exact State.Sound.setLeg h hx
  · apply State.Sound.setAx
    · exact State.Sound.setLeg h hx
    · intro h; exact h.ax n

theorem State.Sound.turnOn {s : State} {n : AxId} {l : Leg} (h : s.Sound) : (State.turnOn s n l).Sound := by
  unfold Sys2Proof.Machine.State.turnOn
  repeat' first
    | with_reducible assumption | with_reducible apply State.Sound.setLeg | with_reducible apply State.Sound.putLeg
    | with_reducible apply State.Sound.ite | with_reducible intro _ | simp only [LegHw.single_mk]
    | with_reducible apply State.Sound.leg | with_reducible apply LegHw.SingleRec.same
    | with_reducible apply LegHw.SingleRec.low_off

theorem State.Sound.turnOff {s : State} {n : AxId} {l : Leg} (h : s.Sound) : (State.turnOff s n l).Sound := by
  unfold Sys2Proof.Machine.State.turnOff
  repeat' first
    | with_reducible assumption | with_reducible apply State.Sound.putLeg | with_reducible apply State.Sound.ite
    | with_reducible intro _ | simp only [LegHw.single_mk] | with_reducible apply LegHw.SingleRec.high_off | split
    | exact LegHw.SingleRec.not_high (by with_reducible assumption)

theorem State.Sound.driveLeg {now : Nat} {n : AxId} {s : State} {l : Leg} (h : s.Sound) : (State.driveLeg now n s l).Sound := by
  unfold Sys2Proof.Machine.State.driveLeg
  repeat' first
    | with_reducible assumption | with_reducible apply State.Sound.putLeg | with_reducible apply State.Sound.turnOn
    | with_reducible apply State.Sound.ite | with_reducible intro _ | simp only [LegHw.single_mk]
    | with_reducible apply LegHw.SingleRec.high_off | split | exact LegHw.SingleRec.not_high (by with_reducible assumption)
    | exact LegHw.SingleRec.idle (by with_reducible assumption)

theorem State.Sound.driveLegs {s : State} {n : AxId} {now : Nat} (h : s.Sound) : (State.driveLegs s n now).Sound := by
  unfold Sys2Proof.Machine.State.driveLegs
  repeat' first
    | with_reducible assumption | with_reducible apply State.Sound.forAll | with_reducible apply State.Sound.driveLeg

theorem State.Sound.dropStep {s : State} {n : AxId} (h : s.Sound) : (State.dropStep s n).Sound := by
  unfold Sys2Proof.Machine.State.dropStep
  repeat' first
    | with_reducible assumption | with_reducible apply State.Sound.setWord | with_reducible apply State.Sound.setBit
    | with_reducible apply State.Sound.ite | with_reducible intro _

theorem State.Sound.refreshAxis {s : State} {n : AxId} (h : s.Sound) : (State.refreshAxis s n).Sound := by
  unfold Sys2Proof.Machine.State.refreshAxis
  repeat' first
    | with_reducible assumption | with_reducible apply State.Sound.driveLegs | with_reducible apply State.Sound.setAx
    | with_reducible apply State.Sound.setFld | with_reducible apply State.Sound.setBit
    | with_reducible apply State.Sound.dropStep | with_reducible apply State.Sound.ite | with_reducible apply State.Sound.ax
    | with_reducible intro _ | with_reducible apply Axis.SoundRec.upd | simp only [Axis.sound_mk]

end Sys2Proof.Machine
end

