-- ==== Sys2Proof/Laws/Sound/EngineOps.lean ====
section
/-! SUPPORT. Soundness is kept by every operation and every meaning of Machine/EngineOps.lean. -/

namespace Sys2Proof.Machine

theorem State.Sound.setEngState {s : State} {e : EngId} {x : EngState} (h : s.Sound) : (State.setEngState s e x).Sound := by
  unfold Sys2Proof.Machine.State.setEngState
  repeat' first
    | with_reducible assumption | with_reducible apply State.Sound.setFld

theorem State.Sound.Engine_write {x : Engine} {b1 : Bool} {d : EngDest} (h : x.sound = true) : (Engine.write x b1 d).sound = true := by
  unfold Sys2Proof.Machine.Engine.write
  repeat' first
    | with_reducible assumption | with_reducible apply Engine.sound_ite | with_reducible intro _
    | with_reducible apply Engine.SoundRec.upd | simp only [Engine.sound_mk] | split

theorem State.Sound.Engine_writeCond {x : Engine} {b1 : Bool} {c : BitVec 4} (h : x.sound = true) : (Engine.writeCond x b1 c).sound = true := by
  unfold Sys2Proof.Machine.Engine.writeCond
  repeat' first
    | with_reducible assumption | with_reducible apply Engine.sound_ite | with_reducible intro _
    | with_reducible apply Engine.SoundRec.upd | simp only [Engine.sound_mk]

theorem State.Sound.Engine_setSticky {x : Engine} {b1 : Bool} {t : Sticky} (h : x.sound = true) : (Engine.setSticky x b1 t).sound = true := by
  unfold Sys2Proof.Machine.Engine.setSticky
  repeat' first
    | with_reducible assumption | with_reducible apply Engine.sound_ite | with_reducible intro _
    | with_reducible apply Engine.SoundRec.upd | simp only [Engine.sound_mk]

theorem State.Sound.Engine_land {x : Engine} (h : x.sound = true) : (Engine.land x).sound = true := by
  unfold Sys2Proof.Machine.Engine.land
  repeat' first
    | with_reducible assumption | with_reducible apply State.Sound.Engine_write
    | with_reducible apply State.Sound.Engine_writeCond | with_reducible apply State.Sound.Engine_setSticky
    | with_reducible apply Engine.sound_foldl | with_reducible intro _ | with_reducible apply Engine.SoundRec.upd
    | simp only [Engine.sound_mk] | split

theorem State.Sound.engineFault {s : State} {e : EngId} {c : EngFault} {pc : BitVec 12} (h : s.Sound) : (State.engineFault s e c pc).Sound := by
  unfold Sys2Proof.Machine.State.engineFault
  repeat' first
    | with_reducible assumption | with_reducible apply State.Sound.setFld | with_reducible apply State.Sound.setBit
    | with_reducible apply State.Sound.setEngState | with_reducible apply State.Sound.setEng
    | with_reducible apply State.Sound.eng | with_reducible intro _ | with_reducible apply Engine.SoundRec.upd
    | simp only [Engine.sound_mk]

theorem State.Sound.Engine_pass {x : Engine} (h : x.sound = true) : (Engine.pass x).sound = true := by
  unfold Sys2Proof.Machine.Engine.pass
  repeat' first
    | with_reducible assumption | with_reducible apply State.Sound.Engine_land | with_reducible apply Engine.SoundRec.upd
    | simp only [Engine.sound_mk]

theorem State.Sound.endStep {s : State} {e : EngId} {pc : BitVec 12} (h : s.Sound) : (State.endStep s e pc).Sound := by
  unfold Sys2Proof.Machine.State.endStep
  repeat' first
    | with_reducible assumption | with_reducible apply State.Sound.engineFault | with_reducible apply State.Sound.setEng
    | with_reducible apply State.Sound.Engine_pass | with_reducible apply State.Sound.ite | with_reducible apply State.Sound.eng
    | with_reducible intro _

theorem State.Sound.steps {s : State} {e : EngId} {pc : BitVec 12} {n : Nat} (h : s.Sound) : (State.steps s e pc n).Sound := by
  induction n generalizing s with
  | zero => exact h
  | succ n ih =>
    unfold State.steps
    dsimp only
    split
    · exact ih (State.Sound.endStep h)
    · exact State.Sound.endStep h

theorem State.Sound.Engine_advance {x : Engine} (h : x.sound = true) : (Engine.advance x).sound = true := by
  unfold Sys2Proof.Machine.Engine.advance
  repeat' first
    | with_reducible assumption | with_reducible apply Engine.SoundRec.upd | simp only [Engine.sound_mk]

theorem State.Sound.Engine_launch {x : Engine} {rs : List Res_} (h : x.sound = true) : (Engine.launch x rs).sound = true := by
  unfold Sys2Proof.Machine.Engine.launch
  repeat' first
    | with_reducible assumption | with_reducible apply Engine.SoundRec.upd | simp only [Engine.sound_mk]

theorem State.Sound.finishSlot {s : State} {e : EngId} (h : s.Sound) : (State.finishSlot s e).Sound := by
  unfold Sys2Proof.Machine.State.finishSlot
  repeat' first
    | with_reducible assumption | with_reducible apply State.Sound.steps

theorem State.Sound.passSteps {s : State} {e : EngId} {pc : BitVec 12} {n : Nat} {wait : Option (BitVec 12)} (h : s.Sound) : (State.passSteps s e pc n wait).Sound := by
  unfold Sys2Proof.Machine.State.passSteps
  repeat' first
    | with_reducible assumption | with_reducible apply State.Sound.setEng | with_reducible apply State.Sound.steps
    | with_reducible apply State.Sound.ite | with_reducible apply State.Sound.eng | with_reducible intro _
    | with_reducible apply Engine.SoundRec.upd | simp only [Engine.sound_mk]

theorem State.Sound.issue {s : State} {e : EngId} {f : State → Engine → Issue} (h : s.Sound)
    (hf : ∀ (s : State) (x : Engine), s.Sound → x.sound = true → (f s x).Ok) : (State.issue s e f).Sound := by
  unfold State.issue
  have h1 : (s.finishSlot e).Sound := State.Sound.finishSlot h
  have ok := hf (s.finishSlot e) ((s.finishSlot e).eng e) h1 (h1.eng e)
  revert h1 ok
  generalize s.finishSlot e = u
  intro h1 ok
  split
  · exact h
  · dsimp only
    split
    · exact State.Sound.engineFault h1
    · split
      · exact h1
      · exact State.Sound.engineFault h1
      · split
        · exact State.Sound.engineFault h1
        · exact h1.setEng fun h => h.eng e
      · rename_i heq
        rw [heq] at ok
        replace ok : State.Sound _ := ok
        split
        · exact State.Sound.engineFault h1
        · apply State.Sound.passSteps
          apply State.Sound.setEng ok
          intro h
          split
          · exact State.Sound.Engine_launch (rs := ‹_›) (h.eng e)
          · exact State.Sound.Engine_advance (State.Sound.Engine_launch (h.eng e))

theorem State.Sound.issueRes {s : State} {e : EngId} {f : EngBank → Bool → List Res_} (h : s.Sound) : (State.issueRes s e f).Sound := by
  unfold Sys2Proof.Machine.State.issueRes
  repeat' first
    | with_reducible assumption | with_reducible apply State.Sound.issue | with_reducible apply Issue.ok_done
    | with_reducible intro _

theorem State.Sound.commit {s : State} {e : EngId} {tag : BitVec 16} (h : s.Sound) : (State.commit s e tag).Sound := by
  unfold Sys2Proof.Machine.State.commit
  repeat' first
    | with_reducible assumption | with_reducible apply State.Sound.countSat | with_reducible apply State.Sound.setAx
    | with_reducible apply State.Sound.ite | with_reducible apply State.Sound.ax | with_reducible intro _
    | with_reducible apply Axis.SoundRec.upd | simp only [Axis.sound_mk]

theorem State.Sound.portStore {s : State} {e : EngId} {o w v : Nat} (h : s.Sound) : (State.portStore s e o w v).Sound := by
  unfold Sys2Proof.Machine.State.portStore
  repeat' first
    | with_reducible assumption | with_reducible apply State.Sound.setEng | with_reducible apply State.Sound.commit
    | with_reducible apply State.Sound.ite | with_reducible apply State.Sound.eng | with_reducible intro _
    | with_reducible apply Engine.SoundRec.upd | simp only [Engine.sound_mk]

theorem State.Sound.windowStore {s : State} {n : AxId} {a w v : Nat} (h : s.Sound) : (State.windowStore s n a w v).Sound := by
  unfold Sys2Proof.Machine.State.windowStore
  repeat' first
    | with_reducible assumption | with_reducible apply State.Sound.setAx | with_reducible apply State.Sound.armPreload
    | with_reducible apply State.Sound.ite | with_reducible apply State.Sound.ax | with_reducible intro _
    | simp only [Axis.sound_mk] | with_reducible apply Axis.SoundRec.parts | with_reducible apply Axis.sound_win
    | with_reducible apply Axis.sound_coef | with_reducible apply Axis.sound_legs | with_reducible apply Mem.wf_foldl
    | with_reducible apply Mem.wf_putByte | split

theorem State.Sound.localStore {s : State} {e : EngId} {t : AccessTo} {w v : Nat} (h : s.Sound) : (State.localStore s e t w v).Sound := by
  unfold Sys2Proof.Machine.State.localStore
  repeat' first
    | with_reducible assumption | with_reducible apply State.Sound.setEng | with_reducible apply State.Sound.setBit
    | with_reducible apply State.Sound.windowStore | with_reducible apply State.Sound.portStore
    | with_reducible apply State.Sound.ite | with_reducible apply State.Sound.eng | with_reducible intro _
    | simp only [Engine.sound_mk] | with_reducible apply Engine.SoundRec.parts | with_reducible apply Engine.sound_dmem
    | with_reducible apply Engine.sound_imem | with_reducible apply Mem.wf_store | split

theorem State.Sound.longStore {s : State} {e : EngId} {t : LongTarget} {w v : Nat} (h : s.Sound) : (State.longStore s e t w v).Sound := by
  unfold Sys2Proof.Machine.State.longStore
  repeat' first
    | with_reducible assumption | with_reducible apply State.Sound.windowStore | with_reducible apply State.Sound.setBit
    | with_reducible apply State.Sound.ite | with_reducible intro _ | simp only [State.sound_mk]
    | with_reducible apply State.SoundRec.parts | with_reducible apply State.Sound.regs | with_reducible apply State.Sound.force
    | with_reducible apply State.Sound.shmem | with_reducible apply State.Sound.engines | with_reducible apply State.Sound.axes
    | with_reducible apply State.Sound.slots | with_reducible apply Mem.wf_store | split

theorem State.Sound.raiseEvent {s : State} {e : EngId} {k : EvKind} {src : BitVec 16} {upd : PortBlock → PortBlock} (h : s.Sound) : (State.raiseEvent s e k src upd).Sound := by
  unfold Sys2Proof.Machine.State.raiseEvent
  repeat' first
    | with_reducible assumption | with_reducible apply State.Sound.setEng | with_reducible apply State.Sound.countSat
    | with_reducible apply State.Sound.ite | with_reducible apply State.Sound.eng | with_reducible intro _
    | with_reducible apply Engine.SoundRec.upd | simp only [Engine.sound_mk]

theorem State.Sound.raiseFor {s : State} {n : AxId} {e : EngId} {k : EvKind} {src : BitVec 16} {upd : PortBlock → PortBlock} (h : s.Sound) : (State.raiseFor s n e k src upd).Sound := by
  unfold Sys2Proof.Machine.State.raiseFor
  repeat' first
    | with_reducible assumption | with_reducible apply State.Sound.setEng | with_reducible apply State.Sound.raiseEvent
    | with_reducible apply State.Sound.ite | with_reducible apply State.Sound.eng | with_reducible intro _
    | with_reducible apply Engine.SoundRec.upd | simp only [Engine.sound_mk]

theorem State.Sound.newPeriod {s : State} {e : EngId} (h : s.Sound) : (State.newPeriod s e).Sound := by
  unfold Sys2Proof.Machine.State.newPeriod
  repeat' first
    | with_reducible assumption | with_reducible apply State.Sound.setEng | with_reducible apply State.Sound.raiseEvent
    | with_reducible apply State.Sound.eng | with_reducible intro _ | with_reducible apply Engine.SoundRec.upd
    | simp only [Engine.sound_mk] | split

theorem State.Sound.Engine_enter {x : Engine} {k : EvKind} (h : x.sound = true) : (Engine.enter x k).sound = true := by
  unfold Sys2Proof.Machine.Engine.enter
  repeat' first
    | with_reducible assumption | with_reducible apply Engine.SoundRec.upd | simp only [Engine.sound_mk]

end Sys2Proof.Machine
end

