-- ==== Sys2Proof/Laws/Sound/EngineIsa.lean ====
section
/-! SUPPORT. Soundness is kept by every operation and every meaning of Machine/EngineIsa.lean. -/

namespace Sys2Proof.Machine

theorem State.Sound.issueCtl {s : State} {e : EngId} {f : State → Engine → Issue} (h : s.Sound) (hf : ∀ (s : State) (x : Engine), s.Sound → x.sound = true → (f s x).Ok) : (State.issueCtl s e f).Sound := by
  unfold Sys2Proof.Machine.State.issueCtl
  repeat' first
    | with_reducible assumption | with_reducible apply hf | with_reducible apply State.Sound.issue
    | with_reducible apply Issue.ok_impossible | with_reducible apply Issue.ok_ite | with_reducible intro _

theorem State.Sound.execNop {e : EngId} {s : State} {out : State} (h : s.Sound) (ht : execNop e s = .next out) : out.Sound := by
  cases ht
  repeat' first
    | with_reducible assumption | with_reducible apply State.Sound.issueRes

theorem State.Sound.execBr {e : EngId} {c : Fin 16} {target : BitVec 12} {s : State} {out : State} (h : s.Sound) (ht : execBr e c target s = .next out) : out.Sound := by
  cases ht
  repeat' first
    | with_reducible assumption | with_reducible apply State.Sound.issueCtl | with_reducible apply Issue.ok_done
    | with_reducible apply Issue.ok_fault | with_reducible apply Issue.ok_ite | with_reducible intro _

theorem State.Sound.execJal {e : EngId} {d : PReg} {target : BitVec 12} {s : State} {out : State} (h : s.Sound) (ht : execJal e d target s = .next out) : out.Sound := by
  cases ht
  repeat' first
    | with_reducible assumption | with_reducible apply State.Sound.issueCtl | with_reducible apply Issue.ok_done
    | with_reducible intro _

theorem State.Sound.execJr {e : EngId} {a : PReg} {s : State} {out : State} (h : s.Sound) (ht : execJr e a s = .next out) : out.Sound := by
  cases ht
  repeat' first
    | with_reducible assumption | with_reducible apply State.Sound.issueCtl | with_reducible apply Issue.ok_done
    | with_reducible intro _

theorem State.Sound.execBdec {e : EngId} {a : PReg} {target : BitVec 12} {s : State} {out : State} (h : s.Sound) (ht : execBdec e a target s = .next out) : out.Sound := by
  cases ht
  repeat' first
    | with_reducible assumption | with_reducible apply State.Sound.issueCtl | with_reducible apply Issue.ok_done
    | with_reducible apply Issue.ok_ite | with_reducible intro _

theorem State.Sound.execRpt {e : EngId} {count : BitVec 8} {s : State} {out : State} (h : s.Sound) (ht : execRpt e count s = .next out) : out.Sound := by
  cases ht
  repeat' first
    | with_reducible assumption | with_reducible apply State.Sound.issueCtl | with_reducible apply State.Sound.setEng
    | with_reducible apply Issue.ok_done | with_reducible intro _ | with_reducible apply Engine.SoundRec.upd
    | simp only [Engine.sound_mk]

theorem State.Sound.noteHwm {s : State} {e : EngId} {k : EvKind} {n : Nat} (h : s.Sound) : (State.noteHwm s e k n).Sound := by
  unfold Sys2Proof.Machine.State.noteHwm
  repeat' first
    | with_reducible assumption | with_reducible apply State.Sound.setFld

theorem State.Sound.afterRete {s : State} {e : EngId} (h : s.Sound) : (State.afterRete s e).Sound := by
  unfold Sys2Proof.Machine.State.afterRete
  repeat' first
    | with_reducible assumption | with_reducible apply State.Sound.setEng | with_reducible apply State.Sound.Engine_enter
    | with_reducible apply State.Sound.setBit | with_reducible apply State.Sound.eng | with_reducible intro _
    | with_reducible apply Engine.SoundRec.upd | simp only [Engine.sound_mk] | split

theorem State.Sound.execRete {e : EngId} {s : State} {out : State} (h : s.Sound) (ht : execRete e s = .next out) : out.Sound := by
  cases ht
  repeat' first
    | with_reducible assumption | with_reducible apply State.Sound.engineFault | with_reducible apply State.Sound.issueRes
    | with_reducible apply State.Sound.endStep | with_reducible apply State.Sound.Engine_pass
    | with_reducible apply State.Sound.setEng | with_reducible apply State.Sound.noteHwm
    | with_reducible apply State.Sound.afterRete | with_reducible apply State.Sound.ite | with_reducible apply Engine.sound_ite
    | with_reducible apply State.Sound.eng | with_reducible intro _ | with_reducible apply Engine.SoundRec.upd
    | simp only [Engine.sound_mk] | split

theorem State.Sound.execWait {e : EngId} {s : State} {out : State} (h : s.Sound) (ht : execWait e s = .next out) : out.Sound := by
  cases ht
  repeat' first
    | with_reducible assumption | with_reducible apply State.Sound.issueCtl | with_reducible apply Issue.ok_done
    | with_reducible intro _

theorem State.Sound.execMfsw {e : EngId} {d : HReg} {s : State} {out : State} (h : s.Sound) (ht : execMfsw e d s = .next out) : out.Sound := by
  cases ht
  repeat' first
    | with_reducible assumption | with_reducible apply State.Sound.issue | with_reducible apply Issue.ok_done
    | with_reducible intro _

theorem State.Sound.execMtsw {e : EngId} {a : HReg} {s : State} {out : State} (h : s.Sound) (ht : execMtsw e a s = .next out) : out.Sound := by
  cases ht
  repeat' first
    | with_reducible assumption | with_reducible apply State.Sound.issueRes

theorem State.Sound.execSatm {e : EngId} {b : Bool} {s : State} {out : State} (h : s.Sound) (ht : execSatm e b s = .next out) : out.Sound := by
  cases ht
  repeat' first
    | with_reducible assumption | with_reducible apply State.Sound.issueRes

theorem State.Sound.execMfs {e : EngId} {d : PReg} {sr : BitVec 5} {s : State} {out : State} (h : s.Sound) (ht : execMfs e d sr s = .next out) : out.Sound := by
  cases ht
  repeat' first
    | with_reducible assumption | with_reducible apply State.Sound.issue | with_reducible apply Issue.ok_done
    | with_reducible apply Issue.ok_fault | with_reducible apply Issue.ok_ite | with_reducible intro _ | simp only [] | split

theorem State.Sound.execMts {e : EngId} {sr : BitVec 5} {a : PReg} {s : State} {out : State} (h : s.Sound) (ht : execMts e sr a s = .next out) : out.Sound := by
  cases ht
  repeat' first
    | with_reducible assumption | with_reducible apply State.Sound.issue | with_reducible apply Issue.ok_done
    | with_reducible apply Issue.ok_fault | with_reducible apply Issue.ok_ite | with_reducible intro _ | simp only [] | split

theorem State.Sound.execAdd {e : EngId} {d a b : HReg} {s : State} {out : State} (h : s.Sound) (ht : execAdd e d a b s = .next out) : out.Sound := by
  cases ht
  repeat' first
    | with_reducible assumption | with_reducible apply State.Sound.issueRes

theorem State.Sound.execSub {e : EngId} {d a b : HReg} {s : State} {out : State} (h : s.Sound) (ht : execSub e d a b s = .next out) : out.Sound := by
  cases ht
  repeat' first
    | with_reducible assumption | with_reducible apply State.Sound.issueRes

theorem State.Sound.execMin {e : EngId} {d a b : HReg} {s : State} {out : State} (h : s.Sound) (ht : execMin e d a b s = .next out) : out.Sound := by
  cases ht
  repeat' first
    | with_reducible assumption | with_reducible apply State.Sound.issueRes

theorem State.Sound.execMax {e : EngId} {d a b : HReg} {s : State} {out : State} (h : s.Sound) (ht : execMax e d a b s = .next out) : out.Sound := by
  cases ht
  repeat' first
    | with_reducible assumption | with_reducible apply State.Sound.issueRes

theorem State.Sound.execAnd {e : EngId} {d a b : HReg} {s : State} {out : State} (h : s.Sound) (ht : execAnd e d a b s = .next out) : out.Sound := by
  cases ht
  repeat' first
    | with_reducible assumption | with_reducible apply State.Sound.issueRes

theorem State.Sound.execOr {e : EngId} {d a b : HReg} {s : State} {out : State} (h : s.Sound) (ht : execOr e d a b s = .next out) : out.Sound := by
  cases ht
  repeat' first
    | with_reducible assumption | with_reducible apply State.Sound.issueRes

theorem State.Sound.execXor {e : EngId} {d a b : HReg} {s : State} {out : State} (h : s.Sound) (ht : execXor e d a b s = .next out) : out.Sound := by
  cases ht
  repeat' first
    | with_reducible assumption | with_reducible apply State.Sound.issueRes

theorem State.Sound.execAndn {e : EngId} {d a b : HReg} {s : State} {out : State} (h : s.Sound) (ht : execAndn e d a b s = .next out) : out.Sound := by
  cases ht
  repeat' first
    | with_reducible assumption | with_reducible apply State.Sound.issueRes

theorem State.Sound.execMov {e : EngId} {d a : HReg} {s : State} {out : State} (h : s.Sound) (ht : execMov e d a s = .next out) : out.Sound := by
  cases ht
  repeat' first
    | with_reducible assumption | with_reducible apply State.Sound.issueRes

theorem State.Sound.execNeg {e : EngId} {d a : HReg} {s : State} {out : State} (h : s.Sound) (ht : execNeg e d a s = .next out) : out.Sound := by
  cases ht
  repeat' first
    | with_reducible assumption | with_reducible apply State.Sound.issueRes

theorem State.Sound.execAbs {e : EngId} {d a : HReg} {s : State} {out : State} (h : s.Sound) (ht : execAbs e d a s = .next out) : out.Sound := by
  cases ht
  repeat' first
    | with_reducible assumption | with_reducible apply State.Sound.issueRes

theorem State.Sound.execNot {e : EngId} {d a : HReg} {s : State} {out : State} (h : s.Sound) (ht : execNot e d a s = .next out) : out.Sound := by
  cases ht
  repeat' first
    | with_reducible assumption | with_reducible apply State.Sound.issueRes

theorem State.Sound.execAddi {e : EngId} {d a : HReg} {imm : BitVec 14} {s : State} {out : State} (h : s.Sound) (ht : execAddi e d a imm s = .next out) : out.Sound := by
  cases ht
  repeat' first
    | with_reducible assumption | with_reducible apply State.Sound.issueRes

theorem State.Sound.execLih {e : EngId} {d : HReg} {imm : BitVec 16} {s : State} {out : State} (h : s.Sound) (ht : execLih e d imm s = .next out) : out.Sound := by
  cases ht
  repeat' first
    | with_reducible assumption | with_reducible apply State.Sound.issueRes

theorem State.Sound.execShl {e : EngId} {d a : HReg} {n : ShiftAmt} {s : State} {out : State} (h : s.Sound) (ht : execShl e d a n s = .next out) : out.Sound := by
  cases ht
  repeat' first
    | with_reducible assumption | with_reducible apply State.Sound.issueRes

theorem State.Sound.execAsr {e : EngId} {d a : HReg} {n : ShiftAmt} {s : State} {out : State} (h : s.Sound) (ht : execAsr e d a n s = .next out) : out.Sound := by
  cases ht
  repeat' first
    | with_reducible assumption | with_reducible apply State.Sound.issueRes

theorem State.Sound.execLsr {e : EngId} {d a : HReg} {n : ShiftAmt} {s : State} {out : State} (h : s.Sound) (ht : execLsr e d a n s = .next out) : out.Sound := by
  cases ht
  repeat' first
    | with_reducible assumption | with_reducible apply State.Sound.issueRes

theorem State.Sound.execCmp {e : EngId} {a b : HReg} {s : State} {out : State} (h : s.Sound) (ht : execCmp e a b s = .next out) : out.Sound := by
  cases ht
  repeat' first
    | with_reducible assumption | with_reducible apply State.Sound.issueRes

theorem State.Sound.execCmpi {e : EngId} {a : HReg} {imm : BitVec 14} {s : State} {out : State} (h : s.Sound) (ht : execCmpi e a imm s = .next out) : out.Sound := by
  cases ht
  repeat' first
    | with_reducible assumption | with_reducible apply State.Sound.issueRes

theorem State.Sound.execNorm {e : EngId} {d a : HReg} {s : State} {out : State} (h : s.Sound) (ht : execNorm e d a s = .next out) : out.Sound := by
  cases ht
  repeat' first
    | with_reducible assumption | with_reducible apply State.Sound.issue | with_reducible apply Issue.ok_done
    | with_reducible apply Issue.ok_fault | with_reducible apply Issue.ok_ite | with_reducible intro _

theorem State.Sound.execNorma {e : EngId} {d : HReg} {a : AReg} {s : State} {out : State} (h : s.Sound) (ht : execNorma e d a s = .next out) : out.Sound := by
  cases ht
  repeat' first
    | with_reducible assumption | with_reducible apply State.Sound.issueRes

theorem State.Sound.execMpy {e : EngId} {d a b : HReg} {s : State} {out : State} (h : s.Sound) (ht : execMpy e d a b s = .next out) : out.Sound := by
  cases ht
  repeat' first
    | with_reducible assumption | with_reducible apply State.Sound.issueRes

theorem State.Sound.execMac {e : EngId} {d : AReg} {a b : HReg} {s : State} {out : State} (h : s.Sound) (ht : execMac e d a b s = .next out) : out.Sound := by
  cases ht
  repeat' first
    | with_reducible assumption | with_reducible apply State.Sound.issueRes

theorem State.Sound.execMsu {e : EngId} {d : AReg} {a b : HReg} {s : State} {out : State} (h : s.Sound) (ht : execMsu e d a b s = .next out) : out.Sound := by
  cases ht
  repeat' first
    | with_reducible assumption | with_reducible apply State.Sound.issueRes

theorem State.Sound.execMpya {e : EngId} {d : AReg} {a b : HReg} {s : State} {out : State} (h : s.Sound) (ht : execMpya e d a b s = .next out) : out.Sound := by
  cases ht
  repeat' first
    | with_reducible assumption | with_reducible apply State.Sound.issueRes

theorem State.Sound.memMac {sub : Bool} {e : EngId} {d : AReg} {a b : PReg} {pair : Bool} {s : State} (h : s.Sound) : (memMac sub e d a b pair s).Sound := by
  unfold Sys2Proof.Machine.memMac
  repeat' first
    | with_reducible assumption | with_reducible apply State.Sound.issue | with_reducible apply Issue.ok_done
    | with_reducible apply Issue.ok_fault | with_reducible intro _ | simp only [] | split

theorem State.Sound.execMacm {e : EngId} {d : AReg} {a b : PReg} {pair : Bool} {s : State} {out : State} (h : s.Sound) (ht : execMacm e d a b pair s = .next out) : out.Sound := by
  cases ht
  repeat' first
    | with_reducible assumption | with_reducible apply State.Sound.memMac

theorem State.Sound.execMsum {e : EngId} {d : AReg} {a b : PReg} {pair : Bool} {s : State} {out : State} (h : s.Sound) (ht : execMsum e d a b pair s = .next out) : out.Sound := by
  cases ht
  repeat' first
    | with_reducible assumption | with_reducible apply State.Sound.issue | with_reducible apply State.Sound.memMac
    | with_reducible apply State.Sound.ite | with_reducible apply Issue.ok_fault | with_reducible intro _

theorem State.Sound.execAdda {e : EngId} {d a b : AReg} {s : State} {out : State} (h : s.Sound) (ht : execAdda e d a b s = .next out) : out.Sound := by
  cases ht
  repeat' first
    | with_reducible assumption | with_reducible apply State.Sound.issueRes

theorem State.Sound.execSuba {e : EngId} {d a b : AReg} {s : State} {out : State} (h : s.Sound) (ht : execSuba e d a b s = .next out) : out.Sound := by
  cases ht
  repeat' first
    | with_reducible assumption | with_reducible apply State.Sound.issueRes

theorem State.Sound.execMova {e : EngId} {d a : AReg} {s : State} {out : State} (h : s.Sound) (ht : execMova e d a s = .next out) : out.Sound := by
  cases ht
  repeat' first
    | with_reducible assumption | with_reducible apply State.Sound.issueRes

theorem State.Sound.execLdah {e : EngId} {d : AReg} {a : HReg} {s : State} {out : State} (h : s.Sound) (ht : execLdah e d a s = .next out) : out.Sound := by
  cases ht
  repeat' first
    | with_reducible assumption | with_reducible apply State.Sound.issueRes

theorem State.Sound.execClra {e : EngId} {d : AReg} {s : State} {out : State} (h : s.Sound) (ht : execClra e d s = .next out) : out.Sound := by
  cases ht
  repeat' first
    | with_reducible assumption | with_reducible apply State.Sound.issueRes

theorem State.Sound.execNega {e : EngId} {d a : AReg} {s : State} {out : State} (h : s.Sound) (ht : execNega e d a s = .next out) : out.Sound := by
  cases ht
  repeat' first
    | with_reducible assumption | with_reducible apply State.Sound.issueRes

theorem State.Sound.execAbsa {e : EngId} {d a : AReg} {s : State} {out : State} (h : s.Sound) (ht : execAbsa e d a s = .next out) : out.Sound := by
  cases ht
  repeat' first
    | with_reducible assumption | with_reducible apply State.Sound.issueRes

theorem State.Sound.execSha {e : EngId} {d a : AReg} {sh : BitVec 6} {s : State} {out : State} (h : s.Sound) (ht : execSha e d a sh s = .next out) : out.Sound := by
  cases ht
  repeat' first
    | with_reducible assumption | with_reducible apply State.Sound.issueRes

theorem State.Sound.execExth {e : EngId} {d : HReg} {a : AReg} {sh : BitVec 5} {s : State} {out : State} (h : s.Sound) (ht : execExth e d a sh s = .next out) : out.Sound := by
  cases ht
  repeat' first
    | with_reducible assumption | with_reducible apply State.Sound.issueRes

theorem State.Sound.execCmpa {e : EngId} {a b : AReg} {s : State} {out : State} (h : s.Sound) (ht : execCmpa e a b s = .next out) : out.Sound := by
  cases ht
  repeat' first
    | with_reducible assumption | with_reducible apply State.Sound.issueRes

theorem State.Sound.execMovph {e : EngId} {d : PReg} {a : HReg} {s : State} {out : State} (h : s.Sound) (ht : execMovph e d a s = .next out) : out.Sound := by
  cases ht
  repeat' first
    | with_reducible assumption | with_reducible apply State.Sound.issueRes

theorem State.Sound.execMovhp {e : EngId} {d : HReg} {a : PReg} {s : State} {out : State} (h : s.Sound) (ht : execMovhp e d a s = .next out) : out.Sound := by
  cases ht
  repeat' first
    | with_reducible assumption | with_reducible apply State.Sound.issueRes

theorem State.Sound.execPadd {e : EngId} {d a : PReg} {c : Bool} {off : BitVec 13} {s : State} {out : State} (h : s.Sound) (ht : execPadd e d a c off s = .next out) : out.Sound := by
  cases ht
  repeat' first
    | with_reducible assumption | with_reducible apply State.Sound.issue | with_reducible apply Issue.ok_done
    | with_reducible intro _

theorem State.Sound.execPli {e : EngId} {d : PReg} {imm : BitVec 16} {s : State} {out : State} (h : s.Sound) (ht : execPli e d imm s = .next out) : out.Sound := by
  cases ht
  repeat' first
    | with_reducible assumption | with_reducible apply State.Sound.issueRes

theorem State.Sound.execCmpp {e : EngId} {a b : PReg} {s : State} {out : State} (h : s.Sound) (ht : execCmpp e a b s = .next out) : out.Sound := by
  cases ht
  repeat' first
    | with_reducible assumption | with_reducible apply State.Sound.issueRes

theorem State.Sound.execFadd {e : EngId} {d a b : FReg} {s : State} {out : State} (h : s.Sound) (ht : execFadd e d a b s = .next out) : out.Sound := by
  cases ht
  repeat' first
    | with_reducible assumption | with_reducible apply State.Sound.issueRes

theorem State.Sound.execFsub {e : EngId} {d a b : FReg} {s : State} {out : State} (h : s.Sound) (ht : execFsub e d a b s = .next out) : out.Sound := by
  cases ht
  repeat' first
    | with_reducible assumption | with_reducible apply State.Sound.issueRes

theorem State.Sound.execFmul {e : EngId} {d a b : FReg} {s : State} {out : State} (h : s.Sound) (ht : execFmul e d a b s = .next out) : out.Sound := by
  cases ht
  repeat' first
    | with_reducible assumption | with_reducible apply State.Sound.issueRes

theorem State.Sound.execFmac {e : EngId} {d a b : FReg} {s : State} {out : State} (h : s.Sound) (ht : execFmac e d a b s = .next out) : out.Sound := by
  cases ht
  repeat' first
    | with_reducible assumption | with_reducible apply State.Sound.issueRes

theorem State.Sound.execFmsu {e : EngId} {d a b : FReg} {s : State} {out : State} (h : s.Sound) (ht : execFmsu e d a b s = .next out) : out.Sound := by
  cases ht
  repeat' first
    | with_reducible assumption | with_reducible apply State.Sound.issueRes

theorem State.Sound.execFmov {e : EngId} {d a : FReg} {s : State} {out : State} (h : s.Sound) (ht : execFmov e d a s = .next out) : out.Sound := by
  cases ht
  repeat' first
    | with_reducible assumption | with_reducible apply State.Sound.issueRes

theorem State.Sound.execFneg {e : EngId} {d a : FReg} {s : State} {out : State} (h : s.Sound) (ht : execFneg e d a s = .next out) : out.Sound := by
  cases ht
  repeat' first
    | with_reducible assumption | with_reducible apply State.Sound.issueRes

theorem State.Sound.execFabs {e : EngId} {d a : FReg} {s : State} {out : State} (h : s.Sound) (ht : execFabs e d a s = .next out) : out.Sound := by
  cases ht
  repeat' first
    | with_reducible assumption | with_reducible apply State.Sound.issueRes

theorem State.Sound.execFmin {e : EngId} {d a b : FReg} {s : State} {out : State} (h : s.Sound) (ht : execFmin e d a b s = .next out) : out.Sound := by
  cases ht
  repeat' first
    | with_reducible assumption | with_reducible apply State.Sound.issueRes

theorem State.Sound.execFmax {e : EngId} {d a b : FReg} {s : State} {out : State} (h : s.Sound) (ht : execFmax e d a b s = .next out) : out.Sound := by
  cases ht
  repeat' first
    | with_reducible assumption | with_reducible apply State.Sound.issueRes

theorem State.Sound.execFscl {e : EngId} {d a : FReg} {b : HReg} {s : State} {out : State} (h : s.Sound) (ht : execFscl e d a b s = .next out) : out.Sound := by
  cases ht
  repeat' first
    | with_reducible assumption | with_reducible apply State.Sound.issueRes

theorem State.Sound.execFrcp {e : EngId} {d a : FReg} {s : State} {out : State} (h : s.Sound) (ht : execFrcp e d a s = .next out) : out.Sound := by
  cases ht
  repeat' first
    | with_reducible assumption | with_reducible apply State.Sound.issueRes

theorem State.Sound.execFrsq {e : EngId} {d a : FReg} {s : State} {out : State} (h : s.Sound) (ht : execFrsq e d a s = .next out) : out.Sound := by
  cases ht
  repeat' first
    | with_reducible assumption | with_reducible apply State.Sound.issueRes

theorem State.Sound.execExp {e : EngId} {d : HReg} {a : FReg} {s : State} {out : State} (h : s.Sound) (ht : execExp e d a s = .next out) : out.Sound := by
  cases ht
  repeat' first
    | with_reducible assumption | with_reducible apply State.Sound.issueRes

theorem State.Sound.execCvt {e : EngId} {d a : Fin 16} {form : BitVec 4} {s : State} {out : State} (h : s.Sound) (ht : execCvt e d a form s = .next out) : out.Sound := by
  cases ht
  repeat' first
    | with_reducible assumption | with_reducible apply State.Sound.issue | with_reducible apply Issue.ok_done
    | with_reducible apply Issue.ok_fault | with_reducible intro _ | simp only [] | split

theorem State.Sound.execFcmp {e : EngId} {a b : FReg} {s : State} {out : State} (h : s.Sound) (ht : execFcmp e a b s = .next out) : out.Sound := by
  cases ht
  repeat' first
    | with_reducible assumption | with_reducible apply State.Sound.issueRes

theorem State.Sound.execFli {e : EngId} {d : FReg} {imm : BitVec 22} {s : State} {out : State} (h : s.Sound) (ht : execFli e d imm s = .next out) : out.Sound := by
  cases ht
  repeat' first
    | with_reducible assumption | with_reducible apply State.Sound.issueRes

theorem State.Sound.loadIns {s : State} {e : EngId} {m : MemArg} {w : Nat} {k : LongKind} {mk : Nat → EngDest} (h : s.Sound) : (State.loadIns s e m w k mk).Sound := by
  unfold Sys2Proof.Machine.State.loadIns
  repeat' first
    | with_reducible assumption | with_reducible apply State.Sound.issue | with_reducible apply Issue.ok_done
    | with_reducible apply Issue.ok_fault | with_reducible apply Issue.ok_long | with_reducible intro _ | simp only [] | split

theorem State.Sound.storeIns {s : State} {e : EngId} {m : MemArg} {w : Nat} {v : EngBank → Nat} (h : s.Sound) : (State.storeIns s e m w v).Sound := by
  unfold Sys2Proof.Machine.State.storeIns
  repeat' first
    | with_reducible assumption | with_reducible apply State.Sound.issue | with_reducible apply State.Sound.localStore
    | with_reducible apply Issue.ok_done | with_reducible apply Issue.ok_fault | with_reducible apply Issue.ok_long
    | with_reducible intro _ | simp only [] | split

theorem State.Sound.execLdh {e : EngId} {d : HReg} {m : MemArg} {s : State} {out : State} (h : s.Sound) (ht : execLdh e d m s = .next out) : out.Sound := by
  cases ht
  repeat' first
    | with_reducible assumption | with_reducible apply State.Sound.loadIns

theorem State.Sound.execLdp {e : EngId} {d : PReg} {m : MemArg} {s : State} {out : State} (h : s.Sound) (ht : execLdp e d m s = .next out) : out.Sound := by
  cases ht
  repeat' first
    | with_reducible assumption | with_reducible apply State.Sound.loadIns

theorem State.Sound.execLdf {e : EngId} {d : FReg} {m : MemArg} {s : State} {out : State} (h : s.Sound) (ht : execLdf e d m s = .next out) : out.Sound := by
  cases ht
  repeat' first
    | with_reducible assumption | with_reducible apply State.Sound.loadIns

theorem State.Sound.execLda {e : EngId} {d : AReg} {m : MemArg} {s : State} {out : State} (h : s.Sound) (ht : execLda e d m s = .next out) : out.Sound := by
  cases ht
  repeat' first
    | with_reducible assumption | with_reducible apply State.Sound.loadIns

theorem State.Sound.execSth {e : EngId} {b : HReg} {m : MemArg} {s : State} {out : State} (h : s.Sound) (ht : execSth e b m s = .next out) : out.Sound := by
  cases ht
  repeat' first
    | with_reducible assumption | with_reducible apply State.Sound.storeIns

theorem State.Sound.execStp {e : EngId} {b : PReg} {m : MemArg} {s : State} {out : State} (h : s.Sound) (ht : execStp e b m s = .next out) : out.Sound := by
  cases ht
  repeat' first
    | with_reducible assumption | with_reducible apply State.Sound.storeIns

theorem State.Sound.execStf {e : EngId} {b : FReg} {m : MemArg} {s : State} {out : State} (h : s.Sound) (ht : execStf e b m s = .next out) : out.Sound := by
  cases ht
  repeat' first
    | with_reducible assumption | with_reducible apply State.Sound.storeIns

theorem State.Sound.execSta {e : EngId} {b : AReg} {m : MemArg} {s : State} {out : State} (h : s.Sound) (ht : execSta e b m s = .next out) : out.Sound := by
  cases ht
  repeat' first
    | with_reducible assumption | with_reducible apply State.Sound.storeIns

end Sys2Proof.Machine
end

