-- ==== Sys2Proof/Laws/Sound/AxisOps.lean ====
section
/-! SUPPORT. Soundness is kept by every operation and every meaning of Machine/AxisOps.lean. -/

namespace Sys2Proof.Machine

theorem State.Sound.faultEvent {s : State} {n : AxId} {bit : Nat} (h : s.Sound) : (State.faultEvent s n bit).Sound := by
  unfold Sys2Proof.Machine.State.faultEvent
  repeat' first
    | with_reducible assumption | with_reducible apply State.Sound.forAll | with_reducible apply State.Sound.raiseFor
    | with_reducible apply State.Sound.ite | with_reducible intro _

theorem State.Sound.deliver {s : State} {src : CmdSrc} {cmd : HostCmd} {f : State → Nat → State} (h : s.Sound) (hf : ∀ (x0 : State) (x1 : Nat), x0.Sound → (f x0 x1).Sound) : (State.deliver s src cmd f).Sound := by
  unfold Sys2Proof.Machine.State.deliver
  repeat' first
    | with_reducible assumption | with_reducible apply hf | with_reducible apply State.Sound.ite | with_reducible intro _
    | with_reducible apply State.SoundRec.upd | simp only [State.sound_mk] | split

theorem State.Sound.doneAxis {s : State} {src : CmdSrc} {n : AxId} {d : Nat} {flags : Nat} (h : s.Sound) : (State.doneAxis s src n d flags).Sound := by
  unfold Sys2Proof.Machine.State.doneAxis
  repeat' first
    | with_reducible assumption | with_reducible apply State.Sound.complete

theorem State.Sound.cancelAxis {s : State} {src : CmdSrc} {n : AxId} {d : Nat} (h : s.Sound) : (State.cancelAxis s src n d).Sound := by
  unfold Sys2Proof.Machine.State.cancelAxis
  repeat' first
    | with_reducible assumption | with_reducible apply State.Sound.complete

theorem State.Sound.stateRecord {s : State} {n : AxId} {st : AxState} {cause : Nat} (h : s.Sound) : (State.stateRecord s n st cause).Sound := by
  unfold Sys2Proof.Machine.State.stateRecord
  repeat' first
    | with_reducible assumption | with_reducible apply State.Sound.event | with_reducible apply State.Sound.ite
    | with_reducible intro _

theorem State.Sound.putAxState {s : State} {n : AxId} {st : AxState} {cause : Nat} (h : s.Sound) : (State.putAxState s n st cause).Sound := by
  unfold Sys2Proof.Machine.State.putAxState
  repeat' first
    | with_reducible assumption | with_reducible apply State.Sound.setFld | with_reducible apply State.Sound.setAx
    | with_reducible apply State.Sound.stateRecord | with_reducible apply State.Sound.refreshAxis
    | with_reducible apply State.Sound.ax | with_reducible intro _ | with_reducible apply Axis.SoundRec.upd
    | simp only [Axis.sound_mk]

theorem State.Sound.refreshCams {s : State} (h : s.Sound) : (State.refreshCams s).Sound := by
  unfold Sys2Proof.Machine.State.refreshCams
  repeat' first
    | with_reducible assumption | with_reducible apply State.Sound.setFld

theorem State.Sound.setQueue {s : State} {n : AxId} {q : List QMove} (h : s.Sound) : (State.setQueue s n q).Sound := by
  unfold Sys2Proof.Machine.State.setQueue
  repeat' first
    | with_reducible assumption | with_reducible apply State.Sound.setMotion | with_reducible apply State.Sound.setFld
    | with_reducible apply State.Sound.refreshCams

theorem State.Sound.emptyQueue {s : State} {n : AxId} {c : CompCode} {reason : Nat} (h : s.Sound) : (State.emptyQueue s n c reason).Sound := by
  unfold Sys2Proof.Machine.State.emptyQueue
  repeat' first
    | with_reducible assumption | with_reducible apply State.Sound.forAll | with_reducible apply State.Sound.complete
    | with_reducible apply State.Sound.setQueue | with_reducible apply State.Sound.ite | with_reducible intro _

theorem State.Sound.dropMail {s : State} {n : AxId} (h : s.Sound) : (State.dropMail s n).Sound := by
  unfold Sys2Proof.Machine.State.dropMail
  repeat' first
    | with_reducible assumption | with_reducible apply State.Sound.setAx | with_reducible apply State.Sound.forAll
    | with_reducible apply State.Sound.complete | with_reducible apply State.Sound.setMotion
    | with_reducible apply State.Sound.ax | with_reducible intro _ | with_reducible apply Axis.SoundRec.upd
    | simp only [Axis.sound_mk]

theorem State.Sound.latchOff {s : State} {n : AxId} (h : s.Sound) : (State.latchOff s n).Sound := by
  unfold Sys2Proof.Machine.State.latchOff
  repeat' first
    | with_reducible assumption | with_reducible apply State.Sound.setFld | with_reducible apply State.Sound.setAx
    | with_reducible apply State.Sound.forAll | with_reducible apply State.Sound.setEng | with_reducible apply State.Sound.ax
    | with_reducible apply State.Sound.eng | with_reducible intro _ | with_reducible apply Axis.SoundRec.upd
    | with_reducible apply Engine.SoundRec.upd | simp only [Axis.sound_mk, Engine.sound_mk]

theorem State.Sound.enterOff {s : State} {n : AxId} {cause : Nat} (h : s.Sound) : (State.enterOff s n cause).Sound := by
  unfold Sys2Proof.Machine.State.enterOff
  repeat' first
    | with_reducible assumption | with_reducible apply State.Sound.dropMail | with_reducible apply State.Sound.latchOff
    | with_reducible apply State.Sound.putAxState

theorem State.Sound.enterIdle {s : State} {n : AxId} {cause : Nat} (h : s.Sound) : (State.enterIdle s n cause).Sound := by
  unfold Sys2Proof.Machine.State.enterIdle
  repeat' first
    | with_reducible assumption | with_reducible apply State.Sound.putAxState | with_reducible apply State.Sound.setBit
    | with_reducible apply State.Sound.setAx | with_reducible apply State.Sound.ax | with_reducible intro _
    | with_reducible apply Axis.SoundRec.upd | simp only [Axis.sound_mk]

theorem State.Sound.takePending {s : State} {n : AxId} (h : s.Sound) : (State.takePending s n).Sound := by
  unfold Sys2Proof.Machine.State.takePending
  repeat' first
    | with_reducible assumption | with_reducible apply Sparse.wf_foldl_put | with_reducible apply State.Sound.setAx
    | with_reducible apply State.Sound.setMotion | with_reducible apply State.Sound.setBit | with_reducible apply State.Sound.ax
    | with_reducible intro _ | simp only [Axis.sound_mk] | with_reducible apply Axis.SoundRec.parts
    | with_reducible apply Axis.sound_win | with_reducible apply Axis.sound_coef | with_reducible apply Axis.sound_legs

theorem State.Sound.Axis_addPending {x : Axis} {id : Nat} {v : BitVec 32} (h : x.sound = true) : (Axis.addPending x id v).sound = true := by
  unfold Sys2Proof.Machine.Axis.addPending
  repeat' first
    | with_reducible assumption | with_reducible apply Axis.SoundRec.upd | simp only [Axis.sound_mk]

theorem State.Sound.enterRun {s : State} {n : AxId} (h : s.Sound) : (State.enterRun s n).Sound := by
  unfold Sys2Proof.Machine.State.enterRun
  repeat' first
    | with_reducible assumption | with_reducible apply State.Sound.takePending | with_reducible apply State.Sound.putAxState
    | with_reducible apply State.Sound.setAx | with_reducible apply State.Sound.setMotion
    | with_reducible apply State.Sound.refreshAxis | with_reducible apply State.Sound.ax | with_reducible intro _
    | with_reducible apply Axis.SoundRec.upd | simp only [Axis.sound_mk]

theorem State.Sound.enterSafe {s : State} {n : AxId} {cause : Nat} (h : s.Sound) : (State.enterSafe s n cause).Sound := by
  unfold Sys2Proof.Machine.State.enterSafe
  repeat' first
    | with_reducible assumption | with_reducible apply State.Sound.emptyQueue | with_reducible apply State.Sound.setAx
    | with_reducible apply State.Sound.putAxState | with_reducible apply State.Sound.ax | with_reducible intro _
    | with_reducible apply Axis.SoundRec.upd | simp only [Axis.sound_mk]

theorem State.Sound.startStop {s : State} {n : AxId} {cat : StopCat} {cause : Nat} (h : s.Sound) : (State.startStop s n cat cause).Sound := by
  unfold Sys2Proof.Machine.State.startStop
  repeat' first
    | with_reducible assumption | with_reducible apply State.Sound.emptyQueue | with_reducible apply State.Sound.enterIdle
    | with_reducible apply State.Sound.putAxState | with_reducible apply State.Sound.setMotion
    | with_reducible apply State.Sound.setAx | with_reducible apply State.Sound.ite | with_reducible apply State.Sound.ax
    | with_reducible intro _ | with_reducible apply Axis.SoundRec.upd | simp only [Axis.sound_mk] | split

theorem State.Sound.requestStop {s : State} {n : AxId} {cat : StopCat} {cause at_ : Nat} (h : s.Sound) : (State.requestStop s n cat cause at_).Sound := by
  unfold Sys2Proof.Machine.State.requestStop
  repeat' first
    | with_reducible assumption | with_reducible apply State.Sound.setAx | with_reducible apply State.Sound.ax
    | with_reducible intro _ | with_reducible apply Axis.SoundRec.upd | simp only [Axis.sound_mk] | split

theorem State.Sound.refreshBrake {s : State} {b : BankId} (h : s.Sound) : (State.refreshBrake s b).Sound := by
  unfold Sys2Proof.Machine.State.refreshBrake
  repeat' first
    | with_reducible assumption | with_reducible apply State.Sound.setBnk | with_reducible apply State.Sound.setBit

theorem State.Sound.refreshPlug {s : State} {n : AxId} (h : s.Sound) : (State.refreshPlug s n).Sound := by
  unfold Sys2Proof.Machine.State.refreshPlug
  repeat' first
    | with_reducible assumption | with_reducible apply State.Sound.setFld | with_reducible apply State.Sound.setBit

theorem State.Sound.startRetry {s : State} {n : AxId} (h : s.Sound) : (State.startRetry s n).Sound := by
  unfold Sys2Proof.Machine.State.startRetry
  repeat' first
    | with_reducible assumption | with_reducible apply State.Sound.setPlug | with_reducible apply State.Sound.refreshPlug

theorem State.Sound.tryIdent {s : State} {n : AxId} (h : s.Sound) : (State.tryIdent s n).Sound := by
  unfold Sys2Proof.Machine.State.tryIdent
  repeat' first
    | with_reducible assumption | with_reducible apply State.Sound.setPlug | with_reducible apply State.Sound.refreshPlug
    | with_reducible apply State.Sound.refreshAxis | with_reducible apply State.Sound.ite | with_reducible intro _

theorem State.Sound.failIdent {s : State} {n : AxId} (h : s.Sound) : (State.failIdent s n).Sound := by
  unfold Sys2Proof.Machine.State.failIdent
  repeat' first
    | with_reducible assumption | with_reducible apply State.Sound.startRetry | with_reducible apply State.Sound.countSat
    | with_reducible apply State.Sound.event | with_reducible apply State.Sound.refreshAxis

theorem State.Sound.plugDemand {s : State} {n : AxId} (h : s.Sound) : (State.plugDemand s n).Sound := by
  unfold Sys2Proof.Machine.State.plugDemand
  repeat' first
    | with_reducible assumption | with_reducible apply State.Sound.failIdent | with_reducible apply State.Sound.tryIdent
    | with_reducible apply State.Sound.ite | with_reducible intro _

theorem State.Sound.enterAbsent {s : State} {n : AxId} (h : s.Sound) : (State.enterAbsent s n).Sound := by
  unfold Sys2Proof.Machine.State.enterAbsent
  repeat' first
    | with_reducible assumption | with_reducible apply State.Sound.emptyQueue | with_reducible apply State.Sound.putAxState
    | with_reducible apply State.Sound.startRetry | with_reducible apply State.Sound.dropStep

theorem State.Sound.demandsChanged {s : State} {n : AxId} {before : BitVec 8} {cause : Nat} (h : s.Sound) : (State.demandsChanged s n before cause).Sound := by
  unfold Sys2Proof.Machine.State.demandsChanged
  repeat' first
    | with_reducible assumption | with_reducible apply State.Sound.setAx | with_reducible apply State.Sound.faultEvent
    | with_reducible apply State.Sound.logFault | with_reducible apply State.Sound.refreshAxis
    | with_reducible apply State.Sound.refreshBrake | with_reducible apply State.Sound.plugDemand
    | with_reducible apply State.Sound.ite | with_reducible apply State.Sound.ax | with_reducible intro _
    | with_reducible apply Axis.SoundRec.upd | simp only [Axis.sound_mk] | split

theorem State.Sound.withDemands {s : State} {n : AxId} {cause : Nat} {f : Demands → Demands} (h : s.Sound) : (State.withDemands s n cause f).Sound := by
  unfold Sys2Proof.Machine.State.withDemands
  repeat' first
    | with_reducible assumption | with_reducible apply State.Sound.setAx | with_reducible apply State.Sound.demandsChanged
    | with_reducible apply State.Sound.ax | with_reducible intro _ | with_reducible apply Axis.SoundRec.upd
    | simp only [Axis.sound_mk]

theorem State.Sound.withDemandsOf {s : State} {ns : List AxId} {cause : Nat} {f : State → State} (h : s.Sound) (hf : ∀ (x0 : State), x0.Sound → (f x0).Sound) : (State.withDemandsOf s ns cause f).Sound := by
  unfold Sys2Proof.Machine.State.withDemandsOf
  repeat' first
    | with_reducible assumption | with_reducible apply hf | with_reducible apply State.Sound.forAll
    | with_reducible apply State.Sound.demandsChanged | with_reducible intro _

theorem State.Sound.loopFault {s : State} {n : AxId} {code : Nat} (h : s.Sound) : (State.loopFault s n code).Sound := by
  unfold Sys2Proof.Machine.State.loopFault
  repeat' first
    | with_reducible assumption | with_reducible apply State.Sound.setFld | with_reducible apply State.Sound.countSat
    | with_reducible apply State.Sound.setBit | with_reducible apply State.Sound.event | with_reducible apply State.Sound.setAx
    | with_reducible apply State.Sound.requestStop | with_reducible apply State.Sound.ite | with_reducible apply State.Sound.ax
    | with_reducible intro _ | with_reducible apply Axis.SoundRec.upd | simp only [Axis.sound_mk]

theorem State.Sound.applyCoef {s : State} {n : AxId} (h : s.Sound) : (State.applyCoef s n).Sound := by
  unfold Sys2Proof.Machine.State.applyCoef
  repeat' first
    | with_reducible assumption | with_reducible apply State.Sound.Axis_addPending | with_reducible apply State.Sound.setAx
    | with_reducible apply State.Sound.setBit | with_reducible apply State.Sound.complete | with_reducible apply State.Sound.ite
    | with_reducible apply Axis.sound_ite | with_reducible apply State.Sound.ax | with_reducible intro _
    | with_reducible apply Axis.SoundRec.upd | simp only [Axis.sound_mk] | with_reducible apply Axis.SoundRec.parts
    | with_reducible apply Axis.sound_win | with_reducible apply Axis.sound_coef | with_reducible apply Axis.sound_legs
    | with_reducible apply Sparse.wf_put | split

end Sys2Proof.Machine
end

