-- ==== Sys2Proof/Laws/Sound/Image.lean ====
section
/-! SUPPORT. Soundness is kept by every operation and every meaning of Machine/Image.lean. -/

namespace Sys2Proof.Machine

theorem State.Sound.Engine_load {x : Engine} {l : List Byte} (h : x.sound = true) : (Engine.load x l).sound = true := by
  unfold Sys2Proof.Machine.Engine.load
  repeat' first
    | with_reducible apply imageImem_wf | simp only [Engine.sound_mk] | with_reducible apply Engine.SoundRec.parts
    | with_reducible apply Mem.wf_empty | with_reducible apply Mem.wf_storeBytes

theorem State.Sound.Engine_zero {x : Engine} (h : x.sound = true) : (Engine.zero x).sound = true := by
  unfold Sys2Proof.Machine.Engine.zero
  repeat' first
    | simp only [Engine.sound_mk] | with_reducible apply Engine.SoundRec.parts | with_reducible apply Mem.wf_empty
    | with_reducible apply Sparse.wf_empty

theorem State.Sound.loadRegs {s : State} {e : EngId} (h : s.Sound) : (State.loadRegs s e).Sound := by
  unfold Sys2Proof.Machine.State.loadRegs
  repeat' first
    | with_reducible assumption | with_reducible apply State.Sound.setFld | with_reducible apply State.Sound.setBit
    | with_reducible apply State.Sound.setWord

theorem State.Sound.loadEngine {s : State} {e : EngId} {l : List Byte} {st : EngState} (h : s.Sound) : (State.loadEngine s e l st).Sound := by
  unfold Sys2Proof.Machine.State.loadEngine
  repeat' first
    | with_reducible assumption | with_reducible apply State.Sound.setEng | with_reducible apply State.Sound.Engine_load
    | with_reducible apply State.Sound.loadRegs | with_reducible apply State.Sound.setEngState
    | with_reducible apply State.Sound.eng | with_reducible intro _

end Sys2Proof.Machine
end

