-- ==== Sys2Proof/Laws/Sound/EngineEvents.lean ====
section
/-! SUPPORT. Soundness is kept by every operation and every meaning of Machine/EngineEvents.lean. -/

namespace Sys2Proof.Machine

theorem State.Sound.execResultLanding {e : EngId} {s : State} {out : State} (h : s.Sound) (ht : execResultLanding e s = .next out) : out.Sound := by
  cases ht
  repeat' first
    | with_reducible assumption | with_reducible apply State.Sound.steps | with_reducible apply State.Sound.ite
    | with_reducible intro _ | split

theorem State.Sound.hostTurn {s : State} (h : s.Sound) : (State.hostTurn s).Sound := by
  unfold Sys2Proof.Machine.State.hostTurn
  repeat' first
    | with_reducible assumption | with_reducible apply State.Sound.ite | with_reducible intro _ | simp only [State.sound_mk]
    | with_reducible apply State.SoundRec.parts | with_reducible apply State.Sound.regs | with_reducible apply State.Sound.force
    | with_reducible apply State.Sound.shmem | with_reducible apply State.Sound.engines | with_reducible apply State.Sound.axes
    | with_reducible apply State.Sound.slots | with_reducible apply Mem.wf_foldl | with_reducible apply Mem.wf_storeBytes

theorem State.Sound.execLongAccessGrant {e : EngId} {wait : Nat} {s : State} {out : State} (h : s.Sound) (ht : execLongAccessGrant e wait s = .next out) : out.Sound := by
  cases ht
  repeat' first
    | with_reducible assumption | with_reducible apply State.Sound.steps | with_reducible apply State.Sound.longStore
    | with_reducible apply State.Sound.Engine_launch | with_reducible apply State.Sound.setEng
    | with_reducible apply State.Sound.hostTurn | with_reducible apply State.Sound.ite | with_reducible apply State.Sound.eng
    | with_reducible intro _ | with_reducible apply State.SoundRec.upd | with_reducible apply Engine.SoundRec.upd
    | simp only [State.sound_mk, Engine.sound_mk] | split

theorem State.Sound.execStepLimit {e : EngId} {s : State} {out : State} (h : s.Sound) (ht : execStepLimit e s = .next out) : out.Sound := by
  cases ht
  repeat' first
    | with_reducible assumption | with_reducible apply State.Sound.steps | with_reducible apply State.Sound.ite
    | with_reducible intro _ | simp only [] | split

theorem State.Sound.tellGroup {s : State} {m : Nat} (h : s.Sound) : (State.tellGroup s m).Sound := by
  unfold Sys2Proof.Machine.State.tellGroup
  repeat' first
    | with_reducible assumption | with_reducible apply State.Sound.setEng | with_reducible apply State.Sound.ite
    | with_reducible apply State.Sound.eng | with_reducible intro _ | with_reducible apply Engine.SoundRec.upd
    | simp only [Engine.sound_mk] | split

theorem State.Sound.execEventRaise {e : EngId} {k : EvKind} {src : BitVec 16} {s : State} {out : State} (h : s.Sound) (ht : execEventRaise e k src s = .next out) : out.Sound := by
  cases ht
  repeat' first
    | with_reducible assumption | with_reducible apply State.Sound.raiseEvent | with_reducible apply State.Sound.ite
    | with_reducible intro _

theorem State.Sound.refreshPace {s : State} (h : s.Sound) : (State.refreshPace s).Sound := by
  unfold Sys2Proof.Machine.State.refreshPace
  repeat' first
    | with_reducible assumption | with_reducible apply State.Sound.setFld | with_reducible apply State.Sound.setBit
    | with_reducible apply State.Sound.event | with_reducible apply State.Sound.ite | with_reducible intro _

theorem State.Sound.execPaceMeasure {e : EngId} {count : Nat} {s : State} {out : State} (h : s.Sound) (ht : execPaceMeasure e count s = .next out) : out.Sound := by
  cases ht
  repeat' first
    | with_reducible assumption | with_reducible apply State.Sound.setEng | with_reducible apply State.Sound.setFld
    | with_reducible apply State.Sound.setBit | with_reducible apply State.Sound.refreshPace
    | with_reducible apply State.Sound.ite | with_reducible apply State.Sound.eng | with_reducible intro _
    | with_reducible apply State.SoundRec.upd | with_reducible apply Engine.SoundRec.upd
    | simp only [State.sound_mk, Engine.sound_mk] | split

end Sys2Proof.Machine
end

