-- ==== Sys2Proof/Laws/Sound/Monitor.lean ====
section
/-! SUPPORT. Soundness is kept by every operation and every meaning of Machine/Monitor.lean. -/

namespace Sys2Proof.Machine

theorem State.Sound.publishMon {s : State} (h : s.Sound) : (State.publishMon s).Sound := by
  unfold Sys2Proof.Machine.State.publishMon
  repeat' first
    | with_reducible assumption | with_reducible intro _ | simp only [State.sound_mk]
    | with_reducible apply State.SoundRec.parts | with_reducible apply State.Sound.regs | with_reducible apply State.Sound.force
    | with_reducible apply State.Sound.shmem | with_reducible apply State.Sound.engines | with_reducible apply State.Sound.axes
    | with_reducible apply State.Sound.slots | with_reducible apply Mem.wf_store

theorem State.Sound.refreshLevel {s : State} (h : s.Sound) : (State.refreshLevel s).Sound := by
  unfold Sys2Proof.Machine.State.refreshLevel
  repeat' first
    | with_reducible assumption | with_reducible apply State.Sound.setBit | with_reducible apply State.Sound.setFld
    | with_reducible apply State.Sound.forAll | with_reducible apply State.Sound.setMoni
    | with_reducible apply State.Sound.setMotion | with_reducible apply State.Sound.publishMon
    | with_reducible apply State.Sound.ite | with_reducible intro _

theorem State.Sound.refreshCapt {s : State} (h : s.Sound) : (State.refreshCapt s).Sound := by
  unfold Sys2Proof.Machine.State.refreshCapt
  repeat' first
    | with_reducible assumption | with_reducible apply State.Sound.forAll | with_reducible apply State.Sound.setBit
    | with_reducible intro _

theorem State.Sound.writeCapture {s : State} {n : AxId} {g : Nat} {id iq : BitVec 16} (h : s.Sound) : (State.writeCapture s n g id iq).Sound := by
  unfold Sys2Proof.Machine.State.writeCapture
  repeat' first
    | with_reducible assumption | with_reducible apply State.Sound.ite | with_reducible intro _ | simp only [State.sound_mk]
    | with_reducible apply State.SoundRec.parts | with_reducible apply State.Sound.regs | with_reducible apply State.Sound.force
    | with_reducible apply State.Sound.shmem | with_reducible apply State.Sound.engines | with_reducible apply State.Sound.axes
    | with_reducible apply State.Sound.slots | with_reducible apply Mem.wf_store

theorem State.Sound.feedBaseline {s : State} {n : AxId} {sum : F32} (h : s.Sound) : (State.feedBaseline s n sum).Sound := by
  unfold Sys2Proof.Machine.State.feedBaseline
  repeat' first
    | with_reducible assumption | with_reducible apply State.Sound.forAll | with_reducible apply State.Sound.doneAxis
    | with_reducible apply State.Sound.setMoni | with_reducible intro _

theorem State.Sound.refreshMonEng {s : State} (h : s.Sound) : (State.refreshMonEng s).Sound := by
  unfold Sys2Proof.Machine.State.refreshMonEng
  repeat' first
    | with_reducible assumption | with_reducible apply State.Sound.setFld

theorem State.Sound.loseMonitor {s : State} {n : AxId} (h : s.Sound) : (State.loseMonitor s n).Sound := by
  unfold Sys2Proof.Machine.State.loseMonitor
  repeat' first
    | with_reducible assumption | with_reducible apply State.Sound.setBit | with_reducible apply State.Sound.setMoni
    | with_reducible apply State.Sound.event | with_reducible apply State.Sound.refreshMonEng
    | with_reducible apply State.Sound.ite | with_reducible intro _

theorem State.Sound.loseMonEngine {s : State} {e : EngId} (h : s.Sound) : (State.loseMonEngine s e).Sound := by
  unfold Sys2Proof.Machine.State.loseMonEngine
  repeat' first
    | with_reducible assumption | with_reducible apply State.Sound.forAll | with_reducible apply State.Sound.loseMonitor

theorem State.Sound.execMonCfg {src : CmdSrc} {n : AxId} {enable monEng bandset nlog : BitVec 8} {rinj : BitVec 16} {lq rRef tRef : F32} {s : State} {out : State} (h : s.Sound) (ht : execMonCfg src n enable monEng bandset nlog rinj lq rRef tRef s = .next out) : out.Sound := by
  cases ht
  repeat' first
    | with_reducible assumption | with_reducible apply State.Sound.deliver | with_reducible apply State.Sound.setMoni
    | with_reducible apply State.Sound.setBit | with_reducible apply State.Sound.setFld
    | with_reducible apply State.Sound.refreshMonEng | with_reducible apply State.Sound.tellGroup
    | with_reducible apply State.Sound.doneAxis | with_reducible apply State.Sound.ite | with_reducible intro _

theorem State.Sound.execMonBaseline {src : CmdSrc} {n : AxId} {s : State} {out : State} (h : s.Sound) (ht : execMonBaseline src n s = .next out) : out.Sound := by
  cases ht
  repeat' first
    | with_reducible assumption | with_reducible apply State.Sound.deliver | with_reducible apply State.Sound.setMoni
    | with_reducible apply State.Sound.tellGroup | with_reducible intro _

end Sys2Proof.Machine
end

