-- ==== Sys2Proof/Laws/Sound/Failover.lean ====
section
/-! SUPPORT. Soundness is kept by every operation and every meaning of Machine/Failover.lean. -/

namespace Sys2Proof.Machine

theorem State.Sound.refreshFo {s : State} (h : s.Sound) : (State.refreshFo s).Sound := by
  unfold Sys2Proof.Machine.State.refreshFo
  repeat' first
    | with_reducible assumption | with_reducible apply State.Sound.setFld | with_reducible apply State.Sound.setBit
    | with_reducible apply State.Sound.ite | with_reducible intro _

theorem State.Sound.foRecord {s : State} {n : AxId} {type src detail : Nat} {data : List Byte} (h : s.Sound) : (State.foRecord s n type src detail data).Sound := by
  unfold Sys2Proof.Machine.State.foRecord
  repeat' first
    | with_reducible assumption | with_reducible apply State.Sound.event | with_reducible apply State.Sound.ite
    | with_reducible intro _

theorem State.Sound.raiseClaim {s : State} {n : AxId} {e : EngId} (h : s.Sound) : (State.raiseClaim s n e).Sound := by
  unfold Sys2Proof.Machine.State.raiseClaim
  repeat' first
    | with_reducible assumption | with_reducible apply State.Sound.setFailover | with_reducible apply State.Sound.setFld

theorem State.Sound.clearMarks {s : State} {n : AxId} (h : s.Sound) : (State.clearMarks s n).Sound := by
  unfold Sys2Proof.Machine.State.clearMarks
  repeat' first
    | with_reducible assumption | with_reducible apply State.Sound.setAx | with_reducible apply State.Sound.ax
    | with_reducible intro _ | simp only [Axis.sound_mk] | with_reducible apply Axis.SoundRec.parts
    | with_reducible apply Axis.sound_win | with_reducible apply Axis.sound_coef | with_reducible apply Axis.sound_legs
    | with_reducible apply Mem.wf_store

theorem State.Sound.firstClaim {s : State} {n : AxId} {e : EngId} (h : s.Sound) : (State.firstClaim s n e).Sound := by
  unfold Sys2Proof.Machine.State.firstClaim
  repeat' first
    | with_reducible assumption | with_reducible apply State.Sound.setFailover | with_reducible apply State.Sound.raiseClaim
    | with_reducible apply State.Sound.setFld

theorem State.Sound.setCoast {s : State} {n : AxId} {b : Bool} (h : s.Sound) : (State.setCoast s n b).Sound := by
  unfold Sys2Proof.Machine.State.setCoast
  repeat' first
    | with_reducible assumption | with_reducible apply State.Sound.setFailover | with_reducible apply State.Sound.setBit
    | with_reducible apply State.Sound.refreshAxis

theorem State.Sound.refreshCoast {s : State} {n : AxId} (h : s.Sound) : (State.refreshCoast s n).Sound := by
  unfold Sys2Proof.Machine.State.refreshCoast
  repeat' first
    | with_reducible assumption | with_reducible apply State.Sound.setCoast | with_reducible apply State.Sound.ite
    | with_reducible intro _

theorem State.Sound.raiseEngLoss {s : State} {n : AxId} (h : s.Sound) : (State.raiseEngLoss s n).Sound := by
  unfold Sys2Proof.Machine.State.raiseEngLoss
  repeat' first
    | with_reducible assumption | with_reducible apply State.Sound.setFailover | with_reducible apply State.Sound.setEngState
    | with_reducible apply State.Sound.setBit | with_reducible apply State.Sound.setFld
    | with_reducible apply State.Sound.withDemands | simp only [] | split

theorem State.Sound.hallLost {s : State} {n : AxId} (h : s.Sound) : (State.hallLost s n).Sound := by
  unfold Sys2Proof.Machine.State.hallLost
  repeat' first
    | with_reducible assumption | with_reducible apply State.Sound.raiseEngLoss | with_reducible apply State.Sound.refreshFo
    | with_reducible apply State.Sound.ite | with_reducible intro _

theorem State.Sound.engineless {s : State} {n : AxId} {why : Nat} (h : s.Sound) : (State.engineless s n why).Sound := by
  unfold Sys2Proof.Machine.State.engineless
  repeat' first
    | with_reducible assumption | with_reducible apply State.Sound.emptyQueue | with_reducible apply State.Sound.forAll
    | with_reducible apply State.Sound.complete | with_reducible apply State.Sound.foRecord
    | with_reducible apply State.Sound.setFailover | with_reducible apply State.Sound.setFld
    | with_reducible apply State.Sound.refreshFo | with_reducible apply State.Sound.raiseEngLoss
    | with_reducible apply State.Sound.ite | with_reducible intro _ | with_reducible apply State.SoundRec.upd
    | simp only [State.sound_mk]

theorem State.Sound.swapRoles {s : State} {n : AxId} {newE : EngId} {old : Option EngId} (h : s.Sound) : (State.swapRoles s n newE old).Sound := by
  unfold Sys2Proof.Machine.State.swapRoles
  repeat' first
    | with_reducible assumption | with_reducible apply State.Sound.hwPut | with_reducible apply State.Sound.setFld
    | with_reducible apply State.Sound.setEng | with_reducible apply State.Sound.ite | with_reducible apply State.Sound.eng
    | with_reducible intro _ | with_reducible apply Engine.SoundRec.upd | simp only [Engine.sound_mk] | split

theorem State.Sound.assign {s : State} {n : AxId} {e : EngId} {order : Nat} (h : s.Sound) : (State.assign s n e order).Sound := by
  unfold Sys2Proof.Machine.State.assign
  repeat' first
    | with_reducible assumption | with_reducible apply State.Sound.swapRoles | with_reducible apply State.Sound.raiseClaim
    | with_reducible apply State.Sound.setFld | with_reducible apply State.Sound.setFailover
    | with_reducible apply State.Sound.withDemands | with_reducible apply State.Sound.refreshFo

theorem State.Sound.share {s : State} {n : AxId} {e : EngId} (h : s.Sound) : (State.share s n e).Sound := by
  unfold Sys2Proof.Machine.State.share
  repeat' first
    | with_reducible assumption | with_reducible apply State.Sound.hwPut | with_reducible apply State.Sound.setFld
    | with_reducible apply State.Sound.setEng | with_reducible apply State.Sound.setFailover
    | with_reducible apply State.Sound.setBit | with_reducible apply State.Sound.refreshFo
    | with_reducible apply State.Sound.eng | with_reducible intro _ | with_reducible apply Engine.SoundRec.upd
    | simp only [Engine.sound_mk] | split

theorem State.Sound.takeOver {s : State} {n : AxId} {programFault : Bool} (h : s.Sound) : (State.takeOver s n programFault).Sound := by
  unfold Sys2Proof.Machine.State.takeOver
  repeat' first
    | with_reducible assumption | with_reducible apply State.Sound.engineless | with_reducible apply State.Sound.setFailover
    | with_reducible apply State.Sound.setEngState | with_reducible apply State.Sound.assign
    | with_reducible apply State.Sound.loseMonEngine | with_reducible apply State.Sound.setEng
    | with_reducible apply State.Sound.Engine_zero | with_reducible apply State.Sound.setFld
    | with_reducible apply State.Sound.refreshFo | with_reducible apply State.Sound.ite | with_reducible apply State.Sound.eng
    | with_reducible intro _ | simp only [] | split

theorem State.Sound.shareDue {s : State} {t : Nat} {n : AxId} (h : s.Sound) : (State.shareDue s t n).Sound := by
  unfold Sys2Proof.Machine.State.shareDue
  repeat' first
    | with_reducible assumption | with_reducible apply State.Sound.share | with_reducible apply State.Sound.setFailover
    | with_reducible apply State.Sound.takeOver | with_reducible apply State.Sound.ite | with_reducible intro _ | simp only []
    | split

theorem State.Sound.startWindow {s : State} {n : AxId} {e : EngId} (h : s.Sound) : (State.startWindow s n e).Sound := by
  unfold Sys2Proof.Machine.State.startWindow
  repeat' first
    | with_reducible assumption | with_reducible apply State.Sound.setFailover | with_reducible apply State.Sound.refreshCoast

theorem State.Sound.startRepair {s : State} {e : EngId} (h : s.Sound) : (State.startRepair s e).Sound := by
  unfold Sys2Proof.Machine.State.startRepair
  repeat' first
    | with_reducible assumption | with_reducible apply State.Sound.setBit | with_reducible apply State.Sound.setEng
    | with_reducible apply State.Sound.foRecord | with_reducible apply State.Sound.refreshPace
    | with_reducible apply State.Sound.setEngState | with_reducible apply State.Sound.ite | with_reducible apply State.Sound.eng
    | with_reducible intro _ | with_reducible apply Engine.SoundRec.upd | simp only [Engine.sound_mk]

theorem State.Sound.declare {s : State} {e : EngId} (h : s.Sound) : (State.declare s e).Sound := by
  unfold Sys2Proof.Machine.State.declare
  repeat' first
    | with_reducible assumption | with_reducible apply State.Sound.setEng | with_reducible apply State.Sound.setEngState
    | with_reducible apply State.Sound.setFld | with_reducible apply State.Sound.setBit
    | with_reducible apply State.Sound.logFault | with_reducible apply State.Sound.loseMonEngine
    | with_reducible apply State.Sound.event | with_reducible apply State.Sound.foRecord
    | with_reducible apply State.Sound.startRepair | with_reducible apply State.Sound.refreshFo
    | with_reducible apply State.Sound.forAll | with_reducible apply State.Sound.startWindow
    | with_reducible apply State.Sound.takeOver | with_reducible apply State.Sound.setFailover
    | with_reducible apply State.Sound.ite | with_reducible apply State.Sound.eng | with_reducible intro _
    | with_reducible apply Engine.SoundRec.upd | simp only [Engine.sound_mk]

theorem State.Sound.execEngineFailDeclared {e : EngId} {s : State} {out : State} (h : s.Sound) (ht : execEngineFailDeclared e s = .next out) : out.Sound := by
  cases ht
  repeat' first
    | with_reducible assumption | with_reducible apply State.Sound.declare | with_reducible apply State.Sound.ite
    | with_reducible intro _

theorem State.Sound.execFailoverWindowEnd {n : AxId} {s : State} {out : State} (h : s.Sound) (ht : execFailoverWindowEnd n s = .next out) : out.Sound := by
  cases ht
  repeat' first
    | with_reducible assumption | with_reducible apply State.Sound.setFailover | with_reducible apply State.Sound.refreshCoast
    | with_reducible apply State.Sound.ite | with_reducible intro _ | simp only [] | split

theorem State.Sound.backToSpare {s : State} {e : EngId} (h : s.Sound) : (State.backToSpare s e).Sound := by
  unfold Sys2Proof.Machine.State.backToSpare
  repeat' first
    | with_reducible assumption | with_reducible apply State.Sound.setEng | with_reducible apply State.Sound.setBit
    | with_reducible apply State.Sound.refreshPace | with_reducible apply State.Sound.setEngState
    | with_reducible apply State.Sound.ite | with_reducible apply State.Sound.eng | with_reducible intro _
    | with_reducible apply Engine.SoundRec.upd | simp only [Engine.sound_mk]

theorem State.Sound.execTakeoverStart {n : AxId} {s : State} {out : State} (h : s.Sound) (ht : execTakeoverStart n s = .next out) : out.Sound := by
  cases ht
  repeat' first
    | with_reducible assumption | with_reducible apply State.Sound.backToSpare | with_reducible apply State.Sound.engineless
    | with_reducible apply State.Sound.loadEngine | with_reducible apply State.Sound.setEng
    | with_reducible apply State.Sound.assign | with_reducible apply State.Sound.foRecord | with_reducible apply State.Sound.ite
    | with_reducible apply State.Sound.eng | with_reducible intro _ | with_reducible apply Engine.SoundRec.upd
    | simp only [Engine.sound_mk] | split

theorem State.Sound.enterIdleSpare {s : State} {e : EngId} (h : s.Sound) : (State.enterIdleSpare s e).Sound := by
  unfold Sys2Proof.Machine.State.enterIdleSpare
  repeat' first
    | with_reducible assumption | with_reducible apply State.Sound.setEngState | with_reducible apply State.Sound.setFailover
    | with_reducible apply State.Sound.refreshFo | with_reducible apply State.Sound.ite | with_reducible intro _ | simp only []
    | split

theorem State.Sound.execEngineSelftestDone {e : EngId} {pass : Bool} {s : State} {out : State} (h : s.Sound) (ht : execEngineSelftestDone e pass s = .next out) : out.Sound := by
  cases ht
  repeat' first
    | with_reducible assumption | with_reducible apply State.Sound.setBit | with_reducible apply State.Sound.setEng
    | with_reducible apply State.Sound.enterIdleSpare | with_reducible apply State.Sound.loadEngine
    | with_reducible apply State.Sound.setFld | with_reducible apply State.Sound.foRecord
    | with_reducible apply State.Sound.refreshFo | with_reducible apply State.Sound.setEngState
    | with_reducible apply State.Sound.refreshPace | with_reducible apply State.Sound.ite | with_reducible apply State.Sound.eng
    | with_reducible intro _ | with_reducible apply Engine.SoundRec.upd | simp only [Engine.sound_mk] | split

theorem State.Sound.applyFinished {s : State} (h : s.Sound) : (State.applyFinished s).Sound := by
  unfold Sys2Proof.Machine.State.applyFinished
  repeat' first
    | with_reducible assumption | with_reducible apply State.Sound.setBit | with_reducible apply State.Sound.ite
    | with_reducible intro _

theorem State.Sound.execZeroingDone {e : EngId} {s : State} {out : State} (h : s.Sound) (ht : execZeroingDone e s = .next out) : out.Sound := by
  cases ht
  repeat' first
    | with_reducible assumption | with_reducible apply State.Sound.setEng | with_reducible apply State.Sound.applyFinished
    | with_reducible apply State.Sound.Engine_zero | with_reducible apply State.Sound.setBit
    | with_reducible apply State.Sound.enterIdleSpare | with_reducible apply State.Sound.refreshPace
    | with_reducible apply State.Sound.setEngState | with_reducible apply State.Sound.ite | with_reducible apply State.Sound.eng
    | with_reducible intro _ | with_reducible apply Engine.SoundRec.upd | simp only [Engine.sound_mk]

theorem State.Sound.startEngine {s : State} {e : EngId} {src : Option CmdSrc} (h : s.Sound) : (State.startEngine s e src).Sound := by
  unfold Sys2Proof.Machine.State.startEngine
  repeat' first
    | with_reducible assumption | with_reducible apply State.Sound.setEngState | with_reducible apply State.Sound.setEng
    | with_reducible apply State.Sound.complete | with_reducible apply State.Sound.eng | with_reducible intro _
    | with_reducible apply Engine.SoundRec.upd | simp only [Engine.sound_mk] | split

theorem State.Sound.execImageCopyDone {e : EngId} {crcOk : Bool} {s : State} {out : State} (h : s.Sound) (ht : execImageCopyDone e crcOk s = .next out) : out.Sound := by
  cases ht
  repeat' first
    | with_reducible assumption | with_reducible apply State.Sound.setEng | with_reducible apply State.Sound.applyFinished
    | with_reducible apply State.Sound.loadEngine | with_reducible apply State.Sound.complete
    | with_reducible apply State.Sound.startEngine | with_reducible apply State.Sound.Engine_zero
    | with_reducible apply State.Sound.setBit | with_reducible apply State.Sound.refreshPace
    | with_reducible apply State.Sound.setEngState | with_reducible apply State.Sound.ite | with_reducible apply State.Sound.eng
    | with_reducible intro _ | with_reducible apply State.SoundRec.upd | with_reducible apply Engine.SoundRec.upd
    | simp only [State.sound_mk, Engine.sound_mk] | split

theorem State.Sound.applyPlanOf {s : State} {e : EngId} (h : s.Sound) : (State.applyPlanOf s e).Sound := by
  unfold Sys2Proof.Machine.State.applyPlanOf
  repeat' first
    | with_reducible assumption | with_reducible apply State.Sound.setFld | with_reducible apply State.Sound.loseMonEngine
    | with_reducible apply State.Sound.setEng | with_reducible apply State.Sound.Engine_zero
    | with_reducible apply State.Sound.setBit | with_reducible apply State.Sound.setEngState
    | with_reducible apply State.Sound.setFailover | with_reducible apply State.Sound.withDemands
    | with_reducible apply State.Sound.ite | with_reducible apply State.Sound.eng | with_reducible intro _
    | with_reducible apply Engine.SoundRec.upd | simp only [Engine.sound_mk]

theorem State.Sound.endShares {s : State} (h : s.Sound) : (State.endShares s).Sound := by
  unfold Sys2Proof.Machine.State.endShares
  repeat' first
    | with_reducible assumption | with_reducible apply State.Sound.forAll | with_reducible apply State.Sound.setEng
    | with_reducible apply State.Sound.setBit | with_reducible apply State.Sound.setFld | with_reducible apply State.Sound.eng
    | with_reducible intro _ | with_reducible apply Engine.SoundRec.upd | simp only [Engine.sound_mk] | split

theorem State.Sound.runApply {s : State} (h : s.Sound) : (State.runApply s).Sound := by
  unfold Sys2Proof.Machine.State.runApply
  repeat' first
    | with_reducible assumption | with_reducible apply State.Sound.setBit | with_reducible apply State.Sound.setFld
    | with_reducible apply State.Sound.forAll | with_reducible apply State.Sound.applyPlanOf
    | with_reducible apply State.Sound.endShares | with_reducible apply State.Sound.refreshFo
    | with_reducible apply State.Sound.applyFinished | simp only [] | split

theorem State.Sound.requestApply {s : State} (h : s.Sound) : (State.requestApply s).Sound := by
  unfold Sys2Proof.Machine.State.requestApply
  repeat' first
    | with_reducible assumption | with_reducible apply State.Sound.setBit | with_reducible apply State.Sound.runApply
    | with_reducible apply State.Sound.ite | with_reducible intro _

theorem State.Sound.resumeApply {s : State} (h : s.Sound) : (State.resumeApply s).Sound := by
  unfold Sys2Proof.Machine.State.resumeApply
  repeat' first
    | with_reducible assumption | with_reducible apply State.Sound.runApply | with_reducible apply State.Sound.ite
    | with_reducible intro _

theorem State.Sound.execAllocApply {fn : FnId} {s : State} {out : State} (h : s.Sound) (ht : execAllocApply fn s = .next out) : out.Sound := by
  cases ht
  repeat' first
    | with_reducible assumption | with_reducible apply State.Sound.setupGate | with_reducible apply State.Sound.requestApply

theorem State.Sound.takeoverDone {s : State} {n : AxId} {e : EngId} {frame : BitVec 32} (h : s.Sound) : (State.takeoverDone s n e frame).Sound := by
  unfold Sys2Proof.Machine.State.takeoverDone
  repeat' first
    | with_reducible assumption | with_reducible apply State.Sound.setFailover | with_reducible apply State.Sound.setCoast
    | with_reducible apply State.Sound.countSat | with_reducible apply State.Sound.foRecord
    | with_reducible apply State.Sound.resumeApply | with_reducible apply State.Sound.ite | with_reducible intro _
    | simp only [] | split

end Sys2Proof.Machine
end

