-- ==== Sys2Proof/Laws/Sound/Feedback.lean ====
section
/-! SUPPORT. Soundness is kept by every operation and every meaning of Machine/Feedback.lean. -/

namespace Sys2Proof.Machine

theorem State.Sound.refreshFbCfg {s : State} {n : AxId} (h : s.Sound) : (State.refreshFbCfg s n).Sound := by
  unfold Sys2Proof.Machine.State.refreshFbCfg
  repeat' first
    | with_reducible assumption | with_reducible apply State.Sound.setBit

theorem State.Sound.raiseFbFault {s : State} {n : AxId} {bit : Nat} (h : s.Sound) : (State.raiseFbFault s n bit).Sound := by
  unfold Sys2Proof.Machine.State.raiseFbFault
  repeat' first
    | with_reducible assumption | with_reducible apply State.Sound.setFld | with_reducible apply State.Sound.event
    | with_reducible apply State.Sound.faultEvent | with_reducible apply State.Sound.setAx
    | with_reducible apply State.Sound.requestStop | with_reducible apply State.Sound.ite | with_reducible apply State.Sound.ax
    | with_reducible intro _ | with_reducible apply Axis.SoundRec.upd | simp only [Axis.sound_mk] | split

theorem State.Sound.gainBucket {s : State} {n : AxId} (h : s.Sound) : (State.gainBucket s n).Sound := by
  unfold Sys2Proof.Machine.State.gainBucket
  repeat' first
    | with_reducible assumption | with_reducible apply State.Sound.setFbk | with_reducible apply State.Sound.countSat
    | with_reducible apply State.Sound.setFld | with_reducible apply State.Sound.raiseFbFault
    | with_reducible apply State.Sound.ite | with_reducible intro _

theorem State.Sound.drainBucket {s : State} {n : AxId} (h : s.Sound) : (State.drainBucket s n).Sound := by
  unfold Sys2Proof.Machine.State.drainBucket
  repeat' first
    | with_reducible assumption | with_reducible apply State.Sound.setFbk | with_reducible apply State.Sound.setFld
    | with_reducible apply State.Sound.ite | with_reducible intro _

theorem State.Sound.illegal {s : State} {n : AxId} (h : s.Sound) : (State.illegal s n).Sound := by
  unfold Sys2Proof.Machine.State.illegal
  repeat' first
    | with_reducible assumption | with_reducible apply State.Sound.countSat | with_reducible apply State.Sound.gainBucket

theorem State.Sound.edgeCheck {s : State} {n : AxId} {last : Option Nat} (h : s.Sound) : (State.edgeCheck s n last).Sound := by
  unfold Sys2Proof.Machine.State.edgeCheck
  repeat' first
    | with_reducible assumption | with_reducible apply State.Sound.countSat | with_reducible apply State.Sound.gainBucket
    | with_reducible apply State.Sound.ite | with_reducible intro _ | split

theorem State.Sound.refreshPo {s : State} {k : PoId} (h : s.Sound) : (State.refreshPo s k).Sound := by
  unfold Sys2Proof.Machine.State.refreshPo
  repeat' first
    | with_reducible assumption | with_reducible apply State.Sound.setFld | with_reducible apply State.Sound.setBit

theorem State.Sound.driveRep {s : State} {k : PoId} {d : Int} (h : s.Sound) : (State.driveRep s k d).Sound := by
  unfold Sys2Proof.Machine.State.driveRep
  repeat' first
    | with_reducible assumption | with_reducible apply State.Sound.setRep | with_reducible apply State.Sound.refreshPo
    | with_reducible apply State.Sound.setBit | with_reducible apply State.Sound.ite | with_reducible intro _

theorem State.Sound.execPoOutputCount {k : PoId} {s : State} {out : State} (h : s.Sound) (ht : execPoOutputCount k s = .next out) : out.Sound := by
  cases ht
  repeat' first
    | with_reducible assumption | with_reducible apply State.Sound.setRep | with_reducible apply State.Sound.refreshPo
    | with_reducible apply State.Sound.ite | with_reducible intro _

theorem State.Sound.stopRep {s : State} {k : PoId} (h : s.Sound) : (State.stopRep s k).Sound := by
  unfold Sys2Proof.Machine.State.stopRep
  repeat' first
    | with_reducible assumption | with_reducible apply State.Sound.setRep | with_reducible apply State.Sound.refreshPo

theorem State.Sound.writePoCfg {s : State} {k : PoId} {w : Word} (h : s.Sound) : (State.writePoCfg s k w).Sound := by
  unfold Sys2Proof.Machine.State.writePoCfg
  repeat' first
    | with_reducible assumption | with_reducible apply State.Sound.setBit | with_reducible apply State.Sound.setFld
    | with_reducible apply State.Sound.stopRep | with_reducible apply State.Sound.setRep | with_reducible apply State.Sound.ite
    | with_reducible intro _

theorem State.Sound.execPoEnable {fn : FnId} {k : PoId} {w : Word} {s : State} {out : State} (h : s.Sound) (ht : execPoEnable fn k w s = .next out) : out.Sound := by
  cases ht
  repeat' first
    | with_reducible assumption | with_reducible apply State.Sound.setupGate | with_reducible apply State.Sound.writePoCfg
    | with_reducible intro _

theorem State.Sound.writePoRatio {s : State} {k : PoId} {w : Word} (h : s.Sound) : (State.writePoRatio s k w).Sound := by
  unfold Sys2Proof.Machine.State.writePoRatio
  repeat' first
    | with_reducible assumption | with_reducible apply State.Sound.setBit | with_reducible apply State.Sound.setWord
    | with_reducible apply State.Sound.ite | with_reducible intro _

theorem State.Sound.applyPoSet {s : State} {k : PoId} {n m : Nat} (h : s.Sound) : (State.applyPoSet s k n m).Sound := by
  unfold Sys2Proof.Machine.State.applyPoSet
  repeat' first
    | with_reducible assumption | with_reducible apply State.Sound.setRep | with_reducible apply State.Sound.setFld

theorem State.Sound.moveCounter {s : State} {n : AxId} {d : Int} (h : s.Sound) : (State.moveCounter s n d).Sound := by
  unfold Sys2Proof.Machine.State.moveCounter
  repeat' first
    | with_reducible assumption | with_reducible apply State.Sound.setFbk | with_reducible apply State.Sound.setBit
    | with_reducible apply State.Sound.forAll | with_reducible apply State.Sound.driveRep | with_reducible apply State.Sound.ite
    | with_reducible intro _

theorem State.Sound.countMove {s : State} {n : AxId} {d : Int} (h : s.Sound) : (State.countMove s n d).Sound := by
  unfold Sys2Proof.Machine.State.countMove
  repeat' first
    | with_reducible assumption | with_reducible apply State.Sound.moveCounter | with_reducible apply State.Sound.ite
    | with_reducible intro _

theorem State.Sound.setPosition {s : State} {t : Nat} {n : AxId} {new : BitVec 48} (h : s.Sound) : (State.setPosition s t n new).Sound := by
  unfold Sys2Proof.Machine.State.setPosition
  repeat' first
    | with_reducible assumption | with_reducible apply State.Sound.setFbk | with_reducible apply State.Sound.setMotion
    | with_reducible apply State.Sound.setAx | with_reducible apply State.Sound.setBit | with_reducible apply State.Sound.hwPut
    | with_reducible apply State.Sound.ax | with_reducible intro _ | simp only [Axis.sound_mk]
    | with_reducible apply Axis.SoundRec.parts | with_reducible apply Axis.sound_win | with_reducible apply Axis.sound_coef
    | with_reducible apply Axis.sound_legs | with_reducible apply Mem.wf_store | with_reducible apply Mem.wf_putByte | split

theorem State.Sound.takePreload {s : State} {t : Nat} {n : AxId} (h : s.Sound) : (State.takePreload s t n).Sound := by
  unfold Sys2Proof.Machine.State.takePreload
  repeat' first
    | with_reducible assumption | with_reducible apply State.Sound.setPosition | with_reducible apply State.Sound.ite
    | with_reducible intro _ | split

theorem State.Sound.writePosldHi {s : State} {n : AxId} {w : Word} (h : s.Sound) : (State.writePosldHi s n w).Sound := by
  unfold Sys2Proof.Machine.State.writePosldHi
  repeat' first
    | with_reducible assumption | with_reducible apply State.Sound.setFld | with_reducible apply State.Sound.armPreload

theorem State.Sound.execPosldArm {fn : FnId} {n : AxId} {w : Word} {s : State} {out : State} (h : s.Sound) (ht : execPosldArm fn n w s = .next out) : out.Sound := by
  cases ht
  repeat' first
    | with_reducible assumption | with_reducible apply State.Sound.setupGate | with_reducible apply State.Sound.writePosldHi
    | with_reducible intro _

theorem State.Sound.refreshFbSafe {s : State} {n : AxId} (h : s.Sound) : (State.refreshFbSafe s n).Sound := by
  unfold Sys2Proof.Machine.State.refreshFbSafe
  repeat' first
    | with_reducible assumption | with_reducible apply State.Sound.setFld

theorem State.Sound.settleSca {s : State} {n : AxId} (h : s.Sound) : (State.settleSca s n).Sound := by
  unfold Sys2Proof.Machine.State.settleSca
  repeat' first
    | with_reducible assumption | with_reducible apply State.Sound.setFbk | with_reducible apply State.Sound.refreshFbSafe
    | with_reducible apply State.Sound.ite | with_reducible intro _

theorem State.Sound.samplePins {s : State} {n : AxId} {code : BitVec 3} {t : Nat} (h : s.Sound) : (State.samplePins s n code t).Sound := by
  unfold Sys2Proof.Machine.State.samplePins
  repeat' first
    | with_reducible assumption | with_reducible apply State.Sound.settleSca | with_reducible apply State.Sound.setFbk
    | with_reducible apply State.Sound.refreshFbSafe | with_reducible apply State.Sound.ite | with_reducible intro _

theorem State.Sound.hallRead {s : State} {n : AxId} {code : BitVec 3} (h : s.Sound) : (State.hallRead s n code).Sound := by
  unfold Sys2Proof.Machine.State.hallRead
  repeat' first
    | with_reducible assumption | with_reducible apply State.Sound.setAx | with_reducible apply State.Sound.ite
    | with_reducible apply State.Sound.ax | with_reducible intro _ | with_reducible apply Axis.SoundRec.upd
    | simp only [Axis.sound_mk]

theorem State.Sound.initialHall {s : State} {n : AxId} (h : s.Sound) : (State.initialHall s n).Sound := by
  unfold Sys2Proof.Machine.State.initialHall
  repeat' first
    | with_reducible assumption | with_reducible apply State.Sound.hallRead | with_reducible apply State.Sound.setAx
    | with_reducible apply State.Sound.refreshCoast | with_reducible apply State.Sound.refreshAxis
    | with_reducible apply State.Sound.ax | with_reducible intro _ | with_reducible apply Axis.SoundRec.upd
    | simp only [Axis.sound_mk] | split

theorem State.Sound.noHall {s : State} {n : AxId} (h : s.Sound) : (State.noHall s n).Sound := by
  unfold Sys2Proof.Machine.State.noHall
  repeat' first
    | with_reducible assumption | with_reducible apply State.Sound.hallRead | with_reducible apply State.Sound.setAx
    | with_reducible apply State.Sound.refreshCoast | with_reducible apply State.Sound.refreshAxis
    | with_reducible apply State.Sound.ax | with_reducible intro _ | with_reducible apply Axis.SoundRec.upd
    | simp only [Axis.sound_mk]

theorem State.Sound.hallAlign {s : State} {n : AxId} {a b : Nat} (h : s.Sound) : (State.hallAlign s n a b).Sound := by
  unfold Sys2Proof.Machine.State.hallAlign
  repeat' first
    | with_reducible assumption | with_reducible apply State.Sound.hwPut | with_reducible apply State.Sound.setBit
    | with_reducible apply State.Sound.ite | with_reducible intro _

theorem State.Sound.execHallChange {n : AxId} {code : BitVec 3} {since : Nat} {s : State} {out : State} (h : s.Sound) (ht : execHallChange n code since s = .next out) : out.Sound := by
  cases ht
  repeat' first
    | with_reducible assumption | with_reducible apply State.Sound.samplePins | with_reducible apply State.Sound.edgeCheck
    | with_reducible apply State.Sound.setFbk | with_reducible apply State.Sound.hallRead
    | with_reducible apply State.Sound.setAx | with_reducible apply State.Sound.setBit
    | with_reducible apply State.Sound.raiseFbFault | with_reducible apply State.Sound.refreshCoast
    | with_reducible apply State.Sound.refreshAxis | with_reducible apply State.Sound.hallLost
    | with_reducible apply State.Sound.countMove | with_reducible apply State.Sound.hallAlign
    | with_reducible apply State.Sound.illegal | with_reducible apply State.Sound.ite | with_reducible apply State.Sound.ax
    | with_reducible intro _ | with_reducible apply Axis.SoundRec.upd | simp only [Axis.sound_mk] | split

theorem State.Sound.quadMove {s : State} {n : AxId} {premium : Bool} {d : Int} (h : s.Sound) : (State.quadMove s n premium d).Sound := by
  unfold Sys2Proof.Machine.State.quadMove
  repeat' first
    | with_reducible assumption | with_reducible apply State.Sound.setFbk | with_reducible apply State.Sound.countMove
    | with_reducible apply State.Sound.ite | with_reducible intro _

theorem State.Sound.execQuadTransition {n : AxId} {premium a b z : Bool} {s : State} {out : State} (h : s.Sound) (ht : execQuadTransition n premium a b z s = .next out) : out.Sound := by
  cases ht
  repeat' first
    | with_reducible assumption | with_reducible apply State.Sound.setFbk | with_reducible apply State.Sound.samplePins
    | with_reducible apply State.Sound.edgeCheck | with_reducible apply State.Sound.illegal
    | with_reducible apply State.Sound.quadMove | with_reducible apply State.Sound.ite | with_reducible intro _ | split

theorem State.Sound.execIndexEvent {n : AxId} {s : State} {out : State} (h : s.Sound) (ht : execIndexEvent n s = .next out) : out.Sound := by
  cases ht
  repeat' first
    | with_reducible assumption | with_reducible apply State.Sound.samplePins | with_reducible apply State.Sound.setFbk
    | with_reducible apply State.Sound.setBit | with_reducible apply State.Sound.raiseFbFault
    | with_reducible apply State.Sound.ite | with_reducible intro _

theorem State.Sound.execSincosPair {n : AxId} {sn cs : BitVec 16} {s : State} {out : State} (h : s.Sound) (ht : execSincosPair n sn cs s = .next out) : out.Sound := by
  cases ht
  repeat' first
    | with_reducible assumption | with_reducible apply State.Sound.setFbk | with_reducible apply State.Sound.countMove
    | with_reducible apply State.Sound.raiseFbFault | with_reducible apply State.Sound.ite | with_reducible intro _
    | with_reducible apply State.SoundRec.upd | simp only [State.sound_mk]

theorem State.Sound.execSsiTransferStart {n : AxId} {s : State} {out : State} (h : s.Sound) (ht : execSsiTransferStart n s = .next out) : out.Sound := by
  cases ht
  repeat' first
    | with_reducible assumption | with_reducible apply State.Sound.setFbk | with_reducible apply State.Sound.ite
    | with_reducible intro _

theorem State.Sound.execSsiTransferEnd {n : AxId} {bits : BitVec 64} {frameOk : Bool} {s : State} {out : State} (h : s.Sound) (ht : execSsiTransferEnd n bits frameOk s = .next out) : out.Sound := by
  cases ht
  repeat' first
    | with_reducible assumption | with_reducible apply State.Sound.setFbk | with_reducible apply State.Sound.countMove
    | with_reducible apply State.Sound.raiseFbFault | with_reducible apply State.Sound.ite | with_reducible intro _
    | simp only [] | split

theorem State.Sound.resetFeedback {s : State} {n : AxId} (h : s.Sound) : (State.resetFeedback s n).Sound := by
  unfold Sys2Proof.Machine.State.resetFeedback
  repeat' first
    | with_reducible assumption | with_reducible apply State.Sound.setFbk

theorem State.Sound.execPosLoRead {fn : FnId} {n : AxId} {s : State} {out : State} (h : s.Sound) (ht : execPosLoRead fn n s = .next out) : out.Sound := by
  cases ht
  repeat' first
    | with_reducible assumption | with_reducible apply State.Sound.setFn | with_reducible apply State.Sound.ite
    | with_reducible intro _ | with_reducible apply State.SoundRec.upd | simp only [State.sound_mk]

theorem State.Sound.execZposLoRead {fn : FnId} {n : AxId} {s : State} {out : State} (h : s.Sound) (ht : execZposLoRead fn n s = .next out) : out.Sound := by
  cases ht
  repeat' first
    | with_reducible assumption | with_reducible apply State.Sound.setFn | with_reducible apply State.Sound.ite
    | with_reducible intro _ | with_reducible apply State.SoundRec.upd | simp only [State.sound_mk]

end Sys2Proof.Machine
end

