-- ==== Sys2Proof/Laws/Sound/Motion.lean ====
section
/-! SUPPORT. Soundness is kept by every operation and every meaning of Machine/Motion.lean. -/

namespace Sys2Proof.Machine

theorem State.Sound.startHead {s : State} {n : AxId} {f : BitVec 32} {t : Nat} {ratio : Frac} (h : s.Sound) : (State.startHead s n f t ratio).Sound := by
  unfold Sys2Proof.Machine.State.startHead
  repeat' first
    | with_reducible assumption | with_reducible apply State.Sound.setMotion | simp only [] | split

theorem State.Sound.standStill {s : State} {n : AxId} (h : s.Sound) : (State.standStill s n).Sound := by
  unfold Sys2Proof.Machine.State.standStill
  repeat' first
    | with_reducible assumption | with_reducible apply State.Sound.setMotion

theorem State.Sound.advanceQueue {s : State} {n : AxId} (h : s.Sound) : (State.advanceQueue s n).Sound := by
  unfold Sys2Proof.Machine.State.advanceQueue
  repeat' first
    | with_reducible assumption | with_reducible apply State.Sound.setQueue | with_reducible apply State.Sound.startHead
    | with_reducible apply State.Sound.complete | with_reducible apply State.Sound.ite | with_reducible intro _ | simp only []
    | split

theorem State.Sound.queueMove {s : State} {src : CmdSrc} {n : AxId} {cmd : HostCmd} {d : Nat} (h : s.Sound) : (State.queueMove s src n cmd d).Sound := by
  unfold Sys2Proof.Machine.State.queueMove
  repeat' first
    | with_reducible assumption | with_reducible apply State.Sound.cancelAxis | with_reducible apply State.Sound.setQueue
    | with_reducible apply State.Sound.tellGroup | with_reducible apply State.Sound.advanceQueue
    | with_reducible apply State.Sound.ite | with_reducible intro _

theorem State.Sound.execMoveAbs {src : CmdSrc} {n : AxId} {t : Int} {v a d j : F32} {s : State} {out : State} (h : s.Sound) (ht : execMoveAbs src n t v a d j s = .next out) : out.Sound := by
  cases ht
  repeat' first
    | with_reducible assumption | with_reducible apply State.Sound.deliver | with_reducible apply State.Sound.queueMove
    | with_reducible intro _

theorem State.Sound.execMoveVel {src : CmdSrc} {n : AxId} {vel a j : F32} {s : State} {out : State} (h : s.Sound) (ht : execMoveVel src n vel a j s = .next out) : out.Sound := by
  cases ht
  repeat' first
    | with_reducible assumption | with_reducible apply State.Sound.deliver | with_reducible apply State.Sound.queueMove
    | with_reducible intro _

theorem State.Sound.execGear {src : CmdSrc} {n : AxId} {gsrc master : BitVec 8} {num : Int} {den ramp : Nat} {ph : Int} {s : State} {out : State} (h : s.Sound) (ht : execGear src n gsrc master num den ramp ph s = .next out) : out.Sound := by
  cases ht
  repeat' first
    | with_reducible assumption | with_reducible apply State.Sound.deliver | with_reducible apply State.Sound.queueMove
    | with_reducible intro _

theorem State.Sound.execCam {src : CmdSrc} {n : AxId} {csrc master cam : BitVec 8} {mp : Nat} {mo : Int} {scale rise : F32} {s : State} {out : State} (h : s.Sound) (ht : execCam src n csrc master cam mp mo scale rise s = .next out) : out.Sound := by
  cases ht
  repeat' first
    | with_reducible assumption | with_reducible apply State.Sound.deliver | with_reducible apply State.Sound.queueMove
    | with_reducible intro _

theorem State.Sound.execHome {src : CmdSrc} {n : AxId} {reverse : Bool} {iHome : BitVec 16} {vHome : F32} {homePos : Int} {backoff maxDist : Nat} {s : State} {out : State} (h : s.Sound) (ht : execHome src n reverse iHome vHome homePos backoff maxDist s = .next out) : out.Sound := by
  cases ht
  repeat' first
    | with_reducible assumption | with_reducible apply State.Sound.deliver | with_reducible apply State.Sound.queueMove
    | with_reducible intro _

theorem State.Sound.applyLim {s : State} {n : AxId} {f : BitVec 32} {t : Nat} {r : MailRec} (h : s.Sound) : (State.applyLim s n f t r).Sound := by
  unfold Sys2Proof.Machine.State.applyLim
  repeat' first
    | with_reducible assumption | with_reducible apply State.Sound.doneAxis | with_reducible apply State.Sound.setMotion
    | with_reducible apply State.Sound.ite | with_reducible intro _ | simp only [] | split

theorem State.Sound.applyLims {s : State} {n : AxId} {f : BitVec 32} {t b : Nat} (h : s.Sound) : (State.applyLims s n f t b).Sound := by
  unfold Sys2Proof.Machine.State.applyLims
  repeat' first
    | with_reducible assumption | with_reducible apply State.Sound.forAll | with_reducible apply State.Sound.applyLim
    | with_reducible apply State.Sound.setMotion | with_reducible intro _

theorem State.Sound.dropLims {s : State} {n : AxId} (h : s.Sound) : (State.dropLims s n).Sound := by
  unfold Sys2Proof.Machine.State.dropLims
  repeat' first
    | with_reducible assumption | with_reducible apply State.Sound.forAll | with_reducible apply State.Sound.doneAxis
    | with_reducible apply State.Sound.setMotion | with_reducible intro _

theorem State.Sound.applyStepCfg {s : State} {n : AxId} (h : s.Sound) : (State.applyStepCfg s n).Sound := by
  unfold Sys2Proof.Machine.State.applyStepCfg
  repeat' first
    | with_reducible assumption | with_reducible apply State.Sound.forAll | with_reducible apply State.Sound.setMotion
    | with_reducible apply State.Sound.doneAxis | with_reducible intro _

theorem State.Sound.trajectoryMiss {s : State} {n : AxId} {f : BitVec 32} (h : s.Sound) : (State.trajectoryMiss s n f).Sound := by
  unfold Sys2Proof.Machine.State.trajectoryMiss
  repeat' first
    | with_reducible assumption | with_reducible apply State.Sound.setMotion | with_reducible apply State.Sound.event
    | with_reducible apply State.Sound.emptyQueue | with_reducible apply State.Sound.standStill
    | with_reducible apply State.Sound.ite | with_reducible intro _

theorem State.Sound.writeHalt {s : State} {n : AxId} (h : s.Sound) : (State.writeHalt s n).Sound := by
  unfold Sys2Proof.Machine.State.writeHalt
  repeat' first
    | with_reducible assumption | with_reducible apply State.Sound.setAx | with_reducible apply State.Sound.ax
    | with_reducible intro _ | simp only [Axis.sound_mk] | with_reducible apply Axis.SoundRec.parts
    | with_reducible apply Axis.sound_win | with_reducible apply Axis.sound_coef | with_reducible apply Axis.sound_legs
    | with_reducible apply Mem.wf_store

theorem State.Sound.stalled {s : State} {n : AxId} {ref : Int} {homing : Bool} (h : s.Sound) : (State.stalled s n ref homing).Sound := by
  unfold Sys2Proof.Machine.State.stalled
  repeat' first
    | with_reducible assumption | with_reducible apply State.Sound.writeHalt | with_reducible apply State.Sound.setQueue
    | with_reducible apply State.Sound.standStill | with_reducible apply State.Sound.complete
    | with_reducible apply State.Sound.forAll | with_reducible apply State.Sound.cancelAxis
    | with_reducible apply State.Sound.dropLims | with_reducible apply State.Sound.event | with_reducible apply State.Sound.ite
    | with_reducible intro _ | simp only [] | split

theorem State.Sound.homeMissed {s : State} {n : AxId} {ref : Int} (h : s.Sound) : (State.homeMissed s n ref).Sound := by
  unfold Sys2Proof.Machine.State.homeMissed
  repeat' first
    | with_reducible assumption | with_reducible apply State.Sound.writeHalt | with_reducible apply State.Sound.complete
    | with_reducible apply State.Sound.setQueue | with_reducible apply State.Sound.standStill | simp only [] | split

theorem State.Sound.markEnd {s : State} {n : AxId} {flags : BitVec 8} {ref : Int} (h : s.Sound) : (State.markEnd s n flags ref).Sound := by
  unfold Sys2Proof.Machine.State.markEnd
  repeat' first
    | with_reducible assumption | with_reducible apply State.Sound.setMotion | with_reducible apply State.Sound.ite
    | with_reducible intro _ | simp only [] | split

theorem State.Sound.refreshStep {s : State} {n : AxId} (h : s.Sound) : (State.refreshStep s n).Sound := by
  unfold Sys2Proof.Machine.State.refreshStep
  repeat' first
    | with_reducible assumption | with_reducible apply State.Sound.setAx | with_reducible apply State.Sound.setBit
    | with_reducible apply State.Sound.ax | with_reducible intro _ | simp only [Axis.sound_mk]
    | with_reducible apply Axis.SoundRec.parts | with_reducible apply Axis.sound_win | with_reducible apply Axis.sound_coef
    | with_reducible apply Axis.sound_legs | with_reducible apply Mem.wf_store

theorem State.Sound.captureStep {s : State} {n : AxId} (h : s.Sound) : (State.captureStep s n).Sound := by
  unfold Sys2Proof.Machine.State.captureStep
  repeat' first
    | with_reducible assumption | with_reducible apply State.Sound.setAx | with_reducible apply State.Sound.setMotion
    | with_reducible apply State.Sound.refreshStep | with_reducible apply State.Sound.ax | with_reducible intro _
    | simp only [Axis.sound_mk] | with_reducible apply Axis.SoundRec.parts | with_reducible apply Axis.sound_win
    | with_reducible apply Axis.sound_coef | with_reducible apply Axis.sound_legs | with_reducible apply Mem.wf_store

theorem State.Sound.haltTimer {s : State} {n : AxId} (h : s.Sound) : (State.haltTimer s n).Sound := by
  unfold Sys2Proof.Machine.State.haltTimer
  repeat' first
    | with_reducible assumption | with_reducible apply State.Sound.setMotion | with_reducible apply State.Sound.refreshStep

theorem State.Sound.readStepRing {s : State} {n : AxId} {t : Nat} {out : State} (h : s.Sound) (ht : State.readStepRing s n t = some out) : out.Sound := by
  unfold Sys2Proof.Machine.State.readStepRing at ht
  dsimp only at ht
  repeat' split at ht
  all_goals first | contradiction | (injection ht with e; subst e)
  repeat' first
    | with_reducible assumption | with_reducible apply State.Sound.setAx | with_reducible apply State.Sound.setMotion
    | with_reducible apply State.Sound.refreshStep | with_reducible apply State.Sound.ax | with_reducible intro _
    | simp only [Axis.sound_mk] | with_reducible apply Axis.SoundRec.parts | with_reducible apply Axis.sound_win
    | with_reducible apply Axis.sound_coef | with_reducible apply Axis.sound_legs | with_reducible apply Mem.wf_store

theorem State.Sound.restartTimer {s : State} {n : AxId} {t : Nat} (h : s.Sound) : (State.restartTimer s n t).Sound := by
  unfold Sys2Proof.Machine.State.restartTimer
  repeat' first
    | with_reducible assumption | refine State.Sound.readStepRing ?_ (by with_reducible assumption)
    | with_reducible apply State.Sound.ite | with_reducible apply State.Sound.getD | with_reducible intro _

theorem State.Sound.execStepTimerExpiry {n : AxId} {s : State} {out : State} (h : s.Sound) (ht : execStepTimerExpiry n s = .next out) : out.Sound := by
  cases ht
  repeat' first
    | with_reducible assumption | with_reducible apply State.Sound.setWord | with_reducible apply State.Sound.moveCounter
    | with_reducible apply State.Sound.setMotion | with_reducible apply State.Sound.countSat
    | refine State.Sound.readStepRing ?_ (by with_reducible assumption) | with_reducible apply State.Sound.ite
    | with_reducible intro _ | simp only [] | split

theorem State.Sound.execLatchArm {src : CmdSrc} {n : AxId} {unit : Fin 2} {dio edge mode target : BitVec 8} {s : State} {out : State} (h : s.Sound) (ht : execLatchArm src n unit dio edge mode target s = .next out) : out.Sound := by
  cases ht
  repeat' first
    | with_reducible assumption | with_reducible apply State.Sound.deliver | with_reducible apply State.Sound.setMotion
    | with_reducible apply State.Sound.doneAxis | with_reducible intro _

theorem State.Sound.feedLatches {s : State} {d : DioId} {te : Nat} {falling : Bool} (h : s.Sound) : (State.feedLatches s d te falling).Sound := by
  unfold Sys2Proof.Machine.State.feedLatches
  repeat' first
    | with_reducible assumption | with_reducible apply State.SoundRec.upd | simp only [State.sound_mk]

theorem State.Sound.execLatchRecord {n : AxId} {unit : Fin 2} {s : State} {out : State} (h : s.Sound) (ht : execLatchRecord n unit s = .next out) : out.Sound := by
  cases ht
  repeat' first
    | with_reducible assumption | with_reducible apply State.Sound.setMotion | with_reducible apply State.Sound.setBit
    | with_reducible apply State.Sound.complete | with_reducible apply State.Sound.ite | with_reducible intro _
    | with_reducible apply State.SoundRec.upd | simp only [State.sound_mk] | split

theorem State.Sound.receiveShaft {s : State} {p : List Byte} (h : s.Sound) : (State.receiveShaft s p).Sound := by
  unfold Sys2Proof.Machine.State.receiveShaft
  repeat' first
    | with_reducible assumption | with_reducible apply State.Sound.countSat | with_reducible apply State.Sound.setFld
    | with_reducible apply State.Sound.setBit | with_reducible apply State.Sound.ite | with_reducible intro _
    | simp only [State.sound_mk] | with_reducible apply State.SoundRec.parts | with_reducible apply State.Sound.regs
    | with_reducible apply State.Sound.force | with_reducible apply State.Sound.shmem | with_reducible apply State.Sound.engines
    | with_reducible apply State.Sound.axes | with_reducible apply State.Sound.slots | with_reducible apply Mem.wf_storeBytes

theorem State.Sound.execShaftSampleRx {payload : List Byte} {s : State} {out : State} (h : s.Sound) (ht : execShaftSampleRx payload s = .next out) : out.Sound := by
  cases ht
  repeat' first
    | with_reducible assumption | with_reducible apply State.Sound.receiveShaft

theorem State.Sound.shaftLoss {s : State} (h : s.Sound) : (State.shaftLoss s).Sound := by
  unfold Sys2Proof.Machine.State.shaftLoss
  repeat' first
    | with_reducible assumption | with_reducible apply State.Sound.setBit | with_reducible apply State.Sound.forAll
    | with_reducible apply State.Sound.event | with_reducible apply State.Sound.raiseEvent
    | with_reducible apply State.Sound.setQueue | with_reducible apply State.Sound.setMotion
    | with_reducible apply State.Sound.complete | with_reducible apply State.Sound.cancelAxis
    | with_reducible apply State.Sound.dropLims | with_reducible apply State.Sound.ite | with_reducible intro _ | simp only []
    | split

theorem State.Sound.execShaftSampleMiss {dtk : Nat} {s : State} {out : State} (h : s.Sound) (ht : execShaftSampleMiss dtk s = .next out) : out.Sound := by
  cases ht
  repeat' first
    | with_reducible assumption | with_reducible apply State.Sound.countSat | with_reducible apply State.Sound.shaftLoss
    | with_reducible apply State.Sound.ite | with_reducible intro _ | with_reducible apply State.SoundRec.upd
    | simp only [State.sound_mk]

end Sys2Proof.Machine
end

