-- ==== Sys2Proof/Laws/Sound/PowerStage.lean ====
section
/-! SUPPORT. Soundness is kept by every operation and every meaning of Machine/PowerStage.lean. -/

namespace Sys2Proof.Machine

theorem State.Sound.judgeEnvelope {s : State} {b : BankId} (h : s.Sound) : (State.judgeEnvelope s b).Sound := by
  unfold Sys2Proof.Machine.State.judgeEnvelope
  repeat' first
    | with_reducible assumption | with_reducible apply State.Sound.setBit | with_reducible apply State.Sound.ite
    | with_reducible intro _

theorem State.Sound.tryStart {s : State} {b : BankId} (h : s.Sound) : (State.tryStart s b).Sound := by
  unfold Sys2Proof.Machine.State.tryStart
  repeat' first
    | with_reducible assumption | with_reducible apply State.Sound.setBnk | with_reducible apply State.Sound.judgeEnvelope
    | with_reducible apply State.Sound.ite | with_reducible intro _ | simp only [] | split

theorem State.Sound.restart {s : State} {b : BankId} (h : s.Sound) : (State.restart s b).Sound := by
  unfold Sys2Proof.Machine.State.restart
  repeat' first
    | with_reducible assumption | with_reducible apply State.Sound.setBnk | with_reducible apply State.Sound.tryStart
    | simp only [] | split

theorem State.Sound.writeCarrierFields {s : State} {b : BankId} {w : Word} (h : s.Sound) : (State.writeCarrierFields s b w).Sound := by
  unfold Sys2Proof.Machine.State.writeCarrierFields
  repeat' first
    | with_reducible assumption | with_reducible apply State.Sound.setBit | with_reducible apply State.Sound.setFld
    | with_reducible apply State.Sound.setBnk | with_reducible apply State.Sound.refreshCapt
    | with_reducible apply State.Sound.restart | with_reducible apply State.Sound.ite | with_reducible intro _

theorem State.Sound.stopPreload {s : State} {n : AxId} {t : Nat} (h : s.Sound) : (State.stopPreload s n t).Sound := by
  unfold Sys2Proof.Machine.State.stopPreload
  repeat' first
    | with_reducible assumption | with_reducible apply State.Sound.setFbk | simp only [] | split

theorem State.Sound.carrierStartRequest {s : State} {b : BankId} {w : Word} (h : s.Sound) : (State.carrierStartRequest s b w).Sound := by
  unfold Sys2Proof.Machine.State.carrierStartRequest
  repeat' first
    | with_reducible assumption | with_reducible apply State.Sound.writeCarrierFields | with_reducible apply State.Sound.setBit
    | with_reducible apply State.Sound.setBnk | with_reducible apply State.Sound.tryStart | simp only [] | split

theorem State.Sound.execCarrierStartRequest {b : BankId} {fn : FnId} {w : Word} {s : State} {out : State} (h : s.Sound) (ht : execCarrierStartRequest b fn w s = .next out) : out.Sound := by
  cases ht
  repeat' first
    | with_reducible assumption | with_reducible apply State.Sound.setupGate
    | with_reducible apply State.Sound.carrierStartRequest | with_reducible intro _

theorem State.Sound.applyFb {s : State} {p : FbWrite → Bool} (h : s.Sound) : (State.applyFb s p).Sound := by
  unfold Sys2Proof.Machine.State.applyFb
  repeat' first
    | with_reducible assumption | with_reducible apply Sparse.wf_foldl_put | with_reducible intro _ | simp only [State.sound_mk]
    | with_reducible apply State.SoundRec.parts | with_reducible apply State.Sound.regs | with_reducible apply State.Sound.force
    | with_reducible apply State.Sound.shmem | with_reducible apply State.Sound.engines | with_reducible apply State.Sound.axes
    | with_reducible apply State.Sound.slots

theorem State.Sound.fbAtBank {s : State} {b : BankId} {t : Nat} (h : s.Sound) : (State.fbAtBank s b t).Sound := by
  unfold Sys2Proof.Machine.State.fbAtBank
  repeat' first
    | with_reducible assumption | with_reducible apply State.Sound.applyFb

theorem State.Sound.fbAtAxis {s : State} {n : AxId} {t : Nat} (h : s.Sound) : (State.fbAtAxis s n t).Sound := by
  unfold Sys2Proof.Machine.State.fbAtAxis
  repeat' first
    | with_reducible assumption | with_reducible apply State.Sound.applyFb

theorem State.Sound.stepPeriod {s : State} {b : BankId} {t : Nat} (h : s.Sound) : (State.stepPeriod s b t).Sound := by
  unfold Sys2Proof.Machine.State.stepPeriod
  repeat' first
    | with_reducible assumption | with_reducible apply State.Sound.setBnk | with_reducible apply State.Sound.setFld

theorem State.Sound.captureBank {s : State} {b : BankId} {t : Nat} (h : s.Sound) : (State.captureBank s b t).Sound := by
  unfold Sys2Proof.Machine.State.captureBank
  repeat' first
    | with_reducible assumption | with_reducible apply State.Sound.forAll | with_reducible apply State.Sound.setAx
    | with_reducible apply State.Sound.setMotion | with_reducible apply State.Sound.ax | with_reducible intro _
    | simp only [Axis.sound_mk] | with_reducible apply Axis.SoundRec.parts | with_reducible apply Axis.sound_win
    | with_reducible apply Axis.sound_coef | with_reducible apply Axis.sound_legs | with_reducible apply Mem.wf_store

theorem State.Sound.groupPeriod {s : State} {e : EngId} (h : s.Sound) : (State.groupPeriod s e).Sound := by
  unfold Sys2Proof.Machine.State.groupPeriod
  repeat' first
    | with_reducible assumption | with_reducible apply State.Sound.engineFault | with_reducible apply State.Sound.declare
    | with_reducible apply State.Sound.setEng | with_reducible apply State.Sound.newPeriod
    | with_reducible apply State.Sound.raiseEvent | with_reducible apply State.Sound.ite | with_reducible apply State.Sound.eng
    | with_reducible intro _ | with_reducible apply Engine.SoundRec.upd | simp only [Engine.sound_mk]

theorem State.Sound.groupPeriods {s : State} {b : BankId} (h : s.Sound) : (State.groupPeriods s b).Sound := by
  unfold Sys2Proof.Machine.State.groupPeriods
  repeat' first
    | with_reducible assumption | with_reducible apply State.Sound.forAll | with_reducible apply State.Sound.groupPeriod

theorem State.Sound.bankFrame {s : State} {b : BankId} {t : Nat} {f : BitVec 32} (h : s.Sound) : (State.bankFrame s b t f).Sound := by
  unfold Sys2Proof.Machine.State.bankFrame
  repeat' first
    | with_reducible assumption | with_reducible apply State.Sound.fbAtBank | with_reducible apply State.Sound.countSat
    | with_reducible apply State.Sound.setBnk | with_reducible apply State.Sound.setFld
    | with_reducible apply State.Sound.forAll | with_reducible apply State.Sound.shareDue
    | with_reducible apply State.Sound.stepPeriod | with_reducible apply State.Sound.captureBank
    | with_reducible apply State.Sound.groupPeriods | with_reducible apply State.Sound.ite | with_reducible intro _

theorem State.Sound.execCarrierStart {b : BankId} {s : State} {out : State} (h : s.Sound) (ht : execCarrierStart b s = .next out) : out.Sound := by
  cases ht
  repeat' first
    | with_reducible assumption | with_reducible apply State.Sound.setBnk | with_reducible apply State.Sound.setBit
    | with_reducible apply State.Sound.forAll | with_reducible apply State.Sound.refreshAxis
    | with_reducible apply State.Sound.bankFrame | with_reducible apply State.Sound.refreshBrake
    | with_reducible apply State.Sound.ite | with_reducible intro _ | simp only [] | split

theorem State.Sound.carrierStopRequest {s : State} {b : BankId} {w : Word} (h : s.Sound) : (State.carrierStopRequest s b w).Sound := by
  unfold Sys2Proof.Machine.State.carrierStopRequest
  repeat' first
    | with_reducible assumption | with_reducible apply State.Sound.setBit | with_reducible apply State.Sound.writeCarrierFields
    | with_reducible apply State.Sound.setBnk | with_reducible apply State.Sound.ite | with_reducible intro _ | simp only []
    | split

theorem State.Sound.execCarrierStopRequest {b : BankId} {fn : FnId} {w : Word} {s : State} {out : State} (h : s.Sound) (ht : execCarrierStopRequest b fn w s = .next out) : out.Sound := by
  cases ht
  repeat' first
    | with_reducible assumption | with_reducible apply State.Sound.setupGate
    | with_reducible apply State.Sound.carrierStopRequest | with_reducible intro _

theorem State.Sound.execCarrierStop {b : BankId} {s : State} {out : State} (h : s.Sound) (ht : execCarrierStop b s = .next out) : out.Sound := by
  cases ht
  repeat' first
    | with_reducible assumption | with_reducible apply State.Sound.setBnk | with_reducible apply State.Sound.setFld
    | with_reducible apply State.Sound.setBit | with_reducible apply State.Sound.forAll
    | with_reducible apply State.Sound.stopPreload | with_reducible apply State.Sound.setAx
    | with_reducible apply State.Sound.enterOff | with_reducible apply State.Sound.refreshAxis
    | with_reducible apply State.Sound.refreshCoast | with_reducible apply State.Sound.tryStart
    | with_reducible apply State.Sound.ite | with_reducible apply State.Sound.ax | with_reducible intro _
    | with_reducible apply State.SoundRec.upd | with_reducible apply Axis.SoundRec.upd
    | simp only [State.sound_mk, Axis.sound_mk] | split

theorem State.Sound.execFbWriteStopped {b : BankId} {s : State} {out : State} (h : s.Sound) (ht : execFbWriteStopped b s = .next out) : out.Sound := by
  cases ht
  repeat' first
    | with_reducible assumption | with_reducible apply State.Sound.applyFb | with_reducible apply State.Sound.forAll
    | with_reducible apply State.Sound.takePreload | with_reducible apply State.Sound.refreshAxis
    | with_reducible apply State.Sound.ite | with_reducible intro _

theorem State.Sound.setVm {s : State} {b : BankId} {vm : BitVec 12} (h : s.Sound) : (State.setVm s b vm).Sound := by
  unfold Sys2Proof.Machine.State.setVm
  repeat' first
    | with_reducible assumption | with_reducible apply State.Sound.setBnk

theorem State.Sound.judgeL1 {s : State} {b : BankId} (h : s.Sound) : (State.judgeL1 s b).Sound := by
  unfold Sys2Proof.Machine.State.judgeL1
  repeat' first
    | with_reducible assumption | with_reducible apply State.Sound.refreshBrake | with_reducible apply State.Sound.setBnk
    | with_reducible apply State.Sound.ite | with_reducible intro _

theorem State.Sound.setVmL2 {s : State} {b : BankId} {on : Bool} (h : s.Sound) : (State.setVmL2 s b on).Sound := by
  unfold Sys2Proof.Machine.State.setVmL2
  repeat' first
    | with_reducible assumption | with_reducible apply State.Sound.withDemandsOf | with_reducible apply State.Sound.setBnk
    | with_reducible apply State.Sound.setBit | with_reducible apply State.Sound.ite | with_reducible intro _

theorem State.Sound.judgeL2 {s : State} {b : BankId} (h : s.Sound) : (State.judgeL2 s b).Sound := by
  unfold Sys2Proof.Machine.State.judgeL2
  repeat' first
    | with_reducible assumption | with_reducible apply State.Sound.setVmL2 | with_reducible apply State.Sound.ite
    | with_reducible intro _

theorem State.Sound.judgeUv {s : State} {b : BankId} (h : s.Sound) : (State.judgeUv s b).Sound := by
  unfold Sys2Proof.Machine.State.judgeUv
  repeat' first
    | with_reducible assumption | with_reducible apply State.Sound.setBit | with_reducible apply State.Sound.event
    | with_reducible apply State.Sound.ite | with_reducible intro _

theorem State.Sound.judgeVm {s : State} {b : BankId} (h : s.Sound) : (State.judgeVm s b).Sound := by
  unfold Sys2Proof.Machine.State.judgeVm
  repeat' first
    | with_reducible assumption | with_reducible apply State.Sound.judgeL1 | with_reducible apply State.Sound.judgeL2
    | with_reducible apply State.Sound.judgeUv

theorem State.Sound.execVmL1 {b : BankId} {vm : BitVec 12} {s : State} {out : State} (h : s.Sound) (ht : execVmL1 b vm s = .next out) : out.Sound := by
  cases ht
  repeat' first
    | with_reducible assumption | with_reducible apply State.Sound.setVm | with_reducible apply State.Sound.judgeL1

theorem State.Sound.execVmL2 {b : BankId} {vm : BitVec 12} {s : State} {out : State} (h : s.Sound) (ht : execVmL2 b vm s = .next out) : out.Sound := by
  cases ht
  repeat' first
    | with_reducible assumption | with_reducible apply State.Sound.setVm | with_reducible apply State.Sound.judgeL2

theorem State.Sound.execVmLow {b : BankId} {vm : BitVec 12} {s : State} {out : State} (h : s.Sound) (ht : execVmLow b vm s = .next out) : out.Sound := by
  cases ht
  repeat' first
    | with_reducible assumption | with_reducible apply State.Sound.setVm | with_reducible apply State.Sound.judgeUv

theorem State.Sound.execBrakeTimeout {b : BankId} {s : State} {out : State} (h : s.Sound) (ht : execBrakeTimeout b s = .next out) : out.Sound := by
  cases ht
  repeat' first
    | with_reducible assumption | with_reducible apply State.Sound.setBnk | with_reducible apply State.Sound.refreshBrake
    | with_reducible apply State.Sound.setBit | with_reducible apply State.Sound.setVmL2 | with_reducible apply State.Sound.ite
    | with_reducible intro _

theorem State.Sound.execVgdUv {b : BankId} {vgd : BitVec 11} {s : State} {out : State} (h : s.Sound) (ht : execVgdUv b vgd s = .next out) : out.Sound := by
  cases ht
  repeat' first
    | with_reducible assumption | with_reducible apply State.Sound.setBnk | with_reducible apply State.Sound.setBit
    | with_reducible apply State.Sound.withDemandsOf | with_reducible apply State.Sound.tryStart
    | with_reducible apply State.Sound.ite | with_reducible intro _ | with_reducible apply State.SoundRec.upd
    | simp only [State.sound_mk]

theorem State.Sound.judgeFlt {s : State} {b : BankId} {active : Bool} (h : s.Sound) : (State.judgeFlt s b active).Sound := by
  unfold Sys2Proof.Machine.State.judgeFlt
  repeat' first
    | with_reducible assumption | with_reducible apply State.Sound.setBnk | with_reducible apply State.Sound.countSat
    | with_reducible apply State.Sound.forAll | with_reducible apply State.Sound.setAx
    | with_reducible apply State.Sound.refreshAxis | with_reducible apply State.Sound.ite | with_reducible apply State.Sound.ax
    | with_reducible intro _ | with_reducible apply Axis.SoundRec.upd | simp only [Axis.sound_mk]

theorem State.Sound.execFltCut {b : BankId} {level : Bool} {s : State} {out : State} (h : s.Sound) (ht : execFltCut b level s = .next out) : out.Sound := by
  cases ht
  repeat' first
    | with_reducible assumption | with_reducible apply State.Sound.judgeFlt

theorem State.Sound.execCbcTrip {n : AxId} {mag : Nat} {s : State} {out : State} (h : s.Sound) (ht : execCbcTrip n mag s = .next out) : out.Sound := by
  cases ht
  repeat' first
    | with_reducible assumption | with_reducible apply State.Sound.countSat | with_reducible apply State.Sound.setAx
    | with_reducible apply State.Sound.refreshAxis | with_reducible apply State.Sound.ite | with_reducible apply State.Sound.ax
    | with_reducible intro _ | with_reducible apply Axis.SoundRec.upd | simp only [Axis.sound_mk]

theorem State.Sound.execDesat {n : AxId} {vds since : Nat} {s : State} {out : State} (h : s.Sound) (ht : execDesat n vds since s = .next out) : out.Sound := by
  cases ht
  repeat' first
    | with_reducible assumption | with_reducible apply State.Sound.withDemands | with_reducible apply State.Sound.ite
    | with_reducible intro _

theorem State.Sound.execHoc {n : AxId} {mag : Nat} {s : State} {out : State} (h : s.Sound) (ht : execHoc n mag s = .next out) : out.Sound := by
  cases ht
  repeat' first
    | with_reducible assumption | with_reducible apply State.Sound.withDemands | with_reducible apply State.Sound.ite
    | with_reducible intro _

theorem State.Sound.refreshBoot {s : State} {n : AxId} (h : s.Sound) : (State.refreshBoot s n).Sound := by
  unfold Sys2Proof.Machine.State.refreshBoot
  repeat' first
    | with_reducible assumption | with_reducible apply State.Sound.setFld

theorem State.Sound.execPwmEdge {n : AxId} {l : Leg} {on bootLow : Bool} {s : State} {out : State} (h : s.Sound) (ht : execPwmEdge n l on bootLow s = .next out) : out.Sound := by
  cases ht
  repeat' first
    | with_reducible assumption | with_reducible apply State.Sound.setLeg | with_reducible apply State.Sound.refreshBoot
    | with_reducible apply State.Sound.turnOn | with_reducible apply State.Sound.turnOff | with_reducible apply State.Sound.ite
    | with_reducible intro _ | simp only [LegHw.single_mk] | with_reducible apply State.Sound.leg
    | with_reducible apply LegHw.SingleRec.same

theorem LegHw.single_complementOn {x : LegHw} {hi : Bool} {now : Nat} : (x.complementOn hi now).single = true := by
  unfold LegHw.complementOn
  split <;> rfl

theorem State.Sound.endSlope {s : State} {n : AxId} {l : Leg} (h : s.Sound) : (State.endSlope s n l).Sound := by
  unfold Sys2Proof.Machine.State.endSlope
  repeat' first
    | with_reducible assumption | with_reducible apply State.Sound.setLeg | with_reducible intro _ | simp only [LegHw.single_mk]
    | with_reducible apply State.Sound.leg | with_reducible apply LegHw.SingleRec.same

theorem State.Sound.execSwitchNodeCrossing {n : AxId} {l : Leg} {node : Int} {held : Bool} {s : State} {out : State} (h : s.Sound) (ht : execSwitchNodeCrossing n l node held s = .next out) : out.Sound := by
  cases ht
  repeat' first
    | with_reducible assumption | with_reducible apply State.Sound.endSlope | with_reducible apply State.Sound.putLeg
    | with_reducible apply State.Sound.ite | with_reducible intro _ | simp only [LegHw.single_mk]
    | with_reducible apply LegHw.single_complementOn | with_reducible apply LegHw.SingleRec.same | split

theorem State.Sound.execDeadTimeTimeout {n : AxId} {l : Leg} {s : State} {out : State} (h : s.Sound) (ht : execDeadTimeTimeout n l s = .next out) : out.Sound := by
  cases ht
  repeat' first
    | with_reducible assumption | with_reducible apply State.Sound.putLeg | with_reducible apply State.Sound.setBit
    | with_reducible apply State.Sound.event | with_reducible apply State.Sound.ite | with_reducible intro _
    | simp only [LegHw.single_mk] | with_reducible apply LegHw.single_complementOn | with_reducible apply LegHw.SingleRec.same
    | split

theorem State.Sound.execSlopeTimeout {n : AxId} {l : Leg} {s : State} {out : State} (h : s.Sound) (ht : execSlopeTimeout n l s = .next out) : out.Sound := by
  cases ht
  repeat' first
    | with_reducible assumption | with_reducible apply State.Sound.setLeg | with_reducible apply State.Sound.setBit
    | with_reducible apply State.Sound.ite | with_reducible intro _ | simp only [LegHw.single_mk]
    | with_reducible apply State.Sound.leg | with_reducible apply LegHw.SingleRec.same | split

end Sys2Proof.Machine
end

