-- ==== Sys2Proof/Laws/Sound/Frames.lean ====
section
/-! SUPPORT. Soundness is kept by every operation and every meaning of Machine/Frames.lean. -/

namespace Sys2Proof.Machine

theorem State.Sound.foldOffset {s : State} {n : AxId} (h : s.Sound) : (State.foldOffset s n).Sound := by
  unfold Sys2Proof.Machine.State.foldOffset
  repeat' first
    | with_reducible assumption | with_reducible apply State.Sound.setAx | with_reducible apply State.Sound.setBit
    | with_reducible apply State.Sound.setFld | with_reducible apply State.Sound.ite | with_reducible apply State.Sound.ax
    | with_reducible intro _ | with_reducible apply Axis.SoundRec.upd | simp only [Axis.sound_mk] | split

theorem State.Sound.takeSafe {s : State} {n : AxId} (h : s.Sound) : (State.takeSafe s n).Sound := by
  unfold Sys2Proof.Machine.State.takeSafe
  repeat' first
    | with_reducible assumption | with_reducible apply State.Sound.setAx | with_reducible apply State.Sound.enterSafe
    | with_reducible apply State.Sound.ax | with_reducible intro _ | with_reducible apply Axis.SoundRec.upd
    | simp only [Axis.sound_mk] | split

theorem State.Sound.takeAbsent {s : State} {n : AxId} (h : s.Sound) : (State.takeAbsent s n).Sound := by
  unfold Sys2Proof.Machine.State.takeAbsent
  repeat' first
    | with_reducible assumption | with_reducible apply State.Sound.setAx | with_reducible apply State.Sound.enterAbsent
    | with_reducible apply State.Sound.ite | with_reducible apply State.Sound.ax | with_reducible intro _
    | with_reducible apply Axis.SoundRec.upd | simp only [Axis.sound_mk]

theorem State.Sound.takeIdent {s : State} {n : AxId} (h : s.Sound) : (State.takeIdent s n).Sound := by
  unfold Sys2Proof.Machine.State.takeIdent
  repeat' first
    | with_reducible assumption | with_reducible apply State.Sound.setPlug | with_reducible apply State.Sound.enterIdle
    | with_reducible apply State.Sound.refreshPlug | with_reducible apply State.Sound.ite | with_reducible intro _

theorem State.Sound.endStop {s : State} {n : AxId} {t : Nat} (h : s.Sound) : (State.endStop s n t).Sound := by
  unfold Sys2Proof.Machine.State.endStop
  repeat' first
    | with_reducible assumption | with_reducible apply State.Sound.putAxState | with_reducible apply State.Sound.enterIdle
    | with_reducible apply State.Sound.ite | with_reducible intro _ | split

theorem State.Sound.takeStop {s : State} {n : AxId} {t : Nat} (h : s.Sound) : (State.takeStop s n t).Sound := by
  unfold Sys2Proof.Machine.State.takeStop
  repeat' first
    | with_reducible assumption | with_reducible apply State.Sound.setAx | with_reducible apply State.Sound.startStop
    | with_reducible apply State.Sound.ite | with_reducible apply State.Sound.ax | with_reducible intro _
    | with_reducible apply Axis.SoundRec.upd | simp only [Axis.sound_mk] | split

theorem State.Sound.leaveOff {s : State} {n : AxId} (h : s.Sound) : (State.leaveOff s n).Sound := by
  unfold Sys2Proof.Machine.State.leaveOff
  repeat' first
    | with_reducible assumption | with_reducible apply State.Sound.enterIdle | with_reducible apply State.Sound.clearMarks
    | with_reducible apply State.Sound.firstClaim | with_reducible apply State.Sound.setBit
    | with_reducible apply State.Sound.haltTimer | with_reducible apply State.Sound.ite | with_reducible intro _ | split

theorem State.Sound.hostEvents {s : State} {n : AxId} (h : s.Sound) : (State.hostEvents s n).Sound := by
  unfold Sys2Proof.Machine.State.hostEvents
  repeat' first
    | with_reducible assumption | with_reducible apply State.Sound.forAll | with_reducible apply State.Sound.raiseFor
    | with_reducible intro _

theorem State.Sound.countHigh {s : State} {n : AxId} (h : s.Sound) : (State.countHigh s n).Sound := by
  unfold Sys2Proof.Machine.State.countHigh
  repeat' first
    | with_reducible assumption | with_reducible apply State.Sound.setAx | with_reducible apply State.Sound.ax
    | with_reducible intro _ | simp only [Axis.sound_mk, LegHw.single_mk] | with_reducible apply Axis.SoundRec.parts
    | with_reducible apply Axis.sound_win | with_reducible apply Axis.sound_coef | with_reducible apply Axis.sound_legs
    | with_reducible apply legs_map | with_reducible apply LegHw.SingleRec.same

theorem State.Sound.endCuts {s : State} {n : AxId} (h : s.Sound) : (State.endCuts s n).Sound := by
  unfold Sys2Proof.Machine.State.endCuts
  repeat' first
    | with_reducible assumption | with_reducible apply State.Sound.setAx | with_reducible apply State.Sound.refreshAxis
    | with_reducible apply State.Sound.ax | with_reducible intro _ | with_reducible apply Axis.SoundRec.upd
    | simp only [Axis.sound_mk]

theorem State.Sound.execSampleTrigger {n : AxId} {s : State} {out : State} (h : s.Sound) (ht : execSampleTrigger n s = .next out) : out.Sound := by
  cases ht
  repeat' first
    | with_reducible assumption | with_reducible apply State.Sound.setAx | with_reducible apply State.Sound.captureStep
    | with_reducible apply State.Sound.ite | with_reducible apply State.Sound.ax | with_reducible intro _
    | with_reducible apply Axis.SoundRec.upd | simp only [Axis.sound_mk]

theorem State.Sound.countLow {s : State} {n : AxId} {m : Sensed} (h : s.Sound) : (State.countLow s n m).Sound := by
  unfold Sys2Proof.Machine.State.countLow
  repeat' first
    | with_reducible assumption | with_reducible apply State.Sound.setPlug

theorem State.Sound.execSampleComplete {n : AxId} {adc : AdcSet} {s : State} {out : State} (h : s.Sound) (ht : execSampleComplete n adc s = .next out) : out.Sound := by
  cases ht
  repeat' first
    | with_reducible assumption | with_reducible apply State.Sound.foldOffset | with_reducible apply State.Sound.countLow
    | with_reducible apply State.Sound.setAx | with_reducible apply State.Sound.forAll
    | with_reducible apply State.Sound.raiseFor | with_reducible apply State.Sound.ite | with_reducible apply State.Sound.ax
    | with_reducible intro _ | with_reducible apply State.SoundRec.upd | with_reducible apply Axis.SoundRec.upd
    | simp only [State.sound_mk, Axis.sound_mk] | split

theorem State.Sound.releaseVals {s : State} {n : AxId} {v : LatchVals} {t : Nat} (h : s.Sound) : (State.releaseVals s n v t).Sound := by
  unfold Sys2Proof.Machine.State.releaseVals
  repeat' first
    | with_reducible assumption | with_reducible apply State.Sound.setAx | with_reducible apply State.Sound.setBit
    | with_reducible apply State.Sound.driveLegs | with_reducible apply State.Sound.refreshAxis
    | with_reducible apply State.Sound.ite | with_reducible apply State.Sound.ax | with_reducible intro _
    | with_reducible apply Axis.SoundRec.upd | simp only [Axis.sound_mk]

theorem State.Sound.applied {s : State} {n : AxId} (h : s.Sound) : (State.applied s n).Sound := by
  unfold Sys2Proof.Machine.State.applied
  repeat' first
    | with_reducible assumption | with_reducible apply State.Sound.setAx | with_reducible apply State.Sound.withDemands
    | with_reducible apply State.Sound.ite | with_reducible apply State.Sound.ax | with_reducible intro _
    | with_reducible apply Axis.SoundRec.upd | simp only [Axis.sound_mk]

theorem State.Sound.arbiterCommit {s : State} {n : AxId} {t : Nat} {out : State} (h : s.Sound) (ht : State.arbiterCommit s n t = some out) : out.Sound := by
  unfold Sys2Proof.Machine.State.arbiterCommit at ht
  dsimp only at ht
  repeat' split at ht
  all_goals first | contradiction | (injection ht with e; subst e)
  repeat' first
    | with_reducible assumption | with_reducible apply State.Sound.raiseEngLoss | with_reducible apply State.Sound.refreshFo
    | with_reducible apply State.Sound.releaseVals | with_reducible apply State.Sound.applied

theorem State.Sound.deadlineMiss {s : State} {n : AxId} {frame : BitVec 32} {t : Nat} (h : s.Sound) : (State.deadlineMiss s n frame t).Sound := by
  unfold Sys2Proof.Machine.State.deadlineMiss
  repeat' first
    | with_reducible assumption | with_reducible apply State.Sound.countSat | with_reducible apply State.Sound.setBit
    | with_reducible apply State.Sound.event | with_reducible apply State.Sound.setAx
    | with_reducible apply State.Sound.releaseVals | with_reducible apply State.Sound.faultEvent
    | with_reducible apply State.Sound.withDemands | with_reducible apply State.Sound.ite | with_reducible apply State.Sound.ax
    | with_reducible intro _ | with_reducible apply Axis.SoundRec.upd | simp only [Axis.sound_mk]

theorem State.Sound.heartbeat {s : State} {n : AxId} {d : DueSample} (h : s.Sound) : (State.heartbeat s n d).Sound := by
  unfold Sys2Proof.Machine.State.heartbeat
  repeat' first
    | with_reducible assumption | with_reducible apply State.Sound.setAx | with_reducible apply State.Sound.engineFault
    | with_reducible apply State.Sound.declare | with_reducible apply State.Sound.ite | with_reducible apply State.Sound.ax
    | with_reducible intro _ | with_reducible apply Axis.SoundRec.upd | simp only [Axis.sound_mk] | split

theorem State.Sound.releaseEvents {s : State} {n : AxId} {f : BitVec 32} (h : s.Sound) : (State.releaseEvents s n f).Sound := by
  unfold Sys2Proof.Machine.State.releaseEvents
  repeat' first
    | with_reducible assumption | with_reducible apply State.Sound.forAll | with_reducible apply State.Sound.raiseFor
    | with_reducible intro _

theorem State.Sound.release {s : State} {n : AxId} {d : DueSample} {t : Nat} {f : BitVec 32} (h : s.Sound) : (State.release s n d t f).Sound := by
  unfold Sys2Proof.Machine.State.release
  repeat' first
    | with_reducible assumption | with_reducible apply State.Sound.setAx | with_reducible apply State.Sound.setFld
    | with_reducible apply State.Sound.heartbeat | with_reducible apply State.Sound.releaseVals
    | with_reducible apply State.Sound.applied | with_reducible apply State.Sound.takeoverDone
    | with_reducible apply State.Sound.deadlineMiss | with_reducible apply State.Sound.restartTimer
    | with_reducible apply State.Sound.releaseEvents | refine State.Sound.arbiterCommit ?_ (by with_reducible assumption)
    | with_reducible apply State.Sound.ax | with_reducible intro _ | with_reducible apply State.SoundRec.upd
    | with_reducible apply Axis.SoundRec.upd | simp only [State.sound_mk, Axis.sound_mk] | split

theorem State.Sound.execReleaseInstant {n : AxId} {s : State} {out : State} (h : s.Sound) (ht : execReleaseInstant n s = .next out) : out.Sound := by
  cases ht
  repeat' first
    | with_reducible assumption | with_reducible apply State.Sound.release | with_reducible apply State.Sound.fbAtAxis
    | with_reducible apply State.Sound.ite | with_reducible intro _ | split

theorem State.Sound.releaseAll {s : State} {n : AxId} {t : Nat} {f : BitVec 32} (h : s.Sound) : (State.releaseAll s n t f).Sound := by
  unfold Sys2Proof.Machine.State.releaseAll
  repeat' first
    | with_reducible assumption | with_reducible apply State.Sound.forAll | with_reducible apply State.Sound.release
    | with_reducible intro _

theorem State.Sound.axisFrame {s : State} {n : AxId} {t : Nat} {f : BitVec 32} {codes : OfsCodes} (h : s.Sound) : (State.axisFrame s n t f codes).Sound := by
  unfold Sys2Proof.Machine.State.axisFrame
  repeat' first
    | with_reducible assumption | with_reducible apply State.Sound.foldOffset | with_reducible apply State.Sound.fbAtAxis
    | with_reducible apply State.Sound.takePreload | with_reducible apply State.Sound.setAx
    | with_reducible apply State.Sound.releaseAll | with_reducible apply State.Sound.endCuts
    | with_reducible apply State.Sound.drainBucket | with_reducible apply State.Sound.countHigh
    | with_reducible apply State.Sound.takeSafe | with_reducible apply State.Sound.takeIdent
    | with_reducible apply State.Sound.takeAbsent | with_reducible apply State.Sound.endStop
    | with_reducible apply State.Sound.takeStop | with_reducible apply State.Sound.leaveOff
    | with_reducible apply State.Sound.forAll | with_reducible apply State.Sound.newPeriod
    | with_reducible apply State.Sound.hostEvents | with_reducible apply State.Sound.advanceQueue
    | with_reducible apply State.Sound.refreshAxis | with_reducible apply State.Sound.ite | with_reducible apply State.Sound.ax
    | with_reducible intro _ | with_reducible apply Axis.SoundRec.upd | simp only [Axis.sound_mk]

theorem State.Sound.execFrameBoundary {at_ : FrameAt} {s : State} {out : State} (h : s.Sound) (ht : execFrameBoundary at_ s = .next out) : out.Sound := by
  cases ht
  repeat' first
    | with_reducible assumption | with_reducible apply State.Sound.bankFrame | with_reducible apply State.Sound.axisFrame
    | with_reducible apply State.Sound.ite | with_reducible intro _ | simp only [] | split

end Sys2Proof.Machine
end

