-- ==== Sys2Proof/Laws/Sound/Loops.lean ====
section
/-! SUPPORT. Soundness is kept by every operation and every meaning of Machine/Loops.lean. -/

namespace Sys2Proof.Machine

theorem State.Sound.followPoint {s : State} {n : AxId} {f : BitVec 32} (h : s.Sound) : (State.followPoint s n f).Sound := by
  unfold Sys2Proof.Machine.State.followPoint
  repeat' first
    | with_reducible assumption | with_reducible apply State.Sound.setMotion | with_reducible apply State.Sound.trajectoryMiss
    | with_reducible apply State.Sound.ite | with_reducible intro _ | simp only [] | split

theorem State.Sound.runLoops {s : State} {e : EngId} {n : AxId} (h : s.Sound) : (State.runLoops s e n).Sound := by
  unfold Sys2Proof.Machine.State.runLoops
  repeat' first
    | with_reducible assumption | with_reducible apply State.Sound.setAx | with_reducible apply State.Sound.setMotion
    | with_reducible apply State.Sound.ax | with_reducible intro _ | with_reducible apply Axis.SoundRec.upd
    | simp only [Axis.sound_mk]

theorem State.Sound.checkLimits {s : State} {e : EngId} {n : AxId} (h : s.Sound) : (State.checkLimits s e n).Sound := by
  unfold Sys2Proof.Machine.State.checkLimits
  repeat' first
    | with_reducible assumption | with_reducible apply State.Sound.setMotion | with_reducible apply State.Sound.loopFault
    | with_reducible apply State.Sound.ite | with_reducible intro _

theorem State.Sound.fillRing {s : State} {n : AxId} {v : Frac} {ticks most : Nat} (h : s.Sound) : (State.fillRing s n v ticks most).Sound := by
  unfold Sys2Proof.Machine.State.fillRing
  repeat' first
    | with_reducible assumption | with_reducible apply State.Sound.setMotion | with_reducible apply State.Sound.writeHalt
    | with_reducible apply State.Sound.setAx | with_reducible apply State.Sound.ite | with_reducible apply State.Sound.ax
    | with_reducible intro _ | simp only [Axis.sound_mk] | with_reducible apply Axis.SoundRec.parts
    | with_reducible apply Axis.sound_win | with_reducible apply Axis.sound_coef | with_reducible apply Axis.sound_legs
    | with_reducible apply Mem.wf_foldl | with_reducible apply Mem.wf_store | split

theorem State.Sound.fillRun {s : State} {n : AxId} (h : s.Sound) : (State.fillRun s n).Sound := by
  unfold Sys2Proof.Machine.State.fillRun
  repeat' first
    | with_reducible assumption | with_reducible apply State.Sound.fillRing | with_reducible apply State.Sound.ite
    | with_reducible intro _

theorem State.Sound.noteSteps {s : State} {n : AxId} (h : s.Sound) : (State.noteSteps s n).Sound := by
  unfold Sys2Proof.Machine.State.noteSteps
  repeat' first
    | with_reducible assumption | with_reducible apply State.Sound.setMotion

theorem State.Sound.holdRing {s : State} {n : AxId} (h : s.Sound) : (State.holdRing s n).Sound := by
  unfold Sys2Proof.Machine.State.holdRing
  repeat' first
    | with_reducible assumption | with_reducible apply State.Sound.setMotion

theorem State.Sound.homeRun {s : State} {n : AxId} (h : s.Sound) : (State.homeRun s n).Sound := by
  unfold Sys2Proof.Machine.State.homeRun
  repeat' first
    | with_reducible assumption | with_reducible apply State.Sound.setMotion | with_reducible apply State.Sound.homeMissed
    | with_reducible apply State.Sound.holdRing | with_reducible apply State.Sound.markEnd
    | with_reducible apply State.Sound.windowStore | with_reducible apply State.Sound.ite | with_reducible intro _
    | simp only [] | split

theorem State.Sound.stallRun {s : State} {n : AxId} (h : s.Sound) : (State.stallRun s n).Sound := by
  unfold Sys2Proof.Machine.State.stallRun
  repeat' first
    | with_reducible assumption | with_reducible apply State.Sound.setMotion | with_reducible apply State.Sound.stalled
    | with_reducible apply State.Sound.holdRing | with_reducible apply State.Sound.ite | with_reducible intro _ | simp only []
    | split

theorem State.Sound.castRead {s : State} {n : AxId} {pos : BitVec 48} (h : s.Sound) : (State.castRead s n pos).Sound := by
  unfold Sys2Proof.Machine.State.castRead
  repeat' first
    | with_reducible assumption | with_reducible apply State.Sound.setMotion | with_reducible apply State.Sound.ite
    | with_reducible intro _ | simp only [] | split

theorem State.Sound.noteRun {s : State} {n : AxId} (h : s.Sound) : (State.noteRun s n).Sound := by
  unfold Sys2Proof.Machine.State.noteRun
  repeat' first
    | with_reducible assumption | with_reducible apply State.Sound.setMotion

theorem State.Sound.stepRun {s : State} {n : AxId} (h : s.Sound) : (State.stepRun s n).Sound := by
  unfold Sys2Proof.Machine.State.stepRun
  repeat' first
    | with_reducible assumption | with_reducible apply State.Sound.stallRun | with_reducible apply State.Sound.homeRun
    | with_reducible apply State.Sound.fillRun

theorem State.Sound.axisRun {s : State} {e : EngId} {n : AxId} (h : s.Sound) : (State.axisRun s e n).Sound := by
  unfold Sys2Proof.Machine.State.axisRun
  repeat' first
    | with_reducible assumption | with_reducible apply State.Sound.applyStepCfg | with_reducible apply State.Sound.setEng
    | with_reducible apply State.Sound.castRead | with_reducible apply State.Sound.applyCoef
    | with_reducible apply State.Sound.noteRun | with_reducible apply State.Sound.noteSteps
    | with_reducible apply State.Sound.followPoint | with_reducible apply State.Sound.runLoops
    | with_reducible apply State.Sound.checkLimits | with_reducible apply State.Sound.stepRun
    | with_reducible apply State.Sound.ite | with_reducible apply State.Sound.eng | with_reducible intro _
    | with_reducible apply Engine.SoundRec.upd | simp only [Engine.sound_mk]

theorem State.Sound.imageCommit {s : State} {e : EngId} {n : AxId} (h : s.Sound) : (State.imageCommit s e n).Sound := by
  unfold Sys2Proof.Machine.State.imageCommit
  repeat' first
    | with_reducible assumption | with_reducible apply State.Sound.setEng | with_reducible apply State.Sound.commit
    | with_reducible apply State.Sound.eng | with_reducible intro _ | with_reducible apply Engine.SoundRec.upd
    | simp only [Engine.sound_mk]

theorem State.Sound.filterRun {s : State} {n : AxId} (h : s.Sound) : (State.filterRun s n).Sound := by
  unfold Sys2Proof.Machine.State.filterRun
  repeat' first
    | with_reducible assumption | with_reducible apply State.Sound.setMotion | with_reducible apply State.Sound.ite
    | with_reducible intro _

theorem State.Sound.addStats {s : State} {n : AxId} {g : Nat} {vm id iq : Int} (h : s.Sound) : (State.addStats s n g vm id iq).Sound := by
  unfold Sys2Proof.Machine.State.addStats
  repeat' first
    | with_reducible assumption | with_reducible apply State.Sound.setMotion | simp only [] | split

theorem State.Sound.captureGrid {s : State} {n : AxId} {vm : Int} (h : s.Sound) : (State.captureGrid s n vm).Sound := by
  unfold Sys2Proof.Machine.State.captureGrid
  repeat' first
    | with_reducible assumption | with_reducible apply State.Sound.filterRun | with_reducible apply State.Sound.setMotion
    | with_reducible apply State.Sound.writeCapture | with_reducible apply State.Sound.addStats
    | with_reducible apply State.Sound.ite | with_reducible intro _ | simp only [] | split

end Sys2Proof.Machine
end

