-- ==== Sys2Proof/Laws/Sound/Health.lean ====
section
/-! SUPPORT. Soundness is kept by every operation and every meaning of Machine/Health.lean. -/

namespace Sys2Proof.Machine

theorem State.Sound.healthRecord {s : State} {e : EngId} {n : AxId} (h : s.Sound) : (State.healthRecord s e n).Sound := by
  unfold Sys2Proof.Machine.State.healthRecord
  repeat' first
    | with_reducible assumption | with_reducible apply State.Sound.countSat | with_reducible apply State.Sound.setMoni
    | with_reducible apply State.Sound.queueEvent | with_reducible apply State.Sound.feedBaseline | simp only [] | split

end Sys2Proof.Machine
end

