-- ==== Sys2Proof/Laws/Sound/Handler.lean ====
section
/-! SUPPORT. Soundness is kept by every operation and every meaning of Machine/Handler.lean. -/

namespace Sys2Proof.Machine

theorem State.Sound.writeCast {s : State} {e : EngId} {n : AxId} {torn : Bool} (h : s.Sound) : (State.writeCast s e n torn).Sound := by
  unfold Sys2Proof.Machine.State.writeCast
  repeat' first
    | with_reducible assumption | with_reducible apply State.Sound.setAx | with_reducible apply State.Sound.ite
    | with_reducible apply State.Sound.ax | with_reducible intro _ | with_reducible apply State.SoundRec.upd
    | simp only [State.sound_mk, Axis.sound_mk] | with_reducible apply Axis.SoundRec.parts | with_reducible apply Axis.sound_win
    | with_reducible apply Axis.sound_coef | with_reducible apply Axis.sound_legs | with_reducible apply Mem.wf_storeBytes

theorem State.Sound.gearDir {s : State} {n : AxId} {f : BitVec 32} {ts : Nat} (h : s.Sound) : (State.gearDir s n f ts).Sound := by
  unfold Sys2Proof.Machine.State.gearDir
  repeat' first
    | with_reducible assumption | with_reducible apply State.Sound.setMotion | with_reducible apply State.Sound.ite
    | with_reducible intro _ | simp only [] | split

theorem State.Sound.startRamp {s : State} {n : AxId} {f : BitVec 32} {t ts : Nat} (h : s.Sound) : (State.startRamp s n f t ts).Sound := by
  unfold Sys2Proof.Machine.State.startRamp
  repeat' first
    | with_reducible assumption | with_reducible apply State.Sound.setMotion | with_reducible apply State.Sound.ite
    | with_reducible intro _ | simp only [] | split

theorem State.Sound.putPoint {s : State} {e : EngId} {n : AxId} (h : s.Sound) : (State.putPoint s e n).Sound := by
  unfold Sys2Proof.Machine.State.putPoint
  repeat' first
    | with_reducible assumption | with_reducible apply State.Sound.applyLims | with_reducible apply State.Sound.gearDir
    | with_reducible apply State.Sound.startRamp | with_reducible apply State.Sound.setAx
    | with_reducible apply State.Sound.setMotion | with_reducible apply State.Sound.markEnd
    | with_reducible apply State.Sound.fillRing | with_reducible apply State.Sound.ite | with_reducible apply State.Sound.ax
    | with_reducible intro _ | simp only [Axis.sound_mk] | with_reducible apply Axis.SoundRec.parts
    | with_reducible apply Axis.sound_win | with_reducible apply Axis.sound_coef | with_reducible apply Axis.sound_legs
    | with_reducible apply Mem.wf_storeBytes

theorem State.Sound.trajRun {s : State} {e : EngId} (h : s.Sound) : (State.trajRun s e).Sound := by
  unfold Sys2Proof.Machine.State.trajRun
  repeat' first
    | with_reducible assumption | with_reducible apply State.Sound.forAll | with_reducible apply State.Sound.putPoint
    | with_reducible intro _

theorem State.Sound.runEnd {s : State} {e : EngId} {reach : RunReach} (h : s.Sound) : (State.runEnd s e reach).Sound := by
  unfold Sys2Proof.Machine.State.runEnd
  repeat' first
    | with_reducible assumption | with_reducible apply State.Sound.imageCommit | with_reducible apply State.Sound.writeCast
    | with_reducible apply State.Sound.ite | with_reducible intro _

theorem State.Sound.imageRun {s : State} {e : EngId} {reach : RunReach} (h : s.Sound) : (State.imageRun s e reach).Sound := by
  unfold Sys2Proof.Machine.State.imageRun
  repeat' first
    | with_reducible assumption | with_reducible apply State.Sound.axisRun | with_reducible apply State.Sound.runEnd
    | with_reducible apply State.Sound.captureGrid | with_reducible apply State.Sound.forAll
    | with_reducible apply State.Sound.healthRecord | with_reducible apply State.Sound.trajRun
    | with_reducible apply State.Sound.ite | with_reducible intro _

theorem State.Sound.execHandlerEntry {e : EngId} {reach : RunReach} {s : State} {out : State} (h : s.Sound) (ht : execHandlerEntry e reach s = .next out) : out.Sound := by
  cases ht
  repeat' first
    | with_reducible assumption | with_reducible apply State.Sound.setEng | with_reducible apply State.Sound.imageRun
    | with_reducible apply State.Sound.steps | with_reducible apply State.Sound.Engine_enter
    | with_reducible apply State.Sound.setBit | with_reducible apply State.Sound.ite | with_reducible apply State.Sound.eng
    | with_reducible intro _ | with_reducible apply Engine.SoundRec.upd | simp only [Engine.sound_mk] | split

theorem State.Sound.placeRecord {s : State} {n : AxId} (h : s.Sound) : (State.placeRecord s n).Sound := by
  unfold Sys2Proof.Machine.State.placeRecord
  repeat' first
    | with_reducible assumption | with_reducible apply State.Sound.setAx | with_reducible apply State.Sound.ax
    | with_reducible intro _ | with_reducible apply State.SoundRec.upd | simp only [State.sound_mk, Axis.sound_mk]
    | with_reducible apply Axis.SoundRec.parts | with_reducible apply Axis.sound_win | with_reducible apply Axis.sound_coef
    | with_reducible apply Axis.sound_legs | with_reducible apply Mem.wf_foldl | with_reducible apply Mem.wf_store

theorem State.Sound.mailIn {s : State} {n : AxId} {waited : Bool} (h : s.Sound) : (State.mailIn s n waited).Sound := by
  unfold Sys2Proof.Machine.State.mailIn
  repeat' first
    | with_reducible assumption | with_reducible apply State.Sound.placeRecord | with_reducible apply State.Sound.hostEvents
    | with_reducible apply State.Sound.ite | with_reducible intro _

theorem State.Sound.noteOther {s : State} {n : AxId} {d : Nat} (h : s.Sound) : (State.noteOther s n d).Sound := by
  unfold Sys2Proof.Machine.State.noteOther
  repeat' first
    | with_reducible assumption | with_reducible apply State.Sound.setAx | with_reducible apply State.Sound.ax
    | with_reducible intro _ | with_reducible apply Axis.SoundRec.upd | simp only [Axis.sound_mk]

theorem State.Sound.execAxisEnable {src : CmdSrc} {n : AxId} {on : Bool} {s : State} {out : State} (h : s.Sound) (ht : execAxisEnable src n on s = .next out) : out.Sound := by
  cases ht
  repeat' first
    | with_reducible assumption | with_reducible apply State.Sound.deliver | with_reducible apply State.Sound.complete
    | with_reducible apply State.Sound.setAx | with_reducible apply State.Sound.enterRun
    | with_reducible apply State.Sound.startStop | with_reducible apply State.Sound.enterIdle
    | with_reducible apply State.Sound.ite | with_reducible apply State.Sound.ax | with_reducible intro _
    | with_reducible apply Axis.SoundRec.upd | simp only [Axis.sound_mk] | split

theorem State.Sound.execAxisHold {src : CmdSrc} {n : AxId} {s : State} {out : State} (h : s.Sound) (ht : execAxisHold src n s = .next out) : out.Sound := by
  cases ht
  repeat' first
    | with_reducible assumption | with_reducible apply State.Sound.deliver | with_reducible apply State.Sound.startStop
    | with_reducible apply State.Sound.complete | with_reducible apply State.Sound.ite | with_reducible intro _

theorem State.Sound.execWcClear {src : CmdSrc} {n : AxId} {s : State} {out : State} (h : s.Sound) (ht : execWcClear src n s = .next out) : out.Sound := by
  cases ht
  repeat' first
    | with_reducible assumption | with_reducible apply State.Sound.deliver | with_reducible apply State.Sound.withDemands
    | with_reducible apply State.Sound.complete | with_reducible intro _

theorem State.Sound.execSetCoef {src : CmdSrc} {n : AxId} {id : BitVec 8} {value : BitVec 32} {s : State} {out : State} (h : s.Sound) (ht : execSetCoef src n id value s = .next out) : out.Sound := by
  cases ht
  repeat' first
    | with_reducible assumption | with_reducible apply State.Sound.deliver | with_reducible apply State.Sound.cancelAxis
    | with_reducible apply State.Sound.setAx | with_reducible apply State.Sound.mailIn | with_reducible apply State.Sound.ite
    | with_reducible apply State.Sound.ax | with_reducible intro _ | with_reducible apply Axis.SoundRec.upd
    | simp only [Axis.sound_mk]

theorem State.Sound.execMoveLim {src : CmdSrc} {n : AxId} {v a d j : F32} {s : State} {out : State} (h : s.Sound) (ht : execMoveLim src n v a d j s = .next out) : out.Sound := by
  cases ht
  repeat' first
    | with_reducible assumption | with_reducible apply State.Sound.deliver | with_reducible apply State.Sound.cancelAxis
    | with_reducible apply State.Sound.setMotion | with_reducible apply State.Sound.noteOther
    | with_reducible apply State.Sound.mailIn | with_reducible apply State.Sound.tellGroup
    | with_reducible apply State.Sound.doneAxis | with_reducible apply State.Sound.ite | with_reducible intro _

theorem State.Sound.execStepCfg {src : CmdSrc} {n : AxId} {stallN : BitVec 8} {iRun iHold holdMs stallTh : BitVec 16} {stallVmin : F32} {s : State} {out : State} (h : s.Sound) (ht : execStepCfg src n stallN iRun iHold holdMs stallTh stallVmin s = .next out) : out.Sound := by
  cases ht
  repeat' first
    | with_reducible assumption | with_reducible apply State.Sound.deliver | with_reducible apply State.Sound.cancelAxis
    | with_reducible apply State.Sound.setMotion | with_reducible apply State.Sound.noteOther
    | with_reducible apply State.Sound.mailIn | with_reducible apply State.Sound.ite | with_reducible intro _

theorem State.Sound.execPosPreload {src : CmdSrc} {n : AxId} {pos : Int} {s : State} {out : State} (h : s.Sound) (ht : execPosPreload src n pos s = .next out) : out.Sound := by
  cases ht
  repeat' first
    | with_reducible assumption | with_reducible apply State.Sound.deliver | with_reducible apply State.Sound.setPosition
    | with_reducible apply State.Sound.doneAxis | with_reducible intro _

theorem State.Sound.execGroupStop {src : CmdSrc} {mask : BitVec 48} {cat : StopCat} {s : State} {out : State} (h : s.Sound) (ht : execGroupStop src mask cat s = .next out) : out.Sound := by
  cases ht
  repeat' first
    | with_reducible assumption | with_reducible apply State.Sound.deliver | with_reducible apply State.Sound.forAll
    | with_reducible apply State.Sound.startStop | with_reducible apply State.Sound.requestStop
    | with_reducible apply State.Sound.complete | with_reducible apply State.Sound.ite | with_reducible intro _

theorem State.Sound.execSnapshot {src : CmdSrc} {s : State} {out : State} (h : s.Sound) (ht : execSnapshot src s = .next out) : out.Sound := by
  cases ht
  repeat' first
    | with_reducible assumption | with_reducible apply State.Sound.deliver | with_reducible apply State.Sound.queueEvent
    | with_reducible apply State.Sound.complete | with_reducible intro _

theorem State.Sound.execPoSet {src : CmdSrc} {k : BitVec 8} {n m : BitVec 16} {s : State} {out : State} (h : s.Sound) (ht : execPoSet src k n m s = .next out) : out.Sound := by
  cases ht
  repeat' first
    | with_reducible assumption | with_reducible apply State.Sound.deliver | with_reducible apply State.Sound.applyPoSet
    | with_reducible apply State.Sound.complete | with_reducible intro _ | split

theorem State.Sound.startCopy {s : State} {e : EngId} {src : Option CmdSrc} {image : List Byte} (h : s.Sound) : (State.startCopy s e src image).Sound := by
  unfold Sys2Proof.Machine.State.startCopy
  repeat' first
    | with_reducible assumption | with_reducible apply State.Sound.complete | with_reducible apply State.Sound.setEng
    | with_reducible apply State.Sound.Engine_zero | with_reducible apply State.Sound.setEngState
    | with_reducible apply State.Sound.eng | with_reducible intro _ | with_reducible apply Engine.SoundRec.upd
    | simp only [Engine.sound_mk] | split

theorem State.Sound.execEngLoad {src : CmdSrc} {m : BitVec 8} {image : List Byte} {s : State} {out : State} (h : s.Sound) (ht : execEngLoad src m image s = .next out) : out.Sound := by
  cases ht
  repeat' first
    | with_reducible assumption | with_reducible apply State.Sound.deliver | with_reducible apply State.Sound.startCopy
    | with_reducible apply State.Sound.complete | with_reducible intro _ | split

theorem State.Sound.execEngStart {src : CmdSrc} {m : BitVec 8} {s : State} {out : State} (h : s.Sound) (ht : execEngStart src m s = .next out) : out.Sound := by
  cases ht
  repeat' first
    | with_reducible assumption | with_reducible apply State.Sound.deliver | with_reducible apply State.Sound.complete
    | with_reducible apply State.Sound.setEng | with_reducible apply State.Sound.startEngine
    | with_reducible apply State.Sound.ite | with_reducible apply State.Sound.eng | with_reducible intro _
    | with_reducible apply Engine.SoundRec.upd | simp only [Engine.sound_mk] | split

end Sys2Proof.Machine
end

