-- ==== Sys2Proof/Laws/Sound/Dio.lean ====
section
/-! SUPPORT. Soundness is kept by every operation and every meaning of Machine/Dio.lean. -/

namespace Sys2Proof.Machine

theorem State.Sound.showLevel {s : State} {d : DioId} {v : Bool} (h : s.Sound) : (State.showLevel s d v).Sound := by
  unfold Sys2Proof.Machine.State.showLevel
  repeat' first
    | with_reducible assumption | with_reducible apply State.Sound.setBit | with_reducible apply State.Sound.setWord
    | with_reducible apply State.Sound.ite | with_reducible intro _

theorem State.Sound.refreshOutputs {s : State} (h : s.Sound) : (State.refreshOutputs s).Sound := by
  unfold Sys2Proof.Machine.State.refreshOutputs
  repeat' first
    | with_reducible assumption | with_reducible apply State.Sound.forAll | with_reducible apply State.Sound.setChan
    | with_reducible apply State.Sound.showLevel | with_reducible apply State.Sound.setBit
    | with_reducible apply State.Sound.ite | with_reducible intro _

theorem State.Sound.showImage {s : State} {d : DioId} {v : Bool} (h : s.Sound) : (State.showImage s d v).Sound := by
  unfold Sys2Proof.Machine.State.showImage
  repeat' first
    | with_reducible assumption | with_reducible apply State.Sound.setChan | with_reducible apply State.Sound.setWord
    | with_reducible apply State.Sound.ite | with_reducible intro _

theorem State.Sound.enterSafeOut {s : State} {d : DioId} {cause : Nat} (h : s.Sound) : (State.enterSafeOut s d cause).Sound := by
  unfold Sys2Proof.Machine.State.enterSafeOut
  repeat' first
    | with_reducible assumption | with_reducible apply State.Sound.setChan | with_reducible apply State.Sound.setBit
    | with_reducible apply State.Sound.event | with_reducible apply State.Sound.refreshOutputs
    | with_reducible apply State.Sound.ite | with_reducible intro _

theorem State.Sound.expireCmd {s : State} {d : DioId} (h : s.Sound) : (State.expireCmd s d).Sound := by
  unfold Sys2Proof.Machine.State.expireCmd
  repeat' first
    | with_reducible assumption | with_reducible apply State.Sound.setChan | with_reducible apply State.Sound.enterSafeOut
    | with_reducible apply State.Sound.ite | with_reducible intro _ | simp only [] | split

theorem State.Sound.execDioSet {src : CmdSrc} {mask value : BitVec 48} {s : State} {out : State} (h : s.Sound) (ht : execDioSet src mask value s = .next out) : out.Sound := by
  cases ht
  repeat' first
    | with_reducible assumption | with_reducible apply State.Sound.deliver | with_reducible apply State.Sound.forAll
    | with_reducible apply State.Sound.expireCmd | with_reducible apply State.Sound.showImage
    | with_reducible apply State.Sound.setBit | with_reducible apply State.Sound.event
    | with_reducible apply State.Sound.setChan | with_reducible apply State.Sound.refreshOutputs
    | with_reducible apply State.Sound.complete | with_reducible apply State.Sound.ite | with_reducible intro _

theorem State.Sound.execDioChannelTsd {d : DioId} {s : State} {out : State} (h : s.Sound) (ht : execDioChannelTsd d s = .next out) : out.Sound := by
  cases ht
  repeat' first
    | with_reducible assumption | with_reducible apply State.Sound.setBit | with_reducible apply State.Sound.event
    | with_reducible apply State.Sound.refreshOutputs | with_reducible apply State.Sound.ite | with_reducible intro _

theorem State.Sound.execDioCurrentUpdate {total : Nat} {limited : BitVec 48} {s : State} {out : State} (h : s.Sound) (ht : execDioCurrentUpdate total limited s = .next out) : out.Sound := by
  cases ht
  repeat' first
    | with_reducible assumption | with_reducible apply State.Sound.forAll | with_reducible apply State.Sound.setBit
    | with_reducible apply State.Sound.setFld | with_reducible apply State.Sound.event
    | with_reducible apply State.Sound.refreshOutputs | with_reducible apply State.Sound.ite | with_reducible intro _
    | with_reducible apply State.SoundRec.upd | simp only [State.sound_mk]

theorem State.Sound.endTotal {s : State} (h : s.Sound) : (State.endTotal s).Sound := by
  unfold Sys2Proof.Machine.State.endTotal
  repeat' first
    | with_reducible assumption | with_reducible apply State.Sound.setBit | with_reducible apply State.Sound.refreshOutputs
    | with_reducible apply State.SoundRec.upd | simp only [State.sound_mk]

theorem State.Sound.execDioTotalClear {fn : FnId} {s : State} {out : State} (h : s.Sound) (ht : execDioTotalClear fn s = .next out) : out.Sound := by
  cases ht
  repeat' first
    | with_reducible assumption | with_reducible apply State.Sound.setupGate | with_reducible apply State.Sound.endTotal

theorem State.Sound.execDioOpenLoad {d : DioId} {open_ : Bool} {s : State} {out : State} (h : s.Sound) (ht : execDioOpenLoad d open_ s = .next out) : out.Sound := by
  cases ht
  repeat' first
    | with_reducible assumption | with_reducible apply State.Sound.setBit | with_reducible apply State.Sound.event
    | with_reducible apply State.Sound.ite | with_reducible intro _

theorem State.Sound.execDioWireBreak {d : DioId} {broken : Bool} {s : State} {out : State} (h : s.Sound) (ht : execDioWireBreak d broken s = .next out) : out.Sound := by
  cases ht
  repeat' first
    | with_reducible assumption | with_reducible apply State.Sound.setBit | with_reducible apply State.Sound.event
    | with_reducible apply State.Sound.ite | with_reducible intro _

theorem State.Sound.execDioLinkRefresh {s : State} {out : State} (h : s.Sound) (ht : execDioLinkRefresh s = .next out) : out.Sound := by
  cases ht
  repeat' first
    | with_reducible assumption | with_reducible apply State.SoundRec.upd | simp only [State.sound_mk] | split

theorem State.Sound.execDioLinkTimeout {s : State} {out : State} (h : s.Sound) (ht : execDioLinkTimeout s = .next out) : out.Sound := by
  cases ht
  repeat' first
    | with_reducible assumption | with_reducible apply State.Sound.setBit | with_reducible apply State.Sound.forAll
    | with_reducible apply State.Sound.enterSafeOut | with_reducible apply State.Sound.ite | with_reducible intro _
    | with_reducible apply State.SoundRec.upd | simp only [State.sound_mk]

theorem State.Sound.execDioCmdTimeout {d : DioId} {s : State} {out : State} (h : s.Sound) (ht : execDioCmdTimeout d s = .next out) : out.Sound := by
  cases ht
  repeat' first
    | with_reducible assumption | with_reducible apply State.Sound.expireCmd

theorem State.Sound.execDioUv {active : Bool} {s : State} {out : State} (h : s.Sound) (ht : execDioUv active s = .next out) : out.Sound := by
  cases ht
  repeat' first
    | with_reducible assumption | with_reducible apply State.Sound.setBit | with_reducible apply State.Sound.forAll
    | with_reducible apply State.Sound.setChan | with_reducible apply State.Sound.event
    | with_reducible apply State.Sound.refreshOutputs | with_reducible apply State.Sound.ite | with_reducible intro _
    | with_reducible apply State.SoundRec.upd | simp only [State.sound_mk]

theorem State.Sound.setShed {s : State} {on : Bool} (h : s.Sound) : (State.setShed s on).Sound := by
  unfold Sys2Proof.Machine.State.setShed
  repeat' first
    | with_reducible assumption | with_reducible apply State.Sound.forAll | with_reducible apply State.Sound.event
    | with_reducible apply State.Sound.refreshOutputs | with_reducible apply State.Sound.ite | with_reducible intro _
    | with_reducible apply State.SoundRec.upd | simp only [State.sound_mk]

theorem State.Sound.dropGang {s : State} {d : DioId} (h : s.Sound) : (State.dropGang s d).Sound := by
  unfold Sys2Proof.Machine.State.dropGang
  repeat' first
    | with_reducible assumption | with_reducible apply State.Sound.forAll | with_reducible apply State.Sound.setFld
    | with_reducible apply State.Sound.showImage | with_reducible intro _

theorem State.Sound.writeDioCfg {s : State} {d : DioId} {v : Word} (h : s.Sound) : (State.writeDioCfg s d v).Sound := by
  unfold Sys2Proof.Machine.State.writeDioCfg
  repeat' first
    | with_reducible assumption | with_reducible apply State.Sound.setBit | with_reducible apply State.Sound.dropGang
    | with_reducible apply State.Sound.setWord | with_reducible apply State.Sound.forAll
    | with_reducible apply State.Sound.setFld | with_reducible apply State.Sound.setChan
    | with_reducible apply State.Sound.showLevel | with_reducible apply State.Sound.refreshOutputs
    | with_reducible apply State.Sound.ite | with_reducible intro _

theorem State.Sound.execDioCfgWrite {fn : FnId} {d : DioId} {value : Word} {s : State} {out : State} (h : s.Sound) (ht : execDioCfgWrite fn d value s = .next out) : out.Sound := by
  cases ht
  repeat' first
    | with_reducible assumption | with_reducible apply State.Sound.setupGate | with_reducible apply State.Sound.writeDioCfg
    | with_reducible intro _

theorem State.Sound.execDioComparatorTransition {d : DioId} {level : Bool} {s : State} {out : State} (h : s.Sound) (ht : execDioComparatorTransition d level s = .next out) : out.Sound := by
  cases ht
  repeat' first
    | with_reducible assumption | with_reducible apply State.Sound.setChan | with_reducible apply State.Sound.ite
    | with_reducible intro _

theorem State.Sound.execDioInputEdge {d : DioId} {s : State} {out : State} (h : s.Sound) (ht : execDioInputEdge d s = .next out) : out.Sound := by
  cases ht
  repeat' first
    | with_reducible assumption | with_reducible apply State.Sound.setChan | with_reducible apply State.Sound.showLevel
    | with_reducible apply State.Sound.countSat | with_reducible apply State.Sound.queueEvent
    | with_reducible apply State.Sound.feedLatches | with_reducible apply State.Sound.setBit
    | with_reducible apply State.Sound.ite | with_reducible intro _ | with_reducible apply State.SoundRec.upd
    | simp only [State.sound_mk] | split

end Sys2Proof.Machine
end

