-- ==== Sys2Proof/Laws/Sound/Can.lean ====
section
/-! SUPPORT. Soundness is kept by every operation and every meaning of Machine/Can.lean. -/

namespace Sys2Proof.Machine

theorem State.Sound.abortFrame {s : State} {c : CanId} {e : CanTxEnt} (h : s.Sound) : (State.abortFrame s c e).Sound := by
  unfold Sys2Proof.Machine.State.abortFrame
  repeat' first
    | with_reducible assumption | with_reducible apply State.Sound.setCan | with_reducible apply State.Sound.countSat
    | with_reducible apply State.Sound.complete

theorem State.Sound.abortAll {s : State} {c : CanId} (h : s.Sound) : (State.abortAll s c).Sound := by
  unfold Sys2Proof.Machine.State.abortAll
  repeat' first
    | with_reducible assumption | with_reducible apply State.Sound.forAll | with_reducible apply State.Sound.abortFrame
    | with_reducible intro _

theorem State.Sound.canRecord {s : State} {c : CanId} (h : s.Sound) : (State.canRecord s c).Sound := by
  unfold Sys2Proof.Machine.State.canRecord
  repeat' first
    | with_reducible assumption | with_reducible apply State.Sound.event

theorem State.Sound.setCounters {s : State} {c : CanId} {tec rec : Nat} (h : s.Sound) : (State.setCounters s c tec rec).Sound := by
  unfold Sys2Proof.Machine.State.setCounters
  repeat' first
    | with_reducible assumption | with_reducible apply State.Sound.setFld | with_reducible apply State.Sound.setBit
    | with_reducible apply State.Sound.setCan | with_reducible apply State.Sound.abortAll
    | with_reducible apply State.Sound.canRecord | with_reducible apply State.Sound.ite | with_reducible intro _

theorem State.Sound.canReceive {s : State} {c : CanId} {f : CanFrame} {sof : Nat} {loop : Bool} (h : s.Sound) : (State.canReceive s c f sof loop).Sound := by
  unfold Sys2Proof.Machine.State.canReceive
  repeat' first
    | with_reducible assumption | with_reducible apply State.Sound.setCan | with_reducible apply State.Sound.countSat
    | with_reducible apply State.Sound.ite | with_reducible intro _ | simp only [] | split

theorem State.Sound.execCanFrameRx {c : CanId} {f : CanFrame} {sof : Nat} {s : State} {out : State} (h : s.Sound) (ht : execCanFrameRx c f sof s = .next out) : out.Sound := by
  cases ht
  repeat' first
    | with_reducible assumption | with_reducible apply State.Sound.setCounters | with_reducible apply State.Sound.canReceive
    | with_reducible apply State.Sound.ite | with_reducible intro _ | with_reducible apply State.SoundRec.upd
    | simp only [State.sound_mk]

theorem State.Sound.execCanRxWrite {c : CanId} {s : State} {out : State} (h : s.Sound) (ht : execCanRxWrite c s = .next out) : out.Sound := by
  cases ht
  repeat' first
    | with_reducible assumption | with_reducible apply State.Sound.setCan | with_reducible apply State.Sound.setFld
    | with_reducible apply State.Sound.event | with_reducible apply State.Sound.ite | with_reducible intro _
    | with_reducible apply State.SoundRec.upd | simp only [State.sound_mk] | split

theorem State.Sound.retryFrame {s : State} {c : CanId} {e : CanTxEnt} (h : s.Sound) : (State.retryFrame s c e).Sound := by
  unfold Sys2Proof.Machine.State.retryFrame
  repeat' first
    | with_reducible assumption | with_reducible apply State.Sound.abortFrame | with_reducible apply State.Sound.setCan
    | with_reducible apply State.Sound.ite | with_reducible intro _

theorem State.Sound.execCanTxDone {c : CanId} {sof loopDly : Nat} {s : State} {out : State} (h : s.Sound) (ht : execCanTxDone c sof loopDly s = .next out) : out.Sound := by
  cases ht
  repeat' first
    | with_reducible assumption | with_reducible apply State.Sound.setCan | with_reducible apply State.Sound.complete
    | with_reducible apply State.Sound.setFld | with_reducible apply State.Sound.setCounters
    | with_reducible apply State.Sound.canReceive | with_reducible apply State.Sound.ite | with_reducible intro _ | simp only []
    | split

theorem State.Sound.execCanArbitrationLost {c : CanId} {sof : Nat} {s : State} {out : State} (h : s.Sound) (ht : execCanArbitrationLost c sof s = .next out) : out.Sound := by
  cases ht
  repeat' first
    | with_reducible assumption | with_reducible apply State.Sound.setCan | with_reducible apply State.Sound.retryFrame
    | with_reducible apply State.Sound.ite | with_reducible intro _ | split

theorem State.Sound.execCanBusError {c : CanId} {kind : Fin 8} {transmitting : Bool} {sof extra : Nat} {s : State} {out : State} (h : s.Sound) (ht : execCanBusError c kind transmitting sof extra s = .next out) : out.Sound := by
  cases ht
  repeat' first
    | with_reducible assumption | with_reducible apply State.Sound.setFld | with_reducible apply State.Sound.setCan
    | with_reducible apply State.Sound.retryFrame | with_reducible apply State.Sound.setCounters
    | with_reducible apply State.Sound.ite | with_reducible intro _ | split

theorem State.Sound.execCanTx {src : CmdSrc} {c fmt dlc : BitVec 8} {id : BitVec 32} {data : List Byte} {s : State} {out : State} (h : s.Sound) (ht : execCanTx src c fmt dlc id data s = .next out) : out.Sound := by
  cases ht
  repeat' first
    | with_reducible assumption | with_reducible apply State.Sound.deliver | with_reducible apply State.Sound.countSat
    | with_reducible apply State.Sound.complete | with_reducible apply State.Sound.setCan | with_reducible apply State.Sound.ite
    | with_reducible intro _ | simp only [] | split

theorem State.Sound.endRecover {s : State} {c : CanId} {code : CompCode} {reason : Nat} (h : s.Sound) : (State.endRecover s c code reason).Sound := by
  unfold Sys2Proof.Machine.State.endRecover
  repeat' first
    | with_reducible assumption | with_reducible apply State.Sound.forAll | with_reducible apply State.Sound.complete
    | with_reducible apply State.Sound.setCan | with_reducible intro _

theorem State.Sound.execCanMode {src : CmdSrc} {c mode : BitVec 8} {s : State} {out : State} (h : s.Sound) (ht : execCanMode src c mode s = .next out) : out.Sound := by
  cases ht
  repeat' first
    | with_reducible assumption | with_reducible apply State.Sound.deliver | with_reducible apply State.Sound.complete
    | with_reducible apply State.Sound.setFld | with_reducible apply State.Sound.setCounters
    | with_reducible apply State.Sound.endRecover | with_reducible apply State.Sound.setCan
    | with_reducible apply State.Sound.ite | with_reducible intro _ | simp only [] | split

theorem State.Sound.execCanModeReached {c : CanId} {s : State} {out : State} (h : s.Sound) (ht : execCanModeReached c s = .next out) : out.Sound := by
  cases ht
  repeat' first
    | with_reducible assumption | with_reducible apply State.Sound.setCan | with_reducible apply State.Sound.setFld
    | with_reducible apply State.Sound.abortAll | with_reducible apply State.Sound.complete
    | with_reducible apply State.Sound.ite | with_reducible intro _ | simp only [] | split

theorem State.Sound.execCanRecover {src : CmdSrc} {c : BitVec 8} {s : State} {out : State} (h : s.Sound) (ht : execCanRecover src c s = .next out) : out.Sound := by
  cases ht
  repeat' first
    | with_reducible assumption | with_reducible apply State.Sound.deliver | with_reducible apply State.Sound.complete
    | with_reducible apply State.Sound.setCan | with_reducible apply State.Sound.setFld
    | with_reducible apply State.Sound.canRecord | with_reducible apply State.Sound.ite | with_reducible intro _ | simp only []
    | split

theorem State.Sound.execCanRecoveryDone {c : CanId} {s : State} {out : State} (h : s.Sound) (ht : execCanRecoveryDone c s = .next out) : out.Sound := by
  cases ht
  repeat' first
    | with_reducible assumption | with_reducible apply State.Sound.setFld | with_reducible apply State.Sound.setCounters
    | with_reducible apply State.Sound.endRecover | with_reducible apply State.Sound.ite | with_reducible intro _

theorem State.Sound.resetCan {s : State} {c : CanId} (h : s.Sound) : (State.resetCan s c).1.Sound := by
  unfold Sys2Proof.Machine.State.resetCan
  repeat' first
    | with_reducible assumption | with_reducible apply State.Sound.setCan

theorem State.Sound.zeroCan {s : State} {c : CanId} (h : s.Sound) : (State.zeroCan s c).Sound := by
  unfold Sys2Proof.Machine.State.zeroCan
  repeat' first
    | with_reducible assumption | with_reducible apply State.Sound.setCan | with_reducible apply State.Sound.setWord
    | with_reducible apply State.Sound.setFld | with_reducible apply State.Sound.setBit | with_reducible intro _
    | simp only [State.sound_mk] | with_reducible apply State.SoundRec.parts | with_reducible apply State.Sound.regs
    | with_reducible apply State.Sound.force | with_reducible apply State.Sound.shmem | with_reducible apply State.Sound.engines
    | with_reducible apply State.Sound.axes | with_reducible apply State.Sound.slots | with_reducible apply Sparse.wf_clearRange

end Sys2Proof.Machine
end

