-- ==== Sys2Proof/Laws/Sound/Time.lean ====
section
/-! SUPPORT. Soundness is kept by every operation and every meaning of Machine/Time.lean. -/

namespace Sys2Proof.Machine

theorem State.Sound.setDomValid {s : State} {d : Fin 2} {v : Bool} (h : s.Sound) : (State.setDomValid s d v).Sound := by
  unfold Sys2Proof.Machine.State.setDomValid
  repeat' first
    | with_reducible assumption | with_reducible apply State.Sound.setBit

theorem State.Sound.setRate {s : State} {v : Int} (h : s.Sound) : (State.setRate s v).Sound := by
  unfold Sys2Proof.Machine.State.setRate
  repeat' first
    | with_reducible assumption | with_reducible apply State.Sound.setWord

theorem State.Sound.setDt {s : State} {v : BitVec 64} (h : s.Sound) : (State.setDt s v).Sound := by
  unfold Sys2Proof.Machine.State.setDt
  repeat' first
    | with_reducible assumption | with_reducible apply State.Sound.setBit | with_reducible apply State.SoundRec.upd
    | simp only [State.sound_mk]

theorem State.Sound.stepDt {s : State} {theta : Int} (h : s.Sound) : (State.stepDt s theta).Sound := by
  unfold Sys2Proof.Machine.State.stepDt
  repeat' first
    | with_reducible assumption | with_reducible apply State.Sound.setDt

theorem State.Sound.writeTbSetHi {s : State} {w : Word} (h : s.Sound) : (State.writeTbSetHi s w).Sound := by
  unfold Sys2Proof.Machine.State.writeTbSetHi
  repeat' first
    | with_reducible assumption | with_reducible apply State.Sound.setWord | with_reducible apply State.Sound.setDt
    | with_reducible apply State.Sound.setBit | with_reducible apply State.Sound.ite | with_reducible intro _

theorem State.Sound.execDtSet {fn : FnId} {value : Word} {s : State} {out : State} (h : s.Sound) (ht : execDtSet fn value s = .next out) : out.Sound := by
  cases ht
  repeat' first
    | with_reducible assumption | with_reducible apply State.Sound.setupGate | with_reducible apply State.Sound.writeTbSetHi
    | with_reducible intro _

theorem State.Sound.execDtLoRead {fn : FnId} {s : State} {out : State} (h : s.Sound) (ht : execDtLoRead fn s = .next out) : out.Sound := by
  cases ht
  repeat' first
    | with_reducible assumption | with_reducible apply State.Sound.setFn | with_reducible apply State.SoundRec.upd
    | simp only [State.sound_mk]

theorem State.Sound.setTimeState {s : State} {st : TimeState} (h : s.Sound) : (State.setTimeState s st).Sound := by
  unfold Sys2Proof.Machine.State.setTimeState
  repeat' first
    | with_reducible assumption | with_reducible apply State.Sound.setFld | with_reducible apply State.Sound.setRate
    | with_reducible apply State.Sound.event | with_reducible apply State.Sound.ite | with_reducible intro _
    | with_reducible apply State.SoundRec.upd | simp only [State.sound_mk]

theorem State.Sound.execTimeBoundUpdate {s : State} {out : State} (h : s.Sound) (ht : execTimeBoundUpdate s = .next out) : out.Sound := by
  cases ht
  repeat' first
    | with_reducible assumption | with_reducible apply State.Sound.setFld | with_reducible apply State.Sound.ite
    | with_reducible intro _ | with_reducible apply State.SoundRec.upd | simp only [State.sound_mk]

theorem State.Sound.noteSample {s : State} {d : Fin 2} {theta : Int} {valid : Bool} (h : s.Sound) : (State.noteSample s d theta valid).Sound := by
  unfold Sys2Proof.Machine.State.noteSample
  repeat' first
    | with_reducible assumption | with_reducible apply State.Sound.setWord | with_reducible apply State.Sound.setDom
    | with_reducible apply State.Sound.setDomValid | with_reducible apply State.Sound.ite | with_reducible intro _
    | with_reducible apply State.SoundRec.upd | simp only [State.sound_mk]

theorem State.Sound.autoSelect {s : State} (h : s.Sound) : (State.autoSelect s).Sound := by
  unfold Sys2Proof.Machine.State.autoSelect
  repeat' first
    | with_reducible assumption | with_reducible apply State.Sound.hwPut | with_reducible apply State.Sound.ite
    | with_reducible intro _ | with_reducible apply State.SoundRec.upd | simp only [State.sound_mk]

theorem State.Sound.servo {s : State} {theta : Int} (h : s.Sound) : (State.servo s theta).Sound := by
  unfold Sys2Proof.Machine.State.servo
  repeat' first
    | with_reducible assumption | with_reducible apply State.Sound.setRate | with_reducible apply State.SoundRec.upd
    | simp only [State.sound_mk]

theorem State.Sound.slew {s : State} {d : Fin 2} {theta : Int} (h : s.Sound) : (State.slew s d theta).Sound := by
  unfold Sys2Proof.Machine.State.slew
  repeat' first
    | with_reducible assumption | with_reducible apply State.Sound.setRate

theorem State.Sound.addDrift {s : State} {d : Fin 2} (h : s.Sound) : (State.addDrift s d).Sound := by
  unfold Sys2Proof.Machine.State.addDrift
  repeat' first
    | with_reducible assumption | with_reducible apply State.SoundRec.upd | simp only [State.sound_mk]

theorem State.Sound.goodSample {s : State} {d : Fin 2} {theta : Int} (h : s.Sound) : (State.goodSample s d theta).Sound := by
  unfold Sys2Proof.Machine.State.goodSample
  repeat' first
    | with_reducible assumption | with_reducible apply State.Sound.addDrift | with_reducible apply State.Sound.servo
    | with_reducible apply State.Sound.setBit | with_reducible apply State.Sound.setTimeState
    | with_reducible apply State.Sound.ite | with_reducible intro _ | with_reducible apply State.SoundRec.upd
    | simp only [State.sound_mk]

theorem State.Sound.farNative {s : State} {d : Fin 2} {theta : Int} (h : s.Sound) : (State.farNative s d theta).Sound := by
  unfold Sys2Proof.Machine.State.farNative
  repeat' first
    | with_reducible assumption | with_reducible apply State.Sound.stepDt | with_reducible apply State.Sound.setTimeState
    | with_reducible apply State.Sound.slew | with_reducible apply State.Sound.ite | with_reducible intro _
    | with_reducible apply State.SoundRec.upd | simp only [State.sound_mk]

theorem State.Sound.far2412 {s : State} {d : Fin 2} {theta : Int} (h : s.Sound) : (State.far2412 s d theta).Sound := by
  unfold Sys2Proof.Machine.State.far2412
  repeat' first
    | with_reducible assumption | with_reducible apply State.Sound.stepDt | with_reducible apply State.Sound.setTimeState
    | with_reducible apply State.Sound.countSat | with_reducible apply State.Sound.event
    | with_reducible apply State.Sound.setBit | with_reducible apply State.Sound.ite | with_reducible intro _
    | with_reducible apply State.SoundRec.upd | simp only [State.sound_mk] | split

theorem State.Sound.timeSample {s : State} {d : Fin 2} {theta : Int} {valid : Bool} (h : s.Sound) : (State.timeSample s d theta valid).Sound := by
  unfold Sys2Proof.Machine.State.timeSample
  repeat' first
    | with_reducible assumption | with_reducible apply State.Sound.noteSample | with_reducible apply State.Sound.autoSelect
    | with_reducible apply State.Sound.hwPut | with_reducible apply State.Sound.addDrift
    | with_reducible apply State.Sound.setBit | with_reducible apply State.Sound.event
    | with_reducible apply State.Sound.goodSample | with_reducible apply State.Sound.far2412
    | with_reducible apply State.Sound.farNative | with_reducible apply State.Sound.ite | with_reducible intro _
    | with_reducible apply State.SoundRec.upd | simp only [State.sound_mk]

theorem State.Sound.execSyncSample {domain : Fin 2} {theta : Int} {p : PortId} {asCap : Bool} {s : State} {out : State} (h : s.Sound) (ht : execSyncSample domain theta p asCap s = .next out) : out.Sound := by
  cases ht
  repeat' first
    | with_reducible assumption | with_reducible apply State.Sound.setBit | with_reducible apply State.Sound.setDom
    | with_reducible apply State.Sound.timeSample

theorem State.Sound.execSyncInterval {domain : Fin 2} {s : State} {out : State} (h : s.Sound) (ht : execSyncInterval domain s = .next out) : out.Sound := by
  cases ht
  repeat' first
    | with_reducible assumption | with_reducible apply State.Sound.setDom | with_reducible apply State.Sound.setDomValid
    | with_reducible apply State.Sound.timeSample | with_reducible apply State.Sound.ite | with_reducible intro _

theorem State.Sound.execDomainLost {domain : Fin 2} {s : State} {out : State} (h : s.Sound) (ht : execDomainLost domain s = .next out) : out.Sound := by
  cases ht
  repeat' first
    | with_reducible assumption | with_reducible apply State.Sound.setDom | with_reducible apply State.Sound.setDomValid
    | with_reducible apply State.Sound.autoSelect | with_reducible apply State.Sound.setTimeState
    | with_reducible apply State.Sound.ite | with_reducible intro _

theorem State.Sound.execTimeAccept {src : CmdSrc} {s : State} {out : State} (h : s.Sound) (ht : execTimeAccept src s = .next out) : out.Sound := by
  cases ht
  repeat' first
    | with_reducible assumption | with_reducible apply State.Sound.deliver | with_reducible apply State.Sound.stepDt
    | with_reducible apply State.Sound.slew | with_reducible apply State.Sound.setTimeState
    | with_reducible apply State.Sound.setBit | with_reducible apply State.Sound.complete | with_reducible apply State.Sound.ite
    | with_reducible intro _ | with_reducible apply State.SoundRec.upd | simp only [State.sound_mk]

theorem State.Sound.execTpoPulse {s : State} {out : State} (h : s.Sound) (ht : execTpoPulse s = .next out) : out.Sound := by
  cases ht
  repeat' first
    | with_reducible assumption | with_reducible apply State.Sound.ite | with_reducible intro _
    | with_reducible apply State.SoundRec.upd | simp only [State.sound_mk] | split

end Sys2Proof.Machine
end

