-- ==== Sys2Proof/Laws/Sound/Net.lean ====
section
/-! SUPPORT. Soundness is kept by every operation and every meaning of Machine/Net.lean. -/

namespace Sys2Proof.Machine

theorem State.Sound.putWire {s : State} {p : PortId} {f : EthFrame} (h : s.Sound) : (State.putWire s p f).Sound := by
  unfold Sys2Proof.Machine.State.putWire
  repeat' first
    | with_reducible assumption | with_reducible apply State.SoundRec.upd | simp only [State.sound_mk]

theorem State.Sound.learn {s : State} {a : BitVec 48} {p : PortId} (h : s.Sound) : (State.learn s a p).Sound := by
  unfold Sys2Proof.Machine.State.learn
  repeat' first
    | with_reducible assumption | with_reducible apply State.Sound.ite | with_reducible intro _
    | with_reducible apply State.SoundRec.upd | simp only [State.sound_mk]

theorem State.Sound.execAddressAgeing {mac : BitVec 48} {s : State} {out : State} (h : s.Sound) (ht : execAddressAgeing mac s = .next out) : out.Sound := by
  cases ht
  repeat' first
    | with_reducible assumption | with_reducible apply State.Sound.ite | with_reducible intro _
    | with_reducible apply State.SoundRec.upd | simp only [State.sound_mk]

theorem State.Sound.rxWrite {s : State} {off : Nat} {l : List Byte} (h : s.Sound) : (State.rxWrite s off l).Sound := by
  unfold Sys2Proof.Machine.State.rxWrite
  repeat' first
    | with_reducible assumption | with_reducible apply State.SoundRec.upd | simp only [State.sound_mk]

theorem State.Sound.netReceive {s : State} {p : PortId} {f : EthFrame} (h : s.Sound) : (State.netReceive s p f).Sound := by
  unfold Sys2Proof.Machine.State.netReceive
  repeat' first
    | with_reducible assumption | with_reducible apply State.Sound.countSat | with_reducible apply State.Sound.rxWrite
    | with_reducible apply State.Sound.setFld | with_reducible apply State.Sound.event | with_reducible apply State.Sound.ite
    | with_reducible intro _ | with_reducible apply State.SoundRec.upd | simp only [State.sound_mk]

theorem State.Sound.refreshGates {s : State} {p : PortId} {t : Nat} (h : s.Sound) : (State.refreshGates s p t).Sound := by
  unfold Sys2Proof.Machine.State.refreshGates
  repeat' first
    | with_reducible assumption | with_reducible apply State.Sound.setPort

theorem State.Sound.writeGclCtl {s : State} {p : PortId} {w : Word} (h : s.Sound) : (State.writeGclCtl s p w).Sound := by
  unfold Sys2Proof.Machine.State.writeGclCtl
  repeat' first
    | with_reducible assumption | with_reducible apply State.Sound.setBit | with_reducible apply State.Sound.setFld
    | with_reducible apply State.Sound.setPort | with_reducible apply State.Sound.ite | with_reducible intro _

theorem State.Sound.execGclCommit {fn : FnId} {p : PortId} {value : Word} {s : State} {out : State} (h : s.Sound) (ht : execGclCommit fn p value s = .next out) : out.Sound := by
  cases ht
  repeat' first
    | with_reducible assumption | with_reducible apply State.Sound.setupGate | with_reducible apply State.Sound.writeGclCtl
    | with_reducible intro _

theorem State.Sound.showDepth {s : State} {q : TxqId} (h : s.Sound) : (State.showDepth s q).Sound := by
  unfold Sys2Proof.Machine.State.showDepth
  repeat' first
    | with_reducible assumption | with_reducible apply State.Sound.setFld

theorem State.Sound.txDrop {s : State} {q : TxqId} {p : PortId} (h : s.Sound) : (State.txDrop s q p).Sound := by
  unfold Sys2Proof.Machine.State.txDrop
  repeat' first
    | with_reducible assumption | with_reducible apply State.Sound.countSat

theorem State.Sound.editTx {s : State} {q : TxqId} {src : CmdSrc} {g : TxFrame → TxFrame} (h : s.Sound) : (State.editTx s q src g).Sound := by
  unfold Sys2Proof.Machine.State.editTx
  repeat' first
    | with_reducible assumption | with_reducible apply State.Sound.setTxq

theorem State.Sound.removeTx {s : State} {q : TxqId} {src : CmdSrc} (h : s.Sound) : (State.removeTx s q src).Sound := by
  unfold Sys2Proof.Machine.State.removeTx
  repeat' first
    | with_reducible assumption | with_reducible apply State.Sound.setTxq | with_reducible apply State.Sound.showDepth

theorem State.Sound.settleTx {s : State} {q : TxqId} {src : CmdSrc} (h : s.Sound) : (State.settleTx s q src).Sound := by
  unfold Sys2Proof.Machine.State.settleTx
  repeat' first
    | with_reducible assumption | with_reducible apply State.Sound.removeTx | with_reducible apply State.Sound.complete
    | with_reducible apply State.Sound.ite | with_reducible intro _ | split

theorem State.Sound.discardTx {s : State} {q : TxqId} {src : CmdSrc} {p : PortId} (h : s.Sound) : (State.discardTx s q src p).Sound := by
  unfold Sys2Proof.Machine.State.discardTx
  repeat' first
    | with_reducible assumption | with_reducible apply State.Sound.txDrop | with_reducible apply State.Sound.editTx
    | with_reducible apply State.Sound.settleTx

theorem State.Sound.startFrame {s : State} {p : PortId} {w : WaitFrame} (h : s.Sound) : (State.startFrame s p w).Sound := by
  unfold Sys2Proof.Machine.State.startFrame
  repeat' first
    | with_reducible assumption | with_reducible apply State.Sound.countSat | with_reducible apply State.Sound.putWire
    | with_reducible apply State.Sound.setPort | with_reducible apply State.Sound.editTx | with_reducible apply State.Sound.ite
    | with_reducible intro _ | simp only [] | split

theorem State.Sound.egressRun {s : State} {p : PortId} (h : s.Sound) : (State.egressRun s p).Sound := by
  unfold Sys2Proof.Machine.State.egressRun
  repeat' first
    | with_reducible assumption | with_reducible apply State.Sound.forAll | with_reducible apply State.Sound.countSat
    | with_reducible apply State.Sound.discardTx | with_reducible apply State.Sound.setPort
    | with_reducible apply State.Sound.startFrame | with_reducible apply State.Sound.ite | with_reducible intro _ | split

theorem State.Sound.joinPort {s : State} {p : PortId} {w : WaitFrame} (h : s.Sound) : (State.joinPort s p w).Sound := by
  unfold Sys2Proof.Machine.State.joinPort
  repeat' first
    | with_reducible assumption | with_reducible apply State.Sound.setPort | with_reducible apply State.Sound.egressRun

theorem State.Sound.execLink {p : PortId} {up speedOk : Bool} {s : State} {out : State} (h : s.Sound) (ht : execLink p up speedOk s = .next out) : out.Sound := by
  cases ht
  repeat' first
    | with_reducible assumption | with_reducible apply State.Sound.setBit | with_reducible apply State.Sound.event
    | with_reducible apply State.Sound.egressRun | with_reducible apply State.Sound.ite | with_reducible intro _

theorem State.Sound.execGateStateChange {p : PortId} {s : State} {out : State} (h : s.Sound) (ht : execGateStateChange p s = .next out) : out.Sound := by
  cases ht
  repeat' first
    | with_reducible assumption | with_reducible apply State.Sound.refreshGates | with_reducible apply State.Sound.egressRun
    | with_reducible apply State.Sound.ite | with_reducible intro _

theorem State.Sound.execGclChange {p : PortId} {s : State} {out : State} (h : s.Sound) (ht : execGclChange p s = .next out) : out.Sound := by
  cases ht
  repeat' first
    | with_reducible assumption | with_reducible apply State.Sound.setPort | with_reducible apply State.Sound.setFld
    | with_reducible apply State.Sound.setBit | with_reducible apply State.Sound.refreshGates
    | with_reducible apply State.Sound.egressRun | with_reducible apply State.Sound.ite | with_reducible intro _ | simp only []
    | split

theorem State.Sound.forward {s : State} {p : PortId} {f : EthFrame} {full : Bool} (h : s.Sound) : (State.forward s p f full).Sound := by
  unfold Sys2Proof.Machine.State.forward
  repeat' first
    | with_reducible assumption | with_reducible apply State.Sound.countSat | with_reducible apply State.Sound.joinPort
    | with_reducible apply State.Sound.ite | with_reducible intro _

theorem State.Sound.execFrameRx {p : PortId} {f : EthFrame} {full : Bool} {s : State} {out : State} (h : s.Sound) (ht : execFrameRx p f full s = .next out) : out.Sound := by
  cases ht
  repeat' first
    | with_reducible assumption | with_reducible apply State.Sound.learn | with_reducible apply State.Sound.forward
    | with_reducible apply State.Sound.netReceive | with_reducible apply State.Sound.ite | with_reducible intro _ | simp only []
    | split

theorem State.Sound.execNetTx {src : CmdSrc} {q : BitVec 8} {frame : List Byte} {s : State} {out : State} (h : s.Sound) (ht : execNetTx src q frame s = .next out) : out.Sound := by
  cases ht
  repeat' first
    | with_reducible assumption | with_reducible apply State.Sound.deliver | with_reducible apply State.Sound.setTxq
    | with_reducible apply State.Sound.showDepth | with_reducible apply State.Sound.forAll
    | with_reducible apply State.Sound.joinPort | with_reducible apply State.Sound.settleTx
    | with_reducible apply State.Sound.complete | with_reducible apply State.Sound.ite | with_reducible intro _ | simp only []
    | split

theorem State.Sound.launchOn {s : State} {q : TxqId} {f : TxFrame} {p : PortId} (h : s.Sound) : (State.launchOn s q f p).Sound := by
  unfold Sys2Proof.Machine.State.launchOn
  repeat' first
    | with_reducible assumption | with_reducible apply State.Sound.putWire | with_reducible apply State.Sound.setPort
    | with_reducible apply State.Sound.editTx

theorem State.Sound.launchPort {s : State} {q : TxqId} {f : TxFrame} {p : PortId} (h : s.Sound) : (State.launchPort s q f p).Sound := by
  unfold Sys2Proof.Machine.State.launchPort
  repeat' first
    | with_reducible assumption | with_reducible apply State.Sound.txDrop | with_reducible apply State.Sound.launchOn
    | with_reducible apply State.Sound.countSat | with_reducible apply State.Sound.editTx
    | with_reducible apply State.Sound.joinPort | with_reducible apply State.Sound.ite | with_reducible intro _

theorem State.Sound.execLaunchTime {q : TxqId} {s : State} {out : State} (h : s.Sound) (ht : execLaunchTime q s = .next out) : out.Sound := by
  cases ht
  repeat' first
    | with_reducible assumption | with_reducible apply State.Sound.editTx | with_reducible apply State.Sound.forAll
    | with_reducible apply State.Sound.launchPort | with_reducible apply State.Sound.settleTx
    | with_reducible apply State.Sound.ite | with_reducible intro _ | simp only [] | split

theorem State.Sound.execFrameTxDone {q : TxqId} {sfd : Nat} {s : State} {out : State} (h : s.Sound) (ht : execFrameTxDone q sfd s = .next out) : out.Sound := by
  cases ht
  repeat' first
    | with_reducible assumption | with_reducible apply State.Sound.removeTx | with_reducible apply State.Sound.complete
    | simp only [] | split

theorem State.Sound.execShaftPublish {s : State} {out : State} (h : s.Sound) (ht : execShaftPublish s = .next out) : out.Sound := by
  cases ht
  repeat' first
    | with_reducible assumption | with_reducible apply State.Sound.forAll | with_reducible apply State.Sound.putWire
    | with_reducible apply State.Sound.setPort | with_reducible apply State.Sound.countSat
    | with_reducible apply State.Sound.receiveShaft | with_reducible apply State.Sound.ite | with_reducible intro _
    | with_reducible apply State.SoundRec.upd | simp only [State.sound_mk] | split

end Sys2Proof.Machine
end

