-- ==== Sys2Proof/Laws/Sound/SafetyChannels.lean ====
section
/-! SUPPORT. Soundness is kept by every operation and every meaning of Machine/SafetyChannels.lean. -/

namespace Sys2Proof.Machine

theorem State.Sound.safeEvent {s : State} {axes : List AxId} {type src detail : Nat} {data : List Byte} (h : s.Sound) : (State.safeEvent s axes type src detail data).Sound := by
  unfold Sys2Proof.Machine.State.safeEvent
  repeat' first
    | with_reducible assumption | with_reducible apply State.Sound.forAll | with_reducible apply State.Sound.event
    | with_reducible intro _

theorem State.Sound.setPair {s : State} {k : PairId} {x : SafeIn} (h : s.Sound) : (State.setPair s k x).Sound := by
  unfold Sys2Proof.Machine.State.setPair
  repeat' first
    | with_reducible assumption | with_reducible apply State.SoundRec.upd | simp only [State.sound_mk]

theorem State.Sound.setGroup {s : State} {g : GrpId} {x : SafGroup} (h : s.Sound) : (State.setGroup s g x).Sound := by
  unfold Sys2Proof.Machine.State.setGroup
  repeat' first
    | with_reducible assumption | with_reducible apply State.SoundRec.upd | simp only [State.sound_mk]

theorem State.Sound.showGroups {s : State} (h : s.Sound) : (State.showGroups s).Sound := by
  unfold Sys2Proof.Machine.State.showGroups
  repeat' first
    | with_reducible assumption | with_reducible apply State.Sound.setWord

theorem State.Sound.refreshSafety {s : State} (h : s.Sound) : (State.refreshSafety s).Sound := by
  unfold Sys2Proof.Machine.State.refreshSafety
  repeat' first
    | with_reducible assumption | with_reducible apply State.Sound.showGroups | with_reducible apply State.Sound.setWord
    | with_reducible apply State.Sound.forAll | with_reducible apply State.Sound.withDemands
    | with_reducible apply State.Sound.ite | with_reducible intro _

theorem State.Sound.refreshHold {s : State} (h : s.Sound) : (State.refreshHold s).Sound := by
  unfold Sys2Proof.Machine.State.refreshHold
  repeat' first
    | with_reducible assumption | with_reducible apply State.Sound.setBit

theorem State.Sound.showPairs {s : State} (h : s.Sound) : (State.showPairs s).Sound := by
  unfold Sys2Proof.Machine.State.showPairs
  repeat' first
    | with_reducible assumption | with_reducible apply State.Sound.setWord

theorem State.Sound.pairFault {s : State} {k : PairId} {cause : Nat} (h : s.Sound) : (State.pairFault s k cause).Sound := by
  unfold Sys2Proof.Machine.State.pairFault
  repeat' first
    | with_reducible assumption | with_reducible apply State.Sound.setPair | with_reducible apply State.Sound.showPairs
    | with_reducible apply State.Sound.event | with_reducible apply State.Sound.ite | with_reducible intro _

theorem State.Sound.execSafeInputChange {p : PairId} {sideB level : Bool} {s : State} {out : State} (h : s.Sound) (ht : execSafeInputChange p sideB level s = .next out) : out.Sound := by
  cases ht
  repeat' first
    | with_reducible assumption | with_reducible apply State.Sound.setPair | with_reducible apply State.Sound.showPairs

theorem State.Sound.execTestPulse {k : Fin 4} {fails : List (PairId × Bool)} {s : State} {out : State} (h : s.Sound) (ht : execTestPulse k fails s = .next out) : out.Sound := by
  cases ht
  repeat' first
    | with_reducible assumption | with_reducible apply State.Sound.forAll | with_reducible apply State.Sound.pairFault
    | with_reducible apply State.Sound.ite | with_reducible intro _ | with_reducible apply State.SoundRec.upd
    | simp only [State.sound_mk]

theorem State.Sound.execPairDiscrepancy {p : PairId} {s : State} {out : State} (h : s.Sound) (ht : execPairDiscrepancy p s = .next out) : out.Sound := by
  cases ht
  repeat' first
    | with_reducible assumption | with_reducible apply State.Sound.pairFault | with_reducible apply State.Sound.ite
    | with_reducible intro _ | split

theorem State.Sound.commRecord {s : State} {up : Bool} (h : s.Sound) : (State.commRecord s up).Sound := by
  unfold Sys2Proof.Machine.State.commRecord
  repeat' first
    | with_reducible assumption | with_reducible apply State.Sound.event

theorem State.Sound.setConn {s : State} {up : Bool} (h : s.Sound) : (State.setConn s up).Sound := by
  unfold Sys2Proof.Machine.State.setConn
  repeat' first
    | with_reducible assumption | with_reducible apply State.Sound.setBit | with_reducible apply State.Sound.commRecord
    | with_reducible apply State.Sound.ite | with_reducible intro _ | with_reducible apply State.SoundRec.upd
    | simp only [State.sound_mk]

theorem State.Sound.acceptPdu {s : State} {p : Pdu} {seq : BitVec 16} (h : s.Sound) : (State.acceptPdu s p seq).Sound := by
  unfold Sys2Proof.Machine.State.acceptPdu
  repeat' first
    | with_reducible assumption | with_reducible apply State.Sound.setFld | with_reducible apply State.SoundRec.upd
    | simp only [State.sound_mk]

theorem State.Sound.readPdu {s : State} (h : s.Sound) : (State.readPdu s).Sound := by
  unfold Sys2Proof.Machine.State.readPdu
  repeat' first
    | with_reducible assumption | with_reducible apply State.Sound.countSat | with_reducible apply State.Sound.acceptPdu
    | with_reducible apply State.Sound.setConn | with_reducible apply State.Sound.ite | with_reducible intro _
    | with_reducible apply State.SoundRec.upd | simp only [State.sound_mk] | split

theorem State.Sound.execSafetyWatchdogExpiry {s : State} {out : State} (h : s.Sound) (ht : execSafetyWatchdogExpiry s = .next out) : out.Sound := by
  cases ht
  repeat' first
    | with_reducible assumption | with_reducible apply State.Sound.setConn | with_reducible apply State.Sound.ite
    | with_reducible intro _ | with_reducible apply State.SoundRec.upd | simp only [State.sound_mk]

theorem State.Sound.sendPdu {s : State} (h : s.Sound) : (State.sendPdu s).Sound := by
  unfold Sys2Proof.Machine.State.sendPdu
  repeat' first
    | with_reducible assumption | with_reducible apply State.Sound.ite | with_reducible intro _ | simp only [State.sound_mk]
    | with_reducible apply State.SoundRec.parts | with_reducible apply State.Sound.regs | with_reducible apply State.Sound.force
    | with_reducible apply State.Sound.shmem | with_reducible apply State.Sound.engines | with_reducible apply State.Sound.axes
    | with_reducible apply State.Sound.slots | with_reducible apply Mem.wf_storeBytes

theorem State.Sound.raiseAxf {s : State} {n : AxId} {cause : Nat} (h : s.Sound) : (State.raiseAxf s n cause).Sound := by
  unfold Sys2Proof.Machine.State.raiseAxf
  repeat' first
    | with_reducible assumption | with_reducible apply State.Sound.setWord | with_reducible apply State.Sound.safeEvent
    | with_reducible apply State.Sound.ite | with_reducible intro _

theorem State.Sound.sampleCounters {s : State} (h : s.Sound) : (State.sampleCounters s).1.Sound := by
  unfold Sys2Proof.Machine.State.sampleCounters
  repeat' first
    | with_reducible assumption | with_reducible apply State.Sound.forAll | with_reducible apply State.Sound.settleSca
    | with_reducible apply State.Sound.raiseAxf | with_reducible intro _ | with_reducible apply State.SoundRec.upd
    | simp only [State.sound_mk]

theorem State.Sound.putGroup {s : State} {g : GrpId} {st : SafState} {cause : Nat} (h : s.Sound) : (State.putGroup s g st cause).Sound := by
  unfold Sys2Proof.Machine.State.putGroup
  repeat' first
    | with_reducible assumption | with_reducible apply State.Sound.setGroup | with_reducible apply State.Sound.safeEvent

theorem State.Sound.enterSs1 {s : State} {g : GrpId} {cause : Nat} (h : s.Sound) : (State.enterSs1 s g cause).Sound := by
  unfold Sys2Proof.Machine.State.enterSs1
  repeat' first
    | with_reducible assumption | with_reducible apply State.Sound.setGroup | with_reducible apply State.Sound.putGroup
    | with_reducible apply State.Sound.forAll | with_reducible apply State.Sound.requestStop | with_reducible intro _

theorem State.Sound.cycleGroup {s : State} {newAxf : List AxId} {g : GrpId} (h : s.Sound) : (State.cycleGroup s newAxf g).Sound := by
  unfold Sys2Proof.Machine.State.cycleGroup
  repeat' first
    | with_reducible assumption | with_reducible apply State.Sound.setGroup | with_reducible apply State.Sound.safeEvent
    | with_reducible apply State.Sound.putGroup | with_reducible apply State.Sound.enterSs1
    | with_reducible apply State.Sound.ite | with_reducible intro _ | simp only [] | split

theorem State.Sound.channelFault {s : State} {ch : Fin 2} {code : Nat} (h : s.Sound) : (State.channelFault s ch code).Sound := by
  unfold Sys2Proof.Machine.State.channelFault
  repeat' first
    | with_reducible assumption | with_reducible apply State.Sound.setBit | with_reducible apply State.Sound.setFld
    | with_reducible apply State.Sound.logFault | with_reducible apply State.Sound.event
    | with_reducible apply State.Sound.refreshHold | with_reducible apply State.Sound.refreshSafety
    | with_reducible apply State.Sound.ite | with_reducible intro _

theorem State.Sound.driveLines {s : State} (h : s.Sound) : (State.driveLines s).Sound := by
  unfold Sys2Proof.Machine.State.driveLines
  repeat' first
    | with_reducible assumption | with_reducible apply State.SoundRec.upd | simp only [State.sound_mk]

theorem State.Sound.execSafetyCycle {fault : Option (Fin 2 × Fin 9)} {s : State} {out : State} (h : s.Sound) (ht : execSafetyCycle fault s = .next out) : out.Sound := by
  cases ht
  repeat' first
    | with_reducible assumption | with_reducible apply State.Sound.channelFault | with_reducible apply State.Sound.readPdu
    | with_reducible apply State.Sound.forAll | with_reducible apply State.Sound.cycleGroup
    | with_reducible apply State.Sound.setGroup | with_reducible apply State.Sound.refreshSafety
    | with_reducible apply State.Sound.driveLines | with_reducible apply State.Sound.showPairs
    | with_reducible apply State.Sound.sendPdu | with_reducible apply State.Sound.sampleCounters
    | with_reducible apply State.Sound.ite | with_reducible intro _ | with_reducible apply State.SoundRec.upd
    | simp only [State.sound_mk] | split

theorem State.Sound.execSs1Timeout {g : GrpId} {s : State} {out : State} (h : s.Sound) (ht : execSs1Timeout g s = .next out) : out.Sound := by
  cases ht
  repeat' first
    | with_reducible assumption | with_reducible apply State.Sound.putGroup | with_reducible apply State.Sound.refreshSafety
    | with_reducible apply State.Sound.ite | with_reducible intro _

theorem State.Sound.activateSet {s : State} {l : List Byte} (h : s.Sound) : (State.activateSet s l).Sound := by
  unfold Sys2Proof.Machine.State.activateSet
  repeat' first
    | with_reducible assumption | with_reducible apply State.Sound.forAll | with_reducible apply State.Sound.setPair
    | with_reducible apply State.Sound.showPairs | with_reducible apply State.Sound.setWord
    | with_reducible apply State.Sound.setFld | with_reducible intro _ | with_reducible apply State.SoundRec.upd
    | simp only [State.sound_mk]

theorem State.Sound.refreshConf {s : State} (h : s.Sound) : (State.refreshConf s).Sound := by
  unfold Sys2Proof.Machine.State.refreshConf
  repeat' first
    | with_reducible assumption | with_reducible apply State.Sound.setBit | with_reducible apply State.Sound.setWord
    | with_reducible apply State.Sound.refreshHold | with_reducible apply State.Sound.refreshSafety

theorem State.Sound.storeSet {s : State} (h : s.Sound) : (State.storeSet s).Sound := by
  unfold Sys2Proof.Machine.State.storeSet
  repeat' first
    | with_reducible assumption | with_reducible apply State.Sound.setBit | with_reducible apply State.Sound.setFld
    | with_reducible apply State.Sound.refreshConf | with_reducible apply State.Sound.ite | with_reducible intro _
    | with_reducible apply State.SoundRec.upd | simp only [State.sound_mk]

theorem State.Sound.execSafetyStore {fn : FnId} {s : State} {out : State} (h : s.Sound) (ht : execSafetyStore fn s = .next out) : out.Sound := by
  cases ht
  repeat' first
    | with_reducible assumption | with_reducible apply State.Sound.setupGate | with_reducible apply State.Sound.storeSet

theorem State.Sound.storeFailed {s : State} {copy : Fin 2} (h : s.Sound) : (State.storeFailed s copy).Sound := by
  unfold Sys2Proof.Machine.State.storeFailed
  repeat' first
    | with_reducible assumption | with_reducible apply State.Sound.setBit | with_reducible apply State.Sound.setFld
    | with_reducible apply State.SoundRec.upd | simp only [State.sound_mk]

theorem State.Sound.execSafetyStoreDone {failed : Option (Fin 2)} {s : State} {out : State} (h : s.Sound) (ht : execSafetyStoreDone failed s = .next out) : out.Sound := by
  cases ht
  repeat' first
    | with_reducible assumption | with_reducible apply State.Sound.storeFailed | with_reducible apply State.Sound.activateSet
    | with_reducible apply State.Sound.setBit | with_reducible apply State.Sound.refreshConf
    | with_reducible apply State.Sound.ite | with_reducible intro _ | with_reducible apply State.SoundRec.upd
    | simp only [State.sound_mk] | split

theorem State.Sound.execSafeConfirm {src : CmdSrc} {check : BitVec 32} {s : State} {out : State} (h : s.Sound) (ht : execSafeConfirm src check s = .next out) : out.Sound := by
  cases ht
  repeat' first
    | with_reducible assumption | with_reducible apply State.Sound.deliver | with_reducible apply State.Sound.complete
    | with_reducible apply State.Sound.ite | with_reducible intro _ | with_reducible apply State.SoundRec.upd
    | simp only [State.sound_mk]

theorem State.Sound.execConfirmRecordWritten {s : State} {out : State} (h : s.Sound) (ht : execConfirmRecordWritten s = .next out) : out.Sound := by
  cases ht
  repeat' first
    | with_reducible assumption | with_reducible apply State.Sound.refreshConf | with_reducible apply State.Sound.complete
    | with_reducible apply State.SoundRec.upd | simp only [State.sound_mk] | split

theorem State.Sound.bootSafety {s : State} (h : s.Sound) : (State.bootSafety s).Sound := by
  unfold Sys2Proof.Machine.State.bootSafety
  repeat' first
    | with_reducible assumption | with_reducible apply State.Sound.setBit | with_reducible apply State.Sound.refreshHold
    | with_reducible apply State.Sound.refreshSafety | with_reducible apply State.Sound.activateSet
    | with_reducible apply State.Sound.refreshConf | with_reducible apply State.SoundRec.upd | simp only [State.sound_mk]
    | split

theorem State.Sound.resetSafety {s : State} (h : s.Sound) : (State.resetSafety s).Sound := by
  unfold Sys2Proof.Machine.State.resetSafety
  repeat' first
    | with_reducible assumption | with_reducible apply State.SoundRec.upd | simp only [State.sound_mk]

end Sys2Proof.Machine
end

