-- ==== Sys2Proof/Laws/Sound/Thermal.lean ====
section
/-! SUPPORT. Soundness is kept by every operation and every meaning of Machine/Thermal.lean. -/

namespace Sys2Proof.Machine

theorem State.Sound.showFlog {s : State} (h : s.Sound) : (State.showFlog s).Sound := by
  unfold Sys2Proof.Machine.State.showFlog
  repeat' first
    | with_reducible assumption | with_reducible apply State.Sound.setWord | with_reducible apply State.Sound.foldl
    | with_reducible intro _

theorem State.Sound.execFlogCopy {s : State} {out : State} (h : s.Sound) (ht : execFlogCopy s = .next out) : out.Sound := by
  cases ht
  repeat' first
    | with_reducible assumption | with_reducible apply State.Sound.showFlog | with_reducible apply State.SoundRec.upd
    | simp only [State.sound_mk] | split

theorem State.Sound.setFan {s : State} {f : FanId} {x : Fan} (h : s.Sound) : (State.setFan s f x).Sound := by
  unfold Sys2Proof.Machine.State.setFan
  repeat' first
    | with_reducible assumption | with_reducible apply State.SoundRec.upd | simp only [State.sound_mk]

theorem State.Sound.refreshFanDuty {s : State} {f : FanId} (h : s.Sound) : (State.refreshFanDuty s f).Sound := by
  unfold Sys2Proof.Machine.State.refreshFanDuty
  repeat' first
    | with_reducible assumption | with_reducible apply State.Sound.setFan

theorem State.Sound.setLevel {s : State} {l : Nat} (h : s.Sound) : (State.setLevel s l).Sound := by
  unfold Sys2Proof.Machine.State.setLevel
  repeat' first
    | with_reducible assumption | with_reducible apply State.Sound.setFld | with_reducible apply State.Sound.refreshLevel
    | with_reducible apply State.Sound.setShed | with_reducible apply State.Sound.event | with_reducible apply State.Sound.ite
    | with_reducible intro _

theorem State.Sound.derating {s : State} (h : s.Sound) : (State.derating s).Sound := by
  unfold Sys2Proof.Machine.State.derating
  repeat' first
    | with_reducible assumption | with_reducible apply State.Sound.setLevel | with_reducible apply State.Sound.ite
    | with_reducible intro _ | with_reducible apply State.SoundRec.upd | simp only [State.sound_mk]

theorem State.Sound.execThermalEvaluation {readings : List Int} {s : State} {out : State} (h : s.Sound) (ht : execThermalEvaluation readings s = .next out) : out.Sound := by
  cases ht
  repeat' first
    | with_reducible assumption | with_reducible apply State.Sound.setFld | with_reducible apply State.Sound.setBit
    | with_reducible apply State.Sound.event | with_reducible apply State.Sound.logFault
    | with_reducible apply State.Sound.withDemandsOf | with_reducible apply State.Sound.forAll
    | with_reducible apply State.Sound.refreshFanDuty | with_reducible apply State.Sound.derating
    | with_reducible apply State.Sound.ite | with_reducible intro _ | with_reducible apply State.SoundRec.upd
    | simp only [State.sound_mk] | split

theorem State.Sound.execDeratingDwell {s : State} {out : State} (h : s.Sound) (ht : execDeratingDwell s = .next out) : out.Sound := by
  cases ht
  repeat' first
    | with_reducible assumption | with_reducible apply State.Sound.forAll | with_reducible apply State.Sound.refreshFanDuty
    | with_reducible apply State.Sound.setLevel | with_reducible apply State.Sound.ite | with_reducible intro _
    | with_reducible apply State.SoundRec.upd | simp only [State.sound_mk] | split

theorem State.Sound.refreshTight {s : State} (h : s.Sound) : (State.refreshTight s).Sound := by
  unfold Sys2Proof.Machine.State.refreshTight
  repeat' first
    | with_reducible assumption | with_reducible apply State.Sound.setBit

theorem State.Sound.fanCurrent {s : State} {f : FanId} {ma : Nat} (h : s.Sound) : (State.fanCurrent s f ma).Sound := by
  unfold Sys2Proof.Machine.State.fanCurrent
  repeat' first
    | with_reducible assumption | with_reducible apply State.Sound.setFan | with_reducible apply State.Sound.setFld

theorem State.Sound.setFanState {s : State} {f : FanId} {st : FanState} (h : s.Sound) : (State.setFanState s f st).Sound := by
  unfold Sys2Proof.Machine.State.setFanState
  repeat' first
    | with_reducible assumption | with_reducible apply State.Sound.setFld | with_reducible apply State.Sound.event
    | with_reducible apply State.Sound.refreshTight | with_reducible apply State.Sound.refreshFanDuty
    | with_reducible apply State.Sound.ite | with_reducible intro _

theorem State.Sound.startFan {s : State} {f : FanId} (h : s.Sound) : (State.startFan s f).Sound := by
  unfold Sys2Proof.Machine.State.startFan
  repeat' first
    | with_reducible assumption | with_reducible apply State.Sound.setFan | with_reducible apply State.Sound.setFld
    | with_reducible apply State.Sound.setFanState

theorem State.Sound.writeFanCfg {s : State} {f : FanId} {w : Word} (h : s.Sound) : (State.writeFanCfg s f w).Sound := by
  unfold Sys2Proof.Machine.State.writeFanCfg
  repeat' first
    | with_reducible assumption | with_reducible apply State.Sound.setWord | with_reducible apply State.Sound.startFan
    | with_reducible apply State.Sound.setFanState | with_reducible apply State.Sound.refreshTight
    | with_reducible apply State.Sound.refreshFanDuty | with_reducible apply State.Sound.ite | with_reducible intro _

theorem State.Sound.execFanEnable {fn : FnId} {f : FanId} {value : Word} {s : State} {out : State} (h : s.Sound) (ht : execFanEnable fn f value s = .next out) : out.Sound := by
  cases ht
  repeat' first
    | with_reducible assumption | with_reducible apply State.Sound.setupGate | with_reducible apply State.Sound.writeFanCfg
    | with_reducible intro _

theorem State.Sound.execFanTachPulse {f : FanId} {ma : Nat} {s : State} {out : State} (h : s.Sound) (ht : execFanTachPulse f ma s = .next out) : out.Sound := by
  cases ht
  repeat' first
    | with_reducible assumption | with_reducible apply State.Sound.setFan | with_reducible apply State.Sound.fanCurrent
    | with_reducible apply State.Sound.setFanState | with_reducible apply State.Sound.setFld
    | with_reducible apply State.Sound.ite | with_reducible intro _ | with_reducible apply State.SoundRec.upd
    | simp only [State.sound_mk]

theorem State.Sound.execFanTachSilent {f : FanId} {ma : Nat} {s : State} {out : State} (h : s.Sound) (ht : execFanTachSilent f ma s = .next out) : out.Sound := by
  cases ht
  repeat' first
    | with_reducible assumption | with_reducible apply State.Sound.fanCurrent | with_reducible apply State.Sound.setFld
    | with_reducible apply State.Sound.setFan | with_reducible apply State.Sound.setFanState
    | with_reducible apply State.Sound.ite | with_reducible intro _

theorem State.Sound.execFanKickExpiry {f : FanId} {ma : Nat} {s : State} {out : State} (h : s.Sound) (ht : execFanKickExpiry f ma s = .next out) : out.Sound := by
  cases ht
  repeat' first
    | with_reducible assumption | with_reducible apply State.Sound.fanCurrent | with_reducible apply State.Sound.setFan
    | with_reducible apply State.Sound.setFld | with_reducible apply State.Sound.refreshFanDuty
    | with_reducible apply State.Sound.setFanState | with_reducible apply State.Sound.ite | with_reducible intro _

theorem State.Sound.execFanRetry {f : FanId} {s : State} {out : State} (h : s.Sound) (ht : execFanRetry f s = .next out) : out.Sound := by
  cases ht
  repeat' first
    | with_reducible assumption | with_reducible apply State.Sound.startFan | with_reducible apply State.Sound.ite
    | with_reducible intro _

theorem State.Sound.execFanOpen {f : FanId} {held : Nat} {s : State} {out : State} (h : s.Sound) (ht : execFanOpen f held s = .next out) : out.Sound := by
  cases ht
  repeat' first
    | with_reducible assumption | with_reducible apply State.Sound.fanCurrent | with_reducible apply State.Sound.setFanState
    | with_reducible apply State.Sound.ite | with_reducible intro _

theorem State.Sound.execFanCurrentRestored {f : FanId} {ma : Nat} {s : State} {out : State} (h : s.Sound) (ht : execFanCurrentRestored f ma s = .next out) : out.Sound := by
  cases ht
  repeat' first
    | with_reducible assumption | with_reducible apply State.Sound.fanCurrent | with_reducible apply State.Sound.setFanState
    | with_reducible apply State.Sound.startFan | with_reducible apply State.Sound.ite | with_reducible intro _

end Sys2Proof.Machine
end

