-- ==== Sys2Proof/Laws/Sound/Rings.lean ====
section
/-! SUPPORT. Soundness is kept by every operation and every meaning of Machine/Rings.lean. -/

namespace Sys2Proof.Machine

theorem State.Sound.setFnState {s : State} {fn : FnId} {st : FnState} (h : s.Sound) : (State.setFnState s fn st).Sound := by
  unfold Sys2Proof.Machine.State.setFnState
  repeat' first
    | with_reducible assumption | with_reducible apply State.Sound.setFld | with_reducible apply State.Sound.fstatChanged

theorem State.Sound.setRingState {s : State} {fn : FnId} {r : RingId} {st : RingState} (h : s.Sound) : (State.setRingState s fn r st).Sound := by
  unfold Sys2Proof.Machine.State.setRingState
  repeat' first
    | with_reducible assumption | with_reducible apply State.Sound.setFld

theorem State.Sound.setRing {s : State} {fn : FnId} {r : RingId} {x : Ring} (h : s.Sound) : (State.setRing s fn r x).Sound := by
  unfold Sys2Proof.Machine.State.setRing
  repeat' first
    | with_reducible assumption | with_reducible apply State.Sound.setFn

theorem State.Sound.advanceRing {s : State} {fn : FnId} {r : RingId} {k : Nat} (h : s.Sound) : (State.advanceRing s fn r k).Sound := by
  unfold Sys2Proof.Machine.State.advanceRing
  repeat' first
    | with_reducible assumption | with_reducible apply State.Sound.setRing | with_reducible apply State.Sound.setWord

theorem State.Sound.refreshResv {s : State} {fn : FnId} (h : s.Sound) : (State.refreshResv s fn).Sound := by
  unfold Sys2Proof.Machine.State.refreshResv
  repeat' first
    | with_reducible assumption | with_reducible apply State.Sound.setFld

theorem State.Sound.haltRing {s : State} {fn : FnId} {r : RingId} {err : Nat} (h : s.Sound) : (State.haltRing s fn r err).Sound := by
  unfold Sys2Proof.Machine.State.haltRing
  repeat' first
    | with_reducible assumption | with_reducible apply State.Sound.setRingState | with_reducible apply State.Sound.setFld
    | with_reducible apply State.Sound.setBit | with_reducible apply State.Sound.fstatChanged
    | with_reducible apply State.Sound.event | with_reducible apply State.Sound.ite | with_reducible intro _

theorem State.Sound.doorbell {s : State} {fn : FnId} {r : RingId} {v : Word} (h : s.Sound) : (State.doorbell s fn r v).Sound := by
  unfold Sys2Proof.Machine.State.doorbell
  repeat' first
    | with_reducible assumption | with_reducible apply State.Sound.setRing | with_reducible apply State.Sound.haltRing
    | with_reducible apply State.Sound.ite | with_reducible intro _

theorem State.Sound.execDoorbell {fn : FnId} {ring : RingId} {value : Word} {s : State} {out : State} (h : s.Sound) (ht : execDoorbell fn ring value s = .next out) : out.Sound := by
  cases ht
  repeat' first
    | with_reducible assumption | with_reducible apply State.Sound.whenUp | with_reducible apply State.Sound.doorbell
    | with_reducible intro _

theorem State.Sound.refreshOwed {s : State} (h : s.Sound) : (State.refreshOwed s).Sound := by
  unfold Sys2Proof.Machine.State.refreshOwed
  repeat' first
    | with_reducible assumption | with_reducible apply State.Sound.setFld

theorem State.Sound.reportLost {s : State} {fn : FnId} (h : s.Sound) : (State.reportLost s fn).Sound := by
  unfold Sys2Proof.Machine.State.reportLost
  repeat' first
    | with_reducible assumption | with_reducible apply State.Sound.setFn | with_reducible apply State.SoundRec.upd
    | simp only [State.sound_mk]

theorem State.Sound.discardLost {s : State} (h : s.Sound) : (State.discardLost s).Sound := by
  unfold Sys2Proof.Machine.State.discardLost
  repeat' first
    | with_reducible assumption | with_reducible apply State.Sound.refreshOwed | with_reducible apply State.SoundRec.upd
    | simp only [State.sound_mk]

theorem State.Sound.execPwrLostDiscard {fn : FnId} {s : State} {out : State} (h : s.Sound) (ht : execPwrLostDiscard fn s = .next out) : out.Sound := by
  cases ht
  repeat' first
    | with_reducible assumption | with_reducible apply State.Sound.discardLost | with_reducible apply State.Sound.ite
    | with_reducible intro _

theorem State.Sound.ringCfgFields {s : State} {fn : FnId} {r : RingId} {w : Word} (h : s.Sound) : (State.ringCfgFields s fn r w).Sound := by
  unfold Sys2Proof.Machine.State.ringCfgFields
  repeat' first
    | with_reducible assumption | with_reducible apply State.Sound.setFld | with_reducible apply State.Sound.ite
    | with_reducible intro _

theorem State.Sound.enableRing {s : State} {fn : FnId} {r : RingId} {w : Word} (h : s.Sound) : (State.enableRing s fn r w).Sound := by
  unfold Sys2Proof.Machine.State.enableRing
  repeat' first
    | with_reducible assumption | with_reducible apply State.Sound.ringCfgFields | with_reducible apply State.Sound.setFld
    | with_reducible apply State.Sound.setRing | with_reducible apply State.Sound.setWord
    | with_reducible apply State.Sound.haltRing | with_reducible apply State.Sound.setRingState
    | with_reducible apply State.Sound.reportLost | with_reducible apply State.Sound.ite | with_reducible intro _

theorem State.Sound.execRingEnable {fn : FnId} {ring : RingId} {value : Word} {bme : Bool} {s : State} {out : State} (h : s.Sound) (ht : execRingEnable fn ring value bme s = .next out) : out.Sound := by
  cases ht
  repeat' first
    | with_reducible assumption | with_reducible apply State.Sound.whenUp | with_reducible apply State.Sound.setFn
    | with_reducible apply State.Sound.enableRing | with_reducible apply State.Sound.ite | with_reducible intro _

theorem State.Sound.disableRing {s : State} {fn : FnId} {r : RingId} {w : Word} (h : s.Sound) : (State.disableRing s fn r w).Sound := by
  unfold Sys2Proof.Machine.State.disableRing
  repeat' first
    | with_reducible assumption | with_reducible apply State.Sound.ringCfgFields | with_reducible apply State.Sound.setFld
    | with_reducible apply State.Sound.setRingState | with_reducible apply State.Sound.ite | with_reducible intro _

theorem State.Sound.execRingDisable {fn : FnId} {ring : RingId} {value : Word} {s : State} {out : State} (h : s.Sound) (ht : execRingDisable fn ring value s = .next out) : out.Sound := by
  cases ht
  repeat' first
    | with_reducible assumption | with_reducible apply State.Sound.whenUp | with_reducible apply State.Sound.disableRing
    | with_reducible apply State.Sound.ite | with_reducible intro _

theorem State.Sound.writeComp {s : State} {fn : FnId} {c : Comp} (h : s.Sound) : (State.writeComp s fn c).Sound := by
  unfold Sys2Proof.Machine.State.writeComp
  repeat' first
    | with_reducible assumption | with_reducible apply State.Sound.setFn | with_reducible apply State.Sound.advanceRing
    | with_reducible apply State.Sound.signalVec | with_reducible apply State.Sound.refreshOwed
    | with_reducible apply State.Sound.refreshResv | with_reducible apply State.SoundRec.upd | simp only [State.sound_mk]

theorem State.Sound.execCompletionWrite {fn : FnId} {sent : Bool} {s : State} {out : State} (h : s.Sound) (ht : execCompletionWrite fn sent s = .next out) : out.Sound := by
  cases ht
  repeat' first
    | with_reducible assumption | with_reducible apply State.Sound.writeComp | with_reducible apply State.Sound.haltRing
    | with_reducible apply State.Sound.setFn | with_reducible apply State.Sound.ite | with_reducible intro _ | simp only []
    | split

theorem State.Sound.writeEvent {s : State} {fn : FnId} {r : EvRec} (h : s.Sound) : (State.writeEvent s fn r).Sound := by
  unfold Sys2Proof.Machine.State.writeEvent
  repeat' first
    | with_reducible assumption | with_reducible apply State.Sound.advanceRing | with_reducible apply State.Sound.forAll
    | with_reducible apply State.Sound.signalVec | with_reducible intro _ | with_reducible apply State.SoundRec.upd
    | simp only [State.sound_mk]

theorem State.Sound.execEventRecordWrite {fn : FnId} {sent : Bool} {s : State} {out : State} (h : s.Sound) (ht : execEventRecordWrite fn sent s = .next out) : out.Sound := by
  cases ht
  repeat' first
    | with_reducible assumption | with_reducible apply State.Sound.haltRing | with_reducible apply State.Sound.setFn
    | with_reducible apply State.Sound.writeEvent | with_reducible apply State.Sound.ite | with_reducible intro _ | simp only []
    | split

theorem State.Sound.setPba {s : State} {fn : FnId} {v : Fin 16} {b : Bool} (h : s.Sound) : (State.setPba s fn v b).Sound := by
  unfold Sys2Proof.Machine.State.setPba
  repeat' first
    | with_reducible assumption | with_reducible apply State.Sound.setWord

theorem State.Sound.execMsixMessage {fn : FnId} {vec : Fin 16} {s : State} {out : State} (h : s.Sound) (ht : execMsixMessage fn vec s = .next out) : out.Sound := by
  cases ht
  repeat' first
    | with_reducible assumption | with_reducible apply State.Sound.setPba | with_reducible apply State.Sound.setFn
    | with_reducible apply State.Sound.ite | with_reducible intro _ | with_reducible apply State.SoundRec.upd
    | simp only [State.sound_mk]

end Sys2Proof.Machine
end

