-- ==== Sys2Proof/Laws/Sound/Functions.lean ====
section
/-! SUPPORT. Soundness is kept by every operation and every meaning of Machine/Functions.lean. -/

namespace Sys2Proof.Machine

theorem State.Sound.cancel {s : State} {src : CmdSrc} {c : HostCmd} (h : s.Sound) : (State.cancel s src c).Sound := by
  unfold Sys2Proof.Machine.State.cancel
  repeat' first
    | with_reducible assumption | with_reducible apply State.Sound.complete | split

theorem State.Sound.disarmFn {s : State} {fn : FnId} (h : s.Sound) : (State.disarmFn s fn).Sound := by
  unfold Sys2Proof.Machine.State.disarmFn
  repeat' first
    | with_reducible assumption | with_reducible apply State.SoundRec.upd | simp only [State.sound_mk]

theorem State.Sound.clearLog {s : State} {fn : FnId} (h : s.Sound) : (State.clearLog s fn).Sound := by
  unfold Sys2Proof.Machine.State.clearLog
  repeat' first
    | with_reducible assumption | with_reducible apply State.Sound.setWord | with_reducible intro _ | simp only [State.sound_mk]
    | with_reducible apply State.SoundRec.parts | with_reducible apply State.Sound.regs | with_reducible apply State.Sound.force
    | with_reducible apply State.Sound.shmem | with_reducible apply State.Sound.engines | with_reducible apply State.Sound.axes
    | with_reducible apply State.Sound.slots | with_reducible apply Sparse.wf_clearRange

theorem State.Sound.resetFn {s : State} {fn : FnId} (h : s.Sound) : (State.resetFn s fn).Sound := by
  unfold Sys2Proof.Machine.State.resetFn
  repeat' first
    | with_reducible assumption | with_reducible apply State.Sound.setFnState | with_reducible apply State.Sound.forAll
    | with_reducible apply State.Sound.setRingState | with_reducible apply State.Sound.clearLog
    | with_reducible apply State.Sound.setFld | with_reducible apply State.Sound.setFn | with_reducible apply State.Sound.cancel
    | with_reducible apply State.Sound.complete | with_reducible apply State.Sound.requestStop
    | with_reducible apply State.Sound.disarmFn | with_reducible apply State.Sound.raiseEvent
    | with_reducible apply State.Sound.refreshResv | with_reducible apply State.Sound.resetCan
    | with_reducible apply State.Sound.ite | with_reducible intro _ | with_reducible apply State.SoundRec.upd
    | simp only [State.sound_mk]

theorem State.Sound.flrFn {s : State} {fn : FnId} (h : s.Sound) : (State.flrFn s fn).Sound := by
  unfold Sys2Proof.Machine.State.flrFn
  repeat' first
    | with_reducible assumption | with_reducible apply State.Sound.setFn | with_reducible apply State.Sound.resetFn
    | with_reducible apply State.Sound.ite | with_reducible intro _ | simp only [State.sound_mk]
    | with_reducible apply State.SoundRec.parts | with_reducible apply State.Sound.regs | with_reducible apply State.Sound.force
    | with_reducible apply State.Sound.shmem | with_reducible apply State.Sound.engines | with_reducible apply State.Sound.axes
    | with_reducible apply State.Sound.slots | with_reducible apply Sparse.wf_clearRange

theorem State.Sound.writeFctl {s : State} {by_ fn : FnId} {w : Word} (h : s.Sound) : (State.writeFctl s by_ fn w).Sound := by
  unfold Sys2Proof.Machine.State.writeFctl
  repeat' first
    | with_reducible assumption | with_reducible apply State.Sound.setFld | with_reducible apply State.Sound.resetFn
    | with_reducible apply State.Sound.ite | with_reducible intro _

theorem State.Sound.execFunctionReset {by_ fn : FnId} {value : Word} {s : State} {out : State} (h : s.Sound) (ht : execFunctionReset by_ fn value s = .next out) : out.Sound := by
  cases ht
  repeat' first
    | with_reducible assumption | with_reducible apply State.Sound.whenUp | with_reducible apply State.Sound.writeFctl
    | with_reducible apply State.Sound.ite | with_reducible intro _

theorem State.Sound.execFunctionLevelReset {fn : FnId} {s : State} {out : State} (h : s.Sound) (ht : execFunctionLevelReset fn s = .next out) : out.Sound := by
  cases ht
  repeat' first
    | with_reducible assumption | with_reducible apply State.Sound.whenUp | with_reducible apply State.Sound.flrFn
    | with_reducible apply State.Sound.ite | with_reducible intro _

theorem State.Sound.clearVfs {s : State} (h : s.Sound) : (State.clearVfs s).Sound := by
  unfold Sys2Proof.Machine.State.clearVfs
  repeat' first
    | with_reducible assumption | with_reducible apply State.Sound.forAll | with_reducible apply State.Sound.setFn
    | with_reducible apply State.Sound.flrFn | with_reducible intro _

theorem State.Sound.execVfEnableClear {s : State} {out : State} (h : s.Sound) (ht : execVfEnableClear s = .next out) : out.Sound := by
  cases ht
  repeat' first
    | with_reducible assumption | with_reducible apply State.Sound.whenUp | with_reducible apply State.Sound.clearVfs

theorem State.Sound.zeroStaging {s : State} {fn : FnId} (h : s.Sound) : (State.zeroStaging s fn).Sound := by
  unfold Sys2Proof.Machine.State.zeroStaging
  repeat' first
    | with_reducible assumption | with_reducible apply State.Sound.setFn | with_reducible apply State.Sound.refreshResv
    | with_reducible apply State.SoundRec.upd | simp only [State.sound_mk]

theorem State.Sound.execVfEnableSet {num : Fin 8} {s : State} {out : State} (h : s.Sound) (ht : execVfEnableSet num s = .next out) : out.Sound := by
  cases ht
  repeat' first
    | with_reducible assumption | with_reducible apply State.Sound.whenUp | with_reducible apply State.Sound.forAll
    | with_reducible apply State.Sound.zeroStaging | with_reducible apply State.Sound.setFnState | with_reducible intro _

theorem State.Sound.logReset {s : State} {fn : FnId} {l : List CmdSrc} (h : s.Sound) : (State.logReset s fn l).Sound := by
  unfold Sys2Proof.Machine.State.logReset
  repeat' first
    | with_reducible assumption | with_reducible apply State.Sound.setWord | with_reducible apply State.Sound.setFld
    | with_reducible apply State.Sound.setBit | with_reducible apply State.Sound.foldl | with_reducible intro _

theorem State.Sound.execFunctionResetEnd {fn : FnId} {s : State} {out : State} (h : s.Sound) (ht : execFunctionResetEnd fn s = .next out) : out.Sound := by
  cases ht
  repeat' first
    | with_reducible assumption | with_reducible apply State.Sound.logReset | with_reducible apply State.Sound.zeroStaging
    | with_reducible apply State.Sound.forAll | with_reducible apply State.Sound.setRingState
    | with_reducible apply State.Sound.setFld | with_reducible apply State.Sound.setBit | with_reducible apply State.Sound.setFn
    | with_reducible apply State.Sound.setFnState | with_reducible apply State.Sound.ite | with_reducible intro _
    | with_reducible apply State.SoundRec.upd | simp only [State.sound_mk]

theorem State.Sound.zeroAxis {s : State} {n : AxId} (h : s.Sound) : (State.zeroAxis s n).Sound := by
  unfold Sys2Proof.Machine.State.zeroAxis
  repeat' first
    | with_reducible assumption | with_reducible apply State.Sound.loseMonitor | with_reducible apply State.Sound.setAx
    | with_reducible apply State.Sound.setBit | with_reducible apply State.Sound.setMotion
    | with_reducible apply State.Sound.Engine_zero | with_reducible apply State.Sound.refreshStep
    | with_reducible apply State.Sound.setMoni | with_reducible apply State.Sound.setEng
    | with_reducible apply State.Sound.setFld | with_reducible apply State.Sound.setEngState
    | with_reducible apply State.Sound.ax | with_reducible apply State.Sound.eng | with_reducible intro _
    | with_reducible apply State.SoundRec.upd | with_reducible apply Engine.SoundRec.upd
    | simp only [State.sound_mk, Axis.sound_mk, Engine.sound_mk] | with_reducible apply State.SoundRec.parts
    | with_reducible apply Axis.SoundRec.parts | with_reducible apply State.Sound.regs | with_reducible apply State.Sound.force
    | with_reducible apply State.Sound.shmem | with_reducible apply State.Sound.engines | with_reducible apply State.Sound.axes
    | with_reducible apply State.Sound.slots | with_reducible apply Axis.sound_legs | with_reducible apply Mem.wf_empty
    | with_reducible apply Sparse.wf_empty | with_reducible apply Sparse.wf_clearRange | split

theorem State.Sound.disarmDio {s : State} {d : DioId} (h : s.Sound) : (State.disarmDio s d).Sound := by
  unfold Sys2Proof.Machine.State.disarmDio
  repeat' first
    | with_reducible assumption | with_reducible apply State.SoundRec.upd | simp only [State.sound_mk]

theorem State.Sound.zeroRes {s : State} {a : Res} (h : s.Sound) : (State.zeroRes s a).Sound := by
  unfold State.zeroRes
  repeat' first
    | with_reducible assumption | with_reducible apply State.Sound.zeroAxis | with_reducible apply State.Sound.disarmDio
    | with_reducible apply State.Sound.enterSafeOut | with_reducible apply State.Sound.setChan
    | with_reducible apply State.Sound.zeroCan | with_reducible apply State.Sound.setTxq
    | with_reducible apply State.Sound.showDepth | simp only [] | split

theorem State.Sound.applyOwn {s : State} (h : s.Sound) : (State.applyOwn s).Sound := by
  unfold Sys2Proof.Machine.State.applyOwn
  repeat' first
    | with_reducible assumption | with_reducible apply State.Sound.setBit | with_reducible apply State.Sound.setFld
    | with_reducible apply State.Sound.forAll | with_reducible apply State.Sound.zeroRes | with_reducible apply State.Sound.ite
    | with_reducible intro _ | with_reducible apply State.SoundRec.upd | simp only [State.sound_mk] | split

theorem State.Sound.execOwnApply {fn : FnId} {s : State} {out : State} (h : s.Sound) (ht : execOwnApply fn s = .next out) : out.Sound := by
  cases ht
  repeat' first
    | with_reducible assumption | with_reducible apply State.Sound.whenUp | with_reducible apply State.Sound.applyOwn
    | with_reducible apply State.Sound.ite | with_reducible intro _

theorem State.Sound.setOwner {s : State} {r : Res} {o : Nat} (h : s.Sound) : (State.setOwner s r o).Sound := by
  unfold Sys2Proof.Machine.State.setOwner
  repeat' first
    | with_reducible assumption | with_reducible apply State.Sound.setWord | simp only [] | split

theorem State.Sound.execOwnershipZeroingDone {res : Res} {s : State} {out : State} (h : s.Sound) (ht : execOwnershipZeroingDone res s = .next out) : out.Sound := by
  cases ht
  repeat' first
    | with_reducible assumption | with_reducible apply State.Sound.setOwner | with_reducible apply State.Sound.setBit
    | with_reducible apply State.Sound.ite | with_reducible intro _ | with_reducible apply State.SoundRec.upd
    | simp only [State.sound_mk] | split

end Sys2Proof.Machine
end

