-- ==== Sys2Proof/Laws/Sound/PowerReset.lean ====
section
/-! SUPPORT. Soundness is kept by every operation and every meaning of Machine/PowerReset.lean. -/

namespace Sys2Proof.Machine

theorem State.Sound.takeCommit {s : State} (h : s.Sound) : (State.takeCommit s).Sound := by
  unfold Sys2Proof.Machine.State.takeCommit
  repeat' first
    | with_reducible assumption | with_reducible apply State.SoundRec.upd | simp only [State.sound_mk]

theorem State.Sound.takeOwed {s : State} {dt cause : Nat} (h : s.Sound) : (State.takeOwed s dt cause).Sound := by
  unfold Sys2Proof.Machine.State.takeOwed
  repeat' first
    | with_reducible assumption | with_reducible apply State.Sound.setBit | with_reducible apply State.Sound.refreshOwed
    | with_reducible apply State.Sound.ite | with_reducible intro _ | with_reducible apply State.SoundRec.upd
    | simp only [State.sound_mk]

theorem State.Sound.refreshVauxOk {s : State} (h : s.Sound) : (State.refreshVauxOk s).Sound := by
  unfold Sys2Proof.Machine.State.refreshVauxOk
  repeat' first
    | with_reducible assumption | with_reducible apply State.Sound.setBit

theorem Axis.sound_reset : Axis.reset.sound = true := by decide

theorem State.Sound.Axis_afterReset {x : Axis} : (Axis.afterReset x).sound = true := Axis.sound_reset

theorem resetRegs_wf {warm : Bool} {regs : Sparse Word} (h : Sparse.wf Reg.resetAt regs = true) :
    Sparse.wf Reg.resetAt (resetRegs warm regs) = true := by
  unfold resetRegs
  apply Sparse.wfFrom_filterMap _ _ h
  rintro ⟨a, w⟩ kv' hk
  dsimp only at hk
  split at hk
  · contradiction
  · repeat' split at hk
    all_goals first | contradiction | (injection hk with e; subst e; exact ⟨rfl, by assumption⟩)

theorem State.Sound.resetBlock {s : State} {warm : Bool} (h : s.Sound) : (State.resetBlock s warm).Sound := by
  unfold State.resetBlock
  dsimp only
  apply State.Sound.showLog
  apply State.Sound.refreshOwed
  apply State.Sound.refreshVauxOk
  apply State.Sound.setBit
  apply State.Sound.setBit
  apply State.Sound.resetSafety
  simp only [State.sound_mk]
  apply State.SoundRec.parts
  · exact resetRegs_wf h.regs
  · rfl
  · rfl
  · intro e
    simp only [State.reset, Fin.getElem_fin, Vector.getElem_ofFn]
    rfl
  · intro n
    simp only [Fin.getElem_fin, Vector.getElem_map]
    exact State.Sound.Axis_afterReset
  · exact h.slots

theorem State.Sound.keepRetired {s old : State} (h : s.Sound) (h1 : old.Sound) : (State.keepRetired s old).Sound := by
  unfold Sys2Proof.Machine.State.keepRetired
  repeat' first
    | with_reducible assumption | with_reducible apply State.Sound.forAll | with_reducible apply State.Sound.setBit
    | with_reducible apply State.Sound.setEngState | with_reducible intro _

theorem State.Sound.keepSupplies {s old : State} (h : s.Sound) (h1 : old.Sound) : (State.keepSupplies s old).Sound := by
  unfold Sys2Proof.Machine.State.keepSupplies
  repeat' first
    | with_reducible assumption | with_reducible apply State.Sound.forAll | with_reducible apply State.Sound.setBnk
    | with_reducible apply State.Sound.setWord | with_reducible apply State.Sound.setBit | with_reducible intro _

theorem State.Sound.keepTime {s old : State} (h : s.Sound) (h1 : old.Sound) : (State.keepTime s old).Sound := by
  unfold Sys2Proof.Machine.State.keepTime
  repeat' first
    | with_reducible assumption | with_reducible apply State.Sound.setFld | split

theorem State.Sound.keepLevel {s : State} (h : s.Sound) : (State.keepLevel s).Sound := by
  unfold Sys2Proof.Machine.State.keepLevel
  repeat' first
    | with_reducible assumption | with_reducible apply State.Sound.setFld

theorem State.Sound.warmReset {s : State} {cause : Nat} (h : s.Sound) : (State.warmReset s cause).Sound := by
  unfold Sys2Proof.Machine.State.warmReset
  repeat' first
    | with_reducible assumption | with_reducible apply State.Sound.takeCommit | with_reducible apply State.Sound.takeOwed
    | with_reducible apply State.Sound.resetBlock | with_reducible apply State.Sound.keepRetired
    | with_reducible apply State.Sound.keepSupplies | with_reducible apply State.Sound.keepTime
    | with_reducible apply State.Sound.keepLevel | with_reducible apply State.Sound.setFld
    | with_reducible apply State.Sound.setBit | with_reducible apply State.SoundRec.upd | simp only [State.sound_mk]

theorem State.Sound.execResetNReset {low : Nat} {s : State} {out : State} (h : s.Sound) (ht : execResetNReset low s = .next out) : out.Sound := by
  cases ht
  repeat' first
    | with_reducible assumption | with_reducible apply State.Sound.warmReset | with_reducible apply State.Sound.ite
    | with_reducible intro _ | with_reducible apply State.SoundRec.upd | simp only [State.sound_mk]

theorem State.Sound.writeRstKey {s : State} {fn : FnId} {w : Word} (h : s.Sound) : (State.writeRstKey s fn w).Sound := by
  unfold Sys2Proof.Machine.State.writeRstKey
  repeat' first
    | with_reducible assumption | with_reducible apply State.Sound.warmReset | with_reducible apply State.Sound.ite
    | with_reducible intro _

theorem State.Sound.execPwrRstKey {fn : FnId} {value : Word} {s : State} {out : State} (h : s.Sound) (ht : execPwrRstKey fn value s = .next out) : out.Sound := by
  cases ht
  repeat' first
    | with_reducible assumption | with_reducible apply State.Sound.writeRstKey

theorem State.Sound.execHkWatchdogReset {s : State} {out : State} (h : s.Sound) (ht : execHkWatchdogReset s = .next out) : out.Sound := by
  cases ht
  repeat' first
    | with_reducible assumption | with_reducible apply State.Sound.warmReset | with_reducible apply State.Sound.ite
    | with_reducible intro _

theorem State.Sound.execPowerFailRestart {mv held : Nat} {s : State} {out : State} (h : s.Sound) (ht : execPowerFailRestart mv held s = .next out) : out.Sound := by
  cases ht
  repeat' first
    | with_reducible assumption | with_reducible apply State.Sound.warmReset | with_reducible apply State.Sound.ite
    | with_reducible intro _ | with_reducible apply State.SoundRec.upd | simp only [State.sound_mk]

theorem State.Sound.pathTest {s : State} {f : Option (Fin 2)} (h : s.Sound) : (State.pathTest s f).Sound := by
  unfold Sys2Proof.Machine.State.pathTest
  repeat' first
    | with_reducible assumption | with_reducible apply State.Sound.channelFault | split

theorem State.Sound.execWarmResetEnd {pathFault : Option (Fin 2)} {s : State} {out : State} (h : s.Sound) (ht : execWarmResetEnd pathFault s = .next out) : out.Sound := by
  cases ht
  repeat' first
    | with_reducible assumption | with_reducible apply State.Sound.logFault | with_reducible apply State.Sound.forAll
    | with_reducible apply State.Sound.initialHall | with_reducible apply State.Sound.pathTest
    | with_reducible apply State.Sound.ite | with_reducible intro _ | with_reducible apply State.SoundRec.upd
    | simp only [State.sound_mk]

theorem State.Sound.execPowerOnResetAssert {s : State} {out : State} (h : s.Sound) (ht : execPowerOnResetAssert s = .next out) : out.Sound := by
  cases ht
  repeat' first
    | with_reducible assumption | with_reducible apply State.Sound.logFault | with_reducible apply State.Sound.takeOwed
    | with_reducible apply State.Sound.resetBlock | with_reducible apply State.Sound.setBit
    | with_reducible apply State.Sound.ite | with_reducible intro _ | with_reducible apply State.SoundRec.upd
    | simp only [State.sound_mk]

theorem State.Sound.plinthCold {s : State} (h : s.Sound) : (State.plinthCold s).Sound := by
  unfold Sys2Proof.Machine.State.plinthCold
  repeat' first
    | with_reducible assumption | with_reducible apply State.Sound.setWord | with_reducible apply State.Sound.forAll
    | with_reducible apply State.Sound.setBit | with_reducible apply State.Sound.refreshOwed | with_reducible intro _
    | with_reducible apply State.SoundRec.upd | simp only [State.sound_mk]

theorem State.Sound.execPowerOnReset {psel : Fin 4} {elapsed : Nat} {cold : Bool} {pathFault : Option (Fin 2)} {s : State} {out : State} (h : s.Sound) (ht : execPowerOnReset psel elapsed cold pathFault s = .next out) : out.Sound := by
  cases ht
  repeat' first
    | with_reducible assumption | with_reducible apply State.Sound.plinthCold | with_reducible apply State.Sound.setFld
    | with_reducible apply State.Sound.setBit | with_reducible apply State.Sound.logFault
    | with_reducible apply State.Sound.showLog | with_reducible apply State.Sound.forAll
    | with_reducible apply State.Sound.initialHall | with_reducible apply State.Sound.pathTest
    | with_reducible apply State.Sound.ite | with_reducible intro _ | with_reducible apply State.SoundRec.upd
    | simp only [State.sound_mk]

theorem State.Sound.execEndpointReset {s : State} {out : State} (h : s.Sound) (ht : execEndpointReset s = .next out) : out.Sound := by
  cases ht
  repeat' first
    | with_reducible assumption | with_reducible apply State.Sound.countSat | with_reducible apply State.Sound.clearVfs
    | with_reducible apply State.Sound.flrFn | with_reducible apply State.Sound.ite | with_reducible intro _

theorem State.Sound.execPowerFail {vcore : Bool} {mv held : Nat} {s : State} {out : State} (h : s.Sound) (ht : execPowerFail vcore mv held s = .next out) : out.Sound := by
  cases ht
  repeat' first
    | with_reducible assumption | with_reducible apply State.Sound.takeCommit | with_reducible apply State.Sound.takeOwed
    | with_reducible apply State.Sound.setBit | with_reducible apply State.Sound.refreshVauxOk
    | with_reducible apply State.Sound.forAll | with_reducible apply State.Sound.setFailover
    | with_reducible apply State.Sound.refreshAxis | with_reducible apply State.Sound.refreshBrake
    | with_reducible apply State.Sound.ite | with_reducible intro _ | with_reducible apply State.SoundRec.upd
    | simp only [State.sound_mk]

theorem State.Sound.execPlinthCommitDone {s : State} {out : State} (h : s.Sound) (ht : execPlinthCommitDone s = .next out) : out.Sound := by
  cases ht
  repeat' first
    | with_reducible assumption | with_reducible apply State.Sound.logFault | with_reducible apply State.Sound.ite
    | with_reducible intro _ | with_reducible apply State.SoundRec.upd | simp only [State.sound_mk]

theorem State.Sound.restartCharge {s : State} (h : s.Sound) : (State.restartCharge s).Sound := by
  unfold Sys2Proof.Machine.State.restartCharge
  repeat' first
    | with_reducible assumption | with_reducible apply State.Sound.setFld

theorem State.Sound.execVauxHandover {mv : Nat} {s : State} {out : State} (h : s.Sound) (ht : execVauxHandover mv s = .next out) : out.Sound := by
  cases ht
  repeat' first
    | with_reducible assumption | with_reducible apply State.Sound.refreshVauxOk | with_reducible apply State.Sound.setBit
    | with_reducible apply State.Sound.restartCharge | with_reducible apply State.Sound.ite | with_reducible intro _
    | with_reducible apply State.SoundRec.upd | simp only [State.sound_mk]

theorem State.Sound.execVauxReturn {mv : Nat} {s : State} {out : State} (h : s.Sound) (ht : execVauxReturn mv s = .next out) : out.Sound := by
  cases ht
  repeat' first
    | with_reducible assumption | with_reducible apply State.Sound.refreshVauxOk | with_reducible apply State.Sound.setBit
    | with_reducible apply State.Sound.restartCharge | with_reducible apply State.Sound.ite | with_reducible intro _
    | with_reducible apply State.SoundRec.upd | simp only [State.sound_mk] | split

theorem State.Sound.setChg {s : State} {c : Nat} (h : s.Sound) : (State.setChg s c).Sound := by
  unfold Sys2Proof.Machine.State.setChg
  repeat' first
    | with_reducible assumption | with_reducible apply State.Sound.setFld

theorem State.Sound.setVbakMv {s : State} {mv : Nat} (h : s.Sound) : (State.setVbakMv s mv).Sound := by
  unfold Sys2Proof.Machine.State.setVbakMv
  repeat' first
    | with_reducible assumption | with_reducible apply State.Sound.setFld

theorem State.Sound.beginVbakTest {s : State} (h : s.Sound) : (State.beginVbakTest s).Sound := by
  unfold Sys2Proof.Machine.State.beginVbakTest
  repeat' first
    | with_reducible assumption | with_reducible apply State.Sound.setChg | with_reducible apply State.SoundRec.upd
    | simp only [State.sound_mk]

theorem State.Sound.endVbakTest {s : State} {before after : Nat} (h : s.Sound) : (State.endVbakTest s before after).Sound := by
  unfold Sys2Proof.Machine.State.endVbakTest
  repeat' first
    | with_reducible assumption | with_reducible apply State.Sound.setVbakMv | with_reducible apply State.Sound.event
    | with_reducible apply State.Sound.setBit | with_reducible apply State.Sound.setChg | with_reducible apply State.Sound.ite
    | with_reducible intro _

theorem State.Sound.execVbakTest {e : VbakEvent} {s : State} {out : State} (h : s.Sound) (ht : execVbakTest e s = .next out) : out.Sound := by
  cases ht
  repeat' first
    | with_reducible assumption | with_reducible apply State.Sound.setVbakMv | with_reducible apply State.Sound.setChg
    | with_reducible apply State.Sound.beginVbakTest | with_reducible apply State.Sound.endVbakTest
    | with_reducible apply State.Sound.restartCharge | with_reducible apply State.Sound.ite | with_reducible intro _
    | simp only [] | split

theorem State.Sound.execVbakRecharge {mv : Nat} {s : State} {out : State} (h : s.Sound) (ht : execVbakRecharge mv s = .next out) : out.Sound := by
  cases ht
  repeat' first
    | with_reducible assumption | with_reducible apply State.Sound.setVbakMv | with_reducible apply State.Sound.restartCharge
    | with_reducible apply State.Sound.ite | with_reducible intro _

theorem State.Sound.setSlot {s : State} {k : Fin 2} {x : Slot} (h : s.Sound) (hx : Mem.wf x.img = true) : (State.setSlot s k x).Sound := by
  refine ⟨h.regs, h.force, h.shmem, h.engines, h.axes, ?_⟩
  intro m
  show Mem.wf ((setAt s.pwr.slots k x)[m]).img = true
  unfold setAt
  by_cases hm : k.val = m.val
  · simp only [Fin.getElem_fin, Vector.getElem_set, hm, if_true]; exact hx
  · simp only [Fin.getElem_fin, Vector.getElem_set, hm, if_false]; exact h.slots m

theorem State.Sound.nvmRej {s : State} (h : s.Sound) : (State.nvmRej s).Sound := by
  unfold Sys2Proof.Machine.State.nvmRej
  repeat' first
    | with_reducible assumption | with_reducible apply State.Sound.setBit

theorem State.Sound.nvmStart {s : State} {op : NvmOp} (h : s.Sound) : (State.nvmStart s op).Sound := by
  unfold Sys2Proof.Machine.State.nvmStart
  repeat' first
    | with_reducible assumption | with_reducible apply State.Sound.setBit | with_reducible apply State.SoundRec.upd
    | simp only [State.sound_mk]

theorem Slot.wf_empty : Mem.wf Slot.empty.img = true := rfl

theorem State.Sound.slot_img {s : State} {k : Fin 2} (h : s.Sound) : Mem.wf (s.slot k).img = true := h.slots k

theorem State.Sound.writeSlotCtl {s : State} {fn : FnId} {w : Word} (h : s.Sound) : (State.writeSlotCtl s fn w).Sound := by
  unfold Sys2Proof.Machine.State.writeSlotCtl
  repeat' first
    | with_reducible assumption | with_reducible apply Slot.wf_empty | with_reducible apply State.Sound.slot_img
    | with_reducible apply State.Sound.setWord | with_reducible apply State.Sound.nvmRej
    | with_reducible apply State.Sound.setSlot | with_reducible apply State.Sound.nvmStart
    | with_reducible apply State.Sound.ite | with_reducible intro _ | with_reducible apply State.SoundRec.upd
    | simp only [State.sound_mk] | with_reducible apply Mem.wf_foldl | with_reducible apply Mem.wf_putByte
    | with_reducible apply Sparse.wf_clearRange | split

theorem State.Sound.execNvmBegin {fn : FnId} {value : Word} {s : State} {out : State} (h : s.Sound) (ht : execNvmBegin fn value s = .next out) : out.Sound := by
  cases ht
  repeat' first
    | with_reducible assumption | with_reducible apply State.Sound.writeSlotCtl | with_reducible apply State.Sound.ite
    | with_reducible intro _

theorem State.Sound.execNvmWrite {fn : FnId} {value : Word} {s : State} {out : State} (h : s.Sound) (ht : execNvmWrite fn value s = .next out) : out.Sound := by
  cases ht
  repeat' first
    | with_reducible assumption | with_reducible apply State.Sound.writeSlotCtl | with_reducible apply State.Sound.ite
    | with_reducible intro _

theorem State.Sound.execNvmFinish {fn : FnId} {value : Word} {s : State} {out : State} (h : s.Sound) (ht : execNvmFinish fn value s = .next out) : out.Sound := by
  cases ht
  repeat' first
    | with_reducible assumption | with_reducible apply State.Sound.writeSlotCtl | with_reducible apply State.Sound.ite
    | with_reducible intro _

theorem State.Sound.execLockver {fn : FnId} {value : Word} {s : State} {out : State} (h : s.Sound) (ht : execLockver fn value s = .next out) : out.Sound := by
  cases ht
  repeat' first
    | with_reducible assumption | with_reducible apply State.Sound.writeSlotCtl | with_reducible apply State.Sound.ite
    | with_reducible intro _

theorem State.Sound.execNvmOpDone {keyOk sigOk : Bool} {s : State} {out : State} (h : s.Sound) (ht : execNvmOpDone keyOk sigOk s = .next out) : out.Sound := by
  cases ht
  repeat' first
    | with_reducible assumption | with_reducible apply Slot.wf_empty | with_reducible apply State.Sound.slot_img
    | with_reducible apply State.Sound.setBit | with_reducible apply State.Sound.setSlot
    | with_reducible apply State.Sound.nvmRej | with_reducible apply State.Sound.ite | with_reducible intro _
    | with_reducible apply State.SoundRec.upd | simp only [State.sound_mk] | split

theorem State.Sound.execMotorLoss {n : AxId} {byHall : Bool} {s : State} {out : State} (h : s.Sound) (ht : execMotorLoss n byHall s = .next out) : out.Sound := by
  cases ht
  repeat' first
    | with_reducible assumption | with_reducible apply State.Sound.setAx | with_reducible apply State.Sound.ite
    | with_reducible apply State.Sound.ax | with_reducible intro _ | with_reducible apply Axis.SoundRec.upd
    | simp only [Axis.sound_mk]

theorem State.Sound.execPlugRetryExpiry {n : AxId} {s : State} {out : State} (h : s.Sound) (ht : execPlugRetryExpiry n s = .next out) : out.Sound := by
  cases ht
  repeat' first
    | with_reducible assumption | with_reducible apply State.Sound.setPlug | with_reducible apply State.Sound.refreshPlug
    | with_reducible apply State.Sound.tryIdent | with_reducible apply State.Sound.ite | with_reducible intro _ | simp only []
    | split

theorem State.Sound.execIdentificationDone {n : AxId} {u v w : Nat} {s : State} {out : State} (h : s.Sound) (ht : execIdentificationDone n u v w s = .next out) : out.Sound := by
  cases ht
  repeat' first
    | with_reducible assumption | with_reducible apply State.Sound.setPlug | with_reducible apply State.Sound.refreshPlug
    | with_reducible apply State.Sound.refreshAxis | with_reducible apply State.Sound.failIdent
    | with_reducible apply State.Sound.ite | with_reducible intro _ | simp only [] | split

end Sys2Proof.Machine
end

