-- ==== Sys2Proof/Laws/Sound/RegWrite.lean ====
section
/-! SUPPORT. Soundness is kept by every operation and every meaning of Machine/RegWrite.lean. -/

namespace Sys2Proof.Machine

theorem State.Sound.mergeReg {s : State} {r : Reg} {i j : Nat} {w : Word} (h : s.Sound) : (State.mergeReg s r i j w).Sound := by
  unfold Sys2Proof.Machine.State.mergeReg
  repeat' first
    | with_reducible assumption | with_reducible apply State.Sound.setWord | with_reducible apply State.SoundRec.upd
    | simp only [State.sound_mk]

theorem State.Sound.retryStarts {s : State} (h : s.Sound) : (State.retryStarts s).Sound := by
  unfold Sys2Proof.Machine.State.retryStarts
  repeat' first
    | with_reducible assumption | with_reducible apply State.Sound.forAll | with_reducible apply State.Sound.tryStart
    | with_reducible apply State.Sound.ite | with_reducible intro _

theorem State.Sound.mandateProfile {s : State} {n : AxId} (h : s.Sound) : (State.mandateProfile s n).Sound := by
  unfold Sys2Proof.Machine.State.mandateProfile
  repeat' first
    | with_reducible assumption | with_reducible apply State.Sound.setBit | with_reducible apply State.Sound.ite
    | with_reducible intro _

theorem State.Sound.writeOffOnly {s : State} {r : Reg} {n : AxId} {w : Word} (h : s.Sound) : (State.writeOffOnly s r n w).Sound := by
  unfold Sys2Proof.Machine.State.writeOffOnly
  repeat' first
    | with_reducible assumption | with_reducible apply State.Sound.setBit | with_reducible apply State.Sound.mergeReg
    | with_reducible apply State.Sound.refreshFbCfg | with_reducible apply State.Sound.refreshCapt
    | with_reducible apply State.Sound.resetFeedback | with_reducible apply State.Sound.initialHall
    | with_reducible apply State.Sound.noHall | with_reducible apply State.Sound.mandateProfile
    | with_reducible apply State.Sound.ite | with_reducible intro _ | simp only [] | split

theorem State.Sound.writeFb {s : State} {r : Reg} {i : Nat} {w : Word} (h : s.Sound) : (State.writeFb s r i w).Sound := by
  unfold Sys2Proof.Machine.State.writeFb
  repeat' first
    | with_reducible assumption | with_reducible apply State.Sound.mergeReg | with_reducible apply State.SoundRec.upd
    | simp only [State.sound_mk]

theorem State.Sound.writeAxis {s : State} {r : Reg} {n : AxId} {w : Word} (h : s.Sound) : (State.writeAxis s r n w).Sound := by
  unfold Sys2Proof.Machine.State.writeAxis
  repeat' first
    | with_reducible assumption | with_reducible apply State.Sound.writeOffOnly | with_reducible apply State.Sound.writeFb
    | with_reducible apply State.Sound.writePosldHi | with_reducible apply State.Sound.mergeReg
    | with_reducible apply State.Sound.ite | with_reducible intro _ | split

theorem State.Sound.writeFlt {s : State} {b : BankId} {w : Word} (h : s.Sound) : (State.writeFlt s b w).Sound := by
  unfold Sys2Proof.Machine.State.writeFlt
  repeat' first
    | with_reducible assumption | with_reducible apply State.Sound.mergeReg | with_reducible apply State.Sound.judgeFlt

theorem State.Sound.writeBank {s : State} {r : Reg} {b : BankId} {w : Word} (h : s.Sound) : (State.writeBank s r b w).Sound := by
  unfold Sys2Proof.Machine.State.writeBank
  repeat' first
    | with_reducible assumption | with_reducible apply State.Sound.writeFb | with_reducible apply State.Sound.mergeReg
    | with_reducible apply State.Sound.carrierStartRequest | with_reducible apply State.Sound.carrierStopRequest
    | with_reducible apply State.Sound.writeCarrierFields | with_reducible apply State.Sound.restart
    | with_reducible apply State.Sound.setBit | with_reducible apply State.Sound.judgeVm
    | with_reducible apply State.Sound.refreshBrake | with_reducible apply State.Sound.withDemandsOf
    | with_reducible apply State.Sound.writeFlt | with_reducible apply State.Sound.ite | with_reducible intro _ | simp only []
    | split

theorem State.Sound.writeAlloc {s : State} {w : Word} (h : s.Sound) : (State.writeAlloc s w).Sound := by
  unfold Sys2Proof.Machine.State.writeAlloc
  repeat' first
    | with_reducible assumption | with_reducible apply State.Sound.mergeReg | with_reducible apply State.Sound.requestApply
    | with_reducible apply State.Sound.ite | with_reducible intro _

theorem State.Sound.writeShaft {s : State} {r : Reg} {w : Word} (h : s.Sound) : (State.writeShaft s r w).Sound := by
  unfold Sys2Proof.Machine.State.writeShaft
  repeat' first
    | with_reducible assumption | with_reducible apply State.Sound.setBit | with_reducible apply State.Sound.mergeReg
    | with_reducible apply State.Sound.ite | with_reducible intro _

theorem State.Sound.writeTbCfg {s : State} {w : Word} (h : s.Sound) : (State.writeTbCfg s w).Sound := by
  unfold Sys2Proof.Machine.State.writeTbCfg
  repeat' first
    | with_reducible assumption | with_reducible apply State.Sound.setBit | with_reducible apply State.Sound.mergeReg
    | with_reducible apply State.Sound.setFld | with_reducible apply State.Sound.setWord
    | with_reducible apply State.Sound.setDom | with_reducible apply State.Sound.setDomValid
    | with_reducible apply State.Sound.autoSelect | with_reducible apply State.Sound.ite | with_reducible intro _
    | with_reducible apply State.SoundRec.upd | simp only [State.sound_mk]

theorem State.Sound.writeTpo {s : State} {w : Word} (h : s.Sound) : (State.writeTpo s w).Sound := by
  unfold Sys2Proof.Machine.State.writeTpo
  repeat' first
    | with_reducible assumption | with_reducible apply State.Sound.mergeReg | with_reducible apply State.Sound.ite
    | with_reducible intro _ | with_reducible apply State.SoundRec.upd | simp only [State.sound_mk]

theorem State.Sound.writeGlobal {s : State} {r : Reg} {i j : Nat} {w : Word} (h : s.Sound) : (State.writeGlobal s r i j w).Sound := by
  unfold Sys2Proof.Machine.State.writeGlobal
  repeat' first
    | with_reducible assumption | with_reducible apply State.Sound.mergeReg | with_reducible apply State.Sound.refreshPace
    | with_reducible apply State.Sound.writeAlloc | with_reducible apply State.Sound.writePoCfg
    | with_reducible apply State.Sound.writePoRatio | with_reducible apply State.Sound.writeShaft
    | with_reducible apply State.Sound.refreshLevel | with_reducible apply State.Sound.writeRstKey
    | with_reducible apply State.Sound.refreshVauxOk | with_reducible apply State.Sound.restartCharge
    | with_reducible apply State.Sound.discardLost | with_reducible apply State.Sound.writeFanCfg
    | with_reducible apply State.Sound.writeTbSetHi | with_reducible apply State.Sound.writeTbCfg
    | with_reducible apply State.Sound.writeTpo | with_reducible apply State.Sound.ite | with_reducible intro _ | simp only []
    | split

theorem State.Sound.writeNet {s : State} {r : Reg} {i j : Nat} {w : Word} (h : s.Sound) : (State.writeNet s r i j w).Sound := by
  unfold Sys2Proof.Machine.State.writeNet
  repeat' first
    | with_reducible assumption | with_reducible apply State.Sound.mergeReg | with_reducible apply State.Sound.setWord
    | with_reducible apply State.Sound.setBit | with_reducible apply State.Sound.writeGclCtl
    | with_reducible apply State.Sound.ite | with_reducible intro _ | simp only [] | split

theorem State.Sound.writeCan {s : State} {r : Reg} {c : CanId} {j : Nat} {w : Word} (h : s.Sound) : (State.writeCan s r c j w).Sound := by
  unfold Sys2Proof.Machine.State.writeCan
  repeat' first
    | with_reducible assumption | with_reducible apply State.Sound.mergeReg | with_reducible apply State.Sound.setBit
    | with_reducible apply State.Sound.setFld | with_reducible apply State.Sound.setWord | with_reducible apply State.Sound.ite
    | with_reducible intro _ | simp only [] | split

theorem State.Sound.clearTotal {s : State} {w : Word} (h : s.Sound) : (State.clearTotal s w).Sound := by
  unfold Sys2Proof.Machine.State.clearTotal
  repeat' first
    | with_reducible assumption | with_reducible apply State.Sound.mergeReg | with_reducible apply State.Sound.endTotal
    | with_reducible apply State.Sound.ite | with_reducible intro _

theorem State.Sound.writeLocal {s : State} {r : Reg} {i j : Nat} {w : Word} (h : s.Sound) : (State.writeLocal s r i j w).Sound := by
  unfold Sys2Proof.Machine.State.writeLocal
  repeat' first
    | with_reducible assumption | with_reducible apply State.Sound.mergeReg | with_reducible apply State.Sound.writeDioCfg
    | with_reducible apply State.Sound.clearTotal | with_reducible apply State.Sound.storeSet
    | with_reducible apply State.Sound.writeSlotCtl | with_reducible apply State.Sound.showFlog
    | with_reducible apply State.Sound.ite | with_reducible intro _ | simp only [] | split

theorem State.Sound.writeFnReg {s : State} {by_ : FnId} {r : Reg} {g : FnId} {j : Nat} {w : Word} (h : s.Sound) : (State.writeFnReg s by_ r g j w).Sound := by
  unfold Sys2Proof.Machine.State.writeFnReg
  repeat' first
    | with_reducible assumption | with_reducible apply State.Sound.mergeReg | with_reducible apply State.Sound.doorbell
    | with_reducible apply State.Sound.enableRing | with_reducible apply State.Sound.disableRing
    | with_reducible apply State.Sound.writeFctl | with_reducible apply State.Sound.fstatChanged
    | with_reducible apply State.Sound.setBit | with_reducible apply State.Sound.ite | with_reducible intro _ | simp only []
    | split

theorem State.Sound.writeOwn {s : State} {by_ : FnId} {r : Reg} {i : Nat} {w : Word} (h : s.Sound) : (State.writeOwn s by_ r i w).Sound := by
  unfold Sys2Proof.Machine.State.writeOwn
  repeat' first
    | with_reducible assumption | with_reducible apply State.Sound.mergeReg | with_reducible apply State.Sound.applyOwn
    | with_reducible apply State.Sound.ite | with_reducible intro _ | simp only [] | split

theorem State.Sound.writeSetup {s : State} {r : Reg} {i j : Nat} {w : Word} (h : s.Sound) : (State.writeSetup s r i j w).Sound := by
  unfold Sys2Proof.Machine.State.writeSetup
  repeat' first
    | with_reducible assumption | with_reducible apply State.Sound.writeGlobal | with_reducible apply State.Sound.writeNet
    | with_reducible apply State.Sound.writeCan | with_reducible apply State.Sound.writeLocal
    | with_reducible apply State.Sound.writeBank | with_reducible apply State.Sound.writeAxis
    | with_reducible apply State.Sound.retryStarts | with_reducible apply State.Sound.ite | with_reducible intro _ | split

theorem State.Sound.writeAt {s : State} {by_ : FnId} {a : Nat} {w : Word} (h : s.Sound) : (State.writeAt s by_ a w).Sound := by
  unfold Sys2Proof.Machine.State.writeAt
  repeat' first
    | with_reducible assumption | with_reducible apply State.Sound.writeOwn | with_reducible apply State.Sound.writeFnReg
    | with_reducible apply State.Sound.writeSetup | with_reducible apply State.Sound.ite | with_reducible intro _ | split

theorem State.Sound.windowWrite {s : State} {off : Nat} {data : List Byte} (h : s.Sound) : (State.windowWrite s off data).Sound := by
  unfold Sys2Proof.Machine.State.windowWrite
  repeat' first
    | with_reducible assumption | with_reducible apply State.Sound.hostTurn | with_reducible apply State.SoundRec.upd
    | simp only [State.sound_mk]

theorem State.Sound.execShmemWindowWrite {fn : FnId} {addr : BitVec 32} {data : List Byte} {s : State} {out : State} (h : s.Sound) (ht : execShmemWindowWrite fn addr data s = .next out) : out.Sound := by
  cases ht
  repeat' first
    | with_reducible assumption | with_reducible apply State.Sound.setBit | with_reducible apply State.Sound.windowWrite
    | with_reducible apply State.Sound.ite | with_reducible intro _

theorem State.Sound.hostWrite {s : State} {fn : FnId} {a : Nat} {w : Word} (h : s.Sound) : (State.hostWrite s fn a w).Sound := by
  unfold Sys2Proof.Machine.State.hostWrite
  repeat' first
    | with_reducible assumption | with_reducible apply State.Sound.setBit | with_reducible apply State.Sound.windowWrite
    | with_reducible apply State.Sound.writeAt | with_reducible apply State.Sound.ite | with_reducible intro _ | simp only []
    | split

theorem State.Sound.execRegisterWrite {fn : FnId} {addr : BitVec 32} {value : Word} {s : State} {out : State} (h : s.Sound) (ht : execRegisterWrite fn addr value s = .next out) : out.Sound := by
  cases ht
  repeat' first
    | with_reducible assumption | with_reducible apply State.Sound.hostWrite

end Sys2Proof.Machine
end

