-- ==== Sys2Proof/Laws/Sound/Boot.lean ====
section
/-! SUPPORT. Soundness is kept by every operation and every meaning of Machine/Boot.lean. -/

namespace Sys2Proof.Machine

theorem State.Sound.recordWrite {s : State} {o : Nat} {w : Word} (h : s.Sound) : (State.recordWrite s o w).1.Sound := by
  unfold Sys2Proof.Machine.State.recordWrite
  repeat' first
    | with_reducible assumption | with_reducible apply State.Sound.windowWrite | with_reducible apply State.Sound.writeAt
    | simp only [] | split

theorem State.Sound.setEnv {s : State} {env split : Nat} (h : s.Sound) : (State.setEnv s env split).Sound := by
  unfold Sys2Proof.Machine.State.setEnv
  repeat' first
    | with_reducible assumption | with_reducible apply State.Sound.setFld | with_reducible apply State.Sound.forAll
    | with_reducible apply State.Sound.mandateProfile | with_reducible apply State.Sound.refreshLevel
    | with_reducible apply State.Sound.refreshCapt | with_reducible apply State.Sound.publishMon
    | with_reducible apply State.Sound.ite | with_reducible intro _

theorem State.Sound.loadWait {s : State} {w : LoadWait} (h : s.Sound) : (State.loadWait s w).Sound := by
  unfold Sys2Proof.Machine.State.loadWait
  repeat' first
    | with_reducible assumption | with_reducible apply State.SoundRec.upd | simp only [State.sound_mk]

theorem State.Sound.applyRecord {s : State} {i type : Nat} {p : List Byte} (h : s.Sound) : (State.applyRecord s i type p).1.Sound := by
  unfold Sys2Proof.Machine.State.applyRecord
  repeat' first
    | with_reducible assumption | with_reducible apply State.Sound.setEnv | with_reducible apply State.Sound.loadWait
    | with_reducible apply State.Sound.startCopy | with_reducible apply State.Sound.setEng
    | with_reducible apply State.Sound.startEngine | with_reducible apply State.Sound.setAx
    | with_reducible apply State.Sound.recordWrite | with_reducible apply State.Sound.ite | with_reducible apply State.Sound.ax
    | with_reducible apply State.Sound.eng | with_reducible intro _ | with_reducible apply Engine.SoundRec.upd
    | simp only [Axis.sound_mk, Engine.sound_mk] | with_reducible apply Axis.SoundRec.parts
    | with_reducible apply Axis.sound_win | with_reducible apply Axis.sound_coef | with_reducible apply Axis.sound_legs
    | with_reducible apply Sparse.wf_put | split

theorem State.Sound.stopCarriers {s : State} (h : s.Sound) : (State.stopCarriers s).Sound := by
  unfold Sys2Proof.Machine.State.stopCarriers
  repeat' first
    | with_reducible assumption | with_reducible apply State.Sound.forAll | with_reducible apply State.Sound.setBit
    | with_reducible apply State.Sound.setBnk | with_reducible apply State.Sound.ite | with_reducible intro _ | simp only []
    | split

theorem State.Sound.beginLoad {s : State} {src : Option CmdSrc} {p : Fin 4} (h : s.Sound) : (State.beginLoad s src p).Sound := by
  unfold Sys2Proof.Machine.State.beginLoad
  repeat' first
    | with_reducible assumption | with_reducible apply State.Sound.setBit | with_reducible apply State.SoundRec.upd
    | simp only [State.sound_mk]

theorem State.Sound.decideLoad {s : State} {p : Fin 4} (h : s.Sound) : (State.decideLoad s p).1.Sound := by
  unfold Sys2Proof.Machine.State.decideLoad
  repeat' first
    | with_reducible assumption | with_reducible apply State.Sound.setFld | with_reducible apply State.Sound.setBit
    | with_reducible apply State.Sound.logFault | with_reducible apply State.Sound.event
    | with_reducible apply State.Sound.setEnv | with_reducible apply State.SoundRec.upd | simp only [State.sound_mk] | split

theorem State.Sound.startRewrite {s : State} {p : Fin 4} {x : ProfCopy} (h : s.Sound) : (State.startRewrite s p x).Sound := by
  unfold Sys2Proof.Machine.State.startRewrite
  repeat' first
    | with_reducible assumption | with_reducible apply State.Sound.setBit | with_reducible apply State.Sound.ite
    | with_reducible intro _ | with_reducible apply State.SoundRec.upd | simp only [State.sound_mk]

theorem State.Sound.execProfileRewriteDone {s : State} {out : State} (h : s.Sound) (ht : execProfileRewriteDone s = .next out) : out.Sound := by
  cases ht
  repeat' first
    | with_reducible assumption | with_reducible apply State.Sound.setBit | with_reducible apply State.Sound.ite
    | with_reducible intro _ | with_reducible apply State.SoundRec.upd | simp only [State.sound_mk] | split

theorem State.Sound.restorePlinth {s : State} (h : s.Sound) : (State.restorePlinth s).Sound := by
  unfold Sys2Proof.Machine.State.restorePlinth
  repeat' first
    | with_reducible assumption | with_reducible apply State.Sound.setBit | with_reducible apply State.Sound.forAll
    | with_reducible apply State.Sound.setFbk | with_reducible apply State.Sound.setWord
    | with_reducible apply State.Sound.logFault | with_reducible apply State.Sound.ite | with_reducible intro _
    | with_reducible apply State.SoundRec.upd | simp only [State.sound_mk]

theorem State.Sound.finishBoot {s : State} (h : s.Sound) : (State.finishBoot s).Sound := by
  unfold Sys2Proof.Machine.State.finishBoot
  repeat' first
    | with_reducible assumption | with_reducible apply State.Sound.bootSafety | with_reducible apply State.Sound.restorePlinth
    | with_reducible apply State.Sound.refreshLevel | with_reducible apply State.Sound.refreshOwed
    | with_reducible apply State.Sound.event | with_reducible apply State.Sound.setBit | with_reducible apply State.SoundRec.upd
    | simp only [State.sound_mk]

theorem State.Sound.endLoad {s : State} {src : Option CmdSrc} {ok : Bool} (h : s.Sound) : (State.endLoad s src ok).Sound := by
  unfold Sys2Proof.Machine.State.endLoad
  repeat' first
    | with_reducible assumption | with_reducible apply State.Sound.setBit | with_reducible apply State.Sound.complete
    | with_reducible apply State.Sound.finishBoot | with_reducible apply State.Sound.beginLoad
    | with_reducible apply State.Sound.ite | with_reducible intro _ | with_reducible apply State.SoundRec.upd
    | simp only [State.sound_mk] | split

theorem State.Sound.stepLoad {s : State} {out : State} (h : s.Sound) (ht : State.stepLoad s = some out) : out.Sound := by
  unfold Sys2Proof.Machine.State.stepLoad at ht
  split at ht
  · contradiction
  · rename_i l hl
    split at ht
    · extract_lets s1 at ht
      have h1 : s1.Sound := State.Sound.stopCarriers h
      clear_value s1
      split at ht
      · contradiction
      · split at ht
        rename_i t c heq
        have h2 : t.Sound := State.Sound.of_fst_eq heq (State.Sound.decideLoad h1)
        rw [← Option.some.inj ht]
        split
        · exact State.Sound.endLoad h2
        · exact State.Sound.startRewrite (State.Sound.upd h2)
    · split at ht
      · rw [← Option.some.inj ht]
        exact State.Sound.endLoad h
      · dsimp only at ht
        rw [← Option.some.inj ht]
        split
        · exact State.Sound.logFault (State.Sound.applyRecord (State.Sound.upd h))
        · exact State.Sound.applyRecord (State.Sound.upd h)
    · split at ht
      · contradiction
      · rw [← Option.some.inj ht]
        exact State.Sound.loadWait h
    · split at ht
      · rw [← Option.some.inj ht]
        exact State.Sound.loadWait h
      · contradiction

theorem State.Sound.runLoad {n : Nat} {s : State} (h : s.Sound) : (State.runLoad n s).Sound := by
  induction n generalizing s with
  | zero => exact h
  | succ n ih =>
    unfold State.runLoad
    split
    · split
      · split
        · exact State.Sound.stopCarriers h
        · exact h
      · exact h
    · exact ih (State.Sound.stepLoad h (by assumption))

theorem State.Sound.continueLoad {s : State} (h : s.Sound) : (State.continueLoad s).Sound := by
  unfold Sys2Proof.Machine.State.continueLoad
  repeat' first
    | with_reducible assumption | with_reducible apply State.Sound.runLoad | with_reducible apply State.Sound.ite
    | with_reducible intro _

theorem State.Sound.execProfileLoad {src : CmdSrc} {p : BitVec 8} {s : State} {out : State} (h : s.Sound) (ht : execProfileLoad src p s = .next out) : out.Sound := by
  cases ht
  repeat' first
    | with_reducible assumption | with_reducible apply State.Sound.deliver | with_reducible apply State.Sound.beginLoad
    | with_reducible apply State.Sound.continueLoad | with_reducible apply State.Sound.ite | with_reducible intro _
    | with_reducible apply State.SoundRec.upd | simp only [State.sound_mk]

theorem State.Sound.trySlot {s : State} {k : Fin 2} (h : s.Sound) : (State.trySlot s k).1.Sound := by
  unfold Sys2Proof.Machine.State.trySlot
  repeat' first
    | with_reducible assumption | with_reducible apply State.Sound.setBit | with_reducible apply State.Sound.logFault
    | with_reducible apply State.Sound.ite | with_reducible intro _

theorem State.Sound.chooseSlot {s : State} (h : s.Sound) : (State.chooseSlot s).1.Sound := by
  unfold Sys2Proof.Machine.State.chooseSlot
  repeat' first
    | with_reducible assumption | with_reducible apply State.Sound.trySlot | simp only [] | split

theorem State.Sound.idleSpares {s : State} (h : s.Sound) : (State.idleSpares s).Sound := by
  unfold Sys2Proof.Machine.State.idleSpares
  repeat' first
    | with_reducible assumption | with_reducible apply State.Sound.forAll | with_reducible apply State.Sound.setEng
    | with_reducible apply State.Sound.enterIdleSpare | with_reducible apply State.Sound.eng | with_reducible intro _
    | with_reducible apply Engine.SoundRec.upd | simp only [Engine.sound_mk]

theorem State.Sound.execBootComplete {s : State} {out : State} (h : s.Sound) (ht : execBootComplete s = .next out) : out.Sound := by
  cases ht
  repeat' first
    | with_reducible assumption | with_reducible apply State.Sound.refreshVauxOk | with_reducible apply State.Sound.setBit
    | with_reducible apply State.Sound.forAll | with_reducible apply State.Sound.refreshBrake
    | with_reducible apply State.Sound.refreshAxis | with_reducible apply State.Sound.setWord
    | with_reducible apply State.Sound.idleSpares | with_reducible apply State.Sound.beginLoad
    | with_reducible apply State.Sound.continueLoad | with_reducible apply State.Sound.chooseSlot
    | with_reducible apply State.Sound.ite | with_reducible intro _ | with_reducible apply State.SoundRec.upd
    | simp only [State.sound_mk] | split

end Sys2Proof.Machine
end

