-- ==== Sys2Proof/Laws/Sound/Admission.lean ====
section
/-! SUPPORT. Soundness is kept by every operation and every meaning of Machine/Admission.lean. -/

namespace Sys2Proof.Machine

theorem State.Sound.refuse {s : State} {src : CmdSrc} {check param : Nat} (h : s.Sound) : (State.refuse s src check param).Sound := by
  unfold Sys2Proof.Machine.State.refuse
  repeat' first
    | with_reducible assumption | with_reducible apply State.Sound.complete

theorem State.Sound.accept {s : State} {src : CmdSrc} {c : HostCmd} {e : Nat} (h : s.Sound) : (State.accept s src c e).Sound := by
  unfold Sys2Proof.Machine.State.accept
  repeat' first
    | with_reducible assumption | with_reducible apply State.Sound.complete | with_reducible apply State.Sound.setFn
    | with_reducible apply State.Sound.refreshResv | with_reducible apply State.SoundRec.upd | simp only [State.sound_mk]

theorem State.Sound.judge {s : State} {fn : FnId} {ring : Fin 4} {d buf : List Byte} (h : s.Sound) : (State.judge s fn ring d buf).Sound := by
  unfold Sys2Proof.Machine.State.judge
  repeat' first
    | with_reducible assumption | with_reducible apply State.Sound.setWord | with_reducible apply State.Sound.refuse
    | with_reducible apply State.Sound.accept | simp only [] | split

theorem State.Sound.execDescriptorFetch {fn : FnId} {ring : Fin 4} {desc buf : List Byte} {err : Bool} {s out : State} (h : s.Sound)
    (ht : execDescriptorFetch fn ring desc buf err s = .next out) : out.Sound := by
  unfold Sys2Proof.Machine.execDescriptorFetch at ht
  split at ht
  · contradiction
  · rw [← Host.Outcome.next.inj ht]
    repeat' first
      | with_reducible assumption | with_reducible apply State.Sound.setFn | with_reducible apply State.Sound.haltRing
      | with_reducible apply State.Sound.advanceRing | with_reducible apply State.Sound.judge
      | with_reducible apply State.Sound.ite | with_reducible intro _ | with_reducible apply State.SoundRec.upd
      | simp only [State.sound_mk]

end Sys2Proof.Machine
end

