-- ==== Sys2Proof/Laws/Sound/Tick.lean ====
section
/-! SUPPORT. Soundness is kept by every operation and every meaning of Machine/Tick.lean. -/

namespace Sys2Proof.Machine

theorem State.Sound.tickDt {s : State} (h : s.Sound) : (State.tickDt s).Sound := by
  unfold Sys2Proof.Machine.State.tickDt
  repeat' first
    | with_reducible assumption | with_reducible apply State.Sound.refreshGates | with_reducible apply State.SoundRec.upd
    | simp only [State.sound_mk] | split

theorem State.Sound.tickOffsets {s : State} (h : s.Sound) : (State.tickOffsets s).Sound := by
  unfold Sys2Proof.Machine.State.tickOffsets
  repeat' first
    | with_reducible assumption | with_reducible apply State.Sound.forAll | with_reducible apply State.Sound.foldOffset
    | with_reducible apply State.Sound.ite | with_reducible intro _

theorem State.Sound.tickPlugs {s : State} (h : s.Sound) : (State.tickPlugs s).Sound := by
  unfold Sys2Proof.Machine.State.tickPlugs
  repeat' first
    | with_reducible assumption | with_reducible apply State.Sound.forAll | with_reducible apply State.Sound.refreshPlug
    | with_reducible apply State.Sound.ite | with_reducible intro _

theorem State.Sound.tickMeas {s : State} (h : s.Sound) : (State.tickMeas s).Sound := by
  unfold Sys2Proof.Machine.State.tickMeas
  repeat' first
    | with_reducible assumption | with_reducible apply State.Sound.forAll | with_reducible apply State.Sound.setFld
    | with_reducible apply State.Sound.ite | with_reducible intro _

theorem State.Sound.tickEgress {s : State} (h : s.Sound) : (State.tickEgress s).Sound := by
  unfold Sys2Proof.Machine.State.tickEgress
  repeat' first
    | with_reducible assumption | with_reducible apply State.Sound.egressRun

theorem State.Sound.oneTick {s : State} (h : s.Sound) : (State.oneTick s).Sound := by
  unfold Sys2Proof.Machine.State.oneTick
  repeat' first
    | with_reducible assumption | with_reducible apply State.Sound.tickDt | with_reducible apply State.Sound.tickMeas
    | with_reducible apply State.Sound.tickOffsets | with_reducible apply State.Sound.tickPlugs
    | with_reducible apply State.Sound.retryStarts | with_reducible apply State.Sound.continueLoad
    | with_reducible apply State.Sound.hostTurn | with_reducible apply State.Sound.resumeApply
    | with_reducible apply State.Sound.tickEgress

end Sys2Proof.Machine
end

