-- ==== Sys2Proof/WellFormed.lean ====
section
/-! DEFINITION. Which commands are well formed: operands that the spec gives a command, beyond what their types say. -/

namespace Sys2Proof

/-- An Ethernet frame on the wire: payload of at most 1,500 bytes, and of at least 46 (42 with a tag), as IEEE 802.3 has it. -/
def frameOk (f : EthFrame) : Bool :=
  decide ((if f.tagged then 42 else 46) ≤ f.payload.length) && decide (f.payload.length ≤ 1500)

/-- A CAN frame: identifier in its format's range, remote frames and the FD bits as R358 has them, 64 bytes at most. -/
def canFrameOk (f : CanFrame) : Bool :=
  decide (f.id.toNat < (if f.xtd then 2 ^ 29 else 2 ^ 11)) && !(f.rtr && f.fdf) && !(f.brs && !f.fdf) &&
    decide (f.data.length ≤ 64)

/-- The operands of a command are such that the outside world, an engine or the admission of a descriptor can send it. -/
def Instr.wellFormed (i : Instr) : Bool :=
  match i with
  | .nop _ => true
  | .br _ cond _ => decide (cond.val < 15)
  | .jal _ _ _ => true
  | .jr _ _ => true
  | .bdec _ _ _ => true
  | .rpt _ _ => true
  | .rete _ => true
  | .wait _ => true
  | .mfsw _ _ => true
  | .mtsw _ _ => true
  | .satm _ _ => true
  | .mfs _ _ sr => decide (sr.toNat < 18)
  | .mts _ sr _ => decide (sr.toNat < 18)
  | .add _ _ _ _ => true
  | .sub _ _ _ _ => true
  | .min _ _ _ _ => true
  | .max _ _ _ _ => true
  | .and _ _ _ _ => true
  | .or _ _ _ _ => true
  | .xor _ _ _ _ => true
  | .andn _ _ _ _ => true
  | .mov _ _ _ => true
  | .neg _ _ _ => true
  | .abs _ _ _ => true
  | .not _ _ _ => true
  | .addi _ _ _ _ => true
  | .lih _ _ _ => true
  | .shl _ _ _ _ => true
  | .asr _ _ _ _ => true
  | .lsr _ _ _ _ => true
  | .cmp _ _ _ => true
  | .cmpi _ _ _ => true
  | .norm _ d _ => d.val % 2 == 0
  | .norma _ _ _ => true
  | .mpy _ _ _ _ => true
  | .mac _ _ _ _ => true
  | .msu _ _ _ _ => true
  | .mpya _ _ _ _ => true
  | .macm _ _ _ _ _ => true
  | .msum _ _ _ _ pair => !pair
  | .adda _ _ _ _ => true
  | .suba _ _ _ _ => true
  | .mova _ _ _ => true
  | .ldah _ _ _ => true
  | .clra _ _ => true
  | .nega _ _ _ => true
  | .absa _ _ _ => true
  | .sha _ _ _ _ => true
  | .exth _ _ _ _ => true
  | .cmpa _ _ _ => true
  | .movph _ _ _ => true
  | .movhp _ _ _ => true
  | .padd _ _ _ _ _ => true
  | .pli _ _ _ => true
  | .cmpp _ _ _ => true
  | .fadd _ _ _ _ => true
  | .fsub _ _ _ _ => true
  | .fmul _ _ _ _ => true
  | .fmac _ _ _ _ => true
  | .fmsu _ _ _ _ => true
  | .fmov _ _ _ => true
  | .fneg _ _ _ => true
  | .fabs _ _ _ => true
  | .fmin _ _ _ _ => true
  | .fmax _ _ _ _ => true
  | .fscl _ _ _ _ => true
  | .frcp _ _ _ => true
  | .frsq _ _ _ => true
  | .exp _ _ _ => true
  | .cvt _ d a form => decide (form.toNat < 8) && !(form == 2 && decide (4 ≤ a.val)) && !(form == 3 && decide (4 ≤ d.val))
  | .fcmp _ _ _ => true
  | .fli _ _ _ => true
  | .ldh _ _ _ => true
  | .ldp _ _ _ => true
  | .ldf _ _ _ => true
  | .lda _ _ _ => true
  | .sth _ _ _ => true
  | .stp _ _ _ => true
  | .stf _ _ _ => true
  | .sta _ _ _ => true
  | .resultLanding _ => true
  | .longAccessGrant _ _ => true
  | .stepLimit _ => true
  | .eventRaise _ _ _ => true
  | .handlerEntry _ _ => true
  | .paceMeasure _ _ => true
  | .frameBoundary _ => true
  | .sampleTrigger _ => true
  | .sampleComplete _ _ => true
  | .releaseInstant _ => true
  | .failoverWindowEnd _ => true
  | .engineFailDeclared _ => true
  | .takeoverStart _ => true
  | .engineSelftestDone _ _ => true
  | .zeroingDone _ => true
  | .imageCopyDone _ _ => true
  | .allocApply _ => true
  | .carrierStartRequest _ _ _ => true
  | .carrierStart _ => true
  | .carrierStopRequest _ _ _ => true
  | .carrierStop _ => true
  | .fbWriteStopped _ => true
  | .hallChange _ _ _ => true
  | .quadTransition _ _ _ _ _ => true
  | .indexEvent _ => true
  | .sincosPair _ _ _ => true
  | .ssiTransferStart _ => true
  | .ssiTransferEnd _ _ _ => true
  | .fltCut _ _ => true
  | .cbcTrip _ _ => true
  | .desat _ _ _ => true
  | .hoc _ _ => true
  | .vgdUv _ _ => true
  | .vmL1 _ _ => true
  | .vmL2 _ _ => true
  | .vmLow _ _ => true
  | .brakeTimeout _ => true
  | .switchNodeCrossing _ _ _ _ => true
  | .deadTimeTimeout _ _ => true
  | .slopeTimeout _ _ => true
  | .stepTimerExpiry _ => true
  | .dioInputEdge _ => true
  | .latchRecord _ _ => true
  | .poOutputCount _ => true
  | .shaftPublish => true
  | .shaftSampleRx payload => payload.length == 32
  | .shaftSampleMiss _ => true
  | .motorLoss _ _ => true
  | .plugRetryExpiry _ => true
  | .identificationDone _ _ _ _ => true
  | .descriptorFetch _ _ desc _ _ => desc.length == 64
  | .axisEnable _ _ _ => true
  | .axisHold _ _ => true
  | .wcClear _ _ => true
  | .setCoef _ _ _ _ => true
  | .posPreload _ _ pos => decide (-(2 ^ 47 : Int) ≤ pos) && decide (pos < 2 ^ 47)
  | .groupStop _ _ _ => true
  | .moveAbs _ _ t _ _ _ _ => decide (-(2 ^ 47 : Int) ≤ t) && decide (t < 2 ^ 47)
  | .moveVel _ _ _ _ _ => true
  | .moveLim _ _ _ _ _ _ => true
  | .gear _ _ _ _ _ _ _ _ => true
  | .cam _ _ _ _ _ _ _ _ _ => true
  | .home _ _ _ _ _ homePos _ _ => decide (-(2 ^ 47 : Int) ≤ homePos) && decide (homePos < 2 ^ 47)
  | .stepCfg _ _ _ _ _ _ _ _ => true
  | .latchArm _ _ _ _ _ _ _ => true
  | .snapshot _ => true
  | .dioSet _ _ _ => true
  | .poSet _ _ _ _ => true
  | .canTx _ _ fmt dlc _ data => decide (fmt.toNat < 16) && decide (dlc.toNat < 16) && decide (data.length ≤ 64)
  | .canMode _ _ _ => true
  | .canRecover _ _ => true
  | .netTx _ _ frame => decide (60 ≤ frame.length) && decide (frame.length ≤ 1518)
  | .timeAccept _ => true
  | .engLoad _ _ _ => true
  | .engStart _ _ => true
  | .monCfg _ _ _ _ _ _ _ _ _ _ => true
  | .monBaseline _ _ => true
  | .profileLoad _ _ => true
  | .safeConfirm _ _ => true
  | .doorbell _ _ _ => true
  | .ringEnable _ _ _ _ => true
  | .ringDisable _ _ _ => true
  | .completionWrite _ _ => true
  | .eventRecordWrite _ _ => true
  | .msixMessage _ _ => true
  | .functionReset _ _ _ => true
  | .functionLevelReset _ => true
  | .vfEnableClear => true
  | .functionResetEnd _ => true
  | .ownApply _ => true
  | .ownershipZeroingDone _ => true
  | .posLoRead _ _ => true
  | .zposLoRead _ _ => true
  | .dtLoRead _ => true
  | .posldArm _ _ _ => true
  | .poEnable _ _ _ => true
  | .dtSet _ _ => true
  | .syncSample _ _ _ _ => true
  | .domainLost _ => true
  | .timeBoundUpdate => true
  | .tpoPulse => true
  | .link _ _ _ => true
  | .frameRx _ f _ => frameOk f
  | .gclCommit _ _ _ => true
  | .gclChange _ => true
  | .launchTime _ => true
  | .frameTxDone _ _ => true
  | .canFrameRx _ f _ => canFrameOk f
  | .canRxWrite _ => true
  | .canTxDone _ _ _ => true
  | .canArbitrationLost _ _ => true
  | .canBusError _ _ _ _ _ => true
  | .canModeReached _ => true
  | .canRecoveryDone _ => true
  | .dioChannelTsd _ => true
  | .dioCurrentUpdate _ _ => true
  | .dioOpenLoad _ _ => true
  | .dioWireBreak _ _ => true
  | .dioLinkRefresh => true
  | .dioLinkTimeout => true
  | .dioCmdTimeout _ => true
  | .dioUv _ => true
  | .dioCfgWrite _ _ _ => true
  | .dioTotalClear _ => true
  | .safetyCycle fault => match fault with | some f => f.2 != 0 | none => true
  | .safeInputChange _ _ _ => true
  | .testPulse _ _ => true
  | .pairDiscrepancy _ => true
  | .safetyWatchdogExpiry => true
  | .ss1Timeout _ => true
  | .safetyStore _ => true
  | .safetyStoreDone _ => true
  | .shmemWindowWrite _ addr data => decide (0x300000 ≤ addr.toNat) && decide (addr.toNat + data.length ≤ 0x400000)
  | .powerOnReset _ _ _ _ => true
  | .resetNReset _ => true
  | .pwrRstKey _ _ => true
  | .hkWatchdogReset => true
  | .powerFailRestart _ _ => true
  | .endpointReset => true
  | .bootComplete => true
  | .powerFail _ _ _ => true
  | .plinthCommitDone => true
  | .vauxHandover _ => true
  | .vauxReturn _ => true
  | .vbakTest _ => true
  | .profileRewriteDone => true
  | .flogCopy => true
  | .nvmBegin _ _ => true
  | .nvmWrite _ _ => true
  | .nvmFinish _ _ => true
  | .lockver _ _ => true
  | .nvmOpDone _ _ => true
  | .pwrLostDiscard _ => true
  | .thermalEvaluation readings => readings.length == 8
  | .deratingDwell => true
  | .fanEnable _ _ _ => true
  | .fanTachPulse _ _ => true
  | .fanTachSilent _ _ => true
  | .fanKickExpiry _ _ => true
  | .fanRetry _ => true
  | .fanOpen _ _ => true
  | .registerWrite _ addr _ => addr.toNat % 4 == 0
  | .pwmEdge _ _ _ _ => true
  | .gateStateChange _ => true
  | .addressAgeing _ => true
  | .syncInterval _ => true
  | .confirmRecordWritten => true
  | .powerOnResetAssert => true
  | .warmResetEnd _ => true
  | .dioComparatorTransition _ _ => true
  | .fanCurrentRestored _ _ => true
  | .vbakRecharge _ => true
  | .vfEnableSet num => num != 0

end Sys2Proof
end

