-- ==== Sys2Proof/Tests/Slice0.lean ====
section
/-! SUPPORT. The author's own tests: an ill-formed term for every check of `wellFormed`, small runs whose expected results are the
spec's, and for the statements about the model a concrete state that meets their hypotheses. -/

namespace Sys2Proof.Tests

set_option Elab.async false

open Sys2Proof Sys2Proof.Machine

/-! ## Ill-formed commands -/

def src0 : CmdSrc := ⟨0, 0, 1⟩
def frame0 : EthFrame := ⟨0x020000000001, 0x040000000002, false, 0, 0, 0x0800, List.replicate 46 0, true⟩
def can0 : CanFrame := ⟨0x123, false, false, false, false, false, 0, []⟩

/-- The condition code 15, the special registers above 17, the reserved forms of CVT, an odd pair of NORM and PAIR on MSUM are refused. -/
theorem test_wf_words : (Instr.br 0 14 0).wellFormed = true ∧ (Instr.br 0 15 0).wellFormed = false ∧
    (Instr.mfs 0 0 17).wellFormed = true ∧ (Instr.mfs 0 0 18).wellFormed = false ∧ (Instr.mts 0 18 0).wellFormed = false ∧
    (Instr.cvt 0 0 0 7).wellFormed = true ∧ (Instr.cvt 0 0 0 8).wellFormed = false ∧ (Instr.cvt 0 0 4 2).wellFormed = false ∧
    (Instr.cvt 0 4 0 3).wellFormed = false ∧ (Instr.norm 0 14 0).wellFormed = true ∧ (Instr.norm 0 15 0).wellFormed = false ∧
    (Instr.msum 0 1 2 3 false).wellFormed = true ∧ (Instr.msum 0 1 2 3 true).wellFormed = false := by
  decide
/-- Positions of 48 bits. -/
theorem test_wf_positions : (Instr.posPreload src0 0 (2 ^ 47 - 1)).wellFormed = true ∧ (Instr.posPreload src0 0 (2 ^ 47)).wellFormed = false ∧
    (Instr.moveAbs src0 0 (-2 ^ 47 - 1) 0 0 0 0).wellFormed = false ∧ (Instr.home src0 0 false 0 0 (2 ^ 47) 0 0).wellFormed = false := by
  decide
/-- Frames, payloads and descriptors of the wrong size. -/
theorem test_wf_sizes : (Instr.shaftSampleRx []).wellFormed = false ∧ (Instr.descriptorFetch 0 0 [] [] false).wellFormed = false ∧
    (Instr.netTx src0 0 (List.replicate 59 0)).wellFormed = false ∧ (Instr.netTx src0 0 (List.replicate 60 0)).wellFormed = true ∧
    (Instr.frameRx 0 { frame0 with payload := List.replicate 45 0 } false).wellFormed = false ∧ (Instr.frameRx 0 frame0 false).wellFormed = true ∧
    (Instr.thermalEvaluation (List.replicate 7 0)).wellFormed = false := by decide
/-- CAN frames: an 11-bit identifier, no remote frame of FD format, no bit-rate switch without FD, 64 bytes. -/
theorem test_wf_can : (Instr.canFrameRx 0 { can0 with id := 0x7FF } 0).wellFormed = true ∧
    (Instr.canFrameRx 0 { can0 with id := 0x800 } 0).wellFormed = false ∧
    (Instr.canFrameRx 0 { can0 with rtr := true, fdf := true } 0).wellFormed = false ∧
    (Instr.canFrameRx 0 { can0 with brs := true } 0).wellFormed = false ∧
    (Instr.canFrameRx 0 { can0 with data := List.replicate 65 0 } 0).wellFormed = false ∧
    (Instr.canTx src0 0 16 0 0 []).wellFormed = false ∧ (Instr.canTx src0 0 0 16 0 []).wellFormed = false ∧
    (Instr.canTx src0 0 0 0 0 (List.replicate 65 0)).wellFormed = false := by decide
/-- Positions, addresses and counts. -/
theorem test_wf_codes : (Instr.safetyCycle (some (0, 0))).wellFormed = false ∧
    (Instr.safetyCycle (some (0, 1))).wellFormed = true ∧ (Instr.shmemWindowWrite 0 0x2FFFFF [0]).wellFormed = false ∧
    (Instr.shmemWindowWrite 0 0x3FFFFF [0]).wellFormed = true ∧ (Instr.shmemWindowWrite 0 0x3FFFFF [0, 0]).wellFormed = false ∧
    (Instr.registerWrite 0 2 0).wellFormed = false ∧ (Instr.vfEnableSet 0).wellFormed = false := by decide

/-! ## States to start from -/

/-- `State.Sound` as a function. -/
def soundB (s : State) : Bool :=
  Sparse.wf Reg.resetAt s.regs && Sparse.wf Reg.resetAt s.force && Mem.wf s.shmem && s.engines.toList.all Engine.sound &&
    s.axes.toList.all Axis.sound && s.pwr.slots.toList.all fun k => Mem.wf k.img

theorem sound_of {s : State} (h : soundB s = true) : s.Sound := by
  simp only [soundB, Bool.and_eq_true, List.all_eq_true, Vector.mem_toList_iff] at h
  obtain ⟨⟨⟨⟨⟨h1, h2⟩, h3⟩, h4⟩, h5⟩, h6⟩ := h
  exact ⟨h1, h2, h3, fun e => h4 _ (Vector.getElem_mem _), fun n => h5 _ (Vector.getElem_mem _), fun k => h6 _ (Vector.getElem_mem _)⟩

/-- `State.Ready` as a function. -/
def readyB (s : State) (e : EngId) (n : Nat := 1) : Bool :=
  let x := s.eng e
  s.engRuns e && decide (x.runFrom ≤ s.tick) && x.long.isNone && !s.switching e && x.held == 0 && !x.badI.contains x.pc.toNat && x.flights.all (fun f => decide (x.step + n ≤ f.due)) &&
    match x.handler with
    | some k => decide (x.used + n < x.declared_ k)
    | none => true

theorem ready_of {s : State} {e : EngId} {n : Nat} (h : readyB s e n = true) : s.Ready e n := by
  simp only [readyB, Bool.and_eq_true, Option.isNone_iff_eq_none, Bool.not_eq_true', List.all_eq_true, decide_eq_true_eq, beq_iff_eq] at h
  obtain ⟨⟨⟨⟨⟨⟨⟨h1, h2⟩, h3⟩, h4⟩, h5⟩, h6⟩, h7⟩, h8⟩ := h
  exact ⟨h1, h2, h3, h4, h5, h6, fun k hk => by simpa [hk] using h8, h7⟩

theorem due_of {s : State} {a : Accepted} (h : s.accepted = [a]) (hd : a.d ≤ s.now) : s.Due a :=
  ⟨hd, [], [], h, fun _ hb => by simp at hb⟩

theorem open_of {s : State} (h : (s.legsHeld, s.bit Fld.GLB_STAT_READY, s.bit Fld.GLB_STAT_LOADING) = (false, true, false)) : s.Open := by
  simp only [Prod.mk.injEq] at h
  exact ⟨h.1, h.2.1, h.2.2⟩

/-- A device that has booted. -/
def up : State := ({ State.reset with pwr := { Power.reset with phase := .ready } }).setBit Fld.GLB_STAT_READY 0 true
theorem up_sound : up.Sound := sound_of (by decide +kernel)
theorem up_open : up.Open := open_of (by decide +kernel)

/-- A state at a tick, with DT in step; one with a command that is due. -/
def ticked (t : Nat) (s : State) : State := { s with tick := t, dt := BitVec.ofNat 64 (4 * t) }
def owing (c : HostCmd) (s : State := up) : State := { s with accepted := [⟨src0, c, s.now⟩] }
def acc (c : HostCmd) (s : State := up) : Accepted := ⟨src0, c, s.now⟩
theorem due_owing (c : HostCmd) (s : State) : (owing c s).Due (acc c s) := due_of rfl (Nat.le_refl _)
theorem ticked_sound {t : Nat} {s : State} (h : s.Sound) : (ticked t s).Sound := ⟨h.1, h.2, h.3, h.4, h.5, h.6⟩
theorem owing_sound {c : HostCmd} {s : State} (h : s.Sound) : (owing c s).Sound := ⟨h.1, h.2, h.3, h.4, h.5, h.6⟩

/-- An image header whose handlers have 10 steps each, and an image. -/
def hdr0 : ImageHdr := ⟨false, false, 16, 0, 0, 4, 5, 6, 7, 2, 10, 10, 10, 10, 0⟩
def img0 : List Byte := List.replicate 64 0

/-- A running engine, an axis in a state, a bank and a function, each changed by `f`. -/
def engine (e : EngId) (f : Engine → Engine) (s : State := up) : State :=
  let s := s.setEngState e .running
  s.setEng e (f (s.eng e))
def axis (n : AxId) (st : AxState) (f : Axis → Axis := id) (s : State := up) : State :=
  let s := s.setFld Fld.AX_STATE_STATE n.val st.code
  s.setAx n (f (s.ax n))
def bank (b : BankId) (f : Bank → Bank) (s : State := up) : State := s.setBnk b (f (s.bnk b))
def func (g : FnId) (f : Func → Func) (s : State := up) : State := s.setFn g (f (s.fn g))
theorem engine_sound {e : EngId} {f : Engine → Engine} {s : State} (h : s.Sound)
    (hf : ∀ x, x.sound = true → (f x).sound = true := by exact fun _ h => h) : (engine e f s).Sound :=
  State.Sound.setEng h.setFld fun hs => hf _ (hs.eng e)
theorem axis_sound {n : AxId} {st : AxState} {f : Axis → Axis} {s : State} (h : s.Sound)
    (hf : ∀ x, x.sound = true → (f x).sound = true := by exact fun _ h => h) : (axis n st f s).Sound :=
  State.Sound.setAx h.setFld fun hs => hf _ (hs.ax n)
theorem bank_sound {b : BankId} {f : Bank → Bank} {s : State} (h : s.Sound) : (bank b f s).Sound := ⟨h.1, h.2, h.3, h.4, h.5, h.6⟩
theorem func_sound {g : FnId} {f : Func → Func} {s : State} (h : s.Sound) : (func g f s).Sound := ⟨h.1, h.2, h.3, h.4, h.5, h.6⟩

/-- What a function reads of the next state that a command answers, if it answers one. -/
def seen {α : Type} (c : Instr) (s : State) (f : State → α) : Option α :=
  match exec c s with
  | .next t => some (f t)
  | _ => none

/-! ## Engine statements -/

/-- The word that an engine issues: a running engine with a result in flight that lands at `due`; one in its sample handler after `used`
of its 10 steps. -/
def run (e : EngId) (due : Nat := 2) : State :=
  engine e fun x => { x with flights := [⟨due, false, .h 0 0x8000, none, 0⟩], image := some hdr0 }
def quiet (e : EngId) : State := engine e fun x => { x with image := some hdr0 }
def hand (e : EngId) (used : Nat) (pend : List EvKind := []) : State :=
  engine e fun x => { x with image := some hdr0, handler := some .sample, used := used, pend := pend }

theorem run_sound {e : EngId} {due : Nat} : (run e due).Sound := engine_sound up_sound
theorem quiet_sound {e : EngId} : (quiet e).Sound := engine_sound up_sound
theorem hand_sound {e : EngId} {used : Nat} {pend : List EvKind} : (hand e used pend).Sound := engine_sound up_sound

/-- Premises of QLaneArithmetic, AccumulatorInstructions and FloatInstructions: in background code just before a result lands, and in the
last step that the limiter leaves a handler. -/
theorem witness_QLaneArithmetic : (run 63 1).Ready 63 ∧ (hand 0 8).Ready 0 ∧ readyB (run 63 0) 63 = false ∧ readyB (hand 0 9) 0 = false :=
  ⟨ready_of (by decide +kernel), ready_of (by decide +kernel), by decide +kernel, by decide +kernel⟩
/-- Both parts have that premise; the shift amounts 0, 15, 16 and 31 are the ends of the two forms. -/
theorem witness_QLaneLogicAndShifts : (run 1).Ready 1 ∧
    ((run 1).eng 1).cur.h.size = 16 ∧ (ShiftAmt.imm 0 ≠ .imm 15) ∧ (31 : BitVec 16).toNat % 32 = 31 ∧ (32 : BitVec 16).toNat % 32 = 0 :=
  ⟨ready_of (by decide +kernel), by decide, by decide, by decide, by decide⟩
/-- NORM with the register pairs 14 and 15. -/
theorem witness_ComparesAndNormalise : (run 62).Ready 62 ∧ (14 : HReg).val % 2 = 0 ∧ (15 : HReg).val % 2 = 1 :=
  ⟨ready_of (by decide +kernel), by decide, by decide⟩
/-- Special registers 0, 7, 8, 15, 16, 17, 18 and 31. -/
theorem witness_MovesPointersStatus : (run 2).Ready 2 ∧ (0 : BitVec 5).toNat < 8 ∧ (7 : BitVec 5).toNat < 8 ∧
    (8 ≤ (8 : BitVec 5).toNat ∧ (8 : BitVec 5).toNat < 16) ∧ (8 ≤ (15 : BitVec 5).toNat ∧ (15 : BitVec 5).toNat < 16) ∧
    (16 : BitVec 5).toNat = 16 ∧ (17 : BitVec 5).toNat = 17 ∧ 17 < (18 : BitVec 5).toNat ∧ 17 < (31 : BitVec 5).toNat :=
  ⟨ready_of (by decide +kernel), by decide⟩
theorem witness_AccumulatorInstructions : (run 3).Ready 3 := ready_of (by decide +kernel)
/-- The forms of CVT at their ends, and words that are NaNs. -/
theorem witness_FloatInstructions : (run 4).Ready 4 ∧ ((2 : BitVec 4) = 2 ∧ (3 : Fin 16).val < 4) ∧ (3 : BitVec 4) = 3 ∧
    (8 ≤ (8 : BitVec 4).toNat) ∧ ((2 : BitVec 4) = 2 ∧ 4 ≤ (4 : Fin 16).val) ∧ fNaN 0x7F800001 = true ∧ fNaN 0xFFFFFFFF = true ∧
    (0x7F7FFFFF : BitVec 32).extractLsb' 23 8 ≠ 255 ∧ (fAdd true 0x7F7FFFFF 0x7F7FFFFF).2 = Sticky.fv :=
  ⟨ready_of (by decide +kernel), by decide, by decide, by decide, by decide, by decide, by decide, by decide, by decide +kernel⟩
/-- Finite words, and a sum that raises no flag. -/
theorem witness_FloatRoundsToNearest : (0x7F7FFFFF : BitVec 32).extractLsb' 23 8 ≠ 255 ∧ (0x80000000 : BitVec 32).extractLsb' 23 8 ≠ 255 ∧
    (fAdd false 0x3F800000 0x33800000).2 = Sticky.none ∧ (fMac true 0x3F800000 0x3F800001 0xBF800000).2 = Sticky.none := by
  decide +kernel

/-- Two steps ahead; a repeat with 1, and with more executions left; one result in flight that WAIT waits for; a handler with and without an
event that waits. -/
def rptd (e : EngId) (left : Nat) : State := engine e fun x => { x with image := some hdr0, rpt := some ⟨left, 1⟩ }
theorem witness_ControlInstructions : ((run 0).Ready 0 2 ∧ ((run 0).eng 0).rpt = none) ∧ ((rptd 0 1).Ready 0 ∧ (rptd 0 2).Ready 0) ∧
    ((quiet 0).Ready 0 ∧ ((quiet 0).eng 0).flights = []) ∧
    ((run 0 3).Ready 0 (3 - 0) ∧ ((run 0 3).eng 0).flights = [⟨3, false, .h 0 0x8000, none, 0⟩] ∧ ((run 0 3).eng 0).step < 3) ∧
    ((hand 0 7).Sound ∧ (hand 0 7).Ready 0 ∧ ((hand 0 7).eng 0).handler = some .sample ∧ ((hand 0 7).eng 0).pend = []) ∧
    ((hand 0 7 [.sample]).Ready 0 ∧ ((hand 0 7 [.sample]).eng 0).pend = [.sample]) ∧ (quiet 0).Sound :=
  ⟨⟨ready_of (by decide +kernel), by decide +kernel⟩, ⟨ready_of (by decide +kernel), ready_of (by decide +kernel)⟩,
   ⟨ready_of (by decide +kernel), by decide +kernel⟩, ⟨ready_of (by decide +kernel), by decide +kernel, by decide +kernel⟩,
   ⟨hand_sound, ready_of (by decide +kernel), by decide +kernel, by decide +kernel⟩,
   ⟨ready_of (by decide +kernel), by decide +kernel⟩, quiet_sound⟩

/-- Pointers at the ends of the ranges: the last word of local data memory, an address past it, an odd one, and one in the window. -/
def ptr (v : BitVec 16) : State := engine 0 fun x => { x with image := some hdr0, bank0 := { EngBank.zero with p := Vector.replicate 8 v } }
theorem ptr_sound {v : BitVec 16} : (ptr v).Sound := engine_sound up_sound
def ea (s : State) (m : MemArg) : Nat := (effAddr m (s.eng 0).cur.p[m.ptr] (s.eng 0).cb[m.ptr] (s.eng 0).cl[m.ptr]).1.toNat
theorem witness_LocalLoadsAndStores : (ptr 0x1FFE).Sound ∧ (ptr 0x1FFE).Ready 0 ∧ ea (ptr 0x1FFE) ⟨0, false, 0⟩ = 0x1FFE ∧
    ea (ptr 0x1FFE) ⟨7, true, 2⟩ = 0x1FFE ∧ ∀ i < 2, ((ptr 0x1FFE).eng 0).badD.contains (0x1FFE + i) = false :=
  ⟨ptr_sound, ready_of (by decide +kernel), by decide +kernel, by decide +kernel, by decide +kernel⟩
def waiting (k : LongKind) (s : State := up) : State := engine 0 (fun x => { x with long := some ⟨.shared 0x1FFFFE, 2, k, some (1, 0x8000), 0⟩ }) s
/-- ME1 waits too: ME0 goes first. -/
def both : State := waiting (.ldh 0) (engine 1 fun x => { x with long := some ⟨.shared 0, 2, .ldh 0, none, 0⟩ })
theorem witness_AccessFaultsAndLongAccesses : ((ptr 0x2000).Sound ∧ (ptr 0x1FFF).Ready 0 ∧ ea (ptr 0x1FFF) ⟨0, false, 0⟩ = 0x1FFF) ∧
    ((ptr 0x3100).Ready 0 ∧ ea (ptr 0x3100) ⟨0, false, 0⟩ = 0x3100) ∧ ((ptr 0x0001).Ready 0 ∧ ea (ptr 0x0001) ⟨0, false, 0⟩ % 2 = 1) ∧
    ((ptr 0x8000).Ready 0 ∧ ea (ptr 0x8000) ⟨0, false, 0⟩ = 0x8000 ∧ ((ptr 0x8000).eng 0).rpt = none) ∧
    ((waiting (.ldh 0)).engRuns 0 = true ∧ ((waiting (.ldh 0)).eng 0).flights = [] ∧ ((waiting (.ldh 0)).eng 0).handler = none ∧
      (waiting (.ldh 0)).switching 0 = false ∧ (waiting (.ldh 0)).arbTurn 0 = true ∧ (waiting (.ldh 0)).hostWin = [] ∧ 0 + 37 + 3 ≤ 40) ∧
    ((waiting (.store 7)).engRuns 0 = true ∧ (waiting (.store 7)).arbTurn 0 = true ∧ 0 + 34 + 2 ≤ 36) ∧
    (both.arbTurn 0 = true ∧ both.engRuns 1 = true ∧ both.arbTurn 1 = false) :=
  ⟨⟨ptr_sound, ready_of (by decide +kernel), by decide +kernel⟩, ⟨ready_of (by decide +kernel), by decide +kernel⟩,
   ⟨ready_of (by decide +kernel), by decide +kernel⟩, ⟨ready_of (by decide +kernel), by decide +kernel, by decide +kernel⟩,
   by decide +kernel, by decide +kernel, by decide +kernel⟩
/-- Both words good, in an RPT body under PAIR and outside one. -/
theorem witness_MemoryMultiplyAccumulate : (ptr 0x1FFE).Ready 0 ∧ ((ptr 0x1FFE).eng 0).cur.p[(3 : PReg)] = 0x1FFE ∧ (rptd 0 2).Ready 0 ∧
    ((rptd 0 2).eng 0).rpt = some ⟨2, 1⟩ :=
  ⟨ready_of (by decide +kernel), by decide +kernel, ready_of (by decide +kernel), by decide +kernel⟩
/-- One result in flight; a handler below its limit; an engine that takes an event, and one that does not. -/
theorem witness_LandingLimitAndEvents : ((run 0 0).Sound ∧ (run 0 0).engRuns 0 = true ∧ ((run 0 0).eng 0).step ≤ 0) ∧
    ((hand 0 9).Sound ∧ ((hand 0 9).eng 0).used < ((hand 0 9).eng 0).declared_ .sample) ∧
    ((quiet 0).engState 0 = .running ∧ ((quiet 0).eng 0).declared_ .fault ≠ 0) ∧ up.engState 0 = .off :=
  ⟨⟨run_sound, by decide +kernel⟩, ⟨hand_sound, by decide +kernel⟩, by decide +kernel, by decide +kernel⟩

/-- R105: with SAT, 32767 + 1 gives 32767 with QV, V and no N. -/
theorem test_add_limits : seen (.add 0 3 1 2) (engine 0 fun x => { x with
      bank0 := { EngBank.zero with h := (EngBank.zero.h.set 1 0x7FFF).set 2 1, sw := 1 } })
    (fun t => ((t.eng 0).bank0.h[3], (t.eng 0).bank0.sw, (t.eng 0).pc)) = some (0x7FFF, 0x0181, 1) := by decide +kernel
/-- R119: JAL links to the word after it. -/
theorem test_jal_links : seen (.jal 63 7 0x123) (quiet 63) (fun t => ((t.eng 63).bank0.p[7], (t.eng 63).pc, (t.eng 63).step, (t.eng 63).held)) =
    some (1, 0x123, 1, 1) := by decide +kernel
/-- R116: the bytes of a word are little-endian. -/
theorem test_sth_bytes : seen (.sth 0 5 ⟨0, false, 2⟩) (engine 0 fun x => { x with
      bank0 := { EngBank.zero with p := Vector.replicate 8 0x10, h := EngBank.zero.h.set 5 0xABCD } })
    (fun t => (Mem.byte (t.eng 0).dmem 0x12, Mem.byte (t.eng 0).dmem 0x13, Mem.byte (t.eng 0).dmem 0x11)) = some (0xCD, 0xAB, 0) := by decide +kernel
/-- R66: 1 + 2^-24 lies half way and goes to the even word, 1 + 3 · 2^-24 to the word above. -/
theorem test_fadd_ties : (fAdd false 0x3F800000 0x33800000).1 = 0x3F800000 ∧ (fAdd false 0x3F800001 0x33800000).1 = 0x3F800002 := by decide +kernel

/-! ## Frames, samples, releases, plans and fail-over -/

def running5 : State := ticked 12500 (bank 5 fun x => { x with carrier := .running })
def atB : State := axis 47 .run fun x => { x with nextB := some (0, 1), safeReq := some 3 }
theorem witness_Boundaries : (running5.Sound ∧ (running5.bnk 5).carrier = .running ∧ (running5.bnk 5).frameTick + (running5.bnk 5).period ≤ running5.tick ∧
      (∀ e : EngId, running5.engRole e = 2 → running5.engState e = .running → (running5.eng e).grpBank ≠ 5) ∧ running5.pwmSteps = 0 ∧
      (running5.bnk 5).steps = 0 ∧ (running5.bnk 5).period = running5.fld Fld.BNK_CARRIER_PERIOD 5 ∧
      (running5.bnk 5).fltActive = false ∧ ∀ n : AxId, n.bank = 5 → (running5.ax n).fltCut = false ∧ (running5.failover n).candidate = none) ∧
    (atB.Sound ∧ (atB.ax 47).nextB = some (0, 1) ∧ 0 ≤ atB.tick ∧ (atB.ax 47).due = [] ∧ (atB.ax 47).safeReq = some 3 ∧ (atB.ax 47).absentReq = false ∧ atB.axState 47 = .run) :=
  ⟨⟨ticked_sound (bank_sound up_sound), by decide +kernel⟩, axis_sound up_sound, by decide +kernel⟩

def inFrame (mode sense : Nat) (n : AxId) : State :=
  ((axis n .run (fun x => { x with framed := true }) (ticked 6250 (bank n.bank fun x => { x with carrier := .running }))).setFld
    Fld.AX_CFG_MODE n.val mode).setFld Fld.AX_CFG_SENSE n.val sense
def done47 (half : Bool) : State :=
  let s := bank 5 (fun x => { x with carrier := .running, half := half }) (axis 47 .run fun x =>
    { x with framed := true, sample := some ⟨1, 0, 0, 52, false, 0, 9, 3⟩ })
  ticked 52 (engine 47 (fun x => { x with image := some hdr0 }) s)
theorem witness_Samples :
    ((inFrame 0 1 40).axState 40 ≠ .off ∧ ((inFrame 0 1 40).ax 40).framed = true ∧ ((inFrame 0 1 40).bnk (40 : AxId).bank).runs = true ∧
      (inFrame 0 1 40).currentLoopFrame 40 0 = true ∧ (inFrame 0 1 40).bit Fld.AX_MOTCFG_VIRT 40 = false ∧ ((inFrame 0 1 40).ax 40).sample = none ∧
      ((inFrame 0 1 40).ax 40).sampledAt = none ∧ 0 + ((inFrame 0 1 40).samplePlan 40).1 ≤ 6250 ∧ (inFrame 0 1 40).axMode 40 ≠ 3 ∧
      (40 : AxId).premium = true ∧ (inFrame 0 1 40).bit Fld.AX_CFG_SENSE 40 = true ∧ (inFrame 0 1 40).axMode 40 ≠ 2 ∧ (inFrame 0 1 40).pmode 40 ≠ 1) ∧
    ((inFrame 2 0 47).axMode 47 = 2 ∧ (inFrame 2 0 47).pmode 47 ≠ 1 ∧ ((inFrame 2 0 47).samplePlan 47).1 ≤ 6250 ∧ (inFrame 2 0 47).pmode 47 ≠ 2) ∧
    up.axState 0 = .off ∧
    (((done47 true).ax 47).sample.map (·.done) = some 52 ∧ 52 ≤ (done47 true).tick ∧ ((done47 true).ax 47).ofsPend = none ∧
      ((done47 true).bnk (47 : AxId).bank).half = true ∧ (done47 true).axMode 47 ≠ 2 ∧ 52 < 0 + (done47 true).axPeriod 47 / 2 ∧
      47 ∈ (done47 true).axisViewers 47 ∧ (done47 true).takesEvent 47 .sample = true) ∧
    ((done47 false).bnk (47 : AxId).bank).half = false ∧
    ((0x801 : BitVec 12).toNat : Int) * 16 ≤ 32784 ∧ (((0x801 : BitVec 12).toNat : Int) - 0x800) * 16 ≤ 32767 := by
  decide +kernel

def commit0 (at_ : Nat) : Commit := ⟨⟨1, 2, 3, 0x200⟩, 7, 47, at_⟩
def rel (commits : List Commit) (misses : Nat) : State :=
  ticked 10 (axis 47 .run fun x => { x with due := [⟨7, 1, some 10, none⟩], commits := commits, misses := misses })
theorem rel_sound {l : List Commit} {m : Nat} : (rel l m).Sound := ticked_sound (axis_sound up_sound)
theorem witness_Releases : ((rel [commit0 7] 0).Sound ∧ ((rel [commit0 7] 0).ax 47).dueAt ⟨7, 1, some 10, none⟩ = some 10 ∧ 10 ≤ (rel [commit0 7] 0).tick ∧
      (commit0 7).at_ + 3 ≤ 10 ∧ (commit0 7).tag = 7 ∧ ((rel [commit0 7] 0).failover 47).arbStop = none ∧
      ((rel [commit0 7] 0).failover 47).incomplete = none ∧ ((rel [commit0 7] 0).ax 47).demands.dlmiss = false ∧ (rel [commit0 7] 0).axMode 47 ≠ 3) ∧
    ((rel [] 0).Sound ∧ ((rel [] 0).ax 47).misses = 0 ∧ ((rel [] 0).failover 47).failedAt = none) ∧
    ((rel [] 1).Sound ∧ 1 ≤ ((rel [] 1).ax 47).misses ∧ (rel [] 1).axState 47 = .run) :=
  ⟨⟨rel_sound, by decide +kernel⟩, ⟨rel_sound, by decide +kernel⟩, ⟨rel_sound, by decide +kernel⟩⟩

/-- A pending sample event, a host event of a group engine that waits, and a coefficient record in the mailbox of an axis in RUN and in HOLD. -/
def raised (role : Nat) (k : List EvKind) : State :=
  engine 63 (fun x => { x with image := some hdr0, pend := k }) (up.setFld Fld.ENG_STAT_ROLE 63 role)
def mailed (st : AxState) : State :=
  engine 47 (fun x => { x with image := some hdr0, handler := some .sample, chained := true, port := { PortBlock.zero with frame := 1 } })
    ((axis 47 st (fun x => { x with mail := [⟨src0, .setCoef 47 1 5, 0⟩] })).setFld Fld.ENG_STAT_ROLE 47 1)
/-- An axis in RUN whose sample shows a phase current of −1 and VALID = 0; its engine holds the claim. -/
def overcurrent : State :=
  engine 47 (fun x => { x with image := some hdr0, handler := some .sample, chained := true,
                               port := { PortBlock.zero with frame := 1, adc := PortBlock.zero.adc.set 0 0x8000 } })
    (((((axis 47 .run).setFld Fld.ENG_STAT_ROLE 47 1).setFld Fld.AX_LIMCFG_OC_N 47 1).setFld Fld.AX_FOSTAT_CLAIM 47 1).setFld Fld.ENG_FO_CLAIM 47 1)
theorem witness_HandlersAndCoefficients :
    ((raised 1 [.sample]).Sound ∧ ((raised 1 [.sample]).engRuns 63 = true ∧ ((raised 1 [.sample]).eng 63).runFrom ≤ (raised 1 [.sample]).tick ∧
      ((raised 1 [.sample]).eng 63).flights = []) ∧ ((raised 1 [.sample]).eng 63).handler = none ∧
      ((raised 1 [.sample]).eng 63).rpt = none ∧ (raised 1 [.sample]).nextEvent 63 = some .sample) ∧
    ((raised 2 [.release]).nextEvent 63 = some .release ∧ (raised 2 [.release]).axisLike 63 = false ∧
      ∀ m, (raised 2 [.release]).trajects 63 m = false ∧ (raised 2 [.release]).monitors 63 m = false) ∧
    ((raised 2 [.host, .fault]).Sound ∧ (raised 2 [.host, .fault]).axisLike 63 = false ∧ (raised 2 [.host, .fault]).nextEvent 63 = some .fault) ∧
    ((mailed .run).Sound ∧ ((mailed .run).eng 47).runFrom ≤ (mailed .run).tick ∧ ((mailed .run).eng 47).handler = some .sample ∧ ((mailed .run).eng 47).chained = true ∧ (mailed .run).servesAxis 47 47 = true ∧
      (mailed .run).axState 47 = .run ∧ coefGroupC 1 = false ∧ ((mailed .run).eng 47).castRun = none ∧ (mailed .run).loopsRun 47 = true) ∧
    ((mailed .hold).Sound ∧ (mailed .hold).axState 47 = .hold) ∧
    ((mailed .idle).loopsRun 47 = false ∧ (mailed .idle).axMode 47 ≠ 3 ∧ ((mailed .idle).motion 47).stepCfgPend = []) ∧
    ((raised 1 [.sample]).loopsRun ((raised 1 [.sample]).eng 63).axis = false ∧
      (raised 1 [.sample]).axMode ((raised 1 [.sample]).eng 63).axis ≠ 3 ∧ ((raised 1 [.sample]).eng 63).guest = none) ∧
    ((overcurrent.Sound ∧ overcurrent.servesAxis 47 47 = true ∧ overcurrent.loopsRun 47 = true ∧ overcurrent.axMode 47 ≠ 2) ∧
      (overcurrent.ax 47).mail = [] ∧ (overcurrent.ax 47).coefI 0x06 < ((overcurrent.eng 47).port.adcI 0).natAbs ∧
      overcurrent.fld Fld.AX_LIMCFG_OC_N 47 ≤ (overcurrent.motion 47).loops.ocRuns + 1 ∧
      ((overcurrent.eng 47).port.adc.toList.getD 15 0).getLsbD 0 = false ∧ overcurrent.gateOpen 47 47 = true) :=
  ⟨⟨engine_sound up_sound.setFld, by decide +kernel⟩, by decide +kernel, ⟨engine_sound up_sound.setFld, by decide +kernel⟩,
   ⟨engine_sound (axis_sound up_sound).setFld, by decide +kernel⟩, ⟨engine_sound (axis_sound up_sound).setFld, by decide +kernel⟩,
   by decide +kernel, by decide +kernel,
   ⟨engine_sound (axis_sound up_sound).setFld.setFld.setFld.setFld, by decide +kernel⟩, by decide +kernel⟩

def windowed (w : Nat) (coast : Bool) : State := up.setFailover 0 { up.failover 0 with winEnd := some w, coast := coast }
def metered : State := ticked 2048 (engine 63 fun x => { x with meterFrom := some 0 })
theorem witness_PaceAndPlans : (metered.Sound ∧ (metered.eng 63).meterFrom = some 0 ∧ 0 + 2048 ≤ metered.tick) ∧
    ((windowed 0 false).Sound ∧ ((windowed 0 false).failover 0).winEnd = some 0 ∧ 0 ≤ (windowed 0 false).tick ∧
      ((windowed 0 false).failover 0).coast = false ∧ ((windowed 0 true).failover 0).coast = true ∧
      ((windowed 1 false).failover 0).winEnd = some 1 ∧ (windowed 1 false).tick < 1 ∧ (up.failover 0).candidate = none ∧ (up.eng 0).prep = none) ∧
    (up.Sound ∧ up.legsHeld = false ∧ up.bit Fld.GLB_STAT_READY = true ∧ up.bit Fld.GLB_STAT_LOADING = false ∧ up.bit Fld.GLB_ALLOC_BUSY = false ∧
      up.takingOver = false ∧ (up.setBit Fld.GLB_ALLOC_BUSY 0 true).bit Fld.GLB_ALLOC_BUSY = true) ∧
    (up.setFld Fld.ENG_ROLE_ROLE 0 0).planCheck = some 4 :=
  ⟨⟨ticked_sound (engine_sound up_sound), by decide +kernel⟩, ⟨up_sound.setFailover, by decide +kernel⟩, ⟨up_sound, by decide +kernel⟩,
   by decide +kernel⟩
theorem up_roles : ∀ e : EngId, up.stagedRole e = if e.val < 48 then 1 else if e.val < 60 then 2 else 3 := by decide +kernel
theorem up_axes : ∀ e : EngId, up.stagedAxis e = if e.val < 48 then e.val else 0 := by decide +kernel
theorem up_same : ∀ e : EngId, up.planChanges e = false := by decide +kernel
/-- The default plan passes every check and changes no engine. -/
theorem witness_PaceAndPlans_passes : up.planCheck = none := by
  unfold State.planCheck
  simp only [up_roles, up_axes, up_same]
  decide +kernel

/-- An engine stopped by LIMIT: a group engine without an axis to serve, and an axis engine with a STANDBY engine. -/
def failed (e : EngId) (role : Nat) (code : Nat) (decl : Bool := false) : State :=
  let s := engine e (fun x => { x with declared := decl }) ((up.setFld Fld.ENG_STAT_ROLE e.val role).setFld Fld.ENG_STAT_FAULT e.val code)
  s.setEngState e .faulted
theorem failed_sound {e : EngId} {r c : Nat} {d : Bool} : (failed e r c d).Sound := (engine_sound up_sound.setFld.setFld).setFld
def followed : State := ((failed 47 1 6).setEngState 60 .standby).setEng 60 { (failed 47 1 6).eng 60 with axis := 47 }
theorem witness_FailureAndStandby : ((failed 48 2 1 true).Sound ∧ (failed 48 2 1 true).engState 48 = .faulted ∧ ((failed 48 2 1 true).eng 48).declared = true) ∧
    (failed 48 2 0).fld Fld.ENG_STAT_FAULT 48 = 0 ∧ (failed 48 2 7).fld Fld.ENG_STAT_FAULT 48 = 7 ∧
    ((failed 48 2 1).engState 48 = .faulted ∧ ((failed 48 2 1).eng 48).declared = false ∧ (failed 48 2 1).fld Fld.ENG_STAT_FAULT 48 = 1 ∧
      (failed 48 2 1).engRole 48 = 2 ∧ ∀ n : AxId, (failed 48 2 1).bit Fld.AX_MONSTAT_ACTIVE n.val = false) ∧
    (followed.Sound ∧ followed.engState 47 = .faulted ∧ (followed.eng 47).declared = false ∧ followed.fld Fld.ENG_STAT_FAULT 47 = 6 ∧
      followed.engRole 47 = 1 ∧ (followed.eng 47).axis = 47 ∧ (followed.eng 47).guest = none ∧ (followed.eng 47).lastPass = none ∧
      (followed.failover 47).lastTakeover = none ∧ (followed.failover 47).topClaim < 254 ∧ followed.engState 60 = .standby ∧ (followed.eng 60).axis = 47 ∧
      (∀ g : EngId, g.val < (60 : EngId).val → followed.engState g ≠ .standby) ∧ ∀ m : AxId, (followed.failover m).candidate = none) :=
  ⟨⟨failed_sound, by decide +kernel⟩, by decide +kernel, by decide +kernel, by decide +kernel,
   ⟨State.Sound.setEng failed_sound.setFld fun _ => State.Sound.eng failed_sound 60, by decide +kernel⟩⟩

def candidate : State :=
  { up.setFailover 5 { up.failover 5 with candidate := some (60, 2), topClaim := 254 } with store := ⟨[(5, img0)], []⟩ }
def preparing (p : EngPrep) (rep : Bool) (role : Nat := 1) : State :=
  engine 47 (fun x => { x with prep := some p, repairing := rep, copyImg := img0 })
    { up.setFld Fld.ENG_STAT_ROLE 47 role with store := ⟨[(47, img0)], []⟩ }
theorem preparing_sound {p : EngPrep} {rep : Bool} {r : Nat} : (preparing p rep r).Sound :=
  engine_sound (s := { up.setFld Fld.ENG_STAT_ROLE 47 r with store := ⟨[(47, img0)], []⟩ })
    (State.Sound.upd (s := up.setFld Fld.ENG_STAT_ROLE 47 r) up_sound.setFld)
def tested : State := (((preparing .selftest true).setBit Fld.ENG_PACE_VALID 47 true).setFld Fld.ENG_PACE_PACE_PS 47 1)
theorem witness_EnginePreparation : ((candidate.failover 5).candidate = some (60, 2) ∧ (candidate.failover 5).arbStop = none ∧ (candidate.failover 5).candDue ≤ candidate.tick ∧
      candidate.store.axisImage 5 = some img0 ∧ (candidate.failover 5).topClaim < 255) ∧ candidate.Sound ∧
    ((preparing .zeroing true).Sound ∧ ((preparing .zeroing true).eng 47).prep = some .zeroing ∧ ((preparing .zeroing true).eng 47).prepDue ≤ (preparing .zeroing true).tick ∧
      ((preparing .zeroing true).eng 47).repairing = true) ∧
    (((preparing .zeroing false).eng 47).repairing = false ∧ (preparing .zeroing false).engRole 47 ≠ 3) ∧
    ((preparing .zeroing false 3).engRole 47 = 3 ∧ ∀ n, (preparing .zeroing false 3).wantsEngine n = false) ∧
    (tested.Sound ∧ (tested.eng 47).prep = some .selftest ∧ tested.bit Fld.ENG_PACE_VALID 47 = true ∧ tested.fld Fld.ENG_PACE_PACE_PS 47 ≤ tested.warnPs ∧
      (∀ n, tested.wantsEngine n = false) ∧ tested.store.axisImage (tested.eng 47).axis = some img0) ∧
    ((preparing (.copying (some src0)) false).Sound ∧ ((preparing (.copying (some src0)) false).eng 47).prep = some (.copying (some src0)) ∧
      ((preparing (.copying (some src0)) false).eng 47).wantStart = none ∧ ((preparing (.copying (some src0)) false).eng 47).byApply = false ∧
      (preparing (.copying (some src0)) false).bit Fld.GLB_ALLOC_BUSY = false ∧ (preparing (.copying (some src0)) false).engRole 47 = 1) :=
  ⟨by decide +kernel, State.Sound.upd (s := up.setFailover 5 _) up_sound.setFailover, ⟨preparing_sound, by decide +kernel⟩, by decide +kernel,
   by decide +kernel, ⟨preparing_sound.setBit.setFld, by decide +kernel⟩, preparing_sound, by decide +kernel⟩

/-! ## Host commands -/

/-- No command is accepted, or the one accepted has its D one nanosecond ahead. -/
theorem witness_NotDelivered : (∀ a ∈ up.accepted, a.src = src0 → a.cmd = .snapshot → up.now < a.d) ∧
    ∀ a ∈ ({ up with accepted := [⟨src0, .snapshot, up.now + 1⟩] } : State).accepted, a.src = src0 → a.cmd = .snapshot → up.now < a.d := by
  decide +kernel

/-- No safety function holds the axes 32 to 47. -/
def unheld : State := up.setWord .SAF_HOLD_HI 0 0 0
theorem unheld_sound : unheld.Sound := up_sound.setWord
def ready47 (st : AxState) (ofs : Nat) (f : Axis → Axis := id) : State :=
  owing (.axisEnable 47 true) (axis 47 st (fun x => { f x with ofsCount := ofs }) unheld)
def offed (st : AxState) (speed : Int) (c : HostCmd := .axisEnable 47 false) : State := owing c (axis 47 st fun x => { x with speedRef := speed })
theorem witness_AxisEnableAndHold : ((ready47 .idle 32).Sound ∧ (ready47 .idle 32).Due (acc (.axisEnable 47 true) (axis 47 .idle (fun x => { x with ofsCount := 32 }) unheld)) ∧
      (ready47 .idle 32).safetyHolds 47 = false ∧ (ready47 .idle 32).axState 47 = .idle ∧ 32 ≤ ((ready47 .idle 32).ax 47).ofsCount) ∧
    ((ready47 .hold 0 fun x => { x with coefPend := [(1, 5)] }).axState 47 = .hold ∧ ((ready47 .hold 0 fun x => { x with coefPend := [(1, 5)] }).ax 47).coefPend = [(1, 5)]) ∧
    ((ready47 .idle 31).axState 47 = .idle ∧ ((ready47 .idle 31).ax 47).ofsCount < 32 ∧ (ready47 .idle 31).bit Fld.AX_MOTCFG_VIRT 47 = false) ∧
    ((offed .run (-1)).Sound ∧ (offed .run (-1)).Due (acc (.axisEnable 47 false) (axis 47 .run fun x => { x with speedRef := -1 })) ∧
      ((offed .run (-1)).motion 47).queue = [] ∧ (offed .run (-1)).axState 47 = .run ∧ ((offed .run (-1)).ax 47).speedRef ≠ 0) ∧
    ((offed .run 0).axState 47 = .run ∧ ((offed .run 0).ax 47).speedRef = 0) ∧
    ((offed .safe 0).axState 47 = .safe ∧ (offed .safe 0).bit Fld.AX_STATE_WC_ACTIVE 47 = false) ∧ (offed .stopping 5).axState 47 = .stopping ∧
    ((offed .run 9 (.axisHold 47)).Due (acc (.axisHold 47) (axis 47 .run fun x => { x with speedRef := 9 })) ∧ (offed .idle 0 (.axisHold 47)).axState 47 ≠ .run) :=
  ⟨⟨owing_sound (axis_sound unheld_sound), due_owing _ _, by decide +kernel⟩, by decide +kernel, by decide +kernel,
   ⟨owing_sound (axis_sound up_sound), due_owing _ _, by decide +kernel⟩, by decide +kernel, by decide +kernel, by decide +kernel,
   due_owing _ _, by decide +kernel⟩

theorem witness_ClearPreloadAndGroupStop : ((owing (.wcClear 47)).Sound ∧ (owing (.wcClear 47)).Due (acc (.wcClear 47))) ∧
    ((owing (.posPreload 47 (-2 ^ 47))).Sound ∧ (owing (.posPreload 47 (-2 ^ 47))).Due (acc (.posPreload 47 (-2 ^ 47))) ∧ up.cpr 47 < 2 ^ 16 ∧
      (owing (.posPreload 47 (-2 ^ 47))).hostSet.contains (Reg.addr .AX_ANGOFS 47) = false) ∧
    ((ticked 1 (owing (.groupStop 0xFFFFFFFFFFFF .ramp))).Due (acc (.groupStop 0xFFFFFFFFFFFF .ramp)) ∧
      ∀ n : AxId, (0xFFFFFFFFFFFF : BitVec 48).getLsbD n.val = true →
        ((ticked 1 (owing (.groupStop 0xFFFFFFFFFFFF .ramp))).ax n).frameTick ≠ 1 ∧ ((ticked 1 (owing (.groupStop 0xFFFFFFFFFFFF .ramp))).ax n).stopReq = none) :=
  ⟨⟨owing_sound up_sound, due_owing _ _⟩, ⟨owing_sound up_sound, due_owing _ _, by decide +kernel⟩, due_of rfl (by decide +kernel), by decide +kernel⟩

theorem witness_SnapshotRecord : (owing .snapshot).Due (acc .snapshot) ∧ ((owing .snapshot).fn 0).evEntries ≤ 50 ∧ (owing .snapshot).axisOwner 47 = 0 :=
  ⟨due_owing _ _, by decide +kernel, by decide +kernel⟩

def mvl : HostCmd := .moveLim 47 0 0 0 0
def stc : HostCmd := .stepCfg 47 0 0 0 0 0 0
def moving : State := (axis 47 .run).setMotion 47 { AxMot.reset with queue := [⟨src0, .moveVel 47 0 0 0, true, none⟩] }
theorem witness_MailboxCommands : ((owing (.setCoef 47 1 5) (axis 47 .idle)).Sound ∧ (owing (.setCoef 47 1 5) (axis 47 .idle)).Due (acc (.setCoef 47 1 5) (axis 47 .idle)) ∧
      (owing (.setCoef 47 1 5) (axis 47 .idle)).axState 47 ≠ .off ∧ (owing (.setCoef 47 1 5)).axState 47 = .off ∧ (owing (.setCoef 47 1 5)).Due (acc (.setCoef 47 1 5))) ∧
    ((owing mvl moving).Sound ∧ (owing mvl moving).Due (acc mvl moving) ∧ ((owing mvl moving).motion 47).limApplies = true ∧ (up.motion 47).limApplies = false) ∧
    ((owing stc (axis 47 .hold)).Due (acc stc (axis 47 .hold)) ∧ (owing stc (axis 47 .hold)).axState 47 = .hold ∧ (owing stc (axis 47 .run)).axState 47 ≠ .idle ∧
      (owing stc (axis 47 .run)).axState 47 ≠ .hold) :=
  ⟨⟨owing_sound (axis_sound up_sound), due_owing _ _, by decide +kernel, by decide +kernel, due_owing _ _⟩,
   ⟨owing_sound (axis_sound up_sound).setMotion, due_owing _ _, by decide +kernel⟩, due_owing _ _, by decide +kernel⟩

def mon0 (en bs : BitVec 8) : HostCmd := .monCfg 47 en 63 bs 4 0 0 0 0
def monitored : State := up.setMoni 47 { AxMon.reset with cfg := some (mon0 1 3), base := [1] }
theorem witness_EngineAndMonitorCommands : ((owing (.engLoad 63 img0)).Sound ∧ (63 : BitVec 8).toNat = (63 : EngId).val ∧ ((owing (.engLoad 63 img0)).eng 63).prep = none ∧
      (owing (.engLoad 63 img0)).Due (acc (.engLoad 63 img0)) ∧ up.engState 63 = .off ∧ (up.setEngState 63 .running).engState 63 = .running) ∧
    ((owing (.engStart 63) (up.setEngState 63 .loaded)).Due (acc (.engStart 63) (up.setEngState 63 .loaded)) ∧
      (owing (.engStart 63) (up.setEngState 63 .loaded)).engState 63 = .loaded) ∧
    ((owing (mon0 1 3) monitored).Sound ∧ (owing (mon0 1 3) monitored).Due (acc (mon0 1 3) monitored) ∧ (63 : BitVec 8).toNat < 64 ∧
      ((owing (mon0 1 3) monitored).moni 47).cfg = some (mon0 1 3) ∧ ((owing (mon0 1 2) monitored).moni 47).cfg = some (mon0 1 3) ∧ (3 : BitVec 8) ≠ 2) ∧
    (owing (.monBaseline 47)).Due (acc (.monBaseline 47)) :=
  ⟨⟨owing_sound up_sound, by decide, by decide +kernel, due_owing _ _, by decide +kernel, by decide +kernel⟩, ⟨due_owing _ _, by decide +kernel⟩,
   ⟨owing_sound up_sound.setMoni, due_owing _ _, by decide +kernel⟩, due_owing _ _⟩

/-! ## Power stage -/

/-- Motor supply thresholds of bank 5 in order, its gate supply good and a profile loaded. -/
def supplied : State :=
  ((((((((up.setFld Fld.BNK_VM1_L1_OFF 5 100).setFld Fld.BNK_VM1_L1_ON 5 200).setFld Fld.BNK_VM2_L2 5 300).setFld Fld.BNK_VM2_UV 5 50).setBit
    Fld.BNK_PSTAT_VGD_OK 5 true).setBit Fld.GLB_PROF_STAT_LOADED 0 true).setBit Fld.BNK_BRK_EN 5 true).setFld Fld.BNK_BRK_TMAX_MS 5 1)
theorem supplied_sound : supplied.Sound := up_sound.setFld.setFld.setFld.setFld.setBit.setBit.setBit.setFld
def twice (r : Reg) (i t : Nat) : State := ticked t { up with fbPend := [⟨r.addr i, 1, 0, true⟩, ⟨r.addr i, 2, 1, true⟩] }
theorem witness_CarriersAndFbWrites : (up.Sound ∧ up.Open ∧ (up.bnk 5).carrier = .stopped ∧ up.envelopeOk 5 = false ∧ up.carrierReady 5 = false) ∧
    (supplied.Open ∧ supplied.carrierReady 5 = true) ∧
    ((ticked 7 (bank 5 fun x => { x with carrier := .starting 7 })).Sound ∧ ((ticked 7 (bank 5 fun x => { x with carrier := .starting 7 })).bnk 5).carrier = .starting 7 ∧
      (∀ e : EngId, up.engRole e = 2 → up.engState e = .running → (up.eng e).grpBank ≠ 5) ∧ ∀ n : AxId, n.bank = 5 → (up.failover n).candidate = none) ∧
    (running5.Sound ∧ running5.Open ∧ (running5.bnk 5).carrier = .running ∧
      Fld.BNK_CARRIER_PERIOD.get (running5.word .BNK_CARRIER 5) = running5.fld Fld.BNK_CARRIER_PERIOD 5 ∧
      ∀ n : AxId, n.bank = 5 → running5.axState n = .off ∨ running5.axState n = .idle) ∧
    (axis 47 .run id running5).axState 47 = .run ∧
    (((bank 5 (fun x => { x with carrier := .stopping false }) running5).bnk 5).carrier = .stopping false ∧
      ((bank 5 (fun x => { x with carrier := .stopping false }) running5).bnk 5).frameTick + 12500 ≤ running5.tick ∧ (axis 47 .idle id running5).axState 47 = .idle) ∧
    ((twice .AX_HALL 47 3).Sound ∧ Reg.AX_HALL ∈ axFbRegs ∧ ((twice .AX_HALL 47 3).bnk (47 : AxId).bank).carrier = .stopped ∧ 1 + 2 ≤ (twice .AX_HALL 47 3).tick) ∧
    (Reg.AX_HALL ∈ axFbRegs ∧ ({ up with fbPend := [⟨Reg.addr .AX_HALL 47, 1, 0, false⟩] } : State).fbPend = [⟨Reg.addr .AX_HALL 47, 1, 0, false⟩]) ∧
    (Reg.BNK_PROT ∈ bnkFbRegs ∧ Reg.BNK_PROT ∉ axFbRegs ∧ (twice .BNK_PROT 5 2).tick < 1 + 2 ∧ 0 + 2 ≤ (twice .BNK_PROT 5 2).tick ∧ (twice .BNK_PROT 5 1).tick < 0 + 2) :=
  ⟨⟨up_sound, up_open, by decide +kernel⟩, ⟨open_of (by decide +kernel), by decide +kernel⟩,
   ⟨ticked_sound (bank_sound up_sound), by decide +kernel⟩, ⟨ticked_sound (bank_sound up_sound), open_of (by decide +kernel), by decide +kernel⟩, by decide +kernel,
   by decide +kernel, ⟨ticked_sound (State.Sound.upd (s := up) up_sound), by decide +kernel⟩, by decide +kernel⟩

theorem witness_MotorSupply : supplied.Sound ∧ supplied.legsHeld = false ∧ supplied.vmValid 5 = true ∧
    (supplied.fld Fld.BNK_VM1_L1_ON 5 < (201 : BitVec 12).toNat ∧ ((bank 5 (fun x => { x with everStarted := true }) supplied).bnk 5).everStarted = true ∧
      (supplied.bnk 5).brkLock = false ∧ supplied.bit Fld.BNK_BRK_EN 5 = true) ∧ (99 : BitVec 12).toNat < supplied.fld Fld.BNK_VM1_L1_OFF 5 ∧
    (supplied.fld Fld.BNK_VM1_L1_OFF 5 ≤ (100 : BitVec 12).toNat ∧ (200 : BitVec 12).toNat ≤ supplied.fld Fld.BNK_VM1_L1_ON 5) ∧
    (supplied.fld Fld.BNK_VM2_L2 5 < (301 : BitVec 12).toNat ∧ (300 : BitVec 12).toNat ≤ supplied.fld Fld.BNK_VM2_L2 5) ∧
    (supplied.fld Fld.BNK_VM2_UV 5 ≠ 0 ∧ (49 : BitVec 12).toNat < supplied.fld Fld.BNK_VM2_UV 5 ∧ supplied.bit Fld.BNK_PSTAT_UV 5 = false ∧ (supplied.fn 0).evEntries < 64) ∧
    (supplied.fld Fld.BNK_VM2_UV 5 ≤ (50 : BitVec 12).toNat ∧ (supplied.bnk 5).vgdUv = false ∧ 870 < (871 : BitVec 11).toNat ∧ (829 : BitVec 11).toNat < 830 ∧
      920 < (921 : BitVec 11).toNat ∧ ((bank 5 fun x => { x with vgdUv := true }).bnk 5).vgdUv = true ∧ (879 : BitVec 11).toNat < 880) ∧
    up.fld Fld.BNK_VM2_UV 5 = 0 ∧ (supplied.bnk 5).brk = false ∧
    ((ticked 250000 (bank 5 (fun x => { x with brk := true }) supplied)).bnk 5).brkSince +
      (ticked 250000 (bank 5 (fun x => { x with brk := true }) supplied)).fld Fld.BNK_BRK_TMAX_MS 5 * 250000 ≤ 250000 :=
  ⟨supplied_sound, by decide +kernel⟩

/-- The legs of axis 47 in RUN, all of them `l`, in a bank that has run; a leg whose high side has turned off at tick 0; a leg that a sine
modulation drives. -/
def legs (l : LegHw) (t : Nat) : State :=
  ticked t (axis 47 .run (fun x => { x with legs := Vector.replicate 3 l }) (bank 5 fun x => { x with everStarted := true }))
theorem legs_sound {l : LegHw} {t : Nat} (h : l.single = true) : (legs l t).Sound :=
  ticked_sound (axis_sound (bank_sound up_sound) fun x hx => by
    simp only [Axis.sound, Bool.and_eq_true] at hx ⊢
    exact ⟨hx.1, by simp [h, Vector.toList_replicate]⟩)
def dead : LegHw := { LegHw.reset with dead := some (0, true) }
def onHigh : LegHw := { LegHw.reset with high := true }
def onLow : LegHw := { LegHw.reset with low := true }
def blanked (t : Nat) (s : State := up) : State := axis 47 .run (fun x => { x with blankUntil := t }) s
def limited : State := { up with force := Sparse.put Reg.resetAt [] (Reg.addr .AX_OC 47) (Fld.AX_OC_CBC_EN.ins 0 1) }
theorem limited_sound : limited.Sound := ⟨up_sound.1, by decide +kernel, up_sound.3, up_sound.4, up_sound.5, up_sound.6⟩
theorem witness_CutsAndDemands : (up.Sound ∧ up.legsHeld = false ∧ true ≠ up.bit Fld.BNK_FLT_POL 5 ∧ up.bit Fld.BNK_FLT_EN 5 = false) ∧
    (false = (up.setBit Fld.BNK_FLT_EN 5 true).bit Fld.BNK_FLT_POL 5 ∧ (up.setBit Fld.BNK_FLT_EN 5 true).bit Fld.BNK_FLT_EN 5 = true ∧ up.wcAction 47 = none ∧
      (up.bnk 5).fltFrame = false ∧ ((bank 5 fun x => { x with fltFrame := true }).bnk 5).fltFrame = true) ∧
    (limited.Sound ∧ limited.inForce Fld.AX_OC_CBC_EN 47 = 1 ∧ (limited.ax 47).blankUntil ≤ limited.tick ∧ 256 * limited.inForce Fld.AX_OC_CBC_LVL 47 < 1) ∧
    (up.inForce Fld.AX_OC_CBC_EN 47 ≠ 1 ∧ ¬ ((blanked 1 limited).ax 47).blankUntil ≤ limited.tick ∧ ¬ 256 * limited.inForce Fld.AX_OC_CBC_LVL 47 < 0) ∧
    ((legs onHigh 2).Sound ∧ (legs onHigh 2).legsHeld = false ∧ (legs onHigh 2).conducts 47 = true ∧
      1000 + 250 * (legs onHigh 2).inForce Fld.BNK_PROT_DESAT 5 < 1001 + 250 * (legs onHigh 2).inForce Fld.BNK_PROT_DESAT 5 ∧
      max 0 ((legs onHigh 2).ax 47).blankUntil + 2 ≤ (legs onHigh 2).tick ∧ (legs onHigh 1).tick < max 0 ((legs onHigh 1).ax 47).blankUntil + 2 ∧
      (legs onHigh 2).axState 47 = .run ∧ (legs onHigh 2).wcAction 47 = none ∧ ((legs onHigh 2).bnk 5).everStarted = true) ∧
    (up.conducts 47 = false ∧ ¬ 1000 + 250 * (legs onHigh 2).inForce Fld.BNK_PROT_DESAT 5 < 1000) ∧
    (256 * (if up.inForce Fld.AX_OC_HOC_LVL 47 = 0 then 255 else up.inForce Fld.AX_OC_HOC_LVL 47) < 65281 ∧ (up.ax 47).blankUntil ≤ up.tick ∧
      ¬ ((blanked 1).ax 47).blankUntil ≤ (blanked 1).tick) :=
  ⟨⟨up_sound, by decide +kernel⟩, by decide +kernel, ⟨limited_sound, by decide +kernel⟩, by decide +kernel, ⟨legs_sound (by decide), by decide +kernel⟩,
   by decide +kernel, by decide +kernel⟩

/-- Axis 47 in RUN at tick `t` of its frame, its three legs `l` in PWM mode with compare value `x`, in the trickle-pump mode. -/
def driven (l : LegHw) (x : BitVec 32) (t : Nat) : State :=
  let s := axis 47 .run (fun y => { y with framed := true, released := ⟨x, x, x, 0x49⟩, prevReleased := ⟨x, x, x, 0x49⟩, legs := Vector.replicate 3 l })
    (bank 5 fun x => { x with carrier := .running, everStarted := true })
  ticked t { s with force := Sparse.put Reg.resetAt [] (Reg.addr .BNK_BOOT 5) (Fld.BNK_BOOT_PUMP.ins 0 1) }
/-- The dead-time witnesses of the legs: the crossing on both sides of its threshold, the floor, the timeouts. -/
theorem witness_Legs : ((legs dead 15).Sound ∧ ((legs dead 15).leg 47 .w).dead = some (0, true) ∧ (legs dead 15).dtFloor 5 ≤ (15 - 0) * 8 ∧
      8 * (-1 : Int) < ((legs dead 15).inForce Fld.BNK_DT_TH 5 + 1 : Int) * ((legs dead 15).bnk 5).vm.toNat) ∧
    (¬ 8 * (0 : Int) < ((legs dead 15).inForce Fld.BNK_DT_TH 5 + 1 : Int) * ((legs dead 15).bnk 5).vm.toNat ∧ (14 - 0) * 8 < (legs dead 14).dtFloor 5) ∧
    (((legs { dead with dead := some (0, false) } 15).leg 47 .w).dead = some (0, false) ∧
      (8 - ((legs dead 15).inForce Fld.BNK_DT_TH 5 + 1) : Int) * ((legs dead 15).bnk 5).vm.toNat < 8 * 1) ∧
    (0 + (if (legs dead 250).legNow 47 = .short then 240 else 250) ≤ (legs dead 250).tick ∧
      (legs dead 239).tick < 0 + (if (legs dead 239).legNow 47 = .short then 240 else 250)) ∧
    (((legs dead 250).leg 47 .w).dtTimeouts + 1 < max 1 ((legs dead 250).inForce Fld.BNK_DT_DTTO_N 5)) ∧
    (max 1 ((legs { dead with dtTimeouts := 63 } 250).inForce Fld.BNK_DT_DTTO_N 5) ≤ ((legs { dead with dtTimeouts := 63 } 250).leg 47 .w).dtTimeouts + 1) ∧
    (((legs { LegHw.reset with slopeSince := some 0 } 250).leg 47 .w).slopeSince = some 0 ∧ 0 + 250 ≤ (legs { LegHw.reset with slopeSince := some 0 } 250).tick) :=
  ⟨⟨legs_sound (by decide), by decide +kernel⟩, by decide +kernel⟩
/-- The edge witnesses of a driven leg: an instant that allows a turn-off (early, and at the end of the pulse), one that does not; a turn-on that
is not timely, dropped as too short, dropped in the charge time, and made. -/
theorem witness_LegEdges : ((driven onHigh 0 100).legDrive 47 .u = .pwm ∧ ((driven onHigh 0 100).bnk 5).runs = true ∧ ((driven onHigh 0 100).leg 47 .u).high = true ∧
      8 * 100 + 7 < ((driven onHigh 0 100).pulse 47 .u).1 ∧ 8 * 100 + (driven onHigh 0 100).dtFloor 5 ≤ ((driven onHigh 0 100).pulse 47 .u).1) ∧
    (((driven onHigh 0 6250).pulse 47 .u).2 - 0 ≤ 8 * 6250 + 7 ∧
      ((driven onHigh 0 6250).pulse 47 .u).2 - 0 + (driven onHigh 0 6250).dtFloor 5 ≤ 8 * (driven onHigh 0 6250).axPeriod 47 + (driven onHigh 0 6250).nextOn 47 .u) ∧
    (¬ ((driven onHigh 50000 100).pulse 47 .u).2 - 0 ≤ 8 * 100 + 7 ∧ ¬ 8 * 100 + 7 < ((driven onHigh 50000 100).pulse 47 .u).1) ∧
    ((driven onLow 0 6251).legDrive 47 .u = .pwm ∧ ¬ 8 * 6251 ≤ ((driven onLow 0 6251).pulse 47 .u).2) ∧
    ((driven onLow 0 6250).pulse 47 .u = (50000, 50000) ∧ (driven onLow 0 6250).lowUntil 47 .u ≤ 50000 ∧ 8 * 6250 ≤ 50000 ∧
      50000 < 50000 + (driven onLow 0 6250).dtFloor 5 ∧ 8 * (driven onLow 0 6250).axPeriod 47 > ((driven onLow 0 6250).comparePulse 47 .u).2 - ((driven onLow 0 6250).comparePulse 47 .u).1) ∧
    ((driven onLow 50000 100).pulse 47 .u = (0, 100000) ∧ (driven onLow 50000 100).lowUntil 47 .u ≤ 8 * 100 + 7 ∧
      8 * (driven onLow 50000 100).axPeriod 47 ≤ ((driven onLow 50000 100).comparePulse 47 .u).2 - ((driven onLow 50000 100).comparePulse 47 .u).1 ∧
      (driven onLow 50000 100).lowUntil 47 .u + (driven onLow 50000 100).dtFloor 5 ≤ 100000 ∧ ((driven onLow 50000 100).leg 47 .u).dropped ≠ some 0 ∧
      ((driven onLow 50000 100).leg 47 .u).chargeUntil ≤ 100 ∧ ((driven onLow 50000 100).ax 47).frameTick = 0) ∧
    ((driven { onLow with chargeUntil := 101 } 50000 100).leg 47 .u).chargeUntil > (driven { onLow with chargeUntil := 101 } 50000 100).tick := by
  decide +kernel
/-- R168: the complement of a leg whose high side has turned off turns on at the crossing. -/
theorem test_crossing : seen (.switchNodeCrossing 47 .w (-1) false) (legs dead 15) (fun t => ((t.leg 47 .w).low, (t.leg 47 .w).high, (t.leg 47 .w).dead)) =
    some (true, false, none) := by decide +kernel

/-- R131, its example: V follows U by 750 ticks, W follows V by 125 where 302 are needed, and moves by 177. -/
theorem test_ss_shift : shiftLegs 302 6250 2500 [(3250, .v), (3375, .w)] = [(.v, 0), (.w, 177)] := by decide
/-- R148: overcurrent in OC_N runs is loop fault 1. -/
theorem test_overcurrent : seen (.handlerEntry 47 .entry) overcurrent (fun t => (t.fld Fld.AX_LFAULT_CODE 47, (t.ax 47).safeReq)) = some (1, some 3) := by
  decide +kernel

/-! ## Feedback -/

def hall (valid : Bool) (sector : Nat) : State := ticked 25 (axis 47 .run fun x => { x with hallValid := valid, hallSector := sector })
def moded (n : AxId) (m p : Nat) (s : State := up) : State := (s.setFld Fld.AX_FBCFG_FMODE n.val m).setFld Fld.AX_FBCFG_PMODE n.val p
theorem witness_HallQuadratureIndex : ((hall true 0).Sound ∧ (hall true 0).axMode 47 ≠ 3 ∧ (hall true 0).fmode 47 = 0 ∧
      0 + (hall true 0).inForce Fld.AX_HALL_FLT 47 ≤ (hall true 0).tick ∧ ¬ 1 + (hall true 0).inForce Fld.AX_HALL_FLT 47 ≤ (hall true 0).tick ∧ (1 : BitVec 3) ≠ ((hall true 0).ax 47).hallCode ∧ (hall true 0).pmode 47 = 0 ∧
      hallSectorOf 7 = none ∧ hallSectorOf 0 = none ∧ ((hall true 0).ax 47).hallValid = true) ∧
    (∃ c sec : Nat, hallSectorOf (BitVec.ofNat 3 c) = some sec ∧ ((hall true 0).usedSector 47 sec + 6 - (hall true 0).sectorNow 47) % 6 = 1) ∧
    (∃ c sec : Nat, hallSectorOf (BitVec.ofNat 3 c) = some sec ∧ ((hall true 0).usedSector 47 sec + 6 - (hall true 0).sectorNow 47) % 6 = 5) ∧
    (∃ c sec : Nat, hallSectorOf (BitVec.ofNat 3 c) = some sec ∧ ((hall true 0).usedSector 47 sec + 6 - (hall true 0).sectorNow 47) % 6 = 3) ∧
    ((hall false 0).ax 47).hallValid = false ∧
    ((moded 40 1 0).fmode 40 = 1 ∧ (moded 40 1 0).pmode 40 = 0 ∧ (moded 40 0 3).pmode 40 = 3 ∧ (up.fmode 47 ≠ 1)) ∧
    ((quadPhase true false + 4 - quadPhase false false) % 4 = 1 ∧ (quadPhase false true + 4 - quadPhase false false) % 4 = 3 ∧
      (quadPhase true true + 4 - quadPhase false false) % 4 = 2) ∧
    (((moded 40 1 0).setBit Fld.AX_FBCFG_ZCHK 40 true).bit Fld.AX_FBCFG_ZCHK 40 = true ∧
      (((moded 40 1 0).setFbk 40 { AxFb.reset with prevIndex := some 0, pos := 1 }).fbk 40).pos - 0 = 1 ∧ (moded 40 1 0).cpr 40 ≠ 1) ∧
    ((moded 40 1 0).setBit Fld.AX_FBCFG_ZGATE 40 true).bit Fld.AX_FBCFG_ZGATE 40 = true :=
  ⟨⟨ticked_sound (axis_sound up_sound), by decide +kernel⟩, ⟨3, 1, by decide +kernel⟩, ⟨5, 5, by decide +kernel⟩, ⟨6, 3, by decide +kernel⟩, by decide +kernel⟩

/-- Axis 40 in RUN with SSI feedback at tick `t`, its frame from tick 0 and its carrier running. -/
def ssi (f : AxFb) (t : Nat := 0) : State :=
  ticked t ((axis 40 .run (fun x => { x with framed := true }) (bank 5 (fun x => { x with carrier := .running }) (moded 40 0 2))).setFbk 40 f)
theorem ssi_sound {f : AxFb} {t : Nat} : (ssi f t).Sound := ticked_sound (axis_sound (bank_sound up_sound.setFld.setFld)).setFbk
theorem witness_SineCosineSsi : ((moded 40 0 1).Sound ∧ (moded 40 0 1).axMode 40 ≠ 3 ∧ (moded 40 0 1).pmode 40 = 1 ∧
      (moded 40 0 1).pairStarts 40 ((moded 40 0 1).tick - 200) = true ∧
      (ticked 450 ((moded 40 0 1).setFbk 40 { AxFb.reset with scLast := some 0 })).pairStarts 40 (450 - 200) = true ∧
      (ticked 449 ((moded 40 0 1).setFbk 40 { AxFb.reset with scLast := some 0 })).pairStarts 40 (449 - 200) = false ∧
      (moded 40 0 1).fld Fld.AX_SCCFG_AMP_LO 40 * 2 ^ 30 ≤ ((0x6000 : BitVec 16).toInt * (0x6000 : BitVec 16).toInt).toNat * 256 ∧
      ((0x6000 : BitVec 16).toInt * (0x6000 : BitVec 16).toInt).toNat * 256 ≤ (moded 40 0 1).fld Fld.AX_SCCFG_AMP_HI 40 * 2 ^ 30 ∧
      ¬ (moded 40 0 1).fld Fld.AX_SCCFG_AMP_LO 40 * 2 ^ 30 ≤ 0) ∧
    ((ssi AxFb.reset).Sound ∧ (ssi AxFb.reset).axMode 40 ≠ 3 ∧ (ssi AxFb.reset).pmode 40 = 2 ∧ ((ssi AxFb.reset).fbk 40).ssiBusy = none ∧
      (ssi AxFb.reset).ssiDue 40 = true) ∧
    ((ssi AxFb.reset 9000).ssiDue 40 = false ∧ ((ssi { AxFb.reset with ssiBusy := some 0 }).fbk 40).ssiBusy ≠ none) ∧
    ((ssi { AxFb.reset with ssiBusy := some 0 } ((ssi AxFb.reset).ssiLead 40 - 3)).tick + 2 < 0 + (ssi AxFb.reset).ssiLead 40 ∧
      0 + (ssi AxFb.reset).ssiLead 40 ≤ (ssi { AxFb.reset with ssiBusy := some 0 } ((ssi AxFb.reset).ssiLead 40 - 2)).tick + 2 ∧
      ((ssi { AxFb.reset with ssiBusy := some 0 }).fbk 40).ssiLast = none) ∧
    (((ssi { AxFb.reset with ssiBusy := some 0, ssiLast := some 0 }).fbk 40).ssiLast = some 0 ∧
      (ssi AxFb.reset).fld Fld.AX_SSICFG_JUMP 40 ≠ 0 ∧ (ssi AxFb.reset).cpr 40 < (signedMod (2 ^ 20 - 0) 25).natAbs * 2 ^ (ssi AxFb.reset).fld Fld.AX_SSICFG_JUMP 40) :=
  ⟨⟨up_sound.setFld.setFld, by decide +kernel⟩, ⟨ssi_sound, by decide +kernel⟩, by decide +kernel, by decide +kernel, by decide +kernel⟩

theorem witness_ReadsAndPreload : up.axisOwner 47 = 0 ∧ ((7 : FnId) ≠ 0 ∧ up.axisOwner 47 ≠ 7) ∧ up.Open :=
  ⟨by decide +kernel, by decide +kernel, up_open⟩

/-- Repeater 5 at tick `t`: enabled, in quadrature or step format, with a backlog since tick 0. -/
def repeater (back : Int) (last : Option Nat) (en : Bool := true) (t : Nat := 0) (fmt : Bool := false) (dir : Option Nat := none) : State :=
  ticked t (((up.setBit Fld.GLB_POk_CFG_EN 5 en).setBit Fld.GLB_POk_CFG_FMT 5 fmt).setRep 5 { PulseRep.reset with backlog := back, lastOut := last, dirAt := dir })
def enabling : Word := Fld.GLB_POk_CFG_EN.ins 0 1
theorem witness_PulseRepeaters : ((repeater 1 none true 2).Sound ∧ (repeater 1 none true 2).bit Fld.GLB_POk_CFG_EN 5 = true ∧ ((repeater 1 none true 2).rep 5).backlog ≠ 0 ∧
      ((repeater 1 none true 2).rep 5).lastOut = none ∧ ¬ (repeater 1 none true 2).tick < ((repeater 1 none true 2).rep 5).since + 2 ∧
      (repeater 1 none true 2).bit Fld.GLB_POk_CFG_FMT 5 = false ∧ (repeater 1 none true 2 true).bit Fld.GLB_POk_CFG_FMT 5 = true ∧
      ((repeater 1 none true 2 true).rep 5).dirAt = none) ∧
    ((repeater 1 none true 1).tick < ((repeater 1 none true 1).rep 5).since + 2 ∧ (repeater 1 none false).bit Fld.GLB_POk_CFG_EN 5 = false ∧ ((repeater 0 none).rep 5).backlog = 0) ∧
    (((repeater (-1) (some 2) true 6).rep 5).lastOut = some 2 ∧ 6 < 2 + 1 * max 5 ((repeater (-1) (some 2) true 6).fld Fld.GLB_POk_CFG_MINSP 5)) ∧
    (((repeater (-1) none true 6 true (some 2)).rep 5).dirAt = some 2 ∧ 6 < 2 + max 5 ((repeater (-1) none true 6 true (some 2)).fld Fld.GLB_POk_CFG_MINSP 5)) ∧
    ((repeater 0 none false).Open ∧ (repeater 0 none false).bit Fld.GLB_POk_CFG_EN 5 = false ∧ Fld.GLB_POk_CFG_EN.get enabling = 1 ∧
      Fld.GLB_POk_CFG_SRC.get enabling < 48 ∧ 1 ≤ up.fld Fld.GLB_POk_RATIO_M 5 ∧ up.fld Fld.GLB_POk_RATIO_N 5 ≤ up.fld Fld.GLB_POk_RATIO_M 5) ∧
    ((repeater 3 none).Open ∧ Fld.GLB_POk_CFG_EN.get 0 = 0) ∧ 48 ≤ Fld.GLB_POk_CFG_SRC.get (Fld.GLB_POk_CFG_SRC.ins 0 48) ∧
    ¬ 1 ≤ (up.setFld Fld.GLB_POk_RATIO_M 5 0).fld Fld.GLB_POk_RATIO_M 5 ∧
    ((owing (.poSet 5 1 2)).Due (acc (.poSet 5 1 2)) ∧ (5 : BitVec 8).toNat = (5 : PoId).val) :=
  ⟨⟨ticked_sound up_sound.setBit.setBit.setRep, by decide +kernel⟩, by decide +kernel, by decide +kernel, by decide +kernel, ⟨open_of (by decide +kernel), by decide +kernel⟩,
   ⟨open_of (by decide +kernel), by decide⟩, by decide +kernel, by decide +kernel, due_owing _ _, by decide⟩

/-! ## Motion -/

def queued (s : State) (st : AxState) (c : HostCmd) (f : Axis → Axis := id) : State := owing c (axis 47 st f s)
def mvAbs : HostCmd := .moveAbs 47 (-2 ^ 47) 0 0 0 0
theorem witness_MovesQueued : ((queued up .run mvAbs).Sound ∧ (queued up .run mvAbs).Due (acc mvAbs (axis 47 .run)) ∧ (queued up .run mvAbs).axState 47 = .run ∧
      (queued up .run mvAbs).axMode 47 ≠ 3 ∧ ((queued up .run mvAbs).ax 47).framed = false ∧ ((queued up .run mvAbs).motion 47).queue = []) ∧
    (((queued up .run mvAbs fun x => { x with framed := true }).ax 47).framed = true ∧ (queued up .run mvAbs fun x => { x with framed := true }).positionLoopFrame 47 0 = true) ∧
    (queued up .hold mvAbs).axState 47 ≠ .run ∧
    ((queued (up.setFld Fld.AX_CFG_MODE 47 3) .run mvAbs).axMode 47 = 3 ∧ ((queued (up.setFld Fld.AX_CFG_MODE 47 3) .run mvAbs).setBit Fld.AX_MSTAT_POS_UNK 47 true).bit
      Fld.AX_MSTAT_POS_UNK 47 = true) :=
  ⟨⟨owing_sound (axis_sound up_sound), due_owing _ _, by decide +kernel⟩, by decide +kernel⟩

/-- The step timer at its instant: with an entry of the ring that is valid, one that halts, and none. -/
def stepping (w : Nat) (t : Nat) : State :=
  ticked t ((axis 47 .run fun x => { x with win := Mem.store [] 0xF3C 4 w }).setMotion 47 { AxMot.reset with stepNext := some 7, rdIdx := 15 })
theorem stepping_sound {w t : Nat} : (stepping w t).Sound :=
  ticked_sound (axis_sound up_sound fun x hx => by
    simp only [Axis.sound, Bool.and_eq_true] at hx ⊢
    exact ⟨⟨Mem.wf_store (by rfl), hx.1.2⟩, hx.2⟩).setMotion
def edged (caps : List (Nat × BitVec 48)) (n : Nat := 0) : State :=
  func 0 (fun f => { f with comps := List.replicate n ⟨src0, 6, 0, 0, 0, [47], false⟩ }) (up.setMotion 47 { AxMot.reset with caps := caps, latches := Vector.replicate 2 { LatchUnit.reset with edges := [⟨5, false, 3, false, src0, 0⟩] } })
theorem witness_StepsAndLatches : ((stepping (2 ^ 31 + 2 ^ 28 + 25) 7).Sound ∧ ((stepping (2 ^ 31 + 2 ^ 28 + 25) 7).motion 47).stepNext = some 7 ∧
      7 ≤ (stepping (2 ^ 31 + 2 ^ 28 + 25) 7).tick ∧ (Mem.load ((stepping (2 ^ 31 + 2 ^ 28 + 25) 7).ax 47).win (0xF00 + 4 * 15) 4).testBit 31 = true ∧
      (Mem.load ((stepping (2 ^ 31 + 2 ^ 28 + 25) 7).ax 47).win (0xF00 + 4 * 15) 4).testBit 29 = false) ∧
    (Mem.load ((stepping (2 ^ 31 + 2 ^ 29) 7).ax 47).win 0xF3C 4).testBit 29 = true ∧ (Mem.load ((stepping 0 7).ax 47).win 0xF3C 4).testBit 31 = false ∧
    (stepping 0 6).tick < 7 ∧
    ((owing (.latchArm 47 1 3 1 2 0)).Due (acc (.latchArm 47 1 3 1 2 0)) ∧ ((up.motion 47).latches[(1 : Fin 2)]).edges = []) ∧
    (((edged [(4, 0)]).motion 47).latches[(1 : Fin 2)].edges = [⟨5, false, 3, false, src0, 0⟩] ∧ capsAt256 5 ((edged [(4, 0)]).motion 47).caps = none) ∧
    (capsAt256 5 ((edged [(5, 1), (4, 0)]).motion 47).caps = some 256 ∧ (edged [(5, 1), (4, 0)] 15).latchWaiting 47 < 16) ∧ 16 ≤ (edged [(5, 1), (4, 0)] 16).latchWaiting 47 :=
  ⟨⟨stepping_sound, by decide +kernel⟩, by decide +kernel, by decide +kernel, by decide +kernel, ⟨due_owing _ _, by decide +kernel⟩, by decide +kernel⟩

def shaft (role : Nat) (t : Nat := 0) : State := ticked t (up.setFld Fld.GLB_SHAFT_CFG_ROLE 0 role)
theorem witness_LineShaft : up.Sound ∧ up.shaftRole = 0 ∧ ((shaft 1).shaftRole ≠ 0 ∧ (shaft 1).shaftAccepts (List.replicate 32 0) = true ∧
      (shaft 1).shaftAccepts (1 :: List.replicate 31 0) = false) ∧
    ((shaft 1 125000).shaftRole ≠ 0 ∧ 250000 % 250000 = 0 ∧ (shaft 1 125000).shaft.judged < 250000 ∧ 250000 + (shaft 1 125000).shaftAge ≤ (shaft 1 125000).now ∧
      (∀ k ∈ (shaft 1 125000).shaft.table, k.dt ≠ 250000) ∧ min ((shaft 1 125000).fld Fld.GLB_SHAFT_STAT_MISS + 1) (2 ^ Fld.GLB_SHAFT_STAT_MISS.width - 1) ≠ (shaft 1 125000).shaftLossN) ∧
    ((shaft 1).setFld Fld.GLB_SHAFT_STAT_MISS 0 7).fld Fld.GLB_SHAFT_STAT_MISS + 1 = (shaft 1).shaftLossN ∧
    ((shaft 2).shaftRole = 2 ∧ (shaft 2).now % 250000 < 4 ∧ (shaft 2).fld Fld.GLB_SHAFT_CFG_SRC_AX = (0 : AxId).val ∧ ∀ o, (shaft 2).portTaken o = false) :=
  ⟨up_sound, by decide +kernel⟩

/-! ## Rings and functions -/

/-- Function 0 with its rings active and bus mastering on. -/
def ringed (f : Func → Func := id) : State :=
  (allFin 6).foldl (fun s r => s.setRingState 0 r .active) (func 0 fun x => f { x with busMaster := true })
theorem foldl_sound {l : List RingId} {fn : FnId} {st : RingState} {s : State} (h : s.Sound) :
    (l.foldl (fun s r => s.setRingState fn r st) s).Sound := by
  induction l generalizing s with
  | nil => exact h
  | cons r l ih => exact ih h.setFld
theorem ringed_sound {f : Func → Func} : (ringed f).Sound := foldl_sound (func_sound up_sound)
theorem witness_Doorbells : ringed.Sound ∧ ringed.legsHeld = false ∧ up.ringState 7 5 ≠ .active ∧ ringed.ringState 0 0 = .active ∧
    ((16 : Word) - (ringed.ring 0 0).hostIdx).toNat ≤ 2 ^ min 16 (max 4 (ringed.fld Fld.HIF_RING_CFG_LOG2 0)) ∧
    ¬ ((17 : Word) - (ringed.ring 0 0).hostIdx).toNat ≤ 2 ^ min 16 (max 4 (ringed.fld Fld.HIF_RING_CFG_LOG2 0)) ∧
    (((0 : Word) - (ringed.ring 0 5).hostIdx).toNat = 0 ∧ ((ringed.ring 0 5).devIdx - 0).toNat = 0) :=
  ⟨ringed_sound, by decide +kernel⟩

def comp0 (code : BitVec 8) : Comp := ⟨src0, code, 0, 0, 0, padTo 15 [], true⟩
def ev0 : EvRec := ⟨0x0005, List.replicate 28 0⟩
def vec0 (k : Nat) : State := ringed fun f => { f with vecs := Vector.replicate 16 ⟨k, 0, none⟩ }
def desc0 (seq code : Nat) (e : Nat := 0) : List Byte := leBytes 4 seq ++ leBytes 2 code ++ leBytes 2 (if e = 0 then 1 else 0) ++ leBytes 8 e ++ List.replicate 48 0
def fetching : State := (ringed fun f => { f with rings := f.rings.set 0 ⟨1, 0, true⟩ }).setFld Fld.HIF_QOS0_RATE 0 1
theorem fetching_sound : fetching.Sound := ringed_sound.setFld
theorem witness_RingsAndAdmission : (up.Sound ∧ up.legsHeld = false ∧ Fld.HIF_RING_CFG_EN.get (Fld.HIF_RING_CFG_EN.ins 0 1) = 1 ∧ up.fnState 0 = .ready ∧ up.ringState 0 5 = .disabled ∧
      (up.word .HIF_RING_BASE_LO 0 5).toNat % 4096 = 0) ∧ ((up.setWord .HIF_RING_BASE_LO 0 5 0x800).word .HIF_RING_BASE_LO 0 5).toNat % 4096 ≠ 0 ∧
    (ringed.ringState 0 5 ≠ .disabled ∧ Fld.HIF_RING_CFG_EN.get 0 = 0) ∧
    ((ringed fun f => { f with comps := [comp0 3] }).ringState 0 4 = .active ∧ (comp0 3).isLatch = false ∧ 0 < (ringed fun f => { f with comps := [comp0 3] }).ringFree 0 4 ∧
      ((ringed fun f => { f with comps := [comp0 3] }).fn 0).busMaster = true) ∧
    ((comp0 6).isLatch = true ∧ (ringed fun f => { f with comps := [comp0 6], rings := f.rings.set 4 ⟨0, 16, true⟩ }).ringFree 0 4 ≤
      (ringed fun f => { f with comps := [comp0 6], rings := f.rings.set 4 ⟨0, 16, true⟩ }).reserved 0) ∧
    ((ringed fun f => { f with evq := [ev0] }).ringState 0 5 = .active ∧ ((ringed fun f => { f with evq := [ev0] }).fn 0).evDropped = 0 ∧ ev0.payload.length = 28 ∧
      0 < (ringed fun f => { f with evq := [ev0] }).ringFree 0 5 ∧ (ringed fun f => { f with evq := [ev0], rings := f.rings.set 5 ⟨0, 16, true⟩ }).ringFree 0 5 < ev0.parts) ∧
    ((ringed fun f => { f with evq := [ev0], evDropped := 1 }).fn 0).evDropped ≠ 0 ∧
    (0 < ((vec0 1).fn 0).vecs[(15 : Fin 16)].pendingEntries ∧ max 1 ((vec0 1).fld Fld.HIF_VMOD_v_CNT 0 15) ≤ 1 ∧ (∀ u : Fin 16, (((vec0 1).fn 0).vecs[u]).lastMsg = none) ∧
      (vec0 1).pwr.phase ≠ .powerDown ∧
      (vec0 1).vecMasked 0 15 = true ∧ ((vec0 0).fn 0).vecs[(15 : Fin 16)].pendingEntries = 0) := by
  refine ⟨⟨up_sound, by decide +kernel⟩, by decide +kernel⟩
theorem witness_RingsAndAdmission_fetch : fetching.Sound ∧ (desc0 1 0x20).length = 64 ∧ fetching.canFetch 0 0 = true ∧ fetching.fetchTurn 0 = true ∧ up.canFetch 0 0 = false ∧
    BitVec.ofNat 32 (leAt (desc0 1 0x20) 0 4) = fetching.word .HIF_RING_SEQ 0 0 + 1 ∧ BitVec.ofNat 32 (leAt (desc0 2 0x20) 0 4) ≠ fetching.word .HIF_RING_SEQ 0 0 + 1 ∧
    checkOne (desc0 1 0x7F) = .inl 4 ∧ checkOne (desc0 1 0x20) = .inr .snapshot ∧ checkOne (desc0 1 0x02) = .inr .axisHold ∧
    (fetching.setFld Fld.HIF_OWNF_AXi_OWN 0 1).checkTwo 0 .axisHold (desc0 1 0x02) [] = some 0x10 ∧
    fetching.checkThree .snapshot (desc0 1 0x20 (2 ^ 40)) [] = some 8 ∧
    (fetching.checkThree .snapshot (desc0 1 0x20 39999) [] = none ∧ fetching.execTime (desc0 1 0x20 39999) < fetching.now + 40000) ∧
    fetching.failedCheck ⟨0, 0, 1⟩ .snapshot (desc0 1 0x20) [] = none :=
  ⟨fetching_sound, by decide +kernel⟩
def reset7 (due : Nat) : State := ticked 1024 (func 7 (fun f => { f with zeroDue := due, comps := [comp0 4], vanish := true }) (up.setFld Fld.HIF_FSTAT_FSTATE 7 FnState.resetting.code))
def staged : State := (up.setWord .HIF_OWN_AXi 5 0 0x70000000).setFld Fld.HIF_FSTAT_FSTATE 7 FnState.ready.code
def turned (due : Nat) (rest : List OwnChange := []) : State := { up with tick := 5, ownChanges := ⟨.axis 47, 7, due⟩ :: rest }
theorem witness_FunctionsAndOwners : (up.Sound ∧ up.legsHeld = false ∧ up.fnState 0 = .ready ∧ Fld.HIF_FCTL_FRST.get (Fld.HIF_FCTL_FRST.ins 0 1) = 1 ∧
      up.fnState 7 = .absent) ∧
    ((reset7 1024).Sound ∧ (reset7 1024).fnState 7 = .resetting ∧ ((reset7 1024).fn 7).zeroDue ≤ (reset7 1024).tick ∧ (reset7 1024).stopsWait 7 = false ∧ (reset7 1024).compOpen 7 = false) ∧
    (reset7 1025).tick < ((reset7 1025).fn 7).zeroDue ∧ up.bit Fld.HIF_OWN_CTL_BUSY = false ∧
    (staged.stagedOwner (.axis 47) = 7 ∧ staged.ownerOf (.axis 47) = 0 ∧ staged.ownCheck [.axis 47] = none) ∧
    (axis 47 .idle id staged).ownCheck [.axis 47] = some 1 ∧
    ((staged.setFld Fld.HIF_FSTAT_FSTATE 7 FnState.resetting.code).fnState (staged.stagedOwner (.axis 47)) = .resetting) ∧
    ((turned 5).Sound ∧ (turned 5).ownChanges = [⟨.axis 47, 7, 5⟩] ∧ (7 : BitVec 4).toNat < 8 ∧ 5 ≤ (turned 5).tick ∧ (turned 6).tick < 6) ∧
    (∀ k ∈ (turned 5 [⟨.can 3, 1, 9⟩]).ownChanges.tail, k.res ≠ .axis 47) :=
  ⟨⟨up_sound, by decide +kernel⟩, ⟨ticked_sound (func_sound up_sound.setFld), by decide +kernel⟩, by decide +kernel, by decide +kernel, by decide +kernel,
   by decide +kernel, by decide +kernel, ⟨State.Sound.upd (s := up) up_sound, by decide +kernel⟩, by decide +kernel⟩
/-- The staged list of resources holds the one whose staged owner differs. -/
theorem witness_FunctionsAndOwners_staged : Res.axis 47 ∈ staged.ownStaged :=
  List.mem_filter.mpr ⟨by decide, by decide +kernel⟩
theorem witness_RingsAndAdmission_unmasked : ((vec0 1).setWord .HIF_MSIX_TAB 0 63 0).vecMasked 0 15 = false := by decide +kernel

/-! ## Time and network -/

def timed (st : TimeState) (m2412 : Bool := false) (t : TimeBase := .reset) : State :=
  let s := (up.setFld Fld.TB_QUAL_STATE 0 st.code).setBit Fld.TB_CFG_AUTO 0 false
  { (if m2412 then s.setBit Fld.TB_CFG_MODE 0 true else s) with time := t }
theorem timed_sound {st : TimeState} {t : TimeBase} : (timed st false t).Sound :=
  State.Sound.upd (s := (up.setFld Fld.TB_QUAL_STATE 0 st.code).setBit Fld.TB_CFG_AUTO 0 false) up_sound.setFld.setBit
theorem witness_TimeSamples : ((timed .free).Sound ∧ (timed .free).bit Fld.TB_CFG_AUTO = false ∧ (timed .free).selDomain = 0 ∧ (timed .free).domInForce = 0 ∧
      (timed .free).mode2412 = false ∧ ((-1000 : Int)).natAbs ≤ ((timed .free).stepTh).natAbs ∧ ¬ (1001 : Int).natAbs ≤ ((timed .free).stepTh).natAbs ∧
      (timed .free).timeState = .free ∧ (timed .free).bit Fld.TB_CFG_STEP_EN = true ∧ (timed .free).setAllowed = true) ∧
    ((timed .locking false { TimeBase.reset with lockRun := 7 }).timeState = .locking ∧ (timed .slewing).timeState = .slewing) ∧
    (1 ≤ ((timed .free).setDom 0 { TimeDom.reset with validRun := 1 } |>.dom 0).validRun) ∧
    ((timed .locked true { TimeBase.reset with refusals := 2 }).mode2412 = true ∧ (timed .locked true).timeState = .locked ∧ (timed .locked true).selDomain = 0 ∧ (timed .locked true).domInForce = 0) ∧
    (((timed .free).setBit Fld.NET_PTP_GM0 0 true).bit Fld.NET_PTP_GM0 = true ∧ (timed .free).bit Fld.NET_PTP_GM0 = false) ∧
    (((ticked 750000000 (timed .locked)).dom 0).gm = false ∧ ((ticked 750000000 (timed .locked)).dom 0).lost = false ∧
      ((ticked 750000000 (timed .locked)).dom 0).lastTick + (ticked 750000000 (timed .locked)).syncLoss ≤ 750000000) :=
  ⟨⟨timed_sound, by decide +kernel⟩, by decide +kernel⟩

theorem witness_DeviceTime : (up.Sound ∧ up.Open ∧ up.setAllowed = true ∧ (owing .snapshot).setAllowed = false) ∧
    ((owing .timeAccept (timed .locked true)).Due (acc .timeAccept (timed .locked true)) ∧ (owing .timeAccept (timed .locked true)).mode2412 = true ∧
      ((owing .timeAccept (timed .locked true)).setBit Fld.TB_QUAL_JUMP_PEND 0 true).bit Fld.TB_QUAL_JUMP_PEND = true ∧ (owing .timeAccept (timed .locked true)).bit Fld.TB_QUAL_JUMP_PEND = false) ∧
    (4 ≤ (ticked 1 up).now % 1000000 ∧ (ticked 250000 up).now % 1000000 < 4 ∧ (timed .holdover).timeState = .holdover ∧ (timed .slewing).timeState = .slewing) ∧
    ((up.setBit Fld.TB_TPO_EN 0 true).bit Fld.TB_TPO_EN = true ∧ ((up.setBit Fld.TB_TPO_EN 0 true).setBit Fld.TB_TPO_FREE_RUN 0 true).bit Fld.TB_TPO_FREE_RUN = true ∧
      up.time.tpoHigh = none ∧ up.now % up.tpoPeriod < 4 ∧ 4 ≤ (ticked 1 up).now % (ticked 1 up).tpoPeriod) :=
  ⟨⟨up_sound, up_open, by decide +kernel⟩, ⟨due_owing _ _, by decide +kernel⟩, by decide +kernel, by decide +kernel⟩

def linked : State := func 0 (fun f => { f with busMaster := true })
  (((((up.setBit Fld.NET_PORTp_CFG_EN 0 true).setBit Fld.NET_PORTp_CFG_LINK 0 true).setBit Fld.NET_PORTp_CFG_EN 1 true).setBit Fld.NET_PORTp_CFG_LINK 1 true).setBit Fld.NET_RXB_CFG_EN 0 true)
theorem linked_sound : linked.Sound := func_sound up_sound.setBit.setBit.setBit.setBit.setBit
def toUs : EthFrame := { frame0 with da := up.netMac }
def unicast : EthFrame := { frame0 with da := 0x000000000002, sa := 0x000000000004 }
theorem witness_LinksAndFrames : (linked.Sound ∧ up.portUp 0 = false ∧ linked.portUp 0 = true ∧ linked.portUp (otherPort 0) = true ∧ (linked.port 1).wait = [] ∧
      (linked.port 1).busy ≤ linked.tick ∧ (linked.learn unicast.sa 0).mayStart 1 ⟨0, unicast, none, false⟩ = true ∧ linked.fdbLookup unicast.da ≠ some 0 ∧
      linked.tick < ((linked.setPort 1 { LinePort.reset with busy := 1 }).port 1).busy) ∧
    (64 ≤ wireLen unicast ∧ wireLen unicast ≤ 1522 ∧ wireLen { unicast with payload := List.replicate 1504 0 } ≤ 1522 ∧ isPause unicast = false ∧ isGptp unicast = false ∧
      linked.isShaft unicast = false ∧ unicast.fcsOk = true ∧ unicast.da ≠ linked.netMac ∧ isGroup unicast.da = false ∧ unicast.da ≠ unicast.sa ∧
      isGroup unicast.sa = false ∧ unicast.sa ≠ linked.netMac ∧ (linked.fdb.filter fun e => e.mac != unicast.sa).length < 1024) ∧
    (toUs.da = linked.netMac ∧ linked.bit Fld.NET_RXB_CFG_EN = true ∧ linked.bit Fld.NET_RXB_CFG_NOTE = false ∧ (linked.fn 0).busMaster = true ∧ linked.rx.drops = 0 ∧
      16 + ((frameBytes toUs).length + 15) / 16 * 16 ≤ 2 ^ 4 * 1024) ∧
    ((up.setFld Fld.NET_FDB_AGE_S 0 0).fld Fld.NET_FDB_AGE_S = 0 ∧ (up.setFld Fld.NET_FDB_AGE_S 0 1).fld Fld.NET_FDB_AGE_S ≠ 0) :=
  ⟨⟨linked_sound, by decide +kernel⟩, by decide +kernel⟩

def gcl0 : GclSet := ⟨true, 1, 0, 1000000⟩
def gated (f : LinePort → LinePort) (t : Nat := 0) : State := ticked t (linked.setPort 0 (f (linked.port 0)))
def frame60 : List Byte := List.replicate 60 0
def lf0 : TxFrame := ⟨src0, frame60, 0, false, [], []⟩
def sendq (lt : Bool) (f : TxFrame := lf0) (g : BitVec 8 := 0xFF) (t : Nat := 0) : State :=
  ticked t ((((linked.setFld Fld.NET_TXQq_CFG_PORTS 15 1).setBit Fld.NET_TXQq_CFG_LT_EN 15 lt).setPort 0 { LinePort.reset with gates := g }).setTxq 15 ⟨[f]⟩)
def sentAt (e : Nat) : TxFrame := { lf0 with joined := true, sent := [⟨0, e, false⟩] }
def netted (s : State) : State := owing (.netTx 15 frame60) s
theorem witness_GatesAndQueues : (linked.Sound ∧ linked.Open ∧ Fld.NET_GCLp_CTL_COMMIT.get (Fld.NET_GCLp_CTL_COMMIT.ins 0 1) = 1 ∧ linked.bit Fld.NET_GCLp_CTL_PEND 0 = false ∧
      (linked.setBit Fld.NET_GCLp_CTL_PEND 0 true).bit Fld.NET_GCLp_CTL_PEND 0 = true) ∧
    (((gated (fun x => { x with change := some (40, gcl0) }) 10).port 0).change = some (40, gcl0) ∧ 40 ≤ (gated (fun x => { x with change := some (40, gcl0) }) 10).now ∧
      (gated (fun x => { x with change := some (40, gcl0) }) 9).now < 40 ∧ (linked.port 0).change = none) ∧
    ((linked.port 0).operSet.on = false ∧ ((gated fun x => { x with operSet := gcl0, oper := [⟨1, 1000⟩] }).port 0).operSet.on = true ∧
      ((gated fun x => { x with operSet := gcl0, oper := [⟨1, 1000⟩] }).port 0).curEnd ≤ (gated fun x => { x with operSet := gcl0, oper := [⟨1, 1000⟩] }).now ∧ (linked.port 0).wait = []) ∧
    ((netted linked).Due (acc (.netTx 15 frame60) linked) ∧ (15 : BitVec 8).toNat = (15 : TxqId).val ∧ (linked.txq 15).frames = []) ∧
    ((netted (sendq false)).launches 15 = false ∧ (netted (sendq false)).egress 15 ((netted (sendq false)).queueFrame 15 frame60) = [0] ∧ (netted (sendq false)).portUp 0 = true ∧
      ((netted (sendq false)).port 0).wait = [] ∧ ((netted (sendq false)).port 0).busy ≤ (netted (sendq false)).tick ∧
      (netted (sendq false)).mayStart 0 ⟨(netted (sendq false)).queueClass 15 ((netted (sendq false)).queueFrame 15 frame60), (netted (sendq false)).queueFrame 15 frame60,
        some (15, src0), false⟩ = true) ∧
    ((netted up).egress 15 ((netted up).queueFrame 15 frame60) = [] ∧ (netted up).launches 15 = false) ∧
    (((sendq true).txq 15).frames = [lf0] ∧ (sendq true).launches 15 = true ∧ (sendq true).egress 15 ((sendq true).queueFrame 15 frame60) = [0] ∧
      (sendq true).portUp 0 = true ∧ (sendq true).portHeld 15 0 0 = false ∧ (sendq true lf0 0xFF 2).now ≤ 0 + 8 ∧ 0 + 8 < (sendq true lf0 0xFF 3).now ∧
      ((sendq true).port 0).busy ≤ (sendq true).tick + 2 ∧ ((sendq true).port 0).wait = [] ∧
      ((sendq true).port 0).gates.getLsbD ((sendq true).queueClass 15 ((sendq true).queueFrame 15 frame60)) = true ∧
      (sendq true).gateAdmits 0 ((sendq true).queueClass 15 ((sendq true).queueFrame 15 frame60)) 0 ((sendq true).queueFrame 15 frame60) = true ∧
      ((sendq true lf0 0).port 0).gates.getLsbD ((sendq true lf0 0).queueClass 15 ((sendq true lf0 0).queueFrame 15 frame60)) = false ∧
      (sendq true lf0 0).bit Fld.NET_TXQq_CFG_LATE_POL 15 = false) ∧
    (((sendq true { lf0 with d := 1 }).txq 15).frames = [{ lf0 with d := 1 }] ∧ (sendq true { lf0 with d := 1 }).now < 1) ∧
    (((sendq true (sentAt 7) 0xFF 7).txq 15).frames = [sentAt 7] ∧ (sentAt 7).joined = true ∧ (sentAt 7).todo = [] ∧ (⟨0, 7, false⟩ : TxSent) ∈ (sentAt 7).sent ∧
      (∀ z ∈ (sentAt 7).sent, z.ends ≤ (sendq true (sentAt 7) 0xFF 7).tick ∧ (0 : PortId) ≤ z.port ∧ (z.port = 0 → z = ⟨0, 7, false⟩)) ∧ (sendq true (sentAt 7) 0xFF 6).tick < 7) :=
  ⟨⟨linked_sound, open_of (by decide +kernel), by decide +kernel⟩, by decide +kernel, by decide +kernel, ⟨due_owing _ _, by decide +kernel⟩, by decide +kernel, by decide +kernel,
   by decide +kernel, by decide +kernel, by decide +kernel⟩

/-! ## CAN and field I/O -/

def canIn (mode : Nat) (x : Can := .reset) (s : State := up) : State := (s.setFld Fld.CAN_STAT_MODE 3 mode).setCan 3 x
def busOff (e : Nat) (x : Can := .reset) : State := (canIn 1 x).setFld Fld.CAN_STAT_ESTATE 3 e
def ent0 : CanTxEnt := ⟨src0, can0, 1, 0⟩
theorem witness_CanFrames : ((owing (.canTx 3 0 0 0 []) (canIn 1)).Sound ∧ (owing (.canTx 3 0 0 0 []) (canIn 1)).Due (acc (.canTx 3 0 0 0 []) (canIn 1)) ∧
      (3 : BitVec 8).toNat = (3 : CanId).val ∧ (owing (.canTx 3 0 0 0 []) (canIn 1)).canBusOff 3 = false) ∧ (busOff 2).canBusOff 3 = true ∧
    ((canIn 1 { Can.reset with txBuf := [ent0] }).canModeNow 3 = 1 ∧ (canIn 4 { Can.reset with txBuf := [ent0] }).canModeNow 3 = 4 ∧ (canIn 1).fld Fld.CAN_ECNT_TEC 3 ≤ 255 ∧
      ((canIn 1).can 3).orphan = none ∧ bestFrame [ent0] 0 = some ent0 ∧ (canIn 1).fld Fld.CAN_CFG_RETRY 3 = 0 ∧ ((canIn 1).setFld Fld.CAN_CFG_RETRY 3 1).fld Fld.CAN_CFG_RETRY 3 ≤ ent0.attempts) ∧
    (255 < ((canIn 1).setFld Fld.CAN_ECNT_TEC 3 255).fld Fld.CAN_ECNT_TEC 3 + 8) ∧
    ((canIn 2).canModeNow 3 = 2 ∧ (can0.fdf = true → (canIn 2).bit Fld.CAN_CFG_FD_EN 3 = true) ∧ (canIn 0).canModeNow 3 = 0 ∧ (canIn 1).fld Fld.CAN_ECNT_REC 3 ≤ 127) ∧
    (((canIn 1 { Can.reset with rxFifo := [⟨can0, 0, 0, false⟩] } (func 0 fun f => { f with busMaster := true })).setBit Fld.CAN_RXB_CFG_EN 3 true).bit Fld.CAN_RXB_CFG_EN 3 = true ∧
      ((canIn 1 .reset (func 0 fun f => { f with busMaster := true })).fn ((canIn 1 .reset (func 0 fun f => { f with busMaster := true })).canOwner 3)).busMaster = true) :=
  ⟨⟨owing_sound up_sound.setFld.setCan, due_owing _ _, by decide, by decide +kernel⟩, by decide +kernel⟩
theorem witness_CanFrames_filter : ((canIn 1).setBit Fld.CAN_CFG_NM_STD 3 true).canFilter 3 can0 = some 0xFF ∧ ((canIn 1).setBit Fld.CAN_CFG_NM_STD 3 false).canFilter 3 can0 = none := by
  decide +kernel

theorem witness_CanModes : ((owing (.canMode 3 7) (canIn 1)).Sound ∧ (owing (.canMode 3 7) (canIn 1)).Due (acc (.canMode 3 7) (canIn 1)) ∧ (canIn 1).canBusOff 3 = false ∧
      (canIn 1).canModeNow 3 ≠ (7 : BitVec 8).toNat ∧ (canIn 1).canModeNow 3 = (1 : BitVec 8).toNat ∧ ((canIn 1).can 3).wants = []) ∧
    ((owing (.canMode 3 0) (busOff 3)).Due (acc (.canMode 3 0) (busOff 3)) ∧ (busOff 3).fld Fld.CAN_STAT_ESTATE 3 = 3 ∧ ((busOff 3).can 3).recover = []) ∧
    ((canIn 1 { Can.reset with wants := [(src0, 4)] }).can 3).wants = [(src0, 4)] ∧
    ((owing (.canRecover 3) (busOff 2)).Due (acc (.canRecover 3) (busOff 2)) ∧ (busOff 2).fld Fld.CAN_STAT_ESTATE 3 = 2) ∧
    ((busOff 3 { Can.reset with recover := [src0] }).fld Fld.CAN_STAT_ESTATE 3 = 3 ∧ ((busOff 3 { Can.reset with recover := [src0] }).can 3).recover = [src0]) :=
  ⟨⟨owing_sound up_sound.setFld.setCan, due_owing _ _, by decide +kernel⟩, ⟨due_owing _ _, by decide +kernel⟩, by decide +kernel, ⟨due_owing _ _, by decide +kernel⟩, by decide +kernel⟩

def output (f : Dio → Dio := id) (s : State := up) : State := (s.setFld Fld.DIO_CHn_CFG_MODE 47 1).setChan 47 (f (s.chan 47))
def hot (since : Option Nat) (t : Nat) : State := ticked t { up with dio := { FieldIo.reset with overSince := since } }
theorem witness_FieldOutputs : ((owing (.dioSet (2 ^ 47) (2 ^ 47)) output).Sound ∧ (owing (.dioSet (2 ^ 47) (2 ^ 47)) output).Due (acc (.dioSet (2 ^ 47) (2 ^ 47)) output) ∧
      (BitVec.ofNat 48 (2 ^ 47)).getLsbD (47 : DioId).val = true ∧ output.dio.linkTo = false ∧ output.dioMode 47 = 1 ∧ output.dioGang 47 = 0 ∧ output.dio.uv = false ∧
      output.bit Fld.DIO_GSTAT_TOTAL = false ∧ output.dio.shed = false ∧ output.bit Fld.DIO_CHn_STAT_TSD 47 = false) ∧ up.dioMode 47 = 0 ∧
    (hot (some 0) 1250000).tick = 0 + 1250000 ∧ (hot (some 0) 1249999).tick < 0 + 1250000 ∧ (up.Open ∧ up.pwr.phase = .ready) ∧
    ((ticked 25000000 up).dio.linkTo = false ∧ (ticked 25000000 up).dio.lastRefresh + (ticked 25000000 up).dioTmo ≤ 25000000 ∧ (ticked 24999999 up).tick < 0 + (ticked 24999999 up).dioTmo) ∧
    ((output fun x => { x with cmdDue := some 0 }).dioMode 47 = 1 ∧ ((output fun x => { x with cmdDue := some 0 }).setBit Fld.DIO_CHn_CFG_WD_CMD 47 true).bit Fld.DIO_CHn_CFG_WD_CMD 47 = true ∧
      output.bit Fld.DIO_CHn_STAT_SAFE_ACT 47 = false ∧ output.fld Fld.DIO_CHn_CFG_SAFE 47 = 0) ∧
    (up.dio.uv ≠ true ∧ up.dio.uv = false) ∧
    (Fld.DIO_CHn_CFG_GANG.get (Fld.DIO_CHn_CFG_MODE.ins 0 2) = 0 ∧ Fld.DIO_CHn_CFG_MODE.get (Fld.DIO_CHn_CFG_MODE.ins 0 2) = 2 ∧ Fld.DIO_CHn_CFG_SAFE.get 0 ≠ 3 ∧
      Fld.DIO_CHn_CFG_MODE.get 0 ≠ output.dioMode 47 ∧ ((output fun x => { x with driven := true }).chan 47).driven = true ∧ output.dioSetWaits 47 = false) :=
  ⟨⟨owing_sound up_sound.setFld.setChan, due_owing _ _, by decide +kernel⟩, by decide +kernel, by decide +kernel, by decide +kernel, ⟨up_open, by decide +kernel⟩, by decide +kernel⟩

def input (t : Nat) (s : State := up) : State := ticked t (s.setChan 47 { Dio.reset with comp := true, runFrom := some 0 })
theorem witness_FieldInputs : (up.Sound ∧ (up.chan 47).comp = false ∧ (up.chan 47).comp ≠ true) ∧
    ((input 5000 (up.setFld Fld.DIO_CHn_CFG_FILT 47 1)).dioMode 47 = 0 ∧ ((input 5000 (up.setFld Fld.DIO_CHn_CFG_FILT 47 1)).chan 47).runFrom = some 0 ∧
      0 + 5000 * (input 5000 (up.setFld Fld.DIO_CHn_CFG_FILT 47 1)).fld Fld.DIO_CHn_CFG_FILT 47 ≤ 5000 ∧ (input 0).dio.uv = false ∧ ((input 0).chan 47).stamps.length < 8) ∧
    (4999 < 0 + 5000 * (input 4999 (up.setFld Fld.DIO_CHn_CFG_FILT 47 1)).fld Fld.DIO_CHn_CFG_FILT 47) ∧
    ((up.setBit Fld.DIO_CHn_CFG_NOTE 47 true).bit Fld.DIO_CHn_CFG_NOTE 47 = true ∧ (up.fn (up.dioOwner 47)).evEntries < 64) ∧
    ((output (fun x => { x with driven := true }) (up.setBit Fld.DIO_CHn_CFG_WB_EN 47 true)).dioMode 47 ≠ 0 ∧
      (output (fun x => { x with driven := true }) (up.setBit Fld.DIO_CHn_CFG_WB_EN 47 true)).bit Fld.DIO_CHn_CFG_WB_EN 47 = true ∧ output.bit Fld.DIO_CHn_STAT_OPEN 47 ≠ true) ∧
    ((up.setBit Fld.DIO_CHn_CFG_WB_EN 47 true).bit Fld.DIO_CHn_CFG_WB_EN 47 ≠ false ∧ up.bit Fld.DIO_CHn_STAT_BREAK 47 ≠ true) :=
  ⟨⟨up_sound, by decide +kernel⟩, by decide +kernel⟩

/-! ## Safety -/

/-- A parameter set in format and range: a pair 0 of two contacts, that group 0 takes as its demand, and every bound at an end of its range. -/
def goodBytes (grp0 : List Byte) : List Byte :=
  [0x53, 0x50, 0x41, 0x31, 1, 0] ++ List.replicate 10 0 ++ [1, 1, 0, 0, 10, 0, 0, 0] ++ (List.replicate 3 ([0, 0, 0, 0, 10, 0, 0, 0] : List Byte)).flatten ++
    [10, 0, 100, 0] ++ List.replicate 12 0 ++ grp0 ++ (List.replicate 7 (List.replicate 14 0 ++ ([10, 0, 1, 0, 1, 0, 0, 0, 0, 0] : List Byte))).flatten ++
    List.replicate 768 0 ++ [0, 0, 0, 0, 2, 0, 1, 0] ++ List.replicate 12 0 ++ [1, 0, 2, 0] ++ List.replicate 8 0
def grpBytes (ss1 : Byte) : List Byte := [1, 0, 0, 0, 0, 0, 0, 0, 1, ss1] ++ List.replicate 4 0 ++ [10, 0, 1, 0, 1, 0, 0, 0, 0, 0]
def safe (ss1 : Byte) (f : Safety → Safety) (t : Nat := 0) : State :=
  { ticked t (up.setBit Fld.SAF_STAT_HOLD_ALL 0 false) with saf := f { Safety.reset with params := goodBytes (grpBytes ss1), groups := Vector.replicate 8 { SafGroup.reset with st := .none } } }
theorem safe_sound {b : Byte} {f : Safety → Safety} {t : Nat} : (safe b f t).Sound :=
  State.Sound.upd (s := ticked t (up.setBit Fld.SAF_STAT_HOLD_ALL 0 false)) (ticked_sound up_sound.setBit)
theorem witness_SafetyParameters_set : setFormatOk (goodBytes (grpBytes 1)) = true ∧ setRangesOk (goodBytes (grpBytes 1)) = true ∧ setFormatOk [] = false ∧
    setFormatOk (goodBytes (grpBytes 2)) = true ∧ setRangesOk (goodBytes (grpBytes 2)) = false := by decide +kernel
def disc (t : Nat) : State := safe 0 (fun x => { x with ins := x.ins.set 0 { SafeIn.reset with discSince := some 0, b := true } }) t
/-- Pair 0 with its contact a closed. -/
def closed0 (t : Nat) : State := safe 0 (fun x => { x with ins := x.ins.set 0 { SafeIn.reset with a := true } }) t
theorem witness_SafetyChannels : ((safe 0 id).Sound ∧ (safe 0 id).pairMode 0 = 1 ∧ ((safe 0 id).saf.ins[(0 : PairId)]).fault = false) ∧
    ((safe 0 fun x => { x with ins := x.ins.set 0 { SafeIn.reset with fault := true, sawDemand := true, b := true } }).saf.ins[(0 : PairId)]).sawDemand = true ∧
    ((safe 0 id).par (0x30 + 4 * (1 : Fin 4).val) 2 = 0 ∧ (safe 0 id).par (0x30 + 4 * (0 : Fin 4).val) 2 ≠ 0 ∧ (safe 0 id).par (0x10 + 8 * (0 : PairId).val + 1) 1 = (0 : Fin 4).val + 1 ∧
      (∀ j, (closed0 0).tpPulsing j = false) ∧ (∃ j, (safe 0 fun x => { x with tpFrom := Vector.replicate 4 (some 0) }).tpPulsing j = true) ∧
      (closed0 0).pairMode 0 = 1 ∧ (demandSides 1 ((closed0 0).saf.ins[(0 : PairId)])).1 ≠ true ∧ ((closed0 0).saf.ins[(0 : PairId)]).fault = false) ∧
    (((disc 2500001).saf.ins[(0 : PairId)]).discSince = some 0 ∧ 0 + 250000 * (disc 2500001).par (0x14 + 8 * (0 : PairId).val) 2 < 2500001 ∧
      2500000 ≤ 0 + 250000 * (disc 2500000).par (0x14 + 8 * (0 : PairId).val) 2) ∧
    ((safe 0 fun x => { x with connUp := true }).saf.connUp = true ∧ (safe 0 fun x => { x with connUp := true }).saf.wdDue ≤ 0 ∧ (safe 0 id).saf.connUp = false) ∧
    ((safe 0 id).channelsRun = true ∧ (safe 0 id).saf.cycleNext ≤ (safe 0 id).tick ∧ (safe 0 id).bit Fld.SAF_STAT_HOLD_ALL = false ∧
      ((safe 0 id).saf.groups[(0 : GrpId)]).st = .none ∧ ((safe 0 id).saf.groups[(0 : GrpId)]).slsViol = false ∧ ((safe 0 id).saf.groups[(0 : GrpId)]).overSls = 0 ∧ (safe 0 id).sourcePair ((safe 0 id).grpDem 0) = true ∧
      (safe 0 id).grpSs1 0 = false ∧ (safe 1 id).grpSs1 0 = true ∧ (safe 0 id).bit Fld.SAF_STAT_CH_FAULT = false) ∧
    (0 + 250000 * (safe 1 id).par (0x4E + 24 * (0 : GrpId).val) 2 ≤ (safe 1 (fun x => { x with groups := x.groups.set 0 { SafGroup.reset with st := .ss1 } }) 2500000).tick ∧
      ((safe 1 (fun x => { x with groups := x.groups.set 0 { SafGroup.reset with st := .ss1 } }) 2500000).saf.groups[(0 : GrpId)]).st = .ss1) :=
  ⟨⟨safe_sound, by decide +kernel⟩, by decide +kernel⟩

def unconf (c : BitVec 32) : State := owing (.safeConfirm c) (safe 0 id)
theorem witness_SafetyParameters : (up.Sound ∧ up.Open ∧ up.bit Fld.SAF_PCTL_BUSY = false ∧ (axis 0 .run).axState 0 = .run) ∧
    ((up.setBit Fld.SAF_PCTL_BUSY 0 true).bit Fld.SAF_PCTL_BUSY = true ∧ up.saf.confStored = none) ∧
    ((unconf (crc32c (goodBytes (grpBytes 0)))).Sound ∧ (unconf (crc32c (goodBytes (grpBytes 0)))).Due (acc (.safeConfirm (crc32c (goodBytes (grpBytes 0)))) (safe 0 id)) ∧
      (safe 0 id).bit Fld.SAF_STAT_CONF = false ∧ (safe 0 id).saf.confWrite = []) ∧
    (crc32c up.saf.params ≠ 1 ∧ (owing (.safeConfirm 1)).Due (acc (.safeConfirm 1))) ∧
    ((up.setBit Fld.SAF_STAT_CONF 0 true).bit Fld.SAF_STAT_CONF = true ∧ up.word .SAF_CONF_VAL = 0) ∧
    ((safe 0 fun x => { x with confWrite := [(src0, crc32c x.params)] }).saf.confWrite = [(src0, crc32c (safe 0 id).saf.params)] ∧ (safe 0 id).saf.params ≠ []) :=
  ⟨⟨up_sound, up_open, by decide +kernel⟩, by decide +kernel, ⟨owing_sound safe_sound, due_owing _ _, by decide +kernel⟩, ⟨by decide +kernel, due_owing _ _⟩, by decide +kernel, rfl, by decide +kernel⟩

/-! ## Profiles, power and reset -/

def coefRec : List Byte := leBytes 2 5 ++ leBytes 2 8 ++ [47, 1, 0, 0] ++ leBytes 4 0x7FFF
def prf : ProfCopy := ⟨7, coefRec⟩
/-- Copies 0 and 2 of profile 3 are intact, and copy 1 too where `all`. -/
def stored (all : Bool) (x : Profiles) : Profiles :=
  { x with copies := x.copies.set 3 #v[prf.bytes 3 0, if all then prf.bytes 3 1 else [], prf.bytes 3 2] }
def flashed (p : Profiles → Profiles) (s : State := up) : State := owing (.profileLoad 3) { s with prof := p Profiles.reset }
def load0 : Load := ⟨none, 0, [], .nothing⟩
theorem flashed_sound {p : Profiles → Profiles} : (flashed p).Sound := owing_sound (State.Sound.upd (s := up) up_sound)
theorem witness_ProfileLoads : ((flashed id).Sound ∧ (flashed id).Due (acc (.profileLoad 3)) ∧ (flashed id).prof.loading = none ∧ (flashed id).prof.queued = [] ∧
      (∀ b, ((flashed id).bnk b).carrier = .stopped) ∧ (flashed id).prof.intact 3 = [] ∧ (flashed id).prof.rewrite = none ∧ (flashed id).prof.storing = none) ∧
    (flashed fun x => { x with loading := some load0 }).prof.loading = some load0 ∧
    (((flashed id (bank 5 fun x => { x with carrier := .running })).bnk 5).carrier = .running ∧
      (∀ n ∈ bankAxes 5, (flashed id (bank 5 fun x => { x with carrier := .running })).axState n = .off)) ∧
    ((flashed (stored true)).prof.intact 3 = [(0, prf), (1, prf), (2, prf)] ∧ (flashed (stored false)).prof.intact 3 = [(0, prf), (2, prf)] ∧ prf.body = coefRec ∧
      coefRange 1 = some (0, 0x7FFF) ∧ (0x7FFF : BitVec 32).toInt ≤ 0x7FFF ∧ prf.gen < 2 ^ 32 ∧ 1 ≤ prf.body.length ∧ prf.body.length ≤ 65504) ∧
    ((flashed fun x => { x with rewrite := some (3, prf) }).prof.rewrite = some (3, prf) ∧ (flashed fun x => x.beginStore 3 coefRec).prof.storing ≠ none) :=
  ⟨⟨flashed_sound, due_of rfl (by decide +kernel), by decide +kernel⟩, by decide +kernel⟩

def phased (p : RunPhase) (t : Nat) (f : Power → Power := id) : State := ticked t { up with pwr := f { Power.reset with phase := p } }
theorem phased_sound {p : RunPhase} {t : Nat} : (phased p t).Sound := ticked_sound (State.Sound.upd (s := up) up_sound)
theorem witness_Resets : (up.Sound ∧ up.awake = true ∧ Fld.PWR_RST_KEY.get 0x5741 = 0x5741 ∧ Fld.PWR_RST_KEY.get 0x5742 ≠ 0x5741 ∧ (phased .porHeld 0).awake = false ∧ (739 : Nat) < 740 ∧ 0 < up.vauxTh) ∧
    ((phased .powerDown 2500000).Sound ∧ (phased .powerDown 2500000).pwr.phase = .powerDown ∧ (phased .powerDown 2500000).pwr.since + 2500000 ≤ (phased .powerDown 2500000).tick ∧
      (phased .powerDown 2499999).tick < 0 + 2500000 ∧ (phased .powerDown 0).pwr.commitDone = false ∧
      (phased .powerDown 0 fun x => { x with commitDone := true }).pwr.commitDone = true) ∧
    ((phased .warmReset 25000).pwr.phase = .warmReset ∧ (phased .warmReset 25000).pwr.since + 25000 ≤ (phased .warmReset 25000).tick ∧ (phased .warmReset 24999).tick < 0 + 25000) ∧
    ((phased .porHeld 500000).pwr.phase = .porHeld ∧ (phased .porHeld 500000).pwr.since + 500000 ≤ (phased .porHeld 500000).tick ∧ (phased .porHeld 499999).tick < 0 + 500000) ∧
    up.pwr.phase ≠ .porHeld :=
  ⟨⟨up_sound, by decide +kernel⟩, ⟨phased_sound, by decide +kernel⟩, by decide +kernel⟩

def plugged (x : Plug) (st : AxState) (t : Nat) : State := ticked t ((axis 47 st id (up.setBit Fld.AX_PLUG_EN 47 true)).setPlug 47 x)
theorem plugged_sound {x : Plug} {st : AxState} {t : Nat} : (plugged x st t).Sound := ticked_sound (axis_sound up_sound.setBit).setPlug
/-- The charger of profile `p` in state `c` at tick `t`, with VAUX present. -/
def charging (p c t : Nat) : State := ticked t ((up.setFld Fld.PWR_BAK_PROF 0 p).setFld Fld.PWR_BAKSTAT_CHG 0 c)
theorem witness_BootAndSupplies : (up.Sound ∧ up.pwr.phase ≠ .booting) ∧
    (State.reset.pwr.phase = .booting ∧ State.reset.prof.loading = none ∧ State.reset.prof.queued = [] ∧ State.reset.slotWhy (State.reset.slot 0) = 0 ∧
      (State.reset.slot 1).version ≤ (State.reset.slot 0).version ∧ (∀ b, (State.reset.bnk b).carrier = .stopped) ∧ ∀ p, State.reset.prof.intact p = []) ∧
    ((phased .booting 0 fun x => { x with slots := #v[Slot.empty, Slot.empty] }).slotWhy ((phased .booting 0 fun x => { x with slots := #v[Slot.empty, Slot.empty] }).slot 0) ≠ 0 ∧
      (phased .booting 0 fun x => { x with slots := #v[Slot.empty, Slot.empty] }).slotWhy ((phased .booting 0 fun x => { x with slots := #v[Slot.empty, Slot.empty] }).slot 1) ≠ 0) ∧
    (up.bit Fld.PWR_STAT_PL_VBAK = false ∧ (up.setBit Fld.PWR_STAT_PL_VBAK 0 true).bit Fld.PWR_STAT_PL_VBAK = true ∧ up.pwr.vauxFrom = none ∧
      (phased .ready 12500000 fun x => { x with vauxFrom := some 0 }).pwr.vauxFrom = some 0 ∧ 0 + 12500000 ≤ (phased .ready 12500000 fun x => { x with vauxFrom := some 0 }).tick ∧
      (phased .ready 12499999 fun x => { x with vauxFrom := some 0 }).tick < 0 + 12500000) ∧
    (0 < (charging 1 5 0).bakProf ∧ (charging 1 5 0).bakProf = 1 ∧ (charging 1 5 0).bit Fld.PWR_STAT_PL_VBAK = false ∧ up.bakProf = 0 ∧
      ((charging 1 2 0).fld Fld.PWR_BAKSTAT_CHG = 2 ∧ 0 < 10 * (charging 1 2 0).ichg) ∧
      ((charging 1 4 15000000000).fld Fld.PWR_BAKSTAT_CHG = 4 ∧ (charging 1 4 15000000000).pwr.vbakAt + 15000000000 ≤ (charging 1 4 15000000000).tick) ∧
      ((charging 1 5 250000).fld Fld.PWR_BAKSTAT_CHG = 5 ∧ (charging 1 5 250000).pwr.vbakAt + 250000 ≤ (charging 1 5 250000).tick ∧ (charging 1 5 249999).tick < 0 + 250000) ∧
      (((charging 1 0 2500000000).setBit Fld.PWR_BAKSTAT_VBAK_ABSENT 0 true).bit Fld.PWR_BAKSTAT_VBAK_ABSENT = true ∧ (charging 1 0 2500000000).fld Fld.PWR_BAKSTAT_CHG = 0 ∧
        (charging 1 0 2500000000).pwr.vbakAt + 2500000000 ≤ (charging 1 0 2500000000).tick) ∧
      (charging 1 3 0).fld Fld.PWR_BAKSTAT_CHG = 3 ∧ (700 : Nat) + 300 < 1001 ∧ (1000 : Nat) ≤ 700 + 300) ∧
    (up.pwr.flogWait = [] ∧ (phased .ready 0 fun x => { x with flogWait := [⟨1, 2, 3, 4⟩] }).pwr.flogWait = [⟨1, 2, 3, 4⟩]) ∧
    ((ticked 2500000 (axis 47 .run (fun x => { x with hallCode := 7 }) ((up.setBit Fld.AX_PLUG_EN 47 true).setBit Fld.AX_PLUG_HALL 47 true))).lossByHall 47 = true ∧
      (plugged { Plug.reset with lowRuns := 255 } .run 0).lossByCurrent 47 = true ∧ (plugged .reset .run 0).lossByCurrent 47 = false ∧
      (plugged .reset .run 0).bit Fld.AX_PLUG_EN 47 = true ∧ (plugged .reset .run 0).axState 47 ≠ .off ∧ (plugged .reset .run 0).axState 47 ≠ .absent) ∧
    ((plugged { Plug.reset with retryDue := some 9 } .absent 9).Sound ∧ ((plugged { Plug.reset with retryDue := some 9 } .absent 9).plug 47).retryDue = some 9 ∧
      (plugged { Plug.reset with retryDue := some 9 } .absent 9).axState 47 = .absent ∧ 9 ≤ (plugged { Plug.reset with retryDue := some 9 } .absent 9).tick ∧
      (plugged { Plug.reset with retryDue := some 9 } .absent 8).tick < 9 ∧ (plugged { Plug.reset with retryDue := some 9 } .absent 9).demandSrc 47 = 0) ∧
    (((plugged { Plug.reset with identFrom := some 0 } .absent 600000).plug 47).identFrom = some 0 ∧ 0 + (plugged { Plug.reset with identFrom := some 0 } .absent 600000).identTicks 47 ≤ 600000 ∧
      599999 < 0 + (plugged { Plug.reset with identFrom := some 0 } .absent 599999).identTicks 47 ∧ ((plugged .reset .absent 0).setBit Fld.AX_PLUG_HALL 47 false).bit Fld.AX_PLUG_HALL 47 = false) :=
  ⟨⟨up_sound, by decide +kernel⟩, by decide +kernel, by decide +kernel, by decide +kernel, by decide +kernel, by decide +kernel, by decide +kernel, ⟨plugged_sound, by decide +kernel⟩, by decide +kernel⟩

def nvm (begun : Option (Fin 2)) (booted : Option (Fin 2)) (op : Option NvmOp := none) : State :=
  phased .ready 0 fun x => { x with nvmBegun := begun, bootSlot := booted, nvmOp := op }
def ctl (f : Fld) : Word := f.ins (Fld.NVM_SLOT_CTL_SLOT.ins 0 1) 1
theorem witness_ImageSlots : ((nvm none none).awake = true ∧ (nvm none none).bit Fld.NVM_SLOT_STAT_BUSY = false ∧ (up.setBit Fld.NVM_SLOT_STAT_BUSY 0 true).bit Fld.NVM_SLOT_STAT_BUSY = true ∧
      (∀ f ∈ [Fld.NVM_SLOT_CTL_BEGIN, Fld.NVM_SLOT_CTL_WRITE, Fld.NVM_SLOT_CTL_FINISH, Fld.NVM_SLOT_CTL_LOCKVER], Fld.NVM_SLOT_CTL_SLOT.get (ctl f) = 1 ∧ f.get (ctl f) = 1 ∧
        Fld.NVM_SLOT_CTL_BEGIN.get (ctl f) + Fld.NVM_SLOT_CTL_WRITE.get (ctl f) + Fld.NVM_SLOT_CTL_FINISH.get (ctl f) + Fld.NVM_SLOT_CTL_LOCKVER.get (ctl f) = 1)) ∧
    (nvm none (some 1)).pwr.bootSlot = some 1 ∧ ((nvm none (some 0)).pwr.bootSlot ≠ some 1 ∧ ∀ n, (nvm none (some 0)).axState n = .off) ∧
    ((nvm none none).pwr.nvmBegun ≠ some 1 ∧ (nvm (some 1) none).pwr.nvmBegun = some 1 ∧ ((nvm (some 1) none).setFld Fld.NVM_SLOT_SRC_CHUNK 0 31).fld Fld.NVM_SLOT_SRC_CHUNK = 31) ∧
    ((nvm none none).pwr.nvmOp = none ∧ (nvm none none (some (.check 1))).pwr.nvmOp = some (.check 1) ∧
      (nvm none none (some (.check 1))).slotWhy { (nvm none none (some (.check 1))).slot 1 with whole := true, keyOk := true, sigOk := true } ≠ 0 ∧
      (nvm none none (some (.check 0))).slotWhy { (nvm none none (some (.check 0))).slot 0 with whole := true, keyOk := true, sigOk := true } = 0) ∧
    (NvmOp.erase 1 ≠ .check 1 ∧ ∀ j, NvmOp.erase 1 ≠ .check j) := by decide +kernel
theorem nvm_sound {b c : Option (Fin 2)} {o : Option NvmOp} : (nvm b c o).Sound := ticked_sound (State.Sound.upd (s := up) up_sound)

/-! ## Thermal -/

def fanned (st : FanState) (x : Fan) (t : Nat) : State := ticked t { up.setFld Fld.THM_FANf_STAT_STATE 1 st.code with thm := { Thermal.reset with fans := Vector.replicate 2 x } }
def derated (u d : Option Nat) (t : Nat) : State := ticked t { up with thm := { Thermal.reset with upSince := u, downSince := d, derate := u.isSome } }
theorem fanned_sound {st : FanState} {x : Fan} {t : Nat} : (fanned st x t).Sound :=
  ticked_sound (State.Sound.upd (s := up.setFld Fld.THM_FANf_STAT_STATE 1 st.code) up_sound.setFld)
def dwell : Nat := max 1 (up.fld Fld.THM_CFG_DWELL_S) * 250000000
def relTime : Nat := max 1 (up.fld Fld.THM_CFG_REL_S) * 250000000
theorem witness_ThermalAndFans : (up.Sound ∧ up.thm.evalNext ≤ up.tick ∧ up.dTh ≤ 1400 ∧ 1300 ≤ (1300 : Int) ∧ (1120 : Int) < up.dTh ∧ (1120 : Int) ≤ up.dTh - 50) ∧
    ({ up with thm := { Thermal.reset with evalNext := 1 } } : State).tick < 1 ∧
    ((derated (some 0) none dwell).thm.upSince = some 0 ∧ 0 + dwell ≤ (derated (some 0) none dwell).tick ∧ (derated (some 0) none (dwell - 1)).tick < 0 + dwell) ∧
    ((derated none (some 0) relTime).thm.upSince = none ∧ (derated none (some 0) relTime).thm.downSince = some 0 ∧ 0 + relTime ≤ (derated none (some 0) relTime).tick) ∧
    (up.fld Fld.THM_STAT_LEVEL < 7 ∧ up.Open) ∧
    (up.bit Fld.THM_FANf_CFG_EN 1 = false ∧ Fld.THM_FANf_CFG_EN.get (Fld.THM_FANf_CFG_EN.ins 0 1) = 1 ∧ (up.setBit Fld.THM_FANf_CFG_EN 1 true).bit Fld.THM_FANf_CFG_EN 1 = true) ∧
    (up.fanState 1 = .off ∧ (fanned .run ⟨0, 1, 0, none⟩ 250000001).fanState 1 = .run ∧ (250000001 : Nat) ≤ 1 + 250000000) ∧
    ((fanned .tachLost ⟨0, 0, 0, some 0⟩ 250000000).fanState 1 = .tachLost ∧ 0 + 250000000 ≤ (fanned .tachLost ⟨0, 0, 0, some 0⟩ 250000000).tick ∧
      ((fanned .tachLost ⟨0, 0, 0, some 0⟩ 250000000).fan 1).dutyFrom = some 0 ∧ (fanned .tachLost ⟨0, 0, 0, some 0⟩ 250000000).fansHeld = false ∧
      ((fanned .tachLost ⟨0, 0, 0, none⟩ 250000000).fan 1).dutyFrom = none ∧ (phased .warmReset 0).fansHeld = true ∧
      (1000 : Nat) ≤ 1000 ∧ (20 : Nat) ≤ 20 ∧ ¬ up.fld Fld.THM_FANf_CFG_HIGH 1 * 10 ≤ 19) ∧
    ((fanned .starting ⟨9, 0, 0, none⟩ 9).fanState 1 = .starting ∧ ((fanned .starting ⟨9, 0, 0, none⟩ 9).fan 1).due ≤ (fanned .starting ⟨9, 0, 0, none⟩ 9).tick ∧
      (fanned .starting ⟨9, 0, 0, none⟩ 9).fld Fld.THM_FANf_STAT_KICKS 1 < 3 ∧ ((fanned .starting ⟨9, 0, 0, none⟩ 9).setFld Fld.THM_FANf_STAT_KICKS 1 3).fld Fld.THM_FANf_STAT_KICKS 1 = 3) ∧
    ((fanned .blocked ⟨9, 0, 0, none⟩ 9).fanState 1 = .blocked ∧ ((fanned .blocked ⟨9, 0, 0, none⟩ 9).fan 1).due ≤ (fanned .blocked ⟨9, 0, 0, none⟩ 9).tick ∧ (fanned .blocked ⟨9, 0, 0, none⟩ 8).tick < 9) ∧
    (fanned .open_ ⟨0, 0, 0, none⟩ 9).fanState 1 = .open_ ∧ (249999999 : Nat) < 250000000 :=
  ⟨⟨up_sound, by decide +kernel⟩, by decide +kernel, by decide +kernel, by decide +kernel, ⟨by decide +kernel, up_open⟩, by decide +kernel⟩

/-! ## Registers and the whole machine -/

theorem witness_RegisterWrites : (up.Sound ∧ up.fnState 0 ≠ .absent ∧ up.Open ∧ (∀ b, (up.bnk b).carrier = .stopped) ∧ up.axState 47 = .off ∧ up.hostWin = [] ∧
      (∀ e, up.waitsShared e = false) ∧ (waiting (.ldh 0)).waitsShared 0 = true ∧ up.hwBits (Reg.addr .AX_FBFLT 47) = 0 ∧
      (up.setBit Fld.AX_FBFLT_Z_SEEN 47 true).hwBits (Reg.addr .AX_FBFLT 47) ≠ 0) ∧ (axis 47 .idle).axState 47 ≠ .off ∧
    ((up.setBit Fld.GLB_STAT_READY 0 false).bit Fld.GLB_STAT_READY = false ∧ (up.setBit Fld.GLB_STAT_READY 0 false).legsHeld = false ∧
      (up.setBit Fld.GLB_STAT_LOADING 0 true).bit Fld.GLB_STAT_LOADING = true) ∧
    (phased .porHeld 0).awake = false ∧ (Reg.find 0x2FFFFC = none ∧ Reg.find (Reg.addr .AX_MSTAT 47) = some (.AX_MSTAT, 47, 0)) ∧
    (up.fld Fld.GLB_SMWIN_PAGE = 0 ∧ (up.setFld Fld.GLB_SMWIN_PAGE 0 1).fld Fld.GLB_SMWIN_PAGE = 1) :=
  ⟨⟨up_sound, by decide +kernel, up_open, by decide +kernel, by decide +kernel⟩, by decide +kernel⟩
theorem witness_StepRunsFront : State.reset.pending = [] ∧ ({ State.reset with pending := [.nop 0, .tpoPulse] } : State).pending = .nop 0 :: [.tpoPulse] := by decide +kernel
/-- The block at reset idles for a tick, which is sound again. -/
theorem witness_StepKeepsSound : ∃ t, step { up with pending := [.nop 63] } = .next t ∧ up.Sound := ⟨_, rfl, up_sound⟩
theorem witness_CommandFootprint : (∃ t, exec (.nop 63) up = .next t) ∧ Part.axes ∉ touches (.nop 63) ∧ Part.tick ∉ touches .bootComplete := ⟨⟨_, rfl⟩, by decide, by decide⟩
/-- An empty queue: one tick of 4 ns. -/
theorem test_idle_tick : (match step up with | .next t => (t.tick, t.dt) | _ => (0, 0)) = (1, 4) := by decide +kernel
/-- GLB_STAT is found at its own address (R483). -/
theorem test_addresses : Reg.addr .GLB_STAT = (Reg.spec .GLB_STAT).base ∧ Reg.find (Reg.addr .GLB_STAT) = some (.GLB_STAT, 0, 0) := by decide +kernel
/-- A command fetched for a function that may not fetch changes nothing; one that is not 64 bytes is malformed. -/
theorem test_malformed : exec (.descriptorFetch 0 0 [] [] false) up = .fault .malformed := rfl

/-! ## Small runs, each one command -/

/-- R293: index 16 of a ring of 16 entries is valid, index 17 halts the ring with DB_RANGE. -/
theorem test_doorbell : seen (.doorbell 0 0 16) ringed (fun t => ((t.ring 0 0).hostIdx, t.ringState 0 0)) = some (16, .active) ∧
    seen (.doorbell 0 0 17) ringed (fun t => ((t.ring 0 0).hostIdx, t.ringState 0 0, t.fld Fld.HIF_RING_STAT_ERR 0)) = some (0, .halted, 1) := by decide +kernel
/-- R199: one sector on counts one; three sectors at once count in ILL alone. -/
theorem test_hall : seen (.hallChange 47 3 0) (hall true 0) (fun t => (t.fbk 47).pos) = some 1 ∧
    seen (.hallChange 47 6 0) (hall true 0) (fun t => ((t.fbk 47).pos, t.fld Fld.AX_FBCNT_ILL 47)) = some (0, 1) := by decide +kernel
/-- R196: 00 to 01 of (A, B) counts down in the sequence 00, 10, 11, 01. -/
theorem test_quad : seen (.quadTransition 40 false false true false) (moded 40 1 0) (fun t => (t.fbk 40).pos) = some (-1) := by decide +kernel
/-- R220: one count of a backlog of −1 in quadrature goes one phase back. -/
theorem test_po : seen (.poOutputCount 5) (repeater (-1) none true 2) (fun t => ((t.rep 5).backlog, (t.rep 5).phase)) = some (0, 3) := by decide +kernel
/-- R32: 5,120 steps in 2,048 ticks are a pace of 1,600 ps. -/
theorem test_pace : seen (.paceMeasure 63 5120) metered (fun t => (t.fld Fld.ENG_PACE_PACE_PS 63, t.bit Fld.ENG_PACE_VALID 63)) = some (1600, true) := by decide +kernel
/-- R369: a transmit error at TEC 248 leads to 256, which is bus-off. -/
theorem test_bus_off : seen (.canBusError 3 1 true 0 0) ((canIn 1).setFld Fld.CAN_ECNT_TEC 3 248) (fun t => (t.fld Fld.CAN_ECNT_TEC 3, t.fld Fld.CAN_STAT_ESTATE 3)) =
    some (256, 2) := by decide +kernel
/-- R383: 12,001 mA for 5 ms set TOTAL, a tick less does not. -/
theorem test_total : seen (.dioCurrentUpdate 12001 0) (hot (some 0) 1250000) (fun t => t.bit Fld.DIO_GSTAT_TOTAL) = some true ∧
    seen (.dioCurrentUpdate 12001 0) (hot (some 0) 1249999) (fun t => t.bit Fld.DIO_GSTAT_TOTAL) = some false := by decide +kernel
/-- R399: a discrepancy one tick beyond DISC_MS is a pair fault of cause 1. -/
theorem test_discrepancy : seen (.pairDiscrepancy 0) (disc 2500001) (fun t => ((t.saf.ins[(0 : PairId)]).fault, (t.saf.ins[(0 : PairId)]).cause)) = some (true, 1) ∧
    seen (.pairDiscrepancy 0) (disc 2500000) (fun t => (t.saf.ins[(0 : PairId)]).fault) = some false := by decide +kernel
/-- R489: a write while READY is 0 sets WR_REJ and writes nothing; a W1C field is cleared by a one. -/
theorem test_writes : seen (.registerWrite 0 (BitVec.ofNat 32 (Reg.addr .AX_STOPCFG 47)) 1) (up.setBit Fld.GLB_STAT_READY 0 false)
      (fun t => (t.bit Fld.GLB_STAT_WR_REJ, t.word .AX_STOPCFG 47 == up.word .AX_STOPCFG 47)) = some (true, true) ∧
    seen (.registerWrite 0 (BitVec.ofNat 32 (Reg.addr .AX_FBFLT 47)) (Fld.AX_FBFLT_Z_SEEN.ins 0 1)) { up.setBit Fld.AX_FBFLT_Z_SEEN 47 true with hwSet := [] }
      (fun t => t.bit Fld.AX_FBFLT_Z_SEEN 47) = some false := by decide +kernel
/-- R9: a write of one in the tick in which hardware sets the flag leaves it set. -/
theorem test_flag_stands : seen (.registerWrite 0 (BitVec.ofNat 32 (Reg.addr .AX_FBFLT 47)) (Fld.AX_FBFLT_Z_SEEN.ins 0 1)) (up.setBit Fld.AX_FBFLT_Z_SEEN 47 true)
      (fun t => t.bit Fld.AX_FBFLT_Z_SEEN 47) = some true := by decide +kernel
/-- R484: the window writes shared memory at its page; a capture buffer is not written. -/
theorem test_window : seen (.shmemWindowWrite 0 0x3C0000 [0xAA]) (up.setFld Fld.GLB_SMWIN_PAGE 0 1) (fun t => Mem.byte t.shmem 0x1C0000) = some 0xAA ∧
    seen (.shmemWindowWrite 0 0x300000 [0xAA]) (up.setFld Fld.GLB_SMWIN_PAGE 0 1) (fun t => Mem.byte t.shmem 0x100000) = some 0 := by decide +kernel
/-- R479: EN starts a fan, and the third kick past leads to BLOCKED. -/
theorem test_fan : seen (.fanEnable 0 1 (Fld.THM_FANf_CFG_EN.ins 0 1)) up (fun t => t.fanState 1) = some .starting ∧
    seen (.fanKickExpiry 1 0) ((fanned .starting ⟨9, 0, 0, none⟩ 9).setFld Fld.THM_FANf_STAT_KICKS 1 3) (fun t => t.fanState 1) = some .blocked := by decide +kernel
/-- R361: a mode change in the mode already in force is DONE at once. -/
theorem test_can_mode : seen (.canMode src0 3 1) (owing (.canMode 3 1) (canIn 1)) (fun t => ((t.fn 0).comps.map (·.code), t.accepted)) = some ([3], []) := by decide +kernel
/-- R455: BEGIN of the slot that is booted is rejected. -/
theorem test_nvm : seen (.nvmBegin 0 (ctl Fld.NVM_SLOT_CTL_BEGIN)) (nvm none (some 1)) (fun t => t.bit Fld.NVM_SLOT_STAT_REJ) = some true := by decide +kernel

end Sys2Proof.Tests
end

section
/-! PROOF. The register map (18_register_map.md R483, R487): the blocks that repeat their registers every 0x1000 bytes, and the
register that lies at an address. -/

namespace Sys2Proof.Machine

theorem Reg.mem_all (r : Reg) : r ∈ Reg.all := by cases r <;> decide

/-- No two registers have the same base offset. -/
theorem Reg.base_injective : Function.Injective fun r : Reg => r.spec.base := by
  have hn : (Reg.all.map fun r => r.spec.base).Nodup := by decide +kernel
  exact fun a b h => List.inj_on_of_nodup_map hn a.mem_all b.mem_all h

/-- A register of the block of `cnt` pages of 0x1000 bytes from `lo`: one aligned word of every page. -/
structure Reg.Paged (lo cnt : Nat) (r : Reg) : Prop where
  n1 : r.spec.n1 = cnt
  s1 : r.spec.s1 = 0x1000
  n2 : r.spec.n2 = 1
  s2 : r.spec.s2 = 0
  low : lo ≤ r.spec.base
  high : r.spec.base < lo + 0x1000
  aligned : r.spec.base % 4 = 0

/-- The register does not reach into the block. -/
def Reg.Apart (lo cnt : Nat) (r : Reg) : Prop :=
  lo + 0x1000 * cnt ≤ r.spec.base ∨ r.spec.base + r.spec.s1 * (r.spec.n1 - 1) + r.spec.s2 * (r.spec.n2 - 1) < lo

theorem Reg.paged_iff {lo cnt : Nat} {r : Reg} : r.Paged lo cnt ↔
    r.spec.n1 = cnt ∧ r.spec.s1 = 0x1000 ∧ r.spec.n2 = 1 ∧ r.spec.s2 = 0 ∧ lo ≤ r.spec.base ∧ r.spec.base < lo + 0x1000 ∧
      r.spec.base % 4 = 0 :=
  ⟨fun ⟨a, b, c, d, e, f, g⟩ => ⟨a, b, c, d, e, f, g⟩, fun ⟨a, b, c, d, e, f, g⟩ => ⟨a, b, c, d, e, f, g⟩⟩

/-- A block of pages that no other register reaches into. -/
def Reg.IsBlock (lo cnt : Nat) : Prop := ∀ r ∈ Reg.all, r.Paged lo cnt ∨ r.Apart lo cnt

theorem Reg.isBlock_axis : Reg.IsBlock 0x40000 48 := by
  simp only [Reg.IsBlock, Reg.paged_iff, Reg.Apart]; decide +kernel

theorem Reg.isBlock_bank : Reg.IsBlock 0x20000 6 := by
  simp only [Reg.IsBlock, Reg.paged_iff, Reg.Apart]; decide +kernel

variable {lo cnt i : Nat} {q r : Reg}

theorem Reg.Paged.addr_eq (hr : r.Paged lo cnt) : r.addr i = r.spec.base + 0x1000 * i := by
  simp only [Reg.addr, hr.s1, hr.s2]; omega

/-- Two registers of one block lie at one address only where they are the same register. -/
theorem Reg.Paged.instanceAt_same (hr : r.Paged lo cnt) (hi : i < cnt) : r.instanceAt (r.addr i) = some (i, 0) := by
  simp only [Reg.instanceAt, hr.addr_eq, hr.n1, hr.s1, hr.n2, hr.s2]
  have h1 : (if cnt ≤ 1 then 0 else (r.spec.base + 4096 * i - r.spec.base) / 4096) = i := by split <;> omega
  rw [if_neg (by omega), h1, if_pos (by simp [hi])]
  rfl

theorem Reg.Paged.instanceAt_ne (hr : r.Paged lo cnt) (hq : q.Paged lo cnt) (hne : q ≠ r) : q.instanceAt (r.addr i) = none := by
  have hb : q.spec.base ≠ r.spec.base := fun h => hne (Reg.base_injective h)
  have := hr.low; have := hr.high; have := hq.low; have := hq.high
  simp only [Reg.instanceAt, hr.addr_eq, hq.n1, hq.s1, hq.n2, hq.s2]
  split
  · rfl
  · rw [if_neg]
    split <;> omega

theorem Reg.Apart.instanceAt_none (hr : r.Paged lo cnt) (hi : i < cnt) (hq : q.Apart lo cnt) : q.instanceAt (r.addr i) = none := by
  have := hr.low; have := hr.high
  have ha := hr.addr_eq (i := i)
  unfold Reg.instanceAt
  rcases hq with hq | hq
  · rw [if_pos (by omega)]
  · simp only
    split
    · rfl
    · rw [if_neg]
      rintro ⟨h1, h2, h3⟩
      generalize (if q.spec.n1 ≤ 1 then 0 else (r.addr i - q.spec.base) / q.spec.s1) = x at *
      generalize (if q.spec.n2 ≤ 1 then 0 else (r.addr i - q.spec.base - q.spec.s1 * x) / q.spec.s2) = y at *
      have hx : q.spec.s1 * x ≤ q.spec.s1 * (q.spec.n1 - 1) := Nat.mul_le_mul_left _ (by omega)
      have hy : q.spec.s2 * y ≤ q.spec.s2 * (q.spec.n2 - 1) := Nat.mul_le_mul_left _ (by omega)
      omega

/-- The register found at an address of a block. -/
theorem Reg.find_addr (hb : Reg.IsBlock lo cnt) (hr : r.Paged lo cnt) (hi : i < cnt) : Reg.find (r.addr i) = some (r, i, 0) := by
  have hnone : ∀ q : Reg, q ≠ r → q.instanceAt (r.addr i) = none := fun q hq =>
    (hb q q.mem_all).elim (fun h => hr.instanceAt_ne h hq) (fun h => h.instanceAt_none hr hi)
  unfold Reg.find
  cases h : Reg.all.findSome? _ with
  | none =>
    have := List.findSome?_eq_none_iff.mp h r r.mem_all
    simp [hr.instanceAt_same hi] at this
  | some v =>
    obtain ⟨q, -, hq⟩ := List.exists_of_findSome?_eq_some h
    by_cases hqr : q = r
    · subst hqr
      simpa [hr.instanceAt_same hi] using hq.symm
    · simp [hnone q hqr] at hq

theorem Reg.Paged.addr_ne {j : Nat} (hr : r.Paged lo cnt) (hq : q.Paged lo cnt) (hne : q ≠ r) : q.addr i ≠ r.addr j := by
  have hb : q.spec.base ≠ r.spec.base := fun h => hne (Reg.base_injective h)
  have := hr.low; have := hr.high; have := hq.low; have := hq.high
  rw [hr.addr_eq, hq.addr_eq]
  omega

/-- A register of a block lies at no address of any other register. -/
theorem Reg.addr_ne {j : Nat} (hb : Reg.IsBlock lo cnt) (hr : r.Paged lo cnt) (hj : j < cnt) (hi : i < q.spec.n1) (hne : q ≠ r) :
    q.addr i ≠ r.addr j := by
  rcases hb q q.mem_all with hq | hq
  · exact hr.addr_ne hq hne
  · have := hr.low; have := hr.high
    have hx : q.spec.s1 * i ≤ q.spec.s1 * (q.spec.n1 - 1) := Nat.mul_le_mul_left _ (by omega)
    rw [hr.addr_eq, Reg.addr]
    unfold Reg.Apart at hq
    omega

end Sys2Proof.Machine
end

section
/-! PROOF. A host write of one register word (R7, R9, R11): what it makes of each field. -/

namespace Sys2Proof.Machine

/-! ## Fields -/

/-- The bit `k` of a word belongs to the field. -/
def Fld.covers (f : Fld) (k : Nat) : Bool := decide (f.lsb ≤ k) && decide (k < f.lsb + f.width)

/-- The two fields have no bit in common. -/
abbrev Fld.Disjoint (f g : Fld) : Prop := f.lsb + f.width ≤ g.lsb ∨ g.lsb + g.width ≤ f.lsb

theorem Reg.fields_reg {r : Reg} {f : Fld} (hf : f ∈ r.fields) : f.reg = r ∧ f.lsb + f.width ≤ 32 := by
  have h : ∀ r ∈ Reg.all, ∀ f ∈ Reg.fields r, f.reg = r ∧ f.lsb + f.width ≤ 32 := by decide +kernel
  exact h r r.mem_all f hf

/-- The fields of a register share no bit. -/
theorem Reg.fields_pairwise (r : Reg) : (Reg.fields r).Pairwise Fld.Disjoint := by
  have h : ∀ r ∈ Reg.all, (Reg.fields r).Pairwise fun f g => f.lsb + f.width ≤ g.lsb ∨ g.lsb + g.width ≤ f.lsb := by decide +kernel
  exact h r r.mem_all

theorem Fld.testBit_get (f : Fld) (w : Word) (k : Nat) : (f.get w).testBit k = (decide (k < f.width) && w.getLsbD (f.lsb + k)) := by
  rw [Fld.get, BitVec.testBit_toNat, BitVec.getLsbD_extractLsb']

theorem Fld.getLsbD_mask {f : Fld} {k : Nat} (hf : f.lsb + f.width ≤ 32) : f.mask.getLsbD k = f.covers k := by
  have h0 : (0 : Word).getLsbD k = false := BitVec.getLsbD_zero
  simp only [Fld.mask, Fld.ins, Fld.covers, BitVec.getLsbD_or, BitVec.getLsbD_and, BitVec.getLsbD_shiftLeft, BitVec.getLsbD_setWidth,
    BitVec.getLsbD_ofNat, Nat.testBit_two_pow_sub_one, h0, Bool.false_and, Bool.false_or]
  rw [Bool.eq_iff_iff]
  simp only [Bool.and_eq_true, Bool.not_eq_true', decide_eq_true_eq, decide_eq_false_iff_not]
  omega

theorem Fld.Disjoint.not_covers {f g : Fld} {k : Nat} (h : f.Disjoint g) (hf : f.covers k = true) : g.covers k = false := by
  simp only [Fld.Disjoint, Fld.covers, Bool.and_eq_true, Bool.and_eq_false_iff, decide_eq_true_eq, decide_eq_false_iff_not] at *
  omega

/-! ## The word that a write leaves -/

/-- What a write of the bit `w` makes of the bit `o` (R7). -/
def Access.put (a : Access) (o w : Bool) : Bool :=
  match a with
  | .rw => w
  | .rws => w
  | .fb => w
  | .w1c => o && !w
  | .rwsClear => o && !w
  | .ro => o
  | .wo => o
  | .rwsHw => o

/-- The step of `Reg.merge` for one field. -/
def Fld.put (w acc : Word) (f : Fld) : Word :=
  match f.acc with
  | .rw => (acc &&& ~~~f.mask) ||| (w &&& f.mask)
  | .rws => (acc &&& ~~~f.mask) ||| (w &&& f.mask)
  | .fb => (acc &&& ~~~f.mask) ||| (w &&& f.mask)
  | .w1c => acc &&& ~~~(w &&& f.mask)
  | .rwsClear => acc &&& ~~~(w &&& f.mask)
  | .ro => acc
  | .wo => acc
  | .rwsHw => acc

theorem Reg.merge_eq (r : Reg) (old w : Word) : r.merge old w = r.fields.foldl (Fld.put w) old := rfl

theorem Fld.getLsbD_put {f : Fld} {w acc : Word} {k : Nat} (hf : f.lsb + f.width ≤ 32) :
    (f.put w acc).getLsbD k = if f.covers k then f.acc.put (acc.getLsbD k) (w.getLsbD k) else acc.getLsbD k := by
  have hm := Fld.getLsbD_mask (f := f) (k := k) hf
  have hk : f.covers k = true → k < 32 := by
    simp only [Fld.covers, Bool.and_eq_true, decide_eq_true_eq]; omega
  have hb : acc.getLsbD k = true → k < 32 := fun h => BitVec.lt_of_getLsbD h
  unfold Fld.put Access.put
  split <;> cases hc : f.covers k <;> cases ha : acc.getLsbD k <;> simp_all

/-- Writing fields that leave the bit `k` alone leaves it. -/
theorem Fld.getLsbD_foldl_put_of_not_covers {l : List Fld} {w acc : Word} {k : Nat} (hl : ∀ f ∈ l, f.lsb + f.width ≤ 32)
    (h : ∀ f ∈ l, f.covers k = false) : (l.foldl (Fld.put w) acc).getLsbD k = acc.getLsbD k := by
  induction l generalizing acc with
  | nil => rfl
  | cons g l ih =>
    rw [List.foldl_cons, ih (fun f hf => hl f (.tail _ hf)) (fun f hf => h f (.tail _ hf)),
      Fld.getLsbD_put (hl g (.head _)), h g (.head _)]
    rfl

/-- Writing fields that share no bit writes each of them once. -/
theorem Fld.getLsbD_foldl_put_of_mem {l : List Fld} {w acc : Word} {f : Fld} {k : Nat} (hl : ∀ f ∈ l, f.lsb + f.width ≤ 32)
    (hp : l.Pairwise Fld.Disjoint) (hf : f ∈ l) (hk : f.covers k = true) :
    (l.foldl (Fld.put w) acc).getLsbD k = f.acc.put (acc.getLsbD k) (w.getLsbD k) := by
  induction l generalizing acc with
  | nil => cases hf
  | cons g l ih =>
    have hl' : ∀ f ∈ l, f.lsb + f.width ≤ 32 := fun f hf => hl f (.tail _ hf)
    rw [List.pairwise_cons] at hp
    rw [List.foldl_cons]
    cases hf with
    | head =>
      rw [Fld.getLsbD_foldl_put_of_not_covers hl' fun h hh => (hp.1 h hh).not_covers hk, Fld.getLsbD_put (hl _ (.head _)), if_pos hk]
    | tail _ hf =>
      have hg : g.covers k = false := Bool.eq_false_iff.mpr fun hg => by simp [(hp.1 f hf).not_covers hg] at hk
      rw [ih hl' hp.2 hf, Fld.getLsbD_put (hl g (.head _)), hg]
      rfl

/-- A field of a merged word, bit by bit. -/
theorem Reg.testBit_get_merge {r : Reg} {f : Fld} (hf : f ∈ r.fields) (old w : Word) (k : Nat) :
    (f.get (r.merge old w)).testBit k = (decide (k < f.width) && f.acc.put ((f.get old).testBit k) ((f.get w).testBit k)) := by
  simp only [Fld.testBit_get, Reg.merge_eq]
  by_cases hk : k < f.width
  · rw [Fld.getLsbD_foldl_put_of_mem (fun g hg => (Reg.fields_reg hg).2) r.fields_pairwise hf (by simp [Fld.covers, hk])]
    simp [hk]
  · simp [hk]

/-! ## The state that a write leaves -/

variable {s : State} {r : Reg} {i : Nat} {w : Word} {f : Fld}

theorem State.word_mergeReg (hs : s.Sound) :
    (s.mergeReg r i 0 w).word r i = r.merge (s.word r i) w ||| (s.word r i &&& s.hwBits (r.addr i)) := State.word_setWord_same hs

theorem State.raw_mergeReg_ne {a : Nat} (ha : a ≠ r.addr i) : (s.mergeReg r i 0 w).raw a = s.raw a := State.raw_setWord_ne ha

/-- A register at another address keeps its fields. -/
theorem State.fld_mergeReg_ne {g : Fld} {j : Nat} (ha : g.reg.addr j ≠ r.addr i) : (s.mergeReg r i 0 w).fld g j = s.fld g j := by
  rw [State.fld_eq, State.raw_mergeReg_ne ha, State.fld_eq]

/-- A field of the register that is written, bit by bit: a flag that hardware has set in the same tick stays (R9). -/
theorem State.testBit_fld_mergeReg (hs : s.Sound) (hf : f ∈ r.fields) (k : Nat) :
    ((s.mergeReg r i 0 w).fld f i).testBit k =
      (decide (k < f.width) && (f.acc.put ((s.fld f i).testBit k) ((f.get w).testBit k) ||
        ((s.fld f i).testBit k && (f.get (s.hwBits (r.addr i))).testBit k))) := by
  obtain rfl := (Reg.fields_reg hf).1
  have hor : ∀ a b : Word, (f.get (a ||| b)).testBit k = ((f.get a).testBit k || (f.get b).testBit k) := by
    intro a b; simp [Fld.testBit_get, Bool.and_or_distrib_left]
  have hand : ∀ a b : Word, (f.get (a &&& b)).testBit k = ((f.get a).testBit k && (f.get b).testBit k) := by
    intro a b; simp only [Fld.testBit_get, BitVec.getLsbD_and]; cases decide (k < f.width) <;> simp
  have hlt : (s.fld f i).testBit k = (decide (k < f.width) && (s.fld f i).testBit k) := by
    simp [State.fld, Fld.testBit_get]
  rw [State.fld, State.word_mergeReg hs, hor, hand, Reg.testBit_get_merge hf, ← State.fld]
  generalize f.acc.put _ _ = p
  rw [hlt]
  cases decide (k < f.width) <;> simp

/-- Software-written fields take the written value. -/
theorem State.fld_mergeReg_rw (hs : s.Sound) (hf : f ∈ r.fields) (ha : f.acc = .rw ∨ f.acc = .fb) (hw : f.get (s.hwBits (r.addr i)) = 0) :
    (s.mergeReg r i 0 w).fld f i = f.get w := by
  apply Nat.eq_of_testBit_eq
  intro k
  rw [State.testBit_fld_mergeReg hs hf, hw]
  rcases ha with ha | ha <;> simp [ha, Access.put, Fld.testBit_get]

/-- Read-only fields stay. -/
theorem State.fld_mergeReg_ro (hs : s.Sound) (hf : f ∈ r.fields) (ha : f.acc = .ro) : (s.mergeReg r i 0 w).fld f i = s.fld f i := by
  apply Nat.eq_of_testBit_eq
  intro k
  rw [State.testBit_fld_mergeReg hs hf, ha]
  have absorb : ∀ a b : Bool, (a || (a && b)) = a := by decide
  simp only [Access.put, absorb, State.fld, Fld.testBit_get]
  cases decide (k < f.width) <;> rfl

/-- Flags are cleared by ones unless hardware has set them in the same tick (R9). -/
theorem State.fld_mergeReg_w1c (hs : s.Sound) (hf : f ∈ r.fields) (ha : f.acc = .w1c) (k : Nat) :
    ((s.mergeReg r i 0 w).fld f i).testBit k =
      ((s.fld f i).testBit k && (!(f.get w).testBit k || (f.get (s.hwBits (r.addr i))).testBit k)) := by
  rw [State.testBit_fld_mergeReg hs hf, ha, Access.put, ← Bool.and_or_distrib_left, State.fld, Fld.testBit_get]
  cases decide (k < f.width) <;> simp

theorem State.onlyBits_mergeReg : s.onlyBits (s.mergeReg r i 0 w) [r.spot i] :=
  (State.onlyBits.refl.setWord (.head _)).of_regs rfl

end Sys2Proof.Machine
end

section
/-! PROOF. Register writes of F0 and writes of the shared-memory window (18_register_map.md R483 to R496; O55). -/

namespace Sys2Proof.Machine

/-! ## Runs over a list -/

theorem forAll_eq_self {α : Type} {l : List α} {f : State → α → State} {s : State} (h : ∀ a ∈ l, f s a = s) : forAll l f s = s := by
  induction l with
  | nil => rfl
  | cons a l ih =>
    show forAll l f (f s a) = s
    rw [h a (.head _), ih fun b hb => h b (.tail _ hb)]

/-! ## Where a write is taken -/

variable {s : State} {r : Reg} {n : AxId} {w : Word}

theorem State.responds_of_up (h : s.legsHeld = false) (a : Nat) : s.responds a = true := by
  revert h
  simp only [State.legsHeld, State.responds]
  cases s.pwr.phase <;> simp

theorem State.responds_of_not_awake (h : s.awake = false) (a : Nat) : s.responds a = false := by
  revert h
  simp only [State.awake, State.responds]
  cases s.pwr.phase <;> simp

theorem State.Open.closed_eq (h : s.Open) : s.closed = false := by simp [State.closed, h.ready, h.loaded]

theorem State.closed_of (h : s.bit Fld.GLB_STAT_READY = false ∨ s.bit Fld.GLB_STAT_LOADING = true) : s.closed = true := by
  rcases h with h | h <;> simp [State.closed, h]

/-- No start of a carrier waits or has been decided. -/
def State.NoStart (s : State) : Prop := ∀ b, (s.bnk b).carrier ≠ .pending ∧ ∀ t, (s.bnk b).carrier ≠ .starting t

theorem State.tryStart_eq_self {b : BankId} (h : (s.bnk b).carrier ≠ .pending) (h2 : ∀ t, (s.bnk b).carrier ≠ .starting t) :
    s.tryStart b = s := by
  cases hc : (s.bnk b).carrier with
  | pending => exact absurd hc h
  | starting t => exact absurd hc (h2 t)
  | _ => simp [State.tryStart, hc]

theorem State.NoStart.retryStarts (h : s.NoStart) : s.retryStarts = s := by
  refine forAll_eq_self fun b _ => ?_
  rw [if_neg fun hc => (h b).1 hc.1, State.tryStart_eq_self (h b).1 (h b).2]

/-- A write of F0 at a 32-bit offset below the function blocks and the window goes to the map, where writes are open. -/
theorem State.hostWrite_f0 {a : Nat} (ho : s.Open) (hf : s.fnState 0 ≠ .absent) (ha : a % 4 = 0) (hw : a < 0x300000) :
    s.hostWrite 0 a w = s.writeAt 0 a w := by
  have h3 : ¬(0x300000 ≤ a ∧ a < 0x400000) := by omega
  simp [State.hostWrite, barOffset, State.responds_of_up ho.up, hf, ha, ho.closed_eq, h3]

/-- A write of F0 to a register of an axis. -/
theorem State.hostWrite_axis (ho : s.Open) (hf : s.fnState 0 ≠ .absent) (hr : r.Paged 0x40000 48) :
    s.hostWrite 0 (BitVec.ofNat 32 (r.addr n.val)).toNat w = (s.writeAxis r n w).retryStarts := by
  have h0 := hr.low; have h1 := hr.high; have h4 := hr.aligned
  have ha := hr.addr_eq (i := n.val)
  have hn := n.isLt
  have hlt : (BitVec.ofNat 32 (r.addr n.val)).toNat = r.addr n.val := by
    rw [BitVec.toNat_ofNat]; exact Nat.mod_eq_of_lt (by omega)
  have hb : r.addr = r.spec.base := by simp [Reg.addr]
  have hset : s.writeSetup r n.val 0 w = (s.writeAxis r n w).retryStarts := by
    unfold State.writeSetup
    simp only [hb]
    rw [if_neg (by omega), if_neg (by omega), if_neg (by omega), if_neg (by omega), if_neg (by omega), dif_pos hn]
  rw [hlt, State.hostWrite_f0 ho hf (by omega) (by omega), State.writeAt, Reg.find_addr Reg.isBlock_axis hr hn]
  simp only
  rw [if_neg (by omega), if_neg (by simp), hset]

/-! ## The registers of an axis -/

theorem Reg.paged_axis_of_mem {l : List Reg} (h : ∀ q ∈ l, q.spec.n1 = 48 ∧ q.spec.s1 = 0x1000 ∧ q.spec.n2 = 1 ∧ q.spec.s2 = 0 ∧
    0x40000 ≤ q.spec.base ∧ q.spec.base < 0x40000 + 0x1000 ∧ q.spec.base % 4 = 0) (hr : r ∈ l) : r.Paged 0x40000 48 :=
  Reg.paged_iff.mpr (h r hr)

/-- The registers of an axis whose write has no other effect. -/
def axPlainRegs : List Reg :=
  [.AX_STATE, .AX_STOPCFG, .AX_LFAULT, .AX_LIMCFG, .AX_PSTAT, .AX_WC, .AX_DLMISS, .AX_FBFLT, .AX_FBSAFE, .AX_MSTAT]
/-- Those among the registers taken in OFF only whose write has no other effect. -/
def axSettingRegs : List Reg := [.AX_ANGCFG, .AX_ANGOFS, .AX_MOTCFG, .AX_PLUG]
/-- The configuration of the feedback block. -/
def axFeedbackRegs : List Reg := [.AX_QCFG, .AX_SCCFG, .AX_SSICFG]

theorem State.writeAxis_plain (h : r ∈ axPlainRegs) : s.writeAxis r n w = s.mergeReg r n.val 0 w := by
  simp only [axPlainRegs, List.mem_cons, List.not_mem_nil, or_false] at h
  rcases h with rfl | rfl | rfl | rfl | rfl | rfl | rfl | rfl | rfl | rfl <;> rfl

theorem State.writeAxis_fb (h : r ∈ axFbRegs) : s.writeAxis r n w = s.writeFb r n.val w := by
  simp only [axFbRegs, List.mem_cons, List.not_mem_nil, or_false] at h
  rcases h with rfl | rfl | rfl | rfl <;> rfl

theorem State.writeAxis_offOnly (h : r.offOnly = true) : s.writeAxis r n w = s.writeOffOnly r n w := by
  unfold State.writeAxis
  rw [if_pos h]

/-! ## The envelope -/

/-- The fields by which the envelope of a bank is judged. -/
def envelopeFlds : List Fld :=
  [Fld.GLB_ENV_ENV, Fld.GLB_ENV_SPLIT, Fld.GLB_PROF_STAT_LOADED, Fld.BNK_CARRIER_PERIOD, Fld.AX_CFG_MODE, Fld.AX_PWM_CDIV]

/-- The envelope check reads the fields of `envelopeFlds` and the alignment of the bank. -/
theorem State.envelopeOk_congr {t : State} {b : BankId} (hf : ∀ f ∈ envelopeFlds, ∀ i < f.reg.spec.n1, t.fld f i = s.fld f i)
    (hb : (t.bnk b).edge = (s.bnk b).edge) : t.envelopeOk b = s.envelopeOk b := by
  simp only [envelopeFlds, List.forall_mem_cons, List.not_mem_nil, false_implies, implies_true, and_true] at hf
  obtain ⟨henv, hsplit, hload, hper, hmode, hdiv⟩ := hf
  have he : t.env = s.env := by simp only [State.env, henv 0 (by decide)]
  have hm : t.axMode = s.axMode := funext fun n => hmode n.val n.isLt
  have hc : t.cdiv = s.cdiv := funext fun n => by simp only [State.cdiv, hdiv n.val n.isLt]
  unfold State.envelopeOk State.bit
  rw [he, hm, hc, hsplit 0 (by decide), hload 0 (by decide), hper b.val b.isLt, hb]

/-- A write of a register of the axis that the envelope check does not read. -/
theorem State.envelopeOk_mergeReg {b : BankId} (hr : r.Paged 0x40000 48) (hne : ∀ f ∈ envelopeFlds, f.reg ≠ r) :
    (s.mergeReg r n.val 0 w).envelopeOk b = s.envelopeOk b :=
  State.envelopeOk_congr (fun f hf _ hi => State.fld_mergeReg_ne (Reg.addr_ne Reg.isBlock_axis hr n.isLt hi (hne f hf))) rfl

/-! ## Registers taken in OFF only -/

theorem State.writeOffOnly_rejected (h : s.axState n ≠ .off) :
    s.writeOffOnly r n w = s.setBit Fld.AX_STATE_CFG_REJ n.val true := by
  unfold State.writeOffOnly
  rw [if_pos h]

/-- A register of the settings or of the feedback block is taken in OFF: no envelope depends on it. -/
theorem State.writeOffOnly_setting (h : s.axState n = .off) (hr : r ∈ axSettingRegs) :
    s.writeOffOnly r n w = s.mergeReg r n.val 0 w := by
  have hp : r.Paged 0x40000 48 := Reg.paged_axis_of_mem (l := axSettingRegs) (by decide) hr
  have hne : ∀ q ∈ axSettingRegs, ∀ f ∈ envelopeFlds, f.reg ≠ q := by decide
  have henv := State.envelopeOk_mergeReg (s := s) (n := n) (w := w) (b := n.bank) hp (hne r hr)
  simp only [axSettingRegs, List.mem_cons, List.not_mem_nil, or_false] at hr
  rcases hr with rfl | rfl | rfl | rfl <;> simp [State.writeOffOnly, h, henv]

theorem State.writeOffOnly_feedback (h : s.axState n = .off) (hr : r ∈ axFeedbackRegs) :
    s.writeOffOnly r n w = (s.mergeReg r n.val 0 w).resetFeedback n := by
  have hp : r.Paged 0x40000 48 := Reg.paged_axis_of_mem (l := axFeedbackRegs) (by decide) hr
  have hne : ∀ q ∈ axFeedbackRegs, ∀ f ∈ envelopeFlds, f.reg ≠ q := by decide
  have henv := State.envelopeOk_mergeReg (s := s) (n := n) (w := w) (b := n.bank) hp (hne r hr)
  simp only [axFeedbackRegs, List.mem_cons, List.not_mem_nil, or_false] at hr
  rcases hr with rfl | rfl | rfl <;> simp [State.writeOffOnly, h, henv]

/-! ## The shared-memory window (R21, R484) -/

theorem State.hostTurn_of_waits {e : EngId} (h : s.waitsShared e = true) : s.hostTurn = s := by
  have : (allFin 64).any s.waitsShared = true := List.any_eq_true.mpr ⟨e, List.mem_finRange e, h⟩
  simp [State.hostTurn, this]

/-- With no engine waiting the host's window writes are performed, oldest first. -/
theorem State.hostTurn_of_free (h : ∀ e, s.waitsShared e = false) :
    s.hostTurn = { s with shmem := s.hostWin.foldl (fun m w => Mem.storeBytes m w.1 w.2) s.shmem, hostWin := [] } := by
  have : (allFin 64).any s.waitsShared = false := by simp [List.any_eq_false, h]
  cases hw : s.hostWin with
  | nil =>
    simp only [State.hostTurn, hw, List.isEmpty_nil, Bool.true_or, if_true, List.foldl_nil]
    rw [← hw]
  | cons x l => simp [State.hostTurn, hw, this]

/-- A byte of memory after the bytes of a list whose place satisfies `keep` have been stored from `base` on, the first of them at place `k`. -/
theorem Mem.byte_foldl_kept (keep : Nat → Bool) (base a : Nat) (data : List Byte) (k : Nat) (m : Mem) (hm : m.wf = true) :
    Mem.byte ((((data.zipIdx k).filter fun x => keep x.2).map fun x => (base + x.2, [x.1])).foldl
        (fun m w => Mem.storeBytes m w.1 w.2) m) a =
      if base + k ≤ a ∧ a < base + k + data.length ∧ keep (a - base) = true then data.getD (a - base - k) 0 else Mem.byte m a := by
  induction data generalizing k m with
  | nil => rw [if_neg (by simp; omega)]; rfl
  | cons d data ih =>
    have hlen : (d :: data).length = data.length + 1 := rfl
    rw [List.zipIdx_cons, List.filter_cons]
    by_cases hk : keep k = true
    · have hwf : (Mem.storeBytes m (base + k) [d]).wf = true := Mem.wf_storeBytes hm
      simp only [hk, if_true, List.map_cons, List.foldl_cons, ih (k + 1) _ hwf, hlen]
      by_cases ha : a = base + k
      · subst ha
        rw [if_neg (by omega), if_pos ⟨by omega, by omega, by simpa using hk⟩]
        simpa [Mem.storeBytes] using Mem.byte_putByte_same hm
      · have hbyte : Mem.byte (Mem.storeBytes m (base + k) [d]) a = Mem.byte m a :=
          Mem.byte_storeBytes_ne (by simp only [List.length_singleton]; omega)
        rw [hbyte]
        by_cases hc : base + (k + 1) ≤ a ∧ a < base + (k + 1) + data.length ∧ keep (a - base) = true
        · rw [if_pos hc, if_pos ⟨by omega, by omega, hc.2.2⟩, show a - base - k = (a - base - (k + 1)) + 1 by omega, List.getD_cons_succ]
        · rw [if_neg hc, if_neg fun h => hc ⟨by omega, by omega, h.2.2⟩]
    · simp only [hk, Bool.false_eq_true, if_false, ih (k + 1) _ hm, hlen]
      by_cases hc : base + (k + 1) ≤ a ∧ a < base + (k + 1) + data.length ∧ keep (a - base) = true
      · rw [if_pos hc, if_pos ⟨by omega, by omega, hc.2.2⟩, show a - base - k = (a - base - (k + 1)) + 1 by omega, List.getD_cons_succ]
      · rw [if_neg hc, if_neg]
        rintro ⟨h1, h2, h3⟩
        have : a ≠ base + k := by rintro rfl; exact hk (by simpa using h3)
        exact hc ⟨by omega, by omega, h3⟩

/-- The window writes that a write of `data` at an offset of the page at `page` makes, byte by byte (R484). -/
def State.windowBytes (s : State) (page off : Nat) (data : List Byte) : List (Nat × List Byte) :=
  (data.zipIdx.filter fun x => decide (off + x.2 < 0x100000) && !s.hostBlocked (page + off + x.2)).map
    fun x => (page + off + x.2, [x.1])

/-- A window write waits behind the engines (R21). -/
theorem State.windowWrite_of_waits {e : EngId} (h : s.waitsShared e = true) (off : Nat) (data : List Byte) :
    s.windowWrite off data = { s with hostWin := s.hostWin ++ s.windowBytes (s.fld Fld.GLB_SMWIN_PAGE * 0x100000) off data } :=
  State.hostTurn_of_waits (e := e) h

/-- A window write is performed at once where nothing waits. -/
theorem State.windowWrite_of_free (h : ∀ e, s.waitsShared e = false) (hw : s.hostWin = []) (off : Nat) (data : List Byte) :
    s.windowWrite off data = { s with
      shmem := (s.windowBytes (s.fld Fld.GLB_SMWIN_PAGE * 0x100000) off data).foldl (fun m w => Mem.storeBytes m w.1 w.2) s.shmem } := by
  have hturn := State.hostTurn_of_free
    (s := { s with hostWin := s.hostWin ++ s.windowBytes (s.fld Fld.GLB_SMWIN_PAGE * 0x100000) off data }) h
  refine Eq.trans hturn ?_
  simp only [hw, List.nil_append]

/-- A byte of shared memory after the window writes of `data`. -/
theorem State.byte_windowBytes (hs : s.Sound) (page off : Nat) (data : List Byte) (b : Nat) :
    Mem.byte ((s.windowBytes page off data).foldl (fun m w => Mem.storeBytes m w.1 w.2) s.shmem) b =
      if page + off ≤ b ∧ b < page + off + data.length ∧ off + (b - (page + off)) < 0x100000 ∧ s.hostBlocked b = false
      then data.getD (b - (page + off)) 0 else Mem.byte s.shmem b := by
  rw [State.windowBytes,
    Mem.byte_foldl_kept (fun k => decide (off + k < 0x100000) && !s.hostBlocked (page + off + k)) (page + off) b data 0 s.shmem hs.shmem]
  simp only [Nat.add_zero, Nat.sub_zero, Bool.and_eq_true, decide_eq_true_eq, Bool.not_eq_true']
  refine if_congr (and_congr_right fun h1 => ?_) rfl rfl
  rw [Nat.add_sub_cancel' h1]

theorem State.hostBlocked_iff {b : Nat} : s.hostBlocked b = true ↔
    (0x100000 ≤ b ∧ b < 0x1C0000) ∨ (0x1E0000 ≤ b ∧ b < 0x1E0800 ∧ s.bit Fld.GLB_MON_CFG_EN = true) ∨
      (0x1E4020 ≤ b ∧ b < 0x1E4100) ∨
      (0x1F0000 ≤ b ∧ b < 0x200000 ∧ (s.fld Fld.GLB_CAM_BUSY_BUSY).testBit ((b - 0x1F0000) / 0x1000) = true) := by
  unfold State.hostBlocked
  generalize (s.fld Fld.GLB_CAM_BUSY_BUSY).testBit ((b - 0x1F0000) / 0x1000) = cam
  simp only [Bool.or_eq_true, Bool.and_eq_true, decide_eq_true_eq, and_assoc, or_assoc]

/-! ## What the two commands do -/

theorem exec_registerWrite (fn : FnId) (a : BitVec 32) : exec (.registerWrite fn a w) s = .next (s.hostWrite fn a.toNat w) := rfl
theorem exec_shmemWindowWrite (fn : FnId) (a : BitVec 32) (data : List Byte) :
    exec (.shmemWindowWrite fn a data) s = execShmemWindowWrite fn a data s := rfl

/-- A write of the window where writes are open. -/
theorem State.shmemWindowWrite_open {addr : BitVec 32} {data : List Byte} (ho : s.Open) (hlo : 0x300000 ≤ addr.toNat)
    (hhi : addr.toNat < 0x400000) : exec (.shmemWindowWrite 0 addr data) s = .next (s.windowWrite (addr.toNat - 0x300000) data) := by
  have hin : ¬((0 : FnId) ≠ 0 ∨ addr.toNat < 0x300000 ∨ 0x400000 ≤ addr.toNat ∨ !s.responds addr.toNat) := by
    simp [State.responds_of_up ho.up]; omega
  rw [exec_shmemWindowWrite, execShmemWindowWrite]
  simp only [if_neg hin, ho.closed_eq, Bool.false_eq_true, if_false]

/-- What a write has made of a register of an axis: the word alone has changed, each field by its access code. -/
structure State.Merged (s t : State) (r : Reg) (n : AxId) (w : Word) : Prop where
  only : s.onlyBits t [r.spot n.val]
  fields : ∀ f ∈ r.fields,
    (f.acc = .rw ∨ f.acc = .fb → f.get (s.hwBits (r.addr n.val)) = 0 → t.fld f n.val = f.get w) ∧
    (f.acc = .ro → t.fld f n.val = s.fld f n.val) ∧
    (f.acc = .w1c → ∀ k, (t.fld f n.val).testBit k =
      ((s.fld f n.val).testBit k && (!(f.get w).testBit k || (f.get (s.hwBits (r.addr n.val))).testBit k)))

theorem State.merged_of_regs {t : State} (hs : s.Sound) (ht : t.regs = (s.mergeReg r n.val 0 w).regs) : s.Merged t r n w where
  only := State.onlyBits_mergeReg.of_regs ht
  fields f hf := by
    have hfld : ∀ g i, t.fld g i = (s.mergeReg r n.val 0 w).fld g i := fun g i => by simp only [State.fld, State.word, ht]
    simp only [hfld]
    exact ⟨State.fld_mergeReg_rw hs hf, State.fld_mergeReg_ro hs hf, State.fld_mergeReg_w1c hs hf⟩

/-- A write of a register that hardware does not update changes its word alone. -/
theorem State.exists_mergeReg_eq {i : Nat} (h : r.hwUpdated = false) : ∃ regs, s.mergeReg r i 0 w = { s with regs := regs } := by
  simp only [State.mergeReg, h]
  exact ⟨_, rfl⟩

/-- Among the plain registers and the settings of an axis, AX_ANGOFS alone is one that hardware updates. -/
theorem State.hostSet_mergeReg (h : r ∈ axPlainRegs ∨ r ∈ axSettingRegs) :
    (s.mergeReg r n.val 0 w).hostSet = if r = .AX_ANGOFS then r.addr n.val :: s.hostSet else s.hostSet := by
  have hall : ∀ q ∈ axPlainRegs ++ axSettingRegs, q.hwUpdated = decide (q = .AX_ANGOFS) := by decide
  simp [State.mergeReg, hall r (List.mem_append.mpr h)]

theorem State.NoStart.retryStarts_of_banks {t : State} (h : s.NoStart) (ht : t.banks = s.banks) : t.retryStarts = t :=
  State.NoStart.retryStarts fun b => by simpa only [State.bnk, ht] using h b

/-- The bank whose boundaries an FB register of an axis waits for. -/
theorem fbBank_axis (h : r ∈ axFbRegs) : fbBank (r.addr n.val) = some n.bank := by
  have hp : r.Paged 0x40000 48 := Reg.paged_axis_of_mem (l := axFbRegs) (by decide) h
  have hn : ∀ q ∈ axFbRegs, q ∉ bnkFbRegs := by decide
  simp [fbBank, Reg.find_addr Reg.isBlock_axis hp n.isLt, hn r h]

/-- A plain register, or a setting while the axis is OFF. -/
theorem State.registerWrite_merges (ho : s.Open) (hf : s.fnState 0 ≠ .absent) (hst : s.NoStart)
    (h : r ∈ axPlainRegs ∨ (r ∈ axSettingRegs ∧ s.axState n = .off)) :
    exec (.registerWrite 0 (BitVec.ofNat 32 (r.addr n.val)) w) s = .next (s.mergeReg r n.val 0 w) := by
  have hmem : r ∈ axPlainRegs ++ axSettingRegs := List.mem_append.mpr (h.imp_right And.left)
  have hp : r.Paged 0x40000 48 := Reg.paged_axis_of_mem (l := axPlainRegs ++ axSettingRegs) (by decide) hmem
  have hw : s.writeAxis r n w = s.mergeReg r n.val 0 w := by
    rcases h with h | ⟨h, hoff⟩
    · exact State.writeAxis_plain h
    · have hofs : ∀ q ∈ axSettingRegs, q.offOnly = true := by decide
      rw [State.writeAxis_offOnly (hofs r h), State.writeOffOnly_setting hoff h]
  rw [exec_registerWrite, State.hostWrite_axis ho hf hp, hw, hst.retryStarts_of_banks]
  rfl

/-- The configuration of the feedback block, while the axis is OFF. -/
theorem State.registerWrite_feedback (ho : s.Open) (hf : s.fnState 0 ≠ .absent) (hst : s.NoStart) (h : r ∈ axFeedbackRegs)
    (hoff : s.axState n = .off) :
    exec (.registerWrite 0 (BitVec.ofNat 32 (r.addr n.val)) w) s = .next ((s.mergeReg r n.val 0 w).resetFeedback n) := by
  have hp : r.Paged 0x40000 48 := Reg.paged_axis_of_mem (l := axFeedbackRegs) (by decide) h
  have hofs : ∀ q ∈ axFeedbackRegs, q.offOnly = true := by decide
  rw [exec_registerWrite, State.hostWrite_axis ho hf hp, State.writeAxis_offOnly (hofs r h), State.writeOffOnly_feedback hoff h,
    hst.retryStarts_of_banks]
  rfl

/-- A register that is taken in OFF only, in any other state. -/
theorem State.registerWrite_rejected (ho : s.Open) (hf : s.fnState 0 ≠ .absent) (hst : s.NoStart) (hp : r.Paged 0x40000 48)
    (h : r.offOnly = true) (hoff : s.axState n ≠ .off) :
    exec (.registerWrite 0 (BitVec.ofNat 32 (r.addr n.val)) w) s = .next (s.setBit Fld.AX_STATE_CFG_REJ n.val true) := by
  rw [exec_registerWrite, State.hostWrite_axis ho hf hp, State.writeAxis_offOnly h, State.writeOffOnly_rejected hoff,
    hst.retryStarts_of_banks]
  rfl

/-- An FB register: its effect waits. -/
theorem State.registerWrite_fb (ho : s.Open) (hf : s.fnState 0 ≠ .absent) (hst : s.NoStart) (h : r ∈ axFbRegs) :
    exec (.registerWrite 0 (BitVec.ofNat 32 (r.addr n.val)) w) s = .next { s.mergeReg r n.val 0 w with
      fbPend := s.fbPend ++ [⟨r.addr n.val, (s.mergeReg r n.val 0 w).word r n.val, s.tick, s.countsStopped n.bank⟩] } := by
  have hp : r.Paged 0x40000 48 := Reg.paged_axis_of_mem (l := axFbRegs) (by decide) h
  rw [exec_registerWrite, State.hostWrite_axis ho hf hp, State.writeAxis_fb h, State.writeFb, fbBank_axis h]
  rw [hst.retryStarts_of_banks] <;> rfl

end Sys2Proof.Machine

open Sys2Proof Sys2Proof.Machine

/-- Settles O55: each clause is the write's path through the gate of R489 and the map, then the rule of the register's block. -/
theorem registerWrites : Obligations.RegisterWrites := by
  intro s fn r n addr w data hs hf0 a hw merged still plain offOnly feedback
  have hmerged : ∀ t : State, t.regs = (s.mergeReg r n.val 0 w).regs → merged t := fun t ht =>
    let h := State.merged_of_regs hs ht
    ⟨h.only, h.fields⟩
  refine ⟨?plain, ?feedback, ?rejected, ?fb, ?closed, ?ignored, ?vf, ?unassigned, ?noWindow, ?windowClosed, ?waits, ?window⟩
  case plain =>
    intro ho hst h
    exact ⟨_, State.registerWrite_merges ho hf0 hst h, rfl, hmerged _ rfl, State.hostSet_mergeReg (h.imp_right And.left)⟩
  case feedback =>
    intro ho hst h hoff
    have hupd : ∀ q ∈ axFeedbackRegs, q.hwUpdated = false := by decide
    refine ⟨_, State.registerWrite_feedback ho hf0 hst h hoff, ?_, hmerged _ rfl, fun m hm => State.fbk_setFbk_ne _ n _ hm, ?_⟩
    · obtain ⟨regs, hregs⟩ := State.exists_mergeReg_eq (s := s) (i := n.val) (w := w) (hupd r h)
      rw [hregs]
      rfl
    · simp only [State.resetFeedback, State.fbk_setFbk_same]
      rfl
  case rejected =>
    intro ho hst h hoff
    have hall : ∀ q ∈ axSettingRegs ++ axFeedbackRegs ++ [Reg.AX_CFG, .AX_PWM, .AX_FBCFG, .AX_STEPCFG], q.offOnly = true ∧
        q.spec.n1 = 48 ∧ q.spec.s1 = 0x1000 ∧ q.spec.n2 = 1 ∧ q.spec.s2 = 0 ∧ 0x40000 ≤ q.spec.base ∧
        q.spec.base < 0x40000 + 0x1000 ∧ q.spec.base % 4 = 0 := by decide
    have hmem : r ∈ axSettingRegs ++ axFeedbackRegs ++ [Reg.AX_CFG, .AX_PWM, .AX_FBCFG, .AX_STEPCFG] := by
      simp only [List.mem_append, List.mem_cons, List.not_mem_nil, or_false, or_assoc]
      exact h
    obtain ⟨hofs, hp⟩ := hall r hmem
    exact State.registerWrite_rejected ho hf0 hst (Reg.paged_iff.mpr hp) hofs hoff
  case fb =>
    intro ho hst h
    have hupd : ∀ q ∈ axFbRegs, q.hwUpdated = false := by decide
    refine ⟨_, State.registerWrite_fb ho hf0 hst h, ?_, hmerged _ rfl, rfl⟩
    obtain ⟨regs, hregs⟩ := State.exists_mergeReg_eq (s := s) (i := n.val) (w := w) (hupd r h)
    rw [hregs]
  case closed =>
    intro hup hcl hlo hhi hal
    have hopen : openAlways addr.toNat = false := by
      simp only [openAlways, Bool.or_eq_false_iff, Bool.and_eq_false_iff, decide_eq_false_iff_not, beq_eq_false_iff_ne]
      omega
    have hfn : ¬(0x100000 ≤ addr.toNat ∧ addr.toNat < 0x180000) := by omega
    simp [exec_registerWrite, State.hostWrite, barOffset, State.responds_of_up hup, hf0, hal, hopen, State.closed_of hcl, hfn]
  case ignored =>
    intro h
    rw [exec_registerWrite, State.hostWrite]
    cases hb : barOffset fn addr.toNat with
    | none => rfl
    | some o =>
      have ho : !s.responds o ∨ s.fnState fn = .absent ∨ o % 4 ≠ 0 := by
        rcases h with h | h
        · refine .inr (.inr ?_)
          unfold barOffset at hb
          split at hb
          · cases hb; exact h
          · split at hb
            · cases hb; omega
            · cases hb
        · exact .inl (by simp [State.responds_of_not_awake h])
      simp only [if_pos ho]
  case vf =>
    intro hfn hge
    have hb : barOffset fn addr.toNat = none := by rw [barOffset, if_neg hfn, if_neg (by omega)]
    rw [exec_registerWrite, State.hostWrite, hb]
  case unassigned =>
    intro ho hnone hlt
    rw [exec_registerWrite]
    by_cases hal : addr.toNat % 4 = 0
    · rw [State.hostWrite_f0 ho hf0 hal hlt, State.writeAt, hnone]
    · simp [State.hostWrite, barOffset, hal]
  case noWindow =>
    intro h
    have hno : fn ≠ 0 ∨ addr.toNat < 0x300000 ∨ 0x400000 ≤ addr.toNat ∨ !s.responds addr.toNat := by tauto
    rw [exec_shmemWindowWrite, execShmemWindowWrite]
    simp only [if_pos hno]
  case windowClosed =>
    intro hup hcl hlo hhi
    have h : ¬(addr.toNat < 0x300000 ∨ 0x400000 ≤ addr.toNat) := by omega
    simp [exec_shmemWindowWrite, execShmemWindowWrite, State.responds_of_up hup, State.closed_of hcl]
    omega
  case waits =>
    intro ho hlo hhi he
    obtain ⟨e, he⟩ := he
    refine ⟨_, State.shmemWindowWrite_open ho hlo hhi, ?_⟩
    rw [State.windowWrite_of_waits he]
    exact ⟨rfl, _, rfl⟩
  case window =>
    intro ho hfree hwin hlo hhi
    refine ⟨_, State.shmemWindowWrite_open ho hlo hhi, ?_⟩
    rw [State.windowWrite_of_free hfree hwin]
    refine ⟨rfl, fun b => ?_⟩
    intro off base blocked
    have hbl : s.hostBlocked b = false ↔ ¬blocked := by rw [← Bool.not_eq_true, not_iff_not]; exact State.hostBlocked_iff
    have hbase : s.fld Fld.GLB_SMWIN_PAGE * 0x100000 + off = base := by rw [Nat.mul_comm]
    have hbyte := State.byte_windowBytes hs (s.fld Fld.GLB_SMWIN_PAGE * 0x100000) off data b
    rw [hbase] at hbyte
    refine ⟨fun h1 h2 h3 h4 => hbyte.trans (if_pos ⟨h1, h2, h3, hbl.mpr h4⟩), fun h => hbyte.trans (if_neg ?_)⟩
    rintro ⟨h1, h2, h3, h4⟩
    exact h.elim (fun hout => hout ⟨h1, h2, h3⟩) (hbl.mp h4)
end

section
/-! PROOF. What the updates of one axis leave alone: registers outside the page of the axis, and every other axis. -/

namespace Sys2Proof.Machine

variable {s t u : State} {n m : AxId}

/-! ## Addresses of the axis and bank blocks -/

theorem Reg.paged_axis {r : Reg} (h : 0x40000 ≤ r.spec.base ∧ r.spec.base < 0x41000) : r.Paged 0x40000 48 :=
  (Reg.isBlock_axis r r.mem_all).resolve_right fun ha => by unfold Reg.Apart at ha; omega

theorem Reg.paged_bank {r : Reg} (h : 0x20000 ≤ r.spec.base ∧ r.spec.base < 0x21000) : r.Paged 0x20000 6 :=
  (Reg.isBlock_bank r r.mem_all).resolve_right fun ha => by unfold Reg.Apart at ha; omega

/-! ## Updates of the legs -/

/-- The legs of the axis and its blanking have changed, nothing else. -/
def State.LegsMoved (n : AxId) (s t : State) : Prop :=
  ∃ legs blank, t = s.setAx n { s.ax n with legs := legs, blankUntil := blank }

theorem State.setAx_self : s.setAx n (s.ax n) = s := by
  have : s.axes.set n.val s.axes[n.val] n.isLt = s.axes := Vector.set_getElem_self n.isLt
  show { s with axes := s.axes.set n.val s.axes[n.val] n.isLt } = s
  rw [this]

theorem State.setAx_setAx {x y : Axis} : (s.setAx n x).setAx n y = s.setAx n y := by
  simp [State.setAx, Vector.set_set]

theorem State.LegsMoved.refl : State.LegsMoved n s s := ⟨(s.ax n).legs, (s.ax n).blankUntil, State.setAx_self.symm⟩

theorem State.LegsMoved.trans (h : State.LegsMoved n s t) (h2 : State.LegsMoved n t u) : State.LegsMoved n s u := by
  obtain ⟨legs, blank, rfl⟩ := h
  obtain ⟨legs', blank', rfl⟩ := h2
  exact ⟨legs', blank', by rw [State.setAx_setAx, State.ax_setAx_same]⟩

theorem State.legsMoved_setLeg {l : Leg} {x : LegHw} : State.LegsMoved n s (s.setLeg n l x) := ⟨_, (s.ax n).blankUntil, rfl⟩

theorem State.LegsMoved.ite {c : Prop} [Decidable c] (h : State.LegsMoved n s t) (h2 : State.LegsMoved n s u) :
    State.LegsMoved n s (if c then t else u) := by
  split
  · exact h
  · exact h2

theorem State.legsMoved_putLeg {l : Leg} {x : LegHw} : State.LegsMoved n s (s.putLeg n l x) := by
  unfold State.putLeg
  exact State.legsMoved_setLeg.ite (State.legsMoved_setLeg.trans ⟨(State.ax _ n).legs, _, rfl⟩)

theorem State.legsMoved_turnOn {l : Leg} : State.LegsMoved n s (s.turnOn n l) :=
  State.LegsMoved.refl.ite (State.legsMoved_setLeg.ite State.legsMoved_putLeg)

theorem State.legsMoved_driveLeg {l : Leg} {now : Nat} : State.LegsMoved n s (State.driveLeg now n s l) := by
  unfold State.driveLeg
  cases s.legDrive n l with
  | off => exact State.legsMoved_putLeg
  | low =>
    refine State.legsMoved_putLeg.ite ?_
    rcases (s.leg n l).dead with _ | ⟨t, _ | _⟩
    · exact State.LegsMoved.refl.ite State.legsMoved_putLeg
    · exact State.legsMoved_putLeg
    · exact State.LegsMoved.refl
  | pwm => exact State.legsMoved_putLeg.ite State.LegsMoved.refl
  | high => exact State.legsMoved_putLeg.ite State.legsMoved_turnOn

theorem State.legsMoved_driveLegs {now : Nat} : State.LegsMoved n s (s.driveLegs n now) :=
  (State.legsMoved_driveLeg.trans State.legsMoved_driveLeg).trans State.legsMoved_driveLeg

/-! ## Updates of one axis -/

/-- The address lies outside the page of the axis, and below the function blocks. -/
def OffPage (n : AxId) (a : Nat) : Prop := a < 0x100000 ∧ (a < 0x40000 + 0x1000 * n.val ∨ 0x41000 + 0x1000 * n.val ≤ a)

/-- The update keeps every other axis and the registers outside the page of the axis (the function blocks, to which records are
counted, left aside). -/
structure State.AxisOnly (n : AxId) (s t : State) : Prop where
  raw : ∀ a, OffPage n a → t.raw a = s.raw a
  ax : ∀ m, m ≠ n → t.ax m = s.ax m

theorem State.AxisOnly.refl : State.AxisOnly n s s := ⟨fun _ _ => rfl, fun _ _ => rfl⟩

theorem State.AxisOnly.trans (h : State.AxisOnly n s t) (h2 : State.AxisOnly n t u) : State.AxisOnly n s u :=
  ⟨fun a ha => (h2.raw a ha).trans (h.raw a ha), fun m hm => (h2.ax m hm).trans (h.ax m hm)⟩

/-- An update that leaves registers and axes alone. -/
theorem State.AxisOnly.of_eq (h : State.AxisOnly n s t) (hr : u.regs = t.regs) (ha : u.axes = t.axes) : State.AxisOnly n s u :=
  h.trans ⟨fun a _ => by simp only [State.raw, hr], fun m _ => by simp only [State.ax, ha]⟩

theorem State.AxisOnly.setAx {x : Axis} (h : State.AxisOnly n s t) : State.AxisOnly n s (t.setAx n x) :=
  h.trans ⟨fun _ _ => rfl, fun _ hm => State.ax_setAx_ne t n x hm⟩

theorem State.AxisOnly.legsMoved (h : State.AxisOnly n s t) (hl : State.LegsMoved n t u) : State.AxisOnly n s u := by
  obtain ⟨legs, blank, rfl⟩ := hl
  exact h.setAx

theorem State.AxisOnly.setWord {r : Reg} {w : Word} (h : State.AxisOnly n s t) (hr : r.Paged 0x40000 48) :
    State.AxisOnly n s (t.setWord r n.val 0 w) := by
  refine h.trans ⟨fun a ha => State.raw_setWord_ne ?_, fun _ _ => rfl⟩
  have := hr.low; have := hr.high
  rw [hr.addr_eq]
  unfold OffPage at ha
  omega

theorem State.AxisOnly.setFld {f : Fld} {v : Nat} (h : State.AxisOnly n s t)
    (hf : 0x40000 ≤ f.reg.spec.base ∧ f.reg.spec.base < 0x41000) : State.AxisOnly n s (t.setFld f n.val v) :=
  h.setWord (Reg.paged_axis hf)

theorem State.AxisOnly.setBit {f : Fld} {v : Bool} (h : State.AxisOnly n s t)
    (hf : 0x40000 ≤ f.reg.spec.base ∧ f.reg.spec.base < 0x41000) : State.AxisOnly n s (t.setBit f n.val v) :=
  (h.setFld hf).of_eq rfl rfl

theorem State.AxisOnly.ite {c : Prop} [Decidable c] (h : c → State.AxisOnly n s t) (h2 : ¬c → State.AxisOnly n s u) :
    State.AxisOnly n s (if c then t else u) := by
  split
  · exact h ‹_›
  · exact h2 ‹_›

theorem State.AxisOnly.dropStep (h : State.AxisOnly n s t) : State.AxisOnly n s (t.dropStep n) :=
  State.AxisOnly.ite (fun _ => h) fun _ => (h.setWord (Reg.paged_axis (by decide))).setBit (by decide)

theorem State.AxisOnly.dropStep_ite {c : Prop} [Decidable c] (h : State.AxisOnly n s t) :
    State.AxisOnly n s (if c then t.dropStep n else t) := State.AxisOnly.ite (fun _ => h.dropStep) fun _ => h

theorem State.AxisOnly.refreshAxis (h : State.AxisOnly n s t) : State.AxisOnly n s (t.refreshAxis n) := by
  unfold State.refreshAxis
  refine State.AxisOnly.setFld (State.AxisOnly.dropStep_ite ?_) (by decide)
  refine State.AxisOnly.setBit (State.AxisOnly.setFld (State.AxisOnly.setFld (State.AxisOnly.setFld ?_ ?_) ?_) ?_) ?_
  · exact (h.legsMoved State.legsMoved_driveLegs).setAx
  all_goals decide

/-! ## What a refresh of the legs leaves of the axis -/

/-- What the frame boundaries keep of an axis: its frame, the next boundary and the released values. -/
def Axis.frame (x : Axis) : Bool × Option (Nat × BitVec 32) × LatchVals := (x.framed, x.nextB, x.released)

theorem State.LegsMoved.frame (h : State.LegsMoved n s t) : (t.ax n).frame = (s.ax n).frame := by
  obtain ⟨legs, blank, rfl⟩ := h
  rw [State.ax_setAx_same]
  rfl

theorem State.ax_dropStep : (s.dropStep n).ax m = s.ax m := by
  unfold State.dropStep
  split <;> rfl

theorem State.frame_refreshAxis : ((s.refreshAxis n).ax n).frame = (s.ax n).frame := by
  have hite : ∀ (x : State) (c : Prop) [Decidable c], (if c then x.dropStep n else x).ax n = x.ax n := by
    intro x c _
    split
    · exact State.ax_dropStep
    · rfl
  unfold State.refreshAxis
  simp only [State.setFld_ax, hite, State.setBit_ax, State.ax_setAx_same]
  exact State.legsMoved_driveLegs.frame

/-! ## A field that an update leaves -/

/-- The state is sound, and the field reads as before. -/
structure State.Keeps (f : Fld) (i : Nat) (s t : State) : Prop where
  sound : t.Sound
  fld : t.fld f i = s.fld f i

variable {f g : Fld} {i j v : Nat}

/-- A field that shares no bit with another. -/
def Fld.Clear (f : Fld) (i : Nat) (g : Fld) (j : Nat) : Prop :=
  f.reg.addr i ≠ g.reg.addr j ∨ f.reg = g.reg ∧ i = j ∧ f.lsb + f.width ≤ 32 ∧ f.Disjoint g

theorem State.Keeps.refl (hs : s.Sound) : State.Keeps f i s s := ⟨hs, rfl⟩

theorem State.Keeps.of_regs (h : State.Keeps f i s t) (hu : u.Sound) (hr : u.regs = t.regs) : State.Keeps f i s u :=
  ⟨hu, by rw [← h.fld]; simp only [State.fld, State.word, hr]⟩

theorem State.Keeps.setFld (h : State.Keeps f i s t) (hc : f.Clear i g j) : State.Keeps f i s (t.setFld g j v) := by
  refine ⟨h.sound.setFld, Eq.trans ?_ h.fld⟩
  rcases hc with hc | ⟨hr, rfl, hw, hd⟩
  · exact State.fld_setFld_ne hc
  · exact State.fld_setFld_apart h.sound hr hw hd

theorem State.Keeps.setBit {b : Bool} (h : State.Keeps f i s t) (hc : f.Clear i g j) : State.Keeps f i s (t.setBit g j b) :=
  (h.setFld hc).of_regs h.sound.setBit rfl

theorem State.Keeps.setWord {r : Reg} {w : Word} (h : State.Keeps f i s t) (hc : f.reg.addr i ≠ r.addr j) :
    State.Keeps f i s (t.setWord r j 0 w) :=
  ⟨h.sound.setWord, Eq.trans (by rw [State.fld_eq, State.raw_setWord_ne hc, State.fld_eq]) h.fld⟩

theorem State.Keeps.ite {c : Prop} [Decidable c] (h : State.Keeps f i s t) (h2 : State.Keeps f i s u) :
    State.Keeps f i s (if c then t else u) := by
  split
  · exact h
  · exact h2

/-- Two fields of the page of an axis. -/
theorem Fld.clear_axis (hf : 0x40000 ≤ f.reg.spec.base ∧ f.reg.spec.base < 0x41000)
    (hg : 0x40000 ≤ g.reg.spec.base ∧ g.reg.spec.base < 0x41000)
    (h : f.reg ≠ g.reg ∨ f.lsb + f.width ≤ 32 ∧ f.Disjoint g) : f.Clear i g i := by
  by_cases hr : f.reg = g.reg
  · exact .inr ⟨hr, rfl, h.resolve_left (not_not_intro hr)⟩
  · exact .inl ((Reg.paged_axis hg).addr_ne (Reg.paged_axis hf) hr)

theorem State.Keeps.state_dropStep (h : State.Keeps Fld.AX_STATE_STATE n.val s t) : State.Keeps Fld.AX_STATE_STATE n.val s (t.dropStep n) :=
  h.ite ((h.setWord ((Reg.paged_axis (by decide)).addr_ne (Reg.paged_axis (by decide)) (by decide))).setBit
    (Fld.clear_axis (by decide) (by decide) (by decide)))

theorem State.Keeps.state_dropStep_ite {c : Prop} [Decidable c] (h : State.Keeps Fld.AX_STATE_STATE n.val s t) :
    State.Keeps Fld.AX_STATE_STATE n.val s (if c then t.dropStep n else t) := h.state_dropStep.ite h

/-- A refresh of the legs of an axis keeps its state. -/
theorem State.Keeps.state_refreshAxis (h : State.Keeps Fld.AX_STATE_STATE n.val s t) :
    State.Keeps Fld.AX_STATE_STATE n.val s (t.refreshAxis n) := by
  unfold State.refreshAxis
  refine State.Keeps.setFld (State.Keeps.state_dropStep_ite ?_) ?_
  · refine State.Keeps.setBit (State.Keeps.setFld (State.Keeps.setFld (State.Keeps.setFld ?_ ?_) ?_) ?_) ?_
    · obtain ⟨legs, blank, hl⟩ := State.legsMoved_driveLegs (s := t) (n := n) (now := t.tick)
      exact h.of_regs (h.sound.driveLegs.setAx fun hs => hs.ax n) (by rw [hl]; rfl)
    all_goals exact Fld.clear_axis (by decide) (by decide) (by decide)
  · exact Fld.clear_axis (by decide) (by decide) (by decide)

/-- Another axis keeps its state. -/
theorem State.AxisOnly.axState (h : State.AxisOnly n s t) (hm : m ≠ n) : t.axState m = s.axState m := by
  have hne : m.val ≠ n.val := fun h => hm (Fin.ext h)
  have hoff : OffPage n (Fld.AX_STATE_STATE.reg.addr m.val) := by
    have := m.isLt
    simp only [OffPage, Reg.addr, Reg.spec, Fld.AX_STATE_STATE]
    omega
  simp only [State.axState, State.fld_eq, h.raw _ hoff]

end Sys2Proof.Machine
end

section
/-! PROOF. Requests of the bank carriers (05_power_stage.md R155 to R157; O26): the start that is decided from standstill, and the stop. -/

namespace Sys2Proof.Machine

variable {s t u : State} {b b' : BankId} {w : Word}

/-! ## The first boundary (R155) -/

/-- DT is read in the present tick, or set for the next one. -/
theorem State.dtBase_tick : s.tick ≤ s.dtBase.1 ∧ s.dtBase.1 ≤ s.tick + 1 := by
  unfold State.dtBase
  cases s.time.dtSetPend <;> simp

/-- The least multiple of `q` from `x` on. -/
theorem ceil_mul_spec {q x : Nat} (hq : 0 < q) :
    x ≤ (x + q - 1) / q * q ∧ ∀ y, x ≤ y → y % q = 0 → (x + q - 1) / q * q ≤ y := by
  have hdiv := Nat.div_add_mod (x + q - 1) q
  have hmod := Nat.mod_lt (x + q - 1) hq
  rw [Nat.mul_comm] at hdiv
  refine ⟨by omega, fun y hy hyq => ?_⟩
  obtain ⟨c, rfl⟩ := Nat.dvd_of_mod_eq_zero hyq
  have : (x + q - 1) / q < c + 1 := by
    rw [Nat.div_lt_iff_lt_mul hq, Nat.add_mul, Nat.mul_comm c]
    omega
  calc (x + q - 1) / q * q ≤ c * q := Nat.mul_le_mul_right q (by omega)
    _ = q * c := Nat.mul_comm _ _

/-- The first boundary is the first tick, 1,000 ahead or more, at which DT reaches a multiple of 4 × PERIOD ns. -/
theorem State.firstBoundary_spec {p : Nat} : ∃ m, m % (4 * max 1 p) = 0 ∧ m ≤ s.dtOn (s.firstBoundary p) ∧
    s.dtOn (s.firstBoundary p) < m + 4 ∧ s.tick + 1000 ≤ s.firstBoundary p ∧
    ∀ j, s.tick + 1000 ≤ j → s.dtOn j % (4 * max 1 p) = 0 → s.firstBoundary p ≤ j := by
  obtain ⟨hlo, hhi⟩ := s.dtBase_tick
  have hfb : s.firstBoundary p = s.dtBase.1 + ((s.dtBase.2 + 4000 - 4 * (s.dtBase.1 - s.tick) + 4 * max 1 p - 1) / (4 * max 1 p) *
      (4 * max 1 p) - s.dtBase.2 + 3) / 4 := rfl
  simp only [State.dtOn, hfb]
  generalize s.dtBase.1 = t at *
  generalize s.dtBase.2 = d at *
  obtain ⟨hge, hleast⟩ := ceil_mul_spec (q := 4 * max 1 p) (x := d + 4000 - 4 * (t - s.tick)) (by omega)
  refine ⟨_, Nat.mul_mod_left ((d + 4000 - 4 * (t - s.tick) + 4 * max 1 p - 1) / (4 * max 1 p)) _, ?_⟩
  generalize (d + 4000 - 4 * (t - s.tick) + 4 * max 1 p - 1) / (4 * max 1 p) * (4 * max 1 p) = m at *
  refine ⟨by omega, by omega, by omega, fun j hj hjq => ?_⟩
  have := hleast _ (by omega) hjq
  omega

/-! ## The conditions of a start -/

/-- The fields by which a start is judged. -/
def startFlds : List Fld :=
  envelopeFlds ++ [Fld.AX_CFG_SENSE, Fld.AX_FBCFG_PMODE, Fld.ENG_STAT_ROLE, Fld.BNK_VM1_L1_ON, Fld.BNK_VM1_L1_OFF, Fld.BNK_VM2_L2,
    Fld.BNK_PSTAT_VGD_OK, Fld.BNK_RELEASE_LAT]

/-- What a start is judged by is the same: the fields, the engines, and of the banks the period and the alignment. -/
structure State.SameStart (s t : State) : Prop where
  flds : ∀ f ∈ startFlds, ∀ i < f.reg.spec.n1, t.fld f i = s.fld f i
  engines : t.engines = s.engines
  bnk : ∀ b, (t.bnk b).period = (s.bnk b).period ∧ (t.bnk b).edge = (s.bnk b).edge

theorem State.SameStart.envelopeOk (h : s.SameStart t) : t.envelopeOk b = s.envelopeOk b :=
  State.envelopeOk_congr (fun f hf => h.flds f (List.mem_append_left _ hf)) (h.bnk b).2

theorem State.SameStart.carrierReady (h : s.SameStart t) : t.carrierReady b = s.carrierReady b := by
  have hfld := h.flds
  simp only [startFlds, envelopeFlds, List.forall_mem_append, List.forall_mem_cons, List.not_mem_nil, false_implies, implies_true,
    and_true] at hfld
  obtain ⟨⟨henv, -, -, -, hmode, hdiv⟩, hsense, hpmode, hrole, hon, hoff, hl2, hvgd, hlat⟩ := hfld
  have hm : t.axMode = s.axMode := funext fun n => hmode n.val n.isLt
  have hp : t.axPeriod = s.axPeriod := funext fun n => by simp only [State.axPeriod, State.cdiv, (h.bnk n.bank).1, hdiv n.val n.isLt]
  have heng : t.eng = s.eng := funext fun e => by simp only [State.eng, h.engines]
  have hr : t.engRole = s.engRole := funext fun e => hrole e.val e.isLt
  have hd : t.divI = s.divI := by
    unfold State.divI
    rw [show t.env = s.env by unfold State.env; rw [henv 0 (by decide)]]
  have hg : t.guardOffset = s.guardOffset := funext fun n => by
    unfold State.guardOffset State.bit
    rw [hm, hp, hsense n.val n.isLt]
  have hs : t.sampleFits = s.sampleFits := funext fun n => funext fun half => funext fun img => by
    unfold State.sampleFits State.sampleWindow
    rw [hm, hp, hg, hpmode n.val n.isLt]
  have hpe : t.engPeriod = s.engPeriod := funext fun e => by
    unfold State.engPeriod
    rw [hr, heng, hp, hd]
    simp only [(h.bnk _).1]
  have hae : t.axisEngine = s.axisEngine := funext fun n => by
    unfold State.axisEngine
    rw [hr, heng]
  have hfit : t.handlersFit b = s.handlersFit b := by
    unfold State.handlersFit State.bit
    rw [hae, heng, hs, hpe, hlat b.val b.isLt]
  unfold State.carrierReady State.vmValid State.bit
  rw [h.envelopeOk, hfit, hon b.val b.isLt, hoff b.val b.isLt, hl2 b.val b.isLt, hvgd b.val b.isLt]

theorem State.SameStart.refl : s.SameStart s := ⟨fun _ _ _ _ => rfl, rfl, fun _ => ⟨rfl, rfl⟩⟩

theorem State.bnk_setBnk {x : Bank} : (s.setBnk b x).bnk b' = if b' = b then x else s.bnk b' := by
  split
  · subst b'; exact State.bnk_setBnk_same s b x
  · exact State.bnk_setBnk_ne s b x ‹_›

/-- The progress of the carrier is no condition of its start. -/
theorem State.SameStart.setCarrier {c : Carrier} (h : s.SameStart t) : s.SameStart (t.setBnk b { t.bnk b with carrier := c }) := by
  refine ⟨h.flds, h.engines, fun b' => ?_⟩
  rw [State.bnk_setBnk]
  split
  · subst b'; exact h.bnk b
  · exact h.bnk b'

/-- The violation flag is no condition of a start. -/
theorem State.SameStart.setViol (hs : t.Sound) (h : s.SameStart t) : s.SameStart (t.setBit Fld.GLB_ENV_VIOL 0 true) := by
  refine ⟨fun f hf i hi => Eq.trans ?_ (h.flds f hf i hi), h.engines, h.bnk⟩
  have hall : ∀ g ∈ startFlds, 0x40 < g.reg.spec.base ∨ g.reg = .GLB_ENV ∧ g.lsb + g.width ≤ 32 ∧ g.Disjoint Fld.GLB_ENV_VIOL := by
    decide
  rcases hall f hf with hb | ⟨hr, hw, hd⟩
  · refine State.fld_setFld_ne fun he => ?_
    have : Fld.GLB_ENV_VIOL.reg.addr 0 = 0x40 := by decide
    rw [this] at he
    unfold Reg.addr at he
    omega
  · have hi0 : i = 0 := by rw [hr] at hi; exact Nat.lt_one_iff.mp hi
    subst hi0
    exact State.fld_setFld_apart hs hr hw hd

/-! ## Deciding a start -/

theorem State.tryStart_of_pending (h : (s.bnk b).carrier = .pending) : s.tryStart b =
    if s.carrierReady b then s.setBnk b { s.bnk b with carrier := .starting (s.firstBoundary (s.bnk b).period) } else s.judgeEnvelope b := by
  simp only [State.tryStart, h]

theorem State.fld_setFld_eq {f : Fld} {i v : Nat} (hs : s.Sound) (hf : f.lsb + f.width ≤ 32) (hv : v < 2 ^ f.width) :
    (s.setFld f i v).fld f i = v := (State.fld_setFld_same hs hf).trans (Nat.mod_eq_of_lt hv)

theorem State.bit_setBit_eq {f : Fld} {i : Nat} {v : Bool} (hs : s.Sound) (hf : f.lsb + f.width ≤ 32) (hw : 0 < f.width) :
    (s.setBit f i v).bit f i = v := by
  have hlt : (if v then 1 else 0) < 2 ^ f.width := by
    have := Nat.one_lt_two_pow hw.ne'
    split <;> omega
  have hfld := State.fld_setFld_eq (s := s) (i := i) hs hf hlt
  show ((s.setFld f i _).fld f i == 1) = v
  rw [hfld]
  cases v <;> rfl

/-- What deciding a pending start makes of the state: the carrier, and VIOL where the envelope fails. -/
structure State.Decided (b : BankId) (s t : State) : Prop where
  start : s.SameStart t
  ready : s.carrierReady b = true → t = s.setBnk b { s.bnk b with carrier := .starting (s.firstBoundary (s.bnk b).period) }
  waits : s.carrierReady b = false → t.banks = s.banks
  viol : s.envelopeOk b = false → t.bit Fld.GLB_ENV_VIOL = true

theorem State.decided_tryStart (hs : s.Sound) (h : (s.bnk b).carrier = .pending) : s.Decided b (s.tryStart b) := by
  rw [State.tryStart_of_pending h]
  by_cases hr : s.carrierReady b = true
  · have henv : s.envelopeOk b = true := by
      simp only [State.carrierReady, Bool.and_eq_true, and_assoc] at hr
      exact hr.1
    rw [if_pos hr]
    exact ⟨State.SameStart.refl.setCarrier, fun _ => rfl, fun hn => absurd hr (by simp [hn]), fun hn => absurd henv (by simp [hn])⟩
  · rw [if_neg hr]
    unfold State.judgeEnvelope
    by_cases henv : s.envelopeOk b = true
    · rw [if_pos henv]
      exact ⟨State.SameStart.refl, fun hn => absurd hn hr, fun _ => rfl, fun hn => absurd henv (by simp [hn])⟩
    · rw [if_neg henv]
      exact ⟨State.SameStart.refl.setViol hs, fun hn => absurd hn hr, fun _ => rfl,
        fun _ => State.bit_setBit_eq hs (by decide) (by decide)⟩

/-- A start that is decided begins at the first boundary of the period. -/
theorem State.Decided.carrier (h : s.Decided b t) (hr : s.carrierReady b = true) :
    (t.bnk b).carrier = .starting (s.firstBoundary (t.bnk b).period) := by
  rw [(h.start.bnk b).1]
  have ht := h.ready hr
  rw [ht]
  exact congrArg Bank.carrier (State.bnk_setBnk_same s b _)

/-! ## What a carrier request reaches -/

/-- The register bits that a request of the carrier of a bank can change. -/
def carrierSpots (b : BankId) : List (Nat × Word) :=
  [Reg.BNK_CARRIER.spot b.val, Fld.GLB_ENV_VIOL.spot] ++ (allFin 48).map fun n => Fld.AX_MONSTAT_CAPT.spot n.val

/-- The update is one of the registers and banks, of the bits of `carrierSpots` and of the bank itself. -/
structure State.Requests (b : BankId) (s t : State) : Prop where
  sound : t.Sound
  within : State.Within 0x2010 s t
  bnk : ∀ b', b' ≠ b → t.bnk b' = s.bnk b'
  only : s.onlyBits t (carrierSpots b)

/-- A request leaves the time. -/
theorem State.Requests.dtOn (h : State.Requests b s t) : t.tick = s.tick ∧ t.dtOn = s.dtOn := by
  have htick : t.tick = s.tick := h.within .tick (by decide)
  have hdt : t.dt = s.dt := h.within .dt (by decide)
  have htime : t.time = s.time := h.within .time (by decide)
  refine ⟨htick, funext fun k => ?_⟩
  simp only [State.dtOn, State.dtBase, State.now, htick, hdt, htime]

theorem State.Requests.refl (hs : s.Sound) : State.Requests b s s := ⟨hs, .refl, fun _ _ => rfl, .refl⟩

theorem State.Requests.setBnk {x : Bank} (h : State.Requests b s t) : State.Requests b s (t.setBnk b x) where
  sound := h.sound.setBnk
  within := h.within.setBnk rfl
  bnk b' hb := (State.bnk_setBnk_ne t b x hb).trans (h.bnk b' hb)
  only := h.only.of_regs rfl

theorem State.Requests.bit {f : Fld} {i : Nat} {v : Bool} (h : State.Requests b s t) (hf : f.spot i ∈ carrierSpots b) :
    State.Requests b s (t.setBit f i v) where
  sound := h.sound.setBit
  within := h.within.setBit rfl
  bnk := h.bnk
  only := h.only.setBit h.sound hf

/-- A field of BNK_CARRIER: its word is among the spots. -/
theorem State.Requests.carrier {f : Fld} {v : Nat} (h : State.Requests b s t) (hf : f.reg = .BNK_CARRIER) :
    State.Requests b s (t.setFld f b.val v) where
  sound := h.sound.setFld
  within := h.within.setFld rfl
  bnk := h.bnk
  only := h.only.setWord (by rw [hf]; exact .head _)

theorem State.Requests.viol {v : Bool} (h : State.Requests b s t) : State.Requests b s (t.setBit Fld.GLB_ENV_VIOL 0 v) :=
  h.bit (.tail _ (.head _))

theorem State.Requests.run {v : Bool} (h : State.Requests b s t) : State.Requests b s (t.setBit Fld.BNK_CARRIER_RUN b.val v) where
  sound := h.sound.setBit
  within := h.within.setBit rfl
  bnk := h.bnk
  only := (h.carrier (f := Fld.BNK_CARRIER_RUN) rfl).only.of_regs rfl

theorem State.Requests.ite {c : Prop} [Decidable c] (h : State.Requests b s t) (h2 : State.Requests b s u) :
    State.Requests b s (if c then t else u) := by
  split
  · exact h
  · exact h2

theorem State.Requests.judgeEnvelope (h : State.Requests b s t) : State.Requests b s (t.judgeEnvelope b') := h.ite h.viol

theorem State.Requests.tryStart (h : State.Requests b s t) : State.Requests b s (t.tryStart b) := by
  cases hc : (t.bnk b).carrier <;> simp only [State.tryStart, hc]
  case pending => exact h.setBnk.ite h.judgeEnvelope
  case starting => exact h.ite h.setBnk.judgeEnvelope
  all_goals exact h

/-- A property that every step of a run over a list keeps. -/
theorem forAll_induction {α : Type} {P : State → Prop} {l : List α} {f : State → α → State} (h : P s)
    (hf : ∀ t, ∀ a ∈ l, P t → P (f t a)) : P (forAll l f s) := by
  induction l generalizing s with
  | nil => exact h
  | cons a l ih => exact ih (hf s a (.head _) h) fun t c hc => hf t c (.tail _ hc)

theorem State.Requests.refreshCapt (h : State.Requests b s t) : State.Requests b s t.refreshCapt :=
  forAll_induction h fun _ n _ ht => ht.bit (List.mem_append_right _ (List.mem_map_of_mem (List.mem_finRange n)))

/-! ## The fields of a carrier request (R157) -/

/-- The write of the carrier fields changes none of them. -/
def State.sameCarrier (s : State) (b : BankId) (w : Word) : Bool :=
  Fld.BNK_CARRIER_PERIOD.get w == s.fld Fld.BNK_CARRIER_PERIOD b.val && Fld.BNK_CARRIER_ALIGN.get w == s.fld Fld.BNK_CARRIER_ALIGN b.val &&
    Fld.BNK_CARRIER_ILV.get w == s.fld Fld.BNK_CARRIER_ILV b.val

theorem State.sameCarrier_iff : s.sameCarrier b w = true ↔ Fld.BNK_CARRIER_PERIOD.get w = s.fld Fld.BNK_CARRIER_PERIOD b.val ∧
    Fld.BNK_CARRIER_ALIGN.get w = s.fld Fld.BNK_CARRIER_ALIGN b.val ∧ Fld.BNK_CARRIER_ILV.get w = s.fld Fld.BNK_CARRIER_ILV b.val := by
  simp only [State.sameCarrier, Bool.and_eq_true, beq_iff_eq, and_assoc]

theorem State.writeCarrierFields_same (h : s.sameCarrier b w = true) : s.writeCarrierFields b w = s := by
  unfold State.writeCarrierFields
  simp only
  rw [if_pos (State.sameCarrier_iff.mp h)]

/-- The three fields of a BNK_CARRIER write. -/
def State.setCarrierFlds (s : State) (b : BankId) (w : Word) : State :=
  ((s.setFld Fld.BNK_CARRIER_PERIOD b.val (Fld.BNK_CARRIER_PERIOD.get w)).setFld Fld.BNK_CARRIER_ALIGN b.val
    (Fld.BNK_CARRIER_ALIGN.get w)).setFld Fld.BNK_CARRIER_ILV b.val (Fld.BNK_CARRIER_ILV.get w)

/-- The settings of a bank after a write of its carrier fields from standstill. -/
def Bank.withCarrier (x : Bank) (w : Word) : Bank :=
  { x with period := Fld.BNK_CARRIER_PERIOD.get w, edge := decide (Fld.BNK_CARRIER_ALIGN.get w = 1), ilv := Fld.BNK_CARRIER_ILV.get w,
           steps := 0, transit := false }

theorem State.refreshCapt_banks : s.refreshCapt.banks = s.banks :=
  forAll_induction (P := fun t => t.banks = s.banks) rfl fun _ _ _ h => h

theorem State.writeCarrierFields_stopped (h : (s.bnk b).carrier = .stopped) (hne : ¬s.sameCarrier b w = true) :
    s.writeCarrierFields b w = ((s.setCarrierFlds b w).setBnk b ((s.bnk b).withCarrier w)).refreshCapt := by
  have hruns : ¬(s.bnk b).runs = true := by simp [Bank.runs, h]
  have hbnk : (((s.setCarrierFlds b w).setBnk b ((s.bnk b).withCarrier w)).refreshCapt).bnk b = (s.bnk b).withCarrier w := by
    simp only [State.bnk, State.refreshCapt_banks]
    exact State.bnk_setBnk_same _ b _
  have hrestart : (((s.setCarrierFlds b w).setBnk b ((s.bnk b).withCarrier w)).refreshCapt).restart b =
      ((s.setCarrierFlds b w).setBnk b ((s.bnk b).withCarrier w)).refreshCapt := by
    have hc : ((s.bnk b).withCarrier w).carrier = .stopped := h
    simp only [State.restart, hbnk, hc]
  unfold State.writeCarrierFields
  simp only
  rw [if_neg fun hc => hne (State.sameCarrier_iff.mpr hc), if_neg hruns]
  exact hrestart

/-! ## What a carrier request leaves in the fields -/

theorem Fld.get_lt (f : Fld) (w : Word) : f.get w < 2 ^ f.width := Nat.mod_lt _ (Nat.two_pow_pos _)

/-- A field of BNK_CARRIER shares no bit with the violation flag. -/
theorem Fld.clear_viol {f : Fld} (hf : f.reg = .BNK_CARRIER) : f.Clear b.val Fld.GLB_ENV_VIOL 0 := by
  refine .inl fun h => ?_
  have hv : Fld.GLB_ENV_VIOL.reg.addr 0 = 0x40 := by decide
  rw [hv, hf, (Reg.paged_bank (by decide)).addr_eq] at h
  have : Reg.BNK_CARRIER.spec.base = 0x20000 := by decide
  omega

variable {f : Fld}

theorem State.Keeps.setBnk {i : Nat} {x : Bank} (h : State.Keeps f i s t) : State.Keeps f i s (t.setBnk b x) := h.of_regs h.sound.setBnk rfl

theorem State.Keeps.carrier_judgeEnvelope (hf : f.reg = .BNK_CARRIER) (h : State.Keeps f b.val s t) :
    State.Keeps f b.val s (t.judgeEnvelope b') := h.ite (h.setBit (Fld.clear_viol hf))

theorem State.Keeps.carrier_tryStart (hf : f.reg = .BNK_CARRIER) (h : State.Keeps f b.val s t) : State.Keeps f b.val s (t.tryStart b) := by
  cases hc : (t.bnk b).carrier <;> simp only [State.tryStart, hc]
  case pending => exact h.setBnk.ite (h.carrier_judgeEnvelope hf)
  case starting => exact h.ite (h.setBnk.carrier_judgeEnvelope hf)
  all_goals exact h

theorem State.Keeps.carrier_refreshCapt (hf : f.reg = .BNK_CARRIER) (h : State.Keeps f b.val s t) : State.Keeps f b.val s t.refreshCapt := by
  refine forAll_induction h fun t n _ ht => ht.setBit (.inl ?_)
  have hp : f.reg.Paged 0x20000 6 := Reg.paged_bank (by rw [hf]; decide)
  exact (Reg.addr_ne Reg.isBlock_bank hp b.isLt n.isLt (by rw [hf]; decide)).symm

/-- The three fields that a carrier request writes. -/
def carrierFlds : List Fld := [Fld.BNK_CARRIER_PERIOD, Fld.BNK_CARRIER_ALIGN, Fld.BNK_CARRIER_ILV]

theorem State.fld_setCarrier_ne {g : Fld} {i v : Nat} (hs : s.Sound) (hf : f ∈ carrierFlds) (hg : g ∈ carrierFlds) (hne : f ≠ g) :
    (s.setFld g i v).fld f i = s.fld f i := by
  have hall : ∀ f ∈ carrierFlds, ∀ g ∈ carrierFlds, f ≠ g → f.reg = g.reg ∧ f.lsb + f.width ≤ 32 ∧ f.Disjoint g := by decide
  obtain ⟨hr, hw, hd⟩ := hall f hf g hg hne
  exact State.fld_setFld_apart hs hr hw hd

theorem State.setCarrierFlds_fld (hs : s.Sound) (hf : f ∈ carrierFlds) : (s.setCarrierFlds b w).fld f b.val = f.get w := by
  have hw : f.lsb + f.width ≤ 32 := by
    have hall : ∀ g ∈ carrierFlds, g.lsb + g.width ≤ 32 := by decide
    exact hall f hf
  have hput : ∀ {u : State}, u.Sound → (u.setFld f b.val (f.get w)).fld f b.val = f.get w := fun hu =>
    State.fld_setFld_eq hu hw (Fld.get_lt f w)
  unfold State.setCarrierFlds
  have hmem := hf
  simp only [carrierFlds, List.mem_cons, List.not_mem_nil, or_false] at hmem
  rcases hmem with rfl | rfl | rfl
  · rw [State.fld_setCarrier_ne hs.setFld.setFld hf (by decide) (by decide), State.fld_setCarrier_ne hs.setFld hf (by decide) (by decide),
      hput hs]
  · rw [State.fld_setCarrier_ne hs.setFld.setFld hf (by decide) (by decide), hput hs.setFld]
  · exact hput hs.setFld.setFld

/-- From standstill the fields read as written. -/
theorem State.writeCarrierFields_fld (hs : s.Sound) (hc : (s.bnk b).carrier = .stopped) (hf : f ∈ carrierFlds) :
    (s.writeCarrierFields b w).fld f b.val = f.get w := by
  by_cases hsame : s.sameCarrier b w = true
  · obtain ⟨hp, ha, hi⟩ := State.sameCarrier_iff.mp hsame
    rw [State.writeCarrierFields_same hsame]
    simp only [carrierFlds, List.mem_cons, List.not_mem_nil, or_false] at hf
    rcases hf with rfl | rfl | rfl
    exacts [hp.symm, ha.symm, hi.symm]
  · have hreg : ∀ g ∈ carrierFlds, g.reg = .BNK_CARRIER := by decide
    have hss : (s.setCarrierFlds b w).Sound := hs.setFld.setFld.setFld
    rw [State.writeCarrierFields_stopped hc hsame]
    exact ((State.Keeps.refl hss).setBnk.carrier_refreshCapt (hreg f hf)).fld.trans (State.setCarrierFlds_fld hs hf)

theorem State.Requests.writeCarrierFields (hs : s.Sound) (hc : (s.bnk b).carrier = .stopped) : State.Requests b s (s.writeCarrierFields b w) := by
  by_cases hsame : s.sameCarrier b w = true
  · rw [State.writeCarrierFields_same hsame]
    exact .refl hs
  · rw [State.writeCarrierFields_stopped hc hsame]
    exact ((((State.Requests.refl hs).carrier rfl).carrier rfl).carrier rfl).setBnk.refreshCapt

theorem State.writeCarrierFields_bnk (hc : (s.bnk b).carrier = .stopped) :
    ((s.writeCarrierFields b w).bnk b).carrier = .stopped ∧
      ((s.writeCarrierFields b w).bnk b).period = if s.sameCarrier b w then (s.bnk b).period else Fld.BNK_CARRIER_PERIOD.get w := by
  by_cases hsame : s.sameCarrier b w = true
  · rw [State.writeCarrierFields_same hsame, if_pos hsame]
    exact ⟨hc, rfl⟩
  · rw [State.writeCarrierFields_stopped hc hsame, if_neg hsame]
    simp only [State.bnk, State.refreshCapt_banks]
    have := State.bnk_setBnk_same (s.setCarrierFlds b w) b ((s.bnk b).withCarrier w)
    simp only [State.bnk] at this
    rw [this]
    exact ⟨hc, rfl⟩

/-! ## A start request from standstill (R155) -/

/-- The state of which a start request from standstill decides. -/
def State.requested (s : State) (b : BankId) (w : Word) : State :=
  let t := (s.writeCarrierFields b w).setBit Fld.BNK_CARRIER_RUN b.val true
  t.setBnk b { t.bnk b with carrier := .pending }

theorem State.carrierStartRequest_stopped (hc : (s.bnk b).carrier = .stopped) :
    s.carrierStartRequest b w = (s.requested b w).tryStart b := by
  have h : (((s.writeCarrierFields b w).setBit Fld.BNK_CARRIER_RUN b.val true).bnk b).carrier = .stopped :=
    (State.writeCarrierFields_bnk hc).1
  unfold State.carrierStartRequest
  simp only [h]
  rfl

theorem State.setupGate_open {g : State → State} (ho : s.Open) : s.setupGate 0 g = g s := by
  unfold State.setupGate
  rw [if_neg (by simp [ho.up]), if_neg (by simp [ho.ready, ho.loaded])]

theorem exec_carrierStartRequest_eq (ho : s.Open) (hc : (s.bnk b).carrier = .stopped) :
    exec (.carrierStartRequest b 0 w) s = .next ((s.requested b w).tryStart b) := by
  show execCarrierStartRequest b 0 w s = _
  rw [execCarrierStartRequest, State.setupGate_open ho, State.carrierStartRequest_stopped hc]

theorem exec_carrierStopRequest_eq (ho : s.Open) : exec (.carrierStopRequest b 0 w) s = .next (s.carrierStopRequest b w) := by
  show execCarrierStopRequest b 0 w s = _
  rw [execCarrierStopRequest, State.setupGate_open ho]

theorem State.requested_carrier : ((s.requested b w).bnk b).carrier = .pending := by
  unfold State.requested
  simp only [State.bnk_setBnk_same]

theorem State.requested_period (hc : (s.bnk b).carrier = .stopped) :
    ((s.requested b w).bnk b).period = if s.sameCarrier b w then (s.bnk b).period else Fld.BNK_CARRIER_PERIOD.get w := by
  unfold State.requested
  simp only [State.bnk_setBnk_same]
  exact (State.writeCarrierFields_bnk hc).2

theorem State.requests_requested (hs : s.Sound) (hc : (s.bnk b).carrier = .stopped) : State.Requests b s (s.requested b w) :=
  (State.Requests.writeCarrierFields hs hc).run.setBnk

/-- A start request from standstill: the fields, RUN, and the bank's settings. -/
theorem State.tryStart_requested_fld (hs : s.Sound) (hc : (s.bnk b).carrier = .stopped) (hf : f ∈ carrierFlds) :
    ((s.requested b w).tryStart b).fld f b.val = f.get w := by
  have hclear : ∀ g ∈ carrierFlds, g.reg = .BNK_CARRIER ∧ g.lsb + g.width ≤ 32 ∧ g.Disjoint Fld.BNK_CARRIER_RUN := by decide
  obtain ⟨hr, hw, hd⟩ := hclear f hf
  have hk := State.Keeps.refl (f := f) (i := b.val) (State.Requests.writeCarrierFields (w := w) hs hc).sound
  have hrun : f.Clear b.val Fld.BNK_CARRIER_RUN b.val := .inr ⟨hr, rfl, hw, hd⟩
  exact ((hk.setBit hrun).setBnk.carrier_tryStart hr).fld.trans (State.writeCarrierFields_fld hs hc hf)

theorem State.tryStart_requested_run (hs : s.Sound) (hc : (s.bnk b).carrier = .stopped) :
    ((s.requested b w).tryStart b).bit Fld.BNK_CARRIER_RUN b.val = true := by
  have hs1 := (State.Requests.writeCarrierFields (w := w) hs hc).sound
  have hk := State.Keeps.refl (f := Fld.BNK_CARRIER_RUN) (i := b.val) (hs1.setBit (f := Fld.BNK_CARRIER_RUN) (i := b.val) (b := true))
  have hfld : ((s.requested b w).tryStart b).fld Fld.BNK_CARRIER_RUN b.val = _ := (hk.setBnk.carrier_tryStart rfl).fld
  have hbit := State.bit_setBit_eq (f := Fld.BNK_CARRIER_RUN) (i := b.val) (v := true) hs1 (by decide) (by decide)
  unfold State.bit at hbit ⊢
  exact (congrArg (· == 1) hfld).trans hbit

/-! ## A stop request (R156) -/

theorem mem_bankAxes {n : AxId} : n ∈ bankAxes b ↔ n.bank = b := by
  simp [bankAxes, allFin]

theorem State.carrierStopRequest_accepted (hc : (s.bnk b).carrier = .running) (hsame : s.sameCarrier b w = true)
    (h : ∀ n : AxId, n.bank = b → s.axState n = .off ∨ s.axState n = .idle) :
    s.carrierStopRequest b w =
      (s.setBit Fld.BNK_CARRIER_RUN b.val false).setBnk b { s.bnk b with carrier := .stopping false } := by
  have hok : ((bankAxes b).all fun n => s.axState n == .off || s.axState n == .idle) = true :=
    List.all_eq_true.mpr fun n hn => by simpa using h n (mem_bankAxes.mp hn)
  unfold State.carrierStopRequest
  simp only [hok, Bool.not_true, Bool.false_eq_true, if_false, State.writeCarrierFields_same hsame, State.setBit_bnk, hc]

theorem State.carrierStopRequest_rejected {n : AxId} (hn : n.bank = b) (h : s.axState n ≠ .off) (h2 : s.axState n ≠ .idle) :
    s.carrierStopRequest b w = s.setBit Fld.GLB_ENV_VIOL 0 true := by
  have hok : ((bankAxes b).all fun n => s.axState n == .off || s.axState n == .idle) = false :=
    List.all_eq_false.mpr ⟨n, mem_bankAxes.mpr hn, by simp [h, h2]⟩
  unfold State.carrierStopRequest
  simp only [hok, Bool.not_false, if_true]

theorem State.setRun_viol {v : Bool} (hs : s.Sound) :
    (s.setBit Fld.BNK_CARRIER_RUN b.val v).bit Fld.GLB_ENV_VIOL = s.bit Fld.GLB_ENV_VIOL := by
  have hclear : Fld.GLB_ENV_VIOL.Clear 0 Fld.BNK_CARRIER_RUN b.val :=
    (Fld.clear_viol (b := b) (f := Fld.BNK_CARRIER_RUN) rfl).elim (fun h => .inl h.symm) fun h => absurd h.1 (by decide)
  have hfld := ((State.Keeps.refl hs).setBit (b := v) hclear).fld
  exact congrArg (· == 1) hfld

end Sys2Proof.Machine
end

section
/-! PROOF. The boundaries at which a bank carrier starts and stops (05_power_stage.md R155, R156; O26). -/

namespace Sys2Proof.Machine

variable {s t u : State} {b b' : BankId} {n m : AxId}

/-! ## Updates of one bank and its axes -/

/-- The update keeps the engines and their registers, every other bank, and every axis of another bank. -/
structure State.BankOnly (b : BankId) (s t : State) : Prop where
  raw : ∀ a < 0x20000, t.raw a = s.raw a
  engines : t.engines = s.engines
  fo : t.fo = s.fo
  bnk : ∀ b', b' ≠ b → t.bnk b' = s.bnk b'
  ax : ∀ n : AxId, n.bank ≠ b → t.ax n = s.ax n

theorem State.BankOnly.refl : State.BankOnly b s s := ⟨fun _ _ => rfl, rfl, rfl, fun _ _ => rfl, fun _ _ => rfl⟩

theorem State.BankOnly.setBnk {x : Bank} (h : State.BankOnly b s t) : State.BankOnly b s (t.setBnk b x) :=
  ⟨h.raw, h.engines, h.fo, fun b' hb => (State.bnk_setBnk_ne t b x hb).trans (h.bnk b' hb), h.ax⟩

theorem State.BankOnly.setFld {f : Fld} {v : Nat} (h : State.BankOnly b s t)
    (hf : 0x20000 ≤ f.reg.spec.base ∧ f.reg.spec.base < 0x21000) : State.BankOnly b s (t.setFld f b.val v) := by
  refine ⟨fun a ha => Eq.trans (State.raw_setWord_ne ?_) (h.raw a ha), h.engines, h.fo, h.bnk, h.ax⟩
  rw [(Reg.paged_bank hf).addr_eq]
  omega

theorem State.BankOnly.setBit {f : Fld} {v : Bool} (h : State.BankOnly b s t)
    (hf : 0x20000 ≤ f.reg.spec.base ∧ f.reg.spec.base < 0x21000) : State.BankOnly b s (t.setBit f b.val v) :=
  let h' := h.setFld (v := if v then 1 else 0) hf
  ⟨h'.raw, h'.engines, h'.fo, h'.bnk, h'.ax⟩

theorem State.BankOnly.ite {c : Prop} [Decidable c] (h : State.BankOnly b s t) (h2 : State.BankOnly b s u) :
    State.BankOnly b s (if c then t else u) := by
  split
  · exact h
  · exact h2

/-- An update of one axis of the bank that reaches registers, axes and motions only. -/
theorem State.BankOnly.axisOnly (h : State.BankOnly b s t) (hn : n.bank = b) (ha : State.AxisOnly n t u) (hw : State.Within 0x11010 t u) :
    State.BankOnly b s u where
  raw a hlt := (ha.raw a ⟨by omega, .inl (by omega)⟩).trans (h.raw a hlt)
  engines := Eq.trans (hw .engines (by decide)) h.engines
  fo := Eq.trans (hw .fo (by decide)) h.fo
  bnk b' hb := by
    have : t.banks = u.banks := (hw .banks (by decide)).symm
    simpa only [State.bnk, this] using h.bnk b' hb
  ax m hm := (ha.ax m (by rintro rfl; exact hm hn)).trans (h.ax m hm)

/-- The boundary paces no group engine, and no engine waits to be shared. -/
def State.Alone (s : State) (b : BankId) : Prop :=
  (∀ e : EngId, s.engRole e = 2 → s.engState e = .running → (s.eng e).grpBank ≠ b) ∧ ∀ n : AxId, n.bank = b → (s.failover n).candidate = none

theorem State.BankOnly.alone (h : State.BankOnly b s t) (ha : s.Alone b) : t.Alone b := by
  have hlow : ∀ e : EngId, Reg.ENG_STAT.addr e.val < 0x20000 := by decide
  have hfld : ∀ (f : Fld) (e : EngId), f.reg = .ENG_STAT → t.fld f e.val = s.fld f e.val := fun f e hf => by
    rw [State.fld_eq, State.fld_eq, h.raw _ (by rw [hf]; exact hlow e)]
  refine ⟨fun e hr hst => ?_, fun n hn => ?_⟩
  · rw [State.engRole, hfld _ e rfl] at hr
    rw [State.engState, hfld _ e rfl] at hst
    simpa only [State.eng, h.engines] using ha.1 e hr hst
  · simpa only [State.failover, h.fo] using ha.2 n hn

theorem State.Alone.groupPeriods (h : s.Alone b) : s.groupPeriods b = s := by
  refine forAll_eq_self fun e he => ?_
  simp only [List.mem_filter, Bool.and_eq_true, beq_iff_eq] at he
  exact absurd he.2.1.2 (h.1 e he.2.1.1.1 he.2.1.1.2)

theorem State.Alone.shareDue {k : Nat} (h : s.Alone b) (hn : n.bank = b) : s.shareDue k n = s := by
  simp only [State.shareDue, h.2 n hn]

/-! ## The first boundary of a start (R155) -/

/-- The bank's part of a boundary, up to its frame counter: FB writes, cuts, FRAME. -/
def State.beginFrame (s : State) (b : BankId) (k : Nat) (f : BitVec 32) : State :=
  let s := s.fbAtBank b k
  let cut := (s.bnk b).fltActive && s.bit Fld.BNK_FLT_EN b.val ||
    (bankAxes b).any fun n => (s.ax n).fltCut && (s.axOffset n != 0 || f.toNat % s.cdiv n != 0)
  let s := if cut then s.countSat Fld.BNK_FLT_CUT_CNT b.val else s
  let s := s.setBnk b { s.bnk b with frameTick := k, frameNo := f, fltFrame := cut }
  s.setFld Fld.BNK_FRAME_FRAME b.val f.toNat

theorem State.BankOnly.beginFrame {k : Nat} {f : BitVec 32} (h : State.BankOnly b s t) : State.BankOnly b s (t.beginFrame b k f) := by
  have hfb : State.BankOnly b s (t.fbAtBank b k) := ⟨h.raw, h.engines, h.fo, h.bnk, h.ax⟩
  exact (State.BankOnly.ite (hfb.setFld (by decide)) hfb).setBnk.setFld (by decide)

theorem State.BankOnly.stepPeriod {k : Nat} (h : State.BankOnly b s t) : State.BankOnly b s (t.stepPeriod b k) :=
  (h.setBnk.setFld (by decide)).setFld (by decide)

theorem State.BankOnly.captureBank {k : Nat} (h : State.BankOnly b s t) : State.BankOnly b s (t.captureBank b k) := by
  refine forAll_induction h fun u n hn hu => ?_
  have hw : State.Within 0x11010 u u := .refl
  exact hu.axisOnly (mem_bankAxes.mp hn) (State.AxisOnly.refl.setAx.of_eq rfl rfl) ((hw.setAx rfl).setMotion rfl)

theorem State.BankOnly.refreshBrake (h : State.BankOnly b s t) : State.BankOnly b s (t.refreshBrake b) := h.setBnk.setBit (by decide)

theorem State.BankOnly.refreshAxes (h : State.BankOnly b s t) : State.BankOnly b s (forAll (bankAxes b) State.refreshAxis t) :=
  forAll_induction h fun _ _ hn hu =>
    hu.axisOnly (mem_bankAxes.mp hn) State.AxisOnly.refl.refreshAxis (State.Within.refl.refreshAxis rfl)

theorem State.bankFrame_eq {k : Nat} {f : BitVec 32} (h : s.Alone b) :
    s.bankFrame b k f = ((s.beginFrame b k f).stepPeriod b k).captureBank b k := by
  have ha : (((s.beginFrame b k f).stepPeriod b k).captureBank b k).Alone b :=
    State.BankOnly.refl.beginFrame.stepPeriod.captureBank.alone h
  show forAll (bankAxes b) (fun s n => s.shareDue k n) ((((s.beginFrame b k f).stepPeriod b k).captureBank b k).groupPeriods b) = _
  rw [ha.groupPeriods]
  exact forAll_eq_self fun n hn => ha.shareDue (mem_bankAxes.mp hn)

/-- How the carrier runs: its progress, its first and latest boundary, the frame number and the release of its start. -/
def Bank.course (x : Bank) : Carrier × Nat × Nat × BitVec 32 × Bool := (x.carrier, x.firstTick, x.frameTick, x.frameNo, x.half)

theorem State.course_beginFrame {k : Nat} {f : BitVec 32} : ((s.beginFrame b k f).bnk b).course =
    ((s.bnk b).carrier, (s.bnk b).firstTick, k, f, (s.bnk b).half) := by
  have hite : ∀ (c : Prop) [Decidable c] (x : State), (if c then x.countSat Fld.BNK_FLT_CUT_CNT b.val else x).bnk b = x.bnk b := by
    intro c _ x
    split <;> rfl
  simp only [State.beginFrame, State.setFld_bnk, State.bnk_setBnk_same, hite]
  rfl

theorem State.course_stepPeriod {k : Nat} : ((s.stepPeriod b k).bnk b).course = (s.bnk b).course := by
  simp only [State.stepPeriod, State.setFld_bnk, State.bnk_setBnk_same]
  rfl

theorem State.banks_captureBank {k : Nat} : (s.captureBank b k).banks = s.banks :=
  State.Within.captureBank (State.Within.refl (k := 0x11000)) rfl .banks (by decide)

theorem State.course_refreshBrake : ((s.refreshBrake b).bnk b).course = (s.bnk b).course := by
  simp only [State.refreshBrake, State.setBit_bnk, State.bnk_setBnk_same]
  rfl

theorem State.banks_refreshAxes : (forAll (bankAxes b) State.refreshAxis s).banks = s.banks :=
  forAll_induction (P := fun t => t.banks = s.banks) rfl fun t _ _ ht =>
    Eq.trans (State.Within.refreshAxis (State.Within.refl (k := 0x1010)) rfl .banks (by decide)) ht

/-! ## Fields of the bank at its boundaries -/

variable {f g : Fld} {v : Nat}

/-- Fields of two registers of a bank. -/
theorem Fld.clear_bank (hf : 0x20000 ≤ f.reg.spec.base ∧ f.reg.spec.base < 0x21000)
    (hg : 0x20000 ≤ g.reg.spec.base ∧ g.reg.spec.base < 0x21000) (h : f.reg ≠ g.reg) : f.Clear b.val g b.val :=
  .inl ((Reg.paged_bank hg).addr_ne (Reg.paged_bank hf) h)

/-- An update of one axis leaves the registers of the banks. -/
theorem State.Keeps.axisOnly (h : State.Keeps f b.val s t) (hf : 0x20000 ≤ f.reg.spec.base ∧ f.reg.spec.base < 0x21000) (hu : u.Sound)
    (ha : State.AxisOnly n t u) : State.Keeps f b.val s u := by
  refine ⟨hu, Eq.trans ?_ h.fld⟩
  have hoff : OffPage n (f.reg.addr b.val) := by
    rw [(Reg.paged_bank hf).addr_eq]
    unfold OffPage
    omega
  rw [State.fld_eq, State.fld_eq, ha.raw _ hoff]

/-- A field of the carrier or of the frame counter. -/
def Fld.OfCourse (f : Fld) : Prop := f.reg = .BNK_CARRIER ∨ f.reg = .BNK_FRAME

theorem Fld.OfCourse.page (h : f.OfCourse) : 0x20000 ≤ f.reg.spec.base ∧ f.reg.spec.base < 0x21000 := by
  rcases h with h | h <;> rw [h] <;> decide

theorem Fld.OfCourse.clear (h : f.OfCourse) (hg : 0x20000 ≤ g.reg.spec.base ∧ g.reg.spec.base < 0x21000)
    (hc : g.reg ≠ .BNK_CARRIER) (hn : g.reg ≠ .BNK_FRAME) : f.Clear b.val g b.val :=
  Fld.clear_bank h.page hg (by rcases h with h | h <;> rw [h]; exacts [hc.symm, hn.symm])

theorem State.Keeps.course_stepPeriod {k : Nat} (hf : f.OfCourse) (h : State.Keeps f b.val s t) : State.Keeps f b.val s (t.stepPeriod b k) := by
  refine State.Keeps.setFld (State.Keeps.setFld h.setBnk ?_) ?_ <;> exact hf.clear (by decide) (by decide) (by decide)

theorem State.Keeps.course_captureBank {k : Nat} (h : State.Keeps f b.val s t) : State.Keeps f b.val s (t.captureBank b k) :=
  h.of_regs h.sound.captureBank (State.Within.captureBank (State.Within.refl (k := 0x11000)) rfl .regs (by decide)).1

theorem State.Keeps.course_refreshBrake (hf : f.OfCourse) (h : State.Keeps f b.val s t) : State.Keeps f b.val s (t.refreshBrake b) :=
  h.setBnk.setBit (hf.clear (by decide) (by decide) (by decide))

theorem State.Keeps.course_refreshAxes (hf : f.OfCourse) (h : State.Keeps f b.val s t) :
    State.Keeps f b.val s (forAll (bankAxes b) State.refreshAxis t) :=
  forAll_induction h fun _ _ _ hu => hu.axisOnly hf.page hu.sound.refreshAxis State.AxisOnly.refl.refreshAxis

theorem State.Sound.beginFrame {k : Nat} {f : BitVec 32} (h : s.Sound) : (s.beginFrame b k f).Sound :=
  (State.Sound.setBnk (State.Sound.ite (fun _ => h.fbAtBank.countSat) fun _ => h.fbAtBank)).setFld

theorem State.Keeps.running_beginFrame {k : Nat} {f : BitVec 32} (h : State.Keeps Fld.BNK_CARRIER_RUNNING b.val s t) :
    State.Keeps Fld.BNK_CARRIER_RUNNING b.val s (t.beginFrame b k f) := by
  have hfb : State.Keeps Fld.BNK_CARRIER_RUNNING b.val s (t.fbAtBank b k) := h.of_regs h.sound.fbAtBank rfl
  refine State.Keeps.setFld (State.Keeps.setBnk (State.Keeps.ite (State.Keeps.setFld hfb ?_) hfb)) ?_ <;>
    exact Fld.clear_bank (by decide) (by decide) (by decide)

/-! ## CARRIER_START -/

/-- The bank at the first boundary of its start. -/
def State.startsAt (s : State) (b : BankId) (k : Nat) : State :=
  (s.setBnk b { s.bnk b with carrier := .running, firstTick := k, everStarted := true, half := s.bit Fld.BNK_RELEASE_LAT b.val }).setBit
    Fld.BNK_CARRIER_RUNNING b.val true

/-- The frame number of the first boundary, from DT. -/
def State.firstFrame (s : State) (b : BankId) (k : Nat) : BitVec 32 := BitVec.ofNat 32 (s.dtAt k / (4 * max 1 (s.bnk b).period))

/-- The state after the first boundary of a start. -/
def State.started (s : State) (b : BankId) (k : Nat) : State :=
  forAll (bankAxes b) State.refreshAxis
    (((((s.startsAt b k).beginFrame b k (s.firstFrame b k)).stepPeriod b k).captureBank b k).refreshBrake b)

theorem State.BankOnly.startsAt {k : Nat} : State.BankOnly b s (s.startsAt b k) := State.BankOnly.refl.setBnk.setBit (by decide)

theorem exec_carrierStart_eq {k : Nat} (hc : (s.bnk b).carrier = .starting k) (hk : k ≤ s.tick) (ha : s.Alone b) :
    exec (.carrierStart b) s = .next (s.started b k) := by
  have hlt : ¬s.tick < k := by omega
  have hframe := State.bankFrame_eq (k := k) (f := s.firstFrame b k) (State.BankOnly.startsAt (k := k).alone ha)
  show execCarrierStart b s = _
  unfold execCarrierStart
  simp only [hc, if_neg hlt]
  exact congrArg (fun x => (.next (forAll (bankAxes b) State.refreshAxis (State.refreshBrake x b)) : Out)) hframe

theorem State.bankOnly_started {k : Nat} : State.BankOnly b s (s.started b k) :=
  State.BankOnly.startsAt.beginFrame.stepPeriod.captureBank.refreshBrake.refreshAxes

theorem State.course_started {k : Nat} : ((s.started b k).bnk b).course =
    (.running, k, k, s.firstFrame b k, s.bit Fld.BNK_RELEASE_LAT b.val) := by
  have hb : (s.started b k).bnk b =
      (((((s.startsAt b k).beginFrame b k (s.firstFrame b k)).stepPeriod b k).captureBank b k).refreshBrake b).bnk b := by
    simp only [State.started, State.bnk, State.banks_refreshAxes]
  have hcap : ∀ x : State, (x.captureBank b k).bnk b = x.bnk b := fun x => by simp only [State.bnk, State.banks_captureBank]
  rw [hb, State.course_refreshBrake, hcap, State.course_stepPeriod, State.course_beginFrame]
  simp only [State.startsAt, State.setBit_bnk, State.bnk_setBnk_same]

theorem State.started_frame {k : Nat} (hs : s.Sound) : (s.started b k).fld Fld.BNK_FRAME_FRAME b.val = (s.firstFrame b k).toNat := by
  have hof : Fld.BNK_FRAME_FRAME.OfCourse := .inr rfl
  have hst : (s.startsAt b k).Sound := hs.setBnk.setBit
  have hk := State.Keeps.refl (f := Fld.BNK_FRAME_FRAME) (i := b.val) (hst.beginFrame (b := b) (k := k) (f := s.firstFrame b k))
  refine (State.Keeps.course_refreshAxes hof ((hk.course_stepPeriod hof).course_captureBank.course_refreshBrake hof)).fld.trans ?_
  refine State.fld_setFld_eq (State.Sound.setBnk ?_) (by decide) (s.firstFrame b k).isLt
  exact State.Sound.ite (fun _ => hst.fbAtBank.countSat) fun _ => hst.fbAtBank

theorem State.started_running {k : Nat} (hs : s.Sound) : (s.started b k).bit Fld.BNK_CARRIER_RUNNING b.val = true := by
  have hof : Fld.BNK_CARRIER_RUNNING.OfCourse := .inl rfl
  have hst : (s.startsAt b k).Sound := hs.setBnk.setBit
  have hk := State.Keeps.refl (f := Fld.BNK_CARRIER_RUNNING) (i := b.val) hst
  have hfld : (s.started b k).fld Fld.BNK_CARRIER_RUNNING b.val = _ := (State.Keeps.course_refreshAxes hof
    ((hk.running_beginFrame.course_stepPeriod hof).course_captureBank.course_refreshBrake hof)).fld
  exact (congrArg (· == 1) hfld).trans (State.bit_setBit_eq hs.setBnk (by decide) (by decide))

end Sys2Proof.Machine
end

section
/-! PROOF. The boundary at which a bank carrier stops (05_power_stage.md R156; O26). -/

namespace Sys2Proof.Machine

variable {s t u : State} {b : BankId} {n m : AxId} {k : Nat}

/-! ## Updates of one axis that leave OFF or enter it -/

theorem State.AxisOnly.complete {src : CmdSrc} {c : CompCode} {reason flags : Nat} {data : List Byte} {dt : Nat}
    (h : State.AxisOnly n s t) : State.AxisOnly n s (t.complete src c reason flags data dt) := h.of_eq rfl rfl

theorem State.AxisOnly.event {fn : FnId} {type src detail : Nat} {data : List Byte} (h : State.AxisOnly n s t) :
    State.AxisOnly n s (t.event fn type src detail data) := by
  have hdrop : ∀ v, State.AxisOnly n s (t.setFld Fld.HIF_FSTAT_EVT_DROP fn.val v) := fun v => by
    refine h.trans ⟨fun a ha => State.raw_setWord_ne ?_, fun _ _ => rfl⟩
    have hbase : 0x100000 ≤ Fld.HIF_FSTAT_EVT_DROP.reg.addr fn.val := by
      have : 0x100000 ≤ Fld.HIF_FSTAT_EVT_DROP.reg.spec.base := by decide
      unfold Reg.addr
      omega
    have := ha.1
    omega
  exact State.AxisOnly.ite (fun _ => h.of_eq rfl rfl) fun _ => (hdrop _).of_eq rfl rfl

theorem State.AxisOnly.dropMail (h : State.AxisOnly n s t) : State.AxisOnly n s (t.dropMail n) := by
  unfold State.dropMail
  refine forAll_induction (State.AxisOnly.of_eq (forAll_induction h.setAx fun _ _ _ hu => hu.complete) rfl rfl) fun _ _ _ hu => hu.complete

theorem State.AxisOnly.latchOff (h : State.AxisOnly n s t) : State.AxisOnly n s (t.latchOff n) := by
  unfold State.latchOff
  exact forAll_induction (h.setFld (by decide)).setAx fun _ _ _ hu => hu.of_eq rfl rfl

theorem State.AxisOnly.putAxState {st : AxState} {cause : Nat} (h : State.AxisOnly n s t) :
    State.AxisOnly n s (t.putAxState n st cause) := by
  have hset := (h.setFld (f := Fld.AX_STATE_STATE) (v := st.code) (by decide)).setAx
    (x := { t.ax n with entryTick := t.tick, imposed := false, startOff := false, stop := none })
  exact (State.AxisOnly.ite (fun _ => hset) fun _ => hset.event).refreshAxis

theorem State.AxisOnly.enterOff {cause : Nat} (h : State.AxisOnly n s t) : State.AxisOnly n s (t.enterOff n cause) :=
  h.dropMail.latchOff.putAxState

theorem State.AxisOnly.setCoast {c : Bool} (h : State.AxisOnly n s t) : State.AxisOnly n s (t.setCoast n c) :=
  have hfo : State.AxisOnly n s (t.setFailover n { t.failover n with coast := c }) := h.of_eq rfl rfl
  (hfo.setBit (f := Fld.AX_PSTAT_COAST) (by decide)).refreshAxis

theorem State.AxisOnly.refreshCoast (h : State.AxisOnly n s t) : State.AxisOnly n s (t.refreshCoast n) :=
  State.AxisOnly.ite (fun _ => h) fun _ => h.setCoast

theorem State.AxisOnly.stopPreload (h : State.AxisOnly n s t) : State.AxisOnly n s (t.stopPreload n k) := by
  unfold State.stopPreload
  split
  · exact h.of_eq rfl rfl
  · exact h

/-- The axis without its frame: the boundary at which its carrier stops is no frame boundary. -/
def Axis.unframed (x : Axis) : Axis :=
  { x with framed := false, nextB := none, due := [], sample := none, sampledAt := none, ofsPend := none }

/-- The axis has lost its frame. -/
def State.unframe (s : State) (k : Nat) (n : AxId) : State := (s.stopPreload n k).setAx n ((s.stopPreload n k).ax n).unframed

/-- What the stop of its carrier makes of an axis. -/
def State.stopAxis (k : Nat) (s : State) (n : AxId) : State :=
  (if (s.unframe k n).axState n = .idle then (s.unframe k n).enterOff n 7 else (s.unframe k n).refreshAxis n).refreshCoast n

theorem State.AxisOnly.unframe (h : State.AxisOnly n s t) : State.AxisOnly n s (t.unframe k n) := h.stopPreload.setAx

theorem State.AxisOnly.stopAxis (h : State.AxisOnly n s t) : State.AxisOnly n s (t.stopAxis k n) :=
  (State.AxisOnly.ite (fun _ => h.unframe.enterOff) fun _ => h.unframe.refreshAxis).refreshCoast

theorem State.Sound.unframe (h : s.Sound) : (s.unframe k n).Sound := h.stopPreload.setAx fun hs => hs.ax n

theorem State.Sound.stopAxis (h : s.Sound) : (s.stopAxis k n).Sound :=
  (State.Sound.ite (fun _ => h.unframe.enterOff) fun _ => h.unframe.refreshAxis).refreshCoast

/-! ## The frame and the released values of the axis -/

theorem State.ax_of_axes (h : t.axes = s.axes) : t.ax n = s.ax n := by simp only [State.ax, h]

theorem State.frame_putAxState {st : AxState} {cause : Nat} : ((s.putAxState n st cause).ax n).frame = (s.ax n).frame := by
  refine State.frame_refreshAxis.trans ?_
  rw [State.ax_of_axes (State.Within.stateRecord (State.Within.refl (k := 0x80010)) rfl .axes (by decide)), State.ax_setAx_same]
  rfl

theorem State.frame_setCoast {c : Bool} : ((s.setCoast n c).ax n).frame = (s.ax n).frame := State.frame_refreshAxis

theorem State.frame_refreshCoast : ((s.refreshCoast n).ax n).frame = (s.ax n).frame := by
  unfold State.refreshCoast
  simp only
  split
  · rfl
  · exact State.frame_setCoast

theorem State.frame_dropMail : ((s.dropMail n).ax n).frame = (s.ax n).frame := by
  refine forAll_induction (P := fun u => (u.ax n).frame = (s.ax n).frame) ?_ fun _ _ _ hu => hu
  rw [State.setMotion_ax]
  refine forAll_induction (P := fun u => (u.ax n).frame = (s.ax n).frame) ?_ fun _ _ _ hu => hu
  rw [State.ax_setAx_same]
  rfl

theorem State.frame_latchOff : ((s.latchOff n).ax n).frame = ((s.ax n).framed, (s.ax n).nextB, .off) := by
  refine forAll_induction (P := fun u => (u.ax n).frame = ((s.ax n).framed, (s.ax n).nextB, .off)) ?_ fun _ _ _ hu => hu
  rw [State.ax_setAx_same]
  rfl

theorem State.frame_enterOff {cause : Nat} : ((s.enterOff n cause).ax n).frame = ((s.ax n).framed, (s.ax n).nextB, .off) := by
  have hmail : (((s.dropMail n).ax n).framed, ((s.dropMail n).ax n).nextB) = ((s.ax n).framed, (s.ax n).nextB) :=
    congrArg (fun x => (x.1, x.2.1)) State.frame_dropMail
  obtain ⟨hf, hb⟩ := Prod.mk.inj hmail
  rw [State.enterOff, State.frame_putAxState, State.frame_latchOff, hf, hb]

theorem State.frame_unframe : ((s.unframe k n).ax n).frame = (false, none, (s.ax n).released) := by
  have hax : (s.stopPreload n k).ax n = s.ax n :=
    State.ax_of_axes (State.Within.stopPreload (State.Within.refl (k := 0x4000)) rfl .axes (by decide))
  simp only [State.unframe, State.ax_setAx_same, Axis.frame, Axis.unframed, hax]

/-! ## The state of the axis -/

theorem State.axState_unframe : (s.unframe k n).axState m = s.axState m := by
  have hregs : (s.stopPreload n k).regs = s.regs := (State.Within.stopPreload (State.Within.refl (k := 0x4000)) rfl .regs (by decide)).1
  show AxState.ofCode ((s.stopPreload n k).fld Fld.AX_STATE_STATE m.val) = _
  simp only [State.axState, State.fld, State.word, hregs]

theorem State.Keeps.axState (h : State.Keeps Fld.AX_STATE_STATE n.val s t) : t.axState n = s.axState n := congrArg AxState.ofCode h.fld

theorem State.Keeps.state_event {fn : FnId} {type src detail : Nat} {data : List Byte} (h : State.Keeps Fld.AX_STATE_STATE n.val s t) :
    State.Keeps Fld.AX_STATE_STATE n.val s (t.event fn type src detail data) := by
  have hclear : Fld.AX_STATE_STATE.Clear n.val Fld.HIF_FSTAT_EVT_DROP fn.val := by
    have hstate : Fld.AX_STATE_STATE.reg.addr n.val < 0x100000 := by
      have hp : Fld.AX_STATE_STATE.reg.Paged 0x40000 48 := Reg.paged_axis (by decide)
      have := hp.high
      rw [hp.addr_eq]
      omega
    have hfstat : 0x100000 ≤ Fld.HIF_FSTAT_EVT_DROP.reg.spec.base := by decide
    refine .inl (Nat.ne_of_lt (Nat.lt_of_lt_of_le hstate (hfstat.trans ?_)))
    unfold Reg.addr
    omega
  refine ⟨h.sound.event, Eq.trans ?_ h.fld⟩
  unfold State.event State.queueEvent
  simp only
  split
  · rfl
  · exact (State.Keeps.setFld (State.Keeps.refl (h.sound.setFn (f := fn))) hclear).fld

theorem State.Keeps.state_setCoast {c : Bool} (h : State.Keeps Fld.AX_STATE_STATE n.val s t) :
    State.Keeps Fld.AX_STATE_STATE n.val s (t.setCoast n c) := by
  have hfo : State.Keeps Fld.AX_STATE_STATE n.val s (t.setFailover n { t.failover n with coast := c }) := h.of_regs h.sound.setFailover rfl
  exact (hfo.setBit (Fld.clear_axis (by decide) (by decide) (by decide))).state_refreshAxis

theorem State.Keeps.state_refreshCoast (h : State.Keeps Fld.AX_STATE_STATE n.val s t) :
    State.Keeps Fld.AX_STATE_STATE n.val s (t.refreshCoast n) := h.ite h.state_setCoast

theorem State.axState_putAxState {st : AxState} {cause : Nat} (hs : s.Sound) : (s.putAxState n st cause).axState n = st := by
  have hset : ((s.setFld Fld.AX_STATE_STATE n.val st.code).axState n) = st := by
    have hlt : st.code < 2 ^ Fld.AX_STATE_STATE.width := by cases st <;> decide
    rw [State.axState, State.fld_setFld_eq hs (by decide) hlt]
    cases st <;> rfl
  have hsf : (s.setFld Fld.AX_STATE_STATE n.val st.code).Sound := hs.setFld
  have hk := State.Keeps.of_regs (State.Keeps.refl (f := Fld.AX_STATE_STATE) (i := n.val) hsf)
    (State.Sound.setAx hsf fun h => h.ax n) (u := (s.setFld Fld.AX_STATE_STATE n.val st.code).setAx n
      { s.ax n with entryTick := s.tick, imposed := false, startOff := false, stop := none }) rfl
  exact (State.Keeps.state_refreshAxis (hk.ite hk.state_event)).axState.trans hset

theorem State.axState_enterOff {cause : Nat} (hs : s.Sound) : (s.enterOff n cause).axState n = .off :=
  State.axState_putAxState hs.dropMail.latchOff

/-! ## What the stop makes of an axis of the bank -/

/-- An axis of a carrier that stops has no frame; from IDLE it goes OFF, its released values with it. -/
structure State.AxisStopped (n : AxId) (s t : State) : Prop where
  framed : (t.ax n).framed = false
  nextB : (t.ax n).nextB = none
  idle : s.axState n = .idle → t.axState n = .off ∧ (t.ax n).released = .off
  off : s.axState n = .off → t.axState n = .off

theorem State.axisStopped_stopAxis (hs : s.Sound) : State.AxisStopped n s (s.stopAxis k n) := by
  obtain ⟨hf, hb, hr⟩ : ((s.unframe k n).ax n).framed = false ∧ ((s.unframe k n).ax n).nextB = none ∧
      ((s.unframe k n).ax n).released = (s.ax n).released := by
    simpa only [Axis.frame, Prod.mk.injEq] using (State.frame_unframe (s := s) (k := k) (n := n))
  by_cases hi : s.axState n = .idle
  · have heq : s.stopAxis k n = ((s.unframe k n).enterOff n 7).refreshCoast n := by
      rw [State.stopAxis, if_pos (State.axState_unframe.trans hi)]
    have hframe : ((s.stopAxis k n).ax n).frame = (false, none, .off) := by
      rw [heq, State.frame_refreshCoast, State.frame_enterOff, hf, hb]
    simp only [Axis.frame, Prod.mk.injEq] at hframe
    have hoff : (s.stopAxis k n).axState n = .off := by
      rw [heq, (State.Keeps.refl hs.unframe.enterOff).state_refreshCoast.axState, State.axState_enterOff hs.unframe]
    exact ⟨hframe.1, hframe.2.1, fun _ => ⟨hoff, hframe.2.2⟩, fun h => absurd (hi.symm.trans h) (by decide)⟩
  · have heq : s.stopAxis k n = ((s.unframe k n).refreshAxis n).refreshCoast n := by
      rw [State.stopAxis, if_neg fun h => hi (State.axState_unframe.symm.trans h)]
    have hframe : ((s.stopAxis k n).ax n).frame = ((s.unframe k n).ax n).frame := by
      rw [heq, State.frame_refreshCoast, State.frame_refreshAxis]
    simp only [Axis.frame, Prod.mk.injEq] at hframe
    have hstate : (s.stopAxis k n).axState n = s.axState n := by
      rw [heq, (State.Keeps.refl hs.unframe).state_refreshAxis.state_refreshCoast.axState, State.axState_unframe]
    exact ⟨hframe.1.trans hf, hframe.2.1.trans hb, fun h => absurd h hi, fun h => hstate.trans h⟩

/-! ## CARRIER_STOP -/

theorem State.AxisStopped.congr {s' t' : State} (h : State.AxisStopped n s t) (hs : s.axState n = s'.axState n) (hst : t'.axState n = t.axState n)
    (hax : t'.ax n = t.ax n) : State.AxisStopped n s' t' :=
  ⟨hax ▸ h.framed, hax ▸ h.nextB, fun hi => by rw [hst, hax]; exact h.idle (hs.trans hi), fun ho => hst.trans (h.off (hs.trans ho))⟩

/-- A run over axes that `n` is not one of keeps the axis. -/
theorem State.forAll_stopAxis_other {l : List AxId} (hn : n ∉ l) :
    (forAll l (State.stopAxis k) s).ax n = s.ax n ∧ (forAll l (State.stopAxis k) s).axState n = s.axState n := by
  refine forAll_induction (P := fun t => t.ax n = s.ax n ∧ t.axState n = s.axState n) ⟨rfl, rfl⟩ fun t m hm ht => ?_
  have hne : n ≠ m := fun h => hn (h ▸ hm)
  have honly : State.AxisOnly m t (t.stopAxis k m) := State.AxisOnly.refl.stopAxis
  exact ⟨(honly.ax n hne).trans ht.1, (honly.axState hne).trans ht.2⟩

/-- A run over axes stops each of them. -/
theorem State.axisStopped_forAll {l : List AxId} (hl : l.Nodup) (hn : n ∈ l) (hs : s.Sound) :
    State.AxisStopped n s (forAll l (State.stopAxis k) s) := by
  induction l generalizing s with
  | nil => exact absurd hn List.not_mem_nil
  | cons a l ih =>
    obtain ⟨ha, hl⟩ := List.nodup_cons.mp hl
    show State.AxisStopped n s (forAll l (State.stopAxis k) (s.stopAxis k a))
    by_cases hna : n = a
    · subst hna
      obtain ⟨hax, hst⟩ := State.forAll_stopAxis_other (s := s.stopAxis k n) (k := k) ha
      exact (State.axisStopped_stopAxis hs).congr rfl hst hax
    · have honly : State.AxisOnly a s (s.stopAxis k a) := State.AxisOnly.refl.stopAxis
      exact (ih hl ((List.mem_cons.mp hn).resolve_left hna) hs.stopAxis).congr (honly.axState hna) rfl rfl

theorem bankAxes_nodup : (bankAxes b).Nodup := (List.nodup_finRange 48).filter _

/-- What the stop makes of the bank itself. -/
def State.haltBank (s : State) (b : BankId) (k : Nat) : State :=
  let s := s.setBnk b { s.bnk b with carrier := .stopped, frameTick := k, steps := 0, transit := false,
                                     period := s.fld Fld.BNK_CARRIER_PERIOD b.val }
  let s := ((s.setFld Fld.BNK_PNOW_PSTEP b.val 0).setBit Fld.BNK_CARRIER_RUNNING b.val false).setFld Fld.BNK_PNOW_PERIOD b.val 0
  { s with fbPend := s.fbPend.map fun w => if fbBank w.addr = some b then { w with at_ := Nat.max w.at_ k, direct := true } else w }

theorem State.banks_stopAxes {l : List AxId} : (forAll l (State.stopAxis k) s).banks = s.banks := by
  refine forAll_induction (P := fun t => t.banks = s.banks) rfl fun t n _ ht => Eq.trans ?_ ht
  have hun : State.Within 0x800095810 t (t.unframe k n) := ((State.Within.refl (k := 0x800095810)).stopPreload rfl).setAx rfl
  exact (State.Within.ite (fun _ => hun.enterOff rfl) fun _ => hun.refreshAxis rfl).refreshCoast rfl .banks (by decide)

theorem State.carrier_haltBank : ((s.haltBank b k).bnk b).carrier = .stopped := by
  show (((s.setBnk b _).bnk b).carrier) = _
  rw [State.bnk_setBnk_same]

theorem State.BankOnly.setFbPend {l : List FbWrite} (h : State.BankOnly b s t) : State.BankOnly b s { t with fbPend := l } :=
  ⟨h.raw, h.engines, h.fo, h.bnk, h.ax⟩

theorem State.BankOnly.haltBank : State.BankOnly b s (s.haltBank b k) :=
  (((State.BankOnly.refl.setBnk.setFld (by decide)).setBit (by decide)).setFld (by decide)).setFbPend

/-- The state after the boundary at which the carrier stops. -/
def State.carrierStopped (s : State) (b : BankId) : State :=
  forAll (bankAxes b) (State.stopAxis ((s.bnk b).frameTick + (s.bnk b).period)) (s.haltBank b ((s.bnk b).frameTick + (s.bnk b).period))

theorem exec_carrierStop_eq (hc : (s.bnk b).carrier = .stopping false) (hk : (s.bnk b).frameTick + (s.bnk b).period ≤ s.tick) :
    exec (.carrierStop b) s = .next (s.carrierStopped b) := by
  have hlt : ¬s.tick < (s.bnk b).frameTick + (s.bnk b).period := by omega
  have hcar : ((s.carrierStopped b).bnk b).carrier = .stopped := by
    simp only [State.carrierStopped, State.bnk, State.banks_stopAxes]
    exact State.carrier_haltBank
  have htry : (s.carrierStopped b).tryStart b = s.carrierStopped b :=
    State.tryStart_eq_self (by rw [hcar]; decide) (by rw [hcar]; exact fun _ => nofun)
  show execCarrierStop b s = _
  unfold execCarrierStop
  simp only [hc, if_neg hlt]
  exact congrArg (fun x => (.next x : Out)) htry

theorem State.Sound.setFbPend {l : List FbWrite} (h : s.Sound) : State.Sound { s with fbPend := l } :=
  ⟨h.regs, h.force, h.shmem, h.engines, h.axes, h.slots⟩

theorem State.Sound.haltBank (h : s.Sound) : (s.haltBank b k).Sound := h.setBnk.setFld.setBit.setFld.setFbPend

/-- The registers of a bank are no axis state. -/
theorem Fld.clear_axState {g : Fld} (hg : 0x20000 ≤ g.reg.spec.base ∧ g.reg.spec.base < 0x21000) :
    Fld.AX_STATE_STATE.Clear n.val g b.val := by
  refine .inl (Reg.addr_ne Reg.isBlock_bank (Reg.paged_bank hg) b.isLt n.isLt fun h => ?_)
  have hbase : 0x40000 ≤ Fld.AX_STATE_STATE.reg.spec.base := by decide
  rw [h] at hbase
  omega

theorem State.axState_haltBank (hs : s.Sound) : (s.haltBank b k).axState n = s.axState n := by
  have hk : State.Keeps Fld.AX_STATE_STATE n.val s (s.haltBank b k) :=
    State.Keeps.of_regs (((((State.Keeps.refl hs).setBnk).setFld (Fld.clear_axState (by decide))).setBit
      (Fld.clear_axState (by decide))).setFld (Fld.clear_axState (by decide))) hs.haltBank rfl
  exact hk.axState

/-- The stop of the axes leaves the fields of the bank. -/
theorem State.Keeps.stopAxes {f : Fld} {l : List AxId} (hf : 0x20000 ≤ f.reg.spec.base ∧ f.reg.spec.base < 0x21000) (hs : s.Sound) :
    State.Keeps f b.val s (forAll l (State.stopAxis k) s) :=
  forAll_induction (.refl hs) fun _ _ _ ht => ht.axisOnly hf ht.sound.stopAxis State.AxisOnly.refl.stopAxis

theorem State.carrierStopped_running (hs : s.Sound) : (s.carrierStopped b).bit Fld.BNK_CARRIER_RUNNING b.val = false := by
  have hset : ∀ u : State, u.Sound → ((u.setBit Fld.BNK_CARRIER_RUNNING b.val false).setFld Fld.BNK_PNOW_PERIOD b.val 0).bit
      Fld.BNK_CARRIER_RUNNING b.val = false := fun u hu => by
    have hk := (State.Keeps.refl (f := Fld.BNK_CARRIER_RUNNING) (i := b.val) (hu.setBit (f := Fld.BNK_CARRIER_RUNNING) (i := b.val)
      (b := false))).setFld (v := 0) (Fld.clear_bank (b := b) (g := Fld.BNK_PNOW_PERIOD) (by decide) (by decide) (by decide))
    exact (congrArg (· == 1) hk.fld).trans (State.bit_setBit_eq hu (by decide) (by decide))
  exact (congrArg (· == 1) (State.Keeps.stopAxes (f := Fld.BNK_CARRIER_RUNNING) (by decide) hs.haltBank).fld).trans
    (hset _ hs.setBnk.setFld)

theorem State.carrierStopped_pnow (hs : s.Sound) : (s.carrierStopped b).fld Fld.BNK_PNOW_PERIOD b.val = 0 :=
  (State.Keeps.stopAxes (f := Fld.BNK_PNOW_PERIOD) (by decide) hs.haltBank).fld.trans
    (State.fld_setFld_eq hs.setBnk.setFld.setBit (by decide) (by decide))

theorem State.carrierStopped_bnk : (s.carrierStopped b).bnk = (s.haltBank b ((s.bnk b).frameTick + (s.bnk b).period)).bnk :=
  funext fun b' => by simp only [State.carrierStopped, State.bnk, State.banks_stopAxes]

theorem State.carrierStopped_ax (hn : n.bank ≠ b) : (s.carrierStopped b).ax n = s.ax n :=
  (State.forAll_stopAxis_other fun h => hn (mem_bankAxes.mp h)).1.trans (State.BankOnly.haltBank.ax n hn)

theorem State.carrierStopped_axis (hs : s.Sound) (hn : n.bank = b) : State.AxisStopped n s (s.carrierStopped b) :=
  (State.axisStopped_forAll bankAxes_nodup (mem_bankAxes.mpr hn) hs.haltBank).congr (State.axState_haltBank hs) rfl rfl

end Sys2Proof.Machine
end

section
/-! PROOF. FB writes while the carrier counts as stopped (00_scope.md R10), and the carriers of the banks (O26). -/

namespace Sys2Proof.Machine

variable {s t : State} {b : BankId} {n : AxId} {r : Reg} {u v : Word} {a i j : Nat}

/-! ## FB writes that wait for no boundary -/

/-- The bank whose boundaries an FB register of a bank waits for. -/
theorem fbBank_bank (h : r ∈ bnkFbRegs) : fbBank (r.addr b.val) = some b := by
  have hpage : ∀ q ∈ bnkFbRegs, 0x20000 ≤ q.spec.base ∧ q.spec.base < 0x21000 := by decide
  simp [fbBank, Reg.find_addr Reg.isBlock_bank (Reg.paged_bank (hpage r h)) b.isLt, h]

/-- An FB register of an axis or of its bank. -/
theorem fbBank_reg (h : r ∈ axFbRegs ∨ r ∈ bnkFbRegs) :
    fbBank (if r ∈ axFbRegs then r.addr n.val else r.addr n.bank.val) = some n.bank := by
  by_cases ha : r ∈ axFbRegs
  · rw [if_pos ha, fbBank_axis ha]
  · rw [if_neg ha, fbBank_bank (h.resolve_left ha)]

theorem FbWrite.directDue_eq {k : Nat} {direct : Bool} (ha : fbBank a = some b) :
    FbWrite.directDue b k ⟨a, u, i, direct⟩ = (direct && decide (i + 2 ≤ k)) := by
  simp [FbWrite.directDue, ha]

/-- What FB_WRITE_STOPPED makes of an axis: a preload that is due is taken, and the legs follow. -/
def State.stoppedAxis (s : State) (n : AxId) : State :=
  (if (s.fbk n).preload.any Preload.direct then s.takePreload s.tick n else s).refreshAxis n

theorem State.Within.stoppedAxes {l : List AxId} : State.Within 0x15010 s (Machine.forAll l State.stoppedAxis s) :=
  State.Within.refl.forAll fun _ _ h => (State.Within.ite (fun _ => h.takePreload rfl) fun _ => h).refreshAxis rfl

/-- The FB writes that are due are put in force; the axes change neither these nor the banks and engines. -/
theorem exec_fbWriteStopped : ∃ t, exec (.fbWriteStopped b) s = .next t ∧ t.fbPend = (s.applyFb (FbWrite.directDue b s.tick)).fbPend ∧
    t.force = (s.applyFb (FbWrite.directDue b s.tick)).force ∧ t.banks = s.banks ∧ t.engines = s.engines := by
  have h := State.Within.stoppedAxes (s := s.applyFb (FbWrite.directDue b s.tick)) (l := bankAxes b)
  exact ⟨_, rfl, h .fbPend (by decide), h .force (by decide), h .banks (by decide), h .engines (by decide)⟩

/-- A write that waits for a boundary is left waiting. -/
theorem State.applyFb_waiting (ha : fbBank a = some b) (hp : s.fbPend = [⟨a, u, i, false⟩]) :
    (s.applyFb (FbWrite.directDue b s.tick)).fbPend = s.fbPend ∧ (s.applyFb (FbWrite.directDue b s.tick)).force = s.force := by
  simp [State.applyFb, hp, FbWrite.directDue_eq ha]

/-- Two writes of one register, both due. -/
theorem State.applyFb_both (ha : fbBank a = some b) (hp : s.fbPend = [⟨a, u, i, true⟩, ⟨a, v, j, true⟩]) (hi : i + 2 ≤ s.tick)
    (hj : j + 2 ≤ s.tick) : (s.applyFb (FbWrite.directDue b s.tick)).fbPend = [] ∧
      (s.applyFb (FbWrite.directDue b s.tick)).force = Sparse.put Reg.resetAt (Sparse.put Reg.resetAt s.force a u) a v := by
  simp [State.applyFb, hp, FbWrite.directDue_eq ha, hi, hj]

/-- Two writes of one register, the earlier one due. -/
theorem State.applyFb_first (ha : fbBank a = some b) (hp : s.fbPend = [⟨a, u, i, true⟩, ⟨a, v, j, true⟩]) (hi : i + 2 ≤ s.tick)
    (hj : ¬j + 2 ≤ s.tick) : (s.applyFb (FbWrite.directDue b s.tick)).fbPend = [⟨a, v, j, true⟩] ∧
      (s.applyFb (FbWrite.directDue b s.tick)).force = Sparse.put Reg.resetAt s.force a u := by
  simp [State.applyFb, hp, FbWrite.directDue_eq ha, hi, hj]

/-- Two writes of one register, none due. -/
theorem State.applyFb_none (ha : fbBank a = some b) (hp : s.fbPend = [⟨a, u, i, true⟩, ⟨a, v, j, true⟩]) (hi : ¬i + 2 ≤ s.tick)
    (hj : ¬j + 2 ≤ s.tick) : (s.applyFb (FbWrite.directDue b s.tick)).fbPend = s.fbPend ∧
      (s.applyFb (FbWrite.directDue b s.tick)).force = s.force := by
  simp [State.applyFb, hp, FbWrite.directDue_eq ha, hi, hj]

end Sys2Proof.Machine

open Sys2Proof Sys2Proof.Machine

/-- Settles O26: each request and boundary by its own equation, then what it leaves; FB writes by which of the two are due. -/
theorem carriersAndFbWrites : Obligations.CarriersAndFbWrites := by
  refine ⟨fun s b w hs => ?carriers, fun s n r v u i j hs => ?writes⟩
  case carriers =>
    intro x p still same alone
    refine ⟨?start, ?first, ?stopRequest, ?stop⟩
    case start =>
      intro ho hc
      have hu : State.Requests b s (s.requested b w) := State.requests_requested hs hc
      have hd := State.decided_tryStart hu.sound State.requested_carrier
      have hreq : State.Requests b s ((s.requested b w).tryStart b) := hu.tryStart
      have hper : (((s.requested b w).tryStart b).bnk b).period = if same then x.period else p :=
        (hd.start.bnk b).1.trans (State.requested_period hc)
      refine ⟨(s.requested b w).tryStart b, exec_carrierStartRequest_eq ho hc, ⟨hreq.bnk, hreq.within .axes (by decide), hreq.only⟩,
        State.tryStart_requested_fld hs hc (by decide), State.tryStart_requested_fld hs hc (by decide),
        State.tryStart_requested_fld hs hc (by decide), hper, State.tryStart_requested_run hs hc, ?_, ?_, ?_⟩
      · rw [hd.start.envelopeOk]
        exact hd.viol
      · rw [hd.start.carrierReady]
        intro hr
        rw [State.bnk, hd.waits hr]
        exact State.requested_carrier
      · rw [hd.start.carrierReady]
        intro hr
        obtain ⟨htick, hdt⟩ := hu.dtOn
        obtain ⟨m, h⟩ := State.firstBoundary_spec (s := s.requested b w) (p := (((s.requested b w).tryStart b).bnk b).period)
        rw [htick, hdt] at h
        exact ⟨_, m, hd.carrier hr, h⟩
    case first =>
      intro k hc hk ha
      have hcourse := State.course_started (s := s) (b := b) (k := k)
      simp only [Bank.course, Prod.mk.injEq] at hcourse
      obtain ⟨hrun, hfirst, htick, hno, hhalf⟩ := hcourse
      have honly : State.BankOnly b s (s.started b k) := State.bankOnly_started
      exact ⟨_, exec_carrierStart_eq hc hk ha, hrun, hfirst, htick, hno, by rw [hno]; exact State.started_frame hs, hhalf,
        State.started_running hs, honly.bnk, honly.engines, honly.ax⟩
    case stopRequest =>
      intro ho hc hw
      rw [exec_carrierStopRequest_eq ho]
      refine ⟨fun hall => ?_, fun n hn h1 h2 => by rw [State.carrierStopRequest_rejected hn h1 h2]⟩
      have hreq : State.Requests b s ((s.setBit Fld.BNK_CARRIER_RUN b.val false).setBnk b { x with carrier := .stopping false }) :=
        (State.Requests.refl hs).run.setBnk
      refine ⟨_, by rw [State.carrierStopRequest_accepted hc hw hall], ⟨hreq.bnk, rfl, hreq.only⟩, State.bnk_setBnk_same _ b _,
        State.bit_setBit_eq hs (by decide) (by decide), State.setRun_viol hs⟩
    case stop =>
      intro hc hk
      have hbank : State.BankOnly b s (s.haltBank b (x.frameTick + x.period)) := State.BankOnly.haltBank
      refine ⟨_, exec_carrierStop_eq hc hk, ?_, State.carrierStopped_running hs, State.carrierStopped_pnow hs, ?_,
        fun n hn => State.carrierStopped_ax hn, fun n hn => ?_⟩
      · rw [State.carrierStopped_bnk]
        exact State.carrier_haltBank
      · rw [State.carrierStopped_bnk]
        exact hbank.bnk
      · obtain ⟨hf, hb, hi, hoff⟩ := State.carrierStopped_axis hs hn
        exact ⟨hf, hb, hi, hoff⟩
  case writes =>
    intro a
    obtain ⟨t, ht, hpend, hforce, hbanks, heng⟩ := exec_fbWriteStopped (s := s) (b := n.bank)
    refine ⟨fun hr hp => ?_, fun hr hp hij => ?_⟩
    · obtain ⟨h1, h2⟩ := State.applyFb_waiting (fbBank_reg hr) hp
      exact ⟨t, ht, hpend.trans h1, hforce.trans h2, hbanks, heng⟩
    · refine ⟨t, ht, hbanks, heng, ?_⟩
      have ha := fbBank_reg (n := n) hr
      by_cases hj : j + 2 ≤ s.tick
      · obtain ⟨h1, h2⟩ := State.applyFb_both ha hp (by omega) hj
        rw [hpend, hforce, h1, h2]
        exact ⟨fun a' ha' => by rw [Sparse.get_put_ne ha', Sparse.get_put_ne ha'],
          fun _ => ⟨rfl, Sparse.get_put_same (Sparse.wf_put hs.force)⟩, fun h => absurd hj (by omega), fun h => absurd hj (by omega)⟩
      · by_cases hi : i + 2 ≤ s.tick
        · obtain ⟨h1, h2⟩ := State.applyFb_first ha hp hi hj
          rw [hpend, hforce, h1, h2]
          exact ⟨fun a' ha' => Sparse.get_put_ne ha', fun h => absurd h hj, fun _ _ => ⟨rfl, Sparse.get_put_same hs.force⟩,
            fun h => absurd hi (by omega)⟩
        · obtain ⟨h1, h2⟩ := State.applyFb_none ha hp hi hj
          rw [hpend, hforce, h1, h2]
          exact ⟨fun _ _ => rfl, fun h => absurd h hj, fun _ h => absurd h hi, fun _ => ⟨rfl, rfl⟩⟩
end

section
/-! PROOF. The step of the machine (01_frames_and_release.md R18; O56). -/

namespace Sys2Proof.Machine

variable {s : State}

/-- What a tick brings besides time leaves the queue, the tick and DT. -/
theorem State.within_oneTick : State.Within 0x1fffffffff8 s.tickDt s.oneTick := by
  have h : State.Within 0x1fffffffff8 s.tickDt s.tickDt := .refl
  exact (((((((h.tickMeas rfl).tickOffsets rfl).tickPlugs rfl).retryStarts rfl).continueLoad rfl).hostTurn rfl).resumeApply rfl).tickEgress rfl

/-- DT goes on by 4 ns, or takes the value of a set (R331). -/
theorem State.tickDt_time : s.tickDt.tick = s.tick + 1 ∧ s.tickDt.dt = (s.time.dtSetPend).getD (s.dt + 4) := by
  unfold State.tickDt
  cases s.time.dtSetPend with
  | none => exact ⟨rfl, rfl⟩
  | some v =>
    have h : ∀ t : State, State.Within 0x8000000 t ((t.refreshGates 0 v.toNat).refreshGates 1 v.toNat) := fun t =>
      ((State.Within.refl (k := 0x8000000)).refreshGates rfl).refreshGates rfl
    exact ⟨h _ .tick (by decide), h _ .dt (by decide)⟩

theorem step_of_pending_nil (h : s.pending = []) : step s = .next s.oneTick := by
  unfold step
  rw [h]

end Sys2Proof.Machine

open Sys2Proof Sys2Proof.Machine

/-- Settles O56: a queued command is run by definition; on an empty queue only the first part of a tick moves the time. -/
theorem stepRunsFront : Obligations.StepRunsFront := by
  intro s c rest
  refine ⟨rfl, fun hp => ⟨s.oneTick, step_of_pending_nil hp, ?_, ?_, ?_⟩⟩
  · have htick : s.oneTick.tick = s.tickDt.tick := State.within_oneTick .tick (by decide)
    exact htick.trans State.tickDt_time.1
  · have hdt : s.oneTick.dt = s.tickDt.dt := State.within_oneTick .dt (by decide)
    exact hdt.trans State.tickDt_time.2
  · have hq : s.oneTick.pending = s.pending := (State.Within.refl (k := 0x1ffffdffffe)).oneTick rfl .pending (by decide)
    exact hq.trans hp
end

section
/-! PROOF. The block at the release of power-on reset (18_register_map.md R487; O57). -/

namespace Sys2Proof.Machine

/-- A register of an axis reads its reset word where nothing has been written. -/
theorem Reg.resetAt_axis {r : Reg} {n : AxId} (h : 0x40000 ≤ r.spec.base ∧ r.spec.base < 0x41000) :
    Reg.resetAt (r.addr n.val) = r.resetWord n.val 0 := by
  rw [Reg.resetAt, Reg.find_addr Reg.isBlock_axis (Reg.paged_axis h) n.isLt]

theorem Reg.find_engStat (e : EngId) : Reg.find (Reg.ENG_STAT.addr e.val) = some (.ENG_STAT, e.val, 0) := by
  revert e
  decide +kernel

theorem State.axState_reset (n : AxId) : State.reset.axState n = .off := by
  have h : State.reset.fld Fld.AX_STATE_STATE n.val = 0 := by
    show Fld.AX_STATE_STATE.get (Reg.resetAt (Reg.AX_STATE.addr n.val)) = 0
    rw [Reg.resetAt_axis (by decide)]
    rfl
  rw [State.axState, h]
  rfl

/-- The default plan gives every engine a role, and none a state but OFF (R84). -/
theorem State.engState_reset (e : EngId) : State.reset.engState e = .off := by
  have hword : ∀ i, Fld.ENG_STAT_STATE.get (Reg.ENG_STAT.resetWord i 0) = 0 := by
    intro i
    show Fld.ENG_STAT_STATE.get (if i < 48 then 0x08 else if i < 60 then 0x10 else 0x18) = 0
    split
    · decide
    · split <;> decide
  have h : State.reset.fld Fld.ENG_STAT_STATE e.val = 0 := by
    show Fld.ENG_STAT_STATE.get (Reg.resetAt (Reg.ENG_STAT.addr e.val)) = 0
    rw [Reg.resetAt, Reg.find_engStat]
    exact hword e.val
  rw [State.engState, h]
  rfl

theorem State.ax_reset (n : AxId) : State.reset.ax n = .reset := Vector.getElem_replicate n.isLt
theorem State.bnk_reset (b : BankId) : State.reset.bnk b = .reset := Vector.getElem_replicate b.isLt
theorem State.fn_reset (f : FnId) : State.reset.fn f = .reset := Vector.getElem_replicate f.isLt

/-- Before the carrier of its bank has first started a leg is OFF (R156). -/
theorem State.legNow_reset (n : AxId) : State.reset.legNow n = .off := by
  unfold State.legNow
  rw [State.bnk_reset]
  rfl

theorem State.leg_reset (n : AxId) (l : Leg) : State.reset.leg n l = .reset := by
  rw [State.leg, State.ax_reset]
  exact Vector.getElem_replicate l.idx.isLt

end Sys2Proof.Machine

open Sys2Proof Sys2Proof.Machine

/-- Settles O57: an empty register file and empty memories read their reset values; the rest is the reset record, part by part. -/
theorem atReset : Obligations.AtReset := by
  intro r i j a n b e f s
  have hleg : ∀ l, (s.leg n l).high = false ∧ (s.leg n l).low = false := fun l => by
    rw [State.leg_reset]
    exact ⟨rfl, rfl⟩
  refine ⟨rfl, rfl, State.axState_reset n, State.legNow_reset n, ?_, hleg, ?_, State.engState_reset e, ?_, rfl, rfl, fun id => ?_⟩
  · rw [State.ax_reset]; rfl
  · rw [State.bnk_reset]; rfl
  · rw [State.fn_reset]; rfl
  · rw [State.ax_reset]; rfl
end

section
/-! PROOF. Events of the engines of an axis (02_engines.md R60, R74): what a raise leaves of the engine that takes it, and what it leaves
alone. -/

namespace Sys2Proof.Machine

variable {s t : State} {n : AxId} {e a : EngId} {k : EvKind} {src : BitVec 16} {upd : PortBlock → PortBlock}

theorem evMergeFld_reg (k : EvKind) : (evMergeFld k).reg = .ENG_EVSTAT := by cases k <;> rfl

/-- A raise counts by the state of the engine and its image. -/
theorem State.takesEvent_congr (hr : t.raw (Reg.ENG_STAT.addr e.val) = s.raw (Reg.ENG_STAT.addr e.val))
    (hi : (t.eng e).image = (s.eng e).image) : t.takesEvent e k = s.takesEvent e k := by
  have hst : t.engState e = s.engState e := congrArg (fun w => EngState.ofCode (Fld.ENG_STAT_STATE.get w)) hr
  unfold State.takesEvent State.engRuns Engine.declared_
  rw [hst, hi]

theorem State.raw_raiseEvent {x : Nat} (h : x ≠ Reg.ENG_EVSTAT.addr e.val) : (s.raiseEvent e k src upd).raw x = s.raw x := by
  have hcount : (s.countSat (evMergeFld k) e.val).raw x = s.raw x := State.raw_setWord_ne (by rw [evMergeFld_reg]; exact h)
  unfold State.raiseEvent
  simp only
  split
  · rfl
  · split
    · rfl
    · show State.raw (if _ then _ else _) x = _
      split
      · exact hcount
      · rfl

theorem State.eng_raiseEvent_ne (h : a ≠ e) : (s.raiseEvent e k src upd).eng a = s.eng a := by
  unfold State.raiseEvent
  simp only
  split
  · rfl
  · split
    · exact State.eng_setEng_ne _ e _ h
    · rw [State.eng_setEng_ne _ e _ h]
      split <;> rfl

/-- A raise of a kind other than the fault event, on an engine that takes it. -/
theorem State.eng_raiseEvent (hk : k ≠ .fault) (h : s.takesEvent e k = true) :
    k ∈ ((s.raiseEvent e k src upd).eng e).pend ∧ ((s.raiseEvent e k src upd).eng e).port = upd (s.eng e).port := by
  unfold State.raiseEvent
  simp only [h, Bool.not_true, Bool.false_eq_true, if_false, hk, false_and, State.eng_setEng_same, and_true]
  split
  · exact List.contains_iff_mem.mp ‹_›
  · simp

/-- A raise for an axis is a raise after it is noted, on a shared engine, whose event it is (R438). -/
theorem State.raiseFor_eq : ∃ u : State, s.raiseFor n e k src upd = u.raiseEvent e k src upd ∧ (∀ x, u.raw x = s.raw x) ∧
    (∀ a, a ≠ e → u.eng a = s.eng a) ∧ (u.eng e).image = (s.eng e).image ∧ (u.eng e).port = (s.eng e).port := by
  unfold State.raiseFor
  simp only
  split
  · refine ⟨_, rfl, fun _ => rfl, fun a ha => State.eng_setEng_ne _ e _ ha, ?_, ?_⟩ <;> rw [State.eng_setEng_same]
  · exact ⟨s, rfl, fun _ => rfl, fun _ _ => rfl, rfl, rfl⟩

theorem State.raw_raiseFor {x : Nat} (h : x ≠ Reg.ENG_EVSTAT.addr e.val) : (s.raiseFor n e k src upd).raw x = s.raw x := by
  obtain ⟨u, hu, hraw, -⟩ := State.raiseFor_eq (s := s) (n := n) (e := e) (k := k) (src := src) (upd := upd)
  rw [hu, State.raw_raiseEvent h, hraw]

theorem State.eng_raiseFor_ne (h : a ≠ e) : (s.raiseFor n e k src upd).eng a = s.eng a := by
  obtain ⟨u, hu, -, heng, -⟩ := State.raiseFor_eq (s := s) (n := n) (e := e) (k := k) (src := src) (upd := upd)
  rw [hu, State.eng_raiseEvent_ne h, heng a h]

theorem State.eng_raiseFor (hk : k ≠ .fault) (h : s.takesEvent e k = true) :
    k ∈ ((s.raiseFor n e k src upd).eng e).pend ∧ ((s.raiseFor n e k src upd).eng e).port = upd (s.eng e).port := by
  obtain ⟨u, hu, hraw, -, himage, hport⟩ := State.raiseFor_eq (s := s) (n := n) (e := e) (k := k) (src := src) (upd := upd)
  rw [hu, ← hport]
  exact State.eng_raiseEvent hk ((State.takesEvent_congr (hraw _) himage).trans h)

/-- A kind of event raised for every engine of a list; the values of the port block may depend on DT (R60). -/
def State.raiseAll (s : State) (n : AxId) (k : EvKind) (upd : BitVec 64 → PortBlock → PortBlock) (l : List EngId) : State :=
  forAll l (fun s e => s.raiseFor n e k 0 (upd s.dt)) s

variable {upd : BitVec 64 → PortBlock → PortBlock} {l : List EngId}

theorem State.within_raiseAll : State.Within 0x810 s (s.raiseAll n k upd l) :=
  State.Within.refl.forAll fun _ _ h => h.raiseFor rfl

theorem State.eng_raiseAll_not_mem (he : e ∉ l) : (s.raiseAll n k upd l).eng e = s.eng e :=
  forAll_induction (P := fun u => u.eng e = s.eng e) rfl fun _ a ha hu =>
    (State.eng_raiseFor_ne (by rintro rfl; exact he ha)).trans hu

/-- Every engine of the list that takes the event has it pending, and sees its values in the port block. -/
theorem State.eng_raiseAll_mem (hl : l.Nodup) (he : e ∈ l) (hk : k ≠ .fault) (h : s.takesEvent e k = true) :
    k ∈ ((s.raiseAll n k upd l).eng e).pend ∧ ((s.raiseAll n k upd l).eng e).port = upd s.dt (s.eng e).port := by
  induction l generalizing s with
  | nil => exact absurd he List.not_mem_nil
  | cons a l ih =>
    obtain ⟨ha, hl⟩ := List.nodup_cons.mp hl
    have hcons : s.raiseAll n k upd (a :: l) = (s.raiseFor n a k 0 (upd s.dt)).raiseAll n k upd l := rfl
    rw [hcons]
    by_cases hea : e = a
    · subst hea
      rw [State.eng_raiseAll_not_mem ha]
      exact State.eng_raiseFor hk h
    · have heng : (s.raiseFor n a k 0 (upd s.dt)).eng e = s.eng e := State.eng_raiseFor_ne hea
      have hraw : (s.raiseFor n a k 0 (upd s.dt)).raw (Reg.ENG_STAT.addr e.val) = s.raw (Reg.ENG_STAT.addr e.val) :=
        State.raw_raiseFor (by simp only [Reg.addr, Reg.spec]; omega)
      have hdt : (s.raiseFor n a k 0 (upd s.dt)).dt = s.dt := (State.Within.refl (k := 0x810)).raiseFor rfl .dt (by decide)
      have := ih hl ((List.mem_cons.mp he).resolve_left hea) ((State.takesEvent_congr hraw (by rw [heng])).trans h)
      rwa [hdt, heng] at this

theorem State.axisViewers_nodup : (s.axisViewers n).Nodup := (List.nodup_finRange 64).filter _

end Sys2Proof.Machine
end

section
/-! PROOF. Trigger and completion of a sample (04_axis_control.md R125 to R130; O14). -/

namespace Sys2Proof.Machine

variable {s : State} {n : AxId} {r : SampleRun} {adc : AdcSet} {l : Leg}

/-! ## SAMPLE_TRIGGER -/

theorem State.completeAt_of_pmode {t d : Nat} (h : s.pmode n ≠ 1) : s.completeAt n t d = d := by
  simp [State.completeAt, h]

theorem State.samplePos_of_pmode (h : s.pmode n ≠ 2) : s.samplePos n = (s.fbk n).pos := by
  simp [State.samplePos, h]

theorem State.samplePlan_threeShunt (hp : n.premium = true) (hs : s.bit Fld.AX_CFG_SENSE n.val = true) (hm : s.axMode n ≠ 2)
    (hf : s.pmode n ≠ 1) : s.samplePlan n = (0, 52, false, 0) := by
  simp [State.samplePlan, hm, State.threeShunt, hp, hs, State.completeAt_of_pmode hf]

theorem State.samplePlan_sixStep (hm : s.axMode n = 2) (hf : s.pmode n ≠ 1) :
    s.samplePlan n = (s.axPeriod n / 2, s.axPeriod n / 2 + 52, false, 0) := by
  simp [State.samplePlan, hm, State.completeAt_of_pmode hf]

/-- The sample that a trigger in the present frame starts. -/
def State.sampleRun (s : State) (n : AxId) : SampleRun :=
  let x := s.ax n
  let pl := s.samplePlan n
  { frame := x.frameNo, bTick := x.frameTick, t := x.frameTick + pl.1, done := x.frameTick + pl.2.1,
    pattern := pl.2.2.1, order := pl.2.2.2, pos := s.samplePos n, angle := BitVec.ofNat 16 (s.angleAt n (s.samplePos n)) }

/-- The axis samples now: nothing that holds the trigger back. -/
structure State.Samples (s : State) (n : AxId) : Prop where
  on : s.axState n ≠ .off
  framed : (s.ax n).framed = true
  runs : (s.bnk n.bank).runs = true
  frame : s.currentLoopFrame n (s.ax n).frameNo = true
  real : s.bit Fld.AX_MOTCFG_VIRT n.val = false
  idle : (s.ax n).sample = none
  first : (s.ax n).sampledAt ≠ some (s.ax n).frameTick
  due : (s.ax n).frameTick + (s.samplePlan n).1 ≤ s.tick

theorem exec_sampleTrigger_eq (h : s.Samples n) (hm : s.axMode n ≠ 3) : exec (.sampleTrigger n) s = .next (s.setAx n { s.ax n with
    sampledAt := some (s.ax n).frameTick, sampleTick := (s.sampleRun n).t, sample := some (s.sampleRun n) }) := by
  have hmode : ∀ x, (s.setAx n x).axMode n ≠ 3 := fun _ => hm
  show execSampleTrigger n s = _
  unfold execSampleTrigger
  simp [h.on, h.framed, h.runs, h.frame, h.real, h.idle, h.first, Nat.not_lt.mpr h.due, hmode]
  rfl

theorem exec_sampleTrigger_none (h : s.axState n = .off ∨ (s.ax n).sampledAt = some (s.ax n).frameTick) :
    exec (.sampleTrigger n) s = .next s := by
  show execSampleTrigger n s = _
  unfold execSampleTrigger
  rcases h with h | h <;> simp [h]

/-! ## What the count of low currents leaves (R468) -/

/-- The frames that look like a lost motor are no part of what drives the legs. -/
theorem State.legMode_countLow {m : Sensed} : (s.countLow n m).legNow n = s.legNow n ∧ (s.countLow n m).legMode n l = s.legMode n l ∧
    (s.countLow n m).legDrive n l = s.legDrive n l := by
  have hp : ((s.countLow n m).plug n).identFrom = (s.plug n).identFrom := by rw [State.countLow, State.plug_setPlug_same]
  have hnow : (s.countLow n m).legNow n = s.legNow n := by
    unfold State.legNow
    rw [hp]
    rfl
  have hmode : (s.countLow n m).legMode n l = s.legMode n l := by
    unfold State.legMode
    rw [hp, hnow]
    rfl
  refine ⟨hnow, hmode, ?_⟩
  unfold State.legDrive
  rw [hmode]
  rfl

theorem State.pulse_countLow {m : Sensed} : (s.countLow n m).pulse n l = s.pulse n l := by
  have hp : ((s.countLow n m).plug n).identFrom = (s.plug n).identFrom := by rw [State.countLow, State.plug_setPlug_same]
  obtain ⟨hnow, hmode, -⟩ := State.legMode_countLow (s := s) (n := n) (l := l) (m := m)
  have hedges : (s.countLow n m).edgesOf n l = s.edgesOf n l := by
    funext v
    unfold State.edgesOf
    rw [hp, hnow, hmode]
    rfl
  have hpulse : (s.countLow n m).comparePulse n l = s.comparePulse n l := by
    unfold State.comparePulse
    rw [hedges, hnow]
    rfl
  unfold State.pulse
  rw [hpulse]
  rfl

theorem State.lowTime_countLow {m : Sensed} : (s.countLow n m).lowTime n r l = s.lowTime n r l := by
  unfold State.lowTime
  rw [State.legMode_countLow.2.2, State.pulse_countLow]
  rfl

/-! ## SAMPLE_COMPLETE -/

theorem State.foldOffset_of_none (h : (s.ax n).ofsPend = none) : s.foldOffset n = s := by
  simp [State.foldOffset, h]

/-- The due result of a sample: at M_n under HALF where the sample completes in the first half, else at the next B_n (R23, R43). -/
def State.dueSample (s : State) (n : AxId) (r : SampleRun) : DueSample :=
  let m := r.bTick + s.axPeriod n / 2
  { seq := (s.ax n).seq + 1, frame := r.frame,
    at_ := if (s.bnk n.bank).half && s.axMode n != 2 && decide (r.done < m) then some m else none,
    eng := match s.axisEngine n with
      | some e => if s.engState e == .running && decide ((s.eng e).runFrom ≤ s.tick) then some e else none
      | none => none }

/-- The state whose engines a complete sample is signalled to. -/
def State.sampleTaken (s : State) (n : AxId) (r : SampleRun) (adc : AdcSet) : State :=
  let v := s.countLow n (s.sensed n r adc)
  ({ v with free := v.free + 6 } : State).setAx n
    { s.ax n with seq := (s.ax n).seq + 1, sample := none, due := (s.ax n).due ++ [s.dueSample n r] }

/-- The values of a sample in the port block (R60). -/
def State.samplePort (s : State) (n : AxId) (r : SampleRun) (adc : AdcSet) (dt : BitVec 64) (q : PortBlock) : PortBlock :=
  { q with seq := (s.ax n).seq + 1, frame := r.frame, dt := dt, adc := (s.countLow n (s.sensed n r adc)).adcBlock n r adc, pos := r.pos,
           angle := r.angle, vms := BitVec.ofNat 16 (adc.vms.toNat * 8) }

/-- The engines of the axis that execute now. -/
def State.liveViewers (s : State) (n : AxId) : List EngId := (s.axisViewers n).filter fun e => decide ((s.eng e).runFrom ≤ s.tick)

theorem exec_sampleComplete_eq (hr : (s.ax n).sample = some r) (hd : r.done ≤ s.tick) (ho : (s.ax n).ofsPend = none) :
    exec (.sampleComplete n adc) s =
      .next ((s.sampleTaken n r adc).raiseAll n .sample (s.samplePort n r adc) (s.liveViewers n)) := by
  show execSampleComplete n adc s = _
  unfold execSampleComplete
  simp only [hr, if_neg (Nat.not_lt.mpr hd), State.foldOffset_of_none ho]
  rfl

/-- Under three-shunt sensing with no phase short, the current of phase U is (code − offset) × 16 (R127, R129). -/
theorem State.samplePort_iu {dt : BitVec 64} {q : PortBlock} {v : Int} (h3 : s.threeShunt n = true) (hm : s.axMode n ≠ 2)
    (hlong : ∀ l ∈ [Leg.u, .v, .w], 8 * s.tlow n ≤ s.lowTime n r l)
    (hv : v = ((adc.u.toNat : Int) - s.fld Fld.AX_IOFS_A_OFS_U n.val) * 16) (hlo : -32768 ≤ v) (hhi : v ≤ 32767) :
    (s.samplePort n r adc dt q).adc[0] = BitVec.ofInt 16 v := by
  generalize hc : s.countLow n (s.sensed n r adc) = c
  have hshort : ([Leg.u, .v, .w].filter fun l => decide (c.lowTime n r l < 8 * c.tlow n)) = [] := by
    rw [List.filter_eq_nil_iff, ← hc]
    intro l hl
    have : 8 * s.tlow n ≤ s.lowTime n r l := hlong l hl
    rw [State.lowTime_countLow]
    show ¬decide (s.lowTime n r l < 8 * s.tlow n) = true
    simpa using this
  have hiu : (c.sensed n r adc).iu = v := by
    have h3c : c.threeShunt n = true := by rw [← hc]; exact h3
    have hmc : c.axMode n ≠ 2 := by rw [← hc]; exact hm
    unfold State.sensed
    rw [if_neg hmc, if_pos h3c]
    unfold State.senseThree
    simp only [hshort]
    rw [hv, ← hc]
    rfl
  show currentWord ((s.countLow n (s.sensed n r adc)).sensed n r adc).iu _ = _
  rw [hc, hiu, currentWord, if_pos ⟨hlo, hhi⟩]

end Sys2Proof.Machine

open Sys2Proof Sys2Proof.Machine

/-- Settles O14: the trigger by its guards; the completion by what it makes of the axis and by the raise to each engine of the axis. -/
theorem samples : Obligations.Samples := by
  refine ⟨fun s n => ?trigger, fun s n adc r hr hd ho => ?complete⟩
  case trigger =>
    intro x pl
    refine ⟨fun hon hf hruns hfr hreal hidle hfirst hdue hm => ?_, exec_sampleTrigger_none, State.samplePlan_threeShunt,
      State.samplePlan_sixStep, State.samplePos_of_pmode⟩
    exact exec_sampleTrigger_eq ⟨hon, hf, hruns, hfr, hreal, hidle, hfirst, hdue⟩ hm
  case complete =>
    refine ⟨_, exec_sampleComplete_eq hr hd ho, ?_⟩
    generalize ht : (s.sampleTaken n r adc).raiseAll n .sample (s.samplePort n r adc) (s.liveViewers n) = t
    have hax : ∀ m, t.ax m = (s.sampleTaken n r adc).ax m := fun m => by
      rw [← ht]
      exact State.ax_of_axes (State.within_raiseAll .axes (by decide))
    have hn : t.ax n = { s.ax n with seq := (s.ax n).seq + 1, sample := none, due := (s.ax n).due ++ [s.dueSample n r] } :=
      (hax n).trans (State.ax_setAx_same _ n _)
    rw [hn]
    refine ⟨rfl, rfl, ⟨_, rfl, rfl, rfl, fun hh => ?_, fun hh hm hlt => ?_⟩, fun e he htakes hrun => ?_, fun e he => ?_, fun m hm => ?_,
      rfl, rfl⟩
    · simp [State.dueSample, hh]
    · simp [State.dueSample, hh, hm, hlt]
    · have hmem : e ∈ s.liveViewers n := List.mem_filter.mpr ⟨he, by simpa using hrun⟩
      have hnodup : (s.liveViewers n).Nodup := State.axisViewers_nodup.filter _
      obtain ⟨hpend, hport⟩ := State.eng_raiseAll_mem (s := s.sampleTaken n r adc) (n := n) (upd := s.samplePort n r adc)
        hnodup hmem (by decide) htakes
      rw [ht] at hpend hport
      rw [hport]
      exact ⟨hpend, rfl, rfl, rfl, rfl, rfl, rfl, fun h3 hm hlong v hv hlo hhi => State.samplePort_iu h3 hm hlong hv hlo hhi⟩
    · have hmem : e ∉ s.liveViewers n := fun h => he (List.mem_of_mem_filter h)
      rw [← ht, State.eng_raiseAll_not_mem hmem]
      rfl
    · rw [hax m]
      exact State.ax_setAx_ne _ n _ hm
end

section
/-! PROOF. What the signals and records of an axis leave of it (05_power_stage.md R161, R179; O15). -/

namespace Sys2Proof.Machine

variable {s t u : State} {n m : AxId} {a i j v : Nat}

/-! ## Registers -/

theorem State.raw_event {fn : FnId} {type src detail : Nat} {data : List Byte} (ha : a < 0x100000) :
    (s.event fn type src detail data).raw a = s.raw a := by
  by_cases h : a < 0x41000
  · exact (State.AxisOnly.refl (n := 1)).event.raw a ⟨ha, .inl (by simpa using h)⟩
  · exact (State.AxisOnly.refl (n := 0)).event.raw a ⟨ha, .inr (by simpa using h)⟩

theorem State.raw_dropStep (h : a ≠ Reg.AX_STEPCNT.addr n.val ∧ a ≠ Reg.AX_MSTAT.addr n.val) : (s.dropStep n).raw a = s.raw a := by
  unfold State.dropStep
  split
  · rfl
  · exact (State.raw_setWord_ne (r := Reg.AX_MSTAT) h.2).trans (State.raw_setWord_ne h.1)

theorem State.regs_driveLegs {now : Nat} : (s.driveLegs n now).regs = s.regs := by
  obtain ⟨legs, blank, h⟩ := State.legsMoved_driveLegs (s := s) (n := n) (now := now)
  rw [h]
  rfl

/-- The registers in which a refresh of the legs shows what drives them. -/
def legRegs : List Reg := [.AX_WC, .AX_STATE, .AX_STEPCNT, .AX_MSTAT]

theorem legRegs_page : ∀ q ∈ legRegs, 0x40000 ≤ q.spec.base ∧ q.spec.base < 0x41000 := by decide

theorem State.raw_refreshAxis (h : ∀ q ∈ legRegs, a ≠ q.addr n.val) : (s.refreshAxis n).raw a = s.raw a := by
  obtain ⟨hwc, hst, hcnt, hmst⟩ : a ≠ Reg.AX_WC.addr n.val ∧ a ≠ Reg.AX_STATE.addr n.val ∧ a ≠ Reg.AX_STEPCNT.addr n.val ∧
    a ≠ Reg.AX_MSTAT.addr n.val := ⟨h _ (by decide), h _ (by decide), h _ (by decide), h _ (by decide)⟩
  have hfld : ∀ {u : State} {f : Fld} {v : Nat}, a ≠ f.reg.addr n.val → (u.setFld f n.val v).raw a = u.raw a :=
    fun h => State.raw_setWord_ne h
  have hdrop : ∀ {u : State} {c : Prop} [Decidable c], (if c then u.dropStep n else u).raw a = u.raw a := by
    intro u c _
    split
    · exact State.raw_dropStep ⟨hcnt, hmst⟩
    · rfl
  have hdrive : ∀ {x : Axis}, ((s.driveLegs n s.tick).setAx n x).raw a = s.raw a := by
    intro x
    rw [State.raw, State.setAx_regs, State.regs_driveLegs]
    rfl
  exact (hfld hst).trans (hdrop.trans ((hfld hst).trans ((hfld hwc).trans ((hfld hwc).trans ((hfld hwc).trans hdrive)))))

/-- The log of the plinth lies below the blocks of engines, banks and axes. -/
theorem State.raw_logFault {code src detail : Nat} (ha : 0x10000 ≤ a) : (s.logFault code src detail).raw a = s.raw a := by
  have hshow : ∀ u : State, u.showLog.raw a = u.raw a := by
    intro u
    unfold State.showLog
    refine List.foldlRecOn (motive := fun v : State => v.raw a = u.raw a) _ _ rfl fun v hv x hx => ?_
    refine List.foldlRecOn (motive := fun v : State => v.raw a = u.raw a) _ _ hv fun v hv y hy => ?_
    have hi : x.2 < 64 := by
      have := (List.mem_zipIdx hx).2.1
      simp only [List.length_take] at this
      omega
    have hj : y.2 < 4 := by simpa [FlogEnt.words] using (List.mem_zipIdx hy).2.1
    refine (State.raw_setWord_ne ?_).trans hv
    simp only [Reg.addr, Reg.spec]
    omega
  exact hshow _

/-! ## What signals leave -/

/-- What a release makes of an axis. -/
def Axis.course (x : Axis) := (x.released, x.prevReleased, x.relTick, x.misses, x.due, x.commits, x.win, x.demands, x.safeReq)

/-- The registers in which a release counts, and those that say what an axis does. -/
def courseRegs : List Reg := [.AX_DLMISS, .AX_CFG, .AX_STATE]

theorem courseRegs_page : ∀ r ∈ courseRegs, 0x40000 ≤ r.spec.base ∧ r.spec.base < 0x41000 := by decide

/-- The update drives the legs of the axis, signals or records: it keeps the course of releases of the axis, its state and its mode, the
other axes, and the fail-over. -/
structure State.Signals (n : AxId) (s t : State) : Prop where
  sound : t.Sound
  state : t.axState n = s.axState n
  raw : ∀ r ∈ courseRegs, r ≠ .AX_STATE → t.raw (r.addr n.val) = s.raw (r.addr n.val)
  course : (t.ax n).course = (s.ax n).course
  ax : ∀ m, m ≠ n → t.ax m = s.ax m
  fo : t.fo = s.fo

theorem State.Signals.refl (hs : s.Sound) : State.Signals n s s := ⟨hs, rfl, fun _ _ _ => rfl, rfl, fun _ _ => rfl, rfl⟩

theorem State.Signals.trans (h : State.Signals n s t) (h2 : State.Signals n t u) : State.Signals n s u where
  sound := h2.sound
  state := h2.state.trans h.state
  raw r hr hne := (h2.raw r hr hne).trans (h.raw r hr hne)
  course := h2.course.trans h.course
  ax m hm := (h2.ax m hm).trans (h.ax m hm)
  fo := h2.fo.trans h.fo

/-- An update that writes none of the course registers, and leaves axes and fail-over alone. -/
theorem State.Signals.of_raw (h : State.Signals n s t) (hu : u.Sound) (hr : ∀ r ∈ courseRegs, u.raw (r.addr n.val) = t.raw (r.addr n.val))
    (ha : u.axes = t.axes) (hf : u.fo = t.fo) : State.Signals n s u :=
  h.trans ⟨hu, congrArg (fun w => AxState.ofCode (Fld.AX_STATE_STATE.get w)) (hr .AX_STATE (by decide)), fun r hm _ => hr r hm,
    by rw [State.ax_of_axes ha], fun _ _ => State.ax_of_axes ha, hf⟩

/-- An update of the axis itself off its course. -/
theorem State.Signals.setAx {x : Axis} (h : State.Signals n s t) (hx : x.sound = true) (hc : x.course = (t.ax n).course) :
    State.Signals n s (t.setAx n x) :=
  h.trans ⟨h.sound.setAx fun _ => hx, rfl, fun _ _ _ => rfl, by rw [State.ax_setAx_same, hc], fun _ hm => State.ax_setAx_ne t n x hm, rfl⟩

theorem State.Signals.ite {c : Prop} [Decidable c] (h : c → State.Signals n s t) (h2 : ¬c → State.Signals n s u) :
    State.Signals n s (if c then t else u) := by
  split
  · exact h ‹_›
  · exact h2 ‹_›

/-- A register of another block is none of the course registers. -/
theorem courseRegs_ne_of_block (h : a < 0x40000 ∨ 0x70000 ≤ a) : ∀ r ∈ courseRegs, r.addr n.val ≠ a := by
  have hn := n.isLt
  intro r hr
  have hp : r.Paged 0x40000 48 := Reg.paged_axis (courseRegs_page r hr)
  have := hp.low; have := hp.high
  rw [hp.addr_eq]
  omega

/-- A register of the axis that is none of the course registers. -/
theorem courseRegs_ne_of_axis {q : Reg} (hq : 0x40000 ≤ q.spec.base ∧ q.spec.base < 0x41000) (hne : q ∉ courseRegs) :
    ∀ r ∈ courseRegs, r.addr n.val ≠ q.addr n.val := fun r hr =>
  (Reg.paged_axis hq).addr_ne (Reg.paged_axis (courseRegs_page r hr)) (by rintro rfl; exact hne hr)

theorem State.Signals.setWord {q : Reg} {w : Word} (h : State.Signals n s t) (hq : ∀ r ∈ courseRegs, r.addr n.val ≠ q.addr i j) :
    State.Signals n s (t.setWord q i j w) :=
  h.of_raw h.sound.setWord (fun r hr => State.raw_setWord_ne (hq r hr)) rfl rfl

theorem State.Signals.setFld {f : Fld} (h : State.Signals n s t) (hq : ∀ r ∈ courseRegs, r.addr n.val ≠ f.reg.addr i) :
    State.Signals n s (t.setFld f i v) := h.setWord hq

theorem State.Signals.setBit {f : Fld} {b : Bool} (h : State.Signals n s t) (hq : ∀ r ∈ courseRegs, r.addr n.val ≠ f.reg.addr i) :
    State.Signals n s (t.setBit f i b) := (h.setWord hq).of_raw h.sound.setBit (fun _ _ => rfl) rfl rfl

theorem State.Signals.legsMoved (h : State.Signals n s t) (hu : u.Sound) (hl : State.LegsMoved n t u) : State.Signals n s u := by
  obtain ⟨legs, blank, rfl⟩ := hl
  have hx := hu.ax n
  rw [State.ax_setAx_same] at hx
  exact h.setAx hx rfl

theorem State.Signals.driveLegs {now : Nat} (h : State.Signals n s t) : State.Signals n s (t.driveLegs n now) :=
  h.legsMoved h.sound.driveLegs State.legsMoved_driveLegs

theorem State.course_refreshAxis : ((s.refreshAxis n).ax n).course = (s.ax n).course := by
  have hite : ∀ (x : State) (c : Prop) [Decidable c], (if c then x.dropStep n else x).ax n = x.ax n := by
    intro x c _
    split
    · exact State.ax_dropStep
    · rfl
  obtain ⟨legs, blank, h⟩ := State.legsMoved_driveLegs (s := s) (n := n) (now := s.tick)
  unfold State.refreshAxis
  simp only [State.setFld_ax, hite, State.setBit_ax, State.ax_setAx_same, h]
  rfl

theorem State.Signals.refreshAxis (h : State.Signals n s t) : State.Signals n s (t.refreshAxis n) := by
  refine h.trans ⟨h.sound.refreshAxis, (State.Keeps.state_refreshAxis (.refl h.sound)).axState, fun r hr hne => State.raw_refreshAxis ?_,
    State.course_refreshAxis, State.AxisOnly.refl.refreshAxis.ax, (State.Within.refl (k := 0x1010)).refreshAxis rfl .fo (by decide)⟩
  intro q hq
  have hqr : q ∉ courseRegs ∨ q = .AX_STATE := by revert q; decide
  rcases hqr with hqr | rfl
  · exact courseRegs_ne_of_axis (legRegs_page q hq) hqr r hr
  · exact (Reg.paged_axis (by decide)).addr_ne (Reg.paged_axis (courseRegs_page r hr)) hne

theorem State.Signals.event {fn : FnId} {type src detail : Nat} {data : List Byte} (h : State.Signals n s t) :
    State.Signals n s (t.event fn type src detail data) := by
  have hw : State.Within 0x80010 t (t.event fn type src detail data) := (State.Within.refl).event rfl
  refine h.of_raw h.sound.event (fun r hr => State.raw_event ?_) (hw .axes (by decide)) (hw .fo (by decide))
  have hp : r.Paged 0x40000 48 := Reg.paged_axis (courseRegs_page r hr)
  have := hp.high
  rw [hp.addr_eq]
  omega

theorem State.Signals.raiseFor {l : AxId} {e : EngId} {k : EvKind} {src : BitVec 16} {upd : PortBlock → PortBlock}
    (h : State.Signals n s t) : State.Signals n s (t.raiseFor l e k src upd) := by
  have hw : State.Within 0x810 t (t.raiseFor l e k src upd) := (State.Within.refl).raiseFor rfl
  refine h.of_raw h.sound.raiseFor (fun r hr => State.raw_raiseFor (courseRegs_ne_of_block (.inl ?_) r hr)) (hw .axes (by decide))
    (hw .fo (by decide))
  have := e.isLt
  simp only [Reg.addr, Reg.spec]
  omega

theorem State.Signals.faultEvent {l : AxId} {bit : Nat} (h : State.Signals n s t) : State.Signals n s (t.faultEvent l bit) :=
  forAll_induction h fun _ _ _ hu => State.Signals.ite (fun _ => hu.raiseFor) fun _ => hu

theorem State.Signals.releaseEvents {l : AxId} {f : BitVec 32} (h : State.Signals n s t) : State.Signals n s (t.releaseEvents l f) :=
  forAll_induction h fun _ _ _ hu => hu.raiseFor

theorem State.Signals.logFault {code src detail : Nat} (h : State.Signals n s t) : State.Signals n s (t.logFault code src detail) := by
  have hw : State.Within 0x4000000010 t (t.logFault code src detail) := (State.Within.refl).logFault rfl
  refine h.of_raw h.sound.logFault (fun r hr => State.raw_logFault ?_) (hw .axes (by decide)) (hw .fo (by decide))
  have hp : r.Paged 0x40000 48 := Reg.paged_axis (courseRegs_page r hr)
  have := hp.low
  rw [hp.addr_eq]
  omega

theorem State.Signals.refreshBrake {b : BankId} (h : State.Signals n s t) : State.Signals n s (t.refreshBrake b) := by
  refine State.Signals.setBit (h.of_raw h.sound.setBnk (fun _ _ => rfl) rfl rfl) (courseRegs_ne_of_block (.inl ?_))
  have hp : Fld.BNK_PSTAT_L1.reg.Paged 0x20000 6 := Reg.paged_bank (by decide)
  have := hp.high; have := b.isLt
  rw [hp.addr_eq]
  omega

theorem State.Signals.refreshPlug (h : State.Signals n s t) : State.Signals n s (t.refreshPlug n) :=
  (h.setFld (courseRegs_ne_of_axis (by decide) (by decide))).setBit (courseRegs_ne_of_axis (by decide) (by decide))

theorem State.Signals.setPlug {x : Plug} (h : State.Signals n s t) : State.Signals n s (t.setPlug n x) :=
  h.of_raw h.sound.setPlug (fun _ _ => rfl) rfl rfl

theorem State.Signals.plugDemand (h : State.Signals n s t) : State.Signals n s (t.plugDemand n) := by
  refine State.Signals.ite (fun _ => ?_) fun _ => State.Signals.ite (fun _ => h.setPlug.refreshPlug.refreshAxis) fun _ => h
  have hretry : State.Signals n s (t.startRetry n) := h.setPlug.refreshPlug
  exact (hretry.setFld (courseRegs_ne_of_axis (by decide) (by decide))).event.refreshAxis

end Sys2Proof.Machine
end

section
/-! PROOF. The release instant (01_frames_and_release.md R26 to R28, R39 to R41; 05_power_stage.md R161; O15). -/

namespace Sys2Proof.Machine

variable {s t u : State} {n : AxId} {d : DueSample} {c : Commit} {at_ v cause : Nat} {f : BitVec 32}

/-! ## Demands -/

theorem State.Signals.setAx_both {x y : Axis} (h : State.Signals n s t) (hy : y.sound = true) (hc : y.course = x.course) :
    State.Signals n (s.setAx n x) (t.setAx n y) where
  sound := h.sound.setAx fun _ => hy
  state := h.state
  raw := h.raw
  course := by rw [State.ax_setAx_same, State.ax_setAx_same, hc]
  ax m hm := by rw [State.ax_setAx_ne _ n _ hm, State.ax_setAx_ne _ n _ hm, h.ax m hm]
  fo := h.fo

theorem State.Signals.fld {g : Fld} (h : State.Signals n s t) (hg : g.reg ∈ courseRegs ∧ g.reg ≠ .AX_STATE) :
    t.fld g n.val = s.fld g n.val := congrArg g.get (h.raw g.reg hg.1 hg.2)

theorem State.Signals.failover (h : State.Signals n s t) : t.failover n = s.failover n := by simp only [State.failover, h.fo]

/-- The deadline-miss latch is source 5 (R160). -/
theorem State.demandSrc_dlmiss : (s.demandSrc n).getLsbD 5 = (s.ax n).demands.dlmiss := by
  unfold State.demandSrc
  have hbit : ∀ (b : Bool) (i : Nat), i < 8 → (if b then BitVec.ofNat 8 (2 ^ i) else (0 : BitVec 8)).getLsbD 5 = (b && decide (i = 5)) := by
    decide
  simp only [BitVec.getLsbD_or, hbit _ _ (show 0 < 8 by decide), hbit _ _ (show 1 < 8 by decide), hbit _ _ (show 2 < 8 by decide),
    hbit _ _ (show 3 < 8 by decide), hbit _ _ (show 4 < 8 by decide), hbit _ _ (show 5 < 8 by decide), hbit _ _ (show 6 < 8 by decide),
    hbit _ _ (show 7 < 8 by decide)]
  simp

theorem State.wcAction_isSome (h : s.demandSrc n ≠ 0) : ∃ a, s.wcAction n = some a := by
  unfold State.wcAction
  rw [if_neg h]
  split
  · exact ⟨_, rfl⟩
  · simp only
    split
    · exact ⟨_, rfl⟩
    · split <;> exact ⟨_, rfl⟩

/-- The axis with SAFE asked for at the next B_n, or not. -/
def Axis.asking (x : Axis) (q : Option Nat) : Axis := { x with safeReq := q }

/-- The axis with its deadline-miss demand (R161). -/
def Axis.demanding (x : Axis) : Axis := { x with demands := { x.demands with dlmiss := true } }

/-- The axis after a run of `k` misses. -/
def Axis.missed (x : Axis) (k : Nat) : Axis := { x with misses := k }

/-- The part of a change of the demands that is asked of the state machine. -/
def State.demandNoted (s : State) (n : AxId) (before : BitVec 8) (cause : Nat) : State :=
  let src := s.demandSrc n
  let ended := src != before && src &&& ~~~before == 0
  match s.wcAction n with
  | none => s
  | some a =>
    let x := s.ax n
    match s.axState n with
    | .safe => s.setAx n { x with lastAct := some a, imposed := true }
    | .off => s
    | .absent => s
    | _ => s.setAx n { x with safeReq := if ended then x.safeReq else some (x.safeReq.getD cause), lastAct := some a }

theorem State.signals_demandsChanged {before : BitVec 8} (h : (s.demandNoted n before cause).Sound) :
    State.Signals n (s.demandNoted n before cause) (s.demandsChanged n before cause) := by
  have hr := State.Signals.refl (n := n) h
  exact (State.Signals.ite (fun _ => hr.faultEvent.logFault) fun _ => hr).refreshAxis.refreshBrake.plugDemand

/-- Only what a state after the present one is asked for changes; a demand that has begun asks an axis in RUN for SAFE (R179). -/
theorem State.signals_demandNoted {before : BitVec 8} (hs : s.Sound) : ∃ q, State.Signals n (s.setAx n ((s.ax n).asking q))
    (s.demandNoted n before cause) ∧ (s.axState n = .run → s.demandSrc n ≠ 0 → (s.demandSrc n = before ∨ s.demandSrc n &&& ~~~before ≠ 0) →
      q.isSome = true) := by
  have hset : ∀ q x, x.sound = true → x.course = ((s.ax n).asking q).course → State.Signals n (s.setAx n ((s.ax n).asking q)) (s.setAx n x) :=
    fun _ _ hx hc => (State.Signals.refl hs).setAx_both hx hc
  have hsame : State.Signals n (s.setAx n ((s.ax n).asking (s.ax n).safeReq)) s := by
    have h := hset (s.ax n).safeReq (s.ax n) (hs.ax n) rfl
    rwa [State.setAx_self] at h
  unfold State.demandNoted
  simp only
  cases hact : s.wcAction n with
  | none =>
    refine ⟨_, hsame, fun _ hsrc => ?_⟩
    obtain ⟨a, ha⟩ := State.wcAction_isSome hsrc
    rw [hact] at ha
    cases ha
  | some a =>
    cases hst : s.axState n
    case safe => exact ⟨(s.ax n).safeReq, hset _ _ (hs.ax n) rfl, nofun⟩
    case off => exact ⟨_, hsame, nofun⟩
    case absent => exact ⟨_, hsame, nofun⟩
    case run =>
      refine ⟨_, hset _ _ (hs.ax n) rfl, fun _ _ hended => ?_⟩
      rw [if_neg]
      · rfl
      · simp only [Bool.and_eq_true, bne_iff_ne, beq_iff_eq]
        exact fun ⟨hne, hzero⟩ => hended.elim hne fun h => h hzero
    all_goals exact ⟨_, hset _ _ (hs.ax n) rfl, nofun⟩

/-- The second miss in a row: the demand, and SAFE asked for (R41, R161). -/
theorem State.signals_raiseDlmiss (hs : s.Sound) : ∃ q, State.Signals n (s.setAx n ((s.ax n).demanding.asking q))
    (s.withDemands n cause fun d => { d with dlmiss := true }) ∧ (s.axState n = .run → q.isSome = true) := by
  have hax : (s.setAx n (s.ax n).demanding).ax n = (s.ax n).demanding := State.ax_setAx_same s n _
  have hsound : (s.setAx n (s.ax n).demanding).Sound := hs.setAx fun _ => hs.ax n
  have hsrc : ((s.setAx n (s.ax n).demanding).demandSrc n).getLsbD 5 = true := by rw [State.demandSrc_dlmiss, hax]; rfl
  obtain ⟨q, hq, hrun⟩ := State.signals_demandNoted (n := n) (before := s.demandSrc n) (cause := cause) hsound
  refine ⟨q, ?_, fun h => hrun h ?_ ?_⟩
  · have hnoted := hq.trans (State.signals_demandsChanged hq.sound)
    rw [State.setAx_setAx, hax] at hnoted
    exact hnoted
  · intro h0
    rw [h0] at hsrc
    cases hsrc
  · cases hd : (s.ax n).demands.dlmiss with
    | true =>
      have hself : (s.ax n).demanding = s.ax n := by rw [Axis.demanding, ← hd]
      exact .inl (by rw [hself, State.setAx_self])
    | false =>
      refine .inr fun h0 => ?_
      have h5 : ((s.setAx n (s.ax n).demanding).demandSrc n &&& ~~~s.demandSrc n).getLsbD 5 = true := by
        rw [BitVec.getLsbD_and, hsrc, BitVec.getLsbD_not, State.demandSrc_dlmiss, hd]
        rfl
      rw [h0] at h5
      cases h5

/-! ## The values released -/

/-- The axis with the values of an instant in its latch (R40). -/
def Axis.latched (x : Axis) (v : LatchVals) (t : Nat) : Axis :=
  { x with released := v, prevReleased := if x.relTick = t then x.prevReleased else x.released, relTick := t }

theorem State.signals_releaseVals {w : LatchVals} (hs : s.Sound) :
    State.Signals n (s.setAx n ((s.ax n).latched w at_)) (s.releaseVals n w at_) := by
  have hset : State.Signals n (s.setAx n ((s.ax n).latched w at_)) (s.setAx n { (s.ax n).latched w at_ with
      imposed := (s.ax n).imposed || decide ((s.ax n).entryTick < at_),
      startOff := (s.ax n).startOff && !decide ((s.ax n).entryTick < at_) }) := (State.Signals.refl hs).setAx_both (hs.ax n) rfl
  exact (State.Signals.ite (fun _ => hset.setBit (courseRegs_ne_of_axis (by decide) (by decide))) fun _ => hset).driveLegs.refreshAxis

/-! ## The instant -/

/-- The axis with no sample due and no commit left. -/
def Axis.taken (x : Axis) : Axis := { x with commits := [], due := [] }

/-- The state with the sample no longer due, no commit left, and the late and wrong-tag commits counted (R27). -/
def State.judged (s : State) (n : AxId) (late : Nat) : State :=
  (({ s with free := s.free + 1 } : State).setAx n (s.ax n).taken).setFld Fld.AX_DLMISS_LATE_DISCARD n.val late

theorem State.judged_sound (hs : s.Sound) : (s.judged n v).Sound := by
  have hset : (({ s with free := s.free + 1 } : State).setAx n (s.ax n).taken).Sound := State.Sound.setAx (State.Sound.upd hs) fun _ => hs.ax n
  exact hset.setFld

theorem State.judged_ax : (s.judged n v).ax n = (s.ax n).taken := State.ax_setAx_same _ n _

theorem State.judged_ax_ne {m : AxId} (hm : m ≠ n) : (s.judged n v).ax m = s.ax m := State.ax_setAx_ne _ n _ hm

/-- The count of late commits shares no bit with the other fields of its register. -/
theorem State.judged_fld {g : Fld} (hs : s.Sound) (hg : g.reg ∈ courseRegs)
    (h : g.reg ≠ .AX_DLMISS ∨ g.lsb + g.width ≤ 32 ∧ g.Disjoint Fld.AX_DLMISS_LATE_DISCARD) :
    (s.judged n v).fld g n.val = s.fld g n.val := by
  have hset : (({ s with free := s.free + 1 } : State).setAx n (s.ax n).taken).Sound := State.Sound.setAx (State.Sound.upd hs) fun _ => hs.ax n
  exact ((State.Keeps.refl hset).setFld (Fld.clear_axis (courseRegs_page _ hg) (by decide) h)).fld

theorem State.restartTimer_eq (h : s.axMode n ≠ 3) : s.restartTimer n at_ = s := by simp [State.restartTimer, h]

/-- The instant of the due sample: at a boundary of the frame the feedback settings written before are in force first. -/
theorem exec_releaseInstant_eq (hdue : (s.ax n).due = [d]) (hat : (s.ax n).dueAt d = some at_) (hle : at_ ≤ s.tick) (hs : s.Sound) :
    ∃ force fbPend f, exec (.releaseInstant n) s = .next (({ s with force := force, fbPend := fbPend } : State).release n d at_ f) ∧
      ({ s with force := force, fbPend := fbPend } : State).Sound := by
  show ∃ force fbPend f, execReleaseInstant n s = .next (({ s with force := force, fbPend := fbPend } : State).release n d at_ f) ∧ _
  unfold execReleaseInstant
  unfold Axis.dueAt at hat
  simp only [hdue]
  cases hd : d.at_ with
  | some t =>
    obtain rfl : t = at_ := by simpa [hd] using hat
    exact ⟨s.force, s.fbPend, _, by simp only [if_neg (Nat.not_lt.mpr hle)]; rfl, hs⟩
  | none =>
    cases hb : (s.ax n).nextB with
    | none => simp [hd, hb] at hat
    | some b =>
      obtain ⟨t, f⟩ := b
      obtain rfl : t = at_ := by simpa [hd, hb] using hat
      exact ⟨(s.fbAtAxis n t).force, (s.fbAtAxis n t).fbPend, f, by simp only [if_neg (Nat.not_lt.mpr hle)]; rfl, hs.fbAtAxis⟩

/-- The instant with a commit in time. -/
theorem State.release_commit (hdue : (s.ax n).due = [d]) (hc : (s.ax n).commits = [c]) (hin : c.at_ + 3 ≤ at_) (htag : c.tag = d.seq)
    (heng : d.eng = none) (harb : (s.failover n).arbStop = none) :
    ∃ v, s.release n d at_ f =
      (((((s.judged n v).releaseVals n c.vals at_).applied n).takeoverDone n c.eng d.frame).restartTimer n at_).releaseEvents n f := by
  refine ⟨Nat.min 255 (s.fld Fld.AX_DLMISS_LATE_DISCARD n.val + 0), ?_⟩
  have harb' : ∀ u : State, u.fo = s.fo → u.arbiterCommit n at_ = none := fun u hu => by
    have : (u.failover n).arbStop = none := by rw [State.failover, hu]; exact harb
    simp [State.arbiterCommit, this]
  have hin' : s.inTime c at_ = true := by simp [State.inTime, hin]
  unfold State.release
  simp only [hdue, hc, List.filter_cons, List.filter_nil, hin', htag, State.heartbeat, heng, Bool.not_true, if_true, beq_self_eq_true,
    Bool.false_eq_true, if_false, ne_eq, not_true, decide_false, List.length_cons, List.length_nil, Nat.sub_self,
    List.getLast?_singleton]
  rw [harb']
  · rfl
  · rfl

/-- The instant without one. -/
theorem State.release_miss (hdue : (s.ax n).due = [d]) (hc : (s.ax n).commits = []) (heng : d.eng = none)
    (harb : (s.failover n).arbStop = none) :
    ∃ v, s.release n d at_ f = (((s.judged n v).deadlineMiss n d.frame at_).restartTimer n at_).releaseEvents n f := by
  refine ⟨Nat.min 255 (s.fld Fld.AX_DLMISS_LATE_DISCARD n.val + 0), ?_⟩
  have harb' : ∀ u : State, u.fo = s.fo → u.arbiterCommit n at_ = none := fun u hu => by
    have : (u.failover n).arbStop = none := by rw [State.failover, hu]; exact harb
    simp [State.arbiterCommit, this]
  unfold State.release
  simp only [hdue, hc, List.filter_cons, List.filter_nil, State.heartbeat, heng, ne_eq, not_true, decide_false, Bool.false_eq_true,
    if_false, List.length_nil, Nat.sub_self, List.getLast?_nil]
  rw [harb']
  · rfl
  · rfl

/-- A commit in time: its values are in the latch, and the run of misses ends. -/
theorem State.signals_release_commit (hs : s.Sound) (hdue : (s.ax n).due = [d]) (hc : (s.ax n).commits = [c]) (hin : c.at_ + 3 ≤ at_)
    (htag : c.tag = d.seq) (heng : d.eng = none) (harb : (s.failover n).arbStop = none) (hinc : (s.failover n).incomplete = none)
    (hdl : (s.ax n).demands.dlmiss = false) (hm : s.axMode n ≠ 3) :
    ∃ v, State.Signals n ((s.judged n v).setAx n (((s.ax n).taken.latched c.vals at_).missed 0)) (s.release n d at_ f) ∧
      State.Within 0x1818 (s.judged n v) (s.release n d at_ f) := by
  obtain ⟨v, hv⟩ := State.release_commit (f := f) hdue hc hin htag heng harb
  have hrel := State.signals_releaseVals (n := n) (at_ := at_) (w := c.vals) (State.judged_sound (n := n) (v := v) hs)
  have hwithin : State.Within 0x1818 (s.judged n v) ((s.judged n v).releaseVals n c.vals at_) := (State.Within.refl).releaseVals rfl
  rw [State.judged_ax] at hrel
  generalize (s.judged n v).releaseVals n c.vals at_ = u at hv hrel hwithin
  have hcourse : (u.ax n).course = ((s.ax n).taken.latched c.vals at_).course := hrel.course.trans (by rw [State.ax_setAx_same])
  have hset := hrel.setAx_both (x := ((s.ax n).taken.latched c.vals at_).missed 0) (y := (u.ax n).missed 0)
    (hrel.sound.ax n) (congrArg (fun x => (x.1, x.2.1, x.2.2.1, 0, x.2.2.2.2)) hcourse)
  rw [State.setAx_setAx] at hset
  have happ : u.applied n = u.setAx n ((u.ax n).missed 0) := by
    have hdl' : ((u.setAx n ((u.ax n).missed 0)).ax n).demands.dlmiss = false := by
      rw [State.ax_setAx_same]
      exact (congrArg (fun x => x.2.2.2.2.2.2.2.1.dlmiss) hcourse).trans hdl
    exact if_neg (by rw [Bool.not_eq_true]; exact hdl')
  have htake : (u.setAx n ((u.ax n).missed 0)).takeoverDone n c.eng d.frame = u.setAx n ((u.ax n).missed 0) := by
    have hinc' : ((u.setAx n ((u.ax n).missed 0)).failover n).incomplete = none := by rw [hset.failover]; exact hinc
    unfold State.takeoverDone
    simp only [hinc']
  have hmode : (u.setAx n ((u.ax n).missed 0)).axMode n = s.axMode n :=
    (hset.fld (by decide)).trans (State.judged_fld hs (by decide) (.inl (by decide)))
  rw [hv, happ, htake, State.restartTimer_eq (hmode ▸ hm)]
  exact ⟨v, hset.releaseEvents, (hwithin.setAx rfl).releaseEvents rfl⟩

/-! ## A missed deadline -/

/-- The miss in the register (R39, R40). -/
def State.missCounted (s : State) (n : AxId) : State :=
  (s.countSat Fld.AX_DLMISS_MISS_CNT n.val).setBit Fld.AX_DLMISS_MISS_SEEN n.val true

theorem State.missCounted_sound (hs : s.Sound) : (s.missCounted n).Sound := State.Sound.setBit hs.setFld

theorem State.missCounted_cnt (hs : s.Sound) :
    (s.missCounted n).fld Fld.AX_DLMISS_MISS_CNT n.val = min (s.fld Fld.AX_DLMISS_MISS_CNT n.val + 1) 65535 := by
  have hcount : (s.countSat Fld.AX_DLMISS_MISS_CNT n.val).Sound := hs.setFld
  have hlt : Nat.min (s.fld Fld.AX_DLMISS_MISS_CNT n.val + 1) 65535 < 65536 := Nat.lt_succ_of_le (Nat.min_le_right _ _)
  have hkeep : (s.missCounted n).fld Fld.AX_DLMISS_MISS_CNT n.val = (s.countSat Fld.AX_DLMISS_MISS_CNT n.val).fld Fld.AX_DLMISS_MISS_CNT n.val :=
    ((State.Keeps.refl hcount).setBit (Fld.clear_axis (by decide) (by decide) (by decide))).fld
  exact hkeep.trans (State.fld_setFld_eq hs (by decide) hlt)

theorem State.missCounted_seen (hs : s.Sound) : (s.missCounted n).bit Fld.AX_DLMISS_MISS_SEEN n.val = true :=
  State.bit_setBit_eq (State.Sound.setFld hs) (by decide) (by decide)

theorem State.missCounted_double (hs : s.Sound) : (s.missCounted n).bit Fld.AX_DLMISS_DOUBLE n.val = s.bit Fld.AX_DLMISS_DOUBLE n.val :=
  congrArg (· == 1) (((State.Keeps.refl hs).setFld (Fld.clear_axis (by decide) (by decide) (by decide))).setBit
    (Fld.clear_axis (by decide) (by decide) (by decide))).fld

/-- The miss in the queue of the owner of the axis besides. -/
def State.missRecorded (s : State) (n : AxId) (frame : BitVec 32) : State :=
  let c := s.missCounted n
  c.event (c.axisOwner n) 0x0001 n.val (c.fld Fld.AX_DLMISS_MISS_CNT n.val) (leBytes 4 frame.toNat)

theorem State.signals_missRecorded {frame : BitVec 32} (hs : s.Sound) : State.Signals n (s.missCounted n) (s.missRecorded n frame) :=
  (State.Signals.refl (State.missCounted_sound hs)).event

theorem State.missRecorded_ax {frame : BitVec 32} : (s.missRecorded n frame).ax n = s.ax n :=
  State.ax_of_axes ((State.Within.refl (s := s.missCounted n) (k := 0x80010)).event rfl .axes (by decide))

/-- The axis a miss later, with its latch held. -/
def Axis.held (x : Axis) (at_ : Nat) : Axis := (x.missed (x.misses + 1)).latched x.released at_

/-- The miss with the latch held and the engines of the axis told. -/
def State.missTold (s : State) (n : AxId) (frame : BitVec 32) (at_ : Nat) : State :=
  let v := s.missRecorded n frame
  ((v.setAx n ((v.ax n).missed ((v.ax n).misses + 1))).releaseVals n (v.ax n).released at_).faultEvent n 2

theorem State.signals_missTold {frame : BitVec 32} (hs : s.Sound) :
    State.Signals n ((s.missCounted n).setAx n ((s.ax n).held at_)) (s.missTold n frame at_) := by
  have hrec := State.signals_missRecorded (n := n) (frame := frame) hs
  have hset : State.Signals n ((s.missCounted n).setAx n ((s.ax n).held at_)) ((s.missRecorded n frame).setAx n ((s.ax n).held at_)) :=
    hrec.setAx_both (hs.ax n) rfl
  have hvals := State.signals_releaseVals (n := n) (at_ := at_) (w := (s.ax n).released)
    (hrec.setAx_both (x := (s.ax n).missed ((s.ax n).misses + 1)) (y := (s.ax n).missed ((s.ax n).misses + 1)) (hs.ax n) rfl).sound
  rw [State.ax_setAx_same, State.setAx_setAx] at hvals
  rw [State.missTold]
  simp only [State.missRecorded_ax]
  exact (hset.trans hvals).faultEvent

/-- Where no engine of the axis has failed, the demand is raised from the second miss on. -/
theorem State.deadlineMiss_eq {frame : BitVec 32} (hs : s.Sound) (hf : (s.failover n).failedAt = none) :
    s.deadlineMiss n frame at_ = if 1 ≤ (s.ax n).misses
      then ((s.missTold n frame at_).withDemands n 2 fun d => { d with dlmiss := true }).setBit Fld.AX_DLMISS_DOUBLE n.val true
      else s.missTold n frame at_ := by
  have hfail : ((s.missTold n frame at_).failover n).failedAt = none := by rw [(State.signals_missTold hs).failover]; exact hf
  have heq : s.deadlineMiss n frame at_ =
      let u := s.missTold n frame at_
      let raise := if (u.failover n).failedAt.isSome then (match (u.failover n).winEnd with | some w => decide (w < at_) | none => true)
        else decide (2 ≤ ((s.missRecorded n frame).ax n).misses + 1)
      if !raise then u else (u.withDemands n 2 fun d => { d with dlmiss := true }).setBit Fld.AX_DLMISS_DOUBLE n.val true := rfl
  rw [heq]
  simp only [hfail, Option.isSome_none, Bool.false_eq_true, if_false, State.missRecorded_ax]
  by_cases hk : 1 ≤ (s.ax n).misses
  · simp only [hk, show 2 ≤ (s.ax n).misses + 1 by omega, decide_true, Bool.not_true, Bool.false_eq_true, if_false, if_true]
  · simp only [hk, show ¬2 ≤ (s.ax n).misses + 1 by omega, decide_false, Bool.not_false, if_true, if_false]

/-- What every missed deadline makes of the state. -/
structure State.Missed (n : AxId) (s t : State) : Prop where
  sound : t.Sound
  state : t.axState n = s.axState n
  mode : t.axMode n = s.axMode n
  released : (t.ax n).released = (s.ax n).released
  misses : (t.ax n).misses = (s.ax n).misses + 1
  due : (t.ax n).due = []
  win : (t.ax n).win = (s.ax n).win
  cnt : t.fld Fld.AX_DLMISS_MISS_CNT n.val = min (s.fld Fld.AX_DLMISS_MISS_CNT n.val + 1) 65535
  seen : t.bit Fld.AX_DLMISS_MISS_SEEN n.val = true
  ax : ∀ m, m ≠ n → t.ax m = s.ax m

theorem State.Signals.bit {g : Fld} (h : State.Signals n s t) (hg : g.reg ∈ courseRegs ∧ g.reg ≠ .AX_STATE) :
    t.bit g n.val = s.bit g n.val := congrArg (· == 1) (h.fld hg)

theorem State.Missed.signals (h : State.Missed n s t) (hu : State.Signals n t u) : State.Missed n s u := by
  have hc := hu.course
  simp only [Axis.course, Prod.mk.injEq] at hc
  obtain ⟨hrel, -, -, hmiss, hdue, -, hwin, -, -⟩ := hc
  exact ⟨hu.sound, hu.state.trans h.state, (hu.fld (by decide)).trans h.mode, hrel.trans h.released, hmiss.trans h.misses, hdue.trans h.due,
    hwin.trans h.win, (hu.fld (by decide)).trans h.cnt, (hu.bit (by decide)).trans h.seen, fun m hm => (hu.ax m hm).trans (h.ax m hm)⟩

theorem State.Missed.demanding {q : Option Nat} (h : State.Missed n s t) : State.Missed n s (t.setAx n ((t.ax n).demanding.asking q)) where
  sound := h.sound.setAx fun _ => h.sound.ax n
  state := h.state
  mode := h.mode
  released := by rw [State.ax_setAx_same]; exact h.released
  misses := by rw [State.ax_setAx_same]; exact h.misses
  due := by rw [State.ax_setAx_same]; exact h.due
  win := by rw [State.ax_setAx_same]; exact h.win
  cnt := h.cnt
  seen := h.seen
  ax m hm := (State.ax_setAx_ne t n _ hm).trans (h.ax m hm)

theorem State.Missed.setDouble (h : State.Missed n s t) : State.Missed n s (t.setBit Fld.AX_DLMISS_DOUBLE n.val true) where
  sound := h.sound.setBit
  state := ((State.Keeps.refl h.sound).setBit (Fld.clear_axis (by decide) (by decide) (by decide))).axState.trans h.state
  mode := ((State.Keeps.refl h.sound).setBit (Fld.clear_axis (by decide) (by decide) (by decide))).fld.trans h.mode
  released := h.released
  misses := h.misses
  due := h.due
  win := h.win
  cnt := ((State.Keeps.refl h.sound).setBit (Fld.clear_axis (by decide) (by decide) (by decide))).fld.trans h.cnt
  seen := (congrArg (· == 1) ((State.Keeps.refl h.sound).setBit (Fld.clear_axis (by decide) (by decide) (by decide))).fld).trans h.seen
  ax := h.ax

/-- The state with the miss counted and the latch held. -/
def State.missHeld (s : State) (n : AxId) (late at_ : Nat) : State :=
  ((s.judged n late).missCounted n).setAx n ((s.ax n).taken.held at_)

theorem State.missed_missHeld (hs : s.Sound) : State.Missed n s (s.missHeld n v at_) := by
  have hj := State.judged_sound (n := n) (v := v) hs
  have hc := State.missCounted_sound (n := n) hj
  have hax : (s.missHeld n v at_).ax n = (s.ax n).taken.held at_ := State.ax_setAx_same _ n _
  have hstate : (s.missHeld n v at_).fld Fld.AX_STATE_STATE n.val = s.fld Fld.AX_STATE_STATE n.val :=
    (((State.Keeps.refl hj).setFld (Fld.clear_axis (by decide) (by decide) (by decide))).setBit
      (Fld.clear_axis (by decide) (by decide) (by decide))).fld.trans (State.judged_fld hs (by decide) (.inl (by decide)))
  have hmode : (s.missHeld n v at_).fld Fld.AX_CFG_MODE n.val = s.fld Fld.AX_CFG_MODE n.val :=
    (((State.Keeps.refl hj).setFld (Fld.clear_axis (by decide) (by decide) (by decide))).setBit
      (Fld.clear_axis (by decide) (by decide) (by decide))).fld.trans (State.judged_fld hs (by decide) (.inl (by decide)))
  have hcnt := State.missCounted_cnt (n := n) hj
  rw [State.judged_fld hs (by decide) (.inr (by decide))] at hcnt
  exact ⟨hc.setAx fun _ => hs.ax n, congrArg AxState.ofCode hstate, hmode, by rw [hax]; rfl, by rw [hax]; rfl, by rw [hax]; rfl,
    by rw [hax]; rfl, hcnt, State.missCounted_seen hj, fun m hm => (State.ax_setAx_ne _ n _ hm).trans (State.judged_ax_ne (v := v) hm)⟩

/-- The instant without a commit: a first miss, and one from the second on. -/
theorem State.missed_release (hs : s.Sound) (hdue : (s.ax n).due = [d]) (hc : (s.ax n).commits = []) (heng : d.eng = none)
    (harb : (s.failover n).arbStop = none) (hf : (s.failover n).failedAt = none) (hm : s.axMode n ≠ 3) :
    State.Missed n s (s.release n d at_ f) ∧
    ((s.ax n).misses = 0 → ((s.release n d at_ f).ax n).demands = (s.ax n).demands ∧
      (s.release n d at_ f).bit Fld.AX_DLMISS_DOUBLE n.val = s.bit Fld.AX_DLMISS_DOUBLE n.val) ∧
    (1 ≤ (s.ax n).misses → ((s.release n d at_ f).ax n).demands.dlmiss = true ∧
      (s.release n d at_ f).bit Fld.AX_DLMISS_DOUBLE n.val = true ∧
      (s.axState n = .run → ((s.release n d at_ f).ax n).safeReq.isSome = true)) := by
  obtain ⟨v, hv⟩ := State.release_miss (at_ := at_) (f := f) hdue hc heng harb
  have hj := State.judged_sound (n := n) (v := v) hs
  have hmiss := State.deadlineMiss_eq (n := n) (at_ := at_) (frame := d.frame) hj hf
  have hheld := State.signals_missTold (n := n) (at_ := at_) (frame := d.frame) hj
  rw [State.judged_ax] at hheld hmiss
  generalize (s.judged n v).missTold n d.frame at_ = u at hheld hmiss
  change State.Signals n (s.missHeld n v at_) u at hheld
  have hmissed := (State.missed_missHeld hs).signals hheld
  have hmisses : (s.ax n).taken.misses = (s.ax n).misses := rfl
  rw [hv, hmiss, hmisses]
  by_cases hk : 1 ≤ (s.ax n).misses
  · rw [if_pos hk]
    obtain ⟨q, hq, hrun⟩ := State.signals_raiseDlmiss (n := n) (cause := 2) hmissed.sound
    have hw := (hmissed.demanding.signals hq).setDouble
    rw [State.restartTimer_eq (hw.mode ▸ hm)]
    have hrel := (State.Signals.refl (n := n) hw.sound).releaseEvents (l := n) (f := f)
    have hcourse := hrel.course.trans hq.course
    rw [State.ax_setAx_same] at hcourse
    simp only [Axis.course, Prod.mk.injEq] at hcourse
    obtain ⟨-, -, -, -, -, -, -, hdem, hreq⟩ := hcourse
    refine ⟨hw.signals hrel, fun h0 => absurd h0 (by omega), fun _ => ⟨by rw [hdem]; rfl, ?_, fun hst => ?_⟩⟩
    · rw [hrel.bit (by decide)]
      exact State.bit_setBit_eq hq.sound (by decide) (by decide)
    · rw [hreq]
      exact hrun (hmissed.state.trans hst)
  · rw [if_neg hk, State.restartTimer_eq (hmissed.mode ▸ hm)]
    have hrel := hheld.releaseEvents (l := n) (f := f)
    have hcourse := hrel.course
    rw [State.missHeld, State.ax_setAx_same] at hcourse
    simp only [Axis.course, Prod.mk.injEq] at hcourse
    obtain ⟨-, -, -, -, -, -, -, hdem, -⟩ := hcourse
    refine ⟨hmissed.signals (State.Signals.refl hmissed.sound).releaseEvents, fun _ => ⟨hdem, ?_⟩, fun h1 => absurd h1 hk⟩
    have hdouble : (s.missHeld n v at_).bit Fld.AX_DLMISS_DOUBLE n.val = (s.judged n v).bit Fld.AX_DLMISS_DOUBLE n.val :=
      State.missCounted_double hj
    rw [hrel.bit (by decide), hdouble]
    exact congrArg (· == 1) (State.judged_fld hs (by decide) (.inr (by decide)))

end Sys2Proof.Machine

open Sys2Proof Sys2Proof.Machine

/-- Settles O15: what the instant releases or holds is fixed before the legs are driven and the engines are signalled, which leave it. -/
theorem releases : Obligations.Releases := by
  refine ⟨fun s n d c at_ hs hdue hat hle hc hin htag heng harb hinc hdl hm => ?commit,
    fun s n d at_ hs hdue hat hle hc heng harb hf hm => ?miss⟩
  case commit =>
    obtain ⟨force, fbPend, f, hexec, hsound⟩ := exec_releaseInstant_eq hdue hat hle hs
    obtain ⟨v, hsig, hwithin⟩ := State.signals_release_commit (f := f) hsound hdue hc hin htag heng harb hinc hdl hm
    have hcourse := hsig.course
    rw [State.ax_setAx_same] at hcourse
    simp only [Axis.course, Prod.mk.injEq] at hcourse
    obtain ⟨hrel, hprev, htick, hmiss, hdue', hcom, hwin, -, -⟩ := hcourse
    exact ⟨_, hexec, hrel, hprev, htick, hmiss, hdue', hcom, hwin,
      (hsig.fld (by decide)).trans (State.judged_fld hsound (by decide) (.inr (by decide))),
      fun m hm' => (hsig.ax m hm').trans ((State.ax_setAx_ne _ n _ hm').trans (State.judged_ax_ne hm')),
      hwithin .funcs (by decide), hwithin .banks (by decide)⟩
  case miss =>
    obtain ⟨force, fbPend, f, hexec, hsound⟩ := exec_releaseInstant_eq hdue hat hle hs
    obtain ⟨hmissed, hfirst, hsecond⟩ := State.missed_release (at_ := at_) (f := f) hsound hdue hc heng harb hf hm
    exact ⟨_, hexec, hmissed.released, hmissed.misses, hmissed.due, hmissed.win, hmissed.cnt, hmissed.seen, hfirst, hsecond, hmissed.ax⟩
end

section
/-! PROOF. The pace of the engines (01_frames_and_release.md R32 to R34) and the end of the fail-over window (R42, R179; O17). -/

namespace Sys2Proof.Machine

variable {s t u : State} {n : AxId} {e : EngId} {a v : Nat}

/-! ## Records of function 0 -/

theorem State.onlyBits.raw {l : List (Nat × Word)} (h : s.onlyBits t l) (ha : ∀ p ∈ l, p.1 ≠ a) : t.raw a = s.raw a :=
  BitVec.eq_of_getLsbD_eq fun k _ => h a k fun p hp hpa => absurd hpa (ha p hp)

theorem State.onlyBits_event {fn : FnId} {type src detail : Nat} {data : List Byte} (hs : s.Sound) :
    s.onlyBits (s.event fn type src detail data) [Fld.HIF_FSTAT_EVT_DROP.spot fn.val] := by
  unfold State.event State.queueEvent
  simp only
  split
  · exact .of_regs .refl rfl
  · have hfn : ∀ x, s.onlyBits (s.setFn fn x) [Fld.HIF_FSTAT_EVT_DROP.spot fn.val] := fun _ => .of_regs .refl rfl
    exact ((hfn _).setFld hs.setFn (List.mem_singleton_self _)).of_regs rfl

theorem State.fn_event_ne {fn f : FnId} {type src detail : Nat} {data : List Byte} (h : f ≠ fn) :
    (s.event fn type src detail data).fn f = s.fn f := by
  unfold State.event State.queueEvent
  simp only
  split
  · exact State.fn_setFn_ne _ _ _ h
  · exact (State.fn_setFn_ne _ _ _ h).trans (State.fn_setFn_ne _ _ _ h)

/-! ## The highest valid pace -/

/-- The pace of an engine, with its number, where it is above the highest one before. -/
def State.fasterPace (s : State) (acc : Nat × Nat) (e : EngId) : Nat × Nat :=
  if s.fld Fld.ENG_PACE_PACE_PS e.val > acc.1 then (s.fld Fld.ENG_PACE_PACE_PS e.val, e.val) else acc

/-- The highest valid pace, and its engine. -/
def State.bestPace (s : State) : Nat × Nat := ((allFin 64).filter fun e => s.bit Fld.ENG_PACE_VALID e.val).foldl s.fasterPace (0, 0)

theorem State.foldl_fasterPace {l : List EngId} {acc : Nat × Nat} : acc.1 ≤ (l.foldl s.fasterPace acc).1 ∧
    (∀ e ∈ l, s.fld Fld.ENG_PACE_PACE_PS e.val ≤ (l.foldl s.fasterPace acc).1) ∧ (acc.1 < 65536 → (l.foldl s.fasterPace acc).1 < 65536) := by
  induction l generalizing acc with
  | nil => exact ⟨Nat.le_refl _, nofun, id⟩
  | cons e l ih =>
    obtain ⟨hacc, hall, hlt⟩ := ih (acc := s.fasterPace acc e)
    have hstep : acc.1 ≤ (s.fasterPace acc e).1 ∧ s.fld Fld.ENG_PACE_PACE_PS e.val ≤ (s.fasterPace acc e).1 ∧
        (acc.1 < 65536 → (s.fasterPace acc e).1 < 65536) := by
      have hpace : s.fld Fld.ENG_PACE_PACE_PS e.val < 65536 := Fld.get_lt _ _
      unfold State.fasterPace
      split
      · exact ⟨Nat.le_of_lt ‹_›, Nat.le_refl _, fun _ => hpace⟩
      · exact ⟨Nat.le_refl _, Nat.le_of_not_lt ‹_›, id⟩
    obtain ⟨hle, hpace, hbound⟩ := hstep
    refine ⟨hle.trans hacc, fun e' he' => ?_, fun h => hlt (hbound h)⟩
    rcases List.mem_cons.mp he' with rfl | he'
    · exact hpace.trans hacc
    · exact hall e' he'

theorem State.le_bestPace (h : s.bit Fld.ENG_PACE_VALID e.val = true) : s.fld Fld.ENG_PACE_PACE_PS e.val ≤ s.bestPace.1 :=
  State.foldl_fasterPace.2.1 e (List.mem_filter.mpr ⟨List.mem_finRange e, h⟩)

theorem State.bestPace_lt : s.bestPace.1 < 65536 := State.foldl_fasterPace.2.2 (by decide)

/-- The registers that a refresh of the pace writes. -/
def paceSpots : List (Nat × Word) := [Reg.GLB_PACE_STAT.spot, Fld.HIF_FSTAT_EVT_DROP.spot 0]

/-- GLB_PACE_STAT shows the pace `p`; nothing but the register and the records of F0 differ. -/
structure State.ShowsPace (p : Nat) (s t : State) : Prop where
  sound : t.Sound
  max : t.fld Fld.GLB_PACE_STAT_MAX_PS = p
  limit : t.bit Fld.GLB_PACE_STAT_LIMIT = decide (1600 < p)
  seen : 1600 < p → t.bit Fld.GLB_PACE_STAT_LIMIT_SEEN = true
  bits : s.onlyBits t paceSpots
  fn : ∀ f : FnId, f ≠ 0 → t.fn f = s.fn f
  engines : t.engines = s.engines

theorem State.ShowsPace.event {p type src detail : Nat} (h : State.ShowsPace p s t) : State.ShowsPace p s (t.event 0 type src detail) := by
  have hfld : ∀ {f : Fld}, f.reg = .GLB_PACE_STAT → (t.event 0 type src detail).fld f = t.fld f := by
    intro f hf
    have hlow : f.reg.addr 0 < 0x100000 := by rw [hf]; decide
    rw [State.fld_eq, State.raw_event hlow, State.fld_eq]
  have heng : (t.event 0 type src detail).engines = t.engines := (State.Within.refl (k := 0x80010)).event rfl .engines (by decide)
  exact ⟨h.sound.event, (hfld rfl).trans h.max, (congrArg (· == 1) (hfld rfl)).trans h.limit,
    fun hp => (congrArg (· == 1) (hfld rfl)).trans (h.seen hp),
    h.bits.trans ((State.onlyBits_event h.sound).mono (by simp [paceSpots])), fun f hf => (State.fn_event_ne hf).trans (h.fn f hf),
    heng.trans h.engines⟩

theorem State.ShowsPace.ite {c : Prop} [Decidable c] {p : Nat} (h : c → State.ShowsPace p s t) (h2 : ¬c → State.ShowsPace p s u) :
    State.ShowsPace p s (if c then t else u) := by
  split
  · exact h ‹_›
  · exact h2 ‹_›

/-- The register with the highest pace. -/
def State.paceMax (s : State) : State := s.setFld Fld.GLB_PACE_STAT_MAX_PS 0 s.bestPace.1

/-- The register with its engine and the two limits besides. -/
def State.paceLimits (s : State) : State :=
  ((s.paceMax.setFld Fld.GLB_PACE_STAT_MAX_ENG 0 s.bestPace.2).setBit Fld.GLB_PACE_STAT_WARN 0 (decide (s.bestPace.1 > s.warnPs))).setBit
    Fld.GLB_PACE_STAT_LIMIT 0 (decide (s.bestPace.1 > 1600))

/-- The register with the flag of a pace above the warning limit besides (R33). -/
def State.paceWarned (s : State) : State :=
  if decide (s.bestPace.1 > s.warnPs) then s.paceLimits.setBit Fld.GLB_PACE_STAT_WARN_SEEN 0 true else s.paceLimits

/-- The register with the flag of a pace above 1,600 ps besides (R33). -/
def State.paceWritten (s : State) : State :=
  if decide (s.bestPace.1 > 1600) then s.paceWarned.setBit Fld.GLB_PACE_STAT_LIMIT_SEEN 0 true else s.paceWarned

theorem Fld.clear_pace {f g : Fld} (hf : f.reg = .GLB_PACE_STAT) (hg : g.reg = .GLB_PACE_STAT) (hw : f.lsb + f.width ≤ 32)
    (hd : f.Disjoint g) : f.Clear 0 g 0 := .inr ⟨hf.trans hg.symm, rfl, hw, hd⟩

theorem State.paceMax_sound (hs : s.Sound) : s.paceMax.Sound := hs.setFld

/-- The highest pace stays while its engine and the limits are written. -/
theorem State.keeps_paceLimits (hs : s.Sound) : State.Keeps Fld.GLB_PACE_STAT_MAX_PS 0 s.paceMax s.paceLimits :=
  (((State.Keeps.refl (State.paceMax_sound hs)).setFld (Fld.clear_pace rfl rfl (by decide) (by decide))).setBit
    (Fld.clear_pace rfl rfl (by decide) (by decide))).setBit (Fld.clear_pace rfl rfl (by decide) (by decide))

theorem State.paceLimits_limit (hs : s.Sound) : s.paceLimits.bit Fld.GLB_PACE_STAT_LIMIT = decide (1600 < s.bestPace.1) :=
  State.bit_setBit_eq (State.Sound.setBit (State.paceMax_sound hs).setFld) (by decide) (by decide)

theorem State.paceWarned_sound (hs : s.Sound) : s.paceWarned.Sound :=
  State.Sound.ite (fun _ => (State.keeps_paceLimits hs).sound.setBit) fun _ => (State.keeps_paceLimits hs).sound

/-- The two flags leave the rest of the register. -/
theorem State.Keeps.paceWritten {f : Fld} (h : State.Keeps f 0 t s.paceLimits) (hf : f.reg = .GLB_PACE_STAT) (hw : f.lsb + f.width ≤ 32)
    (hwarn : f.Disjoint Fld.GLB_PACE_STAT_WARN_SEEN) (hlim : f.Disjoint Fld.GLB_PACE_STAT_LIMIT_SEEN) :
    State.Keeps f 0 t s.paceWritten := by
  have hwarned : State.Keeps f 0 t s.paceWarned := State.Keeps.ite (h.setBit (Fld.clear_pace hf rfl hw hwarn)) h
  exact State.Keeps.ite (hwarned.setBit (Fld.clear_pace hf rfl hw hlim)) hwarned

theorem State.within_paceWritten : State.Within 0x10 s s.paceWritten := by
  have hlimits : State.Within 0x10 s s.paceLimits := ((((State.Within.refl (k := 0x10)).setFld rfl).setFld rfl).setBit rfl).setBit rfl
  have hwarned : State.Within 0x10 s s.paceWarned := State.Within.ite (fun _ => hlimits.setBit rfl) fun _ => hlimits
  exact State.Within.ite (fun _ => hwarned.setBit rfl) fun _ => hwarned

theorem State.onlyBits_paceWritten : s.onlyBits s.paceWritten [Reg.GLB_PACE_STAT.spot] := by
  have hfld : ∀ {f : Fld} {u : State} {v : Nat}, f.reg = .GLB_PACE_STAT → s.onlyBits u [Reg.GLB_PACE_STAT.spot] →
      s.onlyBits (u.setFld f 0 v) [Reg.GLB_PACE_STAT.spot] :=
    fun hf hu => State.onlyBits.setWord hu (by rw [hf]; exact List.mem_singleton_self _)
  have hite : ∀ {c : Prop} [Decidable c] {u : State} {f : Fld}, f.reg = .GLB_PACE_STAT → s.onlyBits u [Reg.GLB_PACE_STAT.spot] →
      s.onlyBits (if c then u.setBit f 0 true else u) [Reg.GLB_PACE_STAT.spot] := by
    intro c _ u f hf hu
    split
    · exact hfld hf hu
    · exact hu
  have hlimits : s.onlyBits s.paceLimits [Reg.GLB_PACE_STAT.spot] := hfld rfl (hfld rfl (hfld rfl (hfld rfl .refl)))
  exact hite rfl (hite rfl hlimits)

theorem State.showsPace_paceWritten (hs : s.Sound) : State.ShowsPace s.bestPace.1 s s.paceWritten := by
  have hmax : State.Keeps Fld.GLB_PACE_STAT_MAX_PS 0 s.paceMax s.paceWritten :=
    (State.keeps_paceLimits hs).paceWritten rfl (by decide) (by decide) (by decide)
  have hlim : State.Keeps Fld.GLB_PACE_STAT_LIMIT 0 s.paceLimits s.paceWritten :=
    (State.Keeps.refl (State.keeps_paceLimits hs).sound).paceWritten rfl (by decide) (by decide) (by decide)
  have hfuncs : s.paceWritten.funcs = s.funcs := State.within_paceWritten .funcs (by decide)
  refine ⟨hmax.sound, hmax.fld.trans (State.fld_setFld_eq hs (by decide) State.bestPace_lt),
    (congrArg (· == 1) hlim.fld).trans (State.paceLimits_limit hs), fun hp => ?_, State.onlyBits_paceWritten.mono (by simp [paceSpots]),
    fun f _ => by simp only [State.fn, hfuncs], State.within_paceWritten .engines (by decide)⟩
  rw [State.paceWritten, if_pos (decide_eq_true hp)]
  exact State.bit_setBit_eq (State.paceWarned_sound hs) (by decide) (by decide)

theorem State.showsPace_refreshPace (hs : s.Sound) : State.ShowsPace s.bestPace.1 s s.refreshPace := by
  have h := State.showsPace_paceWritten hs
  exact State.ShowsPace.ite (fun _ => (State.ShowsPace.ite (fun _ => h.event) fun _ => h).event)
    fun _ => State.ShowsPace.ite (fun _ => h.event) fun _ => h

/-- The window after the measured one runs. -/
def State.meterMoved (s : State) (e : EngId) (count from_ : Nat) : State :=
  { s.setEng e { s.eng e with meterFrom := some (from_ + 2048) } with free := s.free + (if count = 0 then 1 else 0) }

/-- The measured pace in the register of the engine. -/
def State.measured (s : State) (e : EngId) (count from_ : Nat) : State :=
  ((s.meterMoved e count from_).setFld Fld.ENG_PACE_PACE_PS e.val (pacePs count s.free)).setBit Fld.ENG_PACE_VALID e.val true

variable {count from_ : Nat}

theorem State.meterMoved_sound (hs : s.Sound) : (s.meterMoved e count from_).Sound := State.Sound.upd (hs.setEng fun _ => hs.eng e)

theorem State.measured_sound (hs : s.Sound) : (s.measured e count from_).Sound := State.Sound.setBit (State.meterMoved_sound hs).setFld

theorem State.measured_valid (hs : s.Sound) : (s.measured e count from_).bit Fld.ENG_PACE_VALID e.val = true :=
  State.bit_setBit_eq (State.Sound.setFld (State.meterMoved_sound hs)) (by decide) (by decide)

theorem State.measured_pace (hs : s.Sound) : (s.measured e count from_).fld Fld.ENG_PACE_PACE_PS e.val = pacePs count s.free % 65536 := by
  have hm : (s.meterMoved e count from_).Sound := State.meterMoved_sound hs
  generalize hu : (s.meterMoved e count from_).setFld Fld.ENG_PACE_PACE_PS e.val (pacePs count s.free) = u
  have hset : u.Sound := hu ▸ hm.setFld
  have hval : u.fld Fld.ENG_PACE_PACE_PS e.val = pacePs count s.free % 65536 := by
    rw [← hu]
    exact State.fld_setFld_same hm (by decide)
  have hkept : State.Keeps Fld.ENG_PACE_PACE_PS e.val u (u.setBit Fld.ENG_PACE_VALID e.val true) :=
    (State.Keeps.refl hset).setBit (.inr ⟨rfl, rfl, by decide, by decide⟩)
  rw [State.measured, hu, hkept.fld, hval]

theorem State.measured_eng : (s.measured e count from_).eng e = { s.eng e with meterFrom := some (from_ + 2048) } :=
  State.eng_setEng_same s e _

theorem State.measured_eng_ne {a : EngId} (ha : a ≠ e) : (s.measured e count from_).eng a = s.eng a := State.eng_setEng_ne s e _ ha

theorem State.onlyBits_measured : s.onlyBits (s.measured e count from_) [Reg.ENG_PACE.spot e.val] := by
  have hmoved : s.onlyBits (s.meterMoved e count from_) [Reg.ENG_PACE.spot e.val] := .of_regs .refl rfl
  exact (hmoved.setWord (List.mem_singleton_self _)).setWord (List.mem_singleton_self _)

theorem exec_paceMeasure_eq (hm : (s.eng e).meterFrom = some from_) (hle : from_ + 2048 ≤ s.tick) :
    exec (.paceMeasure e count) s = .next (s.measured e count from_).refreshPace := by
  show execPaceMeasure e count s = _
  unfold execPaceMeasure
  simp only [hm, if_neg (Nat.not_lt.mpr hle)]
  rfl

/-- A refresh of the pace leaves what each engine has measured. -/
theorem State.ShowsPace.engPace {p : Nat} (h : State.ShowsPace p s t) {f : Fld} (hf : f.reg = .ENG_PACE) : t.fld f e.val = s.fld f e.val := by
  have hlt := e.isLt
  have hraw : t.raw (Reg.ENG_PACE.addr e.val) = s.raw (Reg.ENG_PACE.addr e.val) := h.bits.raw (by
    simp only [paceSpots, List.forall_mem_cons, Reg.spot, Fld.spot, Reg.addr, Reg.spec, Fld.HIF_FSTAT_EVT_DROP]
    exact ⟨by omega, by omega, nofun⟩)
  rw [State.fld_eq, hf, hraw, State.fld_eq, hf]

theorem State.ShowsPace.engPaceBit {p : Nat} (h : State.ShowsPace p s t) {f : Fld} (hf : f.reg = .ENG_PACE) : t.bit f e.val = s.bit f e.val :=
  congrArg (· == 1) (h.engPace hf)

theorem State.ShowsPace.eng {p : Nat} (h : State.ShowsPace p s t) : t.eng e = s.eng e := by simp only [State.eng, h.engines]

/-! ## The end of the fail-over window -/

theorem exec_failoverWindowEnd_eq {w : Nat} (hw : (s.failover n).winEnd = some w) (hle : w ≤ s.tick) :
    exec (.failoverWindowEnd n) s = .next (let u := s.setFailover n { s.failover n with winEnd := none }
      if (s.failover n).coast = false then u else u.setCoast n false) := by
  show execFailoverWindowEnd n s = _
  unfold execFailoverWindowEnd State.refreshCoast
  simp only [hw, if_neg (Nat.not_lt.mpr hle), State.failover_setFailover_same, Option.isSome_none, Bool.false_and, eq_comm]

theorem State.failover_setCoast {c : Bool} : (s.setCoast n c).failover n = { s.failover n with coast := c } := by
  have hfo : (s.setCoast n c).fo = (s.setFailover n { s.failover n with coast := c }).fo :=
    (State.Within.refl (k := 0x1010) (s := (s.setFailover n { s.failover n with coast := c }).setBit Fld.AX_PSTAT_COAST n.val c)).refreshAxis
      rfl .fo (by decide)
  rw [State.failover, hfo]
  exact State.failover_setFailover_same _ n _

theorem State.failover_setCoast_ne {c : Bool} {m : AxId} (hm : m ≠ n) : (s.setCoast n c).failover m = s.failover m := by
  have hfo : (s.setCoast n c).fo = (s.setFailover n { s.failover n with coast := c }).fo :=
    (State.Within.refl (k := 0x1010) (s := (s.setFailover n { s.failover n with coast := c }).setBit Fld.AX_PSTAT_COAST n.val c)).refreshAxis
      rfl .fo (by decide)
  rw [State.failover, hfo]
  exact State.failover_setFailover_ne _ n _ hm

theorem State.coast_setCoast {c : Bool} (hs : s.Sound) : (s.setCoast n c).bit Fld.AX_PSTAT_COAST n.val = c := by
  have hkept : (s.setCoast n c).raw (Reg.AX_PSTAT.addr n.val) =
      ((s.setFailover n { s.failover n with coast := c }).setBit Fld.AX_PSTAT_COAST n.val c).raw (Reg.AX_PSTAT.addr n.val) :=
    State.raw_refreshAxis fun q hq => (Reg.paged_axis (legRegs_page q hq)).addr_ne (Reg.paged_axis (by decide)) (by revert q; decide)
  exact (congrArg (fun w => Fld.AX_PSTAT_COAST.get w == 1) hkept).trans
    (State.bit_setBit_eq (s := s.setFailover n { s.failover n with coast := c }) hs.setFailover (by decide) (by decide))

/-- Coast-through ends with the window (R42, R179). -/
theorem State.window_setCoast {t : State} (hs : s.Sound)
    (ht : t = (s.setFailover n { s.failover n with winEnd := none }).setCoast n false) :
    t.failover n = { s.failover n with winEnd := none, coast := false } ∧ t.bit Fld.AX_PSTAT_COAST n.val = false ∧
      (∀ m, m ≠ n → t.ax m = s.ax m ∧ t.failover m = s.failover m) ∧ (t.ax n).released = (s.ax n).released ∧
      t.engines = s.engines ∧ t.banks = s.banks ∧ t.funcs = s.funcs := by
  generalize hu : s.setFailover n { s.failover n with winEnd := none } = u at ht
  have hsound : u.Sound := hu ▸ hs.setFailover
  have hfo : u.failover n = { s.failover n with winEnd := none } := hu ▸ State.failover_setFailover_same s n _
  have hother : ∀ m, m ≠ n → u.failover m = s.failover m := fun m hm => hu ▸ State.failover_setFailover_ne s n _ hm
  have hsame : u.axes = s.axes ∧ u.engines = s.engines ∧ u.banks = s.banks ∧ u.funcs = s.funcs := hu ▸ ⟨rfl, rfl, rfl, rfl⟩
  obtain ⟨hax, heng, hbnk, hfn⟩ := hsame
  have hw : State.Within 0x800001010 u t := ht ▸ (State.Within.refl).setCoast rfl
  have hframe : (t.ax n).frame = (u.ax n).frame := ht ▸ State.frame_setCoast
  have hothers : State.AxisOnly n u t := ht ▸ State.AxisOnly.refl.setCoast
  have hengines : t.engines = u.engines := hw .engines (by decide)
  have hbanks : t.banks = u.banks := hw .banks (by decide)
  have hfuncs : t.funcs = u.funcs := hw .funcs (by decide)
  refine ⟨by rw [ht, State.failover_setCoast, hfo], by rw [ht, State.coast_setCoast hsound], fun m hm => ⟨?_, ?_⟩, ?_,
    hengines.trans heng, hbanks.trans hbnk, hfuncs.trans hfn⟩
  · exact (hothers.ax m hm).trans (State.ax_of_axes hax)
  · rw [ht, State.failover_setCoast_ne hm, hother m hm]
  · rw [← State.ax_of_axes (n := n) hax]
    exact congrArg (·.2.2) hframe

/-! ## Events that are not under way -/

theorem exec_prep_none (h : (s.eng e).prep = none) {b : Bool} : exec (.zeroingDone e) s = .next s ∧ exec (.imageCopyDone e b) s = .next s ∧
    exec (.engineSelftestDone e b) s = .next s := by
  refine ⟨?_, ?_, ?_⟩
  · show execZeroingDone e s = _
    simp [execZeroingDone, h]
  · show execImageCopyDone e b s = _
    simp [execImageCopyDone, h]
  · show execEngineSelftestDone e b s = _
    simp [execEngineSelftestDone, h]

theorem exec_takeoverStart_none (h : (s.failover n).candidate = none) : exec (.takeoverStart n) s = .next s := by
  show execTakeoverStart n s = _
  simp [execTakeoverStart, h]

end Sys2Proof.Machine
end

section
/-! PROOF. The staged plan (02_engines.md R92 to R96; O17). -/

namespace Sys2Proof.Machine

variable {s t u : State} {n : AxId} {e a : EngId} {i j v why : Nat}

/-! ## A plan that is rejected -/

theorem exec_allocApply_eq (ho : s.Open) : exec (.allocApply 0) s = .next s.requestApply := congrArg Host.Outcome.next (State.setupGate_open ho)

theorem State.planCheck_lt (h : s.planCheck = some why) : why < 16 := by
  unfold State.planCheck at h
  simp only at h
  repeat' split at h
  all_goals cases h
  all_goals decide

/-- GLB_ALLOC after a plan that fails a check. -/
def State.planRejected (s : State) (why : Nat) : State :=
  ((s.setBit Fld.GLB_ALLOC_BUSY 0 false).setBit Fld.GLB_ALLOC_REJ 0 true).setFld Fld.GLB_ALLOC_REJ_WHY 0 why

theorem Fld.clear_alloc {f g : Fld} (hf : f.reg = .GLB_ALLOC) (hg : g.reg = .GLB_ALLOC) (hw : f.lsb + f.width ≤ 32)
    (hd : f.Disjoint g) : f.Clear 0 g 0 := .inr ⟨hf.trans hg.symm, rfl, hw, hd⟩

theorem State.planRejected_flds (hs : s.Sound) (hwhy : why < 16) : (s.planRejected why).bit Fld.GLB_ALLOC_REJ = true ∧
    (s.planRejected why).fld Fld.GLB_ALLOC_REJ_WHY = why ∧ (s.planRejected why).bit Fld.GLB_ALLOC_BUSY = false := by
  have hbusy : (s.setBit Fld.GLB_ALLOC_BUSY 0 false).Sound := hs.setBit
  have hrej : ((s.setBit Fld.GLB_ALLOC_BUSY 0 false).setBit Fld.GLB_ALLOC_REJ 0 true).Sound := hbusy.setBit
  refine ⟨?_, State.fld_setFld_eq hrej (by decide) hwhy, ?_⟩
  · exact (congrArg (· == 1) ((State.Keeps.refl hrej).setFld (Fld.clear_alloc rfl rfl (by decide) (by decide))).fld).trans
      (State.bit_setBit_eq hbusy (by decide) (by decide))
  · exact (congrArg (· == 1) (((State.Keeps.refl hbusy).setBit (Fld.clear_alloc rfl rfl (by decide) (by decide))).setFld
      (Fld.clear_alloc rfl rfl (by decide) (by decide))).fld).trans (State.bit_setBit_eq hs (by decide) (by decide))

theorem State.onlyBits_planRejected : s.onlyBits (s.planRejected why) [Reg.GLB_ALLOC.spot] := by
  have hspot : Reg.GLB_ALLOC.spot ∈ [Reg.GLB_ALLOC.spot] := List.mem_singleton_self _
  have h : s.onlyBits (s.setBit Fld.GLB_ALLOC_BUSY 0 false) [Reg.GLB_ALLOC.spot] := State.onlyBits.setWord .refl hspot
  have h2 : s.onlyBits ((s.setBit Fld.GLB_ALLOC_BUSY 0 false).setBit Fld.GLB_ALLOC_REJ 0 true) [Reg.GLB_ALLOC.spot] := h.setWord hspot
  exact h2.setWord hspot

/-! ## What an update keeps of the plan of an engine -/

/-- What of an engine a plan is about, or is to leave. -/
def Engine.plan (x : Engine) := (x.bank0, x.image, x.pc, x.prep, x.prepDue, x.axis, x.owner)

/-- The update keeps the staged role of an engine, its status, and what a plan is about. -/
structure State.PlanKept (e : EngId) (s t : State) : Prop where
  tick : t.tick = s.tick
  role : t.raw (Reg.ENG_ROLE.addr e.val) = s.raw (Reg.ENG_ROLE.addr e.val)
  stat : t.raw (Reg.ENG_STAT.addr e.val) = s.raw (Reg.ENG_STAT.addr e.val)
  plan : (t.eng e).plan = (s.eng e).plan

theorem State.PlanKept.refl : State.PlanKept e s s := ⟨rfl, rfl, rfl, rfl⟩

theorem State.PlanKept.trans (h : State.PlanKept e s t) (h2 : State.PlanKept e t u) : State.PlanKept e s u :=
  ⟨h2.tick.trans h.tick, h2.role.trans h.role, h2.stat.trans h.stat, h2.plan.trans h.plan⟩

theorem State.PlanKept.planChanges (h : State.PlanKept e s t) : t.planChanges e = s.planChanges e := by
  have hp := h.plan
  simp only [Engine.plan, Prod.mk.injEq] at hp
  obtain ⟨-, -, -, -, -, hax, how⟩ := hp
  have hrole : ∀ f : Fld, f.reg = .ENG_ROLE → t.fld f e.val = s.fld f e.val := fun f hf => by rw [State.fld_eq, hf, h.role, State.fld_eq, hf]
  have hstat : t.engRole e = s.engRole e := congrArg Fld.ENG_STAT_ROLE.get h.stat
  unfold State.planChanges State.stagedRole State.stagedAxis
  rw [hrole _ rfl, hrole _ rfl, hrole _ rfl, hstat, hax, how]

theorem State.PlanKept.stagedRole (h : State.PlanKept e s t) : t.stagedRole e = s.stagedRole e := congrArg Fld.ENG_ROLE_ROLE.get h.role
theorem State.PlanKept.engRole (h : State.PlanKept e s t) : t.engRole e = s.engRole e := congrArg Fld.ENG_STAT_ROLE.get h.stat
theorem State.PlanKept.engState (h : State.PlanKept e s t) : t.engState e = s.engState e :=
  congrArg (fun w => EngState.ofCode (Fld.ENG_STAT_STATE.get w)) h.stat

/-- The addresses of the engine blocks. -/
def InEngines (x : Nat) : Prop := 0x10000 ≤ x ∧ x < 0x20000

/-- An update that leaves the blocks of the engines and their state. -/
theorem State.PlanKept.of_raw (h : State.PlanKept e s t) (hr : ∀ x, InEngines x → u.raw x = t.raw x) (he : u.engines = t.engines)
    (ht : u.tick = t.tick) : State.PlanKept e s u := by
  have hlt := e.isLt
  have heng : u.eng e = t.eng e := by simp only [State.eng, he]
  refine h.trans ⟨ht, hr _ ?_, hr _ ?_, by rw [heng]⟩
  · simp only [InEngines, Reg.addr, Reg.spec]; omega
  · simp only [InEngines, Reg.addr, Reg.spec]; omega

theorem State.PlanKept.setWord {r : Reg} {w : Word} (h : State.PlanKept e s t)
    (hr : Reg.ENG_ROLE.addr e.val ≠ r.addr i j ∧ Reg.ENG_STAT.addr e.val ≠ r.addr i j) : State.PlanKept e s (t.setWord r i j w) :=
  h.trans ⟨rfl, State.raw_setWord_ne hr.1, State.raw_setWord_ne hr.2, rfl⟩

theorem State.PlanKept.setFld {f : Fld} (h : State.PlanKept e s t)
    (hr : Reg.ENG_ROLE.addr e.val ≠ f.reg.addr i ∧ Reg.ENG_STAT.addr e.val ≠ f.reg.addr i) : State.PlanKept e s (t.setFld f i v) := h.setWord hr

theorem State.PlanKept.setBit {f : Fld} {b : Bool} (h : State.PlanKept e s t)
    (hr : Reg.ENG_ROLE.addr e.val ≠ f.reg.addr i ∧ Reg.ENG_STAT.addr e.val ≠ f.reg.addr i) : State.PlanKept e s (t.setBit f i b) :=
  (h.setWord hr).trans ⟨rfl, rfl, rfl, rfl⟩

/-- A register below or above the blocks of the engines. -/
theorem engines_ne_of_block {x : Nat} (h : x < 0x10000 ∨ 0x20000 ≤ x) :
    Reg.ENG_ROLE.addr e.val ≠ x ∧ Reg.ENG_STAT.addr e.val ≠ x := by
  have := e.isLt
  constructor <;> (simp only [Reg.addr, Reg.spec]; omega)

theorem engines_ne_of_axis {r : Reg} (hr : 0x40000 ≤ r.spec.base ∧ r.spec.base < 0x41000) :
    Reg.ENG_ROLE.addr e.val ≠ r.addr n.val ∧ Reg.ENG_STAT.addr e.val ≠ r.addr n.val := by
  have := hr.1
  refine engines_ne_of_block (.inr ?_)
  rw [(Reg.paged_axis hr).addr_eq]
  omega

theorem State.PlanKept.setEng {x : Engine} (h : State.PlanKept e s t) (hx : a = e → x.plan = (t.eng a).plan) :
    State.PlanKept e s (t.setEng a x) := by
  refine h.trans ⟨rfl, rfl, rfl, ?_⟩
  by_cases ha : a = e
  · subst ha
    rw [State.eng_setEng_same, hx rfl]
  · rw [State.eng_setEng_ne _ _ _ (Ne.symm ha)]

theorem State.PlanKept.ite {c : Prop} [Decidable c] (h : c → State.PlanKept e s t) (h2 : ¬c → State.PlanKept e s u) :
    State.PlanKept e s (if c then t else u) := by
  split
  · exact h ‹_›
  · exact h2 ‹_›

/-! ### Signals -/

theorem State.PlanKept.raiseFor {k : EvKind} {src : BitVec 16} {upd : PortBlock → PortBlock} (h : State.PlanKept e s t) :
    State.PlanKept e s (t.raiseFor n a k src upd) := by
  have hlt := e.isLt
  have hlt' := a.isLt
  have hcount : ∀ u, State.PlanKept e s u → State.PlanKept e s (u.countSat (evMergeFld k) a.val) := by
    refine fun u hu => hu.setFld ?_
    rw [evMergeFld_reg]
    constructor <;> (simp only [Reg.addr, Reg.spec]; omega)
  have hraise : ∀ u, State.PlanKept e s u → State.PlanKept e s (u.raiseEvent a k src upd) := by
    intro u hu
    unfold State.raiseEvent
    refine State.PlanKept.ite (fun _ => hu) fun _ => State.PlanKept.ite (fun _ => hu.setEng fun _ => rfl) fun _ => ?_
    refine (State.PlanKept.ite (fun _ => hcount u hu) fun _ => hu).setEng fun _ => ?_
    split <;> rfl
  exact hraise _ (State.PlanKept.ite (fun _ => h.setEng fun _ => rfl) fun _ => h)

theorem State.PlanKept.faultEvent {bit : Nat} (h : State.PlanKept e s t) : State.PlanKept e s (t.faultEvent n bit) :=
  forAll_induction h fun _ _ _ hu => State.PlanKept.ite (fun _ => hu.raiseFor) fun _ => hu

theorem State.PlanKept.event {fn : FnId} {type src detail : Nat} {data : List Byte} (h : State.PlanKept e s t) :
    State.PlanKept e s (t.event fn type src detail data) := by
  have hw : State.Within 0x80010 t (t.event fn type src detail data) := (State.Within.refl).event rfl
  exact h.of_raw (fun x hx => State.raw_event (hx.2.trans (by decide))) (hw .engines (by decide)) (hw .tick (by decide))

/-- An update of one axis. -/
theorem State.PlanKept.axisOnly (h : State.PlanKept e s t) (ha : State.AxisOnly n t u) (he : u.engines = t.engines) (ht : u.tick = t.tick) :
    State.PlanKept e s u :=
  h.of_raw (fun x hx => ha.raw x ⟨hx.2.trans (by decide), .inl (by have := hx.2; omega)⟩) he ht

theorem State.AxisOnly.plugDemand (h : State.AxisOnly n s t) : State.AxisOnly n s (t.plugDemand n) := by
  have hplug : ∀ x, State.AxisOnly n s ((t.setPlug n x).refreshPlug n) := fun x =>
    ((h.of_eq (u := t.setPlug n x) rfl rfl).setFld (by decide)).setBit (by decide)
  refine State.AxisOnly.ite (fun _ => ?_) fun _ => State.AxisOnly.ite (fun _ => (hplug _).refreshAxis) fun _ => h
  have hretry : State.AxisOnly n s (t.startRetry n) := hplug _
  exact (hretry.setFld (f := Fld.AX_PLUGSTAT_ID_FAIL) (by decide)).event.refreshAxis

theorem State.PlanKept.demandsChanged {before : BitVec 8} {cause : Nat} (h : State.PlanKept e s t) :
    State.PlanKept e s (t.demandsChanged n before cause) := by
  have hnoted : State.PlanKept e s (t.demandNoted n before cause) := by
    unfold State.demandNoted
    simp only
    split
    · exact h
    · split
      · exact h.of_raw (fun _ _ => rfl) rfl rfl
      · exact h
      · exact h
      · exact h.of_raw (fun _ _ => rfl) rfl rfl
  have hlog : ∀ {u : State} {code src detail : Nat}, State.PlanKept e s u → State.PlanKept e s (u.logFault code src detail) := by
    intro u code src detail hu
    have hw : State.Within 0x4000000010 u (u.logFault code src detail) := (State.Within.refl).logFault rfl
    exact hu.of_raw (fun x hx => State.raw_logFault hx.1) (hw .engines (by decide)) (hw .tick (by decide))
  have hbrake : ∀ {u : State} {b : BankId}, State.PlanKept e s u → State.PlanKept e s (u.refreshBrake b) := by
    intro u b hu
    refine State.PlanKept.setBit (hu.of_raw (fun _ _ => rfl) rfl rfl) (engines_ne_of_block (.inr ?_))
    have hp : Fld.BNK_PSTAT_L1.reg.Paged 0x20000 6 := Reg.paged_bank (by decide)
    have := hp.low
    rw [hp.addr_eq]
    omega
  have hrefresh : ∀ {u : State}, State.PlanKept e s u → State.PlanKept e s (u.refreshAxis n) := by
    intro u hu
    have hw : State.Within 0x1010 u (u.refreshAxis n) := (State.Within.refl).refreshAxis rfl
    exact hu.axisOnly State.AxisOnly.refl.refreshAxis (hw .engines (by decide)) (hw .tick (by decide))
  have hplug : ∀ {u : State}, State.PlanKept e s u → State.PlanKept e s (u.plugDemand n) := by
    intro u hu
    have hw : State.Within 0x8000081010 u (u.plugDemand n) := (State.Within.refl).plugDemand rfl
    exact hu.axisOnly State.AxisOnly.refl.plugDemand (hw .engines (by decide)) (hw .tick (by decide))
  exact hplug (hbrake (hrefresh (State.PlanKept.ite (fun _ => hlog hnoted.faultEvent) fun _ => hnoted)))

theorem State.PlanKept.withDemands {cause : Nat} {f : Demands → Demands} (h : State.PlanKept e s t) :
    State.PlanKept e s (t.withDemands n cause f) :=
  State.PlanKept.demandsChanged (h.of_raw (fun _ _ => rfl) rfl rfl)

/-- A register of the global block. -/
theorem engines_ne_of_global {r : Reg} (hr : r.spec.base < 0x1000) :
    Reg.ENG_ROLE.addr e.val ≠ r.addr 0 ∧ Reg.ENG_STAT.addr e.val ≠ r.addr 0 := by
  refine engines_ne_of_block (.inl ?_)
  simp only [Reg.addr, Nat.mul_zero, Nat.add_zero]
  omega

theorem State.PlanKept.refreshMonEng (h : State.PlanKept e s t) : State.PlanKept e s t.refreshMonEng :=
  (h.setFld (engines_ne_of_global (by decide))).setFld (engines_ne_of_global (by decide))

theorem State.PlanKept.setMoni {x : AxMon} (h : State.PlanKept e s t) : State.PlanKept e s (t.setMoni n x) :=
  h.of_raw (fun _ _ => rfl) rfl rfl

theorem State.PlanKept.loseMonEngine (h : State.PlanKept e s t) : State.PlanKept e s (t.loseMonEngine a) := by
  refine forAll_induction h fun u m _ hu => State.PlanKept.ite (fun _ => hu) fun _ => ?_
  have hact : State.PlanKept e s (u.setBit Fld.AX_MONSTAT_ACTIVE m.val false) := hu.setBit (engines_ne_of_axis (by decide))
  exact ((hact.setMoni.setBit (engines_ne_of_global (by decide))).event).refreshMonEng

theorem State.PlanKept.endShares (h : State.PlanKept e s t) : State.PlanKept e s t.endShares := by
  refine forAll_induction h fun u a _ hu => ?_
  have hlt := e.isLt
  have hlt' := a.isLt
  split
  · refine State.PlanKept.setFld (State.PlanKept.setBit (hu.setEng fun _ => rfl) ?_) (engines_ne_of_axis (by decide))
    constructor <;> (simp only [Reg.addr, Reg.spec, Fld.ENG_FO_SHARED]; omega)
  · exact hu

/-! ## A plan that is in force -/

theorem State.PlanKept.refreshFo (h : State.PlanKept e s t) : State.PlanKept e s t.refreshFo := by
  have hset : ∀ x y b, State.PlanKept e s (((t.setFld Fld.GLB_FO_STAT_SPARES_LEFT 0 x).setFld Fld.GLB_FO_STAT_STANDBY 0 y).setBit
      Fld.GLB_FO_STAT_EXHAUSTED 0 b) := fun _ _ _ =>
    ((h.setFld (engines_ne_of_global (by decide))).setFld (engines_ne_of_global (by decide))).setBit (engines_ne_of_global (by decide))
  exact State.PlanKept.ite (fun _ => (hset _ _ _).setBit (engines_ne_of_global (by decide))) fun _ => hset _ _ _

theorem State.PlanKept.applyFinished (h : State.PlanKept e s t) : State.PlanKept e s t.applyFinished :=
  State.PlanKept.ite (fun _ => h) fun _ => State.PlanKept.ite
    (fun _ => (h.setBit (engines_ne_of_global (by decide))).setBit (engines_ne_of_global (by decide))) fun _ => h

/-- The engine with the registers and the state of one that is being zeroed. -/
def State.clearEngine (s : State) (e : EngId) (x : Engine) : State :=
  ((((s.setEng e x).setBit Fld.ENG_FO_SELFTEST e.val false).setBit Fld.ENG_STAT_BK e.val false).setFld Fld.ENG_FO_CLAIM e.val 0).setEngState e
    .clearing

/-- The service that a plan gives an axis anew. -/
theorem State.PlanKept.served {b : Bool} (h : State.PlanKept e s t) : State.PlanKept e s
    (((t.setFailover n { t.failover n with engineless := b }).setFld Fld.AX_FOSTAT_SERVICE n.val 0).withDemands n 1
      fun d => { d with engLoss := false }) := by
  have hfo : State.PlanKept e s (t.setFailover n { t.failover n with engineless := b }) := h.of_raw (fun _ _ => rfl) rfl rfl
  exact (hfo.setFld (engines_ne_of_axis (by decide))).withDemands

/-- The plan of one engine leaves the others. -/
theorem State.PlanKept.applyPlanOf_ne (ha : a ≠ e) (h : State.PlanKept e s t) : State.PlanKept e s (t.applyPlanOf a) := by
  have hlt := e.isLt
  have hlt' := a.isLt
  have hne : a.val ≠ e.val := fun h => ha (Fin.ext h)
  have hother : ∀ r ∈ [Reg.ENG_STAT, .ENG_FO], Reg.ENG_ROLE.addr e.val ≠ r.addr a.val ∧ Reg.ENG_STAT.addr e.val ≠ r.addr a.val := by
    intro r hr
    simp only [List.mem_cons, List.not_mem_nil, or_false] at hr
    rcases hr with rfl | rfl <;> constructor <;> (simp only [Reg.addr, Reg.spec]; omega)
  have hrole : State.PlanKept e s (t.setFld Fld.ENG_STAT_ROLE a.val (t.stagedRole a)) := h.setFld (hother _ (by decide))
  have hclear : ∀ {u : State} {x : Engine}, State.PlanKept e s u → State.PlanKept e s (u.clearEngine a x) := fun hu =>
    ((((hu.setEng fun h => absurd h ha).setBit (hother _ (by decide))).setBit (hother _ (by decide))).setFld
      (hother _ (by decide))).setFld (hother _ (by decide))
  exact State.PlanKept.ite (fun _ => State.PlanKept.ite (fun _ => (hclear hrole.loseMonEngine).served) fun _ => hclear hrole.loseMonEngine)
    fun _ => hrole.setEng fun h => absurd h ha

/-- What a plan in force makes of an engine (R93, R94). -/
structure State.Planned (e : EngId) (s t : State) : Prop where
  role : t.engRole e = s.stagedRole e
  changed : s.planChanges e = true → t.engState e = .clearing ∧ (t.eng e).prep = some .zeroing ∧ (t.eng e).prepDue = s.tick + 400 ∧
    (t.eng e).bank0 = EngBank.zero ∧ (t.eng e).image = none
  same : s.planChanges e = false → t.engState e = s.engState e ∧ (t.eng e).bank0 = (s.eng e).bank0 ∧
    (t.eng e).image = (s.eng e).image ∧ (t.eng e).pc = (s.eng e).pc

theorem State.Planned.kept (h : State.Planned e s t) (hu : State.PlanKept e t u) : State.Planned e s u := by
  have hp := hu.plan
  simp only [Engine.plan, Prod.mk.injEq] at hp
  obtain ⟨hbank, himage, hpc, hprep, hdue, -, -⟩ := hp
  refine ⟨hu.engRole.trans h.role, fun hc => ?_, fun hc => ?_⟩
  · rw [hu.engState, hprep, hdue, hbank, himage]
    exact h.changed hc
  · rw [hu.engState, hbank, himage, hpc]
    exact h.same hc

theorem State.Planned.after (h : State.Planned e t u) (ht : State.PlanKept e s t) : State.Planned e s u := by
  have hp := ht.plan
  simp only [Engine.plan, Prod.mk.injEq] at hp
  obtain ⟨hbank, himage, hpc, -, -, -, -⟩ := hp
  refine ⟨h.role.trans ht.stagedRole, fun hc => ?_, fun hc => ?_⟩
  · rw [← ht.tick]
    exact h.changed (ht.planChanges.trans hc)
  · rw [← ht.engState, ← hbank, ← himage, ← hpc]
    exact h.same (ht.planChanges.trans hc)

theorem Fld.clear_engStat {f g : Fld} (hf : f.reg = .ENG_STAT) (hg : g.reg = .ENG_STAT) (hw : f.lsb + f.width ≤ 32)
    (hd : f.Disjoint g) : f.Clear e.val g e.val := .inr ⟨hf.trans hg.symm, rfl, hw, hd⟩

theorem Fld.clear_engFo {f g : Fld} (hf : f.reg = .ENG_STAT) (hg : g.reg = .ENG_FO) : f.Clear e.val g e.val := by
  refine .inl ?_
  rw [hf, hg]
  simp only [Reg.addr, Reg.spec]
  omega

theorem State.eng_clearEngine {x : Engine} : (s.clearEngine e x).eng e = x := State.eng_setEng_same s e x

theorem State.engState_clearEngine {x : Engine} (hs : (s.setEng e x).Sound) : (s.clearEngine e x).engState e = .clearing := by
  have hpre : ((((s.setEng e x).setBit Fld.ENG_FO_SELFTEST e.val false).setBit Fld.ENG_STAT_BK e.val false).setFld Fld.ENG_FO_CLAIM e.val 0).Sound :=
    (hs.setBit.setBit).setFld
  exact congrArg EngState.ofCode (State.fld_setFld_eq hpre (by decide) (by decide))

theorem State.engRole_clearEngine {x : Engine} (hs : (s.setEng e x).Sound) : (s.clearEngine e x).engRole e = s.engRole e :=
  ((((State.Keeps.refl (f := Fld.ENG_STAT_ROLE) (i := e.val) hs).setBit (Fld.clear_engFo rfl rfl)).setBit
    (Fld.clear_engStat rfl rfl (by decide) (by decide))).setFld (Fld.clear_engFo rfl rfl)).setFld
    (Fld.clear_engStat rfl rfl (by decide) (by decide)) |>.fld

theorem State.stagedRole_lt : s.stagedRole e < 4 := Fld.get_lt Fld.ENG_ROLE_ROLE _

/-- The engine with the place that the staged plan gives it. -/
def State.placed (s : State) (e : EngId) : Engine :=
  let x := s.eng e
  { x with axis := if s.stagedRole e = 1 then (if h : s.stagedAxis e < 48 then ⟨s.stagedAxis e, h⟩ else x.axis) else x.axis,
           owner := if s.stagedRole e = 2 then ⟨s.fld Fld.ENG_ROLE_OWNER e.val % 8, Nat.mod_lt _ (by omega)⟩ else x.owner,
           grpBank := if h : s.fld Fld.ENG_ROLE_GRP_BANK e.val < 6 then ⟨s.fld Fld.ENG_ROLE_GRP_BANK e.val, h⟩ else x.grpBank,
           grpDiv := Nat.max 1 (s.fld Fld.ENG_ROLE_GRP_DIV e.val) }

/-- An engine whose plan changes: zeroed, until the tick `due` (R94). -/
def Engine.taken (x : Engine) (due : Nat) (meter : Option Nat) : Engine :=
  { x.zero with prep := some .zeroing, prepDue := due, byApply := true, guest := none, repairing := false, meterFrom := meter }

theorem State.applyPlanOf_same (h : s.planChanges e = false) :
    s.applyPlanOf e = (s.setFld Fld.ENG_STAT_ROLE e.val (s.stagedRole e)).setEng e (s.placed e) :=
  if_neg (by rw [h]; decide)

/-- A changed engine is cleared; the service of its axis follows. -/
theorem State.applyPlanOf_changed (h : s.planChanges e = true) :
    ∃ meter, State.PlanKept e (((s.setFld Fld.ENG_STAT_ROLE e.val (s.stagedRole e)).loseMonEngine e).clearEngine e
      ((s.placed e).taken (s.tick + 400) meter)) (s.applyPlanOf e) := by
  have hlost : State.PlanKept e (s.setFld Fld.ENG_STAT_ROLE e.val (s.stagedRole e))
      ((s.setFld Fld.ENG_STAT_ROLE e.val (s.stagedRole e)).loseMonEngine e) := State.PlanKept.refl.loseMonEngine
  have htick : ((s.setFld Fld.ENG_STAT_ROLE e.val (s.stagedRole e)).loseMonEngine e).tick = s.tick := hlost.tick
  refine ⟨if s.stagedRole e = 3 then some ((s.eng e).meterFrom.getD
    ((s.setFld Fld.ENG_STAT_ROLE e.val (s.stagedRole e)).loseMonEngine e).tick) else (s.eng e).meterFrom, ?_⟩
  rw [← htick, State.applyPlanOf]
  simp only [h, if_true]
  exact State.PlanKept.ite (fun _ => State.PlanKept.refl.served) fun _ => .refl

theorem State.planned_applyPlanOf (hs : s.Sound) : State.Planned e s (s.applyPlanOf e) := by
  have hrole : (s.setFld Fld.ENG_STAT_ROLE e.val (s.stagedRole e)).Sound := hs.setFld
  have hrole' : (s.setFld Fld.ENG_STAT_ROLE e.val (s.stagedRole e)).engRole e = s.stagedRole e :=
    State.fld_setFld_eq hs (by decide) State.stagedRole_lt
  cases hc : s.planChanges e with
  | true =>
    obtain ⟨meter, hkept⟩ := State.applyPlanOf_changed hc
    refine State.Planned.kept ?_ hkept
    have hlost : State.PlanKept e (s.setFld Fld.ENG_STAT_ROLE e.val (s.stagedRole e))
        ((s.setFld Fld.ENG_STAT_ROLE e.val (s.stagedRole e)).loseMonEngine e) := State.PlanKept.refl.loseMonEngine
    have hset := (hrole.loseMonEngine (e := e)).setEng (e := e) (x := (s.placed e).taken (s.tick + 400) meter)
      fun _ => State.Sound.Engine_zero (hs.eng e)
    refine ⟨(State.engRole_clearEngine hset).trans (hlost.engRole.trans hrole'), fun _ => ?_, fun h => absurd (hc.symm.trans h) (by decide)⟩
    rw [State.eng_clearEngine]
    exact ⟨State.engState_clearEngine hset, rfl, rfl, rfl, rfl⟩
  | false =>
    rw [State.applyPlanOf_same hc]
    have hstate : (s.setFld Fld.ENG_STAT_ROLE e.val (s.stagedRole e)).engState e = s.engState e :=
      congrArg EngState.ofCode ((State.Keeps.refl hs).setFld (Fld.clear_engStat rfl rfl (by decide) (by decide))).fld
    refine ⟨hrole', fun h => absurd (hc.symm.trans h) (by decide), fun _ => ?_⟩
    rw [State.eng_setEng_same]
    exact ⟨hstate, rfl, rfl, rfl⟩

/-- Every engine takes its own part of the plan, and no other. -/
theorem State.planned_forAll {l : List EngId} (hl : l.Nodup) (he : e ∈ l) (hs : s.Sound) :
    State.Planned e s (forAll l State.applyPlanOf s) := by
  induction l generalizing s with
  | nil => exact absurd he List.not_mem_nil
  | cons a l ih =>
    obtain ⟨ha, hl⟩ := List.nodup_cons.mp hl
    have hcons : forAll (a :: l) State.applyPlanOf s = forAll l State.applyPlanOf (s.applyPlanOf a) := rfl
    rw [hcons]
    by_cases hea : e = a
    · subst hea
      have hrest : State.PlanKept e (s.applyPlanOf e) (forAll l State.applyPlanOf (s.applyPlanOf e)) :=
        forAll_induction .refl fun _ b hb hu => hu.applyPlanOf_ne (by rintro rfl; exact ha hb)
      exact (State.planned_applyPlanOf hs).kept hrest
    · have hfirst : State.PlanKept e s (s.applyPlanOf a) := State.PlanKept.refl.applyPlanOf_ne (Ne.symm hea)
      exact (ih hl ((List.mem_cons.mp he).resolve_left hea) hs.applyPlanOf).after hfirst

theorem State.planned_runApply (hs : s.Sound) (h : s.planCheck = none) : State.Planned e s s.runApply := by
  have hbusy : State.PlanKept e s (s.setBit Fld.GLB_ALLOC_BUSY 0 true) := State.PlanKept.refl.setBit (engines_ne_of_global (by decide))
  have hall := State.planned_forAll (e := e) (List.nodup_finRange 64) (List.mem_finRange e)
    (State.Sound.endShares (hs.setBit (f := Fld.GLB_ALLOC_BUSY) (i := 0) (b := true)))
  have heq : s.runApply = ((forAll (allFin 64) State.applyPlanOf (s.setBit Fld.GLB_ALLOC_BUSY 0 true).endShares).refreshFo).applyFinished := by
    unfold State.runApply
    simp only [h]
  rw [heq]
  exact (hall.after hbusy.endShares).kept State.PlanKept.refl.refreshFo.applyFinished

end Sys2Proof.Machine

open Sys2Proof Sys2Proof.Machine

/-- Settles O17: the pace by the register that its refresh writes, the window by what ends with it, and the plan engine by engine. -/
theorem paceAndPlans : Obligations.PaceAndPlans := by
  refine ⟨fun s e count from_ hs hm hle => ?pace, fun s n e b w hs => ?window, fun s fn hs hup hready hload => ?plan⟩
  case pace =>
    have hshow := State.showsPace_refreshPace (State.measured_sound (e := e) (count := count) (from_ := from_) hs)
    refine ⟨_, exec_paceMeasure_eq hm hle, ?_, (hshow.engPaceBit rfl).trans (State.measured_valid hs), fun hcount => ?_, fun a ha => ?_, ?_,
      fun hlim => ?_, fun a ha => hshow.eng.trans (State.measured_eng_ne ha), hshow.fn, ?_⟩
    · rw [hshow.eng, State.measured_eng]
    · rw [hshow.engPace rfl, State.measured_pace hs, pacePs, if_neg hcount.ne']
    · rw [hshow.max, hshow.engPace rfl]
      exact State.le_bestPace ((hshow.engPaceBit rfl).symm.trans ha)
    · rw [hshow.limit, hshow.max]
    · rw [hshow.limit, decide_eq_true_eq] at hlim
      exact hshow.seen hlim
    · exact (State.onlyBits_measured.mono (by simp)).trans (hshow.bits.mono (by simp [paceSpots]))
  case window =>
    refine ⟨fun hw hle hcoast => ?_, fun hw hle hcoast => ?_, fun hw hlt => ?_, exec_takeoverStart_none, fun hp => exec_prep_none hp⟩
    · rw [exec_failoverWindowEnd_eq hw hle]
      simp only [hcoast, if_true]
    · refine ⟨_, exec_failoverWindowEnd_eq hw hle, State.window_setCoast hs ?_⟩
      simp only [hcoast, Bool.true_eq_false, if_false]
    · show execFailoverWindowEnd n s = _
      simp [execFailoverWindowEnd, hw, hlt]
  case plan =>
    have ho : s.Open := ⟨hup, hready, hload⟩
    refine ⟨fun hfn => ?_, fun hfn hbusy => ?_, fun hfn hbusy htake => ⟨fun why hwhy => ?_, fun hok => ?_⟩⟩
    · show Host.Outcome.next (s.setupGate fn State.requestApply) = _
      rw [State.setupGate, if_pos (.inl hfn)]
    · rw [hfn, exec_allocApply_eq ho, State.requestApply, if_pos hbusy]
    · have hrun : s.requestApply = s.planRejected why := by
        simp only [State.requestApply, hbusy, htake, Bool.false_eq_true, if_false, State.runApply, hwhy]
        rfl
      obtain ⟨hrej, hval, hidle⟩ := State.planRejected_flds hs (State.planCheck_lt hwhy)
      exact ⟨_, by rw [hfn, exec_allocApply_eq ho, hrun], hrej, hval, hidle, State.onlyBits_planRejected, rfl⟩
    · have hrun : s.requestApply = s.runApply := by
        simp only [State.requestApply, hbusy, htake, Bool.false_eq_true, if_false]
      refine ⟨_, by rw [hfn, exec_allocApply_eq ho, hrun], fun e => ?_⟩
      have hplan := State.planned_runApply (e := e) hs hok
      exact ⟨hplan.role, hplan.changed, hplan.same⟩
end

section
-- The parts of this text are elaborated one after another, which bounds the memory that they take together.
set_option Elab.async false
/-! PROOF. The Q lane (03_engine_instructions.md R104, R105): each result as its exact value narrowed, with its flags. -/

namespace Sys2Proof.Machine

/-! ## Narrowing (R65) -/

theorem satQ_eq_narrow (sat : Bool) (v : Int) : satQ sat v = narrow sat 16 v := by
  unfold satQ narrow
  cases sat with
  | false => rfl
  | true =>
    simp only [Bool.true_and, decide_eq_true_eq, if_true]
    by_cases h : v < -32768
    · rw [if_pos h, max_eq_left (by omega)]; rfl
    · by_cases h' : v > 32767
      · rw [if_neg h, if_pos h', min_eq_left (by omega)]; rfl
      · rw [if_neg h, if_neg h', min_eq_right (by omega), max_eq_right (by omega)]

theorem ovfQ_eq_outside (v : Int) : ovfQ v = outside 16 v := by
  unfold ovfQ outside
  congr 1

theorem narrow_of_inside {sat : Bool} {w : Nat} {v : Int} (h : outside w v = false) : narrow sat w v = BitVec.ofInt w v := by
  simp only [outside, Bool.or_eq_false_iff, decide_eq_false_iff_not] at h
  unfold narrow
  split
  · rw [min_eq_right (by omega), max_eq_right (by omega)]
  · rfl

theorem narrow_of_outside {v : Int} (h : outside 16 v = true) : narrow true 16 v = if v < 0 then 0x8000 else 0x7FFF := by
  simp only [outside, Bool.or_eq_true, decide_eq_true_eq, Nat.reduceSub, Int.reducePow] at h
  rw [← satQ_eq_narrow, satQ]
  by_cases hn : v < 0
  · simp [hn, show v < -32768 by omega]
  · simp [hn, show ¬ v < -32768 by omega, show v > 32767 by omega]

/-- A 16-bit result with its condition flags, and QV where it has overflowed. -/
def QRes.of (r : BitVec 16) (c v q : Bool) : QRes := ⟨r, cond (r == 0) r.msb c v, if q then Sticky.qv else Sticky.none⟩

/-- A Q result that is an exact value narrowed, with QV and V where it leaves 16 bits. -/
def QRes.exact (sat : Bool) (v : Int) (c : Bool) : QRes := .of (narrow sat 16 v) c (outside 16 v) (outside 16 v)

/-! ## Arithmetic -/

theorem qAdd_eq_exact (sat : Bool) (a b : BitVec 16) :
    qAdd sat a b = .exact sat (a.toInt + b.toInt) (decide (2 ^ 16 ≤ a.toNat + b.toNat)) := by
  simp only [qAdd, satQ_eq_narrow, ovfQ_eq_outside]
  rfl

theorem qSub_eq_exact (sat : Bool) (a b : BitVec 16) :
    qSub sat a b = .exact sat (a.toInt - b.toInt) (decide (b.toNat ≤ a.toNat)) := by
  simp only [qSub, satQ_eq_narrow, ovfQ_eq_outside]
  rfl

/-- NEG has no borrow at 0 alone. -/
theorem qSub_zero_eq_exact (sat : Bool) (a : BitVec 16) : qSub sat 0 a = .exact sat (-a.toInt) (decide (a = 0)) := by
  have hc : a.toNat ≤ (0 : BitVec 16).toNat ↔ a = 0 := by bv_omega
  have hv : (0 : BitVec 16).toInt - a.toInt = -a.toInt := by simp
  rw [qSub_eq_exact, hv, decide_eq_decide.mpr hc]

/-- The magnitude leaves 16 bits at −2^15 alone. -/
theorem outside_natAbs (a : BitVec 16) : outside 16 |a.toInt| = (a == 0x8000) := by
  have hlt := BitVec.toInt_lt (x := a)
  have hle := BitVec.le_toInt (x := a)
  have hiff : (2 : Int) ^ 15 ≤ |a.toInt| ↔ a = 0x8000 := by
    have h8 : BitVec.toInt (0x8000 : BitVec 16) = -2 ^ 15 := by decide
    rw [← BitVec.toInt_inj, h8, le_abs]
    omega
  have hlo : ¬ |a.toInt| < -(2 : Int) ^ 15 := by have := abs_nonneg a.toInt; omega
  rw [outside, Bool.eq_iff_iff]
  simp only [Nat.reduceSub, hlo, decide_false, Bool.false_or, decide_eq_true_eq, hiff, beq_iff_eq]

theorem qAbs_eq_exact (sat : Bool) (a : BitVec 16) : qAbs sat a = .exact sat |a.toInt| false := by
  simp only [qAbs, QRes.exact, QRes.of, satQ_eq_narrow, ovfQ_eq_outside, ← Int.abs_eq_natAbs, outside_natAbs]

/-! ## Shifts -/

theorem shiftLeft_eq_ofInt {w : Nat} (a : BitVec w) (n : Nat) : a <<< n = BitVec.ofInt w (a.toInt * 2 ^ n) := by
  rw [BitVec.ofInt_mul, BitVec.ofInt_toInt, BitVec.shiftLeft_eq_mul_twoPow]
  congr 1
  rw [← BitVec.toNat_inj]
  have h : (2 : Int) ^ n = ((2 ^ n : Nat) : Int) := by push_cast; rfl
  rw [h, BitVec.ofInt_natCast, BitVec.toNat_twoPow, BitVec.toNat_ofNat]

theorem sshiftRight_eq_ofInt {w : Nat} (a : BitVec w) (n : Nat) : a.sshiftRight n = BitVec.ofInt w (a.toInt / 2 ^ n) := by
  rw [BitVec.sshiftRight, Int.shiftRight_eq_div_pow]
  push_cast
  rfl

theorem qShl_eq_exact (sat : Bool) (a : BitVec 16) (n : Nat) :
    qShl sat a n = .exact sat (a.toInt * 2 ^ n) (decide (1 ≤ n) && decide (n ≤ 16) && a.getLsbD (16 - n)) := by
  have hr : (if ovfQ (a.toInt * 2 ^ n) then (if sat then (if a.msb then 0x8000 else 0x7FFF) else a <<< n) else a <<< n) =
      narrow sat 16 (a.toInt * 2 ^ n) := by
    have hneg : a.msb = true ↔ a.toInt * 2 ^ n < 0 := by
      have hp : (0 : Int) < 2 ^ n := by positivity
      rw [BitVec.msb_eq_toInt, decide_eq_true_eq]
      exact ⟨fun h => mul_neg_of_neg_of_pos h hp, fun h => neg_of_mul_neg_left h hp.le⟩
    rw [ovfQ_eq_outside, shiftLeft_eq_ofInt]
    cases ho : outside 16 (a.toInt * 2 ^ n) with
    | false => simp only [narrow_of_inside ho, Bool.false_eq_true, if_false]
    | true =>
      cases sat with
      | false => rfl
      | true => simp only [narrow_of_outside ho, hneg, if_true]
  have hc : (if n = 0 then false else if n ≤ 16 then a.getLsbD (16 - n) else false) =
      (decide (1 ≤ n) && decide (n ≤ 16) && a.getLsbD (16 - n)) := by
    by_cases h0 : n = 0
    · simp [h0]
    · by_cases h16 : n ≤ 16
      · simp [h0, h16, Nat.one_le_iff_ne_zero]
      · simp [h0, h16]
  simp only [qShl, hr, hc]
  simp only [ovfQ_eq_outside]
  rfl

/-- The lowest bit of an arithmetic right shift. -/
theorem getLsbD_sshiftRight_zero (a : BitVec 16) (k : Nat) : (a.sshiftRight k).getLsbD 0 = decide (a.toInt / 2 ^ k % 2 = 1) := by
  rw [sshiftRight_eq_ofInt, Bool.eq_iff_iff, decide_eq_true_eq]
  generalize a.toInt / 2 ^ k = v
  rw [BitVec.getLsbD, BitVec.toNat_ofInt, Nat.testBit_zero, decide_eq_true_eq]
  omega

theorem qAsr_eq (a : BitVec 16) (n : Nat) :
    qAsr a n = .of (BitVec.ofInt 16 (a.toInt / 2 ^ n)) (decide (1 ≤ n) && decide (a.toInt / 2 ^ (n - 1) % 2 = 1)) false false := by
  have hc : (if n = 0 then false else if n ≤ 16 then a.getLsbD (n - 1) else a.msb) =
      (decide (1 ≤ n) && decide (a.toInt / 2 ^ (n - 1) % 2 = 1)) := by
    rw [← getLsbD_sshiftRight_zero, BitVec.getLsbD_sshiftRight]
    cases n with
    | zero => rfl
    | succ k => by_cases hk : k < 16 <;> simp [hk]
  simp only [qAsr, hc, sshiftRight_eq_ofInt]
  rfl

theorem qLsr_eq (a : BitVec 16) (n : Nat) :
    qLsr a n = .of (BitVec.ofNat 16 (a.toNat / 2 ^ n)) (decide (1 ≤ n) && decide (a.toNat / 2 ^ (n - 1) % 2 = 1)) false false := by
  have hr : a >>> n = BitVec.ofNat 16 (a.toNat / 2 ^ n) := by
    rw [← Nat.shiftRight_eq_div_pow, ← BitVec.toNat_ushiftRight, BitVec.ofNat_toNat, BitVec.setWidth_eq]
  have hc : (if n = 0 then false else if n ≤ 16 then a.getLsbD (n - 1) else false) =
      (decide (1 ≤ n) && decide (a.toNat / 2 ^ (n - 1) % 2 = 1)) := by
    rw [← Nat.testBit_eq_decide_div_mod_eq]
    cases n with
    | zero => rfl
    | succ k =>
      by_cases hk : k + 1 ≤ 16
      · simp [hk, BitVec.testBit_toNat]
      · simp [hk, BitVec.getLsbD_of_ge a k (by omega), BitVec.testBit_toNat]
  simp only [qLsr, hr, hc]
  rfl

/-! ## Issue -/

variable {s : State} {e : EngId} {f : EngBank → Bool → List Res_}

theorem EngBank.stick_none (b : EngBank) : b.stick Sticky.none = b := by
  have h : b.sw ||| ((Sticky.none).setWidth 16 <<< 8) = b.sw := by simp [Sticky.none]
  simp only [EngBank.stick, h]

/-- A plain instruction with one result of latency 1 in a bank. -/
theorem State.issueRes_lands {r : Res_} (h : s.Ready e) (hf : f (s.eng e).cur (s.eng e).cur.satOn = [r])
    (hb : r.dest.inBank = true) (hl : r.lat = 1) :
    s.issueRes e f = s.setEng e ((s.eng e).after (fun b => ((r.dest.put b).condIf r.cond).stick r.sticky) []) :=
  State.issue_one h (congrArg (Issue.done s · 1 none) hf) hb hl

/-- The same where it sets no flag. -/
theorem State.issueRes_lands_plain {d : EngDest} (h : s.Ready e) (hb : d.inBank = true)
    (hf : f (s.eng e).cur (s.eng e).cur.satOn = [{ lat := 1, dest := d }]) :
    s.issueRes e f = s.setEng e ((s.eng e).after d.put []) := by
  rw [State.issueRes_lands h hf hb rfl]
  simp only [EngBank.stick_none]
  rfl

/-- A plain instruction that writes a Q result with all its flags. -/
theorem State.issueRes_putQ {d : HReg} {r : BitVec 16} {c v q : Bool} (h : s.Ready e)
    (hf : f (s.eng e).cur (s.eng e).cur.satOn = resQ d (.of r c v q)) :
    s.issueRes e f = s.setEng e ((s.eng e).after (fun b => b.putQ d r c v q) []) := State.issueRes_lands h hf rfl rfl

end Sys2Proof.Machine

open Sys2Proof Sys2Proof.Machine

/-- Settles O1: each result is the exact value narrowed, and lands with its flags in the step of its issue. -/
theorem qLaneArithmetic : Obligations.QLaneArithmetic := by
  intro s e d a b imm h x k u w i ends
  have hends {c : Instr} {f : EngBank → Bool → List Res_} {v : Int} {carry : Bool} (hc : exec c s = .next (s.issueRes e f))
      (hf : f k k.satOn = resQ d (.exact k.satOn v carry)) : ends c v carry :=
    hc.trans (congrArg _ (State.issueRes_putQ h hf))
  exact ⟨hends rfl (congrArg (resQ d) (qAdd_eq_exact ..)), hends rfl (congrArg (resQ d) (qAdd_eq_exact ..)),
    hends rfl (congrArg (resQ d) (qSub_eq_exact ..)), hends rfl (congrArg (resQ d) (qSub_zero_eq_exact ..)),
    hends rfl (congrArg (resQ d) (qAbs_eq_exact ..))⟩

/-- Settles O2: a logical result is a Q result without carry and overflow; a shift is one of its exact product or quotient. -/
theorem qLaneLogicAndShifts : Obligations.QLaneLogicAndShifts := by
  refine ⟨fun s e d a b p imm h => ?logic, fun s e d a amt h => ?shifts⟩
  case logic =>
    intro x k u w ends moves
    have hends {c : Instr} {f : EngBank → Bool → List Res_} {r : BitVec 16} (hc : exec c s = .next (s.issueRes e f))
        (hf : f k k.satOn = resLogic d r) : ends c r := hc.trans (congrArg _ (State.issueRes_putQ h hf))
    have hmoves {c : Instr} {f : EngBank → Bool → List Res_} {r : BitVec 16} (hc : exec c s = .next (s.issueRes e f))
        (hf : f k k.satOn = resH d r) : moves c r := hc.trans (congrArg _ (State.issueRes_lands_plain h rfl hf))
    have hmin : (if u.toInt ≤ w.toInt then u else w) = BitVec.ofInt 16 (min u.toInt w.toInt) := by
      rw [min_def, apply_ite (BitVec.ofInt 16), BitVec.ofInt_toInt, BitVec.ofInt_toInt]
    have hmax : (if u.toInt ≤ w.toInt then w else u) = BitVec.ofInt 16 (max u.toInt w.toInt) := by
      rw [max_def, apply_ite (BitVec.ofInt 16), BitVec.ofInt_toInt, BitVec.ofInt_toInt]
    exact ⟨hends rfl (congrArg (resLogic d) hmin), hends rfl (congrArg (resLogic d) hmax), hends rfl rfl, hends rfl rfl, hends rfl rfl,
      hends rfl rfl, hends rfl rfl, hmoves rfl rfl, hmoves rfl rfl, hmoves rfl rfl⟩
  case shifts =>
    intro x k u n v ends
    have hn : ShiftAmt.val amt k = n := by
      cases amt with
      | imm i => rfl
      | reg b => simp [n, ShiftAmt.val, BitVec.extractLsb'_toNat]
    have hends {c : Instr} {f : EngBank → Bool → List Res_} {r : BitVec 16} {carry o : Bool} (hc : exec c s = .next (s.issueRes e f))
        (hf : f k k.satOn = resQ d (.of r carry o o)) : ends c r carry o := hc.trans (congrArg _ (State.issueRes_putQ h hf))
    refine ⟨hends rfl ?_, hends rfl ?_, hends rfl ?_⟩
    · rw [hn, qShl_eq_exact]; rfl
    · rw [hn, qAsr_eq]
    · rw [hn, qLsr_eq]
end

section
set_option Elab.async false
/-! PROOF. Moves, pointers, status word and special registers (02_engines.md R64, R68; 03_engine_instructions.md R111, R112, R115). -/

namespace Sys2Proof.Machine

variable {s : State} {e : EngId} {f : State → Engine → Issue}

/-! ## Issue -/

/-- An undefined word, or another fault of the instruction itself. -/
theorem State.issue_fault {c : EngFault} (h : s.Ready e) (hf : f s (s.eng e) = .fault c) :
    s.issue e f = s.engineFault e c (s.eng e).pc := by
  simp only [State.issue, h.canIssue, h.finishSlot, h.word, hf, Bool.not_true, Bool.false_eq_true, if_false]

/-- A plain instruction with one result of latency 1 in a bank, and no flag. -/
theorem State.issue_lands_plain {d : EngDest} (h : s.Ready e) (hb : d.inBank = true)
    (hf : f s (s.eng e) = .done s [{ lat := 1, dest := d }]) : s.issue e f = s.setEng e ((s.eng e).after d.put []) := by
  rw [State.issue_one h hf hb rfl]
  simp only [EngBank.stick_none]
  rfl

theorem Engine.after_id (x : Engine) : x.after (fun b => b) [] = x.advance.tickStep := by
  simp only [Engine.after, Engine.onCur_id, List.append_nil]

/-- A plain instruction without a result. -/
theorem State.issue_nothing (h : s.Ready e) (hf : f s (s.eng e) = .done s []) :
    s.issue e f = s.setEng e ((s.eng e).after (fun b => b) []) := by
  rw [State.issue_plain h hf (by simp)]
  rfl

theorem Engine.setSticky_none (x : Engine) (b : Bool) : x.setSticky b Sticky.none = x := by
  have h : ∀ q : EngBank, { q with sw := q.sw ||| ((Sticky.none).setWidth 16 <<< 8) } = q := EngBank.stick_none
  cases b <;> simp only [Engine.setSticky, h, Bool.false_eq_true, if_true, if_false]

/-- A plain instruction with one result of latency 1 in a register that the banks share. -/
theorem State.issue_shared {d : EngDest} (h : s.Ready e) (hf : f s (s.eng e) = .done s [{ lat := 1, dest := d }]) :
    s.issue e f = s.setEng e ((s.eng e).advance.write (s.eng e).handler.isSome d).tickStep := by
  have hland := Engine.land_launch (x := (s.eng e).advance) [(s.eng e).fly { lat := 1, dest := d }] h.quiet
  rw [State.issue_done h hf, Engine.pass_eq]
  refine congrArg (fun y : Engine => s.setEng e y.tickStep) (hland.trans ?_)
  simp only [Engine.fly, Nat.add_sub_cancel, Engine.advance_step, Nat.le_refl, decide_true, Bool.not_true, List.filter_cons_of_pos,
    List.filter_nil, List.filter_cons_of_neg, List.append_nil, List.foldl_cons, List.foldl_nil, Engine.setSticky_none,
    Bool.false_eq_true, not_false_eq_true]
  rfl

/-! ## Values -/

theorem xor_signBit (u : BitVec 32) : u ^^^ 0x80000000 = BitVec.ofNat 32 (u.toNat + 2 ^ 31) := by
  have hc : (0x80000000 : BitVec 32) = BitVec.twoPow 32 31 := by decide
  refine BitVec.eq_of_getLsbD_eq fun i hi => ?_
  rw [hc, BitVec.getLsbD_xor, BitVec.getLsbD_twoPow, BitVec.getLsbD_ofNat, Nat.add_comm, BitVec.getLsbD, decide_eq_true hi, Bool.true_and,
    decide_eq_true (by decide : 31 < 32), Bool.true_and]
  by_cases h : i = 31
  · rw [h, Nat.testBit_two_pow_add_eq, decide_eq_true rfl, Bool.xor_true]
  · rw [Nat.testBit_two_pow_add_gt (by omega), decide_eq_false (Ne.symm h), Bool.xor_false]

theorem and_magnitude (u : BitVec 32) : u &&& 0x7FFFFFFF = BitVec.ofNat 32 (u.toNat % 2 ^ 31) := by
  have h : (0x7FFFFFFF : BitVec 32).toNat = 2 ^ 31 - 1 := by decide
  rw [← BitVec.toNat_inj, BitVec.toNat_and, h, Nat.and_two_pow_sub_one_eq_mod, BitVec.toNat_ofNat]
  omega

theorem setWidth_shiftLeft_ten (u : BitVec 22) : u.setWidth 32 <<< 10 = BitVec.ofNat 32 (u.toNat * 2 ^ 10) := by
  rw [← BitVec.toNat_inj]
  simp [Nat.shiftLeft_eq]

theorem add_signExtend (p : BitVec 16) (off : BitVec 13) : p + off.signExtend 16 = BitVec.ofInt 16 (p.toNat + off.toInt) := by
  rw [BitVec.ofInt_add, BitVec.ofInt_natCast, BitVec.ofNat_toNat, BitVec.setWidth_eq, BitVec.signExtend]

end Sys2Proof.Machine

open Sys2Proof Sys2Proof.Machine

/-- Settles O4: one result each, in the bank in use or in a register that the banks share. -/
theorem movesPointersStatus : Obligations.MovesPointersStatus := by
  refine ⟨fun s e h p q f g imm off fi hr => ?moves, fun s e d p v sr hr => ?status⟩
  case moves =>
    intro x k ends
    have hends {c : Instr} {i : State → Engine → Issue} {r : EngDest} (hc : exec c s = .next (s.issue e i)) (hb : r.inBank = true)
        (hi : i s x = .done s [{ lat := 1, dest := r }]) : ends c r.put := hc.trans (congrArg _ (State.issue_lands_plain hr hb hi))
    have hputP {c : Instr} {i : State → Engine → Issue} {w u : BitVec 16} (hc : exec c s = .next (s.issue e i)) (hw : w = u)
        (hi : i s x = .done s (resP p w)) : ends c fun b => b.putP p u := hends (r := .p p u) hc rfl (hw ▸ hi)
    have hputF {c : Instr} {i : State → Engine → Issue} {w u : BitVec 32} (hc : exec c s = .next (s.issue e i)) (hw : w = u)
        (hi : i s x = .done s [{ lat := 1, dest := .f f w }]) : ends c fun b => b.putF f u := hends (r := .f f u) hc rfl (hw ▸ hi)
    have hexp : fExpo k.f[g] = if (k.f[g]).extractLsb' 23 8 = 0 then BitVec.ofInt 16 (-127)
        else BitVec.ofInt 16 (((k.f[g]).extractLsb' 23 8).toNat - 127) :=
      if_congr (BitVec.toNat_inj (y := 0)) rfl rfl
    refine ⟨hputP rfl rfl rfl, hputP rfl rfl rfl, hputP rfl (add_signExtend ..) rfl, hputP rfl rfl rfl, hputF rfl rfl rfl,
      hputF rfl (xor_signBit _) rfl, hputF rfl (and_magnitude _) rfl, hputF rfl (setWidth_shiftLeft_ten fi) rfl, ?_⟩
    rw [← hexp]
    exact hends (r := .h h (fExpo k.f[g])) rfl rfl rfl
  case status =>
    intro x k n y ends
    have hbank {c : Instr} {i : State → Engine → Issue} {r : EngDest} (hc : exec c s = .next (s.issue e i)) (hb : r.inBank = true)
        (hi : i s x = .done s [{ lat := 1, dest := r }]) : ends c (x.after r.put []) :=
      hc.trans (congrArg _ (State.issue_lands_plain hr hb hi))
    have hshared {c : Instr} {i : State → Engine → Issue} {r : EngDest} {z : Engine} (hc : exec c s = .next (s.issue e i))
        (hi : i s x = .done s [{ lat := 1, dest := r }]) (hz : (x.advance.write x.handler.isSome r).tickStep = z) : ends c z :=
      hc.trans (congrArg _ ((State.issue_shared hr hi).trans (congrArg _ hz)))
    have hfault {c : Instr} {i : State → Engine → Issue} (hc : exec c s = .next (s.issue e i)) (hi : i s x = .fault .opcode) :
        exec c s = .next (s.engineFault e .opcode x.pc) := hc.trans (congrArg _ (State.issue_fault hr hi))
    have hy : y = x.advance.tickStep := x.after_id
    have hmfsw : k.sw ||| (if x.handler.isSome then 0x8000 else 0) = if x.handler.isSome then k.sw ||| 0x8000 else k.sw := by
      cases x.handler <;> simp
    refine ⟨congrArg _ (State.issue_nothing hr rfl), ?_, hbank (r := .sw k.h[d]) rfl rfl rfl, hbank (r := .sat v) rfl rfl rfl,
      fun h => ⟨?_, ?_⟩, fun h => ⟨?_, ?_⟩, fun h => ⟨?_, ?_⟩, fun h => ⟨?_, ?_⟩, fun h => ⟨?_, ?_⟩⟩
    · rw [← hmfsw]
      exact hbank (r := .h d _) rfl rfl rfl
    · exact hbank (r := .p p _) rfl rfl (dif_pos h)
    · exact hshared (r := .cb ⟨n, h⟩ k.p[p]) rfl (dif_pos h) (by rw [hy]; rfl)
    · exact hbank (r := .p p _) rfl rfl ((dif_neg (by omega)).trans (dif_pos h.2))
    · exact hshared (r := .cl ⟨n - 8, by omega⟩ k.p[p]) rfl ((dif_neg (by omega)).trans (dif_pos h.2)) (by rw [hy]; rfl)
    · exact hbank (r := .p p _) rfl rfl ((dif_neg (by omega)).trans ((dif_neg (by omega)).trans (if_pos h)))
    · exact hshared (r := .smpg _) rfl ((dif_neg (by omega)).trans ((dif_neg (by omega)).trans (if_pos h))) (by rw [hy]; rfl)
    · exact hbank (r := .p p _) rfl rfl
        ((dif_neg (by omega)).trans ((dif_neg (by omega)).trans ((if_neg (by omega)).trans (if_pos h))))
    · cases ha : s.axisLike e with
      | false => exact hshared (r := .axsel _) rfl (by simp [n, h, ha]; rfl) (by rw [hy]; rfl)
      | true => exact congrArg _ (State.issue_nothing hr (by simp [n, h, ha]))
    · exact hfault rfl ((dif_neg (by omega)).trans ((dif_neg (by omega)).trans ((if_neg (by omega)).trans (if_neg (by omega)))))
    · exact hfault rfl ((dif_neg (by omega)).trans ((dif_neg (by omega)).trans ((if_neg (by omega)).trans (if_neg (by omega)))))
end

section
set_option Elab.async false
/-! PROOF. Accumulator instructions, MPY and EXTH (02_engines.md R65; 03_engine_instructions.md R105, R106). -/

namespace Sys2Proof.Machine

/-! ## Exact results -/

theorem satA_eq_narrow (sat : Bool) (v : Int) : satA sat v = narrow sat 40 v := by
  unfold satA narrow
  cases sat with
  | false => rfl
  | true =>
    simp only [Bool.true_and, decide_eq_true_eq, if_true]
    by_cases h : v < -(2 ^ 39)
    · rw [if_pos h, max_eq_left (by omega)]
    · by_cases h' : v > 2 ^ 39 - 1
      · rw [if_neg h, if_pos h', min_eq_left (by omega)]; rfl
      · rw [if_neg h, if_neg h', min_eq_right (by omega), max_eq_right (by omega)]

theorem ovfA_eq_outside (v : Int) : ovfA v = outside 40 v := by
  unfold ovfA outside
  congr 1

/-- An accumulator result with AV where it leaves 40 bits. -/
def accExact (sat : Bool) (v : Int) : BitVec 40 × Sticky := (narrow sat 40 v, if outside 40 v then Sticky.av else Sticky.none)

theorem aRes_eq_accExact (sat : Bool) (v : Int) : aRes sat v = accExact sat v := by
  rw [aRes, satA_eq_narrow, ovfA_eq_outside, accExact]

/-- A value within the range of 40 bits stays as it is. -/
theorem accExact_inside {sat : Bool} {v : Int} (h : outside 40 v = false) : accExact sat v = (BitVec.ofInt 40 v, Sticky.none) := by
  rw [accExact, narrow_of_inside h, h]
  rfl

theorem outside_eq_false {w : Nat} {v : Int} : outside w v = false ↔ -(2 ^ (w - 1)) ≤ v ∧ v < 2 ^ (w - 1) := by
  simp only [outside, Bool.or_eq_false_iff, decide_eq_false_iff_not, not_lt, not_le]

theorem outside_toInt {w : Nat} (a : BitVec w) : outside w a.toInt = false :=
  outside_eq_false.mpr ⟨BitVec.le_toInt a, BitVec.toInt_lt⟩

theorem accExact_toInt (sat : Bool) (a : BitVec 40) : accExact sat a.toInt = (a, Sticky.none) := by
  rw [accExact_inside (outside_toInt a), BitVec.ofInt_toInt]

theorem accExact_zero (sat : Bool) : accExact sat 0 = (0, Sticky.none) := by simpa using accExact_toInt sat 0

/-- LDAH loses nothing. -/
theorem accExact_ldah (sat : Bool) (u : BitVec 16) :
    accExact sat (u.toInt * 2 ^ 15) = (BitVec.ofInt 40 (u.toInt * 2 ^ 15), Sticky.none) := by
  have hlo := BitVec.le_toInt u
  have hhi := BitVec.toInt_lt (x := u)
  exact accExact_inside (outside_eq_false.mpr (by norm_num at *; omega))

/-- A right shift stays within 40 bits. -/
theorem aSha_eq_accExact (sat : Bool) (a : BitVec 40) (sh : BitVec 6) :
    aSha sat a sh = accExact sat (if 0 ≤ sh.toInt then a.toInt * 2 ^ sh.toInt.toNat else a.toInt / 2 ^ (-sh.toInt).toNat) := by
  unfold aSha
  split
  · exact aRes_eq_accExact _ _
  · have hlo := BitVec.le_toInt a
    have hhi := BitVec.toInt_lt (x := a)
    rw [sshiftRight_eq_ofInt, accExact_inside]
    refine outside_eq_false.mpr ⟨(Int.le_ediv_iff_mul_le (by positivity)).mpr ?_, (Int.ediv_lt_iff_lt_mul (by positivity)).mpr ?_⟩
    · nlinarith [one_le_pow₀ (show (1 : Int) ≤ 2 by decide) (n := (-sh.toInt).toNat)]
    · nlinarith [one_le_pow₀ (show (1 : Int) ≤ 2 by decide) (n := (-sh.toInt).toNat)]

/-! ## Half-word results -/

/-- A half-word result with QV where it leaves 16 bits. -/
def halfExact (sat : Bool) (v : Int) : BitVec 16 × Sticky := (narrow sat 16 v, if outside 16 v then Sticky.qv else Sticky.none)

theorem qMpy_eq_halfExact (sat : Bool) (a b : BitVec 16) : qMpy sat a b = halfExact sat ((a.toInt * b.toInt + 2 ^ 14) / 2 ^ 15) := by
  rw [qMpy, satQ_eq_narrow, ovfQ_eq_outside]
  rfl

/-- Rounding a quotient by 2^k is rounding the value scaled to 31 fraction bits. -/
theorem round_shift (a : Int) {k : Nat} (hk : k ≤ 31) :
    (if k = 0 then a else (a + 2 ^ (k - 1)) / 2 ^ k) = (a * 2 ^ (31 - k) + 2 ^ 30) / 2 ^ 31 := by
  cases k with
  | zero => norm_num; omega
  | succ k =>
    have h30 : (2 : Int) ^ 30 = 2 ^ k * 2 ^ (31 - (k + 1)) := by rw [← pow_add]; congr 1; omega
    have h31 : (2 : Int) ^ 31 = 2 ^ (k + 1) * 2 ^ (31 - (k + 1)) := by rw [← pow_add]; congr 1; omega
    rw [if_neg (by omega), h30, h31, ← add_mul, Int.mul_ediv_mul_of_pos_left _ _ (by positivity)]
    rfl

theorem aExth_eq_halfExact (sat : Bool) (a : BitVec 40) (ex : BitVec 5) :
    aExth sat a ex = halfExact sat ((a.toInt * 2 ^ (ex.toInt + 16).toNat + 2 ^ 30) / 2 ^ 31) := by
  have hlo := BitVec.le_toInt ex
  have hhi := BitVec.toInt_lt (x := ex)
  have hk : (ex.toInt + 16).toNat = 31 - (15 - ex.toInt).toNat := by norm_num at *; omega
  rw [hk, ← round_shift _ (by norm_num at *; omega), aExth, satQ_eq_narrow, ovfQ_eq_outside]
  rfl

variable {s : State} {e : EngId} {f : State → Engine → Issue}

/-- A plain instruction whose one result flies. -/
theorem State.issue_flies {lat : Nat} {d : EngDest} {t : Sticky} (h : s.Ready e) (hb : d.inBank = true) (hl : 1 < lat)
    (hf : f s (s.eng e) = .done s [{ lat := lat, dest := d, sticky := t }]) :
    s.issue e f = s.setEng e ((s.eng e).after (fun b => b) [(s.eng e).inFlight lat d t]) :=
  State.issue_long (r := { lat := lat, dest := d, sticky := t }) h hf hb hl

end Sys2Proof.Machine

open Sys2Proof Sys2Proof.Machine

/-- Settles O5: the exact result of each instruction, narrowed, flies for two steps. -/
theorem accumulatorInstructions : Obligations.AccumulatorInstructions := by
  intro s e d a b h u w sh ex hr x k prod ends acc half
  have hacc {c : Instr} {i : State → Engine → Issue} {v : Int} {r : BitVec 40 × Sticky} (hc : exec c s = .next (s.issue e i))
      (hi : i s x = .done s (resA d r)) (hv : r = accExact k.satOn v) : acc c v := by
    subst hv
    exact hc.trans (congrArg _ (State.issue_flies hr rfl (by decide) hi))
  have hhalf {c : Instr} {i : State → Engine → Issue} {v : Int} {r : BitVec 16 × Sticky} (hc : exec c s = .next (s.issue e i))
      (hi : i s x = .done s [{ lat := 2, dest := .h h r.1, sticky := r.2 }]) (hv : r = halfExact k.satOn v) : half c v := by
    subst hv
    exact hc.trans (congrArg _ (State.issue_flies hr rfl (by decide) hi))
  refine ⟨hacc rfl rfl (aRes_eq_accExact ..), hacc rfl rfl (aRes_eq_accExact ..), hacc rfl rfl (aRes_eq_accExact ..),
    hacc rfl rfl (aRes_eq_accExact ..), hacc rfl rfl (aRes_eq_accExact ..), hacc rfl rfl (accExact_toInt ..).symm,
    hacc rfl rfl (accExact_ldah ..).symm, hacc rfl rfl (accExact_zero _).symm, hacc rfl rfl (aRes_eq_accExact ..),
    hacc rfl rfl ?_, hacc rfl rfl (aSha_eq_accExact ..), hhalf rfl rfl (qMpy_eq_halfExact ..), hhalf rfl rfl (aExth_eq_halfExact ..)⟩
  rw [aRes_eq_accExact, ← Int.abs_eq_natAbs]
  rfl
end

section
set_option Elab.async false
/-! PROOF. The F lane (02_engines.md R65, R66; 03_engine_instructions.md R109): what a word stands for, exact sums and products, and the
rounding to nearest, ties to even. -/

namespace Sys2Proof.Machine

/-! ## Values -/

/-- The value of a finite number (R66). -/
def Dyadic'.val (d : Dyadic') : ℚ := (if d.neg then -1 else 1) * (d.m : ℚ) * 2 ^ d.e

/-- A zero or a finite number, and its value. -/
def FVal.IsVal (x : FVal) (v : ℚ) : Prop :=
  match x with
  | .zero _ => v = 0
  | .fin d => d.val = v
  | .inf _ => False
  | .nan => False

theorem FVal.isVal_of {w : BitVec 32} (h : w.extractLsb' 23 8 ≠ 255) : (FVal.of w).IsVal (fRank w) := by
  have h255 : fExp w ≠ 255 := fun hc => h (BitVec.eq_of_toNat_eq hc)
  have h0 : fExp w = 0 ↔ w.extractLsb' 23 8 = 0 := BitVec.toNat_inj (y := 0)
  unfold FVal.of
  rw [if_neg h255]
  by_cases hz : fExp w = 0
  · rw [if_pos hz, FVal.IsVal, fRank, if_pos (h0.mp hz)]
  · rw [if_neg hz, FVal.IsVal, fRank, if_neg (fun hc => hz (h0.mpr hc)), Dyadic'.val]
    simp only [fSign, fFrac, fExp]
    push_cast
    rfl

theorem FVal.IsVal.neg {x : FVal} {v : ℚ} (h : x.IsVal v) : x.neg.IsVal (-v) := by
  cases x with
  | zero n => simp_all [FVal.IsVal, FVal.neg]
  | fin d =>
    simp only [FVal.IsVal, FVal.neg, Dyadic'.val] at *
    rw [← h]
    cases d.neg <;> simp
  | inf n => exact h
  | nan => exact h

theorem Dyadic'.toInt_val {d : Dyadic'} {e : Int} (h : e ≤ d.e) : (d.toInt e : ℚ) * 2 ^ e = d.val := by
  have hp : ((2 : ℚ) ^ (d.e - e).toNat) * 2 ^ e = 2 ^ d.e := by
    rw [← zpow_natCast, ← zpow_add₀ (by norm_num)]
    congr 1
    omega
  unfold Dyadic'.toInt Dyadic'.val
  cases d.neg <;> push_cast <;> simp [← hp] <;> ring

theorem Dyadic'.val_add (x y : Dyadic') : (x.add y).val = x.val + y.val := by
  have hsum {e : Int} (hx : e ≤ x.e) (hy : e ≤ y.e) {d : Dyadic'}
      (hd : d = (let v := x.toInt e + y.toInt e; if v = 0 then ⟨x.neg && y.neg, 0, e⟩ else ⟨decide (v < 0), v.natAbs, e⟩)) :
      d.val = x.val + y.val := by
    rw [← Dyadic'.toInt_val hx, ← Dyadic'.toInt_val hy, ← add_mul, ← Int.cast_add, hd]
    dsimp only
    generalize x.toInt e + y.toInt e = v
    by_cases hv : v = 0
    · simp [hv, Dyadic'.val]
    · rw [if_neg hv, Dyadic'.val]
      congr 1
      by_cases hn : v < 0
      · rw [decide_eq_true hn, if_pos rfl, ← Int.cast_natCast, Int.natCast_natAbs, abs_of_neg hn]; push_cast; ring
      · rw [decide_eq_false hn, if_neg (by simp), ← Int.cast_natCast, Int.natCast_natAbs, abs_of_nonneg (by omega)]; ring
  by_cases h : x.e ≤ y.e
  · exact hsum le_rfl h (by simp [Dyadic'.add, h])
  · exact hsum (by omega) le_rfl (by simp [Dyadic'.add, h])

theorem Dyadic'.val_mul (x y : Dyadic') : (x.mul y).val = x.val * y.val := by
  unfold Dyadic'.mul Dyadic'.val
  rw [zpow_add₀ (by norm_num)]
  cases x.neg <;> cases y.neg <;> simp <;> ring

theorem FVal.IsVal.add {x y : FVal} {v u : ℚ} (hx : x.IsVal v) (hy : y.IsVal u) : ∃ z, x.add y = some z ∧ z.IsVal (v + u) := by
  cases x with
  | zero a =>
    cases y with
    | zero b => exact ⟨_, rfl, by simp_all [FVal.IsVal]⟩
    | fin d => exact ⟨_, rfl, by simp_all [FVal.IsVal]⟩
    | inf b => exact hy.elim
    | nan => exact hy.elim
  | fin c =>
    cases y with
    | zero b => exact ⟨_, rfl, by simp_all [FVal.IsVal]⟩
    | fin d =>
      refine ⟨_, rfl, ?_⟩
      have hval : (c.add d).val = v + u := by rw [Dyadic'.val_add]; exact congrArg₂ (· + ·) hx hy
      by_cases h0 : (c.add d).m = 0
      · rw [if_pos h0, FVal.IsVal, ← hval]
        simp [Dyadic'.val, h0]
      · rw [if_neg h0]
        exact hval
    | inf b => exact hy.elim
    | nan => exact hy.elim
  | inf a => exact hx.elim
  | nan => exact hx.elim

theorem FVal.IsVal.mul {x y : FVal} {v u : ℚ} (hx : x.IsVal v) (hy : y.IsVal u) : ∃ z, x.mul y = some z ∧ z.IsVal (v * u) := by
  cases x with
  | zero a =>
    cases y with
    | zero b => exact ⟨_, rfl, by simp_all [FVal.IsVal]⟩
    | fin d => exact ⟨_, rfl, by simp_all [FVal.IsVal]⟩
    | inf b => exact hy.elim
    | nan => exact hy.elim
  | fin c =>
    cases y with
    | zero b => exact ⟨_, rfl, by simp_all [FVal.IsVal]⟩
    | fin d => exact ⟨_, rfl, (Dyadic'.val_mul c d).trans (congrArg₂ (· * ·) hx hy)⟩
    | inf b => exact hy.elim
    | nan => exact hy.elim
  | inf a => exact hx.elim
  | nan => exact hx.elim

/-! ## Rounding -/

/-- The integer is a nearest one to `t`, and the even one where two are. -/
def IsRne (q : Nat) (t : ℚ) : Prop := |(q : ℚ) - t| ≤ 1 / 2 ∧ (|(q : ℚ) - t| = 1 / 2 → q % 2 = 0)

theorem isRne_self (q : Nat) : IsRne q q := by simp [IsRne]

theorem isRne_rneShift (m k : Nat) : IsRne (rneShift m k) ((m : ℚ) / 2 ^ k) := by
  have hp : (0 : ℚ) < 2 ^ k := by positivity
  have hdiv : (m : ℚ) / 2 ^ k = (m / 2 ^ k : Nat) + ((m % 2 ^ k : Nat) : ℚ) / 2 ^ k := by
    rw [div_eq_iff hp.ne', add_mul, div_mul_cancel₀ _ hp.ne']
    exact_mod_cast (Nat.div_add_mod' m (2 ^ k)).symm
  by_cases hk : k = 0
  · rw [rneShift, if_pos hk, hk, pow_zero, div_one]
    exact isRne_self m
  rw [rneShift, if_neg hk, hdiv]
  generalize hq : m / 2 ^ k = q
  generalize hr : m % 2 ^ k = r
  have hr2 : ((r : ℚ) / 2 ^ k) * 2 ^ k = r := div_mul_cancel₀ _ hp.ne'
  have hr0 : 0 ≤ (r : ℚ) / 2 ^ k := by positivity
  have hr1 : (r : ℚ) / 2 ^ k < 1 := by
    rw [div_lt_one hp]
    exact_mod_cast hr ▸ Nat.mod_lt m (Nat.two_pow_pos k)
  by_cases hgt : r * 2 > 2 ^ k
  · have hx : 1 / 2 < (r : ℚ) / 2 ^ k := by
      rw [div_lt_div_iff₀ two_pos hp, one_mul]
      exact_mod_cast hgt
    have habs : |((q + 1 : Nat) : ℚ) - (q + (r : ℚ) / 2 ^ k)| < 1 / 2 := by
      push_cast; rw [abs_lt]; constructor <;> linarith
    rw [if_pos hgt]
    exact ⟨habs.le, fun h => absurd h habs.ne⟩
  rw [if_neg hgt]
  by_cases heq : r * 2 = 2 ^ k
  · have hx : (r : ℚ) / 2 ^ k = 1 / 2 := by
      rw [div_eq_div_iff hp.ne' two_ne_zero, one_mul]
      exact_mod_cast heq
    rw [if_pos heq, hx]
    refine ⟨?_, fun _ => by omega⟩
    rcases Nat.mod_two_eq_zero_or_one q with h | h <;> rw [h] <;> push_cast <;> rw [abs_le] <;> constructor <;> linarith
  · have hx : (r : ℚ) / 2 ^ k < 1 / 2 := by
      rw [div_lt_div_iff₀ hp two_pos, one_mul]
      exact_mod_cast (by omega : r * 2 < 2 ^ k)
    have habs : |(q : ℚ) - (q + (r : ℚ) / 2 ^ k)| < 1 / 2 := by rw [abs_lt]; constructor <;> linarith
    rw [if_neg heq]
    exact ⟨habs.le, fun h => absurd h habs.ne⟩

/-- No integer is closer than the rounding, and one as close leaves it even. -/
theorem IsRne.le_int {q : Nat} {t : ℚ} (h : IsRne q t) (K : Int) :
    |(q : ℚ) - t| ≤ |(K : ℚ) - t| ∧ (|(q : ℚ) - t| = |(K : ℚ) - t| → (q : ℚ) ≠ K → q % 2 = 0) := by
  by_cases hK : (q : Int) = K
  · subst hK
    exact ⟨by simp, fun _ hne => absurd (by simp) hne⟩
  · have hgap : (1 : ℚ) ≤ |(K : ℚ) - q| := by
      have hne : K - (q : Int) ≠ 0 := by omega
      exact_mod_cast Int.one_le_abs hne
    have htri : |(K : ℚ) - q| ≤ |(K : ℚ) - t| + |(q : ℚ) - t| := by
      rw [abs_sub_comm (q : ℚ) t]
      exact abs_sub_le _ _ _
    have hhalf := h.1
    exact ⟨by linarith, fun heq _ => h.2 (by linarith)⟩

/-- No number of 24 significant bits is closer to a value of `t` units of 2^e, `t` from 2^23, than its rounding. -/
theorem IsRne.nearest {q : Nat} {t y : ℚ} {e : Int} (h : IsRne q t) (ht : 2 ^ 23 ≤ t) {k f : Int} (hk : |k| < 2 ^ 24)
    (hy : y = k * 2 ^ f) : |(q : ℚ) * 2 ^ e - t * 2 ^ e| ≤ |y - t * 2 ^ e| ∧
      (|(q : ℚ) * 2 ^ e - t * 2 ^ e| = |y - t * 2 ^ e| → (q : ℚ) * 2 ^ e ≠ y → q % 2 = 0) := by
  have hu : (0 : ℚ) < 2 ^ e := by positivity
  have hscale : ∀ a : ℚ, |a * 2 ^ e - t * 2 ^ e| = |a - t| * 2 ^ e := fun a => by rw [← sub_mul, abs_mul, abs_of_pos hu]
  by_cases hfe : e ≤ f
  · have hK : y = ((k * 2 ^ (f - e).toNat : Int) : ℚ) * 2 ^ e := by
      rw [hy]
      push_cast
      rw [mul_assoc, ← zpow_natCast, ← zpow_add₀ (by norm_num)]
      congr 2
      omega
    obtain ⟨hle, heven⟩ := h.le_int (k * 2 ^ (f - e).toNat)
    rw [hK, hscale, hscale]
    exact ⟨mul_le_mul_of_nonneg_right hle hu.le, fun heq hne =>
      heven (mul_right_cancel₀ hu.ne' heq) fun hc => hne (by rw [hc])⟩
  · have hlt : |y| < 2 ^ 23 * 2 ^ e := by
      have hk' : (|k| : ℚ) < 2 ^ 24 := by exact_mod_cast hk
      have hf : (2 : ℚ) ^ f * 2 ≤ 2 ^ e := by
        rw [← zpow_add_one₀ (by norm_num)]
        exact zpow_le_zpow_right₀ (by norm_num) (by omega)
      have hf0 : (0 : ℚ) < 2 ^ f := by positivity
      rw [hy, abs_mul, abs_of_pos hf0]
      calc (|k| : ℚ) * 2 ^ f < 2 ^ 24 * 2 ^ f := mul_lt_mul_of_pos_right hk' hf0
        _ = 2 ^ 23 * (2 ^ f * 2) := by ring
        _ ≤ 2 ^ 23 * 2 ^ e := by gcongr
    have hq : |(q : ℚ) - t| ≤ t - 2 ^ 23 := by
      refine (h.le_int (2 ^ 23)).1.trans_eq ?_
      rw [abs_sub_comm, abs_of_nonneg] <;> push_cast <;> linarith
    have hstrict : |(q : ℚ) - t| * 2 ^ e < |y - t * 2 ^ e| := by
      have h1 := mul_le_mul_of_nonneg_right hq hu.le
      have h2 : t * 2 ^ e - y ≤ |y - t * 2 ^ e| := by rw [abs_sub_comm]; exact le_abs_self _
      have h3 := le_abs_self y
      rw [sub_mul] at h1
      linarith
    rw [hscale]
    exact ⟨hstrict.le, fun heq _ => absurd heq hstrict.ne⟩

/-- A word that is no infinity and no NaN has 24 significant bits. -/
theorem exists_fRank_eq (w : BitVec 32) : ∃ k f : Int, |k| < 2 ^ 24 ∧ fRank w = k * 2 ^ f := by
  unfold fRank
  split
  · exact ⟨0, 0, by norm_num, by simp⟩
  · have hlt := (w.extractLsb' 0 23).isLt
    refine ⟨(if w.getLsbD 31 then -1 else 1) * (2 ^ 23 + (w.extractLsb' 0 23).toNat), _, ?_, by split <;> push_cast <;> rfl⟩
    split
    · rw [neg_one_mul, abs_neg, abs_of_nonneg (by positivity)]; omega
    · rw [one_mul, abs_of_nonneg (by positivity)]; omega

/-! ## Packing -/

theorem fPack_toNat {n : Bool} {ex fr : Nat} (he : ex < 256) (hf : fr < 2 ^ 23) :
    (fPack n ex fr).toNat = (if n then 2 ^ 31 else 0) + ex * 2 ^ 23 + fr := by
  rw [fPack, BitVec.toNat_ofNat, Nat.mod_eq_of_lt]
  split <;> omega

theorem fRank_fPack {n : Bool} {ex fr : Nat} (he0 : 0 < ex) (he : ex < 256) (hf : fr < 2 ^ 23) :
    fRank (fPack n ex fr) = (if n then -1 else 1) * ((2 ^ 23 + fr : Nat) : ℚ) * 2 ^ ((ex : Int) - 150) := by
  have hn := fPack_toNat (n := n) he hf
  have hexp : ((fPack n ex fr).extractLsb' 23 8).toNat = ex := by
    rw [BitVec.extractLsb'_toNat, hn, Nat.shiftRight_eq_div_pow]
    split <;> omega
  have hfrac : ((fPack n ex fr).extractLsb' 0 23).toNat = fr := by
    rw [BitVec.extractLsb'_toNat, hn, Nat.shiftRight_eq_div_pow]
    split <;> omega
  have hsign : (fPack n ex fr).getLsbD 31 = n := by
    rw [BitVec.getLsbD, hn, Nat.testBit_eq_decide_div_mod_eq]
    cases n <;> simp <;> omega
  have hne : ¬ (fPack n ex fr).extractLsb' 23 8 = 0 := fun hc => by
    have := congrArg BitVec.toNat hc
    rw [hexp] at this
    simp at this
    omega
  rw [fRank, if_neg hne, hexp, hfrac, hsign]
  push_cast
  rfl

theorem fRank_fZero (n : Bool) : fRank (fZero n) = 0 := by cases n <;> rfl

theorem getLsbD_fPack_zero {n : Bool} {ex fr : Nat} (he : ex < 256) (hf : fr < 2 ^ 23) :
    (fPack n ex fr).getLsbD 0 = decide (fr % 2 = 1) := by
  rw [BitVec.getLsbD, fPack_toNat he hf, Nat.testBit_zero]
  exact decide_eq_decide.mpr (by split <;> omega)

/-! ## A rounded dyadic -/

/-- The rounded significand of 24 bits, before a carry out of them. -/
def sig24 (m : Nat) : Nat := if m.log2 + 1 ≤ 24 then m * 2 ^ (24 - (m.log2 + 1)) else rneShift m (m.log2 + 1 - 24)

/-- The exact significand. -/
def exact24 (m : Nat) : ℚ := (m : ℚ) * 2 ^ (24 - ((m.log2 + 1 : Nat) : Int))

theorem isRne_sig24 (m : Nat) : IsRne (sig24 m) (exact24 m) := by
  unfold sig24 exact24
  generalize m.log2 + 1 = len
  by_cases h : len ≤ 24
  · have hs : (24 : Int) - (len : Nat) = ((24 - len : Nat) : Int) := by omega
    rw [if_pos h, hs, zpow_natCast]
    exact_mod_cast isRne_self (m * 2 ^ (24 - len))
  · have hs : (24 : Int) - (len : Nat) = -((len - 24 : Nat) : Int) := by omega
    rw [if_neg h, hs, zpow_neg, zpow_natCast]
    exact isRne_rneShift m (len - 24)

theorem exact24_bounds {m : Nat} (hm : m ≠ 0) : 2 ^ 23 ≤ exact24 m ∧ exact24 m < 2 ^ 24 := by
  have hpow : ∀ k : Nat, (2 : ℚ) ^ (24 - ((m.log2 + 1 : Nat) : Int)) * 2 ^ k = 2 ^ ((23 : Int) - m.log2 + k) := fun k => by
    rw [← zpow_natCast, ← zpow_add₀ (by norm_num)]
    congr 1
    push_cast
    omega
  have hu : (0 : ℚ) < 2 ^ (24 - ((m.log2 + 1 : Nat) : Int)) := by positivity
  have hlo : ((2 ^ m.log2 : Nat) : ℚ) ≤ m := by exact_mod_cast Nat.log2_self_le hm
  have hhi : (m : ℚ) < ((2 ^ (m.log2 + 1) : Nat) : ℚ) := by exact_mod_cast Nat.lt_log2_self
  push_cast at hlo hhi
  have h1 := mul_le_mul_of_nonneg_left hlo hu.le
  have h2 := mul_lt_mul_of_pos_left hhi hu
  rw [hpow] at h1 h2
  rw [show (23 : Int) - m.log2 + m.log2 = (23 : Nat) by omega, zpow_natCast] at h1
  rw [show (23 : Int) - m.log2 + (m.log2 + 1 : Nat) = (24 : Nat) by omega, zpow_natCast] at h2
  rw [exact24, mul_comm]
  exact ⟨h1, h2⟩

theorem sig24_bounds {m : Nat} (hm : m ≠ 0) : 2 ^ 23 ≤ sig24 m ∧ sig24 m ≤ 2 ^ 24 := by
  obtain ⟨hlo, hhi⟩ := exact24_bounds hm
  obtain ⟨h1, h2⟩ := abs_le.mp (isRne_sig24 m).1
  constructor
  · have : ((2 ^ 23 : Nat) : ℚ) < ((sig24 m + 1 : Nat) : ℚ) := by push_cast; linarith
    exact Nat.lt_add_one_iff.mp (by exact_mod_cast this)
  · have : (sig24 m : ℚ) < ((2 ^ 24 + 1 : Nat) : ℚ) := by push_cast; linarith
    exact Nat.lt_add_one_iff.mp (by exact_mod_cast this)

/-- The weight of the last bit of the rounded significand. -/
def Dyadic'.ulp (d : Dyadic') : Int := d.e + ((d.m.log2 + 1 : Nat) : Int) - 24

theorem Dyadic'.val_eq_exact24 (d : Dyadic') : d.val = (if d.neg then -1 else 1) * (exact24 d.m * 2 ^ d.ulp) := by
  have h : (2 : ℚ) ^ (24 - ((d.m.log2 + 1 : Nat) : Int)) * 2 ^ d.ulp = 2 ^ d.e := by
    rw [← zpow_add₀ (by norm_num)]
    congr 1
    unfold Dyadic'.ulp
    omega
  rw [Dyadic'.val, exact24, mul_assoc (d.m : ℚ), h, mul_assoc]

/-- A significand of 24 bits with its weight, packed: overflow and flush (R65, R66). -/
def packSig (sat neg : Bool) (q : Nat) (e : Int) : BitVec 32 × Sticky :=
  if e + 150 ≥ 255 then (fOverflow sat neg, Sticky.fv)
  else if e + 150 ≤ 0 then (fZero neg, Sticky.fu)
  else (fPack neg (e + 150).toNat (q - 2 ^ 23), Sticky.none)

/-- Rounding to 24 bits: the carry out of the significand, then packing. -/
theorem fRound_eq {sat : Bool} {d : Dyadic'} (hm : d.m ≠ 0) :
    fRound sat 24 d = if sig24 d.m = 2 ^ 24 then packSig sat d.neg (2 ^ 23) (d.ulp + 1) else packSig sat d.neg (sig24 d.m) d.ulp := by
  have hraw : fRound sat 24 d =
      (let p := if sig24 d.m = 2 ^ 24 then (2 ^ 23, d.ulp + 1) else (sig24 d.m, d.ulp)
       let ex := p.2 + (((24 : Nat) : Int) - 1) + 127
       if ex ≥ 255 then (fOverflow sat d.neg, Sticky.fv)
       else if ex ≤ 0 then (fZero d.neg, Sticky.fu)
       else (fPack d.neg ex.toNat ((p.1 - 2 ^ 23) * 2 ^ 0), Sticky.none)) := by
    rw [fRound, if_neg hm]
    rfl
  have hex : ∀ e : Int, e + (((24 : Nat) : Int) - 1) + 127 = e + 150 := fun e => by omega
  rw [hraw]
  split <;> simp only [hex, pow_zero, mul_one] <;> rfl

/-- The carried significand: its bounds, its value, and that it is even where the rounding is. -/
theorem exists_packSig {sat : Bool} {d : Dyadic'} (hm : d.m ≠ 0) : ∃ q : Nat, ∃ e : Int, 2 ^ 23 ≤ q ∧ q < 2 ^ 24 ∧
    (q : ℚ) * 2 ^ e = sig24 d.m * 2 ^ d.ulp ∧ (sig24 d.m % 2 = 0 → q % 2 = 0) ∧ fRound sat 24 d = packSig sat d.neg q e := by
  obtain ⟨hlo, hhi⟩ := sig24_bounds hm
  by_cases hc : sig24 d.m = 2 ^ 24
  · refine ⟨2 ^ 23, d.ulp + 1, by norm_num, by norm_num, ?_, fun _ => by norm_num, by rw [fRound_eq hm, if_pos hc]⟩
    rw [hc, zpow_add_one₀ (by norm_num)]
    push_cast
    ring
  · exact ⟨sig24 d.m, d.ulp, hlo, by omega, rfl, id, by rw [fRound_eq hm, if_neg hc]⟩

/-- What a word is beside an exact value: as close as any word, and even where another is as close (R66). -/
def Nearest (r : BitVec 32) (v : ℚ) (w : BitVec 32) : Prop :=
  |fRank r - v| ≤ |fRank w - v| ∧ (|fRank r - v| = |fRank w - v| → fRank r ≠ fRank w → r.getLsbD 0 = false)

theorem nearest_zero {r w : BitVec 32} (hr : fRank r = 0) : Nearest r 0 w := by
  rw [Nearest, hr, sub_zero, abs_zero]
  exact ⟨abs_nonneg _, fun h hne => absurd (by rw [sub_zero] at h; exact (abs_eq_zero.mp h.symm).symm) hne⟩

/-- A distance to a value of a sign is one to its magnitude. -/
theorem abs_sign_sub (n : Bool) (x y : ℚ) :
    |x - (if n then -1 else 1) * y| = |(if n then -1 else 1) * x - y| := by
  cases n
  · simp
  · simp only [if_true, neg_one_mul]
    rw [← abs_neg]
    congr 1
    ring

theorem nearest_fRound {sat : Bool} {d : Dyadic'} (hm : d.m ≠ 0) (w : BitVec 32) (h : (fRound sat 24 d).2 = Sticky.none) :
    Nearest (fRound sat 24 d).1 d.val w := by
  obtain ⟨q, e, hlo, hhi, hval, heven, heq⟩ := exists_packSig (sat := sat) hm
  rw [heq] at h ⊢
  unfold packSig at h ⊢
  by_cases h255 : e + 150 ≥ 255
  · rw [if_pos h255] at h; exact absurd h (by simp [Sticky.fv, Sticky.none])
  by_cases h0 : e + 150 ≤ 0
  · rw [if_neg h255, if_pos h0] at h; exact absurd h (by simp [Sticky.fu, Sticky.none])
  rw [if_neg h255, if_neg h0]
  have hrank : fRank (fPack d.neg (e + 150).toNat (q - 2 ^ 23)) = (if d.neg then -1 else 1) * (sig24 d.m * 2 ^ d.ulp) := by
    rw [fRank_fPack (by omega) (by omega) (by omega), ← hval, Nat.add_sub_cancel' hlo, mul_assoc]
    congr 3
    omega
  have hlsb : sig24 d.m % 2 = 0 → (fPack d.neg (e + 150).toNat (q - 2 ^ 23)).getLsbD 0 = false := fun hs => by
    have := heven hs
    rw [getLsbD_fPack_zero (by omega) (by omega), decide_eq_false (by omega)]
  obtain ⟨k, f, hk, hw⟩ := exists_fRank_eq w
  have hsq : ∀ x : ℚ, (if d.neg then -1 else 1 : ℚ) * ((if d.neg then -1 else 1) * x) = x := fun x => by cases d.neg <;> simp
  have hw' : (if d.neg then -1 else 1 : ℚ) * fRank w = ((if d.neg then -k else k : Int) : ℚ) * 2 ^ f := by
    rw [hw]; cases d.neg <;> simp
  obtain ⟨hle, htie⟩ := (isRne_sig24 d.m).nearest (e := d.ulp) (exact24_bounds hm).1
    (by cases d.neg <;> simpa using hk) hw'
  rw [Nearest, hrank, Dyadic'.val_eq_exact24, abs_sign_sub, abs_sign_sub, hsq]
  exact ⟨hle, fun hdist hne => hlsb (htie hdist fun hc => hne (by rw [hc, hsq]))⟩

/-- A value that is packed without a flag is rounded to nearest. -/
theorem FVal.IsVal.nearest_pack {sat : Bool} {x : FVal} {v : ℚ} (hx : x.IsVal v) (w : BitVec 32)
    (h : (FVal.pack sat (some x)).2 = Sticky.none) : Nearest (FVal.pack sat (some x)).1 v w := by
  cases x with
  | zero n => rw [show v = 0 from hx]; exact nearest_zero (fRank_fZero n)
  | fin d =>
    by_cases hm : d.m = 0
    · have hr : fRound sat 24 d = (fZero d.neg, Sticky.none) := by rw [fRound, if_pos hm]
      have hv : v = 0 := by rw [← show d.val = v from hx, Dyadic'.val, hm]; simp
      rw [hv, FVal.pack, hr]
      exact nearest_zero (fRank_fZero d.neg)
    · rw [← show d.val = v from hx]
      exact nearest_fRound hm w h
  | inf n => exact hx.elim
  | nan => exact hx.elim

end Sys2Proof.Machine

open Sys2Proof Sys2Proof.Machine

/-- Settles O7: the exact sum or product is a dyadic, and its rounding to 24 bits is the nearest, ties to even. -/
theorem floatRoundsToNearest : Obligations.FloatRoundsToNearest := by
  intro sat d a b w fin hd ha hb _ near
  have hnear {o : Option FVal} {v : ℚ} (h : ∃ z, o = some z ∧ z.IsVal v) : near (FVal.pack sat o) v := by
    obtain ⟨z, rfl, hz⟩ := h
    exact hz.nearest_pack w
  have hd := FVal.isVal_of hd
  have ha := FVal.isVal_of ha
  have hb := FVal.isVal_of hb
  refine ⟨hnear (ha.add hb), hnear ?_, hnear (ha.mul hb), hnear ?_⟩
  · rw [sub_eq_add_neg]
    exact ha.add hb.neg
  · obtain ⟨p, hp, hval⟩ := ha.mul hb
    rw [hp]
    exact hd.add hval
end

section
set_option Elab.async false
/-! PROOF. Instructions of the F lane: what they read and when it lands, and invalid and overflowing operations (02_engines.md R65;
03_engine_instructions.md R109 to R111, R113). -/

namespace Sys2Proof.Machine

/-! ## NaNs -/

theorem fIsNaN_eq (w : BitVec 32) : fIsNaN w = fNaN w := by
  have h1 : (fExp w == 255) = (w.extractLsb' 23 8 == 255) := by
    rw [Bool.eq_iff_iff, beq_iff_eq, beq_iff_eq, ← BitVec.toNat_inj]; rfl
  have h2 : (fFrac w != 0) = (w.extractLsb' 0 23 != 0) := by
    rw [Bool.eq_iff_iff, bne_iff_ne, bne_iff_ne, Ne, Ne, ← BitVec.toNat_inj]; rfl
  rw [fIsNaN, fNaN, h1, h2]

theorem FVal.of_nan {w : BitVec 32} (h : fNaN w = true) : FVal.of w = .nan := by
  rw [← fIsNaN_eq, fIsNaN, Bool.and_eq_true, beq_iff_eq, bne_iff_ne] at h
  rw [FVal.of, if_pos h.1, if_neg h.2]

theorem FVal.add_eq_none {x y : FVal} (h : x = .nan ∨ y = .nan) : x.add y = none := by
  rcases h with rfl | rfl
  · cases y <;> rfl
  · cases x <;> rfl

theorem FVal.mul_eq_none {x y : FVal} (h : x = .nan ∨ y = .nan) : x.mul y = none := by
  rcases h with rfl | rfl
  · cases y <;> rfl
  · cases x <;> rfl

/-! ## Overflow -/

/-- A sum with an infinity or a NaN raises no FV. -/
theorem FVal.IsVal.pack_add_special {sat : Bool} {x y : FVal} {v : ℚ} (hx : x.IsVal v) (hy : y = .nan ∨ ∃ n, y = .inf n) :
    (FVal.pack sat (x.add y)).2 ≠ Sticky.fv := by
  rcases hy with rfl | ⟨n, rfl⟩
  · rw [FVal.add_eq_none (.inr rfl)]
    exact (by decide : Sticky.fi ≠ Sticky.fv)
  · have hinf : x.add (.inf n) = some (.inf n) := by
      cases x with
      | zero a => rfl
      | fin d => rfl
      | inf a => exact hx.elim
      | nan => exact hx.elim
    rw [hinf]
    exact (by decide : Sticky.none ≠ Sticky.fv)

/-- Rounding raises FV by overflow alone (R65). -/
theorem fRound_overflow {sat : Bool} {d : Dyadic'} (h : (fRound sat 24 d).2 = Sticky.fv) : (fRound sat 24 d).1 = fOverflow sat d.neg := by
  by_cases hm : d.m = 0
  · rw [fRound, if_pos hm] at h
    exact absurd h (by decide : Sticky.none ≠ Sticky.fv)
  · obtain ⟨q, e, -, -, -, -, heq⟩ := exists_packSig (sat := sat) hm
    rw [heq] at h ⊢
    unfold packSig at h ⊢
    by_cases h255 : e + 150 ≥ 255
    · rw [if_pos h255]
    · rw [if_neg h255] at h
      split at h
      · exact absurd h (by decide : Sticky.fu ≠ Sticky.fv)
      · exact absurd h (by decide : Sticky.none ≠ Sticky.fv)

/-- A positive sum that raises FV is the largest finite value under SAT, else infinity (R65). -/
theorem fAdd_overflow {sat : Bool} {a b : BitVec 32} (ha : a.extractLsb' 23 8 ≠ 255) (hfv : (fAdd sat a b).2 = Sticky.fv)
    (hpos : 0 < fRank a + fRank b) : (fAdd sat a b).1 = fOverflow sat false := by
  have hx := FVal.isVal_of ha
  unfold fAdd at *
  by_cases hb : b.extractLsb' 23 8 = 255
  · have hb' : fExp b = 255 := congrArg BitVec.toNat hb
    refine absurd hfv (hx.pack_add_special ?_)
    rw [FVal.of, if_pos hb']
    split
    · exact .inr ⟨_, rfl⟩
    · exact .inl rfl
  · obtain ⟨z, hz, hval⟩ := hx.add (FVal.isVal_of hb)
    rw [hz] at hfv ⊢
    cases z with
    | zero n => exact absurd hfv (by decide : Sticky.none ≠ Sticky.fv)
    | fin d =>
      have hneg : d.neg = false := by
        rw [← show d.val = _ from hval, Dyadic'.val] at hpos
        refine Bool.eq_false_iff.mpr fun hn => ?_
        rw [hn, if_pos rfl] at hpos
        have : (0 : ℚ) ≤ d.m * 2 ^ d.e := by positivity
        linarith
      rw [← hneg]
      exact fRound_overflow hfv
    | inf n => exact hval.elim
    | nan => exact hval.elim

end Sys2Proof.Machine

open Sys2Proof Sys2Proof.Machine

/-- Settles O6: one result each that flies for four steps; a NaN operand is invalid before any rounding, and a positive sum overflows
upwards. -/
theorem floatInstructions : Obligations.FloatInstructions := by
  refine ⟨fun s e d a b h form i j hr => ?issue, fun sat d a b => ?values⟩
  case issue =>
    intro x k sat ends flt
    have hends {c : Instr} {g : State → Engine → Issue} {t : EngDest} {q : Sticky} (hc : exec c s = .next (s.issue e g))
        (hb : t.inBank = true) (hg : g s x = .done s [{ lat := 4, dest := t, sticky := q }]) : ends c t q :=
      hc.trans (congrArg _ (State.issue_flies hr hb (by decide) hg))
    have hflt {c : Instr} {g : State → Engine → Issue} {r : BitVec 32 × Sticky} (hc : exec c s = .next (s.issue e g))
        (hg : g s x = .done s (resF d r)) : flt c r := hends (t := .f d r.1) hc rfl hg
    refine ⟨hflt rfl rfl, hflt rfl rfl, hflt rfl rfl, hflt rfl rfl, hflt rfl rfl, hflt rfl rfl, hflt rfl rfl, hflt rfl rfl,
      hflt rfl rfl, hflt rfl rfl, ?_, ?_, ?_, ?_, ?_, ?_, ?_, ?_, ?_⟩
    · rintro rfl; exact hends (t := .f i _) rfl rfl rfl
    · rintro rfl; exact hends (t := .h i _) rfl rfl rfl
    · rintro ⟨rfl, hj⟩
      refine hends (t := .f i _) rfl rfl ?_
      have hj' : areg? j = some ⟨j.val, hj⟩ := dif_pos hj
      simp only [hj']
      rfl
    · rintro ⟨rfl, hi⟩
      refine hends (t := .a ⟨i.val, hi⟩ _) rfl rfl ?_
      have hi' : areg? i = some ⟨i.val, hi⟩ := dif_pos hi
      simp only [hi']
      rfl
    · rintro rfl; exact hends (t := .f i _) rfl rfl rfl
    · rintro rfl; exact hends (t := .f i _) rfl rfl rfl
    · rintro rfl; exact hends (t := .f i _) rfl rfl rfl
    · rintro rfl; exact hends (t := .h i _) rfl rfl rfl
    · intro hbad
      refine congrArg Host.Outcome.next (State.issue_fault hr ?_)
      rcases hbad with h | ⟨rfl, h⟩ | ⟨rfl, h⟩
      · obtain ⟨n, hn⟩ : ∃ n, form.toNat = n + 8 := ⟨form.toNat - 8, by omega⟩
        simp only [hn]
      · have h' : areg? j = none := dif_neg (by omega)
        simp [h']
      · have h' : areg? i = none := dif_neg (by omega)
        simp [h']
  case values =>
    intro bad
    have hbad : ∀ {o : Option FVal}, o = none → FVal.pack sat o = bad := by rintro _ rfl; cases sat <;> rfl
    have hmul : ∀ {y : Option FVal}, y = none → ∀ g : FVal → Option FVal, y.bind g = none := by rintro _ rfl _; rfl
    have hadd : ∀ (y : Option FVal) (g : FVal → FVal), (y.bind fun p => FVal.nan.add (g p)) = none := fun y g => by
      cases y with
      | none => rfl
      | some p => exact FVal.add_eq_none (x := .nan) (y := g p) (.inl rfl)
    refine ⟨fun h => ?_, fun h => ?_, fun h => ?_, fun h => ?_, hbad (by decide), hbad (by decide), fun ha hfv hpos => ?_⟩
    · have hnan : FVal.of a = .nan ∨ FVal.of b = .nan := h.imp FVal.of_nan FVal.of_nan
      have hneg : FVal.of a = .nan ∨ (FVal.of b).neg = .nan := hnan.imp_right fun hb => by rw [hb]; rfl
      exact ⟨hbad (FVal.add_eq_none hnan), hbad (FVal.add_eq_none hneg), hbad (FVal.mul_eq_none hnan),
        hbad (hmul (FVal.mul_eq_none hnan) _), hbad (hmul (FVal.mul_eq_none hnan) _)⟩
    · rw [fMac, fMsu, FVal.of_nan h]
      exact ⟨hbad (hadd _ id), hbad (hadd _ FVal.neg)⟩
    · rw [fRcp, fRsq, FVal.of_nan h]
      exact ⟨hbad rfl, hbad rfl⟩
    · rw [fMin, fMax, fIsNaN_eq, fIsNaN_eq, h.1, h.2]
      exact ⟨hbad rfl, hbad rfl⟩
    · rw [fAdd_overflow ha hfv hpos]
      cases sat <;> rfl
end

section
set_option Elab.async false
/-! PROOF. Several steps of an engine: what lands in them, jumps, and what they leave (02_engines.md R70, R76). -/

namespace Sys2Proof.Machine

variable {s : State} {e : EngId} {x : Engine} {n : Nat}

/-! ## Landing -/

/-- What an instruction has just launched lands together, where all of it is due in this step and nothing older is. -/
theorem Engine.land_now {fl : List Flight} (hq : ∀ f ∈ x.flights, x.step + 1 ≤ f.due)
    (hfl : ∀ f ∈ fl, f.due ≤ x.step ∧ f.bank1 = x.handler.isSome ∧ f.dest.inBank = true) :
    (x.withFlights (x.flights ++ fl)).land = x.onCur (settle fl) := by
  have hin : fl.filter (fun f => decide (f.due ≤ x.step)) = fl :=
    List.filter_eq_self.mpr fun f hf => decide_eq_true (hfl f hf).1
  have hout : fl.filter (fun f => !decide (f.due ≤ x.step)) = [] :=
    List.filter_eq_nil_iff.mpr fun f hf => by simp [(hfl f hf).1]
  have hself : x.withFlights (x.flights ++ []) = x := by rw [List.append_nil]; rfl
  rw [Engine.land_launch fl hq]
  dsimp only
  rw [hin, hout, hself]
  exact Engine.settle_land fun f hf => (hfl f hf).2

@[simp] theorem Engine.land_flights (x : Engine) : x.land.flights = x.flights.filter fun f => !decide (f.due ≤ x.step) := by
  have hw : ∀ (y : Engine) (b : Bool) (d : EngDest), (y.write b d).flights = y.flights := fun y b d =>
    Engine.write_if _ _ _ Engine.flights (fun _ _ => rfl) (fun _ _ => rfl) (fun _ _ => rfl) (fun _ _ => rfl) (fun _ _ => rfl) (fun _ _ => rfl)
  have hc : ∀ (y : Engine) (b : Bool) (c : BitVec 4), (y.writeCond b c).flights = y.flights := fun y b c => by cases b <;> rfl
  have hs : ∀ (y : Engine) (b : Bool) (t : Sticky), (y.setSticky b t).flights = y.flights := fun y b t => by cases b <;> rfl
  unfold Engine.land
  dsimp only
  rw [Engine.foldl_fixed Engine.flights fun y a => hs y _ _,
    Engine.foldl_fixed Engine.flights fun y a => by cases a.cond with | none => rfl | some c => exact hc y _ _,
    Engine.foldl_fixed Engine.flights fun y a => hw y _ _]

/-! ## Steps -/

theorem Engine.pass_flights : x.pass.flights = x.flights.filter fun f => decide (x.step + 1 ≤ f.due) := by
  show x.land.flights = _
  rw [Engine.land_flights]
  exact List.filter_congr fun f _ => by rw [Bool.eq_iff_iff]; simp

theorem Engine.pass_step : x.pass.step = x.step + 1 := by show x.land.step + 1 = _; rw [Engine.land_step]
theorem Engine.pass_pc : x.pass.pc = x.pc := Engine.land_pc x
theorem Engine.pass_handler : x.pass.handler = x.handler := Engine.land_handler x

theorem Engine.passes_step : (x.passes n).step = x.step + n := by
  induction n generalizing x with
  | zero => rfl
  | succ n ih => rw [Engine.passes, ih, Engine.pass_step]; omega

theorem Engine.passes_pc : (x.passes n).pc = x.pc := by
  induction n generalizing x with
  | zero => rfl
  | succ n ih => rw [Engine.passes, ih, Engine.pass_pc]

/-- What is still in flight after some steps. -/
theorem Engine.passes_flights (hn : 1 ≤ n) : (x.passes n).flights = x.flights.filter fun f => decide (x.step + n ≤ f.due) := by
  induction n generalizing x with
  | zero => omega
  | succ n ih =>
    rw [Engine.passes]
    cases n with
    | zero => exact Engine.pass_flights
    | succ n =>
      rw [ih (by omega), Engine.pass_flights, Engine.pass_step, List.filter_filter]
      exact List.filter_congr fun f _ => by rw [Bool.eq_iff_iff]; simp; omega

/-! ## The slot of an engine -/

/-- The engine at a PC, with steps of the instruction before still in the slot. -/
def Engine.slotted (x : Engine) (pc : BitVec 12) (held : Nat) (wait : Option (BitVec 12)) : Engine :=
  { x with pc := pc, held := held, waitPc := wait }

/-- An instruction of several steps in background code: one passes, the others stay in the slot (R76). -/
theorem State.passSteps_background {pc : BitVec 12} {w : Option (BitVec 12)} (hr : s.engRuns e = true) (hx : x.handler = none)
    (hn : 1 < n) : (s.setEng e x).passSteps e pc n w = s.setEng e (x.slotted x.pc n w).pass := by
  rw [State.passSteps, State.eng_setEng_same, hx, if_pos (by simp [hn]), State.setEng_setEng]
  exact State.steps_one hr (Engine.not_limited (n := 1) (fun k hk => absurd (hx.symm.trans hk) (by simp)) le_rfl)

/-- In a handler all of them pass. -/
theorem State.passSteps_handler {pc : BitVec 12} {w : Option (BitVec 12)} {k : EvKind} (hr : s.engRuns e = true)
    (hx : x.handler = some k) (hl : x.used + n < x.declared_ k) : (s.setEng e x).passSteps e pc n w = s.setEng e (x.passes n) := by
  rw [State.passSteps, State.eng_setEng_same, hx, if_neg (by simp)]
  exact State.steps_many hr fun j hj => by rw [Option.some.inj (hj.symm.trans hx)]; exact hl

/-- The PC after an instruction: one that it sets, or the next word (or the repeat). -/
def Engine.goesOn (x : Engine) : Option (BitVec 12) → Engine
  | some pc => x.slotted pc x.held x.waitPc
  | none => x.advance

/-- The issue of an instruction on a ready engine, up to the steps that it passes. -/
theorem State.issue_eq {f : State → Engine → Issue} {s' : State} {rs : List Res_} {next : Option (BitVec 12)} (h : s.Ready e)
    (hf : f s (s.eng e) = .done s' rs n next) : s.issue e f =
      (s'.setEng e (((s'.eng e).launch rs).goesOn next)).passSteps e (s.eng e).pc n (if next.isNone then some (s.eng e).pc else none) := by
  unfold State.issue
  simp only [h.canIssue, h.finishSlot, Bool.not_true, Bool.false_eq_true, if_false, h.word, hf, h.limited]
  cases next <;> rfl

/-- An instruction of one step that changes its engine besides. -/
theorem State.issue_with {f : State → Engine → Issue} {y : Engine} {rs : List Res_} {next : Option (BitVec 12)} (h : s.Ready e)
    (hf : f s (s.eng e) = .done (s.setEng e y) rs 1 next) (hh : y.handler = (s.eng e).handler) (hu : y.used = (s.eng e).used)
    (hi : y.image = (s.eng e).image) : s.issue e f = s.setEng e ((y.launch rs).goesOn next).pass := by
  have hl : ((y.launch rs).goesOn next).limited = false := by
    rw [← h.limited]
    cases next with
    | none => exact Engine.limited_of hh hu hi
    | some pc => exact Engine.limited_of hh hu hi
  rw [State.issue_eq h hf, State.eng_setEng_same, State.setEng_setEng, State.passSteps, if_neg (by simp), State.steps_one h.runs hl]

theorem Engine.launch_nil (x : Engine) : x.launch [] = x := by
  rw [Engine.launch, List.map_nil, List.append_nil]

/-! ## Jumps -/

/-- The landing in the first step of a jump. -/
theorem Engine.land_jump {rs : List Res_} {pc : BitVec 12} {held : Nat} {w : Option (BitVec 12)}
    (hq : ∀ f ∈ x.flights, x.step + 1 ≤ f.due) (hb : ∀ r ∈ rs, r.lat = 1 ∧ r.dest.inBank = true) :
    ((x.launch rs).slotted pc held w).land = (x.slotted pc held w).onCur (settle (rs.map x.fly)) := by
  refine Engine.land_now (x := x.slotted pc held w) hq fun f hf => ?_
  obtain ⟨r, hr, rfl⟩ := List.mem_map.mp hf
  obtain ⟨hl, hbank⟩ := hb r hr
  exact ⟨by show x.step + r.lat - 1 ≤ x.step; omega, rfl, hbank⟩

/-- An instruction of two steps that sets the PC: what it writes lands in the first one. -/
theorem State.issue_jump {f : State → Engine → Issue} {rs : List Res_} {pc : BitVec 12} (h : s.Ready e 2)
    (hf : f s (s.eng e) = .done s rs 2 (some pc)) (hb : ∀ r ∈ rs, r.lat = 1 ∧ r.dest.inBank = true) :
    s.issue e f = s.setEng e ((s.eng e).jumped (settle (rs.map (s.eng e).fly)) pc 2) := by
  have hq : ∀ f ∈ (s.eng e).flights, (s.eng e).step + 1 ≤ f.due := (h.mono (by omega)).quiet
  rw [State.issue_eq (h.mono (by omega)) hf]
  cases hx : (s.eng e).handler with
  | none =>
    rw [State.passSteps_background (x := ((s.eng e).launch rs).goesOn (some pc)) h.runs hx (by omega), Engine.pass_eq]
    refine congrArg (s.setEng e) ((congrArg Engine.tickStep (Engine.land_jump hq hb)).trans ?_)
    simp [Engine.tickStep, Engine.jumped, Engine.onCur, Engine.slotted, Engine.goesOn, hx, h.slot]
  | some k =>
    have hheld : ((s.eng e).launch rs).held = 0 := h.held
    have hq2 : ∀ f ∈ (s.eng e).flights, (s.eng e).step + 1 + 1 ≤ f.due := h.quiet
    rw [State.passSteps_handler (x := ((s.eng e).launch rs).goesOn (some pc)) h.runs hx (h.steps k hx), Engine.passes, Engine.pass_eq,
      Engine.goesOn, Engine.land_jump hq hb, Engine.passes_quiet]
    · refine congrArg (s.setEng e) ?_
      simp [Engine.tickStep, Engine.jumped, Engine.onCur, Engine.slotted, hx, h.slot, hheld]
    · simpa [Engine.tickStep, Engine.onCur, Engine.slotted, hx] using hq2
    · simp [Engine.tickStep, Engine.onCur, Engine.slotted, hx, h.slot]
    · simp [Engine.tickStep, Engine.onCur, Engine.slotted, hx, hheld]
    · simp [Engine.tickStep, Engine.onCur, Engine.slotted, hx, hheld]

end Sys2Proof.Machine
end

section
/-! PROOF. Control flow (03_engine_instructions.md R119 to R122; 02_engines.md R75, R78, R86). -/

namespace Sys2Proof.Machine

variable {s : State} {e : EngId}

/-- What a control instruction does outside an RPT body. -/
theorem issueCtl_apply {x : Engine} {i r : Issue} (hr : x.rpt = none) (hi : i = r) :
    (if x.rpt.isSome then Issue.impossible else i) = r := by
  rw [hr, if_neg (by simp), hi]

/-- One pointer written in the first step of a jump. -/
theorem settle_resP (x : Engine) (p : PReg) (v : BitVec 16) : settle ((resP p v).map x.fly) = fun b => b.putP p v :=
  funext fun b => EngBank.stick_none (b.putP p v)

/-- Table 4 over the flags of SW[7:4]. -/
theorem condHolds_eq (b : EngBank) : ∀ c : Nat, c < 15 → condHolds c (b.sw.extractLsb' 4 4) =
    (let z := b.sw.getLsbD 4
     let n := b.sw.getLsbD 5
     let c' := b.sw.getLsbD 6
     let v := b.sw.getLsbD 7
     match c with
      | 0 => true | 1 => z | 2 => !z | 3 => n != v | 4 => n == v | 5 => !z && (n == v) | 6 => z || (n != v) | 7 => n
      | 8 => !n | 9 => v | 10 => !v | 11 => c' | 12 => !c' | 13 => c' && !z | _ => !c' || z) := by
  have hflag : ∀ i < 4, (b.sw.extractLsb' 4 4).getLsbD i = b.sw.getLsbD (4 + i) := fun i hi => by
    rw [BitVec.getLsbD_extractLsb', decide_eq_true hi, Bool.true_and]
  intro c hc
  simp only [condHolds, hflag 0 (by decide), hflag 1 (by decide), hflag 2 (by decide), hflag 3 (by decide)]
  interval_cases c <;> rfl

/-- The steps of a WAIT while one result is in flight. -/
theorem wait_steps {x : Engine} {f : Flight} (hfl : x.flights = [f]) (hdue : x.step < f.due) :
    (x.flights.map Flight.due).foldl Nat.max x.step - x.step + 1 = f.due - x.step + 1 := by
  have hmax : Nat.max x.step f.due = f.due := Nat.max_eq_right hdue.le
  rw [hfl]
  exact congrArg (· - x.step + 1) hmax

/-- Nothing in flight: WAIT takes one step. -/
theorem wait_steps_nil {x : Engine} (hfl : x.flights = []) : (x.flights.map Flight.due).foldl Nat.max x.step - x.step + 1 = 1 := by
  rw [hfl]
  exact congrArg (· + 1) (Nat.sub_self x.step)

/-- The repeat count that RPT sets. -/
def Engine.repeating (x : Engine) (n : Nat) : Engine := { x with rpt := some { left := n, index := 1 } }

/-! ## RETE -/

/-- What the end of a handler leaves at its engine: the heartbeat of a sample handler (R429), the release served. -/
def Engine.handled (x : Engine) (guest : Bool) : EvKind → Engine
  | .sample => if guest then { x with hbGuest := some x.port.seq } else { x with hbSeq := some x.port.seq }
  | .release => { x with relOpen := false }
  | _ => x

/-- RETE in a handler: two steps pass, the step count is noted, and the engine goes on. -/
theorem exec_rete_handler {k : EvKind} (h : s.Ready e) (hrpt : (s.eng e).rpt = none) (hk : (s.eng e).handler = some k) :
    exec (.rete e) s =
      .next (((s.setEng e ((s.eng e).pass.pass.handled (s.eng e).onGuest k)).noteHwm e k ((s.eng e).used + 2)).afterRete e) := by
  have hrepeats : ¬ (s.eng e).rpt.isSome := by rw [hrpt]; simp
  have hbad : ¬ (s.eng e).badI.contains (s.eng e).pc.toNat := by rw [h.word]; simp
  have hstep : s.endStep e (s.eng e).pc = s.setEng e (s.eng e).pass := by
    rw [State.endStep, if_neg (by rw [h.limited]; simp)]
  have hruns : ¬ (!(s.setEng e (s.eng e).pass).engRuns e) := by rw [State.engRuns_setEng, h.runs]; simp
  refine congrArg Host.Outcome.next ?_
  rw [if_neg (by rw [h.canIssue]; simp)]
  dsimp only
  rw [if_neg hrepeats, if_neg hbad, hk]
  dsimp only
  rw [hstep, if_neg hruns, State.eng_setEng_same, State.setEng_setEng]
  cases k <;> rfl

theorem State.nextEvent_nil (hp : (s.eng e).pend = []) : s.nextEvent e = none := by
  rw [State.nextEvent, hp]
  rfl

theorem State.nextEvent_sample (hp : EvKind.sample ∈ (s.eng e).pend) : s.nextEvent e = some .sample :=
  List.find?_cons_of_pos (by rw [List.contains_iff_mem.mpr hp]; rfl)

/-- The end of a handler leaves the rest of its engine. -/
theorem Engine.handled_eq (x : Engine) (g : Bool) (k : EvKind) : (x.handled g k).step = x.step ∧ (x.handled g k).bank0 = x.bank0 ∧
    (x.handled g k).bank1 = x.bank1 ∧ (x.handled g k).pend = x.pend ∧ (x.handled g k).retPc = x.retPc ∧
    (x.handled g k).image = x.image ∧ (x.handled g k).sound = x.sound := by
  cases k
  case sample => cases g <;> exact ⟨rfl, rfl, rfl, rfl, rfl, rfl, rfl⟩
  all_goals exact ⟨rfl, rfl, rfl, rfl, rfl, rfl, rfl⟩

/-- The engine back in background code. -/
def Engine.back (x : Engine) : Engine := { x with handler := none, used := 0, pc := x.retPc, onGuest := false, chained := false }

theorem State.afterRete_some {j : EvKind} (hj : s.nextEvent e = some j) :
    s.afterRete e = s.setEng e { (s.eng e).enter j with chained := true } := by
  rw [State.afterRete, hj]

theorem State.afterRete_none (hj : s.nextEvent e = none) :
    s.afterRete e = (s.setEng e (s.eng e).back).setBit Fld.ENG_STAT_BK e.val false := by
  rw [State.afterRete, hj]
  rfl

/-- The high-water marks of an engine are no field of ENG_STAT. -/
theorem Fld.addr_evHwm {k : EvKind} {g : Fld} (hg : g.reg = .ENG_STAT) : (evHwmFld k).reg.addr e.val ≠ g.reg.addr e.val := by
  rw [hg]
  cases k <;> simp only [evHwmFld, Fld.ENG_HWM_SF_SAMPLE, Fld.ENG_HWM_SF_FAULT, Fld.ENG_HWM_HR_HOST, Fld.ENG_HWM_HR_RELEASE, Reg.addr, Reg.spec] <;>
    omega

/-- What RETE's choice of the next code leaves alone. -/
theorem State.afterRete_keeps {k : EvKind} : (s.afterRete e).fld (evHwmFld k) e.val = s.fld (evHwmFld k) e.val ∧
    ((s.afterRete e).eng e).step = (s.eng e).step ∧ ((s.afterRete e).eng e).bank0 = (s.eng e).bank0 ∧
    ((s.afterRete e).eng e).bank1 = (s.eng e).bank1 := by
  cases hj : s.nextEvent e with
  | some j =>
    rw [State.afterRete_some hj, State.eng_setEng_same]
    exact ⟨rfl, rfl, rfl, rfl⟩
  | none =>
    rw [State.afterRete_none hj]
    refine ⟨(State.fld_setFld_ne (Fld.addr_evHwm rfl)).trans rfl, ?_⟩
    have heng : ((s.setEng e (s.eng e).back).setBit Fld.ENG_STAT_BK e.val false).eng e = (s.eng e).back := State.eng_setEng_same ..
    rw [heng]
    exact ⟨rfl, rfl, rfl⟩

/-- The high-water mark that the end of a handler notes (R86). -/
theorem State.noteHwm_fld {k : EvKind} {n : Nat} (hs : s.Sound) :
    (s.noteHwm e k n).fld (evHwmFld k) e.val = max (s.fld (evHwmFld k) e.val) (min n 65535) := by
  have hw : (evHwmFld k).width = 16 := by cases k <;> rfl
  have hf : (evHwmFld k).lsb + (evHwmFld k).width ≤ 32 := by cases k <;> decide
  have hold : s.fld (evHwmFld k) e.val < 2 ^ (evHwmFld k).width := Fld.get_lt _ _
  have hmax : max (s.fld (evHwmFld k) e.val) (min n 65535) < 2 ^ (evHwmFld k).width := by rw [hw] at hold ⊢; omega
  exact State.fld_setFld_eq hs hf hmax

end Sys2Proof.Machine

open Sys2Proof Sys2Proof.Machine

/-- Settles O8: a jump writes what it writes in its first step and leaves the second one in the slot of background code; WAIT passes up to the
landing; RETE passes two quiet steps, notes the count and chooses the next code. -/
theorem controlInstructions : Obligations.ControlInstructions := by
  refine ⟨fun s e cc p target h2 hrpt => ?jumps, fun s e count => ?waits, fun s e hs h hq hrpt => ?rete⟩
  case jumps =>
    intro x k z n c v taken dec ends
    have h1 : s.Ready e := h2.mono (by omega)
    refine ⟨fun hcc => ?_, fun hcc => ?_, ?_, ?_, ?_⟩
    · have ht : condHolds cc.val (x.cur.sw.extractLsb' 4 4) = taken := condHolds_eq k cc.val hcc
      show exec _ s = .next (s.setEng e _)
      rw [← ht]
      cases htk : condHolds cc.val (x.cur.sw.extractLsb' 4 4) with
      | true =>
        exact congrArg _ (State.issue_jump h2 (rs := [])
          (issueCtl_apply hrpt ((if_neg hcc.ne).trans (if_pos htk))) (by simp))
      | false =>
        exact congrArg _ (State.issue_nothing h1
          (issueCtl_apply hrpt ((if_neg hcc.ne).trans (if_neg (by rw [htk]; simp)))))
    · exact congrArg Host.Outcome.next (State.issue_fault h1 (issueCtl_apply hrpt (if_pos hcc)))
    · refine congrArg _ ((State.issue_jump h2 (rs := resP p ((x.pc + 1).setWidth 16)) (pc := target) (issueCtl_apply hrpt rfl)
        (by simp [resP, EngDest.inBank])).trans ?_)
      rw [settle_resP]
    · exact congrArg _ (State.issue_jump h2 (rs := []) (issueCtl_apply hrpt rfl) (by simp))
    · by_cases hd : dec = 0
      · show exec _ s = .next (s.setEng e _)
        rw [if_neg (not_not_intro hd)]
        exact congrArg _ (State.issue_lands_plain (d := .p p dec) h1 rfl (issueCtl_apply hrpt (if_neg (not_not_intro hd))))
      · show exec _ s = .next (s.setEng e _)
        rw [if_pos hd]
        refine congrArg _ ((State.issue_jump h2 (rs := resP p dec) (pc := target) (issueCtl_apply hrpt (if_pos hd))
          (by simp [resP, EngDest.inBank])).trans ?_)
        rw [settle_resP]
  case waits =>
    intro x
    refine ⟨fun h hrpt => ?_, fun h r hr hleft => ?_, fun h hrpt hfl => ?_, fun f hfl h hdue hrpt hx => ?_, fun f hfl h hdue hrpt hx hl => ?_⟩
    · refine congrArg _ ((State.issue_with (y := x.repeating (count.toNat + 1)) (rs := []) (next := some (x.pc + 1)) h
        (issueCtl_apply hrpt rfl) rfl rfl rfl).trans (congrArg (s.setEng e) ?_))
      rw [Engine.launch_nil, Engine.after_id]
      refine (Engine.pass_quiet (x := (x.repeating _).goesOn (some (x.pc + 1))) h.quiet).trans ?_
      simp [Engine.goesOn, Engine.repeating, Engine.slotted, Engine.advance, Engine.tickStep, hrpt, repeats]
      trivial
    · refine congrArg _ ((State.issue_nothing h rfl).trans (congrArg (s.setEng e) ?_))
      rw [Engine.after_id]
      by_cases h1 : 1 < r.left
      · simp [Engine.advance, x, hr, Repeat.next, repeats, h1, Engine.tickStep]
      · simp [Engine.advance, x, hr, Repeat.next, repeats, h1, Engine.tickStep]
    · exact congrArg _ (State.issue_nothing h (issueCtl_apply hrpt (congrArg (Issue.done s [] · none) (wait_steps_nil hfl))))
    · refine congrArg _ ((State.issue_eq (s' := s) (rs := []) (n := f.due - x.step + 1) (next := none) (h.mono (by omega))
        (issueCtl_apply hrpt (congrArg (Issue.done s [] · none) (wait_steps hfl hdue)))).trans ?_)
      rw [Engine.launch_nil, Engine.after_id]
      refine (State.passSteps_background (x := x.advance) h.runs hx (by omega)).trans (congrArg (s.setEng e) ?_)
      have h1 : s.Ready e 1 := h.mono (by omega)
      refine (Engine.pass_quiet (x := x.advance.slotted x.advance.pc _ _) h1.quiet).trans ?_
      simp [Engine.tickStep, Engine.slotted, x]
      exact ⟨rfl, Nat.sub_ne_zero_of_lt hdue⟩
    · obtain ⟨k, hk⟩ := Option.isSome_iff_exists.mp hx
      refine ⟨s.setEng e (x.advance.passes (f.due - x.step + 1)), congrArg _ ((State.issue_eq (s' := s) (rs := [])
        (n := f.due - x.step + 1) (next := none) (h.mono (by omega)) (issueCtl_apply hrpt (congrArg (Issue.done s [] · none) (wait_steps hfl hdue)))).trans ?_), ?_⟩
      · rw [Engine.launch_nil]
        exact State.passSteps_handler (x := x.advance) h.runs hk (hl k hk)
      · simp only [State.eng_setEng_same]
        refine ⟨?_, ?_, ?_, trivial⟩
        · rw [Engine.passes_flights (by omega)]
          show x.flights.filter _ = []
          rw [hfl]
          simp [Engine.advance]
          omega
        · rw [Engine.passes_pc]
          simp [Engine.advance, hrpt, repeats]
        · rw [Engine.passes_step]
          simp [Engine.advance]
          omega
  case rete =>
    intro x
    refine ⟨fun hx => ?_, fun k hk => ?_⟩
    · have hrete : exec (.rete e) s = .next (s.issueRes e fun _ _ => []) := by
        refine congrArg Host.Outcome.next ?_
        rw [if_neg (by rw [h.canIssue]; simp)]
        dsimp only
        rw [if_neg (by rw [hrpt]; simp), if_neg (by rw [h.word]; simp)]
        rw [show (s.eng e).handler = none from hx]
      rw [hrete]
      exact congrArg _ (State.issue_nothing h rfl)
    · have hpass : x.pass.pass = x.tickStep.tickStep := by
        rw [Engine.pass_quiet fun f hf => le_trans (by omega) (hq f hf)]
        exact Engine.pass_quiet hq
      refine ⟨_, exec_rete_handler h hrpt hk, ?_⟩
      obtain ⟨hstep, hb0, hb1, hpend, hret, himg, hsound⟩ := (x.pass.pass).handled_eq x.onGuest k
      set y := x.pass.pass.handled x.onGuest k
      have heng : ((s.setEng e y).noteHwm e k (x.used + 2)).eng e = y := State.eng_setEng_same ..
      obtain ⟨khwm, kstep, kb0, kb1⟩ := State.afterRete_keeps (s := (s.setEng e y).noteHwm e k (x.used + 2)) (e := e) (k := k)
      have hysound : y.sound = true := hsound.trans (State.Sound.Engine_pass (State.Sound.Engine_pass (hs.eng e)))
      have hnoted : ((s.setEng e y).noteHwm e k (x.used + 2)).Sound := (hs.setEng fun _ => hysound).noteHwm
      have hnote : ((s.setEng e y).noteHwm e k (x.used + 2)).fld (evHwmFld k) e.val =
          max (s.fld (evHwmFld k) e.val) (min (x.used + 2) 65535) :=
        State.noteHwm_fld (hs.setEng fun _ => hysound)
      rw [heng] at kstep kb0 kb1
      rw [hpass] at hstep hb0 hb1 hpend hret himg
      refine ⟨kstep.trans hstep, kb0.trans hb0, kb1.trans hb1, khwm.trans hnote, fun hnil => ?_, fun j hj hjs => ?_⟩
      · have hp : y.pend = [] := hpend.trans hnil
        rw [State.afterRete_none (State.nextEvent_nil (by rw [heng, hp])), heng]
        refine ⟨?_, ?_, State.bit_setBit_eq (State.Sound.setEng hnoted fun _ => hysound) (by decide) (by decide)⟩
        · exact congrArg Engine.handler (State.eng_setEng_same ..)
        · exact (congrArg Engine.pc (State.eng_setEng_same ..)).trans hret
      · have hp : EvKind.sample ∈ y.pend := by rw [hpend]; show _ ∈ x.pend; simp [hj, hjs]
        rw [State.afterRete_some (State.nextEvent_sample (by rw [heng]; exact hp)), State.eng_setEng_same, heng, hjs]
        refine ⟨rfl, ?_, rfl, ?_⟩
        · show y.pend.filter _ = []
          rw [hpend]
          show x.pend.filter _ = []
          rw [hj, hjs]
          rfl
        · show BitVec.ofNat 12 (match y.image with | some h => h.entry .sample | none => 0) = _
          rw [himg]
          rfl
end

section
set_option Elab.async false
/-! PROOF. Loads and stores of local data memory (02_engines.md R59, R68; 03_engine_instructions.md R116). -/

namespace Sys2Proof.Machine

variable {s : State} {e : EngId} {m : MemArg} {a w v : Nat}

/-! ## The target of an access -/

theorem addrRange_local (ha : a < 0x2000) : addrRange a = .localMem := if_pos ha

/-- An aligned access within local data memory. -/
theorem accessFault_local (hw : 0 < w) (ha : a + w ≤ 0x2000) (hal : a % w = 0) : accessFault a w = none := by
  have hr : addrRange a = .localMem := addrRange_local (by omega)
  have hend : rangeEnd a = 0x2000 := by rw [rangeEnd, hr]
  rw [accessFault, hr, hend, if_neg (by simp), if_neg (by omega), if_neg (by omega)]

/-- An aligned access to local data memory, up to its parity. -/
theorem State.access_local (hw : 0 < w) (ha : a + w ≤ 0x2000) (hal : a % w = 0) :
    s.access e a w = if (List.range w).any fun i => (s.eng e).badD.contains (a + i) then .fault .dparity else .dmem a := by
  have hr : addrRange a = .localMem := addrRange_local (by omega)
  have hn : s.noWindow e a = false := by rw [State.noWindow, hr]; rfl
  simp only [State.access, hn, accessFault_local hw ha hal, hr, Bool.false_eq_true, if_false]

theorem State.isLocal_local (ha : a < 0x2000) : s.isLocal e a = true := by
  rw [State.isLocal, addrRange_local ha]

/-- A number in memory is the number of its bytes. -/
theorem Mem.load_eq_leNat (mem : Mem) (a w : Nat) : Mem.load mem a w = leNat ((List.range w).map fun i => Mem.byte mem (a + i)) := by
  induction w generalizing a with
  | zero => rfl
  | succ w ih =>
    rw [Mem.load, ih, List.range_succ_eq_map, List.map_cons, List.map_map, leNat]
    simp only [Function.comp_def, Nat.add_zero, Nat.succ_eq_add_one, Nat.add_assoc, Nat.add_comm 1]

/-! ## The pointer of a post-modify form -/

/-- The post-modified pointer is due at once. -/
theorem ptrRes_due (x : Engine) (p : Option (BitVec 16)) : ∀ f ∈ (ptrRes m p).map x.fly, f.due ≤ x.step := by
  cases p with
  | none => simp [ptrRes]
  | some v => simp [ptrRes, resP, Engine.fly]

/-- It lands in the bank in use. -/
theorem settle_ptrRes (x : Engine) (p : Option (BitVec 16)) : settle ((ptrRes m p).map x.fly) = bumpPtr m p := by
  cases p with
  | none => rfl
  | some v => exact settle_resP x m.ptr v

theorem ptrRes_inBank {p : Option (BitVec 16)} : ∀ r ∈ ptrRes m p, r.dest.inBank = true := by
  cases p <;> simp [ptrRes, resP, EngDest.inBank]

/-- The post-modified pointer lands in the first step, and the data with latency 2 stay in flight. -/
theorem State.issue_ptr_flies {f : State → Engine → Issue} {p : Option (BitVec 16)} {d : EngDest} (h : s.Ready e) (hb : d.inBank = true)
    (hf : f s (s.eng e) = .done s (ptrRes m p ++ [{ lat := 2, dest := d }])) :
    s.issue e f = s.setEng e ((s.eng e).after (bumpPtr m p) [(s.eng e).inFlight 2 d Sticky.none]) := by
  have hbank : ∀ r ∈ ptrRes m p ++ [{ lat := 2, dest := d }], r.dest.inBank = true := fun r hr =>
    (List.mem_append.mp hr).elim (ptrRes_inBank r) fun hd => by rw [List.mem_singleton.mp hd]; exact hb
  have hnow := ptrRes_due (m := m) (s.eng e) p
  have hin : ((ptrRes m p).map (s.eng e).fly).filter (fun f => decide (f.due ≤ (s.eng e).step)) = (ptrRes m p).map (s.eng e).fly :=
    List.filter_eq_self.mpr fun f hf => decide_eq_true (hnow f hf)
  have hout : ((ptrRes m p).map (s.eng e).fly).filter (fun f => !decide (f.due ≤ (s.eng e).step)) = [] :=
    List.filter_eq_nil_iff.mpr fun f hf => by simp [hnow f hf]
  rw [State.issue_plain h hf hbank, List.map_append, List.filter_append, List.filter_append, hin, hout, List.nil_append,
    List.map_singleton, List.filter_cons_of_neg (by simp [Engine.fly]), List.filter_nil, List.append_nil, settle_ptrRes,
    List.filter_cons_of_pos (by simp [Engine.fly]), List.filter_nil]
  rfl

/-! ## Loads -/

/-- An aligned load from local data memory of good parity. -/
theorem State.loadIns_local {k : LongKind} {mk : Nat → EngDest} {p : Option (BitVec 16)} {ea : BitVec 16} (h : s.Ready e) (hw : 0 < w)
    (hep : effAddr m (s.eng e).cur.p[m.ptr] (s.eng e).cb[m.ptr] (s.eng e).cl[m.ptr] = (ea, p)) (ha : ea.toNat + w ≤ 0x2000)
    (hal : ea.toNat % w = 0) (hpar : ∀ i < w, (s.eng e).badD.contains (ea.toNat + i) = false) (hmk : ∀ v, (mk v).inBank = true) :
    s.loadIns e m w k mk = s.setEng e ((s.eng e).after (bumpPtr m p)
      [(s.eng e).inFlight 2 (mk (leNat ((List.range w).map fun i => Mem.byte (s.eng e).dmem (ea.toNat + i)))) Sticky.none]) := by
  have hany : ((List.range w).any fun i => (s.eng e).badD.contains (ea.toNat + i)) = false :=
    List.any_eq_false.mpr fun i hi => by rw [hpar i (List.mem_range.mp hi)]; simp
  have hacc : s.access e ea.toNat w = .dmem ea.toNat := by rw [State.access_local hw ha hal, hany]; rfl
  have hloc : s.localAccess e ea.toNat w = .dmem ea.toNat := by rw [State.localAccess, State.isLocal_local (by omega), if_pos rfl, hacc]
  refine State.issue_ptr_flies h (hmk _) ?_
  dsimp only
  rw [hep, hacc, hloc, ite_self]
  dsimp only
  rw [State.localLoad, Mem.load_eq_leNat]

/-! ## Stores -/

/-- The engine after a store to its data memory: the bytes, and their parity written. -/
def Engine.stored (x : Engine) (a w v : Nat) : Engine :=
  { x with dmem := Mem.store x.dmem a w v, badD := x.badD.filter fun b => !decide (a ≤ b ∧ b < a + w) }

theorem Engine.stored_after (x : Engine) (f : EngBank → EngBank) : (x.stored a w v).after f [] =
    { x.after f [] with dmem := (x.stored a w v).dmem, badD := (x.stored a w v).badD } := by
  unfold Engine.after Engine.onCur Engine.stored
  by_cases hx : x.handler.isSome = true <;> simp [hx, Engine.advance, Engine.tickStep]

/-- The bytes of a store, the others, and the parity. -/
theorem Engine.stored_mem (x : Engine) (hx : x.sound = true) :
    (∀ i < w, Mem.byte (x.stored a w v).dmem (a + i) = BitVec.ofNat 8 (v / 256 ^ i)) ∧
    (∀ j, j < a ∨ a + w ≤ j → Mem.byte (x.stored a w v).dmem j = Mem.byte x.dmem j) ∧
    (∀ j, (x.stored a w v).badD.contains j = (x.badD.contains j && (decide (j < a) || decide (a + w ≤ j)))) := by
  have hwf : Mem.wf x.dmem = true := Engine.sound_dmem hx
  refine ⟨fun i hi => Mem.byte_store hwf hi, fun j hj => Mem.byte_store_ne hj, fun j => ?_⟩
  rw [Bool.eq_iff_iff]
  simp only [Engine.stored, List.contains_iff_mem, List.mem_filter, Bool.and_eq_true, Bool.not_eq_true', Bool.or_eq_true,
    decide_eq_true_eq, decide_eq_false_iff_not]
  exact and_congr_right fun _ => by omega

/-- An aligned store to local data memory. -/
theorem State.storeIns_local {val : EngBank → Nat} {p : Option (BitVec 16)} {ea : BitVec 16} (h : s.Ready e) (hw : 0 < w)
    (hep : effAddr m (s.eng e).cur.p[m.ptr] (s.eng e).cb[m.ptr] (s.eng e).cl[m.ptr] = (ea, p)) (ha : ea.toNat + w ≤ 0x2000)
    (hal : ea.toNat % w = 0) :
    s.storeIns e m w val = s.setEng e (((s.eng e).stored ea.toNat w (val (s.eng e).cur)).after (bumpPtr m p) []) := by
  have hacc : AccessTo.forStore s e ea.toNat w = .dmem ea.toNat := by
    rw [AccessTo.forStore, State.access_local hw ha hal]
    split <;> rename_i h <;> split at h <;> simp_all
  have hloc : ¬ ((s.eng e).rpt.isSome ∧ !s.isLocal e ea.toNat) := by rw [State.isLocal_local (by omega)]; simp
  refine (State.issue_with (y := (s.eng e).stored ea.toNat w (val (s.eng e).cur)) (rs := ptrRes m p) (next := none) h ?_ rfl rfl rfl).trans ?_
  · dsimp only
    rw [hep]
    dsimp only
    rw [if_neg hloc, hacc]
    rfl
  · have hq : ∀ f ∈ ((s.eng e).stored ea.toNat w (val (s.eng e).cur)).flights, _ ≤ f.due := h.quiet
    have hnow := ptrRes_due (m := m) ((s.eng e).stored ea.toNat w (val (s.eng e).cur)) p
    refine congrArg (s.setEng e) ((Engine.launch_pass hq ptrRes_inBank).trans ?_)
    rw [List.filter_eq_self.mpr (by simpa using hnow), List.filter_eq_nil_iff.mpr (by simpa using hnow), settle_ptrRes]

end Sys2Proof.Machine

open Sys2Proof Sys2Proof.Machine

/-- Settles O9: the access is to local data memory, where a load reads the bytes and a store replaces them. -/
theorem localLoadsAndStores : Obligations.LocalLoadsAndStores := by
  refine ⟨fun s e h p f a m hr => ?_, fun s e h p f a m hs hr => ?_⟩
  · intro x ep ea val ends
    exact ⟨fun ha hal hpar => congrArg _ (State.loadIns_local hr (by decide) rfl ha hal hpar fun _ => rfl),
      fun ha hal hpar => congrArg _ (State.loadIns_local hr (by decide) rfl ha hal hpar fun _ => rfl),
      fun ha hal hpar => congrArg _ (State.loadIns_local hr (by decide) rfl ha hal hpar fun _ => rfl),
      fun ha hal hpar => congrArg _ (State.loadIns_local hr (by decide) rfl ha hal hpar fun _ => rfl)⟩
  · intro x k ep ea ends
    have hstore : ∀ {c : Instr} {w : Nat} {v : EngBank → Nat}, exec c s = .next (s.storeIns e m w v) → 0 < w → ends c w (v k) :=
      fun hc hw ha hal => ⟨x.stored ea _ _, hc.trans (congrArg _ ((State.storeIns_local (p := ep.2) (ea := ep.1) hr hw rfl ha hal).trans
        (congrArg (s.setEng e) (Engine.stored_after _ _)))), x.stored_mem (hs.eng e)⟩
    exact ⟨hstore (v := fun k => (k.h[h]).toNat) rfl two_pos, hstore (v := fun k => (k.p[p]).toNat) rfl two_pos,
      hstore (v := fun k => (k.f[f]).toNat) rfl four_pos, hstore (v := fun k => (k.a[a].signExtend 64).toNat) rfl (by decide)⟩
end

section
set_option Elab.async false
/-! PROOF. Engine faults and access faults (02_engines.md R55, R59, R79, R91, R115). -/

namespace Sys2Proof.Machine

variable {s : State} {e : EngId} {m : MemArg} {a w v : Nat}

/-! ## A stopped engine -/

/-- A field of ENG_STAT and another one. -/
theorem Fld.clear_stat (f g : Fld) (hf : f.reg = .ENG_STAT := by rfl) (hg : g.reg = .ENG_STAT := by rfl)
    (hw : f.lsb + f.width ≤ 32 := by decide) (hd : f.Disjoint g := by decide) : f.Clear e.val g e.val := Fld.clear_engStat hf hg hw hd

/-- The cause of a fault, as ENG_STAT shows it (Table 8). -/
theorem State.engineFault_stat {c : EngFault} {pc : BitVec 12} (hs : s.Sound) : (s.engineFault e c pc).engState e = .faulted ∧
    (s.engineFault e c pc).fld Fld.ENG_STAT_FAULT e.val = c.code ∧ (s.engineFault e c pc).fld Fld.ENG_STAT_FAULT_PC e.val = pc.toNat ∧
    (s.engineFault e c pc).bit Fld.ENG_STAT_FAULT_BG e.val = (s.eng e).handler.isNone := by
  have ht : (s.engineFault e c pc).Sound := hs.engineFault
  have hcode : c.code < 2 ^ Fld.ENG_STAT_FAULT.width := by cases c <;> decide
  let s1 := s.setFld Fld.ENG_STAT_FAULT e.val c.code
  let s2 := s1.setFld Fld.ENG_STAT_FAULT_EV e.val (match (s.eng e).handler with | some k => k.code | none => 0)
  let s3 := s2.setBit Fld.ENG_STAT_FAULT_BG e.val (s.eng e).handler.isNone
  let s4 := s3.setFld Fld.ENG_STAT_FAULT_PC e.val pc.toNat
  let s5 := s4.setBit Fld.ENG_STAT_BK e.val false
  have h1 : s1.Sound := hs.setFld
  have h2 : s2.Sound := h1.setFld
  have h3 : s3.Sound := h2.setBit
  have h4 : s4.Sound := h3.setFld
  have h5 : s5.Sound := h4.setBit
  have kpc : State.Keeps Fld.ENG_STAT_FAULT_PC e.val s4 (s.engineFault e c pc) :=
    (((State.Keeps.refl h4).setBit (Fld.clear_stat _ _)).setFld (Fld.clear_stat _ Fld.ENG_STAT_STATE)).of_regs ht rfl
  have kbg : State.Keeps Fld.ENG_STAT_FAULT_BG e.val s3 (s.engineFault e c pc) :=
    ((((State.Keeps.refl h3).setFld (Fld.clear_stat _ _)).setBit (Fld.clear_stat _ _)).setFld (Fld.clear_stat _ Fld.ENG_STAT_STATE)).of_regs ht rfl
  have kfault : State.Keeps Fld.ENG_STAT_FAULT e.val s1 (s.engineFault e c pc) :=
    ((((((State.Keeps.refl h1).setFld (Fld.clear_stat _ _)).setBit (Fld.clear_stat _ _)).setFld (Fld.clear_stat _ _)).setBit
      (Fld.clear_stat _ _)).setFld (Fld.clear_stat _ Fld.ENG_STAT_STATE)).of_regs ht rfl
  refine ⟨congrArg EngState.ofCode (State.fld_setFld_eq (s := s5) h5 (by decide) (by decide)),
    kfault.fld.trans (State.fld_setFld_eq hs (by decide) hcode), kpc.fld.trans (State.fld_setFld_eq h3 (by decide) pc.isLt), ?_⟩
  exact (congrArg (· == 1) kbg.fld).trans (State.bit_setBit_eq h2 (by decide) (by decide))

/-- What a fault leaves of its engine. -/
theorem State.engineFault_eng {c : EngFault} {pc : BitVec 12} : ((s.engineFault e c pc).eng e).flights = [] ∧
    ((s.engineFault e c pc).eng e).bank0 = (s.eng e).bank0 ∧ ((s.engineFault e c pc).eng e).bank1 = (s.eng e).bank1 ∧
    ((s.engineFault e c pc).eng e).dmem = (s.eng e).dmem := by
  rw [State.engineFault, State.eng_setEng_same]
  exact ⟨rfl, rfl, rfl, rfl⟩

/-- A bit that software does not clear is a plain field. -/
theorem State.setBit_plain {f : Fld} {i : Nat} {b : Bool} (hf : f.isFlag = false) : s.setBit f i b = s.setFld f i (if b then 1 else 0) := by
  have hset : (if b && f.isFlag then (f.reg.addr i, f.mask) :: s.hwSet else s.hwSet) = s.hwSet := by simp [hf]
  rw [State.setBit, hset]
  rfl

/-- Only register words differ. -/
def State.RegsOnly (s t : State) : Prop := ∃ r, t = { s with regs := r }

theorem State.RegsOnly.setFld {t : State} {f : Fld} {i v : Nat} (h : State.RegsOnly s t) : State.RegsOnly s (t.setFld f i v) := by
  obtain ⟨r, rfl⟩ := h
  exact ⟨_, rfl⟩

theorem State.RegsOnly.setBit {t : State} {f : Fld} {i : Nat} {b : Bool} (h : State.RegsOnly s t) (hf : f.isFlag = false := by rfl) :
    State.RegsOnly s (t.setBit f i b) := by
  rw [State.setBit_plain hf]
  exact h.setFld

/-- Nothing else changes. -/
theorem State.engineFault_frame {c : EngFault} {pc : BitVec 12} :
    s.engineFault e c pc = { s with regs := (s.engineFault e c pc).regs, engines := (s.engineFault e c pc).engines } ∧
    ∀ e', e' ≠ e → (s.engineFault e c pc).eng e' = s.eng e' := by
  have hset : ∃ u y, State.RegsOnly s u ∧ s.engineFault e c pc = u.setEng e y := by
    refine ⟨_, _, ?_, rfl⟩
    have hregs : State.RegsOnly s s := ⟨s.regs, rfl⟩
    exact (hregs.setFld.setFld.setBit.setFld.setBit).setFld
  obtain ⟨u, y, ⟨r, rfl⟩, heq⟩ := hset
  rw [heq]
  exact ⟨rfl, fun e' he => State.eng_setEng_ne _ e y he⟩

/-! ## The target of an access -/

/-- A data address outside what an engine may reach, or whose bytes leave their range (R55, R115). -/
def State.OutOfRange (s : State) (e : EngId) (a w : Nat) : Prop :=
  (0x3100 ≤ a ∧ a < 0x8000) ∨ (a < 0x2000 ∧ 0x2000 < a + w) ∨ (0x2000 ≤ a ∧ a < 0x3000 ∧ 0x3000 < a + w) ∨
    (0x3000 ≤ a ∧ a < 0x3100 ∧ 0x3100 < a + w) ∨ 0x10000 < a + w ∨
    (0x2000 ≤ a ∧ a < 0x3000 ∧ s.axisLike e = false ∧ 48 ≤ (s.eng e).axsel.toNat)

theorem State.noWindow_iff : s.noWindow e a = true ↔ 0x2000 ≤ a ∧ a < 0x3000 ∧ s.axisLike e = false ∧ 48 ≤ (s.eng e).axsel.toNat := by
  have hr : addrRange a = .window ↔ 0x2000 ≤ a ∧ a < 0x3000 := by
    unfold addrRange
    split_ifs <;> simp <;> omega
  simp only [State.noWindow, Bool.and_eq_true, beq_iff_eq, hr, Bool.not_eq_true', decide_eq_true_eq]
  tauto

theorem accessFault_addr (h : (0x3100 ≤ a ∧ a < 0x8000) ∨ (a < 0x2000 ∧ 0x2000 < a + w) ∨ (0x2000 ≤ a ∧ a < 0x3000 ∧ 0x3000 < a + w) ∨
    (0x3000 ≤ a ∧ a < 0x3100 ∧ 0x3100 < a + w) ∨ 0x10000 < a + w) : accessFault a w = some .addr := by
  unfold accessFault rangeEnd addrRange
  split_ifs <;> simp_all <;> omega

theorem accessFault_align (hal : a % w ≠ 0) (h : ¬ ((0x3100 ≤ a ∧ a < 0x8000) ∨ (a < 0x2000 ∧ 0x2000 < a + w) ∨
    (0x2000 ≤ a ∧ a < 0x3000 ∧ 0x3000 < a + w) ∨ (0x3000 ≤ a ∧ a < 0x3100 ∧ 0x3100 < a + w) ∨ 0x10000 < a + w)) :
    accessFault a w = some .align := by
  unfold accessFault rangeEnd addrRange
  split_ifs <;> simp_all

/-- Such an access is an ADDR fault, whatever its alignment. -/
theorem State.access_outOfRange (h : s.OutOfRange e a w) : s.access e a w = .fault .addr := by
  by_cases hn : s.noWindow e a = true
  · rw [State.access, if_pos hn]
  · have hrange := h
    rw [State.OutOfRange, ← State.noWindow_iff] at hrange
    have hf : accessFault a w = some .addr := accessFault_addr (by tauto)
    simp only [State.access, hn, hf, Bool.false_eq_true, if_false]

/-- Within the ranges a misaligned access is an ALIGN fault. -/
theorem State.access_misaligned (h : ¬ s.OutOfRange e a w) (hal : a % w ≠ 0) : s.access e a w = .fault .align := by
  rw [State.OutOfRange, ← State.noWindow_iff] at h
  have hn : s.noWindow e a = false := by rw [← Bool.not_eq_true]; tauto
  have hf : accessFault a w = some .align := accessFault_align hal (by tauto)
  simp only [State.access, hn, hf, Bool.false_eq_true, if_false]

/-! ## Faults of loads and stores -/

/-- The address of a load or a store. -/
def State.ea (s : State) (e : EngId) (m : MemArg) : Nat :=
  (effAddr m (s.eng e).cur.p[m.ptr] (s.eng e).cb[m.ptr] (s.eng e).cl[m.ptr]).1.toNat

/-- An access that is an ADDR fault: out of range, or a long one in an RPT body (R79). -/
def State.Past (s : State) (e : EngId) (a w : Nat) : Prop :=
  s.OutOfRange e a w ∨ ((s.eng e).rpt.isSome = true ∧ s.isLocal e a = false)

theorem State.localAccess_past (h : s.Past e a w) : s.localAccess e a w = .fault .addr := by
  unfold State.localAccess
  split
  · rename_i hloc
    exact State.access_outOfRange (h.resolve_right fun hn => by simp [hloc] at hn)
  · rfl

/-- The access that a load makes. -/
theorem State.loadIns_fault {k : LongKind} {mk : Nat → EngDest} {c : EngFault} (h : s.Ready e)
    (hc : (if (s.eng e).rpt.isSome then s.localAccess e (s.ea e m) w else s.access e (s.ea e m) w) = .fault c) :
    s.loadIns e m w k mk = s.engineFault e c (s.eng e).pc := by
  refine State.issue_fault h ?_
  unfold State.ea at hc
  dsimp only
  rw [hc]

theorem State.loadIns_past {k : LongKind} {mk : Nat → EngDest} (h : s.Ready e) (hp : s.Past e (s.ea e m) w) :
    s.loadIns e m w k mk = s.engineFault e .addr (s.eng e).pc := by
  refine State.loadIns_fault h ?_
  split
  · exact State.localAccess_past hp
  · rename_i hr
    exact State.access_outOfRange (hp.resolve_right fun hn => hr hn.1)

theorem State.loadIns_misaligned {k : LongKind} {mk : Nat → EngDest} (h : s.Ready e) (hp : ¬ s.Past e (s.ea e m) w)
    (hal : s.ea e m % w ≠ 0) : s.loadIns e m w k mk = s.engineFault e .align (s.eng e).pc := by
  rw [State.Past, not_or] at hp
  have hacc := State.access_misaligned hp.1 hal
  refine State.loadIns_fault h ?_
  split
  · rename_i hr
    rw [State.localAccess, if_pos (by simpa [hr] using hp.2), hacc]
  · exact hacc

/-- The access that a store makes. -/
theorem State.storeIns_fault {val : EngBank → Nat} {c : EngFault} (h : s.Ready e)
    (hc : (if (s.eng e).rpt.isSome ∧ !s.isLocal e (s.ea e m) then .fault .addr else AccessTo.forStore s e (s.ea e m) w) = .fault c) :
    s.storeIns e m w val = s.engineFault e c (s.eng e).pc := by
  refine State.issue_fault h ?_
  unfold State.ea at hc
  dsimp only
  rw [hc]

theorem State.storeIns_past {val : EngBank → Nat} (h : s.Ready e) (hp : s.Past e (s.ea e m) w) :
    s.storeIns e m w val = s.engineFault e .addr (s.eng e).pc := by
  refine State.storeIns_fault h ?_
  split
  · rfl
  · rename_i hr
    rw [AccessTo.forStore, State.access_outOfRange (hp.resolve_right fun hn => hr ⟨hn.1, by simp [hn.2]⟩)]

theorem State.storeIns_misaligned {val : EngBank → Nat} (h : s.Ready e) (hp : ¬ s.Past e (s.ea e m) w) (hal : s.ea e m % w ≠ 0) :
    s.storeIns e m w val = s.engineFault e .align (s.eng e).pc := by
  rw [State.Past, not_or] at hp
  have hlocal : ¬ ((s.eng e).rpt.isSome = true ∧ (!s.isLocal e (s.ea e m)) = true) := by simpa using hp.2
  refine State.storeIns_fault h ?_
  rw [if_neg hlocal, AccessTo.forStore, State.access_misaligned hp.1 hal]

/-! ## The wait of a long access -/

/-- A long access outside an RPT body holds the issue slot. -/
theorem State.issue_waits {f : State → Engine → Issue} {acc : LongAcc} (h : s.Ready e) (hr : (s.eng e).rpt = none)
    (hf : f s (s.eng e) = .long acc) : s.issue e f = s.setEng e { s.eng e with long := some acc } := by
  have hrpt : ¬ ((s.eng e).rpt.isSome = true) := by rw [hr]; simp
  simp only [State.issue, h.canIssue, h.finishSlot, h.word, hf, hrpt, Bool.not_true, Bool.false_eq_true, if_false]

/-- An aligned half-word of shared memory. -/
theorem State.access_shared (ha : 0x8000 ≤ a) (hw : a + w ≤ 0x10000) (hal : a % w = 0) :
    s.access e a w = .long (.shared ((s.eng e).smpg.toNat * 0x8000 + (a - 0x8000))) := by
  have hr : addrRange a = .shared := by
    unfold addrRange
    rw [if_neg (by omega), if_neg (by omega), if_neg (by omega), if_neg (by omega)]
  have hn : s.noWindow e a = false := by rw [State.noWindow, hr]; rfl
  have hend : rangeEnd a = 0x10000 := by rw [rangeEnd, hr]
  have hf : accessFault a w = none := by
    rw [accessFault, hr, hend, if_neg (by simp), if_neg (by omega), if_neg (by omega)]
  simp only [State.access, hn, hf, hr, Bool.false_eq_true, if_false]

/-! ## The grant of a long access -/

/-- The results of a granted access: the pointer, then the data of a load (R117). -/
def LongAcc.results (acc : LongAcc) (v : Nat) : List Res_ :=
  (match acc.ptr with
    | some (p, w) => [{ lat := acc.holdSteps + 1, dest := .p p w }]
    | none => []) ++
  (match acc.dest v with
    | some d => [{ lat := acc.holdSteps + 1, dest := d }]
    | none => [])

/-- The memory after the access and the engine that the arbiter granted last. -/
def State.granted (s : State) (e : EngId) (acc : LongAcc) : State :=
  let u := match acc.kind with
    | .store w => s.longStore e acc.target acc.width w
    | _ => s
  match acc.target with
  | .shared _ => { u with arbLast := e }
  | .window _ _ => u

/-- The engine at its grant: the slot held no longer by the access, its results in flight, the PC at the next word. -/
def Engine.granted (x : Engine) (acc : LongAcc) (v : Nat) : Engine :=
  { ({ x with long := none }).launch (acc.results v) with pc := x.pc + 1 }

/-- What a long store leaves alone. -/
theorem State.longStore_keeps (hs : s.Sound) {t : LongTarget} : (s.longStore e t w v).engines = s.engines ∧
    (s.longStore e t w v).hostWin = s.hostWin ∧ (s.longStore e t w v).arbLast = s.arbLast ∧
    (s.longStore e t w v).engState e = s.engState e := by
  cases t with
  | shared o => exact ⟨rfl, rfl, rfl, rfl⟩
  | window n o =>
    unfold State.longStore
    dsimp only
    split
    · unfold State.windowStore
      dsimp only
      split <;> exact ⟨rfl, rfl, rfl, rfl⟩
    · refine ⟨rfl, rfl, rfl, congrArg EngState.ofCode ?_⟩
      exact ((State.Keeps.refl hs).setBit (Fld.clear_stat Fld.ENG_STAT_STATE Fld.ENG_STAT_WREJ)).fld

theorem State.granted_keeps (hs : s.Sound) {acc : LongAcc} : (s.granted e acc).engines = s.engines ∧
    (s.granted e acc).hostWin = s.hostWin ∧ (s.granted e acc).engState e = s.engState e ∧
    (s.granted e acc).arbLast = (match acc.target with | .shared _ => e | .window _ _ => s.arbLast) := by
  obtain ⟨target, width, kind, ptr, waited⟩ := acc
  cases kind with
  | store w =>
    obtain ⟨heng, hwin, harb, hst⟩ := State.longStore_keeps (e := e) (w := width) (v := w) hs (t := target)
    cases target with
    | shared o => exact ⟨heng, hwin, hst, rfl⟩
    | window n o => exact ⟨heng, hwin, hst, harb⟩
  | _ => cases target <;> exact ⟨rfl, rfl, rfl, rfl⟩

theorem Engine.passes_handler {x : Engine} {n : Nat} : (x.passes n).handler = x.handler := by
  induction n generalizing x with
  | zero => rfl
  | succ n ih => rw [Engine.passes, ih, Engine.pass_handler]

theorem Engine.passes_declared {x : Engine} {n : Nat} {k : EvKind} : (x.passes n).declared_ k = x.declared_ k := by
  induction n generalizing x with
  | zero => rfl
  | succ n ih => rw [Engine.passes, ih, Engine.pass_declared]

theorem Engine.passes_used {x : Engine} {n : Nat} {k : EvKind} (hk : x.handler = some k) : (x.passes n).used = x.used + n := by
  induction n generalizing x with
  | zero => rfl
  | succ n ih =>
    have hpass : x.pass.used = x.used + 1 := by simp [Engine.pass, hk]
    rw [Engine.passes, ih (Engine.pass_handler.trans hk), hpass]
    omega

theorem State.hostTurn_nil (h : s.hostWin = []) : s.hostTurn = s := by
  rw [State.hostTurn, h]
  rfl

/-- LONG_ACCESS_GRANT, where the limiter does not stop the engine and the host waits for nothing. -/
theorem exec_grant {acc : LongAcc} (hs : s.Sound) (hlong : (s.eng e).long = some acc) (hw : w ≤ acc.maxWait - acc.waited)
    (hl : ∀ k, (s.eng e).handler = some k → (s.eng e).used + w + (acc.holdSteps + 1) < (s.eng e).declared_ k)
    (hruns : s.engRuns e = true) (hswitch : s.switching e = false) (hturn : s.arbTurn e = true) (hwin : s.hostWin = []) :
    exec (.longAccessGrant e w) s =
      .next (((s.setEng e ((s.eng e).passes w)).granted e acc).setEng e
        ((((s.eng e).passes w).granted acc (s.longLoad acc.target acc.width)).passes (acc.holdSteps + 1))) := by
  have hwait : Nat.min w (acc.maxWait - acc.waited) = w := Nat.min_eq_left hw
  have hsteps : s.steps e (s.eng e).pc w = s.setEng e ((s.eng e).passes w) := by
    have h := State.steps_many (s := s) (e := e) (y := s.eng e) (pc := (s.eng e).pc) (n := w) hruns fun k hk => by
      have := hl k hk
      omega
    rwa [State.setEng_eng] at h
  set y := (s.eng e).passes w with hy
  have hsound : (s.setEng e y).Sound := by rw [← hsteps]; exact hs.steps
  obtain ⟨heng, hwin', hst, -⟩ := State.granted_keeps (e := e) hsound (acc := acc)
  have hruns' : ((s.setEng e y).granted e acc).engRuns e = true := by rw [State.engRuns, hst]; exact hruns
  have hl' : ∀ k v, (y.granted acc v).handler = some k →
      (y.granted acc v).used + (acc.holdSteps + 1) < (y.granted acc v).declared_ k := fun k v hk => by
    have hk' : (s.eng e).handler = some k := Engine.passes_handler.symm.trans hk
    show y.used + (acc.holdSteps + 1) < y.declared_ k
    rw [hy, Engine.passes_used hk', Engine.passes_declared]
    exact hl k hk'
  have hdone : ∀ pc v, ((((s.setEng e y).granted e acc).setEng e (y.granted acc v)).steps e pc (acc.holdSteps + 1)).hostTurn =
      ((s.setEng e y).granted e acc).setEng e ((y.granted acc v).passes (acc.holdSteps + 1)) := fun pc v => by
    rw [State.steps_many hruns' fun k hk => hl' k v hk]
    exact State.hostTurn_nil (hwin'.trans hwin)
  refine congrArg Host.Outcome.next ?_
  rw [if_neg (by simp [hruns, hswitch, hturn]), hlong]
  dsimp only
  rw [hwait, hsteps, if_neg (by rw [State.engRuns_setEng, hruns]; simp)]
  refine Eq.trans ?_ (hdone y.pc (s.longLoad acc.target acc.width))
  have hgrant : ∀ u : State, u.engines = (s.setEng e y).engines → u.eng e = y := fun u hu => by
    rw [State.eng, hu]
    exact State.eng_setEng_same s e y
  obtain ⟨target, width, kind, ptr, waited⟩ := acc
  cases kind with
  | store w' =>
    have hstored := hgrant _ (State.longStore_keeps (e := e) (w := width) (v := w') hsound (t := target)).1
    dsimp only
    rw [hstored, State.eng_setEng_same]
    cases target <;> rfl
  | _ =>
    dsimp only
    rw [State.eng_setEng_same]
    cases target <;> rfl

/-! ## What a granted access leaves -/

theorem Engine.passes_last {x : Engine} {n : Nat} : x.passes (n + 1) = (x.passes n).pass := by
  induction n generalizing x with
  | zero => rfl
  | succ n ih => rw [Engine.passes, ih, Engine.passes]

/-- Steps in which nothing is due: the step counts and the slot. -/
theorem Engine.passes_idle {x : Engine} {n : Nat} (hq : ∀ f ∈ x.flights, x.step + n ≤ f.due) (hl : x.long = none) :
    ∃ u h wt, x.passes n = { x with step := x.step + n, used := u, held := h, waitPc := wt } := by
  induction n generalizing x with
  | zero => exact ⟨x.used, x.held, x.waitPc, rfl⟩
  | succ n ih =>
    have htick : x.pass = x.tickStep := Engine.pass_quiet fun f hf => by have := hq f hf; omega
    obtain ⟨u, h, wt, heq⟩ := ih (x := x.tickStep) (fun f hf => by have := hq f hf; show x.step + 1 + n ≤ f.due; omega)
      (by simp [Engine.tickStep, hl])
    refine ⟨u, h, wt, ?_⟩
    rw [Engine.passes, htick, heq]
    simp [Engine.tickStep, hl]
    omega

/-- The access is a store. -/
def LongAcc.isStore (acc : LongAcc) : Bool :=
  match acc.kind with
  | .store _ => true
  | _ => false

/-- The steps from the grant on (R63). -/
theorem LongAcc.holdSteps_eq (acc : LongAcc) :
    (if acc.isStore then (if acc.width = 8 then 3 else 2) else (if acc.width = 8 then 4 else 3)) = acc.holdSteps + 1 := by
  obtain ⟨target, width, kind, ptr, waited⟩ := acc
  by_cases hw : width = 8 <;> cases kind <;> simp [LongAcc.isStore, LongAcc.holdSteps, hw]

/-- The worst case of Table 11. -/
theorem LongAcc.maxWait_eq (acc : LongAcc) :
    (if acc.isStore && acc.width != 8 then 36 else if !acc.isStore && acc.width == 8 then 44 else 40) =
      acc.maxWait + (acc.holdSteps + 1) := by
  obtain ⟨target, width, kind, ptr, waited⟩ := acc
  by_cases hw : width = 8 <;> cases kind <;> simp [LongAcc.isStore, LongAcc.holdSteps, LongAcc.maxWait, hw]

/-- The engine with its slot free at the next word after `n` steps. -/
def Engine.resumed (x : Engine) (n u h : Nat) (wt : Option (BitVec 12)) : Engine :=
  { x with long := none, flights := [], pc := x.pc + 1, step := x.step + n, used := u, held := h, waitPc := wt }

theorem LongAcc.dest_inBank {acc : LongAcc} {d : EngDest} (hd : acc.dest v = some d) : d.inBank = true := by
  obtain ⟨target, width, kind, ptr, waited⟩ := acc
  cases kind <;> simp only [LongAcc.dest, Option.some.injEq, reduceCtorEq] at hd <;> subst hd <;> rfl

/-- Pointer and data land in the bank in use at the end of the last step. -/
theorem LongAcc.results_due (acc : LongAcc) (v : Nat) (r : Res_) (hr : r ∈ acc.results v) :
    r.lat = acc.holdSteps + 1 ∧ r.dest.inBank = true := by
  rcases List.mem_append.mp hr with hp | hd
  · split at hp
    · rw [List.mem_singleton.mp hp]
      exact ⟨rfl, rfl⟩
    · simp at hp
  · split at hd
    · rename_i d hdest
      rw [List.mem_singleton.mp hd]
      exact ⟨rfl, LongAcc.dest_inBank hdest⟩
    · simp at hd

/-- All results of a granted access land in its last step. -/
theorem Engine.granted_passes {x : Engine} {acc : LongAcc} (hfl : x.flights = []) : ∃ u h wt,
    (x.granted acc v).passes (acc.holdSteps + 1) =
      (x.resumed (acc.holdSteps + 1) u h wt).onCur (settle ((acc.results v).map x.fly)) := by
  have hland : ∀ f ∈ (acc.results v).map x.fly, f.due = x.step + acc.holdSteps ∧ f.bank1 = x.handler.isSome ∧ f.dest.inBank = true :=
    fun f hf => by
      obtain ⟨r, hr, rfl⟩ := List.mem_map.mp hf
      obtain ⟨hl, hb⟩ := acc.results_due v r hr
      exact ⟨by show x.step + r.lat - 1 = _; omega, rfl, hb⟩
  have hflights : (x.granted acc v).flights = (acc.results v).map x.fly := by
    show x.flights ++ _ = _
    rw [hfl]
    rfl
  obtain ⟨u, h, wt, hidle⟩ := Engine.passes_idle (x := x.granted acc v) (n := acc.holdSteps)
    (fun f hf => by rw [hflights] at hf; exact (hland f hf).1.ge) rfl
  have hlast : (((x.resumed acc.holdSteps u h wt).withFlights ([] ++ (acc.results v).map x.fly)).land) =
      (x.resumed acc.holdSteps u h wt).onCur (settle ((acc.results v).map x.fly)) :=
    Engine.land_now (x := x.resumed acc.holdSteps u h wt) (by simp [Engine.resumed]) fun f hf =>
      ⟨(hland f hf).1.le, (hland f hf).2⟩
  refine ⟨if x.handler.isSome then u + 1 else u, h - 1, if h ≤ 1 then none else wt, ?_⟩
  have hform : { x.granted acc v with step := (x.granted acc v).step + acc.holdSteps, used := u, held := h, waitPc := wt } =
      (x.resumed acc.holdSteps u h wt).withFlights ([] ++ (acc.results v).map x.fly) := by
    rw [List.nil_append, ← hflights]
    rfl
  rw [Engine.passes_last, hidle, Engine.pass_eq, hform, hlast]
  unfold Engine.onCur Engine.resumed
  by_cases hx : x.handler.isSome = true <;> simp [hx, Engine.tickStep, Nat.add_assoc]

theorem Engine.cur_onCur (x : Engine) (f : EngBank → EngBank) : (x.onCur f).cur = f x.cur := by
  unfold Engine.onCur Engine.cur
  by_cases hx : x.handler.isSome = true <;> simp [hx]

/-- The pointer is written before the data. -/
theorem settle_results (x : Engine) (acc : LongAcc) (b : EngBank) : settle ((acc.results v).map x.fly) b =
    (acc.dest v).elim id EngDest.put (acc.ptr.elim b fun pw => b.putP pw.1 pw.2) := by
  cases hp : acc.ptr with
  | none =>
    cases hd : acc.dest v with
    | none => simp [LongAcc.results, hp, hd, settle]
    | some d =>
      simp only [LongAcc.results, hp, hd]
      exact EngBank.stick_none _
  | some pw =>
    cases hd : acc.dest v with
    | none =>
      simp only [LongAcc.results, hp, hd]
      exact EngBank.stick_none _
    | some d =>
      simp only [LongAcc.results, hp, hd]
      exact (EngBank.stick_none _).trans (EngBank.stick_none _)

theorem Engine.passes_landed {x : Engine} {n : Nat} (hfl : x.flights = []) : (x.passes n).flights = [] := by
  cases n with
  | zero => exact hfl
  | succ n => rw [Engine.passes_flights (by omega), hfl, List.filter_nil]

theorem Engine.sound_passes {x : Engine} {n : Nat} (hx : x.sound = true) : (x.passes n).sound = true := by
  induction n generalizing x with
  | zero => exact hx
  | succ n ih => exact ih (State.Sound.Engine_pass hx)

theorem Engine.resumed_onCur (x : Engine) (f : EngBank → EngBank) (n u h : Nat) (wt : Option (BitVec 12)) :
    ((x.resumed n u h wt).onCur f).long = none ∧ ((x.resumed n u h wt).onCur f).flights = [] ∧
    ((x.resumed n u h wt).onCur f).pc = x.pc + 1 ∧ ((x.resumed n u h wt).onCur f).step = x.step + n := by
  unfold Engine.onCur
  split <;> exact ⟨rfl, rfl, rfl, rfl⟩

/-- A load changes no memory. -/
theorem State.granted_load {acc : LongAcc} (h : acc.isStore = false) : ∃ b, s.granted e acc = { s with arbLast := b } := by
  obtain ⟨target, width, kind, ptr, waited⟩ := acc
  cases kind with
  | store => simp [LongAcc.isStore] at h
  | _ =>
    cases target
    · exact ⟨e, rfl⟩
    · exact ⟨s.arbLast, rfl⟩

/-- A store to shared memory changes its bytes only. -/
theorem State.granted_store {acc : LongAcc} {o : Nat} (hk : acc.kind = .store v) (ht : acc.target = .shared o) :
    s.granted e acc = { s with shmem := Mem.store s.shmem o acc.width v, arbLast := e } := by
  rw [State.granted, hk, ht]
  rfl

/-- The register that a granted load writes. -/
theorem LongAcc.dest_put (acc : LongAcc) (b : EngBank) :
    (∀ d, acc.kind = .ldh d → ((acc.dest v).elim id EngDest.put b).h[d] = BitVec.ofNat 16 v) ∧
    (∀ d, acc.kind = .ldp d → ((acc.dest v).elim id EngDest.put b).p[d] = BitVec.ofNat 16 v) ∧
    (∀ d, acc.kind = .ldf d → ((acc.dest v).elim id EngDest.put b).f[d] = BitVec.ofNat 32 v) ∧
    (∀ d, acc.kind = .lda d → ((acc.dest v).elim id EngDest.put b).a[d] = BitVec.ofNat 40 v) := by
  refine ⟨fun d hd => ?_, fun d hd => ?_, fun d hd => ?_, fun d hd => ?_⟩ <;> simp only [LongAcc.dest, hd] <;>
    exact Vector.getElem_set_self ..

/-- A data register other than the pointer leaves the pointer. -/
theorem LongAcc.dest_keeps_ptr (acc : LongAcc) (b : EngBank) {q : PReg} (hq : acc.kind ≠ .ldp q) :
    ((acc.dest v).elim id EngDest.put b).p[q] = b.p[q] := by
  cases hk : acc.kind with
  | ldp d =>
    have hne : d.val ≠ q.val := fun h => hq (by rw [hk, Fin.ext h])
    simp only [LongAcc.dest, hk]
    exact Vector.getElem_set_ne d.isLt q.isLt hne
  | _ =>
    simp only [LongAcc.dest, hk]
    rfl

end Sys2Proof.Machine

open Sys2Proof Sys2Proof.Machine

/-- Settles O10: the access decides the fault; a grant after its wait passes the steps that the access holds and lands its results in the
last one. -/
theorem accessFaultsAndLongAccesses : Obligations.AccessFaultsAndLongAccesses := by
  refine ⟨fun s e h f a p m hs hr => ?faults, fun s e h m hs => ?long⟩
  case faults =>
    intro x ea past stops both
    have hpast : ∀ w, past w ↔ s.Past e (s.ea e m) w := fun w => by
      unfold State.Past State.OutOfRange
      simp only [or_assoc]
      rfl
    have hstops : ∀ {c : Instr} {f : EngFault}, exec c s = .next (s.engineFault e f x.pc) → stops c f.code := fun hc => by
      obtain ⟨hst, hf, hpc, hbg⟩ := State.engineFault_stat (e := e) (c := _) (pc := x.pc) hs
      obtain ⟨hfl, hb0, hb1, hd⟩ := State.engineFault_eng (s := s) (e := e) (c := _) (pc := x.pc)
      obtain ⟨hframe, hothers⟩ := State.engineFault_frame (s := s) (e := e) (c := _) (pc := x.pc)
      exact ⟨_, hc, hst, hf, hpc, hbg, hfl, hb0, hb1, hd, hframe, fun e' he => (hothers e' he)⟩
    have hload : ∀ {c : Instr} {w : Nat} {k : LongKind} {mk : Nat → EngDest}, exec c s = .next (s.loadIns e m w k mk) → both c w :=
      fun hc => ⟨fun hp => hstops (f := .addr) (hc.trans (congrArg _ (State.loadIns_past hr ((hpast _).mp hp)))),
        fun hp hal => hstops (f := .align) (hc.trans (congrArg _ (State.loadIns_misaligned hr (fun h => hp ((hpast _).mpr h)) hal)))⟩
    have hstore : ∀ {c : Instr} {w : Nat} {val : EngBank → Nat}, exec c s = .next (s.storeIns e m w val) → both c w :=
      fun hc => ⟨fun hp => hstops (f := .addr) (hc.trans (congrArg _ (State.storeIns_past hr ((hpast _).mp hp)))),
        fun hp hal => hstops (f := .align) (hc.trans (congrArg _ (State.storeIns_misaligned hr (fun h => hp ((hpast _).mpr h)) hal)))⟩
    exact ⟨hload rfl, hload rfl, hload rfl, hload rfl, hstore rfl, hstore rfl, hstore rfl, hstore rfl⟩
  case long =>
    intro x ep ea at_
    refine ⟨fun hr hrpt ha hal => ⟨?_, ?_⟩, fun w hruns hturn => ?_, fun a w hlong => ?_⟩
    · have hacc : s.access e ea 2 = .long (.shared at_) := State.access_shared ha (by have := ep.1.isLt; omega) hal
      refine congrArg _ (State.issue_waits hr hrpt ?_)
      dsimp only
      rw [if_neg (by rw [show (s.eng e).rpt = none from hrpt]; simp)]
      rw [hacc]
    · have hacc : s.access e ea 2 = .long (.shared at_) := State.access_shared ha (by have := ep.1.isLt; omega) hal
      refine congrArg _ (State.issue_waits hr hrpt ?_)
      dsimp only
      rw [if_neg (by rw [show (s.eng e).rpt = none from hrpt]; simp), AccessTo.forStore, hacc]
    · refine congrArg _ (if_pos ?_)
      rcases hturn with h | h <;> simp [h]
    · intro store n worst hwait hlim hfl hruns hswitch hturn hwin
      have hn : n = a.holdSteps + 1 := a.holdSteps_eq
      have hworst : worst = a.maxWait + (a.holdSteps + 1) := a.maxWait_eq
      have hmax : w ≤ a.maxWait - a.waited := by omega
      have hexec := exec_grant hs hlong hmax (fun k hk => by rw [← hn]; exact hlim k hk) hruns hswitch hturn hwin
      have hfl' : (x.passes w).flights = [] := Engine.passes_landed hfl
      obtain ⟨u, hh, wt, hfin⟩ := Engine.granted_passes (v := s.longLoad a.target a.width) (acc := a) hfl'
      rw [hfin] at hexec
      have hsound : (s.setEng e (x.passes w)).Sound := hs.setEng fun _ => Engine.sound_passes (hs.eng e)
      obtain ⟨heng, hwin', hst, harb⟩ := State.granted_keeps (e := e) hsound (acc := a)
      obtain ⟨flong, fflights, fpc, fstep⟩ := (x.passes w).resumed_onCur
        (settle ((a.results (s.longLoad a.target a.width)).map (x.passes w).fly)) (a.holdSteps + 1) u hh wt
      refine ⟨_, hexec, ?_⟩
      rw [State.eng_setEng_same, Engine.cur_onCur, settle_results]
      refine ⟨flong, ?_, ?_, fflights, fun e' he => ?_, fun q v hptr hkind => ?_, harb, fun hstore => ⟨?_, fun val hval => ?_⟩,
        fun v o hk ht => ?_⟩
      · rw [fstep, Engine.passes_step, hn]
      · rw [fpc, Engine.passes_pc]
      · rw [State.eng_setEng_ne _ _ _ he, State.eng, heng]
        exact State.eng_setEng_ne _ _ _ he
      · rw [LongAcc.dest_keeps_ptr a _ hkind, hptr]
        exact Vector.getElem_set_self ..
      · obtain ⟨b, hb⟩ := State.granted_load (s := s.setEng e (x.passes w)) (e := e) (acc := a) hstore
        rw [hb]
        rfl
      · have hv : s.longLoad a.target a.width = val := by
          rw [hval]
          cases ht : a.target <;> exact Mem.load_eq_leNat ..
        rw [hv]
        exact LongAcc.dest_put a _
      · rw [State.granted_store hk ht]
        exact ⟨rfl, fun i hi => Mem.byte_store hs.shmem hi, fun j hj => Mem.byte_store_ne hj⟩
end

section
set_option Elab.async false
/-! PROOF. Landing, the step limiter and the raise of an event (02_engines.md R70, R72, R74, R85, R91). -/

namespace Sys2Proof.Machine

variable {s : State} {e : EngId} {x : Engine} {n : Nat} {k : EvKind}

/-! ## Landing -/

/-- Steps in which nothing is due leave the banks. -/
theorem Engine.passes_banks (hq : ∀ f ∈ x.flights, x.step + n ≤ f.due) :
    (x.passes n).bank0 = x.bank0 ∧ (x.passes n).bank1 = x.bank1 ∧ (x.passes n).flights = x.flights := by
  induction n generalizing x with
  | zero => exact ⟨rfl, rfl, rfl⟩
  | succ n ih =>
    have htick : x.pass = x.tickStep := Engine.pass_quiet fun f hf => by have := hq f hf; omega
    rw [Engine.passes, htick]
    exact ih (x := x.tickStep) fun f hf => by have := hq f hf; show x.step + 1 + n ≤ f.due; omega

/-- A value of an H register lands in the bank of its flight. -/
theorem Engine.land_one {f : Flight} {i : HReg} {v : BitVec 16} (hfl : x.flights = [f]) (hdue : f.due ≤ x.step)
    (hd : f.dest = .h i v) (hb : f.bank1 = false) : x.land.bank0.h[i] = v ∧ x.land.bank1 = x.bank1 := by
  have hin : [f].filter (fun f => decide (f.due ≤ x.step)) = [f] := by simp [hdue]
  unfold Engine.land
  dsimp only
  rw [hfl, hin]
  cases hc : f.cond with
  | none => simp [hc, hd, hb, Engine.write, Engine.setSticky]
  | some c => simp [hc, hd, hb, Engine.write, Engine.writeCond, Engine.setSticky]

/-! ## The limiter -/

/-- The steps of a handler end with the fault LIMIT when it has used its declared count (R85). -/
theorem State.steps_limit {y : Engine} {pc : BitVec 12} (hr : s.engRuns e = true) (hk : y.handler = some k)
    (hl : y.declared_ k = y.used + n + 1) : (s.setEng e y).steps e pc (n + 1) = (s.setEng e (y.passes n)).engineFault e .limit pc := by
  induction n generalizing y with
  | zero =>
    have hlim : y.limited = true := by
      unfold Engine.limited
      rw [hk]
      exact decide_eq_true hl.le
    simp only [State.steps, State.endStep, State.eng_setEng_same, hlim, if_true, ite_self]
    rfl
  | succ n ih =>
    have hlim : y.limited = false := Engine.not_limited (n := n + 1)
      (fun j hj => by rw [← Option.some.inj (hk.symm.trans hj)]; omega) (by omega)
    have hused : y.pass.used = y.used + 1 := by simp [Engine.pass, hk]
    rw [State.steps, State.endStep, State.eng_setEng_same, hlim]
    simp only [Bool.false_eq_true, if_false, State.setEng_setEng, State.engRuns_setEng, hr, if_true]
    exact ih (Engine.pass_handler.trans hk) (by rw [Engine.pass_declared, hused]; omega)

/-- The kind of event whose handler a fault stopped. -/
theorem State.engineFault_ev {c : EngFault} {pc : BitVec 12} (hs : s.Sound) (hk : (s.eng e).handler = some k) :
    (s.engineFault e c pc).fld Fld.ENG_STAT_FAULT_EV e.val = k.code := by
  have ht : (s.engineFault e c pc).Sound := hs.engineFault
  have hcode : k.code < 2 ^ Fld.ENG_STAT_FAULT_EV.width := by cases k <;> decide
  let s1 := s.setFld Fld.ENG_STAT_FAULT e.val c.code
  let s2 := s1.setFld Fld.ENG_STAT_FAULT_EV e.val (match (s.eng e).handler with | some k => k.code | none => 0)
  have h1 : s1.Sound := hs.setFld
  have h2 : s2.Sound := h1.setFld
  have hset : s2.fld Fld.ENG_STAT_FAULT_EV e.val = k.code := by
    simp only [s2, hk]
    exact State.fld_setFld_eq h1 (by decide) hcode
  have hkeeps : State.Keeps Fld.ENG_STAT_FAULT_EV e.val s2 (s.engineFault e c pc) :=
    (((((State.Keeps.refl h2).setBit (Fld.clear_stat _ _)).setFld (Fld.clear_stat _ _)).setBit
      (Fld.clear_stat _ _)).setFld (Fld.clear_stat _ Fld.ENG_STAT_STATE)).of_regs ht rfl
  exact hkeeps.fld.trans hset

/-! ## The raise of an event -/

/-- The engine after a raise that counts. -/
def Engine.raised_ (x : Engine) (k : EvKind) (src : BitVec 16) (upd : PortBlock → PortBlock) : Engine :=
  { x with pend := if x.pend.contains k then x.pend else x.pend ++ [k],
           faultSrc := if k = .fault then x.faultSrc ||| src else x.faultSrc,
           raised := if x.raised.contains k then x.raised else x.raised ++ [k],
           port := upd x.port }

/-- A raise of a kind that has not been raised and taken in the period. -/
theorem State.raiseEvent_fresh {src : BitVec 16} {upd : PortBlock → PortBlock} (ht : s.takesEvent e k = true)
    (ha : ¬ (k ∈ (s.eng e).raised ∧ k ∉ (s.eng e).pend)) : s.raiseEvent e k src upd =
      (if (s.eng e).pend.contains k then s.countSat (evMergeFld k) e.val else s).setEng e ((s.eng e).raised_ k src upd) := by
  have hagain : ¬ (k = .fault ∧ (s.eng e).raised.contains k ∧ ¬ (s.eng e).pend.contains k) := by
    simpa only [List.contains_iff_mem] using fun h => ha h.2
  unfold State.raiseEvent
  dsimp only
  rw [if_neg (by rw [ht]; simp), if_neg hagain]
  rfl

theorem State.takesEvent_iff : s.takesEvent e k = true ↔
    (s.engState e = .running ∨ s.engState e = .standby) ∧ (s.eng e).declared_ k ≠ 0 := by
  simp [State.takesEvent, State.engRuns]

end Sys2Proof.Machine

open Sys2Proof Sys2Proof.Machine

/-- Settles O12: quiet steps up to the landing, the limiter in the last step that the count allows, and the cases of a raise. -/
theorem landingLimitAndEvents : Obligations.LandingLimitAndEvents := by
  refine ⟨fun s e hs hruns => ?steps, fun s e k src hs => ?raise⟩
  case steps =>
    intro x
    refine ⟨fun f hfl hle hlim => ?_, fun k hk hused => ?_⟩
    · have hnext : x.nextDue = some f.due := by rw [Engine.nextDue, hfl]; rfl
      have hq : ∀ g ∈ x.flights, x.step + (f.due - x.step) ≤ g.due := fun g hg => by
        rw [hfl, List.mem_singleton] at hg
        rw [hg]
        omega
      obtain ⟨hb0, hb1, hfls⟩ := Engine.passes_banks hq
      have hsteps : s.steps e x.pc (f.due - x.step + 1) = s.setEng e (x.passes (f.due - x.step + 1)) := by
        have h := State.steps_many (y := x) (pc := x.pc) hruns hlim
        rwa [State.setEng_eng] at h
      refine ⟨_, congrArg Host.Outcome.next (?_ : _ = s.setEng e (x.passes (f.due - x.step + 1))), ?_⟩
      · rw [if_neg (by rw [hruns]; simp), show (s.eng e).nextDue = some f.due from hnext]
        exact hsteps
      · rw [State.eng_setEng_same]
        refine ⟨rfl, ?_, ?_, Engine.passes_pc, fun i v hd hb => ?_⟩
        · rw [Engine.passes_flights (by omega), hfl, List.filter_eq_nil_iff.mpr]
          simp
          omega
        · rw [Engine.passes_step]
          omega
        · have hlanded := Engine.land_one (hfls.trans hfl) (by rw [Engine.passes_step]; omega) hd hb
          rw [Engine.passes_last]
          exact ⟨hlanded.1, hlanded.2.trans hb1⟩
    · obtain ⟨n, hn⟩ : ∃ n, x.declared_ k = x.used + n + 1 := ⟨x.declared_ k - x.used - 1, by omega⟩
      have hsteps : s.steps e x.pc (x.declared_ k - x.used) = (s.setEng e (x.passes n)).engineFault e .limit x.pc := by
        have h := State.steps_limit (y := x) (pc := x.pc) hruns hk hn
        rw [State.setEng_eng] at h
        rw [← h]
        congr 1
        omega
      have hsound : (s.setEng e (x.passes n)).Sound := hs.setEng fun _ => Engine.sound_passes (hs.eng e)
      have hk' : ((s.setEng e (x.passes n)).eng e).handler = some k := by
        rw [State.eng_setEng_same, Engine.passes_handler]
        exact hk
      obtain ⟨hst, hf, hpc, -⟩ := State.engineFault_stat (e := e) (c := .limit) (pc := x.pc) hsound
      refine ⟨_, congrArg Host.Outcome.next (?_ : _ = (s.setEng e (x.passes n)).engineFault e .limit x.pc), hst, hf,
        State.engineFault_ev hsound hk', hpc, State.engineFault_eng.1, State.engineFault_frame.1⟩
      rw [if_neg (by rw [hruns]; simp)]
      dsimp only
      rw [show (s.eng e).handler = some k from hk]
      exact hsteps
  case raise =>
    intro x takes again
    have htakes : takes ↔ s.takesEvent e k = true := State.takesEvent_iff.symm
    have hagain : (k ≠ .fault ∧ (s.eng e).raised.contains k ∧ ¬ (s.eng e).pend.contains k) ↔ k ≠ .fault ∧ again := by
      simp only [List.contains_iff_mem]
      rfl
    refine ⟨fun hn => ?_, fun ht ha => ?_, fun ht ha => ?_⟩
    · have hno : s.takesEvent e k = false := by rw [← Bool.not_eq_true, ← htakes]; exact hn
      refine congrArg Host.Outcome.next ?_
      dsimp only
      split
      · rfl
      · rw [State.raiseEvent, hno]
        rfl
    · refine congrArg Host.Outcome.next ?_
      by_cases hk : k = .fault
      · dsimp only
        rw [if_neg fun h => h.1 hk, if_pos hk, State.raiseEvent, if_neg (by rw [htakes.mp ht]; simp)]
        exact if_pos ⟨hk, by simpa only [List.contains_iff_mem] using ha⟩
      · dsimp only
        rw [if_pos (hagain.mpr ⟨hk, ha⟩), if_neg hk]
    · refine ⟨_, congrArg Host.Outcome.next ((if_neg fun h => ha (hagain.mp h).2).trans (State.raiseEvent_fresh (htakes.mp ht) ha)), ?_⟩
      have hlsb : (evMergeFld k).lsb + (evMergeFld k).width ≤ 32 := by cases k <;> decide
      have hpos : 0 < 2 ^ (evMergeFld k).width := Nat.two_pow_pos _
      have hpend : (s.eng e).pend.contains k = true ↔ k ∈ x.pend := List.contains_iff_mem
      rw [State.eng_setEng_same]
      refine ⟨?_, fun e' he => ?_, ?_, rfl, ?_, rfl, rfl, rfl⟩
      · by_cases hp : (s.eng e).pend.contains k = true
        · rw [if_pos hp]
          rfl
        · rw [if_neg hp]
          rfl
      · rw [State.eng_setEng_ne _ _ _ he]
        split <;> rfl
      · exact if_congr hpend rfl rfl
      · by_cases hp : (s.eng e).pend.contains k = true
        · rw [if_pos hp, if_pos (hpend.mp hp)]
          exact State.fld_setFld_eq hs hlsb (by show min _ _ < _; omega)
        · rw [if_neg hp, if_neg fun h => hp (hpend.mpr h)]
          rfl
end

section
set_option Elab.async false
/-! PROOF. The delivery of a command, and the axis mailbox (02_engines.md R57; 04_axis_control.md R142; 10_descriptors.md R304, R323). -/

namespace Sys2Proof.Machine

variable {s t u : State} {n : AxId} {a : Accepted} {e : EngId}

/-! ## Delivery -/

/-- The state from which a delivered command acts: the command has left the pending table. -/
def State.without (s : State) (a : Accepted) : State := { s with accepted := s.accepted.filter fun b => b != a }

/-- A due command acts. -/
theorem State.deliver_due {src : CmdSrc} {cmd : HostCmd} {d : Nat} {f : State → Nat → State} (h : s.Due ⟨src, cmd, d⟩) :
    s.deliver src cmd f = f (s.without ⟨src, cmd, d⟩) d := by
  obtain ⟨hd, before, after, hacc, hbefore⟩ := h
  have hfind : s.accepted.find? (fun b => b.src == src && b.cmd == cmd) = some ⟨src, cmd, d⟩ := by
    rw [hacc, List.find?_append, List.find?_eq_none.mpr fun b hb => by simpa using fun h1 h2 => (hbefore b hb).2 ⟨h1, h2⟩]
    simp
  have htake : s.accepted.takeWhile (fun b => b != (⟨src, cmd, d⟩ : Accepted)) = before := by
    rw [hacc, List.takeWhile_append_of_pos fun b hb => by simpa using fun h => (hbefore b hb).2 (by rw [h]; exact ⟨rfl, rfl⟩)]
    simp
  have hfirst : (before.all fun b => b.d != d) = true := List.all_eq_true.mpr fun b hb => by simpa using (hbefore b hb).1
  simp only [State.deliver, hfind, htake, hfirst, decide_eq_true hd, Bool.and_true, if_true]
  rfl

/-- The end of a delivered command at its D, where the completions before it are untouched. -/
theorem State.ends_of {c : CompCode} {reason flags : Nat} {data : List Byte} (hc : c.final = true)
    (hacc : u.accepted = s.accepted.filter fun b => b != a) (hfuncs : u.funcs = s.funcs) :
    s.ends (u.complete a.src c reason flags data a.d) a c.code (BitVec.ofNat 8 reason) (BitVec.ofNat 8 flags) data := by
  have hfn : ∀ f, u.fn f = s.fn f := fun f => by
    rw [State.fn, hfuncs]
    rfl
  refine ⟨hacc, ?_, ?_, fun f hf => ?_⟩
  · rw [State.complete, State.fn_setFn_same, hc, hfn]
  · rw [State.complete, State.fn_setFn_same, hc, hfn]
    rfl
  · rw [State.complete, State.fn_setFn_ne _ _ _ hf, hfn]
    exact ⟨rfl, rfl⟩

/-! ## A record enters the mailbox -/

/-- The host events of an axis raise at its engines only. -/
theorem State.within_hostEvents : State.Within 0x810 s (s.hostEvents n) := State.Within.refl.hostEvents Has.self

theorem State.axState_hostEvents : (s.hostEvents n).axState n = s.axState n := by
  have hraw : (s.hostEvents n).raw (Reg.AX_STATE.addr n.val) = s.raw (Reg.AX_STATE.addr n.val) :=
    forAll_induction (P := fun u => u.raw (Reg.AX_STATE.addr n.val) = s.raw (Reg.AX_STATE.addr n.val)) rfl fun u e _ hu =>
      (State.raw_raiseFor (by simp only [Reg.addr, Reg.spec]; omega)).trans hu
  exact congrArg (fun w => AxState.ofCode (Fld.AX_STATE_STATE.get w)) hraw

/-- Stores of words leave the bytes outside them. -/
theorem Mem.byte_foldl_store_ne {l : List Nat} {m : Mem} {a j : Nat} {val : Nat → Nat}
    (h : ∀ i ∈ l, j < a + 4 * i ∨ a + 4 * i + 4 ≤ j) :
    Mem.byte (l.foldl (fun w i => Mem.store w (a + 4 * i) 4 (val i)) m) j = Mem.byte m j := by
  induction l generalizing m with
  | nil => rfl
  | cons i l ih =>
    rw [List.foldl_cons, ih fun k hk => h k (.tail _ hk)]
    exact Mem.byte_store_ne (h i (.head _))

/-- From `s` to `t` a record has entered the next mailbox slot of an axis. -/
structure State.Mailed (n : AxId) (s t : State) : Prop where
  mail : (t.ax n).mail = (s.ax n).mail
  idx : (t.ax n).mailIdx = (s.ax n).mailIdx + 1
  win : ∀ o, o < 0x100 + 32 * ((s.ax n).mailIdx % 8) ∨ 0x120 + 32 * ((s.ax n).mailIdx % 8) ≤ o →
    Mem.byte (t.ax n).win o = Mem.byte (s.ax n).win o
  coef : (t.ax n).coef = (s.ax n).coef
  state : t.axState n = s.axState n
  others : ∀ m, m ≠ n → t.ax m = s.ax m
  motion : t.mot = s.mot
  funcs : t.funcs = s.funcs
  accepted : t.accepted = s.accepted

/-- The window of an axis with a record in the next slot. -/
def State.recorded (s : State) (n : AxId) : Mem :=
  (List.range 8).foldl (fun w i => Mem.store w (0x100 + 32 * ((s.ax n).mailIdx % 8) + 4 * i) 4 (Config.freeWord (s.free + i)).toNat) (s.ax n).win

theorem State.placeRecord_eq : s.placeRecord n = State.setAx { s with free := s.free + 8 } n
    { s.ax n with win := s.recorded n, mailIdx := (s.ax n).mailIdx + 1 } := rfl

theorem State.mailed_placeRecord : State.Mailed n s (s.placeRecord n) := by
  rw [State.placeRecord_eq]
  have hwin : ∀ o, o < 0x100 + 32 * ((s.ax n).mailIdx % 8) ∨ 0x120 + 32 * ((s.ax n).mailIdx % 8) ≤ o →
      Mem.byte (s.recorded n) o = Mem.byte (s.ax n).win o := fun o ho =>
    Mem.byte_foldl_store_ne fun i hi => by have := List.mem_range.mp hi; omega
  generalize s.recorded n = w at hwin
  refine ⟨?_, ?_, ?_, ?_, rfl, fun m hm => State.ax_setAx_ne _ n _ hm, rfl, rfl, rfl⟩ <;> rw [State.ax_setAx_same]
  exact hwin

theorem State.Mailed.hostEvents (h : State.Mailed n s t) : State.Mailed n s (t.hostEvents n) := by
  have hw : State.Within 0x810 t (t.hostEvents n) := State.within_hostEvents
  have haxes : (t.hostEvents n).axes = t.axes := hw .axes (by decide)
  have hax : ∀ m, (t.hostEvents n).ax m = t.ax m := fun m => by rw [State.ax, haxes]; rfl
  have hmot : (t.hostEvents n).mot = t.mot := hw .mot (by decide)
  have hfuncs : (t.hostEvents n).funcs = t.funcs := hw .funcs (by decide)
  have hacc : (t.hostEvents n).accepted = t.accepted := hw .accepted (by decide)
  refine ⟨?_, ?_, ?_, ?_, State.axState_hostEvents.trans h.state, fun m hm => (hax m).trans (h.others m hm), hmot.trans h.motion,
    hfuncs.trans h.funcs, hacc.trans h.accepted⟩ <;> rw [hax]
  · exact h.mail
  · exact h.idx
  · exact h.win
  · exact h.coef

theorem State.mailed_mailIn {waited : Bool} : State.Mailed n s (s.mailIn n waited) := by
  unfold State.mailIn
  dsimp only
  split
  · exact State.mailed_placeRecord.hostEvents
  · exact State.mailed_placeRecord

theorem State.tellGroup_eq {m : Nat} : ∃ g, s.tellGroup m = { s with engines := g } := by
  unfold State.tellGroup
  split
  · dsimp only
    split
    · exact ⟨_, rfl⟩
    · exact ⟨s.engines, rfl⟩
  · exact ⟨s.engines, rfl⟩

theorem State.Mailed.tellGroup {m : Nat} (h : State.Mailed n s t) : State.Mailed n s (t.tellGroup m) := by
  obtain ⟨g, hg⟩ := State.tellGroup_eq (s := t) (m := m)
  rw [hg]
  exact ⟨h.mail, h.idx, h.win, h.coef, h.state, h.others, h.motion, h.funcs, h.accepted⟩

/-- From `s` to `u` a command has left the pending table, and at most the lists of records that wait for the axis have changed. -/
structure State.Listed (n : AxId) (a : Accepted) (s u : State) : Prop where
  accepted : u.accepted = s.accepted.filter fun b => b != a
  ax : ∃ l k, u.ax n = { s.ax n with mail := l, mailOther := k }
  others : ∀ m, m ≠ n → u.ax m = s.ax m
  state : u.axState n = s.axState n
  funcs : u.funcs = s.funcs

/-- The record of a delivered command has entered the mailbox. -/
theorem State.Mailed.of_listed (h : State.Mailed n u t) (hu : State.Listed n a s u) : s.taken_ t a ∧
    (t.ax n).mailIdx = (s.ax n).mailIdx + 1 ∧
    (∀ o, o < 0x100 + 32 * ((s.ax n).mailIdx % 8) ∨ 0x120 + 32 * ((s.ax n).mailIdx % 8) ≤ o →
      Mem.byte (t.ax n).win o = Mem.byte (s.ax n).win o) ∧
    t.funcs = s.funcs ∧ (t.ax n).coef = (s.ax n).coef ∧ t.axState n = s.axState n ∧ (∀ m, m ≠ n → t.ax m = s.ax m) := by
  obtain ⟨l, k, hax⟩ := hu.ax
  have hidx : (u.ax n).mailIdx = (s.ax n).mailIdx := by rw [hax]
  have hwin : (u.ax n).win = (s.ax n).win := by rw [hax]
  have hcoef : (u.ax n).coef = (s.ax n).coef := by rw [hax]
  have hkept := h.win
  rw [hidx, hwin] at hkept
  exact ⟨h.accepted.trans hu.accepted, h.idx.trans (by rw [hidx]), hkept, h.funcs.trans hu.funcs, h.coef.trans hcoef,
    h.state.trans hu.state, fun m hm => (h.others m hm).trans (hu.others m hm)⟩

/-- A record for the motion of the axis waits, and the mailbox model of admission has noted it. -/
theorem State.listed_noteOther {m : AxMot} {d : Nat} : State.Listed n a s (((s.without a).setMotion n m).noteOther n d) :=
  ⟨rfl, ⟨(s.ax n).mail, _, State.ax_setAx_same _ n _⟩, fun _ hm => State.ax_setAx_ne _ n _ hm, rfl, rfl⟩

theorem State.motion_noteOther {m : AxMot} {d : Nat} (h : t.mot = (((s.without a).setMotion n m).noteOther n d).mot) : t.motion n = m := by
  rw [State.motion, h]
  exact State.motion_setMotion_same (s := s.without a) n m

/-- A command that is cancelled or done at once leaves the rest of the state. -/
theorem State.ends_axis {c : CompCode} {flags : Nat} (hc : c.final = true) :
    s.ends ((s.without a).complete a.src c 0 flags (s.axState n).data a.d) a c.code 0 (BitVec.ofNat 8 flags)
      [BitVec.ofNat 8 (s.axState n).code] ∧
    (s.without a).complete a.src c 0 flags (s.axState n).data a.d =
      { s with accepted := ((s.without a).complete a.src c 0 flags (s.axState n).data a.d).accepted,
               funcs := ((s.without a).complete a.src c 0 flags (s.axState n).data a.d).funcs } :=
  ⟨State.ends_of hc rfl rfl, rfl⟩

end Sys2Proof.Machine

open Sys2Proof Sys2Proof.Machine

/-- Settles O24: the delivered record enters a list and the next mailbox slot, or the command ends at once. -/
theorem mailboxCommands : Obligations.MailboxCommands := by
  intro s src n id k v w x y i j h st d hs found waits ends full sc ml cf
  refine ⟨fun hd => ⟨fun hst hfull => ?_, fun hoff => ?_⟩, fun hd => ⟨fun hl hfull => ?_, fun hl hfull => ?_, fun hl => ?_⟩,
    fun hd => ⟨fun hst hfull => ?_, fun hoff => ?_⟩⟩
  · have hstay : ¬ ((decide ((s.without sc).axState n = .off) || (s.without sc).mailFull n) = true) := by
      show ¬ ((decide (s.axState n = .off) || s.mailFull n) = true)
      rw [show s.mailFull n = false from hfull, decide_eq_false hst]
      simp
    have hu : State.Listed n sc s ((s.without sc).setAx n { s.ax n with mail := (s.ax n).mail ++ [⟨src, .setCoef n id v, s.tick⟩] }) :=
      ⟨rfl, ⟨_, (s.ax n).mailOther, State.ax_setAx_same _ n _⟩, fun m hm => State.ax_setAx_ne _ n _ hm, rfl, rfl⟩
    have hm := State.mailed_mailIn (s := (s.without sc).setAx n { s.ax n with mail := (s.ax n).mail ++ [⟨src, .setCoef n id v, s.tick⟩] })
      (n := n) (waited := (s.without sc).mailWaits n)
    obtain ⟨htaken, hrest⟩ := hm.of_listed hu
    exact ⟨_, congrArg Host.Outcome.next ((State.deliver_due hd).trans (if_neg hstay)), htaken,
      hm.mail.trans (by rw [State.ax_setAx_same]), hrest⟩
  · refine ⟨_, congrArg Host.Outcome.next ((State.deliver_due hd).trans (if_pos ?_)), State.ends_axis rfl⟩
    show (decide (s.axState n = .off) || s.mailFull n) = true
    simpa using hoff
  · have hroom : ¬ (((s.without ml).motion n).limApplies && (s.without ml).mailFull n) = true := by
      show ¬ ((s.motion n).limApplies && s.mailFull n) = true
      rw [show s.mailFull n = false from hfull]
      simp
    have hm := (State.mailed_mailIn (s := ((s.without ml).setMotion n { s.motion n with
      limPend := (s.motion n).limPend ++ [⟨src, .moveLim n v w x y, s.tick⟩] }).noteOther n d) (n := n)
      (waited := (s.without ml).mailWaits n)).tellGroup (m := s.fld Fld.AX_MOTCFG_TRAJ_ENG n.val)
    obtain ⟨htaken, hrest⟩ := hm.of_listed (State.listed_noteOther (a := ml))
    exact ⟨_, congrArg Host.Outcome.next ((State.deliver_due hd).trans ((if_neg hroom).trans (if_pos hl))), htaken,
      congrArg AxMot.limPend (State.motion_noteOther hm.motion), hrest⟩
  · refine ⟨_, congrArg Host.Outcome.next ((State.deliver_due hd).trans (if_pos ?_)), State.ends_axis rfl⟩
    show ((s.motion n).limApplies && s.mailFull n) = true
    rw [hl]
    exact hfull
  · have hno : ¬ (((s.without ml).motion n).limApplies = true) := by
      show ¬ ((s.motion n).limApplies = true)
      simp [hl]
    exact ⟨_, congrArg Host.Outcome.next ((State.deliver_due hd).trans
      ((if_neg fun hb => hno (Bool.and_eq_true_iff.mp hb).1).trans (if_neg hno))), State.ends_axis rfl⟩
  · have hroom : ¬ ((s.without cf).mailFull n = true) := by
      show ¬ (s.mailFull n = true)
      rw [show s.mailFull n = false from hfull]
      simp
    have hm := State.mailed_mailIn (s := ((s.without cf).setMotion n { s.motion n with
      stepCfgPend := (s.motion n).stepCfgPend ++ [⟨src, .stepCfg n k i j h st v, s.tick⟩] }).noteOther n d) (n := n)
      (waited := (s.without cf).mailWaits n)
    obtain ⟨htaken, hrest⟩ := hm.of_listed (State.listed_noteOther (a := cf))
    exact ⟨_, congrArg Host.Outcome.next ((State.deliver_due hd).trans ((if_neg hroom).trans (if_pos hst))), htaken,
      congrArg AxMot.stepCfgPend (State.motion_noteOther hm.motion), hrest⟩
  · by_cases hf : full = true
    · exact ⟨_, congrArg Host.Outcome.next ((State.deliver_due hd).trans (if_pos hf)), State.ends_axis rfl⟩
    · have hst : ¬ ((s.without cf).axState n = .idle ∨ (s.without cf).axState n = .hold) := by
        show ¬ (s.axState n = .idle ∨ s.axState n = .hold)
        tauto
      exact ⟨_, congrArg Host.Outcome.next ((State.deliver_due hd).trans ((if_neg hf).trans (if_neg hst))), State.ends_axis rfl⟩
end

section
set_option Elab.async false
/-! PROOF. Commands to engines and to the condition monitor (02_engines.md R84, R94, R97; 08_condition.md R272, R274). -/

namespace Sys2Proof.Machine

variable {s t u : State} {n : AxId} {a : Accepted} {e : EngId}

theorem State.Sound.without (hs : s.Sound) : (s.without a).Sound := ⟨hs.regs, hs.force, hs.shmem, hs.engines, hs.axes, hs.slots⟩

/-! ## Engines -/

/-- The engine that an image is being copied into, zeroed first unless it is clean (R94). -/
def State.copied (s : State) (e : EngId) (src : Option CmdSrc) (image : List Byte) : Engine :=
  { (s.eng e).zero with prep := some (.copying src), copyImg := image, meterFrom := some ((s.eng e).meterFrom.getD s.tick),
                        prepDue := s.tick + (if s.engState e = .off ∨ s.engState e = .idle then 800 else 1200) }

/-- A load into an engine that is prepared for nothing else. -/
theorem State.startCopy_fresh {src : Option CmdSrc} {image : List Byte} (hp : (s.eng e).prep = none) :
    s.startCopy e src image = (s.setEng e (s.copied e src image)).setEngState e .clearing := by
  unfold State.startCopy State.copied
  by_cases hc : s.engState e = .off ∨ s.engState e = .idle <;> simp [hp, hc]

/-- The engine that starts, from ENTRY_BG. -/
def State.startedEng (s : State) (e : EngId) : Engine :=
  { s.eng e with wantStart := none, runFrom := s.tick + 4,
                 pc := match (s.eng e).image with | some h => BitVec.ofNat 12 h.entryBg | none => 0 }

theorem State.copied_sound {src : Option CmdSrc} {image : List Byte} : (s.copied e src image).sound = true := rfl

/-- A change of the state of an engine shows in ENG_STAT.STATE only. -/
theorem State.onlyBits_setEngState {st : EngState} (hs : u.Sound) (hr : u.regs = s.regs) :
    s.onlyBits (u.setEngState e st) [Fld.ENG_STAT_STATE.spot e.val] :=
  (State.onlyBits.refl.of_regs hr).setFld hs (List.mem_singleton.mpr rfl)

theorem State.engState_setEngState {st : EngState} (hs : s.Sound) : (s.setEngState e st).engState e = st := by
  have hcode : st.code < 2 ^ Fld.ENG_STAT_STATE.width := by cases st <;> decide
  have hst : EngState.ofCode st.code = st := by cases st <;> rfl
  exact (congrArg EngState.ofCode (State.fld_setFld_eq hs (by decide) hcode)).trans hst

/-! ## Monitoring -/

/-- The registers of an axis after a configuration of its monitor. -/
def State.monActive (s : State) (n : AxId) (m : AxMon) (enable monEng : BitVec 8) : State :=
  let s := (s.setMoni n m).setBit Fld.AX_MONSTAT_ACTIVE n.val (decide (enable = 1))
  if enable = 1 then s.setFld Fld.AX_MONSTAT_MON_ENG n.val (monEng.toNat % 64) else s

variable {m : AxMon} {en eng : BitVec 8}

theorem State.monActive_regsOnly : State.RegsOnly (s.setMoni n m) (s.monActive n m en eng).refreshMonEng := by
  have hstart : State.RegsOnly (s.setMoni n m) (s.setMoni n m) := ⟨s.regs, rfl⟩
  have hact : State.RegsOnly (s.setMoni n m) (s.monActive n m en eng) := by
    unfold State.monActive
    dsimp only
    split
    · exact hstart.setBit.setFld
    · exact hstart.setBit
  exact hact.setFld.setFld

/-- A configuration changes the monitor of the axis, its registers and at most one engine. -/
theorem State.monConfigured_eq : ∃ r g, (s.monActive n m en eng).refreshMonEng.tellGroup eng.toNat =
    { s.setMoni n m with regs := r, engines := g } ∧ r = (s.monActive n m en eng).refreshMonEng.regs := by
  obtain ⟨g, hg⟩ := State.tellGroup_eq (m := eng.toNat) (s := (s.monActive n m en eng).refreshMonEng)
  obtain ⟨r, hr⟩ := State.monActive_regsOnly (s := s) (n := n) (m := m) (en := en) (eng := eng)
  rw [hr] at hg ⊢
  exact ⟨r, g, hg, rfl⟩

/-- The registers of an axis are none of GLB_MON_ENG. -/
theorem State.Keeps.refreshMonEng {f : Fld} (hf : 0x40000 ≤ f.reg.spec.base ∧ f.reg.spec.base < 0x41000) (h : State.Keeps f n.val s t) :
    State.Keeps f n.val s t.refreshMonEng := by
  have hpage : 0x40000 ≤ f.reg.addr n.val := by
    rw [(Reg.paged_axis hf).addr_eq]
    omega
  have hlo : Reg.GLB_MON_ENG_LO.addr 0 < 0x40000 := by decide
  have hhi : Reg.GLB_MON_ENG_HI.addr 0 < 0x40000 := by decide
  refine (h.setFld (.inl ?_)).setFld (.inl ?_)
  · exact (hlo.trans_le hpage).ne'
  · exact (hhi.trans_le hpage).ne'

/-- A configuration of the monitor keeps the state of its axis. -/
theorem State.monActive_axState (hs : s.Sound) : (s.monActive n m en eng).refreshMonEng.axState n = s.axState n := by
  have hset : State.Keeps Fld.AX_STATE_STATE n.val s (s.setMoni n m) := (State.Keeps.refl hs).of_regs hs.setMoni rfl
  have hact := hset.setBit (b := decide (en = 1)) (Fld.clear_axis (g := Fld.AX_MONSTAT_ACTIVE) (by decide) (by decide) (by decide))
  have hmon : State.Keeps Fld.AX_STATE_STATE n.val s (s.monActive n m en eng) :=
    State.Keeps.ite (hact.setFld (Fld.clear_axis (by decide) (by decide) (by decide))) hact
  exact (hmon.refreshMonEng (by decide)).axState

theorem State.monActive_bit (hs : s.Sound) :
    (s.monActive n m en eng).refreshMonEng.bit Fld.AX_MONSTAT_ACTIVE n.val = decide (en = 1) := by
  have hset : (s.setMoni n m).Sound := hs.setMoni
  have hact := State.Keeps.refl (f := Fld.AX_MONSTAT_ACTIVE) (i := n.val)
    (hset.setBit (f := Fld.AX_MONSTAT_ACTIVE) (i := n.val) (b := decide (en = 1)))
  have hmon : State.Keeps Fld.AX_MONSTAT_ACTIVE n.val _ (s.monActive n m en eng) :=
    State.Keeps.ite (hact.setFld (Fld.clear_axis (by decide) (by decide) (by decide))) hact
  exact (congrArg (· == 1) (hmon.refreshMonEng (by decide)).fld).trans (State.bit_setBit_eq hset (by decide) (by decide))

theorem State.monActive_eng (hs : s.Sound) (hen : en = 1) (heng : eng.toNat < 64) :
    (s.monActive n m en eng).refreshMonEng.fld Fld.AX_MONSTAT_MON_ENG n.val = eng.toNat := by
  have hset : ((s.setMoni n m).setBit Fld.AX_MONSTAT_ACTIVE n.val (decide (en = 1))).Sound := hs.setMoni.setBit
  have hmon : s.monActive n m en eng =
      ((s.setMoni n m).setBit Fld.AX_MONSTAT_ACTIVE n.val (decide (en = 1))).setFld Fld.AX_MONSTAT_MON_ENG n.val (eng.toNat % 64) :=
    if_pos hen
  have hlt : eng.toNat % 64 < 2 ^ Fld.AX_MONSTAT_MON_ENG.width := by show eng.toNat % 64 < 64; omega
  rw [hmon, ((State.Keeps.refl hset.setFld).refreshMonEng (by decide)).fld, State.fld_setFld_eq hset (by decide) hlt,
    Nat.mod_eq_of_lt heng]

/-- MON_CFG at its delivery: BASE is kept where the band set and NLOG are (R274). -/
def State.monWith (s : State) (n : AxId) (src : CmdSrc) (cmd : HostCmd) (bs nl : BitVec 8) (d : Nat) : AxMon :=
  { s.moni n with cfg := some cmd, issuer := some src, cfgDt := d,
                  base := if monShape (s.moni n).cfg = none ∨ monShape (s.moni n).cfg = some (bs, nl) then (s.moni n).base else [] }

end Sys2Proof.Machine

open Sys2Proof Sys2Proof.Machine

/-- Settles O25: a load zeroes and prepares the engine, a start runs it from ENTRY_BG, and a configuration keeps BASE where its shape is kept. -/
theorem engineAndMonitorCommands : Obligations.EngineAndMonitorCommands := by
  refine ⟨fun s src m image d e hs hm hprep => ⟨fun hd => ?load, fun hd => ⟨fun hst => ?start, fun hst => ?idle⟩⟩,
    fun s src n en eng bs nl rinj lq r0 t0 d hs => ⟨fun hd => ?config, fun hd => ?baseline⟩⟩
  case load =>
    have hlt : m.toNat < 64 := hm ▸ e.isLt
    have he : (⟨m.toNat, hlt⟩ : EngId) = e := Fin.ext hm
    have hcopy : exec (.engLoad src m image) s = .next ((s.without ⟨src, .engLoad m image, d⟩).startCopy e (some src) image) := by
      refine congrArg Host.Outcome.next ((State.deliver_due hd).trans ((dif_pos hlt).trans ?_))
      rw [he]
    have hexec := hcopy.trans (congrArg Host.Outcome.next (State.startCopy_fresh (s := s.without ⟨src, .engLoad m image, d⟩) hprep))
    have hsound : ((s.without ⟨src, .engLoad m image, d⟩).setEng e ((s.without ⟨src, .engLoad m image, d⟩).copied e (some src) image)).Sound :=
      hs.without.setEng fun _ => State.copied_sound
    have heng : (((s.without ⟨src, .engLoad m image, d⟩).setEng e ((s.without ⟨src, .engLoad m image, d⟩).copied e (some src) image)).setEngState
      e .clearing).eng e = _ := State.eng_setEng_same ..
    refine ⟨_, hexec, rfl, State.engState_setEngState hsound, ?_, ?_, ?_, ?_, ?_, fun e' he' => State.eng_setEng_ne _ _ _ he', rfl,
      State.onlyBits_setEngState hsound rfl⟩ <;> rw [heng] <;> rfl
  case start =>
    have hlt : m.toNat < 64 := hm ▸ e.isLt
    have he : (⟨m.toNat, hlt⟩ : EngId) = e := Fin.ext hm
    have hp : ((s.without ⟨src, .engStart m, d⟩).eng e).prep = none := hprep
    have hl : (s.without ⟨src, .engStart m, d⟩).engState e = .loaded := hst
    have hexec : exec (.engStart src m) s = .next ((s.without ⟨src, .engStart m, d⟩).startEngine e (some src)) := by
      refine congrArg Host.Outcome.next ((State.deliver_due hd).trans ((dif_pos hlt).trans ?_))
      rw [he]
      dsimp only
      rw [hp]
      exact if_pos hl
    have hcomps : ((s.without ⟨src, .engStart m, d⟩).startEngine e (some src)).fn src.fn = _ := State.fn_setFn_same ..
    have heng : ((s.without ⟨src, .engStart m, d⟩).startEngine e (some src)).eng e = (s.without ⟨src, .engStart m, d⟩).startedEng e :=
      State.eng_setEng_same ..
    refine ⟨_, hexec, rfl, State.engState_setEngState (s := s.without ⟨src, .engStart m, d⟩) hs.without, ?_, ?_, ?_,
      fun e' he' => State.eng_setEng_ne _ _ _ he', ?_⟩
    · rw [heng]
      show (match (s.eng e).image with | some h => BitVec.ofNat 12 h.entryBg | none => 0) = _
      cases (s.eng e).image <;> rfl
    · rw [heng]
      rfl
    · rw [hcomps]
      rfl
    · exact (State.onlyBits_setEngState (s := s) (u := s.without ⟨src, .engStart m, d⟩) hs.without rfl).of_regs rfl
  case idle =>
    have hlt : m.toNat < 64 := hm ▸ e.isLt
    have he : (⟨m.toNat, hlt⟩ : EngId) = e := Fin.ext hm
    have hp : ((s.without ⟨src, .engStart m, d⟩).eng e).prep = none := hprep
    have hl : ¬ (s.without ⟨src, .engStart m, d⟩).engState e = .loaded := hst
    refine ⟨_, congrArg Host.Outcome.next ((State.deliver_due hd).trans ((dif_pos hlt).trans
      (?_ : _ = (s.without ⟨src, .engStart m, d⟩).complete src .cancelled 0 0 [] d))),
      State.ends_of (a := ⟨src, .engStart m, d⟩) rfl rfl rfl, rfl⟩
    rw [he]
    dsimp only
    rw [hp]
    exact if_neg hl
  case config =>
    let cf : Accepted := ⟨src, .monCfg n en eng bs nl rinj lq r0 t0, d⟩
    let w := s.monWith n src (.monCfg n en eng bs nl rinj lq r0 t0) bs nl d
    have hexec : exec (.monCfg src n en eng bs nl rinj lq r0 t0) s =
        .next ((((s.without cf).monActive n w en eng).refreshMonEng.tellGroup eng.toNat).doneAxis src n d) :=
      congrArg Host.Outcome.next (State.deliver_due hd)
    have hsound : (s.without cf).Sound := hs.without
    have hst := State.monActive_axState (n := n) (m := w) (en := en) (eng := eng) hsound
    have hact := State.monActive_bit (n := n) (m := w) (en := en) (eng := eng) hsound
    have heng := State.monActive_eng (n := n) (m := w) (en := en) (eng := eng) hsound
    obtain ⟨r, g, heq, hr⟩ := State.monConfigured_eq (s := s.without cf) (n := n) (m := w) (en := en) (eng := eng)
    rw [heq] at hexec
    have hdata : (State.axState { (s.without cf).setMoni n w with regs := r, engines := g } n).data = [BitVec.ofNat 8 (s.axState n).code] := by
      rw [AxState.data, show State.axState { (s.without cf).setMoni n w with regs := r, engines := g } n = s.axState n by rw [hr]; exact hst]
    have hmoni : (State.doneAxis { (s.without cf).setMoni n w with regs := r, engines := g } src n d).moni n = w :=
      State.moni_setMoni_same ..
    refine ⟨_, hexec, ?_, ?_, ?_, fun h1 h2 => ?_, fun m en' eng' rinj' lq' r' t' hcfg => ?_,
      fun m en' eng' bs' nl' rinj' lq' r' t' hcfg hne => ?_, fun m hm => State.moni_setMoni_ne _ _ _ hm⟩
    · rw [State.doneAxis, hdata]
      exact State.ends_of (a := cf) rfl rfl rfl
    · rw [hmoni]
      rfl
    · rw [hr]
      exact hact
    · rw [hr]
      exact heng h1 h2
    · rw [hmoni]
      exact if_pos (.inr (by rw [hcfg]; rfl))
    · rw [hmoni]
      refine if_neg ?_
      rw [hcfg]
      simp only [monShape, reduceCtorEq, Option.some.injEq, Prod.mk.injEq, false_or, not_and_or]
      exact hne
  case baseline =>
    let u := (s.without ⟨src, .monBaseline n, d⟩).setMoni n { s.moni n with baselines := (s.moni n).baselines ++ [(src, [])] }
    obtain ⟨g, hg⟩ := State.tellGroup_eq (s := u) (m := s.fld Fld.AX_MONSTAT_MON_ENG n.val)
    refine ⟨{ u with engines := g }, congrArg Host.Outcome.next ((State.deliver_due hd).trans hg), rfl, rfl, ?_,
      fun m hm => State.moni_setMoni_ne _ _ _ hm⟩
    exact congrArg AxMon.baselines (State.moni_setMoni_same ..)
end

section
set_option Elab.async false
/-! PROOF. What a change of the demands of an axis leaves alone (05_power_stage.md R186; 15_failover.md R440). -/

namespace Sys2Proof.Machine

variable {s t u : State} {n : AxId} {e : EngId} {a i v : Nat}

/-- What an event leaves of an engine. -/
def Engine.post (x : Engine) := (x.bank0, x.bank1, x.image, x.pc, x.axis, x.runFrom, x.castRun)

/-- A register of an engine or of an axis that no change of a demand of axis `n` writes. -/
structure OffDemand (n : AxId) (a : Nat) : Prop where
  low : 0x10000 ≤ a
  high : a < 0x100000
  merges : ∀ m : EngId, a ≠ Reg.ENG_EVSTAT.addr m.val
  bank : ∀ b : BankId, a ≠ Reg.BNK_PSTAT.addr b.val
  plug : a ≠ Reg.AX_PLUGSTAT.addr n.val
  legs : ∀ q ∈ legRegs, a ≠ q.addr n.val

/-- The update drives the legs of an axis, signals to its engines, or records: it keeps the registers off the demands, the other axes, the
fail-over, and the engine `e` but for its events. -/
structure State.Demanded (n : AxId) (e : EngId) (s t : State) : Prop where
  raw : ∀ a, OffDemand n a → t.raw a = s.raw a
  post : (t.eng e).post = (s.eng e).post
  ax : ∀ m, m ≠ n → t.ax m = s.ax m
  fo : t.fo = s.fo

theorem State.Demanded.refl : State.Demanded n e s s := ⟨fun _ _ => rfl, rfl, fun _ _ => rfl, rfl⟩

theorem State.Demanded.trans (h : State.Demanded n e s t) (h2 : State.Demanded n e t u) : State.Demanded n e s u :=
  ⟨fun a ha => (h2.raw a ha).trans (h.raw a ha), h2.post.trans h.post, fun m hm => (h2.ax m hm).trans (h.ax m hm), h2.fo.trans h.fo⟩

theorem State.Demanded.ite {c : Prop} [Decidable c] (h : c → State.Demanded n e s t) (h2 : ¬c → State.Demanded n e s u) :
    State.Demanded n e s (if c then t else u) := by
  split
  · exact h ‹_›
  · exact h2 ‹_›

/-- An update that leaves engines, axes and fail-over alone. -/
theorem State.Demanded.of_raw (h : State.Demanded n e s t) (hr : ∀ a, OffDemand n a → u.raw a = t.raw a) (he : u.engines = t.engines)
    (ha : u.axes = t.axes) (hf : u.fo = t.fo) : State.Demanded n e s u :=
  h.trans ⟨hr, by rw [State.eng, he]; rfl, fun m _ => by rw [State.ax, ha]; rfl, hf⟩

theorem State.Demanded.setAx {x : Axis} (h : State.Demanded n e s t) : State.Demanded n e s (t.setAx n x) :=
  h.trans ⟨fun _ _ => rfl, rfl, fun _ hm => State.ax_setAx_ne t n x hm, rfl⟩

theorem State.Demanded.setFld {f : Fld} (h : State.Demanded n e s t) (hf : ∀ a, OffDemand n a → a ≠ f.reg.addr i) :
    State.Demanded n e s (t.setFld f i v) := h.of_raw (fun a ha => State.raw_setWord_ne (hf a ha)) rfl rfl rfl

theorem State.Demanded.setBit {f : Fld} {b : Bool} (h : State.Demanded n e s t) (hf : ∀ a, OffDemand n a → a ≠ f.reg.addr i) :
    State.Demanded n e s (t.setBit f i b) := (h.setFld hf).of_raw (fun _ _ => rfl) rfl rfl rfl

theorem State.Demanded.event {fn : FnId} {type src detail : Nat} {data : List Byte} (h : State.Demanded n e s t) :
    State.Demanded n e s (t.event fn type src detail data) := by
  have hw : State.Within 0x80010 t (t.event fn type src detail data) := (State.Within.refl).event rfl
  exact h.of_raw (fun a ha => State.raw_event ha.high) (hw .engines (by decide)) (hw .axes (by decide)) (hw .fo (by decide))

theorem State.Demanded.logFault {code src detail : Nat} (h : State.Demanded n e s t) : State.Demanded n e s (t.logFault code src detail) := by
  have hw : State.Within 0x4000000010 t (t.logFault code src detail) := (State.Within.refl).logFault rfl
  exact h.of_raw (fun a ha => State.raw_logFault ha.low) (hw .engines (by decide)) (hw .axes (by decide)) (hw .fo (by decide))

theorem State.Demanded.refreshAxis (h : State.Demanded n e s t) : State.Demanded n e s (t.refreshAxis n) := by
  have hw : State.Within 0x1010 t (t.refreshAxis n) := (State.Within.refl).refreshAxis rfl
  have heng : (t.refreshAxis n).engines = t.engines := hw .engines (by decide)
  exact h.trans ⟨fun a ha => State.raw_refreshAxis ha.legs, by rw [State.eng, heng]; rfl, State.AxisOnly.refl.refreshAxis.ax, hw .fo (by decide)⟩

theorem State.Demanded.refreshBrake {b : BankId} (h : State.Demanded n e s t) : State.Demanded n e s (t.refreshBrake b) :=
  State.Demanded.setBit (h.of_raw (fun _ _ => rfl) rfl rfl rfl) fun _ ha => ha.bank b

theorem State.Demanded.refreshPlug (h : State.Demanded n e s t) : State.Demanded n e s (t.refreshPlug n) :=
  (h.setFld fun _ ha => ha.plug).setBit fun _ ha => ha.plug

theorem State.Demanded.setPlug {x : Plug} (h : State.Demanded n e s t) : State.Demanded n e s (t.setPlug n x) :=
  h.of_raw (fun _ _ => rfl) rfl rfl rfl

theorem State.Demanded.plugDemand (h : State.Demanded n e s t) : State.Demanded n e s (t.plugDemand n) := by
  refine State.Demanded.ite (fun _ => ?_) fun _ => State.Demanded.ite (fun _ => h.setPlug.refreshPlug.refreshAxis) fun _ => h
  have hretry : State.Demanded n e s (t.startRetry n) := h.setPlug.refreshPlug
  exact (hretry.setFld (f := Fld.AX_PLUGSTAT_ID_FAIL) fun _ ha => ha.plug).event.refreshAxis

/-- An event of an engine leaves its program. -/
theorem State.post_raiseEvent {m : EngId} {k : EvKind} {src : BitVec 16} {upd : PortBlock → PortBlock} :
    ((s.raiseEvent m k src upd).eng e).post = (s.eng e).post := by
  by_cases he : e = m
  · subst he
    unfold State.raiseEvent
    dsimp only
    split
    · rfl
    · split
      · rw [State.eng_setEng_same]
        rfl
      · rw [State.eng_setEng_same]
        split <;> rfl
  · rw [State.eng_raiseEvent_ne he]

theorem State.Demanded.raiseFor {m : EngId} {k : EvKind} {src : BitVec 16} {upd : PortBlock → PortBlock} (h : State.Demanded n e s t) :
    State.Demanded n e s (t.raiseFor n m k src upd) := by
  have hw : State.Within 0x810 t (t.raiseFor n m k src upd) := (State.Within.refl).raiseFor rfl
  have haxes : (t.raiseFor n m k src upd).axes = t.axes := hw .axes (by decide)
  refine h.trans ⟨fun a ha => State.raw_raiseFor (ha.merges m), ?_, fun l _ => by rw [State.ax, haxes]; rfl, hw .fo (by decide)⟩
  unfold State.raiseFor
  dsimp only
  rw [State.post_raiseEvent]
  split
  · by_cases he : e = m
    · subst he
      rw [State.eng_setEng_same]
      rfl
    · rw [State.eng_setEng_ne _ _ _ he]
  · rfl

theorem State.Demanded.faultEvent {bit : Nat} (h : State.Demanded n e s t) : State.Demanded n e s (t.faultEvent n bit) :=
  forAll_induction h fun _ _ _ hu => State.Demanded.ite (fun _ => hu.raiseFor) fun _ => hu

theorem State.Demanded.demandNoted {before : BitVec 8} {cause : Nat} (h : State.Demanded n e s t) :
    State.Demanded n e s (t.demandNoted n before cause) := by
  unfold State.demandNoted
  dsimp only
  split
  · exact h
  · split
    · exact h.setAx
    · exact h
    · exact h
    · exact h.setAx

theorem State.Demanded.withDemands {cause : Nat} {f : Demands → Demands} (h : State.Demanded n e s t) :
    State.Demanded n e s (t.withDemands n cause f) := by
  have hnoted : State.Demanded n e s ((t.setAx n { t.ax n with demands := f (t.ax n).demands }).demandNoted n (t.demandSrc n) cause) :=
    h.setAx.demandNoted
  exact (State.Demanded.ite (fun _ => hnoted.faultEvent.logFault) fun _ => hnoted).refreshAxis.refreshBrake.plugDemand

/-- A register of the global block. -/
theorem OffDemand.ne_global {r : Reg} (hr : r.spec.base < 0x1000) (h : OffDemand n a) : a ≠ r.addr 0 := by
  have := h.low
  simp only [Reg.addr, Nat.mul_zero, Nat.add_zero]
  omega

theorem State.Demanded.refreshFo (h : State.Demanded n e s t) : State.Demanded n e s t.refreshFo := by
  have hfld : ∀ f : Fld, f.reg = .GLB_FO_STAT → ∀ a, OffDemand n a → a ≠ f.reg.addr 0 := fun f hf a ha => by
    rw [hf]
    exact ha.ne_global (by decide)
  have hshown : ∀ x y z, State.Demanded n e s (((t.setFld Fld.GLB_FO_STAT_SPARES_LEFT 0 x).setFld Fld.GLB_FO_STAT_STANDBY 0 y).setBit
      Fld.GLB_FO_STAT_EXHAUSTED 0 z) := fun _ _ _ => ((h.setFld (hfld _ rfl)).setFld (hfld _ rfl)).setBit (hfld _ rfl)
  exact State.Demanded.ite (fun _ => (hshown _ _ _).setBit (hfld _ rfl)) fun _ => hshown _ _ _

theorem State.Demanded.foRecord {m : AxId} {type src detail : Nat} {data : List Byte} (h : State.Demanded n e s t) :
    State.Demanded n e s (t.foRecord m type src detail data) :=
  State.Demanded.ite (fun _ => h.event) fun _ => h.event.event

end Sys2Proof.Machine
end

section
set_option Elab.async false
/-! PROOF. A prepared candidate takes the axis over (15_failover.md R433, R435). -/

namespace Sys2Proof.Machine

variable {s t u : State} {n : AxId} {e : EngId} {i o v : Nat} {f g : Fld} {img : List Byte}

/-! ## Registers of engines and axes apart -/

theorem Fld.clear_of_addr {r q : Reg} {j : Nat} (hf : f.reg = r) (hg : g.reg = q) (h : r.addr i ≠ q.addr j) : f.Clear i g j :=
  .inl (by rw [hf, hg]; exact h)

theorem addr_stat_ne_foStat : Reg.ENG_STAT.addr e.val ≠ Reg.AX_FOSTAT.addr n.val := by simp only [Reg.addr, Reg.spec]; omega
theorem addr_fo_ne_foStat : Reg.ENG_FO.addr e.val ≠ Reg.AX_FOSTAT.addr n.val := by simp only [Reg.addr, Reg.spec]; omega
theorem addr_stat_ne_fo : Reg.ENG_STAT.addr e.val ≠ Reg.ENG_FO.addr e.val := by simp only [Reg.addr, Reg.spec]; omega
theorem addr_stat_ne_role {k : EngId} : Reg.ENG_STAT.addr e.val ≠ Reg.ENG_ROLE.addr k.val := by simp only [Reg.addr, Reg.spec]; omega
theorem addr_stat_ne_stat {k : EngId} (h : k ≠ e) : Reg.ENG_STAT.addr e.val ≠ Reg.ENG_STAT.addr k.val := by
  have : k.val ≠ e.val := fun hv => h (Fin.ext hv)
  simp only [Reg.addr, Reg.spec]
  omega

theorem addr_stat_ne_counts : Reg.ENG_STAT.addr e.val ≠ Reg.ENG_EVSTAT.addr e.val ∧
    Reg.ENG_STAT.addr e.val ≠ Reg.ENG_HWM_SF.addr e.val ∧ Reg.ENG_STAT.addr e.val ≠ Reg.ENG_HWM_HR.addr e.val := by
  refine ⟨?_, ?_, ?_⟩ <;> simp only [Reg.addr, Reg.spec] <;> omega

theorem addr_bnkPstat {b : BankId} : 0x20000 ≤ Reg.BNK_PSTAT.addr b.val ∧ Reg.BNK_PSTAT.addr b.val < 0x40000 := by
  have hp : Reg.BNK_PSTAT.Paged 0x20000 6 := Reg.paged_bank (by decide)
  have := hp.low; have := hp.high; have := b.isLt
  rw [hp.addr_eq]
  omega

theorem offDemand_engine {r : Reg} (hr : r = .ENG_STAT ∨ r = .ENG_FO) : OffDemand n (r.addr e.val) := by
  have hlow : 0x10000 ≤ r.addr e.val ∧ r.addr e.val < 0x20000 ∧ ∀ m : EngId, r.addr e.val ≠ Reg.ENG_EVSTAT.addr m.val := by
    rcases hr with rfl | rfl <;> refine ⟨?_, ?_, fun m => ?_⟩ <;> simp only [Reg.addr, Reg.spec] <;> omega
  obtain ⟨h1, h2, h3⟩ := hlow
  have hleg : ∀ q : Reg, 0x40000 ≤ q.spec.base ∧ q.spec.base < 0x41000 → r.addr e.val ≠ q.addr n.val := fun q hq => by
    rw [(Reg.paged_axis hq).addr_eq]
    omega
  exact ⟨h1, by omega, h3, fun b => by have := (addr_bnkPstat (b := b)).1; omega, hleg _ (by decide),
    fun q hq => hleg q (legRegs_page q hq)⟩

theorem offDemand_foStat : OffDemand n (Reg.AX_FOSTAT.addr n.val) := by
  have hp : Reg.AX_FOSTAT.Paged 0x40000 48 := Reg.paged_axis (by decide)
  have hn := n.isLt
  have hrange : 0x40000 ≤ Reg.AX_FOSTAT.addr n.val ∧ Reg.AX_FOSTAT.addr n.val < 0x70000 := by
    have := hp.low; have := hp.high
    rw [hp.addr_eq]
    omega
  have hne : ∀ q : Reg, 0x40000 ≤ q.spec.base ∧ q.spec.base < 0x41000 → q ≠ .AX_FOSTAT → Reg.AX_FOSTAT.addr n.val ≠ q.addr n.val := fun q hq hq' =>
    (hp.addr_ne (Reg.paged_axis hq) hq').symm
  refine ⟨by omega, by omega, fun m => ?_, fun b => ?_, hne _ (by decide) (by decide), fun q hq => hne q (legRegs_page q hq) ?_⟩
  · have : Reg.ENG_EVSTAT.addr m.val < 0x40000 := by simp only [Reg.addr, Reg.spec]; omega
    omega
  · have := (addr_bnkPstat (b := b)).2
    omega
  · rintro rfl
    exact absurd hq (by decide)

/-! ## The load of an engine -/

/-- A field of ENG_STAT apart from those that a load clears after the fault code. -/
structure Fld.OffLoad (f : Fld) : Prop where
  reg : f.reg = .ENG_STAT
  width : f.lsb + f.width ≤ 32
  event : f.Disjoint Fld.ENG_STAT_FAULT_EV
  background : f.Disjoint Fld.ENG_STAT_FAULT_BG
  pc : f.Disjoint Fld.ENG_STAT_FAULT_PC
  bank : f.Disjoint Fld.ENG_STAT_BK

/-- What a load clears after the fault code. -/
def State.loadRest (s : State) (e : EngId) : State :=
  (((((((s.setFld Fld.ENG_STAT_FAULT_EV e.val 0).setBit Fld.ENG_STAT_FAULT_BG e.val false).setFld Fld.ENG_STAT_FAULT_PC e.val 0).setBit
    Fld.ENG_STAT_BK e.val false).setWord .ENG_EVSTAT e.val 0 0).setWord .ENG_HWM_SF e.val 0 0).setWord .ENG_HWM_HR e.val 0 0)

theorem State.loadRegs_eq : s.loadRegs e = (s.setFld Fld.ENG_STAT_FAULT e.val 0).loadRest e := rfl

theorem State.Keeps.loadRest (h : State.Keeps f e.val s t) (hf : f.OffLoad) : State.Keeps f e.val s (t.loadRest e) := by
  obtain ⟨hr, hw, hev, hbg, hpc, hbk⟩ := hf
  have hstat := (((h.setFld (v := 0) (Fld.clear_engStat hr rfl hw hev)).setBit (b := false) (Fld.clear_engStat hr rfl hw hbg)).setFld (v := 0)
    (Fld.clear_engStat hr rfl hw hpc)).setBit (b := false) (Fld.clear_engStat hr rfl hw hbk)
  obtain ⟨hmerges, hsf, hhr⟩ := addr_stat_ne_counts (e := e)
  rw [← hr] at hmerges hsf hhr
  exact ((hstat.setWord hmerges).setWord hsf).setWord hhr

/-- The record of the last fault is cleared. -/
theorem State.fault_loadRegs (hs : s.Sound) : (s.loadRegs e).fld Fld.ENG_STAT_FAULT e.val = 0 := by
  rw [State.loadRegs_eq]
  have hkeep : State.Keeps Fld.ENG_STAT_FAULT e.val (s.setFld Fld.ENG_STAT_FAULT e.val 0) ((s.setFld Fld.ENG_STAT_FAULT e.val 0).loadRest e) :=
    (State.Keeps.refl hs.setFld).loadRest ⟨rfl, by decide, by decide, by decide, by decide, by decide⟩
  exact hkeep.fld.trans (State.fld_setFld_eq hs (by decide) (by decide))

theorem State.fault_setEngState {st : EngState} (hs : s.Sound) :
    (s.setEngState e st).fld Fld.ENG_STAT_FAULT e.val = s.fld Fld.ENG_STAT_FAULT e.val :=
  ((State.Keeps.refl hs).setFld (Fld.clear_stat _ Fld.ENG_STAT_STATE)).fld

/-- A loaded engine shows its state, and no fault (R97). -/
theorem State.loadEngine_stat {st : EngState} (hs : s.Sound) : (s.loadEngine e img st).engState e = st ∧
    (s.loadEngine e img st).fld Fld.ENG_STAT_FAULT e.val = 0 := by
  have h0 : (s.setEng e ((s.eng e).load img)).Sound := hs.setEng fun h => State.Sound.Engine_load (h.eng e)
  unfold State.loadEngine
  generalize s.setEng e ((s.eng e).load img) = u at h0 ⊢
  exact ⟨State.engState_setEngState h0.loadRegs, (State.fault_setEngState h0.loadRegs).trans (State.fault_loadRegs h0)⟩

/-- A load changes the engine alone among engines. -/
theorem State.engines_loadEngine {st : EngState} : (s.loadEngine e img st).engines = (s.setEng e ((s.eng e).load img)).engines := by
  unfold State.loadEngine
  generalize s.setEng e ((s.eng e).load img) = u
  have hw : State.Within 0x10 u ((u.loadRegs e).setEngState e st) := ((State.Within.refl (k := 0x10) (s := u)).loadRegs rfl).setEngState rfl
  exact hw .engines (by decide)

theorem State.eng_loadEngine {st : EngState} : (s.loadEngine e img st).eng e = (s.eng e).load img := by
  rw [State.eng, State.engines_loadEngine]
  exact State.eng_setEng_same ..

theorem State.eng_loadEngine_ne {st : EngState} {k : EngId} (h : k ≠ e) : (s.loadEngine e img st).eng k = s.eng k := by
  rw [State.eng, State.engines_loadEngine]
  exact State.eng_setEng_ne _ _ _ h

/-! ## The roles and the claim after a take-over -/

theorem State.Keeps.hwPut (h : State.Keeps f i s t) (hc : f.Clear i g o) : State.Keeps f i s (t.hwPut g o v) :=
  State.Keeps.ite h (h.setFld hc)

/-- The engine that failed becomes a spare. -/
def State.roleLost (s : State) (k : EngId) : State := (s.hwPut Fld.ENG_ROLE_ROLE k.val 3).setFld Fld.ENG_STAT_ROLE k.val 3

/-- The engine that takes the axis over is its axis engine. -/
def State.roleTaken (s : State) (n : AxId) (e : EngId) : State :=
  ((s.hwPut Fld.ENG_ROLE_ROLE e.val 1).hwPut Fld.ENG_ROLE_AXIS e.val n.val).setFld Fld.ENG_STAT_ROLE e.val 1

/-- The first run of the engine loads the Cast of its axis. -/
def Engine.castAxis (x : Engine) (n : AxId) : Engine := { x with axis := n, castRun := some n }

theorem State.swapRoles_none : s.swapRoles n e none = (s.roleTaken n e).setEng e (((s.roleTaken n e).eng e).castAxis n) := rfl

theorem State.swapRoles_some (k : EngId) : s.swapRoles n e (some k) =
    ((if k = e then s else s.roleLost k).roleTaken n e).setEng e ((((if k = e then s else s.roleLost k).roleTaken n e).eng e).castAxis n) := rfl

/-- A field of ENG_STAT of an engine other than its role is not among the registers of the roles. -/
structure Fld.OffRole (f : Fld) : Prop where
  reg : f.reg = .ENG_STAT
  width : f.lsb + f.width ≤ 32
  apart : f.Disjoint Fld.ENG_STAT_ROLE

theorem State.Keeps.roleTaken (h : State.Keeps f e.val s t) (hf : f.OffRole) : State.Keeps f e.val s (t.roleTaken n e) :=
  ((h.hwPut (Fld.clear_of_addr hf.reg rfl addr_stat_ne_role)).hwPut (Fld.clear_of_addr hf.reg rfl addr_stat_ne_role)).setFld
    (Fld.clear_engStat hf.reg rfl hf.width hf.apart)

theorem State.Keeps.roleLost {k : EngId} (h : State.Keeps f e.val s t) (hf : f.OffRole) (hk : k ≠ e) :
    State.Keeps f e.val s (t.roleLost k) :=
  (h.hwPut (Fld.clear_of_addr hf.reg rfl addr_stat_ne_role)).setFld (Fld.clear_of_addr hf.reg rfl (addr_stat_ne_stat hk))

theorem State.Keeps.castAxis (h : State.Keeps f i s t) : State.Keeps f i s (t.setEng e ((t.eng e).castAxis n)) :=
  h.of_regs (h.sound.setEng fun hs => hs.eng e) rfl

theorem State.Keeps.swapRoles {old : Option EngId} (h : State.Keeps f e.val s t) (hf : f.OffRole) :
    State.Keeps f e.val s (t.swapRoles n e old) := by
  cases old with
  | none =>
    rw [State.swapRoles_none]
    exact (h.roleTaken hf).castAxis
  | some k =>
    rw [State.swapRoles_some]
    have hlost : State.Keeps f e.val s (if k = e then t else t.roleLost k) := by
      split
      · exact h
      · exact h.roleLost hf ‹_›
    exact (hlost.roleTaken hf).castAxis

/-! ## The claim -/

/-- What an engine and its axis show of the claim that the engine holds (Table 11 of 15_failover.md). -/
structure State.Claims (n : AxId) (e : EngId) (c : Nat) (t : State) : Prop where
  axis : t.fld Fld.AX_FOSTAT_CLAIM n.val = c
  engine : t.fld Fld.ENG_FO_CLAIM e.val = c
  holder : t.fld Fld.AX_FOSTAT_ENG n.val = e.val

/-- The registers that show the claim. -/
def State.withClaim (s : State) (n : AxId) (e : EngId) (c : Nat) : State :=
  (((s.setFld Fld.AX_FOSTAT_CLAIM n.val c).setFld Fld.AX_FOSTAT_ENG n.val e.val).setFld Fld.ENG_FO_CLAIM e.val c).setFld Fld.ENG_FO_AXIS
    e.val n.val

theorem State.claims_withClaim {c : Nat} (hs : s.Sound) (hc : c < 256) : State.Claims n e c (s.withClaim n e c) := by
  have hfo : ∀ {f g : Fld}, f.reg = .AX_FOSTAT → g.reg = .ENG_FO → f.Clear n.val g e.val := fun hf hg =>
    Fld.clear_of_addr hf hg addr_fo_ne_foStat.symm
  let s1 := s.setFld Fld.AX_FOSTAT_CLAIM n.val c
  let s2 := s1.setFld Fld.AX_FOSTAT_ENG n.val e.val
  let s3 := s2.setFld Fld.ENG_FO_CLAIM e.val c
  have h1 : State.Keeps Fld.AX_FOSTAT_CLAIM n.val s1 (s3.setFld Fld.ENG_FO_AXIS e.val n.val) :=
    (((State.Keeps.refl hs.setFld).setFld (Fld.clear_axis (by decide) (by decide) (by decide))).setFld (hfo rfl rfl)).setFld (hfo rfl rfl)
  have h2 : State.Keeps Fld.AX_FOSTAT_ENG n.val s2 (s3.setFld Fld.ENG_FO_AXIS e.val n.val) :=
    ((State.Keeps.refl hs.setFld.setFld).setFld (hfo rfl rfl)).setFld (hfo rfl rfl)
  have h3 : State.Keeps Fld.ENG_FO_CLAIM e.val s3 (s3.setFld Fld.ENG_FO_AXIS e.val n.val) :=
    (State.Keeps.refl hs.setFld.setFld.setFld).setFld (.inr ⟨rfl, rfl, by decide, by decide⟩)
  have he : e.val < 2 ^ Fld.AX_FOSTAT_ENG.width := Nat.lt_of_lt_of_le e.isLt (by decide)
  exact ⟨h1.fld.trans (State.fld_setFld_eq hs (by decide) hc), h3.fld.trans (State.fld_setFld_eq hs.setFld.setFld (by decide) hc),
    h2.fld.trans (State.fld_setFld_eq hs.setFld (by decide) he)⟩

theorem State.Keeps.stat_withClaim {c : Nat} (h : State.Keeps f e.val s t) (hf : f.reg = .ENG_STAT) :
    State.Keeps f e.val s (t.withClaim n e c) :=
  (((h.setFld (Fld.clear_of_addr hf rfl addr_stat_ne_foStat)).setFld (Fld.clear_of_addr hf rfl addr_stat_ne_foStat)).setFld
    (Fld.clear_of_addr hf rfl addr_stat_ne_fo)).setFld (Fld.clear_of_addr hf rfl addr_stat_ne_fo)

/-- The service of the axis is regular: no other field of its claim changes. -/
theorem State.Claims.regular {c : Nat} (h : State.Claims n e c t) (ht : t.Sound) :
    State.Claims n e c (t.setFld Fld.AX_FOSTAT_SERVICE n.val 0) :=
  ⟨((State.Keeps.refl ht).setFld (Fld.clear_axis (by decide) (by decide) (by decide))).fld.trans h.axis,
    ((State.Keeps.refl ht).setFld (Fld.clear_of_addr rfl rfl addr_fo_ne_foStat)).fld.trans h.engine,
    ((State.Keeps.refl ht).setFld (Fld.clear_axis (by decide) (by decide) (by decide))).fld.trans h.holder⟩

end Sys2Proof.Machine
end

section
set_option Elab.async false
/-! PROOF. The start of a take-over (15_failover.md R433, R435). -/

namespace Sys2Proof.Machine

variable {s t u : State} {n : AxId} {e : EngId} {i o v : Nat} {f : Fld} {img : List Byte}

/-- A fail-over record whose axis an engine of order `o` has taken. -/
def AxFo.started (x : AxFo) (o : Nat) : AxFo := { x with candidate := none, incomplete := some o, engineless := false, arbStop := none }

/-- The engine serves the axis; the demands of the axis stand as before. -/
def State.assigned (s : State) (n : AxId) (e : EngId) (o : Nat) : State :=
  let u := ((s.swapRoles n e (s.failover n).failedEng).raiseClaim n e).setFld Fld.AX_FOSTAT_SERVICE n.val 0
  u.setFailover n ((u.failover n).started o)

theorem State.assign_eq : s.assign n e o = ((s.assigned n e o).withDemands n 1 fun d => { d with engLoss := false }).refreshFo := rfl

/-- A fail-over record whose axis has a new highest claim. -/
def AxFo.raised (x : AxFo) : AxFo := { x with topClaim := x.topClaim + 1 }

theorem State.raiseClaim_eq : s.raiseClaim n e = (s.setFailover n (s.failover n).raised).withClaim n e ((s.failover n).topClaim + 1) := rfl

theorem State.failover_swapRoles {old : Option EngId} : (s.swapRoles n e old).failover n = s.failover n := by
  have hw : State.Within 0x810 s (s.swapRoles n e old) := State.Within.refl.swapRoles rfl
  rw [State.failover, hw .fo (by decide)]
  rfl

theorem State.eng_roleTaken {k : EngId} : (s.roleTaken n e).eng k = s.eng k := by
  have hw : State.Within 0x10 s (s.roleTaken n e) := (((State.Within.refl (k := 0x10) (s := s)).hwPut rfl).hwPut rfl).setFld rfl
  rw [State.eng, hw .engines (by decide)]
  rfl

theorem State.eng_roleLost {j k : EngId} : (s.roleLost j).eng k = s.eng k := by
  have hw : State.Within 0x10 s (s.roleLost j) := ((State.Within.refl (k := 0x10) (s := s)).hwPut rfl).setFld rfl
  rw [State.eng, hw .engines (by decide)]
  rfl

theorem State.eng_swapRoles {old : Option EngId} : (s.swapRoles n e old).eng e = (s.eng e).castAxis n := by
  cases old with
  | none => rw [State.swapRoles_none, State.eng_setEng_same, State.eng_roleTaken]
  | some k =>
    rw [State.swapRoles_some, State.eng_setEng_same, State.eng_roleTaken]
    split
    · rfl
    · rw [State.eng_roleLost]

theorem State.Sound.assigned (h : s.Sound) : (s.assigned n e o).Sound := h.swapRoles.raiseClaim.setFld.setFailover

theorem State.Keeps.setFailover {m : AxId} {x : AxFo} (h : State.Keeps f i s t) : State.Keeps f i s (t.setFailover m x) :=
  h.of_regs h.sound.setFailover rfl

theorem State.Keeps.assigned (h : State.Keeps f e.val s t) (hf : f.OffRole) : State.Keeps f e.val s (t.assigned n e o) := by
  have hroles := (h.swapRoles (n := n) (old := (t.failover n).failedEng) hf)
  unfold State.assigned
  generalize t.swapRoles n e (t.failover n).failedEng = u at hroles ⊢
  rw [State.raiseClaim_eq]
  exact ((hroles.setFailover.stat_withClaim hf.reg).setFld (Fld.clear_of_addr hf.reg rfl addr_stat_ne_foStat)).setFailover

theorem State.Claims.of_regs {c : Nat} (h : State.Claims n e c t) (hr : u.regs = t.regs) : State.Claims n e c u := by
  obtain ⟨h1, h2, h3⟩ := h
  refine ⟨?_, ?_, ?_⟩ <;> simp only [State.fld, State.word, hr] <;> assumption

/-- The engine that takes the axis over holds the highest claim plus one (R431), in regular service. -/
theorem State.claims_assigned (hs : s.Sound) (hc : (s.failover n).topClaim < 255) :
    State.Claims n e ((s.failover n).topClaim + 1) (s.assigned n e o) ∧ (s.assigned n e o).fld Fld.AX_FOSTAT_SERVICE n.val = 0 := by
  have hroles : (s.swapRoles n e (s.failover n).failedEng).Sound := hs.swapRoles
  have hfo : (s.swapRoles n e (s.failover n).failedEng).failover n = s.failover n := State.failover_swapRoles
  unfold State.assigned
  generalize s.swapRoles n e (s.failover n).failedEng = u at hroles hfo ⊢
  have hraised : (u.raiseClaim n e).Sound := hroles.raiseClaim
  have hclaims : State.Claims n e ((s.failover n).topClaim + 1) (u.raiseClaim n e) := by
    rw [State.raiseClaim_eq, hfo]
    exact State.claims_withClaim hroles.setFailover (Nat.succ_lt_succ hc)
  generalize u.raiseClaim n e = w at hraised hclaims ⊢
  exact ⟨(hclaims.regular hraised).of_regs rfl,
    (State.Keeps.refl hraised.setFld).setFailover.fld.trans (State.fld_setFld_eq hraised (by decide) (by decide))⟩

theorem State.engRole_roleTaken (hs : s.Sound) : (s.roleTaken n e).engRole e = 1 := by
  have hput : ∀ {u : State} {g : Fld} {v : Nat}, u.Sound → (u.hwPut g e.val v).Sound := fun hu => hu.hwPut
  exact State.fld_setFld_eq (hput (hput hs)) (by decide) (by decide)

theorem State.engRole_swapRoles {old : Option EngId} (hs : s.Sound) : (s.swapRoles n e old).engRole e = 1 := by
  cases old with
  | none => exact State.engRole_roleTaken hs
  | some k =>
    have hlost : (if k = e then s else s.roleLost k).Sound := State.Sound.ite (fun _ => hs) fun _ => hs.hwPut.setFld
    exact State.engRole_roleTaken hlost

/-- The engine is an axis engine. -/
theorem State.engRole_assigned (hs : s.Sound) : (s.assigned n e o).engRole e = 1 := by
  have hrole : (s.swapRoles n e (s.failover n).failedEng).engRole e = 1 := State.engRole_swapRoles hs
  have hu : (s.swapRoles n e (s.failover n).failedEng).Sound := hs.swapRoles
  unfold State.assigned
  generalize s.swapRoles n e (s.failover n).failedEng = u at hrole hu ⊢
  rw [State.raiseClaim_eq]
  have hraised : State.Keeps Fld.ENG_STAT_ROLE e.val u (u.setFailover n (u.failover n).raised) := (State.Keeps.refl hu).setFailover
  have hclear : Fld.ENG_STAT_ROLE.Clear e.val Fld.AX_FOSTAT_SERVICE n.val := Fld.clear_of_addr rfl rfl addr_stat_ne_foStat
  exact ((hraised.stat_withClaim rfl).setFld hclear).setFailover.fld.trans hrole

theorem State.failover_assigned : ∃ x : AxFo, (s.assigned n e o).failover n = x.started o :=
  ⟨_, State.failover_setFailover_same _ n _⟩

theorem State.within_assigned_swap : State.Within 0x800000010 (s.swapRoles n e (s.failover n).failedEng) (s.assigned n e o) :=
  ((State.Within.refl (k := 0x800000010)).raiseClaim rfl |>.setFld rfl).setFailover rfl

theorem State.eng_assigned : (s.assigned n e o).eng e = (s.eng e).castAxis n := by
  have hw : State.Within 0x800000010 (s.swapRoles n e (s.failover n).failedEng) (s.assigned n e o) := State.within_assigned_swap
  rw [State.eng, hw .engines (by decide)]
  exact State.eng_swapRoles

theorem State.axes_assigned : (s.assigned n e o).axes = s.axes := by
  have hw : State.Within 0x800000010 (s.swapRoles n e (s.failover n).failedEng) (s.assigned n e o) := State.within_assigned_swap
  have hroles : State.Within 0x810 s (s.swapRoles n e (s.failover n).failedEng) := State.Within.refl.swapRoles rfl
  have h1 : (s.assigned n e o).axes = (s.swapRoles n e (s.failover n).failedEng).axes := hw .axes (by decide)
  exact h1.trans (hroles .axes (by decide))

/-! ## The start -/

/-- The engine runs the image of the axis from the next tick on. -/
def State.takeoverLoaded (s : State) (e : EngId) (img : List Byte) : State :=
  let u := s.loadEngine e img .running
  u.setEng e { u.eng e with runFrom := u.tick + 1 }

/-- TAKEOVER_START once the candidate is ready (R433). -/
def State.takeoverStarted (s : State) (n : AxId) (e : EngId) (o : Nat) (img : List Byte) : State :=
  let u := (s.takeoverLoaded e img).assign n e o
  if (s.failover n).engineless then u.foRecord n 0x0053 e.val 2 [BitVec.ofNat 8 n.val] else u

theorem execTakeoverStart_eq (hc : (s.failover n).candidate = some (e, o)) (ho : o ≠ 6) (hstop : (s.failover n).arbStop = none)
    (hdue : (s.failover n).candDue ≤ s.tick) (himg : s.store.axisImage n = some img) :
    exec (.takeoverStart n) s = .next (s.takeoverStarted n e o img) := by
  have hwait : ¬(decide (s.tick < (s.failover n).candDue) || (s.failover n).arbStop.isSome || o == 6) = true := by
    simp [hstop, hdue, ho]
  show execTakeoverStart n s = _
  unfold execTakeoverStart
  refine congrArg Host.Outcome.next ?_
  simp only [hc, himg]
  rw [if_neg hwait]
  rfl

theorem State.failover_takeoverLoaded : (s.takeoverLoaded e img).failover n = s.failover n := by
  have hw : State.Within 0x810 s (s.takeoverLoaded e img) := ((State.Within.refl (k := 0x810)).loadEngine rfl).setEng rfl
  rw [State.failover, hw .fo (by decide)]
  rfl

theorem State.Sound.takeoverLoaded (h : s.Sound) : (s.takeoverLoaded e img).Sound := h.loadEngine.setEng fun hu => hu.eng e

/-- What the engine shows of its load. -/
theorem State.takeoverLoaded_stat (hs : s.Sound) : (s.takeoverLoaded e img).engState e = .running ∧
    (s.takeoverLoaded e img).fld Fld.ENG_STAT_FAULT e.val = 0 := by
  have hload := State.loadEngine_stat (e := e) (img := img) (st := .running) hs
  unfold State.takeoverLoaded
  generalize s.loadEngine e img .running = u at hload ⊢
  exact hload

/-- What a demand and the records after it leave of a take-over. -/
theorem State.demanded_takeoverStarted :
    State.Demanded n e ((s.takeoverLoaded e img).assigned n e o) (s.takeoverStarted n e o img) := by
  have h : State.Demanded n e ((s.takeoverLoaded e img).assigned n e o) ((s.takeoverLoaded e img).assign n e o) := by
    rw [State.assign_eq]
    exact State.Demanded.refl.withDemands.refreshFo
  exact State.Demanded.ite (fun _ => h.foRecord) fun _ => h

theorem State.Demanded.fld (h : State.Demanded n e s t) (hf : OffDemand n (f.reg.addr i)) : t.fld f i = s.fld f i := by
  rw [State.fld_eq, State.fld_eq, h.raw _ hf]

/-- The engine of a take-over that starts: the image from its entry point, in the axis role, from the next tick on. -/
def Engine.takingOver (x : Engine) (n : AxId) (img : List Byte) (tick : Nat) : Engine := { (x.load img).castAxis n with runFrom := tick + 1 }

theorem State.eng_takeoverLoaded : ((s.takeoverLoaded e img).eng e).castAxis n = (s.eng e).takingOver n img s.tick := by
  have hw : State.Within 0x810 s (s.loadEngine e img .running) := (State.Within.refl (k := 0x810)).loadEngine rfl
  have htick : (s.loadEngine e img .running).tick = s.tick := hw .tick (by decide)
  have heng : (s.loadEngine e img .running).eng e = (s.eng e).load img := State.eng_loadEngine
  unfold State.takeoverLoaded
  generalize s.loadEngine e img .running = u at htick heng ⊢
  rw [State.eng_setEng_same, heng, htick]
  rfl

theorem State.axes_takeoverLoaded : (s.takeoverLoaded e img).axes = s.axes := by
  have hw : State.Within 0x810 s (s.takeoverLoaded e img) := ((State.Within.refl (k := 0x810)).loadEngine rfl).setEng rfl
  exact hw .axes (by decide)

/-- The candidate runs with the highest claim plus one (R433). -/
theorem exec_takeoverStart (hs : s.Sound) (hc : (s.failover n).candidate = some (e, o)) (ho : o ≠ 6) (hstop : (s.failover n).arbStop = none)
    (hdue : (s.failover n).candDue ≤ s.tick) (himg : s.store.axisImage n = some img) (htop : (s.failover n).topClaim < 255) :
    ∃ t, exec (.takeoverStart n) s = .next t ∧ t.engState e = .running ∧ t.engRole e = 1 ∧ t.fld Fld.ENG_STAT_FAULT e.val = 0 ∧
      (t.eng e).post = ((s.eng e).takingOver n img s.tick).post ∧ State.Claims n e ((s.failover n).topClaim + 1) t ∧
      t.fld Fld.AX_FOSTAT_SERVICE n.val = 0 ∧ (∃ x : AxFo, t.failover n = x.started o) ∧ ∀ m, m ≠ n → t.ax m = s.ax m := by
  refine ⟨_, execTakeoverStart_eq hc ho hstop hdue himg, ?_⟩
  have hload : (s.takeoverLoaded e img).Sound := hs.takeoverLoaded
  have hstat := State.takeoverLoaded_stat (e := e) (img := img) hs
  have heng := State.eng_takeoverLoaded (s := s) (n := n) (e := e) (img := img)
  have haxes := State.axes_takeoverLoaded (s := s) (e := e) (img := img)
  have hfo := State.failover_takeoverLoaded (s := s) (n := n) (e := e) (img := img)
  have hd := State.demanded_takeoverStarted (s := s) (n := n) (e := e) (o := o) (img := img)
  generalize s.takeoverStarted n e o img = t at hd ⊢
  generalize s.takeoverLoaded e img = u at hload hstat heng haxes hfo hd
  have hclaim := State.claims_assigned (e := e) (o := o) hload (hfo ▸ htop)
  have hkeep : ∀ f : Fld, f.OffRole → t.fld f e.val = u.fld f e.val := fun f hf =>
    (hd.fld (by rw [hf.reg]; exact offDemand_engine (.inl rfl))).trans ((State.Keeps.refl hload).assigned hf).fld
  have hstate : t.engState e = u.engState e := congrArg EngState.ofCode (hkeep Fld.ENG_STAT_STATE ⟨rfl, by decide, by decide⟩)
  obtain ⟨⟨haxis, hengine, hholder⟩, hservice⟩ := hclaim
  refine ⟨hstate.trans hstat.1, (hd.fld (offDemand_engine (.inl rfl))).trans (State.engRole_assigned hload),
    (hkeep _ ⟨rfl, by decide, by decide⟩).trans hstat.2, ?_, ⟨?_, ?_, ?_⟩, (hd.fld offDemand_foStat).trans hservice, ?_, fun m hm => ?_⟩
  · rw [hd.post, State.eng_assigned, heng]
  · rw [hd.fld offDemand_foStat, haxis, hfo]
  · rw [hd.fld (offDemand_engine (.inr rfl)), hengine, hfo]
  · rw [hd.fld offDemand_foStat, hholder]
  · obtain ⟨x, hx⟩ := State.failover_assigned (s := u) (n := n) (e := e) (o := o)
    exact ⟨x, by rw [← hx, State.failover, hd.fo]; rfl⟩
  · rw [hd.ax m hm, State.ax, State.axes_assigned, haxes]
    rfl

end Sys2Proof.Machine
end

section
set_option Elab.async false
/-! PROOF. The end of a zeroing (02_engines.md R94, R95; 15_failover.md R436). -/

namespace Sys2Proof.Machine

variable {s t u : State} {n : AxId} {e k : EngId} {i o v a : Nat} {f : Fld} {img : List Byte}

theorem State.Within.trans {m : Nat} (h : State.Within m s t) (h2 : State.Within m t u) : State.Within m s u := fun p hp =>
  (h p hp).trans (h2 p hp)

theorem State.Within.widen {m m' : Nat} (h : State.Within m s t) (hm : Has m m') : State.Within m' s t := fun p hp => h p (hm.bit hp)

theorem State.eng_of_engines (h : t.engines = s.engines) : t.eng e = s.eng e := by rw [State.eng, h]; rfl

/-! ## Powering down -/

/-- An engine that is powered down: OFF, and its pace no longer valid (R95). -/
def State.powerDown (s : State) (e : EngId) : State := ((s.setBit Fld.ENG_PACE_VALID e.val false).refreshPace).setEngState e .off

/-- The bits that a power-down writes. -/
def downSpots (e : EngId) : List (Nat × Word) :=
  [Fld.ENG_PACE_VALID.spot e.val, Fld.ENG_STAT_STATE.spot e.val, Reg.GLB_PACE_STAT.spot, Reg.GLB_ALLOC.spot, Fld.HIF_FSTAT_EVT_DROP.spot 0]

theorem State.within_powerDown : State.Within 0x80010 s (s.powerDown e) := by
  have h : State.Within 0x80010 s (s.setBit Fld.ENG_PACE_VALID e.val false) := State.Within.refl.setBit rfl
  exact (h.refreshPace rfl).setEngState rfl

/-- The status and the pace of an engine lie behind the global registers. -/
theorem addr_engine {r : Reg} (hr : r = .ENG_STAT ∨ r = .ENG_PACE) : 0x1000 ≤ r.addr e.val := by
  rcases hr with rfl | rfl <;> simp only [Reg.addr, Reg.spec] <;> omega

theorem addr_pace_ne_stat : Reg.ENG_PACE.addr e.val ≠ Reg.ENG_STAT.addr k.val := by simp only [Reg.addr, Reg.spec]; omega

/-- The pace of an engine, without its validity. -/
theorem State.showsPace_unmeasured (hs : s.Sound) : ∃ p, State.ShowsPace p (s.setBit Fld.ENG_PACE_VALID e.val false)
    (s.setBit Fld.ENG_PACE_VALID e.val false).refreshPace ∧
    (s.setBit Fld.ENG_PACE_VALID e.val false).refreshPace.bit Fld.ENG_PACE_VALID e.val = false := by
  have h := State.showsPace_refreshPace (hs.setBit (f := Fld.ENG_PACE_VALID) (i := e.val) (b := false))
  exact ⟨_, h, (h.engPaceBit rfl).trans (State.bit_setBit_eq hs (by decide) (by decide))⟩

/-- What an engine shows that is powered down, and what else differs. -/
structure State.Down (e : EngId) (s t : State) : Prop where
  sound : t.Sound
  state : t.engState e = .off
  valid : t.bit Fld.ENG_PACE_VALID e.val = false
  engines : t.engines = s.engines
  fn : ∀ f : FnId, f ≠ 0 → t.fn f = s.fn f
  bits : s.onlyBits t (downSpots e)

theorem State.down_powerDown (hs : s.Sound) : State.Down e s (s.powerDown e) := by
  obtain ⟨p, hp, hvalid⟩ := State.showsPace_unmeasured (e := e) hs
  have hkeep := (State.Keeps.refl hp.sound).setFld (f := Fld.ENG_PACE_VALID) (g := Fld.ENG_STAT_STATE) (i := e.val) (j := e.val)
    (v := EngState.off.code) (.inl addr_pace_ne_stat)
  have hbit : s.onlyBits (s.setBit Fld.ENG_PACE_VALID e.val false) (downSpots e) := State.onlyBits.refl.setBit hs (by simp [downSpots])
  have hbits : s.onlyBits (s.setBit Fld.ENG_PACE_VALID e.val false).refreshPace (downSpots e) :=
    hbit.trans (hp.bits.mono (by simp [paceSpots, downSpots]))
  exact ⟨hp.sound.setEngState, State.engState_setEngState hp.sound, (congrArg (· == 1) hkeep.fld).trans hvalid,
    State.within_powerDown .engines (by decide), hp.fn, hbits.setFld hp.sound (by simp [downSpots])⟩

/-! ## The end of a plan change -/

/-- The zeroing of an engine has ended; `b`: it was one of a plan change. -/
def State.afterApply (s : State) (b : Bool) : State := if b then s.applyFinished else s

theorem State.within_afterApply {b : Bool} : State.Within 0x10 s (s.afterApply b) := by
  have h : State.Within 0x10 s s := State.Within.refl
  exact State.Within.ite (fun _ => h.applyFinished rfl) fun _ => h

theorem State.onlyBits_afterApply {b : Bool} : s.onlyBits (s.afterApply b) [Reg.GLB_ALLOC.spot] := by
  have hspot : Reg.GLB_ALLOC.spot ∈ [Reg.GLB_ALLOC.spot] := List.mem_singleton_self _
  have hdone : s.onlyBits ((s.setBit Fld.GLB_ALLOC_BUSY 0 false).setBit Fld.GLB_ALLOC_DONE 0 true) [Reg.GLB_ALLOC.spot] :=
    State.onlyBits.setWord (r := .GLB_ALLOC) (State.onlyBits.setWord (r := .GLB_ALLOC) .refl hspot) hspot
  unfold State.afterApply State.applyFinished
  split
  · split
    · exact .refl
    · split
      · exact hdone
      · exact .refl
  · exact .refl

/-- A field of an engine stands as before. -/
theorem State.fld_afterApply {b : Bool} (ha : 0x1000 ≤ f.reg.addr i) : (s.afterApply b).fld f i = s.fld f i := by
  rw [State.fld_eq, State.onlyBits_afterApply.raw, State.fld_eq]
  simp only [List.forall_mem_cons, Reg.spot, Reg.addr, Reg.spec] at *
  exact ⟨by omega, nofun⟩

/-! ## The engine that changes -/

/-- Of the engines only `e` differs; it is `x`. -/
structure State.Becomes (e : EngId) (x : Engine) (s t : State) : Prop where
  eng : t.eng e = x
  others : ∀ k, k ≠ e → t.eng k = s.eng k

theorem State.Becomes.refl : State.Becomes e (s.eng e) s s := ⟨rfl, fun _ _ => rfl⟩

theorem State.Becomes.setEng {x y : Engine} (h : State.Becomes e x s t) : State.Becomes e y s (t.setEng e y) :=
  ⟨State.eng_setEng_same t e y, fun k hk => (State.eng_setEng_ne t e y hk).trans (h.others k hk)⟩

theorem State.Becomes.of_engines {x : Engine} (h : State.Becomes e x s t) (hu : u.engines = t.engines) : State.Becomes e x s u :=
  ⟨(State.eng_of_engines hu).trans h.eng, fun k hk => (State.eng_of_engines hu).trans (h.others k hk)⟩

theorem State.Becomes.of_eng {x y : Engine} (h : State.Becomes e x s t) (hx : x = y) : State.Becomes e y s t := hx ▸ h

/-! ## The three ends of a zeroing -/

/-- An engine whose zeroing has ended. -/
def Engine.zeroDone (x : Engine) : Engine := { x.zero with prep := none, byApply := false }

/-- An engine in its self-test, which takes 62,500 ticks (R436). -/
def Engine.testing (x : Engine) (tick : Nat) : Engine := { x with prep := some .selftest, prepDue := tick + 62500 }

/-- An engine whose step meter runs. -/
def Engine.metered (x : Engine) (tick : Nat) : Engine := { x with meterFrom := some (x.meterFrom.getD tick) }

/-- An engine whose step meter stands. -/
def Engine.unmetered (x : Engine) : Engine := { x with meterFrom := none }

/-- An engine in repair goes on to its self-test (R436). -/
def State.toSelftest (s : State) (e : EngId) : State :=
  (s.setEng e ((s.eng e).testing s.tick)).setBit Fld.ENG_FO_SELFTEST e.val true

/-- A spare is ready, its meter running. -/
def State.toSpare (s : State) (e : EngId) : State :=
  (s.setEng e ((s.eng e).metered s.tick)).enterIdleSpare e

/-- Any other engine is OFF and powered down (R95). -/
def State.toOff (s : State) (e : EngId) : State := (s.setEng e (s.eng e).unmetered).powerDown e

theorem execZeroingDone_eq (hp : (s.eng e).prep = some .zeroing) (hdue : (s.eng e).prepDue ≤ s.tick) : exec (.zeroingDone e) s = .next
    (if (s.eng e).repairing then (s.setEng e (s.eng e).zeroDone).toSelftest e
     else (if (s.setEng e (s.eng e).zeroDone).engRole e = 3 then (s.setEng e (s.eng e).zeroDone).toSpare e
      else (s.setEng e (s.eng e).zeroDone).toOff e).afterApply (s.eng e).byApply) := by
  have hwait : ¬(decide ((s.eng e).prep ≠ some .zeroing) || decide (s.tick < (s.eng e).prepDue)) = true := by simp [hp, hdue]
  show execZeroingDone e s = _
  unfold execZeroingDone
  refine congrArg Host.Outcome.next ?_
  rw [if_neg (by simp [hp]), if_neg hwait]
  rfl

theorem State.sound_zeroDone (hs : s.Sound) : (s.setEng e (s.eng e).zeroDone).Sound := hs.setEng fun h => State.Sound.Engine_zero (h.eng e)

theorem State.becomes_zeroDone : State.Becomes e (s.eng e).zeroDone s (s.setEng e (s.eng e).zeroDone) := State.Becomes.refl.setEng

theorem State.toSelftest_spec (hs : s.Sound) : State.Becomes e ((s.eng e).testing s.tick) s (s.toSelftest e) ∧
    (s.toSelftest e).bit Fld.ENG_FO_SELFTEST e.val = true ∧ s.onlyBits (s.toSelftest e) [Fld.ENG_FO_SELFTEST.spot e.val] ∧
    State.Within 0x810 s (s.toSelftest e) := by
  have hu : (s.setEng e ((s.eng e).testing s.tick)).Sound := hs.setEng fun h => h.eng e
  have hw : State.Within 0x810 s (s.setEng e ((s.eng e).testing s.tick)) := State.Within.refl.setEng rfl
  have hb : State.Becomes e ((s.eng e).testing s.tick) s (s.setEng e ((s.eng e).testing s.tick)) := State.Becomes.refl.setEng
  exact ⟨hb.of_engines rfl, State.bit_setBit_eq hu (by decide) (by decide),
    (State.onlyBits.of_regs .refl rfl).setBit hu (List.mem_singleton_self _), hw.setBit rfl⟩

/-- An engine in repair goes on to its self-test. -/
theorem exec_zeroingDone_repair (hs : s.Sound) (hp : (s.eng e).prep = some .zeroing) (hdue : (s.eng e).prepDue ≤ s.tick)
    (hr : (s.eng e).repairing = true) : ∃ t, exec (.zeroingDone e) s = .next t ∧
      State.Becomes e ((s.eng e).zeroDone.testing s.tick) s t ∧ t.bit Fld.ENG_FO_SELFTEST e.val = true ∧
      s.onlyBits t [Fld.ENG_FO_SELFTEST.spot e.val] ∧ State.Within 0x810 s t := by
  refine ⟨_, (execZeroingDone_eq hp hdue).trans (congrArg Host.Outcome.next (if_pos hr)), ?_⟩
  have hu : (s.setEng e (s.eng e).zeroDone).Sound := State.sound_zeroDone hs
  have hz : State.Becomes e (s.eng e).zeroDone s (s.setEng e (s.eng e).zeroDone) := State.becomes_zeroDone
  have hw : State.Within 0x810 s (s.setEng e (s.eng e).zeroDone) := State.Within.refl.setEng rfl
  have hregs : s.onlyBits (s.setEng e (s.eng e).zeroDone) [Fld.ENG_FO_SELFTEST.spot e.val] := .of_regs .refl rfl
  have htick : (s.setEng e (s.eng e).zeroDone).tick = s.tick := rfl
  generalize s.setEng e (s.eng e).zeroDone = u at hu hz hw hregs htick ⊢
  obtain ⟨hb, hbit, hbits, hwithin⟩ := State.toSelftest_spec (e := e) hu
  exact ⟨⟨by rw [hb.eng, hz.eng, htick], fun k hk => (hb.others k hk).trans (hz.others k hk)⟩, hbit, hregs.trans hbits, hw.trans hwithin⟩

theorem State.toOff_spec (hs : s.Sound) : State.Becomes e (s.eng e).unmetered s (s.toOff e) ∧ (s.toOff e).Sound ∧
    (s.toOff e).engState e = .off ∧ (s.toOff e).bit Fld.ENG_PACE_VALID e.val = false ∧ (∀ f : FnId, f ≠ 0 → (s.toOff e).fn f = s.fn f) ∧
    s.onlyBits (s.toOff e) (downSpots e) ∧ State.Within 0x80810 s (s.toOff e) := by
  have hu : (s.setEng e (s.eng e).unmetered).Sound := hs.setEng fun h => h.eng e
  have hw : State.Within 0x80810 s (s.setEng e (s.eng e).unmetered) := State.Within.refl.setEng rfl
  have hb : State.Becomes e (s.eng e).unmetered s (s.setEng e (s.eng e).unmetered) := State.Becomes.refl.setEng
  have hregs : s.onlyBits (s.setEng e (s.eng e).unmetered) (downSpots e) := .of_regs .refl rfl
  have hfn : ∀ f : FnId, (s.setEng e (s.eng e).unmetered).fn f = s.fn f := fun _ => rfl
  unfold State.toOff
  generalize s.setEng e (s.eng e).unmetered = u at hu hw hb hregs hfn ⊢
  have hd := State.down_powerDown (e := e) hu
  exact ⟨hb.of_engines hd.engines, hd.sound, hd.state, hd.valid, fun f hf => (hd.fn f hf).trans (hfn f), hregs.trans hd.bits,
    hw.trans (State.within_powerDown.widen rfl)⟩

/-- An engine that serves neither a repair nor the spare role is OFF. -/
theorem exec_zeroingDone_off (hs : s.Sound) (hp : (s.eng e).prep = some .zeroing) (hdue : (s.eng e).prepDue ≤ s.tick)
    (hr : (s.eng e).repairing = false) (hrole : s.engRole e ≠ 3) : ∃ t, exec (.zeroingDone e) s = .next t ∧
      State.Becomes e (s.eng e).zeroDone.unmetered s t ∧ t.engState e = .off ∧ t.bit Fld.ENG_PACE_VALID e.val = false ∧
      (∀ f : FnId, f ≠ 0 → t.fn f = s.fn f) ∧ s.onlyBits t (downSpots e) ∧ State.Within 0x80810 s t := by
  refine ⟨_, execZeroingDone_eq hp hdue, ?_⟩
  have hu : (s.setEng e (s.eng e).zeroDone).Sound := State.sound_zeroDone hs
  have hz : State.Becomes e (s.eng e).zeroDone s (s.setEng e (s.eng e).zeroDone) := State.becomes_zeroDone
  have hw : State.Within 0x80810 s (s.setEng e (s.eng e).zeroDone) := State.Within.refl.setEng rfl
  have hregs : s.onlyBits (s.setEng e (s.eng e).zeroDone) (downSpots e) := .of_regs .refl rfl
  have hfn : ∀ f : FnId, (s.setEng e (s.eng e).zeroDone).fn f = s.fn f := fun _ => rfl
  have hrole : (s.setEng e (s.eng e).zeroDone).engRole e ≠ 3 := hrole
  rw [hr, if_neg Bool.false_ne_true, if_neg hrole]
  generalize s.setEng e (s.eng e).zeroDone = u at hu hz hw hregs hfn ⊢
  obtain ⟨hb, hsound, hstate, hvalid, hfnu, hbits, hwithin⟩ := State.toOff_spec (e := e) hu
  have happly : State.Within 0x10 (u.toOff e) ((u.toOff e).afterApply (s.eng e).byApply) := State.within_afterApply
  have hspots := State.onlyBits_afterApply (s := u.toOff e) (b := (s.eng e).byApply)
  have hfld : ∀ f : Fld, 0x1000 ≤ f.reg.addr e.val → ((u.toOff e).afterApply (s.eng e).byApply).fld f e.val = (u.toOff e).fld f e.val :=
    fun _ => State.fld_afterApply
  generalize (u.toOff e).afterApply (s.eng e).byApply = t at happly hspots hfld ⊢
  have hfuncs : ∀ f, t.fn f = (u.toOff e).fn f := fun f => by rw [State.fn, happly .funcs (by decide)]; rfl
  refine ⟨⟨?_, fun k hk => ?_⟩, ?_, ?_, fun f hf => ?_, ?_, hw.trans (hwithin.trans (happly.widen rfl))⟩
  · rw [State.eng_of_engines (happly .engines (by decide)), hb.eng, hz.eng]
  · rw [State.eng_of_engines (happly .engines (by decide)), hb.others k hk, hz.others k hk]
  · exact (congrArg EngState.ofCode (hfld Fld.ENG_STAT_STATE (addr_engine (.inl rfl)))).trans hstate
  · exact (congrArg (· == 1) (hfld Fld.ENG_PACE_VALID (addr_engine (.inr rfl)))).trans hvalid
  · rw [hfuncs, hfnu f hf, hfn]
  · exact hregs.trans (hbits.trans (hspots.mono (by simp [downSpots])))

/-! ## A spare -/

theorem State.wantsEngine_of_fo (h : t.fo = s.fo) : t.wantsEngine n = s.wantsEngine n := by
  simp only [State.wantsEngine, State.failover, h]

/-- Where no axis waits for an engine, a spare is IDLE. -/
theorem State.enterIdleSpare_unwanted (h : ∀ n, s.wantsEngine n = false) : s.enterIdleSpare e = (s.setEngState e .idle).refreshFo := by
  have hfo : (s.setEngState e .idle).fo = s.fo := (State.Within.refl (k := 0x10)).setEngState rfl .fo (by decide)
  have hnone : (allFin 48).find? (s.setEngState e .idle).wantsEngine = none :=
    List.find?_eq_none.mpr fun n _ => by rw [State.wantsEngine_of_fo hfo, h n]; exact Bool.false_ne_true
  unfold State.enterIdleSpare
  simp only [hnone]

/-- A refresh of GLB_FO_STAT shows the same state of an engine. -/
theorem State.engState_refreshFo : s.refreshFo.engState e = s.engState e := by
  have h : State.Demanded (0 : AxId) e s s.refreshFo := State.Demanded.refl.refreshFo
  exact congrArg EngState.ofCode (h.fld (f := Fld.ENG_STAT_STATE) (offDemand_engine (.inl rfl)))

theorem State.enterIdleSpare_spec (hs : s.Sound) (h : ∀ n, s.wantsEngine n = false) : (s.enterIdleSpare e).engState e = .idle ∧
    State.Within 0x10 s (s.enterIdleSpare e) := by
  rw [State.enterIdleSpare_unwanted h]
  have hw : State.Within 0x10 s (s.setEngState e .idle) := State.Within.refl.setEngState rfl
  exact ⟨State.engState_refreshFo.trans (State.engState_setEngState hs), hw.refreshFo rfl⟩

theorem State.toSpare_spec (hs : s.Sound) (h : ∀ n, s.wantsEngine n = false) : State.Becomes e ((s.eng e).metered s.tick) s (s.toSpare e) ∧
    (s.toSpare e).engState e = .idle ∧ State.Within 0x810 s (s.toSpare e) := by
  have hu : (s.setEng e ((s.eng e).metered s.tick)).Sound := hs.setEng fun h => h.eng e
  have hw : State.Within 0x810 s (s.setEng e ((s.eng e).metered s.tick)) := State.Within.refl.setEng rfl
  have hb : State.Becomes e ((s.eng e).metered s.tick) s (s.setEng e ((s.eng e).metered s.tick)) := State.Becomes.refl.setEng
  have hwants : ∀ n, (s.setEng e ((s.eng e).metered s.tick)).wantsEngine n = false := h
  unfold State.toSpare
  generalize s.setEng e ((s.eng e).metered s.tick) = u at hu hw hb hwants ⊢
  obtain ⟨hidle, hwithin⟩ := State.enterIdleSpare_spec (e := e) hu hwants
  exact ⟨hb.of_engines (hwithin .engines (by decide)), hidle, hw.trans (hwithin.widen rfl)⟩

/-- A spare is IDLE, its meter running, where no axis waits for an engine. -/
theorem exec_zeroingDone_spare (hs : s.Sound) (hp : (s.eng e).prep = some .zeroing) (hdue : (s.eng e).prepDue ≤ s.tick)
    (hr : (s.eng e).repairing = false) (hrole : s.engRole e = 3) (hwant : ∀ n, s.wantsEngine n = false) :
    ∃ t, exec (.zeroingDone e) s = .next t ∧ State.Becomes e ((s.eng e).zeroDone.metered s.tick) s t ∧ t.engState e = .idle ∧
      State.Within 0x810 s t := by
  refine ⟨_, execZeroingDone_eq hp hdue, ?_⟩
  have hu : (s.setEng e (s.eng e).zeroDone).Sound := State.sound_zeroDone hs
  have hz : State.Becomes e (s.eng e).zeroDone s (s.setEng e (s.eng e).zeroDone) := State.becomes_zeroDone
  have hw : State.Within 0x810 s (s.setEng e (s.eng e).zeroDone) := State.Within.refl.setEng rfl
  have hwants : ∀ n, (s.setEng e (s.eng e).zeroDone).wantsEngine n = false := hwant
  have htick : (s.setEng e (s.eng e).zeroDone).tick = s.tick := rfl
  have hrole : (s.setEng e (s.eng e).zeroDone).engRole e = 3 := hrole
  rw [hr, if_neg Bool.false_ne_true, if_pos hrole]
  generalize s.setEng e (s.eng e).zeroDone = u at hu hz hw hwants htick ⊢
  obtain ⟨hb, hidle, hwithin⟩ := State.toSpare_spec (e := e) hu hwants
  have happly : State.Within 0x10 (u.toSpare e) ((u.toSpare e).afterApply (s.eng e).byApply) := State.within_afterApply
  have hstate : ((u.toSpare e).afterApply (s.eng e).byApply).fld Fld.ENG_STAT_STATE e.val = (u.toSpare e).fld Fld.ENG_STAT_STATE e.val :=
    State.fld_afterApply (addr_engine (.inl rfl))
  generalize (u.toSpare e).afterApply (s.eng e).byApply = t at happly hstate ⊢
  have heng : t.engines = (u.toSpare e).engines := happly .engines (by decide)
  refine ⟨⟨?_, fun k hk => ?_⟩, ?_, hw.trans (hwithin.trans (happly.widen rfl))⟩
  · rw [State.eng_of_engines heng, hb.eng, hz.eng, htick]
  · rw [State.eng_of_engines heng, hb.others k hk, hz.others k hk]
  · exact (congrArg EngState.ofCode hstate).trans hidle

end Sys2Proof.Machine
end

section
set_option Elab.async false
/-! PROOF. The end of a self-test (15_failover.md R436, R437). -/

namespace Sys2Proof.Machine

variable {s t u : State} {n : AxId} {e k : EngId} {i o v a : Nat} {f : Fld} {img : List Byte}

/-! ## What the records and the refreshes leave -/

/-- A register behind the global block and before the function windows. -/
def Inner (a : Nat) : Prop := 0x1000 ≤ a ∧ a < 0x100000

theorem inner_engine {r : Reg} (hr : r = .ENG_STAT ∨ r = .ENG_PACE ∨ r = .ENG_FO) : Inner (r.addr e.val) := by
  unfold Inner
  rcases hr with rfl | rfl | rfl <;> simp only [Reg.addr, Reg.spec] <;> omega

theorem State.raw_foRecord {type src detail : Nat} {data : List Byte} (ha : Inner a) : (s.foRecord n type src detail data).raw a = s.raw a := by
  unfold State.foRecord
  dsimp only
  split
  · exact State.raw_event ha.2
  · exact (State.raw_event ha.2).trans (State.raw_event ha.2)

theorem State.raw_refreshPace (hs : s.Sound) (ha : Inner a) : s.refreshPace.raw a = s.raw a :=
  (State.showsPace_refreshPace hs).bits.raw (by
    obtain ⟨hlow, hhigh⟩ := ha
    simp only [paceSpots, List.forall_mem_cons, Reg.spot, Fld.spot, Reg.addr, Reg.spec, Fld.HIF_FSTAT_EVT_DROP]
    exact ⟨by omega, by omega, nofun⟩)

theorem State.onlyBits_refreshFo : s.onlyBits s.refreshFo [Reg.GLB_FO_STAT.spot] := by
  have hspot : Reg.GLB_FO_STAT.spot ∈ [Reg.GLB_FO_STAT.spot] := List.mem_singleton_self _
  have hshown : ∀ x y z, s.onlyBits (((s.setFld Fld.GLB_FO_STAT_SPARES_LEFT 0 x).setFld Fld.GLB_FO_STAT_STANDBY 0 y).setBit
      Fld.GLB_FO_STAT_EXHAUSTED 0 z) [Reg.GLB_FO_STAT.spot] := fun x y z =>
    State.onlyBits.setWord (r := .GLB_FO_STAT) (State.onlyBits.setWord (r := .GLB_FO_STAT) (State.onlyBits.setWord (r := .GLB_FO_STAT)
      .refl hspot) hspot) hspot
  unfold State.refreshFo
  dsimp only
  split
  · exact State.onlyBits.setWord (r := .GLB_FO_STAT) (hshown _ _ _) hspot
  · exact hshown _ _ _

theorem State.raw_refreshFo (ha : Inner a) : s.refreshFo.raw a = s.raw a :=
  State.onlyBits_refreshFo.raw (by
    have := ha.1
    simp only [List.forall_mem_cons, Reg.spot, Reg.addr, Reg.spec]
    exact ⟨by omega, nofun⟩)

/-! ## The registers of a load -/

/-- The registers that a load writes. -/
def loadSpots (e : EngId) : List (Nat × Word) :=
  [Reg.ENG_STAT.spot e.val, Reg.ENG_EVSTAT.spot e.val, Reg.ENG_HWM_SF.spot e.val, Reg.ENG_HWM_HR.spot e.val]

theorem State.onlyBits.loadFld (h : s.onlyBits t (loadSpots e)) (hf : f.reg = .ENG_STAT) : s.onlyBits (t.setFld f e.val v) (loadSpots e) :=
  State.onlyBits.setWord h (by simp [loadSpots, hf])

theorem State.onlyBits.loadBit {b : Bool} (h : s.onlyBits t (loadSpots e)) (hf : f.reg = .ENG_STAT) :
    s.onlyBits (t.setBit f e.val b) (loadSpots e) := State.onlyBits.of_regs (h.loadFld hf) rfl

/-- A load writes four registers of the engine. -/
theorem State.onlyBits_loadEngine {st : EngState} : s.onlyBits (s.loadEngine e img st) (loadSpots e) := by
  have hload : s.onlyBits (s.setEng e ((s.eng e).load img)) (loadSpots e) := .of_regs .refl rfl
  unfold State.loadEngine
  generalize s.setEng e ((s.eng e).load img) = u at hload ⊢
  have h1 := ((((hload.loadFld (f := .ENG_STAT_FAULT) (v := 0) rfl).loadFld (f := .ENG_STAT_FAULT_EV) (v := 0) rfl).loadBit
    (f := .ENG_STAT_FAULT_BG) (b := false) rfl).loadFld (f := .ENG_STAT_FAULT_PC) (v := 0) rfl).loadBit (f := .ENG_STAT_BK) (b := false) rfl
  have h2 := ((h1.setWord (r := .ENG_EVSTAT) (i := e.val) (j := 0) (w := 0) (by simp [loadSpots])).setWord (r := .ENG_HWM_SF) (i := e.val)
    (j := 0) (w := 0) (by simp [loadSpots])).setWord (r := .ENG_HWM_HR) (i := e.val) (j := 0) (w := 0) (by simp [loadSpots])
  exact h2.loadFld rfl

theorem State.raw_loadEngine {st : EngState} (ha : ∀ p ∈ loadSpots e, p.1 ≠ a) : (s.loadEngine e img st).raw a = s.raw a :=
  State.onlyBits_loadEngine.raw ha

theorem loadSpots_ne {r : Reg} (hr : r = .ENG_PACE ∨ r = .ENG_FO) : ∀ p ∈ loadSpots e, p.1 ≠ r.addr k.val := by
  simp only [loadSpots, List.forall_mem_cons, Reg.spot]
  rcases hr with rfl | rfl <;> simp only [Reg.addr, Reg.spec] <;> exact ⟨by omega, by omega, by omega, by omega, nofun⟩

/-! ## The two ends of a self-test -/

/-- An engine after its self-test. -/
def Engine.tested (x : Engine) : Engine := { x with prep := none, repairing := false }

/-- The self-test has ended. -/
def State.selftestEnded (s : State) (e : EngId) : State :=
  let u := s.setBit Fld.ENG_FO_SELFTEST e.val false
  u.setEng e (u.eng e).tested

/-- The engine passed: its image runs, and its pace is valid and not above the warning limit. -/
def State.fit (s : State) (e : EngId) (pass : Bool) : Bool :=
  pass && s.bit Fld.ENG_PACE_VALID e.val && decide (s.fld Fld.ENG_PACE_PACE_PS e.val ≤ s.warnPs)

/-- A failed engine is retired (R437). -/
def State.retired (s : State) (e : EngId) (n : AxId) : State :=
  let u := ((s.setEngState e .faulted).setBit Fld.ENG_FO_RETIRED e.val true).setBit Fld.ENG_PACE_VALID e.val false
  ((u.setEng e (u.eng e).unmetered).foRecord n 0x0053 e.val 0 [BitVec.ofNat 8 n.val]).refreshPace

/-- An engine that has passed its self-test. -/
def State.passed (s : State) (e : EngId) : State := s.setEng e { s.eng e with lastPass := some s.tick }

/-- The engine follows an axis as STANDBY with an old claim. -/
def State.standbyLoaded (s : State) (e : EngId) (n : AxId) (c : Nat) (img : List Byte) : State :=
  ((((s.loadEngine e img .standby).setFld Fld.ENG_FO_CLAIM e.val c).setFld Fld.ENG_FO_AXIS e.val n.val).foRecord n 0x0053 e.val 1
    [BitVec.ofNat 8 n.val]).refreshFo

/-- What follows a passed self-test: the old axis, or the spare role. -/
def State.afterPass (s : State) (e : EngId) (n : AxId) (c : Nat) : State :=
  match s.store.axisImage n with
  | some img => if (allFin 48).any s.wantsEngine then s.enterIdleSpare e else s.standbyLoaded e n c img
  | none => s.enterIdleSpare e

theorem State.afterPass_standby {c : Nat} (hwant : ∀ n, s.wantsEngine n = false) (himg : s.store.axisImage n = some img) :
    s.afterPass e n c = s.standbyLoaded e n c img := by
  have hany : (allFin 48).any s.wantsEngine = false := List.any_eq_false.mpr fun n _ => by simp [hwant n]
  unfold State.afterPass
  rw [himg]
  exact if_neg (by rw [hany]; exact Bool.false_ne_true)

theorem execEngineSelftestDone_fail {pass : Bool} (hp : (s.eng e).prep = some .selftest) (hok : (s.selftestEnded e).fit e pass = false) :
    exec (.engineSelftestDone e pass) s = .next ((s.selftestEnded e).retired e (s.eng e).axis) := by
  show execEngineSelftestDone e pass s = _
  unfold execEngineSelftestDone
  refine congrArg Host.Outcome.next ?_
  rw [if_neg (not_not_intro hp)]
  refine (if_neg ?_).trans rfl
  exact fun h => absurd (hok.symm.trans h) Bool.false_ne_true

theorem execEngineSelftestDone_pass {pass : Bool} (hp : (s.eng e).prep = some .selftest) (hok : (s.selftestEnded e).fit e pass = true) :
    exec (.engineSelftestDone e pass) s = .next (((s.selftestEnded e).passed e).afterPass e (s.eng e).axis (s.eng e).oldClaim) := by
  show execEngineSelftestDone e pass s = _
  unfold execEngineSelftestDone
  refine congrArg Host.Outcome.next ?_
  rw [if_neg (not_not_intro hp)]
  exact (if_pos hok).trans rfl

/-! ## What the two ends show -/

theorem addr_stat_ne_foEng : Reg.ENG_STAT.addr k.val ≠ Reg.ENG_FO.addr e.val := by simp only [Reg.addr, Reg.spec]; omega
theorem addr_pace_ne_fo : Reg.ENG_PACE.addr k.val ≠ Reg.ENG_FO.addr e.val := by simp only [Reg.addr, Reg.spec]; omega
theorem addr_pace_ne_fo' : (Reg.GLB_PACE_CFG.addr 0) ≠ Reg.ENG_FO.addr e.val := by simp only [Reg.addr, Reg.spec]; omega

/-- The end of the self-test shows in ENG_FO.SELFTEST, and changes no pace. -/
theorem State.selftestEnded_spec (hs : s.Sound) : (s.selftestEnded e).Sound ∧ State.Becomes e (s.eng e).tested s (s.selftestEnded e) ∧
    (s.selftestEnded e).bit Fld.ENG_FO_SELFTEST e.val = false ∧ State.Within 0x810 s (s.selftestEnded e) ∧
    ∀ pass, (s.selftestEnded e).fit e pass = s.fit e pass := by
  have hw : State.Within 0x810 s (s.setBit Fld.ENG_FO_SELFTEST e.val false) := State.Within.refl.setBit rfl
  have hb : State.Becomes e (s.eng e) s (s.setBit Fld.ENG_FO_SELFTEST e.val false) := State.Becomes.refl.of_engines rfl
  have hbit : (s.setBit Fld.ENG_FO_SELFTEST e.val false).bit Fld.ENG_FO_SELFTEST e.val = false := State.bit_setBit_eq hs (by decide) (by decide)
  have hfld : ∀ {f : Fld} {i : Nat}, f.reg.addr i ≠ Reg.ENG_FO.addr e.val → (s.setBit Fld.ENG_FO_SELFTEST e.val false).fld f i = s.fld f i :=
    fun hne => ((State.Keeps.refl hs).setBit (.inl hne)).fld
  have hsound : (s.setBit Fld.ENG_FO_SELFTEST e.val false).Sound := hs.setBit
  unfold State.selftestEnded
  generalize s.setBit Fld.ENG_FO_SELFTEST e.val false = u at hw hb hbit hfld hsound ⊢
  refine ⟨hsound.setEng fun h => h.eng e, hb.setEng.of_eng (by rw [hb.eng]), hbit, hw.setEng rfl, fun pass => ?_⟩
  have hvalid : u.bit Fld.ENG_PACE_VALID e.val = s.bit Fld.ENG_PACE_VALID e.val := congrArg (· == 1) (hfld addr_pace_ne_fo)
  have hpace : u.fld Fld.ENG_PACE_PACE_PS e.val = s.fld Fld.ENG_PACE_PACE_PS e.val := hfld addr_pace_ne_fo
  have hwarn : u.warnPs = s.warnPs := congrArg (fun p => Nat.min 1600 (Nat.max 1400 p)) (hfld addr_pace_ne_fo')
  have hfit : u.fit e pass = s.fit e pass := by simp only [State.fit, hvalid, hpace, hwarn]
  exact hfit

/-- A retired engine. -/
structure State.Retired (e : EngId) (s t : State) : Prop where
  state : t.engState e = .faulted
  retired : t.bit Fld.ENG_FO_RETIRED e.val = true
  selftest : t.bit Fld.ENG_FO_SELFTEST e.val = s.bit Fld.ENG_FO_SELFTEST e.val
  valid : t.bit Fld.ENG_PACE_VALID e.val = false
  becomes : State.Becomes e (s.eng e).unmetered s t
  within : State.Within 0x80810 s t

theorem State.Retired.of_raw (h : State.Retired e s t) (hraw : ∀ a, Inner a → u.raw a = t.raw a) (hw : State.Within 0x80010 t u) :
    State.Retired e s u := by
  obtain ⟨hstate, hretired, htest, hvalid, hb, hwithin⟩ := h
  have hfld : ∀ {f : Fld}, (f.reg = .ENG_STAT ∨ f.reg = .ENG_PACE ∨ f.reg = .ENG_FO) → u.fld f e.val = t.fld f e.val := fun hf => by
    rw [State.fld_eq, hraw _ (inner_engine hf), State.fld_eq]
  have hbit : ∀ {f : Fld}, (f.reg = .ENG_PACE ∨ f.reg = .ENG_FO) → u.bit f e.val = t.bit f e.val := fun hf =>
    congrArg (· == 1) (hfld (.inr hf))
  exact ⟨(congrArg EngState.ofCode (hfld (.inl rfl))).trans hstate, (hbit (.inr rfl)).trans hretired, (hbit (.inr rfl)).trans htest,
    (hbit (.inl rfl)).trans hvalid, hb.of_engines (hw .engines (by decide)), hwithin.trans (hw.widen (m' := 0x80810) rfl)⟩

theorem State.Keeps.bit (h : State.Keeps f i s t) : t.bit f i = s.bit f i := congrArg (· == 1) h.fld

theorem State.Keeps.engState (h : State.Keeps Fld.ENG_STAT_STATE e.val s t) : t.engState e = s.engState e := congrArg EngState.ofCode h.fld

/-- The registers of a retired engine. -/
def State.retiredRegs (s : State) (e : EngId) : State :=
  ((s.setEngState e .faulted).setBit Fld.ENG_FO_RETIRED e.val true).setBit Fld.ENG_PACE_VALID e.val false

theorem State.retiredRegs_shows (hs : s.Sound) : (s.retiredRegs e).engState e = .faulted ∧
    (s.retiredRegs e).bit Fld.ENG_FO_RETIRED e.val = true ∧
    (s.retiredRegs e).bit Fld.ENG_FO_SELFTEST e.val = s.bit Fld.ENG_FO_SELFTEST e.val ∧
    (s.retiredRegs e).bit Fld.ENG_PACE_VALID e.val = false := by
  have hstatFo : Fld.ENG_STAT_STATE.Clear e.val Fld.ENG_FO_RETIRED e.val := .inl addr_stat_ne_foEng
  have hstatPace : Fld.ENG_STAT_STATE.Clear e.val Fld.ENG_PACE_VALID e.val := .inl addr_pace_ne_stat.symm
  have hfoPace : Fld.ENG_FO_RETIRED.Clear e.val Fld.ENG_PACE_VALID e.val := .inl addr_pace_ne_fo.symm
  have htestStat : Fld.ENG_FO_SELFTEST.Clear e.val Fld.ENG_STAT_STATE e.val := .inl addr_stat_ne_foEng.symm
  have htestFo : Fld.ENG_FO_SELFTEST.Clear e.val Fld.ENG_FO_RETIRED e.val := .inr ⟨rfl, rfl, by decide, by decide⟩
  have htestPace : Fld.ENG_FO_SELFTEST.Clear e.val Fld.ENG_PACE_VALID e.val := .inl addr_pace_ne_fo.symm
  have h1 : (s.setEngState e .faulted).Sound := hs.setEngState
  have htest : State.Keeps Fld.ENG_FO_SELFTEST e.val s (s.retiredRegs e) := (((State.Keeps.refl hs).setFld htestStat).setBit htestFo).setBit htestPace
  have hstate : State.Keeps Fld.ENG_STAT_STATE e.val (s.setEngState e .faulted) (s.retiredRegs e) :=
    ((State.Keeps.refl h1).setBit hstatFo).setBit hstatPace
  have hretired : State.Keeps Fld.ENG_FO_RETIRED e.val ((s.setEngState e .faulted).setBit Fld.ENG_FO_RETIRED e.val true) (s.retiredRegs e) :=
    (State.Keeps.refl h1.setBit).setBit hfoPace
  exact ⟨hstate.engState.trans (State.engState_setEngState hs), hretired.bit.trans (State.bit_setBit_eq h1 (by decide) (by decide)), htest.bit,
    State.bit_setBit_eq h1.setBit (by decide) (by decide)⟩

theorem State.retired_spec (hs : s.Sound) : State.Retired e s (s.retired e n) := by
  have hu : (s.retiredRegs e).Sound := hs.setEngState.setBit.setBit
  obtain ⟨hstate, hretired, htest, hvalid⟩ := State.retiredRegs_shows (e := e) hs
  have hw : State.Within 0x10 s (s.retiredRegs e) :=
    (((State.Within.refl (k := 0x10)).setEngState rfl).setBit rfl).setBit rfl
  have hb : State.Becomes e (s.eng e) s (s.retiredRegs e) := State.Becomes.refl.of_engines (hw .engines (by decide))
  show State.Retired e s ((((s.retiredRegs e).setEng e ((s.retiredRegs e).eng e).unmetered).foRecord n 0x0053 e.val 0
    [BitVec.ofNat 8 n.val]).refreshPace)
  generalize s.retiredRegs e = u at hu hstate hretired htest hvalid hw hb ⊢
  have hset : State.Retired e s (u.setEng e (u.eng e).unmetered) :=
    ⟨hstate, hretired, htest, hvalid, hb.setEng.of_eng (by rw [hb.eng]), (hw.widen (m' := 0x80810) rfl).setEng rfl⟩
  have hsound : (u.setEng e (u.eng e).unmetered).Sound := hu.setEng fun h => h.eng e
  generalize u.setEng e (u.eng e).unmetered = w at hset hsound ⊢
  have hrec : State.Within 0x80010 w (w.foRecord n 0x0053 e.val 0 [BitVec.ofNat 8 n.val]) := State.Within.refl.foRecord rfl
  exact hset.of_raw (fun a ha => (State.raw_refreshPace hsound.foRecord ha).trans (State.raw_foRecord ha)) (hrec.refreshPace rfl)

/-- An engine that follows its axis as STANDBY, with the claim `c`. -/
structure State.Follows (e : EngId) (c : Nat) (img : List Byte) (s t : State) : Prop where
  state : t.engState e = .standby
  claim : t.fld Fld.ENG_FO_CLAIM e.val = c % 256
  selftest : t.bit Fld.ENG_FO_SELFTEST e.val = s.bit Fld.ENG_FO_SELFTEST e.val
  becomes : State.Becomes e ((s.eng e).load img) s t
  within : State.Within 0x80810 s t

theorem State.standbyLoaded_spec {c : Nat} (hs : s.Sound) : State.Follows e c img s (s.standbyLoaded e n c img) := by
  have hload : (s.loadEngine e img .standby).Sound := hs.loadEngine
  have hstat := (State.loadEngine_stat (e := e) (img := img) (st := .standby) hs).1
  have hw : State.Within 0x80810 s (s.loadEngine e img .standby) := State.Within.refl.loadEngine rfl
  have hb : State.Becomes e ((s.eng e).load img) s (s.loadEngine e img .standby) := ⟨State.eng_loadEngine, fun _ => State.eng_loadEngine_ne⟩
  have htest : (s.loadEngine e img .standby).bit Fld.ENG_FO_SELFTEST e.val = s.bit Fld.ENG_FO_SELFTEST e.val := 
    congrArg (fun w => Fld.ENG_FO_SELFTEST.get w == 1) (State.raw_loadEngine (loadSpots_ne (.inr rfl)))
  unfold State.standbyLoaded
  generalize s.loadEngine e img .standby = u at hload hstat hw hb htest ⊢
  have hstatFo : ∀ g : Fld, g.reg = .ENG_FO → Fld.ENG_STAT_STATE.Clear e.val g e.val := fun g hg => Fld.clear_of_addr rfl hg addr_stat_ne_foEng
  have hapart : ∀ f g : Fld, f.reg = .ENG_FO → g.reg = .ENG_FO → f.lsb + f.width ≤ 32 → f.Disjoint g → f.Clear e.val g e.val :=
    fun f g hf hg hl hd => .inr ⟨hf.trans hg.symm, rfl, hl, hd⟩
  have hstate := ((State.Keeps.refl hload).setFld (v := c) (hstatFo Fld.ENG_FO_CLAIM rfl)).setFld (v := n.val) (hstatFo Fld.ENG_FO_AXIS rfl)
  have hkept := ((State.Keeps.refl hload).setFld (v := c) (hapart Fld.ENG_FO_SELFTEST Fld.ENG_FO_CLAIM rfl rfl (by decide) (by decide))).setFld
    (v := n.val) (hapart Fld.ENG_FO_SELFTEST Fld.ENG_FO_AXIS rfl rfl (by decide) (by decide))
  have hclaim := ((State.Keeps.refl (hload.setFld (f := Fld.ENG_FO_CLAIM) (i := e.val) (v := c))).setFld (v := n.val)
    (hapart Fld.ENG_FO_CLAIM Fld.ENG_FO_AXIS rfl rfl (by decide) (by decide))).fld.trans (State.fld_setFld_same hload (by decide))
  have hregs : State.Within 0x10 u ((u.setFld Fld.ENG_FO_CLAIM e.val c).setFld Fld.ENG_FO_AXIS e.val n.val) :=
    ((State.Within.refl (k := 0x10)).setFld rfl).setFld rfl
  generalize (u.setFld Fld.ENG_FO_CLAIM e.val c).setFld Fld.ENG_FO_AXIS e.val n.val = w at hstate hkept hclaim hregs ⊢
  have hrec : State.Within 0x80010 w ((w.foRecord n 0x0053 e.val 1 [BitVec.ofNat 8 n.val]).refreshFo) :=
    ((State.Within.refl (k := 0x80010)).foRecord rfl).refreshFo rfl
  have hfld : ∀ {f : Fld}, (f.reg = .ENG_STAT ∨ f.reg = .ENG_PACE ∨ f.reg = .ENG_FO) →
      ((w.foRecord n 0x0053 e.val 1 [BitVec.ofNat 8 n.val]).refreshFo).fld f e.val = w.fld f e.val := fun hf => by
    rw [State.fld_eq, State.raw_refreshFo (inner_engine hf), State.raw_foRecord (inner_engine hf), State.fld_eq]
  generalize (w.foRecord n 0x0053 e.val 1 [BitVec.ofNat 8 n.val]).refreshFo = t at hrec hfld ⊢
  exact ⟨(congrArg EngState.ofCode (hfld (.inl rfl))).trans (hstate.engState.trans hstat), (hfld (.inr (.inr rfl))).trans hclaim,
    (congrArg (· == 1) (hfld (.inr (.inr rfl)))).trans (hkept.bit.trans htest),
    (hb.of_engines (hregs .engines (by decide))).of_engines (hrec .engines (by decide)),
    hw.trans ((hregs.widen (m' := 0x80810) rfl).trans (hrec.widen (m' := 0x80810) rfl))⟩

/-! ## The end of a self-test -/

theorem exec_selftestDone_fail {pass : Bool} (hs : s.Sound) (hp : (s.eng e).prep = some .selftest) (hok : s.fit e pass = false) :
    ∃ t, exec (.engineSelftestDone e pass) s = .next t ∧ t.engState e = .faulted ∧ t.bit Fld.ENG_FO_RETIRED e.val = true ∧
      t.bit Fld.ENG_FO_SELFTEST e.val = false ∧ t.bit Fld.ENG_PACE_VALID e.val = false ∧
      State.Becomes e (s.eng e).tested.unmetered s t ∧ State.Within 0x80810 s t := by
  obtain ⟨hsound, hb, htest, hw, hfit⟩ := State.selftestEnded_spec (e := e) hs
  refine ⟨_, execEngineSelftestDone_fail hp ((hfit pass).trans hok), ?_⟩
  generalize s.selftestEnded e = u at hsound hb htest hw ⊢
  obtain ⟨hstate, hretired, hself, hvalid, hbu, hwu⟩ := State.retired_spec (e := e) (n := (s.eng e).axis) hsound
  exact ⟨hstate, hretired, hself.trans htest, hvalid, ⟨by rw [hbu.eng, hb.eng], fun k hk => (hbu.others k hk).trans (hb.others k hk)⟩,
    (hw.widen (m' := 0x80810) rfl).trans hwu⟩

/-- The engine with the tick of its latest passed self-test. -/
def Engine.proved (x : Engine) (tick : Nat) : Engine := { x with lastPass := some tick }

theorem exec_selftestDone_pass {pass : Bool} (hs : s.Sound) (hp : (s.eng e).prep = some .selftest) (hok : s.fit e pass = true)
    (hwant : ∀ n, s.wantsEngine n = false) (himg : s.store.axisImage (s.eng e).axis = some img) :
    ∃ t, exec (.engineSelftestDone e pass) s = .next t ∧ t.engState e = .standby ∧
      t.fld Fld.ENG_FO_CLAIM e.val = (s.eng e).oldClaim % 256 ∧ t.bit Fld.ENG_FO_SELFTEST e.val = false ∧
      State.Becomes e (((s.eng e).tested.proved s.tick).load img) s t ∧ State.Within 0x80810 s t := by
  obtain ⟨hsound, hb, htest, hw, hfit⟩ := State.selftestEnded_spec (e := e) hs
  refine ⟨_, execEngineSelftestDone_pass hp ((hfit pass).trans hok), ?_⟩
  generalize s.selftestEnded e = u at hsound hb htest hw ⊢
  have hpassed : (u.passed e).Sound := hsound.setEng fun h => h.eng e
  have hwp : State.Within 0x810 s (u.passed e) := hw.setEng rfl
  have htick : u.tick = s.tick := hw .tick (by decide)
  have hbp : State.Becomes e ((s.eng e).tested.proved s.tick) s (u.passed e) :=
    hb.setEng.of_eng (by rw [hb.eng, htick]; rfl)
  have htp : (u.passed e).bit Fld.ENG_FO_SELFTEST e.val = false := htest
  generalize u.passed e = v at hpassed hwp hbp htp ⊢
  have hwv : ∀ n, v.wantsEngine n = false := fun n => (State.wantsEngine_of_fo (hwp .fo (by decide))).trans (hwant n)
  have himgv : v.store.axisImage (s.eng e).axis = some img := by rw [show v.store = s.store from hwp .store (by decide), himg]
  rw [State.afterPass_standby hwv himgv]
  obtain ⟨hstate, hclaim, hself, hbv, hwf⟩ := State.standbyLoaded_spec (e := e) (n := (s.eng e).axis) (c := (s.eng e).oldClaim) (img := img) hpassed
  exact ⟨hstate, hclaim, hself.trans htp, ⟨by rw [hbv.eng, hbp.eng], fun k hk => (hbv.others k hk).trans (hbp.others k hk)⟩,
    (hwp.widen (m' := 0x80810) rfl).trans hwf⟩

end Sys2Proof.Machine
end

section
set_option Elab.async false
/-! PROOF. The end of the copy of an image (02_engines.md R84, R97). -/

namespace Sys2Proof.Machine

variable {s t u : State} {n : AxId} {e k : EngId} {i o v a : Nat} {f : Fld} {img : List Byte} {c : CmdSrc}

/-! ## Completions -/

/-- The completions that wait in each function are as before. -/
def State.SameComps (s t : State) : Prop := ∀ f, (t.fn f).comps = (s.fn f).comps

theorem State.SameComps.trans (h : State.SameComps s t) (h2 : State.SameComps t u) : State.SameComps s u := fun f => (h2 f).trans (h f)

theorem State.SameComps.of_funcs (h : State.SameComps s t) (hu : u.funcs = t.funcs) : State.SameComps s u := fun f => by
  rw [State.fn, hu]
  exact h f

theorem State.SameComps.setFn {fn : FnId} {x : Func} (h : State.SameComps s t) (hx : x.comps = (t.fn fn).comps) :
    State.SameComps s (t.setFn fn x) := fun f => by
  by_cases hf : f = fn
  · subst hf
    rw [State.fn_setFn_same, hx, h f]
  · rw [State.fn_setFn_ne _ _ _ hf, h f]

theorem State.SameComps.setFld {g : Fld} (h : State.SameComps s t) : State.SameComps s (t.setFld g i v) := h.of_funcs rfl

/-- The interrupt of a function that reports an error signals its vector only. -/
theorem State.SameComps.fstatChanged {fn : FnId} (h : State.SameComps s t) : State.SameComps s (t.fstatChanged fn) := h.setFn rfl

theorem State.SameComps.event {fn : FnId} {type src detail : Nat} {data : List Byte} (h : State.SameComps s t) :
    State.SameComps s (t.event fn type src detail data) := by
  unfold State.event State.queueEvent
  dsimp only
  split
  · exact h.setFn rfl
  · refine State.SameComps.fstatChanged (State.SameComps.setFld (h.setFn ?_))
    rfl

theorem State.SameComps.ite {b : Prop} [Decidable b] (h : State.SameComps s t) (h2 : State.SameComps s u) :
    State.SameComps s (if b then t else u) := by
  split
  · exact h
  · exact h2

theorem State.SameComps.refreshPace : State.SameComps s s.refreshPace := by
  have h : State.SameComps s s.paceWritten := fun f => by
    rw [State.fn, State.within_paceWritten .funcs (by decide)]
    rfl
  exact ((h.event.ite h).event).ite (h.event.ite h)

theorem State.comps_complete {x : CompCode} {reason flags : Nat} {data : List Byte} {dt : Nat} (h : (t.fn c.fn).comps = (s.fn c.fn).comps) :
    ((t.complete c x reason flags data dt).fn c.fn).comps =
      (s.fn c.fn).comps ++ [⟨c, x.code, BitVec.ofNat 8 reason, BitVec.ofNat 8 flags, dt, padTo 15 data, x.final⟩] := by
  rw [State.complete, State.fn_setFn_same, h]

/-! ## The two ends of a copy -/

/-- An engine whose copy has ended. -/
def Engine.copyEnded (x : Engine) : Engine := { x with prep := none, copyImg := [] }

/-- An engine whose image failed its CRC check. -/
def Engine.copyFailed (x : Engine) : Engine := { x.zero with prep := none, copyImg := [], wantStart := none, meterFrom := none }

/-- The engine holds the image. -/
def State.copyLoaded (s : State) (e : EngId) (img : List Byte) : State :=
  let u := s.loadEngine e img .loaded
  u.setEng e (u.eng e).copyEnded

/-- The image store keeps the image for the engine, or for its axis. -/
def State.kept (s : State) (e : EngId) (n : AxId) (img : List Byte) : State :=
  { s with store := if s.engRole e = 2 then s.store.putGroup e img else s.store.putAxis n img }

/-- The copy of an image at its due tick, for one command and with no start or plan change that waits. -/
structure State.CopyEnds (s : State) (e : EngId) (c : CmdSrc) : Prop where
  prep : (s.eng e).prep = some (.copying (some c))
  due : (s.eng e).prepDue ≤ s.tick
  start : (s.eng e).wantStart = none
  apply : (s.eng e).byApply = false

theorem execImageCopyDone_good (h : s.CopyEnds e c) : exec (.imageCopyDone e true) s =
    .next (((s.copyLoaded e (s.eng e).copyImg).kept e (s.eng e).axis (s.eng e).copyImg).complete c .done) := by
  obtain ⟨hprep, hdue, hstart, happly⟩ := h
  show execImageCopyDone e true s = _
  unfold execImageCopyDone
  have hfree : ¬(s.eng e).byApply = true := Bool.eq_false_iff.mp happly
  refine congrArg Host.Outcome.next ?_
  dsimp only
  rw [hprep]
  dsimp only
  rw [if_neg (Nat.not_lt.mpr hdue), if_neg hfree, if_pos rfl, hstart]
  rfl

theorem execImageCopyDone_bad (h : s.CopyEnds e c) : exec (.imageCopyDone e false) s =
    .next (((s.setEng e (s.eng e).copyFailed).powerDown e).complete c .fault 5) := by
  obtain ⟨hprep, hdue, hstart, happly⟩ := h
  show execImageCopyDone e false s = _
  unfold execImageCopyDone
  have hfree : ¬(s.eng e).byApply = true := Bool.eq_false_iff.mp happly
  refine congrArg Host.Outcome.next ?_
  dsimp only
  rw [hprep]
  dsimp only
  rw [if_neg (Nat.not_lt.mpr hdue), if_neg hfree, if_neg Bool.false_ne_true, hstart]
  rfl

/-- The image that the store keeps last for an axis is the one it returns. -/
theorem ImageStore.axisImage_putAxis (t : ImageStore) (n : AxId) (l : List Byte) : (t.putAxis n l).axisImage n = some l := by
  have hnone : (t.axis.filter fun kv => decide (kv.1 ≠ n.val)).find? (fun kv => kv.1 == n.val) = none :=
    List.find?_eq_none.mpr fun kv hkv => by simpa using (List.mem_filter.mp hkv).2
  simp only [ImageStore.axisImage, ImageStore.putAxis, List.find?_append, hnone, Option.none_or]
  simp

/-- A load leaves the role of the engine. -/
theorem State.engRole_loadRegs (hs : s.Sound) : (s.loadRegs e).engRole e = s.engRole e := by
  have hfault : State.Keeps Fld.ENG_STAT_ROLE e.val s (s.setFld Fld.ENG_STAT_FAULT e.val 0) := (State.Keeps.refl hs).setFld (Fld.clear_stat _ _)
  have hkeep : State.Keeps Fld.ENG_STAT_ROLE e.val s ((s.setFld Fld.ENG_STAT_FAULT e.val 0).loadRest e) :=
    hfault.loadRest ⟨rfl, by decide, by decide, by decide, by decide, by decide⟩
  rw [State.loadRegs_eq]
  exact hkeep.fld

theorem State.engRole_loadEngine {st : EngState} (hs : s.Sound) : (s.loadEngine e img st).engRole e = s.engRole e := by
  have h0 : (s.setEng e ((s.eng e).load img)).Sound := hs.setEng fun h => State.Sound.Engine_load (h.eng e)
  have hrole : (s.setEng e ((s.eng e).load img)).engRole e = s.engRole e := rfl
  unfold State.loadEngine
  generalize s.setEng e ((s.eng e).load img) = u at h0 hrole ⊢
  have hset : ((u.loadRegs e).setEngState e st).engRole e = (u.loadRegs e).engRole e :=
    ((State.Keeps.refl h0.loadRegs).setFld (Fld.clear_stat Fld.ENG_STAT_ROLE Fld.ENG_STAT_STATE)).fld
  exact hset.trans ((State.engRole_loadRegs h0).trans hrole)

/-- The engine of a good copy: LOADED, in the role that it had. -/
theorem State.copyLoaded_spec (hs : s.Sound) : (s.copyLoaded e img).engState e = .loaded ∧
    (s.copyLoaded e img).engRole e = s.engRole e ∧ State.Becomes e ((s.eng e).load img).copyEnded s (s.copyLoaded e img) ∧
    s.onlyBits (s.copyLoaded e img) (loadSpots e) ∧ State.Within 0x810 s (s.copyLoaded e img) := by
  have hstat := (State.loadEngine_stat (e := e) (img := img) (st := .loaded) hs).1
  have hb : State.Becomes e ((s.eng e).load img) s (s.loadEngine e img .loaded) := ⟨State.eng_loadEngine, fun _ => State.eng_loadEngine_ne⟩
  have hw : State.Within 0x810 s (s.loadEngine e img .loaded) := State.Within.refl.loadEngine rfl
  have hrole := State.engRole_loadEngine (e := e) (img := img) (st := .loaded) hs
  have hbits : s.onlyBits (s.loadEngine e img .loaded) (loadSpots e) := State.onlyBits_loadEngine
  unfold State.copyLoaded
  generalize s.loadEngine e img .loaded = u at hstat hb hw hrole hbits ⊢
  exact ⟨hstat, hrole, hb.setEng.of_eng (by rw [hb.eng]), hbits.of_regs rfl, hw.setEng rfl⟩

/-- With a good CRC the engine is LOADED, and the store keeps its image. -/
theorem exec_imageCopyDone_good (hs : s.Sound) (h : s.CopyEnds e c) : ∃ t, exec (.imageCopyDone e true) s = .next t ∧
    t.engState e = .loaded ∧ State.Becomes e ((s.eng e).load (s.eng e).copyImg).copyEnded s t ∧
    (s.engRole e = 1 → t.store.axisImage (s.eng e).axis = some (s.eng e).copyImg) ∧
    (t.fn c.fn).comps = (s.fn c.fn).comps ++ [⟨c, 3, 0, 0, s.now, padTo 15 [], true⟩] ∧
    (∀ f : FnId, f ≠ c.fn → t.fn f = s.fn f) ∧ s.onlyBits t (loadSpots e) := by
  obtain ⟨hstate, hrole, hb, hbits, hw⟩ := State.copyLoaded_spec (e := e) (img := (s.eng e).copyImg) hs
  refine ⟨_, execImageCopyDone_good h, ?_⟩
  have hnow : (s.copyLoaded e (s.eng e).copyImg).now = s.now := congrArg BitVec.toNat (hw .dt (by decide))
  have hfn : ∀ f, (s.copyLoaded e (s.eng e).copyImg).fn f = s.fn f := fun f => by rw [State.fn, hw .funcs (by decide)]; rfl
  generalize s.copyLoaded e (s.eng e).copyImg = u at hstate hrole hb hbits hw hnow hfn ⊢
  refine ⟨hstate, hb.of_engines rfl, fun h1 => ?_, ?_, fun f hf => (State.fn_setFn_ne _ _ _ hf).trans (hfn f), hbits.of_regs rfl⟩
  · have hne : ¬u.engRole e = 2 := by rw [hrole, h1]; decide
    show (if u.engRole e = 2 then u.store.putGroup e (s.eng e).copyImg else u.store.putAxis (s.eng e).axis (s.eng e).copyImg).axisImage _ = _
    rw [if_neg hne, ImageStore.axisImage_putAxis]
  · have hcomps : ((u.kept e (s.eng e).axis (s.eng e).copyImg).fn c.fn).comps = (s.fn c.fn).comps := congrArg Func.comps (hfn c.fn)
    rw [State.comps_complete hcomps, ← hnow]
    rfl

/-- With a bad CRC the engine is OFF, and the command ends with FAULT, IMAGE_CRC. -/
theorem exec_imageCopyDone_bad (hs : s.Sound) (h : s.CopyEnds e c) : ∃ t, exec (.imageCopyDone e false) s = .next t ∧
    t.engState e = .off ∧ State.Becomes e (s.eng e).copyFailed s t ∧ t.bit Fld.ENG_PACE_VALID e.val = false ∧ t.store = s.store ∧
    (t.fn c.fn).comps = (s.fn c.fn).comps ++ [⟨c, 5, 5, 0, s.now, padTo 15 [], true⟩] := by
  refine ⟨_, execImageCopyDone_bad h, ?_⟩
  have hu : (s.setEng e (s.eng e).copyFailed).Sound := hs.setEng fun h => State.Sound.Engine_zero (h.eng e)
  have hb : State.Becomes e (s.eng e).copyFailed s (s.setEng e (s.eng e).copyFailed) := State.Becomes.refl.setEng
  have hw : State.Within 0x810 s (s.setEng e (s.eng e).copyFailed) := State.Within.refl.setEng rfl
  have hcomps : State.SameComps s (s.setEng e (s.eng e).copyFailed) := fun _ => rfl
  generalize s.setEng e (s.eng e).copyFailed = u at hu hb hw hcomps ⊢
  obtain ⟨-, hstate, hvalid, hengines, -, -⟩ := State.down_powerDown (e := e) hu
  have hwd : State.Within 0x80010 u (u.powerDown e) := State.within_powerDown
  have hunmeasured : State.SameComps u (u.setBit Fld.ENG_PACE_VALID e.val false) := fun _ => rfl
  have hdown : State.SameComps u (u.powerDown e) := (hunmeasured.trans State.SameComps.refreshPace).of_funcs rfl
  have hnow : (u.powerDown e).now = s.now := congrArg BitVec.toNat ((show (u.powerDown e).dt = u.dt from hwd .dt (by decide)).trans (hw .dt (by decide)))
  have hstore : (u.powerDown e).store = s.store := (show (u.powerDown e).store = u.store from hwd .store (by decide)).trans (hw .store (by decide))
  generalize u.powerDown e = v at hstate hvalid hengines hdown hnow hstore ⊢
  refine ⟨hstate, (hb.of_engines hengines).of_engines rfl, hvalid, hstore, ?_⟩
  rw [State.comps_complete ((hcomps.trans hdown) c.fn), ← hnow]
  rfl

end Sys2Proof.Machine

open Sys2Proof Sys2Proof.Machine

/-- Settles O19: a take-over by its registers, claim and demands; a zeroing, a self-test and a copy by the engine that each leaves. -/
theorem enginePreparation : Obligations.EnginePreparation := by
  unfold Obligations.EnginePreparation
  dsimp only
  refine ⟨fun s n e o img hs hc ho hstop hdue himg htop => ?_, fun s e hs hp hdue => ⟨fun hr => ?_, fun hr hrole => ?_, fun hr hrole hwant => ?_⟩,
    fun s e pass hs hp => ⟨fun hok => ?_, fun hok hwant img himg => ?_⟩, fun s e c hs hp hdue hstart happly _ => ⟨?_, ?_⟩⟩
  · obtain ⟨t, ht, hstate, hrole, hfault, hpost, ⟨hclaim, hengine, hholder⟩, hservice, ⟨x, hx⟩, hax⟩ :=
      exec_takeoverStart hs hc ho hstop hdue himg htop
    simp only [Engine.post, Prod.mk.injEq] at hpost
    obtain ⟨hbank0, hbank1, himage, hpc, haxis, hrun, hcast⟩ := hpost
    exact ⟨t, ht, hstate, hrole, haxis, hrun, hcast, hpc, hbank0, hbank1, himage, hfault, hclaim, hengine, hholder, hservice,
      by rw [hx]; rfl, by rw [hx]; rfl, by rw [hx]; rfl, hax⟩
  · obtain ⟨t, ht, ⟨heng, hothers⟩, hbit, hbits, hw⟩ := exec_zeroingDone_repair hs hp hdue hr
    exact ⟨t, ht, by rw [heng]; rfl, by rw [heng]; rfl, by rw [heng]; rfl, by rw [heng]; rfl, by rw [heng]; rfl, hbit, hothers, hbits,
      hw .axes (by decide), hw .funcs (by decide)⟩
  · obtain ⟨t, ht, ⟨heng, hothers⟩, hstate, hvalid, hfn, hbits, hw⟩ := exec_zeroingDone_off hs hp hdue hr hrole
    exact ⟨t, ht, hstate, by rw [heng]; rfl, by rw [heng]; rfl, by rw [heng]; rfl, by rw [heng]; rfl, by rw [heng]; rfl, hvalid, hothers, hfn,
      hw .axes (by decide), hbits⟩
  · obtain ⟨t, ht, ⟨heng, hothers⟩, hstate, hw⟩ := exec_zeroingDone_spare hs hp hdue hr hrole hwant
    exact ⟨t, ht, hstate, by rw [heng]; rfl, by rw [heng]; rfl, by rw [heng]; rfl, hothers, hw .axes (by decide), hw .funcs (by decide),
      hw .fo (by decide)⟩
  · obtain ⟨t, ht, hstate, hretired, htest, hvalid, ⟨heng, hothers⟩, hw⟩ := exec_selftestDone_fail hs hp hok
    exact ⟨t, ht, hstate, hretired, htest, hvalid, by rw [heng]; rfl, by rw [heng]; rfl, hothers, hw .axes (by decide), hw .fo (by decide)⟩
  · obtain ⟨t, ht, hstate, hclaim, htest, ⟨heng, hothers⟩, hw⟩ := exec_selftestDone_pass hs hp hok hwant himg
    exact ⟨t, ht, hstate, by rw [heng]; rfl, by rw [heng]; rfl, hclaim, htest, hothers, hw .axes (by decide), hw .fo (by decide)⟩
  · obtain ⟨t, ht, hstate, ⟨heng, hothers⟩, hstore, hcomps, hfn, hbits⟩ := exec_imageCopyDone_good hs ⟨hp, hdue, hstart, happly⟩
    exact ⟨t, ht, hstate, by rw [heng]; rfl, by rw [heng]; rfl, by rw [heng]; rfl, by rw [heng]; rfl, hstore, hcomps, hfn, hothers, hbits⟩
  · obtain ⟨t, ht, hstate, ⟨heng, hothers⟩, hvalid, hstore, hcomps⟩ := exec_imageCopyDone_bad hs ⟨hp, hdue, hstart, happly⟩
    exact ⟨t, ht, hstate, by rw [heng]; rfl, by rw [heng]; rfl, by rw [heng]; rfl, hvalid, hstore, hcomps, hothers⟩

end

section
set_option Elab.async false
/-! PROOF. What a run of the axis image leaves alone (04_axis_control.md R126, R142 to R148). -/

namespace Sys2Proof.Machine

variable {s t u : State} {n : AxId} {e : EngId} {a i v : Nat} {f : Fld}

/-! ## The parts of an axis that a run keeps -/

/-- What the mailbox holds, the coefficients, and the commits that wait. -/
def Axis.records (x : Axis) := (x.mail, x.coef, x.coefPend, x.commits)

/-- The axis holds the same records after an update, its integrators are cleared or not as before, and a request for SAFE stands. -/
structure Axis.Ran (x y : Axis) : Prop where
  records : y.records = x.records
  integ : y.integZero = x.integZero
  safe : x.safeReq.isSome = true → y.safeReq.isSome = true

/-- What the position loop, the current integrators and the count of overcurrents are after the loops of a run. -/
def Loops.settled (l : Loops) := (l.posOut, l.dInt, l.qInt, l.ocRuns)

/-- A register that no part of a run after the coefficients writes: not the move queue's, the cams', the loop faults', nor a function's. -/
structure OffRun (n : AxId) (a : Nat) : Prop where
  high : a < 0x100000
  cam : a ≠ Reg.GLB_CAM_BUSY.addr 0
  queue : a ≠ Reg.AX_MSTAT.addr n.val
  fault : a ≠ Reg.AX_LFAULT.addr n.val

/-- A part of a run of axis `n` beside its loops. -/
structure State.Ran (n : AxId) (s t : State) : Prop where
  sound : t.Sound
  raw : ∀ a, OffRun n a → t.raw a = s.raw a
  others : ∀ m, m ≠ n → t.ax m = s.ax m
  ax : Axis.Ran (s.ax n) (t.ax n)
  loops : (t.motion n).loops.settled = (s.motion n).loops.settled
  seen : s.bit Fld.AX_LFAULT_SEEN n.val = true → t.bit Fld.AX_LFAULT_SEEN n.val = true

theorem Axis.Ran.refl {x : Axis} : Axis.Ran x x := ⟨rfl, rfl, id⟩

theorem Axis.Ran.trans {x y z : Axis} (h : Axis.Ran x y) (h2 : Axis.Ran y z) : Axis.Ran x z :=
  ⟨h2.records.trans h.records, h2.integ.trans h.integ, fun hx => h2.safe (h.safe hx)⟩

theorem State.Ran.refl (hs : s.Sound) : State.Ran n s s := ⟨hs, fun _ _ => rfl, fun _ _ => rfl, .refl, rfl, id⟩

theorem State.Ran.trans (h : State.Ran n s t) (h2 : State.Ran n t u) : State.Ran n s u :=
  ⟨h2.sound, fun a ha => (h2.raw a ha).trans (h.raw a ha), fun m hm => (h2.others m hm).trans (h.others m hm), h.ax.trans h2.ax,
    h2.loops.trans h.loops, fun hb => h2.seen (h.seen hb)⟩

theorem State.Ran.ite {c : Prop} [Decidable c] (h : c → State.Ran n s t) (h2 : ¬c → State.Ran n s u) :
    State.Ran n s (if c then t else u) := by
  split
  · exact h ‹_›
  · exact h2 ‹_›

theorem State.Ran.forAll {α : Type} {l : List α} {g : State → α → State} (h : State.Ran n s t)
    (hg : ∀ u b, State.Ran n s u → State.Ran n s (g u b)) : State.Ran n s (forAll l g t) :=
  forAll_induction h fun u b _ hu => hg u b hu

/-- An update of the axis. -/
theorem State.Ran.setAx {x : Axis} (h : State.Ran n s t) (hs : x.sound = true) (hx : Axis.Ran (t.ax n) x) : State.Ran n s (t.setAx n x) :=
  h.trans ⟨h.sound.setAx fun _ => hs, fun _ _ => rfl, fun _ hm => State.ax_setAx_ne t n x hm, by rw [State.ax_setAx_same]; exact hx, rfl, id⟩

/-- An update of the motion that keeps what the loops of the run have left. -/
theorem State.Ran.setMotion {x : AxMot} (h : State.Ran n s t) (hx : x.loops.settled = (t.motion n).loops.settled) :
    State.Ran n s (t.setMotion n x) :=
  h.trans ⟨h.sound.setMotion, fun _ _ => rfl, fun _ _ => rfl, .refl, by rw [State.motion_setMotion_same]; exact hx, id⟩

/-- An update outside the axes, the motion and the registers of a run. -/
theorem State.Ran.of_parts (h : State.Ran n s t) (hs : u.Sound) (hr : ∀ a, OffRun n a ∨ a = Reg.AX_LFAULT.addr n.val → u.raw a = t.raw a)
    (ha : u.axes = t.axes) (hm : u.mot = t.mot) : State.Ran n s u :=
  h.trans ⟨hs, fun a ho => hr a (.inl ho), fun _ _ => by rw [State.ax, ha]; rfl, (State.ax_of_axes ha : u.ax n = t.ax n) ▸ .refl,
    by rw [State.motion, hm]; rfl, fun hb => (congrArg (fun w => Fld.AX_LFAULT_SEEN.get w == 1) (hr _ (.inr rfl))).trans hb⟩

/-- An update of a register of the move queue or of the cams. -/
theorem State.Ran.setFld (h : State.Ran n s t) (hr : f.reg.addr i = Reg.AX_MSTAT.addr n.val ∨ f.reg.addr i = Reg.GLB_CAM_BUSY.addr 0) :
    State.Ran n s (t.setFld f i v) := by
  refine h.of_parts h.sound.setFld (fun a ha => State.raw_setWord_ne ?_) rfl rfl
  have hp : Reg.AX_LFAULT.Paged 0x40000 48 := Reg.paged_axis (by decide)
  have hq : Reg.AX_MSTAT.Paged 0x40000 48 := Reg.paged_axis (by decide)
  rcases ha with ha | rfl <;> rcases hr with hr | hr <;> rw [hr]
  · exact ha.queue
  · exact ha.cam
  · exact hq.addr_ne hp (by decide)
  · have := hp.low
    rw [hp.addr_eq]
    simp only [Reg.addr, Reg.spec]
    omega

theorem State.Ran.complete {src : CmdSrc} {c : CompCode} {reason flags d : Nat} {data : List Byte} (h : State.Ran n s t) :
    State.Ran n s (t.complete src c reason flags data d) := h.of_parts h.sound.complete (fun _ _ => rfl) rfl rfl

theorem addr_lfault : Reg.AX_LFAULT.addr n.val < 0x100000 := by
  have hp : Reg.AX_LFAULT.Paged 0x40000 48 := Reg.paged_axis (by decide)
  have := hp.high
  have := n.isLt
  rw [hp.addr_eq]
  omega

theorem State.Ran.event {fn : FnId} {type src detail : Nat} {data : List Byte} (h : State.Ran n s t) :
    State.Ran n s (t.event fn type src detail data) := by
  have hw : State.Within 0x80010 t (t.event fn type src detail data) := State.Within.refl.event rfl
  refine h.of_parts h.sound.event (fun a ha => State.raw_event ?_) (hw .axes (by decide)) (hw .mot (by decide))
  rcases ha with ha | rfl
  · exact ha.high
  · exact addr_lfault

theorem State.Ran.setFbk {x : AxFb} (h : State.Ran n s t) : State.Ran n s (t.setFbk n x) := h.of_parts h.sound.setFbk (fun _ _ => rfl) rfl rfl

/-! ## The move queue -/

theorem State.Ran.standStill (h : State.Ran n s t) : State.Ran n s (t.standStill n) := h.setMotion (by rfl)

theorem State.Ran.refreshCams (h : State.Ran n s t) : State.Ran n s t.refreshCams := h.setFld (.inr rfl)

theorem State.Ran.setQueue {q : List QMove} (h : State.Ran n s t) : State.Ran n s (t.setQueue n q) :=
  State.Ran.refreshCams (State.Ran.setFld (State.Ran.setFld (h.setMotion (by rfl)) (.inl rfl)) (.inl rfl))

theorem State.Ran.emptyQueue {c : CompCode} {reason : Nat} (h : State.Ran n s t) : State.Ran n s (t.emptyQueue n c reason) :=
  State.Ran.ite (fun _ => h) fun _ => h.setQueue.forAll fun _ _ hu => hu.complete

theorem State.Ran.trajectoryMiss {fr : BitVec 32} (h : State.Ran n s t) : State.Ran n s (t.trajectoryMiss n fr) := by
  have hrec : ∀ k : Nat, State.Ran n s ((t.setMotion n { t.motion n with trajMiss := k }).event
      ((t.setMotion n { t.motion n with trajMiss := k }).axisOwner n) 0x0008 n.val k (leBytes 4 fr.toNat)) := fun _ => (h.setMotion (by rfl)).event
  exact State.Ran.ite (fun _ => (hrec _).emptyQueue.standStill) fun _ => hrec _

theorem State.Ran.dropLims (h : State.Ran n s t) : State.Ran n s (t.dropLims n) :=
  (h.setMotion (by rfl)).forAll fun _ _ hu => hu.complete

theorem State.Ran.applyStepCfg (h : State.Ran n s t) : State.Ran n s (t.applyStepCfg n) :=
  (h.setMotion (by rfl)).forAll fun _ _ hu => (hu.setMotion (by rfl)).complete

theorem State.Ran.markEnd {flags : BitVec 8} {ref : Int} (h : State.Ran n s t) : State.Ran n s (t.markEnd n flags ref) := by
  unfold State.markEnd
  dsimp only
  split
  · exact State.Ran.ite (fun _ => h.setMotion (by rfl)) fun _ => h
  · exact h

/-! ## The reference -/

theorem State.Ran.followPoint {fr : BitVec 32} (h : State.Ran n s t) : State.Ran n s (t.followPoint n fr) := by
  refine State.Ran.ite (fun _ => h) fun _ => ?_
  split
  · exact h.setMotion (by rfl)
  · exact (h.setMotion (by rfl)).trajectoryMiss

theorem State.Ran.noteRun (h : State.Ran n s t) : State.Ran n s (t.noteRun n) := h.setMotion (by rfl)

theorem State.Ran.noteSteps (h : State.Ran n s t) : State.Ran n s (t.noteSteps n) := h.setMotion (by rfl)

/-! ## Limit checks -/

theorem State.Ran.requestStop {cat : StopCat} {cause at_ : Nat} (h : State.Ran n s t) : State.Ran n s (t.requestStop n cat cause at_) := by
  unfold State.requestStop
  dsimp only
  split <;> exact h.setAx (h.sound.ax n) ⟨rfl, rfl, id⟩

/-- The registers that show a loop fault (R148). -/
def State.faultShown (s : State) (n : AxId) (code : Nat) : State :=
  ((s.setFld Fld.AX_LFAULT_CODE n.val code).countSat Fld.AX_LFAULT_COUNT n.val).setBit Fld.AX_LFAULT_SEEN n.val true

theorem State.faultShown_seen {code : Nat} (hs : s.Sound) : (s.faultShown n code).bit Fld.AX_LFAULT_SEEN n.val = true :=
  State.bit_setBit_eq (State.Sound.setFld (State.Sound.setFld hs)) (by decide) (by decide)

theorem State.Ran.faultShown {code : Nat} (h : State.Ran n s t) : State.Ran n s (t.faultShown n code) := by
  refine h.trans ⟨State.Sound.setBit (State.Sound.setFld (State.Sound.setFld h.sound)), fun a ha => ?_, fun _ _ => rfl, .refl, rfl,
    fun _ => State.faultShown_seen h.sound⟩
  exact (State.raw_setWord_ne ha.fault).trans ((State.raw_setWord_ne ha.fault).trans (State.raw_setWord_ne ha.fault))

/-- A loop fault asks for SAFE or for a stop. -/
theorem State.Ran.loopFault {code : Nat} (h : State.Ran n s t) : State.Ran n s (t.loopFault n code) := by
  have hrec : State.Ran n s ((t.faultShown n code).event ((t.faultShown n code).axisOwner n) 0x0002 n.val code) := h.faultShown.event
  refine State.Ran.ite (fun _ => hrec.setAx (hrec.sound.ax n) ⟨rfl, rfl, fun hx => ?_⟩) fun _ => hrec.requestStop
  show (match _ with | some c => some c | none => some 3 : Option Nat).isSome = true
  split <;> rfl

end Sys2Proof.Machine
end

section
set_option Elab.async false
/-! PROOF. The loops and the limit checks of a run (04_axis_control.md R133 to R141, R148). -/

namespace Sys2Proof.Machine

variable {s t u : State} {n : AxId} {e : EngId} {p : PortBlock} {l : Loops}

/-! ## What each loop leaves -/

/-- The sample of a run is valid (R132). -/
def PortBlock.valid (p : PortBlock) : Bool := (p.adc.toList.getD 15 0).getLsbD 0

/-- The position loop leaves the current integrators and the count of overcurrents. -/
theorem State.posLoop_kept : (s.posLoop n p l).dInt = l.dInt ∧ (s.posLoop n p l).qInt = l.qInt ∧ (s.posLoop n p l).ocRuns = l.ocRuns := by
  unfold State.posLoop
  dsimp only
  split
  · exact ⟨rfl, rfl, rfl⟩
  · split <;> exact ⟨rfl, rfl, rfl⟩

/-- In STOPPING the position loop does not run. -/
theorem State.posLoop_stopping (h : s.axState n = .stopping) : (s.posLoop n p l).posOut = 0 := by
  unfold State.posLoop
  dsimp only
  rw [if_pos h]

/-- The velocity loop leaves what the position loop and the current loop own. -/
theorem State.velLoop_kept : (s.velLoop n p l).settled = l.settled := by
  unfold State.velLoop
  dsimp only
  split <;> rfl

theorem State.curLoop_kept : (s.curLoop n p l).posOut = l.posOut ∧ (s.curLoop n p l).ocRuns = l.ocRuns := by
  unfold State.curLoop
  dsimp only
  split
  · exact ⟨rfl, rfl⟩
  · split <;> exact ⟨rfl, rfl⟩

/-- Without a valid sample the integrators of an FOC or stepper axis do not integrate (R136). -/
theorem State.curLoop_invalid (hv : p.valid = false) (hm : s.axMode n ≠ 2) : (s.curLoop n p l).dInt = l.dInt ∧ (s.curLoop n p l).qInt = l.qInt := by
  have hv' : ¬(p.adc.toList.getD 15 0).getLsbD 0 = true := Bool.eq_false_iff.mp hv
  unfold State.curLoop
  dsimp only
  rw [if_neg hm]
  by_cases h3 : s.axMode n = 3
  · rw [if_pos h3]
    simp only [if_neg hv', and_self]
  · rw [if_neg h3]
    simp only [if_neg hv', and_self]

/-! ## The loops of a run -/

/-- A part of a run of axis `n`: its records, every other axis, and the registers off the run. -/
structure State.Made (n : AxId) (s t : State) : Prop where
  sound : t.Sound
  raw : ∀ a, OffRun n a → t.raw a = s.raw a
  others : ∀ m, m ≠ n → t.ax m = s.ax m
  records : (t.ax n).records = (s.ax n).records

theorem State.Ran.made (h : State.Ran n s t) : State.Made n s t := ⟨h.sound, h.raw, h.others, h.ax.records⟩

theorem State.Made.trans (h : State.Made n s t) (h2 : State.Made n t u) : State.Made n s u :=
  ⟨h2.sound, fun a ha => (h2.raw a ha).trans (h.raw a ha), fun m hm => (h2.others m hm).trans (h.others m hm), h2.records.trans h.records⟩

/-- The loops that a run starts from: cleared where the axis asks for it (R145). -/
def State.loopsFrom (s : State) (n : AxId) : Loops :=
  if (s.ax n).integZero then { (s.motion n).loops with velInt := 0, dInt := 0, qInt := 0, hist := [] } else (s.motion n).loops

/-- The loops after a run. -/
def State.loopsTo (s : State) (e : EngId) (n : AxId) : Loops :=
  s.curLoop n (s.eng e).port (s.velLoop n (s.eng e).port (s.posLoop n (s.eng e).port (s.loopsFrom n)))

/-- The axis after the loops of a run. -/
def Axis.looped (x : Axis) (v : Int) : Axis := { x with integZero := false, speedRef := v }

theorem State.runLoops_eq : s.runLoops e n =
    (s.setAx n ((s.ax n).looped (s.trajVel n).1)).setMotion n { s.motion n with loops := s.loopsTo e n } := rfl

theorem State.loops_runLoops : ((s.runLoops e n).motion n).loops = s.loopsTo e n := by
  rw [State.runLoops_eq, State.motion_setMotion_same]

theorem State.ax_runLoops : (s.runLoops e n).ax n = (s.ax n).looped (s.trajVel n).1 := State.ax_setAx_same s n _

theorem State.made_runLoops (hs : s.Sound) : State.Made n s (s.runLoops e n) :=
  ⟨hs.runLoops, fun _ _ => rfl, fun _ hm => State.ax_setAx_ne s n _ hm, by rw [State.ax_runLoops]; rfl⟩

theorem State.loopsFrom_ocRuns : (s.loopsFrom n).ocRuns = (s.motion n).loops.ocRuns := by
  unfold State.loopsFrom
  split <;> rfl

theorem State.loopsTo_ocRuns : (s.loopsTo e n).ocRuns = (s.motion n).loops.ocRuns := by
  have hvel := congrArg (·.2.2.2) (State.velLoop_kept (s := s) (n := n) (p := (s.eng e).port) (l := s.posLoop n (s.eng e).port (s.loopsFrom n)))
  exact State.curLoop_kept.2.trans (hvel.trans (State.posLoop_kept.2.2.trans State.loopsFrom_ocRuns))

theorem State.loopsTo_stopping (h : s.axState n = .stopping) : (s.loopsTo e n).posOut = 0 := by
  have hvel := congrArg (·.1) (State.velLoop_kept (s := s) (n := n) (p := (s.eng e).port) (l := s.posLoop n (s.eng e).port (s.loopsFrom n)))
  exact State.curLoop_kept.1.trans (hvel.trans (State.posLoop_stopping h))

theorem State.loopsTo_invalid (hv : (s.eng e).port.valid = false) (hm : s.axMode n ≠ 2) (hz : (s.ax n).integZero = false) :
    (s.loopsTo e n).dInt = (s.motion n).loops.dInt ∧ (s.loopsTo e n).qInt = (s.motion n).loops.qInt := by
  have hfrom : s.loopsFrom n = (s.motion n).loops := if_neg (by rw [hz]; exact Bool.false_ne_true)
  have hvel := State.velLoop_kept (s := s) (n := n) (p := (s.eng e).port) (l := s.posLoop n (s.eng e).port (s.loopsFrom n))
  obtain ⟨hd, hq⟩ := State.curLoop_invalid (s := s) (n := n) (l := s.velLoop n (s.eng e).port (s.posLoop n (s.eng e).port (s.loopsFrom n))) hv hm
  obtain ⟨hpd, hpq, -⟩ := State.posLoop_kept (s := s) (n := n) (p := (s.eng e).port) (l := s.loopsFrom n)
  rw [hfrom] at hvel hd hq hpd hpq
  unfold State.loopsTo
  rw [hfrom]
  exact ⟨hd.trans ((congrArg (·.2.1) hvel).trans hpd), hq.trans ((congrArg (·.2.2.1) hvel).trans hpq)⟩

/-! ## The limit checks -/

/-- The streak of phase overcurrents in this run, and whether it has reached its limit (loop fault 1). -/
def State.ocStreak (s : State) (e : EngId) (n : AxId) : Nat × Bool :=
  streakUp (if s.axMode n == 2 then decide ((s.ax n).coefI 0x06 < ((s.eng e).port.adcI 5).natAbs)
    else decide ((s.ax n).coefI 0x06 < ((s.eng e).port.adcI 0).natAbs) || decide ((s.ax n).coefI 0x06 < ((s.eng e).port.adcI 1).natAbs) ||
      decide ((s.ax n).coefI 0x06 < ((s.eng e).port.adcI 2).natAbs)) (s.motion n).loops.ocRuns (s.fld Fld.AX_LIMCFG_OC_N n.val)

/-- The streaks of a run are counted. -/
def State.counted (s : State) (n : AxId) (oc sat inv : Nat) : State :=
  s.setMotion n { s.motion n with loops := { (s.motion n).loops with ocRuns := oc, satRuns := sat, invRuns := inv } }

def State.faultIf (s : State) (n : AxId) (b : Bool) (code : Nat) : State := if b then s.loopFault n code else s

theorem State.checkLimits_eq : ∃ (sat inv : Nat × Bool) (fol spd : Bool), s.checkLimits e n =
    (((((s.counted n (s.ocStreak e n).1 sat.1 inv.1).faultIf n (s.ocStreak e n).2 1).faultIf n sat.2 2).faultIf n inv.2 3).faultIf n fol
      4).faultIf n spd 5 := ⟨_, _, _, _, rfl⟩

theorem State.Ran.faultIf {b : Bool} {code : Nat} (h : State.Ran n s t) : State.Ran n s (t.faultIf n b code) :=
  State.Ran.ite (fun _ => h.loopFault) fun _ => h

/-- Beside the count of overcurrents, the limit checks leave what the loops have left. -/
theorem State.checkLimits_ran (hs : s.Sound) : ∃ u : State, State.Ran n (u.faultIf n (s.ocStreak e n).2 1) (s.checkLimits e n) ∧ u.Sound ∧
    u.regs = s.regs ∧ u.axes = s.axes ∧
    (u.motion n).loops.settled = ((s.motion n).loops.posOut, (s.motion n).loops.dInt, (s.motion n).loops.qInt, (s.ocStreak e n).1) := by
  obtain ⟨sat, inv, fol, spd, h⟩ := State.checkLimits_eq (s := s) (e := e) (n := n)
  have hu : (s.counted n (s.ocStreak e n).1 sat.1 inv.1).Sound := hs.setMotion
  have hf : ((s.counted n (s.ocStreak e n).1 sat.1 inv.1).faultIf n (s.ocStreak e n).2 1).Sound := (State.Ran.refl (n := n) hu).faultIf.sound
  refine ⟨s.counted n (s.ocStreak e n).1 sat.1 inv.1, ?_, hu, rfl, rfl, ?_⟩
  · rw [h]
    exact (State.Ran.refl hf).faultIf.faultIf.faultIf.faultIf
  · rw [State.counted, State.motion_setMotion_same]
    rfl

end Sys2Proof.Machine
end

section
set_option Elab.async false
/-! PROOF. What a stepper image adds to a run (07_motion.md R255 to R259). -/

namespace Sys2Proof.Machine

variable {s t u : State} {n : AxId} {e : EngId}

/-- A store into the window of the axis. -/
theorem State.Ran.setWin {w : Mem} (h : State.Ran n s t) (hw : Mem.wf w = true) : State.Ran n s (t.setAx n { t.ax n with win := w }) := by
  have hx := h.sound.ax n
  refine h.setAx ?_ ⟨rfl, rfl, id⟩
  simp only [Axis.sound, Bool.and_eq_true] at hx ⊢
  exact ⟨⟨hw, hx.1.2⟩, hx.2⟩

theorem State.wf_win (hs : s.Sound) : Mem.wf (s.ax n).win = true := by
  have hx := hs.ax n
  simp only [Axis.sound, Bool.and_eq_true] at hx
  exact hx.1.1

theorem State.Ran.writeHalt (h : State.Ran n s t) : State.Ran n s (t.writeHalt n) := h.setWin (Mem.wf_store (State.wf_win h.sound))

theorem State.Ran.holdRing (h : State.Ran n s t) : State.Ran n s (t.holdRing n) := h.setMotion (by rfl)

theorem State.Ran.fillRing {v : Frac} {ticks most : Nat} (h : State.Ran n s t) : State.Ran n s (t.fillRing n v ticks most) := by
  unfold State.fillRing
  dsimp only
  split
  · exact State.Ran.ite (fun _ => (h.setMotion (by rfl)).writeHalt) fun _ => h.setMotion (by rfl)
  · refine State.Ran.ite (fun _ => h) fun _ => h.setWin (Mem.wf_foldl (fun _ _ hm => Mem.wf_store hm) (State.wf_win h.sound))

theorem State.Ran.fillRun (h : State.Ran n s t) : State.Ran n s (t.fillRun n) := State.Ran.ite (fun _ => h) fun _ => h.fillRing

theorem State.Ran.homeMissed {ref : Int} (h : State.Ran n s t) : State.Ran n s (t.homeMissed n ref) := by
  unfold State.homeMissed
  dsimp only
  split
  · split
    · exact h.writeHalt.complete.setQueue.standStill
    · exact h.writeHalt
  · exact h.writeHalt

theorem State.Ran.armPreload {v : BitVec 48} (h : State.Ran n s t) : State.Ran n s (t.armPreload n v) := h.setFbk

theorem State.Ran.windowStore {a w v : Nat} (h : State.Ran n s t) : State.Ran n s (t.windowStore n a w v) := by
  have hwin : Mem.wf ((leBytes w v).zipIdx.foldl (fun m bi => if 0xF40 ≤ a + bi.2 ∧ a + bi.2 < 0xF58 then m else
      Mem.putByte m (a + bi.2) bi.1) (t.ax n).win) = true := by
    refine Mem.wf_foldl (fun m b hm => ?_) (State.wf_win h.sound)
    split
    · exact hm
    · exact Mem.wf_putByte hm
  exact State.Ran.ite (fun _ => (h.setWin hwin).armPreload) fun _ => h.setWin hwin

theorem State.Ran.homeRun (h : State.Ran n s t) : State.Ran n s (t.homeRun n) := by
  unfold State.homeRun
  dsimp only
  split
  · exact h.setMotion (by rfl)
  · split
    · exact State.Ran.ite (fun _ => (h.setMotion (by rfl)).homeMissed.holdRing) fun _ => h.setMotion (by rfl)
    · exact State.Ran.ite (fun _ => h) fun _ => h.markEnd.windowStore

theorem State.Ran.stalled {ref : Int} {homing : Bool} (h : State.Ran n s t) : State.Ran n s (t.stalled n ref homing) := by
  refine State.Ran.ite (fun _ => h.writeHalt) fun _ => ?_
  dsimp only
  have hq : State.Ran n s (((t.writeHalt n).setQueue n []).standStill n) := h.writeHalt.setQueue.standStill
  split
  · exact hq.dropLims.event
  · exact (hq.complete.forAll fun _ _ hu => hu.complete).dropLims.event

theorem State.Ran.stallRun (h : State.Ran n s t) : State.Ran n s (t.stallRun n) := by
  unfold State.stallRun
  dsimp only
  split
  · refine State.Ran.ite (fun _ => h.setMotion (by rfl)) fun _ => State.Ran.ite (fun _ => h.setMotion (by rfl)) fun _ => ?_
    exact (h.setMotion (by rfl)).stalled.holdRing
  · exact h

theorem State.Ran.stepRun (h : State.Ran n s t) : State.Ran n s (t.stepRun n) := h.stallRun.homeRun.fillRun

end Sys2Proof.Machine
end

section
set_option Elab.async false
/-! PROOF. A run of the vendor axis image (04_axis_control.md R126, R142 to R148; 15_failover.md R427). -/

namespace Sys2Proof.Machine

variable {s t u : State} {n : AxId} {e : EngId} {a : Nat}

/-! ## The coefficient record -/

/-- A part of a run of axis `n` with its coefficient record: every other axis, and the registers off the run and off AX_STATE. -/
structure State.Begun (n : AxId) (s t : State) : Prop where
  sound : t.Sound
  raw : ∀ a, OffRun n a → a ≠ Reg.AX_STATE.addr n.val → t.raw a = s.raw a
  others : ∀ m, m ≠ n → t.ax m = s.ax m
  state : t.axState n = s.axState n

theorem State.Begun.trans (h : State.Begun n s t) (h2 : State.Begun n t u) : State.Begun n s u :=
  ⟨h2.sound, fun a ha hne => (h2.raw a ha hne).trans (h.raw a ha hne), fun m hm => (h2.others m hm).trans (h.others m hm),
    h2.state.trans h.state⟩

/-- A register of an axis that a run leaves. -/
theorem offRun_axis {r : Reg} (hr : 0x40000 ≤ r.spec.base ∧ r.spec.base < 0x41000) (hq : r ≠ .AX_MSTAT) (hf : r ≠ .AX_LFAULT) :
    OffRun n (r.addr n.val) := by
  have hp : r.Paged 0x40000 48 := Reg.paged_axis hr
  have hlow := hp.low; have hhigh := hp.high
  have hn := n.isLt
  refine ⟨?_, ?_, ((Reg.paged_axis (by decide)).addr_ne hp hq), ((Reg.paged_axis (by decide)).addr_ne hp hf)⟩
  · rw [hp.addr_eq]
    omega
  · have hcam : Reg.GLB_CAM_BUSY.addr 0 < 0x40000 := by decide
    rw [hp.addr_eq]
    omega

theorem State.Made.axState (h : State.Made n s t) : t.axState n = s.axState n :=
  congrArg (fun w => AxState.ofCode (Fld.AX_STATE_STATE.get w)) (h.raw _ (offRun_axis (r := .AX_STATE) (by decide) (by decide) (by decide)))

theorem State.Made.begun (h : State.Made n s t) : State.Begun n s t := ⟨h.sound, fun a ha _ => h.raw a ha, h.others, h.axState⟩

/-- The axis whose image has taken a coefficient record. -/
def Axis.took (x : Axis) (rest : List MailRec) (id : BitVec 8) (v : BitVec 32) (pend : Bool) : Axis :=
  if pend then Axis.addPending { x with mail := rest } id.toNat v
  else { x with mail := rest, coef := Sparse.put coefReset x.coef id.toNat v }

/-- A coefficient record that the image takes waits for the next command, or is active at once (R142, R143). -/
def State.coefWaits (s : State) (n : AxId) (id : BitVec 8) : Bool := s.axState n == .hold || coefGroupC id.toNat

/-- The axis and its AX_STATE once a record is taken. -/
def State.coefPut (s : State) (n : AxId) (rest : List MailRec) (id : BitVec 8) (v : BitVec 32) : State :=
  let u := s.setAx n ((s.ax n).took rest id v (s.coefWaits n id))
  if s.coefWaits n id then u.setBit Fld.AX_STATE_COEF_PEND n.val true else u

theorem State.applyCoef_nil (h : (s.ax n).mail = []) : s.applyCoef n = s := by
  unfold State.applyCoef
  simp only [h]

theorem State.applyCoef_cons {m : AxId} {r : MailRec} {rest : List MailRec} {id : BitVec 8} {v : BitVec 32} (h : (s.ax n).mail = r :: rest)
    (hr : r.cmd = .setCoef m id v) : s.applyCoef n = (s.coefPut n rest id v).complete r.src .done 0
      (if s.coefWaits n id then flPending else 0) ((s.coefPut n rest id v).axState n).data ((s.coefPut n rest id v).sampleDt n) := by
  unfold State.applyCoef
  simp only [h, hr]
  rfl

theorem State.applyCoef_other {r : MailRec} {rest : List MailRec} (h : (s.ax n).mail = r :: rest)
    (hr : ∀ m id v, r.cmd ≠ .setCoef m id v) : s.applyCoef n = s := by
  unfold State.applyCoef
  simp only [h]

/-- What a record in the mailbox leaves of the axis. -/
def Axis.idle (x : Axis) := (x.commits, x.integZero, x.safeReq)

theorem Axis.took_idle {x : Axis} {rest : List MailRec} {id : BitVec 8} {v : BitVec 32} {b : Bool} : (x.took rest id v b).idle = x.idle := by
  unfold Axis.took
  split <;> rfl

theorem Axis.took_mail {x : Axis} {rest : List MailRec} {id : BitVec 8} {v : BitVec 32} {b : Bool} : (x.took rest id v b).mail = rest := by
  unfold Axis.took
  split <;> rfl

theorem State.Sound.took {rest : List MailRec} {id : BitVec 8} {v : BitVec 32} {b : Bool} (hs : s.Sound) :
    ((s.ax n).took rest id v b).sound = true := by
  have hx := hs.ax n
  unfold Axis.took
  split
  · exact hx
  · simp only [Axis.sound, Bool.and_eq_true] at hx ⊢
    exact ⟨⟨hx.1.1, Sparse.wf_put hx.1.2⟩, hx.2⟩

variable {rest : List MailRec} {id : BitVec 8} {v : BitVec 32}

theorem State.ax_coefPut : (s.coefPut n rest id v).ax n = (s.ax n).took rest id v (s.coefWaits n id) := by
  unfold State.coefPut
  dsimp only
  split <;> exact State.ax_setAx_same s n _

theorem State.Sound.coefPut (hs : s.Sound) : (s.coefPut n rest id v).Sound :=
  State.Sound.ite (fun _ => (hs.setAx fun h => h.took).setBit) fun _ => hs.setAx fun h => h.took

theorem State.onlyBits_coefPut (hs : s.Sound) : s.onlyBits (s.coefPut n rest id v) [Fld.AX_STATE_COEF_PEND.spot n.val] := by
  have hset : s.onlyBits (s.setAx n ((s.ax n).took rest id v (s.coefWaits n id))) [Fld.AX_STATE_COEF_PEND.spot n.val] := .of_regs .refl rfl
  unfold State.coefPut
  dsimp only
  split
  · exact hset.setBit (hs.setAx fun h => h.took) (List.mem_singleton_self _)
  · exact hset

theorem State.coefPut_pending (hs : s.Sound) (h : s.coefWaits n id = true) :
    (s.coefPut n rest id v).bit Fld.AX_STATE_COEF_PEND n.val = true := by
  unfold State.coefPut
  dsimp only
  rw [if_pos h]
  exact State.bit_setBit_eq (hs.setAx fun h => h.took) (by decide) (by decide)

theorem State.axState_coefPut (hs : s.Sound) : (s.coefPut n rest id v).axState n = s.axState n := by
  have hset : State.Keeps Fld.AX_STATE_STATE n.val s (s.setAx n ((s.ax n).took rest id v (s.coefWaits n id))) :=
    (State.Keeps.refl hs).of_regs (hs.setAx fun h => h.took) rfl
  have hkeep : State.Keeps Fld.AX_STATE_STATE n.val s (s.coefPut n rest id v) :=
    State.Keeps.ite (hset.setBit (.inr ⟨rfl, rfl, by decide, by decide⟩)) hset
  exact hkeep.axState

theorem State.begun_coefPut (hs : s.Sound) : State.Begun n s (s.coefPut n rest id v) := by
  refine ⟨hs.coefPut, fun a _ hne => (State.onlyBits_coefPut hs).raw ?_, fun m hm => ?_, State.axState_coefPut hs⟩
  · simp only [List.forall_mem_cons]
    exact ⟨hne.symm, nofun⟩
  · have hset : (s.setAx n ((s.ax n).took rest id v (s.coefWaits n id))).ax m = s.ax m := State.ax_setAx_ne s n _ hm
    unfold State.coefPut
    dsimp only
    split <;> exact hset

/-- A run takes at most one record; the rest of the axis, and its motion, are as before. -/
theorem State.begun_applyCoef (hs : s.Sound) : State.Begun n s (s.applyCoef n) ∧ ((s.applyCoef n).ax n).idle = (s.ax n).idle ∧
    (s.applyCoef n).mot = s.mot := by
  have hsame : State.Begun n s s := ⟨hs, fun _ _ _ => rfl, fun _ _ => rfl, rfl⟩
  cases hm : (s.ax n).mail with
  | nil =>
    rw [State.applyCoef_nil hm]
    exact ⟨hsame, rfl, rfl⟩
  | cons r rest =>
    by_cases hr : ∃ m id v, r.cmd = .setCoef m id v
    · obtain ⟨m, id, v, hr⟩ := hr
      rw [State.applyCoef_cons hm hr]
      have hb : State.Begun n s (s.coefPut n rest id v) := State.begun_coefPut hs
      have hmot : (s.coefPut n rest id v).mot = s.mot := by
        unfold State.coefPut
        dsimp only
        split <;> rfl
      have hidle : ((s.coefPut n rest id v).ax n).idle = (s.ax n).idle := by rw [State.ax_coefPut, Axis.took_idle]
      exact ⟨⟨hb.sound.complete, hb.raw, hb.others, hb.state⟩, hidle, hmot⟩
    · rw [State.applyCoef_other hm fun m id v h => hr ⟨m, id, v, h⟩]
      exact ⟨hsame, rfl, rfl⟩

end Sys2Proof.Machine
end

section
set_option Elab.async false
/-! PROOF. The parts of a run of the axis image, in their order (04_axis_control.md R126). -/

namespace Sys2Proof.Machine

variable {s t u : State} {n : AxId} {e : EngId} {a : Nat}

/-! ## The parts -/

/-- An engine that has loaded the Cast of the axis, or had none to load (R427). -/
def Engine.castDone (x : Engine) (n : AxId) : Engine := if x.castRun = some n then { x with castRun := none } else x

/-- The first acts of a run: the waiting STEP_CFGs, then the Cast or a coefficient record. -/
def State.runFirst (s : State) (e : EngId) (n : AxId) : State :=
  let u := s.applyStepCfg n
  if (u.eng e).castRun = some n then (u.setEng e { u.eng e with castRun := none }).castRead n (u.eng e).port.pos else u.applyCoef n

/-- The run is noted for the capture, and its steps. -/
def State.runNoted (s : State) (n : AxId) : State := if (s.noteRun n).axMode n = 3 then (s.noteRun n).noteSteps n else s.noteRun n

/-- The loops of a run, between the reference and the limit checks. -/
def State.runLimited (s : State) (e : EngId) (n : AxId) : State :=
  ((s.followPoint n (s.eng e).port.frame).runLoops e n).checkLimits e n

/-- The rest of a run in the states in which the loops run. -/
def State.runRest (s : State) (e : EngId) (n : AxId) : State :=
  if (s.runLimited e n).axMode n = 3 then (s.runLimited e n).stepRun n else s.runLimited e n

theorem State.axisRun_eq : s.axisRun e n =
    if !((s.runFirst e n).runNoted n).loopsRun n then (s.runFirst e n).runNoted n else ((s.runFirst e n).runNoted n).runRest e n := rfl

theorem State.Made.refl (hs : s.Sound) : State.Made n s s := ⟨hs, fun _ _ => rfl, fun _ _ => rfl, rfl⟩

/-- An update that leaves the registers and the axes. -/
theorem State.Made.of_eq (h : State.Made n s t) (hs : u.Sound) (hr : u.regs = t.regs) (ha : u.axes = t.axes) : State.Made n s u :=
  h.trans ⟨hs, fun a _ => by simp only [State.raw, hr], fun _ _ => State.ax_of_axes ha, by rw [State.ax_of_axes ha]⟩

/-! ## The first acts -/

theorem State.engines_applyStepCfg : (s.applyStepCfg n).engines = s.engines :=
  (State.Within.refl (k := 0x90000)).applyStepCfg rfl .engines (by decide)

theorem State.runFirst_coef (h : (s.eng e).castRun ≠ some n) : s.runFirst e n = (s.applyStepCfg n).applyCoef n := by
  unfold State.runFirst
  dsimp only
  rw [if_neg (by rw [State.eng_of_engines State.engines_applyStepCfg]; exact h)]

theorem State.runFirst_cast (h : (s.eng e).castRun = some n) : s.runFirst e n =
    ((s.applyStepCfg n).setEng e ((s.eng e).castDone n)).castRead n (s.eng e).port.pos := by
  have heng : (s.applyStepCfg n).eng e = s.eng e := State.eng_of_engines State.engines_applyStepCfg
  unfold State.runFirst Engine.castDone
  dsimp only
  rw [heng, if_pos h, if_pos h]

theorem State.made_castRead {pos : BitVec 48} (hs : s.Sound) : State.Made n s (s.castRead n pos) := by
  have hw : State.Within 0x10000 s (s.castRead n pos) := (State.Within.refl (k := 0x10000)).castRead rfl
  exact (State.Made.refl hs).of_eq hs.castRead (hw .regs (by decide)).1 (hw .axes (by decide))

theorem Engine.castDone_sound {x : Engine} (h : x.sound = true) : (x.castDone n).sound = true := by
  unfold Engine.castDone
  split <;> exact h

/-- The run after a take-over takes no coefficient record (R427). -/
theorem State.made_runFirst (hs : s.Sound) (h : (s.eng e).castRun = some n) : State.Made n s (s.runFirst e n) := by
  have hstep : State.Made n s (s.applyStepCfg n) := (State.Ran.refl hs).applyStepCfg.made
  have hset : ((s.applyStepCfg n).setEng e ((s.eng e).castDone n)).Sound := hstep.sound.setEng fun _ => Engine.castDone_sound (hs.eng e)
  rw [State.runFirst_cast h]
  exact (hstep.of_eq hset rfl rfl).trans (State.made_castRead hset)

theorem State.begun_runFirst (hs : s.Sound) : State.Begun n s (s.runFirst e n) := by
  by_cases h : (s.eng e).castRun = some n
  · exact (State.made_runFirst hs h).begun
  · have hstep : State.Made n s (s.applyStepCfg n) := (State.Ran.refl hs).applyStepCfg.made
    rw [State.runFirst_coef h]
    exact hstep.begun.trans (State.begun_applyCoef hstep.sound).1

theorem State.becomes_runFirst : State.Becomes e ((s.eng e).castDone n) s (s.runFirst e n) := by
  have hstep : State.Becomes e (s.eng e) s (s.applyStepCfg n) := State.Becomes.refl.of_engines State.engines_applyStepCfg
  by_cases h : (s.eng e).castRun = some n
  · rw [State.runFirst_cast h]
    have hw : ∀ v : State, ∀ pos, State.Within 0x10000 v (v.castRead n pos) := fun v _ => (State.Within.refl (k := 0x10000)).castRead rfl
    exact hstep.setEng.of_engines (hw _ _ .engines (by decide))
  · have hw : ∀ v : State, State.Within 0x81010 v (v.applyCoef n) := fun v => (State.Within.refl (k := 0x81010)).applyCoef rfl
    rw [State.runFirst_coef h]
    exact (hstep.of_engines (hw _ .engines (by decide))).of_eng (by unfold Engine.castDone; rw [if_neg h])

/-! ## The loops and what follows -/

theorem State.Ran.runNoted (h : State.Ran n s t) : State.Ran n s (t.runNoted n) := State.Ran.ite (fun _ => h.noteRun.noteSteps) fun _ => h.noteRun

theorem State.made_checkLimits (hs : s.Sound) : State.Made n s (s.checkLimits e n) := by
  obtain ⟨u, hran, hu, hregs, haxes, -⟩ := State.checkLimits_ran (e := e) (n := n) hs
  exact (((State.Made.refl hs).of_eq hu hregs haxes).trans (State.Ran.refl hu).faultIf.made).trans hran.made

theorem State.made_runLimited (hs : s.Sound) : State.Made n s (s.runLimited e n) := by
  have hfollow : State.Made n s (s.followPoint n (s.eng e).port.frame) := (State.Ran.refl hs).followPoint.made
  have hloops := hfollow.trans (State.made_runLoops (e := e) hfollow.sound)
  exact hloops.trans (State.made_checkLimits hloops.sound)

theorem State.Ran.runRest (hs : s.Sound) : State.Ran n (s.runLimited e n) (s.runRest e n) := by
  have h : State.Ran n (s.runLimited e n) (s.runLimited e n) := State.Ran.refl (State.made_runLimited (n := n) hs).sound
  exact State.Ran.ite (fun _ => h.stepRun) fun _ => h

theorem State.made_runRest (hs : s.Sound) : State.Made n s (s.runRest e n) := (State.made_runLimited hs).trans (State.Ran.runRest hs).made

/-! ## The run -/

theorem State.begun_axisRun (hs : s.Sound) : State.Begun n s (s.axisRun e n) := by
  have hfirst : State.Begun n s (s.runFirst e n) := State.begun_runFirst hs
  have hnoted : State.Begun n s ((s.runFirst e n).runNoted n) := hfirst.trans (State.Ran.refl hfirst.sound).runNoted.made.begun
  rw [State.axisRun_eq]
  split
  · exact hnoted
  · exact hnoted.trans (State.made_runRest hnoted.sound).begun

theorem State.becomes_axisRun : State.Becomes e ((s.eng e).castDone n) s (s.axisRun e n) := by
  have hnoted : State.Within 0x10000 (s.runFirst e n) ((s.runFirst e n).runNoted n) :=
    State.Within.ite (fun _ => ((State.Within.refl (k := 0x10000)).noteRun rfl).noteSteps rfl) fun _ => (State.Within.refl (k := 0x10000)).noteRun rfl
  have hfirst : State.Becomes e ((s.eng e).castDone n) s ((s.runFirst e n).runNoted n) :=
    State.becomes_runFirst.of_engines (hnoted .engines (by decide))
  have hrest : ∀ v : State, State.Within 0x95010 v (v.runRest e n) := fun v => by
    have hlim : State.Within 0x95010 v (v.runLimited e n) :=
      (((State.Within.refl (k := 0x95010)).followPoint rfl).runLoops rfl).checkLimits rfl
    exact State.Within.ite (fun _ => hlim.stepRun rfl) fun _ => hlim
  rw [State.axisRun_eq]
  split
  · exact hfirst
  · exact hfirst.of_engines (hrest _ .engines (by decide))

end Sys2Proof.Machine
end

section
set_option Elab.async false
/-! PROOF. The end of a run, and the run that a handler makes (04_axis_control.md R125, R149; 15_failover.md R425). -/

namespace Sys2Proof.Machine

variable {s t u : State} {n : AxId} {e : EngId} {a : Nat} {reach : RunReach}

/-! ## The commit and the Cast -/

/-- The mailbox and the coefficients of an axis. -/
def Axis.noted (x : Axis) := (x.mail, x.coef, x.coefPend)

/-- An engine with the latch words that it has staged. -/
def Engine.stage (x : Engine) (v : LatchVals) : Engine := { x with staged := v }

/-- The end of a run of the engine `e` on axis `n`: a commit and a half of the Cast. -/
structure State.Ended (e : EngId) (n : AxId) (s t : State) : Prop where
  eng : ∃ v, State.Becomes e ((s.eng e).stage v) s t
  raw : ∀ a, a ≠ Reg.AX_DLMISS.addr n.val → a ≠ Reg.AX_FOSTAT.addr n.val → t.raw a = s.raw a
  others : ∀ m, m ≠ n → t.ax m = s.ax m
  noted : (t.ax n).noted = (s.ax n).noted
  shmem : t.shmem = s.shmem

theorem State.Ended.refl : State.Ended e n s s := ⟨⟨(s.eng e).staged, .refl⟩, fun _ _ _ => rfl, fun _ _ => rfl, rfl, rfl⟩

/-- A commit as the latch takes it up. -/
def State.commitOf (s : State) (e : EngId) (v : LatchVals) : Commit := { vals := v, tag := (s.eng e).port.seq, eng := e, at_ := s.tick }

/-- An axis with one commit more. -/
def Axis.committed (x : Axis) (c : Commit) : Axis := { x with commits := x.commits ++ [c] }

theorem State.gateOpen_stage {v : LatchVals} : (s.setEng e ((s.eng e).stage v)).gateOpen e n = s.gateOpen e n := by
  unfold State.gateOpen
  rw [State.eng_setEng_same]
  rfl

/-- The commit of a run: counted where the axis is OFF or the gate is shut (R26, R430). -/
theorem State.imageCommit_eq (hn : (s.eng e).curAxis = n) : s.imageCommit e n =
    (if s.gateOpen e n && s.axState n == .off then (s.setEng e ((s.eng e).stage (s.imageOut n))).countSat Fld.AX_DLMISS_LATE_DISCARD n.val
     else if s.gateOpen e n then
      (s.setEng e ((s.eng e).stage (s.imageOut n))).setAx n ((s.ax n).committed (s.commitOf e (s.imageOut n)))
     else (s.setEng e ((s.eng e).stage (s.imageOut n))).countSat Fld.AX_FOSTAT_DISCARD n.val) := by
  have heng : (s.setEng e ((s.eng e).stage (s.imageOut n))).eng e = (s.eng e).stage (s.imageOut n) := State.eng_setEng_same ..
  have haxis : ((s.setEng e ((s.eng e).stage (s.imageOut n))).eng e).curAxis = n := by rw [heng]; exact hn
  have hstate : (s.setEng e ((s.eng e).stage (s.imageOut n))).axState n = s.axState n := rfl
  show (s.setEng e ((s.eng e).stage (s.imageOut n))).commit e (s.eng e).port.seq = _
  unfold State.commit
  rw [haxis]
  dsimp only
  rw [State.gateOpen_stage, hstate, heng]
  rfl

theorem State.ended_imageCommit (hn : (s.eng e).curAxis = n) : State.Ended e n s (s.imageCommit e n) := by
  have hb : State.Becomes e ((s.eng e).stage (s.imageOut n)) s (s.setEng e ((s.eng e).stage (s.imageOut n))) := State.Becomes.refl.setEng
  have hcount : ∀ f : Fld, f.reg = .AX_DLMISS ∨ f.reg = .AX_FOSTAT →
      State.Ended e n s ((s.setEng e ((s.eng e).stage (s.imageOut n))).countSat f n.val) := fun f hf =>
    ⟨⟨_, hb.of_engines rfl⟩, fun a h1 h2 => State.raw_setWord_ne (by rcases hf with hf | hf <;> rw [hf] <;> assumption), fun _ _ => rfl, rfl, rfl⟩
  rw [State.imageCommit_eq hn]
  split
  · exact hcount _ (.inl rfl)
  · split
    · exact ⟨⟨_, hb.of_engines rfl⟩, fun _ _ _ => rfl, fun _ hm => State.ax_setAx_ne _ n _ hm, by rw [State.ax_setAx_same]; rfl, rfl⟩
    · exact hcount _ (.inr rfl)

/-- A half of the Cast goes into the window of the axis. -/
theorem State.Ended.writeCast {b : Bool} (h : State.Ended e n s t) : State.Ended e n s (t.writeCast e n b) := by
  have hset : ∀ (u : State) (x : Axis), u.regs = t.regs → u.axes = t.axes → u.engines = t.engines → u.shmem = t.shmem →
      x.noted = (t.ax n).noted → State.Ended e n s (u.setAx n x) := fun u x hr ha he hm hx => by
    obtain ⟨v, hv⟩ := h.eng
    refine ⟨⟨v, hv.of_engines he⟩, fun a h1 h2 => Eq.trans ?_ (h.raw a h1 h2), fun m hm => ?_, ?_, hm.trans h.shmem⟩
    · simp only [State.raw, State.setAx, hr]
    · rw [State.ax_setAx_ne _ n _ hm, State.ax_of_axes ha, h.others m hm]
    · rw [State.ax_setAx_same, hx, h.noted]
  unfold State.writeCast
  refine hset _ _ ?_ ?_ ?_ ?_ ?_ <;> split <;> rfl

theorem State.ended_runEnd (hn : (s.eng e).curAxis = n) : State.Ended e n s (s.runEnd e reach) := by
  have hcommit : State.Ended e n s (s.imageCommit e n) := State.ended_imageCommit hn
  unfold State.runEnd
  rw [hn]
  dsimp only
  split
  · exact .refl
  · split
    · exact hcommit
    · exact hcommit.writeCast

/-- A run that ends at its entry commits nothing. -/
theorem State.runEnd_entry : s.runEnd e .entry = s := rfl

/-- The run of an engine that serves its axis, up to its commit. -/
theorem State.runEnd_commit (hn : (s.eng e).curAxis = n) (hs : s.servesAxis e n = true) : s.runEnd e .commit = s.imageCommit e n := by
  unfold State.runEnd
  rw [hn]
  dsimp only
  rw [hs]
  rfl

/-- What a commit adds where the gate is open and the axis is not OFF (R26, R149). -/
theorem State.imageCommit_commits (hn : (s.eng e).curAxis = n) (hg : s.gateOpen e n = true) (hoff : s.axState n ≠ .off) :
    ((s.imageCommit e n).ax n).commits = (s.ax n).commits ++ [s.commitOf e (s.imageOut n)] := by
  have hstate : ¬(s.gateOpen e n && s.axState n == .off) = true := by simp [hoff]
  rw [State.imageCommit_eq hn, if_neg hstate, if_pos hg, State.ax_setAx_same]
  rfl

/-! ## The run of a handler -/

/-- The run of the sample handler: that of the axis image, where the engine serves its axis, and its end. -/
theorem State.imageRun_sample (hk : (s.eng e).handler = some .sample) (hn : (s.eng e).curAxis = n) : s.imageRun e reach =
    (if s.servesAxis e n then s.axisRun e n else s).runEnd e reach := by
  have hin : s.inHandler e .sample = true := by rw [State.inHandler, hk]; rfl
  have hrun : ((if s.servesAxis e n then s.axisRun e n else s).eng e).handler = some .sample ∧
      ((if s.servesAxis e n then s.axisRun e n else s).eng e).curAxis = n := by
    split
    · rw [State.becomes_axisRun.eng]
      unfold Engine.castDone
      split <;> exact ⟨hk, hn⟩
    · exact ⟨hk, hn⟩
  unfold State.imageRun
  dsimp only
  rw [hn, hin, Bool.and_true]
  generalize (if s.servesAxis e n then s.axisRun e n else s) = w at hrun ⊢
  obtain ⟨hhandler, haxis⟩ := hrun
  have hw : w.inHandler e .sample = true := by rw [State.inHandler, hhandler]; rfl
  rw [if_pos hw]
  obtain ⟨v, hv⟩ := (State.ended_runEnd (reach := reach) haxis).eng
  have hrel : (w.runEnd e reach).inHandler e .release = false := by
    have hkept : ((w.runEnd e reach).eng e).handler = some .sample := by rw [hv.eng]; exact hhandler
    rw [State.inHandler, hkept]
    rfl
  rw [hrel, Bool.and_false, if_neg Bool.false_ne_true, hrel, if_neg Bool.false_ne_true]

/-- Neither the fault handler nor the host handler makes a run. -/
theorem State.imageRun_quiet {k : EvKind} (hk : (s.eng e).handler = some k) (hs : k ≠ .sample) (hr : k ≠ .release) : s.imageRun e reach = s := by
  have hin : s.inHandler e .sample = false := by rw [State.inHandler, hk]; simpa using hs
  have hrel : s.inHandler e .release = false := by rw [State.inHandler, hk]; simpa using hr
  simp [State.imageRun, hin, hrel]

/-- The release handler of an engine that serves no axis, no trajectory and no monitoring makes no run. -/
theorem State.imageRun_release (hk : (s.eng e).handler = some .release) (hserves : ∀ m, s.servesAxis e m = false)
    (hidle : ∀ m, s.trajects e m = false ∧ s.monitors e m = false) : s.imageRun e reach = s := by
  have hin : s.inHandler e .sample = false := by rw [State.inHandler, hk]; rfl
  have htraj : s.trajRun e = s := by
    have hnone : ((allFin 48).filter fun n => s.trajects e n && s.axState n != .off) = [] := by simp [fun m => (hidle m).1]
    unfold State.trajRun
    dsimp only
    rw [hnone]
    have hflat : ((List.range 48).flatMap fun k => ([] : List AxId).filter fun n => s.gearDepth n 47 == k) = [] := by simp
    rw [hflat]
    rfl
  have hmon : ((allFin 48).filter fun n => s.monitors e n) = [] := by simp [fun m => (hidle m).2]
  unfold State.imageRun
  dsimp only
  rw [hserves, hin, Bool.false_and, if_neg Bool.false_ne_true, hin, if_neg Bool.false_ne_true, hserves, Bool.false_and, if_neg Bool.false_ne_true,
    htraj, hmon]
  split <;> rfl

end Sys2Proof.Machine
end

section
set_option Elab.async false
/-! PROOF. The switch from background code to a handler (02_engines.md R76 to R80). -/

namespace Sys2Proof.Machine

variable {s t u : State} {n : AxId} {e : EngId} {a : Nat} {reach : RunReach} {x : Engine} {k : EvKind}

/-! ## The engine that leaves background code -/

/-- An engine that leaves background code: an ungranted access is abandoned, and a WAIT is reissued on return (R63, R122). -/
def Engine.leaves (x : Engine) : Engine := { x with long := none, retPc := x.waitPc.getD x.pc, held := 0, waitPc := none }

/-- The steps of the switch that pass in HANDLER_ENTRY (R76). -/
def Engine.slotSteps (x : Engine) : Nat := if x.long.isSome || x.waitPc.isSome then 2 else 1

/-- An engine that is some steps further. -/
def Engine.later (x : Engine) (n : Nat) : Engine := { x with step := x.step + n }

/-- Steps of an engine whose slot is empty, while nothing is due. -/
theorem Engine.passes_later {n : Nat} (hh : x.handler = none) (hl : x.long = none) (hd : x.held = 0) (hw : x.waitPc = none)
    (hq : ∀ f ∈ x.flights, x.step + n ≤ f.due) : x.passes n = x.later n := by
  rw [Engine.passes_quiet hq hl hd hw]
  simp [hh, Engine.later]

/-- The engine at the entry of a handler. -/
def Engine.entered (x : Engine) (k : EvKind) : Engine := (x.leaves.later x.slotSteps).enter k

/-- The engine is at the entry of the handler of a kind, and shows bank 1 (R76, R80). -/
def State.atEntry (s : State) (e : EngId) (k : EvKind) : State := (s.setEng e ((s.eng e).entered k)).setBit Fld.ENG_STAT_BK e.val true

/-- An engine in background code that can take an event. -/
structure State.Idles (s : State) (e : EngId) : Prop where
  runs : s.engRuns e = true
  due : (s.eng e).runFrom ≤ s.tick
  handler : (s.eng e).handler = none
  repeats : (s.eng e).rpt = none

/-- The steps of the switch, then the entry. -/
def State.switched (s : State) (e : EngId) (k : EvKind) : State :=
  let u := (s.setEng e (s.eng e).leaves).steps e (s.eng e).pc (s.eng e).slotSteps
  (u.setEng e ((u.eng e).enter k)).setBit Fld.ENG_STAT_BK e.val true

theorem State.switched_eq (h : s.Idles e) (hq : ∀ f ∈ (s.eng e).flights, (s.eng e).step + (s.eng e).slotSteps ≤ f.due) :
    s.switched e k = s.atEntry e k := by
  have hfree : ∀ j, (s.eng e).leaves.handler ≠ some j := fun j hj => absurd (h.handler.symm.trans hj) (by simp)
  have hsteps : (s.setEng e (s.eng e).leaves).steps e (s.eng e).pc (s.eng e).slotSteps =
      s.setEng e ((s.eng e).leaves.later (s.eng e).slotSteps) := by
    rw [State.steps_many (y := (s.eng e).leaves) h.runs fun j hj => absurd hj (hfree j),
      Engine.passes_later (x := (s.eng e).leaves) h.handler rfl rfl rfl hq]
  unfold State.switched State.atEntry
  dsimp only
  rw [hsteps, State.eng_setEng_same, State.setEng_setEng]
  rfl

/-- An engine whose chained handler has begun. -/
def Engine.unchained (x : Engine) : Engine := { x with chained := false }

/-- What HANDLER_ENTRY does on an engine that runs. -/
def State.handlerStep (s : State) (e : EngId) (reach : RunReach) (x : Engine) : State :=
  match x.handler with
  | some _ => if x.chained then (s.setEng e x.unchained).imageRun e reach else s
  | none =>
    if x.rpt.isSome then s else
    match s.nextEvent e with
    | none => s
    | some k => (s.switched e k).imageRun e reach

theorem execHandlerEntry_eq (hr : s.engRuns e = true) (hdue : (s.eng e).runFrom ≤ s.tick) :
    exec (.handlerEntry e reach) s = .next (s.handlerStep e reach (s.eng e)) := by
  have hrun : exec (.handlerEntry e reach) s =
      .next (if !s.engRuns e || decide (s.tick < (s.eng e).runFrom) then s else s.handlerStep e reach (s.eng e)) := rfl
  rw [hrun, if_neg (by simp [hr, hdue])]

theorem State.handlerStep_none (hh : x.handler = none) (hr : x.rpt = none) (hk : s.nextEvent e = none) : s.handlerStep e reach x = s := by
  simp [State.handlerStep, hh, hr, hk]

theorem State.handlerStep_some (hh : x.handler = none) (hr : x.rpt = none) (hk : s.nextEvent e = some k) :
    s.handlerStep e reach x = (s.switched e k).imageRun e reach := by
  simp [State.handlerStep, hh, hr, hk]

theorem State.handlerStep_chained (hk : x.handler = some k) (hc : x.chained = true) :
    s.handlerStep e reach x = (s.setEng e x.unchained).imageRun e reach := by
  simp [State.handlerStep, hk, hc]

theorem execHandlerEntry_none (h : s.Idles e) (hk : s.nextEvent e = none) : exec (.handlerEntry e reach) s = .next s :=
  (execHandlerEntry_eq h.runs h.due).trans (congrArg _ (State.handlerStep_none h.handler h.repeats hk))

theorem execHandlerEntry_some (h : s.Idles e) (hq : ∀ f ∈ (s.eng e).flights, (s.eng e).step + (s.eng e).slotSteps ≤ f.due)
    (hk : s.nextEvent e = some k) : exec (.handlerEntry e reach) s = .next ((s.atEntry e k).imageRun e reach) := by
  rw [execHandlerEntry_eq h.runs h.due, State.handlerStep_some h.handler h.repeats hk, State.switched_eq h hq]

/-- The first step of a handler that RETE has chained to (R78). -/
theorem execHandlerEntry_chained (hr : s.engRuns e = true) (hdue : (s.eng e).runFrom ≤ s.tick) (hk : (s.eng e).handler = some k)
    (hc : (s.eng e).chained = true) : exec (.handlerEntry e reach) s =
      .next ((s.setEng e (s.eng e).unchained).imageRun e reach) := by
  rw [execHandlerEntry_eq hr hdue, State.handlerStep_chained hk hc]

/-! ## The state at the entry -/

theorem State.eng_atEntry : (s.atEntry e k).eng e = (s.eng e).entered k := State.eng_setEng_same ..

theorem State.becomes_atEntry : State.Becomes e ((s.eng e).entered k) s (s.atEntry e k) := State.Becomes.refl.setEng.of_engines rfl

theorem Engine.entered_sound (h : x.sound = true) : (x.entered k).sound = true :=
  State.Sound.Engine_enter (x := x.leaves.later x.slotSteps) h

theorem State.Sound.entered (hs : s.Sound) : (s.setEng e ((s.eng e).entered k)).Sound := hs.setEng fun h => Engine.entered_sound (h.eng e)

theorem State.Sound.atEntry (hs : s.Sound) : (s.atEntry e k).Sound := hs.entered.setBit

theorem State.atEntry_bk (hs : s.Sound) : (s.atEntry e k).bit Fld.ENG_STAT_BK e.val = true :=
  State.bit_setBit_eq hs.entered (by decide) (by decide)

theorem State.onlyBits_atEntry (hs : s.Sound) : s.onlyBits (s.atEntry e k) [Fld.ENG_STAT_BK.spot e.val] :=
  (State.onlyBits.of_regs .refl rfl).setBit hs.entered (List.mem_singleton_self _)

/-- A field apart from ENG_STAT.BK stands as before. -/
theorem State.fld_atEntry {f : Fld} {i : Nat} (hs : s.Sound) (hf : f.Clear i Fld.ENG_STAT_BK e.val) : (s.atEntry e k).fld f i = s.fld f i := by
  have hset : State.Keeps f i s (s.setEng e ((s.eng e).entered k)) :=
    (State.Keeps.refl hs).of_regs hs.entered rfl
  exact (hset.setBit hf).fld

theorem State.engState_atEntry (hs : s.Sound) : (s.atEntry e k).engState e = s.engState e :=
  congrArg EngState.ofCode (State.fld_atEntry hs (.inr ⟨rfl, rfl, by decide, by decide⟩))

theorem State.engRole_atEntry (hs : s.Sound) : (s.atEntry e k).engRole e = s.engRole e :=
  State.fld_atEntry hs (.inr ⟨rfl, rfl, by decide, by decide⟩)

/-- A field of an axis is none of an engine. -/
theorem Fld.clear_bk {f : Fld} {m : AxId} (hf : 0x40000 ≤ f.reg.spec.base ∧ f.reg.spec.base < 0x41000) :
    f.Clear m.val Fld.ENG_STAT_BK e.val := by
  have hp : f.reg.Paged 0x40000 48 := Reg.paged_axis hf
  have hlow := hp.low
  have hengine : Reg.ENG_STAT.addr e.val < 0x40000 := by simp only [Reg.addr, Reg.spec]; omega
  refine .inl ?_
  rw [hp.addr_eq]
  show _ ≠ Reg.ENG_STAT.addr e.val
  omega

/-- The group engine at the entry serves no axis, in RUNNING or STANDBY. -/
theorem State.serves_of_axisLike (h : s.axisLike e = false) : ∀ m, s.servesAxis e m = false ∧ s.standsBy e m = false := fun m => by
  simp only [State.axisLike, Bool.or_eq_false_iff] at h
  simp [State.servesAxis, State.standsBy, h.1, h.2]

theorem State.axisLike_atEntry (hs : s.Sound) : (s.atEntry e k).axisLike e = s.axisLike e := by
  rw [State.axisLike, State.engState_atEntry hs, State.engRole_atEntry hs]
  rfl

theorem State.runEnd_foreign (h : ∀ m, s.servesAxis e m = false ∧ s.standsBy e m = false) : s.runEnd e reach = s := by
  unfold State.runEnd
  dsimp only
  rw [(h _).1, (h _).2, if_pos (by simp)]

/-- A handler of an engine that serves nothing makes no run (assumption 11). -/
theorem State.imageRun_atEntry (hs : s.Sound) (hsample : k = .sample → s.axisLike e = false)
    (hrelease : k = .release → s.axisLike e = false ∧ ∀ m, s.trajects e m = false ∧ s.monitors e m = false) :
    (s.atEntry e k).imageRun e reach = s.atEntry e k := by
  have hk : ((s.atEntry e k).eng e).handler = some k := by rw [State.eng_atEntry]; rfl
  by_cases h1 : k = .sample
  · have hnone := State.serves_of_axisLike ((State.axisLike_atEntry (k := k) hs).trans (hsample h1))
    rw [State.imageRun_sample (n := ((s.atEntry e k).eng e).curAxis) (hk.trans (congrArg some h1)) rfl, (hnone _).1, if_neg Bool.false_ne_true,
      State.runEnd_foreign hnone]
  · by_cases h2 : k = .release
    · obtain ⟨haxis, hidle⟩ := hrelease h2
      have hnone := State.serves_of_axisLike ((State.axisLike_atEntry (k := k) hs).trans haxis)
      refine State.imageRun_release (hk.trans (congrArg some h2)) (fun m => (hnone m).1) fun m => ?_
      have htraj : (s.atEntry e k).trajects e m = s.trajects e m := by
        rw [State.trajects, State.engState_atEntry hs, State.engRole_atEntry hs, State.fld_atEntry hs (Fld.clear_bk (by decide))]
        rfl
      have hactive : (s.atEntry e k).bit Fld.AX_MONSTAT_ACTIVE m.val = s.bit Fld.AX_MONSTAT_ACTIVE m.val :=
        congrArg (· == 1) (State.fld_atEntry hs (Fld.clear_bk (by decide)))
      have hmon : (s.atEntry e k).monitors e m = s.monitors e m := by
        rw [State.monitors, State.engState_atEntry hs, hactive, State.fld_atEntry hs (Fld.clear_bk (by decide))]
        rfl
      rw [htraj, hmon]
      exact hidle m
    · exact State.imageRun_quiet hk h1 h2

/-! ## The run at the entry -/

/-- What the run of a sample handler leaves of an engine. -/
def Engine.core (x : Engine) :=
  (x.handler, x.used, x.retPc, x.long, x.held, x.waitPc, x.step, x.pc, x.pend, x.bank0, x.bank1, x.dmem, x.port)

/-- A run of a sample handler leaves the registers and the memory of the engine, its status, and every other engine (assumption 11). -/
structure State.CoreKept (e : EngId) (s t : State) : Prop where
  core : (t.eng e).core = (s.eng e).core
  others : ∀ j, j ≠ e → t.eng j = s.eng j
  stat : t.raw (Reg.ENG_STAT.addr e.val) = s.raw (Reg.ENG_STAT.addr e.val)
  shmem : t.shmem = s.shmem

theorem State.CoreKept.trans (h : State.CoreKept e s t) (h2 : State.CoreKept e t u) : State.CoreKept e s u :=
  ⟨h2.core.trans h.core, fun j hj => (h2.others j hj).trans (h.others j hj), h2.stat.trans h.stat, h2.shmem.trans h.shmem⟩

theorem Engine.castDone_core : (x.castDone n).core = x.core := by
  unfold Engine.castDone
  split <;> rfl

/-- The registers of an engine, one page of 0x400 bytes for each (R487). -/
def Reg.OfEng (r : Reg) : Prop := 0x10000 ≤ r.spec.base ∧ r.spec.base < 0x10400 ∧ r.spec.s1 = 0x400

theorem Reg.OfEng.addr_lt {q : Reg} (hq : q.OfEng) : q.addr e.val < 0x40000 ∧ 0x1000 ≤ q.addr e.val := by
  obtain ⟨hlow, hhigh, hstep⟩ := hq
  have he := e.isLt
  simp only [Reg.addr, hstep]
  omega

theorem Reg.OfEng.addr_ne_axis {q r : Reg} (hq : q.OfEng) (hr : 0x40000 ≤ r.spec.base ∧ r.spec.base < 0x41000) :
    q.addr e.val ≠ r.addr n.val := by
  have hp : r.Paged 0x40000 48 := Reg.paged_axis hr
  have hlow := hp.low
  have := (hq.addr_lt (e := e)).1
  rw [hp.addr_eq]
  omega

theorem Reg.OfEng.offRun {q : Reg} (hq : q.OfEng) : OffRun n (q.addr e.val) := by
  have haddr := hq.addr_lt (e := e)
  refine ⟨by omega, ?_, hq.addr_ne_axis (by decide), hq.addr_ne_axis (by decide)⟩
  have : Reg.GLB_CAM_BUSY.addr 0 < 0x1000 := by decide
  omega

theorem Reg.ofEng_stat : Reg.ENG_STAT.OfEng := ⟨by decide, by decide, rfl⟩

theorem Reg.ofEng_fo : Reg.ENG_FO.OfEng := ⟨by decide, by decide, rfl⟩

theorem State.coreKept_axisRun (hs : s.Sound) : State.CoreKept e s (s.axisRun e n) := by
  have hb : State.Becomes e ((s.eng e).castDone n) s (s.axisRun e n) := State.becomes_axisRun
  have hw : State.Within 0x95810 s (s.axisRun e n) := State.Within.refl.axisRun rfl
  exact ⟨by rw [hb.eng, Engine.castDone_core], hb.others, (State.begun_axisRun hs).raw _ Reg.ofEng_stat.offRun (Reg.ofEng_stat.addr_ne_axis (by decide)),
    hw .shmem (by decide)⟩

theorem State.coreKept_runEnd : State.CoreKept e s (s.runEnd e reach) := by
  obtain ⟨⟨v, hv⟩, hraw, -, -, hshmem⟩ := State.ended_runEnd (s := s) (e := e) (reach := reach) rfl
  exact ⟨by rw [hv.eng]; rfl, hv.others, hraw _ (Reg.ofEng_stat.addr_ne_axis (by decide)) (Reg.ofEng_stat.addr_ne_axis (by decide)), hshmem⟩

/-- The run of a sample handler. -/
theorem State.coreKept_imageRun (hs : s.Sound) (hk : (s.eng e).handler = some .sample) : State.CoreKept e s (s.imageRun e reach) := by
  have hrun : State.CoreKept e s (if s.servesAxis e (s.eng e).curAxis then s.axisRun e (s.eng e).curAxis else s) := by
    split
    · exact State.coreKept_axisRun hs
    · exact ⟨rfl, fun _ _ => rfl, rfl, rfl⟩
  rw [State.imageRun_sample hk rfl]
  exact hrun.trans State.coreKept_runEnd

/-! ## The order of the events -/

/-- On a group engine no sample guard holds an event back (R89). -/
theorem State.nextEvent_group (h : s.axisLike e = false) :
    s.nextEvent e = [EvKind.sample, .fault, .host, .release].find? fun k => (s.eng e).pend.contains k := by
  have hguard : ∀ k, s.guardAllows e k = true := fun k => by
    unfold State.guardAllows
    split
    · rfl
    · rfl
    · rw [h]
      rfl
  unfold State.nextEvent
  simp only [hguard, Bool.and_true]

end Sys2Proof.Machine
end

section
set_option Elab.async false
/-! PROOF. A run that takes a coefficient record, or the Cast (04_axis_control.md R142 to R144; 15_failover.md R427). -/

namespace Sys2Proof.Machine

variable {s t u : State} {n : AxId} {e : EngId} {a : Nat} {reach : RunReach} {r : MailRec} {rest : List MailRec} {id : BitVec 8}
  {v : BitVec 32}

/-! ## The handler that RETE has chained to -/

/-- The engine serves the axis in the first step of a chained sample handler. -/
structure State.Chained (s : State) (e : EngId) (n : AxId) : Prop where
  sound : s.Sound
  due : (s.eng e).runFrom ≤ s.tick
  handler : (s.eng e).handler = some .sample
  chained : (s.eng e).chained = true
  serves : s.servesAxis e n = true

/-- The state in which the run begins. -/
def State.begins (s : State) (e : EngId) : State := s.setEng e (s.eng e).unchained

theorem State.eng_begins : (s.begins e).eng e = (s.eng e).unchained := State.eng_setEng_same ..

theorem State.servesAxis_iff : s.servesAxis e n = true ↔ s.engState e = .running ∧ s.engRole e = 1 ∧ (s.eng e).curAxis = n := by
  simp [State.servesAxis, and_assoc]

theorem State.Chained.begins_sound (h : s.Chained e n) : (s.begins e).Sound := h.sound.setEng fun hs => hs.eng e

theorem State.Chained.curAxis (h : s.Chained e n) : ((s.begins e).eng e).curAxis = n := by
  rw [State.eng_begins]
  exact (State.servesAxis_iff.mp h.serves).2.2

theorem State.Chained.serves_begins (h : s.Chained e n) : (s.begins e).servesAxis e n = true := by
  obtain ⟨hstate, hrole, -⟩ := State.servesAxis_iff.mp h.serves
  exact State.servesAxis_iff.mpr ⟨hstate, hrole, h.curAxis⟩

/-- The chained handler makes the run of the axis image, with its end. -/
theorem State.Chained.exec_eq (h : s.Chained e n) : exec (.handlerEntry e reach) s = .next (((s.begins e).axisRun e n).runEnd e reach) := by
  obtain ⟨hstate, -, -⟩ := State.servesAxis_iff.mp h.serves
  have hruns : s.engRuns e = true := by rw [State.engRuns, hstate]; rfl
  have hsample : ((s.begins e).eng e).handler = some .sample := by rw [State.eng_begins]; exact h.handler
  rw [execHandlerEntry_chained hruns h.due h.handler h.chained]
  show Host.Outcome.next ((s.begins e).imageRun e reach) = _
  rw [State.imageRun_sample hsample h.curAxis, h.serves_begins, if_pos rfl]

/-- The end of the run of a chained handler. -/
theorem State.Chained.ended (h : s.Chained e n) :
    State.Ended e n ((s.begins e).axisRun e n) (((s.begins e).axisRun e n).runEnd e reach) := by
  refine State.ended_runEnd ?_
  rw [State.becomes_axisRun.eng]
  unfold Engine.castDone
  split <;> exact h.curAxis

/-! ## The record and the Cast -/

/-- The rest of a run after the coefficient record. -/
theorem State.made_after (hs : (s.runFirst e n).Sound) : State.Made n (s.runFirst e n) (s.axisRun e n) := by
  have hnoted : State.Made n (s.runFirst e n) ((s.runFirst e n).runNoted n) := (State.Ran.refl hs).runNoted.made
  rw [State.axisRun_eq]
  split
  · exact hnoted
  · exact hnoted.trans (State.made_runRest hnoted.sound)

/-- What a run shows that has taken a coefficient record (R142, R143). -/
theorem State.axisRun_took {m : AxId} (hs : s.Sound) (hcast : (s.eng e).castRun ≠ some n) (hm : (s.ax n).mail = r :: rest)
    (hr : r.cmd = .setCoef m id v) : ((s.axisRun e n).ax n).noted = ((s.ax n).took rest id v (s.coefWaits n id)).noted ∧
      (s.coefWaits n id = true → (s.axisRun e n).bit Fld.AX_STATE_COEF_PEND n.val = true) := by
  have hstep : State.Made n s (s.applyStepCfg n) := (State.Ran.refl hs).applyStepCfg.made
  have hrec := hstep.records
  have hafter : State.Made n (s.runFirst e n) (s.axisRun e n) := State.made_after (State.begun_runFirst hs).sound
  have hsound := hstep.sound
  have hstate := hstep.axState
  rw [State.runFirst_coef hcast] at hafter
  generalize s.applyStepCfg n = w at hrec hafter hsound hstate
  simp only [Axis.records, Prod.mk.injEq] at hrec
  obtain ⟨hmail, hcoef, hpend, -⟩ := hrec
  have hwaits : w.coefWaits n id = s.coefWaits n id := by rw [State.coefWaits, hstate]; rfl
  rw [State.applyCoef_cons (hmail.trans hm) hr] at hafter
  have hax : ((w.coefPut n rest id v).ax n).noted = ((s.ax n).took rest id v (s.coefWaits n id)).noted := by
    rw [State.ax_coefPut, hwaits]
    unfold Axis.took Axis.addPending Axis.noted
    split <;> simp only [hcoef, hpend]
  have hput := hafter.records
  simp only [Axis.records, Prod.mk.injEq] at hput
  obtain ⟨h1, h2, h3, -⟩ := hput
  refine ⟨Eq.trans ?_ hax, fun hw => ?_⟩
  · simp only [Axis.noted, h1, h2, h3]
    rfl
  · exact (congrArg (fun b => Fld.AX_STATE_COEF_PEND.get b == 1) (hafter.raw _ (offRun_axis (r := .AX_STATE) (by decide) (by decide)
      (by decide)))).trans (State.coefPut_pending hsound (hwaits.trans hw))

/-- The first run after a take-over takes no coefficient record (R427). -/
theorem State.axisRun_cast (hs : s.Sound) (hcast : (s.eng e).castRun = some n) : ((s.axisRun e n).ax n).noted = (s.ax n).noted := by
  have hmade := (State.made_runFirst hs hcast).trans (State.made_after (State.begun_runFirst (e := e) (n := n) hs).sound)
  have hrec := hmade.records
  simp only [Axis.records, Prod.mk.injEq] at hrec
  obtain ⟨h1, h2, h3, -⟩ := hrec
  simp only [Axis.noted, h1, h2, h3]

/-! ## A run in a state without loops -/

theorem State.loopsRun_of_state (h : t.axState n = s.axState n) : t.loopsRun n = s.loopsRun n := by
  unfold State.loopsRun
  rw [h]

/-- The mode of an axis through the first acts of a run. -/
theorem State.Begun.axMode (h : State.Begun n s t) : t.axMode n = s.axMode n :=
  congrArg Fld.AX_CFG_MODE.get (h.raw _ (offRun_axis (r := .AX_CFG) (by decide) (by decide) (by decide))
    ((Reg.paged_axis (by decide)).addr_ne (Reg.paged_axis (by decide)) (by decide)))

/-- Without loops a run ends with its first acts. -/
theorem State.axisRun_unlooped (hs : s.Sound) (hloops : s.loopsRun n = false) (hmode : s.axMode n ≠ 3) :
    s.axisRun e n = (s.runFirst e n).noteRun n := by
  have hfirst : State.Begun n s (s.runFirst e n) := State.begun_runFirst hs
  have hmode' : ((s.runFirst e n).noteRun n).axMode n ≠ 3 := by
    show (s.runFirst e n).axMode n ≠ 3
    rw [hfirst.axMode]
    exact hmode
  have hnoted : (s.runFirst e n).runNoted n = (s.runFirst e n).noteRun n := if_neg hmode'
  have hloops' : ((s.runFirst e n).noteRun n).loopsRun n = false :=
    (State.loopsRun_of_state (show ((s.runFirst e n).noteRun n).axState n = s.axState n from hfirst.state)).trans hloops
  rw [State.axisRun_eq, hnoted, hloops', Bool.not_false, if_pos rfl]

theorem State.fn_coefPut {f : FnId} : (s.coefPut n rest id v).fn f = s.fn f := by
  unfold State.coefPut
  dsimp only
  split <;> rfl

theorem State.sampleDt_coefPut : (s.coefPut n rest id v).sampleDt n = s.sampleDt n := by
  have hset : (s.setAx n ((s.ax n).took rest id v (s.coefWaits n id))).sampleDt n = s.sampleDt n := by
    unfold State.sampleDt
    rw [State.ax_setAx_same]
    unfold Axis.took
    split <;> rfl
  unfold State.coefPut
  dsimp only
  split
  · exact hset
  · exact hset

/-- A run without loops, STEP_CFGs and Cast, which takes a coefficient record and does not come to its commit. -/
theorem State.axisRun_plain {m : AxId} (hs : s.Sound) (hcast : (s.eng e).castRun ≠ some n) (hm : (s.ax n).mail = r :: rest)
    (hr : r.cmd = .setCoef m id v) (hloops : s.loopsRun n = false) (hmode : s.axMode n ≠ 3) (hstep : (s.motion n).stepCfgPend = []) :
    ((s.axisRun e n).fn r.src.fn).comps = (s.fn r.src.fn).comps ++ [⟨r.src, 3, 0, BitVec.ofNat 8 (if s.coefWaits n id then flPending else 0),
      s.sampleDt n, padTo 15 (s.axState n).data, true⟩] ∧ s.onlyBits (s.axisRun e n) [Fld.AX_STATE_COEF_PEND.spot n.val] := by
  have hnone : s.applyStepCfg n = s.setMotion n { s.motion n with stepCfgPend := [] } := by
    unfold State.applyStepCfg
    dsimp only
    rw [hstep]
    rfl
  rw [State.axisRun_unlooped hs hloops hmode, State.runFirst_coef hcast, hnone]
  generalize hx : { s.motion n with stepCfgPend := [] } = x
  have hu : (s.setMotion n x).Sound := hs.setMotion
  have hwaits : (s.setMotion n x).coefWaits n id = s.coefWaits n id := rfl
  have hstate : (s.setMotion n x).axState n = s.axState n := rfl
  have hdt : (s.setMotion n x).sampleDt n = s.sampleDt n := rfl
  have hfn : ∀ f, (s.setMotion n x).fn f = s.fn f := fun _ => rfl
  have hmail : ((s.setMotion n x).ax n).mail = r :: rest := hm
  have hbits : s.onlyBits (s.setMotion n x) [Fld.AX_STATE_COEF_PEND.spot n.val] := .of_regs .refl rfl
  generalize s.setMotion n x = w at hu hwaits hstate hdt hfn hmail hbits ⊢
  rw [State.applyCoef_cons hmail hr, hwaits, State.axState_coefPut hu, hstate, State.sampleDt_coefPut, hdt]
  have hcomps : ((w.coefPut n rest id v).fn r.src.fn).comps = (s.fn r.src.fn).comps := by rw [State.fn_coefPut, hfn]
  have hput : s.onlyBits (w.coefPut n rest id v) [Fld.AX_STATE_COEF_PEND.spot n.val] := hbits.trans (State.onlyBits_coefPut hu)
  generalize w.coefPut n rest id v = u at hcomps hput ⊢
  exact ⟨State.comps_complete hcomps, hput.of_regs rfl⟩

end Sys2Proof.Machine
end

section
set_option Elab.async false
/-! PROOF. A run with its loops (04_axis_control.md R133 to R148). -/

namespace Sys2Proof.Machine

variable {s t u : State} {n : AxId} {e : EngId} {a : Nat} {reach : RunReach}

/-! ## Up to the loops -/

/-- The state in which the loops of a run begin: a record is taken, and the reference is known. -/
def State.loopsBegin (s : State) (e : EngId) (n : AxId) : State :=
  ((s.runFirst e n).runNoted n).followPoint n (((s.runFirst e n).runNoted n).eng e).port.frame

/-- What the first acts and the reference of a run leave, where no Cast is loaded. -/
structure State.Poised (e : EngId) (n : AxId) (s t : State) : Prop where
  begun : State.Begun n s t
  commits : (t.ax n).commits = (s.ax n).commits
  integ : (t.ax n).integZero = (s.ax n).integZero
  loops : (t.motion n).loops.settled = (s.motion n).loops.settled
  eng : t.eng e = s.eng e

theorem State.Poised.trans (h : State.Poised e n s t) (h2 : State.Poised e n t u) : State.Poised e n s u :=
  ⟨h.begun.trans h2.begun, h2.commits.trans h.commits, h2.integ.trans h.integ, h2.loops.trans h.loops, h2.eng.trans h.eng⟩

theorem Axis.commits_of_records {x y : Axis} (h : y.records = x.records) : y.commits = x.commits := congrArg (·.2.2.2) h

theorem State.Ran.poised (h : State.Ran n s t) (he : t.engines = s.engines) : State.Poised e n s t :=
  ⟨h.made.begun, Axis.commits_of_records h.ax.records, h.ax.integ, h.loops, State.eng_of_engines he⟩

theorem State.poised_applyCoef (hs : s.Sound) : State.Poised e n s (s.applyCoef n) := by
  obtain ⟨hb, hidle, hmot⟩ := State.begun_applyCoef (n := n) hs
  have hw : State.Within 0x81010 s (s.applyCoef n) := (State.Within.refl (k := 0x81010)).applyCoef rfl
  exact ⟨hb, congrArg (·.1) hidle, congrArg (·.2.1) hidle, by rw [State.motion, hmot]; rfl, State.eng_of_engines (hw .engines (by decide))⟩

theorem State.poised_loopsBegin (hs : s.Sound) (hcast : (s.eng e).castRun ≠ some n) : State.Poised e n s (s.loopsBegin e n) := by
  have hstep : State.Poised e n s (s.applyStepCfg n) := (State.Ran.refl hs).applyStepCfg.poised State.engines_applyStepCfg
  have hfirst : State.Poised e n s (s.runFirst e n) := by
    rw [State.runFirst_coef hcast]
    exact hstep.trans (State.poised_applyCoef hstep.begun.sound)
  have hnoted : ∀ u : State, State.Within 0x10000 u (u.runNoted n) := fun u =>
    State.Within.ite (fun _ => ((State.Within.refl (k := 0x10000)).noteRun rfl).noteSteps rfl) fun _ => (State.Within.refl (k := 0x10000)).noteRun rfl
  have hfollow : ∀ (u : State) fr, State.Within 0x90010 u (u.followPoint n fr) := fun u _ => (State.Within.refl (k := 0x90010)).followPoint rfl
  have hn : State.Poised e n s ((s.runFirst e n).runNoted n) :=
    hfirst.trans ((State.Ran.refl hfirst.begun.sound).runNoted.poised (hnoted _ .engines (by decide)))
  exact hn.trans ((State.Ran.refl hn.begun.sound).followPoint.poised (hfollow _ _ .engines (by decide)))

/-! ## From the loops on -/

/-- An axis with a request for SAFE (cause 3 where there was none). -/
def Axis.asksSafe (x : Axis) : Axis := { x with safeReq := match x.safeReq with | some c => some c | none => some 3 }

theorem Axis.asksSafe_isSome {x : Axis} : x.asksSafe.safeReq.isSome = true := by
  unfold Axis.asksSafe
  dsimp only
  split <;> rfl

/-- The rest of a run in which the loops run. -/
theorem State.ran_axisRun (hs : s.Sound) (hloops : s.loopsRun n = true) :
    State.Ran n (((s.loopsBegin e n).runLoops e n).checkLimits e n) (s.axisRun e n) := by
  have hfirst : State.Begun n s (s.runFirst e n) := State.begun_runFirst hs
  have hnoted : State.Begun n s ((s.runFirst e n).runNoted n) := hfirst.trans (State.Ran.refl hfirst.sound).runNoted.made.begun
  rw [State.axisRun_eq, State.loopsRun_of_state hnoted.state, hloops, Bool.not_true, if_neg Bool.false_ne_true]
  exact State.Ran.runRest hnoted.sound

/-- A loop fault of a code up to 3 asks for SAFE (R148). -/
theorem State.loopFault_asks {code : Nat} (hs : s.Sound) (hc : code ≤ 3) : ((s.loopFault n code).ax n).safeReq.isSome = true ∧
    (s.loopFault n code).bit Fld.AX_LFAULT_SEEN n.val = true := by
  have hrec : State.Ran n (s.faultShown n code) ((s.faultShown n code).event ((s.faultShown n code).axisOwner n) 0x0002 n.val code) :=
    (State.Ran.refl (State.Ran.refl hs).faultShown.sound).event
  have hseen := hrec.seen (State.faultShown_seen hs)
  have hfault : s.loopFault n code = ((s.faultShown n code).event ((s.faultShown n code).axisOwner n) 0x0002 n.val code).setAx n
      (((s.faultShown n code).event ((s.faultShown n code).axisOwner n) 0x0002 n.val code).ax n).asksSafe := if_pos hc
  rw [hfault]
  refine ⟨?_, hseen⟩
  rw [State.ax_setAx_same]
  exact Axis.asksSafe_isSome

/-- The loops and the limit checks leave the commits; they clear the request to zero the integrators. -/
theorem State.ax_looped (hs : s.Sound) (h : State.Ran n ((s.runLoops e n).checkLimits e n) t) :
    (t.ax n).commits = (s.ax n).commits ∧ (t.ax n).integZero = false ∧
      (t.motion n).loops.settled = ((s.loopsTo e n).posOut, (s.loopsTo e n).dInt, (s.loopsTo e n).qInt, ((s.runLoops e n).ocStreak e n).1) ∧
      (((s.runLoops e n).ocStreak e n).2 = true → (t.ax n).safeReq.isSome = true ∧ t.bit Fld.AX_LFAULT_SEEN n.val = true) := by
  have hl : (s.runLoops e n).Sound := hs.runLoops
  obtain ⟨u, hran, hu, -, haxes, hsettled⟩ := State.checkLimits_ran (e := e) (n := n) hl
  have hut : State.Ran n (u.faultIf n ((s.runLoops e n).ocStreak e n).2 1) t := hran.trans h
  have hfault : State.Ran n u (u.faultIf n ((s.runLoops e n).ocStreak e n).2 1) := (State.Ran.refl hu).faultIf
  have hall : State.Ran n u t := hfault.trans hut
  have hax : u.ax n = (s.ax n).looped (s.trajVel n).1 := (State.ax_of_axes haxes).trans State.ax_runLoops
  refine ⟨?_, ?_, ?_, fun hoc => ?_⟩
  · rw [Axis.commits_of_records hall.ax.records, hax]
    rfl
  · rw [hall.ax.integ, hax]
    rfl
  · rw [hall.loops, hsettled, State.loops_runLoops]
  · have hshown : u.faultIf n true 1 = u.loopFault n 1 := rfl
    rw [hoc, hshown] at hut
    obtain ⟨hsafe, hseen⟩ := State.loopFault_asks (code := 1) hu (by decide)
    exact ⟨hut.ax.safe hsafe, hut.seen hseen⟩

end Sys2Proof.Machine
end

section
set_option Elab.async false
/-! PROOF. A run in RUN, HOLD or STOPPING, and its commit; the obligation (04_axis_control.md R125, R136, R139, R148, R149). -/

namespace Sys2Proof.Machine

variable {s t u : State} {n : AxId} {e : EngId} {a : Nat} {reach : RunReach}

/-! ## What a run with loops shows -/

theorem State.loopsRun_not_off (h : s.loopsRun n = true) : s.axState n ≠ .off := fun hoff => by
  rw [State.loopsRun, hoff] at h
  exact Bool.false_ne_true h

/-- What two loop states that settle alike share. -/
theorem Loops.of_settled {l m : Loops} (h : l.settled = m.settled) :
    l.posOut = m.posOut ∧ l.dInt = m.dInt ∧ l.qInt = m.qInt ∧ l.ocRuns = m.ocRuns := by
  simpa only [Loops.settled, Prod.mk.injEq] using h

/-- In STOPPING the position loop does not run (R139). -/
theorem State.looped_stopping (hs : s.Sound) (h : State.Ran n ((s.runLoops e n).checkLimits e n) t) (hstop : s.axState n = .stopping) :
    (t.motion n).loops.posOut = 0 := by
  obtain ⟨-, -, hsettled, -⟩ := State.ax_looped hs h
  simp only [Loops.settled, Prod.mk.injEq] at hsettled
  exact hsettled.1.trans (State.loopsTo_stopping hstop)

/-- Without a valid sample the current integrators stand (R136). -/
theorem State.looped_invalid (hs : s.Sound) (h : State.Ran n ((s.runLoops e n).checkLimits e n) t) (hv : (s.eng e).port.valid = false)
    (hm : s.axMode n ≠ 2) (hz : (s.ax n).integZero = false) :
    (t.motion n).loops.dInt = (s.motion n).loops.dInt ∧ (t.motion n).loops.qInt = (s.motion n).loops.qInt := by
  obtain ⟨-, -, hsettled, -⟩ := State.ax_looped hs h
  simp only [Loops.settled, Prod.mk.injEq] at hsettled
  obtain ⟨-, hd, hq, -⟩ := hsettled
  obtain ⟨hd', hq'⟩ := State.loopsTo_invalid hv hm hz
  exact ⟨hd.trans hd', hq.trans hq'⟩

/-- The streak of overcurrents; one that reaches its limit is a loop fault (R148). -/
theorem State.looped_streak {k : Nat} (hs : s.Sound) (h : State.Ran n ((s.runLoops e n).checkLimits e n) t)
    (hoc : (s.runLoops e n).ocStreak e n = (k, true)) : (t.ax n).safeReq.isSome = true ∧ t.bit Fld.AX_LFAULT_SEEN n.val = true ∧
      (t.motion n).loops.ocRuns = k := by
  obtain ⟨-, -, hsettled, hfault⟩ := State.ax_looped hs h
  rw [hoc] at hsettled hfault
  obtain ⟨hsafe, hseen⟩ := hfault rfl
  simp only [Loops.settled, Prod.mk.injEq] at hsettled
  exact ⟨hsafe, hseen, hsettled.2.2.2⟩

theorem State.axisRun_stopping (hs : s.Sound) (hcast : (s.eng e).castRun ≠ some n) (hloops : s.loopsRun n = true)
    (h : s.axState n = .stopping) : ((s.axisRun e n).motion n).loops.posOut = 0 := by
  have hp := State.poised_loopsBegin hs hcast
  exact State.looped_stopping hp.begun.sound (State.ran_axisRun hs hloops) (hp.begun.state.trans h)

theorem State.axisRun_invalid (hs : s.Sound) (hcast : (s.eng e).castRun ≠ some n) (hloops : s.loopsRun n = true)
    (hv : (s.eng e).port.valid = false) (hm : s.axMode n ≠ 2) (hz : (s.ax n).integZero = false) :
    ((s.axisRun e n).motion n).loops.dInt = (s.motion n).loops.dInt ∧ ((s.axisRun e n).motion n).loops.qInt = (s.motion n).loops.qInt := by
  have hp := State.poised_loopsBegin hs hcast
  have hrun : State.Ran n (((s.loopsBegin e n).runLoops e n).checkLimits e n) (s.axisRun e n) := State.ran_axisRun hs hloops
  obtain ⟨hbegun, -, hinteg, hkept, heng⟩ := hp
  have hmode : (s.loopsBegin e n).axMode n = s.axMode n := hbegun.axMode
  have hsound := hbegun.sound
  clear hbegun
  generalize s.loopsBegin e n = w at *
  generalize s.axisRun e n = t at *
  obtain ⟨-, hd, hq, -⟩ := Loops.of_settled hkept
  obtain ⟨hd', hq'⟩ := State.looped_invalid hsound hrun (by rw [heng]; exact hv) (by rw [hmode]; exact hm) (hinteg.trans hz)
  exact ⟨hd'.trans hd, hq'.trans hq⟩

theorem State.eng_runLoops : (s.runLoops e n).eng e = s.eng e := rfl

theorem State.axMode_runLoops : (s.runLoops e n).axMode n = s.axMode n := rfl

theorem State.fld_runLoops {f : Fld} {i : Nat} : (s.runLoops e n).fld f i = s.fld f i := rfl

/-- The streak of phase currents above I_TRIP, where the state before the loops is known. -/
theorem State.ocStreak_runLoops (hm : s.axMode n ≠ 2) : (s.runLoops e n).ocStreak e n =
    streakUp (decide ((s.ax n).coefI 0x06 < ((s.eng e).port.adcI 0).natAbs) || decide ((s.ax n).coefI 0x06 < ((s.eng e).port.adcI 1).natAbs) ||
      decide ((s.ax n).coefI 0x06 < ((s.eng e).port.adcI 2).natAbs)) (s.motion n).loops.ocRuns (s.fld Fld.AX_LIMCFG_OC_N n.val) := by
  have hmode : ¬((s.runLoops e n).axMode n == 2) = true := by
    rw [State.axMode_runLoops]
    simpa using hm
  have hcoef : ((s.runLoops e n).ax n).coefI 0x06 = (s.ax n).coefI 0x06 := by
    rw [State.ax_runLoops]
    rfl
  unfold State.ocStreak
  rw [if_neg hmode, hcoef, State.eng_runLoops, State.loops_runLoops, State.loopsTo_ocRuns, State.fld_runLoops]

/-- A streak that is met and reaches its limit. -/
theorem streakUp_reached {count lim : Nat} (h : lim ≤ count + 1) : streakUp true count lim = (0, true) := by
  have hreach : Nat.max 1 lim ≤ count + 1 := Nat.max_le.mpr ⟨by omega, h⟩
  simp [streakUp, hreach]

theorem Axis.mail_of_records {x y : Axis} (h : y.records = x.records) : y.mail = x.mail := congrArg (·.1) h

theorem Axis.coef_of_records {x y : Axis} (h : y.records = x.records) : y.coef = x.coef := congrArg (·.2.1) h

/-- A run that takes no record leaves the coefficients. -/
theorem State.coef_loopsBegin (hs : s.Sound) (hcast : (s.eng e).castRun ≠ some n) (hmail : (s.ax n).mail = []) :
    ((s.loopsBegin e n).ax n).coef = (s.ax n).coef := by
  have hstep : State.Ran n s (s.applyStepCfg n) := (State.Ran.refl hs).applyStepCfg
  have hmail' : ((s.applyStepCfg n).ax n).mail = [] := (Axis.mail_of_records hstep.ax.records).trans hmail
  have hfirst : State.Ran n s (s.runFirst e n) := by
    rw [State.runFirst_coef hcast, State.applyCoef_nil hmail']
    exact hstep
  have hpoint : State.Ran n s (s.loopsBegin e n) := hfirst.runNoted.followPoint
  exact Axis.coef_of_records hpoint.ax.records

/-- A phase current above I_TRIP in OC_N runs in a row is a loop fault (R148). -/
theorem State.ocStreak_trips (hs : s.Sound) (hcast : (s.eng e).castRun ≠ some n) (hm : s.axMode n ≠ 2) (hmail : (s.ax n).mail = [])
    (htrip : ∃ i ∈ [0, 1, 2], (s.ax n).coefI 0x06 < ((s.eng e).port.adcI i).natAbs)
    (hlim : s.fld Fld.AX_LIMCFG_OC_N n.val ≤ (s.motion n).loops.ocRuns + 1) :
    ((s.loopsBegin e n).runLoops e n).ocStreak e n = (0, true) := by
  have hp := State.poised_loopsBegin (e := e) hs hcast
  have hcoef : ((s.loopsBegin e n).ax n).coefI 0x06 = (s.ax n).coefI 0x06 :=
    congrArg (fun c => (Sparse.get coefReset c 0x06).toInt) (State.coef_loopsBegin hs hcast hmail)
  have hmode : (s.loopsBegin e n).axMode n ≠ 2 := by
    rw [hp.begun.axMode]
    exact hm
  have hcfg : (s.loopsBegin e n).fld Fld.AX_LIMCFG_OC_N n.val = s.fld Fld.AX_LIMCFG_OC_N n.val :=
    congrArg Fld.AX_LIMCFG_OC_N.get (hp.begun.raw _ (offRun_axis (r := .AX_LIMCFG) (by decide) (by decide) (by decide))
      ((Reg.paged_axis (by decide)).addr_ne (Reg.paged_axis (by decide)) (by decide)))
  have habove : (decide ((s.ax n).coefI 0x06 < ((s.eng e).port.adcI 0).natAbs) || decide ((s.ax n).coefI 0x06 < ((s.eng e).port.adcI 1).natAbs) ||
      decide ((s.ax n).coefI 0x06 < ((s.eng e).port.adcI 2).natAbs)) = true := by
    obtain ⟨i, hi, htrip⟩ := htrip
    simp only [Bool.or_eq_true, decide_eq_true_eq]
    simp only [List.mem_cons, List.not_mem_nil, or_false] at hi
    rcases hi with rfl | rfl | rfl
    · exact .inl (.inl htrip)
    · exact .inl (.inr htrip)
    · exact .inr htrip
  obtain ⟨-, -, -, hruns⟩ := Loops.of_settled hp.loops
  rw [State.ocStreak_runLoops hmode, hcoef, hp.eng, hcfg, habove]
  exact streakUp_reached (by rw [hruns]; exact hlim)

/-! ## The commit -/

/-- The engine and the gate of its axis through a run that loads no Cast. -/
theorem State.gateOpen_axisRun (hs : s.Sound) (hcast : (s.eng e).castRun ≠ some n) : (s.axisRun e n).gateOpen e n = s.gateOpen e n ∧
    (s.axisRun e n).servesAxis e n = s.servesAxis e n ∧ (s.axisRun e n).eng e = s.eng e := by
  have hb := State.begun_axisRun (e := e) (n := n) hs
  have heng : (s.axisRun e n).eng e = s.eng e := by rw [State.becomes_axisRun.eng, Engine.castDone, if_neg hcast]
  have hstat := hb.raw _ (Reg.ofEng_stat.offRun (e := e)) (Reg.ofEng_stat.addr_ne_axis (by decide))
  have hstate : (s.axisRun e n).engState e = s.engState e := congrArg (fun w => EngState.ofCode (Fld.ENG_STAT_STATE.get w)) hstat
  have hrole : (s.axisRun e n).engRole e = s.engRole e := congrArg Fld.ENG_STAT_ROLE.get hstat
  have hclaim : (s.axisRun e n).fld Fld.AX_FOSTAT_CLAIM n.val = s.fld Fld.AX_FOSTAT_CLAIM n.val :=
    congrArg Fld.AX_FOSTAT_CLAIM.get (hb.raw _ (offRun_axis (r := .AX_FOSTAT) (by decide) (by decide) (by decide))
      ((Reg.paged_axis (by decide)).addr_ne (Reg.paged_axis (by decide)) (by decide)))
  have hfo : (s.axisRun e n).fld Fld.ENG_FO_CLAIM e.val = s.fld Fld.ENG_FO_CLAIM e.val :=
    congrArg Fld.ENG_FO_CLAIM.get (hb.raw _ (Reg.ofEng_fo.offRun (e := e)) (Reg.ofEng_fo.addr_ne_axis (by decide)))
  refine ⟨?_, ?_, heng⟩
  · rw [State.gateOpen, heng, hfo, hstate, hclaim]
    rfl
  · rw [State.servesAxis, heng, hstate, hrole]
    rfl

end Sys2Proof.Machine
end

section
set_option Elab.async false
/-! PROOF. The switch to a handler and the run of the axis image, put together (02_engines.md R76 to R80; 04_axis_control.md R125 to R149). -/

namespace Sys2Proof.Machine

variable {s t u : State} {n : AxId} {e : EngId} {k : EvKind} {reach : RunReach}

/-! ## The switch -/

theorem State.CoreKept.refl : State.CoreKept e s s := ⟨rfl, fun _ _ => rfl, rfl, rfl⟩

/-- What a run at the entry leaves of the engine that has entered. -/
theorem State.CoreKept.core_entry (h : State.CoreKept e (s.atEntry e k) t) : (t.eng e).core = ((s.eng e).entered k).core :=
  h.core.trans (congrArg Engine.core State.eng_atEntry)

theorem State.CoreKept.bk_entry (hs : s.Sound) (h : State.CoreKept e (s.atEntry e k) t) : t.bit Fld.ENG_STAT_BK e.val = true :=
  (congrArg (fun w => Fld.ENG_STAT_BK.get w == 1) h.stat).trans (State.atEntry_bk hs)

theorem State.CoreKept.others_entry (h : State.CoreKept e (s.atEntry e k) t) : ∀ j, j ≠ e → t.eng j = s.eng j :=
  fun j hj => (h.others j hj).trans (State.becomes_atEntry.others j hj)

/-! ## The run of a chained handler -/

variable {r : MailRec} {rest : List MailRec} {id : BitVec 8} {v : BitVec 32}

/-- The state in which the run of a chained handler ends. -/
def State.chainedRun (s : State) (e : EngId) (n : AxId) (reach : RunReach) : State := ((s.begins e).axisRun e n).runEnd e reach

theorem State.chainedRun_entry : s.chainedRun e n .entry = (s.begins e).axisRun e n := State.runEnd_entry

theorem State.Chained.others (h : s.Chained e n) : ∀ m, m ≠ n → (s.chainedRun e n reach).ax m = s.ax m :=
  fun m hm => (h.ended.others m hm).trans ((State.begun_axisRun h.begins_sound).others m hm)

theorem State.Chained.shmem (h : s.Chained e n) : (s.chainedRun e n reach).shmem = s.shmem := by
  have hw : ∀ u : State, State.Within 0x95810 u (u.axisRun e n) := fun u => State.Within.refl.axisRun rfl
  exact h.ended.shmem.trans (hw _ .shmem (by decide))

/-- The Cast is loaded once (R427). -/
theorem State.Chained.cast_done (h : s.Chained e n) (hcast : (s.eng e).castRun = some n) :
    ((s.chainedRun e n reach).ax n).noted = (s.ax n).noted ∧ ((s.chainedRun e n reach).eng e).castRun = none := by
  have hcast' : ((s.begins e).eng e).castRun = some n := by rw [State.eng_begins]; exact hcast
  obtain ⟨w, hw⟩ := (h.ended (reach := reach)).eng
  refine ⟨h.ended.noted.trans (State.axisRun_cast h.begins_sound hcast'), ?_⟩
  unfold State.chainedRun
  rw [hw.eng, State.becomes_axisRun.eng, Engine.castDone, if_pos hcast']
  rfl

theorem State.Chained.castRun_ne (hcast : (s.eng e).castRun ≠ some n) : ((s.begins e).eng e).castRun ≠ some n := by
  rw [State.eng_begins]
  exact hcast

/-- The record that the run takes, and the bit that shows a pending one (R142, R143). -/
theorem State.Chained.took {m : AxId} (h : s.Chained e n) (hcast : (s.eng e).castRun ≠ some n) (hm : (s.ax n).mail = r :: rest)
    (hr : r.cmd = .setCoef m id v) :
    ((s.chainedRun e n reach).ax n).noted = ((s.ax n).took rest id v (s.coefWaits n id)).noted ∧
      (s.coefWaits n id = true → (s.chainedRun e n reach).bit Fld.AX_STATE_COEF_PEND n.val = true) := by
  obtain ⟨hnoted, hbit⟩ := State.axisRun_took h.begins_sound (State.Chained.castRun_ne hcast) hm hr
  refine ⟨h.ended.noted.trans hnoted, fun hw => Eq.trans ?_ (hbit hw)⟩
  exact congrArg (fun w => Fld.AX_STATE_COEF_PEND.get w == 1) (h.ended.raw _
    ((Reg.paged_axis (by decide)).addr_ne (Reg.paged_axis (by decide)) (by decide))
    ((Reg.paged_axis (by decide)).addr_ne (Reg.paged_axis (by decide)) (by decide)))

theorem State.coefWaits_iff : s.coefWaits n id = true ↔ s.axState n = .hold ∨ coefGroupC id.toNat = true := by
  simp [State.coefWaits]

/-- Outside HOLD only the coefficients of group C wait (R144). -/
theorem State.coefWaits_unlooped (h : s.loopsRun n = false) : s.coefWaits n id = coefGroupC id.toNat := by
  have hhold : s.axState n ≠ .hold := fun hhold => by
    rw [State.loopsRun, hhold] at h
    exact Bool.false_ne_true h.symm
  simp [State.coefWaits, hhold]

theorem Axis.coefVal_of_noted {x y : Axis} (h : y.noted = x.noted) (j : Nat) : y.coefVal j = x.coefVal j :=
  congrArg (fun c => Sparse.get coefReset c j) (congrArg (·.2.1) h : y.coef = x.coef)

/-- A coefficient that is active at once. -/
theorem Axis.coefVal_took {x : Axis} (hx : x.sound = true) : (x.took rest id v false).coefVal id.toNat = v ∧
    ∀ j, j ≠ id.toNat → (x.took rest id v false).coefVal j = x.coefVal j := by
  simp only [Axis.sound, Bool.and_eq_true] at hx
  exact ⟨Sparse.get_put_same hx.1.2, fun j hj => Sparse.get_put_ne hj⟩

theorem State.begins_coefWaits : (s.begins e).coefWaits n id = s.coefWaits n id := rfl

theorem State.begins_sampleDt : (s.begins e).sampleDt n = s.sampleDt n := rfl

/-- The completion of a record, and the only bit that a run without loops, STEP_CFGs and commit writes. -/
theorem State.Chained.plain {m : AxId} (h : s.Chained e n) (hcast : (s.eng e).castRun ≠ some n) (hm : (s.ax n).mail = r :: rest)
    (hr : r.cmd = .setCoef m id v) (hloops : s.loopsRun n = false) (hmode : s.axMode n ≠ 3) (hstep : (s.motion n).stepCfgPend = []) :
    ((s.chainedRun e n .entry).fn r.src.fn).comps = (s.fn r.src.fn).comps ++ [⟨r.src, 3, 0, if coefGroupC id.toNat then 8 else 0,
      s.sampleDt n, padTo 15 [BitVec.ofNat 8 (s.axState n).code], true⟩] ∧
    s.onlyBits (s.chainedRun e n .entry) [Fld.AX_STATE_COEF_PEND.spot n.val] := by
  obtain ⟨hcomps, hbits⟩ := State.axisRun_plain h.begins_sound (State.Chained.castRun_ne hcast) hm hr hloops hmode hstep
  rw [State.begins_coefWaits, State.begins_sampleDt, State.coefWaits_unlooped hloops] at hcomps
  have hbegins : s.onlyBits (s.begins e) [Fld.AX_STATE_COEF_PEND.spot n.val] := .of_regs .refl rfl
  rw [State.chainedRun_entry]
  refine ⟨hcomps.trans ?_, hbegins.trans hbits⟩
  cases coefGroupC id.toNat <;> rfl

/-! ## The loops of a chained handler -/

/-- What every run with loops leaves of its axis. -/
theorem State.Chained.looped (h : s.Chained e n) (hloops : s.loopsRun n = true) (hcast : (s.eng e).castRun ≠ some n) :
    ((s.chainedRun e n .entry).ax n).integZero = false ∧ ((s.chainedRun e n .entry).ax n).commits = (s.ax n).commits := by
  have hp := State.poised_loopsBegin h.begins_sound (State.Chained.castRun_ne hcast)
  obtain ⟨hcommits, hinteg, -, -⟩ := State.ax_looped hp.begun.sound (State.ran_axisRun (e := e) h.begins_sound hloops)
  have hkept := hcommits.trans hp.commits
  rw [State.chainedRun_entry]
  exact ⟨hinteg, hkept⟩

/-- Overcurrents in OC_N runs in a row ask for SAFE, and the streak begins again (R148). -/
theorem State.Chained.tripped (h : s.Chained e n) (hloops : s.loopsRun n = true) (hcast : (s.eng e).castRun ≠ some n) (hm : s.axMode n ≠ 2)
    (hmail : (s.ax n).mail = []) (htrip : ∃ i ∈ [0, 1, 2], (s.ax n).coefI 0x06 < ((s.eng e).port.adcI i).natAbs)
    (hlim : s.fld Fld.AX_LIMCFG_OC_N n.val ≤ (s.motion n).loops.ocRuns + 1) :
    ((s.chainedRun e n .entry).ax n).safeReq.isSome = true ∧ (s.chainedRun e n .entry).bit Fld.AX_LFAULT_SEEN n.val = true ∧
      ((s.chainedRun e n .entry).motion n).loops.ocRuns = 0 := by
  have hcast' := State.Chained.castRun_ne hcast
  have hp := State.poised_loopsBegin h.begins_sound hcast'
  have hstreak : (((s.begins e).loopsBegin e n).runLoops e n).ocStreak e n = (0, true) :=
    State.ocStreak_trips h.begins_sound hcast' hm hmail (by rw [State.eng_begins]; exact htrip) hlim
  rw [State.chainedRun_entry]
  exact State.looped_streak hp.begun.sound (State.ran_axisRun h.begins_sound hloops) hstreak

/-- In STOPPING the position loop does not run (R139). -/
theorem State.Chained.stopping (h : s.Chained e n) (hloops : s.loopsRun n = true) (hcast : (s.eng e).castRun ≠ some n)
    (hstop : s.axState n = .stopping) : ((s.chainedRun e n .entry).motion n).loops.posOut = 0 := by
  rw [State.chainedRun_entry]
  exact State.axisRun_stopping h.begins_sound (State.Chained.castRun_ne hcast) hloops hstop

/-- Without a valid sample the current integrators stand (R136). -/
theorem State.Chained.invalid (h : s.Chained e n) (hloops : s.loopsRun n = true) (hcast : (s.eng e).castRun ≠ some n)
    (hv : (s.eng e).port.valid = false) (hm : s.axMode n ≠ 2) (hz : (s.ax n).integZero = false) :
    ((s.chainedRun e n .entry).motion n).loops.dInt = (s.motion n).loops.dInt ∧
      ((s.chainedRun e n .entry).motion n).loops.qInt = (s.motion n).loops.qInt := by
  rw [State.chainedRun_entry]
  exact State.axisRun_invalid h.begins_sound (State.Chained.castRun_ne hcast) hloops (by rw [State.eng_begins]; exact hv) hm hz

theorem State.gateOpen_begins : (s.begins e).gateOpen e n = s.gateOpen e n := by
  unfold State.gateOpen
  rw [State.eng_begins]
  rfl

/-- The commit of a run with loops (R125, R149). -/
theorem State.Chained.committed (h : s.Chained e n) (hloops : s.loopsRun n = true) (hcast : (s.eng e).castRun ≠ some n)
    (hgate : s.gateOpen e n = true) : ((s.chainedRun e n .commit).ax n).commits = (s.ax n).commits ++
      [{ vals := (s.chainedRun e n .entry).imageOut n, tag := (s.eng e).port.seq, eng := e, at_ := s.tick }] := by
  obtain ⟨hopen, hserves, heng⟩ := State.gateOpen_axisRun h.begins_sound (State.Chained.castRun_ne hcast)
  obtain ⟨-, hkept⟩ := h.looped hloops hcast
  have hbegun : State.Begun n (s.begins e) ((s.begins e).axisRun e n) := State.begun_axisRun h.begins_sound
  have hw : ∀ u : State, State.Within 0x95810 u (u.axisRun e n) := fun u => State.Within.refl.axisRun rfl
  have htick : ((s.begins e).axisRun e n).tick = s.tick := hw _ .tick (by decide)
  have hport : (((s.begins e).axisRun e n).eng e).port = (s.eng e).port := by rw [heng, State.eng_begins]; rfl
  have hoff : ((s.begins e).axisRun e n).axState n ≠ .off := by
    rw [hbegun.state]
    exact State.loopsRun_not_off hloops
  have hn : (((s.begins e).axisRun e n).eng e).curAxis = n := by rw [heng]; exact h.curAxis
  have hcommit : s.chainedRun e n .commit = ((s.begins e).axisRun e n).imageCommit e n :=
    State.runEnd_commit hn (hserves.trans h.serves_begins)
  rw [State.chainedRun_entry] at hkept ⊢
  rw [hcommit, State.imageCommit_commits hn (hopen.trans (State.gateOpen_begins.trans hgate)) hoff, hkept, State.commitOf, hport, htick]

end Sys2Proof.Machine

open Sys2Proof Sys2Proof.Machine

/-- Settles O16: the engine at the entry of its handler, and the run of the axis image taken apart into its first acts (`State.runFirst`), its
loops and limit checks (`State.loopsBegin`, `State.ax_looped`) and its commit (`State.imageCommit_commits`). -/
theorem handlersAndCoefficients : Obligations.HandlersAndCoefficients := by
  unfold Obligations.HandlersAndCoefficients
  refine ⟨?_, ?_, ?_⟩
  · intro s e reach hs hruns hdue hhandler hrpt x n entered quiet
    have hidle : s.Idles e := ⟨hruns, hdue, hhandler, hrpt⟩
    have hentered : ∀ k t, State.CoreKept e (s.atEntry e k) t → entered k t := fun k t h => by
      have hcore := h.core_entry
      simp only [Engine.core, Prod.mk.injEq] at hcore
      obtain ⟨hh, hused, hret, hlong, hheld, hwait, hstep, hpc, hpend, h0, h1, hdmem, hport⟩ := hcore
      exact ⟨hh, hused, hret, hlong, hheld, hwait, hstep, hpc, hpend, h0, h1, hdmem, (congrArg (·.evKind) hport),
        (congrArg (·.evSrc) hport), h.bk_entry hs, h.others_entry⟩
    refine ⟨fun hq k hk hsample hrelease => ?_, fun hq hk _ _ _ => ?_, execHandlerEntry_none hidle, State.nextEvent_sample, State.nextEvent_group⟩
    · have hrun := State.imageRun_atEntry (reach := reach) hs hsample hrelease
      exact ⟨_, (execHandlerEntry_some hidle hq hk).trans (congrArg _ hrun), hentered k _ .refl, State.onlyBits_atEntry hs, rfl, rfl, rfl⟩
    · have hkept : State.CoreKept e (s.atEntry e .sample) ((s.atEntry e .sample).imageRun e reach) :=
        State.coreKept_imageRun hs.atEntry (by rw [State.eng_atEntry]; rfl)
      exact ⟨_, execHandlerEntry_some hidle hq hk, hentered _ _ hkept, hkept.shmem⟩
  · intro s e n r rest id v reach hs hdue hhandler hchained hserves hm hr pend
    have hrun : s.Chained e n := ⟨hs, hdue, hhandler, hchained, hserves⟩
    refine ⟨s.chainedRun e n reach, hrun.exec_eq, hrun.others, hrun.shmem, fun hcast => ?_, fun hcast => ?_⟩
    · obtain ⟨hnoted, hdone⟩ := hrun.cast_done (reach := reach) hcast
      exact ⟨(congrArg (·.1) hnoted).trans hm, congrArg (·.2.1) hnoted, hdone⟩
    · obtain ⟨hnoted, hbit⟩ := hrun.took (reach := reach) hcast hm hr
      refine ⟨(congrArg (·.1) hnoted).trans Axis.took_mail, fun hp => ?_, fun hp => ?_, fun hloops hmode hstep hreach => ?_⟩
      · have hw : s.coefWaits n id = true := State.coefWaits_iff.mpr hp
        rw [hw] at hnoted
        exact ⟨congrArg (·.2.2) hnoted, congrArg (·.2.1) hnoted, hbit hw⟩
      · have hw : s.coefWaits n id = false := Bool.eq_false_iff.mpr (mt State.coefWaits_iff.mp hp)
        rw [hw] at hnoted
        obtain ⟨hsame, hother⟩ := Axis.coefVal_took (rest := rest) (id := id) (v := v) (hs.ax n)
        exact ⟨(Axis.coefVal_of_noted hnoted _).trans hsame, fun j hj => (Axis.coefVal_of_noted hnoted j).trans (hother j hj),
          congrArg (·.2.2) hnoted⟩
      · rw [hreach]
        exact hrun.plain hcast hm hr hloops hmode hstep
  · intro s e n hs hdue hhandler hchained hserves hloops hcast p valid
    have hrun : s.Chained e n := ⟨hs, hdue, hhandler, hchained, hserves⟩
    obtain ⟨hinteg, hcommits⟩ := hrun.looped hloops hcast
    exact ⟨s.chainedRun e n .entry, hrun.exec_eq, hrun.others, hrun.shmem, hinteg, hcommits, hrun.stopping hloops hcast,
      hrun.invalid hloops hcast, hrun.tripped hloops hcast,
      fun hgate => ⟨s.chainedRun e n .commit, hrun.exec_eq, hrun.committed hloops hcast hgate⟩⟩
end

section
set_option Elab.async false
/-! PROOF. Compares, FCMP, NORM and NORMA (03_engine_instructions.md R104, R107, R114). -/

namespace Sys2Proof.Machine

variable {s : State} {e : EngId}

/-! ## Redundant sign bits -/

theorem getLsbD_eq_toInt_ediv {w n : Nat} (a : BitVec w) (h : n < w) : a.getLsbD n = decide (a.toInt / 2 ^ n % 2 = 1) := by
  have hw : (2 : Int) ∣ ((2 ^ w : Nat) : Int) := by exact_mod_cast dvd_pow_self 2 (by omega)
  have hbit : a.getLsbD n = (BitVec.ofInt w (a.toInt / 2 ^ n)).getLsbD 0 := by
    rw [← sshiftRight_eq_ofInt, BitVec.getLsbD_sshiftRight, if_pos (by omega), decide_eq_false (by omega), Bool.not_false, Bool.true_and,
      Nat.add_zero]
  have hpos : (0 : Int) < ((2 ^ w : Nat) : Int) := by positivity
  have hmod := Int.emod_emod_of_dvd (a.toInt / 2 ^ n) hw
  have hnn := Int.emod_nonneg (a.toInt / 2 ^ n) hpos.ne'
  rw [hbit, BitVec.getLsbD, BitVec.toNat_ofInt, Nat.testBit_zero]
  exact decide_eq_decide.mpr (by omega)

/-- A shift by `k` keeps the value in range where the value has `k` bits to spare. -/
theorem outside_mul_pow_eq_false {n k : Nat} {v : Int} :
    outside (n + k + 1) (v * 2 ^ k) = false ↔ -2 ^ n ≤ v ∧ v < 2 ^ n := by
  have hp : (0 : Int) < 2 ^ k := by positivity
  rw [outside_eq_false, Nat.add_sub_cancel, pow_add, ← neg_mul, mul_le_mul_iff_left₀ hp, mul_lt_mul_iff_left₀ hp]

/-- One more shift keeps the range exactly where the bit below the sign is equal to it. -/
theorem outside_succ_eq_false {w k : Nat} {a : BitVec w} (hk : k + 1 < w) (h : outside w (a.toInt * 2 ^ k) = false) :
    outside w (a.toInt * 2 ^ (k + 1)) = false ↔ a.getLsbD (w - 2 - k) = a.msb := by
  obtain ⟨n, rfl⟩ : ∃ n, w = n + 1 + k + 1 := ⟨w - 2 - k, by omega⟩
  have hp : (0 : Int) < 2 ^ n := by positivity
  obtain ⟨hlo, hhi⟩ := outside_mul_pow_eq_false.mp h
  have hlo' : -2 ≤ a.toInt / 2 ^ n := (Int.le_ediv_iff_mul_le hp).mpr (by rw [pow_succ] at hlo; omega)
  have hhi' : a.toInt / 2 ^ n < 2 := (Int.ediv_lt_iff_lt_mul hp).mpr (by rw [pow_succ] at hhi; omega)
  have hlow : -2 ^ n ≤ a.toInt ↔ -1 ≤ a.toInt / 2 ^ n := by rw [Int.le_ediv_iff_mul_le hp, neg_one_mul]
  have hhigh : a.toInt < 2 ^ n ↔ a.toInt / 2 ^ n < 1 := by rw [Int.ediv_lt_iff_lt_mul hp, one_mul]
  have hneg : a.toInt < 0 ↔ a.toInt / 2 ^ n < 0 := by rw [Int.ediv_lt_iff_lt_mul hp, zero_mul]
  have hwidth : n + 1 + k + 1 = n + (k + 1) + 1 := by omega
  have hindex : n + 1 + k + 1 - 2 - k = n := by omega
  have hrange : outside (n + 1 + k + 1) (a.toInt * 2 ^ (k + 1)) = false ↔ -2 ^ n ≤ a.toInt ∧ a.toInt < 2 ^ n := by
    rw [congrArg outside hwidth]
    exact outside_mul_pow_eq_false
  rw [hrange, hindex, getLsbD_eq_toInt_ediv a (by omega), BitVec.msb_eq_toInt, decide_eq_decide, hlow, hhigh, hneg]
  omega

/-- A shift that loses the sign is not mended by a longer one. -/
theorem outside_mul_pow_mono {w i j : Nat} {v : Int} (hij : i ≤ j) (h : outside w (v * 2 ^ i) = true) : outside w (v * 2 ^ j) = true := by
  obtain ⟨d, rfl⟩ := Nat.exists_eq_add_of_le hij
  have hd : (1 : Int) ≤ 2 ^ d := one_le_pow₀ (by decide)
  by_contra hn
  obtain ⟨hlo, hhi⟩ := outside_eq_false.mp (Bool.not_eq_true _ ▸ hn)
  rw [pow_add, ← mul_assoc] at hlo hhi
  have hp : (0 : Int) < 2 ^ (w - 1) := by positivity
  have hin : outside w (v * 2 ^ i) = false := outside_eq_false.mpr ⟨by nlinarith, by nlinarith⟩
  simp [hin] at h

/-- The count of R107 stops at the first bit below the sign that differs from it. -/
theorem redundantSign_spec {w : Nat} (a : BitVec w) : redundantSign a ≤ w - 1 ∧
    (∀ i < redundantSign a, a.getLsbD (w - 2 - i) = a.msb) ∧
    (redundantSign a < w - 1 → a.getLsbD (w - 2 - redundantSign a) ≠ a.msb) := by
  set p : Nat → Bool := fun i => a.getLsbD (w - 2 - i) == a.msb
  have hfind : redundantSign a = (List.range (w - 1)).findIdx fun i => !p i := by
    rw [redundantSign, List.takeWhile_eq_take_findIdx_not, List.length_take]
    exact min_eq_left List.findIdx_le_length
  have hle : redundantSign a ≤ w - 1 := by
    rw [hfind]
    exact List.findIdx_le_length.trans_eq List.length_range
  refine ⟨hle, fun i hi => ?_, fun hlt => ?_⟩
  · have hnot := List.not_of_lt_findIdx (hfind ▸ hi)
    simpa [p] using hnot
  · have hlen : (List.range (w - 1)).findIdx (fun i => !p i) < (List.range (w - 1)).length := by rwa [← hfind, List.length_range]
    have hstop := List.findIdx_getElem (w := hlen)
    rw [List.getElem_range, ← hfind] at hstop
    simpa [p] using hstop

theorem isRedundant_redundantSign {w : Nat} (a : BitVec w) (hw : 0 < w) : isRedundant w a.toInt (redundantSign a) := by
  obtain ⟨hle, hbits, hstop⟩ := redundantSign_spec a
  have hfits : ∀ k ≤ redundantSign a, outside w (a.toInt * 2 ^ k) = false := by
    intro k
    induction k with
    | zero => intro _; rw [pow_zero, mul_one]; exact outside_toInt a
    | succ k ih => intro hk; exact (outside_succ_eq_false (by omega) (ih (by omega))).mpr (hbits k hk)
  refine ⟨by omega, hfits _ le_rfl, fun j hj hjw => outside_mul_pow_mono hj ?_⟩
  exact eq_true_of_ne_false (mt (outside_succ_eq_false (by omega) (hfits _ le_rfl)).mp (hstop (by omega)))

/-! ## Flags of a difference -/

/-- The wrapped difference is zero for equal operands alone. -/
theorem sub_beq_zero {w : Nat} (a b : BitVec w) : (a - b == 0) = (a == b) := by
  rw [Bool.eq_iff_iff, beq_iff_eq, beq_iff_eq, sub_eq_zero]

theorem cmpFlags_eq (a b : BitVec 16) :
    cmpFlags a b = cond (a == b) (a - b).msb (decide (b.toNat ≤ a.toNat)) (outside 16 (a.toInt - b.toInt)) := by
  simp only [cmpFlags, sub_beq_zero, ovfQ_eq_outside]

theorem cmpaFlags_eq (a b : BitVec 40) :
    cmpaFlags a b = cond (a == b) (a - b).msb (decide (b.toNat ≤ a.toNat)) (outside 40 (a.toInt - b.toInt)) := by
  simp only [cmpaFlags, sub_beq_zero, ovfA_eq_outside]

theorem cmppFlags_eq (a b : BitVec 16) : cmppFlags a b = cond (a == b) (a - b).msb (decide (b.toNat ≤ a.toNat)) false := by
  simp only [cmppFlags, sub_beq_zero]

/-! ## The order of the F lane -/

/-- The value of a magnitude: the exponent in its bits from 23, the fraction below them. -/
def magRank (m : Nat) : ℚ := (2 ^ 23 + (m % 2 ^ 23 : Nat)) * 2 ^ ((m / 2 ^ 23 : Nat) - 150 : ℤ)

theorem magRank_pos (m : Nat) : 0 < magRank m := by unfold magRank; positivity

/-- The next magnitude is the next fraction, or the first fraction of the next exponent. -/
theorem magRank_strictMono : StrictMono magRank := by
  refine strictMono_nat_of_lt_succ fun m => ?_
  unfold magRank
  by_cases hc : m % 2 ^ 23 + 1 < 2 ^ 23
  · have hfrac : (m + 1) % 2 ^ 23 = m % 2 ^ 23 + 1 := by omega
    have hexp : (m + 1) / 2 ^ 23 = m / 2 ^ 23 := by omega
    rw [hfrac, hexp]
    exact mul_lt_mul_of_pos_right (by push_cast; linarith) (by positivity)
  · have hfrac : (m + 1) % 2 ^ 23 = 0 := by omega
    have hexp : (m + 1) / 2 ^ 23 = m / 2 ^ 23 + 1 := by omega
    have hlt : ((m % 2 ^ 23 : Nat) : ℚ) < 2 ^ 23 := by exact_mod_cast Nat.mod_lt m (by decide)
    have hnext : ((m / 2 ^ 23 + 1 : Nat) - 150 : ℤ) = ((m / 2 ^ 23 : Nat) - 150 : ℤ) + 1 := by push_cast; ring
    have hp : (0 : ℚ) < 2 ^ ((m / 2 ^ 23 : Nat) - 150 : ℤ) := by positivity
    rw [hfrac, hexp, hnext, zpow_add_one₀ (by norm_num)]
    calc (2 ^ 23 + ((m % 2 ^ 23 : Nat) : ℚ)) * 2 ^ ((m / 2 ^ 23 : Nat) - 150 : ℤ)
        < (2 ^ 23 + 2 ^ 23) * 2 ^ ((m / 2 ^ 23 : Nat) - 150 : ℤ) := mul_lt_mul_of_pos_right (by linarith) hp
      _ = (2 ^ 23 + (0 : Nat)) * (2 ^ ((m / 2 ^ 23 : Nat) - 150 : ℤ) * 2) := by rw [Nat.cast_zero]; ring

/-- The value of a signed magnitude. -/
def keyRank (z : Int) : ℚ := z.sign * magRank z.natAbs

theorem keyRank_strictMono : StrictMono keyRank := by
  refine strictMono_of_odd_strictMonoOn_nonneg (fun z => by simp [keyRank]) fun x hx y _ hxy => ?_
  have hy : 0 < y := lt_of_le_of_lt hx hxy
  have hmag : magRank x.natAbs < magRank y.natAbs := magRank_strictMono (by have := Set.mem_Ici.mp hx; omega)
  rw [keyRank, keyRank, Int.sign_eq_one_of_pos hy]
  rcases (Set.mem_Ici.mp hx).eq_or_lt with rfl | hpos
  · simpa using magRank_pos _
  · simpa [Int.sign_eq_one_of_pos hpos] using hmag

/-- What FCMP orders a word by: its signed magnitude, zero for a subnormal. -/
def fOrd (w : BitVec 32) : Int := if fExp w = 0 then 0 else (if fSign w then fKey w + 1 else fKey w)

theorem magnitude_eq (w : BitVec 32) : (w.extractLsb' 0 31).toNat = fExp w * 2 ^ 23 + fFrac w := by
  simp only [fExp, fFrac, BitVec.extractLsb'_toNat, Nat.shiftRight_eq_div_pow]
  omega

theorem fOrd_of_normal {w : BitVec 32} (h : fExp w ≠ 0) :
    fOrd w = (if fSign w then -1 else 1) * ((fExp w * 2 ^ 23 + fFrac w : Nat) : Int) := by
  rw [fOrd, fKey, if_neg h, if_neg h, magnitude_eq]
  split <;> omega

theorem fRank_eq_keyRank (w : BitVec 32) : fRank w = keyRank (fOrd w) := by
  have h0 : w.extractLsb' 23 8 = 0 ↔ fExp w = 0 := (BitVec.toNat_inj (y := 0)).symm
  by_cases hz : fExp w = 0
  · rw [fRank, if_pos (h0.mpr hz), fOrd, if_pos hz]
    simp [keyRank]
  · have hfrac : fFrac w < 2 ^ 23 := (w.extractLsb' 0 23).isLt
    have hpos : 0 < fExp w * 2 ^ 23 + fFrac w := by omega
    have hmag : magRank (fExp w * 2 ^ 23 + fFrac w) = (2 ^ 23 + fFrac w) * 2 ^ ((fExp w : ℤ) - 150) := by
      rw [magRank, show (fExp w * 2 ^ 23 + fFrac w) % 2 ^ 23 = fFrac w by omega,
        show (fExp w * 2 ^ 23 + fFrac w) / 2 ^ 23 = fExp w by omega]
    have hrank : fRank w = (if fSign w then -1 else 1) * magRank (fExp w * 2 ^ 23 + fFrac w) := by
      rw [fRank, if_neg (mt h0.mp hz), hmag, ← mul_assoc]
      rfl
    rw [hrank, fOrd_of_normal hz, keyRank]
    have hsign : ((fExp w * 2 ^ 23 + fFrac w : Nat) : Int).sign = 1 := Int.sign_eq_one_of_pos (by exact_mod_cast hpos)
    cases fSign w with
    | false => rw [if_neg (by simp), if_neg (by simp), one_mul, one_mul, hsign, Int.natAbs_natCast, Int.cast_one, one_mul]
    | true => rw [if_pos rfl, if_pos rfl, neg_one_mul, neg_one_mul, Int.sign_neg, hsign, Int.natAbs_neg, Int.natAbs_natCast,
        Int.cast_neg, Int.cast_one, neg_one_mul]

/-- FCMP by value; an unordered compare is V alone, and FI. -/
theorem fCmp_eq (a b : BitVec 32) : fCmp a b =
    if fNaN a || fNaN b then (cond false false false true, Sticky.fi)
    else (cond (decide (fRank a = fRank b)) (decide (fRank a < fRank b)) (decide (fRank b ≤ fRank a)) false, Sticky.none) := by
  have hcmp : fCmp a b = if fIsNaN a || fIsNaN b then (8, Sticky.fi)
      else if fOrd a < fOrd b then (2, Sticky.none) else if fOrd a = fOrd b then (5, Sticky.none) else (4, Sticky.none) := rfl
  simp only [hcmp, fIsNaN_eq, fRank_eq_keyRank, keyRank_strictMono.lt_iff_lt, keyRank_strictMono.le_iff_le,
    keyRank_strictMono.injective.eq_iff]
  congr 1
  rcases lt_trichotomy (fOrd a) (fOrd b) with h | h | h
  · rw [if_pos h, decide_eq_false h.ne, decide_eq_true h, decide_eq_false h.not_ge]
    rfl
  · rw [if_neg h.not_lt, if_pos h, decide_eq_true h, decide_eq_false h.not_lt, decide_eq_true h.ge]
    rfl
  · rw [if_neg h.not_gt, if_neg h.ne', decide_eq_false h.ne', decide_eq_false h.not_gt, decide_eq_true h.le]
    rfl

/-! ## Issue -/

/-- A plain instruction that writes condition flags alone, and a sticky flag. -/
theorem State.issueRes_putCond {f : EngBank → Bool → List Res_} {z n c v : Bool} {t : Sticky} (h : s.Ready e)
    (hf : f (s.eng e).cur (s.eng e).cur.satOn = resCond (cond z n c v) t) :
    s.issueRes e f = s.setEng e ((s.eng e).after (fun b => (b.putCond z n c v).stick t) []) := State.issueRes_lands h hf rfl rfl

/-- A value of latency 1 that sets no flag. -/
def EngDest.value (d : EngDest) : Res_ := { lat := 1, dest := d }

/-- Such values land one after the other. -/
theorem settle_values (x : Engine) (ds : List EngDest) :
    settle ((ds.map EngDest.value).map x.fly) = fun b => ds.foldl (fun b d => d.put b) b := by
  funext b
  simp only [settle, List.foldl_map, Engine.fly, EngDest.value, EngBank.condIf, EngBank.stick_none, List.foldl_fixed]

/-- A plain instruction with values of latency 1 and results that fly. -/
theorem State.issue_values {f : State → Engine → Issue} {ds : List EngDest} {later : List Res_} (h : s.Ready e)
    (hds : ∀ d ∈ ds, d.inBank = true) (hlater : ∀ r ∈ later, 1 < r.lat ∧ r.dest.inBank = true)
    (hf : f s (s.eng e) = .done s (ds.map EngDest.value ++ later)) :
    s.issue e f = s.setEng e ((s.eng e).after (fun b => ds.foldl (fun b d => d.put b) b) (later.map (s.eng e).fly)) := by
  have hbank : ∀ r ∈ ds.map EngDest.value ++ later, r.dest.inBank = true := fun r hr =>
    (List.mem_append.mp hr).elim (fun hv => by obtain ⟨d, hd, rfl⟩ := List.mem_map.mp hv; exact hds d hd) fun hl => (hlater r hl).2
  have hnow : ∀ g ∈ (ds.map EngDest.value).map (s.eng e).fly, decide (g.due ≤ (s.eng e).step) = true := by
    simp [EngDest.value, Engine.fly]
  have hfly : ∀ g ∈ later.map (s.eng e).fly, decide (g.due ≤ (s.eng e).step) = false := fun g hg => by
    obtain ⟨r, hr, rfl⟩ := List.mem_map.mp hg
    have hlat := (hlater r hr).1
    exact decide_eq_false (by show ¬ (s.eng e).step + r.lat - 1 ≤ (s.eng e).step; omega)
  rw [State.issue_plain h hf hbank, List.map_append, List.filter_append, List.filter_append,
    List.filter_eq_self.mpr hnow, List.filter_eq_nil_iff.mpr fun g hg => by simp [hfly g hg],
    List.filter_eq_nil_iff.mpr fun g hg => by simp [hnow g hg], List.filter_eq_self.mpr fun g hg => by simp [hfly g hg],
    List.append_nil, List.nil_append, settle_values]

end Sys2Proof.Machine

open Sys2Proof Sys2Proof.Machine

/-- Settles O3: a compare writes condition flags alone, FCMP by the strictly monotone value of the signed magnitude; the count of NORM and NORMA
stops at the first bit that differs from the sign, where one more shift leaves the range. -/
theorem comparesAndNormalise : Obligations.ComparesAndNormalise := by
  refine ⟨fun s e a b imm aa ab pa pb fa fb h => ?compares, fun s e d a aa h => ?normalise⟩
  case compares =>
    intro x k i ends u w
    have hends {c : Instr} {f : EngBank → Bool → List Res_} {z n c' v : Bool} (hc : exec c s = .next (s.issueRes e f))
        (hf : f k k.satOn = resCond (cond z n c' v)) : ends c fun q => q.putCond z n c' v := by
      refine hc.trans (congrArg _ ((State.issueRes_putCond h hf).trans ?_))
      simp only [EngBank.stick_none]
      rfl
    refine ⟨hends rfl (congrArg resCond (cmpFlags_eq ..)), hends rfl (congrArg resCond (cmpFlags_eq ..)),
      hends rfl (congrArg resCond (cmpaFlags_eq ..)), hends rfl (congrArg resCond (cmppFlags_eq ..)), ?_⟩
    have hcmp := fCmp_eq u w
    cases hnan : fNaN u || fNaN w with
    | false =>
      rw [hnan, if_neg (by simp)] at hcmp
      simp only [Bool.false_eq_true, if_false]
      exact hends rfl (congrArg (fun r => resCond r.1 r.2) hcmp)
    | true =>
      rw [hnan, if_pos rfl] at hcmp
      simp only [if_true]
      exact congrArg _ (State.issueRes_putCond h (congrArg (fun r => resCond r.1 r.2) hcmp))
  case normalise =>
    intro x k
    refine ⟨fun hd => ⟨_, isRedundant_redundantSign k.h[a] (by decide), ?_⟩, fun hd => ?_,
      ⟨_, isRedundant_redundantSign k.a[aa] (by decide), congrArg _ (State.issueRes_lands_plain (d := .h d _) h rfl rfl)⟩⟩
    · rw [← shiftLeft_eq_ofInt]
      exact congrArg _ (State.issue_values (ds := [.h d _, .h (d + 1) _]) (later := []) h (by simp [EngDest.inBank]) (by simp)
        (if_neg (by omega)))
    · exact congrArg _ (State.issue_fault h (if_pos hd))
end

section
set_option Elab.async false
/-! PROOF. MACM and MSUM (03_engine_instructions.md R108). -/

namespace Sys2Proof.Machine

variable {s : State} {e : EngId}

/-! ## The operands -/

/-- A pointer to a half-word of local data memory of good parity (R59, R116). -/
def Engine.goodWord (x : Engine) (p : PReg) : Prop :=
  (x.cur.p[p]).toNat + 2 ≤ 0x2000 ∧ (x.cur.p[p]).toNat % 2 = 0 ∧ x.badD.contains (x.cur.p[p]).toNat = false ∧
    x.badD.contains ((x.cur.p[p]).toNat + 1) = false

theorem State.localAccess_goodWord {p : PReg} (h : (s.eng e).goodWord p) :
    s.localAccess e ((s.eng e).cur.p[p]).toNat 2 = .dmem ((s.eng e).cur.p[p]).toNat := by
  obtain ⟨hend, hal, hlow, hhigh⟩ := h
  have hpar : ((List.range 2).any fun i => (s.eng e).badD.contains (((s.eng e).cur.p[p]).toNat + i)) = false := by
    rw [List.any_eq_false]
    intro i hi
    obtain rfl | rfl : i = 0 ∨ i = 1 := by have := List.mem_range.mp hi; omega
    · exact ne_true_of_eq_false hlow
    · exact ne_true_of_eq_false hhigh
  rw [State.localAccess, State.isLocal_local (by omega), if_pos rfl, State.access_local (by decide) hend hal, hpar]
  rfl

/-- The half-word that a pointer finds in local data memory, as a signed number. -/
def Engine.wordAt (x : Engine) (p : PReg) : Int := (BitVec.ofNat 16 (Mem.load x.dmem (x.cur.p[p]).toNat 2)).toInt

/-- The accumulator of an execution: under PAIR, the even executions of an RPT body take the one of the other parity. -/
def Engine.accOf (x : Engine) (d : AReg) (pair : Bool) : AReg :=
  if (match x.rpt with
    | some r => pair && (r.index - 1) % 2 == 1
    | none => false) then ⟨d.val ^^^ 1, Nat.xor_lt_two_pow (n := 2) d.isLt (by decide)⟩ else d

theorem Engine.accOf_unpaired (x : Engine) (d : AReg) : x.accOf d false = d := by
  unfold Engine.accOf
  cases x.rpt <;> rfl

/-! ## The results -/

/-- An accumulator with the product of the two words added or subtracted, before it is narrowed. -/
def Engine.accumulated (x : Engine) (sub : Bool) (acc : AReg) (a b : PReg) : Int :=
  if sub then (x.cur.a[acc]).toInt - x.wordAt a * x.wordAt b else (x.cur.a[acc]).toInt + x.wordAt a * x.wordAt b

/-- A pointer advanced by one half-word. -/
def Engine.advanced (x : Engine) (p : PReg) : BitVec 16 := circ x.cur.p[p] x.cb[p] x.cl[p] 2

/-- The pointers that advance, one where both are the same. -/
def Engine.bothAdvanced (x : Engine) (a b : PReg) : List EngDest :=
  if a = b then [.p a (x.advanced a)] else [.p a (x.advanced a), .p b (x.advanced b)]

theorem Engine.bothAdvanced_inBank (x : Engine) (a b : PReg) : ∀ d ∈ x.bothAdvanced a b, d.inBank = true := by
  unfold Engine.bothAdvanced
  split <;> simp [EngDest.inBank]

theorem Engine.bothAdvanced_put (x : Engine) (a b : PReg) (q : EngBank) : (x.bothAdvanced a b).foldl (fun q d => d.put q) q =
    if a = b then q.putP a (x.advanced a) else (q.putP a (x.advanced a)).putP b (x.advanced b) := by
  unfold Engine.bothAdvanced
  split <;> rfl

/-- The engine after MACM or MSUM: the pointers have advanced, and the narrowed result flies. -/
def Engine.afterMac (x : Engine) (sub : Bool) (acc : AReg) (a b : PReg) : Engine :=
  let v := x.accumulated sub acc a b
  x.after (fun q => if a = b then q.putP a (x.advanced a) else (q.putP a (x.advanced a)).putP b (x.advanced b))
    [x.inFlight 2 (.a acc (narrow x.cur.satOn 40 v)) (if outside 40 v then Sticky.av else Sticky.none)]

theorem State.memMac_goodWords {sub pair : Bool} {d : AReg} {a b : PReg} (h : s.Ready e) (ha : (s.eng e).goodWord a)
    (hb : (s.eng e).goodWord b) :
    memMac sub e d a b pair s = s.setEng e ((s.eng e).afterMac sub ((s.eng e).accOf d pair) a b) := by
  simp only [Engine.afterMac, ← Engine.bothAdvanced_put]
  refine State.issue_values h (Engine.bothAdvanced_inBank _ a b)
    (later := resA _ (accExact _ ((s.eng e).accumulated sub ((s.eng e).accOf d pair) a b))) (by simp [resA, EngDest.inBank]) ?_
  dsimp only
  rw [State.localAccess_goodWord ha, State.localAccess_goodWord hb, ← aRes_eq_accExact, Engine.bothAdvanced]
  by_cases hab : a = b
  · simp only [if_pos hab]; rfl
  · simp only [if_neg hab]; rfl

end Sys2Proof.Machine

open Sys2Proof Sys2Proof.Machine

/-- Settles O11: both words are local and good, so the pointers advance at once and the sum or difference flies for two steps. -/
theorem memoryMultiplyAccumulate : Obligations.MemoryMultiplyAccumulate := by
  intro s e d a b pair h x k ok ha hb word prod odd tgt step2 ends
  have hmsum := State.memMac_goodWords (sub := true) (pair := false) (d := d) h ha hb
  rw [Engine.accOf_unpaired] at hmsum
  exact ⟨congrArg _ (State.memMac_goodWords (sub := false) h ha hb), congrArg _ hmsum,
    congrArg _ (State.issue_fault (f := fun _ _ => .fault .opcode) h rfl)⟩
end
